-- ==== Sys2Proof/Word.lean ====
section
/-! DEFINITION. The machine words of the panel and their plainest arithmetic. -/

namespace Sys2Proof

/-- A 64-bit register of the control slice, an address register, a device register (R46, R187). -/
abbrev Word := BitVec 64

/-- One byte of memory. -/
abbrev Byte := BitVec 8

/-- One 32-bit cell of a vector register (R264). -/
abbrev Cell32 := BitVec 32

/-- One 40-bit accumulator element (R83). -/
abbrev Acc40 := BitVec 40

/-- The number a bit stands for. -/
def bit (b : Bool) : Nat := if b then 1 else 0

end Sys2Proof
end

