-- ==== Sys2Proof/Syntax.lean ====
section
/-! DEFINITION. The instructions and events of the panel, one constructor of Instr per row of
spec/opcode_table.json. A control word carries its landing bit and the prefix word before it (R54: the two
are one unit); a data word carries its restart mark and idle count (R57); every other field is the number
the encoding holds. An event carries the place it happens at and what the environment supplies. -/

namespace Sys2Proof

/-- A prefix word (R50): every field as it stands in the word. -/
structure Pfx where
  l : Bool
  rmv : Bool
  rm : Nat
  satv : Bool
  sat : Bool
  ftzv : Bool
  ftz : Bool
  scv : Bool
  scope : Nat
  ord : Nat
deriving DecidableEq, Repr, Inhabited

/-- What every control word carries: the landing bit L (R46) and the prefix before it, if any (R54). -/
structure CHdr where
  l : Bool := false
  pfx : Option Pfx := none
deriving DecidableEq, Repr, Inhabited

/-- The header of a data word: the restart mark K and the idle count (R57). -/
structure DHdr where
  k : Bool := false
  idle : Nat := 0
deriving DecidableEq, Repr, Inhabited

/-- The fields of format D-R but for FN (R58). -/
structure DR where
  ftz : Bool := false
  sat : Bool := false
  view : Nat := 0
  rm : Nat := 0
  men : Bool := false
  km : Nat := 0
  vb : Nat := 0
  va : Nat := 0
  vd : Nat := 0
deriving DecidableEq, Repr, Inhabited

/-- The fields of format D-M (R59). -/
structure DM where
  fn : Nat := 0
  off : Nat := 0
  men : Bool := false
  km : Nat := 0
  lat : Nat := 0
  pi : Bool := false
  lc : Nat := 0
  swz : Nat := 0
  xa : Nat := 0
  reg : Nat := 0
deriving DecidableEq, Repr, Inhabited

/-- The fields of format D-G but for FN (R60). -/
structure DG where
  swz : Nat := 0
  men : Bool := false
  km : Nat := 0
  cnt : Nat := 0
  ring : Nat := 0
  reg : Nat := 0
deriving DecidableEq, Repr, Inhabited

/-- The fields of the copy engine's transfer words (R231). -/
structure DX where
  cen : Bool := false
  scope : Nat := 0
  dsp : Nat := 0
  ssp : Nat := 0
  xb : Nat := 0
  xn : Nat := 0
  xs : Nat := 0
  xd : Nat := 0
deriving DecidableEq, Repr, Inhabited

/-- The fields of `mma` (R301). -/
structure DMma where
  fus : Nat := 0
  fmt : Nat := 0
  zc : Bool := false
  aq : Nat := 0
  scb : Nat := 0
  bc : Bool := false
  bof : Nat := 0
  ac : Bool := false
  aof : Nat := 0
  rb : Nat := 0
  ra : Nat := 0
  ad : Nat := 0
deriving DecidableEq, Repr, Inhabited

/-- The arithmetic part of an NMU word's IMM11 (R323). -/
structure NAr where
  sat : Bool := false
  ftz : Bool := false
  rm : Nat := 0
  fmt : Nat := 0
deriving DecidableEq, Repr, Inhabited

/-- A hardware barrier: its domain instance and its number there (R39, R111). -/
inductive BarId where
  | core (c n : Nat)
  | cluster (u n : Nat)
  | die (d n : Nat)
  | package (p n : Nat)
  | panel (n : Nat)
deriving DecidableEq, Repr, Inhabited

/-- A group of a merge unit: plane, unit and group number of the handle H (R379). -/
structure GrpId where
  plane : Nat
  unit : Nat
  grp : Nat
deriving DecidableEq, Repr, Inhabited

/-- A packet on the wire as the network engine sends and receives it (R409, R412, R415, R420): the fields
the spec names; len is the bytes of its message that the packet carries, or of a READ asks for. -/
structure Packet where
  qp : Nat
  jobid : Nat
  src : List Byte
  psn : Nat
  opc : Nat
  rtype : Nat
  roff : Nat
  msgLen : Nat
  off : Nat
  len : Nat
  msn : Nat
  tag : Word
  data : List Byte
deriving DecidableEq, Repr, Inhabited

/-- The steps of the panel: one constructor per row of spec/opcode_table.json, the words first, then the
events. -/
inductive Instr where
  -- control slice, integer (R191 to R194)
  | add (h : CHdr) (d a b : Nat)
  | sub (h : CHdr) (d a b : Nat)
  | and (h : CHdr) (d a b : Nat)
  | or (h : CHdr) (d a b : Nat)
  | xor (h : CHdr) (d a b : Nat)
  | shl (h : CHdr) (d a b : Nat)
  | shr (h : CHdr) (d a b : Nat)
  | sra (h : CHdr) (d a b : Nat)
  | slt (h : CHdr) (d a b : Nat)
  | sltu (h : CHdr) (d a b : Nat)
  | min (h : CHdr) (d a b : Nat)
  | max (h : CHdr) (d a b : Nat)
  | minu (h : CHdr) (d a b : Nat)
  | maxu (h : CHdr) (d a b : Nat)
  | addi (h : CHdr) (d a imm : Nat)
  | andi (h : CHdr) (d a imm : Nat)
  | ori (h : CHdr) (d a imm : Nat)
  | xori (h : CHdr) (d a imm : Nat)
  | shli (h : CHdr) (d a sh : Nat)
  | shri (h : CHdr) (d a sh : Nat)
  | srai (h : CHdr) (d a sh : Nat)
  | slti (h : CHdr) (d a imm : Nat)
  | mul (h : CHdr) (d a b : Nat)
  | mulh (h : CHdr) (d a b : Nat)
  | mulhu (h : CHdr) (d a b : Nat)
  | div (h : CHdr) (d a b : Nat)
  | divu (h : CHdr) (d a b : Nat)
  | rem (h : CHdr) (d a b : Nat)
  | remu (h : CHdr) (d a b : Nat)
  | li (h : CHdr) (d imm : Nat)
  | lih (h : CHdr) (d imm : Nat)
  -- control slice, scalar floating point (R195 to R198)
  | fadd (h : CHdr) (fmt d a b : Nat)
  | fsub (h : CHdr) (fmt d a b : Nat)
  | fmul (h : CHdr) (fmt d a b : Nat)
  | fmin (h : CHdr) (fmt d a b : Nat)
  | fmax (h : CHdr) (fmt d a b : Nat)
  | ffma (h : CHdr) (fmt d a b c : Nat)
  | fdiv (h : CHdr) (fmt d a b : Nat)
  | fsqrt (h : CHdr) (fmt d a : Nat)
  | feq (h : CHdr) (fmt d a b : Nat)
  | flt (h : CHdr) (fmt d a b : Nat)
  | fle (h : CHdr) (fmt d a b : Nat)
  | fcvt (h : CHdr) (fn d a : Nat)
  -- branches and calls (R199, R200)
  | beq (h : CHdr) (a b off : Nat)
  | bne (h : CHdr) (a b off : Nat)
  | blt (h : CHdr) (a b off : Nat)
  | bge (h : CHdr) (a b off : Nat)
  | bltu (h : CHdr) (a b off : Nat)
  | bgeu (h : CHdr) (a b off : Nat)
  | j (h : CHdr) (off : Nat)
  | call (h : CHdr) (off : Nat)
  | jr (h : CHdr) (a : Nat)
  | callr (h : CHdr) (a : Nat)
  | ret (h : CHdr)
  -- loads, stores, atomics, fences, maintenance (R202 to R209)
  | ld (h : CHdr) (sx : Bool) (size d a : Nat) (cs : Bool) (swz off : Nat)
  | st (h : CHdr) (size a b : Nat) (cs : Bool) (swz off : Nat)
  | atom (h : CHdr) (op size d a b : Nat)
  | cas (h : CHdr) (size d a b : Nat)
  | fence (h : CHdr)
  | fenceSc (h : CHdr)
  | qmark (h : CHdr)
  | cleanR (h : CHdr) (a b : Nat)
  | invR (h : CHdr) (a b : Nat)
  | cleaninvR (h : CHdr) (a b : Nat)
  | probe (h : CHdr) (kind d a b : Nat)
  | phase (h : CHdr) (code : Nat)
  -- control-queue sends (R210 to R213)
  | cqCount (h : CHdr) (eng a tag : Nat)
  | cqOut (h : CHdr) (eng a tag : Nat)
  | cqMrow (h : CHdr) (eng a b tag : Nat)
  | cqMbits (h : CHdr) (eng a b tag : Nat)
  | cqVal (h : CHdr) (eng a tag : Nat)
  | cqRegion (h : CHdr) (mode : Nat)
  | cqSquash (h : CHdr) (eng tag : Nat)
  -- jobs and tasks (R214 to R222)
  | go (h : CHdr)
  | rim (h : CHdr)
  | jend (h : CHdr)
  | tspawn (h : CHdr) (d a off : Nat)
  | texit (h : CHdr)
  | barw (h : CHdr) (a b : Nat)
  | bara (h : CHdr) (d a : Nat)
  | evs (h : CHdr) (a : Nat)
  | evw (h : CHdr) (a : Nat)
  | trkArm (h : CHdr) (d a : Nat)
  | restart (h : CHdr)
  | sysr (h : CHdr) (d n : Nat)
  | sysw (h : CHdr) (n a : Nat)
  | trap (h : CHdr) (a : Nat)
  | brk (h : CHdr)
  | tret (h : CHdr)
  | ctlNop (h : CHdr)
  -- commands to the NMUs (R336 to R342)
  | ncmd (h : CHdr) (a b stack : Nat)
  | nfence (h : CHdr)
  | nstat (h : CHdr) (d a : Nat)
  -- traversal (R355 to R368)
  | twList (h : CHdr) (fn a b : Nat) (mem : Bool) (slot : Nat)
  | twHash (h : CHdr) (fn a b : Nat) (mem : Bool) (slot : Nat)
  | twKvb (h : CHdr) (fn a b : Nat) (mem : Bool) (slot : Nat)
  | twTree (h : CHdr) (fn a b : Nat) (mem : Bool) (slot : Nat)
  | twRwalk (h : CHdr) (fn a b : Nat) (mem : Bool) (slot : Nat)
  | twWait (h : CHdr) (d a : Nat)
  | twWaitTry (h : CHdr) (d a : Nat)
  -- fabric and merge (R375 to R395)
  | gld (h : CHdr) (sx : Bool) (size d a off : Nat)
  | gst (h : CHdr) (size a b off : Nat)
  | gatom (h : CHdr) (op size d a b : Nat)
  | qcast (h : CHdr) (d a b : Nat)
  | rstAdd (h : CHdr) (ty d a b : Nat)
  | rstMax (h : CHdr) (ty d a b : Nat)
  | mgCfgOpen (h : CHdr) (d a : Nat)
  | mgCfgFree (h : CHdr) (d b : Nat)
  | mgRd (h : CHdr) (d b : Nat)
  | gnfy (h : CHdr) (a : Nat)
  -- network engine (R427 to R435)
  | neQpOpen (h : CHdr) (d a : Nat)
  | neQpClose (h : CHdr) (d a : Nat)
  | neQpRd (h : CHdr) (d a : Nat)
  | nePost (h : CHdr) (d a b : Nat)
  | nePostRx (h : CHdr) (d a b : Nat)
  | neArm (h : CHdr) (d a b : Nat)
  | neCtrRd (h : CHdr) (d a : Nat)
  | neCtrSet (h : CHdr) (a b : Nat)
  | neCtrAdd (h : CHdr) (a b : Nat)
  | neCwait (h : CHdr) (d a b : Nat)
  | nePoll (h : CHdr) (d a : Nat)
  -- sampler commands (R460 to R465)
  | smCtxOpen (h : CHdr) (d a : Nat)
  | smCtxClose (h : CHdr) (d a : Nat)
  | smCtxReset (h : CHdr) (d a : Nat)
  | smCtxRd (h : CHdr) (d a : Nat)
  | smProg (h : CHdr) (d a b : Nat)
  | smStart (h : CHdr) (d a b : Nat)
  | smCancel (h : CHdr) (d a : Nat)
  | smWait (h : CHdr) (d a : Nat)
  | smWaitTry (h : CHdr) (d a : Nat)
  -- debug (R487 to R497)
  | dbgHalt (h : CHdr) (d a : Nat)
  | dbgStep (h : CHdr) (d a b : Nat)
  | dbgResume (h : CHdr) (d a b : Nat)
  | dbgRdc (h : CHdr) (d a b : Nat)
  | dbgBp (h : CHdr) (d a b : Nat)
  | dbgClr (h : CHdr) (d a : Nat)
  -- dispatcher (R182 to R184)
  | launch (h : CHdr) (d a slot : Nat)
  | qmap (h : CHdr) (d a b : Nat)
  | qunmap (h : CHdr) (d b : Nat)
  | qstat (h : CHdr) (d b : Nat)
  -- words shared by the data strands (R61, R62)
  | dataNop (h : DHdr)
  | dataRim (h : DHdr)
  | dataRegion (h : DHdr) (mode : Nat)
  | vloopQ (h : DHdr) (len : Nat)
  | vwhileQ (h : DHdr) (len : Nat)
  | vifQ (h : DHdr) (len : Nat)
  | vvalQ (h : DHdr) (xd : Nat)
  | vmaskQ (h : DHdr) (kd : Nat)
  | vxset (h : DHdr) (xd src val : Nat)
  | vxadd (h : DHdr) (xa xd imm : Nat)
  | mloopQ (h : DHdr) (len : Nat)
  | mwhileQ (h : DHdr) (len : Nat)
  | mifQ (h : DHdr) (len : Nat)
  | mvalQ (h : DHdr) (xd : Nat)
  | mxset (h : DHdr) (xd src val : Nat)
  | mxadd (h : DHdr) (xa xd imm : Nat)
  | cpLoopQ (h : DHdr) (len : Nat)
  | cpWhileQ (h : DHdr) (len : Nat)
  | cpIfQ (h : DHdr) (len : Nat)
  | cpValQ (h : DHdr) (xd : Nat)
  | cpXset (h : DHdr) (xd src val : Nat)
  | cpXadd (h : DHdr) (xa xd imm : Nat)
  -- vector engine (R271 to R291)
  | vadd (h : DHdr) (r : DR)
  | vsub (h : DHdr) (r : DR)
  | vmul (h : DHdr) (r : DR)
  | vfma (h : DHdr) (r : DR)
  | vmin (h : DHdr) (r : DR)
  | vmax (h : DHdr) (r : DR)
  | vand (h : DHdr) (r : DR)
  | vor (h : DHdr) (r : DR)
  | vxor (h : DHdr) (r : DR)
  | vnot (h : DHdr) (r : DR)
  | vshl (h : DHdr) (r : DR)
  | vshr (h : DHdr) (r : DR)
  | vsra (h : DHdr) (r : DR)
  | vcmp (h : DHdr) (rel : Nat) (r : DR)
  | vsel (h : DHdr) (r : DR)
  | vmovi (h : DHdr) (imm : Nat) (men : Bool) (km vd : Nat)
  | vcvt (h : DHdr) (dst : Nat) (r : DR)
  | vexp2 (h : DHdr) (r : DR)
  | vlog2 (h : DHdr) (r : DR)
  | vrcp (h : DHdr) (r : DR)
  | vrsq (h : DHdr) (r : DR)
  | vrotr (h : DHdr) (r : DR)
  | vrotc (h : DHdr) (r : DR)
  | vbcr (h : DHdr) (r : DR)
  | vbcc (h : DHdr) (r : DR)
  | vredr (h : DHdr) (op : Nat) (r : DR)
  | vredc (h : DHdr) (op : Nat) (r : DR)
  | vld (h : DHdr) (m : DM)
  | vst (h : DHdr) (m : DM)
  | vldr (h : DHdr) (g : DG)
  | vstr (h : DHdr) (g : DG)
  | vchain (h : DHdr) (vp : Nat) (g : DG)
  | acvt (h : DHdr) (r : DR)
  | vkopAnd (h : DHdr) (kd ka kb : Nat)
  | vkopOr (h : DHdr) (kd ka kb : Nat)
  | vkopXor (h : DHdr) (kd ka kb : Nat)
  | vkopAndn (h : DHdr) (kd ka kb : Nat)
  | vkopNot (h : DHdr) (kd ka : Nat)
  | vkopSet (h : DHdr) (kd : Nat)
  | vkopClr (h : DHdr) (kd : Nat)
  | vkmovToMask (h : DHdr) (r : DR)
  | vkmovToVector (h : DHdr) (r : DR)
  -- matrix engine (R299 to R309)
  | mma (h : DHdr) (m : DMma)
  | mclaim (h : DHdr) (ring cnt : Nat)
  | mrelease (h : DHdr) (ring cnt : Nat)
  | mzero (h : DHdr) (int : Bool) (vd n : Nat)
  | mfill (h : DHdr) (sf : Nat) (g : DG)
  | mdrain (h : DHdr) (df rm : Nat) (clr sat : Bool) (g : DG)
  -- copy engine (R231 to R244)
  | cpLin (h : DHdr) (x : DX)
  | cp2d (h : DHdr) (x : DX)
  | cpGth (h : DHdr) (x : DX)
  | cpSct (h : DHdr) (x : DX)
  | cpSet (h : DHdr) (x : DX)
  | cpRcopy (h : DHdr) (x : DX)
  | cpFill (h : DHdr) (sfmt dfmt rl lc : Nat) (g : DG)
  | cpDrain (h : DHdr) (sfmt dfmt rl lc : Nat) (g : DG)
  | cpTr (h : DHdr) (ew : Nat) (g : DG)
  -- near-memory units, words (R324 to R333)
  | nld (pi : Bool) (off d a : Nat)
  | nst (pi : Bool) (off d a : Nat)
  | nadd (f : NAr) (d a b : Nat)
  | nsub (f : NAr) (d a b : Nat)
  | nmul (f : NAr) (d a b : Nat)
  | nfma (f : NAr) (d a b : Nat)
  | nmax (ftz : Bool) (fmt d a b : Nat)
  | nmin (ftz : Bool) (fmt d a b : Nat)
  | ncmp (rel : Nat) (ftz : Bool) (fmt d a b : Nat)
  | nsel (d a b : Nat)
  | nexp2 (ftz : Bool) (fmt d a : Nat)
  | ncvt (half dst : Nat) (f : NAr) (d a : Nat)
  | nmov (d a : Nat)
  | nbcst (fmt e d a : Nat)
  | nredmax (sat ftz : Bool) (fmt d a : Nat)
  | nredsum (f : NAr) (d a : Nat)
  | nlogic (fn d a b : Nat)
  | nset (kind v d : Nat)
  | nloop (sp : Bool) (len cnt : Nat)
  | nloop2 (sp : Bool) (len cnt : Nat)
  | nemit (cnt d a b : Nat)
  | nend
  | naddr (imm d a : Nat)
  -- a word that is not an instruction, for the strand that meets it (R68)
  | illegalInstruction (raw : Nat)
  -- sampler words (R444 to R459)
  | smLd (c : Bool) (off d a : Nat)
  | smSt (c : Bool) (off a b : Nat)
  | smLi (f : Bool) (val d : Nat)
  | smMov (d a : Nat)
  | smAdd (f : Bool) (imm d a b : Nat)
  | smSub (f : Bool) (imm d a b : Nat)
  | smCmp (u : Bool) (rel : Nat) (f : Bool) (d a b : Nat)
  | smMax (f : Bool) (d a b : Nat)
  | smDiv (d a b : Nat)
  | smExp (d a : Nat)
  | smSum (kind d : Nat)
  | smTopk (k d a b : Nat)
  | smTopp (d a : Nat)
  | smTemp (d a : Nat)
  | smRng (u : Bool) (d : Nat)
  | smDraw (d a : Nat)
  | smTree (d a : Nat)
  | smAcc (excl : Bool) (d a b : Nat)
  | smEmit (a : Nat)
  | smBr (off : Nat)
  | smBz (a off : Nat)
  | smEnd (a : Nat)
  -- loads, stores, atomics, fences, maintenance (R202 to R209)
  | pageWalkComplete (d : Nat)
  | phaseComplete (c : Nat)
  -- jobs and tasks (R214 to R222)
  | rimRendezvous (c : Nat)
  | barrierCarryFlip (b : BarId)
  | eventSignalArrival (id : Nat)
  | asyncFaultTake (c : Nat)
  -- dispatcher (R182 to R184)
  | dispatcherAnswer (c t : Nat)
  -- words shared by the data strands (R61, R62)
  | regionCrossingComplete (c : Nat)
  | dataFreezeEnd (c : Nat)
  | freezeTimeout (c : Nat)
  | timingTrap (c : Nat)
  -- vector engine (R271 to R291)
  | arrayWordStart (c : Nat)
  | resultDue (c : Nat)
  -- matrix engine (R299 to R309)
  | mreleaseSlotsEmpty (c : Nat)
  | matrixQueueStart (c : Nat)
  | matrixQueueW (c : Nat)
  -- copy engine (R231 to R244)
  | copyTransferComplete (c id : Nat)
  -- memory, fabric and device registers
  | ibufFill (c va : Nat)
  | homeRequest (c id ecc : Nat)
  | storedTransferComplete (d : Nat)
  | cacheEviction (home : Bool) (c line : Nat) (err : Bool)
  | memoryReadReturn (c id ecc : Nat)
  | fabricRequestArrival (c id ecc : Nat)
  | fabricRefusal (c id : Nat)
  | fabricRetryResend (c id : Nat)
  | fabricReply (c id : Nat)
  | replayWrite (p : Nat) (v : Word)
  | discardWrite (p : Nat) (v : Word)
  | errorEntryClear (d n : Nat) (v : Word)
  | rdescWrite (c t n : Nat) (v : Word)
  | barrierConfigWrite (b : BarId) (c t : Nat) (v : Word)
  | deviceRegisterWrite (pa : Nat) (v : Word)
  -- dispatcher events (R152 to R186)
  | notifyWrite (d slot : Nat) (v : Word)
  | packetTake (d slot : Nat) (lane : Bool)
  | dependenceRecheck (d id : Nat) (err : Bool)
  | packetComplete (d id : Nat)
  | weavePlacement (w : Nat)
  | reservationRequest (d w : Nat)
  | reservationReply (w : Nat)
  | quantumExpiry (w w' : Nat)
  | preemptDecision (w w' : Nat)
  | jobSaveComplete (c : Nat)
  | preemptOverdue (w : Nat)
  | weaveResume (w : Nat)
  | weaveComplete (w : Nat)
  | weaveTeardown (w : Nat)
  | graphNodeReady (run inst : Nat) (err : Bool)
  | savepoolWrite (d : Nat) (cnt : Bool) (v : Word)
  -- near-memory units, events (R338 to R350)
  | nmuCommandStart (n : Nat)
  | nmuPreemptStop (n : Nat)
  | nmuRestWatchdog (w : Nat)
  | nmuResume (n : Nat)
  -- traversal engine, events (R359 to R367)
  | walkAccept (id : Nat)
  | walkSectorReturn (id : Nat) (err : Bool)
  | walkStepLimit (id : Nat)
  | walkSlotFull (id : Nat)
  -- switch dies, events (R386 to R402)
  | reduceContribution (id : Nat)
  | reduceTimeout (g : GrpId)
  | stripeMessage (id : Nat)
  | partialArrival (id : Nat)
  | mergeTimeout (g : GrpId)
  | queryCompletionDone (g : GrpId)
  | switchDieAnswer (c t : Nat)
  -- network engine, events (R413 to R426)
  | neEntryStart (d q : Nat) (err : Bool)
  | neAckArrival (d q cack bitmap : Nat) (nak : Bool) (resp : Option Packet)
  | neRtoExpiry (d q psn : Nat)
  | nePacketReceive (d : Nat) (p : Packet)
  -- sampler, events (R445, R463 to R466)
  | smRunBegin (d ctx : Nat)
  | smStepLimit (d ctx : Nat)
  | smcancelWrite (d : Nat) (v : Word)
  | smCancelEffect (d ctx : Nat)
  -- halt controller, events (R474 to R498)
  | haltCause (c t src code : Nat) (pc val : Word)
  | haltWaveArrival (c : Nat)
  | haltSettled (slot : Nat)
  | haltControllerAnswer (c t : Nat)
  | resumeAtT (slot : Nat)
  | hcmdHalt (d : Nat)
  | hcmdStep (d : Nat)
  | hcmdResume (d : Nat)
  | hcmdRdc (d : Nat)
  | hcmdBp (d : Nat)
  | hcmdClr (d : Nat)
  -- the panel in service (R500 to R513)
  | hostMemoryAccess (p : Nat) (write : Bool) (off : Nat) (data : List Byte) (err : Bool)
  | powerOn (p : Nat) (flowOk linksOk syncOk : Bool)
  | joinEnd
  | fwctlCommit (p : Nat)
  | attcmdStart (p : Nat)
  | attestReportReady (p : Nat)
  | coolantFlowChange (flow : Nat)
  | flowRecoveryTimer
  | junctionTemperatureChange (d temp : Nat)
  | thermalTrip (p : Nat)
  | pcapWrite (p d : Nat) (v : Word)
  | clkforceWrite (p : Nat) (v : Word)
  | ageSample (d drift margin : Nat)
  | killWrite (p : Nat) (v : Word)
  | lostWrite (p : Nat) (v : Word)
  | apbaseWrite (p : Nat) (v : Word)
  | mgmtintWrite (p : Nat) (v : Word)
  | netaddrWrite (p off : Nat) (v : Word)
  | walkStoreWrite (d off : Nat) (v : Word)
  | edgectlWrite (sw : Nat) (v : Word)
  -- answers to parked commands
  | trkArmAnswer (c t : Nat)
  | neCommandAnswer (c t : Nat)
  | samplerAnswer (c t : Nat)
  | nstatAnswer (c t : Nat)
  | qcastAnswer (c t : Nat)
  -- further events of the network, the power and the clocks
  | nePacketTransmit (d q psn : Nat)
  | powerOff (p : Option Nat)
  | swcapWrite (p : Nat) (v : Word)
  | clockStepChange (d step : Nat)
deriving DecidableEq, Repr, Inhabited

end Sys2Proof
end

