-- ==== Sys2Proof/WellFormed.lean ====
section
/-! DEFINITION. Which terms of Instr are instructions: every field in the range its encoding holds, no
reserved value, no prefix field the instruction does not accept (R46 to R53, R57 to R67 and the encoding rule
of each engine's chapter). What an instruction checks when it runs (a ring's descriptor, a register's value) is
in its meaning. -/

namespace Sys2Proof

/-- The fields of a prefix word fit their places (R50). -/
def Pfx.fits (p : Pfx) : Bool :=
  decide (p.rm < 8) && decide (p.scope < 8) && decide (p.ord < 4)

/-- R51: every set field of a prefix is one the instruction accepts, and neither RM = 7 nor SCOPE = 7 is set. -/
def Pfx.accepted (p : Pfx) (rm sat ftz sc acq rel ar : Bool) : Bool :=
  (!p.rmv || (rm && decide (p.rm < 7))) && (!p.satv || sat) && (!p.ftzv || ftz) &&
  (!p.scv || (sc && decide (p.scope < 7))) &&
  (match p.ord with
   | 0 => true
   | 1 => acq
   | 2 => rel
   | _ => ar)

/-- The header of a control word: with a prefix before it the word itself has L = 0 (R53) and the prefix is
accepted (R51). -/
def CHdr.accepts (h : CHdr) (rm sat ftz sc acq rel ar : Bool) : Bool :=
  match h.pfx with
  | none => true
  | some p => !h.l && p.fits && p.accepted rm sat ftz sc acq rel ar

/-- The rows of R51, one name for each set of accepted fields. -/
def CHdr.plain (h : CHdr) : Bool := h.accepts false false false false false false false
def CHdr.satOnly (h : CHdr) : Bool := h.accepts false true false false false false false
def CHdr.float (h : CHdr) : Bool := h.accepts true false true false false false false
def CHdr.floatSat (h : CHdr) : Bool := h.accepts true true true false false false false
def CHdr.floatCmp (h : CHdr) : Bool := h.accepts false false true false false false false
def CHdr.load (h : CHdr) : Bool := h.accepts false false false true true false false
def CHdr.store (h : CHdr) : Bool := h.accepts false false false true false true false
def CHdr.atomic (h : CHdr) : Bool := h.accepts false false false true true true true
def CHdr.scoped (h : CHdr) : Bool := h.accepts false false false true false false false

/-- A general register number (R47). -/
def g6 (n : Nat) : Bool := decide (n < 64)

/-- An address register or ring number of a data word (R57). -/
def x5 (n : Nat) : Bool := decide (n < 32)

/-- The header of a data word (R57). -/
def DHdr.fits (h : DHdr) : Bool := decide (h.idle < 1024)

/-- MEN and KM: KM is a mask register, and 0 where MEN = 0 (R58). -/
def maskFits (men : Bool) (km : Nat) : Bool := decide (km < 16) && (men || km == 0)

/-- A view code whose elements are floating point (R58). -/
def viewFloat (v : Nat) : Bool := v == 0 || v == 2 || v == 3 || v == 5 || v == 6

/-- The width of an element of a view (R58). -/
def viewWidth (v : Nat) : Nat :=
  match v with
  | 0 => 32
  | 1 => 32
  | 2 => 16
  | 3 => 16
  | 4 => 16
  | _ => 8

/-- What every D-R word keeps (R58, R270). -/
def DR.fits (r : DR) : Bool :=
  decide (r.view < 9) && decide (r.rm < 6) && maskFits r.men r.km &&
  decide (r.vb < 512) && decide (r.va < 512) && decide (r.vd < 512)

/-- A D-R word that neither rounds nor saturates (R270). -/
def DR.exact (r : DR) : Bool := r.rm == 0 && !r.sat

/-- A raw D-R word: VIEW = 1, no rounding, no saturation (R270). -/
def DR.raw (r : DR) : Bool := r.fits && r.view == 1 && r.exact

/-- An arithmetic D-R word: it rounds only in a floating-point view (R271). -/
def DR.arith (r : DR) : Bool := r.fits && (viewFloat r.view || r.rm == 0)

/-- A D-R word of the special functions (R278). -/
def DR.special (r : DR) : Bool :=
  r.fits && (r.view == 0 || r.view == 2 || r.view == 3) && r.vb == 0 && r.exact

/-- A conversion between integer views never rounds, and one that widens never saturates; a widening conversion between
floating-point views is exact and does neither (R94, R270, R277). -/
def DR.cvtFits (r : DR) (dst : Nat) : Bool :=
  let widens := decide (viewWidth r.view < viewWidth dst)
  match viewFloat r.view, viewFloat dst with
  | true, true => !widens || r.exact
  | false, false => r.rm == 0 && (!r.sat || !widens)
  | _, _ => true

/-- The limit of the part q of a conversion between widths (R277). -/
def partLimit (ws wt : Nat) : Nat := if wt ≤ ws then ws / wt else wt / ws

/-- D-M (R59): LAT only with LC = 3, SWZ only with LC = 0. -/
def DM.fits (m : DM) (shapes : Nat) : Bool :=
  decide (m.fn < shapes) && decide (m.off < 1024) && maskFits m.men m.km && decide (m.lat < 8) &&
  decide (m.lc < 4) && decide (m.swz < 8) && x5 m.xa && decide (m.reg < 512) &&
  (m.lc == 3 || m.lat == 0) && (m.lc == 0 || m.swz == 0) && !(m.fn == 1 && m.xa == 31)

/-- D-G (R60): the ring number below 32. -/
def DG.fits (g : DG) : Bool :=
  decide (g.swz < 8) && maskFits g.men g.km && decide (g.cnt < 512) && x5 g.ring && decide (g.reg < 512)

/-- A D-G word without a mask. -/
def DG.unmasked (g : DG) : Bool := g.fits && !g.men

/-- The copy engine's transfer words (R231, R232); the spaces are the word's own. -/
def DX.fits (x : DX) : Bool :=
  decide (0 < x.scope) && decide (x.scope < 7) && x5 x.xb && x5 x.xn && x5 x.xs && x5 x.xd &&
  decide (x.dsp < 3) && decide (x.ssp < 3) && (x.cen || x.xb == 0)

/-- A transfer word of the local kind: no space is the fabric (R232). -/
def DX.localSides (x : DX) : Bool := x.fits && decide (x.dsp < 2) && decide (x.ssp < 2)

/-- The bounds of `mma` (R301, R302). -/
def DMma.fits (m : DMma) : Bool :=
  decide (m.fus < 4) && decide (m.fmt < 12) && decide (m.aq < 4) && decide (m.scb < 4) &&
  decide (m.bof < 8) && decide (m.aof < 8) && x5 m.rb && x5 m.ra && m.ra != m.rb &&
  decide (m.ad < 64) && m.ad % 4 == 0 && (m.ac || m.aof == 0) && (m.bc || m.bof == 0) &&
  (m.fmt == 9 || m.fmt == 10 || m.scb == 0) &&
  (match m.fmt with
   | 9 => m.aq == 0
   | 10 => m.aq == 0 || m.aq == 2
   | _ => true)

/-- A format pair of a fill or drain (R240). -/
def fmtPair (s d : Nat) : Bool :=
  decide (s < 8) && decide (d < 8) && ((s == 0 && d == 0) || (s != 0 && d != 0 && s != d))

/-- A register of an NMU word (R65). -/
def n24 (n : Nat) : Bool := decide (n < 24)

/-- A register of a sampler word (R65). -/
def s5 (n : Nat) : Bool := decide (n < 32)

/-- A destination of a sampler word: D = 31 is reserved (R444). -/
def sD (n : Nat) : Bool := decide (n < 31)

/-- The arithmetic part of an NMU word (R323): no rounding mode above 4, none of RM and FTZ in `.i32`. -/
def NAr.fits (f : NAr) : Bool :=
  decide (f.fmt < 4) && decide (f.rm < 5) && (f.fmt != 3 || (f.rm == 0 && !f.ftz))

/-- The element width of an NMU view (R322). -/
def nmuWidth (fmt : Nat) : Nat := if fmt == 1 || fmt == 2 then 16 else 32

/-- A raw word of 32 bits or more that is no instruction: any number. -/
def anyRaw (_ : Nat) : Bool := true

/-- The terms of Instr that are instructions. An event is well formed whatever it carries. A while or if block of no words, for which R61 gives
no range, is one (DESIGN CHOICE, assumption 123). -/
def wellFormed (i : Instr) : Bool :=
  match i with
  | .add h d a b => h.satOnly && g6 d && g6 a && g6 b
  | .sub h d a b => h.satOnly && g6 d && g6 a && g6 b
  | .and h d a b => h.plain && g6 d && g6 a && g6 b
  | .or h d a b => h.plain && g6 d && g6 a && g6 b
  | .xor h d a b => h.plain && g6 d && g6 a && g6 b
  | .shl h d a b => h.plain && g6 d && g6 a && g6 b
  | .shr h d a b => h.plain && g6 d && g6 a && g6 b
  | .sra h d a b => h.plain && g6 d && g6 a && g6 b
  | .slt h d a b => h.plain && g6 d && g6 a && g6 b
  | .sltu h d a b => h.plain && g6 d && g6 a && g6 b
  | .min h d a b => h.plain && g6 d && g6 a && g6 b
  | .max h d a b => h.plain && g6 d && g6 a && g6 b
  | .minu h d a b => h.plain && g6 d && g6 a && g6 b
  | .maxu h d a b => h.plain && g6 d && g6 a && g6 b
  | .addi h d a imm => h.satOnly && g6 d && g6 a && decide (imm < 1024)
  | .andi h d a imm => h.plain && g6 d && g6 a && decide (imm < 1024)
  | .ori h d a imm => h.plain && g6 d && g6 a && decide (imm < 1024)
  | .xori h d a imm => h.plain && g6 d && g6 a && decide (imm < 1024)
  | .shli h d a sh => h.plain && g6 d && g6 a && decide (sh < 64)
  | .shri h d a sh => h.plain && g6 d && g6 a && decide (sh < 64)
  | .srai h d a sh => h.plain && g6 d && g6 a && decide (sh < 64)
  | .slti h d a imm => h.plain && g6 d && g6 a && decide (imm < 1024)
  | .mul h d a b => h.satOnly && g6 d && g6 a && g6 b
  | .mulh h d a b => h.plain && g6 d && g6 a && g6 b
  | .mulhu h d a b => h.plain && g6 d && g6 a && g6 b
  | .div h d a b => h.plain && g6 d && g6 a && g6 b
  | .divu h d a b => h.plain && g6 d && g6 a && g6 b
  | .rem h d a b => h.plain && g6 d && g6 a && g6 b
  | .remu h d a b => h.plain && g6 d && g6 a && g6 b
  | .li h d imm => h.plain && g6 d && decide (imm < 2 ^ 32)
  | .lih h d imm => h.plain && g6 d && decide (imm < 2 ^ 32)
  | .fadd h f d a b => h.float && decide (f < 3) && g6 d && g6 a && g6 b
  | .fsub h f d a b => h.float && decide (f < 3) && g6 d && g6 a && g6 b
  | .fmul h f d a b => h.float && decide (f < 3) && g6 d && g6 a && g6 b
  | .fmin h f d a b => h.float && decide (f < 3) && g6 d && g6 a && g6 b
  | .fmax h f d a b => h.float && decide (f < 3) && g6 d && g6 a && g6 b
  | .ffma h f d a b c => h.float && decide (f < 3) && g6 d && g6 a && g6 b && g6 c
  | .fdiv h f d a b => h.float && decide (f < 3) && g6 d && g6 a && g6 b
  | .fsqrt h f d a => h.float && decide (f < 3) && g6 d && g6 a
  | .feq h f d a b => h.floatCmp && decide (f < 3) && g6 d && g6 a && g6 b
  | .flt h f d a b => h.floatCmp && decide (f < 3) && g6 d && g6 a && g6 b
  | .fle h f d a b => h.floatCmp && decide (f < 3) && g6 d && g6 a && g6 b
  | .fcvt h fn d a =>
    (if 6 ≤ fn ∧ fn ≤ 8 then h.floatSat else h.float) && decide (fn < 12) && g6 d && g6 a
  | .beq h a b off => h.plain && g6 a && g6 b && decide (off < 1024)
  | .bne h a b off => h.plain && g6 a && g6 b && decide (off < 1024)
  | .blt h a b off => h.plain && g6 a && g6 b && decide (off < 1024)
  | .bge h a b off => h.plain && g6 a && g6 b && decide (off < 1024)
  | .bltu h a b off => h.plain && g6 a && g6 b && decide (off < 1024)
  | .bgeu h a b off => h.plain && g6 a && g6 b && decide (off < 1024)
  | .j h off => h.plain && decide (off < 2 ^ 22)
  | .call h off => h.plain && decide (off < 2 ^ 22)
  | .jr h a => h.plain && g6 a
  | .callr h a => h.plain && g6 a
  | .ret h => h.plain
  | .ld h sx size d a cs swz off =>
    h.load && decide (size < 5) && g6 d && g6 a && decide (swz < 8) && decide (off < 2 ^ 28) &&
    (cs || swz == 0) && !(sx && decide (3 ≤ size)) && !(size == 4 && d % 2 == 1)
  | .st h size a b cs swz off =>
    h.store && decide (size < 5) && g6 a && g6 b && decide (swz < 8) && decide (off < 2 ^ 28) &&
    (cs || swz == 0) && !(size == 4 && b % 2 == 1)
  | .atom h op size d a b => h.atomic && decide (op < 9) && (size == 2 || size == 3) && g6 d && g6 a && g6 b
  | .cas h size d a b => h.atomic && (size == 2 || size == 3) && g6 d && g6 a && g6 b
  | .fence h => h.atomic
  | .fenceSc h => h.atomic
  | .qmark h => h.plain
  | .cleanR h a b => h.scoped && g6 a && g6 b
  | .invR h a b => h.scoped && g6 a && g6 b
  | .cleaninvR h a b => h.scoped && g6 a && g6 b
  | .probe h kind d a b => h.plain && decide (kind < 4) && g6 d && g6 a && g6 b
  | .phase h code => h.plain && decide (code < 5)
  | .cqCount h e a tag => h.plain && decide (0 < e) && decide (e < 4) && g6 a && decide (tag < 16)
  | .cqOut h e a tag => h.plain && decide (0 < e) && decide (e < 4) && g6 a && decide (tag < 16)
  | .cqMrow h e a b tag => h.plain && decide (0 < e) && decide (e < 4) && g6 a && g6 b && decide (tag < 16)
  | .cqMbits h e a b tag => h.plain && decide (0 < e) && decide (e < 4) && g6 a && g6 b && decide (tag < 16)
  | .cqVal h e a tag => h.plain && decide (0 < e) && decide (e < 4) && g6 a && decide (tag < 16)
  | .cqRegion h mode => h.plain && decide (mode < 2)
  | .cqSquash h e tag => h.plain && decide (0 < e) && decide (e < 4) && decide (tag < 16)
  | .go h => h.plain
  | .rim h => h.plain
  | .jend h => h.plain
  | .tspawn h d a off => h.plain && g6 d && g6 a && decide (off < 2 ^ 32)
  | .texit h => h.plain
  | .barw h a b => h.plain && g6 a && g6 b
  | .bara h d a => h.plain && g6 d && g6 a
  | .evs h a => h.plain && g6 a
  | .evw h a => h.plain && g6 a
  | .trkArm h d a => h.plain && g6 d && g6 a
  | .restart h => h.plain
  | .sysr h d n => h.plain && g6 d && g6 n
  | .sysw h n a => h.plain && g6 n && g6 a
  | .trap h a => h.plain && g6 a
  | .brk h => h.plain
  | .tret h => h.plain
  | .ctlNop h => h.plain
  | .ncmd h a b stack => h.plain && g6 a && g6 b && decide (stack < 8)
  | .nfence h => h.plain
  | .nstat h d a => h.plain && g6 d && g6 a
  | .twList h fn a b _ slot => h.plain && decide (fn < 3) && g6 a && g6 b && decide (slot < 32)
  | .twHash h fn a b _ slot => h.plain && decide (fn < 2) && g6 a && g6 b && decide (slot < 32)
  | .twKvb h fn a b _ slot => h.plain && fn == 0 && g6 a && g6 b && decide (slot < 32)
  | .twTree h fn a b _ slot => h.plain && decide (fn < 16) && g6 a && g6 b && decide (slot < 32)
  | .twRwalk h fn a b _ slot => h.plain && decide (fn < 4) && g6 a && g6 b && decide (slot < 32)
  | .twWait h d a => h.plain && g6 d && d % 2 == 0 && g6 a
  | .twWaitTry h d a => h.plain && g6 d && d % 2 == 0 && g6 a
  | .gld h sx size d a off =>
    h.load && decide (size < 5) && g6 d && g6 a && decide (off < 2 ^ 28) &&
    !(sx && decide (3 ≤ size)) && !(size == 4 && d % 2 == 1)
  | .gst h size a b off =>
    h.store && decide (size < 5) && g6 a && g6 b && decide (off < 2 ^ 28) && !(size == 4 && b % 2 == 1)
  | .gatom h op size d a b => h.atomic && decide (op < 10) && (size == 2 || size == 3) && g6 d && g6 a && g6 b
  | .qcast h d a b => h.plain && g6 d && g6 a && g6 b
  | .rstAdd h ty d a b => h.store && decide (ty < 3) && g6 d && g6 a && g6 b
  | .rstMax h ty d a b => h.store && decide (ty < 5) && g6 d && g6 a && g6 b
  | .mgCfgOpen h d a => h.plain && g6 d && g6 a && a != 0
  | .mgCfgFree h d b => h.plain && g6 d && g6 b
  | .mgRd h d b => h.plain && g6 d && g6 b
  | .gnfy h a => h.store && g6 a
  | .neQpOpen h d a => h.plain && g6 d && g6 a
  | .neQpClose h d a => h.plain && g6 d && g6 a
  | .neQpRd h d a => h.plain && g6 d && g6 a
  | .nePost h d a b => h.plain && g6 d && g6 a && g6 b
  | .nePostRx h d a b => h.plain && g6 d && g6 a && g6 b
  | .neArm h d a b => h.plain && g6 d && g6 a && g6 b
  | .neCtrRd h d a => h.plain && g6 d && g6 a
  | .neCtrSet h a b => h.plain && g6 a && g6 b
  | .neCtrAdd h a b => h.plain && g6 a && g6 b
  | .neCwait h d a b => h.plain && g6 d && g6 a && g6 b
  | .nePoll h d a => h.plain && g6 d && g6 a
  | .smCtxOpen h d a => h.plain && g6 d && g6 a
  | .smCtxClose h d a => h.plain && g6 d && g6 a
  | .smCtxReset h d a => h.plain && g6 d && g6 a
  | .smCtxRd h d a => h.plain && g6 d && g6 a
  | .smProg h d a b => h.plain && g6 d && g6 a && g6 b
  | .smStart h d a b => h.plain && g6 d && g6 a && g6 b
  | .smCancel h d a => h.plain && g6 d && g6 a
  | .smWait h d a => h.plain && g6 d && g6 a
  | .smWaitTry h d a => h.plain && g6 d && g6 a
  | .dbgHalt h d a => h.plain && g6 d && g6 a
  | .dbgStep h d a b => h.plain && g6 d && g6 a && g6 b
  | .dbgResume h d a b => h.plain && g6 d && g6 a && g6 b
  | .dbgRdc h d a b => h.plain && g6 d && d % 2 == 0 && g6 a && g6 b
  | .dbgBp h d a b => h.plain && g6 d && g6 a && g6 b
  | .dbgClr h d a => h.plain && g6 d && g6 a
  | .launch h d a slot => h.plain && g6 d && g6 a && decide (slot < 64)
  | .qmap h d a b => h.plain && g6 d && g6 a && g6 b
  | .qunmap h d b => h.plain && g6 d && g6 b
  | .qstat h d b => h.plain && g6 d && g6 b
  | .dataNop h => h.fits
  | .dataRim h => h.fits
  | .dataRegion h mode => h.fits && decide (mode < 2)
  | .vloopQ h len => h.fits && decide (0 < len) && decide (len < 512)
  | .vwhileQ h len => h.fits && decide (len < 512)
  | .vifQ h len => h.fits && decide (len < 512)
  | .vvalQ h xd => h.fits && x5 xd
  | .vmaskQ h kd => h.fits && decide (kd < 16)
  | .vxset h xd src val =>
    h.fits && x5 xd && decide (src < 3) && (if src == 0 then decide (val < 2 ^ 25) else decide (val < 8))
  | .vxadd h xa xd imm => h.fits && x5 xa && x5 xd && decide (imm < 2 ^ 28)
  | .mloopQ h len => h.fits && decide (0 < len) && decide (len < 512)
  | .mwhileQ h len => h.fits && decide (len < 512)
  | .mifQ h len => h.fits && decide (len < 512)
  | .mvalQ h xd => h.fits && x5 xd
  | .mxset h xd src val =>
    h.fits && x5 xd && decide (src < 3) && (if src == 0 then decide (val < 2 ^ 25) else decide (val < 8))
  | .mxadd h xa xd imm => h.fits && x5 xa && x5 xd && decide (imm < 2 ^ 28)
  | .cpLoopQ h len => h.fits && decide (0 < len) && decide (len < 512)
  | .cpWhileQ h len => h.fits && decide (len < 512)
  | .cpIfQ h len => h.fits && decide (len < 512)
  | .cpValQ h xd => h.fits && x5 xd
  | .cpXset h xd src val =>
    h.fits && x5 xd && decide (src < 3) && (if src == 0 then decide (val < 2 ^ 25) else decide (val < 8))
  | .cpXadd h xa xd imm => h.fits && x5 xa && x5 xd && decide (imm < 2 ^ 28)
  | .vadd h r => h.fits && r.arith
  | .vsub h r => h.fits && r.arith
  | .vmul h r => h.fits && r.arith
  | .vfma h r => h.fits && r.arith
  | .vmin h r => h.fits && r.fits && r.exact
  | .vmax h r => h.fits && r.fits && r.exact
  | .vand h r => h.fits && r.raw
  | .vor h r => h.fits && r.raw
  | .vxor h r => h.fits && r.raw
  | .vnot h r => h.fits && r.raw && r.vb == 0
  | .vshl h r => h.fits && r.fits && r.exact && !viewFloat r.view
  | .vshr h r => h.fits && r.fits && r.exact && !viewFloat r.view
  | .vsra h r => h.fits && r.fits && r.exact && !viewFloat r.view && r.view != 8
  | .vcmp h rel r => h.fits && r.fits && r.exact && decide (rel < 6)
  | .vsel h r => h.fits && r.raw
  | .vmovi h imm men km vd => h.fits && decide (imm < 2 ^ 32) && maskFits men km && decide (vd < 512)
  | .vcvt h dst r =>
    h.fits && r.fits && decide (dst < 9) && dst != r.view &&
    decide (r.vb < partLimit (viewWidth r.view) (viewWidth dst)) && r.cvtFits dst
  | .vexp2 h r => h.fits && r.special
  | .vlog2 h r => h.fits && r.special
  | .vrcp h r => h.fits && r.special
  | .vrsq h r => h.fits && r.special
  | .vrotr h r => h.fits && r.raw && decide (r.vb < 64)
  | .vrotc h r => h.fits && r.raw && decide (r.vb < 16)
  | .vbcr h r => h.fits && r.raw && decide (r.vb < 64)
  | .vbcc h r => h.fits && r.raw && decide (r.vb < 16)
  | .vredr h op r =>
    h.fits && r.arith && decide (op < 3) && r.vb == 0 && (if op == 0 then decide (r.rm < 5) else r.exact)
  | .vredc h op r =>
    h.fits && r.arith && decide (op < 3) && r.vb == 0 && (if op == 0 then decide (r.rm < 5) else r.exact)
  | .vld h m => h.fits && m.fits 3
  | .vst h m => h.fits && m.fits 2
  | .vldr h g => h.fits && g.fits
  | .vstr h g => h.fits && g.fits
  | .vchain h vp g => h.fits && g.fits && decide (vp < 512) && x5 g.reg
  | .acvt h r => h.fits && r.fits && decide (r.va < 64) && decide (r.vb < 32 / viewWidth r.view)
  | .vkopAnd h kd ka kb => h.fits && decide (kd < 16) && decide (ka < 16) && decide (kb < 16)
  | .vkopOr h kd ka kb => h.fits && decide (kd < 16) && decide (ka < 16) && decide (kb < 16)
  | .vkopXor h kd ka kb => h.fits && decide (kd < 16) && decide (ka < 16) && decide (kb < 16)
  | .vkopAndn h kd ka kb => h.fits && decide (kd < 16) && decide (ka < 16) && decide (kb < 16)
  | .vkopNot h kd ka => h.fits && decide (kd < 16) && decide (ka < 16)
  | .vkopSet h kd => h.fits && decide (kd < 16)
  | .vkopClr h kd => h.fits && decide (kd < 16)
  | .vkmovToMask h r => h.fits && r.raw && r.vb == 0 && decide (r.vd < 16)
  | .vkmovToVector h r => h.fits && r.raw && r.vb == 0 && decide (r.va < 16)
  | .mma h m => h.fits && m.fits
  | .mclaim h ring cnt => h.fits && x5 ring && decide (cnt < 512)
  | .mrelease h ring cnt => h.fits && x5 ring && decide (cnt < 512)
  | .mzero h _ vd n => h.fits && decide (0 < n) && decide (vd + n ≤ 64)
  | .mfill h sf g => h.fits && decide (sf < 4) && g.unmasked && (if sf == 3 then decide (g.reg < 16) else decide (g.reg < 64))
  | .mdrain h df rm _ _ g => h.fits && decide (df < 5) && decide (rm < 5) && g.unmasked && decide (g.reg < 64)
  | .cpLin h x => h.fits && x.localSides
  | .cp2d h x => h.fits && x.localSides && x.xn != 31
  | .cpGth h x => h.fits && x.localSides
  | .cpSct h x => h.fits && x.localSides
  | .cpSet h x => h.fits && x.localSides && x.ssp == 0
  | .cpRcopy h x => h.fits && x.fits && (x.dsp == 2 || x.ssp == 2)
  | .cpFill h s d rl lc g => h.fits && fmtPair s d && decide (rl < 8) && decide (lc < 3) && g.unmasked && decide (g.reg < 31)
  | .cpDrain h s d rl lc g => h.fits && fmtPair s d && decide (rl < 8) && decide (lc < 3) && g.unmasked && decide (g.reg < 31)
  | .cpTr h ew g => h.fits && decide (ew < 3) && g.unmasked && x5 g.reg
  | .nld _ off d a => decide (off < 1024) && n24 d && decide (a < 8)
  | .nst _ off d a => decide (off < 1024) && n24 d && decide (a < 8)
  | .nadd f d a b => f.fits && n24 d && n24 a && n24 b
  | .nsub f d a b => f.fits && n24 d && n24 a && n24 b
  | .nmul f d a b => f.fits && n24 d && n24 a && n24 b
  | .nfma f d a b => f.fits && n24 d && n24 a && n24 b
  | .nmax ftz fmt d a b => decide (fmt < 4) && (fmt != 3 || !ftz) && n24 d && n24 a && n24 b
  | .nmin ftz fmt d a b => decide (fmt < 4) && (fmt != 3 || !ftz) && n24 d && n24 a && n24 b
  | .ncmp rel ftz fmt d a b => decide (rel < 6) && decide (fmt < 4) && (fmt != 3 || !ftz) && n24 d && n24 a && n24 b
  | .nsel d a b => n24 d && n24 a && n24 b
  | .nexp2 _ fmt d a => decide (fmt < 3) && n24 d && n24 a
  | .ncvt half dst f d a =>
    decide (dst < 4) && decide (f.fmt < 4) && decide (f.rm < 5) && dst != f.fmt &&
    (if nmuWidth dst == nmuWidth f.fmt then half == 0 else decide (half < 2)) && n24 d && n24 a
  | .nmov d a => n24 d && n24 a
  | .nbcst fmt e d a => decide (fmt < 4) && decide (e < 1024 / nmuWidth fmt) && n24 d && n24 a
  | .nredmax sat ftz fmt d a => !sat && decide (fmt < 4) && (fmt != 3 || !ftz) && n24 d && n24 a
  | .nredsum f d a => f.fits && n24 d && n24 a
  | .nlogic fn d a b => decide (fn < 5) && n24 d && n24 a && n24 b && (fn != 4 || b == 0)
  | .nset kind v d => decide (kind < 3) && decide (v < 512) && n24 d
  | .nloop _ len cnt => decide (0 < len) && decide (len < 32) && decide (cnt < 2048)
  | .nloop2 _ len cnt => decide (0 < len) && decide (len < 32) && decide (cnt < 2048)
  | .nemit cnt d a b => decide (0 < cnt) && decide (cnt < 9) && n24 d && n24 a && decide (b + cnt ≤ 24) && n24 b
  | .nend => true
  | .naddr imm d a => decide (imm < 2048) && decide (d < 8) && decide (a < 8)
  | .smLd _ off d a => decide (off < 1024) && sD d && s5 a
  | .smSt _ off a b => decide (off < 1024) && s5 a && s5 b
  | .smLi _ val d => decide (val < 2 ^ 20) && sD d
  | .smMov d a => sD d && s5 a
  | .smAdd f imm d a b => decide (imm < 1024) && (!f || imm == 0) && sD d && s5 a && s5 b
  | .smSub f imm d a b => decide (imm < 1024) && (!f || imm == 0) && sD d && s5 a && s5 b
  | .smCmp u rel f d a b => decide (rel < 6) && !(u && f) && sD d && s5 a && s5 b
  | .smMax _ d a b => sD d && s5 a && s5 b
  | .smDiv d a b => sD d && s5 a && s5 b
  | .smExp d a => sD d && s5 a
  | .smSum kind d => decide (kind < 3) && sD d
  | .smTopk k d a b => decide (0 < k) && decide (k ≤ 1024) && sD d && s5 a && s5 b
  | .smTopp d a => sD d && s5 a
  | .smTemp d a => sD d && s5 a
  | .smRng _ d => sD d
  | .smDraw d a => sD d && s5 a
  | .smTree d a => decide (0 < d) && decide (d ≤ 25) && s5 a
  | .smAcc _ d a b => sD d && s5 a && s5 b
  | .smEmit a => s5 a
  | .smBr off => decide (off < 2 ^ 21)
  | .smBz a off => s5 a && decide (off < 2048)
  | .smEnd a => s5 a
  | .pageWalkComplete _ => true
  | .phaseComplete _ => true
  | .rimRendezvous _ => true
  | .barrierCarryFlip _ => true
  | .eventSignalArrival _ => true
  | .asyncFaultTake _ => true
  | .dispatcherAnswer _ _ => true
  | .regionCrossingComplete _ => true
  | .dataFreezeEnd _ => true
  | .freezeTimeout _ => true
  | .timingTrap _ => true
  | .arrayWordStart _ => true
  | .resultDue _ => true
  | .mreleaseSlotsEmpty _ => true
  | .matrixQueueStart _ => true
  | .matrixQueueW _ => true
  | .copyTransferComplete _ _ => true
  | .ibufFill _ _ => true
  | .homeRequest _ _ _ => true
  | .storedTransferComplete _ => true
  | .cacheEviction _ _ _ _ => true
  | .memoryReadReturn _ _ _ => true
  | .fabricRequestArrival _ _ _ => true
  | .fabricRefusal _ _ => true
  | .fabricRetryResend _ _ => true
  | .fabricReply _ _ => true
  | .replayWrite _ _ => true
  | .discardWrite _ _ => true
  | .errorEntryClear _ _ _ => true
  | .rdescWrite _ _ _ _ => true
  | .barrierConfigWrite _ _ _ _ => true
  | .deviceRegisterWrite _ _ => true
  | .notifyWrite _ _ _ => true
  | .packetTake _ _ _ => true
  | .dependenceRecheck _ _ _ => true
  | .packetComplete _ _ => true
  | .weavePlacement _ => true
  | .reservationRequest _ _ => true
  | .reservationReply _ => true
  | .quantumExpiry _ _ => true
  | .preemptDecision _ _ => true
  | .jobSaveComplete _ => true
  | .preemptOverdue _ => true
  | .weaveResume _ => true
  | .weaveComplete _ => true
  | .weaveTeardown _ => true
  | .graphNodeReady _ _ _ => true
  | .savepoolWrite _ _ _ => true
  | .nmuCommandStart _ => true
  | .nmuPreemptStop _ => true
  | .nmuRestWatchdog _ => true
  | .nmuResume _ => true
  | .walkAccept _ => true
  | .walkSectorReturn _ _ => true
  | .walkStepLimit _ => true
  | .walkSlotFull _ => true
  | .reduceContribution _ => true
  | .reduceTimeout _ => true
  | .stripeMessage _ => true
  | .partialArrival _ => true
  | .mergeTimeout _ => true
  | .queryCompletionDone _ => true
  | .switchDieAnswer _ _ => true
  | .neEntryStart _ _ _ => true
  | .neAckArrival _ _ _ _ _ _ => true
  | .neRtoExpiry _ _ _ => true
  | .nePacketReceive _ _ => true
  | .smRunBegin _ _ => true
  | .smStepLimit _ _ => true
  | .smcancelWrite _ _ => true
  | .smCancelEffect _ _ => true
  | .haltCause _ _ _ _ _ _ => true
  | .haltWaveArrival _ => true
  | .haltSettled _ => true
  | .haltControllerAnswer _ _ => true
  | .resumeAtT _ => true
  | .hcmdHalt _ => true
  | .hcmdStep _ => true
  | .hcmdResume _ => true
  | .hcmdRdc _ => true
  | .hcmdBp _ => true
  | .hcmdClr _ => true
  | .hostMemoryAccess _ _ _ _ _ => true
  | .powerOn _ _ _ _ => true
  | .joinEnd => true
  | .fwctlCommit _ => true
  | .attcmdStart _ => true
  | .attestReportReady _ => true
  | .coolantFlowChange _ => true
  | .flowRecoveryTimer => true
  | .junctionTemperatureChange _ _ => true
  | .thermalTrip _ => true
  | .pcapWrite _ _ _ => true
  | .clkforceWrite _ _ => true
  | .ageSample _ _ _ => true
  | .killWrite _ _ => true
  | .lostWrite _ _ => true
  | .apbaseWrite _ _ => true
  | .mgmtintWrite _ _ => true
  | .netaddrWrite _ _ _ => true
  | .walkStoreWrite _ _ _ => true
  | .edgectlWrite _ _ => true
  | .trkArmAnswer _ _ => true
  | .neCommandAnswer _ _ => true
  | .samplerAnswer _ _ => true
  | .nstatAnswer _ _ => true
  | .qcastAnswer _ _ => true
  | .illegalInstruction raw => anyRaw raw
  | .nePacketTransmit _ _ _ => true
  | .powerOff _ => true
  | .swcapWrite _ _ => true
  | .clockStepChange _ _ => true

end Sys2Proof
end

