-- ==== Sys2Proof/Decode.lean ====
section
/-! DEFINITION. The decoder: from the words a strand fetches to an instruction, or the fate of an encoding that
is none (R45 to R68), and after it the encoder, from the same layouts. The word layouts stand once each, as
numbers: a field is cut out with fld and put back at its place. -/

namespace Sys2Proof

/-- The n bits of w from bit lo up (R4). -/
def fld (w lo n : Nat) : Nat := w / 2 ^ lo % 2 ^ n

/-- The instruction, where the word's unused fields are 0 (R47). -/
def zeros (c : Bool) (i : Instr) : Option Instr := if c then some i else none

/-- The header of a data word (R57). -/
def parseDHdr (w : Nat) : DHdr := ⟨fld w 10 1 == 1, fld w 0 10⟩

/-- Format D-R but for FN (R58). -/
def parseDR (w : Nat) : DR :=
  ⟨fld w 58 1 == 1, fld w 57 1 == 1, fld w 53 4, fld w 50 3, fld w 49 1 == 1, fld w 45 4, fld w 36 9, fld w 27 9,
    fld w 18 9⟩

/-- Format D-M (R59). -/
def parseDM (w : Nat) : DM :=
  ⟨fld w 60 4, fld w 50 10, fld w 49 1 == 1, fld w 45 4, fld w 42 3, fld w 41 1 == 1, fld w 39 2, fld w 36 3,
    fld w 27 9, fld w 18 9⟩

/-- Format D-G but for FN (R60). -/
def parseDG (w : Nat) : DG :=
  ⟨fld w 50 3, fld w 49 1 == 1, fld w 45 4, fld w 36 9, fld w 27 9, fld w 18 9⟩

/-- The copy engine's D-X layout (R231). -/
def parseDX (w : Nat) : DX :=
  ⟨fld w 61 1 == 1, fld w 58 3, fld w 56 2, fld w 54 2, fld w 45 9, fld w 36 9, fld w 27 9, fld w 18 9⟩

/-- The D-X layout of `mma` (R301). -/
def parseMma (w : Nat) : DMma :=
  ⟨fld w 62 2, fld w 58 4, fld w 57 1 == 1, fld w 55 2, fld w 53 2, fld w 52 1 == 1, fld w 49 3, fld w 48 1 == 1,
    fld w 45 3, fld w 36 9, fld w 27 9, fld w 18 9⟩

/-- The arithmetic part of IMM11 (R323). -/
def parseNAr (i : Nat) : NAr := ⟨i / 64 % 2 == 1, i / 32 % 2 == 1, i / 4 % 8, i % 4⟩

/-- A prefix word (R50); none where a reserved bit is set. -/
def parsePfx (w : Nat) : Option Pfx :=
  if fld w 17 15 == 0 then
    some ⟨fld w 2 1 == 1, fld w 3 1 == 1, fld w 4 3, fld w 7 1 == 1, fld w 8 1 == 1, fld w 9 1 == 1,
      fld w 10 1 == 1, fld w 11 1 == 1, fld w 12 3, fld w 15 2⟩
  else none

/-- The 32-bit control words by major opcode and FN (R46, R55, R56): the fields as they stand; every field a
word does not use is 0 (R47). -/
def parseControl32 (h : CHdr) (w : Nat) : Option Instr :=
  let op := fld w 3 7
  let rd := fld w 10 6
  let ra := fld w 16 6
  let rb := fld w 22 6
  let fn := fld w 28 4
  let imm := fld w 22 10
  match op with
  | 0x01 =>
    if fn == 0 then some (.add h rd ra rb)
    else if fn == 1 then some (.sub h rd ra rb)
    else if fn == 2 then some (.and h rd ra rb)
    else if fn == 3 then some (.or h rd ra rb)
    else if fn == 4 then some (.xor h rd ra rb)
    else if fn == 5 then some (.shl h rd ra rb)
    else if fn == 6 then some (.shr h rd ra rb)
    else if fn == 7 then some (.sra h rd ra rb)
    else if fn == 8 then some (.slt h rd ra rb)
    else if fn == 9 then some (.sltu h rd ra rb)
    else if fn == 10 then some (.min h rd ra rb)
    else if fn == 11 then some (.max h rd ra rb)
    else if fn == 12 then some (.minu h rd ra rb)
    else if fn == 13 then some (.maxu h rd ra rb) else none
  | 0x02 => some (.addi h rd ra imm)
  | 0x03 => some (.andi h rd ra imm)
  | 0x04 => some (.ori h rd ra imm)
  | 0x05 => some (.xori h rd ra imm)
  | 0x06 =>
    if imm / 256 == 0 then zeros (imm / 64 % 4 == 0) (.shli h rd ra (imm % 64))
    else if imm / 256 == 1 then zeros (imm / 64 % 4 == 0) (.shri h rd ra (imm % 64))
    else if imm / 256 == 2 then zeros (imm / 64 % 4 == 0) (.srai h rd ra (imm % 64)) else none
  | 0x07 => some (.slti h rd ra imm)
  | 0x08 =>
    if fn == 0 then some (.mul h rd ra rb)
    else if fn == 1 then some (.mulh h rd ra rb)
    else if fn == 2 then some (.mulhu h rd ra rb) else none
  | 0x09 =>
    if fn == 0 then some (.div h rd ra rb)
    else if fn == 1 then some (.divu h rd ra rb)
    else if fn == 2 then some (.rem h rd ra rb)
    else if fn == 3 then some (.remu h rd ra rb) else none
  | 0x0C =>
    if fn / 3 == 0 then some (.fadd h (fn % 3) rd ra rb)
    else if fn / 3 == 1 then some (.fsub h (fn % 3) rd ra rb)
    else if fn / 3 == 2 then some (.fmul h (fn % 3) rd ra rb)
    else if fn / 3 == 3 then some (.fmin h (fn % 3) rd ra rb)
    else if fn / 3 == 4 then some (.fmax h (fn % 3) rd ra rb) else none
  | 0x0E =>
    if fn / 3 == 0 then some (.fdiv h (fn % 3) rd ra rb)
    else if fn / 3 == 1 then zeros (rb == 0) (.fsqrt h (fn % 3) rd ra) else none
  | 0x0F =>
    if fn / 3 == 0 then some (.feq h (fn % 3) rd ra rb)
    else if fn / 3 == 1 then some (.flt h (fn % 3) rd ra rb)
    else if fn / 3 == 2 then some (.fle h (fn % 3) rd ra rb) else none
  | 0x10 => zeros (rb == 0) (.fcvt h fn rd ra)
  | 0x12 => some (.beq h ra rd imm)
  | 0x13 => some (.bne h ra rd imm)
  | 0x14 => some (.blt h ra rd imm)
  | 0x15 => some (.bge h ra rd imm)
  | 0x16 => some (.bltu h ra rd imm)
  | 0x17 => some (.bgeu h ra rd imm)
  | 0x18 => some (.j h (fld w 10 22))
  | 0x19 => some (.call h (fld w 10 22))
  | 0x1A =>
    if fn == 0 then zeros (rd == 0 && rb == 0) (.jr h ra)
    else if fn == 1 then zeros (rd == 0 && rb == 0) (.callr h ra)
    else if fn == 2 then zeros (rd == 0 && ra == 0 && rb == 0) (.ret h) else none
  | 0x1F =>
    if fn == 0 then zeros (rd == 0 && ra == 0 && rb == 0) (.fence h)
    else if fn == 1 then zeros (rd == 0 && ra == 0 && rb == 0) (.fenceSc h) else none
  | 0x20 =>
    if fn == 0 then zeros (rd == 0 && ra == 0 && rb == 0) (.qmark h) else none
  | 0x21 =>
    if fn == 0 then zeros (rd == 0) (.cleanR h ra rb) else none
  | 0x22 =>
    if fn == 0 then zeros (rd == 0) (.invR h ra rb) else none
  | 0x23 =>
    if fn == 0 then zeros (rd == 0) (.cleaninvR h ra rb) else none
  | 0x24 => some (.probe h fn rd ra rb)
  | 0x25 => zeros (rd == 0 && ra == 0) (.phase h imm)
  | 0x26 => zeros (rb == 0) (.cqCount h rd ra fn)
  | 0x27 => zeros (rb == 0) (.cqOut h rd ra fn)
  | 0x28 => some (.cqMrow h rd ra rb fn)
  | 0x29 => some (.cqMbits h rd ra rb fn)
  | 0x2A => zeros (rb == 0) (.cqVal h rd ra fn)
  | 0x2B => zeros (rd == 0 && ra == 0 && rb == 0) (.cqRegion h fn)
  | 0x2C => zeros (ra == 0 && rb == 0) (.cqSquash h rd fn)
  | 0x2D =>
    if fn == 0 then zeros (rd == 0 && ra == 0 && rb == 0) (.go h) else none
  | 0x2E =>
    if fn == 0 then zeros (rd == 0 && ra == 0 && rb == 0) (.rim h) else none
  | 0x2F =>
    if fn == 0 then zeros (rd == 0 && ra == 0 && rb == 0) (.jend h) else none
  | 0x31 =>
    if fn == 0 then zeros (rd == 0 && ra == 0 && rb == 0) (.texit h) else none
  | 0x32 =>
    if fn == 0 then zeros (rd == 0) (.barw h ra rb) else none
  | 0x33 =>
    if fn == 0 then zeros (rb == 0) (.bara h rd ra) else none
  | 0x34 =>
    if fn == 0 then zeros (rd == 0 && rb == 0) (.evs h ra) else none
  | 0x35 =>
    if fn == 0 then zeros (rd == 0 && rb == 0) (.evw h ra) else none
  | 0x37 =>
    if fn == 0 then zeros (rd == 0 && ra == 0 && rb == 0) (.restart h) else none
  | 0x38 =>
    if fn == 0 then zeros (ra == 0) (.sysr h rd rb) else none
  | 0x39 =>
    if fn == 0 then zeros (rd == 0) (.sysw h rb ra) else none
  | 0x3A =>
    if fn == 0 then zeros (rd == 0 && rb == 0) (.trap h ra) else none
  | 0x3B =>
    if fn == 0 then zeros (rd == 0 && ra == 0 && rb == 0) (.brk h) else none
  | 0x3C =>
    if fn == 0 then zeros (rd == 0 && ra == 0 && rb == 0) (.tret h) else none
  | 0x3D =>
    if fn == 0 then zeros (rd == 0 && ra == 0 && rb == 0) (.ctlNop h) else none
  | 0x49 =>
    if fn == 0 then zeros (rd == 0 && ra == 0 && rb == 0) (.nfence h) else none
  | 0x4A =>
    if fn == 0 then zeros (rb == 0) (.nstat h rd ra) else none
  | 0x55 =>
    if fn == 0 then zeros (rb == 0) (.twWait h rd ra)
    else if fn == 1 then zeros (rb == 0) (.twWaitTry h rd ra) else none
  | 0x5E =>
    if fn == 0 then (if ra == 0 then some (.mgCfgFree h rd rb) else zeros (rb == 0) (.mgCfgOpen h rd ra))
    else if fn == 1 then zeros (ra == 0) (.mgRd h rd rb) else none
  | 0x5F =>
    if fn == 0 then zeros (rd == 0 && rb == 0) (.gnfy h ra) else none
  | 0x60 =>
    if fn == 0 then zeros (rb == 0) (.neQpOpen h rd ra)
    else if fn == 1 then zeros (rb == 0) (.neQpClose h rd ra)
    else if fn == 2 then zeros (rb == 0) (.neQpRd h rd ra) else none
  | 0x61 =>
    if fn == 0 then some (.nePost h rd ra rb)
    else if fn == 1 then some (.nePostRx h rd ra rb) else none
  | 0x62 =>
    if fn == 0 then some (.neArm h rd ra rb) else none
  | 0x63 =>
    if fn == 0 then zeros (rb == 0) (.neCtrRd h rd ra)
    else if fn == 1 then zeros (rd == 0) (.neCtrSet h ra rb)
    else if fn == 2 then zeros (rd == 0) (.neCtrAdd h ra rb) else none
  | 0x64 =>
    if fn == 0 then some (.neCwait h rd ra rb) else none
  | 0x65 =>
    if fn == 0 then zeros (rb == 0) (.nePoll h rd ra) else none
  | 0x68 =>
    if fn == 0 then zeros (rb == 0) (.smCtxOpen h rd ra)
    else if fn == 1 then zeros (rb == 0) (.smCtxClose h rd ra)
    else if fn == 2 then zeros (rb == 0) (.smCtxReset h rd ra)
    else if fn == 3 then zeros (rb == 0) (.smCtxRd h rd ra) else none
  | 0x69 =>
    if fn == 0 then some (.smProg h rd ra rb) else none
  | 0x6A =>
    if fn == 0 then some (.smStart h rd ra rb) else none
  | 0x6B =>
    if fn == 0 then zeros (rb == 0) (.smCancel h rd ra) else none
  | 0x6C =>
    if fn == 0 then zeros (rb == 0) (.smWait h rd ra)
    else if fn == 1 then zeros (rb == 0) (.smWaitTry h rd ra) else none
  | 0x70 =>
    if fn == 0 then zeros (rb == 0) (.dbgHalt h rd ra) else none
  | 0x71 =>
    if fn == 0 then some (.dbgStep h rd ra rb) else none
  | 0x72 =>
    if fn == 0 then some (.dbgResume h rd ra rb) else none
  | 0x73 =>
    if fn == 0 then some (.dbgRdc h rd ra rb)
    else if fn == 1 then some (.dbgBp h rd ra rb)
    else if fn == 2 then zeros (rb == 0) (.dbgClr h rd ra) else none
  | 0x75 =>
    if fn == 0 then some (.qmap h rd ra rb) else none
  | 0x76 =>
    if fn == 0 then zeros (ra == 0) (.qunmap h rd rb) else none
  | 0x77 =>
    if fn == 0 then zeros (ra == 0) (.qstat h rd rb) else none
  | _ => none

/-- The 64-bit control words (format C-W, R46): w is the first half, imm the second. -/
def parseControl64 (h : CHdr) (w imm : Nat) : Option Instr :=
  let op := fld w 3 7
  let rd := fld w 10 6
  let ra := fld w 16 6
  let rb := fld w 22 6
  let fn := fld w 28 4
  match op with
  | 0x0A => zeros (ra == 0 && rb == 0 && fn == 0) (.li h rd imm)
  | 0x0B => zeros (ra == 0 && rb == 0 && fn == 0) (.lih h rd imm)
  | 0x0D => some (.ffma h fn rd ra rb imm)
  | 0x1B => zeros (rb == 0) (.ld h (fn / 8 == 1) (fn % 8) rd ra (imm / 2 ^ 31 == 1) (imm / 2 ^ 28 % 8) (imm % 2 ^ 28))
  | 0x1C => zeros (rd == 0) (.st h fn ra rb (imm / 2 ^ 31 == 1) (imm / 2 ^ 28 % 8) (imm % 2 ^ 28))
  | 0x1D => some (.atom h fn imm rd ra rb)
  | 0x1E => zeros (imm == 0) (.cas h fn rd ra rb)
  | 0x30 => zeros (rb == 0 && fn == 0) (.tspawn h rd ra imm)
  | 0x36 => zeros (rb == 0 && fn == 0 && imm == 0) (.trkArm h rd ra)
  | 0x48 => zeros (rd == 0 && fn == 0) (.ncmd h ra rb imm)
  | 0x50 => zeros (rd == 0 && imm / 64 == 0) (.twList h fn ra rb (imm / 32 == 1) (imm % 32))
  | 0x51 => zeros (rd == 0 && imm / 64 == 0) (.twHash h fn ra rb (imm / 32 == 1) (imm % 32))
  | 0x52 => zeros (rd == 0 && imm / 64 == 0) (.twKvb h fn ra rb (imm / 32 == 1) (imm % 32))
  | 0x53 => zeros (rd == 0 && imm / 64 == 0) (.twTree h fn ra rb (imm / 32 == 1) (imm % 32))
  | 0x54 => zeros (rd == 0 && imm / 64 == 0) (.twRwalk h fn ra rb (imm / 32 == 1) (imm % 32))
  | 0x58 => zeros (rb == 0) (.gld h (fn / 8 == 1) (fn % 8) rd ra imm)
  | 0x59 => zeros (rd == 0) (.gst h fn ra rb imm)
  | 0x5A => some (.gatom h fn imm rd ra rb)
  | 0x5B => zeros (fn == 0 && imm == 0) (.qcast h rd ra rb)
  | 0x5C => zeros (imm == 0) (.rstAdd h fn rd ra rb)
  | 0x5D => zeros (imm == 0) (.rstMax h fn rd ra rb)
  | 0x74 => zeros (rb == 0 && fn == 0) (.launch h rd ra imm)
  | _ => none

/-- The words of the vector strand (R61, R64, R270 to R290). -/
def parseVector (w : Nat) : Option Instr :=
  let h := parseDHdr w
  if fld w 11 1 == 1 then none else
  match fld w 12 6 with
  | 0x00 => zeros (w / 2 ^ 18 == 0) (.dataNop h)
  | 0x01 => zeros (w / 2 ^ 18 == 0) (.dataRim h)
  | 0x02 => some (.dataRegion h (w / 2 ^ 18))
  | 0x03 => some (.vloopQ h (w / 2 ^ 18))
  | 0x04 => some (.vwhileQ h (w / 2 ^ 18))
  | 0x05 => some (.vifQ h (w / 2 ^ 18))
  | 0x06 => zeros (fld w 18 9 == 0) (.vvalQ h (w / 2 ^ 27))
  | 0x07 => zeros (fld w 18 9 == 0) (.vmaskQ h (w / 2 ^ 27))
  | 0x08 => zeros (fld w 18 9 == 0) (.vxset h (fld w 27 9) (fld w 36 3) (w / 2 ^ 39))
  | 0x09 => some (.vxadd h (fld w 18 9) (fld w 27 9) (w / 2 ^ 36))
  | 0x10 => zeros (fld w 59 5 == 0) (.vadd h (parseDR w))
  | 0x11 => zeros (fld w 59 5 == 0) (.vsub h (parseDR w))
  | 0x12 => zeros (fld w 59 5 == 0) (.vmul h (parseDR w))
  | 0x13 => zeros (fld w 59 5 == 0) (.vfma h (parseDR w))
  | 0x14 => zeros (fld w 59 5 == 0) (.vmin h (parseDR w))
  | 0x15 => zeros (fld w 59 5 == 0) (.vmax h (parseDR w))
  | 0x16 =>
    if fld w 59 5 == 0 then some (.vand h (parseDR w))
    else if fld w 59 5 == 1 then some (.vor h (parseDR w))
    else if fld w 59 5 == 2 then some (.vxor h (parseDR w))
    else if fld w 59 5 == 3 then some (.vnot h (parseDR w)) else none
  | 0x17 =>
    if fld w 59 5 == 0 then some (.vshl h (parseDR w))
    else if fld w 59 5 == 1 then some (.vshr h (parseDR w))
    else if fld w 59 5 == 2 then some (.vsra h (parseDR w)) else none
  | 0x18 => some (.vcmp h (fld w 59 5) (parseDR w))
  | 0x19 => zeros (fld w 59 5 == 0) (.vsel h (parseDR w))
  | 0x1A => some (.vcvt h (fld w 59 5) (parseDR w))
  | 0x1B => zeros (fld w 59 5 == 0) (.vexp2 h (parseDR w))
  | 0x1C => zeros (fld w 59 5 == 0) (.vlog2 h (parseDR w))
  | 0x1D => zeros (fld w 59 5 == 0) (.vrcp h (parseDR w))
  | 0x1E => zeros (fld w 59 5 == 0) (.vrsq h (parseDR w))
  | 0x1F => some (.vmovi h (fld w 32 32) (fld w 31 1 == 1) (fld w 27 4) (fld w 18 9))
  | 0x20 => zeros (fld w 59 5 == 0) (.vrotr h (parseDR w))
  | 0x21 => zeros (fld w 59 5 == 0) (.vrotc h (parseDR w))
  | 0x22 => zeros (fld w 59 5 == 0) (.vbcr h (parseDR w))
  | 0x23 => zeros (fld w 59 5 == 0) (.vbcc h (parseDR w))
  | 0x24 => some (.vredr h (fld w 59 5) (parseDR w))
  | 0x25 => some (.vredc h (fld w 59 5) (parseDR w))
  | 0x28 => some (.vld h (parseDM w))
  | 0x29 => some (.vst h (parseDM w))
  | 0x2A => zeros (fld w 53 11 == 0) (.vldr h (parseDG w))
  | 0x2B => zeros (fld w 53 11 == 0) (.vstr h (parseDG w))
  | 0x2C => zeros (fld w 53 2 == 0) (.vchain h (fld w 55 9) (parseDG w))
  | 0x30 => zeros (fld w 59 5 == 0) (.acvt h (parseDR w))
  | 0x31 =>
    let kd := fld w 18 9
    let ka := fld w 27 9
    let kb := fld w 36 9
    if fld w 45 14 == 0 then
      (match fld w 59 5 with
       | 0 => some (.vkopAnd h kd ka kb)
       | 1 => some (.vkopOr h kd ka kb)
       | 2 => some (.vkopXor h kd ka kb)
       | 3 => some (.vkopAndn h kd ka kb)
       | 4 => zeros (kb == 0) (.vkopNot h kd ka)
       | 5 => zeros (ka == 0 && kb == 0) (.vkopSet h kd)
       | 6 => zeros (ka == 0 && kb == 0) (.vkopClr h kd)
       | _ => none)
    else none
  | 0x32 =>
    if fld w 59 5 == 0 then some (.vkmovToMask h (parseDR w))
    else if fld w 59 5 == 1 then some (.vkmovToVector h (parseDR w)) else none
  | _ => none

/-- The words of the matrix strand (R61, R64, R301 to R307). -/
def parseMatrix (w : Nat) : Option Instr :=
  let h := parseDHdr w
  if fld w 11 1 == 1 then none else
  match fld w 12 6 with
  | 0x00 => zeros (w / 2 ^ 18 == 0) (.dataNop h)
  | 0x01 => zeros (w / 2 ^ 18 == 0) (.dataRim h)
  | 0x02 => some (.dataRegion h (w / 2 ^ 18))
  | 0x03 => some (.mloopQ h (w / 2 ^ 18))
  | 0x04 => some (.mwhileQ h (w / 2 ^ 18))
  | 0x05 => some (.mifQ h (w / 2 ^ 18))
  | 0x06 => zeros (fld w 18 9 == 0) (.mvalQ h (w / 2 ^ 27))
  | 0x08 => zeros (fld w 18 9 == 0) (.mxset h (fld w 27 9) (fld w 36 3) (w / 2 ^ 39))
  | 0x09 => some (.mxadd h (fld w 18 9) (fld w 27 9) (w / 2 ^ 36))
  | 0x10 => some (.mma h (parseMma w))
  | 0x11 => zeros (fld w 18 9 == 0 && fld w 45 19 == 0) (.mclaim h (fld w 27 9) (fld w 36 9))
  | 0x12 => zeros (fld w 18 9 == 0 && fld w 45 19 == 0) (.mrelease h (fld w 27 9) (fld w 36 9))
  | 0x13 =>
    if fld w 27 9 == 0 && fld w 43 16 == 0 then
      (match fld w 59 5 with
       | 0 => some (.mzero h false (fld w 18 9) (fld w 36 7))
       | 1 => some (.mzero h true (fld w 18 9) (fld w 36 7))
       | _ => none)
    else none
  | 0x14 => zeros (fld w 53 3 == 0) (.mdrain h (fld w 61 3) (fld w 58 3) (fld w 57 1 == 1) (fld w 56 1 == 1) (parseDG w))
  | 0x15 => zeros (fld w 53 8 == 0) (.mfill h (fld w 61 3) (parseDG w))
  | _ => none

/-- The words of the copy strand (R61, R64, R231, R239, R244). -/
def parseCopy (w : Nat) : Option Instr :=
  let h := parseDHdr w
  if fld w 11 1 == 1 then none else
  match fld w 12 6 with
  | 0x00 => zeros (w / 2 ^ 18 == 0) (.dataNop h)
  | 0x01 => zeros (w / 2 ^ 18 == 0) (.dataRim h)
  | 0x02 => some (.dataRegion h (w / 2 ^ 18))
  | 0x03 => some (.cpLoopQ h (w / 2 ^ 18))
  | 0x04 => some (.cpWhileQ h (w / 2 ^ 18))
  | 0x05 => some (.cpIfQ h (w / 2 ^ 18))
  | 0x06 => zeros (fld w 18 9 == 0) (.cpValQ h (w / 2 ^ 27))
  | 0x08 => zeros (fld w 18 9 == 0) (.cpXset h (fld w 27 9) (fld w 36 3) (w / 2 ^ 39))
  | 0x09 => some (.cpXadd h (fld w 18 9) (fld w 27 9) (w / 2 ^ 36))
  | 0x10 => zeros (w / 2 ^ 62 == 0) (.cpLin h (parseDX w))
  | 0x11 => zeros (w / 2 ^ 62 == 0) (.cp2d h (parseDX w))
  | 0x12 => zeros (w / 2 ^ 62 == 0) (.cpGth h (parseDX w))
  | 0x13 => zeros (w / 2 ^ 62 == 0) (.cpSct h (parseDX w))
  | 0x17 => zeros (w / 2 ^ 62 == 0) (.cpSet h (parseDX w))
  | 0x18 => zeros (w / 2 ^ 62 == 0) (.cpRcopy h (parseDX w))
  | 0x14 => some (.cpFill h (fld w 61 3) (fld w 58 3) (fld w 55 3) (fld w 53 2) (parseDG w))
  | 0x15 => some (.cpDrain h (fld w 61 3) (fld w 58 3) (fld w 55 3) (fld w 53 2) (parseDG w))
  | 0x16 => zeros (fld w 53 8 == 0) (.cpTr h (fld w 61 3) (parseDG w))
  | _ => none

/-- The words of an NMU program (R65, R66, R323 to R333). -/
def parseNmu (w : Nat) : Option Instr :=
  let i := fld w 0 11
  let b := fld w 11 5
  let a := fld w 16 5
  let d := fld w 21 5
  match fld w 26 6 with
  | 0x01 => zeros (b == 0) (.nld (i / 1024 == 1) (i % 1024) d a)
  | 0x02 => zeros (b == 0) (.nst (i / 1024 == 1) (i % 1024) d a)
  | 0x04 => zeros (i / 128 == 0) (.nadd (parseNAr i) d a b)
  | 0x05 => zeros (i / 128 == 0) (.nsub (parseNAr i) d a b)
  | 0x06 => zeros (i / 128 == 0) (.nmul (parseNAr i) d a b)
  | 0x07 => zeros (i / 128 == 0) (.nfma (parseNAr i) d a b)
  | 0x08 => zeros (i / 64 == 0 && i / 4 % 8 == 0) (.nmax (i / 32 % 2 == 1) (i % 4) d a b)
  | 0x09 => zeros (i / 64 == 0 && i / 4 % 8 == 0) (.nmin (i / 32 % 2 == 1) (i % 4) d a b)
  | 0x0A => zeros (i / 1024 == 0 && i / 64 % 2 == 0 && i / 4 % 8 == 0) (.ncmp (i / 128 % 8) (i / 32 % 2 == 1) (i % 4) d a b)
  | 0x0B => zeros (i == 0) (.nsel d a b)
  | 0x0C => zeros (b == 0 && i / 64 == 0 && i / 4 % 8 == 0) (.nexp2 (i / 32 % 2 == 1) (i % 4) d a)
  | 0x0D => zeros (b == 0 && i / 1024 == 0) (.ncvt (i / 512) (i / 128 % 4) (parseNAr i) d a)
  | 0x0E => zeros (b == 0 && i == 0) (.nmov d a)
  | 0x0F => zeros (b == 0 && i / 256 == 0) (.nbcst (i % 4) (i / 4) d a)
  | 0x10 => zeros (b == 0 && i / 128 == 0 && i / 4 % 8 == 0) (.nredmax (i / 64 % 2 == 1) (i / 32 % 2 == 1) (i % 4) d a)
  | 0x11 => zeros (b == 0 && i / 128 == 0) (.nredsum (parseNAr i) d a)
  | 0x12 => zeros (i / 1024 == 0 && i % 128 == 0) (.nlogic (i / 128) d a b)
  | 0x13 => zeros (a == 0 && b == 0) (.nset (i / 512) (i % 512) d)
  | 0x14 => zeros (d == 0 && a / 2 == 0) (.nloop (a == 1) b i)
  | 0x15 => zeros (d == 0 && a / 2 == 0) (.nloop2 (a == 1) b i)
  | 0x16 => zeros (i / 16 == 0) (.nemit i d a b)
  | 0x17 => zeros (d == 0 && a == 0 && b == 0 && i == 0) (.nend)
  | 0x18 => zeros (b == 0) (.naddr i d a)
  | _ => none

/-- The words of a sampler program (R67), before they are terms of Instr. -/
inductive SmOp where
  | ld (c : Bool) (off d a : Nat)
  | st (c : Bool) (off a b : Nat)
  | li (f : Bool) (val d : Nat)
  | mov (d a : Nat)
  | add (f : Bool) (imm d a b : Nat)
  | sub (f : Bool) (imm d a b : Nat)
  | cmp (u : Bool) (rel : Nat) (f : Bool) (d a b : Nat)
  | max (f : Bool) (d a b : Nat)
  | div (d a b : Nat)
  | exp (d a : Nat)
  | sum (kind d : Nat)
  | topk (k d a b : Nat)
  | topp (d a : Nat)
  | temp (d a : Nat)
  | rng (u : Bool) (d : Nat)
  | draw (d a : Nat)
  | tree (d a : Nat)
  | acc (excl : Bool) (d a b : Nat)
  | emit (a : Nat)
  | br (off : Nat)
  | bz (a off : Nat)
  | end_ (a : Nat)
deriving DecidableEq, Repr

/-- The checks of a sampler word (R67, R444). -/
def SmOp.ok (o : SmOp) : Bool :=
  match o with
  | .ld _ off d a => decide (off < 1024) && sD d && s5 a
  | .st _ off a b => decide (off < 1024) && s5 a && s5 b
  | .li _ val d => decide (val < 2 ^ 20) && sD d
  | .mov d a => sD d && s5 a
  | .add f imm d a b => decide (imm < 1024) && (!f || imm == 0) && sD d && s5 a && s5 b
  | .sub f imm d a b => decide (imm < 1024) && (!f || imm == 0) && sD d && s5 a && s5 b
  | .cmp u rel f d a b => decide (rel < 6) && !(u && f) && sD d && s5 a && s5 b
  | .max _ d a b => sD d && s5 a && s5 b
  | .div d a b => sD d && s5 a && s5 b
  | .exp d a => sD d && s5 a
  | .sum kind d => decide (kind < 3) && sD d
  | .topk k d a b => decide (0 < k) && decide (k ≤ 1024) && sD d && s5 a && s5 b
  | .topp d a => sD d && s5 a
  | .temp d a => sD d && s5 a
  | .rng _ d => sD d
  | .draw d a => sD d && s5 a
  | .tree d a => decide (0 < d) && decide (d ≤ 25) && s5 a
  | .acc _ d a b => sD d && s5 a && s5 b
  | .emit a => s5 a
  | .br off => decide (off < 2 ^ 21)
  | .bz a off => s5 a && decide (off < 2048)
  | .end_ a => s5 a

/-- The instruction of a sampler word. Lean's code generator has no tag left for these constructors of Instr, so this has no
compiled code; the kernel evaluates it, and the machine runs the words by SmOp. -/
noncomputable def SmOp.instr (o : SmOp) : Instr :=
  match o with
  | .ld c off d a => .smLd c off d a
  | .st c off a b => .smSt c off a b
  | .li f val d => .smLi f val d
  | .mov d a => .smMov d a
  | .add f imm d a b => .smAdd f imm d a b
  | .sub f imm d a b => .smSub f imm d a b
  | .cmp u rel f d a b => .smCmp u rel f d a b
  | .max f d a b => .smMax f d a b
  | .div d a b => .smDiv d a b
  | .exp d a => .smExp d a
  | .sum kind d => .smSum kind d
  | .topk k d a b => .smTopk k d a b
  | .topp d a => .smTopp d a
  | .temp d a => .smTemp d a
  | .rng u d => .smRng u d
  | .draw d a => .smDraw d a
  | .tree d a => .smTree d a
  | .acc excl d a b => .smAcc excl d a b
  | .emit a => .smEmit a
  | .br off => .smBr off
  | .bz a off => .smBz a off
  | .end_ a => .smEnd a

/-- A flag that a word needs for what it stands for. -/
def whenSm (ok : Bool) (o : SmOp) : Option SmOp := if ok then some o else none

/-- The words of a sampler program (R65, R67, R444). -/
def parseSampler (w : Nat) : Option SmOp :=
  let i := fld w 0 11
  let b := fld w 11 5
  let a := fld w 16 5
  let d := fld w 21 5
  match fld w 26 6 with
  | 0x01 => whenSm (b == 0) (.ld (i / 1024 == 1) (i % 1024) d a)
  | 0x02 => whenSm (d == 0) (.st (i / 1024 == 1) (i % 1024) a b)
  | 0x03 => some (.li (fld w 20 1 == 1) (fld w 0 20) d)
  | 0x04 => whenSm (b == 0 && i == 0) (.mov d a)
  | 0x05 => some (.add (i % 2 == 1) (i / 2) d a b)
  | 0x06 => some (.sub (i % 2 == 1) (i / 2) d a b)
  | 0x07 => whenSm (i / 32 == 0) (.cmp (i / 16 == 1) (i / 2 % 8) (i % 2 == 1) d a b)
  | 0x08 => whenSm (i / 2 == 0) (.max (i == 1) d a b)
  | 0x09 => whenSm (i == 0) (.div d a b)
  | 0x0A => whenSm (b == 0 && i == 0) (.exp d a)
  | 0x0B => whenSm (a == 0 && b == 0) (.sum i d)
  | 0x0C => some (.topk i d a b)
  | 0x0D => whenSm (b == 0 && i == 0) (.topp d a)
  | 0x0E => whenSm (b == 0 && i == 0) (.temp d a)
  | 0x0F => whenSm (a == 0 && b == 0 && i / 2 == 0) (.rng (i == 1) d)
  | 0x10 => whenSm (b == 0 && i == 0) (.draw d a)
  | 0x11 => whenSm (b == 0 && i == 0) (.tree d a)
  | 0x12 => whenSm (i / 2 == 0) (.acc (i == 1) d a b)
  | 0x13 => whenSm (d == 0 && b == 0 && i == 0) (.emit a)
  | 0x14 => whenSm (d == 0) (.br (fld w 0 21))
  | 0x15 => whenSm (d == 0 && b == 0) (.bz a i)
  | 0x16 => whenSm (d == 0 && b == 0 && i == 0) (.end_ a)
  | _ => none

/-- The instruction a parse gives, where it is well formed: a reserved value is no instruction (R47, R68). -/
def keepWellFormed (o : Option Instr) : Option Instr :=
  match o with
  | some i => if wellFormed i then some i else none
  | none => none

/-- A control word without its prefix: LEN chooses the format (R45), and a LEN that disagrees with the major
opcode's format is no instruction (R68). -/
def parseControl (h : CHdr) (w imm : Nat) : Option Instr :=
  match fld w 0 2 with
  | 0 => parseControl32 h w
  | 1 => parseControl64 h w imm
  | _ => none

/-- The number of 32-bit words of a control word by its LEN (R45). -/
def controlWords (w : Nat) : Nat := if fld w 0 2 == 1 then 2 else 1

/-- What becomes of the words at a control slice's pc: an instruction with the number of its 32-bit words, or
a trap with its code and TVAL; TPC is the address fetched from (R53, R68, R224). -/
inductive Fate where
  | ins (i : Instr) (words : Nat)
  | bad (code tval : Nat)
deriving DecidableEq, Repr

/-- The fate of the control words w0, w1, w2 at address pc (R45, R50 to R54, R68). The checks of a prefix
stand in the order of R53. -/
def controlFate (pc w0 w1 w2 : Nat) : Fate :=
  if fld w0 0 2 == 2 then
    match parsePfx w0 with
    | none => .bad 1 w0
    | some p =>
      if fld w1 2 1 == 1 then .bad 3 ((pc + 4) % 2 ^ 64)
      else if fld w1 0 2 == 2 then .bad 2 ((pc + 4) % 2 ^ 64)
      else
        match keepWellFormed (parseControl ⟨false, none⟩ w1 w2) with
        | none => .bad 1 w1
        | some _ =>
          match keepWellFormed (parseControl ⟨false, some p⟩ w1 w2) with
          | none => .bad 2 ((pc + 4) % 2 ^ 64)
          | some i => .ins i (1 + controlWords w1)
  else
    match keepWellFormed (parseControl ⟨fld w0 2 1 == 1, none⟩ w0 w1) with
    | none => .bad 1 w0
    | some i => .ins i (controlWords w0)

/-- The control instruction at the words w0, w1, w2, if they hold one. -/
def decodeControl (w0 w1 w2 : Nat) : Option Instr :=
  match controlFate 0 w0 w1 w2 with
  | .ins i _ => some i
  | .bad _ _ => none

/-- A data engine's word: 1 vector, 2 matrix, 3 copy (R57, R61, R64). -/
def decodeData (engine w : Nat) : Option Instr :=
  keepWellFormed
    (match engine with
     | 1 => parseVector w
     | 2 => parseMatrix w
     | _ => parseCopy w)

/-- A word of an NMU program (R66, R68). -/
def decodeNmu (w : Nat) : Option Instr := keepWellFormed (parseNmu w)

/-- A word of a sampler program (R67, R68). -/
def decodeSmOp (w : Nat) : Option SmOp :=
  match parseSampler w with
  | some o => if o.ok then some o else none
  | none => none

/-- The sampler instruction of a word. -/
noncomputable def decodeSampler (w : Nat) : Option Instr := (decodeSmOp w).map SmOp.instr

/-- The little-endian number of the first n bytes of a list; missing bytes read as 0 (R45, R57). -/
def numOfBytes : Nat → List Byte → Nat
  | 0, _ => 0
  | _, [] => 0
  | n + 1, b :: bs => b.toNat + 256 * numOfBytes n bs

/-- The n bytes of a number, little-endian. -/
def bytesOfNum : Nat → Nat → List Byte
  | 0, _ => []
  | n + 1, v => BitVec.ofNat 8 v :: bytesOfNum n (v / 256)

/-- The control instruction at the head of a list of bytes. -/
def decodeBytes (bs : List Byte) : Option Instr :=
  decodeControl (numOfBytes 4 bs) (numOfBytes 4 (bs.drop 4)) (numOfBytes 4 (bs.drop 8))

/-- The instruction of a row of the opcode table: the bits as control words; where those are no control
instruction, as a data word (64 bits), a word of an NMU, a word of a sampler. The same 32 bits can be a word of
each of these engines: the place they are fetched from says which (R65). -/
noncomputable def decodeTableWord (nbits w : Nat) : Option Instr :=
  match decodeBytes (bytesOfNum 12 w) with
  | some i => some i
  | none =>
    match (if nbits ≤ 32 then decodeNmu (w % 2 ^ 32) else decodeData 1 w) with
    | some i => some i
    | none =>
      match (if nbits ≤ 32 then decodeSampler (w % 2 ^ 32) else decodeData 2 w) with
      | some i => some i
      | none => if nbits ≤ 32 then none else decodeData 3 w

/-- Format C-R (R46) without L and LEN. -/
def wR (op fn rb ra rd : Nat) : Nat := 2 ^ 3 * op + 2 ^ 10 * rd + 2 ^ 16 * ra + 2 ^ 22 * rb + 2 ^ 28 * fn

/-- Formats C-I and C-B (R46): the register field at [15:10] comes last. -/
def wI (op imm ra rd : Nat) : Nat := 2 ^ 3 * op + 2 ^ 10 * rd + 2 ^ 16 * ra + 2 ^ 22 * imm

/-- Format C-J (R46). -/
def wJ (op off : Nat) : Nat := 2 ^ 3 * op + 2 ^ 10 * off

/-- A prefix word (R50). -/
def wPfx (p : Pfx) : Nat :=
  2 + 2 ^ 2 * bit p.l + 2 ^ 3 * bit p.rmv + 2 ^ 4 * p.rm + 2 ^ 7 * bit p.satv + 2 ^ 8 * bit p.sat +
    2 ^ 9 * bit p.ftzv + 2 ^ 10 * bit p.ftz + 2 ^ 11 * bit p.scv + 2 ^ 12 * p.scope + 2 ^ 15 * p.ord

/-- A control word behind its prefix. -/
def wPair (h : CHdr) (ws : List Nat) : List Nat :=
  match h.pfx with
  | none => ws
  | some p => wPfx p :: ws

/-- A 32-bit control word with its L bit (R46). -/
def ctl (h : CHdr) (w : Nat) : List Nat := wPair h [w + 4 * bit h.l]

/-- A 64-bit control word with its L bit, LEN = 0b01 (R45, R46). -/
def ctlW (h : CHdr) (w imm : Nat) : List Nat := wPair h [w + 4 * bit h.l + 1, imm]

/-- A data word from its header, opcode and engine fields (R57), as two 32-bit halves, the low one first. -/
def dw (h : DHdr) (op fields : Nat) : List Nat :=
  let n := h.idle + 2 ^ 10 * bit h.k + 2 ^ 12 * op + fields
  [n % 2 ^ 32, n / 2 ^ 32]

/-- Format D-R (R58). -/
def wDR (fn : Nat) (r : DR) : Nat :=
  2 ^ 18 * r.vd + 2 ^ 27 * r.va + 2 ^ 36 * r.vb + 2 ^ 45 * r.km + 2 ^ 49 * bit r.men + 2 ^ 50 * r.rm +
    2 ^ 53 * r.view + 2 ^ 57 * bit r.sat + 2 ^ 58 * bit r.ftz + 2 ^ 59 * fn

/-- Format D-M (R59). -/
def wDM (m : DM) : Nat :=
  2 ^ 18 * m.reg + 2 ^ 27 * m.xa + 2 ^ 36 * m.swz + 2 ^ 39 * m.lc + 2 ^ 41 * bit m.pi + 2 ^ 42 * m.lat +
    2 ^ 45 * m.km + 2 ^ 49 * bit m.men + 2 ^ 50 * m.off + 2 ^ 60 * m.fn

/-- Format D-G (R60). -/
def wDG (fn : Nat) (g : DG) : Nat :=
  2 ^ 18 * g.reg + 2 ^ 27 * g.ring + 2 ^ 36 * g.cnt + 2 ^ 45 * g.km + 2 ^ 49 * bit g.men + 2 ^ 50 * g.swz +
    2 ^ 53 * fn

/-- The copy engine's D-X layout (R231). -/
def wDX (x : DX) : Nat :=
  2 ^ 18 * x.xd + 2 ^ 27 * x.xs + 2 ^ 36 * x.xn + 2 ^ 45 * x.xb + 2 ^ 54 * x.ssp + 2 ^ 56 * x.dsp +
    2 ^ 58 * x.scope + 2 ^ 61 * bit x.cen

/-- The D-X layout of `mma` (R301). -/
def wMma (m : DMma) : Nat :=
  2 ^ 18 * m.ad + 2 ^ 27 * m.ra + 2 ^ 36 * m.rb + 2 ^ 45 * m.aof + 2 ^ 48 * bit m.ac + 2 ^ 49 * m.bof +
    2 ^ 52 * bit m.bc + 2 ^ 53 * m.scb + 2 ^ 55 * m.aq + 2 ^ 57 * bit m.zc + 2 ^ 58 * m.fmt + 2 ^ 62 * m.fus

/-- The arithmetic part of IMM11 (R323). -/
def wNAr (f : NAr) : Nat := f.fmt + 4 * f.rm + 32 * bit f.ftz + 64 * bit f.sat

/-- A word of an NMU or a sampler (R65). -/
def nw (op d a b i : Nat) : List Nat := [2 ^ 26 * op + 2 ^ 21 * d + 2 ^ 16 * a + 2 ^ 11 * b + i]

/-- The 32-bit words of an instruction, the first at the lowest address; an event has none. -/
def encode (i : Instr) : List Nat :=
  match i with
  | .add h d a b => ctl h (wR 0x01 0 b a d)
  | .sub h d a b => ctl h (wR 0x01 1 b a d)
  | .and h d a b => ctl h (wR 0x01 2 b a d)
  | .or h d a b => ctl h (wR 0x01 3 b a d)
  | .xor h d a b => ctl h (wR 0x01 4 b a d)
  | .shl h d a b => ctl h (wR 0x01 5 b a d)
  | .shr h d a b => ctl h (wR 0x01 6 b a d)
  | .sra h d a b => ctl h (wR 0x01 7 b a d)
  | .slt h d a b => ctl h (wR 0x01 8 b a d)
  | .sltu h d a b => ctl h (wR 0x01 9 b a d)
  | .min h d a b => ctl h (wR 0x01 10 b a d)
  | .max h d a b => ctl h (wR 0x01 11 b a d)
  | .minu h d a b => ctl h (wR 0x01 12 b a d)
  | .maxu h d a b => ctl h (wR 0x01 13 b a d)
  | .mul h d a b => ctl h (wR 0x08 0 b a d)
  | .mulh h d a b => ctl h (wR 0x08 1 b a d)
  | .mulhu h d a b => ctl h (wR 0x08 2 b a d)
  | .div h d a b => ctl h (wR 0x09 0 b a d)
  | .divu h d a b => ctl h (wR 0x09 1 b a d)
  | .rem h d a b => ctl h (wR 0x09 2 b a d)
  | .remu h d a b => ctl h (wR 0x09 3 b a d)
  | .fadd h f d a b => ctl h (wR 0x0C (0 + f) b a d)
  | .fsub h f d a b => ctl h (wR 0x0C (3 + f) b a d)
  | .fmul h f d a b => ctl h (wR 0x0C (6 + f) b a d)
  | .fmin h f d a b => ctl h (wR 0x0C (9 + f) b a d)
  | .fmax h f d a b => ctl h (wR 0x0C (12 + f) b a d)
  | .fdiv h f d a b => ctl h (wR 0x0E (0 + f) b a d)
  | .fsqrt h f d a => ctl h (wR 0x0E (3 + f) 0 a d)
  | .feq h f d a b => ctl h (wR 0x0F (0 + f) b a d)
  | .flt h f d a b => ctl h (wR 0x0F (3 + f) b a d)
  | .fle h f d a b => ctl h (wR 0x0F (6 + f) b a d)
  | .fcvt h fn d a => ctl h (wR 0x10 fn 0 a d)
  | .jr h a => ctl h (wR 0x1A 0 0 a 0)
  | .callr h a => ctl h (wR 0x1A 1 0 a 0)
  | .ret h => ctl h (wR 0x1A 2 0 0 0)
  | .fence h => ctl h (wR 0x1F 0 0 0 0)
  | .fenceSc h => ctl h (wR 0x1F 1 0 0 0)
  | .qmark h => ctl h (wR 0x20 0 0 0 0)
  | .cleanR h a b => ctl h (wR 0x21 0 b a 0)
  | .invR h a b => ctl h (wR 0x22 0 b a 0)
  | .cleaninvR h a b => ctl h (wR 0x23 0 b a 0)
  | .probe h kind d a b => ctl h (wR 0x24 kind b a d)
  | .cqCount h e a tag => ctl h (wR 0x26 tag 0 a e)
  | .cqOut h e a tag => ctl h (wR 0x27 tag 0 a e)
  | .cqVal h e a tag => ctl h (wR 0x2A tag 0 a e)
  | .cqMrow h e a b tag => ctl h (wR 0x28 tag b a e)
  | .cqMbits h e a b tag => ctl h (wR 0x29 tag b a e)
  | .cqRegion h mode => ctl h (wR 0x2B mode 0 0 0)
  | .cqSquash h e tag => ctl h (wR 0x2C tag 0 0 e)
  | .go h => ctl h (wR 0x2D 0 0 0 0)
  | .rim h => ctl h (wR 0x2E 0 0 0 0)
  | .jend h => ctl h (wR 0x2F 0 0 0 0)
  | .texit h => ctl h (wR 0x31 0 0 0 0)
  | .barw h a b => ctl h (wR 0x32 0 b a 0)
  | .bara h d a => ctl h (wR 0x33 0 0 a d)
  | .evs h a => ctl h (wR 0x34 0 0 a 0)
  | .evw h a => ctl h (wR 0x35 0 0 a 0)
  | .restart h => ctl h (wR 0x37 0 0 0 0)
  | .sysr h d n => ctl h (wR 0x38 0 n 0 d)
  | .sysw h n a => ctl h (wR 0x39 0 n a 0)
  | .trap h a => ctl h (wR 0x3A 0 0 a 0)
  | .brk h => ctl h (wR 0x3B 0 0 0 0)
  | .tret h => ctl h (wR 0x3C 0 0 0 0)
  | .ctlNop h => ctl h (wR 0x3D 0 0 0 0)
  | .nfence h => ctl h (wR 0x49 0 0 0 0)
  | .nstat h d a => ctl h (wR 0x4A 0 0 a d)
  | .twWait h d a => ctl h (wR 0x55 0 0 a d)
  | .twWaitTry h d a => ctl h (wR 0x55 1 0 a d)
  | .mgRd h d b => ctl h (wR 0x5E 1 b 0 d)
  | .gnfy h a => ctl h (wR 0x5F 0 0 a 0)
  | .neQpOpen h d a => ctl h (wR 0x60 0 0 a d)
  | .neQpClose h d a => ctl h (wR 0x60 1 0 a d)
  | .neQpRd h d a => ctl h (wR 0x60 2 0 a d)
  | .nePost h d a b => ctl h (wR 0x61 0 b a d)
  | .nePostRx h d a b => ctl h (wR 0x61 1 b a d)
  | .neArm h d a b => ctl h (wR 0x62 0 b a d)
  | .neCtrRd h d a => ctl h (wR 0x63 0 0 a d)
  | .neCtrSet h a b => ctl h (wR 0x63 1 b a 0)
  | .neCtrAdd h a b => ctl h (wR 0x63 2 b a 0)
  | .neCwait h d a b => ctl h (wR 0x64 0 b a d)
  | .nePoll h d a => ctl h (wR 0x65 0 0 a d)
  | .smCtxOpen h d a => ctl h (wR 0x68 0 0 a d)
  | .smCtxClose h d a => ctl h (wR 0x68 1 0 a d)
  | .smCtxReset h d a => ctl h (wR 0x68 2 0 a d)
  | .smCtxRd h d a => ctl h (wR 0x68 3 0 a d)
  | .smProg h d a b => ctl h (wR 0x69 0 b a d)
  | .smStart h d a b => ctl h (wR 0x6A 0 b a d)
  | .smCancel h d a => ctl h (wR 0x6B 0 0 a d)
  | .smWait h d a => ctl h (wR 0x6C 0 0 a d)
  | .smWaitTry h d a => ctl h (wR 0x6C 1 0 a d)
  | .dbgHalt h d a => ctl h (wR 0x70 0 0 a d)
  | .dbgStep h d a b => ctl h (wR 0x71 0 b a d)
  | .dbgResume h d a b => ctl h (wR 0x72 0 b a d)
  | .dbgRdc h d a b => ctl h (wR 0x73 0 b a d)
  | .dbgBp h d a b => ctl h (wR 0x73 1 b a d)
  | .dbgClr h d a => ctl h (wR 0x73 2 0 a d)
  | .qmap h d a b => ctl h (wR 0x75 0 b a d)
  | .qunmap h d b => ctl h (wR 0x76 0 b 0 d)
  | .qstat h d b => ctl h (wR 0x77 0 b 0 d)
  | .mgCfgOpen h d a => ctl h (wR 0x5E 0 0 a d)
  | .mgCfgFree h d b => ctl h (wR 0x5E 0 b 0 d)
  | .addi h d a imm => ctl h (wI 0x02 imm a d)
  | .andi h d a imm => ctl h (wI 0x03 imm a d)
  | .ori h d a imm => ctl h (wI 0x04 imm a d)
  | .xori h d a imm => ctl h (wI 0x05 imm a d)
  | .slti h d a imm => ctl h (wI 0x07 imm a d)
  | .shli h d a sh => ctl h (wI 0x06 (0 + sh) a d)
  | .shri h d a sh => ctl h (wI 0x06 (256 + sh) a d)
  | .srai h d a sh => ctl h (wI 0x06 (512 + sh) a d)
  | .phase h code => ctl h (wI 0x25 code 0 0)
  | .beq h a b off => ctl h (wI 0x12 off a b)
  | .bne h a b off => ctl h (wI 0x13 off a b)
  | .blt h a b off => ctl h (wI 0x14 off a b)
  | .bge h a b off => ctl h (wI 0x15 off a b)
  | .bltu h a b off => ctl h (wI 0x16 off a b)
  | .bgeu h a b off => ctl h (wI 0x17 off a b)
  | .j h off => ctl h (wJ 0x18 off)
  | .call h off => ctl h (wJ 0x19 off)
  | .li h d imm => ctlW h (wR 0x0A 0 0 0 d) imm
  | .lih h d imm => ctlW h (wR 0x0B 0 0 0 d) imm
  | .ffma h f d a b c => ctlW h (wR 0x0D f b a d) c
  | .ld h sx size d a cs swz off => ctlW h (wR 0x1B (8 * bit sx + size) 0 a d) (2 ^ 31 * bit cs + 2 ^ 28 * swz + off)
  | .st h size a b cs swz off => ctlW h (wR 0x1C size b a 0) (2 ^ 31 * bit cs + 2 ^ 28 * swz + off)
  | .atom h op size d a b => ctlW h (wR 0x1D op b a d) size
  | .cas h size d a b => ctlW h (wR 0x1E size b a d) 0
  | .tspawn h d a off => ctlW h (wR 0x30 0 0 a d) off
  | .trkArm h d a => ctlW h (wR 0x36 0 0 a d) 0
  | .ncmd h a b stack => ctlW h (wR 0x48 0 b a 0) stack
  | .twList h fn a b mem slot => ctlW h (wR 0x50 fn b a 0) (32 * bit mem + slot)
  | .twHash h fn a b mem slot => ctlW h (wR 0x51 fn b a 0) (32 * bit mem + slot)
  | .twKvb h fn a b mem slot => ctlW h (wR 0x52 fn b a 0) (32 * bit mem + slot)
  | .twTree h fn a b mem slot => ctlW h (wR 0x53 fn b a 0) (32 * bit mem + slot)
  | .twRwalk h fn a b mem slot => ctlW h (wR 0x54 fn b a 0) (32 * bit mem + slot)
  | .gld h sx size d a off => ctlW h (wR 0x58 (8 * bit sx + size) 0 a d) off
  | .gst h size a b off => ctlW h (wR 0x59 size b a 0) off
  | .gatom h op size d a b => ctlW h (wR 0x5A op b a d) size
  | .qcast h d a b => ctlW h (wR 0x5B 0 b a d) 0
  | .rstAdd h ty d a b => ctlW h (wR 0x5C ty b a d) 0
  | .rstMax h ty d a b => ctlW h (wR 0x5D ty b a d) 0
  | .launch h d a slot => ctlW h (wR 0x74 0 0 a d) slot
  | .dataNop h => dw h 0x00 0
  | .dataRim h => dw h 0x01 0
  | .dataRegion h mode => dw h 0x02 (2 ^ 18 * mode)
  | .vadd h r => dw h 0x10 (wDR 0 r)
  | .vsub h r => dw h 0x11 (wDR 0 r)
  | .vmul h r => dw h 0x12 (wDR 0 r)
  | .vfma h r => dw h 0x13 (wDR 0 r)
  | .vmin h r => dw h 0x14 (wDR 0 r)
  | .vmax h r => dw h 0x15 (wDR 0 r)
  | .vand h r => dw h 0x16 (wDR 0 r)
  | .vor h r => dw h 0x16 (wDR 1 r)
  | .vxor h r => dw h 0x16 (wDR 2 r)
  | .vnot h r => dw h 0x16 (wDR 3 r)
  | .vshl h r => dw h 0x17 (wDR 0 r)
  | .vshr h r => dw h 0x17 (wDR 1 r)
  | .vsra h r => dw h 0x17 (wDR 2 r)
  | .vcmp h rel r => dw h 0x18 (wDR rel r)
  | .vsel h r => dw h 0x19 (wDR 0 r)
  | .vcvt h dst r => dw h 0x1A (wDR dst r)
  | .vexp2 h r => dw h 0x1B (wDR 0 r)
  | .vlog2 h r => dw h 0x1C (wDR 0 r)
  | .vrcp h r => dw h 0x1D (wDR 0 r)
  | .vrsq h r => dw h 0x1E (wDR 0 r)
  | .vmovi h imm men km vd => dw h 0x1F (2 ^ 18 * vd + 2 ^ 27 * km + 2 ^ 31 * bit men + 2 ^ 32 * imm)
  | .vrotr h r => dw h 0x20 (wDR 0 r)
  | .vrotc h r => dw h 0x21 (wDR 0 r)
  | .vbcr h r => dw h 0x22 (wDR 0 r)
  | .vbcc h r => dw h 0x23 (wDR 0 r)
  | .vredr h op r => dw h 0x24 (wDR op r)
  | .vredc h op r => dw h 0x25 (wDR op r)
  | .vld h m => dw h 0x28 (wDM m)
  | .vst h m => dw h 0x29 (wDM m)
  | .vldr h g => dw h 0x2A (wDG 0 g)
  | .vstr h g => dw h 0x2B (wDG 0 g)
  | .vchain h vp g => dw h 0x2C (wDG (4 * vp) g)
  | .acvt h r => dw h 0x30 (wDR 0 r)
  | .vkopAnd h kd ka kb => dw h 0x31 (2 ^ 18 * kd + 2 ^ 27 * ka + 2 ^ 36 * kb)
  | .vkopOr h kd ka kb => dw h 0x31 (2 ^ 18 * kd + 2 ^ 27 * ka + 2 ^ 36 * kb + 2 ^ 59 * 1)
  | .vkopXor h kd ka kb => dw h 0x31 (2 ^ 18 * kd + 2 ^ 27 * ka + 2 ^ 36 * kb + 2 ^ 59 * 2)
  | .vkopAndn h kd ka kb => dw h 0x31 (2 ^ 18 * kd + 2 ^ 27 * ka + 2 ^ 36 * kb + 2 ^ 59 * 3)
  | .vkopNot h kd ka => dw h 0x31 (2 ^ 18 * kd + 2 ^ 27 * ka + 2 ^ 59 * 4)
  | .vkopSet h kd => dw h 0x31 (2 ^ 18 * kd + 2 ^ 59 * 5)
  | .vkopClr h kd => dw h 0x31 (2 ^ 18 * kd + 2 ^ 59 * 6)
  | .vkmovToMask h r => dw h 0x32 (wDR 0 r)
  | .vkmovToVector h r => dw h 0x32 (wDR 1 r)
  | .vloopQ h len => dw h 0x03 (2 ^ 18 * len)
  | .vwhileQ h len => dw h 0x04 (2 ^ 18 * len)
  | .vifQ h len => dw h 0x05 (2 ^ 18 * len)
  | .vvalQ h xd => dw h 0x06 (2 ^ 27 * xd)
  | .vmaskQ h kd => dw h 0x07 (2 ^ 27 * kd)
  | .vxset h xd src val => dw h 0x08 (2 ^ 27 * xd + 2 ^ 36 * src + 2 ^ 39 * val)
  | .vxadd h xa xd imm => dw h 0x09 (2 ^ 18 * xa + 2 ^ 27 * xd + 2 ^ 36 * imm)
  | .mma h m => dw h 0x10 (wMma m)
  | .mclaim h ring cnt => dw h 0x11 (2 ^ 27 * ring + 2 ^ 36 * cnt)
  | .mrelease h ring cnt => dw h 0x12 (2 ^ 27 * ring + 2 ^ 36 * cnt)
  | .mzero h int vd n => dw h 0x13 (2 ^ 18 * vd + 2 ^ 36 * n + 2 ^ 59 * bit int)
  | .mfill h sf g => dw h 0x15 (wDG (2 ^ 8 * sf) g)
  | .mdrain h df rm clr sat g => dw h 0x14 (wDG (2 ^ 8 * df + 2 ^ 5 * rm + 2 ^ 4 * bit clr + 2 ^ 3 * bit sat) g)
  | .mloopQ h len => dw h 0x03 (2 ^ 18 * len)
  | .mwhileQ h len => dw h 0x04 (2 ^ 18 * len)
  | .mifQ h len => dw h 0x05 (2 ^ 18 * len)
  | .mvalQ h xd => dw h 0x06 (2 ^ 27 * xd)
  | .mxset h xd src val => dw h 0x08 (2 ^ 27 * xd + 2 ^ 36 * src + 2 ^ 39 * val)
  | .mxadd h xa xd imm => dw h 0x09 (2 ^ 18 * xa + 2 ^ 27 * xd + 2 ^ 36 * imm)
  | .cpLin h x => dw h 0x10 (wDX x)
  | .cp2d h x => dw h 0x11 (wDX x)
  | .cpGth h x => dw h 0x12 (wDX x)
  | .cpSct h x => dw h 0x13 (wDX x)
  | .cpSet h x => dw h 0x17 (wDX x)
  | .cpRcopy h x => dw h 0x18 (wDX x)
  | .cpFill h s d rl lc g => dw h 0x14 (wDG (2 ^ 8 * s + 2 ^ 5 * d + 2 ^ 2 * rl + lc) g)
  | .cpDrain h s d rl lc g => dw h 0x15 (wDG (2 ^ 8 * s + 2 ^ 5 * d + 2 ^ 2 * rl + lc) g)
  | .cpTr h ew g => dw h 0x16 (wDG (2 ^ 8 * ew) g)
  | .cpLoopQ h len => dw h 0x03 (2 ^ 18 * len)
  | .cpWhileQ h len => dw h 0x04 (2 ^ 18 * len)
  | .cpIfQ h len => dw h 0x05 (2 ^ 18 * len)
  | .cpValQ h xd => dw h 0x06 (2 ^ 27 * xd)
  | .cpXset h xd src val => dw h 0x08 (2 ^ 27 * xd + 2 ^ 36 * src + 2 ^ 39 * val)
  | .cpXadd h xa xd imm => dw h 0x09 (2 ^ 18 * xa + 2 ^ 27 * xd + 2 ^ 36 * imm)
  | .nld pi off d a => nw 0x01 d a 0 (1024 * bit pi + off)
  | .nst pi off d a => nw 0x02 d a 0 (1024 * bit pi + off)
  | .nadd f d a b => nw 0x04 d a b (wNAr f)
  | .nsub f d a b => nw 0x05 d a b (wNAr f)
  | .nmul f d a b => nw 0x06 d a b (wNAr f)
  | .nfma f d a b => nw 0x07 d a b (wNAr f)
  | .nmax ftz fmt d a b => nw 0x08 d a b (32 * bit ftz + fmt)
  | .nmin ftz fmt d a b => nw 0x09 d a b (32 * bit ftz + fmt)
  | .ncmp rel ftz fmt d a b => nw 0x0A d a b (128 * rel + 32 * bit ftz + fmt)
  | .nsel d a b => nw 0x0B d a b 0
  | .nexp2 ftz fmt d a => nw 0x0C d a 0 (32 * bit ftz + fmt)
  | .ncvt half dst f d a => nw 0x0D d a 0 (512 * half + 128 * dst + wNAr f)
  | .nmov d a => nw 0x0E d a 0 0
  | .nbcst fmt e d a => nw 0x0F d a 0 (4 * e + fmt)
  | .nredmax sat ftz fmt d a => nw 0x10 d a 0 (64 * bit sat + 32 * bit ftz + fmt)
  | .nredsum f d a => nw 0x11 d a 0 (wNAr f)
  | .nlogic fn d a b => nw 0x12 d a b (128 * fn)
  | .nset kind v d => nw 0x13 d 0 0 (512 * kind + v)
  | .nloop sp len cnt => nw 0x14 0 (bit sp) len cnt
  | .nloop2 sp len cnt => nw 0x15 0 (bit sp) len cnt
  | .nemit cnt d a b => nw 0x16 d a b cnt
  | .nend => nw 0x17 0 0 0 0
  | .naddr imm d a => nw 0x18 d a 0 imm
  | .smLd c off d a => nw 0x01 d a 0 (1024 * bit c + off)
  | .smSt c off a b => nw 0x02 0 a b (1024 * bit c + off)
  | .smLi f val d => [2 ^ 26 * 0x03 + 2 ^ 21 * d + 2 ^ 20 * bit f + val]
  | .smMov d a => nw 0x04 d a 0 0
  | .smAdd f imm d a b => nw 0x05 d a b (2 * imm + bit f)
  | .smSub f imm d a b => nw 0x06 d a b (2 * imm + bit f)
  | .smCmp u rel f d a b => nw 0x07 d a b (16 * bit u + 2 * rel + bit f)
  | .smMax f d a b => nw 0x08 d a b (bit f)
  | .smDiv d a b => nw 0x09 d a b 0
  | .smExp d a => nw 0x0A d a 0 0
  | .smSum kind d => nw 0x0B d 0 0 kind
  | .smTopk k d a b => nw 0x0C d a b k
  | .smTopp d a => nw 0x0D d a 0 0
  | .smTemp d a => nw 0x0E d a 0 0
  | .smRng u d => nw 0x0F d 0 0 (bit u)
  | .smDraw d a => nw 0x10 d a 0 0
  | .smTree d a => nw 0x11 d a 0 0
  | .smAcc excl d a b => nw 0x12 d a b (bit excl)
  | .smEmit a => nw 0x13 0 a 0 0
  | .smBr off => [2 ^ 26 * 0x14 + off]
  | .smBz a off => nw 0x15 0 a 0 off
  | .smEnd a => nw 0x16 0 a 0 0
  | .illegalInstruction raw => [raw % 2 ^ 32]
  | .pageWalkComplete _ => []
  | .phaseComplete _ => []
  | .rimRendezvous _ => []
  | .barrierCarryFlip _ => []
  | .eventSignalArrival _ => []
  | .asyncFaultTake _ => []
  | .dispatcherAnswer _ _ => []
  | .regionCrossingComplete _ => []
  | .dataFreezeEnd _ => []
  | .freezeTimeout _ => []
  | .timingTrap _ => []
  | .arrayWordStart _ => []
  | .resultDue _ => []
  | .mreleaseSlotsEmpty _ => []
  | .matrixQueueStart _ => []
  | .matrixQueueW _ => []
  | .copyTransferComplete _ _ => []
  | .ibufFill _ _ => []
  | .homeRequest _ _ _ => []
  | .storedTransferComplete _ => []
  | .cacheEviction _ _ _ _ => []
  | .memoryReadReturn _ _ _ => []
  | .fabricRequestArrival _ _ _ => []
  | .fabricRefusal _ _ => []
  | .fabricRetryResend _ _ => []
  | .fabricReply _ _ => []
  | .replayWrite _ _ => []
  | .discardWrite _ _ => []
  | .errorEntryClear _ _ _ => []
  | .rdescWrite _ _ _ _ => []
  | .barrierConfigWrite _ _ _ _ => []
  | .deviceRegisterWrite _ _ => []
  | .notifyWrite _ _ _ => []
  | .packetTake _ _ _ => []
  | .dependenceRecheck _ _ _ => []
  | .packetComplete _ _ => []
  | .weavePlacement _ => []
  | .reservationRequest _ _ => []
  | .reservationReply _ => []
  | .quantumExpiry _ _ => []
  | .preemptDecision _ _ => []
  | .jobSaveComplete _ => []
  | .preemptOverdue _ => []
  | .weaveResume _ => []
  | .weaveComplete _ => []
  | .weaveTeardown _ => []
  | .graphNodeReady _ _ _ => []
  | .savepoolWrite _ _ _ => []
  | .nmuCommandStart _ => []
  | .nmuPreemptStop _ => []
  | .nmuRestWatchdog _ => []
  | .nmuResume _ => []
  | .walkAccept _ => []
  | .walkSectorReturn _ _ => []
  | .walkStepLimit _ => []
  | .walkSlotFull _ => []
  | .reduceContribution _ => []
  | .reduceTimeout _ => []
  | .stripeMessage _ => []
  | .partialArrival _ => []
  | .mergeTimeout _ => []
  | .queryCompletionDone _ => []
  | .switchDieAnswer _ _ => []
  | .neEntryStart _ _ _ => []
  | .neAckArrival _ _ _ _ _ _ => []
  | .neRtoExpiry _ _ _ => []
  | .nePacketReceive _ _ => []
  | .smRunBegin _ _ => []
  | .smStepLimit _ _ => []
  | .smcancelWrite _ _ => []
  | .smCancelEffect _ _ => []
  | .haltCause _ _ _ _ _ _ => []
  | .haltWaveArrival _ => []
  | .haltSettled _ => []
  | .haltControllerAnswer _ _ => []
  | .resumeAtT _ => []
  | .hcmdHalt _ => []
  | .hcmdStep _ => []
  | .hcmdResume _ => []
  | .hcmdRdc _ => []
  | .hcmdBp _ => []
  | .hcmdClr _ => []
  | .hostMemoryAccess _ _ _ _ _ => []
  | .powerOn _ _ _ _ => []
  | .joinEnd => []
  | .fwctlCommit _ => []
  | .attcmdStart _ => []
  | .attestReportReady _ => []
  | .coolantFlowChange _ => []
  | .flowRecoveryTimer => []
  | .junctionTemperatureChange _ _ => []
  | .thermalTrip _ => []
  | .pcapWrite _ _ _ => []
  | .clkforceWrite _ _ => []
  | .ageSample _ _ _ => []
  | .killWrite _ _ => []
  | .lostWrite _ _ => []
  | .apbaseWrite _ _ => []
  | .mgmtintWrite _ _ => []
  | .netaddrWrite _ _ _ => []
  | .walkStoreWrite _ _ _ => []
  | .edgectlWrite _ _ => []
  | .trkArmAnswer _ _ => []
  | .neCommandAnswer _ _ => []
  | .samplerAnswer _ _ => []
  | .nstatAnswer _ _ => []
  | .qcastAnswer _ _ => []
  | .nePacketTransmit _ _ _ => []
  | .powerOff _ => []
  | .swcapWrite _ _ => []
  | .clockStepChange _ _ => []

/-- The bytes of an instruction as they lie in memory, little-endian words in address order (R45, R57, R65). -/
def encodeBytes (i : Instr) : List Byte := (encode i).flatMap (bytesOfNum 4)

end Sys2Proof
end

