-- ==== Sys2Proof/Machine/Table.lean ====
section
/-! DEFINITION. Sparse data by number: a list of keys and values, keys strictly rising. Memories are tables of
bytes in the canonical form of Host.Cell: no listed byte equals what an unlisted address reads as, which is 0. -/

namespace Sys2Proof.Machine

/-- Sparse data by number. -/
abbrev Tbl (α : Type) := List (Nat × α)

/-- Bytes by address. -/
abbrev Bytes := List Host.Cell

/-- What a table lists for a key. -/
def tfind {α : Type} : Tbl α → Nat → Option α
  | [], _ => none
  | (k, v) :: t, n => if k = n then some v else tfind t n

/-- What a table holds for a key, d where it lists nothing. -/
def tget {α : Type} (d : α) (t : Tbl α) (n : Nat) : α := (tfind t n).getD d

/-- The table with v at key n. -/
def tput {α : Type} : Tbl α → Nat → α → Tbl α
  | [], n, v => [(n, v)]
  | (k, w) :: t, n, v =>
    if n < k then (n, v) :: (k, w) :: t
    else if n = k then (n, v) :: t
    else (k, w) :: tput t n v

/-- The table without key n. -/
def tdel {α : Type} : Tbl α → Nat → Tbl α
  | [], _ => []
  | (k, w) :: t, n => if k = n then t else (k, w) :: tdel t n

/-- The table with v at key n, where an unlisted key reads as d: writing d removes the entry. -/
def tset {α : Type} [BEq α] (d : α) (t : Tbl α) (n : Nat) (v : α) : Tbl α :=
  if v == d then tdel t n else tput t n v

/-- The table with f applied to what key n holds, d where it lists nothing. -/
def tmod {α : Type} (d : α) (t : Tbl α) (n : Nat) (f : α → α) : Tbl α := tput t n (f (tget d t n))

/-- What an unlisted address of any memory reads as. -/
def emptyByte : Byte := 0#8

/-- One byte of a memory. -/
def byteAt (m : Bytes) (a : Nat) : Byte := tget emptyByte m a

/-- A memory with one byte written; the canonical form is kept. -/
def setByte (m : Bytes) (a : Nat) (b : Byte) : Bytes := tset emptyByte m a b

/-- n bytes from address a up. -/
def bytesAt (m : Bytes) (a : Nat) : Nat → List Byte
  | 0 => []
  | n + 1 => byteAt m a :: bytesAt m (a + 1) n

/-- A memory with a list of bytes written from address a up. -/
def setBytes (m : Bytes) (a : Nat) : List Byte → Bytes
  | [] => m
  | b :: bs => setBytes (setByte m a b) (a + 1) bs

/-- A memory with cells written, in the order of the list. -/
def setCells (m : Bytes) : List Host.Cell → Bytes
  | [] => m
  | (a, b) :: cs => setCells (setByte m a b) cs

/-- A list of bytes as cells from address a up. -/
def cellsFrom (a : Nat) : List Byte → List Host.Cell
  | [] => []
  | b :: bs => (a, b) :: cellsFrom (a + 1) bs

/-- The canonical form: addresses strictly rising above lo, and no entry equal to what an unlisted address
reads as. -/
def canonicalAbove : Nat → Bytes → Bool
  | _, [] => true
  | lo, (a, b) :: t => decide (lo ≤ a) && b != emptyByte && canonicalAbove (a + 1) t

/-- The canonical form of a memory. -/
def Memory.wf (m : Bytes) : Bool := canonicalAbove 0 m

/-- The numbers from lo up, n of them. -/
def span (lo : Nat) : Nat → List Nat
  | 0 => []
  | n + 1 => lo :: span (lo + 1) n

/-- A list with element i replaced. -/
def listSet {α : Type} : List α → Nat → α → List α
  | [], _, _ => []
  | _ :: t, 0, v => v :: t
  | a :: t, i + 1, v => a :: listSet t i v

/-- The first element with a property. -/
def firstWhere {α : Type} (p : α → Bool) : List α → Option α
  | [] => none
  | a :: t => if p a then some a else firstWhere p t

/-- A list with f applied to its first element with a property. -/
def modFirst {α : Type} (p : α → Bool) (f : α → α) : List α → List α
  | [] => []
  | a :: t => if p a then f a :: t else a :: modFirst p f t

/-- A list without its first element with a property. -/
def dropFirst {α : Type} (p : α → Bool) : List α → List α
  | [] => []
  | a :: t => if p a then t else a :: dropFirst p t

/-- A count that holds at its field's maximum. -/
def satAdd (maximum a b : Nat) : Nat := min maximum (a + b)

/-- The 64-bit word of a number. -/
def word (n : Nat) : Word := BitVec.ofNat 64 n

/-- Bits [lo + n - 1 : lo] of a register. -/
def bits (w : Word) (lo n : Nat) : Nat := fld w.toNat lo n

/-- The sign extension of the low w bits of n, as a 64-bit word. -/
def sext64 (w n : Nat) : Word := BitVec.ofInt 64 (if n % 2 ^ w < 2 ^ (w - 1) then ((n % 2 ^ w : Nat) : Int) else ((n % 2 ^ w : Nat) : Int) - 2 ^ w)

/-- The little-endian number of a list of bytes. -/
def numBytes (bs : List Byte) : Nat := numOfBytes bs.length bs

end Sys2Proof.Machine
end

