-- ==== Sys2Proof/Machine/NmuState.lean ====
section
/-! DEFINITION. The state of the near-memory units (R321, R338 to R350). Types only. -/

namespace Sys2Proof.Machine

/-- An accepted command (R336 to R338): the weave, context, core, task and task number that issued it, its words, LOOPN, the
region as die offsets, the barrier, EMIT, the start values of the y and n registers, whether a stripe receiver
queued it (R396), and the nanosecond and the NMU's cycle of its acceptance. -/
structure NCmd where
  id : Nat
  weave : Nat
  ctx : Nat
  core : Nat
  task : Nat
  uid : Nat
  words : List Nat
  loopn : Nat
  lo : Nat
  hi : Nat
  bar : Option BarId := none
  barVa : Nat := 0
  emit : Nat := 0
  y : List Nat
  n : List Nat := []
  stripe : Bool := false
  accepted : Nat := 0
  cyc : Nat := 0
deriving DecidableEq, Repr, Inhabited

/-- A loop that encloses the next word (R331): the body's first word, the word after it, the iterations that remain, SP, and
which of the two loops it is. -/
structure NLoop where
  first : Nat
  last : Nat
  remain : Nat
  sp : Bool
  inner : Bool
deriving DecidableEq, Repr, Inhabited

/-- What the checkpoint holds (R321, R338). -/
structure NPoint where
  pc : Nat := 0
  n : Tbl Nat := []
  y : Tbl Nat := []
  loops : List NLoop := []
  dirty : Bool := false
  stores : Nat := 0
deriving DecidableEq, Repr, Inhabited

/-- A partial of `nemit` held in the iteration buffer: m, l and the elements of o as FP32. -/
structure NPart where
  m : Nat
  l : Nat
  o : List Nat
deriving DecidableEq, Repr, Inhabited

/-- A command that runs, or is saved (R321, R332, R348): its state, the iteration buffer, the partials of committed iterations that a
halt holds back (R350), the checkpoint, whether it stands at a boundary and at a safe point, whether the boundary of the checkpoint is one,
whether it is retried (R345), and the save slot of a saved one (R350). -/
structure NRun where
  cmd : NCmd
  st : NPoint := {}
  lines : List (Nat × Nat) := []
  parts : List NPart := []
  held : List NPart := []
  point : NPoint := {}
  atBoundary : Bool := true
  safe : Bool := false
  pointSafe : Bool := false
  retried : Bool := false
  slot : Nat := 0
deriving DecidableEq, Repr, Inhabited

/-- A near-memory unit: the running command, what its registers, its checkpoint and its instruction buffer hold while none runs (R321; the
spec gives no reset value: 0 everywhere, assumption 99), the queue, the context table, the saved commands by weave, the last status
by weave, and NMUSTAT. -/
structure Nmu where
  run : Option NRun := none
  regs : NPoint := {}
  point : NPoint := {}
  ibuf : List Nat := []
  queue : List NCmd := []
  /-- context number and SPC (R338) -/
  ctxs : List (Nat × Nat) := []
  saved : List (Nat × NRun) := []
  /-- the cycles of the unit that have passed: its turns (R338) -/
  clk : Nat := 0
  last : Tbl Nat := []
  stat : Word := 0#64
deriving DecidableEq, Repr, Inhabited

end Sys2Proof.Machine
end

