-- ==== Sys2Proof/Machine/CoreState.lean ====
section
/-! DEFINITION. The state of one core: its task contexts, data strands, rings, control queues, local stores, L1,
segment map, and the accesses of its parties that are not yet performed (chapters 01, 04, 06 to 09, 11). Types
only; what they mean stands in Ops and the engines' files. -/

namespace Sys2Proof.Machine

/-- Free, ready or parked (R17); held is ready or parked in a frozen core (R478). -/
inductive TaskSt where
  | free | ready | parked
deriving DecidableEq, Repr, Inhabited

/-- What a parked task waits for (R18 and the chapters of the commands). -/
inductive WaitFor where
  /-- the reply of fabric access id (R376) -/
  | reply (id : Nat)
  /-- PHASE of a barrier to differ from ph (R217) -/
  | flip (b : BarId) (ph : Bool)
  /-- its arrival, access id, to be applied (R217) -/
  | arrival (id : Nat)
  /-- a signal of an event slot of the core (R42) -/
  | event (slot : Nat)
  /-- the rendezvous of R15 -/
  | rim
  /-- the end of a restart (R220) -/
  | restart
  /-- the outstanding requests of every task, before the job ends (R16) -/
  | jend
  /-- the walk of a probe (R119) -/
  | walk
  /-- the end of a phase (R127) -/
  | phase
  /-- the answer of the unit that a command addresses -/
  | answer
  /-- a counter to reach a threshold (R434) -/
  | counter (n : Nat) (threshold : Word)
  /-- a return slot of the core to be full (R368) -/
  | slot (n : Nat)
  /-- a sampler context's run to end (R464) -/
  | run (ctx : Nat)
  /-- the NMU commands of the task to complete (R339) -/
  | nmus
  /-- a command that no target has yet accepted (R336) -/
  | room
  /-- nothing more: the wait ended while its core was frozen, and the task goes on at the resume (R44) -/
  | ended
  /-- its earlier loads, behind which its command reads a block (R139) -/
  | loads
deriving DecidableEq, Repr, Inhabited

/-- The record of a parked task's wait (R187): the instruction, its length in bytes, whether it has acted at its
target (R225), and when it parked (R42). -/
structure Wait where
  what : WaitFor
  instr : Instr
  len : Nat
  acted : Bool := false
  since : Nat := 0
  /-- the panel time at which it parked, for the bounds on answers (R514) -/
  parkedAt : Nat := 0
  /-- a result the wait already holds, and a second one -/
  res : Word := 0#64
  res2 : Word := 0#64
  /-- the block that the command has read -/
  blk : List Byte := []
  /-- of a `qcast`: the refusals of each read by its address (R123, R149), and the bytes of the reads that have returned -/
  refusals : Tbl Nat := []
  got : Tbl (List Byte) := []
  /-- of `mg.cfg`: the places of OUT and the barrier, translated once the record was read (R382) -/
  out : List (Nat × Nat) := []
  bar : Option BarId := none
  /-- the answer has come while the core was frozen: the registers it writes, until T or a single step (R481, R493) -/
  held : Option (List (Nat × Word)) := none
  /-- its core is frozen and the answer comes after T: a single step issued it, or it is no plain answer (R493) -/
  late : Bool := false
deriving DecidableEq, Repr, Inhabited

/-- A task context (R187). -/
structure Task where
  st : TaskSt := .free
  regs : Tbl Word := []
  pc : Word := 0#64
  wait : Option Wait := none
  fpm : Word := 0#64
  src : Nat := 0
  tcause : Word := 0#64
  tpc : Word := 0#64
  tval : Word := 0#64
  tin : Bool := false
  /-- the main-clock cycle from which a register's result is usable (R189) -/
  due : Tbl Nat := []
  /-- the main-clock cycle from which the next instruction may issue (R189, R215, R226) -/
  notBefore : Nat := 0
  /-- a cause recorded while the weave is halted, taken at the resume (R475) -/
  pendCause : Option (Word × Word × Word) := none
  /-- the word that failed with that cause (R176) -/
  pendAt : Word := 0#64
  /-- the task stopped at this word for the halt: the word that issues first after the resume meets no breakpoint
  (R491) -/
  exempt : Bool := false
  /-- instructions issued since the task started: an error of an access is precise while no later one has (R222) -/
  icount : Nat := 0
  /-- tells this task from the earlier ones of its context: 0 for task 0 -/
  uid : Nat := 0
deriving DecidableEq, Repr, Inhabited

/-- The spaces an access can reach (R107, R108, R112). -/
inductive Space where
  | core | opmem | virt | fabric | device
deriving DecidableEq, Repr, Inhabited

/-- The kinds of access that stand in a party's queues (R139 to R143, R207, R378, R385). -/
inductive AKind where
  | load
  | store
  | atom (op : Nat)
  | clean
  | inv
  | cleaninv
  | fence (sc : Bool)
  | qmark
  | arrival (b : BarId)
  | contribution (h idx : Nat)
  | notify (ev : Nat)
deriving DecidableEq, Repr, Inhabited

/-- Where a load's bytes go. -/
inductive Dest where
  | none
  /-- a general register, or a pair for 16 bytes -/
  | reg (rd : Nat) (sx : Bool)
  /-- bytes of a vector load: the load's number and the offset of the first byte in the register -/
  | vec (op off : Nat)
  /-- bytes of a unit of a copy transfer: the transfer, the unit, the offset -/
  | copy (xfer no off : Nat)
deriving DecidableEq, Repr, Inhabited

/-- How far an access has come: in its queue; sent over the fabric; entered in the remote-store log; refused and
waiting to be sent again; performed, its value on the way back. -/
inductive Stage where
  | queued | sent | logged | refused | performed
deriving DecidableEq, Repr, Inhabited

/-- One access of a party (R137, R139). Parties of a core are 0 to 7 for its tasks, 8 vector, 9 matrix,
10 copy. -/
structure Access where
  id : Nat
  party : Nat
  kind : AKind
  space : Space
  va : Nat
  pa : Nat
  n : Nat
  data : List Host.Cell := []
  cmp : Option Nat := none
  scope : Nat := 1
  acq : Bool := false
  rel : Bool := false
  nc : Bool := false
  dest : Dest := .none
  stage : Stage := .queued
  val : List Byte := []
  /-- the cause code of the fault that its reply carries, 0 for none -/
  fault : Nat := 0
  tries : Nat := 0
  /-- the retry-after hint of the last refusal, and the panel time of the next attempt (R123) -/
  hint : Nat := 0
  resendAt : Nat := 0
  /-- the address of the instruction or data word -/
  word : Nat := 0
  /-- the instruction count of the task at its issue -/
  icount : Nat := 0
  /-- the copy transfer it moves bytes of, 0 for none -/
  xfer : Nat := 0
  /-- the sequence number of a logged store (R124) -/
  seq : Nat := 0
  /-- the cycle from which its value may return (R107, R189) -/
  readyAt : Nat := 0
  /-- the physical pieces of a maintenance range (R133) -/
  pieces : List (Nat × Nat) := []
  /-- the data word it belongs to, 0 for none: its accesses to one sector share a request entry (R282); ring: all of them do, as stores
  of a `vstr` into its slots (assumption 118) -/
  op : Nat := 0
  ring : Bool := false
  /-- its task has exited: no fault of it reaches the task that may stand in the context now (R216) -/
  orphan : Bool := false
  /-- the sequence numbers of its further entries in the remote-store log (R124) -/
  also : List Nat := []
  /-- the plane it was sent on, and its place in the order in which its core sent (R374) -/
  plane : Nat := 0
  sentNo : Nat := 0
deriving DecidableEq, Repr, Inhabited

/-- A ring slot's state (R22). -/
inductive SlotSt where
  | empty | filling | ready | draining
deriving DecidableEq, Repr, Inhabited

/-- The constructs a block belongs to (R62); a skipped block belongs to none. -/
inductive BlockKind where
  | loop | whileLoop | cond | skip
deriving DecidableEq, Repr, Inhabited

/-- A block that encloses the next word (R62): the construct's address, the first word after it, the end of the
block, and the repeats that remain. -/
structure Block where
  kind : BlockKind
  head : Nat
  first : Nat
  last : Nat
  remain : Nat := 0
deriving DecidableEq, Repr, Inhabited

/-- An entry of a control queue (R25). -/
structure CqEnt where
  ty : Nat
  tag : Nat
  payload : Nat
deriving DecidableEq, Repr, Inhabited

/-- A control queue: the retained and the waiting entries, and how many of them are popped (R26). -/
structure Cq where
  ents : List CqEnt := []
  popped : Nat := 0
deriving DecidableEq, Repr, Inhabited

/-- A data strand (R13, R30, R36, R57). -/
structure Strand where
  named : Bool := false
  held : Bool := false
  stopped : Bool := false
  pc : Nat := 0
  x : Tbl Word := []
  src : Nat := 0
  /-- the blocks that enclose the next word, the innermost first -/
  blocks : List Block := []
  /-- the counted cycle to which the idle count of the next word is added (R30) -/
  base : Nat := 0
  /-- the mode of the region word the strand waits at (R35): true for timed -/
  atRegion : Option Bool := none
  cq : Cq := {}
  /-- the next word stopped the strand for a breakpoint: it issues first after the resume (R491) -/
  exempt : Bool := false
deriving DecidableEq, Repr, Inhabited

/-- What a snapshot holds of one strand (R36); popped is the read position of its CQ. -/
structure StrandSnap where
  pc : Nat
  blocks : List Block
  src : Nat
  popped : Nat
  base : Nat
  held : Bool
  atRegion : Option Bool
deriving DecidableEq, Repr, Inhabited

/-- A snapshot (R36): of each strand, the ring descriptors, the slot table, the claims; the mode in force and the
counted cycle at which counted timing resumes. -/
structure Snap where
  vec : StrandSnap
  mat : StrandSnap
  cpy : StrandSnap
  rings : Tbl Word
  slots : Tbl SlotSt
  claims : Tbl Nat
  timed : Bool
  counted : Nat
deriving DecidableEq, Repr, Inhabited

/-- The registers a vector or matrix result goes to. -/
inductive VTarget where
  | vreg (r : Nat)
  | mreg (k : Nat)
deriving DecidableEq, Repr, Inhabited

/-- A vector result on its way (R268): written in the cycle due. -/
structure VResult where
  due : Nat
  seq : Nat
  target : VTarget
  /-- the bits of the register that it writes, and their values -/
  mask : Nat
  val : Nat
deriving DecidableEq, Repr, Inhabited

/-- A vector load on its way (R268, R282): the register, its due cycle, whether it is of class 3, the accesses
still out, and the bytes that have returned, by offset in the register; row says that one row of bytes goes to all
rows. -/
structure VLoad where
  op : Nat
  seq : Nat
  reg : Nat
  word : Nat
  due : Nat
  cls3 : Bool
  row : Bool := false
  out : Nat
  cells : List Nat
  bytes : Bytes := []
deriving DecidableEq, Repr, Inhabited

/-- An array word that has issued and not started (R267): its address, the word, its issue cycle, its place in
issue order, the draw counter and the key at its issue (R90), and for a vchain the slots it fired. -/
structure AWord where
  seq : Nat
  pc : Nat
  instr : Instr
  issued : Nat
  draws : Nat := 0
  key : Word := 0#64
  /-- its issue has counted it as a word that rounds in mode SR -/
  rose : Bool := false
  inSlots : List Nat := []
  outSlots : List Nat := []
deriving DecidableEq, Repr, Inhabited

/-- A ring slot change that waits for a cycle and, for slots to become ready, for accesses to be performed
(R23, R250, R284, R305): the slots by number 256 * ring + slot. -/
structure SlotAct where
  due : Nat
  seq : Nat
  slots : List Nat
  dst : SlotSt
  after : List Nat := []
  release : Bool := false
  /-- bytes that stand in the scratchpad from that cycle on -/
  cells : List Host.Cell := []
deriving DecidableEq, Repr, Inhabited

/-- A matrix queue word that has issued (R309): its start and due cycle once it has started. -/
structure MWord where
  seq : Nat
  pc : Nat
  instr : Instr
  issued : Nat
  start : Option Nat := none
  /-- the slots of a fire, or the A operands of an mma; its B operands -/
  slots : List Nat := []
  slotsB : List Nat := []
  /-- the operand bytes of an mma, and the slot bytes of an mfill, read in the start cycle: each slot as one number -/
  opsA : List Nat := []
  opsB : List Nat := []
deriving DecidableEq, Repr, Inhabited

/-- An accumulator entry (R297): integer mode, the sticky SAT bit, the elements by 64 * row + column. -/
structure AccEntry where
  int : Bool := false
  sat : Bool := false
  elems : Tbl Nat := []
deriving DecidableEq, Repr, Inhabited

/-- How far a unit of a copy transfer has come: not begun, its reads sent, its bytes read, its writes sent. -/
inductive SecSt where
  | todo | reading | read | writing
deriving DecidableEq, Repr, Inhabited

/-- A unit of a copy transfer (R235, R243, R244): the bytes it reads and writes, the core-store address of its index,
the reads still out, and the bytes read, by offset. -/
structure Sector where
  no : Nat
  src : Nat
  dst : Nat
  rn : Nat := 32
  wn : Nat := 32
  ix : Option Nat := none
  st : SecSt := .todo
  out : Nat := 0
  bytes : Bytes := []
deriving DecidableEq, Repr, Inhabited

/-- How a transfer changes the bytes of a unit: not at all; a conversion between formats of R240 with a rounding mode, the
draw counter and the key; a transpose of elements of w bytes. -/
inductive Shaping where
  | plain
  | convert (sfmt dfmt rm draws : Nat) (key : Word)
  | transpose (w : Nat)
deriving DecidableEq, Repr, Inhabited

/-- A copy transfer or fire that has issued and not completed (R230): its spaces (0 core store, 1 virtual, 2 fabric,
3 operand memory), swizzles and scope, its units, the barrier and the bytes to add, whether its completion is withheld
until the next release point (R238), the ring slots of a fire, and for a gather or scatter the unit size and whether the
index is on the source side. -/
structure Xfer where
  id : Nat
  pc : Nat
  ssp : Nat := 0
  dsp : Nat := 0
  ssw : Nat := 0
  dsw : Nat := 0
  scope : Nat := 1
  wscope : Nat := 1
  secs : List Sector
  bar : Option (BarId × Nat) := none
  moved : Nat := 0
  late : Bool := true
  /-- the counted cycle of its issue -/
  cycle : Nat := 0
  inSlots : List Nat := []
  outSlots : List Nat := []
  shaping : Shaping := .plain
  u : Nat := 0
  ixSrc : Bool := false
deriving DecidableEq, Repr, Inhabited

/-- A completion withheld until the strand's next release point (R238). -/
structure Withheld where
  bar : BarId
  amount : Nat
  word : Nat
  /-- the counted cycle of its issue -/
  cycle : Nat := 0
deriving DecidableEq, Repr, Inhabited

/-- A line of the L1 (R129): valid sectors, dirty bytes (a bit each), WS, FS, T and the bytes by offset. -/
structure L1Line where
  valid : Nat := 0
  dirty : Nat := 0
  ws : Nat := 0
  fs : Nat := 0
  trk : Bool := false
  bytes : Bytes := []
deriving DecidableEq, Repr, Inhabited

/-- A segment-map entry (R114). -/
structure SegEnt where
  v : Bool := false
  size : Nat := 16
  vbase : Nat := 0
  pbase : Nat := 0
  rd : Bool := false
  wr : Bool := false
  at_ : Bool := false
  x : Bool := false
  dev : Bool := false
  nc : Bool := false
deriving DecidableEq, Repr, Inhabited

/-- An event slot (R42): the count and the sticky overflow. -/
structure EvSlot where
  count : Nat := 0
  ovf : Bool := false
deriving DecidableEq, Repr, Inhabited

/-- The state of a return slot (R354). -/
inductive RetSt where
  | free | pending | full
deriving DecidableEq, Repr, Inhabited

/-- A return slot (R354): the value and the status word. -/
structure RetSlot where
  st : RetSt := .free
  value : Word := 0#64
  status : Word := 0#64
  /-- the panel-physical place and the bytes of the walk's memory return, which taking the slot acquires (R368) -/
  ret : Nat × Nat := (0, 0)
deriving DecidableEq, Repr, Inhabited

/-- An asynchronous fault that waits for task 0 (R225): STRAND, CODE, TASK and TVAL. -/
structure AFault where
  strand : Nat
  code : Nat
  task : Nat := 0
  tval : Word
  /-- the cycle in which it was met: the lowest strand of one cycle is the first (R225) -/
  cycle : Nat := 0
  /-- for the report of a teardown (R176): the word that failed, 0 where no word of the job did, and the address accessed -/
  word : Nat := 0
  va : Nat := 0
deriving DecidableEq, Repr, Inhabited

/-- A probe whose walk is in progress (R119, R120): the task, the kind, what is left of the range, and the
entries this probe installed. -/
structure Probe where
  task : Nat
  rd : Nat
  kind : Nat
  addr : Nat
  left : Nat
  mine : List Nat := []
deriving DecidableEq, Repr, Inhabited

/-- A phase in progress (R127): the task, the code, the cycle it completes in. -/
structure PhaseSt where
  task : Nat
  code : Nat
  doneAt : Nat
deriving DecidableEq, Repr, Inhabited

/-- A level register LVIDn (R11). -/
structure Lvid where
  scope : Nat := 0
  valid : Bool := false
  domain : Nat := 0
  count : Nat := 0
  index : Nat := 0
deriving DecidableEq, Repr, Inhabited

/-- The data side of a core: the three strands and what they share (R13 to R37, R264, R294, R297, R298). -/
structure DataSide where
  vec : Strand := {}
  mat : Strand := {}
  cpy : Strand := {}
  timed : Bool := true
  /-- counted cycles of the job's timing; in an interlocked region, main-clock cycles (R30) -/
  counted : Nat := 0
  frozen : Bool := false
  watch : Nat := 0
  timeoutRaised : Bool := false
  started : Bool := false
  /-- the job has reached the restart point at which a pre-emption stops it (R177) -/
  saveStop : Bool := false
  snap : Option Snap := none
  rings : Tbl Word := []
  slots : Tbl SlotSt := []
  claims : Tbl Nat := []
  slotActs : List SlotAct := []
  /-- the number of the next issued word or result, in issue order -/
  seq : Nat := 0
  v : Tbl Nat := []
  k : Tbl Nat := []
  vres : List VResult := []
  vloads : List VLoad := []
  arrayQ : List AWord := []
  arrayFree : Nat := 0
  acc : Tbl AccEntry := []
  /-- the accumulators as they stood before a W of this counted cycle, and the cycle (R288) -/
  accBefore : Option (Nat × Tbl AccEntry) := none
  sc : Tbl Nat := []
  matQ : List MWord := []
  matFree : Nat := 0
  xfers : List Xfer := []
  withheld : List Withheld := []
deriving DecidableEq, Repr, Inhabited

/-- One core. -/
structure Core where
  tasks : Tbl Task := []
  /-- the task that issued last (R19) -/
  rot : Nat := 7
  /-- the control slice has issued in this main-clock cycle -/
  issued : Bool := false
  srkey : Word := 0#64
  numchk : Word := 0#64
  rctl : Word := 1024#64
  istat : Word := 0#64
  tvec : Word := 0#64
  cycle : Nat := 0
  lvid : Tbl Lvid := []
  ctxno : Nat := 0
  /-- the weave whose job is resident, and the job's number in it -/
  job : Option (Nat × Nat) := none
  ibuf : Tbl Nat := []
  data : DataSide := {}
  /-- the data side before the first issue of this cycle: what a snapshot of this cycle records (R36) -/
  before : Option Snap := none
  scratch : Bytes := []
  opmem : Bytes := []
  share : Nat := 0
  fused : Bool := false
  l1 : Tbl L1Line := []
  seg : Tbl SegEnt := []
  /-- the installed elastic entries, the earliest first (R121) -/
  elastic : List Nat := []
  accs : List Access := []
  events : Tbl EvSlot := []
  /-- acquires an evw takes with the signals of a slot: by slot, whether the cache actions of R131 are due, and
  at which scope (R259, R378) -/
  evAcq : Tbl Nat := []
  ret : Tbl RetSlot := []
  /-- the first data-strand fault kept for task 0, and the others in arrival order (R225) -/
  dfault : Option AFault := none
  /-- a data-strand fault has been met since the last restart: every later one is discarded (R225) -/
  dmet : Bool := false
  afaults : List AFault := []
  probe : Option Probe := none
  phase : Option PhaseSt := none
  /-- the `ncmd` of a task that waits for queue room: the NMUs it selects and the command (R336) -/
  ncmds : Tbl (List Nat × NCmd) := []
  vstat : Word := 0#64
  mstat : Word := 0#64
  /-- frozen by the halt wave: panel time and CYCLE of the freeze (R476, R477) -/
  frozen : Option (Nat × Nat) := none
  /-- a single step of the frozen core is owed (R493): 0 to 7 the next instruction of a task, 8 one cycle of the data engines -/
  stepOwed : Option Nat := none
  /-- replies held in the halt buffer, in arrival order: access numbers (R481) -/
  haltBuf : List Nat := []
  /-- breakpoints: kind and address by index (R490) -/
  bps : Tbl (Nat × Nat) := []
  /-- sequence number of the core's logged stores (R124) -/
  logSeq : Nat := 0
deriving DecidableEq, Repr, Inhabited

end Sys2Proof.Machine
end

