-- ==== Sys2Proof/Machine/DispState.lean ====
section
/-! DEFINITION. The state of the dispatchers: queue slots, packets, weaves, graph runs, save images (chapter 05).
Types only; what they mean stands in Packets, Dispatcher, Launch and Weaves. -/

namespace Sys2Proof.Machine

/-- The states of a queue slot (R184). -/
inductive QSt where
  | free | mapped | overrun
deriving DecidableEq, Repr, Inhabited

/-- A hardware queue slot (R152 to R157): the dispatcher's own copies of the descriptor's fields, the read and
write index, the launch lane. -/
structure QSlot where
  st : QSt := .free
  desc : Nat := 0
  qcfg : Word := 0#64
  qbase : Nat := 0
  tdaddr : Nat := 0
  rdidx : Nat := 0
  wridx : Nat := 0
  lane : List (List Byte) := []
  /-- the packet that the lane gave last (R159) -/
  lastLane : Option Nat := none
  /-- the time of the slot's last unmapping, the descriptor it left (R157) -/
  unmapped : Option (Nat × Nat) := none
  /-- weaves placed from this slot in the present round (R168) -/
  round : Nat := 0
deriving DecidableEq, Repr, Inhabited

/-- How far a taken packet has come (R159, R160). -/
inductive PktSt where
  | waiting | started | completed
deriving DecidableEq, Repr, Inhabited

/-- A packet the dispatcher has taken (R153, R158 to R160). -/
structure DPkt where
  id : Nat
  die : Nat
  slot : Nat
  lane : Bool
  idx : Nat
  /-- the descriptor of its queue, with QCFG and TDADDR -/
  desc : Nat
  qcfg : Word
  tdaddr : Nat
  raw : List Byte
  met : List Bool := [false, false, false, false]
  st : PktSt := .waiting
  prev : Option Nat := none
  status : Nat := 0
  detail : Nat := 0
  /-- the panel time by which an unmet dependence is read again (R159) -/
  readBy : Nat := 0
deriving DecidableEq, Repr, Inhabited

/-- A launch record (R162). -/
structure LaunchRec where
  version : Nat := 0
  strands : Nat := 0
  modes : Nat := 0
  nlev : Nat := 0
  share : Nat := 0
  fuse : Bool := false
  fmt : Nat := 0
  debug : Bool := false
  cstart : Nat := 0
  vstart : Nat := 0
  mstart : Nat := 0
  pstart : Nat := 0
  mapimg : Nat := 0
  tbase : Nat := 0
  srseed : Nat := 0
  /-- COUNT, DOMAIN, SCOPE of each level, the root first -/
  levels : List (Nat × Nat × Nat) := []
  bcore : Nat := 0
  /-- first and count of the cluster, die, package and panel barriers -/
  bars : List (Nat × Nat) := []
  arg : Nat := 0
  /-- a reserved byte or bit is not 0 -/
  reserved : Bool := false
deriving DecidableEq, Repr, Inhabited

/-- How far a weave has come (R164 to R181). -/
inductive WSt where
  | waiting | resident | stopping | saved | ended
deriving DecidableEq, Repr, Inhabited

/-- What a weave was launched for: a packet, or a node instance of a graph run (R171). -/
inductive Origin where
  | packet (id : Nat)
  | node (run inst : Nat)
deriving DecidableEq, Repr, Inhabited

/-- A barrier's words (R39): configuration and status. -/
structure Barrier where
  parties : Nat := 0
  bytes : Nat := 0
  phase : Bool := false
  arrived : Nat := 0
  counted : Nat := 0
  /-- for a core barrier the core's cycle of the last flip, which a flip of a later cycle follows (R40) -/
  flippedAt : Option Nat := none
  /-- an arrival or bytes from outside its halted weave made it meet its counts (R44) -/
  outside : Bool := false
deriving DecidableEq, Repr, Inhabited

/-- The save image of a job (R179): what the image's regions hold. -/
structure Image where
  slot : Nat
  die : Nat
  core : Nat
  /-- where the image stands in memory -/
  addr : Nat := 0
  state : Core
  bars : Tbl Barrier := []
deriving DecidableEq, Repr, Inhabited

/-- The first error of a weave that is torn down, for its report (R176). -/
structure Report where
  wherev : Nat := 0
  strand : Nat := 0
  task : Nat := 0
  word : Nat := 0
  vaddr : Nat := 0
  /-- the cause of an unretired trap (R228); the report's layout has no bytes for it -/
  cause : Nat := 0
deriving DecidableEq, Repr, Inhabited

/-- A weave (R8 to R12, R162 to R181). -/
structure Weave where
  id : Nat
  die : Nat
  slot : Nat
  lane : Bool := false
  idx : Nat := 0
  ctx : Nat
  prio : Nat := 0
  sys : Bool := false
  tdaddr : Nat := 0
  origin : Origin
  /-- the address of the launch record; it has been read and checked; a placement was tried in vain -/
  recAddr : Nat := 0
  checked : Bool := false
  passed : Bool := false
  /-- it was tried in vain in an earlier round: it is tried first among its priority (R168) -/
  first : Bool := false
  /-- the weave of its priority for which its quantum's end took its cores, until that one is placed (R43, R169) -/
  yields : Option Nat := none
  lrec : LaunchRec := {}
  /-- the weave's map image, read and checked with the record (R116, R163) -/
  map : Tbl SegEnt := []
  st : WSt := .waiting
  /-- the core of each job and its place at every level: job j is entry j -/
  jobs : List (Nat × List Nat) := []
  /-- the jobs that have ended by jend -/
  done : List Nat := []
  /-- the jobs that have stopped and are saved, while the weave stops -/
  images : Tbl Image := []
  arrival : Nat := 0
  placedSeq : Nat := 0
  /-- panel time used of the present quantum (R169) -/
  quantum : Nat := 0
  /-- panel time since the decision to pre-empt (R178) -/
  stopTime : Nat := 0
  status : Nat := 0
  dropped : Nat := 0
  report : Report := {}
  /-- torn down: its cores wait for their outstanding requests (R176) -/
  torn : Bool := false
  /-- dies that were asked to reserve, the panel time of the request, and those that have granted or declined (R166) -/
  asked : List Nat := []
  askedAt : Nat := 0
  granted : List Nat := []
  declined : Bool := false
  /-- the choice of cores for the reservation -/
  plan : List (Nat × List Nat) := []
  /-- the halt slot of a weave with debug enabled (R474) -/
  hslot : Option Nat := none
  /-- the common safe point that a weave on 9 packages or more comes to rest at (R349) -/
  commonSpc : Option Nat := none
deriving DecidableEq, Repr, Inhabited

/-- The state of a node instance (R171). -/
inductive NodeSt where
  | ready | active | fin
deriving DecidableEq, Repr, Inhabited

/-- One start of a node of a graph run (R171). -/
structure NodeInst where
  id : Nat
  node : Nat
  st : NodeSt := .ready
  next : List Nat := []
deriving DecidableEq, Repr, Inhabited

/-- A graph run (R170 to R174). -/
structure GRun where
  id : Nat
  pkt : Nat
  die : Nat
  slot : Nat
  lane : Bool
  idx : Nat
  qcfg : Word
  tdaddr : Nat
  base : Nat
  nnodes : Nat
  insts : List NodeInst := []
  joins : Tbl Nat := []
  /-- the next instance's number -/
  cnt : Nat := 0
deriving DecidableEq, Repr, Inhabited

/-- A dispatcher's own registers (R185, R186), and its images in use (R179). -/
structure Disp where
  slots : Tbl QSlot := []
  savepool : Word := 0#64
  savecnt : Word := 0#64
  dstat : Word := 0#64
  images : List Nat := []
  /-- by priority, the slot at which the present round stands (R168) -/
  pos : Tbl Nat := []
  /-- packets taken, the oldest first -/
  pkts : List DPkt := []
deriving DecidableEq, Repr, Inhabited

end Sys2Proof.Machine
end

