-- ==== Sys2Proof/Machine/UnitState.lean ====
section
/-! DEFINITION. The state of the halt controllers and the tile trackers (R253 to R263, R474 to R499). Types only. -/

namespace Sys2Proof.Machine

/-- A halt record, of the panel or of a die (R485). -/
structure HRec where
  valid : Bool := false
  settled : Bool := false
  halted : Bool := false
  more : Nat := 0
  src : Nat := 0
  code : Nat := 0
  wherev : Nat := 0
  pc : Nat := 0
  val : Nat := 0
  time : Nat := 0
  settleAt : Nat := 0
  steps : Nat := 0
deriving DecidableEq, Repr, Inhabited

/-- A halt slot (R474): the weave that holds it, its records, the halt's time, the resume that waits. -/
structure HSlot where
  weave : Option Nat := none
  ctx : Nat := 0
  panel : HRec := {}
  dies : Tbl HRec := []
  halting : Bool := false
  settled : Bool := false
  resuming : Bool := false
  deliver : Bool := false
  /-- T of the last accepted resume (R494) -/
  resumeAt : Nat := 0
  /-- panel time of the halt's first cause (R476) -/
  since : Nat := 0
  /-- a teardown that waits for T: the dispatcher status and its report (R475) -/
  teardown : Option (Nat × Report) := none
  /-- breakpoints of the weave: kind and address by index (R490) -/
  bps : Tbl (Nat × Nat) := []
deriving DecidableEq, Repr, Inhabited

/-- A die's halt block (R498, R499). -/
structure HBlock where
  htgt : Word := 0#64
  harg : Word := 0#64
  hres : Word := 0#64
  /-- [63] DONE: no operation is under way -/
  hres2 : Word := word (2 ^ 63)
  /-- the operation under way, with HTGT, HARG and the panel time of the write to HCMD -/
  cmd : Option Nat := none
  tgt : Word := 0#64
  arg : Word := 0#64
  at_ : Nat := 0
  hlstat : Word := 0#64
deriving DecidableEq, Repr, Inhabited

/-- An armed tile tracker (R253 to R257): the pieces of its range by panel-physical address and length, the
stored transfer with its translated sectors, and what its fire and faults name. -/
structure Tracker where
  ctx : Nat
  weave : Nat
  core : Nat
  pieces : List (Nat × Nat)
  expect : Nat
  counted : Nat := 0
  evt : Nat
  xword : Nat := 0
  /-- the stored transfer, its addresses panel-physical, and the address it names its barrier by -/
  xfer : Option Xfer := none
  barVa : Nat := 0
  recVa : Nat
deriving DecidableEq, Repr, Inhabited

/-- A stored transfer in a die's tracker copy unit (R258), in fire order. -/
structure Stored where
  tracker : Tracker
  /-- the tracker's number in its die -/
  slot : Nat
  started : Bool := false
  /-- refusals of the accesses to one sector, and the panel time of the next attempt: key 2 · unit for its read, 2 · unit + 1 for its
  write (R123, R237) -/
  tries : Tbl Nat := []
  resendAt : Tbl Nat := []
  /-- it has met REMOTE_ACCESS or MEMORY_ERROR (R261) -/
  failed : Bool := false
deriving DecidableEq, Repr, Inhabited

/-! Groups of the switch dies (R379 to R403). -/

/-- The kind of a partial (R397). -/
inductive PKind where
  | normal | stale | lost | failed
deriving DecidableEq, Repr, Inhabited

/-- A partial on its way to the group H (R397). -/
structure PartMsg where
  id : Nat
  h : Nat
  gen : Nat
  slot : Nat
  qtag : Nat
  kind : PKind
  part : NPart
deriving DecidableEq, Repr, Inhabited

/-- A stripe message on its way to its receiver (R395, R396), or held by a halt of its weave: the partial target, the
issuing core and task, the header's and the entry's fields, the NMU index j, the positions n, and the query. -/
structure StripeMsg where
  id : Nat
  h : Nat
  gen : Nat
  qtag : Nat
  slot : Nat
  weave : Nat
  ctx : Nat
  core : Nat
  task : Nat
  uid : Nat
  word0 : Nat
  word1 : Nat
  j : Nat
  n : Nat
  lpp : Nat
  sprog : Nat
  seqid : Nat
  q : List Nat
deriving DecidableEq, Repr, Inhabited

/-- The state of a group (R383, R398): idle; armed; completing; for a reduce group, ended early (R387). -/
inductive GSt where
  | idle | armed | completing | ended
deriving DecidableEq, Repr, Inhabited

/-- A group (R379 to R383, R386, R398): its record, its state, and what it has received. -/
structure Grp where
  weave : Nat
  ctx : Nat
  reduce : Bool
  size : Nat
  tmo : Nat
  evt : Nat := 0
  /-- the physical pieces of the output record -/
  out : List (Nat × Nat) := []
  dim : Nat := 0
  smax : Nat := 0
  bar : Option BarId := none
  nelem : Nat := 0
  count : Nat := 0
  ty : Nat := 0
  barno : Nat := 0
  ben : Bool := false
  st : GSt := .idle
  /-- freed by its weave: gone once the completion is done -/
  freed : Bool := false
  gen : Nat := 0
  qtag : Nat := 0
  s : Nat := 0
  arr : Nat := 0
  last : Nat := 0
  /-- panel time since the arming or the first contribution (R387, R402) -/
  elapsed : Nat := 0
  leaves : Tbl NPart := []
  /-- the status word of the completion under way -/
  status : Nat := 0
  /-- contributions by element; bases by sector, each with its source core; finished sectors -/
  elems : Tbl (List Nat) := []
  bases : Tbl (List (Nat × Nat)) := []
  fins : List Nat := []
deriving DecidableEq, Repr, Inhabited

/-! Walks of the traversal engines (R352 to R372). -/

/-- The kinds of walk with their modes (R355). -/
inductive WKind where
  | list (fn : Nat)
  | hash (fn : Nat)
  | kvb
  | tree (depth : Nat)
  | rwalk (wt given : Bool)
deriving DecidableEq, Repr, Inhabited

/-- Where a walk stands: the read it makes next, or how it has ended (R360 to R366). -/
inductive WPos where
  | list (p h : Nat)
  | bucket (j : Nat)
  | dir
  | page (e1 : Nat)
  | node (d p : Nat)
  | sib (d k c : Nat)
  | last (p : Nat)
  | rnode (h v : Nat)
  /-- the CUM of the last entry -/
  | rsum (h v eoff deg : Nat)
  /-- a probe of the search -/
  | rbin (h v eoff lo hi t : Nat)
  /-- the neighbour of the entry at an offset -/
  | rpick (h v off : Nat)
  | fin (status value : Nat) (record : List Byte)
deriving DecidableEq, Repr, Inhabited

/-- A walk command that has reserved its slot (R359). -/
structure Walk where
  id : Nat
  stack : Nat
  weave : Nat
  core : Nat
  task : Nat
  slot : Nat
  accepted : Bool := false
  kind : WKind
  mem : Bool
  base : Nat
  len : Nat
  key : Nat
  root : Nat
  p1 : Nat
  p2 : Nat
  p3 : Nat
  ret : Nat
  maxstep : Nat
  reads : Nat := 0
  pos : WPos
deriving DecidableEq, Repr, Inhabited

/-- The trackers of a die and its copy unit (R253, R258, R263). -/
structure TrkUnit where
  armed : Tbl Tracker := []
  queue : List Stored := []
  stat : Word := 0#64
deriving DecidableEq, Repr, Inhabited

end Sys2Proof.Machine
end

