-- ==== Sys2Proof/Machine/NetState.lean ====
section
/-! DEFINITION. The state of the network engines (R406 to R438). Types only. -/

namespace Sys2Proof.Machine

/-- The states of a queue pair (R430). -/
inductive QpSt where
  | open_ | error | closing
deriving DecidableEq, Repr, Inhabited

/-- A packet of a started entry (R415, R418): its sequence number, its part of the entry's bytes, whether and how often it was
sent, the place among the set bits of PLANES it used last, the panel time since it was last sent, the first sequence number of the queue pair
that was not yet sent then, whether it must be sent again, whether it is acknowledged, and for a READ whether its bytes are placed. -/
structure NePkt where
  psn : Nat
  off : Nat
  len : Nat
  sent : Bool := false
  retx : Nat := 0
  plane : Nat := 0
  age : Nat := 0
  mark : Nat := 0
  due : Bool := false
  acked : Bool := false
  placed : Bool := false
deriving DecidableEq, Repr, Inhabited

/-- A started entry that has not completed (R412, R415). -/
structure NeEnt where
  opc : Nat
  rtype : Nat
  lcen : Bool
  lctr : Nat
  loff : Nat
  roff : Nat
  len : Nat
  tag : Nat
  msn : Nat
  pkts : List NePkt
deriving DecidableEq, Repr, Inhabited

/-- A message that arrives (R422): its sequence number and the bytes that have come. -/
structure NeMsg where
  msn : Nat
  got : Nat
deriving DecidableEq, Repr, Inhabited

/-- A queue pair (R409 to R435). -/
structure NeQp where
  st : QpSt := .open_
  weave : Nat
  ctx : Nat
  /-- the region: panel-physical base and bytes -/
  base : Nat
  len : Nat
  pds : Nat
  mtu : Nat
  planes : Nat
  reord : Nat
  retries : Nat
  rto : Nat
  sring : Nat
  slog2 : Nat
  rxbuf : Nat
  rlog2 : Nat
  bshift : Nat
  ren : Bool
  rxcpl : Nat
  cbase : Nat
  ccnt : Nat
  rxctr : Nat
  rxcen : Bool
  jobid : Nat
  rqp : Nat
  paddr : List Byte
  cwmax : Nat
  evt : Nat
  pidx : Nat := 0
  cidx : Nat := 0
  rxidx : Nat
  rxdone : Nat := 0
  errc : Nat := 0
  retx : Nat := 0
  psn : Nat
  msn : Nat := 0
  ents : List NeEnt := []
  /-- the receiver's window: every number below is received, and those above that are -/
  cack : Nat
  seen : List Nat := []
  msgs : List NeMsg := []
  /-- entries that a close has discarded -/
  dropped : Nat := 0
deriving DecidableEq, Repr, Inhabited

/-- A counter (R424). -/
structure NeCtr where
  value : Word := 0#64
  err : Bool := false
deriving DecidableEq, Repr, Inhabited

/-- A watch (R426). -/
structure NeWatch where
  ctr : Nat
  thresh : Word
  target : Nat
  weave : Nat
  ctx : Nat
deriving DecidableEq, Repr, Inhabited

/-- An acknowledgement that has left (R417), a refusal, or a READ response. -/
structure NeAck where
  qp : Nat
  jobid : Nat
  src : List Byte
  cack : Nat
  bitmap : Nat
  nak : Bool
  resp : Option Packet
deriving DecidableEq, Repr, Inhabited

/-- The network engine of a die, with what has left it: packets with the panel ports they leave by (R408), and acknowledgements. -/
structure NetEng where
  qps : Tbl NeQp := []
  ctrs : Tbl NeCtr := []
  watches : Tbl NeWatch := []
  stat : Word := 0#64
  sent : List (Nat × Packet) := []
  acks : List NeAck := []
deriving DecidableEq, Repr, Inhabited

end Sys2Proof.Machine
end

