-- ==== Sys2Proof/Machine/SmpState.lean ====
section
/-! DEFINITION. The state of the samplers (R439 to R473) and of the packages in service (R500 to R513). Types only. -/

namespace Sys2Proof.Machine

/-- What a run sends: the store of a record or a length word, or the notify, when it commits a token (R459); and a store to its region that an
earlier store to the same die holds back (R139, R468). -/
inductive EmitKind where
  | store | notify | region
deriving DecidableEq, Repr, Inhabited

/-- A store or notify of a run, on its way (R459): which run of the context sent it, the core that started that run, how often it was refused,
and its number in the remote-store log of its target (R124). -/
structure SmEmit where
  id : Nat
  run : Nat
  core : Nat := 0
  kind : EmitKind
  pa : Nat := 0
  data : List Byte := []
  ev : Nat := 0
  tries : Nat := 0
  resendAt : Nat := 0
  logged : Bool := false
  seq : Nat := 0
deriving DecidableEq, Repr, Inhabited

/-- The states of a context (R439). -/
inductive SmSt where
  | idle | running | halted
deriving DecidableEq, Repr, Inhabited

/-- A sampler context (R439, R441, R443): its record with every address translated, its candidates (token field in [31:0],
score in [63:32]), its program, its registers, and its run. -/
structure SmCtx where
  weave : Nat
  ctx : Nat
  /-- the core whose task started the present run -/
  core : Nat
  /-- the region -/
  base : Nat
  len : Nat
  spill : Nat
  emit : Option Nat
  elog2 : Nat
  evt : Nat
  map : Option Nat
  lenw : Option Nat
  stepmax : Nat
  seqid : Nat
  cand : List Nat := []
  prog : List Nat := []
  key : Word
  stream : Nat
  ctr : Nat
  pos : Nat
  res : Bool := false
  /-- when it last became resident by a start: the place among the starts of the sampler -/
  started : Nat := 0
  st : SmSt := .idle
  last : Nat := 0
  /-- the run: which it is, s1 to s27, the index of the next word, the words issued, the tokens committed, whether it
  is in a check pass, the result of an `sm.end` that waits for its stores -/
  run : Nat := 0
  regs : Tbl Word := []
  pc : Nat := 0
  issued : Nat := 0
  committed : Nat := 0
  check : Bool := false
  ending : Option Nat := none
  cpend : Bool := false
  /-- the cancel has reached its point -/
  stopped : Bool := false
  /-- an ended run that is not collected: RESULT, COMMITTED, STATUS -/
  ended : Option (Nat × Nat × Nat) := none
  out : List SmEmit := []
deriving DecidableEq, Repr, Inhabited

/-- The sampler of a die (R439, R473). A closed context whose stores are still on their way stands at a number from 4,096 on until they are
performed (R461). -/
structure Smp where
  ctxs : Tbl SmCtx := []
  stat : Word := 0#64
  starts : Nat := 0
deriving DecidableEq, Repr, Inhabited

/-- The states of bring-up, by their codes in BOOTSTAT (R503, R511). -/
inductive Boot where
  | off | rom | fwcheck | train | sync | join | ready | recovery | failed
deriving DecidableEq, Repr, Inhabited

/-- What a port answers to a host read (R136, R502): the bytes, Completer Abort, Unsupported Request. -/
inductive HostCpl where
  | data (bs : List Byte)
  | abort
  | unsupported
deriving DecidableEq, Repr, Inhabited

/-- A package in service (R500 to R513): bring-up, firmware, attestation, and the words of the management block. -/
structure Pkg where
  boot : Boot := .off
  code : Nat := 0
  bootCount : Nat := 0
  /-- the flash and the staging buffer, as bytes by address -/
  flash : Bytes := []
  fwbuf : Bytes := []
  fwver : Word := 0#64
  fwstat : Nat := 0
  fwdigest : List Byte := []
  mgmtint : Nat := 0
  mgmten : Nat := 0
  /-- MSI-X messages raised -/
  msix : Nat := 0
  apbase : Nat := 0
  swcap : Nat := 300
  inlet : Nat := 0
  netaddr : Bytes := []
  nonce : Bytes := []
  attcmd : Nat := 0
  attrep : List Byte := []
  mgmtstat : Word := 0#64
  clkforce : Nat := 0
  /-- the completion of the last host read (R136, R502) -/
  hostRead : HostCpl := .data []
deriving DecidableEq, Repr, Inhabited

/-- What is watched of a die (R509, R510, R512): its cap and clock step, its junction temperature and whether that throttles
it, and its ageing: the margins sampled, the newest last. -/
structure DieServ where
  pcap : Nat := 640
  step : Nat := 0
  temp : Nat := 0
  hot : Bool := false
  eolh : Nat := 2 ^ 32 - 1
  drift : Nat := 0
  margin : Nat := 0
  margins : List Nat := []
  /-- panel time of the last sample -/
  sampled : Nat := 0
deriving DecidableEq, Repr, Inhabited

end Sys2Proof.Machine
end

