-- ==== Sys2Proof/Machine/State.lean ====
section
/-! DEFINITION. The state of the panel as plain data, its reset, and the reasons a step can stop. The state of
each engine is in its own file of types; this file puts them together. -/

namespace Sys2Proof.Machine

/-- Who issues in this step. Tasks 0 to 7 of a core; strands 1 vector, 2 matrix, 3 copy of a core; an NMU by its
number in the panel; a sampler context of a die. -/
inductive Agent where
  | none
  | task (c t : Nat)
  | strand (c e : Nat)
  | nmu (n : Nat)
  | run (d ctx : Nat)
deriving DecidableEq, Repr, Inhabited

/-- Which move comes next: the schedule is data of the state (assumption 1). -/
inductive Turn where
  /-- the issue selector of core c (R19) -/
  | issueCtl (c : Nat)
  /-- strand e of core c -/
  | issueData (c e : Nat)
  | issueNmu (n : Nat)
  | issueRun (d ctx : Nat)
  /-- an event, with what the environment supplies -/
  | event (i : Instr)
  /-- one main-clock cycle of core c ends -/
  | tick (c : Nat)
  /-- one nanosecond of panel time passes -/
  | time
  /-- an access of core c is performed inside the core: core store, L1, or its queue alone -/
  | perform (c id : Nat)
  /-- a sector of a transfer of core c moves -/
  | sector (c xfer no : Nat)
  /-- entry id of the emits of context h of die d is sent, or sent again (R459) -/
  | emit (d h id : Nat)
  /-- an error in the storage of a run, or in the region data of its next word, is met (R472): 1 transient, 2 lasting in
  storage, 3 lasting in region data -/
  | runError (d h kind : Nat)
  /-- a sector of a stored transfer of die d moves; ecc is the error its read meets, as in HOME_REQUEST -/
  | stored (d no ecc : Nat)
  /-- an error in the storage of NMU n, or in the bank data it reads, is met (R345): 0 corrected, 1 uncorrectable, 2 in the
  checkpoint, 3 lasting in bank data, 4 transient in bank data -/
  | nmuError (n kind : Nat)
  /-- a parked command of a task is looked at again -/
  | wake (c t : Nat)
  /-- system software maps the queue of a descriptor onto a slot (R155) -/
  | sysMap (d slot desc : Nat)
  /-- system software unmaps a slot (R156) -/
  | sysUnmap (d slot : Nat)
  /-- the read of a word or of what it names, out of the instruction buffer, a register file, a ring or an operand store, meets an error on
  core c for the next word of a party (R135, R136): 1 corrected, 2 transient, 3 lasting -/
  | wordError (c party ecc : Nat)
  /-- the load, atomic or fabric read that task t of core c issues next meets a lasting error (R136, R222) -/
  | readError (c t : Nat)
  /-- access id of core c is performed while a store of another party to its bytes is not: a racing load returns an open one of the
  values of its bytes (R144); two racing strong accesses of different sizes mix theirs (R145) -/
  | race (c id : Nat)
  | mix (c id : Nat)
  /-- an uncorrectable error in the traversal engine's own state of a walk is met (R372) -/
  | walkError (id : Nat)
  /-- a read that the page walk at the head of die d's queue makes, or of the source bytes of packet psn of a queue pair that would leave,
  meets a lasting error anew (R136, R419) -/
  | pageWalkError (d : Nat)
  | packetError (d q psn : Nat)
  /-- the read of the next packet of a slot's queue meets a lasting error anew (R135, R136) -/
  | takeError (d slot : Nat)
  /-- the host reads or writes n bytes at an offset of BAR0 or BAR2 of package p (R501, R502) -/
  | hostLoad (p : Nat) (bar2 : Bool) (off n : Nat)
  | hostStore (p : Nat) (bar2 : Bool) (off n : Nat) (v : Word)
  /-- the coolant at the inlet of package p takes a temperature (R509, R511) -/
  | inlet (p temp : Nat)
  /-- packet p reaches die d, and a read that it makes there meets a lasting error anew (R419) -/
  | receiveError (d : Nat) (p : Packet)
  /-- a soft error of die d that no requester sees is counted (R135, R151): 1 corrected, 2 transient, 3 lasting -/
  | softError (d ecc : Nat)
deriving DecidableEq, Repr, Inhabited

/-- A home's copy of a 32-byte sector (R132): dirty, and the bytes. -/
structure HomeSec where
  dirty : Bool := false
  bytes : List Byte := []
deriving DecidableEq, Repr, Inhabited

/-- The remote-store log of a package (R124, R125, R150). -/
structure RemoteLog where
  base : Nat := 0
  head : Nat := 0
  tail : Nat := 0
  wctl : Nat := 16
deriving DecidableEq, Repr, Inhabited

/-- The memory-error block of a die (R151): the counters and the error-address table. -/
structure MemErr where
  counts : Word := 0#64
  table : Tbl Nat := []
deriving DecidableEq, Repr, Inhabited

/-- A remote request that the window table of its target refused, as the target queues it for system software (R123): the context, the
panel-physical address, the bytes. -/
structure Miss where
  ctx : Nat
  pa : Nat
  n : Nat
deriving DecidableEq, Repr, Inhabited

/-- An event signal on its way (R42): the slot's core and number, the weave it acts for or, for the dispatcher, the
context number, and the scope that taking it acquires, if any. -/
structure Signal where
  id : Nat
  core : Nat
  slot : Nat
  weave : Option Nat
  ctx : Nat
  acq : Option Nat
  /-- the frozen core whose single step sent it: it leaves at T (R493) -/
  held : Option Nat := none
deriving DecidableEq, Repr, Inhabited

/-- The state of the panel. -/
structure State where
  /-- panel time in nanoseconds (R2) -/
  time : Nat := 0
  cores : Tbl Core := []
  disps : Tbl Disp := []
  weaves : Tbl Weave := []
  runs : Tbl GRun := []
  barriers : Tbl Barrier := []
  banks : Bytes := []
  homes : Tbl HomeSec := []
  /-- tracked lines of each slice, the oldest first: the line and the L1s that hold it (R130) -/
  tracked : Tbl (List (Nat × List Nat)) := []
  windows : Tbl Word := []
  logs : Tbl RemoteLog := []
  misses : List Miss := []
  signals : List Signal := []
  /-- the page-walk queue of each die: the cores, the earliest first (R120), and the walk stores (R504) -/
  walkQ : Tbl (List Nat) := []
  walkStore : Tbl Bytes := []
  memerr : Tbl MemErr := []
  /-- halt slots, the halt blocks of the dies, the trackers of the dies -/
  hslots : Tbl HSlot := []
  hblocks : Tbl HBlock := []
  trk : Tbl TrkUnit := []
  /-- near-memory units; the commands that have raised NMU_ABORT (R344) -/
  nmus : Tbl Nmu := []
  aborted : List Nat := []
  /-- groups by handle, FABSTAT by switch die, partials and stripe messages on their way -/
  groups : Tbl Grp := []
  fabstat : Tbl Word := []
  partials : List PartMsg := []
  stripes : List StripeMsg := []
  /-- walks in order of arrival, and TWSTAT by stack (R352 to R373) -/
  walks : List Walk := []
  twstat : Tbl Word := []
  /-- the network engines by die -/
  nets : Tbl NetEng := []
  /-- the samplers by die -/
  smps : Tbl Smp := []
  /-- the packages and the dies in service; packages marked lost, a bit each (R393, R511) -/
  pkgs : Tbl Pkg := []
  dieServ : Tbl DieServ := []
  lost : Nat := 0
  /-- the coolant flow in L/min, whether it throttles, and since when it stands at 130 or more (R509) -/
  flow : Nat := 160
  flowThrottle : Bool := false
  flowSince : Option Nat := none
  /-- EDGECTL of the switch dies, 0xFF where nothing is listed (R505) -/
  edge : Tbl Nat := []
  /-- with debug enabled, the size of the last strong access to each 16-byte unit (R145) -/
  strong : Tbl Nat := []
  /-- the model's own: the schedule, who issues, counters for names and free values (assumptions 1, 2) -/
  turns : List Turn := []
  turnCtr : Nat := 0
  cur : Agent := .none
  freeCtr : Nat := 0
  nextId : Nat := 1
deriving DecidableEq, Repr, Inhabited

/-- Why the machine stops: a step names a unit that the panel does not have. -/
inductive Fault where
  /-- a core, die, package, NMU, switch die or slot number outside R2, raised by a step that names it; safe: no
  such step exists on the panel -/
  | noSuchUnit (n : Nat)
deriving DecidableEq, Repr, Inhabited

/-- Why an instruction has no meaning here. -/
inductive Refusal where
  /-- the model gives the instruction no meaning yet: raised by Dispatch for that instruction; safe -/
  | notModelled (mnemonic : String)
deriving DecidableEq, Repr, Inhabited

/-- The panel right after reset: powered off, every register at its reset value, nothing listed in memory. -/
def State.reset : State := {}

end Sys2Proof.Machine
end

