-- ==== Sys2Proof/Config.lean ====
section
/-! DEFINITION. What the spec leaves open, as constants without a body: no proof can see their values
(assumption 2). -/

namespace Sys2Proof.Machine

/-- The next move where the state's schedule names none: any of the turns, in any order (assumption 1). -/
opaque Config.arbiter : Nat → Turn

/-- A value the spec leaves open, by the number of its use. -/
opaque Config.freeWord : Nat → Nat

/-- A package's ROM verifies by the equation without the factor 8, which RFC 8032 leaves to it (R506; assumption 132). -/
opaque Config.edStrict : Bool

/-- The Vireri key fused into a package (R506). -/
opaque Config.vireriKey : Nat → List Byte

/-- The 32-byte seed fused into a package (R508). -/
opaque Config.seed : Nat → List Byte

/-- The minimum VERSION fused into a package (R506). -/
opaque Config.minVersion : Nat → Nat

/-- The panel's serial number (R508, R511). -/
opaque Config.panelSerial : Nat

end Sys2Proof.Machine
end

