-- ==== Sys2Proof/Machine/Ops.lean ====
section
/-! DEFINITION. The named operations that every engine shares: reading and writing the parts of the state,
general registers, parking and waking, trap entry (R226), the start of a halt (R476), the teardown of a weave
(R176), and event signals (R42). -/

namespace Sys2Proof.Machine

/-- What a step answers. -/
abbrev Out := Host.Outcome State Fault Refusal

/-! Reaching the parts of the state. -/

/-- Core c. -/
def State.core (s : State) (c : Nat) : Core := tget {} s.cores c

/-- The state with core c replaced. -/
def State.setCore (s : State) (c : Nat) (k : Core) : State := { s with cores := tput s.cores c k }

/-- The state with f applied to core c. -/
def State.modCore (s : State) (c : Nat) (f : Core → Core) : State := s.setCore c (f (s.core c))

/-- Task context t of a core. -/
def Core.task (k : Core) (t : Nat) : Task := tget {} k.tasks t

/-- A core with task context t replaced. -/
def Core.setTask (k : Core) (t : Nat) (x : Task) : Core := { k with tasks := tput k.tasks t x }

/-- Task context t of core c. -/
def State.task (s : State) (c t : Nat) : Task := (s.core c).task t

/-- The state with f applied to task context t of core c. -/
def State.modTask (s : State) (c t : Nat) (f : Task → Task) : State :=
  s.modCore c fun k => k.setTask t (f (k.task t))

/-- The data side of core c changed by f. -/
def State.modData (s : State) (c : Nat) (f : DataSide → DataSide) : State :=
  s.modCore c fun k => { k with data := f k.data }

/-- The dispatcher of die d. -/
def State.disp (s : State) (d : Nat) : Disp := tget {} s.disps d

/-- The state with f applied to the dispatcher of die d. -/
def State.modDisp (s : State) (d : Nat) (f : Disp → Disp) : State := { s with disps := tmod {} s.disps d f }

/-- The state with f applied to weave w, where it exists. -/
def State.modWeave (s : State) (w : Nat) (f : Weave → Weave) : State :=
  match tfind s.weaves w with
  | some x => { s with weaves := tput s.weaves w (f x) }
  | none => s

/-- The weave whose job is resident on core c. -/
def State.weaveOf (s : State) (c : Nat) : Option Weave :=
  match (s.core c).job with
  | some (w, _) => tfind s.weaves w
  | none => none

/-- The halt slot of the weave on core c: a weave with debug enabled holds one (R474). -/
def State.slotOf (s : State) (c : Nat) : Option Nat :=
  match s.weaveOf c with
  | some w => w.hslot
  | none => none

/-- Debug is enabled for the weave on core c. -/
def State.debugOn (s : State) (c : Nat) : Bool := (s.slotOf c).isSome

/-- Weave w is halted: from the first cause of its halt to the time of its resume (R476, R494). -/
def State.weaveHalted (s : State) (w : Nat) : Bool :=
  match tfind s.weaves w with
  | some x => match x.hslot with
    | some h => (tget {} s.hslots h).halting
    | none => false
  | none => false

/-- Weave w is torn down (R176). -/
def State.tornWeave (s : State) (w : Nat) : Bool :=
  match tfind s.weaves w with
  | some x => x.torn
  | none => false

/-- The weave whose job is resident on core c, by number. -/
def State.weaveNo (s : State) (c : Nat) : Nat := ((s.core c).job.map Prod.fst).getD 0

/-- A number of its own for an access, a transfer, a weave or a request. -/
def State.fresh (s : State) : State := { s with nextId := s.nextId + 1 }

/-- The next open value (assumption 2). -/
def State.open_ (s : State) : Nat × State := (Config.freeWord s.freeCtr, { s with freeCtr := s.freeCtr + 1 })

/-- The place of a core: die number, package. -/
def dieOf (c : Nat) : Nat := c / 64
def pkgOf (c : Nat) : Nat := c / 128
def clusterOf (c : Nat) : Nat := c / 8

/-- The place as [12:7] package, [6] die, [5:0] core (R188, R485): a core's own number. -/
def placeOf (c : Nat) : Nat := c

/-- The frozen part of the panel: core c is held by the halt wave (R476). -/
def State.isFrozen (s : State) (c : Nat) : Bool := (s.core c).frozen.isSome

/-- The data engines of core c are held: the core is frozen, and no single step of them is under way (R480, R493). -/
def State.dataHeld (s : State) (c : Nat) : Bool := s.isFrozen c && (s.core c).stepOwed != some 8

/-- The weave of core c no longer issues: it is torn down, or stops to be saved (R176, R177). -/
def State.stopped (s : State) (c : Nat) : Bool :=
  match s.weaveOf c with
  | some w => w.torn || w.st != .resident
  | none => true

/-! General registers (R47, R187, R189). -/

/-- Register r of a task: g0 reads as zero. -/
def Task.reg (x : Task) (r : Nat) : Word := if r = 0 then 0#64 else tget 0#64 x.regs r

/-- The task with register r written: a write to g0 is discarded. -/
def Task.setReg (x : Task) (r : Nat) (v : Word) : Task :=
  if r = 0 then x else { x with regs := tput x.regs r v }

/-- Register r of task t of core c. -/
def State.reg (s : State) (c t r : Nat) : Word := (s.task c t).reg r

/-- The state with register r of task t of core c written. -/
def State.setReg (s : State) (c t r : Nat) (v : Word) : State := s.modTask c t fun x => x.setReg r v

/-- The length in bytes of a control instruction of n words with its prefix, if any (R45, R54). -/
def ctlLen (h : CHdr) (n : Nat) : Nat := if h.pfx.isSome then 4 * (n + 1) else 4 * n

/-- The task at the word after an instruction of len bytes. -/
def Task.next (x : Task) (len : Nat) : Task := { x with pc := x.pc + BitVec.ofNat 64 len }

/-- Register r gets v, usable lat cycles after the issue, and the task goes on (R189). -/
def State.result (s : State) (c t r : Nat) (v : Word) (lat len : Nat) : State :=
  let cyc := (s.core c).cycle
  s.modTask c t fun x =>
    { (x.setReg r v).next len with due := if r = 0 then x.due else tput x.due r (cyc + lat) }

/-- The task goes on at the next word. -/
def State.goOn (s : State) (c t len : Nat) : State := s.modTask c t fun x => x.next len

/-- A taken transfer: the next instruction issues no earlier than 2 cycles later (R189). -/
def State.jumpTo (s : State) (c t : Nat) (target : Word) : State :=
  let cyc := (s.core c).cycle
  s.modTask c t fun x => { x with pc := target, notBefore := cyc + 2 }

/-! Parking and waking (R18). -/

/-- Task t parks in instruction i of len bytes and waits for w. -/
def State.park (s : State) (c t : Nat) (w : WaitFor) (i : Instr) (len : Nat) : State :=
  let cyc := (s.core c).cycle
  s.modTask c t fun x => { x with st := .parked, wait := some { what := w, instr := i, len, since := cyc, parkedAt := s.time } }

/-- A parked task's wait ends: it is ready at the word after the instruction. -/
def Task.wake (x : Task) : Task :=
  match x.wait with
  | some w => { x.next w.len with st := .ready, wait := none }
  | none => x

/-- Task t of core c wakes. -/
def State.wake (s : State) (c t : Nat) : State := s.modTask c t Task.wake

/-- The registers in which task y differs from task x. -/
def Task.changes (x y : Task) : List (Nat × Word) := (span 1 63).filterMap fun r => if x.reg r = y.reg r then none else some (r, y.reg r)

/-- A held answer reaches its task: the registers are written, and the wait ends. -/
def Task.answer (x : Task) (rs : List (Nat × Word)) : Task := (rs.foldl (fun x r => x.setReg r.1 r.2) x).wake

/-- The answer to a parked command may come: on a frozen core once, and to no command that waits for T. -/
def Wait.answerable (w : Wait) (frozen : Bool) : Bool := !frozen || (w.held.isNone && !w.late)

/-- Task t of core c wakes with v in register r. -/
def State.wakeWith (s : State) (c t r : Nat) (v : Word) : State := s.modTask c t fun x => (x.setReg r v).wake

/-- The wait of a parked task changes. -/
def State.modWait (s : State) (c t : Nat) (f : Wait → Wait) : State :=
  s.modTask c t fun x => match x.wait with
    | some w => { x with wait := some (f w) }
    | none => x

/-- What task t of core c waits for, if it is parked. -/
def State.waitOf (s : State) (c t : Nat) : Option Wait :=
  let x := s.task c t
  if x.st == .parked then x.wait else none

/-- The answer to the command of task t of core c, which leaves state u: bound for a frozen core it waits in the halt buffer for T or a single
step, and one that leaves the task parked or stops it comes after T (R481, R493). -/
def State.answered (s : State) (c t : Nat) (u : State) : State :=
  if !s.isFrozen c then u
  else if (u.task c t).st == .parked then u.modWait c t fun w => { w with late := true }
  else if (u.task c t).pendCause == (s.task c t).pendCause then
    u.modTask c t fun y =>
      let x := s.task c t
      { x with wait := x.wait.map fun w => { w with held := some (x.changes y) } }
  else s.modWait c t fun w => { w with late := true }

/-! Fields of counter registers. -/

/-- Bits [lo + n - 1 : lo] of a word replaced. -/
def setBits (w : Word) (lo n v : Nat) : Word :=
  BitVec.ofNat 64 (w.toNat - fld w.toNat lo n * 2 ^ lo + v % 2 ^ n * 2 ^ lo)

/-- A counter field that holds at its maximum, raised by k. -/
def countUp (w : Word) (lo n k : Nat) : Word := setBits w lo n (satAdd (2 ^ n - 1) (fld w.toNat lo n) k)

/-- A counter field that wraps, raised by k. -/
def wrapUp (w : Word) (lo n k : Nat) : Word := setBits w lo n (fld w.toNat lo n + k)

/-! The start of a halt (R475 to R478, R486). -/

/-- Where a cause stands in the order of equal times: package, die, core, strand, task (R486). -/
def causeKey (r : HRec) : Nat := r.wherev % 2 ^ 13 * 32 + fld r.wherev 13 2 * 8 + fld r.wherev 15 3

/-- Cause r comes before the cause that a record of the same halt holds: by time, then by place (R486). -/
def HRec.follows (x r : HRec) (since : Nat) : Bool :=
  decide (since ≤ x.time) && (decide (r.time < x.time) || (r.time == x.time && decide (causeKey r < causeKey x)))

/-- A record with a further cause: the first fills it; of causes of one halt the earliest stays, of one time the first by its place, until
the halt is settled; every other one counts in MORE (R486). -/
def HRec.add (x r : HRec) (since : Nat) (settled : Bool) : HRec :=
  if !x.valid then { r with more := x.more, settleAt := x.settleAt, steps := x.steps }
  else
    let n := satAdd 65535 x.more 1
    if !settled && x.follows r since then { r with more := n, settleAt := x.settleAt, steps := x.steps } else { x with more := n }

/-- A cause enters a die's record and the panel record of a slot (R486). -/
def HSlot.record (sl : HSlot) (d : Nat) (r : HRec) : HSlot :=
  { sl with panel := sl.panel.add r sl.since sl.settled, dies := tmod {} sl.dies d fun x => x.add r sl.since sl.settled }

/-- Core c freezes now (R476): the panel time and CYCLE of the freeze are kept. -/
def State.freeze (s : State) (c : Nat) : State :=
  if s.isFrozen c then s
  else
    let s1 := s.modCore c fun k => { k with frozen := some (s.time, k.cycle) }
    match s.slotOf c with
    | none => s1
    | some h =>
      let since := (tget {} s.hslots h).since
      let d := dieOf c
      { s1 with
        hslots := tmod {} s1.hslots h fun sl =>
          { sl with panel := { sl.panel with settleAt := s.time },
                    dies := tmod {} sl.dies d fun r => { r with settleAt := s.time } }
        hblocks := tmod {} s1.hblocks d fun b =>
          { b with hlstat := setBits b.hlstat 32 16 (max (fld b.hlstat.toNat 32 16) (min 65535 (s.time - since))) } }

/-- A cause for the weave that holds slot h, arising on core c: it enters the records, and where the weave is not
yet halting the wave starts from die d (R476, R478). -/
def State.haltSlot (s : State) (h d : Nat) (r : HRec) : State :=
  let sl := tget {} s.hslots h
  if sl.halting then { s with hslots := tput s.hslots h (sl.record d r) }
  else
    { s with
      hslots := tput s.hslots h (({ sl with halting := true, settled := false, since := r.time, panel := { sl.panel with steps := 0 } }).record d r)
      hblocks := tmod {} s.hblocks d fun b => { b with hlstat := countUp b.hlstat 48 16 1 } }

/-- The record of a cause (R485): strand 0 control, 1 vector, 2 matrix, 3 copy. -/
def causeOf (s : State) (c t strand src code : Nat) (pc val : Word) : HRec :=
  { valid := true, src, code, wherev := placeOf c + 2 ^ 13 * strand + 2 ^ 15 * t, pc := pc.toNat, val := val.toNat,
    time := s.time }

/-- The cores of die d that hold jobs of weave w freeze in one cycle (R477). -/
def State.freezeDie (s : State) (w d : Nat) : State :=
  match tfind s.weaves w with
  | none => s
  | some x => (x.jobs.filter fun j => dieOf j.1 == d && (match (s.core j.1).job with | some (v, _) => v == w | none => false)).foldl (fun s j => s.freeze j.1) s

/-- A cause arises on core c (R475, R476): its weave halts, and the core freezes. The weave's other cores of its die freeze at the end of the
same cycle (R477): until then a cause of that cycle on them still counts (R486, R496). -/
def State.haltCore (s : State) (c t strand src code : Nat) (pc val : Word) : State :=
  match s.slotOf c with
  | none => s
  | some h => (s.haltSlot h (dieOf c) (causeOf s c t strand src code pc val)).freeze c

/-- Core c is in the cycle in which another core of its die and weave has frozen: the cycle ends with its own freeze (R477). -/
def State.freezeDue (s : State) (c : Nat) : Bool :=
  !s.isFrozen c && match s.weaveOf c with
    | none => false
    | some x => s.weaveHalted x.id && x.jobs.any fun j =>
        dieOf j.1 == dieOf c && s.isFrozen j.1 && (match (s.core j.1).job with | some (v, _) => v == x.id | none => false)

/-! The teardown of a weave (R176). -/

/-- The groups of weave w are freed: an armed query writes nothing more (R382, R403). -/
def State.freeGroups (s : State) (w : Nat) : State := { s with groups := s.groups.filter fun e => e.2.weave != w }

/-- The queue pairs and watches of weave w are closed at once (R437). -/
def State.freeNet (s : State) (w : Nat) : State :=
  { s with nets := s.nets.map fun e => (e.1,
      { e.2 with qps := e.2.qps.filter (fun q => q.2.weave != w), watches := e.2.watches.filter fun x => x.2.weave != w }) }

/-- A command that has not ended (R339) and that p names stands on an NMU. -/
def Nmu.holds (u : Nmu) (p : NCmd → Bool) : Bool :=
  u.queue.any p || (match u.run with | some r => p r.cmd | none => false) || u.saved.any fun e => p e.2.cmd

/-- The NMU runs nothing any more: its registers, checkpoint and instruction buffer keep what the command left (R321). -/
def Nmu.leave (u : Nmu) : Nmu :=
  match u.run with
  | some r => { u with run := none, regs := r.st, point := r.point, ibuf := r.cmd.words }
  | none => u

/-- What an NMU holds of weave w ends with CANCELLED (R350). -/
def Nmu.cancel (u : Nmu) (w : Nat) : Nmu :=
  let mine (c : NCmd) : Bool := c.weave == w
  let hit := u.holds mine
  let v := match u.run with | some r => if mine r.cmd then u.leave else u | none => u
  { v with queue := u.queue.filter fun c => !mine c, saved := u.saved.filter fun e => e.1 != w,
           last := if hit then tput u.last w 7 else u.last }

/-- The commands of weave w are cancelled on every NMU (R350). -/
def State.freeNmus (s : State) (w : Nat) : State := { s with nmus := s.nmus.map fun e => (e.1, e.2.cancel w) }

/-- The trackers of a weave that ends or is torn down are freed; its stored transfers that have not started are dropped (R253, R260;
assumption 126). -/
def State.freeTrackers (s : State) (w : Nat) : State :=
  { s with trk := s.trk.map fun e => (e.1,
      { e.2 with armed := e.2.armed.filter (fun t => t.2.weave != w), queue := e.2.queue.filter fun x => x.tracker.weave != w || x.started }) }

/-- Weave w is torn down: the first error decides the status and the report, nothing of the weave issues from now on, its groups
and trackers are freed, its queue pairs closed and its NMU commands cancelled (R176, R253, R350, R382, R437). -/
def State.tearDown (s : State) (w status : Nat) (r : Report) : State :=
  (s.modWeave w fun x => if x.torn then x else { x with torn := true, status, report := r }).freeGroups w |>.freeTrackers w |>.freeNet w |>.freeNmus w

/-- A fatal context error on core c (R117): with debug enabled it halts the weave, and the teardown waits for the
resume (R475). -/
def State.fatal (s : State) (c t strand status : Nat) (pc va : Word) : State :=
  match s.weaveOf c with
  | none => s
  | some w =>
    let rep : Report := { wherev := placeOf c, strand, task := if strand = 0 then t else 0, word := pc.toNat, vaddr := va.toNat }
    match w.hslot with
    | none => s.tearDown w.id status rep
    | some h =>
      let s1 := s.haltCore c t strand 7 status pc va
      { s1 with hslots := tmod {} s1.hslots h fun sl =>
          { sl with teardown := match sl.teardown with
                                | some x => some x
                                | none => some (status, rep) } }

/-! Traps (R222 to R228, R475). -/

/-- A TCAUSE value (R188). -/
def causeWord (strand : Nat) (async : Bool) (task code : Nat) : Word :=
  word (2 ^ 12 * (strand % 4) + 2 ^ 11 * bit async + 2 ^ 8 * (task % 8) + code % 256)

/-- The task enters its handler (R226). -/
def Task.enter (x : Task) (tvec cause tpc tval : Word) (cyc : Nat) : Task :=
  { x with st := .ready, wait := none, tcause := cause, tpc, tval, tin := true, pc := tvec, notBefore := cyc + 4,
           pendCause := none }

/-- A trap of task t of core c: TRAP ENTRY (R226), or the teardown of an unretired trap (R228). at_ is the
address of the word that failed and va the address it accessed, for the report. -/
def State.enterTrap (s : State) (c t strand : Nat) (async : Bool) (task code : Nat) (tpc tval at_ : Word) (va : Nat) : State :=
  let k := s.core c
  if k.tvec = 0#64 ∨ (k.task t).tin = true then
    match s.weaveOf c with
    | some w => s.tearDown w.id 11 { wherev := placeOf c, strand, task := if strand = 0 then task else 0, word := at_.toNat, vaddr := va, cause := code }
    | none => s
  else s.modTask c t fun x => x.enter k.tvec (causeWord strand async task code) tpc tval k.cycle

/-- The address that an access of a trapping instruction named: TVAL of the causes of R224 that record it. -/
def trapVa (code : Nat) (tval : Word) : Nat := if [6, 8, 13, 14, 15, 17, 18].contains code then tval.toNat else 0

/-- A precise trap of task t of core c: with debug enabled it is recorded, stays pending and halts the weave
(R475), else it enters the handler. -/
def State.trapAt (s : State) (c t code : Nat) (tpc tval at_ : Word) : State :=
  if s.debugOn c then
    let s1 := s.modTask c t fun x =>
      { x with st := .ready, wait := none, tcause := causeWord 0 false t code, tpc, tval,
               pc := if code = 23 then tpc else at_, pendCause := some (causeWord 0 false t code, tpc, tval), pendAt := at_ }
    s1.haltCore c t 0 (if code = 23 then 1 else 2) code tpc tval
  else s.enterTrap c t 0 false t code tpc tval at_ (trapVa code tval)

/-- A precise trap with TPC at the trapping instruction. -/
def State.trap (s : State) (c t code : Nat) (tval : Word) : State :=
  let pc := (s.task c t).pc
  s.trapAt c t code pc tval pc

/-! Asynchronous faults for task 0 (R225). -/

/-- A fault of the given strand that is met now is the one kept: the first since the last restart, or the one of the lowest strand
of the cycle in which the first was met (R225). -/
def Core.keepsFault (k : Core) (strand : Nat) : Bool :=
  match k.dfault with
  | some f => decide (strand < f.strand) && f.cycle == k.cycle
  | none => !k.dmet

/-- A fault that names a data strand (R225): one that is not kept is discarded. With debug enabled it halts the weave (R475). va is
the address that its word accessed. -/
def State.dataFault (s : State) (c strand code : Nat) (tval : Word) (va : Nat := 0) : State :=
  if !(s.core c).keepsFault strand then s
  else
    let s1 := s.modCore c fun k => { k with dfault := some { strand, code, tval, cycle := k.cycle, word := tval.toNat, va }, dmet := true }
    if s.debugOn c then s1.haltCore c 0 strand 3 code tval tval else s1

/-- A fault that names no data strand waits in arrival order (R225); at_ is the word of the job that it goes back to, 0 for none. -/
def State.asyncFault (s : State) (c code task : Nat) (tval : Word) (at_ : Nat := 0) : State :=
  let s1 := s.modCore c fun k => { k with afaults := k.afaults ++
    [{ strand := 0, code, task, tval, cycle := k.cycle, word := at_, va := if code = 15 ∨ code = 14 then tval.toNat else 0 }] }
  if s.debugOn c then s1.haltCore c task 0 3 code (s.task c 0).pc tval else s1

end Sys2Proof.Machine
end

