-- ==== Sys2Proof/Machine/Translate.lean ====
section
/-! DEFINITION. Translation by the segment map (R114 to R117), physical addresses (R109, R110), swizzles (R70),
the core store's bounds (R113). -/

namespace Sys2Proof.Machine

/-- The accesses a segment can permit (R114). -/
inductive Perm where
  | rd | wr | at_ | x
deriving DecidableEq, Repr, Inhabited

/-- A virtual address matches an entry (R115). -/
def SegEnt.matches (e : SegEnt) (va : Nat) : Bool := e.v && va / 2 ^ e.size == e.vbase / 2 ^ e.size

/-- An entry grants a permission (R114). -/
def SegEnt.grants (e : SegEnt) : Perm → Bool
  | .rd => e.rd
  | .wr => e.wr
  | .at_ => e.at_
  | .x => e.x

/-- The entry that decides an address: the lowest-numbered one that matches (R115). -/
def segFor (seg : Tbl SegEnt) (va : Nat) : Option SegEnt :=
  match firstWhere (fun e => e.2.matches va) seg with
  | some e => some e.2
  | none => none

/-- A translated address: the panel-physical address and the segment's NC bit, or the status of R117. -/
inductive Xlat where
  | ok (pa : Nat) (nc : Bool)
  | bad (status : Nat)
deriving DecidableEq, Repr, Inhabited

/-- The translation of a virtual address for an access that needs permission p (R115, R117). -/
def translate (seg : Tbl SegEnt) (p : Perm) (va : Nat) : Xlat :=
  match segFor seg va with
  | none => .bad 7
  | some e => if e.grants p then .ok (e.pbase + va % 2 ^ e.size) e.nc else .bad 8

/-- The die and the package of a panel-physical address (R109). -/
def paDie (pa : Nat) : Nat := pa / 2 ^ 41
def paPkg (pa : Nat) : Nat := pa / 2 ^ 42

/-- The die offset (R109). -/
def paOff (pa : Nat) : Nat := pa % 2 ^ 41

/-- The address lies in a die's HBM (R109). -/
def inHbm (pa : Nat) : Bool := decide (paOff pa < 2 ^ 38) && decide (pa < 2 ^ 48)

/-- The address lies in the device register space (R109). -/
def inDev (pa : Nat) : Bool := decide (2 ^ 38 ≤ paOff pa) && decide (pa < 2 ^ 48)

/-- The L2 slice in the panel: 128 per die, by the channel field (R110). -/
def sliceOf (pa : Nat) : Nat := paDie pa * 128 + fld pa 7 7

/-- The stack of a byte in the panel, 4 per die (R110). -/
def stackOf (pa : Nat) : Nat := paDie pa * 4 + fld pa 12 2

/-- The NMU that serves a byte, by its number in the panel: 64 per stack (R110). -/
def nmuOf (pa : Nat) : Nat := stackOf pa * 64 + 2 * fld pa 7 5 + fld pa 14 1

/-- The translation of a local load, store or atomic: another package is REMOTE_VIA_LOCAL (R117). -/
def translateLocal (k : Core) (c : Nat) (p : Perm) (va : Nat) : Xlat :=
  match translate k.seg p va with
  | .ok pa nc => if paPkg pa = pkgOf c then .ok pa nc else .bad 9
  | .bad st => .bad st

/-- The next virtual address above a at which another entry may decide, at most top. -/
def nextEdge (seg : Tbl SegEnt) (a top : Nat) : Nat :=
  seg.foldl (fun m e =>
    if e.2.v then
      let lo := e.2.vbase / 2 ^ e.2.size * 2 ^ e.2.size
      let hi := lo + 2 ^ e.2.size
      let m1 := if a < lo ∧ lo < m then lo else m
      if a < hi ∧ hi < m1 then hi else m1
    else m) top

/-- The pieces of the virtual range [a, top) that one entry each decides: virtual address, translation, length.
The fuel bounds the number of edges. -/
def piecesFrom (seg : Tbl SegEnt) (p : Perm) : Nat → Nat → Nat → List (Nat × Xlat × Nat)
  | 0, _, _ => []
  | n + 1, a, top =>
    if a < top then
      let e := nextEdge seg a top
      (a, translate seg p a, e - a) :: piecesFrom seg p n e top
    else []

/-- The pieces of the virtual range of n bytes from va, up to 2^64 − 1. -/
def pieces (seg : Tbl SegEnt) (p : Perm) (va n : Nat) : List (Nat × Xlat × Nat) :=
  piecesFrom seg p (2 * seg.length + 2) va (min (va + n) (2 ^ 64))

/-- The first piece that fails, as its virtual address and status. -/
def firstBad : List (Nat × Xlat × Nat) → Option (Nat × Nat)
  | [] => none
  | (va, .bad st, _) :: _ => some (va, st)
  | _ :: t => firstBad t

/-- The pieces' physical addresses and lengths. -/
def physical : List (Nat × Xlat × Nat) → List (Nat × Nat)
  | [] => []
  | (_, .ok pa _, n) :: t => (pa, n) :: physical t
  | _ :: t => physical t

/-- A line lies in one of the physical pieces. -/
def lineIn (ps : List (Nat × Nat)) (line : Nat) : Bool :=
  ps.any fun p => decide (p.1 / 128 ≤ line) && decide (0 < p.2) && decide (line ≤ (p.1 + p.2 - 1) / 128)

/-- An address lies in one of the physical pieces. -/
def addrIn (ps : List (Nat × Nat)) (a : Nat) : Bool := ps.any fun p => decide (p.1 ≤ a) && decide (a < p.1 + p.2)

/-- The L1 share's size in bytes by its code (R126). -/
def shareBytes (code : Nat) : Nat :=
  match code with
  | 0 => 0
  | 1 => 0x40000
  | 2 => 0x80000
  | 3 => 0x100000
  | _ => 0x200000

/-- S: the scratchpad's bytes, 4 MiB less the L1 share (R113). -/
def Core.scratchTop (k : Core) : Nat := 0x400000 - shareBytes k.share

/-- The swizzle of a core-store address (R70). -/
def swizzle (m a : Nat) : Nat := if m = 0 then a else a ^^^ (a / 2 ^ (m + 5) % 64 * 2 ^ 5)

end Sys2Proof.Machine
end

