-- ==== Sys2Proof/Machine/Cache.lean ====
section
/-! DEFINITION. The caches: the homes' copies over the banks (R132) and the L1s (R128 to R131). -/

namespace Sys2Proof.Machine

/-! Homes (R132). A home's copy is one 32-byte sector. -/

/-- One byte as its home holds it: the home's copy, else the bank. -/
def State.homeByte (s : State) (a : Nat) : Byte :=
  match tfind s.homes (a / 32) with
  | some h => h.bytes.getD (a % 32) emptyByte
  | none => byteAt s.banks a

/-- n bytes as their homes hold them. -/
def State.homeBytes (s : State) (a : Nat) : Nat → List Byte
  | 0 => []
  | n + 1 => s.homeByte a :: State.homeBytes s (a + 1) n

/-- A number of n bytes as their homes hold it. -/
def State.homeNum (s : State) (a n : Nat) : Nat := numBytes (s.homeBytes a n)

/-- The home holds sector k, fetched from the bank where it did not (R132). -/
def State.homeFetch (s : State) (k : Nat) : State :=
  match tfind s.homes k with
  | some _ => s
  | none => { s with homes := tput s.homes k { bytes := bytesAt s.banks (32 * k) 32 } }

/-- One byte written at its home. -/
def State.homePut (s : State) (a : Nat) (b : Byte) : State :=
  let s1 := s.homeFetch (a / 32)
  { s1 with homes := tmod {} s1.homes (a / 32) fun h => { dirty := true, bytes := listSet h.bytes (a % 32) b } }

/-- Cells written at their homes. -/
def State.homePutAll (s : State) : List Host.Cell → State
  | [] => s
  | (a, b) :: t => State.homePutAll (s.homePut a b) t

/-- A dirty sector of a home goes to its bank; the home keeps the copy (R132, R133). -/
def State.homeClean (s : State) (k : Nat) : State :=
  match tfind s.homes k with
  | some h =>
    if h.dirty then { s with banks := setBytes s.banks (32 * k) h.bytes, homes := tput s.homes k { h with dirty := false } }
    else s
  | none => s

/-- A home drops its copy of a sector, dirty or not. -/
def State.homeDrop (s : State) (k : Nat) : State := { s with homes := tdel s.homes k }

/-- A home evicts a sector (R132). -/
def State.homeEvict (s : State) (k : Nat) : State := (s.homeClean k).homeDrop k

/-! The L1s. A fused L1 holds a line in the slice of the core that bits [9:7] name (R128). -/

/-- The L1 of core c is fused with its cluster's (R128). -/
def State.isFused (s : State) (c : Nat) : Bool := (s.core c).fused

/-- V, the L1 coverage of a core: core scope, or cluster scope where fused (R128). -/
def State.coverage (s : State) (c : Nat) : Nat := if s.isFused c then 2 else 1

/-- The core whose L1 slice holds a line for core c (R128). -/
def State.l1Core (s : State) (c line : Nat) : Nat := if s.isFused c then clusterOf c * 8 + line % 8 else c

/-- The cores whose L1s core c's loads and stores reach (R128). -/
def State.l1Cores (s : State) (c : Nat) : List Nat := if s.isFused c then span (clusterOf c * 8) 8 else [c]

/-- The line of an L1, if it is present. -/
def State.l1Line (s : State) (c line : Nat) : Option L1Line := tfind (s.core (s.l1Core c line)).l1 line

/-- The state with a line of an L1 replaced. -/
def State.setL1 (s : State) (c line : Nat) (x : L1Line) : State :=
  s.modCore (s.l1Core c line) fun k => { k with l1 := tput k.l1 line x }

/-- The line leaves the L1. -/
def State.dropL1 (s : State) (c line : Nat) : State :=
  s.modCore (s.l1Core c line) fun k => { k with l1 := tdel k.l1 line }

/-- A byte of a line is dirty, or lies in a valid sector. -/
def L1Line.isDirty (x : L1Line) (off : Nat) : Bool := x.dirty.testBit off
def L1Line.isValid (x : L1Line) (off : Nat) : Bool := x.valid.testBit (off / 32)

/-- The L1 serves a byte to a load at a scope no wider than V (R130). -/
def State.l1Has (s : State) (c a : Nat) : Bool :=
  match s.l1Line c (a / 128) with
  | some x => x.isDirty (a % 128) || x.isValid (a % 128)
  | none => false

/-- A byte as a load of core c at a scope no wider than V finds it: the L1's, else the home's (R130). -/
def State.nearByte (s : State) (c a : Nat) : Byte :=
  match s.l1Line c (a / 128) with
  | some x => if x.isDirty (a % 128) || x.isValid (a % 128) then byteAt x.bytes (a % 128) else s.homeByte a
  | none => s.homeByte a

/-- A byte as a load of core c at a scope wider than V finds it: the home's, but for the bytes this L1 still holds
dirty, which a store of this core wrote later (R130, R138, R139). -/
def State.wideByte (s : State) (c a : Nat) : Byte :=
  match s.l1Line c (a / 128) with
  | some x => if x.isDirty (a % 128) then byteAt x.bytes (a % 128) else s.homeByte a
  | none => s.homeByte a

/-- The bytes of a list of addresses as a load of core c at a scope finds them. -/
def State.seenBytes (s : State) (c scope : Nat) (as : List Nat) : List Byte :=
  as.map fun a => if scope ≤ s.coverage c then s.nearByte c a else s.wideByte c a

/-- Sector k filled into the L1 of core c from its home (R130): dirty bytes keep their value; FS and T are set. -/
def State.fillL1 (s : State) (c k scope : Nat) (trk : Bool) : State :=
  let s1 := s.homeFetch k
  let line := k / 4
  let x := (s1.l1Line c line).getD {}
  let bytes := (span 0 32).foldl (fun m i =>
    let off := k % 4 * 32 + i
    if x.isDirty off then m else setByte m off (s1.homeByte (32 * k + i))) x.bytes
  s1.setL1 c line { x with valid := x.valid ||| 2 ^ (k % 4), fs := scope, trk, bytes }

/-- A line leaves the clean state in one L1, its dirty bytes kept: the home's removal of a tracked line (R130). -/
def State.untrack (s : State) (holder line : Nat) : State :=
  s.modCore holder fun k =>
    match tfind k.l1 line with
    | some x => { k with l1 := if x.dirty = 0 then tdel k.l1 line else tput k.l1 line { x with valid := 0, trk := false } }
    | none => k

/-- The L1s that hold a tracked line (R130). -/
def State.holders (s : State) (line : Nat) : List Nat :=
  match firstWhere (fun e => e.1 == line) (tget [] s.tracked (sliceOf (128 * line))) with
  | some e => e.2
  | none => []

/-- A home removes a tracked line from every L1 but the writer's (R130). -/
def State.removeTracked (s : State) (line : Nat) (writer : Option Nat) : State :=
  let hs := s.holders line
  let keep := hs.filter fun h => some h == writer
  let s1 := (hs.filter fun h => some h != writer).foldl (fun s h => s.untrack h line) s
  let sl := sliceOf (128 * line)
  { s1 with tracked := tmod [] s1.tracked sl fun d =>
      if keep.isEmpty then dropFirst (fun e => e.1 == line) d else modFirst (fun e => e.1 == line) (fun e => (e.1, keep)) d }

/-- The home starts tracking a line for an L1: with 8,192 lines tracked the oldest leaves first (R130). -/
def State.track (s : State) (holder line : Nat) : State :=
  let sl := sliceOf (128 * line)
  let d := tget [] s.tracked sl
  if d.any (fun e => e.1 == line) then
    { s with tracked := tput s.tracked sl (modFirst (fun e => e.1 == line) (fun e => (e.1, if e.2.contains holder then e.2 else e.2 ++ [holder])) d) }
  else if d.length < 8192 then { s with tracked := tput s.tracked sl (d ++ [(line, [holder])]) }
  else match d with
    | old :: rest =>
      let s1 := old.2.foldl (fun s h => s.untrack h old.1) s
      { s1 with tracked := tput s1.tracked sl (rest ++ [(line, [holder])]) }
    | [] => s

/-- The cells of an L1 line's dirty bytes, by physical address. -/
def L1Line.dirtyCells (x : L1Line) (line : Nat) : List Host.Cell :=
  (span 0 128).filterMap fun i => if x.isDirty i then some (128 * line + i, byteAt x.bytes i) else none

/-- A store of core c into the L1 copy (R129): write-back allocates the line and marks the byte dirty; write-through
updates a line that is present and keeps its dirty state. -/
def State.l1Put (s : State) (c scope : Nat) (writeBack : Bool) (a : Nat) (b : Byte) : State :=
  let line := a / 128
  let off := a % 128
  match s.l1Line c line, writeBack with
  | some x, true =>
    s.setL1 c line { x with dirty := x.dirty ||| 2 ^ off, bytes := setByte x.bytes off b,
                            ws := if x.dirty = 0 then scope else min x.ws scope }
  | none, true => s.setL1 c line { dirty := 2 ^ off, bytes := setByte [] off b, ws := scope }
  | some x, false => s.setL1 c line { x with bytes := setByte x.bytes off b }
  | none, false => s

/-- Cells stored into the L1 copy. -/
def State.l1PutAll (s : State) (c scope : Nat) (writeBack : Bool) : List Host.Cell → State
  | [] => s
  | (a, b) :: t => State.l1PutAll (s.l1Put c scope writeBack a b) c scope writeBack t

/-- Whether a store of core c stays in the L1: a scope no wider than V, an L1 share, and no NC segment (R129). -/
def State.writesBack (s : State) (c scope : Nat) (nc : Bool) : Bool :=
  decide (scope ≤ s.coverage c) && !nc && decide ((s.core c).share ≠ 0)

/-- An acquire of scope S by core c: the L1 drops every clean sector of each line whose FS is narrower than S, and
keeps the dirty bytes (R131). -/
def State.acquire (s : State) (c scope : Nat) : State :=
  (s.l1Cores c).foldl (fun s h => s.modCore h fun k =>
    { k with l1 := k.l1.filterMap fun e =>
        if e.2.fs < scope then (if e.2.dirty = 0 then none else some (e.1, { e.2 with valid := 0 })) else some e }) s

/-- An acquire of scope S by core c of the bytes of a list of pieces, and of nothing else (R368). -/
def State.acquireLines (s : State) (c scope : Nat) (ps : List (Nat × Nat)) : State :=
  (s.l1Cores c).foldl (fun s h => s.modCore h fun k =>
    { k with l1 := k.l1.filterMap fun e =>
        if e.2.fs < scope && lineIn ps e.1 then (if e.2.dirty = 0 then none else some (e.1, { e.2 with valid := 0 })) else some e }) s

end Sys2Proof.Machine
end

