-- ==== Sys2Proof/Machine/Events.lean ====
section
/-! DEFINITION. Event slots (R42, R180, R259) and barriers (R39 to R41, R143). -/

namespace Sys2Proof.Machine

/-! Event signals. -/

/-- The task that takes a signal of a slot: the one that parked earliest, the lowest-numbered of one cycle (R42). -/
def Core.eventWaiter (k : Core) (slot : Nat) : Option Nat :=
  match k.tasks.foldl (fun (b : Option (Nat × Nat)) e =>
    match e.2.wait with
    | some w =>
      if e.2.st == .parked && w.what == .event slot then
        match b with
        | some (m, _) => if w.since < m then some (w.since, e.1) else b
        | none => some (w.since, e.1)
      else b
    | none => b) none with
  | some (_, t) => some t
  | none => none

/-- An event slot with one more signal: the count holds at 65,535 (R42). -/
def EvSlot.add (e : EvSlot) : EvSlot := if e.count < 65535 then { e with count := e.count + 1 } else { e with ovf := true }

/-- An event slot after a wait has taken a signal: reaching 0 clears the overflow bit (R42). -/
def EvSlot.take (e : EvSlot) : EvSlot := { count := e.count - 1, ovf := e.ovf && decide (1 < e.count) }

/-- A signal at a slot of a core: the first waiter takes it, else the count keeps it. A frozen core's waits stand
still (R44). -/
def Core.signal (k : Core) (slot : Nat) : Core :=
  match k.eventWaiter slot, k.frozen with
  | some t, none => k.setTask t (k.task t).wake
  | _, _ => { k with events := tmod {} k.events slot EvSlot.add }

/-- The slot's signals carry an acquire at a scope (R259, R378). -/
def Core.markAcq (k : Core) (slot : Nat) (acq : Option Nat) : Core :=
  match acq with
  | some a => { k with evAcq := tput k.evAcq slot (max a (tget 0 k.evAcq slot)) }
  | none => k

/-- A signal for a core without a resident job of its weave: a saved job's image takes it, else it is dropped and
counted (R180). -/
def State.signalSaved (s : State) (c slot : Nat) (who : Weave → Bool) (acq : Option Nat) : State :=
  match firstWhere (fun e => (e.2.st == .saved || e.2.st == .stopping) && who e.2 && e.2.images.any (fun i => i.2.core == c)) s.weaves with
  | some (w, _) => s.modWeave w fun x => { x with images := x.images.map fun i =>
      if i.2.core == c then (i.1, { i.2 with state := { (i.2.state.markAcq slot acq) with
        events := tmod {} i.2.state.events slot EvSlot.add } }) else i }
  | none => s.modDisp (dieOf c) fun d => { d with dstat := countUp d.dstat 16 16 1 }

/-- A task takes a signal of a slot (R42). -/
def Core.takeSignal (k : Core) (slot : Nat) : Core := { k with events := tmod {} k.events slot EvSlot.take }

/-- The tasks that wait for the signals that a slot holds take them: those that came while the core was frozen or the job saved (R42,
R44, R181). -/
def Core.drainSlot (k : Core) (slot : Nat) : Nat → Core
  | 0 => k
  | n + 1 =>
    match k.eventWaiter slot with
    | some t => if (tget {} k.events slot : EvSlot).count = 0 then k else Core.drainSlot ((k.takeSignal slot).setTask t (k.task t).wake) slot n
    | none => k

/-- The slots whose signals a waiting task takes. -/
def Core.drained (k : Core) : List Nat := (span 0 32).filter fun n => (k.eventWaiter n).isSome && decide (0 < (tget {} k.events n : EvSlot).count)

/-- The waiting tasks of core c take the signals that came in the meantime, each with the acquire of its slot. -/
def State.drainSignals (s : State) (c : Nat) : State :=
  let taken := (s.core c).drained
  let s1 := s.modCore c fun k => taken.foldl (fun k n => k.drainSlot n 8) k
  taken.foldl (fun s n => s.acquire c (tget 0 (s.core c).evAcq n)) s1

/-- A signal for a slot of core c, for a weave that who names (R42, R180); acq is the scope at which taking it
acquires, if any. -/
def State.signal (s : State) (c slot : Nat) (who : Weave → Bool) (acq : Option Nat) : State :=
  match s.weaveOf c with
  | some w =>
    if who w then
      let woken := ((s.core c).eventWaiter slot).isSome && !s.isFrozen c
      let s1 := s.modCore c fun k => (k.markAcq slot acq).signal slot
      if woken then s1.acquire c (tget 0 (s1.core c).evAcq slot) else s1
    else s.signalSaved c slot who acq
  | none => s.signalSaved c slot who acq

/-- A signal that acts for weave w sets out for a slot (R42). -/
def State.post (s : State) (core slot : Nat) (weave : Option Nat) (ctx : Nat) (acq : Option Nat) : State :=
  { s with signals := s.signals ++ [{ id := s.nextId, core, slot, weave, ctx, acq }], nextId := s.nextId + 1 }

/-- The weave a signal reaches: its own, or for the dispatcher any of its context number (R42, R180). -/
def Signal.reaches (g : Signal) (w : Weave) : Bool :=
  match g.weave with
  | some n => w.id == n
  | none => w.ctx == g.ctx

/-- The signals that a single step of core c sent leave at T (R493, R494). -/
def State.freeSignals (s : State) (c : Nat) : State :=
  { s with signals := s.signals.map fun g => if g.held == some c then { g with held := none } else g }

/-- EVENT_SIGNAL_ARRIVAL: signal id reaches its slot (R42); one that a single step sent does not before T (R493). -/
def execEventSignalArrival (id : Nat) (s : State) : Out :=
  match firstWhere (fun g => g.id == id) s.signals with
  | some g =>
    if g.held.isSome then .next s
    else .next ({ s with signals := dropFirst (fun g => g.id == id) s.signals }.signal g.core g.slot g.reaches g.acq)
  | none => .next s

/-- The core and the slot that an event target names: [17:12] package, [11] die, [10:5] core, [4:0] slot (R158). -/
def evTarget (ev : Nat) : Nat × Nat := (fld ev 5 13, fld ev 0 5)

/-! Barriers. -/

/-- The number of a barrier in the panel: the domains one after the other. -/
def barKey : BarId → Nat
  | .core c n => 16 * c + n
  | .cluster u n => 2 ^ 17 + 64 * u + n
  | .die d n => 2 ^ 18 + 256 * d + n
  | .package p n => 2 ^ 19 + 256 * p + n
  | .panel n => 2 ^ 20 + n

/-- The scope of a barrier's domain (R8, R39). -/
def barScope : BarId → Nat
  | .core _ _ => 1
  | .cluster _ _ => 2
  | .die _ _ => 3
  | .package _ _ => 4
  | .panel _ => 5

/-- The barrier and the word (0 configuration, 1 status) at a panel-physical address (R111). -/
def barAt (pa : Nat) : Option (BarId × Nat) :=
  let d := paDie pa
  let o := paOff pa
  let w := o % 16 / 8
  if o % 8 ≠ 0 ∨ 2 ^ 48 ≤ pa then none
  else if o < 0x4000000000 then none
  else if o < 0x4000000000 + 0x100 * 64 then some (.core (64 * d + fld o 8 6) (fld o 4 4), w)
  else if o < 0x4000010000 then none
  else if o < 0x4000010000 + 0x400 * 8 then some (.cluster (8 * d + fld o 10 3) (fld o 4 6), w)
  else if o < 0x4000020000 then none
  else if o < 0x4000020000 + 0x10 * 256 then some (.die d (fld o 4 8), w)
  else if o < 0x4000030000 then none
  else if o < 0x4000030000 + 0x10 * 256 then some (.package (d / 2) (fld o 4 8), w)
  else if o < 0x4000040000 then none
  else if o < 0x4000040000 + 0x10 * 1024 then some (.panel (fld o 4 10), w)
  else none

/-- A barrier's words. -/
def State.barrier (s : State) (b : BarId) : Barrier := tget {} s.barriers (barKey b)

/-- The number of a barrier lies in a range of the launch record. -/
def inRange (r : Nat × Nat) (n : Nat) : Bool := decide (r.1 ≤ n) && decide (n < r.1 + r.2)

/-- The jobs of a weave that have not ended, with their cores. -/
def Weave.live (w : Weave) : List (Nat × Nat) :=
  ((span 0 w.jobs.length).zip (w.jobs.map fun j => j.1)).filter fun j => !w.done.contains j.1

/-- A barrier is allocated to a weave (R39, R162); a core barrier while the core's job has not ended. -/
def Weave.holds (w : Weave) (b : BarId) : Bool :=
  let on (p : Nat → Bool) : Bool := w.jobs.any fun j => p j.1
  match b with
  | .core c n => w.live.any (fun j => j.2 == c) && w.lrec.bcore.testBit n
  | .cluster u n => on (fun c => clusterOf c == u) && inRange (w.lrec.bars.getD 0 (0, 0)) n
  | .die d n => on (fun c => dieOf c == d) && inRange (w.lrec.bars.getD 1 (0, 0)) n
  | .package p n => on (fun c => pkgOf c == p) && inRange (w.lrec.bars.getD 2 (0, 0)) n
  | .panel n => inRange (w.lrec.bars.getD 3 (0, 0)) n

/-- A barrier is allocated to the weave of core c. -/
def State.barAllocated (s : State) (c : Nat) (b : BarId) : Bool :=
  match s.weaveOf c with
  | some w => w.holds b
  | none => false

/-- The configuration and the status word (R39). -/
def Barrier.config (b : Barrier) : Word := word (2 ^ 44 * b.parties + b.bytes)
def Barrier.status (b : Barrier) : Word := word (2 ^ 63 * bit b.phase + 2 ^ 43 * b.arrived + b.counted)

/-- Both expectations are 0 (R40). -/
def Barrier.unset (b : Barrier) : Bool := b.parties == 0 && b.bytes == 0

/-- The barrier may flip (R40). -/
def Barrier.due (b : Barrier) : Bool :=
  !b.unset && decide (b.parties ≤ b.arrived) && decide (b.bytes ≤ b.counted)

/-- A flip: the phase toggles, the expected counts are taken away (R40). -/
def Barrier.flip (b : Barrier) : Barrier :=
  { b with phase := !b.phase, arrived := b.arrived - b.parties, counted := b.counted - b.bytes }

/-- A barrier after a flip in its unit's cycle: an excess that came from outside a halted weave still flips it (R40, R44). -/
def Barrier.flipped (b : Barrier) (clock : Option Nat) : Barrier :=
  { b.flip with flippedAt := clock, outside := b.outside && b.flip.due }

/-- Arrivals and bytes are applied, each holding at its field's maximum (R40). The flip comes at the end of the unit's cycle. -/
def Barrier.apply (b : Barrier) (arrivals bytes : Nat) : Barrier :=
  { b with arrived := satAdd (2 ^ 20 - 1) b.arrived arrivals, counted := satAdd (2 ^ 43 - 1) b.counted bytes }

/-- The cycle that a core barrier's unit is in. The units of wider domains keep no cycle of their own here: each flip ends one. -/
def State.barClock (s : State) (b : BarId) : Option Nat :=
  match b with
  | .core c _ => some (s.core c).cycle
  | _ => none

/-- Barrier b has flipped in the present cycle of its unit: what arrives now belongs to the next one (R40). -/
def State.flippedNow (s : State) (b : BarId) : Bool := (s.barrier b).flippedAt.isSome && (s.barrier b).flippedAt == s.barClock b

/-- The job's own cores can cause no flip of barrier b: its core, or every core of its weave, is frozen (R44). -/
def State.barFrozen (s : State) (b : BarId) : Bool :=
  match b with
  | .core c _ => s.isFrozen c
  | b => s.weaves.any fun e => e.2.holds b && s.weaveHalted e.1
      && e.2.jobs.all fun j => s.isFrozen j.1 || (s.core j.1).job.map Prod.fst != some e.1

/-- Barrier b flips in the present cycle: it meets its counts, has not flipped in it (R40), and where its weave is halted something from
outside has made it meet them (R44). -/
def State.flipDue (s : State) (b : BarId) : Bool :=
  (s.barrier b).due && !s.flippedNow b && ((s.barrier b).outside || !s.barFrozen b)

/-- A barrier of core c still flips in this cycle. -/
def State.flipOwed (s : State) (c : Nat) : Bool := (span 0 16).any fun n => s.flipDue (.core c n)

/-- The barrier wider than a core that has a number (barKey). -/
def wideBar (n : Nat) : BarId :=
  if n < 2 ^ 18 then .cluster ((n - 2 ^ 17) / 64) (n % 64)
  else if n < 2 ^ 19 then .die ((n - 2 ^ 18) / 256) (n % 256)
  else if n < 2 ^ 20 then .package ((n - 2 ^ 19) / 256) (n % 256)
  else .panel (n - 2 ^ 20)

/-- A barrier wider than a core is still to flip. -/
def State.wideFlipOwed (s : State) : Bool := s.barriers.any fun e => decide (2 ^ 17 ≤ e.1) && e.2.due && s.flipDue (wideBar e.1)

/-- The waits for a flip of barrier b on a core end; on a frozen core they end at the resume (R41, R44). -/
def Core.flipWake (k : Core) (b : BarId) : Core :=
  { k with tasks := k.tasks.map fun e =>
      match e.2.wait with
      | some { what := .flip b' _, .. } =>
        if b' == b then (e.1, if k.frozen.isSome then { e.2 with wait := e.2.wait.map fun w => { w with what := .ended } } else e.2.wake) else e
      | _ => e }

/-- A core has a task that waits for a flip of barrier b. -/
def Core.awaits (k : Core) (b : BarId) : Bool :=
  k.tasks.any fun e => match e.2.wait with
    | some { what := .flip b' _, .. } => b' == b
    | _ => false

/-- A task of the panel waits on barrier b (R41). -/
def State.barWaited (s : State) (b : BarId) : Bool :=
  s.cores.any (fun e => e.2.awaits b) || s.weaves.any fun w => w.2.images.any fun i => i.2.state.awaits b

/-- Barrier b has flipped: every waiting task is made ready, each with the acquire of R143. -/
def State.flipped (s : State) (b : BarId) : State :=
  let woken := s.cores.filter fun e => e.2.awaits b
  let s1 := { s with cores := s.cores.map fun e => (e.1, e.2.flipWake b),
                     weaves := s.weaves.map fun w => (w.1, { w.2 with images := w.2.images.map fun i =>
                       (i.1, { i.2 with state := i.2.state.flipWake b }) }) }
  woken.foldl (fun s e => s.acquire e.1 (barScope b)) s1

/-- Arrivals and byte additions at barrier b; none where its configuration is zero (R40). -/
def State.barAdd (s : State) (b : BarId) (arrivals bytes : Nat) : Option State :=
  let x := s.barrier b
  let y := x.apply arrivals bytes
  if x.unset then none
  else some { s with barriers := tput s.barriers (barKey b) { y with outside := y.outside || (y.due && s.barFrozen b) } }

/-- The saved image of weave w that holds barrier b: a core barrier of a saved job (R180, R260). -/
def State.barSaved (s : State) (w : Nat) (b : BarId) : Bool :=
  match b, tfind s.weaves w with
  | .core c _, some x => x.images.any fun i => i.2.core == c
  | _, _ => false

/-- Bytes for barrier b of weave w, none where it is not the weave's any more; where its job is saved the barrier of the image keeps them, and flips after the resume (R180, R260). -/
def State.barAddOf (s : State) (w : Nat) (b : BarId) (bytes : Nat) : Option State :=
  if (tfind s.weaves w).any fun x => !x.holds b then none
  else if !s.barSaved w b then s.barAdd b 0 bytes
  else
    let put (i : Image) : Image := { i with bars := tmod {} i.bars (barKey b) fun x => x.apply 0 bytes }
    let c := match b with | .core c _ => c | _ => 0
    match tfind s.weaves w with
    | some x =>
      if x.images.any fun i => i.2.core == c && (tget {} i.2.bars (barKey b) : Barrier).unset then none
      else some (s.modWeave w fun x => { x with images := x.images.map fun i => if i.2.core == c then (i.1, put i.2) else i })
    | none => none

/-- BARRIER_CARRY_FLIP: the unit's cycle ends: its arrivals and additions are applied, and the barrier flips where they meet the counts, or
a carried excess does, once in a cycle (R40); the flips that a halted weave's own cores would cause stand still (R44). -/
def execBarrierCarryFlip (b : BarId) (s : State) : Out :=
  if s.flipDue b then
    .next ({ s with barriers := tput s.barriers (barKey b) ((s.barrier b).flipped (s.barClock b)) }.flipped b)
  else .next s

/-- An engine adds bytes to a barrier for a job of core c: a zero configuration adds nothing and is BARRIER_CONFIG in
task 0 under R225 (R40). -/
def State.engineBytes (s : State) (c : Nat) (b : BarId) (bytes : Nat) (va : Word) : State :=
  match s.barAdd b 0 bytes with
  | some s1 => s1
  | none => s.asyncFault c 14 0 va

end Sys2Proof.Machine
end

