-- ==== Sys2Proof/Machine/Memory.lean ====
section
/-! DEFINITION. Writes at the homes with what they cause: tracked lines leave other L1s (R130), tile trackers count
and fire (R256, R257); write-backs and releases of an L1 (R129, R131), range maintenance (R133), atomics (R204, R205),
the memory-error block (R135, R136, R151). -/

namespace Sys2Proof.Machine

/-! Tile trackers. -/

/-- The bytes of a write that fall in a tracker's range (R256). -/
def Tracker.counts (t : Tracker) (cells : List Host.Cell) : Nat := (cells.filter fun x => addrIn t.pieces x.1).length

/-- A tracker fires (R257): it frees itself, signals its event, and queues its stored transfer. -/
def State.fire (s : State) (d n : Nat) (t : Tracker) : State :=
  let s1 := { s with trk := tmod {} s.trk d fun u =>
    { u with armed := tdel u.armed n, stat := wrapUp u.stat 32 32 1,
             queue := if t.xword = 0 then u.queue else u.queue ++ [{ tracker := t, slot := n }] } }
  if t.evt.testBit 63 then s1.post (evTarget t.evt).1 (evTarget t.evt).2 (some t.weave) t.ctx (some 4) else s1

/-- The trackers of a die count the bytes of one write, and fire where they reach EXPECT (R256, R257); those of a weave that is torn down
are free (R253). -/
def State.countWrite (s : State) (d : Nat) (cells : List Host.Cell) : State :=
  (tget {} s.trk d).armed.foldl (fun s e =>
    let n := e.2.counts cells
    if n = 0 ∨ s.tornWeave e.2.weave = true then s
    else
      let t : Tracker := { e.2 with counted := e.2.counted + n }
      if t.expect ≤ t.counted then s.fire d e.1 t
      else { s with trk := tmod {} s.trk d fun u => { u with armed := tput u.armed e.1 t } }) s

/-- The lines of a list of cells, each once. -/
def linesOf (cells : List Host.Cell) : List Nat := (cells.map fun x => x.1 / 128).eraseDups

/-- Cells written at their homes (R132): tracked lines leave every L1 but the writer's, trackers count. writer gives
the core whose store it is. -/
def State.homeWrite (s : State) (writer : Option Nat) (cells : List Host.Cell) : State :=
  match cells with
  | [] => s
  | (a, _) :: _ =>
    let s1 := s.homePutAll cells
    let s2 := (linesOf cells).foldl (fun s l => s.removeTracked l (writer.map fun c => s.l1Core c l)) s1
    s2.countWrite (paDie a) cells

/-! Write-backs of an L1. -/

/-- Core holder's L1 writes back the dirty bytes of a line; holder is the slice that holds it (R129). -/
def State.writeBack (s : State) (holder line : Nat) : State :=
  match tfind (s.core holder).l1 line with
  | some x =>
    if x.dirty = 0 then s
    else (s.modCore holder fun k => { k with l1 := tput k.l1 line { x with dirty := 0 } }).homeWrite (some holder) (x.dirtyCells line)
  | none => s

/-- The lines of an L1 that hold dirty bytes and satisfy p. -/
def Core.dirtyLines (k : Core) (p : Nat → L1Line → Bool) : List Nat :=
  k.l1.filterMap fun e => if e.2.dirty ≠ 0 && p e.1 e.2 then some e.1 else none

/-- The L1s that core c reaches write back every dirty line that satisfies p. -/
def State.writeBackAll (s : State) (c : Nat) (p : Nat → L1Line → Bool) : State :=
  (s.l1Cores c).foldl (fun s h => ((s.core h).dirtyLines p).foldl (fun s l => s.writeBack h l) s) s

/-- A release of scope S: every dirty byte of the lines whose WS is narrower than S is written back (R131). -/
def State.release (s : State) (c scope : Nat) : State := s.writeBackAll c fun _ x => decide (x.ws < scope)

/-- The issuing L1 writes back its dirty bytes of a line and drops its copy (R132). -/
def State.yieldLine (s : State) (c line : Nat) : State := (s.writeBack (s.l1Core c line) line).dropL1 c line

/-! Range maintenance (R133). -/

/-- The sectors of the homes in the physical pieces. -/
def State.homeSectors (s : State) (ps : List (Nat × Nat)) : List Nat :=
  s.homes.filterMap fun e => if lineIn ps (e.1 / 4) then some e.1 else none

/-- `clean.r` at scope S over physical pieces. -/
def State.cleanRange (s : State) (c scope : Nat) (ps : List (Nat × Nat)) : State :=
  let s1 := s.writeBackAll c fun l _ => lineIn ps l
  if scope < 3 then s1 else (s1.homeSectors ps).foldl (fun s k => s.homeClean k) s1

/-- The L1s that core c reaches drop the lines in the pieces, dirty bytes included. -/
def State.dropLines (s : State) (c : Nat) (ps : List (Nat × Nat)) : State :=
  (s.l1Cores c).foldl (fun s h => s.modCore h fun k => { k with l1 := k.l1.filter fun e => !lineIn ps e.1 }) s

/-- The homes remove the tracked copies of the lines in the pieces from every L1 (R133). -/
def State.untrackRange (s : State) (ps : List (Nat × Nat)) : State :=
  (s.tracked.flatMap fun e => e.2.filterMap fun x => if lineIn ps x.1 then some x.1 else none).foldl
    (fun s l => s.removeTracked l none) s

/-- The words of the pieces leave core c's instruction buffer (R190). -/
def State.dropWords (s : State) (c : Nat) (ps : List (Nat × Nat)) : State :=
  s.modCore c fun k => { k with ibuf := k.ibuf.filter fun e => !lineIn ps (e.1 / 32) }

/-- `inv.r` at scope S over physical pieces (R133, R190). -/
def State.invRange (s : State) (c scope : Nat) (ps : List (Nat × Nat)) : State :=
  let s1 := (s.dropLines c ps).dropWords c ps
  if scope < 3 then s1 else ((s1.homeSectors ps).foldl (fun s k => s.homeDrop k) s1).untrackRange ps

/-- `cleaninv.r` at scope S over physical pieces (R133). -/
def State.cleanInvRange (s : State) (c scope : Nat) (ps : List (Nat × Nat)) : State :=
  (s.cleanRange c scope ps).invRange c scope ps

/-! Atomics (R204, R205). -/

/-- The value an atomic stores: operations 0 to 8 of R204 on n bytes. -/
def atomOp (op n old b : Nat) : Nat :=
  let m := 2 ^ (8 * n)
  let sg (x : Nat) : Int := if x % m < m / 2 then ((x % m : Nat) : Int) else ((x % m : Nat) : Int) - m
  match op with
  | 0 => b % m
  | 1 => (old + b) % m
  | 2 => (old % m) &&& (b % m)
  | 3 => (old % m) ||| (b % m)
  | 4 => (old % m) ^^^ (b % m)
  | 5 => if sg b < sg old then b % m else old % m
  | 6 => if sg old < sg b then b % m else old % m
  | 7 => min (old % m) (b % m)
  | _ => max (old % m) (b % m)

/-- An atomic at the home of its line (R132): op 0 to 8, or with a comparand a `cas` that writes only where it
matches. Either way the home has removed the tracked line from the other L1s first (R130). The old value and the state. -/
def State.homeAtomic (s : State) (writer : Option Nat) (a n op operand : Nat) (cmp : Option Nat) : Nat × State :=
  let old := s.homeNum a n
  let put (v : Nat) : State := s.homeWrite writer (cellsFrom a (bytesOfNum n v))
  match cmp with
  | some x => (old, if old = x % 2 ^ (8 * n) then put operand else s.removeTracked (a / 128) (writer.map fun c => s.l1Core c (a / 128)))
  | none => (old, put (atomOp op n old operand))

/-! Memory errors (R135, R136, R151). -/

/-- A die's error-address table lists a line. -/
def State.errorLine (s : State) (line : Nat) : Bool :=
  (tget {} s.memerr (paDie (128 * line))).table.any fun e => e.2 == 128 * line

/-- A soft error is counted: 1 corrected, 2 transient, 3 lasting (R151). -/
def State.countError (s : State) (d ecc : Nat) : State :=
  { s with memerr := tmod {} s.memerr d fun m => { m with counts :=
      match ecc with
      | 1 => countUp m.counts 0 32 1
      | 2 => countUp m.counts 32 16 1
      | _ => countUp m.counts 48 16 1 } }

/-- A lasting error of a write-back enters the line in the die's table: a free entry of 16 (R136), the lowest (DESIGN CHOICE,
assumption 121), and none where all are in use (assumption 102). -/
def State.enterError (s : State) (line : Nat) : State :=
  let d := paDie (128 * line)
  let m := tget {} s.memerr d
  match firstWhere (fun i => (tfind m.table i).isNone) (span 0 16) with
  | some i => { s with memerr := tput s.memerr d { m with table := tput m.table i (128 * line) } }
  | none => s

/-- A home meets a lasting error as it evicts sector k (R136): of a clean copy it drops the copy and counts a corrected error; a dirty one
is lost, and its line enters the error-address table. -/
def State.homeEvictBad (s : State) (k : Nat) : State :=
  match tfind s.homes k with
  | some h => if h.dirty then ((s.homeDrop k).countError (paDie (32 * k)) 3).enterError (k / 4) else (s.homeDrop k).countError (paDie (32 * k)) 1
  | none => s

/-- The L1 slice of core c meets a lasting error as it evicts a line (R136). -/
def State.l1EvictBad (s : State) (c line : Nat) : State :=
  let s1 := s.modCore c fun k => { k with l1 := tdel k.l1 line }
  match tfind (s.core c).l1 line with
  | some x => if x.dirty = 0 then s1.countError (dieOf c) 1 else (s1.countError (dieOf c) 3).enterError line
  | none => s

/-- CACHE_EVICTION: a home evicts its copy of a sector, or the L1 slice of core c a line, at any time, writing dirty bytes back (R132);
n is the number of the sector or of the line, err a lasting error met in it, where no requester waits (R136). -/
def execCacheEviction (home : Bool) (c n : Nat) (err : Bool) (s : State) : Out :=
  .next (match home, err with
    | true, false => s.homeEvict n
    | true, true => s.homeEvictBad n
    | false, false => (s.writeBack c n).modCore c fun k => { k with l1 := tdel k.l1 n }
    | false, true => s.l1EvictBad c n)

/-! A fault for the job of a weave on a core, resident, saved, or ended. -/

/-- An asynchronous fault that names no data strand reaches task 0 of weave w's job on core c, in its image where
the job is saved; the answer says whether a job took it (R225, R258, R261, R344). -/
def State.jobFault (s : State) (w c code : Nat) (tval : Word) : State × Bool :=
  match (s.core c).job, tfind s.weaves w with
  | some (w', _), some x =>
    if w' = w ∧ x.torn = false then (s.asyncFault c code 0 tval, true)
    else imageFault s w c code tval
  | none, some _ => imageFault s w c code tval
  | _, none => (s, false)
where
  imageFault (s : State) (w c code : Nat) (tval : Word) : State × Bool :=
    match tfind s.weaves w with
    | some x =>
      if x.images.any (fun i => i.2.core == c) then
        (s.modWeave w fun x => { x with images := x.images.map fun i =>
          if i.2.core == c then (i.1, { i.2 with state := { i.2.state with
            afaults := i.2.state.afaults ++ [{ strand := 0, code, task := 0, tval }] } }) else i }, true)
      else (s, false)
    | none => (s, false)

end Sys2Proof.Machine
end

