-- ==== Sys2Proof/Machine/Access.lean ====
section
/-! DEFINITION. The accesses of a party in its load and store queues (R139 to R143): which may be performed next,
what performing one does, and how its value returns. Device registers and the fabric have files of their own. -/

namespace Sys2Proof.Machine

/-! The kinds. -/

/-- The access takes its turn among the party's loads (R139). -/
def Access.loadLike (a : Access) : Bool :=
  match a.kind with
  | .load => true
  | .atom _ => true
  | _ => false

/-- The access takes its turn among the party's stores (R139, R207). -/
def Access.storeLike (a : Access) : Bool :=
  match a.kind with
  | .store | .atom _ | .clean | .inv | .cleaninv | .arrival _ | .contribution _ _ | .notify _ => true
  | _ => false

/-- A fence. -/
def Access.isFence (a : Access) : Bool :=
  match a.kind with
  | .fence _ => true
  | _ => false

/-- A strong access: an atomic, or one with ORD acquire or release (R145). -/
def Access.strong (a : Access) : Bool :=
  match a.kind with
  | .atom _ => true
  | .load | .store => a.acq || a.rel
  | _ => false

/-- The access still stands in its queue. -/
def Access.waiting (a : Access) : Bool := a.stage != .performed

/-- Where a fabric access goes: the die of its target, or for a contribution the switch die of its group's plane, behind the dies (R374,
R379, R385). -/
def Access.target (a : Access) : Nat :=
  match a.kind with
  | .contribution h _ => 128 + h / 1024
  | _ => paDie a.pa

/-- The two stores are ordered by their queue: fabric stores only per target die (R139). -/
def sameStream (e a : Access) : Bool :=
  (e.space != .fabric && a.space != .fabric) || e.target == a.target

/-- Range maintenance (R133). -/
def Access.maintains (a : Access) : Bool :=
  match a.kind with
  | .clean | .inv | .cleaninv => true
  | _ => false

/-- The earlier access e of a party must be performed before the later access a (R139 to R142, R207); the parts of one copy
transfer or of one vector word have no order but where they touch the same bytes (R145, R235). -/
def Access.blocks (e a : Access) : Bool :=
  !(e.op != 0 && e.op == a.op && !(decide (e.pa < a.pa + a.n) && decide (a.pa < e.pa + e.n)))
  && (e.kind == .qmark || e.acq
  || a.kind == .qmark || a.rel
  || (a.isFence && (e.maintains || (a.acq && e.loadLike)))
  || (e.isFence && e.rel && a.storeLike)
  || (e.loadLike && a.loadLike)
  || (e.storeLike && a.storeLike && sameStream e a))

/-! Access lists. -/

/-- Access id of a core. -/
def Core.access (k : Core) (id : Nat) : Option Access := firstWhere (fun a => a.id == id) k.accs

/-- The earlier accesses of a's party. -/
def Core.earlier (k : Core) (a : Access) : List Access :=
  (k.accs.takeWhile fun e => e.id != a.id).filter fun e => e.party == a.party

/-- A store of the vector strand is performed 12 or more counted cycles after its issue (R268). -/
def Core.mayStore (k : Core) (a : Access) : Bool := a.party != 8 || a.kind != .store || decide (a.readyAt ≤ k.data.counted)

/-- Access a may be performed now: nothing earlier of its party blocks it. -/
def Core.mayPerform (k : Core) (a : Access) : Bool := ((k.earlier a).all fun e => !(e.waiting && e.blocks a)) && k.mayStore a

/-- The state with access id of core c changed. -/
def State.modAccess (s : State) (c id : Nat) (f : Access → Access) : State :=
  s.modCore c fun k => { k with accs := modFirst (fun a => a.id == id) f k.accs }

/-- Access id of core c is over. -/
def State.endAccess (s : State) (c id : Nat) : State :=
  s.modCore c fun k => { k with accs := dropFirst (fun a => a.id == id) k.accs }

/-- A new access of core c enters its party's queues with the next number. -/
def State.enqueue (s : State) (c : Nat) (a : Access) : State :=
  (s.modCore c fun k => { k with accs := k.accs ++ [{ a with id := s.nextId }] }).fresh

/-- The accesses of a party that are still in its queues. -/
def Core.pending (k : Core) (party : Nat) : List Access := k.accs.filter fun a => a.party == party && a.waiting

/-- Every access of the party has been performed. -/
def Core.quiet (k : Core) (party : Nat) : Bool := (k.pending party).isEmpty

/-- The access holds a request entry: a load, store, atomic or contribution (R134, R385). -/
def Access.holdsEntry (a : Access) : Bool :=
  match a.kind with
  | .load | .store | .atom _ | .contribution _ _ => true
  | _ => false

/-- Two accesses of one data word to one sector, or the ring stores of one, which hold one entry (R282, assumption 118). -/
def sameEntry (e a : Access) : Bool := e.op != 0 && e.op == a.op && e.kind == a.kind && (e.ring || e.pa / 32 == a.pa / 32)

/-- The entries of a list of accesses; those of one entry stand next to each other. before is the access in front of the list. -/
def countEntries : Option Access → List Access → Nat
  | _, [] => 0
  | before, a :: t => (if before.any fun e => sameEntry e a then 0 else 1) + countEntries (some a) t

/-- The outstanding memory requests of a core (R134). -/
def Core.outstanding (k : Core) : Nat := countEntries none (k.accs.filter Access.holdsEntry)

/-! The bytes of a load. -/

/-- The addresses an access touches. -/
def Access.addrs (a : Access) : List Nat := span a.pa a.n

/-- The party's own earlier stores that are not yet performed lie over the bytes a load finds (R139). -/
def forward (as : List Nat) (bs : List Byte) (stores : List Access) : List Byte :=
  stores.foldl (fun bs e => (as.zip bs).map fun x =>
    match e.data.reverse.find? (fun w => w.1 == x.1) with
    | some w => w.2
    | none => x.2) bs

/-- Two accesses name their bytes by addresses of the same memory: virtual space and the fabric both by panel-physical ones. -/
def sameMemory (x y : Space) : Bool := x == y || ((x == .virt || x == .fabric) && (y == .virt || y == .fabric))

/-- The bytes of load a, with the party's own earlier stores over them (R139). -/
def Core.forwarded (k : Core) (a : Access) (bs : List Byte) : List Byte :=
  forward a.addrs bs ((k.earlier a).filter fun e => e.kind == .store && sameMemory e.space a.space && e.waiting)

/-- The value of access a is fixed: it is performed and on its way back (R138). -/
def State.fix (s : State) (c : Nat) (a : Access) (bs : List Byte) : State :=
  s.modAccess c a.id fun x => { x with stage := .performed, val := bs }

/-- The value of access id returns n cycles later than a hit in the core's own L1 (R107, R128). -/
def State.later (s : State) (c id n : Nat) : State := s.modAccess c id fun x => { x with readyAt := x.readyAt + n }

/-- The scope at which a device access orders memory: its own, and for a barrier's status word that of the barrier's domain (R41, R112,
R143). -/
def Access.deviceScope (a : Access) : Nat :=
  match barAt a.pa with
  | some (b, 1) => barScope b
  | _ => a.scope

/-- An access as it orders memory where it reaches a device register. -/
def Access.atDevice (a : Access) : Access := { a with scope := a.deviceScope }

/-- A fabric access as it orders memory (R112, R376). -/
def Access.ordered (a : Access) : Access := if a.space == .fabric && inDev a.pa then a.atDevice else a

/-- The order of an acquire or release at the access's scope: a release before it (R131, R141). -/
def State.before_ (s : State) (c : Nat) (a : Access) : State := if a.rel then s.release c a.scope else s

/-- and an acquire after it. -/
def State.after_ (s : State) (c : Nat) (a : Access) : State := if a.acq then s.acquire c a.scope else s

/-! Faults of an access. -/

/-- A named strand stops, also one that is held at a rim: `restart` alone resumes it (R69, R188). -/
def stopStrand (x : Strand) : Strand := { x with stopped := x.stopped || x.named }

/-- Every data engine of the job stops (R69). -/
def State.stopData (s : State) (c : Nat) : State :=
  s.modData c fun d => { d with vec := stopStrand d.vec, mat := stopStrand d.mat, cpy := stopStrand d.cpy, frozen := false }

/-- A data strand's fault that stops the data engines (R69, R136, R225): strand 1 vector, 2 matrix, 3 copy. -/
def State.strandFault (s : State) (c strand code : Nat) (tval : Word) (va : Nat := 0) : State := (s.stopData c).dataFault c strand code tval va

/-- A copy transfer of core c is over, with what it has in the queues (R252). -/
def State.endXfer (s : State) (c id : Nat) : State :=
  s.modCore c fun k => { k with accs := k.accs.filter (fun a => a.xfer != id),
                                data := { k.data with xfers := k.data.xfers.filter (fun x => x.id != id) } }

/-- A vector load that one of its accesses ends: its register keeps its value, the others' bytes go nowhere (R283). -/
def Core.dropLoad (k : Core) (op : Nat) : Core :=
  let cut (a : Access) : Access := match a.dest with
    | .vec o _ => if o = op then { a with dest := .none } else a
    | _ => a
  { k with accs := k.accs.map cut, data := { k.data with vloads := k.data.vloads.filter fun v => v.op != op } }

/-- The access is over with a fault: a precise trap of its task with TVAL the address, or a fault of its data strand
with TVAL the data word's address (R222 to R225). -/
def State.accessFault (s : State) (c : Nat) (a : Access) (code : Nat) : State :=
  let s1 := if a.xfer = 0 then s.endAccess c a.id else s.endXfer c a.xfer
  let s2 := match a.dest with
    | .vec op _ => s1.modCore c fun k => k.dropLoad op
    | _ => s1
  if a.party < 8 then s2.trapAt c a.party code (word a.word) (word a.va) (word a.word)
  else s2.strandFault c (a.party - 7) code (word a.word) a.va

/-- No later instruction of the task has issued, and the task has not exited: a fault of the access is precise (R216, R222). -/
def State.precise (s : State) (c : Nat) (a : Access) : Bool :=
  decide (8 ≤ a.party) || (!a.orphan && (s.task c a.party).icount == a.icount)

/-! Strong accesses of a debugged weave (R145): the home keeps their sizes in the order of their issue, and the check is made then, so
that its trap is precise (R222). -/

/-- The 16-byte units of an access. -/
def Access.units (a : Access) : List Nat := span (a.pa / 16) ((a.pa + a.n - 1) / 16 - a.pa / 16 + 1)

/-- A strong access of another size was the last one to a unit (R145). -/
def State.mixed (s : State) (c : Nat) (a : Access) : Bool :=
  s.debugOn c && a.strong && a.units.any fun u => match tfind s.strong u with
    | some n => n != a.n
    | none => false

/-- The home keeps the size of the last strong access to each unit (R145). -/
def State.markStrong (s : State) (c : Nat) (a : Access) : State :=
  if s.debugOn c && a.strong then { s with strong := a.units.foldl (fun t u => tput t u a.n) s.strong } else s

/-! Performing inside the core. -/

/-- The access is to be performed inside the core: the core store, an L1 hit, a write-back store, or a fence, `qmark`
or maintenance in its queue. -/
def State.isNear (s : State) (c : Nat) (a : Access) : Bool :=
  match a.kind, a.space with
  | .fence _, _ | .qmark, _ | .clean, _ | .inv, _ | .cleaninv, _ | .arrival _, _ => true
  | .load, .core | .store, .core | .load, .opmem | .store, .opmem => true
  | .load, .virt => decide (a.scope ≤ s.coverage c) && !a.nc && a.addrs.all (s.l1Has c)
  | .store, .virt => s.writesBack c a.scope a.nc
  | _, _ => false

/-- A task's access a that is about to issue meets a fault that its home gives (R136, R145, in the order of R223): MIXED_SIZE, or
MEMORY_ERROR at a line of the error-address table. -/
def State.homeFault (s : State) (c : Nat) (a : Access) : Option Nat :=
  if s.mixed c a then some 18 else if s.errorLine (a.pa / 128) then some 17 else none

/-- A load or store of the core store or of operand memory is performed (R113, R203). -/
def State.performCore (s : State) (c : Nat) (a : Access) : State :=
  let s1 := s.before_ c a
  match a.kind with
  | .store =>
    ((s1.modCore c fun k =>
      if a.space == .opmem then { k with opmem := setCells k.opmem a.data } else { k with scratch := setCells k.scratch a.data }).endAccess c a.id).after_ c a
  | _ =>
    let k := s1.core c
    (s1.fix c a (k.forwarded a (bytesAt (if a.space == .opmem then k.opmem else k.scratch) a.pa a.n))).after_ c a

/-- A load or store is performed in the L1 (R129, R130). -/
def State.performL1 (s : State) (c : Nat) (a : Access) : State :=
  let s1 := s.before_ c a
  match a.kind with
  | .store => ((s1.l1PutAll c a.scope true a.data).endAccess c a.id).after_ c a
  | _ =>
    -- a hit in another core's slice takes 6 cycles more (R128)
    let s2 := s1.later c a.id (if s1.l1Core c (a.pa / 128) = c then 0 else 6)
    (s2.fix c a ((s2.core c).forwarded a (s2.seenBytes c a.scope a.addrs))).after_ c a

/-- A barrier arrival is performed: the release at the domain's scope, then the arrival; p is read in the cycle of the
arrival, before its flip; a zero configuration is a precise BARRIER_CONFIG (R40, R143, R217). -/
def State.performArrival (s : State) (c : Nat) (a : Access) (b : BarId) : State :=
  let s1 := (s.release c (barScope b)).endAccess c a.id
  let p := (s.barrier b).phase
  match s1.barAdd b 1 0 with
  | none => s1.trapAt c a.party 14 (word a.word) (word a.va) (word a.word)
  | some s2 =>
    match a.dest with
    | .reg rd _ => s2.wakeWith c a.party rd (word (bit p))
    | _ => s2.wake c a.party

/-- An access is performed inside the core. -/
def State.performNear (s : State) (c : Nat) (a : Access) : State :=
  match a.kind, a.space with
  | .fence _, _ => ((s.before_ c a).endAccess c a.id).after_ c a
  | .qmark, _ => s.endAccess c a.id
  | .clean, _ => (s.cleanRange c a.scope a.pieces).endAccess c a.id
  | .inv, _ => (s.invRange c a.scope a.pieces).endAccess c a.id
  | .cleaninv, _ => (s.cleanInvRange c a.scope a.pieces).endAccess c a.id
  | .arrival b, _ => s.performArrival c a b
  | _, .core | _, .opmem => s.performCore c a
  | _, _ => s.performL1 c a

/-! Performing at the home. -/

/-- The sectors of a load that the L1 lacks, or all of them for a load wider than V (R130). -/
def State.missing (s : State) (c : Nat) (a : Access) : List Nat :=
  let ks := (a.addrs.map fun x => x / 32).eraseDups
  if a.scope ≤ s.coverage c then ks.filter fun k => !((s.l1Line c (k / 4)).getD {}).isValid (k % 4 * 32) else ks

/-- The L1 slices have a place for every line that the access brings in (R107, R126): a full slice evicts a line first (R132). -/
def State.l1Room (s : State) (c : Nat) (a : Access) : Bool :=
  let new := (((a.addrs.map fun x => x / 128).eraseDups).filter fun l => (s.l1Line c l).isNone)
  let room (h : Nat) : Bool :=
    decide ((s.core h).l1.length + (new.filter fun l => s.l1Core c l == h).length ≤ shareBytes (s.core h).share / 128)
  if a.space != .virt then true
  else match a.kind with
  | .load => a.nc || (s.core c).share == 0 || new.all fun l => room (s.l1Core c l)
  | .store => !s.writesBack c a.scope a.nc || new.all fun l => room (s.l1Core c l)
  | _ => true

/-- The L1 fills the sectors a load needs (R130). -/
def State.fillFor (s : State) (c : Nat) (a : Access) : State :=
  if a.nc || (s.core c).share == 0 then (s.missing c a).foldl (fun s k => s.homeFetch k) s
  else
    let wide := decide (s.coverage c < a.scope)
    (s.missing c a).foldl (fun s k =>
      let s1 := s.fillL1 c k a.scope wide
      if wide then s1.track (s1.l1Core c (k / 4)) (k / 4) else s1) s

/-- The issuing L1 writes back and drops its copies of the lines that access a touches (R132). -/
def State.yieldLines (s : State) (c : Nat) (a : Access) : State := (linesOf (a.addrs.map fun x => (x, 0#8))).foldl (fun s l => s.yieldLine c l) s

/-- The access is performed at the home (R130, R132). -/
def State.performHome (s : State) (c : Nat) (a : Access) : State :=
  let s1 := s.before_ c a
  match a.kind with
  | .store => (((s1.l1PutAll c a.scope false a.data).homeWrite (some c) a.data).endAccess c a.id).after_ c a
  | .atom op =>
    let s2 := s1.yieldLines c a
    let r := s2.homeAtomic (some c) a.pa a.n op (numBytes (a.data.map Prod.snd)) a.cmp
    ((r.2.later c a.id 96).fix c a (bytesOfNum a.n r.1)).after_ c a
  | _ =>
    -- a load that the home serves without a fill leaves no older copy in the L1 (R138)
    let s0 := if a.nc && decide (s.coverage c < a.scope) then s1.yieldLines c a else s1
    let s2 := (s0.fillFor c a).later c a.id 96
    (s2.fix c a ((s2.core c).forwarded a (s2.seenBytes c a.scope a.addrs))).after_ c a

/-- The home holds a clean copy of a sector: a lasting error there is corrected from below (R136). -/
def State.cleanCopy (s : State) (k : Nat) : Bool :=
  match tfind s.homes k with
  | some h => !h.dirty
  | none => false

/-- An access meets MEMORY_ERROR: a vector load when its data returns (R283), every other access at once (R222, R251). -/
def State.strandError (s : State) (c : Nat) (a : Access) : State :=
  match a.kind, a.dest with
  | .load, .vec _ _ => (s.later c a.id 96).modAccess c a.id fun x => { x with stage := .performed, fault := 17 }
  | _, _ => s.accessFault c a 17

/-- HOME_REQUEST: access id of core c reaches its home and is performed there. ecc is the error its read meets: 0 none,
1 corrected, 2 transient, 3 lasting (R135, R136). A line of the error-address table stops a data strand here, and a task that has issued
nothing later; the other tasks have met it at their issue. A task's lasting error is precise (R222): past its next instruction none is met
here, since State.readFails has met it at the issue (assumption 16). -/
def execHomeRequest (c id ecc : Nat) (s : State) : Out :=
  let k := s.core c
  match k.access id with
  | none => .next s
  | some a =>
    if a.space != .virt || a.stage != .queued || s.isNear c a || !k.mayPerform a || !s.l1Room c a then .next s
    else if s.precise c a && s.errorLine (a.pa / 128) then .next (s.strandError c a)
    else if ecc = 3 && s.cleanCopy (a.pa / 32) then
      .next (((s.homeDrop (a.pa / 32)).countError (paDie a.pa) 1).performHome c a)
    else if ecc = 3 then (if s.precise c a then .next ((s.countError (paDie a.pa) 3).strandError c a) else .next s)
    else if ecc = 0 then .next (s.performHome c a)
    else .next ((s.countError (paDie a.pa) ecc).performHome c a)

/-! The return of values. -/

/-- The value of a load of n bytes for a register: extended, and for 16 bytes a pair (R203). -/
def State.writeLoad (s : State) (c t rd : Nat) (sx : Bool) (bs : List Byte) : State :=
  let n := bs.length
  if n = 16 then
    (s.setReg c t rd (word (numBytes (bs.take 8)))).setReg c t (rd + 1) (word (numBytes (bs.drop 8)))
  else s.setReg c t rd (if sx then sext64 (8 * n) (numBytes bs) else word (numBytes bs))

/-- Bytes of a vector load have returned (R282). -/
def DataSide.landVector (d : DataSide) (op off : Nat) (bs : List Byte) : DataSide :=
  let upd (v : VLoad) : VLoad := { v with out := v.out - 1, bytes := setBytes v.bytes off bs }
  { d with vloads := modFirst (fun v => v.op == op) upd d.vloads }

/-- Bytes of a copy unit have been read; after the last byte of a fire its input slots are empty (R243, R250). -/
def DataSide.landCopy (d : DataSide) (id no off : Nat) (bs : List Byte) : DataSide :=
  let arrive (q : Sector) : Sector :=
    { q with out := q.out - 1, bytes := setBytes q.bytes off bs, st := if q.out ≤ 1 then .read else q.st }
  let xs := modFirst (fun (x : Xfer) => x.id == id) (fun x => { x with secs := modFirst (fun q => q.no == no) arrive x.secs }) d.xfers
  match firstWhere (fun (x : Xfer) => x.id == id) xs with
  | some x =>
    if x.secs.all fun q => q.st == .read || q.st == .writing then
      { d with xfers := modFirst (fun (x : Xfer) => x.id == id) (fun x => { x with inSlots := [] }) xs,
               slots := x.inSlots.foldl (fun t k => tput t k .empty) d.slots }
    else { d with xfers := xs }
  | none => d

/-- The bytes of a load go where the load sends them, and the task that is parked on it goes on (R18). -/
def State.deliver (s : State) (c : Nat) (a : Access) : State :=
  let s1 := s.endAccess c a.id
  let s2 := match a.dest with
    | .none => s1
    | .reg rd sx => s1.writeLoad c a.party rd sx a.val
    | .vec op off => s1.modData c fun d => d.landVector op off a.val
    | .copy x no off => s1.modData c fun d => d.landCopy x no off a.val
  match s2.waitOf c a.party with
  | some w => if a.party < 8 && w.what == .reply a.id then s2.wake c a.party else s2
  | none => s2

/-- A lasting error met in a clean copy of this core's L1 is corrected from below (R136). -/
def State.cleanL1 (s : State) (c : Nat) (a : Access) : Bool :=
  a.space == .virt && match s.l1Line c (a.pa / 128) with
    | some x => !(a.addrs.any fun b => x.isDirty (b % 128))
    | none => false

/-- MEMORY_READ_RETURN: the value of access id returns to core c, no earlier than the store's latency (R107); ecc is the
error that the read met in the core's own stores (R135, R136). -/
def execMemoryReadReturn (c id ecc : Nat) (s : State) : Out :=
  let k := s.core c
  match k.access id with
  | none => .next s
  | some a =>
    if a.stage != .performed || a.space == .fabric || decide (k.cycle < a.readyAt) then .next s
    else if a.fault ≠ 0 then .next (s.accessFault c a a.fault)
    else if ecc = 0 then .next (s.deliver c a)
    else if ecc < 3 then .next ((s.countError (dieOf c) ecc).deliver c a)
    else if s.cleanL1 c a then
      .next (((s.countError (dieOf c) 1).untrack (s.l1Core c (a.pa / 128)) (a.pa / 128)).modAccess c id fun x => { x with stage := .queued, val := [] })
    else if s.precise c a then .next ((s.countError (dieOf c) 3).accessFault c a 17)
    else .next s

/-! Issuing accesses from the control slice. -/

/-- A new access of task t: its address, its instruction and its count. -/
def State.taskAccess (s : State) (c t : Nat) (a : Access) : State :=
  s.enqueue c { a with party := t, word := (s.task c t).pc.toNat, icount := (s.task c t).icount }

/-- The cells of a store of n bytes at a. -/
def storeCells (a n v : Nat) : List Host.Cell := cellsFrom a (bytesOfNum n v)

end Sys2Proof.Machine
end

