-- ==== Sys2Proof/Machine/Num.lean ====
section
/-! DEFINITION. Number formats and arithmetic (chapter on number formats, R77 to R106; the generator, R442).
A floating-point value is decoded into an exact dyadic number, worked on exactly, and rounded once into its
format. Patterns are numbers: the low bits of a register. -/

namespace Sys2Proof.Machine

/-- The floating-point formats (R77, R83). -/
inductive FFmt where
  | f32 | f16 | bf16 | e4 | e5 | acc
deriving DecidableEq, Repr, Inhabited

/-- The width of a format's exponent (R77, R83). -/
def expBits (f : FFmt) : Nat :=
  match f with
  | .f32 => 8
  | .f16 => 5
  | .bf16 => 8
  | .e4 => 4
  | .e5 => 5
  | .acc => 8

/-- The width of a format's fraction (R77, R83). -/
def fracBits (f : FFmt) : Nat :=
  match f with
  | .f32 => 23
  | .f16 => 10
  | .bf16 => 7
  | .e4 => 3
  | .e5 => 2
  | .acc => 31

/-- The exponent bias (R77). -/
def expBias (f : FFmt) : Nat := 2 ^ (expBits f - 1) - 1

/-- The place of the sign bit (R77). -/
def signPlace (f : FFmt) : Nat := expBits f + fracBits f

/-- The canonical NaN (R85). -/
def canonNaN (f : FFmt) : Nat :=
  match f with
  | .f32 => 0x7FC00000
  | .f16 => 0x7E00
  | .bf16 => 0x7FC0
  | .e4 => 0x7F
  | .e5 => 0x7E
  | .acc => 0x7FC0000000

/-- The formats on which FTZ acts (R93). -/
def flushes (f : FFmt) : Bool :=
  match f with
  | .f32 => true
  | .f16 => true
  | .bf16 => true
  | _ => false

/-- An exact value: a NaN, an infinity, or (-1)^neg * m * 2^e. -/
inductive FVal where
  | nan
  | inf (neg : Bool)
  | fin (neg : Bool) (m : Nat) (e : Int)
deriving DecidableEq, Repr, Inhabited

/-- A result pattern and what NUMCHK counts of it (R106): a canonical NaN produced, an infinity produced by
overflow, an integer saturation. -/
structure NumRes where
  bits : Nat
  nan : Bool := false
  inf : Bool := false
  sat : Bool := false
deriving DecidableEq, Repr, Inhabited

/-- The number of significant bits of n. -/
def bitLen (n : Nat) : Nat := if n = 0 then 0 else n.log2 + 1

/-- The value of a pattern (R77, R83); with ftz a subnormal source is a zero of its sign (R93). -/
def decodeFloat (f : FFmt) (ftz : Bool) (b : Nat) : FVal :=
  let neg := b / 2 ^ signPlace f % 2 == 1
  let e := b / 2 ^ fracBits f % 2 ^ expBits f
  let m := b % 2 ^ fracBits f
  if e == 2 ^ expBits f - 1 && f != .e4 then (if m == 0 then .inf neg else .nan)
  else if f == .e4 && e == 15 && m == 7 then .nan
  else if e == 0 then
    if f == .acc || (ftz && flushes f) then .fin neg 0 0
    else .fin neg m (1 - (expBias f : Int) - fracBits f)
  else .fin neg (2 ^ fracBits f + m) ((e : Int) - expBias f - fracBits f)

/-- m / 2^sh rounded to an integer under a rounding mode (R88); neg is the sign of the value, draw the random
number of mode SR (R90). -/
def roundShift (neg : Bool) (m sh rm draw : Nat) : Nat :=
  let n := m / 2 ^ sh
  let r := m % 2 ^ sh
  if r == 0 then n
  else
    let up :=
      match rm with
      | 0 => decide (2 ^ sh < 2 * r) || (2 * r == 2 ^ sh && n % 2 == 1)
      | 1 => false
      | 2 => neg
      | 3 => !neg
      | 4 => decide (2 ^ sh ≤ 2 * r)
      | _ =>
        if neg then decide ((2 ^ sh - r) * 2 ^ 24 / 2 ^ sh ≤ draw)
        else decide (draw < r * 2 ^ 24 / 2 ^ sh)
    if up then n + 1 else n

/-- The largest significand of a format, at the quantum of its largest binade (R77). -/
def maxSig (f : FFmt) : Nat := if f == .e4 then 14 else 2 ^ (fracBits f + 1) - 1

/-- The exponent of the quantum of a format's largest binade (R77). -/
def maxQuantum (f : FFmt) : Int :=
  (2 ^ expBits f : Int) - (if f == .e4 then 1 else 2) - expBias f - fracBits f

/-- The sign bit in its place. -/
def signBit (f : FFmt) (neg : Bool) : Nat := if neg then 2 ^ signPlace f else 0

/-- The largest finite value of a sign (R77). -/
def largestBits (f : FFmt) (neg : Bool) : Nat :=
  signBit f neg +
    (if f == .e4 then 0x7E else (2 ^ expBits f - 2) * 2 ^ fracBits f + (2 ^ fracBits f - 1))

/-- The infinity of a sign (R77). -/
def infBits (f : FFmt) (neg : Bool) : Nat := signBit f neg + (2 ^ expBits f - 1) * 2 ^ fracBits f

/-- The result of an overflow (R89, R90). -/
def overflowRes (f : FFmt) (rm : Nat) (sat neg : Bool) : NumRes :=
  if sat then ⟨largestBits f neg, false, false, false⟩
  else if f == .e4 then ⟨canonNaN f, true, false, false⟩
  else if rm == 1 || (rm == 2 && !neg) || (rm == 3 && neg) then ⟨largestBits f neg, false, false, false⟩
  else ⟨infBits f neg, false, true, false⟩

/-- A finite value rounded once into a format (R83, R86, R88 to R90, R93). -/
def packFinite (f : FFmt) (rm : Nat) (sat ftz : Bool) (draw : Nat) (neg : Bool) (m : Nat) (e : Int) : NumRes :=
  if m == 0 then ⟨signBit f neg, false, false, false⟩
  else
    let emin : Int := 1 - expBias f
    let top : Int := (bitLen m : Int) - 1 + e
    let q : Int := (if f == .acc then top else max top emin) - fracBits f
    let n := if q ≤ e then m * 2 ^ (e - q).toNat else roundShift neg m (q - e).toNat rm draw
    let carry := n == 2 ^ (fracBits f + 1)
    let n' := if carry then n / 2 else n
    let q' := if carry then q + 1 else q
    if maxQuantum f < q' || (q' == maxQuantum f && decide (maxSig f < n')) then overflowRes f rm sat neg
    else if q' + fracBits f < emin then ⟨signBit f neg, false, false, false⟩
    else if n' < 2 ^ fracBits f then
      (if ftz && flushes f then ⟨signBit f neg, false, false, false⟩
       else ⟨signBit f neg + n', false, false, false⟩)
    else
      ⟨signBit f neg + (q' + fracBits f + expBias f).toNat * 2 ^ fracBits f + (n' - 2 ^ fracBits f), false, false,
        false⟩

/-- Any value rounded once into a format. -/
def packFloat (f : FFmt) (rm : Nat) (sat ftz : Bool) (draw : Nat) (v : FVal) : NumRes :=
  match v with
  | .nan => ⟨canonNaN f, true, false, false⟩
  | .inf neg =>
    if f == .e4 then
      (if sat then ⟨largestBits f neg, false, false, false⟩ else ⟨canonNaN f, true, false, false⟩)
    else ⟨infBits f neg, false, false, false⟩
  | .fin neg m e => packFinite f rm sat ftz draw neg m e

/-- A signed dyadic number as an integer multiple of 2^e0, for e0 not above its exponent. -/
def scaled (neg : Bool) (m : Nat) (e e0 : Int) : Int :=
  if neg then -((m * 2 ^ (e - e0).toNat : Nat) : Int) else ((m * 2 ^ (e - e0).toNat : Nat) : Int)

/-- The exact value of an integer multiple of 2^e; a zero is +0, or -0 where zneg. -/
def ofScaled (zneg : Bool) (x e : Int) : FVal :=
  if x == 0 then .fin zneg 0 0 else .fin (decide (x < 0)) x.natAbs e

/-- The value with its sign turned. -/
def negF (v : FVal) : FVal :=
  match v with
  | .nan => .nan
  | .inf s => .inf (!s)
  | .fin s m e => .fin (!s) m e

/-- The exact sum of two values (R86): a zero sum is +0 but under RDN, and two zeros of one sign keep it. -/
def addF (rm : Nat) (x y : FVal) : FVal :=
  match x, y with
  | .nan, _ => .nan
  | _, .nan => .nan
  | .inf a, .inf b => if a == b then .inf a else .nan
  | .inf a, .fin _ _ _ => .inf a
  | .fin _ _ _, .inf b => .inf b
  | .fin a m e, .fin b n k =>
    if m == 0 && n == 0 then (if a == b then .fin a 0 0 else .fin (rm == 2) 0 0)
    else
      let e0 := min e k
      ofScaled (rm == 2) (scaled a m e e0 + scaled b n k e0) e0

/-- The exact product of two values (R86, R97). -/
def mulF (x y : FVal) : FVal :=
  match x, y with
  | .nan, _ => .nan
  | _, .nan => .nan
  | .inf a, .inf b => .inf (a != b)
  | .inf a, .fin b n _ => if n == 0 then .nan else .inf (a != b)
  | .fin a m _, .inf b => if m == 0 then .nan else .inf (a != b)
  | .fin a m e, .fin b n k => .fin (a != b) (m * n) (e + k)

/-- The quotient, to 100 bits and a sticky bit, which rounds like the exact one (R86). -/
def divF (x y : FVal) : FVal :=
  match x, y with
  | .nan, _ => .nan
  | _, .nan => .nan
  | .inf _, .inf _ => .nan
  | .inf a, .fin b _ _ => .inf (a != b)
  | .fin a _ _, .inf b => .fin (a != b) 0 0
  | .fin a m e, .fin b n k =>
    if n == 0 then (if m == 0 then .nan else .inf (a != b))
    else if m == 0 then .fin (a != b) 0 0
    else
      let sh := 100 + bitLen n
      let q := m * 2 ^ sh / n
      .fin (a != b) (2 * q + bit (m * 2 ^ sh % n != 0)) (e - k - sh - 1)

/-- The integer square root, one bit at a time: the largest r below 2^bits, built on acc, with r * r ≤ n. -/
def sqrtBits : Nat → Nat → Nat → Nat
  | 0, _, acc => acc
  | k + 1, n, acc => sqrtBits k n (if (acc + 2 ^ k) * (acc + 2 ^ k) ≤ n then acc + 2 ^ k else acc)

/-- The integer square root. -/
def isqrt (n : Nat) : Nat := sqrtBits (bitLen n / 2 + 1) n 0

/-- The square root of a positive dyadic number, with a sticky bit. -/
def sqrtPos (m : Nat) (e : Int) : FVal :=
  let m1 := if e % 2 == 0 then m else 2 * m
  let e1 := if e % 2 == 0 then e else e - 1
  let m2 := m1 * 2 ^ 120
  let r := isqrt m2
  .fin false (2 * r + bit (r * r != m2)) ((e1 - 120) / 2 - 1)

/-- The square root (R196): canonical NaN below 0, and -0 for -0. -/
def sqrtF (x : FVal) : FVal :=
  match x with
  | .nan => .nan
  | .inf neg => if neg then .nan else .inf false
  | .fin neg m e => if m == 0 then .fin neg 0 0 else if neg then .nan else sqrtPos m e

/-- -1, 0 or 1 as x is below, equal to or above y; zeros of either sign are equal; NaN is not asked for. -/
def cmpF (x y : FVal) : Int :=
  match x, y with
  | .inf a, .inf b => if a == b then 0 else if a then -1 else 1
  | .inf a, _ => if a then -1 else 1
  | _, .inf b => if b then 1 else -1
  | .fin a m e, .fin b n k =>
    let e0 := min e k
    let d := scaled a m e e0 - scaled b n k e0
    if d == 0 then 0 else if d < 0 then -1 else 1
  | _, _ => 0

/-- Whether a value is a NaN. -/
def isNaNF (x : FVal) : Bool :=
  match x with
  | .nan => true
  | _ => false

/-- The sign of a value. -/
def negSign (x : FVal) : Bool :=
  match x with
  | .nan => false
  | .inf s => s
  | .fin s _ _ => s

/-- Minimum and maximum (R87): the operand that is no NaN, -0 below +0. -/
def minMaxF (mx : Bool) (x y : FVal) : FVal :=
  if isNaNF x then y
  else if isNaNF y then x
  else
    let c := cmpF x y
    let below := decide (c < 0) || (c == 0 && negSign x && !negSign y)
    if below == mx then y else x

/-- A comparison of two values by its code: 0 eq, 1 ne, 2 lt, 3 le, 4 gt, 5 ge (R274). -/
def relF (rel : Nat) (x y : FVal) : Bool :=
  if isNaNF x || isNaNF y then rel == 1
  else
    let c := cmpF x y
    match rel with
    | 0 => c == 0
    | 1 => c != 0
    | 2 => decide (c < 0)
    | 3 => decide (c ≤ 0)
    | 4 => decide (0 < c)
    | _ => decide (0 ≤ c)

/-- The signed value of the low w bits (R79). -/
def signedOf (w n : Nat) : Int :=
  if n % 2 ^ w < 2 ^ (w - 1) then ((n % 2 ^ w : Nat) : Int) else ((n % 2 ^ w : Nat) : Int) - 2 ^ w

/-- The w-bit pattern of an integer. -/
def patternOf (w : Nat) (x : Int) : Nat := (x % 2 ^ w).toNat

/-- The smallest value of an integer format. -/
def intLow (w : Nat) (signed : Bool) : Int := if signed then -(2 ^ (w - 1)) else 0

/-- The largest value of an integer format. -/
def intHigh (w : Nat) (signed : Bool) : Int := if signed then 2 ^ (w - 1) - 1 else 2 ^ w - 1

/-- An exact integer result reduced to its format (R96): modulo 2^w, or clamped with SAT = 1. -/
def reduceInt (w : Nat) (signed sat : Bool) (x : Int) : NumRes :=
  if sat then
    if intHigh w signed < x then ⟨patternOf w (intHigh w signed), false, false, true⟩
    else if x < intLow w signed then ⟨patternOf w (intLow w signed), false, false, true⟩
    else ⟨patternOf w x, false, false, false⟩
  else ⟨patternOf w x, false, false, false⟩

/-- A finite value rounded to an integer (R95). -/
def roundToInt (rm draw : Nat) (neg : Bool) (m : Nat) (e : Int) : Int :=
  let n := if 0 ≤ e then m * 2 ^ e.toNat else roundShift neg m (-e).toNat rm draw
  if neg then -(n : Int) else n

/-- A floating-point value converted to an integer format (R95); a NaN does not count in SATS (assumption 93). -/
def floatToInt (w : Nat) (signed sat : Bool) (rm draw : Nat) (v : FVal) : NumRes :=
  let bottom := patternOf w (intLow w signed)
  match v with
  | .nan => ⟨if sat then 0 else bottom, false, false, false⟩
  | .inf neg =>
    if sat then ⟨patternOf w (if neg then intLow w signed else intHigh w signed), false, false, true⟩
    else ⟨bottom, false, false, false⟩
  | .fin neg m e =>
    let x := roundToInt rm draw neg m e
    if x < intLow w signed || intHigh w signed < x then
      (if sat then reduceInt w signed true x else ⟨bottom, false, false, false⟩)
    else ⟨patternOf w x, false, false, false⟩

/-- The exact value of an integer. -/
def valOfInt (x : Int) : FVal := .fin (decide (x < 0)) x.natAbs 0

/-- An element format of a view: floating point or an integer (R58, R322). -/
inductive Elem where
  | flt (f : FFmt)
  | int (w : Nat) (signed : Bool)
deriving DecidableEq, Repr, Inhabited

/-- The width of an element format. -/
def elemWidth (t : Elem) : Nat :=
  match t with
  | .flt f => signPlace f + 1
  | .int w _ => w

/-- The element format of a view code of R58. -/
def viewElem (v : Nat) : Elem :=
  match v with
  | 0 => .flt .f32
  | 1 => .int 32 true
  | 2 => .flt .bf16
  | 3 => .flt .f16
  | 4 => .int 16 true
  | 5 => .flt .e4
  | 6 => .flt .e5
  | 7 => .int 8 true
  | _ => .int 8 false

/-- The element format of an NMU view (R322). -/
def nmuElem (fmt : Nat) : Elem :=
  match fmt with
  | 0 => .flt .f32
  | 1 => .flt .bf16
  | 2 => .flt .f16
  | _ => .int 32 true

/-- The integer an integer element holds. -/
def intOf (w : Nat) (signed : Bool) (n : Nat) : Int := if signed then signedOf w n else ((n % 2 ^ w : Nat) : Int)

/-- The element-wise arithmetic operations (R271, R324). -/
inductive ArOp where
  | add | sub | mul | fma | min | max
deriving DecidableEq, Repr, Inhabited

/-- How a word rounds: its mode, saturation, flush and the draw of mode SR. -/
structure RndCtl where
  rm : Nat := 0
  sat : Bool := false
  ftz : Bool := false
  draw : Nat := 0
deriving DecidableEq, Repr, Inhabited

/-- One element of an arithmetic word (R86, R87, R89, R96, R271): a op b, with c the addend of a fused
multiply-add. -/
def arithElem (op : ArOp) (t : Elem) (r : RndCtl) (a b c : Nat) : NumRes :=
  match t with
  | .flt f =>
    let x := decodeFloat f r.ftz a
    let y := decodeFloat f r.ftz b
    match op with
    | .add => packFloat f r.rm r.sat r.ftz r.draw (addF r.rm x y)
    | .sub => packFloat f r.rm r.sat r.ftz r.draw (addF r.rm x (negF y))
    | .mul => packFloat f r.rm r.sat r.ftz r.draw (mulF x y)
    | .fma => packFloat f r.rm r.sat r.ftz r.draw (addF r.rm (mulF x y) (decodeFloat f r.ftz c))
    | .min => packFloat f 0 false false 0 (minMaxF false x y)
    | .max => packFloat f 0 false false 0 (minMaxF true x y)
  | .int w s =>
    let x := intOf w s a
    let y := intOf w s b
    match op with
    | .add => reduceInt w s r.sat (x + y)
    | .sub => reduceInt w s r.sat (x - y)
    | .mul => reduceInt w s r.sat (x * y)
    | .fma => reduceInt w s r.sat (x * y + intOf w s c)
    | .min => ⟨patternOf w (if x ≤ y then x else y), false, false, false⟩
    | .max => ⟨patternOf w (if x ≤ y then y else x), false, false, false⟩

/-- Whether a relation holds between two elements (R274). -/
def relElem (rel : Nat) (t : Elem) (ftz : Bool) (a b : Nat) : Bool :=
  match t with
  | .flt f => relF rel (decodeFloat f ftz a) (decodeFloat f ftz b)
  | .int w s => relF rel (valOfInt (intOf w s a)) (valOfInt (intOf w s b))

/-- A conversion between element formats (R94 to R96, R277). -/
def convertElem (src dst : Elem) (r : RndCtl) (a : Nat) : NumRes :=
  match src, dst with
  | .flt f, .flt g => packFloat g r.rm r.sat r.ftz r.draw (decodeFloat f r.ftz a)
  | .flt f, .int w s => floatToInt w s r.sat r.rm r.draw (decodeFloat f r.ftz a)
  | .int w s, .flt g => packFloat g r.rm r.sat r.ftz r.draw (valOfInt (intOf w s a))
  | .int w s, .int w' s' => reduceInt w' s' r.sat (intOf w s a)

/-- The counter-based generator (R442). -/
def generator (key context counter : Nat) : Nat :=
  let x0 := (key % 2 ^ 64) ^^^ (context % 2 ^ 32 * 2 ^ 32 + counter % 2 ^ 32)
  let x1 := (x0 ^^^ (x0 / 2 ^ 31)) * 0xD6E8FEB86659FD93 % 2 ^ 64
  let x2 := (x1 ^^^ (x1 / 2 ^ 29)) * 0x9C5A1E3B47A26D15 % 2 ^ 64
  x2 ^^^ (x2 / 2 ^ 32)

/-- The 24-bit draw of a stochastic rounding (R90): engine 0 control slice, 1 vector, 2 copy. -/
def srDraw (key engine element counter : Nat) : Nat :=
  generator key (2 ^ 30 * engine + element) counter / 2 ^ 40

/-- rne32 as a value: rounded to FP32, nearest even, subnormals kept (R3, R101). -/
def rne32 (v : FVal) : FVal := decodeFloat .f32 false (packFloat .f32 0 false false 0 v).bits

/-- rne40 as a value (R83). -/
def rne40 (v : FVal) : FVal := decodeFloat .acc false (packFloat .acc 0 false false 0 v).bits

/-- The value of an FP32 pattern. -/
def f32v (b : Nat) : FVal := decodeFloat .f32 false b

/-- 1. -/
def oneF : FVal := .fin false 1 0

/-- T[j] of R102: the FP32 value nearest to 2^(j/64). -/
def exp2T : List Nat :=
  [0x3F800000, 0x3F8164D2, 0x3F82CD87, 0x3F843A29, 0x3F85AAC3, 0x3F871F62, 0x3F88980F, 0x3F8A14D5] ++
  [0x3F8B95C2, 0x3F8D1ADF, 0x3F8EA43A, 0x3F9031DC, 0x3F91C3D3, 0x3F935A2B, 0x3F94F4F0, 0x3F96942D] ++
  [0x3F9837F0, 0x3F99E046, 0x3F9B8D3A, 0x3F9D3EDA, 0x3F9EF532, 0x3FA0B051, 0x3FA27043, 0x3FA43516] ++
  [0x3FA5FED7, 0x3FA7CD94, 0x3FA9A15B, 0x3FAB7A3A, 0x3FAD583F, 0x3FAF3B79, 0x3FB123F6, 0x3FB311C4] ++
  [0x3FB504F3, 0x3FB6FD92, 0x3FB8FBAF, 0x3FBAFF5B, 0x3FBD08A4, 0x3FBF179A, 0x3FC12C4D, 0x3FC346CD] ++
  [0x3FC5672A, 0x3FC78D75, 0x3FC9B9BE, 0x3FCBEC15, 0x3FCE248C, 0x3FD06334, 0x3FD2A81E, 0x3FD4F35B] ++
  [0x3FD744FD, 0x3FD99D16, 0x3FDBFBB8, 0x3FDE60F5, 0x3FE0CCDF, 0x3FE33F89, 0x3FE5B907, 0x3FE8396A] ++
  [0x3FEAC0C7, 0x3FED4F30, 0x3FEFE4BA, 0x3FF28177, 0x3FF5257D, 0x3FF7D0DF, 0x3FFA83B3, 0x3FFD3E0C]

/-- A[j] of R104: the FP32 value nearest to log2(1 + j/64). -/
def log2A : List Nat :=
  [0x00000000, 0x3CB73CB4, 0x3D35D69C, 0x3D8759C5, 0x3DB31FB8, 0x3DDE4212, 0x3E0462C4, 0x3E19574F] ++
  [0x3E2E00D2, 0x3E42615F, 0x3E567AF1, 0x3E6A4F72, 0x3E7DE0B6, 0x3E88983F, 0x3E92203D, 0x3E9B8926] ++
  [0x3EA4D3C2, 0x3EAE00D2, 0x3EB7110E, 0x3EC0052B, 0x3EC8DDD4, 0x3ED19BB0, 0x3EDA3F60, 0x3EE2C97D] ++
  [0x3EEB3A9F, 0x3EF39355, 0x3EFBD42B, 0x3F01FED4, 0x3F060828, 0x3F0A0650, 0x3F0DF989, 0x3F11E20F] ++
  [0x3F15C01A, 0x3F1993E3, 0x3F1D5DA0, 0x3F211D84, 0x3F24D3C2, 0x3F28808C, 0x3F2C2411, 0x3F2FBE80] ++
  [0x3F335004, 0x3F36D8CB, 0x3F3A58FF, 0x3F3DD0C8, 0x3F41404F, 0x3F44A7BA, 0x3F480731, 0x3F4B5ED7] ++
  [0x3F4EAED0, 0x3F51F740, 0x3F553848, 0x3F587209, 0x3F5BA4A4, 0x3F5ED039, 0x3F61F4E5, 0x3F6512C7] ++
  [0x3F6829FB, 0x3F6B3A9F, 0x3F6E44CD, 0x3F7148A1, 0x3F744636, 0x3F773DA4, 0x3F7A2F04, 0x3F7D1A71]

/-- B[j] of R104: the FP32 value nearest to 64 / (64 + j). -/
def log2B : List Nat :=
  [0x3F800000, 0x3F7C0FC1, 0x3F783E10, 0x3F74898D, 0x3F70F0F1, 0x3F6D7304, 0x3F6A0EA1, 0x3F66C2B4] ++
  [0x3F638E39, 0x3F607038, 0x3F5D67C9, 0x3F5A740E, 0x3F579436, 0x3F54C77B, 0x3F520D21, 0x3F4F6475] ++
  [0x3F4CCCCD, 0x3F4A4588, 0x3F47CE0C, 0x3F4565C8, 0x3F430C31, 0x3F40C0C1, 0x3F3E82FA, 0x3F3C5264] ++
  [0x3F3A2E8C, 0x3F381703, 0x3F360B61, 0x3F340B41, 0x3F321643, 0x3F302C0B, 0x3F2E4C41, 0x3F2C7692] ++
  [0x3F2AAAAB, 0x3F28E83F, 0x3F272F05, 0x3F257EB5, 0x3F23D70A, 0x3F2237C3, 0x3F20A0A1, 0x3F1F1166] ++
  [0x3F1D89D9, 0x3F1C09C1, 0x3F1A90E8, 0x3F191F1A, 0x3F17B426, 0x3F164FDA, 0x3F14F209, 0x3F139A86] ++
  [0x3F124925, 0x3F10FDBC, 0x3F0FB824, 0x3F0E7835, 0x3F0D3DCB, 0x3F0C08C1, 0x3F0AD8F3, 0x3F09AE41] ++
  [0x3F088889, 0x3F0767AB, 0x3F064B8A, 0x3F053408, 0x3F042108, 0x3F03126F, 0x3F020821, 0x3F010204]

/-- The FP32 value of entry j of a table. -/
def tableVal (t : List Nat) (j : Nat) : FVal := f32v (t.getD j 0)

/-- EXP2 of a finite x in the range of its procedure (R102), before the last rounding. -/
def exp2Proc (neg : Bool) (m : Nat) (e : Int) : FVal :=
  let sh := (-e).toNat
  let x : Int := scaled neg m (if 0 ≤ e then e else 0) 0
  let n := x / 2 ^ sh
  let f := (x - n * 2 ^ sh).toNat
  let j := f * 64 / 2 ^ sh
  let r : FVal := .fin false (f * 64 - j * 2 ^ sh) (-(sh : Int) - 6)
  let p := rne32 (mulF (f32v 0x3E75FDF0) r)
  let q := rne32 (addF 0 (f32v 0x3F317218) p)
  let s := rne32 (mulF r q)
  let w := rne32 (addF 0 oneF s)
  match rne32 (mulF (tableVal exp2T j) w) with
  | .fin a k d => .fin a k (d + n)
  | v => v

/-- EXP2 (R102, R103): the FP32 pattern and what NUMCHK counts. -/
def exp2F (x : FVal) : NumRes :=
  match x with
  | .nan => ⟨canonNaN .f32, true, false, false⟩
  | .inf neg => ⟨if neg then 0 else infBits .f32 false, false, false, false⟩
  | .fin neg m e =>
    if m == 0 || decide ((bitLen m : Int) - 1 + e < -126) then ⟨0x3F800000, false, false, false⟩
    else if !neg && decide (0 ≤ cmpF x (.fin false 128 0)) then ⟨infBits .f32 false, false, true, false⟩
    else if neg && decide (cmpF x (.fin true 160 0) ≤ 0) then ⟨0, false, false, false⟩
    else packFloat .f32 0 false false 0 (exp2Proc neg m e)

/-- LOG2 of a positive finite x (R104), before the last rounding. -/
def log2Proc (m : Nat) (e : Int) : FVal :=
  let n := bitLen m - 1
  let j := m * 64 / 2 ^ n - 64
  let t : FVal := .fin false (m * 64 - (64 + j) * 2 ^ n) (-(n : Int) - 6)
  let z := rne32 (mulF t (tableVal log2B j))
  let h := rne32 (addF 0 (f32v 0x3FB8AA3B) (rne32 (mulF z (f32v 0xBF38AA3B))))
  let y := rne32 (mulF z h)
  addF 0 (valOfInt ((n : Int) + e)) (rne32 (addF 0 (tableVal log2A j) y))

/-- LOG2 (R104). -/
def log2F (x : FVal) : NumRes :=
  match x with
  | .nan => ⟨canonNaN .f32, true, false, false⟩
  | .inf neg => if neg then ⟨canonNaN .f32, true, false, false⟩ else ⟨infBits .f32 false, false, false, false⟩
  | .fin neg m e =>
    if m == 0 then ⟨infBits .f32 true, false, false, false⟩
    else if neg then ⟨canonNaN .f32, true, false, false⟩
    else packFloat .f32 0 false false 0 (log2Proc m e)

/-- RCP (R105). -/
def rcpF (x : FVal) : NumRes := packFloat .f32 0 false false 0 (divF oneF x)

/-- RSQ (R105). -/
def rsqF (x : FVal) : NumRes :=
  match x with
  | .nan => ⟨canonNaN .f32, true, false, false⟩
  | .inf neg => if neg then ⟨canonNaN .f32, true, false, false⟩ else ⟨0, false, false, false⟩
  | .fin neg m e =>
    if m == 0 then ⟨infBits .f32 neg, false, false, false⟩
    else if neg then ⟨canonNaN .f32, true, false, false⟩
    else
      let m1 := if e % 2 == 0 then m else 2 * m
      let e1 := if e % 2 == 0 then e else e - 1
      let k := 80 + bitLen m1
      let y := isqrt (2 ^ (2 * k) / m1)
      packFloat .f32 0 false false 0 (.fin false (2 * y + bit (y * y * m1 != 2 ^ (2 * k))) (-(k : Int) - e1 / 2 - 1))

/-- The four special functions. -/
inductive SpecialFn where
  | exp2 | log2 | rcp | rsq
deriving DecidableEq, Repr, Inhabited

/-- A special function of an FP32 value, as an FP32 result. -/
def specialFp32 (fn : SpecialFn) (x : FVal) : NumRes :=
  match fn with
  | .exp2 => exp2F x
  | .log2 => log2F x
  | .rcp => rcpF x
  | .rsq => rsqF x

/-- One element of a special-function word in FP32, BF16 or FP16 (R101): the steps in their order. -/
def specialElem (fn : SpecialFn) (f : FFmt) (ftz : Bool) (a : Nat) : NumRes :=
  let r := specialFp32 fn (decodeFloat f ftz a)
  let o := packFloat f 0 false ftz 0 (f32v r.bits)
  ⟨o.bits, o.nan, o.inf || r.inf, false⟩

/-- The exact sum of a group of terms (R97). -/
def exactSum (ts : List FVal) : FVal :=
  if ts.any isNaNF then .nan
  else
    let infs := ts.filterMap (fun t => match t with | .inf s => some s | _ => none)
    match infs with
    | s :: rest => if rest.all (fun x => x == s) then .inf s else .nan
    | [] =>
      let e0 : Int := ts.foldl (fun (k : Int) t => match t with | .fin _ m e => if m == 0 then k else min k e | _ => k) 0
      let tot : Int := ts.foldl (fun (k : Int) t => match t with | .fin s m e => if m == 0 then k else k + scaled s m e e0 | _ => k) 0
      ofScaled (!ts.isEmpty && ts.all negSign && ts.all (fun t => match t with | .fin _ m _ => m == 0 | _ => false)) tot e0

/-- The magnitude table of Q4N as FP32 patterns (R80): the BF16 patterns shifted up. -/
def q4nTable : List Nat := [0x3D2C, 0x3E02, 0x3E5D, 0x3E9F, 0x3ED5, 0x3F0B, 0x3F35, 0x3F80]

/-- The signed magnitude a Q4N code stands for (R80, R99). -/
def q4nVal (code : Nat) : FVal :=
  match decodeFloat .bf16 false (q4nTable.getD (code % 8) 0) with
  | .fin _ m e => .fin (code / 8 % 2 == 1) m e
  | v => v

/-- The scale of a Q4N block (R82): rne32(s8 * G * 2^-8). -/
def q4nScale (s8 g : Nat) : NumRes := packFloat .f32 0 false false 0 (mulF (.fin false (s8 % 256) (-8)) (f32v g))

/-- A result of format f computed from earlier ones: it is an infinity produced by overflow where one of them, or its own last step, was
(R106). -/
def NumRes.from (r : NumRes) (f : FFmt) (earlier : Bool) : NumRes :=
  let isInf := match decodeFloat f false r.bits with
    | .inf _ => true
    | _ => false
  { r with inf := (earlier || r.inf) && isInf }

/-- One float group added into an accumulator element (R97): c is the element's pattern. -/
def accAdd (c : Nat) (g : FVal) : NumRes :=
  let x := packFloat .acc 0 false false 0 g
  (packFloat .acc 0 false false 0 (addF 0 (decodeFloat .acc false c) (decodeFloat .acc false x.bits))).from .acc x.inf

/-- One integer group added into an accumulator element (R84, R98). -/
def accAddInt (c : Nat) (g : Int) : NumRes := reduceInt 40 true true (signedOf 40 c + g)

/-- The three BF16 parts of an FP32 operand (R100), high, middle, low, as patterns. -/
def splitFp32 (b : Nat) : Nat × Nat × Nat :=
  let bf := fun (v : FVal) => (packFloat .bf16 0 false false 0 v).bits
  let bv := fun (n : Nat) => decodeFloat .bf16 false n
  let x := f32v b
  match x with
  | .fin neg _ _ =>
    let h0 := bf x
    let h := if h0 % 2 ^ 15 == 0x7F80 then largestBits .bf16 neg else h0
    let d := addF 0 x (negF (bv h))
    let m := bf d
    let l := bf (addF 0 d (negF (bv m)))
    (h, m, l)
  | _ => (bf x, 0, 0)

end Sys2Proof.Machine
end

