-- ==== Sys2Proof/Machine/Flags.lean ====
section
/-! DEFINITION. The modes an instruction runs under, from its prefix and FPM (R50 to R52, R91, R92), the counter of
stochastic rounding (R90), and the counts of NUMCHK (R106) and ISTAT (R229). -/

namespace Sys2Proof.Machine

/-- The rounding mode: the prefix's where it sets one other than 6, else FPM's (R52). -/
def rmOf (h : CHdr) (fpm : Word) : Nat :=
  match h.pfx with
  | some p => if p.rmv && p.rm != 6 then p.rm else bits fpm 0 3
  | none => bits fpm 0 3

/-- Flush to zero: the prefix's where it sets it, else FPM's (R52). -/
def ftzOf (h : CHdr) (fpm : Word) : Bool :=
  match h.pfx with
  | some p => if p.ftzv then p.ftz else bits fpm 3 1 == 1
  | none => bits fpm 3 1 == 1

/-- Saturation: off unless the prefix sets it (R52). -/
def satOf (h : CHdr) : Bool :=
  match h.pfx with
  | some p => p.satv && p.sat
  | none => false

/-- The scope: the prefix's, else the default of the instruction (R52). -/
def scopeOf (h : CHdr) (dflt : Nat) : Nat :=
  match h.pfx with
  | some p => if p.scv then p.scope else dflt
  | none => dflt

/-- ORD acquire or acquire-release (R50). -/
def acqOf (h : CHdr) : Bool :=
  match h.pfx with
  | some p => p.ord % 2 == 1
  | none => false

/-- ORD release or acquire-release (R50). -/
def relOf (h : CHdr) : Bool :=
  match h.pfx with
  | some p => p.ord / 2 == 1
  | none => false

/-- The address of an instruction's own word: behind its prefix, if it has one (R48). -/
def wordAt (h : CHdr) (pc : Word) : Word := if h.pfx.isSome then pc + 4#64 else pc

/-- NUMCHK with one element's result counted (R106). -/
def noteRes (w : Word) (r : NumRes) : Word :=
  let w1 := if r.nan then countUp w 32 16 1 else w
  let w2 := if r.inf then countUp w1 16 16 1 else w1
  if r.sat then countUp w2 0 16 1 else w2

/-- NUMCHK with the results of an instruction's active elements counted (R106). -/
def noteAll (w : Word) (rs : List NumRes) : Word := rs.foldl noteRes w

/-- The core's NUMCHK counts one result. -/
def State.note (s : State) (c : Nat) (r : NumRes) : State := s.modCore c fun k => { k with numchk := noteRes k.numchk r }

/-- The draw of a scalar instruction of task t (R90): engine 0, the element is the task number. -/
def scalarDraw (srkey : Word) (t src : Nat) : Nat := srDraw srkey.toNat 0 t src

/-- The counter after an instruction that rounded in a mode: mode 5 is SR, and the count wraps at 2^32 (R90). -/
def nextDraw (rm src : Nat) : Nat := if rm = 5 then (src + 1) % 2 ^ 32 else src

/-- ISTAT after the issue of an instruction with its prefix (R229). -/
def issuedStat (w : Word) (h : Nat) : Word := wrapUp w 32 32 h

end Sys2Proof.Machine
end

