-- ==== Sys2Proof/Machine/Integer.lean ====
section
/-! DEFINITION. The integer instructions of the control slice (R191 to R194). -/

namespace Sys2Proof.Machine

/-- An instruction of a task: f gives the next state for the core and the task that issue. Nobody else runs it. -/
def asTask (s : State) (f : Nat → Nat → State) : Out :=
  match s.cur with
  | .task c t => .next (f c t)
  | _ => .next s

/-- A two-operand integer operation: register d gets f of registers a and b, usable after lat cycles (R189, R191). -/
def alu (h : CHdr) (d a b lat : Nat) (f : Word → Word → Word) (s : State) : Out :=
  asTask s fun c t => s.result c t d (f (s.reg c t a) (s.reg c t b)) lat (ctlLen h 1)

/-- An integer operation with an immediate (R192). -/
def aluI (h : CHdr) (d a : Nat) (imm : Word) (f : Word → Word → Word) (s : State) : Out :=
  asTask s fun c t => s.result c t d (f (s.reg c t a) imm) 1 (ctlLen h 1)

/-- The exact signed result x, modulo 2^64 or, with SAT, clamped; a clamp is counted in NUMCHK (R96, R106, R191). -/
def exactOp (h : CHdr) (d lat : Nat) (s : State) (x : Nat → Nat → Int) : Out :=
  asTask s fun c t =>
    let r := reduceInt 64 true (satOf h) (x c t)
    (s.note c r).result c t d (word r.bits) lat (ctlLen h 1)

/-- The signed 10-bit immediate (R192). -/
def imm10 (imm : Nat) : Word := sext64 10 imm

def execAdd (h : CHdr) (d a b : Nat) (s : State) : Out :=
  exactOp h d 1 s fun c t => (s.reg c t a).toInt + (s.reg c t b).toInt

def execSub (h : CHdr) (d a b : Nat) (s : State) : Out :=
  exactOp h d 1 s fun c t => (s.reg c t a).toInt - (s.reg c t b).toInt

def execAnd (h : CHdr) (d a b : Nat) (s : State) : Out := alu h d a b 1 (fun x y => x &&& y) s

def execOr (h : CHdr) (d a b : Nat) (s : State) : Out := alu h d a b 1 (fun x y => x ||| y) s

def execXor (h : CHdr) (d a b : Nat) (s : State) : Out := alu h d a b 1 (fun x y => x ^^^ y) s

/-- The shift amount is bits [5:0] of the second operand (R191). -/
def execShl (h : CHdr) (d a b : Nat) (s : State) : Out := alu h d a b 1 (fun x y => x <<< (y.toNat % 64)) s

def execShr (h : CHdr) (d a b : Nat) (s : State) : Out := alu h d a b 1 (fun x y => x >>> (y.toNat % 64)) s

def execSra (h : CHdr) (d a b : Nat) (s : State) : Out := alu h d a b 1 (fun x y => x.sshiftRight (y.toNat % 64)) s

/-- 1 or 0 for a relation. -/
def truth (p : Bool) : Word := if p then 1#64 else 0#64

def execSlt (h : CHdr) (d a b : Nat) (s : State) : Out := alu h d a b 1 (fun x y => truth (x.slt y)) s

def execSltu (h : CHdr) (d a b : Nat) (s : State) : Out := alu h d a b 1 (fun x y => truth (x.ult y)) s

def execMin (h : CHdr) (d a b : Nat) (s : State) : Out := alu h d a b 1 (fun x y => if x.slt y then x else y) s

def execMax (h : CHdr) (d a b : Nat) (s : State) : Out := alu h d a b 1 (fun x y => if x.slt y then y else x) s

def execMinu (h : CHdr) (d a b : Nat) (s : State) : Out := alu h d a b 1 (fun x y => if x.ult y then x else y) s

def execMaxu (h : CHdr) (d a b : Nat) (s : State) : Out := alu h d a b 1 (fun x y => if x.ult y then y else x) s

def execAddi (h : CHdr) (d a imm : Nat) (s : State) : Out :=
  exactOp h d 1 s fun c t => (s.reg c t a).toInt + (imm10 imm).toInt

def execAndi (h : CHdr) (d a imm : Nat) (s : State) : Out := aluI h d a (imm10 imm) (fun x y => x &&& y) s

def execOri (h : CHdr) (d a imm : Nat) (s : State) : Out := aluI h d a (imm10 imm) (fun x y => x ||| y) s

def execXori (h : CHdr) (d a imm : Nat) (s : State) : Out := aluI h d a (imm10 imm) (fun x y => x ^^^ y) s

def execShli (h : CHdr) (d a sh : Nat) (s : State) : Out := aluI h d a (word sh) (fun x y => x <<< y.toNat) s

def execShri (h : CHdr) (d a sh : Nat) (s : State) : Out := aluI h d a (word sh) (fun x y => x >>> y.toNat) s

def execSrai (h : CHdr) (d a sh : Nat) (s : State) : Out := aluI h d a (word sh) (fun x y => x.sshiftRight y.toNat) s

def execSlti (h : CHdr) (d a imm : Nat) (s : State) : Out := aluI h d a (imm10 imm) (fun x y => truth (x.slt y)) s

def execMul (h : CHdr) (d a b : Nat) (s : State) : Out :=
  exactOp h d 4 s fun c t => (s.reg c t a).toInt * (s.reg c t b).toInt

def execMulh (h : CHdr) (d a b : Nat) (s : State) : Out :=
  alu h d a b 4 (fun x y => BitVec.ofInt 64 (x.toInt * y.toInt / 2 ^ 64)) s

def execMulhu (h : CHdr) (d a b : Nat) (s : State) : Out :=
  alu h d a b 4 (fun x y => BitVec.ofNat 64 (x.toNat * y.toNat / 2 ^ 64)) s

/-- The latency of a division: 6 + max(0, b − 2), b the significant bits of the magnitude of the exact quotient; 6 for
a divisor of 0 and for −2^63 by −1 (R189). -/
def divLat (short : Bool) (q : Nat) : Nat := if short then 6 else 6 + (bitLen q - 2)

/-- The quotient's magnitude, signed. -/
def quoSigned (x y : Word) : Int := x.toInt.tdiv y.toInt

/-- A division (R193): f gives the result where the divisor is not 0, zero the result where it is. -/
def divide (h : CHdr) (d a b : Nat) (sg : Bool) (f zero : Word → Word → Word) (s : State) : Out :=
  asTask s fun c t =>
    let x := s.reg c t a
    let y := s.reg c t b
    let q := if sg then (quoSigned x y).natAbs else x.toNat / y.toNat
    let lat := divLat (y == 0#64 || (sg && y == BitVec.allOnes 64 && x.toNat == 2 ^ 63)) q
    s.result c t d (if y = 0#64 then zero x y else f x y) lat (ctlLen h 1)

def execDiv (h : CHdr) (d a b : Nat) (s : State) : Out :=
  divide h d a b true (fun x y => BitVec.ofInt 64 (quoSigned x y)) (fun _ _ => BitVec.allOnes 64) s

def execDivu (h : CHdr) (d a b : Nat) (s : State) : Out :=
  divide h d a b false (fun x y => BitVec.ofNat 64 (x.toNat / y.toNat)) (fun _ _ => BitVec.allOnes 64) s

def execRem (h : CHdr) (d a b : Nat) (s : State) : Out :=
  divide h d a b true (fun x y => BitVec.ofInt 64 (x.toInt.tmod y.toInt)) (fun x _ => x) s

def execRemu (h : CHdr) (d a b : Nat) (s : State) : Out :=
  divide h d a b false (fun x y => BitVec.ofNat 64 (x.toNat % y.toNat)) (fun x _ => x) s

/-- `li`: the sign-extended 32-bit immediate (R194). -/
def execLi (h : CHdr) (d imm : Nat) (s : State) : Out :=
  asTask s fun c t => s.result c t d (sext64 32 imm) 1 (ctlLen h 2)

/-- `lih`: the high half; the low half stays (R194). -/
def execLih (h : CHdr) (d imm : Nat) (s : State) : Out :=
  asTask s fun c t =>
    s.result c t d (BitVec.ofNat 64 ((s.reg c t d).toNat % 2 ^ 32 + imm % 2 ^ 32 * 2 ^ 32)) 1 (ctlLen h 2)

/-- `nop` (R55). -/
def execCtlNop (h : CHdr) (s : State) : Out := asTask s fun c t => s.goOn c t (ctlLen h 1)

end Sys2Proof.Machine
end

