-- ==== Sys2Proof/Machine/Scalar.lean ====
section
/-! DEFINITION. The scalar floating-point instructions (R195 to R198). -/

namespace Sys2Proof.Machine

/-- The scalar format codes (R196). -/
def scalarFmt (fmt : Nat) : FFmt :=
  match fmt with
  | 0 => .f32
  | 1 => .bf16
  | _ => .f16

/-- How a scalar instruction rounds: its mode, flush, saturation and draw (R52, R90, R92). -/
def scalarCtl (h : CHdr) (s : State) (c t : Nat) : RndCtl :=
  let x := s.task c t
  { rm := rmOf h x.fpm, sat := satOf h, ftz := ftzOf h x.fpm, draw := scalarDraw (s.core c).srkey t x.src }

/-- The result of a scalar instruction: zero-extended into register d, counted in NUMCHK; an instruction that rounds in
mode SR takes its draw (R90, R106, R195). -/
def scalarResult (h : CHdr) (s : State) (c t d : Nat) (r : NumRes) (rounds : Bool) (lat words : Nat) : State :=
  let rm := rmOf h (s.task c t).fpm
  let s1 := (s.note c r).modTask c t fun x => { x with src := if rounds then nextDraw rm x.src else x.src }
  s1.result c t d (word r.bits) lat (ctlLen h words)

/-- A scalar arithmetic instruction of major 0x0C (R196). -/
def scalarOp (op : ArOp) (rounds : Bool) (h : CHdr) (fmt d a b : Nat) (s : State) : Out :=
  asTask s fun c t =>
    let r := arithElem op (.flt (scalarFmt fmt)) (scalarCtl h s c t) (s.reg c t a).toNat (s.reg c t b).toNat 0
    scalarResult h s c t d r rounds 4 1

def execFadd (h : CHdr) (fmt d a b : Nat) (s : State) : Out := scalarOp .add true h fmt d a b s

def execFsub (h : CHdr) (fmt d a b : Nat) (s : State) : Out := scalarOp .sub true h fmt d a b s

def execFmul (h : CHdr) (fmt d a b : Nat) (s : State) : Out := scalarOp .mul true h fmt d a b s

def execFmin (h : CHdr) (fmt d a b : Nat) (s : State) : Out := scalarOp .min false h fmt d a b s

def execFmax (h : CHdr) (fmt d a b : Nat) (s : State) : Out := scalarOp .max false h fmt d a b s

/-- `ffma`: one rounding of g[RA] × g[RB] + g[RC] (R197). -/
def execFfma (h : CHdr) (fmt d a b cc : Nat) (s : State) : Out :=
  asTask s fun c t =>
    let r := arithElem .fma (.flt (scalarFmt fmt)) (scalarCtl h s c t) (s.reg c t a).toNat (s.reg c t b).toNat
      (s.reg c t cc).toNat
    scalarResult h s c t d r true 5 2

/-- `fdiv` (R196). -/
def execFdiv (h : CHdr) (fmt d a b : Nat) (s : State) : Out :=
  asTask s fun c t =>
    let f := scalarFmt fmt
    let r := scalarCtl h s c t
    scalarResult h s c t d
      (packFloat f r.rm false r.ftz r.draw (divF (decodeFloat f r.ftz (s.reg c t a).toNat) (decodeFloat f r.ftz (s.reg c t b).toNat)))
      true 20 1

/-- `fsqrt` (R196). -/
def execFsqrt (h : CHdr) (fmt d a : Nat) (s : State) : Out :=
  asTask s fun c t =>
    let f := scalarFmt fmt
    let r := scalarCtl h s c t
    scalarResult h s c t d (packFloat f r.rm false r.ftz r.draw (sqrtF (decodeFloat f r.ftz (s.reg c t a).toNat))) true 20 1

/-- A scalar comparison: 0 equal, 2 less, 3 less or equal, by the relation codes of R274 (R196). -/
def scalarCmp (rel : Nat) (h : CHdr) (fmt d a b : Nat) (s : State) : Out :=
  asTask s fun c t =>
    s.result c t d
      (truth (relElem rel (.flt (scalarFmt fmt)) (ftzOf h (s.task c t).fpm) (s.reg c t a).toNat (s.reg c t b).toNat)) 4 (ctlLen h 1)

def execFeq (h : CHdr) (fmt d a b : Nat) (s : State) : Out := scalarCmp 0 h fmt d a b s

def execFlt (h : CHdr) (fmt d a b : Nat) (s : State) : Out := scalarCmp 2 h fmt d a b s

def execFle (h : CHdr) (fmt d a b : Nat) (s : State) : Out := scalarCmp 3 h fmt d a b s

/-- The formats of a conversion by FN: from, to (R198). -/
def fcvtFormats (fn : Nat) : Elem × Elem :=
  match fn with
  | 0 => (.flt .bf16, .flt .f32)
  | 1 => (.flt .f16, .flt .f32)
  | 2 => (.flt .f32, .flt .bf16)
  | 3 => (.flt .f32, .flt .f16)
  | 4 => (.flt .f16, .flt .bf16)
  | 5 => (.flt .bf16, .flt .f16)
  | 6 => (.flt .f32, .int 64 true)
  | 7 => (.flt .bf16, .int 64 true)
  | 8 => (.flt .f16, .int 64 true)
  | 9 => (.int 64 true, .flt .f32)
  | 10 => (.int 64 true, .flt .bf16)
  | _ => (.int 64 true, .flt .f16)

/-- `fcvt` (R198). A widening conversion in mode SR, which R94 calls exact, raises the draw count as the others do (DESIGN CHOICE, assumption
124). -/
def execFcvt (h : CHdr) (fn d a : Nat) (s : State) : Out :=
  asTask s fun c t =>
    let p := fcvtFormats fn
    scalarResult h s c t d (convertElem p.1 p.2 (scalarCtl h s c t) (s.reg c t a).toNat) true 4 1

end Sys2Proof.Machine
end

