-- ==== Sys2Proof/Machine/Branch.lean ====
section
/-! DEFINITION. Fetch from the instruction buffer (R190), the tests of a transfer (R45, R49), branches, calls and
returns (R199, R200), and the words that are no instruction (R68). -/

namespace Sys2Proof.Machine

/-- The 32-bit word at a physical address as core c fetches it: from its instruction buffer, which is filled from the
homes (R190). -/
def State.fetchedWord (s : State) (c pa : Nat) : Nat :=
  match tfind (s.core c).ibuf (pa / 4) with
  | some w => w
  | none => s.homeNum (pa / 4 * 4) 4

/-- A transfer of task t to a target: the alignment test, the translation of the fetch, the landing test (R45, R49,
R117); ok is the state after a transfer that happens. -/
def transfer (s : State) (c t : Nat) (target : Word) (ok : State) : State :=
  if target.toNat % 4 ≠ 0 then s.trap c t 5 target
  else
    match translate (s.core c).seg .x target.toNat with
    | .bad st => s.fatal c t 0 st (s.task c t).pc target
    | .ok pa _ => if fld (s.fetchedWord c pa) 2 1 = 1 then ok else s.trap c t 4 target

/-- A conditional branch (R48, R199). -/
def branch (rel : Word → Word → Bool) (h : CHdr) (a b off : Nat) (s : State) : Out :=
  asTask s fun c t =>
    if rel (s.reg c t a) (s.reg c t b) then
      let target := wordAt h (s.task c t).pc + 4#64 * sext64 10 off
      transfer s c t target (s.jumpTo c t target)
    else s.goOn c t (ctlLen h 1)

def execBeq (h : CHdr) (a b off : Nat) (s : State) : Out := branch (fun x y => x == y) h a b off s

def execBne (h : CHdr) (a b off : Nat) (s : State) : Out := branch (fun x y => x != y) h a b off s

def execBlt (h : CHdr) (a b off : Nat) (s : State) : Out := branch (fun x y => x.slt y) h a b off s

def execBge (h : CHdr) (a b off : Nat) (s : State) : Out := branch (fun x y => !x.slt y) h a b off s

def execBltu (h : CHdr) (a b off : Nat) (s : State) : Out := branch (fun x y => x.ult y) h a b off s

def execBgeu (h : CHdr) (a b off : Nat) (s : State) : Out := branch (fun x y => !x.ult y) h a b off s

/-- A transfer to a target, with the link in g63 for a call; a trapping transfer writes no link (R200). -/
def goTo (h : CHdr) (link : Bool) (target : Nat → Nat → Word) (s : State) : Out :=
  asTask s fun c t =>
    let dst := target c t
    let back := wordAt h (s.task c t).pc + 4#64
    let s1 := if link then s.setReg c t 63 back else s
    transfer s c t dst (s1.jumpTo c t dst)

/-- The target of a C-J word (R48). -/
def jumpTarget (h : CHdr) (s : State) (off c t : Nat) : Word := wordAt h (s.task c t).pc + 4#64 * sext64 22 off

def execJ (h : CHdr) (off : Nat) (s : State) : Out := goTo h false (fun c t => jumpTarget h s off c t) s

def execCall (h : CHdr) (off : Nat) (s : State) : Out := goTo h true (fun c t => jumpTarget h s off c t) s

def execJr (h : CHdr) (a : Nat) (s : State) : Out := goTo h false (fun c t => s.reg c t a) s

def execCallr (h : CHdr) (a : Nat) (s : State) : Out := goTo h true (fun c t => s.reg c t a) s

def execRet (h : CHdr) (s : State) : Out := goTo h false (fun c t => s.reg c t 63) s

end Sys2Proof.Machine
end

