-- ==== Sys2Proof/Machine/DevMap.lean ====
section
/-! DEFINITION. The device register space (R111, R112): which register stands at a panel-physical address, and
whether it can be read and written. -/

namespace Sys2Proof.Machine

/-- The registers of the device register space. -/
inductive Dev where
  /-- a barrier's configuration (0) or status (1) word (R39) -/
  | barrier (b : BarId) (w : Nat)
  /-- an event slot of a core (R42) -/
  | event (c slot : Nat)
  /-- a window-table entry of a die (R122) -/
  | window (d i : Nat)
  /-- a word of a package's remote-store log control (R125) -/
  | log (p w : Nat)
  /-- the memory-error counters of a die, and an entry's address and valid word (R151) -/
  | errCount (d : Nat)
  | errAddr (d n : Nat)
  | errValid (d n : Nat)
  /-- the dispatcher's block (R154, R184 to R186) -/
  | notify (d slot : Nat)
  | slotStat (d slot : Nat)
  | savePool (d : Nat)
  | saveCnt (d : Nat)
  | dstat (d : Nat)
  /-- a tracker's two words, and TRKSTAT (R262, R263) -/
  | tracker (d n w : Nat)
  | trkStat (d : Nat)
  /-- VSTAT and MSTAT of a core (R293, R318) -/
  | vstat (c : Nat)
  | mstat (c : Nat)
  /-- a ring descriptor and a claim record of a core (R295) -/
  | rdesc (c n : Nat)
  | claim (c n : Nat)
  /-- NMUSTAT of an NMU, TWSTAT of a stack, NESTAT of a die (R351, R373, R438) -/
  | nmuStat (n : Nat)
  | twStat (stack : Nat)
  | neStat (d : Nat)
  /-- the sampler's block (R465, R473) -/
  | smCancel (d : Nat)
  | smStat (d : Nat)
  /-- word w of a die's halt block: 0 HTGT, 1 HARG, 2 HCMD, 3 HRES, 4 HRES2, 5 HLSTAT (R498, R499) -/
  | halt (d w : Nat)
deriving DecidableEq, Repr, Inhabited

/-- The register at an offset of the engine register blocks of die d, o counted from 0x0041_0000_0000. -/
def engineReg (d o : Nat) : Option Dev :=
  if o < 0x200 then some (.notify d (o / 8))
  else if o < 0x400 then some (.slotStat d ((o - 0x200) / 8))
  else if o = 0x400 then some (.savePool d)
  else if o = 0x408 then some (.saveCnt d)
  else if o = 0x410 then some (.dstat d)
  else if o < 0x10000 then none
  else if o < 0x18000 then some (.tracker d ((o - 0x10000) / 16) (o / 8 % 2))
  else if o = 0x18000 then some (.trkStat d)
  else if o < 0x20000 then none
  else if o < 0x20000 + 8 * 64 then some (.vstat (64 * d + (o - 0x20000) / 8))
  else if o < 0x30000 then none
  else if o < 0x38000 then
    let c := 64 * d + (o - 0x30000) / 0x200
    let w := o % 0x200 / 8
    if w < 32 then some (.rdesc c w) else if w < 48 then (if w - 32 < 16 then some (.claim c (w - 32)) else none) else none
  else if o < 0x38000 + 8 * 64 then some (.mstat (64 * d + (o - 0x38000) / 8))
  else if o < 0x40000 then none
  else if o < 0x40800 then some (.nmuStat (256 * d + (o - 0x40000) / 8))
  else if o < 0x50000 then none
  else if o < 0x50020 then some (.twStat (4 * d + (o - 0x50000) / 8))
  else if o = 0x60000 then some (.neStat d)
  else if o = 0x70000 then some (.smCancel d)
  else if o = 0x70008 then some (.smStat d)
  else if o < 0x80000 then none
  else if o < 0x80030 then some (.halt d ((o - 0x80000) / 8))
  else none

/-- The register at an aligned panel-physical address; none for a reserved offset (R111), as the log-control words +0x30 and +0x38 are
(assumption 94). -/
def devAt (pa : Nat) : Option Dev :=
  let d := paDie pa
  let o := paOff pa
  if o % 8 ≠ 0 ∨ 2 ^ 48 ≤ pa then none
  else match barAt pa with
    | some (b, w) => some (.barrier b w)
    | none =>
      if o < 0x4000100000 then none
      else if o < 0x4000100000 + 0x100 * 64 then some (.event (64 * d + fld o 8 6) (fld o 3 5))
      else if o < 0x4001000000 then none
      else if o < 0x4001000000 + 8 * 4096 then some (.window d ((o - 0x4001000000) / 8))
      else if o < 0x4002000000 then none
      else if o < 0x4002000030 then (if d % 2 = 0 then some (.log (d / 2) ((o - 0x4002000000) / 8)) else none)
      else if o = 0x4003000000 then some (.errCount d)
      else if o < 0x4003000100 then none
      else if o < 0x4003000200 then
        (if o / 8 % 2 = 0 then some (.errAddr d ((o - 0x4003000100) / 16)) else some (.errValid d ((o - 0x4003000100) / 16)))
      else if o < 0x4100000000 then none
      else engineReg d (o - 0x4100000000)

/-- A load can read the register; one of a write-only word is DEVICE_REG (assumption 95). -/
def Dev.readable : Dev → Bool
  | .notify _ _ => false
  | .log _ w => w != 3 && w != 4
  | .smCancel _ => false
  | .halt _ w => w != 2
  | _ => true

/-- A store can write the register (R112); none the address word of an entry of the error-address table, of which R151 names no write (DESIGN
CHOICE, assumption 121). -/
def Dev.writable : Dev → Bool
  | .barrier _ w => w == 0
  | .event _ _ => false
  | .log _ w => w != 1
  | .errAddr _ _ => false
  | .slotStat _ _ => false
  | .tracker _ _ _ => false
  | .claim _ _ => false
  | .halt _ w => w != 3 && w != 4
  | _ => true

/-- Every named data strand of a job is held (R13); one that a fault has stopped is not (R188). -/
def DataSide.allHeld (d : DataSide) : Bool :=
  let ok (x : Strand) : Bool := !x.named || (x.held && !x.stopped)
  ok d.vec && ok d.mat && ok d.cpy

/-- An access of n bytes by task t of core c to a device register is accepted (R112, R295). -/
def State.devAccepts (s : State) (c t pa n : Nat) (write : Bool) : Bool :=
  n == 8 && match devAt pa with
    | none => false
    | some (.rdesc c' _) => c' == c && (!write || (t == 0 && (s.core c).data.allHeld))
    | some (.claim c' _) => c' == c && !write
    | some r => if write then r.writable else r.readable

end Sys2Proof.Machine
end

