-- ==== Sys2Proof/Machine/LoadStore.lean ====
section
/-! DEFINITION. Loads, stores, atomics, fences, `qmark` and range maintenance of the control slice (R202 to R207). -/

namespace Sys2Proof.Machine

/-- The address of a load or store (R203). -/
def lsAddr (s : State) (c t a off : Nat) : Word := s.reg c t a + sext64 28 off

/-- A task's access to memory issues: a fault that its home gives is met now, and a strong access leaves its size there (R136, R145, R222). -/
def State.memoryAccess (s : State) (c t len : Nat) (a : Access) : State :=
  match s.homeFault c a with
  | some code => s.trap c t code (word a.va)
  | none => ((s.markStrong c a).taskAccess c t a).goOn c t len

/-- A barrier word of a device access is one of the weave's own (R39). -/
def State.barrierOk (s : State) (c pa : Nat) : Bool :=
  match barAt pa with
  | some (b, _) => s.barAllocated c b
  | none => true

/-- A load or store of n bytes at ea (R203): the alignment, then the core store's bound or the translation, then the
device registers, at panel scope (R112); x is the access without its place. -/
def lsAccess (h : CHdr) (cs : Bool) (swz n : Nat) (p : Perm) (ea : Word) (x : Nat → Access) (s : State) (c t : Nat) : State :=
  let k := s.core c
  if ea.toNat % n ≠ 0 then s.trap c t 6 ea
  else if cs then
    if k.scratchTop ≤ ea.toNat then s.trap c t 7 ea
    else
      let a := swizzle swz (ea.toNat % 2 ^ 22)
      (s.taskAccess c t { x a with space := .core, va := ea.toNat, pa := a, readyAt := k.cycle + 12 }).goOn c t (ctlLen h 2)
  else
    match translateLocal k c p ea.toNat with
    | .bad st => s.fatal c t 0 st (s.task c t).pc ea
    | .ok pa nc =>
      if inDev pa then
        if !s.devAccepts c t pa n (p == .wr) then s.trap c t 8 ea
        else if !s.barrierOk c pa then s.trap c t 13 ea
        else (s.taskAccess c t { x pa with space := .device, scope := 5, va := ea.toNat, pa }).goOn c t (ctlLen h 2)
      else s.memoryAccess c t (ctlLen h 2) { x pa with va := ea.toNat, pa, nc, readyAt := k.cycle + 24 }

/-- An access of n bytes with the scope and order of its prefix, before its place is known. -/
def plainAccess (kind : AKind) (h : CHdr) (n : Nat) (dest : Dest) (data : List Host.Cell) : Access :=
  { id := 0, party := 0, kind, space := .virt, va := 0, pa := 0, n, data, scope := scopeOf h 1, acq := acqOf h, rel := relOf h, dest }

/-- `ld` (R203). -/
def execLd (h : CHdr) (sx : Bool) (size d a : Nat) (cs : Bool) (swz off : Nat) (s : State) : Out :=
  asTask s fun c t =>
    lsAccess h cs swz (2 ^ size) .rd (lsAddr s c t a off) (fun _ => plainAccess .load h (2 ^ size) (.reg d sx) []) s c t

/-- The bytes a store writes: its register, or for 16 bytes a pair (R203). -/
def storeValue (s : State) (c t size b : Nat) : Nat :=
  if size = 4 then (s.reg c t b).toNat + 2 ^ 64 * (s.reg c t (b + 1)).toNat else (s.reg c t b).toNat

/-- `st` (R203). -/
def execSt (h : CHdr) (size a b : Nat) (cs : Bool) (swz off : Nat) (s : State) : Out :=
  asTask s fun c t =>
    lsAccess h cs swz (2 ^ size) .wr (lsAddr s c t a off)
      (fun pa => plainAccess .store h (2 ^ size) .none (storeCells pa (2 ^ size) (storeValue s c t size b))) s c t

/-- An atomic of n bytes at the address in register a (R204, R205): AT is checked, and a device register refuses it. -/
def atomAccess (h : CHdr) (n a d op operand : Nat) (cmp : Option Nat) (s : State) (c t : Nat) : State :=
  let ea := s.reg c t a
  if ea.toNat % n ≠ 0 then s.trap c t 6 ea
  else
    match translateLocal (s.core c) c .at_ ea.toNat with
    | .bad st => s.fatal c t 0 st (s.task c t).pc ea
    | .ok pa nc =>
      if inDev pa then s.trap c t 8 ea
      else
        s.memoryAccess c t (ctlLen h 2) { plainAccess (.atom op) h n (.reg d false) (storeCells pa n operand) with
          va := ea.toNat, pa, nc, cmp, readyAt := (s.core c).cycle + 24 }

/-- `atom` (R204). -/
def execAtom (h : CHdr) (op size d a b : Nat) (s : State) : Out :=
  asTask s fun c t => atomAccess h (2 ^ size) a d op (s.reg c t b).toNat none s c t

/-- `cas` (R205). -/
def execCas (h : CHdr) (size d a b : Nat) (s : State) : Out :=
  asTask s fun c t =>
    atomAccess h (2 ^ size) a d 0 (s.reg c t b).toNat (some ((s.reg c t d).toNat % 2 ^ (8 * 2 ^ size))) s c t

/-- An access of no address in the queues of the task. -/
def queueOnly (kind : AKind) (h : CHdr) (acq rel : Bool) (s : State) : Out :=
  asTask s fun c t =>
    (s.taskAccess c t { plainAccess kind h 0 .none [] with space := .core, acq, rel }).goOn c t (ctlLen h 1)

/-- `fence`: with ORD relaxed an acquire-release fence (R141, R206). -/
def execFence (h : CHdr) (s : State) : Out :=
  let both := !acqOf h && !relOf h
  queueOnly (.fence false) h (acqOf h || both) (relOf h || both) s

/-- `fence.sc`: an acquire-release fence; a set ORD has no effect (R142, R206). -/
def execFenceSc (h : CHdr) (s : State) : Out := queueOnly (.fence true) h true true s

/-- `qmark` (R140, R206). -/
def execQmark (h : CHdr) (s : State) : Out := queueOnly .qmark h false false s

/-- Range maintenance over the lines that overlap [a, a + n), up to 2^64 − 1 (R133, R207): each line is translated,
and lines in device segments are left alone. -/
def maintain (kind : AKind) (h : CHdr) (a b : Nat) (s : State) : Out :=
  asTask s fun c t =>
    let lo := (s.reg c t a).toNat
    let n := (s.reg c t b).toNat
    let first := lo / 128 * 128
    let last := min ((lo + n + 127) / 128 * 128) (2 ^ 64)
    let ps := if n = 0 then [] else pieces (s.core c).seg .wr first (last - first)
    match firstBad ps with
    | some (va, st) => s.fatal c t 0 st (s.task c t).pc (word va)
    | none =>
      (s.taskAccess c t { plainAccess kind h 0 .none [] with va := lo, pieces := (physical ps).filter fun p => !inDev p.1 }).goOn c t (ctlLen h 1)

def execCleanR (h : CHdr) (a b : Nat) (s : State) : Out := maintain .clean h a b s

def execInvR (h : CHdr) (a b : Nat) (s : State) : Out := maintain .inv h a b s

def execCleaninvR (h : CHdr) (a b : Nat) (s : State) : Out := maintain .cleaninv h a b s

end Sys2Proof.Machine
end

