-- ==== Sys2Proof/Machine/WalkRoutine.lean ====
section
/-! DEFINITION. The page-walk microcontroller (R504): a routine of the walk store in the RISC-V RV64IMC unprivileged instruction set,
which the spec names and does not repeat. Its encodings and results are PRESUMED from the RISC-V manual (assumption 49). -/

namespace Sys2Proof.Machine

/-- The operations of two operands. -/
inductive RvAlu where
  | add | sub | sll | slt | sltu | xor | srl | sra | or | and
  | mul | mulh | mulhsu | mulhu | div | divu | rem | remu
deriving DecidableEq, Repr

/-- An instruction: registers by number, immediates as they are added; w marks the forms on the low 32 bits. -/
inductive RvInstr where
  | lui (rd : Nat) (imm : Word)
  | auipc (rd : Nat) (imm : Word)
  | jal (rd : Nat) (off : Word)
  | jalr (rd rs : Nat) (off : Word)
  | branch (f rs rt : Nat) (off : Word)
  | load (f rd rs : Nat) (off : Word)
  | store (f rs rt : Nat) (off : Word)
  | opImm (a : RvAlu) (w : Bool) (rd rs : Nat) (imm : Word)
  | op (a : RvAlu) (w : Bool) (rd rs rt : Nat)
  | fence
deriving DecidableEq, Repr

/-! Decoding. -/

/-- The base and the M operations by FUNCT3. -/
def rvBase (f : Nat) : RvAlu :=
  match f with
  | 0 => .add
  | 1 => .sll
  | 2 => .slt
  | 3 => .sltu
  | 4 => .xor
  | 5 => .srl
  | 6 => .or
  | _ => .and

def rvMulDiv (f : Nat) : RvAlu :=
  match f with
  | 0 => .mul
  | 1 => .mulh
  | 2 => .mulhsu
  | 3 => .mulhu
  | 4 => .div
  | 5 => .divu
  | 6 => .rem
  | _ => .remu

/-- The register operation of FUNCT7 and FUNCT3. -/
def rvOp (f7 f3 : Nat) : Option RvAlu :=
  match f7 with
  | 0 => some (rvBase f3)
  | 1 => some (rvMulDiv f3)
  | 0x20 => if f3 = 0 then some .sub else if f3 = 5 then some .sra else none
  | _ => none

/-- The immediate operation of FUNCT3; n is the width of the shift amount, hi what stands above it. -/
def rvOpImm (f3 hi sra : Nat) : Option RvAlu :=
  if f3 = 1 then (if hi = 0 then some .sll else none)
  else if f3 = 5 then (if hi = 0 then some .srl else if hi = sra then some .sra else none)
  else some (rvBase f3)

/-- A 32-bit word. -/
def rvDecode32 (w : Nat) : Option RvInstr :=
  let rd := fld w 7 5
  let f3 := fld w 12 3
  let rs := fld w 15 5
  let rt := fld w 20 5
  let f7 := fld w 25 7
  let immI := sext64 12 (fld w 20 12)
  let shift := f3 == 1 || f3 == 5
  match fld w 0 7 with
  | 0x37 => some (.lui rd (sext64 32 (fld w 12 20 * 2 ^ 12)))
  | 0x17 => some (.auipc rd (sext64 32 (fld w 12 20 * 2 ^ 12)))
  | 0x6F => some (.jal rd (sext64 21 (fld w 31 1 * 2 ^ 20 + fld w 12 8 * 2 ^ 12 + fld w 20 1 * 2 ^ 11 + fld w 21 10 * 2)))
  | 0x67 => if f3 = 0 then some (.jalr rd rs immI) else none
  | 0x63 => if f3 = 2 ∨ f3 = 3 then none
    else some (.branch f3 rs rt (sext64 13 (fld w 31 1 * 2 ^ 12 + fld w 7 1 * 2 ^ 11 + fld w 25 6 * 2 ^ 5 + fld w 8 4 * 2)))
  | 0x03 => if f3 = 7 then none else some (.load f3 rd rs immI)
  | 0x23 => if 3 < f3 then none else some (.store f3 rs rt (sext64 12 (f7 * 2 ^ 5 + rd)))
  | 0x13 => (rvOpImm f3 (fld w 26 6) 0x10).map fun a => .opImm a false rd rs (if shift then word (fld w 20 6) else immI)
  | 0x1B => if f3 = 0 ∨ f3 = 1 ∨ f3 = 5 then
      (rvOpImm f3 f7 0x20).map fun a => .opImm a true rd rs (if shift then word rt else immI)
    else none
  | 0x33 => (rvOp f7 f3).map fun a => .op a false rd rs rt
  | 0x3B => if f3 = 0 ∨ f3 = 5 ∨ (f3 = 1 ∧ f7 = 0) ∨ (f7 = 1 ∧ 4 ≤ f3) then
      (rvOp f7 f3).map fun a => .op a true rd rs rt
    else none
  | 0x0F => if f3 = 0 then some .fence else none
  | _ => none

/-- A 16-bit word, as the instruction that it stands for. -/
def rvDecode16 (w : Nat) : Option RvInstr :=
  let rd := fld w 7 5
  let rt := fld w 2 5
  let rs3 := 8 + fld w 7 3
  let rt3 := 8 + fld w 2 3
  let imm6 := sext64 6 (fld w 12 1 * 2 ^ 5 + rt)
  let sh := word (fld w 12 1 * 2 ^ 5 + rt)
  let offW := word (fld w 5 1 * 2 ^ 6 + fld w 10 3 * 2 ^ 3 + fld w 6 1 * 2 ^ 2)
  let offD := word (fld w 5 2 * 2 ^ 6 + fld w 10 3 * 2 ^ 3)
  let offB := sext64 9 (fld w 12 1 * 2 ^ 8 + fld w 5 2 * 2 ^ 6 + fld w 2 1 * 2 ^ 5 + fld w 10 2 * 2 ^ 3 + fld w 3 2 * 2)
  match fld w 0 2, fld w 13 3 with
  | 0, 0 =>
    let n := fld w 7 4 * 2 ^ 6 + fld w 11 2 * 2 ^ 4 + fld w 5 1 * 2 ^ 3 + fld w 6 1 * 2 ^ 2
    if n = 0 then none else some (.opImm .add false rt3 2 (word n))
  | 0, 2 => some (.load 2 rt3 rs3 offW)
  | 0, 3 => some (.load 3 rt3 rs3 offD)
  | 0, 6 => some (.store 2 rs3 rt3 offW)
  | 0, 7 => some (.store 3 rs3 rt3 offD)
  | 1, 0 => some (.opImm .add false rd rd imm6)
  | 1, 1 => if rd = 0 then none else some (.opImm .add true rd rd imm6)
  | 1, 2 => some (.opImm .add false rd 0 imm6)
  | 1, 3 =>
    if fld w 12 1 = 0 ∧ rt = 0 then none
    else if rd = 2 then
      some (.opImm .add false 2 2 (sext64 10 (fld w 12 1 * 2 ^ 9 + fld w 3 2 * 2 ^ 7 + fld w 5 1 * 2 ^ 6 + fld w 2 1 * 2 ^ 5 + fld w 6 1 * 2 ^ 4)))
    else some (.lui rd (sext64 18 (fld w 12 1 * 2 ^ 17 + rt * 2 ^ 12)))
  | 1, 4 =>
    match fld w 10 2 with
    | 0 => some (.opImm .srl false rs3 rs3 sh)
    | 1 => some (.opImm .sra false rs3 rs3 sh)
    | 2 => some (.opImm .and false rs3 rs3 imm6)
    | _ => match fld w 12 1, fld w 5 2 with
      | 0, 0 => some (.op .sub false rs3 rs3 rt3)
      | 0, 1 => some (.op .xor false rs3 rs3 rt3)
      | 0, 2 => some (.op .or false rs3 rs3 rt3)
      | 0, _ => some (.op .and false rs3 rs3 rt3)
      | _, 0 => some (.op .sub true rs3 rs3 rt3)
      | _, 1 => some (.op .add true rs3 rs3 rt3)
      | _, _ => none
  | 1, 5 =>
    some (.jal 0 (sext64 12 (fld w 12 1 * 2 ^ 11 + fld w 8 1 * 2 ^ 10 + fld w 9 2 * 2 ^ 8 + fld w 6 1 * 2 ^ 7 + fld w 7 1 * 2 ^ 6 + fld w 2 1 * 2 ^ 5
      + fld w 11 1 * 2 ^ 4 + fld w 3 3 * 2)))
  | 1, 6 => some (.branch 0 rs3 0 offB)
  | 1, 7 => some (.branch 1 rs3 0 offB)
  | 2, 0 => some (.opImm .sll false rd rd sh)
  | 2, 2 => if rd = 0 then none else some (.load 2 rd 2 (word (fld w 2 2 * 2 ^ 6 + fld w 12 1 * 2 ^ 5 + fld w 4 3 * 2 ^ 2)))
  | 2, 3 => if rd = 0 then none else some (.load 3 rd 2 (word (fld w 2 3 * 2 ^ 6 + fld w 12 1 * 2 ^ 5 + fld w 5 2 * 2 ^ 3)))
  | 2, 4 =>
    if rt ≠ 0 then (if fld w 12 1 = 0 then some (.op .add false rd 0 rt) else some (.op .add false rd rd rt))
    else if rd = 0 then none
    else some (.jalr (fld w 12 1) rd 0#64)
  | 2, 6 => some (.store 2 2 rt (word (fld w 7 2 * 2 ^ 6 + fld w 9 4 * 2 ^ 2)))
  | 2, 7 => some (.store 3 2 rt (word (fld w 7 3 * 2 ^ 6 + fld w 10 3 * 2 ^ 3)))
  | _, _ => none

/-! Results. -/

/-- A quotient or remainder; by 0 the quotient is all ones and the remainder the dividend. -/
def rvDivide {n : Nat} (rem signed : Bool) (x y : BitVec n) : BitVec n :=
  if y = 0 then (if rem then x else BitVec.allOnes n)
  else match rem, signed with
    | false, true => x.sdiv y
    | false, false => x / y
    | true, true => x.srem y
    | true, false => x % y

/-- The result of an operation on n bits. -/
def rvAlu {n : Nat} (a : RvAlu) (x y : BitVec n) : BitVec n :=
  match a with
  | .add => x + y
  | .sub => x - y
  | .sll => x <<< (y.toNat % n)
  | .slt => if x.slt y then 1 else 0
  | .sltu => if x.ult y then 1 else 0
  | .xor => x ^^^ y
  | .srl => x >>> (y.toNat % n)
  | .sra => x.sshiftRight (y.toNat % n)
  | .or => x ||| y
  | .and => x &&& y
  | .mul => x * y
  | .mulh => BitVec.ofInt n (x.toInt * y.toInt / 2 ^ n)
  | .mulhsu => BitVec.ofInt n (x.toInt * y.toNat / 2 ^ n)
  | .mulhu => BitVec.ofNat n (x.toNat * y.toNat / 2 ^ n)
  | .div => rvDivide false true x y
  | .divu => rvDivide false false x y
  | .rem => rvDivide true true x y
  | .remu => rvDivide true false x y

/-- The result in 64 bits; the forms of 32 bits are sign-extended. -/
def rvResult (a : RvAlu) (w : Bool) (x y : Word) : Word :=
  if w then (rvAlu a (x.setWidth 32) (y.setWidth 32)).signExtend 64 else rvAlu a x y

/-- A branch is taken. -/
def rvTaken (f : Nat) (x y : Word) : Bool :=
  match f with
  | 0 => x == y
  | 1 => x != y
  | 4 => x.slt y
  | 5 => !x.slt y
  | 6 => x.ult y
  | _ => !x.ult y

/-! A run of a routine. -/

/-- The microcontroller: its pc in the walk store, and x1 to x31. -/
structure Rv where
  pc : Word
  x : Tbl Word

/-- Register n; x0 reads 0. -/
def Rv.reg (m : Rv) (n : Nat) : Word := if n = 0 then 0#64 else tget 0#64 m.x n

/-- Register n written; a write of x0 is discarded. -/
def Rv.put (m : Rv) (n : Nat) (v : Word) : Rv := if n = 0 then m else { m with x := tput m.x n v }

/-- The instruction at an offset of the store, with its length: none where a byte of it lies outside, or it is no instruction. -/
def rvFetch (store : Bytes) (pc : Nat) : Option (RvInstr × Nat) :=
  if 65536 < pc + 2 then none
  else
    let h := numBytes (bytesAt store pc 2)
    if fld h 0 2 ≠ 3 then (rvDecode16 h).map fun i => (i, 2)
    else if 65536 < pc + 4 then none
    else (rvDecode32 (h + 2 ^ 16 * numBytes (bytesAt store (pc + 2) 2))).map fun i => (i, 4)

/-- The n bytes at a are panel-physical memory that a routine may access: HBM, of no listed line, and aligned unless the open choice
strict says that an access need not be. -/
def State.rvMay (s : State) (strict : Bool) (a n : Nat) : Bool :=
  decide (a + n ≤ 2 ^ 48) && inHbm a && inHbm (a + n - 1) && !s.errorLine (a / 128) && !s.errorLine ((a + n - 1) / 128)
  && (!strict || a % n == 0)

/-- An instruction of len bytes runs: the next machine and state, none where it traps. -/
def rvStep (strict : Bool) (i : RvInstr) (len : Nat) (m : Rv) (s : State) : Option (Rv × State) :=
  let on (m : Rv) : Rv := { m with pc := m.pc + word len }
  match i with
  | .lui rd imm => some (on (m.put rd imm), s)
  | .auipc rd imm => some (on (m.put rd (m.pc + imm)), s)
  | .jal rd off => some ({ m.put rd (m.pc + word len) with pc := m.pc + off }, s)
  | .jalr rd rs off => some ({ m.put rd (m.pc + word len) with pc := (m.reg rs + off) &&& ~~~1#64 }, s)
  | .branch f rs rt off => some (if rvTaken f (m.reg rs) (m.reg rt) then { m with pc := m.pc + off } else on m, s)
  | .load f rd rs off =>
    let a := (m.reg rs + off).toNat
    let n := 2 ^ (f % 4)
    if !s.rvMay strict a n then none
    else
      let v := numBytes (s.homeBytes a n)
      some (on (m.put rd (if f < 4 then sext64 (8 * n) v else word v)), s)
  | .store f rs rt off =>
    let a := (m.reg rs + off).toNat
    let n := 2 ^ f
    if !s.rvMay strict a n then none else some (on m, s.homeWrite none (cellsFrom a (bytesOfNum n (m.reg rt).toNat)))
  | .opImm a w rd rs imm => some (on (m.put rd (rvResult a w (m.reg rs) imm)), s)
  | .op a w rd rs rt => some (on (m.put rd (rvResult a w (m.reg rs) (m.reg rt))), s)
  | .fence => some (on m, s)

/-- The routine runs for at most the given number of instructions, until it stands at its return address back: the record found, if
any, and the state. A trap, a fetch from outside the store and the limit are NOMAP. -/
def rvRun (store : Bytes) (strict : Bool) (back : Word) : Nat → Rv → State → Option Nat × State
  | 0, m, s => (if m.pc = back ∧ m.reg 10 = 0#64 then some ((m.reg 11).toNat + 2 ^ 64 * (m.reg 12).toNat) else none, s)
  | fuel + 1, m, s =>
    if m.pc = back then (if m.reg 10 = 0#64 then some ((m.reg 11).toNat + 2 ^ 64 * (m.reg 12).toNat) else none, s)
    else match (rvFetch store m.pc.toNat).bind fun i => rvStep strict i.1 i.2 m s with
      | none => (none, s)
      | some r => rvRun store strict back fuel r.1 r.2

/-- The registers of a routine at its entry: a0 to a2 as R504 says, ra the return address, the others open. -/
def rvStart (back : Word) (open_ : Nat → Nat) (a tbase kind : Nat) : Tbl Word :=
  (span 1 31).map fun n => (n, if n = 1 then back else if n = 10 then word a else if n = 11 then word tbase else if n = 12 then word kind else word (open_ n))

/-- What a routine of the walk store finds for address a, and the state after it (R504): none for a format without one. The return
address, which lies outside the store, the other registers, and whether a misaligned access traps are open values (assumption 2). -/
def State.walkRoutine (s : State) (store : Bytes) (fmt tbase a kind : Nat) : Option Nat × State :=
  let entry := numBytes (bytesAt store (8 * (fmt - 1)) 8)
  if entry = 0 then (none, s)
  else
    let open_ (n : Nat) : Nat := Config.freeWord (s.freeCtr + n)
    let back := word (2 ^ 16 + 2 * (open_ 0 % 2 ^ 62))
    rvRun store (open_ 32 % 2 == 1) back 4096 { pc := word entry &&& ~~~1#64, x := rvStart back open_ a tbase kind } { s with freeCtr := s.freeCtr + 33 }

end Sys2Proof.Machine
end

