-- ==== Sys2Proof/Machine/Phase.lean ====
section
/-! DEFINITION. `probe` and the page walks (R118 to R121, R208), `phase` (R126, R127, R209), and the checks of ring
descriptors (R20, R21). -/

namespace Sys2Proof.Machine

/-! Segment records (R114, R116). -/

/-- A 128-bit record of the layout of R114 as an entry. -/
def segOfNum (x : Nat) : SegEnt :=
  { v := fld x 9 1 == 1, size := fld x 10 6, vbase := fld x 16 48 * 2 ^ 16, pbase := fld x 80 32 * 2 ^ 16,
    rd := fld x 8 1 == 1, wr := fld x 7 1 == 1, at_ := fld x 6 1 == 1, x := fld x 5 1 == 1, dev := fld x 4 1 == 1,
    nc := fld x 3 1 == 1 }

/-- A valid record passes the checks of R116 but for the overlap test. -/
def segRecordOk (x : Nat) : Bool :=
  let e := segOfNum x
  decide (16 ≤ e.size) && decide (e.size ≤ 40) && e.vbase % 2 ^ e.size == 0 && e.pbase % 2 ^ e.size == 0
  && e.dev == inDev e.pbase && fld x 112 16 == 0 && fld x 64 16 == 0 && fld x 0 3 == 0

/-! Format-0 tables (R120). -/

/-- Record k of a format-0 table. -/
def State.walkRecord (s : State) (tbase k : Nat) : Nat := s.homeNum (tbase + 16 + 16 * k) 16

/-- The binary search for the last record of lo to hi − 1 whose VBASE is at or below a: the number of the record after
it. -/
def State.walkSearch (s : State) (tbase a : Nat) : Nat → Nat → Nat → Nat
  | 0, lo, _ => lo
  | n + 1, lo, hi =>
    if lo < hi then
      let m := (lo + hi) / 2
      if (segOfNum (s.walkRecord tbase m)).vbase ≤ a then State.walkSearch s tbase a n (m + 1) hi
      else State.walkSearch s tbase a n lo m
    else lo

/-- The downward scan: the lowest-numbered record that contains a, among those met while VBASE lies above
a − 2^40. -/
def State.walkScan (s : State) (tbase a : Nat) : Nat → Option Nat → Option Nat
  | 0, best => best
  | k + 1, best =>
    let x := s.walkRecord tbase k
    if a < (segOfNum x).vbase + 2 ^ 40 then
      State.walkScan s tbase a k (if (segOfNum x).matches a then some x else best)
    else best

/-- The record that a format-0 walk returns for address a. -/
def State.walkTable (s : State) (tbase a : Nat) : Option Nat :=
  s.walkScan tbase a (s.walkSearch tbase a 64 0 (s.homeNum tbase 8)) none

/-- The addresses that the binary search of a walk reads. -/
def State.searchReads (s : State) (tbase a : Nat) : Nat → Nat → Nat → List Nat
  | 0, _, _ => []
  | n + 1, lo, hi =>
    if lo < hi then
      let m := (lo + hi) / 2
      (tbase + 16 + 16 * m) :: (if (segOfNum (s.walkRecord tbase m)).vbase ≤ a then State.searchReads s tbase a n (m + 1) hi
        else State.searchReads s tbase a n lo m)
    else []

/-- The addresses that its downward scan reads. -/
def State.scanReads (s : State) (tbase a : Nat) : Nat → List Nat
  | 0 => []
  | k + 1 => (tbase + 16 + 16 * k) :: (if a < (segOfNum (s.walkRecord tbase k)).vbase + 2 ^ 40 then State.scanReads s tbase a k else [])

/-- A format-0 walk for address a reads a line of the error-address table (R136). -/
def State.walkLost (s : State) (tbase a : Nat) : Bool :=
  let n := s.homeNum tbase 8
  (tbase :: (s.searchReads tbase a 64 0 n ++ s.scanReads tbase a (s.walkSearch tbase a 64 0 n))).any fun p => s.errorLine (p / 128)

/-- The walk of core c for address a meets a memory error: a format-0 walk then has no result for its probe, whose task traps; a routine
traps, which ends it as NOMAP (R136, R504). -/
def State.walkFails (s : State) (c a : Nat) (err : Bool) : Bool :=
  match s.weaveOf c with
  | some w => w.lrec.fmt == 0 && (err || s.walkLost w.lrec.tbase a)
  | none => false

/-- The record that a walk of the weave on core c finds for address a, and the state after the walk (R120, R504). -/
def State.walk (s : State) (c kind a : Nat) : Option Nat × State :=
  match s.weaveOf c with
  | none => (none, s)
  | some w =>
    if w.lrec.fmt = 0 then (s.walkTable w.lrec.tbase a, s)
    else s.walkRoutine (tget [] s.walkStore (dieOf c)) w.lrec.fmt w.lrec.tbase a kind

/-! `probe`. -/

/-- The permission that a probe kind tests: 0 read, 1 write, 2 atomic, 3 fetch (R208). -/
def probePerm (kind : Nat) : Perm :=
  match kind with
  | 0 => .rd
  | 1 => .wr
  | 2 => .at_
  | _ => .x

/-- The first byte of a range that no entry covers with the permission; a range past 2^64 − 1 is uncovered from
there (R208). -/
def firstUncovered (seg : Tbl SegEnt) (kind va n : Nat) : Option Nat :=
  match firstBad (pieces seg (probePerm kind) va n) with
  | some (a, _) => some a
  | none => if 2 ^ 64 < va + n then some (2 ^ 64) else none

/-- `probe` (R118, R119, R208): HIT at once; else a walk, while every named data strand is held. -/
def execProbe (h : CHdr) (kind d a b : Nat) (s : State) : Out :=
  asTask s fun c t =>
    let k := s.core c
    let va := (s.reg c t a).toNat
    let n := (s.reg c t b).toNat
    match (if n = 0 then none else firstUncovered k.seg kind va n) with
    | none => s.result c t d 0#64 1 (ctlLen h 1)
    | some _ =>
      if k.data.allHeld then
        let s1 := (s.modCore c fun k => { k with probe := some { task := t, rd := d, kind, addr := va, left := n } }).park c t .walk (.probe h kind d a b) (ctlLen h 1)
        { s1 with walkQ := tmod [] s1.walkQ (dieOf c) fun q => q ++ [c] }
      else s.trap c t 11 (s.reg c t a)

/-- The probe of core c is over, and its request leaves the queue. -/
def State.dropProbe (s : State) (c : Nat) : State :=
  { s.modCore c fun k => { k with probe := none } with walkQ := tmod [] s.walkQ (dieOf c) fun q => dropFirst (· == c) q }

/-- The probe of core c ends with a status. -/
def State.endProbe (s : State) (c : Nat) (p : Probe) (st : Nat) : State := (s.dropProbe c).wakeWith c p.task p.rd (word st)

/-- The elastic entry that an installed result goes into: a free one, the lowest (DESIGN CHOICE, assumption 128), else the one installed
earliest that this probe did not install; none where this probe holds all 32 (R118, R121). -/
def elasticSlot (k : Core) (mine : List Nat) : Option Nat :=
  match firstWhere (fun i => !k.elastic.contains i) (span 256 32) with
  | some i => some i
  | none => firstWhere (fun i => !mine.contains i) k.elastic

/-- Core c's memory requests have all completed (R119). -/
def State.idleMemory (s : State) (c : Nat) : Bool := (s.core c).accs.all fun a => match a.kind with
  | .qmark | .fence _ => true
  | _ => false

/-- The walk of core c's probe for address a is made; its result is checked and installed or refused, and the probe goes on or completes
(R120, R121). -/
def State.installWalk (s : State) (c : Nat) (p : Probe) (a : Nat) : State :=
  let r := s.walk c p.kind a
  let s1 := r.2
  let k := s1.core c
  match r.1, elasticSlot k p.mine with
  | none, _ => s1.endProbe c p 2
  | some x, slot =>
    let e := segOfNum x
    if !(segRecordOk x && e.matches a && e.grants (probePerm p.kind)) then s1.endProbe c p 2
    else match slot with
      | none => s1.endProbe c p 3
      | some i =>
        if k.seg.any (fun y => decide (y.1 < i) && y.2.matches a) then s1.endProbe c p 2
        else
          let p1 := { p with mine := p.mine ++ [i] }
          let s2 := s1.modCore c fun k =>
            { k with seg := tput k.seg i e, elastic := k.elastic.filter (· != i) ++ [i], probe := some p1 }
          match firstUncovered (s2.core c).seg p.kind p.addr p.left with
          | none => s2.endProbe c p1 1
          | some _ => s2

/-- The walk at the head of die d's queue ends; err is a lasting error that a read of it meets anew: the probe, for which the walk reads,
is a MEMORY_ERROR trap of its task (R136): DEDUCED. -/
def State.walkStep (s : State) (d : Nat) (err : Bool) : State :=
  match tget [] s.walkQ d with
  | [] => s
  | c :: _ =>
    match (s.core c).probe with
    | none => { s with walkQ := tmod [] s.walkQ d fun q => q.drop 1 }
    | some p =>
      if !s.idleMemory c then s
      else match firstUncovered (s.core c).seg p.kind p.addr p.left with
        | none => s.endProbe c p 1
        | some a =>
          let s0 := if err then s.countError d 3 else s
          if 2 ^ 64 ≤ a then s.endProbe c p 2
          else if s.walkFails c a err then (s0.dropProbe c).trap c p.task 17 (word a)
          else if err then s0.endProbe c p 2
          else s.installWalk c p a

/-- PAGE_WALK_COMPLETE: the walk at the head of die d's queue ends (R119 to R121). -/
def execPageWalkComplete (d : Nat) (s : State) : Out := .next (s.walkStep d false)

/-! Rings (R20, R21). -/

/-- The fields of a ring descriptor (R20). -/
def ringLoc (w : Word) : Nat := bits w 62 2
def ringProd (w : Word) : Nat := bits w 59 3
def ringCons (w : Word) : Nat := bits w 56 3
def ringSlots (w : Word) : Nat := bits w 48 8 + 1
def ringSlotBytes (w : Word) : Nat := 128 * 2 ^ bits w 44 4
def ringBase (w : Word) : Nat := bits w 22 22
def ringPptr (w : Word) : Nat := bits w 14 8
def ringCptr (w : Word) : Nat := bits w 6 8
def ringOn (w : Word) : Bool := bits w 0 1 == 1

/-- The end of a ring in its store. -/
def ringEnd (w : Word) : Nat := ringBase w + ringSlots w * ringSlotBytes w

/-- Ring n of a data side. -/
def DataSide.ring (d : DataSide) (n : Nat) : Word := tget 0#64 d.rings n

/-- The data strand of an engine: 1 vector, 2 matrix, 3 copy. -/
def DataSide.strand (d : DataSide) (e : Nat) : Strand :=
  match e with
  | 1 => d.vec
  | 2 => d.mat
  | _ => d.cpy

/-- The engine is a named strand of the job (R13). -/
def DataSide.names (d : DataSide) (e : Nat) : Bool := (e == 1 || e == 2 || e == 3) && (d.strand e).named

/-- Two rings overlap in the same store. -/
def ringsOverlap (x y : Word) : Bool :=
  ringLoc x == ringLoc y && decide (ringBase x < ringEnd y) && decide (ringBase y < ringEnd x)

/-- A descriptor fails a check of R21 that needs no other ring. -/
def ringBad (k : Core) (w : Word) : Bool :=
  !(k.data.names (ringProd w)) || !(k.data.names (ringCons w)) || ringProd w == ringCons w
  || (ringLoc w == 0 && decide (k.scratchTop < ringEnd w)) || (ringLoc w == 1 && decide (0x100000 < ringEnd w))
  || (ringLoc w == 1 && bits w 44 4 != 6)
  || (ringLoc w == 1 && !((ringProd w == 3 && ringCons w == 2) || (ringProd w == 2 && ringCons w == 3)))
  || decide (2 ≤ ringLoc w) || decide (ringSlots w ≤ ringPptr w) || decide (ringSlots w ≤ ringCptr w)

/-- The lowest-numbered enabled ring that fails a check of R21 at `go`. -/
def failingRing (k : Core) : Option Nat :=
  firstWhere (fun n =>
    let w := k.data.ring n
    ringOn w && (ringBad k w || (span 0 32).any fun m => m != n && ringOn (k.data.ring m) && ringsOverlap w (k.data.ring m)))
    (span 0 32)

/-- The lowest-numbered enabled scratchpad ring that holds a byte of core-store addresses lo to hi − 1 (R21). -/
def ringInRegion (k : Core) (lo hi : Nat) : Option Nat :=
  firstWhere (fun n =>
    let w := k.data.ring n
    ringOn w && ringLoc w == 0 && decide (ringBase w < hi) && decide (lo < ringEnd w)) (span 0 32)

/-! `phase`. -/

/-- `phase` (R127, R209): 96 + 2N cycles, N the lines of the moved region. -/
def execPhase (h : CHdr) (code : Nat) (s : State) : Out :=
  asTask s fun c t =>
    let k := s.core c
    let old := k.scratchTop
    let new := 0x400000 - shareBytes code
    if k.fused then s.trap c t 12 (word code)
    else match (if new < old then ringInRegion k new old else none) with
      | some n => s.trap c t 25 (word n)
      | none =>
        let lines := (if new < old then old - new else new - old) / 128
        (s.modCore c fun k => { k with phase := some { task := t, code, doneAt := k.cycle + 96 + 2 * lines } }).park c t .phase
          (.phase h code) (ctlLen h 1)

/-- PHASE_COMPLETE: the split of core c changes (R126). A shrinking L1 writes its lines back and drops them; the bytes
that leave the scratchpad, and those that come to it, hold 0. -/
def execPhaseComplete (c : Nat) (s : State) : Out :=
  let k := s.core c
  match k.phase with
  | none => .next s
  | some p =>
    if k.cycle < p.doneAt ∨ s.isFrozen c then .next s
    else
      let top := 0x400000 - shareBytes p.code
      let s1 := if shareBytes p.code < shareBytes k.share then
          let s2 := s.writeBackAll c fun _ _ => true
          s2.modCore c fun k => { k with l1 := [] }
        else s
      let s3 := s1.modCore c fun k => { k with share := p.code, phase := none, scratch := k.scratch.filter fun e => decide (e.1 < min k.scratchTop top) }
      .next (s3.wake c p.task)

end Sys2Proof.Machine
end

