-- ==== Sys2Proof/Machine/Strand.lean ====
section
/-! DEFINITION. What the three data strands share: control queues (R25 to R29), snapshots and restarts (R36, R37),
blocks of queue-driven constructs (R62, R63), ring slots (R22, R23), and the shared words (R61, R62). -/

namespace Sys2Proof.Machine

/-- A data side with strand e replaced: 1 vector, 2 matrix, 3 copy. -/
def DataSide.setStrand (d : DataSide) (e : Nat) (x : Strand) : DataSide :=
  match e with
  | 1 => { d with vec := x }
  | 2 => { d with mat := x }
  | _ => { d with cpy := x }

/-- A data side with strand e changed. -/
def DataSide.modStrand (d : DataSide) (e : Nat) (f : Strand → Strand) : DataSide := d.setStrand e (f (d.strand e))

/-- The state with strand e of core c changed. -/
def State.modStrand (s : State) (c e : Nat) (f : Strand → Strand) : State := s.modData c fun d => d.modStrand e f

/-- Strand e of core c. -/
def State.strand (s : State) (c e : Nat) : Strand := (s.core c).data.strand e

/-- The strand runs: it is named, not held, not stopped (R188). -/
def Strand.running (x : Strand) : Bool := x.named && !x.held && !x.stopped

/-! Ring slots (R22, R23). A slot's key is 256 · ring + slot. -/

/-- The key of a slot. -/
def slotKey (ring slot : Nat) : Nat := 256 * ring + slot

/-- The state of a slot: empty where nothing else is known. -/
def DataSide.slot (d : DataSide) (key : Nat) : SlotSt := tget .empty d.slots key

/-- The slots of c in a row from slot i of a ring, modulo its slot count. -/
def ringRun (w : Word) (ring i c : Nat) : List Nat := (span 0 c).map fun j => slotKey ring ((i + j) % ringSlots w)

/-- The c slots from a ring's CPTR, and from its PPTR. -/
def DataSide.inputs (d : DataSide) (ring c : Nat) : List Nat := ringRun (d.ring ring) ring (ringCptr (d.ring ring)) c
def DataSide.outputs (d : DataSide) (ring c : Nat) : List Nat := ringRun (d.ring ring) ring (ringPptr (d.ring ring)) c

/-- The fire condition of an input and of an output ring (R23). -/
def DataSide.inputReady (d : DataSide) (ring c : Nat) : Bool := (d.inputs ring c).all fun k => d.slot k == .ready
def DataSide.outputFree (d : DataSide) (ring c : Nat) : Bool := (d.outputs ring c).all fun k => d.slot k == .empty

/-- A data side with slots set to a state. -/
def DataSide.setSlots (d : DataSide) (keys : List Nat) (x : SlotSt) : DataSide :=
  { d with slots := keys.foldl (fun t k => tput t k x) d.slots }

/-- The pointers of a ring advance by c, modulo the slot count (R23). -/
def DataSide.advanceCptr (d : DataSide) (ring c : Nat) : DataSide :=
  let w := d.ring ring
  { d with rings := tput d.rings ring (setBits w 6 8 ((ringCptr w + c) % ringSlots w)) }

def DataSide.advancePptr (d : DataSide) (ring c : Nat) : DataSide :=
  let w := d.ring ring
  { d with rings := tput d.rings ring (setBits w 14 8 ((ringPptr w + c) % ringSlots w)) }

/-- An instruction fires on an input ring: its slots become draining (R23). -/
def DataSide.fireIn (d : DataSide) (ring c : Nat) : DataSide :=
  (d.setSlots (d.inputs ring c) .draining).advanceCptr ring c

/-- An instruction fires on an output ring: its slots become filling (R23). -/
def DataSide.fireOut (d : DataSide) (ring c : Nat) : DataSide :=
  (d.setSlots (d.outputs ring c) .filling).advancePptr ring c

/-- The address of a slot in its store. -/
def DataSide.slotAddr (d : DataSide) (key : Nat) : Nat :=
  let w := d.ring (key / 256)
  ringBase w + key % 256 * ringSlotBytes w

/-- A ring is enabled, the count lies from 1 to its slot count (R23), and the engine has its end of the ring. -/
def DataSide.ringUse (d : DataSide) (ring c : Nat) : Bool :=
  ringOn (d.ring ring) && decide (1 ≤ c) && decide (c ≤ ringSlots (d.ring ring))

/-! Snapshots (R36, R313). -/

/-- The slot table with every ring word that has issued counted as complete: filling slots are ready; draining slots are
empty, but for those a claim holds (R36, R305, R313). -/
def DataSide.settled (d : DataSide) : Tbl SlotSt :=
  d.slots.map fun e =>
    let ring := e.1 / 256
    let held := (d.inputs ring (tget 0 d.claims ring)).contains e.1
    (e.1, match e.2 with
      | .filling => .ready
      | .draining => if held then .draining else .empty
      | x => x)

/-- A strand's part of a snapshot. -/
def Strand.snap (x : Strand) : StrandSnap :=
  { pc := x.pc, blocks := x.blocks, src := x.src, popped := x.cq.popped, base := x.base, held := x.held, atRegion := x.atRegion }

/-- The data side as a snapshot of this cycle records it. -/
def DataSide.image (d : DataSide) : Snap :=
  { vec := d.vec.snap, mat := d.mat.snap, cpy := d.cpy.snap, rings := d.rings, slots := d.settled, claims := d.claims,
    timed := d.timed, counted := d.counted }

/-- The entries popped before a snapshot are freed (R26, R36). -/
def Strand.free (x : Strand) (n : Nat) : Strand :=
  { x with cq := { ents := x.cq.ents.drop n, popped := x.cq.popped - n } }

/-- A completion of the copy strand is added; a zero configuration is BARRIER_CONFIG of its word (R40, R238, R251). -/
def State.addWithheld (s : State) (c : Nat) (w : Withheld) : State :=
  match s.barAdd w.bar 0 w.amount with
  | some s1 => s1
  | none => s.strandFault c 3 14 (word w.word)

/-- The copy strand's release point: completions withheld are added, and transfers under way add theirs when they
complete (R238). -/
def State.releasePoint (s : State) (c : Nat) : State :=
  let ws := (s.core c).data.withheld
  let s1 := s.modData c fun d => { d with withheld := [], xfers := d.xfers.map fun x => { x with late := false } }
  ws.foldl (fun s w => s.addWithheld c w) s1

/-- A snapshot with its read positions at the front of the retained entries. -/
def Snap.rewound (m : Snap) : Snap :=
  { m with vec := { m.vec with popped := 0 }, mat := { m.mat with popped := 0 }, cpy := { m.cpy with popped := 0 } }

/-- A snapshot is the release point of the transfers that issued before its cycle (R238): one of the cycle itself issues again after a
restart. -/
def State.snapPoint (s : State) (c : Nat) : State :=
  let k := s.core c
  let old (n : Nat) : Bool := k.before.isNone || n != k.data.counted
  let s1 := s.modData c fun d =>
    { d with withheld := d.withheld.filter fun w => !old w.cycle, xfers := d.xfers.map fun x => { x with late := x.late && !old x.cycle } }
  (k.data.withheld.filter fun w => old w.cycle).foldl (fun s w => s.addWithheld c w) s1

/-- The core takes snapshot m (R36): retained entries popped before it are freed, and withheld completions added. A second
K word of the cycle takes the same snapshot. -/
def State.takeSnap (s : State) (c : Nat) (m : Snap) : State :=
  (s.modCore c fun k =>
    { k with before := k.before.map Snap.rewound,
             data := { k.data with snap := some m.rewound, vec := k.data.vec.free m.vec.popped,
                                   mat := k.data.mat.free m.mat.popped, cpy := k.data.cpy.free m.cpy.popped } }).snapPoint c

/-- The image of the data side before the first issue of this cycle, kept by the first issue (R36). -/
def State.markCycle (s : State) (c : Nat) : State :=
  s.modCore c fun k => match k.before with
    | some _ => k
    | none => { k with before := some k.data.image }

/-- A strand as a restart restores it (R37): the retained entries wait again. -/
def Strand.restore (x : Strand) (p : StrandSnap) : Strand :=
  { x with pc := p.pc, blocks := p.blocks, src := p.src, base := p.base, held := p.held, atRegion := p.atRegion,
           stopped := false, cq := { x.cq with popped := 0 } }

/-- The data side as a restart restores it (R37): rings, slots, claims, strands, mode; nothing is in flight. -/
def DataSide.restore (d : DataSide) (m : Snap) : DataSide :=
  { d with vec := d.vec.restore m.vec, mat := d.mat.restore m.mat, cpy := d.cpy.restore m.cpy, rings := m.rings,
           slots := m.slots, claims := m.claims, timed := m.timed, counted := m.counted, frozen := false, watch := 0,
           timeoutRaised := false, slotActs := [], withheld := [], arrayQ := [], arrayFree := 0, matQ := [], matFree := 0, accBefore := none }

/-! The engines have drained (R15, R35). -/

/-- No operation that a data strand has issued is still under way. -/
def DataSide.drained (d : DataSide) : Bool :=
  d.vres.isEmpty && d.vloads.isEmpty && d.arrayQ.isEmpty && d.matQ.isEmpty && d.xfers.isEmpty && d.slotActs.isEmpty

/-- Every store of a data strand has been performed (R15). -/
def Core.storesDone (k : Core) : Bool := k.accs.all fun a => decide (a.party < 8)

/-- The core's data engines have drained. -/
def State.dataDrained (s : State) (c : Nat) : Bool := (s.core c).data.drained && (s.core c).storesDone

/-! Blocks (R62, R63). -/

/-- Levels of loops and of `vif.q` around the next word. -/
def loopLevels (bs : List Block) : Nat := (bs.filter fun b => b.kind == .loop || b.kind == .whileLoop).length
def condLevels (bs : List Block) : Nat := (bs.filter fun b => b.kind == .cond).length

/-- The block of LEN words after a construct would end beyond the enclosing block's last word (R63). -/
def overruns (x : Strand) (len : Nat) : Bool :=
  match x.blocks with
  | b :: _ => decide (b.last < x.pc + 8 + 8 * len)
  | [] => false

/-- After a word, the blocks that end at pc close: a loop with repeats left goes to its first word, a while goes to its
head for a re-issue, every other block is left (R62). -/
def closeBlocks (x : Strand) : Nat → Strand
  | 0 => x
  | n + 1 =>
    match x.blocks with
    | [] => x
    | b :: rest =>
      if x.pc ≠ b.last then x
      else match b.kind with
        | .loop => if 1 < b.remain then { x with pc := b.first, blocks := { b with remain := b.remain - 1 } :: rest }
                   else closeBlocks { x with blocks := rest } n
        | .whileLoop => { x with pc := b.head }
        | _ => closeBlocks { x with blocks := rest } n

/-- The strand goes on at pc after a word that issued in counted cycle now (R30). -/
def Strand.goTo (x : Strand) (pc now : Nat) : Strand :=
  let y := { x with pc, base := now + 1, exempt := false }
  closeBlocks y (y.blocks.length + 1)

/-- The next word. -/
def Strand.step (x : Strand) (now : Nat) : Strand := x.goTo (x.pc + 8) now

/-- The strand leaves its innermost loop for a STOP: the word after that loop's body is next (R28); none where no loop
encloses the word. -/
def leaveLoop : List Block → Option (Nat × List Block)
  | [] => none
  | b :: rest => if b.kind == .loop || b.kind == .whileLoop then some (b.last, rest) else leaveLoop rest

/-- The words of LEN after the construct form a skipped block (R62). -/
def Strand.skip (x : Strand) (len now : Nat) : Strand :=
  let y := { x with blocks := { kind := .skip, head := x.pc, first := x.pc + 8, last := x.pc + 8 + 8 * len } :: x.blocks }
  y.goTo (x.pc + 8) now

/-- The block of LEN words after the construct is entered. -/
def Strand.enter (x : Strand) (kind : BlockKind) (len remain now : Nat) : Strand :=
  let y := { x with blocks := { kind, head := x.pc, first := x.pc + 8, last := x.pc + 8 + 8 * len, remain } :: x.blocks }
  y.goTo (x.pc + 8) now

/-- The word lies in a skipped block (R24, R62). -/
def Strand.skipping (x : Strand) : Bool :=
  match x.blocks with
  | b :: _ => b.kind == .skip
  | [] => false

/-! Control queues (R25 to R29). -/

/-- The entry at the head of the queue, not yet popped. -/
def Cq.head (q : Cq) : Option CqEnt := q.ents[q.popped]?

/-- A queue with an entry appended (R26). -/
def Cq.push (q : Cq) (e : CqEnt) : Cq := { q with ents := q.ents ++ [e] }

/-- The queue has a free entry: retained entries count against the 64 (R26). -/
def Cq.room (q : Cq) : Bool := decide (q.ents.length < 64)

/-- `cq.squash` on the entries that wait: those with the tag leave but for REGION entries, and one STOP with the tag stands
where the first of them stood (R29, R212). -/
def squashList (tag : Nat) : Bool → List CqEnt → List CqEnt
  | _, [] => []
  | placed, e :: t =>
    if e.tag == tag && e.ty != 5 then
      (if placed then squashList tag true t else { ty := 6, tag, payload := 0 } :: squashList tag true t)
    else e :: squashList tag placed t

/-- A queue after `cq.squash`. -/
def Cq.squash (q : Cq) (tag : Nat) : Cq := { q with ents := q.ents.take q.popped ++ squashList tag false (q.ents.drop q.popped) }

/-! Issuing a data word. -/

/-- An instruction of a data strand: f gives the next state for the core, the strand and its pc. Nobody else runs it. -/
def asStrand (s : State) (e : Nat) (f : Nat → State) : Out :=
  match s.cur with
  | .strand c e' => if e' = e then .next (f c) else .next s
  | _ => .next s

/-- The strand whose word this is, for a word that every strand has. -/
def asAnyStrand (s : State) (f : Nat → Nat → State) : Out :=
  match s.cur with
  | .strand c e => .next (f c e)
  | _ => .next s

/-- A word issues: with K set the core takes the snapshot of this cycle, as the data side stood before the first
issue in it (R36). -/
def State.issueWord (s : State) (c : Nat) (h : DHdr) : State :=
  let s1 := s.markCycle c
  if h.k then
    match (s1.core c).before with
    | some m => s1.takeSnap c m
    | none => s1
  else s1

/-- An undefined-word fault of strand e (R69). -/
def State.undefinedWord (s : State) (c e : Nat) : State := s.strandFault c e 27 (word (s.strand c e).pc)

/-- The strand goes on at its next word. -/
def State.stepStrand (s : State) (c e : Nat) : State :=
  s.modData c fun d => d.modStrand e fun x => x.step d.counted

/-- A pop of strand e (R27, R28): ok gets the entry's payload; a STOP leaves the innermost loop, or where no loop
encloses the word does none; another type is CQ_TYPE. -/
def State.pop (s : State) (c e : Nat) (types : List Nat) (ok : State → CqEnt → State) (none_ : State → State) : State :=
  match (s.strand c e).cq.head with
  | none => s
  | some ent =>
    let s1 := s.modStrand c e fun x => { x with cq := { x.cq with popped := x.cq.popped + 1 } }
    if ent.ty = 6 then
      match leaveLoop (s.strand c e).blocks with
      | some (pc, rest) => s1.modData c fun d => d.modStrand e fun x => ({ x with blocks := rest }).goTo pc d.counted
      | none => none_ s1
    else if types.contains ent.ty then ok s1 ent
    else s1.strandFault c e 26 (word (s.strand c e).pc)

/-- A pop by a loop word itself: a STOP leaves that word's own loop (R28). -/
def State.popLoop (s : State) (c e ty len : Nat) (ok : State → CqEnt → State) : State :=
  match (s.strand c e).cq.head with
  | none => s
  | some ent =>
    let s1 := s.modStrand c e fun x => { x with cq := { x.cq with popped := x.cq.popped + 1 } }
    if ent.ty = 6 then s1.modData c fun d => d.modStrand e fun x => x.goTo (x.pc + 8 + 8 * len) d.counted
    else if ent.ty = ty then ok s1 ent
    else s1.strandFault c e 26 (word (s.strand c e).pc)

/-! The shared words (R62). -/

/-- `nop`. -/
def sharedNop (h : DHdr) (s : State) : Out :=
  asAnyStrand s fun c e => (s.issueWord c h).stepStrand c e

/-- `rim` of a data strand: it stops and becomes held; its next word is the word after it (R15). It is a release point of
the copy strand (R238). Inside a block it is undefined (R63). -/
def execDataRim (h : DHdr) (s : State) : Out :=
  asAnyStrand s fun c e =>
    if !(s.strand c e).blocks.isEmpty then s.undefinedWord c e
    else
      let s1 := (s.issueWord c h).stepStrand c e
      let s2 := if e = 3 then s1.releasePoint c else s1
      s2.modStrand c e fun x => { x with held := true }

/-- `region`: pops a REGION entry of the same mode and waits for the crossing (R35); MODE 1 is interlocked. It is a release point of the
copy strand, also where a STOP makes it none (R28, R238). -/
def execDataRegion (h : DHdr) (mode : Nat) (s : State) : Out :=
  asAnyStrand s fun c e =>
    if !(s.strand c e).blocks.isEmpty then s.undefinedWord c e
    else
      (s.issueWord c h).pop c e [5]
        (fun s ent =>
          if ent.payload % 2 = mode then
            let s1 := s.stepStrand c e
            let s2 := if e = 3 then s1.releasePoint c else s1
            s2.modStrand c e fun x => { x with atRegion := some (mode == 0) }
          else s.strandFault c e 26 (word (s.strand c e).pc))
        (fun s => if e = 3 then (s.stepStrand c e).releasePoint c else s.stepStrand c e)

/-- `vloop.q` and its counterparts (R62, R63). -/
def loopWord (h : DHdr) (len : Nat) (s : State) : Out :=
  asAnyStrand s fun c e =>
    let x := s.strand c e
    if overruns x len || decide (2 ≤ loopLevels x.blocks) then s.undefinedWord c e
    else
      (s.issueWord c h).popLoop c e 0 len fun s ent =>
        let n := ent.payload % 2 ^ 32
        s.modData c fun d => d.modStrand e fun x => if n = 0 then x.skip len d.counted else x.enter .loop len n d.counted

/-- The word is a re-issue of its own `vwhile.q`. -/
def reissue (x : Strand) : Bool :=
  match x.blocks with
  | b :: _ => b.kind == .whileLoop && b.head == x.pc
  | [] => false

/-- `vwhile.q` and its counterparts (R62, R63). -/
def whileWord (h : DHdr) (len : Nat) (s : State) : Out :=
  asAnyStrand s fun c e =>
    let x := s.strand c e
    let again := reissue x
    if !again && (overruns x len || decide (2 ≤ loopLevels x.blocks)) then s.undefinedWord c e
    else
      let s1 := s.issueWord c h
      let s2 := if again then s1.modStrand c e fun x => { x with blocks := x.blocks.drop 1 } else s1
      s2.popLoop c e 1 len fun s ent =>
        s.modData c fun d => d.modStrand e fun x =>
          if ent.payload % 2 = 1 then x.enter .whileLoop len 0 d.counted
          else if again then x.goTo (x.pc + 8 + 8 * len) d.counted
          else x.skip len d.counted

/-- `vif.q` and its counterparts (R62, R63). -/
def ifWord (h : DHdr) (len : Nat) (s : State) : Out :=
  asAnyStrand s fun c e =>
    let x := s.strand c e
    if overruns x len || decide (2 ≤ condLevels x.blocks) then s.undefinedWord c e
    else
      (s.issueWord c h).pop c e [1]
        (fun s ent => s.modData c fun d => d.modStrand e fun x =>
          if ent.payload % 2 = 1 then x.enter .cond len 0 d.counted else x.skip len d.counted)
        (fun s => s.modData c fun d => d.modStrand e fun x => x.skip len d.counted)

/-- An address register of a strand: x registers are read and written at issue. -/
def Strand.xreg (x : Strand) (n : Nat) : Word := tget 0#64 x.x n

def Strand.setX (x : Strand) (n : Nat) (v : Word) : Strand := { x with x := tput x.x n v }

/-- `vval.q` and its counterparts. -/
def valWord (h : DHdr) (xd : Nat) (s : State) : Out :=
  asAnyStrand s fun c e =>
    (s.issueWord c h).pop c e [4]
      (fun s ent => (s.modStrand c e fun x => x.setX xd (word (ent.payload % 2 ^ 64))).stepStrand c e)
      (fun s => s.stepStrand c e)

/-- The value of an LVID register (R11). -/
def Lvid.value (v : Lvid) : Word :=
  if v.valid then word (2 ^ 36 * v.scope + 2 ^ 35 + 2 ^ 32 * v.domain + 2 ^ 16 * v.count + v.index) else 0#64

/-- `vxset` and its counterparts: an immediate, or a level's INDEX or COUNT. val holds IMM25, or LEVEL. -/
def xsetWord (h : DHdr) (xd src val : Nat) (s : State) : Out :=
  asAnyStrand s fun c e =>
    let l : Lvid := tget {} (s.core c).lvid val
    let v := match src with
      | 0 => sext64 25 val
      | 1 => word (if l.valid then l.index else 0)
      | _ => word (if l.valid then l.count else 0)
    ((s.issueWord c h).modStrand c e fun x => x.setX xd v).stepStrand c e

/-- `vxadd` and its counterparts. -/
def xaddWord (h : DHdr) (xa xd imm : Nat) (s : State) : Out :=
  asAnyStrand s fun c e =>
    ((s.issueWord c h).modStrand c e fun x => x.setX xd (x.xreg xa + sext64 28 imm)).stepStrand c e

def execDataNop (h : DHdr) (s : State) : Out := sharedNop h s

def execVloopQ (h : DHdr) (len : Nat) (s : State) : Out := loopWord h len s
def execVwhileQ (h : DHdr) (len : Nat) (s : State) : Out := whileWord h len s
def execVifQ (h : DHdr) (len : Nat) (s : State) : Out := ifWord h len s
def execVvalQ (h : DHdr) (xd : Nat) (s : State) : Out := valWord h xd s
def execVxset (h : DHdr) (xd src val : Nat) (s : State) : Out := xsetWord h xd src val s
def execVxadd (h : DHdr) (xa xd imm : Nat) (s : State) : Out := xaddWord h xa xd imm s
def execMloopQ (h : DHdr) (len : Nat) (s : State) : Out := loopWord h len s
def execMwhileQ (h : DHdr) (len : Nat) (s : State) : Out := whileWord h len s
def execMifQ (h : DHdr) (len : Nat) (s : State) : Out := ifWord h len s
def execMvalQ (h : DHdr) (xd : Nat) (s : State) : Out := valWord h xd s
def execMxset (h : DHdr) (xd src val : Nat) (s : State) : Out := xsetWord h xd src val s
def execMxadd (h : DHdr) (xa xd imm : Nat) (s : State) : Out := xaddWord h xa xd imm s
def execCpLoopQ (h : DHdr) (len : Nat) (s : State) : Out := loopWord h len s
def execCpWhileQ (h : DHdr) (len : Nat) (s : State) : Out := whileWord h len s
def execCpIfQ (h : DHdr) (len : Nat) (s : State) : Out := ifWord h len s
def execCpValQ (h : DHdr) (xd : Nat) (s : State) : Out := valWord h xd s
def execCpXset (h : DHdr) (xd src val : Nat) (s : State) : Out := xsetWord h xd src val s
def execCpXadd (h : DHdr) (xa xd imm : Nat) (s : State) : Out := xaddWord h xa xd imm s

/-- All 1,024 cells. -/
def allCells : Nat := 2 ^ 1024 - 1

/-- The mask that a MASK entry names (R25): bit 64i + j is cell (i, j). -/
def maskOf (ent : CqEnt) : Nat :=
  if ent.ty = 2 then
    (span 0 16).foldl (fun m i => m + (2 ^ min 64 (fld ent.payload (7 * i) 7) - 1) * 2 ^ (64 * i)) 0
  else
    (span 0 16).foldl (fun m i => m + (if ent.payload.testBit (64 + i) then ent.payload % 2 ^ 64 else 0) * 2 ^ (64 * i)) 0

/-- `vmask.q`: the mask is built in the issue cycle and is read as new from the next one on (R25, R268, R291). -/
def execVmaskQ (h : DHdr) (kd : Nat) (s : State) : Out :=
  asStrand s 1 fun c =>
    (s.issueWord c h).pop c 1 [2, 3]
      (fun s ent => (s.modData c fun d => { d with seq := d.seq + 1, vres := d.vres ++
        [{ due := d.counted + 1, seq := d.seq, target := .mreg kd, mask := allCells, val := maskOf ent }] }).stepStrand c 1)
      (fun s => s.stepStrand c 1)

/-- A word of a skipped block does nothing but spend its idle count (R24, R62). -/
def State.skipWord (s : State) (c e : Nat) : State := (s.markCycle c).stepStrand c e

end Sys2Proof.Machine
end

