-- ==== Sys2Proof/Machine/Jobs.lean ====
section
/-! DEFINITION. The control slice's instructions for control queues, jobs, tasks, barriers, events and system registers
(R13 to R17, R210 to R221, R227), and the events that end their waits. -/

namespace Sys2Proof.Machine

/-! Control-queue sends (R210 to R213). -/

/-- The types of entries (R25). -/
def tyCount : Nat := 0
def tyOut : Nat := 1
def tyRowlen : Nat := 2
def tyBits : Nat := 3
def tyVal : Nat := 4
def tyRegion : Nat := 5

/-- A send or squash to an engine that is not a named strand: task 0 traps precisely, another task's is asynchronous
(R13, R211). -/
def strandAbsent (h : CHdr) (s : State) (c t : Nat) : State :=
  let at_ := wordAt h (s.task c t).pc
  if t = 0 then s.trap c t 24 at_ else (s.asyncFault c 24 t at_ at_.toNat).goOn c t (ctlLen h 1)

/-- A send of one entry; without a free entry the task is passed over (R26, R210). -/
def send (h : CHdr) (eng tag ty : Nat) (payload : Nat → Nat → Nat) (s : State) : Out :=
  asTask s fun c t =>
    if !(s.core c).data.names eng then strandAbsent h s c t
    else if !(s.strand c eng).cq.room then s
    else (s.modStrand c eng fun x => { x with cq := x.cq.push { ty, tag, payload := payload c t } }).goOn c t (ctlLen h 1)

def execCqCount (h : CHdr) (eng a tag : Nat) (s : State) : Out :=
  send h eng tag tyCount (fun c t => bits (s.reg c t a) 0 32) s

def execCqOut (h : CHdr) (eng a tag : Nat) (s : State) : Out :=
  send h eng tag tyOut (fun c t => bit (s.reg c t a != 0#64)) s

def execCqMrow (h : CHdr) (eng a b tag : Nat) (s : State) : Out :=
  send h eng tag tyRowlen (fun c t => (s.reg c t a).toNat + 2 ^ 64 * bits (s.reg c t b) 0 48) s

def execCqMbits (h : CHdr) (eng a b tag : Nat) (s : State) : Out :=
  send h eng tag tyBits (fun c t => (s.reg c t a).toNat + 2 ^ 64 * bits (s.reg c t b) 0 16) s

def execCqVal (h : CHdr) (eng a tag : Nat) (s : State) : Out :=
  send h eng tag tyVal (fun c t => (s.reg c t a).toNat) s

/-- `cq.region`: to every named data strand in one cycle, once each has a free entry (R210). -/
def execCqRegion (h : CHdr) (mode : Nat) (s : State) : Out :=
  asTask s fun c t =>
    let d := (s.core c).data
    let ok (x : Strand) : Bool := !x.named || x.cq.room
    let put (x : Strand) : Strand := if x.named then { x with cq := x.cq.push { ty := tyRegion, tag := 0, payload := mode } } else x
    if ok d.vec && ok d.mat && ok d.cpy then
      (s.modData c fun d => { d with vec := put d.vec, mat := put d.mat, cpy := put d.cpy }).goOn c t (ctlLen h 1)
    else s

/-- `cq.squash` (R29, R212). -/
def execCqSquash (h : CHdr) (eng tag : Nat) (s : State) : Out :=
  asTask s fun c t =>
    if !(s.core c).data.names eng then strandAbsent h s c t
    else (s.modStrand c eng fun x => { x with cq := x.cq.squash tag }).goOn c t (ctlLen h 1)

/-! System registers (R188). -/

/-- The code of a strand in DSTRAND: 0 not named, 1 held, 2 running, 3 stopped. -/
def strandCode (x : Strand) : Nat := if !x.named then 0 else if x.stopped then 3 else if x.held then 1 else 2

/-- DSTRAND. -/
def DataSide.dstrand (d : DataSide) : Word :=
  word (2 ^ 7 * bit d.timed + 2 ^ 6 * bit d.frozen + 2 ^ 4 * strandCode d.cpy + 2 ^ 2 * strandCode d.mat + strandCode d.vec)

/-- The code of a task's state in TASKS; every task of a frozen core is held (R479). -/
def taskCode (x : Task) : Nat :=
  match x.st with
  | .free => 0
  | .ready => 1
  | .parked => 2

/-- TASKS. -/
def Core.tasksWord (k : Core) : Word :=
  word ((span 0 8).foldl (fun n t => n + 2 ^ (2 * t) * (if k.frozen.isSome then 3 else taskCode (k.task t))) 0)

/-- TSTAT: TIN, and for task 0 PEND (R188, R225). -/
def Core.tstat (k : Core) (t : Nat) : Word :=
  let x := k.task t
  word (2 * bit (t == 0 && (k.dfault.isSome || !k.afaults.isEmpty)) + bit x.tin)

/-- `sysr` of register n by task t; none for a reserved number. -/
def sysRead (s : State) (c t n : Nat) : Option Word :=
  let k := s.core c
  let x := k.task t
  match n with
  | 0x00 => some x.fpm
  | 0x01 => some k.srkey
  | 0x02 => some k.numchk
  | 0x03 => some k.rctl
  | 0x04 => some (word t)
  | 0x05 => some (word c)
  | 0x06 => some (word s.time)
  | 0x07 => some (word k.cycle)
  | 0x08 => some k.tvec
  | 0x09 => some x.tcause
  | 0x0A => some x.tpc
  | 0x0B => some x.tval
  | 0x0C => some (k.tstat t)
  | 0x0D => some k.tasksWord
  | 0x0E => some k.data.dstrand
  | 0x0F => some k.istat
  | 0x18 => some (word (k.ctxno % 2 ^ 16))
  | _ => if 0x10 ≤ n ∧ n ≤ 0x17 then some (Lvid.value (tget {} k.lvid (n - 0x10))) else none

/-- `sysw` of register n; none for a reserved number, a read-only register, or a value the register refuses. -/
def sysWrite (s : State) (c t n : Nat) (v : Word) : Option State :=
  match n with
  | 0x00 => if 6 ≤ bits v 0 3 then none else some (s.modTask c t fun x => { x with fpm := word (bits v 0 4) })
  | 0x01 => some (s.modCore c fun k => { k with srkey := v })
  | 0x02 => some (s.modCore c fun k => { k with numchk := word (bits v 0 48) })
  | 0x03 => some (s.modCore c fun k => { k with rctl := word (bits v 0 16) })
  | 0x08 => if bits v 0 2 ≠ 0 then none else some (s.modCore c fun k => { k with tvec := v })
  | 0x09 => some (s.modTask c t fun x => { x with tcause := word (bits v 0 14) })
  | 0x0A => if bits v 0 2 ≠ 0 then none else some (s.modTask c t fun x => { x with tpc := v })
  | 0x0B => some (s.modTask c t fun x => { x with tval := v })
  | 0x0C => some (s.modTask c t fun x => { x with tin := bits v 0 1 == 1 })
  | 0x0F => some (s.modCore c fun k => { k with istat := v })
  | _ => none

/-- The first 32 bits of an instruction's own word, for TVAL of ILLEGAL (R224). -/
def ownWord (h : CHdr) (i : Instr) : Word := word ((encode i).getD (if h.pfx.isSome then 1 else 0) 0)

/-- `sysr` (R221). -/
def execSysr (h : CHdr) (d n : Nat) (s : State) : Out :=
  asTask s fun c t =>
    match sysRead s c t n with
    | some v => s.result c t d v 1 (ctlLen h 1)
    | none => s.trap c t 1 (ownWord h (.sysr h d n))

/-- `sysw` (R221). -/
def execSysw (h : CHdr) (n a : Nat) (s : State) : Out :=
  asTask s fun c t =>
    match sysWrite s c t n (s.reg c t a) with
    | some s1 => s1.goOn c t (ctlLen h 1)
    | none => s.trap c t 1 (ownWord h (.sysw h n a))

/-! Jobs (R13 to R16). -/

/-- A strand that `go` releases: its next word issues its idle count after the counted cycle of the `go` (R30). -/
def releaseStrand (now : Nat) (x : Strand) : Strand := if x.named then { x with held := false, base := now } else x

/-- `go` (R14, R21, R36): every held strand starts, counted timing begins, and a snapshot is taken. -/
def execGo (h : CHdr) (s : State) : Out :=
  asTask s fun c t =>
    let k := s.core c
    if t ≠ 0 ∨ k.data.allHeld = false then s.trap c t 9 k.data.dstrand
    else match failingRing k with
      | some n => s.trap c t 25 (word n)
      | none =>
        let s1 := s.modCore c fun k => { k with before := none, data :=
          { k.data with vec := releaseStrand k.data.counted k.data.vec, mat := releaseStrand k.data.counted k.data.mat,
                        cpy := releaseStrand k.data.counted k.data.cpy, frozen := false, watch := 0, timeoutRaised := false, started := true } }
        (s1.takeSnap c (s1.core c).data.image).goOn c t (ctlLen h 1)

/-- `rim`: task 0 parks until every named strand is held and the engines have drained (R15). -/
def execRim (h : CHdr) (s : State) : Out :=
  asTask s fun c t => if t ≠ 0 then s.trap c t 10 0#64 else s.park c t .rim (.rim h) (ctlLen h 1)

/-- RIM_RENDEZVOUS: the `rim` of task 0 completes, an acquire at core scope for all data-strand stores (R15).
A named strand still held at its start word counts as held (assumption 89). -/
def execRimRendezvous (c : Nat) (s : State) : Out :=
  match s.waitOf c 0 with
  | some w =>
    if w.what == .rim && (s.core c).data.allHeld && s.dataDrained c && !s.isFrozen c then .next ((s.acquire c 1).wake c 0)
    else .next s
  | none => .next s

/-- `jend` (R16): task 0 parks until every outstanding request of every task completes; before any `go` it is no wrong go state
(assumption 90). -/
def execJend (h : CHdr) (s : State) : Out :=
  asTask s fun c t =>
    if t ≠ 0 then s.trap c t 10 0#64
    else if (s.core c).data.allHeld = false then s.trap c t 9 (s.core c).data.dstrand
    else s.park c t .jend (.jend h) (ctlLen h 1)

/-! Tasks (R17, R215, R216). -/

/-- The lowest-numbered free task context. -/
def Core.freeTask (k : Core) : Option Nat := firstWhere (fun t => (k.task t).st == .free) (span 0 8)

/-- `tspawn` (R215). -/
def execTspawn (h : CHdr) (d a off : Nat) (s : State) : Out :=
  asTask s fun c t =>
    let target := wordAt h (s.task c t).pc + 4#64 * sext64 32 off
    let ok :=
      match (s.core c).freeTask with
      | none => s.result c t d (BitVec.allOnes 64) 1 (ctlLen h 2)
      | some n =>
        let x : Task := { st := .ready, regs := [(1, s.reg c t a)], pc := target, fpm := (s.task c t).fpm, notBefore := (s.core c).cycle + 2,
                          uid := s.nextId }
        (s.fresh.modCore c fun k => k.setTask n x).result c t d (word n) 1 (ctlLen h 2)
    transfer s c t target ok

/-- `texit` (R216): stores issued are still performed, replies of loads are discarded. -/
def execTexit (h : CHdr) (s : State) : Out :=
  let _ := h
  asTask s fun c t =>
    if t = 0 then s.trap c t 10 0#64
    else s.modCore c fun k =>
      { k.setTask t {} with accs := k.accs.map fun a => if a.party == t then { a with dest := .none, orphan := true } else a }

/-! Barriers and events (R217, R218). -/

/-- A barrier named by the address in register a (R217): the checks in the order of R223; ok gets the barrier. -/
def withBarrier (s : State) (c t a : Nat) (needConfig : Bool) (ok : BarId → State) : State :=
  let va := s.reg c t a
  if va.toNat % 16 ≠ 0 then s.trap c t 6 va
  else match translate (s.core c).seg .rd va.toNat with
    | .bad st => s.fatal c t 0 st (s.task c t).pc va
    | .ok pa _ =>
      match barAt pa with
      | none => s.trap c t 8 va
      | some (b, _) =>
        if !s.barAllocated c b then s.trap c t 13 va
        else if needConfig && (s.barrier b).unset then s.trap c t 14 va
        else ok b

/-- `bara`: parks until its arrival, a release at the domain's scope, is applied (R143, R217). -/
def execBara (h : CHdr) (d a : Nat) (s : State) : Out :=
  asTask s fun c t =>
    withBarrier s c t a false fun b =>
      let id := s.nextId
      let x : Access := { id, party := t, kind := .arrival b, space := .core, va := (s.reg c t a).toNat, pa := 0, n := 0, scope := barScope b, rel := true, dest := .reg d false }
      (s.taskAccess c t x).park c t (.arrival id) (.bara h d a) (ctlLen h 1)

/-- `barw`: completes where PHASE already differs, else parks until it changes; an acquire at the domain's scope
(R143, R217). -/
def execBarw (h : CHdr) (a b : Nat) (s : State) : Out :=
  asTask s fun c t =>
    withBarrier s c t a true fun bar =>
      let ph := bits (s.reg c t b) 0 1 == 1
      if (s.barrier bar).phase != ph then (s.acquire c (barScope bar)).goOn c t (ctlLen h 1)
      else s.park c t (.flip bar ph) (.barw h a b) (ctlLen h 1)

/-- `evs`: a signal sets out (R42, R218). -/
def execEvs (h : CHdr) (a : Nat) (s : State) : Out :=
  asTask s fun c t =>
    let v := s.reg c t a
    if v.toNat / 2 ^ 18 ≠ 0 then s.trap c t 19 v
    else (s.post (evTarget v.toNat).1 (evTarget v.toNat).2 ((s.weaveOf c).map fun w => w.id) (s.core c).ctxno none).goOn c t (ctlLen h 1)

/-- `evw`: takes a signal, or parks where the count is 0 (R42, R218, R259). -/
def execEvw (h : CHdr) (a : Nat) (s : State) : Out :=
  asTask s fun c t =>
    let v := s.reg c t a
    let slot := v.toNat % 32
    if v.toNat / 2 ^ 5 ≠ 0 then s.trap c t 19 v
    else if (tget {} (s.core c).events slot).count = 0 then s.park c t (.event slot) (.evw h a) (ctlLen h 1)
    else ((s.modCore c fun k => k.takeSignal slot).acquire c (tget 0 (s.core c).evAcq slot)).goOn c t (ctlLen h 1)

/-! `restart` (R37, R220). -/

/-- `restart`: task 0 parks while the running strands stop and what is in flight completes. -/
def execRestart (h : CHdr) (s : State) : Out :=
  asTask s fun c t =>
    let d := (s.core c).data
    if t ≠ 0 then s.trap c t 10 0#64
    else match d.snap with
      | none => s.trap c t 9 d.dstrand
      | some _ =>
        let run := d.vec.running || d.mat.running || d.cpy.running
        let s1 := if run then s.stopData c else s
        (s1.park c t .restart (.restart h) (ctlLen h 1)).modWait c t fun w => { w with acted := true }

/-- Nothing that a data strand issued is in flight: array and queue words that have not started do nothing (R69,
R292), so a release that waits for one of them is no more awaited than it. -/
def DataSide.landed (d : DataSide) : Bool :=
  d.vres.isEmpty && d.vloads.isEmpty && d.xfers.isEmpty && d.slotActs.all (fun a => a.release) && d.matQ.all (fun m => m.start.isNone)

/-- The restart of core c is carried out (R37, R220): the job is restored from its snapshot, the watchdog cleared, the
pending data-strand fault discarded. -/
def State.finishRestart (s : State) (c : Nat) : State :=
  match (s.core c).data.snap with
  | none => s
  | some m =>
    if (s.core c).data.landed then
      (s.modCore c fun k => { k with before := none, dfault := none, dmet := false, data := k.data.restore m }).wake c 0
    else s

/-! Traps by instruction (R227). -/

/-- `trap`: SOFT, with TPC at the word after it. -/
def execTrap (h : CHdr) (a : Nat) (s : State) : Out :=
  asTask s fun c t =>
    let pc := (s.task c t).pc
    s.trapAt c t 22 (pc + BitVec.ofNat 64 (ctlLen h 1)) (s.reg c t a) pc

/-- `brk`: BREAK, or with debug enabled the halt wave. -/
def execBrk (h : CHdr) (s : State) : Out :=
  asTask s fun c t =>
    let pc := (s.task c t).pc
    s.trapAt c t 23 (pc + BitVec.ofNat 64 (ctlLen h 1)) 0#64 pc

/-- `tret`: TIN becomes 0 and the task goes on at TPC, with no landing test. -/
def execTret (h : CHdr) (s : State) : Out :=
  let _ := h
  asTask s fun c t =>
    if (s.task c t).tin then
      let cyc := (s.core c).cycle
      s.modTask c t fun x => { x with tin := false, pc := x.tpc, notBefore := cyc + 2 }
    else s.trap c t 10 0#64

/-! Region crossings (R35). -/

/-- The mode in which every named strand waits at its region word, if they all do and no fault has stopped one (R69). -/
def DataSide.crossing (d : DataSide) : Option Bool :=
  let xs := [d.vec, d.mat, d.cpy].filter fun x => x.named
  match xs with
  | [] => none
  | x :: _ => match x.atRegion with
    | none => none
    | some m => if xs.all fun y => y.atRegion == some m && !y.stopped then some m else none

/-- A strand begins a new mode. -/
def crossStrand (now : Nat) (x : Strand) : Strand := { x with atRegion := none, base := now }

/-- REGION_CROSSING_COMPLETE: every strand has reached its region word and the engines have drained; all start the new
mode together, counted timing restarts and a snapshot is taken (R35, R36). The strands of a job that is being pre-empted stay at their
region words until it resumes (R12, R177). -/
def execRegionCrossingComplete (c : Nat) (s : State) : Out :=
  let d := (s.core c).data
  match d.crossing with
  | none => .next s
  | some m =>
    if s.dataDrained c && !s.isFrozen c && !s.stopped c && !d.frozen then
      let s1 := s.modCore c fun k => { k with before := none, data :=
        { k.data with timed := m, vec := crossStrand k.data.counted k.data.vec, mat := crossStrand k.data.counted k.data.mat,
                      cpy := crossStrand k.data.counted k.data.cpy } }
      .next (s1.takeSnap c (s1.core c).data.image)
    else .next s

end Sys2Proof.Machine
end

