-- ==== Sys2Proof/Machine/Copy.lean ====
section
/-! DEFINITION. The copy engine (R230 to R252): transfers between spaces, fills and drains of rings with conversion,
transposes, and how their bytes move. A unit is the smallest part of a transfer whose two sides are whole 32-byte
sectors; its bytes are read and written in accesses of 16 bytes (R145). -/

namespace Sys2Proof.Machine

/-- The core-store bytes a data engine may touch: while a `phase` is in progress, not the moved region (R127). -/
def Core.dataTop (k : Core) : Nat :=
  match k.phase with
  | some p => min k.scratchTop (0x400000 - shareBytes p.code)
  | none => k.scratchTop

/-- A fault of the copy strand at a word (R251, R252). -/
def copyFault (s : State) (c code : Nat) (va : Nat := 0) : State := s.strandFault c 3 code (word (s.strand c 3).pc) va

/-! The shape registers (R233). -/

/-- The shape of a transfer: units and bytes moved. The units carry addresses before the swizzle. -/
structure Shape where
  secs : List Sector
  moved : Nat
  ss : Nat := 0
  ds : Nat := 0
  u : Nat := 0
  ixSrc : Bool := false

/-- n bytes in a row as units numbered from no. -/
def rowUnits (no src dst n : Nat) : List Sector :=
  (span 0 (n / 32)).map fun i => { no := no + i, src := (src + 32 * i) % 2 ^ 64, dst := (dst + 32 * i) % 2 ^ 64 }

/-- The fields of a shape register are clear but for the listed bits. -/
def clearBut (w : Nat) (mask : Nat) : Bool := w &&& (2 ^ 64 - 1 - mask) == 0

/-- SS and DS are 0 on a side that is not the core store (R233). -/
def swizzlesOk (x : DX) (ss ds : Nat) : Bool := (x.ssp == 0 || ss == 0) && (x.dsp == 0 || ds == 0)

/-- The shape of `cp.lin` and `cp.rcopy`; none is COPY_SHAPE. -/
def shapeLin (x : DX) (xd xs xn : Nat) : Option Shape :=
  let n := fld xn 0 40
  if clearBut xn (2 ^ 40 - 1 + 2 ^ 58 * 63) && n % 32 == 0 && swizzlesOk x (fld xn 61 3) (fld xn 58 3) then
    some { secs := rowUnits 0 xs xd n, moved := n, ss := fld xn 61 3, ds := fld xn 58 3 }
  else none

/-- A signed 32-bit pitch times a row number, modulo 2^64. -/
def rowAt (base pitch r : Nat) : Nat :=
  let p : Int := signedOf 32 pitch
  patternOf 64 ((base : Int) + r * p)

/-- The shape of `cp.2d`. -/
def shape2d (x : DX) (xd xs xn xn1 : Nat) : Option Shape :=
  let rb := fld xn 0 20
  let rows := fld xn 20 20
  let sp := fld xn1 0 32
  let dp := fld xn1 32 32
  if clearBut xn (2 ^ 40 - 1 + 2 ^ 58 * 63) && rb % 32 == 0 && sp % 32 == 0 && dp % 32 == 0
      && swizzlesOk x (fld xn 61 3) (fld xn 58 3) then
    some { secs := (span 0 rows).flatMap fun r => rowUnits (r * (rb / 32)) (rowAt xs sp r) (rowAt xd dp r) rb,
           moved := rows * rb, ss := fld xn 61 3, ds := fld xn 58 3 }
  else none

/-- The shape of `cp.gth` (src) and `cp.sct`: each unit of 32 · 2^U bytes has the index at IDX + 4k. -/
def shapeIndexed (src : Bool) (x : DX) (xd xs xn : Nat) : Option Shape :=
  let cnt := fld xn 0 24
  let u := 32 * 2 ^ fld xn 24 3
  let idx := fld xn 27 22
  if clearBut xn (2 ^ 49 - 1 + 2 ^ 58 * 63) && idx % 4 == 0 && swizzlesOk x (fld xn 61 3) (fld xn 58 3) then
    some { secs := (span 0 cnt).flatMap fun k =>
             (rowUnits (k * (u / 32)) (if src then xs else (xs + k * u) % 2 ^ 64) (if src then (xd + k * u) % 2 ^ 64 else xd) u).map
               fun q => { q with ix := some (idx + 4 * k) },
           moved := cnt * u, ss := fld xn 61 3, ds := fld xn 58 3, u, ixSrc := src }
  else none

/-- The shape of `cp.set`: the bytes of every unit are the pattern. -/
def shapeSet (x : DX) (xd pattern xn : Nat) : Option Shape :=
  let n := fld xn 0 40
  let bs := bytesOfNum 8 pattern
  if clearBut xn (2 ^ 40 - 1 + 2 ^ 58 * 7) && n % 32 == 0 && (x.dsp == 0 || fld xn 58 3 == 0) then
    some { secs := (rowUnits 0 0 xd n).map fun q => { q with st := .read, bytes := setBytes [] 0 (bs ++ bs ++ bs ++ bs) },
           moved := n, ds := fld xn 58 3 }
  else none

/-- The core store as transfer id finds it: with the writes of the strand's earlier transfers that are not yet performed (R139, R249). -/
def Core.copyStore (k : Core) (id : Nat) : Bytes :=
  (k.accs.filter fun a => a.party == 10 && a.kind == .store && a.space == .core && a.waiting && a.xfer != id).foldl
    (fun m a => setCells m a.data) k.scratch

/-! The checks at issue (R234). -/

/-- The index of a unit, read from the core store (R235). -/
def unitIndex (scratch : Bytes) (q : Sector) : Nat :=
  match q.ix with
  | some a => numBytes (bytesAt scratch a 4)
  | none => 0

/-- The source and destination address of a unit with its index, modulo 2^64. -/
def unitSrc (scratch : Bytes) (x : Xfer) (q : Sector) : Nat := if x.ixSrc then (q.src + unitIndex scratch q * x.u) % 2 ^ 64 else q.src
def unitDst (scratch : Bytes) (x : Xfer) (q : Sector) : Nat :=
  if q.ix.isSome && !x.ixSrc then (q.dst + unitIndex scratch q * x.u) % 2 ^ 64 else q.dst

/-- The alignment of the row starts and unit addresses of a transfer: 32 bytes (R234). -/
def unitsAligned (x : Xfer) : Bool := x.secs.all fun q => q.src % 32 == 0 && q.dst % 32 == 0

/-- The first unit address of a transfer that is not aligned. -/
def misaligned (x : Xfer) : Nat :=
  match firstWhere (fun (q : Sector) => q.src % 32 != 0 || q.dst % 32 != 0) x.secs with
  | some q => if q.src % 32 = 0 then q.dst else q.src
  | none => 0

/-- The core-store sides of a transfer, and its index array, lie below top, and the address registers hold no bit above
the core store's 22 (R234). -/
def unitsInStore (scratch : Bytes) (top : Nat) (x : Xfer) (fixed : Bool) : Bool :=
  x.secs.all fun q =>
    (match q.ix with | some a => decide (a + 4 ≤ top) | none => true)
    && (fixed || x.ssp != 0 || (decide (q.src < 2 ^ 22) && decide (unitSrc scratch x q + q.rn ≤ top)))
    && (x.dsp != 0 || (decide (q.dst < 2 ^ 22) && decide (unitDst scratch x q + q.wn ≤ top)))

/-- A barrier address of the copy strand, checked as `barw` checks it (R217, R234): the barrier, a fault, or a fatal
context error. -/
inductive BarCheck where
  | ok (b : BarId)
  | fault (code : Nat)
  | fatal (status : Nat)

def State.checkBarrier (s : State) (c va : Nat) : BarCheck :=
  if va % 16 ≠ 0 then .fault 6
  else match translate (s.core c).seg .rd va with
    | .bad st => .fatal st
    | .ok pa _ =>
      match barAt pa with
      | none => .fault 8
      | some (b, _) => if !s.barAllocated c b then .fault 13 else if (s.barrier b).unset then .fault 14 else .ok b

/-- A transfer enters the core's list and the strand goes on (R234). -/
def State.startXfer (s : State) (c : Nat) (h : DHdr) (x : Xfer) : State :=
  let s1 := s.issueWord c h
  ((s1.modData c fun d => { d with xfers := d.xfers ++ [{ x with id := s1.nextId, pc := d.cpy.pc, cycle := d.counted }] }).fresh).stepStrand c 3

/-- A transfer word (R232 to R235): the checks in their order, then the transfer starts. fixed is a fill pattern in place
of a source. -/
def transferWord (h : DHdr) (x : DX) (fixed : Bool) (shape : Nat → Option Shape) (s : State) : Out :=
  asStrand s 3 fun c =>
    let k := s.core c
    match shape c with
    | none => copyFault s c 32
    | some sh =>
      let y : Xfer := { id := 0, pc := 0, ssp := x.ssp, dsp := x.dsp, ssw := sh.ss, dsw := sh.ds, scope := x.scope, wscope := x.scope,
                        secs := sh.secs, moved := sh.moved, u := sh.u, ixSrc := sh.ixSrc }
      if sh.moved ≠ 0 ∧ unitsAligned y = false then copyFault s c 6 (misaligned y)
      else if sh.moved ≠ 0 ∧ unitsInStore k.scratch k.dataTop y fixed = false then copyFault s c 7
      else if x.cen then
        let va := (k.data.cpy.xreg x.xb).toNat
        match s.checkBarrier c va with
        | .fault code => copyFault s c code va
        | .fatal st => s.fatal c 0 3 st (word k.data.cpy.pc) (word va)
        | .ok b => s.startXfer c h { y with bar := some (b, va), wscope := max x.scope (barScope b) }
      else s.startXfer c h y

/-- A register of the copy strand, as a number. -/
def xOf (s : State) (c n : Nat) : Nat := ((s.strand c 3).xreg n).toNat

def execCpLin (h : DHdr) (x : DX) (s : State) : Out :=
  transferWord h x false (fun c => shapeLin x (xOf s c x.xd) (xOf s c x.xs) (xOf s c x.xn)) s

def execCp2d (h : DHdr) (x : DX) (s : State) : Out :=
  transferWord h x false (fun c => shape2d x (xOf s c x.xd) (xOf s c x.xs) (xOf s c x.xn) (xOf s c (x.xn + 1))) s

def execCpGth (h : DHdr) (x : DX) (s : State) : Out :=
  transferWord h x false (fun c => shapeIndexed true x (xOf s c x.xd) (xOf s c x.xs) (xOf s c x.xn)) s

def execCpSct (h : DHdr) (x : DX) (s : State) : Out :=
  transferWord h x false (fun c => shapeIndexed false x (xOf s c x.xd) (xOf s c x.xs) (xOf s c x.xn)) s

def execCpSet (h : DHdr) (x : DX) (s : State) : Out :=
  transferWord h x true (fun c => shapeSet x (xOf s c x.xd) (xOf s c x.xs) (xOf s c x.xn)) s

def execCpRcopy (h : DHdr) (x : DX) (s : State) : Out :=
  transferWord h x false (fun c => shapeLin x (xOf s c x.xd) (xOf s c x.xs) (xOf s c x.xn)) s

/-! Fills and drains (R239 to R243). -/

/-- The element bytes and the element of a format code (R240). -/
def copyElem (f : Nat) : Nat × Elem :=
  match f with
  | 1 => (4, .flt .f32)
  | 2 => (2, .flt .bf16)
  | 3 => (2, .flt .f16)
  | 4 => (1, .flt .e4)
  | 5 => (1, .flt .e5)
  | 6 => (1, .int 8 true)
  | 7 => (4, .int 32 true)
  | _ => (1, .int 8 false)

/-- A conversion rounds unless it is raw or between integers (R242); a widening one, though exact, counts as one that rounds (DESIGN CHOICE,
assumption 124). -/
def copyRounds (sfmt dfmt : Nat) : Bool := sfmt != 0 && !(decide (6 ≤ sfmt) && decide (6 ≤ dfmt))

/-- The ring of a copy word is usable by it: enabled, its end is the copy engine's, the count fits, and no swizzle on
operand memory (R245). input tells which end the copy engine has. -/
def copyRing (d : DataSide) (ring cnt swz : Nat) (input : Bool) : Bool :=
  let w := d.ring ring
  d.ringUse ring cnt && (if input then ringCons w == 3 else ringProd w == 3) && (swz == 0 || ringLoc w == 0)

/-- The space code of a ring's store. -/
def ringSpace (w : Word) : Nat := if ringLoc w = 0 then 0 else 3

/-- The units of a fill or drain (R243): slot keys, rows, the memory side's base and pitch, and the row and unit bytes of
the slot side and of the memory side. fill says which side is the destination. -/
def fireUnits (d : DataSide) (fill : Bool) (keys : List Nat) (rows base pitch srow su mu : Nat) : List Sector :=
  let n := srow / su
  (span 0 keys.length).flatMap fun s => (span 0 rows).flatMap fun r => (span 0 n).map fun i =>
    let slot := d.slotAddr (keys.getD s 0) + r * srow + i * su
    let mem := (base + (s * rows + r) * pitch + i * mu) % 2 ^ 64
    let no := (s * rows + r) * n + i
    if fill then { no, src := mem, dst := slot, rn := mu, wn := su } else { no, src := slot, dst := mem, rn := su, wn := mu }

/-- `cp.fill` and `cp.drain` (R239 to R243). -/
def fireWord (fill : Bool) (h : DHdr) (sfmt dfmt rl lc : Nat) (g : DG) (s : State) : Out :=
  asStrand s 3 fun c =>
    let k := s.core c
    let d := k.data
    let w := d.ring g.ring
    let lay := (d.cpy.xreg (g.reg + 1)).toNat
    let base := (d.cpy.xreg g.reg).toNat
    let srow := 32 * 2 ^ rl
    let se := (copyElem (if fill then dfmt else sfmt)).1
    let me := (copyElem (if fill then sfmt else dfmt)).1
    let rows := fld lay 32 16
    let rm := fld lay 48 3
    let pitch := fld lay 0 32
    let su := 32 * (se / min se me)
    let mu := 32 * (me / min se me)
    let memSpace := if lc = 0 then 0 else 1
    let scope := if lc = 2 then 3 else 1
    if !copyRing d g.ring g.cnt g.swz (!fill) then s.undefinedWord c 3
    else if fld lay 51 13 ≠ 0 ∨ 6 ≤ rm ∨ rows = 0 ∨ ringSlotBytes w < rows * srow ∨ srow * me / se % 32 ≠ 0 ∨ srow * me % se ≠ 0
        ∨ pitch % 32 ≠ 0 then copyFault s c 32
    else if base % 32 ≠ 0 then copyFault s c 6 base
    else
      let keys := if fill then d.outputs g.ring g.cnt else d.inputs g.ring g.cnt
      let secs := fireUnits d fill keys rows base pitch srow su mu
      let shaping := if sfmt = 0 then Shaping.plain else .convert sfmt dfmt rm d.cpy.src k.srkey
      let x : Xfer :=
        if fill then { id := 0, pc := 0, ssp := memSpace, dsp := ringSpace w, dsw := g.swz, scope, wscope := 1, secs, outSlots := keys, shaping }
        else { id := 0, pc := 0, ssp := ringSpace w, dsp := memSpace, ssw := g.swz, scope := 1, wscope := scope, secs, inSlots := keys, shaping }
      if unitsInStore k.scratch k.dataTop x false = false then copyFault s c 7
      else
        (s.startXfer c h x).modData c fun d =>
          let d1 := if fill then d.fireOut g.ring g.cnt else d.fireIn g.ring g.cnt
          d1.modStrand 3 fun y => { y with src := if copyRounds sfmt dfmt then nextDraw rm y.src else y.src }

def execCpFill (h : DHdr) (sfmt dfmt rl lc : Nat) (g : DG) (s : State) : Out := fireWord true h sfmt dfmt rl lc g s

def execCpDrain (h : DHdr) (sfmt dfmt rl lc : Nat) (g : DG) (s : State) : Out := fireWord false h sfmt dfmt rl lc g s

/-- The rings of a `cp.tr` are usable by it (R245). -/
def transposeOk (d : DataSide) (ew : Nat) (g : DG) : Bool :=
  copyRing d g.ring g.cnt g.swz true && copyRing d g.reg g.cnt 0 false && decide (1024 * 2 ^ ew ≤ ringSlotBytes (d.ring g.ring))
  && decide (1024 * 2 ^ ew ≤ ringSlotBytes (d.ring g.reg))

/-- `cp.tr` (R244, R245): one unit for each slot. -/
def execCpTr (h : DHdr) (ew : Nat) (g : DG) (s : State) : Out :=
  asStrand s 3 fun c =>
    let k := s.core c
    let d := k.data
    let w := 2 ^ ew
    let wi := d.ring g.ring
    let wo := d.ring g.reg
    if !transposeOk d ew g then s.undefinedWord c 3
    else
      let ins := d.inputs g.ring g.cnt
      let outs := d.outputs g.reg g.cnt
      let secs := (span 0 g.cnt).map fun i =>
        ({ no := i, src := d.slotAddr (ins.getD i 0), dst := d.slotAddr (outs.getD i 0), rn := 1024 * w, wn := 1024 * w } : Sector)
      let x : Xfer := { id := 0, pc := 0, ssp := ringSpace wi, dsp := ringSpace wo, ssw := g.swz, secs, inSlots := ins, outSlots := outs, shaping := .transpose w }
      if unitsInStore k.scratch k.dataTop x false = false then copyFault s c 7
      else (s.startXfer c h x).modData c fun d => (d.fireIn g.ring g.cnt).fireOut g.reg g.cnt

/-! The bytes on their way (R235 to R237, R242, R244, R248 to R250). -/

/-- Element i of w bytes of a unit's bytes. -/
def unitElem (bs : Bytes) (w i : Nat) : Nat := numBytes (bytesAt bs (w * i) w)

/-- A unit's elements converted, with the counts for NUMCHK (R242). -/
def convertUnit (sfmt dfmt rm draws : Nat) (key : Word) (q : Sector) : List NumRes :=
  let se := copyElem sfmt
  let de := copyElem dfmt
  let n := q.rn / se.1
  (span 0 n).map fun i =>
    convertElem se.2 de.2 { rm, sat := true, ftz := false, draw := srDraw key.toNat 2 (q.no * n + i) draws } (unitElem q.bytes se.1 i)

/-- The bytes a unit writes, and the core's NUMCHK after it. -/
def unitBytes (x : Xfer) (q : Sector) (numchk : Word) : List Byte × Word :=
  match x.shaping with
  | .plain => (bytesAt q.bytes 0 q.wn, numchk)
  | .convert sfmt dfmt rm draws key =>
    let rs := convertUnit sfmt dfmt rm draws key q
    (rs.flatMap fun r => bytesOfNum (copyElem dfmt).1 r.bits, noteAll numchk rs)
  | .transpose w =>
    ((span 0 1024).flatMap fun i => bytesAt q.bytes ((64 * (i % 16) + i / 16) * w) w, numchk)

/-- The space of a code. -/
def spaceOf (sp : Nat) : Space :=
  match sp with
  | 0 => .core
  | 1 => .virt
  | 2 => .fabric
  | _ => .opmem

/-- The bytes of an access that moves a side's bytes: a sector over the fabric (R237), else the 16 bytes of R145. -/
def partBytes (sp : Nat) : Nat := if sp = 2 then 32 else 16

/-- An access of a part at address a of a space (R145, R237): its place, or a fault, or a fatal context error. -/
inductive Place where
  | ok (pa : Nat) (nc : Bool)
  | fault (code : Nat)
  | fatal (status : Nat)

/-- Where a part of a side lies: the swizzled core-store address, or the translation of their sector (R70, R234). -/
def State.place (s : State) (c sp swz : Nat) (p : Perm) (a : Nat) : Place :=
  let k := s.core c
  match sp with
  | 0 => if k.dataTop < a + 16 then .fault 7 else .ok (swizzle swz a) false
  | 3 => .ok a false
  | _ =>
    match (if sp = 1 then translateLocal k c p a else translate k.seg p a) with
    | .bad st => .fatal st
    | .ok pa nc => if inDev pa then .fault 8 else .ok pa nc

/-- The accesses that move n bytes of one side of a unit; the first failing place decides. mk gives the access
for an offset. -/
def State.sendParts (s : State) (c : Nat) (x : Xfer) (sp swz base : Nat) (p : Perm) (mk : Nat → Access) : List Nat → State
  | [] => s
  | off :: rest =>
    match s.place c sp swz p ((base + off) % 2 ^ 64) with
    | .fault code => (s.endXfer c x.id).strandFault c 3 code (word x.pc) ((base + off) % 2 ^ 64)
    | .fatal st => s.fatal c 0 3 st (word x.pc) (word ((base + off) % 2 ^ 64))
    | .ok pa nc =>
      let a := mk off
      State.sendParts (s.enqueue c { a with party := 10, space := spaceOf sp, va := (base + off) % 2 ^ 64, pa, n := partBytes sp, nc, word := x.pc, xfer := x.id, op := x.id,
                                            data := (cellsFrom pa (a.data.map Prod.snd)), readyAt := (s.core c).cycle + 12 })
        c x sp swz base p mk rest

/-- The offsets of the 16-byte parts of n bytes (R145). -/
def partSteps (n : Nat) : List Nat := (span 0 (n / 16)).map fun i => 16 * i

/-- The offsets of the accesses that move n bytes of a side. -/
def sendSteps (sp n : Nat) : List Nat := (span 0 (n / partBytes sp)).map fun i => partBytes sp * i

/-- A unit changes state. -/
def State.modUnit (s : State) (c id no : Nat) (f : Sector → Sector) : State :=
  s.modData c fun d => { d with xfers := modFirst (fun x => x.id == id) (fun x => { x with secs := modFirst (fun q => q.no == no) f x.secs }) d.xfers }

/-- Every earlier transfer of the core has sent all its writes: transfers move their bytes in issue order (R247, R249). -/
def DataSide.ahead (d : DataSide) (id : Nat) : Bool :=
  (d.xfers.takeWhile fun x => x.id != id).all fun x => x.secs.all fun q => q.st == .writing

/-- A `cp.sct` unit writes after the units before it that have the same destination (R235). -/
def sctOrder (scratch : Bytes) (x : Xfer) (q : Sector) : Bool :=
  x.secs.all fun p => decide (q.no ≤ p.no) || p.st == .writing || unitDst scratch x p != unitDst scratch x q

/-- The places of n bytes of a side, by parts. -/
def State.sidePlaces (s : State) (c sp swz : Nat) (p : Perm) (base n : Nat) : List Nat :=
  (partSteps n).filterMap fun off => match s.place c sp swz p ((base + off) % 2 ^ 64) with
    | .ok pa _ => some pa
    | _ => none

/-- The places of the source and of the destination of a unit. -/
def State.unitReads (s : State) (c : Nat) (x : Xfer) (q : Sector) : List Nat := s.sidePlaces c x.ssp x.ssw .rd (unitSrc ((s.core c).copyStore x.id) x q) q.rn
def State.unitWrites (s : State) (c : Nat) (x : Xfer) (q : Sector) : List Nat := s.sidePlaces c x.dsp x.dsw .wr (unitDst ((s.core c).copyStore x.id) x q) q.wn

/-- A unit whose destination lies outside the source bytes of its transfer gets exactly its source's value: no write of the transfer lands
in its source bytes before they are read (R236). q is the unit that is about to write. -/
def State.clobbers (s : State) (c : Nat) (x : Xfer) (q : Sector) : Bool :=
  sameMemory (spaceOf x.ssp) (spaceOf x.dsp) &&
    let mine := s.unitWrites c x q
    x.secs.any fun p => p.no != q.no && (p.st == .todo || p.st == .reading) && (s.unitReads c x p).any mine.contains
      && (s.unitWrites c x p).any fun a => !x.secs.any fun r => (s.unitReads c x r).contains a

/-- A unit of a transfer of core c moves on: its reads are sent, or its writes once its bytes are read. A frozen core
sends nothing (R480). -/
def State.moveUnit (s : State) (c id no : Nat) : State :=
  let k := s.core c
  match firstWhere (fun x => x.id == id) k.data.xfers with
  | none => s
  | some x =>
    match firstWhere (fun q => q.no == no) x.secs with
    | none => s
    | some q =>
      if s.isFrozen c || decide (8192 < k.outstanding + (if q.st == .todo then q.rn else q.wn) / 32) || k.phase.isSome || k.probe.isSome then s
      else match q.st with
        | .todo =>
          if k.data.ahead id then
            (s.modUnit c id no fun q => { q with st := .reading, out := q.rn / partBytes x.ssp }).sendParts c x x.ssp x.ssw (unitSrc (k.copyStore id) x q) .rd
              (fun off => { id := 0, party := 10, kind := .load, space := .core, va := 0, pa := 0, n := 16, scope := x.scope, dest := .copy id no off }) (sendSteps x.ssp q.rn)
          else s
        | .read =>
          if k.data.ahead id && sctOrder (k.copyStore id) x q && !s.clobbers c x q then
            let r := unitBytes x q k.numchk
            let s1 := (s.modCore c fun k => { k with numchk := r.2 }).modUnit c id no fun q => { q with st := .writing }
            s1.sendParts c x x.dsp x.dsw (unitDst (k.copyStore id) x q) .wr
              (fun off => { id := 0, party := 10, kind := .store, space := .core, va := 0, pa := 0, n := 16, scope := x.wscope,
                            data := cellsFrom 0 ((r.1.drop off).take (partBytes x.dsp)) }) (sendSteps x.dsp q.wn)
          else s
        | _ => s

/-- COPY_TRANSFER_COMPLETE: every byte of the transfer is performed; the fire's slots change hands and the completion is
added to its barrier, or withheld until the next release point (R23, R238, R250). Bytes that come after the barrier's flip belong to its
unit's next cycle (R40). -/
def execCopyTransferComplete (c id : Nat) (s : State) : Out :=
  let k := s.core c
  match firstWhere (fun x => x.id == id) k.data.xfers with
  | none => .next s
  | some x =>
    let late := match x.bar with
      | some (b, _) => s.flippedNow b
      | none => false
    if s.isFrozen c || !(x.secs.all fun q => q.st == .writing) || k.accs.any (fun a => a.xfer == id) || late then .next s
    else
      let s1 := s.modData c fun d =>
        ({ d with xfers := d.xfers.filter fun y => y.id != id }.setSlots x.inSlots .empty).setSlots x.outSlots .ready
      match x.bar with
      | none => .next s1
      | some (b, _) =>
        let w : Withheld := { bar := b, amount := x.moved, word := x.pc, cycle := x.cycle }
        if x.late then .next (s1.modData c fun d => { d with withheld := d.withheld ++ [w] }) else .next (s1.addWithheld c w)

/-- A copy word can issue (R23, R134, R248): its rings meet the fire condition and a request entry is free. -/
def copyReady (k : Core) (i : Instr) : Bool :=
  let d := k.data
  let room := decide (k.outstanding < 8192)
  let virt (lc : Nat) : Bool := lc == 0 || k.phase.isNone
  match i with
  | .cpLin _ x | .cp2d _ x | .cpGth _ x | .cpSct _ x | .cpSet _ x | .cpRcopy _ x =>
    room && ((x.ssp == 0 && x.dsp == 0) || k.phase.isNone)
  | .cpFill _ _ _ _ lc g => !copyRing d g.ring g.cnt g.swz false || (room && virt lc && d.outputFree g.ring g.cnt)
  | .cpDrain _ _ _ _ lc g => !copyRing d g.ring g.cnt g.swz true || (room && virt lc && d.inputReady g.ring g.cnt)
  | .cpTr _ ew g => !transposeOk d ew g || (room && d.inputReady g.ring g.cnt && d.outputFree g.reg g.cnt)
  | _ => true

/-- The request entries that a copy word needs at its issue (R248). -/
def copyNeed (i : Instr) : Nat :=
  match i with
  | .cpLin _ _ | .cp2d _ _ | .cpGth _ _ | .cpSct _ _ | .cpSet _ _ | .cpRcopy _ _ | .cpFill _ _ _ _ _ _ | .cpDrain _ _ _ _ _ _ | .cpTr _ _ _ => 1
  | _ => 0

end Sys2Proof.Machine
end

