-- ==== Sys2Proof/Machine/Lanes.lean ====
section
/-! DEFINITION. What the lane array computes (R264 to R266, R271 to R290): the elements that a vector word gives, from the
registers, masks and accumulators it reads in its start cycle. -/

namespace Sys2Proof.Machine

/-! Registers, cells and masks (R264 to R266). A vector register is one number, cell c in bits 32c + 31 to 32c; cell
(i, j) is cell 64i + j. -/

/-- Vector register n, and mask register n. -/
def DataSide.vreg (d : DataSide) (n : Nat) : Nat := tget 0 d.v n
def DataSide.kreg (d : DataSide) (n : Nat) : Nat := tget 0 d.k n

/-- Cell c of a register. -/
def cellAt (v c : Nat) : Nat := fld v (32 * c) 32

/-- The active cells of a word as a mask (R266). -/
def DataSide.active (d : DataSide) (men : Bool) (km : Nat) : Nat := if men then d.kreg km else allCells

/-- The numbers of the cells of a mask. -/
def cellsOf (m : Nat) : List Nat := (span 0 1024).filter fun c => m.testBit c

/-- Bits of a register that a word gives: the lowest bit's place, how many, and the result with its counts. -/
structure Piece where
  pos : Nat
  w : Nat
  res : NumRes

/-- A value that NUMCHK does not count. -/
def plainRes (n : Nat) : NumRes := ⟨n, false, false, false⟩

/-- The bits that pieces write, and their values. -/
def pieceMask (ps : List Piece) : Nat := ps.foldl (fun m p => m ||| (2 ^ p.w - 1) * 2 ^ p.pos) 0
def pieceVal (ps : List Piece) : Nat := ps.foldl (fun m p => m ||| p.res.bits % 2 ^ p.w * 2 ^ p.pos) 0

/-- A number with the bits of a mask replaced. -/
def mergeBits (old mask val : Nat) : Nat := old ^^^ ((old ^^^ val) &&& mask)

/-- Part q of element width w of a cell. -/
def partAt (v c w q : Nat) : Nat := fld v (32 * c + w * q) w

/-- The element-wise words: f gives element number e, at cell c and part q. -/
def eachElem (w : Nat) (act : Nat) (f : Nat → Nat → Nat → NumRes) : List Piece :=
  (cellsOf act).flatMap fun c => (span 0 (32 / w)).map fun q => { pos := 32 * c + w * q, w, res := f (32 / w * c + q) c q }

/-- The raw words: f gives each active cell. -/
def eachCell (act : Nat) (f : Nat → Nat) : List Piece :=
  (cellsOf act).map fun c => { pos := 32 * c, w := 32, res := plainRes (f c) }

/-- How element e of a word rounds: the draws of R90 for engine 1. -/
def laneCtl (r : DR) (key : Word) (draws e : Nat) : RndCtl :=
  { rm := r.rm, sat := r.sat, ftz := r.ftz, draw := srDraw key.toNat 1 e draws }

/-! The words. -/

/-- Arithmetic (R271). -/
def laneArith (op : ArOp) (r : DR) (key : Word) (draws : Nat) (act a b d : Nat) : List Piece :=
  let w := viewWidth r.view
  eachElem w act fun e c q =>
    arithElem op (viewElem r.view) (laneCtl r key draws e) (partAt a c w q) (partAt b c w q) (partAt d c w q)

/-- Shifts (R273): 0 left, 1 right, 2 right with the sign. -/
def laneShift (kind : Nat) (r : DR) (act a b : Nat) : List Piece :=
  let w := viewWidth r.view
  eachElem w act fun _ c q =>
    let x := partAt a c w q
    let n := partAt b c w q % w
    plainRes (match kind with
      | 0 => x * 2 ^ n
      | 1 => x / 2 ^ n
      | _ => patternOf w (signedOf w x / (2 : Int) ^ n))

/-- Comparisons (R274). -/
def laneCmp (rel : Nat) (r : DR) (act a b : Nat) : List Piece :=
  let w := viewWidth r.view
  eachElem w act fun _ c q =>
    plainRes (if relElem rel (viewElem r.view) r.ftz (partAt a c w q) (partAt b c w q) then 2 ^ w - 1 else 0)

/-- Special functions (R278). -/
def laneSpecial (fn : SpecialFn) (r : DR) (act a : Nat) : List Piece :=
  let w := viewWidth r.view
  match viewElem r.view with
  | .flt f => eachElem w act fun _ c q => specialElem fn f r.ftz (partAt a c w q)
  | .int _ _ => []

/-- `vcvt` (R277): to is the target view, whose element index keys the draw (assumption 91). -/
def laneCvt (dst : Nat) (r : DR) (key : Word) (draws : Nat) (act a : Nat) : List Piece :=
  let ws := viewWidth r.view
  let wt := viewWidth dst
  let ps := 32 / ws
  let pt := 32 / wt
  let cvt (c from_ to_ : Nat) : Piece :=
    { pos := 32 * c + wt * to_, w := wt,
      res := convertElem (viewElem r.view) (viewElem dst) (laneCtl r key draws (pt * c + to_)) (partAt a c ws from_) }
  (cellsOf act).flatMap fun c =>
    if wt ≤ ws then (span 0 ps).map fun s => cvt c s (if ws = wt then s else ps * r.vb + s)
    else (span 0 pt).map fun t => cvt c (pt * r.vb + t) t

/-- `acvt` (R287): part q of each cell from an accumulator element. -/
def laneAcvt (r : DR) (key : Word) (draws : Nat) (act : Nat) (e : AccEntry) : List Piece :=
  let wt := viewWidth r.view
  (cellsOf act).map fun c =>
    { pos := 32 * c + wt * r.vb, w := wt,
      res := convertElem (if e.int then .int 40 true else .flt .acc) (viewElem r.view)
        (laneCtl r key draws (32 / wt * c + r.vb)) (tget 0 e.elems c) }

/-- One level of the reduction: slot 2k with slot 2k + 1 (R280). -/
def pairUp {α : Type} (op : α → α → α) : List (Option α) → List (Option α)
  | [] => []
  | [x] => [x]
  | x :: y :: t =>
    (match x, y with
     | some a, some b => some (op a b)
     | some a, none => some a
     | none, y => y) :: pairUp op t

/-- The reduction of a list of slots, at most 2^n of them (R280). -/
def reduceTree {α : Type} (op : α → α → α) : Nat → List (Option α) → Option α
  | 0, xs => xs.headD none
  | n + 1, xs => if xs.length ≤ 1 then xs.headD none else reduceTree op n (pairUp op xs)

/-- The reduction of the elements of a view: 0 sum, 1 maximum, 2 minimum. A floating-point sum runs in FP32, an integer
sum is exact modulo 2^64 (R280). -/
def reduceElems (op : Nat) (r : DR) (xs : List (Option Nat)) : Option NumRes :=
  match viewElem r.view, op with
  | .flt f, 0 =>
    let add (x y : NumRes) : NumRes := (packFloat .f32 r.rm false false 0 (addF r.rm (f32v x.bits) (f32v y.bits))).from .f32 (x.inf || y.inf)
    (reduceTree add 10 (xs.map fun x => x.map fun n => plainRes (packFloat .f32 0 false false 0 (decodeFloat f r.ftz n)).bits)).map fun u =>
      (packFloat f r.rm r.sat r.ftz 0 (f32v u.bits)).from f u.inf
  | .flt f, o =>
    (reduceTree (fun x y => (arithElem (if o = 1 then .max else .min) (.flt f) { ftz := r.ftz } x y 0).bits) 10 xs).map fun u =>
      packFloat f 0 false r.ftz 0 (decodeFloat f r.ftz u)
  | .int w s, 0 =>
    (reduceTree (fun x y => patternOf 64 (signedOf 64 x + signedOf 64 y)) 10 (xs.map fun x => x.map fun n => patternOf 64 (intOf w s n))).map fun u =>
      reduceInt w s r.sat (signedOf 64 u)
  | .int w s, o =>
    (reduceTree (fun x y => (arithElem (if o = 1 then .max else .min) (.int w s) {} x y 0).bits) 10 xs).map plainRes

/-- `vredr` (R280). -/
def laneRedRow (op : Nat) (r : DR) (act a : Nat) : List Piece :=
  let w := viewWidth r.view
  let p := 32 / w
  (span 0 16).flatMap fun i =>
    match reduceElems op r ((span 0 (64 * p)).map fun e =>
      let c := 64 * i + e / p
      if act.testBit c then some (partAt a c w (e % p)) else none) with
    | none => []
    | some u => ((cellsOf act).filter fun c => c / 64 == i).flatMap fun c => (span 0 p).map fun q => { pos := 32 * c + w * q, w, res := u }

/-- `vredc` (R280). -/
def laneRedCol (op : Nat) (r : DR) (act a : Nat) : List Piece :=
  let w := viewWidth r.view
  let p := 32 / w
  (span 0 (64 * p)).flatMap fun e =>
    let j := e / p
    match reduceElems op r ((span 0 16).map fun i => if act.testBit (64 * i + j) then some (partAt a (64 * i + j) w (e % p)) else none) with
    | none => []
    | some u => ((span 0 16).filter fun i => act.testBit (64 * i + j)).map fun i => { pos := 32 * (64 * i + j) + w * (e % p), w, res := u }

/-! `vchain` programs (R285). -/

/-- Field values of operation word k of a program register. -/
structure ChainOp where
  opc : Nat
  r : DR
  src : Nat
  low : Nat

/-- Operation word k of a program register. -/
def chainOp (v k : Nat) : ChainOp :=
  let x := cellAt v k
  { opc := fld x 27 5, r := { view := fld x 23 4, rm := fld x 20 3, ftz := fld x 19 1 == 1, sat := fld x 18 1 == 1 },
    src := fld x 16 2, low := fld x 0 16 }

/-- The operations before the first with OPC 0. -/
def chainOps (v : Nat) : List ChainOp := ((span 0 8).map (chainOp v)).takeWhile fun o => o.opc != 0

/-- A program passes the checks of R285. -/
def chainOk (ops : List ChainOp) : Bool :=
  let view := (ops.headD { opc := 0, r := {}, src := 0, low := 0 }).r.view
  !ops.isEmpty && ops.all fun o =>
    decide (o.opc < 14) && o.low == 0 && decide (o.r.rm < 6) && decide (o.r.view < 9) && o.r.view == view
    && (if 7 ≤ o.opc ∧ o.opc ≤ 10 then o.src == 0 && o.r.rm == 0 && (view == 0 || view == 2 || view == 3) else o.src != 0)

/-- One operation on an element t with operand s, as the matching D-R word (R286). -/
def chainElem (o : ChainOp) (key : Word) (draws e t s : Nat) : NumRes :=
  let el := viewElem o.r.view
  let ctl := laneCtl o.r key draws e
  match o.opc with
  | 1 => arithElem .add el ctl t s 0
  | 2 => arithElem .sub el ctl t s 0
  | 3 => arithElem .sub el ctl s t 0
  | 4 => arithElem .mul el ctl t s 0
  | 5 => arithElem .min el ctl t s 0
  | 6 => arithElem .max el ctl t s 0
  | 11 => plainRes (t &&& s)
  | 12 => plainRes (t ||| s)
  | 13 => plainRes (t ^^^ s)
  | n =>
    match el with
    | .flt f => specialElem (match n with | 7 => .exp2 | 8 => .log2 | 9 => .rcp | _ => .rsq) f o.r.ftz t
    | .int _ _ => plainRes t

/-- One operation after earlier ones of the same element: what NUMCHK counts is the element that comes out, once (R106). -/
def chainStep (o : ChainOp) (key : Word) (draws e : Nat) (t : NumRes) (s : Nat) : NumRes :=
  let r := chainElem o key draws e t.bits s
  let x := match viewElem o.r.view with
    | .flt f => r.from f t.inf
    | .int _ _ => r
  { x with sat := t.sat || r.sat }

/-- An element through all operations. -/
def chainRun (prog : Nat) (key : Word) (draws e i w q o : Nat) : Nat → List ChainOp → NumRes → NumRes
  | _, [], t => t
  | k, op :: rest, t =>
    let s := match op.src with
      | 1 => partAt prog (8 + k) w q
      | 2 => partAt prog (64 * i + 16 + k) w q
      | _ => o
    chainRun prog key draws e i w q o (k + 1) rest (chainStep op key draws e t s)

/-- A block of a `vchain`: block number blk of the fire, x the block as a register; the pieces of its active cells (R286). -/
def chainBlock (prog : Nat) (ops : List ChainOp) (key : Word) (draws blk act x : Nat) : List Piece :=
  let w := viewWidth ((ops.headD { opc := 0, r := {}, src := 0, low := 0 }).r.view)
  let p := 32 / w
  (cellsOf act).flatMap fun c => (span 0 p).map fun q =>
    let o := partAt x c w q
    { pos := 32 * c + w * q, w, res := chainRun prog key draws (1024 * p * blk + p * c + q) (c / 64) w q o 0 ops (plainRes o) }

/-! The registers that vector words read and write (R269). -/

/-- The mask register that a word's MEN names. -/
def maskReads (men : Bool) (km : Nat) : List VTarget := if men then [.mreg km] else []

/-- c vector registers from n. -/
def vregs (n c : Nat) : List VTarget := (span n c).map .vreg

/-- The registers a D-R word reads: its destination's other parts and cells, its sources, its mask. -/
def drReads (r : DR) (two : Bool) : List VTarget :=
  [.vreg r.vd, .vreg r.va] ++ (if two then [.vreg r.vb] else []) ++ maskReads r.men r.km

/-- Registers that a vector word reads. -/
def vReads (i : Instr) : List VTarget :=
  match i with
  | .vadd _ r | .vsub _ r | .vmul _ r | .vfma _ r | .vmin _ r | .vmax _ r | .vand _ r | .vor _ r | .vxor _ r
  | .vshl _ r | .vshr _ r | .vsra _ r | .vcmp _ _ r | .vsel _ r => drReads r true
  | .vnot _ r | .vcvt _ _ r | .vexp2 _ r | .vlog2 _ r | .vrcp _ r | .vrsq _ r | .vrotr _ r | .vrotc _ r | .vbcr _ r
  | .vbcc _ r | .vredr _ _ r | .vredc _ _ r => drReads r false
  | .vmovi _ _ men km vd => .vreg vd :: maskReads men km
  | .acvt _ r => .vreg r.vd :: maskReads r.men r.km
  | .vld _ m => maskReads m.men m.km
  | .vst _ m => .vreg m.reg :: maskReads m.men m.km
  | .vldr _ g => maskReads g.men g.km
  | .vstr _ g => vregs g.reg g.cnt ++ maskReads g.men g.km
  | .vchain _ vp g => .vreg vp :: maskReads g.men g.km
  | .vkopAnd _ _ a b | .vkopOr _ _ a b | .vkopXor _ _ a b | .vkopAndn _ _ a b => [.mreg a, .mreg b]
  | .vkopNot _ _ a => [.mreg a]
  | .vkmovToMask _ r => [.vreg r.va, .mreg r.vd] ++ maskReads r.men r.km
  | .vkmovToVector _ r => [.mreg r.va, .vreg r.vd] ++ maskReads r.men r.km
  | _ => []

/-- Registers that a vector word writes. -/
def vWrites (i : Instr) : List VTarget :=
  match i with
  | .vadd _ r | .vsub _ r | .vmul _ r | .vfma _ r | .vmin _ r | .vmax _ r | .vand _ r | .vor _ r | .vxor _ r
  | .vshl _ r | .vshr _ r | .vsra _ r | .vcmp _ _ r | .vsel _ r | .vnot _ r | .vcvt _ _ r | .vexp2 _ r | .vlog2 _ r
  | .vrcp _ r | .vrsq _ r | .vrotr _ r | .vrotc _ r | .vbcr _ r | .vbcc _ r | .vredr _ _ r | .vredc _ _ r | .acvt _ r
  | .vkmovToVector _ r => [.vreg r.vd]
  | .vmovi _ _ _ _ vd => [.vreg vd]
  | .vld _ m => [.vreg m.reg]
  | .vldr _ g => vregs g.reg g.cnt
  | .vkopAnd _ d _ _ | .vkopOr _ d _ _ | .vkopXor _ d _ _ | .vkopAndn _ d _ _ | .vkopNot _ d _ | .vkopSet _ d
  | .vkopClr _ d | .vmaskQ _ d => [.mreg d]
  | .vkmovToMask _ r => [.mreg r.vd]
  | _ => []

/-- A view of floating-point elements takes the longer latency (R268). -/
def floatLat (r : DR) : Nat := if viewFloat r.view then 6 else 4

/-- The latency of an array word from its start (R268). -/
def arrayLat (i : Instr) : Nat :=
  match i with
  | .vadd _ r | .vsub _ r | .vmul _ r | .vfma _ r | .vmin _ r | .vmax _ r | .vcmp _ _ r => floatLat r
  | .vcvt _ _ _ => 6
  | .acvt _ _ => 8
  | .vexp2 _ _ | .vlog2 _ _ | .vrcp _ _ | .vrsq _ _ => 12
  | .vrotc _ _ | .vbcc _ _ => 6
  | .vredc _ _ _ => 8
  | .vrotr _ _ | .vbcr _ _ => 10
  | .vredr _ _ _ => 12
  | _ => 4

/-- Accumulator entry e as an `acvt` that starts in this cycle sees it: in a timed region not a result of this cycle
(R288). -/
def DataSide.accSeen (d : DataSide) (e : Nat) : AccEntry :=
  match d.timed, d.accBefore with
  | true, some (n, t) => tget {} (if n = d.counted then t else d.acc) e
  | _, _ => tget {} d.acc e

/-- What an array word but for `vchain` gives from the data side in its start cycle: its register and the pieces it
writes. -/
def arrayResult (d : DataSide) (w : AWord) : Option (VTarget × List Piece) :=
  let act (r : DR) : Nat := d.active r.men r.km
  let v (n : Nat) : Nat := d.vreg n
  let arith (op : ArOp) (r : DR) : Option (VTarget × List Piece) :=
    some (.vreg r.vd, laneArith op r w.key w.draws (act r) (v r.va) (v r.vb) (v r.vd))
  let raw (r : DR) (f : Nat → Nat) : Option (VTarget × List Piece) := some (.vreg r.vd, eachCell (act r) f)
  let a (r : DR) (c : Nat) : Nat := cellAt (v r.va) c
  let b (r : DR) (c : Nat) : Nat := cellAt (v r.vb) c
  let special (fn : SpecialFn) (r : DR) : Option (VTarget × List Piece) := some (.vreg r.vd, laneSpecial fn r (act r) (v r.va))
  match w.instr with
  | .vadd _ r => arith .add r
  | .vsub _ r => arith .sub r
  | .vmul _ r => arith .mul r
  | .vfma _ r => arith .fma r
  | .vmin _ r => arith .min r
  | .vmax _ r => arith .max r
  | .vand _ r => raw r fun c => a r c &&& b r c
  | .vor _ r => raw r fun c => a r c ||| b r c
  | .vxor _ r => raw r fun c => a r c ^^^ b r c
  | .vnot _ r => raw r fun c => a r c ^^^ 0xFFFFFFFF
  | .vshl _ r => some (.vreg r.vd, laneShift 0 r (act r) (v r.va) (v r.vb))
  | .vshr _ r => some (.vreg r.vd, laneShift 1 r (act r) (v r.va) (v r.vb))
  | .vsra _ r => some (.vreg r.vd, laneShift 2 r (act r) (v r.va) (v r.vb))
  | .vcmp _ rel r => some (.vreg r.vd, laneCmp rel r (act r) (v r.va) (v r.vb))
  | .vsel _ r => raw r fun c => mergeBits (b r c) (cellAt (v r.vd) c) (a r c)
  | .vmovi _ imm men km vd => some (.vreg vd, eachCell (d.active men km) fun _ => imm)
  | .vcvt _ dst r => some (.vreg r.vd, laneCvt dst r w.key w.draws (act r) (v r.va))
  | .vexp2 _ r => special .exp2 r
  | .vlog2 _ r => special .log2 r
  | .vrcp _ r => special .rcp r
  | .vrsq _ r => special .rsq r
  | .vrotr _ r => raw r fun c => a r (64 * (c / 64) + (c % 64 + r.vb) % 64)
  | .vrotc _ r => raw r fun c => a r (64 * ((c / 64 + r.vb) % 16) + c % 64)
  | .vbcr _ r => raw r fun c => a r (64 * (c / 64) + r.vb)
  | .vbcc _ r => raw r fun c => a r (64 * r.vb + c % 64)
  | .vredr _ op r => some (.vreg r.vd, laneRedRow op r (act r) (v r.va))
  | .vredc _ op r => some (.vreg r.vd, laneRedCol op r (act r) (v r.va))
  | .acvt _ r => some (.vreg r.vd, laneAcvt r w.key w.draws (act r) (d.accSeen r.va))
  | .vkmovToMask _ r =>
    some (.mreg r.vd, (cellsOf (act r)).map fun c => { pos := c, w := 1, res := plainRes (bit (a r c != 0)) })
  | .vkmovToVector _ r => raw r fun c => if (d.kreg r.va).testBit c then 0xFFFFFFFF else 0
  | _ => none

end Sys2Proof.Machine
end

