-- ==== Sys2Proof/Machine/Vector.lean ====
section
/-! DEFINITION. The vector engine (R264 to R293): the issue of its words, the array queue, memory words, rings, masks, and
the cycles in which array words start and results are written. -/

namespace Sys2Proof.Machine

/-! The array queue (R267). -/

/-- A queue word of the matrix engine writes accumulator entry e. -/
def matWrites (i : Instr) (e : Nat) : Bool :=
  match i with
  | .mma _ m => decide (m.ad ≤ e) && decide (e < m.ad + 4)
  | .mzero _ _ vd n => decide (vd ≤ e) && decide (e < vd + n)
  | .mfill _ sf g => sf != 3 && decide (g.reg ≤ e) && decide (e < g.reg + g.cnt)
  | .mdrain _ _ _ clr _ g => clr && decide (g.reg ≤ e) && decide (e < g.reg + g.cnt)
  | _ => false

/-- A result of class 0, 1 or 2 is absent at its due cycle (R32). -/
def DataSide.lateResult (d : DataSide) : Bool := d.vloads.any fun v => !v.cls3 && v.out != 0 && decide (v.due ≤ d.counted)

/-- The engines hold their state: in a timed region they are frozen, or a late result freezes them in this cycle (R32, R268). -/
def DataSide.stands (d : DataSide) : Bool := d.timed && (d.frozen || d.lateResult)

/-- The array word at the head of the queue may start: the array is free and not frozen, the strand has not stopped, and in an
interlocked region an `acvt` waits for the matrix words of earlier cycles that write its entry (R267, R268, R288, R292). -/
def DataSide.mayStart (d : DataSide) (w : AWord) : Bool :=
  decide (d.arrayFree ≤ d.counted) && !d.vec.stopped && !d.stands
  && (d.timed || match w.instr with
      | .acvt _ r => d.matQ.all fun m => !(decide (m.issued < w.issued) && matWrites m.instr r.va)
      | _ => true)

/-- The array words that wait in this cycle: a word that starts in it waits no more. -/
def DataSide.arrayWaiting (d : DataSide) : Nat :=
  match d.arrayQ with
  | [] => 0
  | w :: _ => d.arrayQ.length - bit (d.mayStart w)

/-- An operation of a `vchain` rounds in mode SR: an addition, a subtraction or a multiplication in a floating-point view (R90, R286). -/
def ChainOp.draws (o : ChainOp) : Bool := decide (1 ≤ o.opc) && decide (o.opc ≤ 4) && viewFloat o.r.view && o.r.rm == 5

/-- The rounding mode of an array word that rounds, as its issue knows it: for a `vchain` that of its program as the register then stands, for
an `acvt` whatever its entry will be; its start puts the count right (R90, assumptions 55 and 92). A conversion that is exact counts as one that
rounds (DESIGN CHOICE, assumption 124). -/
def arrayRm (d : DataSide) (i : Instr) : Nat :=
  match i with
  | .vadd _ r | .vsub _ r | .vmul _ r | .vfma _ r | .vcvt _ _ r | .acvt _ r => r.rm
  | .vchain _ vp _ => if (chainOps (d.vreg vp)).any ChainOp.draws then 5 else 0
  | _ => 0

/-- An array word of the queue rounds in mode SR, as its start cycle finds its program or its entry (R90, R286, R288): an integer entry that
is converted to integers is not rounded. -/
def AWord.rounds (w : AWord) (d : DataSide) : Bool :=
  match w.instr with
  | .vchain _ vp _ => (chainOps (d.vreg vp)).any ChainOp.draws
  | .acvt _ r => r.rm == 5 && !((d.accSeen r.va).int && !viewFloat r.view)
  | _ => w.rose

/-- A snapshot that counts word w as issued, with its draw count changed. -/
def Snap.redrawn (m : Snap) (w : AWord) (f : Nat → Nat) : Snap :=
  if w.issued < m.counted then { m with vec := { m.vec with src := f m.vec.src } } else m

/-- The head of the array queue starts and rounds otherwise than its issue has counted: the counts of the strand, of the words behind it and
of the snapshots after it follow (R90). rest is the queue behind it. -/
def Core.redraw (k : Core) (w : AWord) (rest : List AWord) : Core :=
  if w.rounds k.data == w.rose then k
  else
    let f (n : Nat) : Nat := if w.rose then (n + (2 ^ 32 - 1)) % 2 ^ 32 else (n + 1) % 2 ^ 32
    let put (m : Option Snap) : Option Snap := m.map fun m => m.redrawn w f
    { k with before := put k.before,
             data := { k.data with snap := put k.data.snap, arrayQ := rest.map fun x => { x with draws := f x.draws },
                                   vec := { k.data.vec with src := f k.data.vec.src } } }

/-- An array word enters the queue; in a timed region a full queue is ARRAY_FULL (R267). f adds what a `vchain` fires. -/
def arrayIssue (i : Instr) (h : DHdr) (f : AWord → AWord) (after : DataSide → DataSide) (s : State) (c : Nat) : State :=
  let d := (s.core c).data
  if d.timed && decide (8 ≤ d.arrayWaiting) then s.strandFault c 1 34 (word d.vec.pc)
  else
    let key := (s.core c).srkey
    let w : AWord := f { seq := d.seq, pc := d.vec.pc, instr := i, issued := d.counted, draws := d.vec.src, key, rose := arrayRm d i == 5 }
    ((s.issueWord c h).modData c fun d =>
      after { d with seq := d.seq + 1, arrayQ := d.arrayQ ++ [w],
                     vec := { d.vec with src := nextDraw (arrayRm d i) d.vec.src } }).stepStrand c 1

/-- An array word but for `vchain`. -/
def arrayWord (i : Instr) (h : DHdr) (s : State) : Out := asStrand s 1 fun c => arrayIssue i h id id s c

def execVadd (h : DHdr) (r : DR) (s : State) : Out := arrayWord (.vadd h r) h s
def execVsub (h : DHdr) (r : DR) (s : State) : Out := arrayWord (.vsub h r) h s
def execVmul (h : DHdr) (r : DR) (s : State) : Out := arrayWord (.vmul h r) h s
def execVfma (h : DHdr) (r : DR) (s : State) : Out := arrayWord (.vfma h r) h s
def execVmin (h : DHdr) (r : DR) (s : State) : Out := arrayWord (.vmin h r) h s
def execVmax (h : DHdr) (r : DR) (s : State) : Out := arrayWord (.vmax h r) h s
def execVand (h : DHdr) (r : DR) (s : State) : Out := arrayWord (.vand h r) h s
def execVor (h : DHdr) (r : DR) (s : State) : Out := arrayWord (.vor h r) h s
def execVxor (h : DHdr) (r : DR) (s : State) : Out := arrayWord (.vxor h r) h s
def execVnot (h : DHdr) (r : DR) (s : State) : Out := arrayWord (.vnot h r) h s
def execVshl (h : DHdr) (r : DR) (s : State) : Out := arrayWord (.vshl h r) h s
def execVshr (h : DHdr) (r : DR) (s : State) : Out := arrayWord (.vshr h r) h s
def execVsra (h : DHdr) (r : DR) (s : State) : Out := arrayWord (.vsra h r) h s
def execVcmp (h : DHdr) (rel : Nat) (r : DR) (s : State) : Out := arrayWord (.vcmp h rel r) h s
def execVsel (h : DHdr) (r : DR) (s : State) : Out := arrayWord (.vsel h r) h s
def execVmovi (h : DHdr) (imm : Nat) (men : Bool) (km vd : Nat) (s : State) : Out := arrayWord (.vmovi h imm men km vd) h s
def execVcvt (h : DHdr) (dst : Nat) (r : DR) (s : State) : Out := arrayWord (.vcvt h dst r) h s
def execVexp2 (h : DHdr) (r : DR) (s : State) : Out := arrayWord (.vexp2 h r) h s
def execVlog2 (h : DHdr) (r : DR) (s : State) : Out := arrayWord (.vlog2 h r) h s
def execVrcp (h : DHdr) (r : DR) (s : State) : Out := arrayWord (.vrcp h r) h s
def execVrsq (h : DHdr) (r : DR) (s : State) : Out := arrayWord (.vrsq h r) h s
def execVrotr (h : DHdr) (r : DR) (s : State) : Out := arrayWord (.vrotr h r) h s
def execVrotc (h : DHdr) (r : DR) (s : State) : Out := arrayWord (.vrotc h r) h s
def execVbcr (h : DHdr) (r : DR) (s : State) : Out := arrayWord (.vbcr h r) h s
def execVbcc (h : DHdr) (r : DR) (s : State) : Out := arrayWord (.vbcc h r) h s
def execVredr (h : DHdr) (op : Nat) (r : DR) (s : State) : Out := arrayWord (.vredr h op r) h s
def execVredc (h : DHdr) (op : Nat) (r : DR) (s : State) : Out := arrayWord (.vredc h op r) h s
def execAcvt (h : DHdr) (r : DR) (s : State) : Out := arrayWord (.acvt h r) h s
def execVkmovToMask (h : DHdr) (r : DR) (s : State) : Out := arrayWord (.vkmovToMask h r) h s
def execVkmovToVector (h : DHdr) (r : DR) (s : State) : Out := arrayWord (.vkmovToVector h r) h s

/-! Memory words (R281 to R283). -/

/-- The address of offset o of the register in memory (R281). -/
def vecAddr (fn a p o : Nat) : Nat :=
  match fn with
  | 1 => (a + p * (o / 256) + o % 256) % 2 ^ 64
  | _ => (a + o) % 2 ^ 64

/-- The bytes of a unit of a memory word: a sector over the fabric (R282), else the 16 bytes of R145. -/
def vecUnit (lc : Nat) : Nat := if lc = 3 then 32 else 16

/-- The unit of n bytes at offset o holds an active cell; for the row shape a cell of any row. -/
def unitActive (n : Nat) (row : Bool) (act o : Nat) : Bool :=
  (span (o / 4) (n / 4)).any fun c => if row then (span 0 16).any fun i => act.testBit (64 * i + c) else act.testBit c

/-- The offsets of the units of n bytes that hold an active cell. -/
def activeUnits (n : Nat) (row : Bool) (act : Nat) : List Nat :=
  ((span 0 ((if row then 256 else 4096) / n)).map fun u => n * u).filter fun o => unitActive n row act o

/-- A unit of a memory word: its offset, its address, its place, and its NC bit. -/
structure VUnit where
  off : Nat
  va : Nat
  pa : Nat
  nc : Bool

/-- The checks of a memory word over its active units (R283): the units' places, or a fault with the virtual address it accesses, 0 for none,
or a fatal context error with its address. -/
inductive VCheck where
  | ok (us : List VUnit)
  | fault (code va : Nat)
  | fatal (status va : Nat)

/-- The translation of a unit of a memory word: an LC of 3 may reach any package (R282, R283). -/
def vecXlat (k : Core) (c lc : Nat) (p : Perm) (va : Nat) : Xlat :=
  if lc = 3 then translate k.seg p va else translateLocal k c p va

/-- The places of translated units. -/
def vecPlaces (k : Core) (c lc : Nat) (p : Perm) : List (Nat × Nat) → VCheck
  | [] => .ok []
  | (o, va) :: t =>
    match vecXlat k c lc p va with
    | .bad st => .fatal st va
    | .ok pa nc =>
      match vecPlaces k c lc p t with
      | .ok us => .ok ({ off := o, va, pa, nc } :: us)
      | x => x

/-- The checks of R283 in their order. -/
def vecCheck (k : Core) (c : Nat) (m : DM) (p : Perm) (a pitch : Nat) (us : List (Nat × Nat)) : VCheck :=
  if a % 32 ≠ 0 ∨ (m.fn = 1 ∧ pitch % 32 ≠ 0) then .fault 6 a
  else if m.lc = 0 then
    if us.any fun u => decide (2 ^ 22 ≤ u.2) || decide (k.dataTop < u.2 + 16) then .fault 7 0
    else .ok (us.map fun u => { off := u.1, va := u.2, pa := swizzle m.swz u.2, nc := false })
  else match firstWhere (fun (u : Nat × Nat) => match segFor k.seg u.2 with | some e => e.dev | none => false) us with
    | some u => .fault 8 u.2
    | none => vecPlaces k c m.lc p us

/-- The access size that PI adds (R281). -/
def accessSize (fn pitch : Nat) : Nat :=
  match fn with
  | 0 => 4096
  | 1 => 16 * pitch
  | _ => 256

/-- The address and pitch of a memory word. -/
def vecBase (x : Strand) (m : DM) : Nat × Nat :=
  ((x.xreg m.xa + 128#64 * sext64 10 m.off).toNat, (x.xreg (m.xa + 1)).toNat % 2 ^ 32)

/-- The post-increment takes effect at issue (R282). -/
def postInc (m : DM) (pitch : Nat) (x : Strand) : Strand :=
  if m.pi then x.setX m.xa (x.xreg m.xa + word (accessSize m.fn pitch)) else x

/-- The class latency of a load (R31). -/
def classLat (m : DM) : Nat :=
  match m.lc with
  | 0 => 12
  | 1 => 24
  | 2 => 120
  | _ => 1024 * (m.lat + 1)

/-- The space and the scope of a memory word (R139, R282). -/
def vecSpace (lc : Nat) : Space := if lc = 0 then .core else if lc = 3 then .fabric else .virt
def vecScope (lc : Nat) : Nat := if lc = 3 then 5 else 1

/-- The accesses of a memory word enter the queues of the vector strand. -/
def State.vecAccesses (s : State) (c : Nat) (m : DM) (mk : VUnit → Access) (us : List VUnit) : State :=
  let k := s.core c
  us.foldl (fun s u =>
    let a := mk u
    s.enqueue c { a with party := 8, space := vecSpace m.lc, va := u.va, pa := u.pa, nc := u.nc, scope := vecScope m.lc, word := k.data.vec.pc,
                         readyAt := if a.kind == .store then k.data.counted + 12 else k.cycle + (if m.lc = 0 then 12 else 24) }) s

/-- A memory word: the checks over its active units, then ok with the units; then the post-increment and the next
word. -/
def vecMemory (h : DHdr) (m : DM) (p : Perm) (s : State) (ok : State → Nat → List VUnit → Nat → State) : Out :=
  asStrand s 1 fun c =>
    let k := s.core c
    let row := m.fn == 2
    let act := k.data.active m.men m.km
    let b := vecBase k.data.vec m
    let us := (activeUnits (vecUnit m.lc) row act).map fun o => (o, vecAddr m.fn b.1 b.2 o)
    match (if us.isEmpty then VCheck.ok [] else vecCheck k c m p b.1 b.2 us) with
    | .fault code va => s.strandFault c 1 code (word k.data.vec.pc) va
    | .fatal st va => s.fatal c 0 1 st (word k.data.vec.pc) (word va)
    | .ok vs => ((ok (s.issueWord c h) c vs act).modStrand c 1 (postInc m b.2)).stepStrand c 1

/-- `vld` (R282): in a timed region its result is due by its class, in an interlocked region when its bytes are back. -/
def execVld (h : DHdr) (m : DM) (s : State) : Out :=
  vecMemory h m .rd s fun s c us act =>
    if us.isEmpty then s
    else
      let op := s.nextId
      let s1 := s.fresh.modData c fun d =>
        { d with seq := d.seq + 1,
                 vloads := d.vloads ++ [{ op, seq := d.seq, reg := m.reg, word := d.vec.pc, due := if d.timed then d.counted + classLat m else d.counted,
                                          cls3 := m.lc == 3, row := m.fn == 2, out := us.length, cells := cellsOf act }] }
      s1.vecAccesses c m (fun u => { id := 0, party := 8, kind := .load, space := .core, va := 0, pa := 0, n := vecUnit m.lc, dest := .vec op u.off, op }) us

/-- The bytes of the active cells among the n bytes at an offset of a register, at their addresses. -/
def unitData (v act off n pa : Nat) : List Host.Cell :=
  (span 0 (n / 4)).flatMap fun q =>
    let c := off / 4 + q
    if act.testBit c then cellsFrom (pa + 4 * q) (bytesOfNum 4 (cellAt v c)) else []

/-- `vst` (R282): its rows in ascending order where they overlap; over the fabric one request for each sector, with the bytes of its active
cells. -/
def execVst (h : DHdr) (m : DM) (s : State) : Out :=
  vecMemory h m .wr s fun s c us act =>
    let v := (s.core c).data.vreg m.reg
    let op := s.nextId
    let n := vecUnit m.lc
    s.fresh.vecAccesses c m (fun x => { id := 0, party := 8, kind := .store, space := .core, va := 0, pa := 0, n, data := unitData v act x.off n x.pa, op }) us

/-! Rings (R284 to R286). -/

/-- The ring of a vector word is one it may use: enabled, its end, a slot of 4 KiB or more, the count (R284). -/
def vecRing (d : DataSide) (ring cnt : Nat) (input : Bool) : Bool :=
  let w := d.ring ring
  d.ringUse ring cnt && (if input then ringCons w == 1 else ringProd w == 1) && decide (4096 ≤ ringSlotBytes w)

/-- The checks of a `vldr`, a `vstr` and a `vchain` at their issue; a word that fails one is undefined, whatever its rings hold (R69,
R284, R286). -/
def vldrOk (d : DataSide) (g : DG) : Bool := decide (g.reg + g.cnt - 1 ≤ 511) && vecRing d g.ring g.cnt true
def vstrOk (d : DataSide) (g : DG) : Bool := decide (g.reg + g.cnt - 1 ≤ 511) && vecRing d g.ring g.cnt false
def vchainOk (d : DataSide) (g : DG) : Bool :=
  vecRing d g.ring g.cnt true && vecRing d g.reg g.cnt false && ringSlotBytes (d.ring g.ring) == ringSlotBytes (d.ring g.reg)

/-- Bytes of the core store as the vector strand's own earlier stores leave them (R139). -/
def Core.vecBytes (k : Core) (as : List Nat) : List Byte :=
  forward as (as.map fun a => byteAt k.scratch a) (k.accs.filter fun e => e.party == 8 && e.kind == .store && e.space == .core && e.waiting)

/-- The place of byte o of a slot. -/
def slotByte (d : DataSide) (swz key o : Nat) : Nat := swizzle swz (d.slotAddr key + o)

/-- n bytes of a slot from offset o, as a number. -/
def Core.slotNum (k : Core) (swz key o n : Nat) : Nat :=
  numBytes (k.vecBytes ((span o n).map (slotByte k.data swz key)))

/-- The bits of the active cells of a register. -/
def cellMask (act : Nat) : Nat := (cellsOf act).foldl (fun m c => m ||| 0xFFFFFFFF * 2 ^ (32 * c)) 0

/-- `vldr` (R284): the registers get the slots' cells, and the slots are empty, 12 cycles after the issue. -/
def execVldr (h : DHdr) (g : DG) (s : State) : Out :=
  asStrand s 1 fun c =>
    let k := s.core c
    let d := k.data
    if !vldrOk d g then s.undefinedWord c 1
    else
      let keys := d.inputs g.ring g.cnt
      let mask := cellMask (d.active g.men g.km)
      let res := (keys.zip (span 0 g.cnt)).map fun x =>
        ({ due := d.counted + 12, seq := d.seq, target := .vreg (g.reg + x.2), mask, val := k.slotNum g.swz x.1 0 4096 } : VResult)
      ((s.issueWord c h).modData c fun d =>
        { d.fireIn g.ring g.cnt with seq := d.seq + 1, vres := d.vres ++ res,
                                     slotActs := d.slotActs ++ [{ due := d.counted + 12, seq := d.seq, slots := keys, dst := .empty }] }).stepStrand c 1

/-- The stores of a `vstr` slot: 16 bytes each. -/
def vstrUnits (d : DataSide) (op swz key v act : Nat) : List Access :=
  (activeUnits 16 false act).map fun o =>
    let pa := slotByte d swz key o
    { id := 0, party := 8, kind := .store, space := .core, va := pa, pa, n := 16, scope := 1, word := d.vec.pc, data := unitData v act o 16 pa, op, ring := true }

/-- `vstr` (R284): its slots are ready once its bytes are performed, 12 or more cycles after the issue (R250, R268). -/
def execVstr (h : DHdr) (g : DG) (s : State) : Out :=
  asStrand s 1 fun c =>
    let k := s.core c
    let d := k.data
    if !vstrOk d g then s.undefinedWord c 1
    else
      let keys := d.outputs g.ring g.cnt
      let act := d.active g.men g.km
      let xs := (keys.zip (span 0 g.cnt)).flatMap fun x => vstrUnits d s.nextId g.swz x.1 (d.vreg (g.reg + x.2)) act
      let s1 := (s.issueWord c h).fresh
      let ids := span s1.nextId xs.length
      let s2 := xs.foldl (fun s a => s.enqueue c a) s1
      (s2.modData c fun d =>
        { d.fireOut g.ring g.cnt with seq := d.seq + 1,
                                      slotActs := d.slotActs ++ [{ due := d.counted + 12, seq := d.seq, slots := keys, dst := .ready, after := ids }] }).stepStrand c 1

/-- `vchain` (R285, R286): it fires at issue and runs from its start. -/
def execVchain (h : DHdr) (vp : Nat) (g : DG) (s : State) : Out :=
  asStrand s 1 fun c =>
    let d := (s.core c).data
    if !vchainOk d g then s.undefinedWord c 1
    else
      arrayIssue (.vchain h vp g) h
        (fun w => { w with inSlots := d.inputs g.ring g.cnt, outSlots := d.outputs g.reg g.cnt })
        (fun d => (d.fireIn g.ring g.cnt).fireOut g.reg g.cnt) s c

/-! Masks (R289). -/

/-- `vkop`: it reads at issue and writes one cycle later. -/
def kopWord (h : DHdr) (kd : Nat) (f : DataSide → Nat) (s : State) : Out :=
  asStrand s 1 fun c =>
    ((s.issueWord c h).modData c fun d =>
      { d with seq := d.seq + 1,
               vres := d.vres ++ [{ due := d.counted + 1, seq := d.seq, target := .mreg kd, mask := allCells, val := f d }] }).stepStrand c 1

def execVkopAnd (h : DHdr) (kd ka kb : Nat) (s : State) : Out := kopWord h kd (fun d => d.kreg ka &&& d.kreg kb) s
def execVkopOr (h : DHdr) (kd ka kb : Nat) (s : State) : Out := kopWord h kd (fun d => d.kreg ka ||| d.kreg kb) s
def execVkopXor (h : DHdr) (kd ka kb : Nat) (s : State) : Out := kopWord h kd (fun d => d.kreg ka ^^^ d.kreg kb) s
def execVkopAndn (h : DHdr) (kd ka kb : Nat) (s : State) : Out := kopWord h kd (fun d => d.kreg ka &&& (d.kreg kb ^^^ allCells)) s
def execVkopNot (h : DHdr) (kd ka : Nat) (s : State) : Out := kopWord h kd (fun d => d.kreg ka ^^^ allCells) s
def execVkopSet (h : DHdr) (kd : Nat) (s : State) : Out := kopWord h kd (fun _ => allCells) s
def execVkopClr (h : DHdr) (kd : Nat) (s : State) : Out := kopWord h kd (fun _ => 0) s

/-! What a cycle writes before words start or issue in it (R31, R268). -/

/-- A register with a result written. -/
def DataSide.land (d : DataSide) (r : VResult) : DataSide :=
  match r.target with
  | .vreg n => { d with v := tput d.v n (mergeBits (d.vreg n) r.mask r.val) }
  | .mreg n => { d with k := tput d.k n (mergeBits (d.kreg n) r.mask r.val) }

/-- The result of a load whose bytes are all back: cell c takes its four bytes (R281). -/
def VLoad.result (v : VLoad) : VResult :=
  { due := v.due, seq := v.seq, target := .vreg v.reg,
    mask := v.cells.foldl (fun m c => m ||| 0xFFFFFFFF * 2 ^ (32 * c)) 0,
    val := v.cells.foldl (fun m c => m ||| numBytes (bytesAt v.bytes (if v.row then 4 * (c % 64) else 4 * c) 4) * 2 ^ (32 * c)) 0 }

/-- Results in order of their due cycle, then of issue. -/
def insertResult (r : VResult) : List VResult → List VResult
  | [] => [r]
  | x :: t => if r.due < x.due ∨ (r.due = x.due ∧ r.seq < x.seq) then r :: x :: t else x :: insertResult r t

/-- A load whose bytes are back and whose cycle has come. -/
def VLoad.ripe (v : VLoad) (now : Nat) : Bool := v.out == 0 && decide (v.due ≤ now)

/-- The results that are present and due in this cycle. -/
def DataSide.dueResults (d : DataSide) : List VResult :=
  let loads := (d.vloads.filter fun v => v.ripe d.counted).map VLoad.result
  (d.vres.filter (fun r => decide (r.due ≤ d.counted)) ++ loads).foldl (fun xs r => insertResult r xs) []

/-- A slot change whose cycle has come and whose bytes are performed; a release of claimed slots has an event of its
own. -/
def SlotAct.ripe (a : SlotAct) (k : Core) : Bool :=
  !a.release && decide (a.due ≤ k.data.counted) && a.after.all fun id => (k.access id).isNone

/-- Everything due in this cycle has been written. -/
def Core.caughtUp (k : Core) : Bool :=
  k.data.vres.all (fun r => decide (k.data.counted < r.due)) && k.data.vloads.all (fun v => !v.ripe k.data.counted)
  && k.data.slotActs.all fun a => !a.ripe k

/-- RESULT_DUE: the results due in this cycle are written in issue order, and slots change hands (R23, R31, R268). -/
def execResultDue (c : Nat) (s : State) : Out :=
  let k := s.core c
  if s.dataHeld c || (k.data.timed && k.data.lateResult) then .next s
  else
    let ripe := k.data.slotActs.filter fun a => a.ripe k
    .next (s.modCore c fun k =>
      let d := k.data.dueResults.foldl DataSide.land k.data
      let d1 := ripe.foldl (fun d a => d.setSlots a.slots a.dst) d
      { k with scratch := ripe.foldl (fun m a => setCells m a.cells) k.scratch,
               data := { d1 with
                 vres := d.vres.filter (fun r => decide (d.counted < r.due)),
                 vloads := d.vloads.filter (fun v => !v.ripe d.counted),
                 slotActs := d.slotActs.filter fun a => !a.ripe k } })

/-! The start of an array word (R267, R268, R286, R288). -/

/-- The blocks of 4 KiB of a `vchain`'s slots: slot key of input, of output, and the offset. -/
def chainBlocks (d : DataSide) (w : AWord) : List (Nat × Nat × Nat) :=
  (w.inSlots.zip w.outSlots).flatMap fun x => (span 0 (ringSlotBytes (d.ring (x.1 / 256)) / 4096)).map fun b => (x.1, x.2, 4096 * b)

/-- A started `vchain`: the bytes it writes, and its results for NUMCHK. -/
def chainCells (k : Core) (w : AWord) (vp : Nat) (g : DG) : List Host.Cell × List NumRes :=
  let d := k.data
  let prog := d.vreg vp
  let ops := chainOps prog
  let act := d.active g.men g.km
  let bs := chainBlocks d w
  let rs := (bs.zip (span 0 bs.length)).map fun b =>
    let u := chainBlock prog ops w.key w.draws b.2 act (k.slotNum g.swz b.1.1 b.1.2.2 4096)
    let val := pieceVal u
    ((cellsOf act).flatMap fun c => (span 0 4).map fun i =>
      (slotByte d g.swz b.1.2.1 (b.1.2.2 + 4 * c + i), BitVec.ofNat 8 (fld val (32 * c + 8 * i) 8)), u.map Piece.res)
  (rs.flatMap Prod.fst, rs.flatMap Prod.snd)

/-- A `vchain` starts: its program is checked, and its slots change hands 12 + 4B + 2N cycles later (R268, R286). -/
def State.startChain (s : State) (c : Nat) (w : AWord) (vp : Nat) (g : DG) : State :=
  let k := s.core c
  let ops := chainOps (k.data.vreg vp)
  let n := (chainBlocks k.data w).length
  if !chainOk ops then s.strandFault c 1 27 (word w.pc)
  else
    let r := chainCells k w vp g
    let due := k.data.counted + 12 + 4 * n + 2 * ops.length
    s.modCore c fun k =>
      { k with numchk := noteAll k.numchk r.2,
               data := { k.data with slotActs := k.data.slotActs ++
                 [{ due, seq := w.seq, slots := w.outSlots, dst := .ready, cells := r.1 }, { due, seq := w.seq, slots := w.inSlots, dst := .empty }] } }

/-- VSTAT with an array word that waited in the queue counted (R293). -/
def State.countWait (s : State) (c : Nat) (waited : Bool) : State :=
  if waited then s.modCore c fun k => { k with vstat := countUp k.vstat 16 16 1 } else s

/-- ARRAY_WORD_START: the head of the array queue starts, reads its sources and its mask, and its result comes due
(R267, R268). -/
def execArrayWordStart (c : Nat) (s : State) : Out :=
  let d := (s.core c).data
  match d.arrayQ with
  | [] => .next s
  | w :: rest =>
    if s.dataHeld c || !(s.core c).caughtUp || !d.mayStart w then .next s
    else
      let blocks := match w.instr with
        | .vchain _ _ _ => (chainBlocks d w).length
        | _ => 1
      let s0 := (s.modData c fun d => { d with arrayQ := rest, arrayFree := d.counted + 4 * blocks }).modCore c fun k => k.redraw w rest
      let s1 := s0.countWait c (decide (w.issued < d.counted))
      match w.instr with
      | .vchain _ vp g => .next (s1.startChain c w vp g)
      | i =>
        match arrayResult d w with
        | none => .next s1
        | some (t, ps) =>
          .next (s1.modCore c fun k =>
            { k with numchk := noteAll k.numchk (ps.map Piece.res),
                     data := { k.data with vres := k.data.vres ++
                       [{ due := d.counted + arrayLat i, seq := w.seq, target := t, mask := pieceMask ps, val := pieceVal ps }] } })

/-! When a vector word can issue. -/

/-- The sectors that hold an active cell of a memory word (R282). -/
def activeSectors (d : DataSide) (m : DM) : Nat := (((activeUnits 16 (m.fn == 2) (d.active m.men m.km)).map fun o => o / 32).eraseDups).length

/-- The request entries that a vector word needs at its issue: one for each sector (R134, R282), and one for a `vstr` (assumption 118). -/
def vectorNeed (d : DataSide) (i : Instr) : Nat :=
  match i with
  | .vld _ m | .vst _ m => activeSectors d m
  | .vstr _ _ => 1
  | _ => 0

/-- A word that every strand's freeze conditions allow (R32): its ring fires, request entries are free, no `phase` holds virtual
space. -/
def vectorReady (k : Core) (i : Instr) : Bool :=
  let d := k.data
  let mem (m : DM) : Bool :=
    let n := activeSectors d m
    n == 0 || (decide (k.outstanding + n ≤ 8192) && (m.lc == 0 || k.phase.isNone))
  match i with
  | .vld _ m | .vst _ m => mem m
  | .vldr _ g => !vldrOk d g || d.inputReady g.ring g.cnt
  | .vstr _ g => !vstrOk d g || (decide (k.outstanding < 8192) && d.outputFree g.ring g.cnt)
  | .vchain _ _ g => !vchainOk d g || (d.inputReady g.ring g.cnt && d.outputFree g.reg g.cnt)
  | _ => true

/-- A word of the lane array. -/
def isArrayWord (i : Instr) : Bool :=
  match i with
  | .vchain _ _ _ => true
  | .vmovi _ _ _ _ _ | .acvt _ _ | .vkmovToMask _ _ | .vkmovToVector _ _ => true
  | .vadd _ _ | .vsub _ _ | .vmul _ _ | .vfma _ _ | .vmin _ _ | .vmax _ _ | .vand _ _ | .vor _ _ | .vxor _ _ | .vnot _ _
  | .vshl _ _ | .vshr _ _ | .vsra _ _ | .vcmp _ _ _ | .vsel _ _ | .vcvt _ _ _ | .vexp2 _ _ | .vlog2 _ _ | .vrcp _ _ | .vrsq _ _
  | .vrotr _ _ | .vrotc _ _ | .vbcr _ _ | .vbcc _ _ | .vredr _ _ _ | .vredc _ _ _ => true
  | _ => false

/-- Registers that an issued word has still to write, and those it has still to read (R269). -/
def DataSide.toWrite (d : DataSide) : List VTarget :=
  d.vres.map (fun r => r.target) ++ d.vloads.map (fun v => .vreg v.reg) ++ d.arrayQ.flatMap fun w => vWrites w.instr

def DataSide.toRead (d : DataSide) : List VTarget := d.arrayQ.flatMap fun w => vReads w.instr

/-- The interlocks of a vector word in an interlocked region: the scoreboard, and a place in the array queue
(R267, R269). -/
def vectorClear (d : DataSide) (i : Instr) : Bool :=
  let ws := d.toWrite
  let rs := d.toRead
  (vReads i).all (fun r => !ws.contains r) && (vWrites i).all (fun r => !ws.contains r && !rs.contains r)
  && (!isArrayWord i || decide (d.arrayWaiting < 8))

end Sys2Proof.Machine
end

