-- ==== Sys2Proof/Machine/Matrix.lean ====
section
/-! DEFINITION. The matrix engine (R294 to R318): its words, the queue, the step of an `mma`, claims, fills and drains of
accumulators. -/

namespace Sys2Proof.Machine

/-! Formats (R299, R300). -/

/-- What an operand element is: a format, or a Q4N code. -/
inductive MElem where
  | el (t : Elem)
  | q4
deriving DecidableEq, Repr, Inhabited

/-- The width of an operand element. -/
def MElem.width (t : MElem) : Nat :=
  match t with
  | .el t => elemWidth t
  | .q4 => 4

/-- The element formats of A and B, K, and the bytes of a row of A, by FMT (R300). -/
def mmaFormat (fmt : Nat) : MElem × MElem × Nat × Nat :=
  match fmt with
  | 0 => (.el (.flt .bf16), .el (.flt .bf16), 64, 128)
  | 1 => (.el (.flt .f16), .el (.flt .f16), 64, 128)
  | 2 => (.el (.flt .e4), .el (.flt .e4), 128, 128)
  | 3 => (.el (.flt .e5), .el (.flt .e5), 128, 128)
  | 4 => (.el (.flt .e4), .el (.flt .e5), 128, 128)
  | 5 => (.el (.flt .e5), .el (.flt .e4), 128, 128)
  | 6 => (.el (.int 8 true), .el (.int 8 true), 128, 128)
  | 7 => (.el (.int 8 false), .el (.int 8 true), 128, 128)
  | 8 => (.el (.int 4 true), .el (.int 4 true), 256, 128)
  | 9 => (.el (.flt .bf16), .q4, 256, 512)
  | 10 => (.el (.flt .e4), .q4, 256, 256)
  | _ => (.el (.flt .f32), .el (.flt .f32), 32, 128)

/-- The accumulator mode of a format is integer (R300). -/
def mmaInt (fmt : Nat) : Bool := decide (6 ≤ fmt) && decide (fmt ≤ 8)

/-- The numbers of A and B operands of a fusion (R299). -/
def fusA (fus : Nat) : Nat :=
  match fus with
  | 0 => 1
  | 1 => 2
  | _ => 4

def fusB (fus : Nat) : Nat :=
  match fus with
  | 0 => 4
  | 1 => 2
  | 2 => 1
  | _ => 4

/-- The operands that operation p uses (R299). -/
def fusUse (fus p : Nat) : Nat × Nat :=
  match fus with
  | 0 => (0, p)
  | 1 => (p / 2, p % 2)
  | 2 => (p, 0)
  | _ => (p, p)

/-! The step (R97 to R100, R304). -/

/-- The value of an operand element. -/
def MElem.val (t : MElem) (n : Nat) : FVal :=
  match t with
  | .el (.flt f) => decodeFloat f false n
  | .el (.int w s) => valOfInt (intOf w s n)
  | .q4 => q4nVal n

/-- One addition into an accumulator element, with the counts for NUMCHK gathered over the step. -/
def accStep (c r : NumRes) : NumRes := ⟨r.bits, r.nan, (c.inf || r.inf) && !r.nan, c.sat || r.sat⟩

/-- Floating-point groups of 16 (R97). -/
def stepFloat (as bs : List FVal) (c : NumRes) : NumRes :=
  (span 0 (as.length / 16)).foldl (fun c g =>
    let ps := (((as.drop (16 * g)).take 16).zip ((bs.drop (16 * g)).take 16)).map fun x => mulF x.1 x.2
    accStep c (accAdd c.bits (exactSum ps))) c

/-- Integer groups of 16 (R98). -/
def stepInt (as bs : List Int) (c : NumRes) : NumRes :=
  (span 0 (as.length / 16)).foldl (fun c g =>
    let s := (((as.drop (16 * g)).take 16).zip ((bs.drop (16 * g)).take 16)).foldl (fun (t : Int) x => t + x.1 * x.2) 0
    accStep c (accAddInt c.bits s)) c

/-- Blocks of 64 against a Q4N column with its block scales and its group scale (R99). -/
def stepQ4 (as bs : List FVal) (s8 : Nat → Nat) (g : Nat) (c : NumRes) : NumRes :=
  (span 0 (as.length / 64)).foldl (fun c b =>
    let ps := (((as.drop (64 * b)).take 64).zip ((bs.drop (64 * b)).take 64)).map fun x => mulF x.1 x.2
    let x := q4nScale (s8 b) g
    accStep c ((accAdd c.bits (mulF (exactSum ps) (f32v x.bits))).from .acc x.inf)) c

/-- The six passes of synthesised FP32, as BF16 patterns of the parts (R100). -/
def stepF32 (as bs : List Nat) (c : NumRes) : NumRes :=
  let sa := as.map splitFp32
  let sb := bs.map splitFp32
  let v (n : Nat) : FVal := decodeFloat .bf16 false n
  let ah := sa.map fun x => v x.1
  let am := sa.map fun x => v x.2.1
  let al := sa.map fun x => v x.2.2
  let bh := sb.map fun x => v x.1
  let bm := sb.map fun x => v x.2.1
  let bl := sb.map fun x => v x.2.2
  stepFloat ah bh (stepFloat am bh (stepFloat ah bm (stepFloat al bh (stepFloat ah bl (stepFloat am bm c)))))

/-- The k elements of width w from bit place pos of an operand (R78, R296). -/
def elemsAt (op pos w k : Nat) : List Nat := (span 0 k).map fun i => fld op (pos + w * i) w

/-- One element (i, n) of an operation: a and b are the operands, sc the scale register (R296, R298, R304). -/
def mmaElem (m : DMma) (a b sc i n : Nat) (c : NumRes) : NumRes :=
  let f := mmaFormat m.fmt
  let row := elemsAt a (8 * (2048 * m.aq + f.2.2.2 * i)) f.1.width f.2.2.1
  let col := elemsAt b (8 * 128 * n) f.2.1.width f.2.2.1
  if m.fmt = 11 then stepF32 row col c
  else match f.1, f.2.1 with
    | .el (.int w s), .el (.int w' s') => stepInt (row.map (intOf w s)) (col.map (intOf w' s')) c
    | x, .q4 => stepQ4 (row.map x.val) (col.map (MElem.val .q4)) (fun blk => fld sc (8 * (4 * n + blk)) 8) (fld sc (8 * (256 + 4 * n)) 32) c
    | x, y => stepFloat (row.map x.val) (col.map y.val) c

/-- An entry's elements from a function of the element number; a zero element is not listed. -/
def elemsFrom (f : Nat → Nat) : Tbl Nat := ((span 0 1024).map fun k => (k, f k)).filter fun e => e.2 != 0

/-- The entry of operation p after the step, and the results for NUMCHK (R304). -/
def mmaEntry (m : DMma) (w : MWord) (sc : Tbl Nat) (e : AccEntry) (p : Nat) : AccEntry × List NumRes :=
  let u := fusUse m.fus p
  let rs := (span 0 1024).map fun k =>
    mmaElem m (w.opsA.getD u.1 0) (w.opsB.getD u.2 0) (tget 0 sc (4 * m.scb + u.2)) (k / 64) (k % 64)
      (plainRes (if m.zc then 0 else tget 0 e.elems k))
  ({ int := if m.zc then mmaInt m.fmt else e.int, sat := (!m.zc && e.sat) || rs.any NumRes.sat,
     elems := elemsFrom fun k => (rs.getD k (plainRes 0)).bits }, rs)

/-! The queue (R309, R312). -/

/-- The occupancy of a queue word; its W is the start, the occupancy and 8 (R309). -/
def queueOcc (i : Instr) : Nat :=
  match i with
  | .mma _ m => if m.fmt = 11 then 192 else 64
  | .mfill _ _ g => 4 * g.cnt
  | .mdrain _ _ _ _ _ g => 4 * g.cnt
  | _ => 1

/-- The first queue word that has not started. -/
def DataSide.nextQueued (d : DataSide) : Option MWord := firstWhere (fun m => m.start.isNone) d.matQ

/-- The first queued word may start in this cycle: the sub-arrays are free, the strand has not stopped and is not frozen, and in an
interlocked region every `acvt` of an earlier cycle that reads an entry it writes has started (R309, R312). -/
def DataSide.mayStartQueue (d : DataSide) (m : MWord) : Bool :=
  decide (d.matFree ≤ d.counted) && !d.mat.stopped && !d.stands
  && (d.timed || d.arrayQ.all fun w => match w.instr with
      | .acvt _ r => !(decide (w.issued < m.issued) && matWrites m.instr r.va)
      | _ => true)

/-- The queue words that wait in this cycle: one that starts in it waits no more. -/
def DataSide.queueWaiting (d : DataSide) : Nat :=
  (d.matQ.filter fun m => m.start.isNone).length - (match d.nextQueued with
    | some m => bit (d.mayStartQueue m)
    | none => 0)

/-- A queue word enters the queue; in a timed region a full queue is ARRAY_FULL (R309). fire is what its rings do. -/
def queueWord (i : Instr) (h : DHdr) (slots slotsB : List Nat) (fire : DataSide → DataSide) (s : State) (c : Nat) : State :=
  let d := (s.core c).data
  if d.timed && decide (8 ≤ d.queueWaiting) then s.strandFault c 2 34 (word d.mat.pc)
  else
    ((s.issueWord c h).modData c fun d =>
      { fire d with seq := d.seq + 1, matQ := d.matQ ++ [{ seq := d.seq, pc := d.mat.pc, instr := i, issued := d.counted, slots, slotsB }] }).stepStrand c 2

/-! `mma` (R301 to R303). -/

/-- The claim on a ring. -/
def DataSide.claimOf (d : DataSide) (ring : Nat) : Nat := tget 0 d.claims ring

/-- An operand ring is enabled, in operand memory, consumed by the matrix engine. -/
def matOperand (d : DataSide) (ring : Nat) : Bool :=
  let w := d.ring ring
  ringOn w && ringLoc w == 1 && ringCons w == 2

/-- An operand passes the checks of R302: in claim mode the claim holds it, in pop mode no claim does and the ring has
the slots. -/
def operandOk (d : DataSide) (ring : Nat) (claim : Bool) (off n : Nat) : Bool :=
  matOperand d ring
  && (if claim then d.claimOf ring != 0 && decide (off + n ≤ d.claimOf ring)
      else d.claimOf ring == 0 && decide (n ≤ ringSlots (d.ring ring)))

/-- The operand slots (R303). -/
def operandSlots (d : DataSide) (ring : Nat) (claim : Bool) (off n : Nat) : List Nat :=
  ringRun (d.ring ring) ring (ringCptr (d.ring ring) + (if claim then off else 0)) n

/-- The checks of an `mma` that need the ring table. -/
def mmaOk (d : DataSide) (m : DMma) : Bool :=
  operandOk d m.ra m.ac m.aof (fusA m.fus) && operandOk d m.rb m.bc m.bof (fusB m.fus)

def execMma (h : DHdr) (m : DMma) (s : State) : Out :=
  asStrand s 2 fun c =>
    let d := (s.core c).data
    if !mmaOk d m then s.undefinedWord c 2
    else
      queueWord (.mma h m) h (operandSlots d m.ra m.ac m.aof (fusA m.fus)) (operandSlots d m.rb m.bc m.bof (fusB m.fus))
        (fun d =>
          let d1 := if m.ac then d else d.fireIn m.ra (fusA m.fus)
          if m.bc then d1 else d1.fireIn m.rb (fusB m.fus)) s c

/-! Claims (R305). -/

/-- The checks of a `mclaim` (R305). -/
def mclaimOk (d : DataSide) (ring cnt : Nat) : Bool :=
  matOperand d ring && d.claimOf ring == 0 && decide (1 ≤ cnt) && decide (cnt ≤ 8) && decide (cnt ≤ ringSlots (d.ring ring))

/-- `mclaim`. -/
def execMclaim (h : DHdr) (ring cnt : Nat) (s : State) : Out :=
  asStrand s 2 fun c =>
    let d := (s.core c).data
    if !mclaimOk d ring cnt then s.undefinedWord c 2
    else
      ((s.issueWord c h).modData c fun d =>
        { d.setSlots (d.inputs ring cnt) .draining with claims := tput d.claims ring cnt }).stepStrand c 2

/-- `mrelease`: the claim shrinks at issue; the slots are empty once earlier `mma` words have read them. -/
def execMrelease (h : DHdr) (ring cnt : Nat) (s : State) : Out :=
  asStrand s 2 fun c =>
    let d := (s.core c).data
    if !matOperand d ring || cnt == 0 || decide (d.claimOf ring < cnt) then s.undefinedWord c 2
    else
      ((s.issueWord c h).modData c fun d =>
        { d.advanceCptr ring cnt with
          claims := tput d.claims ring (d.claimOf ring - cnt), seq := d.seq + 1,
          slotActs := d.slotActs ++ [{ due := d.counted + 1, seq := d.seq, slots := d.inputs ring cnt, dst := .empty, release := true }] }).stepStrand c 2

/-- A queue word still has operand slots to read. -/
def MWord.reads (m : MWord) (now : Nat) (slots : List Nat) : Bool :=
  (match m.instr with | .mma _ _ => true | _ => false)
  && (match m.start with | some st => decide (now < st + queueOcc m.instr) | none => true)
  && (m.slots ++ m.slotsB).any slots.contains

/-- A release whose slots no earlier `mma` reads any more. -/
def releaseRipe (d : DataSide) (a : SlotAct) : Bool :=
  a.release && decide (a.due ≤ d.counted) && d.matQ.all fun m => !(decide (m.seq < a.seq) && m.reads d.counted a.slots)

/-- MRELEASE_SLOTS_EMPTY: released slots become empty (R305). -/
def execMreleaseSlotsEmpty (c : Nat) (s : State) : Out :=
  if s.dataHeld c || ((s.core c).data.timed && (s.core c).data.lateResult) then .next s
  else
    .next (s.modData c fun d =>
      { (d.slotActs.filter (releaseRipe d)).foldl (fun d a => d.setSlots a.slots .empty) d with
        slotActs := d.slotActs.filter fun a => !releaseRipe d a })

/-! Zeros, fills and drains (R306, R307). -/

def execMzero (h : DHdr) (int : Bool) (vd n : Nat) (s : State) : Out :=
  asStrand s 2 fun c => queueWord (.mzero h int vd n) h [] [] id s c

/-- The bytes of an element of a fill, and of a drain. -/
def fillBytes (sf : Nat) : Nat := if sf = 2 then 8 else 4

def drainBytes (df : Nat) : Nat :=
  match df with
  | 0 => 4
  | 1 => 2
  | 2 => 2
  | 3 => 4
  | _ => 8

/-- The bytes that a fill reads of a slot. -/
def fillSize (sf : Nat) : Nat := if sf = 3 then 512 else 1024 * fillBytes sf

/-- The ring of a fill or drain: enabled, its end, a slot of at least size bytes, the count, no swizzle in operand
memory. -/
def matRing (d : DataSide) (g : DG) (size : Nat) (input : Bool) : Bool :=
  let w := d.ring g.ring
  d.ringUse g.ring g.cnt && (if input then ringCons w == 2 else ringProd w == 2) && decide (size ≤ ringSlotBytes w)
  && (g.swz == 0 || ringLoc w == 0)

/-- The checks of an `mfill` and of an `mdrain` (R307). -/
def mfillOk (d : DataSide) (sf : Nat) (g : DG) : Bool :=
  decide (g.reg + g.cnt ≤ (if sf = 3 then 16 else 64)) && matRing d g (fillSize sf) true
def mdrainOk (d : DataSide) (df : Nat) (g : DG) : Bool := decide (g.reg + g.cnt ≤ 64) && matRing d g (1024 * drainBytes df) false

def execMfill (h : DHdr) (sf : Nat) (g : DG) (s : State) : Out :=
  asStrand s 2 fun c =>
    let d := (s.core c).data
    if !mfillOk d sf g then s.undefinedWord c 2
    else queueWord (.mfill h sf g) h (d.inputs g.ring g.cnt) [] (fun d => d.fireIn g.ring g.cnt) s c

def execMdrain (h : DHdr) (df rm : Nat) (clr sat : Bool) (g : DG) (s : State) : Out :=
  asStrand s 2 fun c =>
    let d := (s.core c).data
    if !mdrainOk d df g then s.undefinedWord c 2
    else queueWord (.mdrain h df rm clr sat g) h (d.outputs g.ring g.cnt) [] (fun d => d.fireOut g.ring g.cnt) s c

/-- n bytes of a slot from its start, as a number. -/
def Core.matSlot (k : Core) (swz key n : Nat) : Nat :=
  if ringLoc (k.data.ring (key / 256)) = 0 then numBytes ((span 0 n).map fun o => byteAt k.scratch (slotByte k.data swz key o))
  else numBytes (bytesAt k.opmem (k.data.slotAddr key) n)

/-- A slot's first bytes replaced. -/
def Core.putSlot (k : Core) (swz key : Nat) (bs : List Byte) : Core :=
  if ringLoc (k.data.ring (key / 256)) = 0 then
    { k with scratch := setCells k.scratch (((span 0 bs.length).map (slotByte k.data swz key)).zip bs) }
  else { k with opmem := setBytes k.opmem (k.data.slotAddr key) bs }

/-- The entry that a fill gives from its slot's bytes (R307). -/
def fillEntry (sf x : Nat) : AccEntry × List NumRes :=
  match sf with
  | 0 =>
    let rs := (span 0 1024).map fun k => packFloat .acc 0 false false 0 (decodeFloat .f32 false (fld x (32 * k) 32))
    ({ int := false, elems := elemsFrom fun k => (rs.getD k (plainRes 0)).bits }, rs)
  | 1 => ({ int := true, elems := elemsFrom fun k => patternOf 40 (signedOf 32 (fld x (32 * k) 32)) }, [])
  | _ => ({ int := x.testBit 63, sat := x.testBit 62, elems := elemsFrom fun k => fld x (64 * k) 40 }, [])

/-- The bytes that a drain gives from an entry (R307). -/
def drainEntry (df rm : Nat) (sat : Bool) (e : AccEntry) : List Byte × List NumRes :=
  if df = 4 then
    ((span 0 1024).flatMap fun k => bytesOfNum 8 (tget 0 e.elems k + 2 ^ 62 * bit e.sat + 2 ^ 63 * bit e.int), [])
  else
    let dst : Elem := match df with
      | 0 => .flt .f32
      | 1 => .flt .bf16
      | 2 => .flt .f16
      | _ => .int 32 true
    let rs := (span 0 1024).map fun k => convertElem (if e.int then .int 40 true else .flt .acc) dst { rm, sat } (tget 0 e.elems k)
    (rs.flatMap fun r => bytesOfNum (drainBytes df) r.bits, rs)

/-! Starts and W (R304, R309). -/

/-- MATRIX_QUEUE_START: the first queued word starts; an `mma` reads its operands and an `mfill` its slots during its occupancy, and the popped
slots of an `mma` are empty at the end of it (R303, R309). -/
def execMatrixQueueStart (c : Nat) (s : State) : Out :=
  let k := s.core c
  let d := k.data
  match d.nextQueued with
  | none => .next s
  | some m =>
    if s.dataHeld c || !k.caughtUp || !d.mayStartQueue m then .next s
    else
      let occ := queueOcc m.instr
      let read (keys : List Nat) : List Nat := keys.map fun key => k.matSlot 0 key 8192
      let now := d.counted
      let begun : MWord := match m.instr with
        | .mma _ _ => { m with start := some now, opsA := read m.slots, opsB := read m.slotsB }
        | .mfill _ sf g => { m with start := some now, opsA := m.slots.map fun key => k.matSlot g.swz key (fillSize sf) }
        | _ => { m with start := some now }
      let pops := match m.instr with
        | .mma _ x => (if x.ac then [] else m.slots) ++ (if x.bc then [] else m.slotsB)
        | _ => []
      let s1 := s.modCore c fun k =>
        { k with mstat := if m.issued < now then countUp k.mstat 16 16 1 else k.mstat,
                 data := { k.data with matFree := now + occ, matQ := modFirst (fun x => x.start.isNone) (fun _ => begun) k.data.matQ } }
      if pops.isEmpty then .next s1
      else .next (s1.modData c fun d => { d with slotActs := d.slotActs ++ [{ due := now + occ, seq := m.seq, slots := pops, dst := .empty }] })

/-- The accumulators change in this cycle: what they held before it is kept for an `acvt` that starts in it (R288). -/
def DataSide.setAcc (d : DataSide) (f : Tbl AccEntry → Tbl AccEntry) : DataSide :=
  { d with acc := f d.acc, accBefore := match d.accBefore with
      | some (n, t) => if n = d.counted then some (n, t) else some (d.counted, d.acc)
      | none => some (d.counted, d.acc) }

/-- An `mma` reaches W (R304): with ZC = 0 an entry of another mode is ACC_MODE. -/
def mmaDue (m : DMma) (w : MWord) (s : State) (c : Nat) : State :=
  let d := (s.core c).data
  let old (p : Nat) : AccEntry := tget {} d.acc (m.ad + p)
  if !m.zc && (span 0 4).any fun p => (old p).int != mmaInt m.fmt then s.strandFault c 2 35 (word w.pc)
  else
    let rs := (span 0 4).map fun p => mmaEntry m w d.sc (old p) p
    s.modCore c fun k =>
      { k with numchk := noteAll k.numchk (rs.flatMap Prod.snd),
               data := k.data.setAcc fun t => (rs.zip (span 0 4)).foldl (fun t x => tput t (m.ad + x.2) x.1.1) t }

/-- An `mfill` reaches W: its entries, or its scale registers, are loaded and its slots are empty. -/
def fillDue (sf : Nat) (g : DG) (w : MWord) (s : State) (c : Nat) : State :=
  s.modCore c fun k =>
    let xs := w.opsA.zip (span g.reg g.cnt)
    if sf = 3 then
      { k with data := { k.data with sc := xs.foldl (fun t (x : Nat × Nat) => tput t x.2 x.1) k.data.sc }.setSlots w.slots .empty }
    else
      let rs := xs.map fun x => (x.2, fillEntry sf x.1)
      { k with numchk := noteAll k.numchk (rs.flatMap fun r => r.2.2),
               data := (k.data.setAcc fun t => rs.foldl (fun t r => tput t r.1 r.2.1) t).setSlots w.slots .empty }

/-- An `mdrain` reaches W: its slots hold the entries and are ready. -/
def drainDue (df rm : Nat) (clr sat : Bool) (g : DG) (w : MWord) (s : State) (c : Nat) : State :=
  s.modCore c fun k =>
    let rs := (w.slots.zip (span g.reg g.cnt)).map fun x => (x, drainEntry df rm sat (tget {} k.data.acc x.2))
    let k1 := rs.foldl (fun k r => k.putSlot g.swz r.1.1 r.2.1) k
    let zero (t : Tbl AccEntry) (e : Nat) : Tbl AccEntry := tput t e { int := (tget {} t e).int }
    { k1 with numchk := noteAll k.numchk (rs.flatMap fun r => r.2.2),
              data := (if clr then k1.data.setAcc fun t => (span g.reg g.cnt).foldl zero t else k1.data).setSlots w.slots .ready }

/-- A queue word whose W has come. -/
def MWord.due (m : MWord) (now : Nat) : Bool :=
  match m.start with
  | some st => decide (st + queueOcc m.instr + 8 ≤ now)
  | none => false

/-- MATRIX_QUEUE_W: the queue word at the head reaches its W (R309). -/
def execMatrixQueueW (c : Nat) (s : State) : Out :=
  match (s.core c).data.matQ with
  | [] => .next s
  | w :: rest =>
    if s.dataHeld c || !w.due (s.core c).data.counted || ((s.core c).data.timed && (s.core c).data.lateResult) then .next s
    else
      let s1 := s.modData c fun d => { d with matQ := rest }
      match w.instr with
      | .mma _ m => .next (mmaDue m w (s1.modCore c fun k => { k with mstat := wrapUp k.mstat 32 32 1 }) c)
      | .mzero _ int vd n =>
        .next (s1.modData c fun d => d.setAcc fun t => (span vd n).foldl (fun t e => tput t e { int }) t)
      | .mfill _ sf g => .next (fillDue sf g w s1 c)
      | .mdrain _ df rm clr sat g => .next (drainDue df rm clr sat g w s1 c)
      | _ => .next s1

/-! When a matrix word can issue. -/

/-- The rings of a matrix word meet the fire condition (R23, R303, R305); a word that a check at its issue makes undefined waits for none
(R317). -/
def matrixReady (d : DataSide) (i : Instr) : Bool :=
  match i with
  | .mma _ m =>
    !mmaOk d m || ((m.ac || d.inputReady m.ra (fusA m.fus)) && (m.bc || d.inputReady m.rb (fusB m.fus)))
  | .mclaim _ ring cnt => !mclaimOk d ring cnt || d.inputReady ring cnt
  | .mfill _ sf g => !mfillOk d sf g || d.inputReady g.ring g.cnt
  | .mdrain _ df _ _ _ g => !mdrainOk d df g || d.outputFree g.ring g.cnt
  | _ => true

/-- A queue word. -/
def isQueueWord (i : Instr) : Bool :=
  match i with
  | .mma _ _ | .mzero _ _ _ _ | .mfill _ _ _ | .mdrain _ _ _ _ _ _ => true
  | _ => false

/-- A place in the queue, in an interlocked region (R309). -/
def matrixClear (d : DataSide) (i : Instr) : Bool := !isQueueWord i || decide (d.queueWaiting < 8)

end Sys2Proof.Machine
end

