-- ==== Sys2Proof/Machine/Fabric.lean ====
section
/-! DEFINITION. The Cobin fabric (R374 to R378): remote loads, stores, atomics and notifies, the window check at the target
(R122, R123), the remote-store log (R124, R125), refusals, resends and replies. A request is sent, reaches its target,
and its reply returns in steps of their own. -/

namespace Sys2Proof.Machine

/-! Issue (R375, R376). -/

/-- A fabric access of n bytes at ea: alignment, translation into any package, device registers (R112, R376); then go gets
the access's place. -/
def fabricAccess (n : Nat) (p : Perm) (ea : Word) (s : State) (c t : Nat) (go : Nat → Bool → State) : State :=
  if ea.toNat % n ≠ 0 then s.trap c t 6 ea
  else match translate (s.core c).seg p ea.toNat with
    | .bad st => s.fatal c t 0 st (s.task c t).pc ea
    | .ok pa nc =>
      if inDev pa && !(p != .at_ && s.devAccepts c t pa n (p == .wr)) then s.trap c t 8 ea
      else if inDev pa && !s.barrierOk c pa then s.trap c t 13 ea
      else go pa nc

/-- A fabric access before its place is known: panel scope by default (R52). -/
def remoteAccess (kind : AKind) (h : CHdr) (n : Nat) (dest : Dest) : Access :=
  { plainAccess kind h n dest [] with space := .fabric, scope := scopeOf h 5 }

/-- `gld`: the task parks until the reply arrives. -/
def execGld (h : CHdr) (sx : Bool) (size d a off : Nat) (s : State) : Out :=
  asTask s fun c t =>
    let ea := lsAddr s c t a off
    fabricAccess (2 ^ size) .rd ea s c t fun pa nc =>
      (s.taskAccess c t { remoteAccess .load h (2 ^ size) (.reg d sx) with va := ea.toNat, pa, nc }).park c t (.reply s.nextId)
        (.gld h sx size d a off) (ctlLen h 2)

/-- `gst`: the task does not park. -/
def execGst (h : CHdr) (size a b off : Nat) (s : State) : Out :=
  asTask s fun c t =>
    let ea := lsAddr s c t a off
    fabricAccess (2 ^ size) .wr ea s c t fun pa nc =>
      s.memoryAccess c t (ctlLen h 2) { remoteAccess .store h (2 ^ size) .none with
        va := ea.toNat, pa, nc, data := storeCells pa (2 ^ size) (storeValue s c t size b) }

/-- `gatom`: op 9 is `cas`; the task parks until the reply arrives. -/
def execGatom (h : CHdr) (op size d a b : Nat) (s : State) : Out :=
  asTask s fun c t =>
    let ea := s.reg c t a
    let n := 2 ^ size
    fabricAccess n .at_ ea s c t fun pa nc =>
      (s.taskAccess c t { remoteAccess (.atom (if op = 9 then 0 else op)) h n (.reg d false) with
        va := ea.toNat, pa, nc, data := storeCells pa n (s.reg c t b).toNat,
        cmp := if op = 9 then some ((s.reg c t d).toNat % 2 ^ (8 * n)) else none }).park c t (.reply s.nextId) (.gatom h op size d a b) (ctlLen h 2)

/-- `gnfy` (R378): relaxed it sets out at once; with release it waits in the task's queue. -/
def execGnfy (h : CHdr) (a : Nat) (s : State) : Out :=
  asTask s fun c t =>
    let v := s.reg c t a
    if v.toNat / 2 ^ 18 ≠ 0 then s.trap c t 19 v
    else if relOf h then
      (s.taskAccess c t { remoteAccess (.notify v.toNat) h 0 .none with va := v.toNat }).goOn c t (ctlLen h 1)
    else (s.post (evTarget v.toNat).1 (evTarget v.toNat).2 ((s.weaveOf c).map fun w => w.id) (s.core c).ctxno none).goOn c t (ctlLen h 1)

/-! Sending (R377, R481). -/

/-- An earlier access of the party that has left on the same ordered path holds a later relaxed one no more. -/
def onPath (e a : Access) : Bool := e.space == .fabric && e.stage != .queued && !a.rel && !e.acq && a.kind != .qmark

/-- The request may leave its core: a store of the vector strand no earlier than it may be performed (R268). -/
def Core.maySend (k : Core) (a : Access) : Bool := ((k.earlier a).all fun e => !(e.waiting && e.blocks a) || onPath e a) && k.mayStore a

/-- The plane of requests of core c for die d: the core in its die plus 4 times the package of the target plus its die in the package, modulo
16 (R374). -/
def fabricPlane (c d : Nat) : Nat := (c % 64 + 4 * (d / 2) + d % 2) % 16

/-- The plane that an access of core c takes: a contribution that of its group (R374, R385). -/
def Access.planeOf (a : Access) (c : Nat) : Nat :=
  match a.kind with
  | .contribution h _ => h / 1024
  | _ => fabricPlane c (paDie a.pa)

/-- Access id of core c leaves on its plane, after what the core has sent before (R374). -/
def State.sendNow (s : State) (c id : Nat) : State :=
  (s.modAccess c id fun x => { x with stage := .sent, resendAt := 0, plane := x.planeOf c, sentNo := s.nextId }).fresh

/-- The core has left (R377): releases write back first; a release `gnfy` becomes a signal (R378). -/
def State.sendFabric (s : State) (c : Nat) (a : Access) : State :=
  if s.isFrozen c || a.stage != .queued || !(s.core c).maySend a then s
  else
    let s1 := s.before_ c a.ordered
    match a.kind with
    | .notify ev => (s1.endAccess c a.id).post (evTarget ev).1 (evTarget ev).2 ((s.weaveOf c).map fun w => w.id) (s.core c).ctxno (some a.scope)
    | _ => s1.sendNow c a.id

/-- The request may be performed at its target: stores go on behind a logged store of their own path (R125), and the requests of one core
to one die keep the order in which they were sent (R374). -/
def Core.mayArrive (k : Core) (a : Access) : Bool :=
  ((k.earlier a).all fun e =>
    !(e.waiting && e.blocks a) || (e.stage == .logged && e.kind == .store && a.kind == .store && !a.rel))
  && k.accs.all fun e => !(e.space == .fabric && e.stage == .sent && e.target == a.target && decide (e.sentNo < a.sentNo))

/-! The window tables (R122, R123). -/

/-- The fields of a window-table entry. -/
def winCtx (w : Word) : Nat := bits w 48 16
def winBase (w : Word) : Nat := bits w 16 25 * 2 ^ 16
def winSize (w : Word) : Nat := bits w 10 6

/-- The entry matches a request of a context for n bytes at a die offset. -/
def winMatches (w : Word) (ctx off n : Nat) : Bool :=
  bits w 9 1 == 1 && decide (16 ≤ winSize w) && decide (winSize w ≤ 41) && (winCtx w == ctx || winCtx w == 0xFFFF)
  && decide (winBase w ≤ off) && decide (off + n ≤ winBase w + 2 ^ winSize w)

/-- The entry grants a permission. -/
def winGrants (w : Word) (p : Perm) : Bool :=
  match p with
  | .rd => bits w 8 1 == 1
  | .wr => bits w 7 1 == 1
  | .at_ => bits w 6 1 == 1
  | .x => false

/-- The window entries of a die, the lowest-numbered first. -/
def State.windowsOf (s : State) (d : Nat) : List Word := (s.windows.filter fun e => e.1 / 4096 == d).map fun e => e.2

/-- The check of a request at die d: passed, no matching entry (0), or no permission (1). -/
def State.windowCheck (s : State) (d ctx : Nat) (p : Perm) (off n : Nat) : Option Nat :=
  match firstWhere (fun w => winMatches w ctx off n) (s.windowsOf d) with
  | none => some 0
  | some w => if winGrants w p then none else some 1

/-- n bytes at a die offset pass the window table of die d. -/
def State.windowOk (s : State) (d ctx : Nat) (p : Perm) (off n : Nat) : Bool := (s.windowCheck d ctx p off n).isNone

/-- The retry-after hint of a package (R150). -/
def State.hintOf (s : State) (p : Nat) : Nat := (tget {} s.logs p).wctl

/-! The remote-store log (R124, R125). -/

/-- A store of core c to die d is in the log and not acknowledged. -/
def Core.loggedTo (k : Core) (d : Nat) : List Access := k.accs.filter fun a => a.stage == .logged && paDie a.pa == d

/-- The code of a size: 0 to 4 for 1 to 16 bytes. -/
def sizeCode (n : Nat) : Nat := n.log2

/-- The bytes of a log entry (R124). -/
def logEntry (a : Access) (ctx cause src seq : Nat) : List Byte :=
  let body := bytesOfNum 8 a.pa ++ a.data.map Prod.snd ++ List.replicate (16 - a.data.length) 0#8
  body ++ bytesOfNum 2 ctx ++ bytesOfNum 1 (sizeCode a.n) ++ bytesOfNum 1 cause ++ bytesOfNum 2 src ++ bytesOfNum 2 seq

/-- The log of package p has not n free entries: LOGHEAD and LOGTAIL count on without a bound (assumption 101). -/
def RemoteLog.lacks (l : RemoteLog) (n : Nat) : Bool := decide (65536 < l.head - l.tail + n)

/-- The log has no free entry. -/
def RemoteLog.full (l : RemoteLog) : Bool := l.lacks 1

/-- The aligned runs of 4, 8 or 16 bytes in the 16 bytes from u that hold the bytes of a list of cells: start and length. -/
def cellRuns (cells : List Host.Cell) (u : Nat) : List (Nat × Nat) :=
  let on (q : Nat) : Bool := cells.any fun x => x.1 == u + 4 * q
  let half (q : Nat) : List (Nat × Nat) :=
    match on q, on (q + 1) with
    | true, true => [(u + 4 * q, 8)]
    | true, false => [(u + 4 * q, 4)]
    | false, true => [(u + 4 * (q + 1), 4)]
    | false, false => []
  if on 0 && on 1 && on 2 && on 3 then [(u, 16)] else half 0 ++ half 2

/-- The stores that the log enters for a store: a sector of a `vst` by the runs of its bytes, each of a SIZE (R124, R282; assumption 119). -/
def Access.parts (a : Access) : List Access :=
  if a.n ≤ 16 then [a]
  else (span 0 (a.n / 16)).flatMap fun i => (cellRuns a.data (a.pa + 16 * i)).map fun r =>
    { a with pa := r.1, n := r.2, data := a.data.filter fun x => decide (r.1 ≤ x.1) && decide (x.1 < r.1 + r.2) }

/-- Package p. -/
def State.pkg (s : State) (p : Nat) : Pkg := tget {} s.pkgs p

/-- The state with f applied to package p. -/
def State.modPkg (s : State) (p : Nat) (f : Pkg → Pkg) : State := { s with pkgs := tmod {} s.pkgs p f }

/-- The management block of package p answers: the package is past its ROM (R503, R507). -/
def State.mgmtUp (s : State) (p : Nat) : Bool := decide (p < 64) && (s.pkg p).boot != .off && (s.pkg p).boot != .rom

/-- The other windows of package p answer: it is not in RECOVERY either (R507). -/
def State.hostUp (s : State) (p : Nat) : Bool := s.mgmtUp p && (s.pkg p).boot != .recovery

/-- An attention bit of package p rises (R511): with its enable set, the rise raises the MSI-X vector. -/
def State.attention (s : State) (p bit_ : Nat) : State :=
  { s with pkgs := tmod {} s.pkgs p fun x =>
      if x.mgmtint.testBit bit_ then x
      else { x with mgmtint := x.mgmtint + 2 ^ bit_, msix := if x.mgmten.testBit bit_ then x.msix + 1 else x.msix } }

/-- One entry for a store of core c in the log of its target's package (R124), whose attention bit LOG rises; the core counts SEQ over every
log (assumption 96). -/
def State.logPart (s : State) (c : Nat) (cause : Nat) (a : Access) : State :=
  let p := paPkg a.pa
  let l := tget {} s.logs p
  let seq := (s.core c).logSeq % 65536
  let s1 := s.homeWrite none (cellsFrom (l.base + 32 * (l.head % 65536)) (logEntry a (s.core c).ctxno cause c seq))
  let s2 := { s1 with logs := tput s1.logs p { l with head := l.head + 1 } }.attention p 0
  s2.modCore c fun k => { k with logSeq := k.logSeq + 1 }

/-- A store of core c enters the log of its target's package (R124). -/
def State.logStore (s : State) (c : Nat) (a : Access) (cause : Nat) : State :=
  let seq (i : Nat) : Nat := ((s.core c).logSeq + i) % 65536
  (a.parts.foldl (fun s b => s.logPart c cause b) s).modAccess c a.id fun x =>
    { x with stage := .logged, seq := seq 0, also := (span 1 (a.parts.length - 1)).map seq }

/-- The target queues a missed request of n bytes at pa for system software (R123). -/
def State.queueMiss (s : State) (ctx pa n : Nat) : State := { s with misses := s.misses ++ [{ ctx, pa, n }] }

/-- A request is refused: the target queues the miss, and the refusal with its hint is on its way back (R123). -/
def State.refuse (s : State) (c : Nat) (a : Access) : State :=
  (s.queueMiss (s.core c).ctxno a.pa a.n).modAccess c a.id fun x => { x with stage := .refused, hint := s.hintOf (paPkg a.pa), resendAt := 0 }

/-- The permission a request needs. -/
def Access.perm (a : Access) : Perm :=
  match a.kind with
  | .load => .rd
  | .atom _ => .at_
  | _ => .wr

/-- What the target answers to a request (R123 to R125): it passes, it is refused, or its store is logged with a cause. -/
inductive Verdict where
  | pass
  | refused
  | logged (cause : Nat)

/-- The address and the bytes of every store with source c to die d that is logged and not acknowledged: of the core's own accesses, and of
the emits of runs that the core started (R125). -/
def State.loggedTo (s : State) (c d : Nat) : List (Nat × Nat) :=
  let emits (x : SmCtx) : List (Nat × Nat) := (x.out.filter fun e => e.core == c && e.logged && paDie e.pa == d).map fun e => (e.pa, e.data.length)
  (((s.core c).loggedTo d).map fun a => (a.pa, a.n))
  ++ s.smps.flatMap fun y => y.2.ctxs.flatMap fun h => emits h.2

/-- The check of request a of core c at its target. A write of a copy transfer is never logged (R237). -/
def State.verdict (s : State) (c : Nat) (a : Access) : Verdict :=
  let k := s.core c
  let d := paDie a.pa
  let prior := s.loggedTo c d
  let check := s.windowCheck d k.ctxno a.perm (paOff a.pa) a.n
  if a.kind == .store && a.xfer == 0 then
    match (if prior.isEmpty then check else some 2) with
    | none => .pass
    | some cause => if (tget {} s.logs (paPkg a.pa)).lacks (max 1 a.parts.length) then .refused else .logged cause
  else if a.kind != .store && prior.any fun e => decide (e.1 < a.pa + a.n) && decide (a.pa < e.1 + e.2) then .refused
  else if check.isNone then .pass else .refused

/-! At the home (R376). -/

/-- The reply of access id carries a fault. -/
def State.failReply (s : State) (c id code : Nat) : State := s.modAccess c id fun x => { x with stage := .performed, fault := code }

/-- A request that passed is performed at the home of its line; ecc is the error its read meets. A store reads nothing, and one of a task has
met a line of the error-address table at its issue (R222). The requester's L1 does not
serve it; an older copy of the line there is evicted first, as it may be at any time (R132), so that the party's own accesses keep
the order of each byte (R138, R139). -/
def State.performFabric (s : State) (c : Nat) (a : Access) (ecc : Nat) : State :=
  let reads := a.kind != .store
  if reads && s.mixed c a then s.failReply c a.id 18
  else if (reads || decide (8 ≤ a.party)) && s.errorLine (a.pa / 128) then s.failReply c a.id 17
  else if reads && ecc = 3 && !s.cleanCopy (a.pa / 32) then (s.countError (paDie a.pa) 3).failReply c a.id 17
  else
    let s0 := if ecc = 0 || !reads then s
      else if ecc = 3 then (s.homeDrop (a.pa / 32)).countError (paDie a.pa) 1
      else s.countError (paDie a.pa) ecc
    let s1 := (s0.yieldLines c a).markStrong c a
    match a.kind with
    | .store => (s1.homeWrite none a.data).fix c a []
    | .atom op =>
      let r := s1.homeAtomic none a.pa a.n op (numBytes (a.data.map Prod.snd)) a.cmp
      r.2.fix c a (bytesOfNum a.n r.1)
    | _ =>
      let s2 := ((a.addrs.map fun x => x / 32).eraseDups).foldl (fun s k => s.homeFetch k) s1
      s2.fix c a ((s2.core c).forwarded a (s2.homeBytes a.pa a.n))

/-! Refusals and replies. -/

/-- A reply for access id may come out of the halt buffer, which keeps the order of arrival (R481). -/
def Core.replyTurn (k : Core) (id : Nat) : Bool := k.haltBuf.isEmpty || k.haltBuf.head? == some id

/-- A reply bound for a frozen core waits in the halt buffer (R481). -/
def State.holdReply (s : State) (c id : Nat) : State :=
  s.modCore c fun k => if k.haltBuf.contains id then k else { k with haltBuf := k.haltBuf ++ [id] }

/-- The reply leaves the halt buffer. -/
def State.unholdReply (s : State) (c id : Nat) : State := s.modCore c fun k => { k with haltBuf := k.haltBuf.filter (· != id) }

/-- No task waits for the access any more: its wait was left, or its task has exited, and what comes of it is discarded (R216, R225). -/
def State.unawaited (s : State) (c : Nat) (a : Access) : Bool :=
  decide (a.party < 8) && (a.orphan || (a.loadLike && (s.waitOf c a.party).map (fun w => w.what) != some (.reply a.id)))

/-- A fabric access ends in REMOTE_ACCESS (R123): a `gst` reports to task 0, every other access as its fault does. -/
def State.remoteFault (s : State) (c : Nat) (a : Access) : State :=
  if a.loadLike && s.unawaited c a then s.endAccess c a.id
  else if a.party < 8 && a.kind == .store then (s.endAccess c a.id).asyncFault c 15 a.party (word a.va) a.word else s.accessFault c a 15

/-- FABRIC_REFUSAL: the refusal of access id reaches core c (R123). -/
def execFabricRefusal (c id : Nat) (s : State) : Out :=
  let k := s.core c
  match k.access id with
  | none => .next s
  | some a =>
    if a.stage != .refused || a.resendAt != 0 || !k.replyTurn id then .next s
    else if s.isFrozen c then .next (s.holdReply c id)
    else
      let s1 := s.unholdReply c id
      if a.hint ≠ 0 ∧ a.tries + 1 < bits k.rctl 0 16 then
        .next (s1.modAccess c id fun x => { x with tries := x.tries + 1, resendAt := s.time + 64 * x.hint })
      else .next (s1.remoteFault c a)

/-- FABRIC_RETRY_RESEND: H · 64 ns after the refusal the request is sent again (R123). -/
def execFabricRetryResend (c id : Nat) (s : State) : Out :=
  match (s.core c).access id with
  | none => .next s
  | some a =>
    if a.stage != .refused || a.resendAt == 0 || decide (s.time < a.resendAt) || s.isFrozen c then .next s
    else .next (s.sendNow c id)

/-- FABRIC_REPLY: a reply or acknowledgement reaches core c (R376, R377): a value goes to its register, a discarded store
is REMOTE_STORE (R125), an error of the target the fault it names. -/
def execFabricReply (c id : Nat) (s : State) : Out :=
  let k := s.core c
  match k.access id with
  | none => .next s
  | some a =>
    if a.space != .fabric || a.stage != .performed || !k.replyTurn id then .next s
    else if s.isFrozen c then .next (s.holdReply c id)
    else
      let s1 := s.unholdReply c id
      match a.fault with
      | 0 => .next ((s1.deliver c a).after_ c a.ordered)
      | 16 => .next ((s1.endAccess c id).asyncFault c 16 (if a.party < 8 then a.party else 0) (word a.pa) a.word)
      | code => .next (if s1.unawaited c a then s1.endAccess c id else s1.accessFault c a code)

/-! Acknowledgements of logged stores (R125). -/

/-- A logged store after the acknowledgement of its entry seq, or the failure of it: it is done once none of its entries is left. -/
def Access.acknowledged (a : Access) (seq fault : Nat) : Access :=
  match (a.seq :: a.also).erase seq with
  | [] => { a with stage := .performed, fault := max a.fault fault }
  | n :: rest => { a with seq := n, also := rest, fault := max a.fault fault }

/-- A store of the log of package p is acknowledged: v holds SEQ and SRC; fault is the fault its reply carries. -/
def State.acknowledge (s : State) (p : Nat) (v : Word) (fault : Nat) : State :=
  let c := bits v 16 13
  let seq := bits v 0 16
  let hit (a : Access) : Bool := a.stage == .logged && (a.seq :: a.also).contains seq && paPkg a.pa == p
  s.modCore c fun k => { k with accs := modFirst hit (fun a => a.acknowledged seq fault) k.accs }

end Sys2Proof.Machine
end

