-- ==== Sys2Proof/Machine/Command.lean ====
section
/-! DEFINITION. The blocks that the control slice's commands read from virtual memory: loads of the task at core scope, which
see its own earlier stores (R139). -/

namespace Sys2Proof.Machine

/-- What the read of a block gives: its bytes, a trap, or a fatal context error with its virtual address. -/
inductive BlockRead where
  | ok (bs : List Byte)
  | trap (code : Nat)
  | fatal (status va : Nat)

/-- The places of a block of n bytes at va: physical pieces, or why not. -/
inductive BlockPlace where
  | ok (ps : List (Nat × Nat))
  | trap (code : Nat)
  | fatal (status va : Nat)

/-- The pieces of a range as a load of core c finds them (R115, R117). -/
def placesOf (c : Nat) : List (Nat × Xlat × Nat) → BlockPlace
  | [] => .ok []
  | (va, x, n) :: t =>
    match x with
    | .bad st => .fatal st va
    | .ok pa _ =>
      if paPkg pa ≠ pkgOf c then .fatal 9 va
      else if inDev pa then .trap 8
      else match placesOf c t with
        | .ok ps => .ok ((pa, n) :: ps)
        | r => r

/-- The places of the n bytes at va for core c. -/
def State.blockPlace (s : State) (c va n : Nat) (p : Perm) : BlockPlace :=
  if 2 ^ 64 < va + n then .fatal 7 (2 ^ 64 - 1) else placesOf c (pieces (s.core c).seg p va n)

/-- The physical addresses of pieces. -/
def pieceAddrs (ps : List (Nat × Nat)) : List Nat := ps.flatMap fun p => span p.1 p.2

/-- The stores of a party that are not performed yet, into virtual space and over the fabric (R139). -/
def Core.ownStores (k : Core) (party : Nat) : List Access := (k.pending party).filter fun e => e.kind == .store && sameMemory e.space .virt

/-- The bytes at physical addresses as a load of task t of core c at core scope finds them, its own stores over them. -/
def State.taskBytes (s : State) (c t : Nat) (as : List Nat) : List Byte := forward as (s.seenBytes c 1 as) ((s.core c).ownStores t)

/-- A command reads n bytes at va (R139, R336). -/
def State.readBlock (s : State) (c t va n : Nat) : BlockRead :=
  match s.blockPlace c va n .rd with
  | .trap code => .trap code
  | .fatal st a => .fatal st a
  | .ok ps => if ps.any fun p => s.errorLine (p.1 / 128) then .trap 17 else .ok (s.taskBytes c t (pieceAddrs ps))

/-- A command of task t reads a block; a failing read is its trap or fatal context error, else go gets the bytes. -/
def withBlock (s : State) (c t va n : Nat) (go : List Byte → State) : State :=
  match s.readBlock c t va n with
  | .ok bs => go bs
  | .trap code => s.trap c t code (word va)
  | .fatal st a => s.fatal c t 0 st (s.task c t).pc (word a)

/-- Word i of 64 bits of a block. -/
def blockWord (bs : List Byte) (i : Nat) : Nat := numBytes ((bs.drop (8 * i)).take 8)

/-- Word i of 32 bits of a block. -/
def blockHalf (bs : List Byte) (i : Nat) : Nat := numBytes ((bs.drop (4 * i)).take 4)

/-- The segment entry that decides every byte of a range. -/
def oneEntry (seg : Tbl SegEnt) (va n : Nat) : Option SegEnt :=
  match segFor seg va with
  | none => none
  | some e => if va + n ≤ 2 ^ 64 ∧ (pieces seg .rd va n).all (fun p => segFor seg p.1 == some e) then some e else none

end Sys2Proof.Machine
end

