-- ==== Sys2Proof/Machine/Nmu.lean ====
section
/-! DEFINITION. The near-memory units (R319 to R351): the words, boundaries, commands of the control slice, the queue, errors,
and how a command stops and goes on. -/

namespace Sys2Proof.Machine

/-! Units and lines (R319, R320). -/

/-- NMU n of the panel. -/
def State.nmu (s : State) (n : Nat) : Nmu := tget {} s.nmus n

/-- The state with f applied to NMU n. -/
def State.modNmu (s : State) (n : Nat) (f : Nmu → Nmu) : State := { s with nmus := tmod {} s.nmus n f }

/-- The die offset of the line at LA of NMU n of the panel. -/
def lineOff (n la : Nat) : Nat := la * 2 ^ 15 + n % 2 * 2 ^ 14 + (32 * (n / 64 % 4) + n % 64 / 2) * 2 ^ 7

/-- The panel-physical address of the line. -/
def linePa (n la : Nat) : Nat := n / 256 * 2 ^ 41 + lineOff n la

/-- The first byte of the save rows of a die (R320): row 32,767 of every bank. -/
def saveRows : Nat := 32767 * 2 ^ 23

/-- A line at the banks. -/
def State.bankLine (s : State) (n la : Nat) : Nat := numBytes (bytesAt s.banks (linePa n la) 128)

/-- The partial target of an EMIT word (R397). -/
def emitMsg (id emit : Nat) (kind : PKind) (p : NPart) : PartMsg :=
  { id, h := fld emit 0 14, gen := fld emit 48 16, slot := fld emit 38 10, qtag := fld emit 22 16, kind, part := p }

/-- A partial sets out. -/
def State.sendPartial (s : State) (emit : Nat) (kind : PKind) (p : NPart) : State :=
  { s with partials := s.partials ++ [emitMsg s.nextId emit kind p], nextId := s.nextId + 1 }

/-! Boundaries (R332). -/

/-- Lines of 128 bytes go to the banks of NMU n. -/
def State.putLines (s : State) (n : Nat) (ls : List (Nat × Nat)) : State :=
  { s with banks := ls.foldl (fun m l => setBytes m (linePa n l.1) (bytesOfNum 128 l.2)) s.banks }

/-- The partials that a command holds leave in issue order. -/
def State.sendPartials (s : State) (emit : Nat) (ps : List NPart) : State := ps.foldl (fun s p => s.sendPartial emit .normal p) s

/-- The iteration commits: its lines go to the banks, its partials leave; those of a halted weave are held (R332, R350). -/
def State.nmuCommit (s : State) (n : Nat) (r : NRun) : State :=
  let s1 := s.putLines n r.lines
  if s.weaveHalted r.cmd.weave then s1 else s1.sendPartials r.cmd.emit (r.held ++ r.parts)

/-- A safe point of a context is counted (R332). -/
def Nmu.safePoint (u : Nmu) (ctx : Nat) : Nmu :=
  { u with ctxs := u.ctxs.map fun e => if e.1 = ctx then (e.1, (e.2 + 1) % 2 ^ 32) else e }

/-- A boundary of a loop word with SP: commit; the checkpoint follows with the state that the boundary leaves. A safe point among
boundaries that coincide is one. -/
def State.nmuBoundary (s : State) (n : Nat) (r : NRun) (sp : Bool) : State × NRun :=
  let safe := sp && !r.st.dirty
  let s1 := s.nmuCommit n r
  let s2 := if safe then s1.modNmu n fun u => u.safePoint r.cmd.ctx else s1
  (s2, { r with lines := [], parts := [], held := if s.weaveHalted r.cmd.weave then r.held ++ r.parts else [], atBoundary := true, safe := r.safe || safe })

/-- The command as it runs on: the checkpoint is its state where it stands at a boundary. -/
def State.setRun (s : State) (n : Nat) (r : NRun) : State :=
  s.modNmu n fun u => { u with run := some (if r.atBoundary then { r with point := r.st, pointSafe := r.safe } else r) }

/-- After a word: the loops that end at pc go to their next iteration or are left, with a boundary each (R331, R332). -/
def nmuClose (n : Nat) : Nat → State × NRun → State × NRun
  | 0, x => x
  | f + 1, (s, r) =>
    match r.st.loops with
    | [] => (s, r)
    | l :: rest =>
      if r.st.pc ≠ l.last then (s, r)
      else
        let b := s.nmuBoundary n r l.sp
        if 1 < l.remain then
          (b.1, { b.2 with st := { b.2.st with pc := l.first, loops := { l with remain := l.remain - 1 } :: rest } })
        else nmuClose n f (b.1, { b.2 with st := { b.2.st with loops := rest } })

/-- The word is done: the next word. -/
def State.nmuStep (s : State) (n : Nat) (r : NRun) : State :=
  let r1 := { r with st := { r.st with pc := r.st.pc + 1 }, atBoundary := false, safe := false }
  let x := nmuClose n 3 (s, r1)
  x.1.setRun n x.2

/-! The end of a command (R340, R343, R344). -/

/-- The statuses that raise NMU_ABORT. -/
def isAbort (st : Nat) : Bool := decide (1 ≤ st) && decide (st ≤ 6)

/-- NMU_ABORT for the first NMU of a command that aborts (R344). -/
def State.raiseAbort (s : State) (n : Nat) (c : NCmd) (st : Nat) : State :=
  if s.aborted.contains c.id then s
  else ({ s with aborted := s.aborted ++ [c.id] }.jobFault c.weave c.core 37 (word (n % 64 + 2 ^ 6 * (n / 64 % 8) + 2 ^ 16 * st))).1

/-- What an aborted command does besides (R344, R396): NMU_ABORT in its issuer, and for a stripe a FAILED partial. -/
def State.abortEffects (s : State) (n : Nat) (c : NCmd) (st : Nat) : State :=
  let s1 := if isAbort st then s.raiseAbort n c st else s
  if c.stripe && isAbort st then s1.sendPartial c.emit .failed { m := 0, l := 0, o := [] } else s1

/-- NMUSTAT with the end of a command counted (R351). -/
def nmuEndStat (w : Word) (st : Nat) (retried : Bool) : Word :=
  match st with
  | 0 => let w1 := wrapUp w 0 16 1; if retried then countUp w1 48 16 1 else w1
  | 4 => countUp w 32 16 1
  | 6 => countUp w 16 16 1
  | _ => w

/-- The running command of NMU n ends with a status; what its iteration holds is discarded. -/
def State.nmuEnd (s : State) (n : Nat) (r : NRun) (st : Nat) : State :=
  let s0 := if st = 0 ∧ r.retried = true then s.countError (n / 256) 2 else s
  let s1 := s0.modNmu n fun u =>
    { { u with run := some r }.leave with last := tput u.last r.cmd.weave st, stat := nmuEndStat u.stat st r.retried }
  let s2 := s1.abortEffects n r.cmd st
  match st, r.cmd.bar with
  | 0, some b =>
    match s2.barAddOf r.cmd.weave b (128 * r.st.stores) with
    | some s3 => s3
    | none => (s2.jobFault r.cmd.weave r.cmd.core 14 (word r.cmd.barVa)).1
  | _, _ => s2

/-! The words. -/

/-- What a word does to the running command: its next state, or the status that ends it. -/
inductive NStep where
  | go (p : NPoint)
  | stop (status : Nat)

/-- A word of an NMU: nobody else runs it. The command stands at a boundary until the word has issued (R332). -/
def asNmu (s : State) (f : Nat → NRun → State) : Out :=
  match s.cur with
  | .nmu n => match (s.nmu n).run with
    | some r => .next (f n r)
    | none => .next s
  | _ => .next s

/-- Register d of the command, of 1,024 bits. -/
def NPoint.reg (p : NPoint) (d : Nat) : Nat := tget 0 p.n d

/-- The state with register d written: an accumulator register sets DIRTY (R330). -/
def NPoint.put (p : NPoint) (d v : Nat) : NPoint := { p with n := tput p.n d v, dirty := p.dirty || decide (16 ≤ d) }

/-- A word that writes register d with v of the state. -/
def regWord (d : Nat) (v : NPoint → Nat) (s : State) : Out :=
  asNmu s fun n r => s.nmuStep n { r with st := r.st.put d (v r.st) }

/-- Element e of w bits of a register. -/
def lineElem (v w e : Nat) : Nat := fld v (w * e) w

/-- A register from its elements of w bits, the first lowest. -/
def ofElems (w : Nat) : List Nat → Nat
  | [] => 0
  | x :: t => x % 2 ^ w + 2 ^ w * ofElems w t

/-- The width and the count of the elements of a view (R322). -/
def viewW (fmt : Nat) : Nat := elemWidth (nmuElem fmt)
def viewN (fmt : Nat) : Nat := 1024 / viewW fmt

/-- The elements of a view of a register. -/
def lineElems (fmt v : Nat) : List Nat := (span 0 (viewN fmt)).map fun e => lineElem v (viewW fmt) e

/-- An element-wise word: f gets the elements of a, b and d (R324). -/
def elemWord (fmt d a b : Nat) (f : Nat → Nat → Nat → Nat) (s : State) : Out :=
  regWord d (fun p => ofElems (viewW fmt) ((span 0 (viewN fmt)).map fun e =>
    f (lineElem (p.reg a) (viewW fmt) e) (lineElem (p.reg b) (viewW fmt) e) (lineElem (p.reg d) (viewW fmt) e))) s

/-- How an arithmetic word rounds (R323). -/
def nmuCtl (f : NAr) : RndCtl := { rm := f.rm, sat := f.sat, ftz := f.ftz }

/-- `nadd`, `nsub`, `nmul`, `nfma` (R324). -/
def arWord (op : ArOp) (f : NAr) (d a b : Nat) (s : State) : Out :=
  elemWord f.fmt d a b (fun x y z => (arithElem op (nmuElem f.fmt) (nmuCtl f) x y z).bits) s

def execNadd (f : NAr) (d a b : Nat) (s : State) : Out := arWord .add f d a b s
def execNsub (f : NAr) (d a b : Nat) (s : State) : Out := arWord .sub f d a b s
def execNmul (f : NAr) (d a b : Nat) (s : State) : Out := arWord .mul f d a b s
def execNfma (f : NAr) (d a b : Nat) (s : State) : Out := arWord .fma f d a b s

def execNmax (ftz : Bool) (fmt d a b : Nat) (s : State) : Out :=
  elemWord fmt d a b (fun x y _ => (arithElem .max (nmuElem fmt) { ftz } x y 0).bits) s

def execNmin (ftz : Bool) (fmt d a b : Nat) (s : State) : Out :=
  elemWord fmt d a b (fun x y _ => (arithElem .min (nmuElem fmt) { ftz } x y 0).bits) s

/-- `ncmp` (R324). -/
def execNcmp (rel : Nat) (ftz : Bool) (fmt d a b : Nat) (s : State) : Out :=
  elemWord fmt d a b (fun x y _ => if relElem rel (nmuElem fmt) ftz x y then 2 ^ viewW fmt - 1 else 0) s

/-- The float format of an NMU view, for `nexp2`. -/
def nmuFloat (fmt : Nat) : FFmt :=
  match fmt with
  | 0 => .f32
  | 1 => .bf16
  | _ => .f16

/-- `nexp2` (R324). -/
def execNexp2 (ftz : Bool) (fmt d a : Nat) (s : State) : Out :=
  elemWord fmt d a a (fun x _ _ => (specialElem .exp2 (nmuFloat fmt) ftz x).bits) s

/-- All bits of a register. -/
def lineOnes : Nat := 2 ^ 1024 - 1

/-- `nsel` (R325). -/
def execNsel (d a b : Nat) (s : State) : Out :=
  regWord d (fun p => (p.reg d &&& p.reg a) ||| ((lineOnes - p.reg d) &&& p.reg b)) s

/-- `nmov` (R325). -/
def execNmov (d a : Nat) (s : State) : Out := regWord d (fun p => p.reg a) s

/-- `nlogic` (R325). -/
def execNlogic (fn d a b : Nat) (s : State) : Out :=
  regWord d (fun p => match fn with
    | 0 => p.reg a &&& p.reg b
    | 1 => p.reg a ||| p.reg b
    | 2 => p.reg a ^^^ p.reg b
    | 3 => p.reg a &&& (lineOnes - p.reg b)
    | _ => lineOnes - p.reg a) s

/-- Every element of a view as v. -/
def splat (fmt v : Nat) : Nat := ofElems (viewW fmt) (List.replicate (viewN fmt) v)

/-- `nbcst` (R325). -/
def execNbcst (fmt e d a : Nat) (s : State) : Out := regWord d (fun p => splat fmt (lineElem (p.reg a) (viewW fmt) e)) s

/-- The 32-bit cell that `nset` writes (R325). -/
def nsetCell (kind v : Nat) : Nat :=
  match kind with
  | 0 => patternOf 32 (signedOf 9 v)
  | 1 => v * 2 ^ 23
  | _ => v * 2 ^ 7 * 2 ^ 16 + v * 2 ^ 7

/-- `nset` (R325). -/
def execNset (kind v d : Nat) (s : State) : Out := regWord d (fun _ => splat 0 (nsetCell kind v)) s

/-- `ncvt` (R326). -/
def ncvtLine (half dst : Nat) (f : NAr) (d a : Nat) : Nat :=
  let cvt (x : Nat) : Nat := (convertElem (nmuElem f.fmt) (nmuElem dst) (nmuCtl f) x).bits
  let ws := viewW f.fmt
  let wt := viewW dst
  if ws = wt then ofElems wt ((lineElems f.fmt a).map cvt)
  else if ws = 32 then
    ofElems 16 ((span 0 64).map fun e => if e / 32 = half then cvt (lineElem a 32 (e % 32)) else lineElem d 16 e)
  else ofElems 32 ((span 0 32).map fun e => cvt (lineElem a 16 (32 * half + e)))

def execNcvt (half dst : Nat) (f : NAr) (d a : Nat) (s : State) : Out :=
  regWord d (fun p => ncvtLine half dst f (p.reg d) (p.reg a)) s

/-- The view of the vector engine that has a view's format. -/
def nmuView (fmt : Nat) : Nat :=
  match fmt with
  | 0 => 0
  | 1 => 2
  | 2 => 3
  | _ => 1

/-- A reduction of every element through the tree of R280, in every element of d (R327). -/
def reduceLine (op : Nat) (f : NAr) (a : Nat) : Nat :=
  match reduceElems op { view := nmuView f.fmt, rm := f.rm, sat := f.sat, ftz := f.ftz } ((lineElems f.fmt a).map some) with
  | some r => splat f.fmt r.bits
  | none => 0

def execNredmax (sat ftz : Bool) (fmt d a : Nat) (s : State) : Out :=
  regWord d (fun p => reduceLine 1 { sat, ftz, fmt } (p.reg a)) s

def execNredsum (f : NAr) (d a : Nat) (s : State) : Out := regWord d (fun p => reduceLine 0 f (p.reg a)) s

/-- The line address of a load or store (R328). -/
def nmuLa (p : NPoint) (a off : Nat) : Nat := patternOf 23 (((tget 0 p.y a : Nat) : Int) + signedOf 10 off)

/-- The line lies in the command's region and in no save row (R320, R341). -/
def inRegion (n : Nat) (c : NCmd) (la : Nat) : Bool :=
  let o := lineOff n la
  decide (c.lo ≤ o) && decide (o + 128 ≤ c.hi) && decide (o < saveRows)

/-- The post-increment of a line-address register (R328). -/
def NPoint.postY (p : NPoint) (pi : Bool) (a : Nat) : NPoint :=
  if pi then { p with y := tput p.y a ((tget 0 p.y a + 1) % 2 ^ 23) } else p

/-- A line as the command reads it: held in the iteration buffer, else at the banks (R332). -/
def State.nmuLine (s : State) (n : Nat) (r : NRun) (la : Nat) : Nat := (tfind r.lines la).getD (s.bankLine n la)

/-- `nld` (R328); a line of the error-address table is MEMORY_ERROR (R136, R345). -/
def execNld (pi : Bool) (off d a : Nat) (s : State) : Out :=
  asNmu s fun n r =>
    let la := nmuLa r.st a off
    if !inRegion n r.cmd la then s.nmuEnd n r 2
    else if (tfind r.lines la).isNone && s.errorLine (linePa n la / 128) then s.nmuEnd n r 5
    else s.nmuStep n { r with st := (r.st.put d (s.nmuLine n r la)).postY pi a }

/-- `nst` (R328, R332): the 17th line of an iteration is ITER_FULL. -/
def execNst (pi : Bool) (off d a : Nat) (s : State) : Out :=
  asNmu s fun n r =>
    let la := nmuLa r.st a off
    if !inRegion n r.cmd la then s.nmuEnd n r 2
    else if (tfind r.lines la).isNone && decide (16 ≤ r.lines.length) then s.nmuEnd n r 3
    else
      let st := ({ r.st with stores := r.st.stores + 1 } : NPoint).postY pi a
      s.nmuStep n { r with lines := tput r.lines la (r.st.reg d), st }

/-- `naddr` (R329). -/
def execNaddr (imm d a : Nat) (s : State) : Out :=
  asNmu s fun n r =>
    s.nmuStep n { r with st := { r.st with y := tput r.st.y d (patternOf 23 (((tget 0 r.st.y a : Nat) : Int) + signedOf 11 imm)) } }

/-- `nemit` (R330): the partial is held until the next boundary. -/
def execNemit (cnt d a b : Nat) (s : State) : Out :=
  asNmu s fun n r =>
    if r.cmd.emit = 0 then s.nmuEnd n r 1
    else if 2 ≤ r.parts.length then s.nmuEnd n r 3
    else
      let p : NPart := { m := lineElem (r.st.reg d) 32 0, l := lineElem (r.st.reg a) 32 0,
                         o := (span b cnt).flatMap fun i => lineElems 0 (r.st.reg i) }
      s.nmuStep n { r with parts := r.parts ++ [p], st := { r.st with dirty := false } }

/-- A loop word (R331): the rules it must meet when it issues, then its body, or the one boundary of a count of 0. -/
def nloopWord (inner sp : Bool) (len cnt : Nat) (s : State) : Out :=
  asNmu s fun n r =>
    let first := r.st.pc + 1
    let last := first + len
    let nested := if inner then r.st.loops.any fun l => l.inner else !r.st.loops.isEmpty
    let past := match r.st.loops with
      | l :: _ => decide (l.last < last)
      | [] => false
    let count := if cnt = 2047 then fld r.cmd.loopn (if inner then 32 else 0) 32 else cnt
    if nested || past || decide (r.cmd.words.length < last) then s.nmuEnd n r 1
    else
      let b := s.nmuBoundary n { r with atBoundary := false, safe := false } sp
      if count = 0 then
        let x := nmuClose n 3 (b.1, { b.2 with st := { b.2.st with pc := last } })
        x.1.setRun n x.2
      else
        b.1.setRun n { b.2 with st := { b.2.st with pc := first, loops := { first, last, remain := count, sp, inner } :: b.2.st.loops } }

def execNloop (sp : Bool) (len cnt : Nat) (s : State) : Out := nloopWord false sp len cnt s
def execNloop2 (sp : Bool) (len cnt : Nat) (s : State) : Out := nloopWord true sp len cnt s

/-- `nend` (R333): the last iteration commits and the command completes; one of a halted weave stops at this boundary (R482). -/
def execNend (s : State) : Out :=
  asNmu s fun n r =>
    let b := s.nmuBoundary n { r with safe := false } false
    if s.weaveHalted r.cmd.weave then b.1.setRun n b.2 else b.1.nmuEnd n { b.2 with point := b.2.st } 0

/-! Commands (R335 to R339). -/

/-- A word of 64 bits of a command block, with the checks of R337 that need no translation. -/
def nmuBlockOk (bs : List Byte) : Bool :=
  let w := blockWord bs
  let inReg (y : Nat) : Bool := y == 0 || (y % 128 == 0 && decide (w 3 ≤ y) && decide (y < w 3 + w 4))
  w 0 % 4 == 0 && decide (1 ≤ w 1) && decide (w 1 ≤ 96) && w 3 % 128 == 0 && w 4 % 128 == 0 && decide (128 ≤ w 4)
  && decide (w 4 ≤ 2 ^ 38) && w 7 == 0 && (span 8 8).all (fun i => inReg (w i))
  && (w 6 == 0 || (fld (w 6) 14 1 == 1 && fld (w 6) 15 7 == 0))

/-- The region of a command on die d: the die offset of its first byte, a trap, or a fatal context error. -/
inductive RegionCheck where
  | ok (lo : Nat)
  | bad
  | fatal (status : Nat)

/-- The region checks of R336 and R337. -/
def regionCheck (k : Core) (c d base len : Nat) : RegionCheck :=
  match segFor k.seg base with
  | none => .fatal 7
  | some e =>
    if !(e.rd && e.wr) || e.dev || oneEntry k.seg base len != some e then .bad
    else
      let pa := e.pbase + base % 2 ^ e.size
      if paPkg pa ≠ pkgOf c then .fatal 9
      else if paDie pa ≠ d ∨ saveRows < paOff pa + len then .bad
      else .ok (paOff pa)

/-- A barrier field of a command block (R217): none for 0. -/
def State.barField (s : State) (c va : Nat) : Option BarCheck := if va = 0 then none else some (s.checkBarrier c va)

/-- The NMUs of a mask on a stack of the panel. -/
def nmuSet (stack mask : Nat) : List Nat := (span 0 64).filterMap fun i => if mask.testBit i then some (64 * stack + i) else none

/-- The NMU has a free queue entry and a context entry for a context (R338). -/
def Nmu.room (u : Nmu) (ctx : Nat) : Bool :=
  decide (u.queue.length < 8) && (u.ctxs.any (fun e => e.1 == ctx) || decide (u.ctxs.length < 8))

/-- The command joins the queue: last, but among those accepted in the same cycle in the order of package, die, core, task (R338). -/
def queueIn (c : NCmd) : List NCmd → List NCmd
  | [] => [c]
  | x :: t => if x.accepted = c.accepted ∧ x.cyc = c.cyc ∧ 8 * c.core + c.task < 8 * x.core + x.task then c :: x :: t else x :: queueIn c t

/-- The NMU accepts a command; a new context entry starts with SPC 0 (R338). -/
def Nmu.accept (u : Nmu) (c : NCmd) : Nmu :=
  { u with queue := queueIn { c with cyc := u.clk } u.queue, ctxs := if u.ctxs.any (fun e => e.1 == c.ctx) then u.ctxs else u.ctxs ++ [(c.ctx, 0)] }

/-- The set of NMUs accepts a command, all in one cycle, where each has room. -/
def State.tryAccept (s : State) (ns : List Nat) (x : NCmd) : Option State :=
  if ns.all fun n => (s.nmu n).room x.ctx then some (ns.foldl (fun s n => s.modNmu n fun u => u.accept { x with accepted := s.time }) s) else none

/-- `ncmd` (R336, R337). -/
def execNcmd (h : CHdr) (a b stack : Nat) (s : State) : Out :=
  asTask s fun c t =>
    let va := s.reg c t a
    let mask := (s.reg c t b).toNat
    let bad := s.trap c t 36 va
    let at_ := (s.task c t).pc
    if va.toNat % 128 ≠ 0 ∨ mask = 0 then bad
    else withBlock s c t va.toNat 128 fun bs =>
      let w := blockWord bs
      let d := 2 * pkgOf c + stack / 4
      if !nmuBlockOk bs then bad
      else withBlock s c t (w 0) (4 * w 1) fun prog =>
        match regionCheck (s.core c) c d (w 3) (w 4), s.barField c (w 5) with
        | .bad, _ => bad
        | .fatal st, _ => s.fatal c t 0 st at_ (word (w 3))
        | .ok _, some (.fault _) => bad
        | .ok _, some (.fatal st) => s.fatal c t 0 st at_ (word (w 5))
        | .ok lo, bar =>
          let x : NCmd :=
            { id := s.nextId, weave := s.weaveNo c, ctx := (s.core c).ctxno, core := c, task := t, uid := (s.task c t).uid,
              words := (span 0 (w 1)).map (blockHalf prog), loopn := w 2, lo, hi := lo + w 4,
              bar := match bar with | some (.ok x) => some x | _ => none, barVa := w 5, emit := w 6,
              y := (span 8 8).map fun i => if w i = 0 then 0 else fld (lo + (w i - w 3)) 15 23 }
          let ns := nmuSet (8 * pkgOf c + stack) mask
          match s.fresh.tryAccept ns x with
          | some s1 => s1.goOn c t (ctlLen h 2)
          | none => (s.fresh.modCore c fun k => { k with ncmds := tput k.ncmds t (ns, x) }).park c t .room (.ncmd h a b stack) (ctlLen h 2)

/-- A parked `ncmd` looks for room again (R336). -/
def State.retryNcmd (s : State) (c t : Nat) : State :=
  match tfind (s.core c).ncmds t with
  | none => s
  | some (ns, x) =>
    match s.tryAccept ns x with
    | some s1 => (s1.modCore c fun k => { k with ncmds := tdel k.ncmds t }).wake c t
    | none => s

/-- A command of task t of core c's job, and a stripe message of its qcasts, counts for its `nfence` (R339, R396). -/
def State.nmuOwed (s : State) (c t : Nat) : Bool :=
  let w := s.weaveNo c
  let uid := (s.task c t).uid
  s.nmus.any (fun e => e.2.holds fun x => x.weave == w && x.core == c && x.task == t && x.uid == uid)
  || s.stripes.any fun m => m.weave == w && m.core == c && m.task == t && m.uid == uid

/-- `nfence` (R339). -/
def execNfence (h : CHdr) (s : State) : Out :=
  asTask s fun c t =>
    if s.nmuOwed c t then s.park c t .nmus (.nfence h) (ctlLen h 1) else s.goOn c t (ctlLen h 1)

/-- `nstat` (R342). -/
def execNstat (h : CHdr) (d a : Nat) (s : State) : Out :=
  asTask s fun c t =>
    let v := s.reg c t a
    if v.toNat / 2 ^ 9 ≠ 0 then s.trap c t 36 v
    else (s.park c t .answer (.nstat h d a) (ctlLen h 1)).modWait c t fun w => { w with acted := true, res := v }

/-- SPC of a context on an NMU (R342). -/
def Nmu.spc (u : Nmu) (ctx : Nat) : Nat :=
  match firstWhere (fun e => e.1 == ctx) u.ctxs with
  | some e => e.2
  | none => 0

/-- The status word of NMU n for weave w of context ctx (R342). -/
def Nmu.statusWord (u : Nmu) (w ctx : Nat) : Word :=
  let dirty := match u.run with
    | some r => r.cmd.weave == w && r.st.dirty
    | none => false
  word (2 ^ 56 * tget 0 u.last w + 2 ^ 44 * u.queue.length + 2 ^ 43 * bit u.run.isSome + 2 ^ 42 * bit dirty + u.spc ctx)

/-- NSTAT_ANSWER: the word returns to task t of core c (R342). -/
def execNstatAnswer (c t : Nat) (s : State) : Out :=
  match s.waitOf c t with
  | some w =>
    match w.what, w.instr, s.isFrozen c with
    | .answer, .nstat _ d _, false =>
      let n := 64 * (8 * pkgOf c + bits w.res 0 3) + bits w.res 3 6
      .next (s.wakeWith c t d ((s.nmu n).statusWord (s.weaveNo c) (s.core c).ctxno))
    | _, _, _ => .next s
  | none => .next s

/-! The queue (R338, R348). -/

/-- Commands of weave w run: it is resident, or its NMUs run on through them to a common safe point (R348, R349). -/
def State.nmuMayRun (s : State) (w : Nat) : Bool :=
  match tfind s.weaves w with
  | none => false
  | some x =>
    !s.weaveHalted w && (x.st == .resident || (x.st == .stopping && x.commonSpc.isSome))

/-- The running command may issue its next word: between boundaries always, at a boundary where its weave may run, or where it runs on
to the common safe point; one that is past it runs on to its end (R332, R348, R349, R482). -/
def State.nmuMayIssue (s : State) (n : Nat) (r : NRun) : Bool :=
  !r.atBoundary || s.nmuMayRun r.cmd.weave || match tfind s.weaves r.cmd.weave with
    | some x => x.st == .stopping && !s.weaveHalted r.cmd.weave && match x.commonSpc with
      | some m => !(r.safe && (s.nmu n).spc x.ctx == m)
      | none => false
    | none => false

/-- The command at its start (R338, R396). -/
def NCmd.start (c : NCmd) : NRun :=
  let st : NPoint := { n := (span 0 24).zip c.n, y := (span 0 8).zip c.y }
  { cmd := c, st, point := st }

/-- NMU_COMMAND_START: the first queued command that may run starts on NMU n; a saved command of its weave goes before it
(R338, R348, R350). -/
def execNmuCommandStart (n : Nat) (s : State) : Out :=
  let u := s.nmu n
  let ok (x : NCmd) : Bool := s.nmuMayRun x.weave && !u.saved.any fun e => e.1 == x.weave
  match u.run, firstWhere ok u.queue with
  | none, some x => .next (s.modNmu n fun u => { u with run := some x.start, queue := dropFirst ok u.queue })
  | _, _ => .next s

/-- The weave's jobs lie on 9 packages or more (R349). -/
def Weave.wide (w : Weave) : Bool := decide (8 < ((w.jobs.map fun j => pkgOf j.1).eraseDups).length)

/-- The command may be saved here (R348, R349): at a boundary, and for a wide weave at the common safe point; while its weave is halted the
pre-emption stands still (R483). -/
def State.maySave (s : State) (n : Nat) (r : NRun) : Bool :=
  match tfind s.weaves r.cmd.weave with
  | none => false
  | some w =>
    w.st == .stopping && !s.weaveHalted r.cmd.weave && r.atBoundary && match w.commonSpc with
      | none => true
      | some m => r.safe && (s.nmu n).spc r.cmd.ctx == m

/-- The first line of a save slot of an NMU: four slots of 64 lines in the save rows of its banks (R320, R350). -/
def slotLa (slot : Nat) : Nat := 32767 * 2 ^ 8 + 64 * slot

/-- What a loop is in a save slot: two words of 64 bits. -/
def NLoop.words (l : NLoop) : List Nat := [l.first + 2 ^ 16 * l.last + 2 ^ 32 * bit l.sp + 2 ^ 33 * bit l.inner + 2 ^ 34, l.remain]

/-- The loop that two words of a save slot hold, if they hold one. -/
def loopOf (a b : Nat) : Option NLoop :=
  if a.testBit 34 then some { first := fld a 0 16, last := fld a 16 16, sp := a.testBit 32, inner := a.testBit 33, remain := b } else none

/-- The lines of a save slot for a state: the registers, then a line with y0 to y7 and one with the program counter, DIRTY, SPC, the lines
stored and the loops, the innermost first. The spec gives the contents and not their places (assumption 99). -/
def NPoint.lines (p : NPoint) (spc : Nat) : List Nat :=
  (span 0 24).map p.reg ++ [ofElems 64 ((span 0 8).map fun i => tget 0 p.y i),
    ofElems 64 ([p.pc, bit p.dirty, spc, p.stores] ++ p.loops.flatMap NLoop.words)]

/-- The state that lines of a save slot hold. -/
def pointOf (ls : List Nat) : NPoint :=
  let w (i : Nat) : Nat := lineElem (ls.getD 25 0) 64 i
  { n := (span 0 24).map fun i => (i, ls.getD i 0), y := (span 0 8).map fun i => (i, lineElem (ls.getD 24 0) 64 i % 2 ^ 23), pc := w 0,
    dirty := (w 1).testBit 0, stores := w 3, loops := [loopOf (w 4) (w 5), loopOf (w 6) (w 7)].filterMap id }

/-- A save slot is written: the state from its first line, the checkpoint from its line 32. -/
def State.writeSlot (s : State) (n : Nat) (r : NRun) : State :=
  let at_ (o : Nat) (p : NPoint) : List (Nat × Nat) :=
    let ls := p.lines ((s.nmu n).spc r.cmd.ctx)
    ((span 0 ls.length).zip ls).map fun e => (slotLa r.slot + o + e.1, e.2)
  s.putLines n (at_ 0 r.st ++ at_ 32 r.point)

/-- The run that a save slot holds, as the banks hold it now, and the SPC in it (R320, R350). -/
def State.readSlot (s : State) (n : Nat) (r : NRun) : NRun × Nat :=
  let ls (o : Nat) : List Nat := (span 0 26).map fun i => s.bankLine n (slotLa r.slot + o + i)
  ({ r with st := pointOf (ls 0), point := pointOf (ls 32) }, lineElem ((ls 0).getD 25 0) 64 2 % 2 ^ 32)

/-- The lowest save slot of the NMU that is free (R350; DESIGN CHOICE, assumption 128). -/
def Nmu.freeSlot (u : Nmu) : Option Nat := firstWhere (fun i => !u.saved.any fun e => e.2.slot == i) (span 0 4)

/-- NMU_PREEMPT_STOP: NMU n stops at a boundary for the pre-emption of its weave and writes its state to a save slot (R348, R349). -/
def execNmuPreemptStop (n : Nat) (s : State) : Out :=
  let u := s.nmu n
  match u.run, u.freeSlot with
  | some r, some i =>
    if s.maySave n r then
      let r1 := { r with slot := i }
      .next ((s.writeSlot n r1).modNmu n fun u => { u.leave with saved := u.saved ++ [(r.cmd.weave, r1)] })
    else .next s
  | _, _ => .next s

/-- NMU n is at rest for weave w: it runs nothing of it, and of a wide weave it has nothing left to run before the common safe
point (R348, R349). -/
def State.nmuAtRest (s : State) (n w : Nat) : Bool :=
  let u := s.nmu n
  (match u.run with | some r => r.cmd.weave != w | none => true)
  && (match tfind s.weaves w with
      | some x =>
        (match x.commonSpc with
         | none => true
         | some _ => u.saved.any (fun e => e.1 == w) || !u.queue.any fun c => c.weave == w)
      | none => true)

/-- NMU_REST_WATCHDOG: 2 ms after the decision each NMU of weave w not at rest takes a channel reset (R349). -/
def execNmuRestWatchdog (w : Nat) (s : State) : Out :=
  match tfind s.weaves w with
  | none => .next s
  | some x =>
    if x.st != .stopping || x.commonSpc.isNone || decide (x.stopTime < 2000000) || s.weaveHalted w then .next s
    else
      .next (s.nmus.foldl (fun s e =>
        if s.nmuAtRest e.1 w then s
        else
          let s1 := match e.2.run with
            | some r => if r.cmd.weave = w then (s.nmuEnd e.1 r 6).modNmu e.1 fun u => { u with regs := {}, point := {}, ibuf := [] } else s.modNmu e.1 fun u => { u with stat := countUp u.stat 16 16 1 }
            | none => s.modNmu e.1 fun u => { u with stat := countUp u.stat 16 16 1 }
          s1.modNmu e.1 fun u =>
            { u with queue := u.queue.filter (fun c => c.weave != w), saved := u.saved.filter (fun p => p.1 != w),
                     ctxs := u.ctxs.filter fun p => p.1 != x.ctx }) s)

/-- The SPC of a context on an NMU. -/
def Nmu.setSpc (u : Nmu) (ctx spc : Nat) : Nmu := { u with ctxs := u.ctxs.map fun e => if e.1 = ctx then (e.1, spc) else e }

/-- NMU_RESUME: a saved command reloads its slot and goes on at its saved boundary once its weave has resumed (R350). -/
def execNmuResume (n : Nat) (s : State) : Out :=
  let u := s.nmu n
  let ok (e : Nat × NRun) : Bool := match tfind s.weaves e.1 with
    | some x => x.st == .resident && !s.weaveHalted e.1
    | none => false
  match u.run, firstWhere ok u.saved with
  | none, some e =>
    let r := s.readSlot n e.2
    .next (s.modNmu n fun u => { u with run := some r.1, saved := dropFirst ok u.saved }.setSpc e.2.cmd.ctx r.2)
  | _, _ => .next s

/-- The partials that a halted weave's NMUs held leave (R350, R494). -/
def State.resumeNmus (s : State) (w : Nat) : State :=
  let mine (r : NRun) : Bool := r.cmd.weave == w
  let out (s : State) (r : NRun) : State := if mine r then s.sendPartials r.cmd.emit r.held else s
  let clear (r : NRun) : NRun := if mine r then { r with held := [] } else r
  let s1 := s.nmus.foldl (fun s e => (e.2.run.toList ++ e.2.saved.map fun x => x.2).foldl out s) s
  { s1 with nmus := s1.nmus.map fun e => (e.1, { e.2 with run := e.2.run.map clear, saved := e.2.saved.map fun x => (x.1, clear x.2) }) }

/-! Storage errors (R345). -/

/-- An error is met on NMU n: 0 corrected; 1 in a register, loop state or instruction buffer; 2 in the checkpoint; 3 lasting
in bank data; 4 transient in bank data. One in the unit's own storage counts as transient once the retried command completes. -/
def State.nmuErrorMet (s : State) (n kind : Nat) : State :=
  match (s.nmu n).run with
  | none => s
  | some r =>
    match kind with
    | 0 => s.countError (n / 256) 1
    | 1 =>
      if r.retried then (s.countError (n / 256) 3).nmuEnd n { r with retried := false } 4
      else s.modNmu n fun u =>
        { u with run := some { r with st := r.point, lines := [], parts := [], atBoundary := true, safe := r.pointSafe, retried := true } }
    | 2 => (s.countError (n / 256) 3).nmuEnd n { r with retried := false } 4
    | 4 => s.countError (n / 256) 2
    | _ => (s.countError (n / 256) 3).nmuEnd n r 5

/-! The end of a weave (R338). -/

/-- The context entry of an ended weave frees where nothing of the context is left and no other weave has it (R338). -/
def Nmu.freeCtx (u : Nmu) (ctx : Nat) : Nmu :=
  if u.holds fun c => c.ctx == ctx then u else { u with ctxs := u.ctxs.filter fun e => e.1 != ctx }

end Sys2Proof.Machine
end

