-- ==== Sys2Proof/Machine/Groups.lean ====
section
/-! DEFINITION. The groups of the switch dies (R379 to R403): opening and freeing, push-mode reduction, the query multicast,
stripe receivers, and the merge of attention partials. -/

namespace Sys2Proof.Machine

/-! Groups by handle (R379, R380). -/

/-- Group H of the panel. -/
def State.group (s : State) (h : Nat) : Option Grp := tfind s.groups h

/-- The state with group H replaced. -/
def State.setGroup (s : State) (h : Nat) (g : Grp) : State := { s with groups := tput s.groups h g }

/-- The handle of a group named in an event. -/
def handleOf (g : GrpId) : Nat := 1024 * g.plane + 16 * g.unit + g.grp

/-- The group that a register names for the weave of core c: its handle and the group. -/
def State.groupFor (s : State) (c : Nat) (v : Word) : Option (Nat × Grp) :=
  match s.group v.toNat with
  | some g => if g.weave = s.weaveNo c ∧ (s.core c).job.isSome ∧ g.freed = false then some (v.toNat, g) else none
  | none => none

/-- A field of FABSTAT of the switch die of group H counts one (R405). -/
def State.countFab (s : State) (h lo : Nat) : State :=
  { s with fabstat := tmod 0#64 s.fabstat (h / 1024) fun w => countUp w lo 16 1 }

/-- The fields of FABSTAT. -/
def fabTimeouts : Nat := 0
def fabNobar : Nat := 16
def fabStale : Nat := 32
def fabDropped : Nat := 48

/-- Bytes at the homes of physical pieces. -/
def State.writePieces (s : State) : List (Nat × Nat) → List Byte → State
  | [], _ => s
  | (a, n) :: t, bs => State.writePieces (s.homeWrite none (cellsFrom a (bs.take n))) t (bs.drop n)

/-- The pieces of the bytes lo to lo + n − 1 of a range given by its pieces. -/
def cutPieces : List (Nat × Nat) → Nat → Nat → List (Nat × Nat)
  | [], _, _ => []
  | (a, m) :: t, lo, n =>
    if m ≤ lo then cutPieces t (lo - m) n
    else
      let k := min n (m - lo)
      if n = 0 then [] else (a + lo, k) :: cutPieces t 0 (n - k)

/-! Opening and freeing (R381, R382). -/

/-- The element bytes of a reduce type, and E, the elements of a sector. -/
def elemBytes (ty : Nat) : Nat := if ty = 1 ∨ ty = 4 ∨ ty = 7 then 8 else 4
def sectorElems (ty : Nat) : Nat := 32 / elemBytes ty

/-- A merge record meets R381. -/
def mergeRecordOk (bs : List Byte) : Bool :=
  let w := blockWord bs
  w 0 % 64 == 0 && decide (1 ≤ fld (w 1) 0 9) && decide (fld (w 1) 0 9 ≤ 256) && decide (1 ≤ fld (w 1) 16 11)
  && decide (fld (w 1) 16 11 ≤ 1024) && fld (w 1) 9 7 == 0 && fld (w 1) 27 5 == 0 && fld (w 1) 48 16 == 0
  && fld (w 2) 18 45 == 0 && w 4 == 0 && w 5 == 0 && w 6 == 0 && w 7 == 0

/-- A reduce record meets R381. -/
def reduceRecordOk (bs : List Byte) : Bool :=
  let w := blockWord bs
  let nelem := fld (w 1) 0 16
  w 0 == 0 && decide (1 ≤ nelem) && decide (nelem ≤ 4096) && nelem % sectorElems (fld (w 1) 24 3) == 0
  && decide (1 ≤ fld (w 1) 16 8) && decide (fld (w 1) 16 8 ≤ 128) && fld (w 1) 27 5 == 0 && fld (w 1) 48 16 == 0
  && decide (w 2 < 2 ^ 9) && w 3 == 0 && w 4 == 1 && w 5 == 0 && w 6 == 0 && w 7 == 0

/-- The group that a record opens, for the weave of core c. -/
def groupOf (s : State) (c : Nat) (bs : List Byte) (out : List (Nat × Nat)) (bar : Option BarId) : Grp :=
  let w := blockWord bs
  let tmo := fld (w 1) 32 16
  if fld (w 4) 0 2 = 0 then
    { weave := s.weaveNo c, ctx := (s.core c).ctxno, reduce := false, size := 1024 * fld (w 1) 16 11, tmo, evt := w 2,
      out, dim := fld (w 1) 0 9, smax := fld (w 1) 16 11, bar }
  else
    { weave := s.weaveNo c, ctx := (s.core c).ctxno, reduce := true,
      size := fld (w 1) 0 16 / sectorElems (fld (w 1) 24 3) * (64 + 8 * fld (w 1) 16 8), tmo,
      nelem := fld (w 1) 0 16, count := fld (w 1) 16 8, ty := fld (w 1) 24 3, barno := fld (w 2) 0 8, ben := fld (w 2) 8 1 == 1 }

/-- The groups of merge unit u of the panel, 64 for each plane. -/
def State.unitGroups (s : State) (u : Nat) : List (Nat × Grp) := s.groups.filter fun e => e.1 / 16 == u

/-- A free handle of a unit with room for a group of size bytes. -/
def State.unitRoom (s : State) (u size : Nat) : Option Nat :=
  let gs := s.unitGroups u
  if gs.foldl (fun n e => n + e.2.size) 0 + size ≤ 2 ^ 20 then
    firstWhere (fun h => !gs.any fun e => e.1 == h) (span (16 * u) 16)
  else none

/-- The first unit with room from plane p up, wrapping (R382). -/
def State.findUnit (s : State) (p size : Nat) : Option Nat :=
  (span 0 1024).foldl (fun (b : Option Nat) i => match b with
    | some h => some h
    | none => s.unitRoom ((p + i / 64) % 16 * 64 + i % 64) size) none

/-- `mg.cfg`, open: the record is read, OUT and BAR are translated, and the task parks for the switch die's answer. -/
def execMgCfgOpen (h : CHdr) (d a : Nat) (s : State) : Out :=
  asTask s fun c t =>
    let va := s.reg c t a
    let at_ := (s.task c t).pc
    if va.toNat % 64 ≠ 0 then s.trap c t 39 va
    else withBlock s c t va.toNat 64 fun bs =>
      let w := blockWord bs
      let go (res2 : Nat) : State :=
        (s.park c t .answer (.mgCfgOpen h d a) (ctlLen h 1)).modWait c t fun x => { x with blk := bs, res2 := word res2 }
      if fld (w 4) 0 2 ≠ 0 then go 0
      else match s.blockPlace c (w 0) (64 + 4 * fld (w 1) 0 9) .wr with
        | .fatal st x => s.fatal c t 0 st at_ (word x)
        | .trap code => s.trap c t code (word (w 0))
        | .ok ps =>
          let held (res2 : Nat) (bar : Option BarId) : State := (go res2).modWait c t fun x => { x with out := ps, bar }
          match s.barField c (w 3) with
          | none => held 0 none
          | some (.fault _) => held 1 none
          | some (.fatal st) => s.fatal c t 0 st at_ (word (w 3))
          | some (.ok b) => held 2 (some b)

/-- `mg.cfg`, free (R382). -/
def execMgCfgFree (h : CHdr) (d b : Nat) (s : State) : Out :=
  asTask s fun c t =>
    match s.groupFor c (s.reg c t b) with
    | none => s.trap c t 39 (s.reg c t b)
    | some _ => (s.park c t .answer (.mgCfgFree h d b) (ctlLen h 1)).modWait c t fun x => { x with res := s.reg c t b }

/-- `mg.rd` (R383). -/
def execMgRd (h : CHdr) (d b : Nat) (s : State) : Out :=
  asTask s fun c t =>
    match s.groupFor c (s.reg c t b) with
    | none => s.trap c t 39 (s.reg c t b)
    | some _ => (s.park c t .answer (.mgRd h d b) (ctlLen h 1)).modWait c t fun x => { x with res := s.reg c t b }

/-- The status word of a group (R383). -/
def State.groupWord (s : State) (g : Grp) : Word :=
  let busy := g.st == .armed || g.st == .completing
  let st := if !busy then 0 else if s.weaveHalted g.weave then 2 else 1
  word (2 ^ 48 * g.gen + 2 ^ 32 * g.qtag + 2 ^ 30 * st + 2 ^ 28 * bit g.reduce + 2 ^ 17 * min 2047 g.arr + g.last)

/-! The merge (R399 to R401). -/

/-- A value as FP32 bits, rounded once to nearest even. -/
def f32bits (v : FVal) : Nat := (packFloat .f32 0 false false 0 v).bits

/-- The canonical NaN in every part of a partial of dim elements. -/
def nanPart (dim : Nat) : NPart := { m := canonNaN .f32, l := canonNaN .f32, o := List.replicate dim (canonNaN .f32) }

/-- The fully masked partial: (−∞, +0, +0 …). -/
def maskedPart (dim : Nat) : NPart := { m := infBits .f32 true, l := 0, o := List.replicate dim 0 }

/-- NaN or +∞. -/
def nanOrInf (v : FVal) : Bool :=
  match v with
  | .nan => true
  | .inf neg => !neg
  | _ => false

/-- Two partials combine (R399). -/
def combine (dim : Nat) (a b : NPart) : NPart :=
  let ma := f32v a.m
  let mb := f32v b.m
  if nanOrInf ma || nanOrInf mb then nanPart dim
  else
    let m := minMaxF true ma mb
    match m with
    | .inf _ => maskedPart dim
    | _ =>
      let e (x : FVal) : FVal := f32v (exp2F (rne32 (addF 0 x (negF m)))).bits
      let ea := e ma
      let eb := e mb
      let mix (x y : Nat) : Nat := f32bits (exactSum [mulF (f32v x) ea, mulF (f32v y) eb])
      { m := f32bits m, l := mix a.l b.l, o := (a.o.zip b.o).map fun x => mix x.1 x.2 }

/-- One level of the merge tree: node 2k with node 2k + 1, a node without a partner passing up (R400). -/
def mergeLevel (dim : Nat) : List NPart → List NPart
  | a :: b :: t => combine dim a b :: mergeLevel dim t
  | xs => xs

/-- The root over the leaves in slot order, at most 2^n of them. -/
def mergeRoot (dim : Nat) : Nat → List NPart → NPart
  | 0, xs => xs.headD (nanPart dim)
  | n + 1, xs => if xs.length ≤ 1 then xs.headD (nanPart dim) else mergeRoot dim n (mergeLevel dim xs)

/-- The outputs of a root, NAN and MASKED (R401). -/
def rootOutputs (dim : Nat) (r : NPart) : List Nat × Bool × Bool :=
  match f32v r.m, f32v r.l with
  | .nan, _ => (List.replicate dim (canonNaN .f32), true, false)
  | _, .fin _ 0 _ => (List.replicate dim 0, false, true)
  | _, l => (r.o.map fun o => f32bits (divF (f32v o) l), false, false)

/-- The status word of a completion (R401). -/
def mergeStatus (g : Grp) (st : Nat) (nan masked : Bool) : Nat :=
  2 ^ 63 + 2 ^ 32 * g.gen + 2 ^ 12 * g.arr + 2 ^ 9 * bit nan + 2 ^ 8 * bit masked + st

/-- The query of a group ends with a status: the group is completing (R398). -/
def State.endQuery (s : State) (h : Nat) (g : Grp) (st : Nat) (nan masked : Bool) : State :=
  let s1 := s.setGroup h { g with st := .completing, status := mergeStatus g st nan masked }
  match st with
  | 1 => s1.countFab h fabStale
  | 3 => s1.countFab h fabTimeouts
  | _ => s1

/-- Where every leaf is present the root exists: the record but for its status word is written, and the query completes
DONE (R400, R401). A halted weave's groups combine nothing (R403). -/
def State.tryRoot (s : State) (h : Nat) (g : Grp) : State :=
  if g.st != .armed || s.weaveHalted g.weave || g.leaves.length != g.s then s
  else
    let r := mergeRoot g.dim 10 (g.leaves.map fun e => e.2)
    let x := rootOutputs g.dim r
    let body := bytesOfNum 4 r.m ++ bytesOfNum 4 r.l ++ List.replicate 48 0#8 ++ x.1.flatMap (bytesOfNum 4)
    (s.writePieces (cutPieces g.out 8 (56 + 4 * g.dim)) body).endQuery h g 0 x.2.1 x.2.2

/-- The partial is accepted: elements 0 to DIM − 1 at leaf SLOT (R398). -/
def Grp.addLeaf (g : Grp) (m : PartMsg) : Grp :=
  { g with leaves := tput g.leaves m.slot { m.part with o := m.part.o.take g.dim }, arr := g.arr + 1 }

/-- A partial reaches its group: the first row of R398 that applies. -/
def State.takePartial (s : State) (m : PartMsg) : State :=
  match s.group m.h with
  | none => s.countFab m.h fabDropped
  | some g =>
    if g.reduce || g.st != .armed || m.qtag != g.qtag then s.countFab m.h fabDropped
    else if m.kind == .stale || m.kind == .lost || (m.kind == .normal && m.gen != g.gen) then s.endQuery m.h g 1 false false
    else if m.kind == .failed || decide (g.s ≤ m.slot) || (tfind g.leaves m.slot).isSome || decide (m.part.o.length < g.dim) then
      s.endQuery m.h g 2 false false
    else
      let g1 := g.addLeaf m
      (s.setGroup m.h g1).tryRoot m.h g1

/-- PARTIAL_ARRIVAL. -/
def execPartialArrival (id : Nat) (s : State) : Out :=
  match firstWhere (fun m => m.id == id) s.partials with
  | some m => .next ({ s with partials := dropFirst (fun m => m.id == id) s.partials }.takePartial m)
  | none => .next s

/-- Panel time has passed since the arming or the first contribution (R387, R402). -/
def Grp.expired (g : Grp) : Bool := g.tmo != 0 && decide (1000 * g.tmo ≤ g.elapsed)

/-- MERGE_TIMEOUT (R402). -/
def execMergeTimeout (i : GrpId) (s : State) : Out :=
  let h := handleOf i
  match s.group h with
  | some g =>
    if !g.reduce && g.st == .armed && g.expired && !s.weaveHalted g.weave then .next (s.endQuery h g 3 false false) else .next s
  | none => .next s

/-- QUERY_COMPLETION_DONE (R401): the status word is performed, then the barrier and the event; the group is idle, or
gone where it was freed. -/
def execQueryCompletionDone (i : GrpId) (s : State) : Out :=
  let h := handleOf i
  match s.group h with
  | none => .next s
  | some g =>
    if g.st != .completing || s.weaveHalted g.weave then .next s
    else
      let st := g.status % 256
      let s1 := s.writePieces (cutPieces g.out 0 8) (bytesOfNum 8 g.status)
      let s2 := if g.freed then { s1 with groups := tdel s1.groups h }
        else s1.setGroup h { g with st := .idle, last := st, leaves := [] }
      let s3 := match g.bar with
        | none => s2
        | some b => (s2.barAddOf g.weave b (if st = 0 then 64 + 4 * g.dim else 8)).getD (s2.countFab h fabNobar)
      .next (if g.evt.testBit 63 then s3.post (evTarget g.evt).1 (evTarget g.evt).2 (some g.weave) g.ctx (some 4) else s3)

/-! Push-mode reduction (R384 to R387). -/

/-- The final value of an element from its contributions (R386). -/
def reduceElem (ty : Nat) (xs : List Nat) : Nat :=
  let w := 8 * elemBytes ty
  let sg := xs.map fun x => signedOf w x
  match ty with
  | 2 => f32bits (exactSum (xs.map f32v))
  | 5 => match xs with
    | x :: t => f32bits (t.foldl (fun v y => minMaxF true v (f32v y)) (f32v x))
    | [] => 0
  | 3 | 4 => patternOf w (match sg with | x :: t => t.foldl max x | [] => 0)
  | 6 | 7 => xs.foldl max 0
  | _ => patternOf w (sg.foldl (· + ·) 0)

/-- The elements of sector k. -/
def Grp.sector (g : Grp) (k : Nat) : List Nat := span (k * sectorElems g.ty) (sectorElems g.ty)

/-- Every element of sector k is final. -/
def Grp.sectorFinal (g : Grp) (k : Nat) : Bool := (g.sector k).all fun i => (tget [] g.elems i).length == g.count

/-- The bytes of a final sector. -/
def Grp.sectorBytes (g : Grp) (k : Nat) : List Byte :=
  (g.sector k).flatMap fun i => bytesOfNum (elemBytes g.ty) (reduceElem g.ty (tget [] g.elems i))

/-- The weave of a group holds a barrier. -/
def State.groupHolds (s : State) (g : Grp) (b : BarId) : Bool :=
  match tfind s.weaves g.weave with
  | some w => w.holds b
  | none => false

/-- 32 bytes of a sector are written at a base, and counted in the die barrier of that die (R386). -/
def State.writeSector (s : State) (h : Nat) (g : Grp) (bs : List Byte) (base : Nat) : State :=
  let s1 := s.homeWrite none (cellsFrom base bs)
  let b := BarId.die (paDie base) g.barno
  if !g.ben then s1
  else if s1.groupHolds g b then (s1.barAddOf g.weave b 32).getD (s1.countFab h fabNobar)
  else s1.countFab h fabNobar

/-- A reduction ends with a status: DONE leaves the group idle for a new one; another end drops what comes after it (R386,
R387). -/
def State.endReduction (s : State) (h : Nat) (g : Grp) (st : Nat) : State :=
  let s1 := s.setGroup h { g with st := if st = 0 then .idle else .ended, last := st, elems := [], bases := [], fins := [] }
  if st = 3 then s1.countFab h fabTimeouts else s1

/-- A final sector of a group that is not halted is written; with the last one the reduction is DONE (R386, R403). -/
def State.trySector (s : State) (h k : Nat) : State :=
  match s.group h with
  | none => s
  | some g =>
    if g.st != .armed || s.weaveHalted g.weave || g.fins.contains k || !g.sectorFinal k then s
    else
      let bases := ((tget [] g.bases k).map fun e => e.2).eraseDups
      let g1 := { g with fins := g.fins ++ [k], arr := g.arr + 1 }
      let s1 := bases.foldl (fun s b => s.writeSector h g (g.sectorBytes k) b) (s.setGroup h g1)
      if g1.fins.length * sectorElems g.ty = g.nelem then s1.endReduction h g1 0 else s1

/-- Every final sector of a group is written. -/
def State.trySectors (s : State) (h : Nat) (g : Grp) : State :=
  (span 0 (g.nelem / sectorElems g.ty)).foldl (fun s k => s.trySector h k) s

/-- A contribution of core c to group h reaches the switch die (R386, R387). -/
def State.contribute (s : State) (c h idx pa data : Nat) : State :=
  match s.group h with
  | none => s.countFab h fabDropped
  | some g =>
    if !g.reduce || g.st == .ended || g.weave != s.weaveNo c then s.countFab h fabDropped
    else
      let k := idx / sectorElems g.ty
      let base := pa / 32 * 32
      let g0 := if g.st == .idle then { g with st := .armed, elapsed := 0, arr := 0 } else g
      let bs := tget [] g0.bases k
      let xs := tget [] g0.elems idx
      if pa % 32 ≠ idx % sectorElems g.ty * elemBytes g.ty ∨ bs.any (fun e => e.1 == c && e.2 != base) ∨ g.count ≤ xs.length then
        s.endReduction h g0 2
      else
        let g1 := { g0 with elems := tput g0.elems idx (xs ++ [data]), bases := tput g0.bases k (bs ++ [(c, base)]) }
        (s.setGroup h g1).trySector h k

/-- `rst.add` and `rst.max` of a type (R384, R385): the checks, then the contribution joins the task's stores. -/
def rstWord (ty : Nat) (h : CHdr) (d a b : Nat) (s : State) : Out :=
  asTask s fun c t =>
    let hv := s.reg c t d
    let va := s.reg c t a
    let n := elemBytes ty
    let bad := s.trap c t 39 hv
    if bits hv 14 2 ≠ 0 ∨ bits hv 32 32 ≠ 0 then bad
    else if va.toNat % n ≠ 0 then s.trap c t 6 va
    else match s.groupFor c (word (bits hv 0 14)) with
      | none => bad
      | some (hh, g) =>
        if !g.reduce || g.ty != ty || decide (g.nelem ≤ bits hv 16 16) then bad
        else match translate (s.core c).seg .wr va.toNat with
          | .bad st => s.fatal c t 0 st (s.task c t).pc va
          | .ok pa _ =>
            if inDev pa then s.trap c t 8 va
            else
              (s.taskAccess c t { remoteAccess (.contribution hh (bits hv 16 16)) h n .none with
                va := va.toNat, pa, data := storeCells pa n (s.reg c t b).toNat }).goOn c t (ctlLen h 2)

def execRstAdd (h : CHdr) (ty d a b : Nat) (s : State) : Out := rstWord ty h d a b s

def execRstMax (h : CHdr) (ty d a b : Nat) (s : State) : Out := rstWord (3 + ty) h d a b s

/-- The core and the access of a number on its way. -/
def State.findAccess (s : State) (id : Nat) : Option (Nat × Access) :=
  s.cores.foldl (fun (b : Option (Nat × Access)) e => match b with
    | some x => some x
    | none => (e.2.access id).map fun a => (e.1, a)) none

/-- REDUCE_CONTRIBUTION: the switch die counts the contribution, and its acknowledgement returns (R385, R386). -/
def execReduceContribution (id : Nat) (s : State) : Out :=
  match s.findAccess id with
  | none => .next s
  | some (c, a) =>
    match a.kind with
    | .contribution h idx =>
      if a.stage != .sent || !(s.core c).mayArrive a then .next s
      else .next ((s.fix c a []).contribute c h idx a.pa (numBytes (a.data.map Prod.snd)))
    | _ => .next s

/-- REDUCE_TIMEOUT (R387). -/
def execReduceTimeout (i : GrpId) (s : State) : Out :=
  let h := handleOf i
  match s.group h with
  | some g =>
    if g.reduce && g.st == .armed && g.expired && !s.weaveHalted g.weave then .next (s.endReduction h g 3) else .next s
  | none => .next s

/-! The answers of the switch die (R382, R383). -/

/-- A group opens, or why not: the value of g[RD]. -/
def State.openGroup (s : State) (c : Nat) (w : Wait) : Word × State :=
  let bs := w.blk
  let merge := fld (blockWord bs 4) 0 2 == 0
  let ok := if merge then mergeRecordOk bs && w.res2 != 1#64 else reduceRecordOk bs
  if !ok then (word (2 ^ 16 * 2), s)
  else
    let g := groupOf s c bs w.out w.bar
    match s.findUnit (dieOf c % 16) g.size with
    | none => (word (2 ^ 16), s)
    | some h => (word h, s.setGroup h g)

/-- A group is freed (R382): a query under way ends with CANCELLED and writes its status word, or with TIMEOUT where TMO has run out (R402);
else it is gone. -/
def State.freeGroup (s : State) (h : Nat) (g : Grp) : State :=
  if g.reduce then { s with groups := tdel s.groups h }
  else match g.st with
    | .armed => s.endQuery h { g with freed := true } (if g.expired && !s.weaveHalted g.weave then 3 else 4) false false
    | .completing => s.setGroup h { g with freed := true }
    | _ => { s with groups := tdel s.groups h }

/-- SWITCH_DIE_ANSWER: the answer to `mg.cfg` or `mg.rd` reaches task t of core c, or the halt buffer before it (R481). -/
def execSwitchDieAnswer (c t : Nat) (s : State) : Out :=
  match s.waitOf c t, s.tornWeave (s.weaveNo c) with
  | some w, false =>
    if !w.answerable (s.isFrozen c) then .next s
    else match w.what, w.instr with
    | .answer, .mgCfgOpen _ d _ =>
      let r := s.openGroup c w
      .next (s.answered c t (r.2.wakeWith c t d r.1))
    | .answer, .mgCfgFree _ d _ =>
      match s.groupFor c w.res with
      | some (h, g) => .next (s.answered c t ((s.freeGroup h g).wakeWith c t d 0#64))
      | none => .next (s.answered c t (s.trap c t 39 w.res))
    | .answer, .mgRd _ d _ =>
      match s.groupFor c w.res with
      | some (_, g) => .next (s.answered c t (s.wakeWith c t d (s.groupWord g)))
      | none => .next (s.answered c t (s.trap c t 39 w.res))
    | _, _ => .next s
  | _, _ => .next s

/-! Query multicast (R388, R389, R394, R395). -/

/-- What the reads of a `qcast` give: bytes, a trap, a fatal context error, or a refusal of the target's window table with
its hint, and the bytes of the pieces that have returned (R123, R395). -/
inductive HomeRead where
  | ok (bs : List Byte)
  | trap (code va : Nat)
  | fatal (status va : Nat)
  | refused (hint va pa n : Nat) (got : Tbl (List Byte))

/-- The n bytes at va that an earlier sending of a read has brought. -/
def gotBytes (got : Tbl (List Byte)) (va n : Nat) : Option (List Byte) := (tfind got va).bind fun bs => if bs.length = n then some bs else none

/-- The pieces of a range at their homes, in any package; a piece in another package passes the window table of its die. -/
def State.homePieces (s : State) (c t : Nat) (got : Tbl (List Byte)) : List (Nat × Xlat × Nat) → HomeRead
  | [] => .ok []
  | (va, x, n) :: rest =>
    let and_ (bs : List Byte) : HomeRead := match s.homePieces c t got rest with
      | .ok r => .ok (bs ++ r)
      | .refused hint a pa m g => .refused hint a pa m (tput g va bs)
      | r => r
    match gotBytes got va n, x with
    | some bs, _ => and_ bs
    | none, .bad st => .fatal st va
    | none, .ok pa _ =>
      if inDev pa then .trap 8 va
      else if s.errorLine (pa / 128) then .trap 17 va
      else if paPkg pa ≠ pkgOf c ∧ s.windowOk (paDie pa) (s.core c).ctxno .rd (paOff pa) n = false then .refused (s.hintOf (paPkg pa)) va pa n []
      else
        let as := span pa n
        and_ (forward as (s.seenBytes c 5 as) ((s.core c).ownStores t))

/-- n bytes at va for a `qcast` of task t: those of a read that has returned before a refusal of another stand, the rest is read. -/
def State.readHomes (s : State) (c t va n : Nat) : HomeRead :=
  let got := ((s.waitOf c t).map fun w => w.got).getD []
  if 2 ^ 64 < va + n then .fatal 7 (2 ^ 64 - 1)
  else match gotBytes got va n with
    | some bs => .ok bs
    | none => s.homePieces c t got (pieces (s.core c).seg .rd va n)

/-- A refused read is sent again H · 64 ns later, or ends in REMOTE_ACCESS once RETRYMAX refusals of the same access have passed
(R123, R149); what the other reads have brought stays. -/
def State.queryRefused (s : State) (c t hint va : Nat) (got : Tbl (List Byte)) : State :=
  let tries := ((s.waitOf c t).map fun w => tget 0 w.refusals va).getD 0
  if hint ≠ 0 ∧ tries + 1 < bits (s.core c).rctl 0 16 then
    s.modWait c t fun w => { w with refusals := tput w.refusals va (tries + 1), res2 := word (s.time + 64 * hint),
                                    got := got.foldl (fun g e => tput g e.1 e.2) w.got }
  else s.trap c t 15 (word va)

/-- A `qcast` that has read got reads n bytes at va; go gets them. -/
def withHomes (s : State) (c t : Nat) (got : Tbl (List Byte)) (va n : Nat) (go : List Byte → State) : State :=
  match s.readHomes c t va n with
  | .ok bs => go bs
  | .trap code a => s.trap c t code (word a)
  | .fatal st a => s.fatal c t 0 st (s.task c t).pc (word a)
  | .refused hint a pa n more => (s.queueMiss (s.core c).ctxno pa n).queryRefused c t hint a (more.foldl (fun g e => tput g e.1 e.2) got)

/-- A query record meets R394. -/
def queryRecordOk (bs : List Byte) : Bool :=
  let w := blockWord bs
  let ne := fld (w 1) 32 32
  decide (1 ≤ w 3) && decide (w 3 ≤ 256) && w 6 == 0 && w 7 == 0
  && (if ne = 0 then w 0 == 0 && w 1 == 0 && w 2 == 0 && w 4 == 0 && decide (1 ≤ fld (w 5) 0 11) && decide (fld (w 5) 0 11 ≤ 1024)
        && fld (w 5) 11 5 == 0 && fld (w 5) 32 32 == 0
      else w 0 % 64 == 0 && decide (w 2 < 2 ^ 40) && w 4 % 128 == 0 && w 5 == 0)

/-- A sequence header meets R388. -/
def headerOk (bs : List Byte) : Bool :=
  let w := blockWord bs
  decide (w 0 < 2 ^ 16) && decide (w 1 < 2 ^ 32) && decide (w 2 < 2 ^ 12) && decide (1 ≤ fld (w 2) 0 8) && decide (fld (w 2) 8 4 ≤ 8)
  && w 3 % 128 == 0 && decide (w 3 < 2 ^ 41) && decide (w 4 < 2 ^ 32) && w 5 == 0 && w 6 == 0 && w 7 == 0

/-- An entry of a position map meets R388. -/
def entryOk (w0 w1 : Nat) : Bool :=
  fld w0 23 1 == 0 && fld w0 36 28 == 0 && fld w1 23 41 == 0 && decide (fld w0 33 3 ≤ 6) && fld w0 27 6 % 2 ^ fld w0 33 3 == 0
  && decide (fld w0 27 6 + 2 ^ fld w0 33 3 ≤ 64)

/-- The positions of stripe (entry i, NMU j) below LIMIT (R389, R395). -/
def stripeCount (blog2 c limit i j : Nat) : Nat :=
  ((span 0 256).filter fun r => decide (256 * i + r < limit) && r / 2 ^ blog2 % c == j).length

/-- The stripes of the entries from E0 on: entry number, its words, j. -/
def stripesOf (e0 : Nat) : List (Nat × Nat) → List (Nat × Nat × Nat × Nat)
  | [] => []
  | (w0, w1) :: t => ((span 0 (2 ^ fld w0 33 3)).map fun j => (e0, w0, w1, j)) ++ stripesOf (e0 + 1) t

/-- The answer of a `qcast` in g[RD]. -/
def castResult (g : Grp) (st : Nat) : Word := word (st + 2 ^ 16 * g.qtag + 2 ^ 32 * g.gen)

/-- The group is armed (R395). -/
def Grp.arm (g : Grp) (gen s : Nat) : Grp :=
  { g with st := .armed, qtag := (g.qtag + 1) % 2 ^ 16, gen, s, arr := 0, elapsed := 0, leaves := [] }

/-- The status that turns an arming away for its size, its dimension or a query under way (R395): 0 for none. -/
def Grp.castStatus (g : Grp) (n dim : Nat) : Nat :=
  if g.smax < n ∨ dim ≠ g.dim then 3 else if g.st == .armed || g.st == .completing then 1 else 0

/-- One stripe's message, or its masked partial (R395). -/
def State.castStripe (s : State) (c t h : Nat) (g : Grp) (hdr : List Byte) (limit : Nat) (q : List Nat) (slot : Nat)
    (x : Nat × Nat × Nat × Nat) : State :=
  let w := blockWord hdr
  let n := stripeCount (fld (w 2) 8 4) (2 ^ fld x.2.1 33 3) limit x.1 x.2.2.2
  if n = 0 then
    { s with partials := s.partials ++ [{ id := s.nextId, h, gen := g.gen, slot, qtag := g.qtag, kind := .normal, part := maskedPart g.dim }],
             nextId := s.nextId + 1 }
  else
    { s with stripes := s.stripes ++
        [{ id := s.nextId, h, gen := g.gen, qtag := g.qtag, slot, weave := g.weave, ctx := g.ctx, core := c, task := t,
           uid := (s.task c t).uid, word0 := x.2.1, word1 := x.2.2.1, j := x.2.2.2, n, lpp := fld (w 2) 0 8, sprog := w 3, seqid := w 4, q }],
             nextId := s.nextId + 1 }

/-- The stripes of a query set out in slot order. -/
def State.castAll (s : State) (c t h : Nat) (g : Grp) (hdr : List Byte) (limit : Nat) (q : List Nat)
    (xs : List (Nat × Nat × Nat × Nat)) : State :=
  ((span 0 xs.length).zip xs).foldl (fun s x => s.castStripe c t h g hdr limit q x.1 x.2) s

/-- The arming and the multicast of a query with entries (R395). -/
def State.castEntries (s : State) (c t d h : Nat) (g : Grp) (ra : Word) (rec_ : List Byte) : State :=
  let w := blockWord rec_
  let e0 := fld (w 1) 0 32
  let ne := fld (w 1) 32 32
  let got := [(ra.toNat, rec_)]
  withHomes s c t got (w 0) 64 fun hdr =>
    let s1 := s.acquire c 5
    let got1 := tput got (w 0) hdr
    withHomes s1 c t got1 (w 0 + 64 + 16 * e0) (16 * ne) fun ents =>
      withHomes s1 c t (tput got1 (w 0 + 64 + 16 * e0) ents) (w 4) (4 * w 3) fun qb =>
        let es := (span 0 ne).map fun i => (blockWord ents (2 * i), blockWord ents (2 * i + 1))
        let xs := stripesOf e0 es
        if blockWord hdr 1 % 2 ^ 32 < e0 + ne then s1.trap c t 39 ra
        else
          let st :=
            if !headerOk hdr || !es.all (fun e => entryOk e.1 e.2) then 4
            else if es.any fun e => fld e.1 16 1 == 0 then 2
            else g.castStatus xs.length (w 3)
          if st ≠ 0 then s1.wakeWith c t d (castResult g st)
          else
            let g1 := g.arm (blockWord hdr 0 % 2 ^ 16) xs.length
            let s2 := (s1.setGroup h g1).castAll c t h g1 hdr (w 2) ((span 0 (w 3)).map (blockHalf qb)) xs
            s2.wakeWith c t d (castResult g1 0)

/-- `qcast` (R395): the checks that need no read, then the task parks. -/
def execQcast (h : CHdr) (d a b : Nat) (s : State) : Out :=
  asTask s fun c t =>
    if (s.reg c t a).toNat % 64 ≠ 0 then s.trap c t 39 (s.reg c t a)
    else match s.groupFor c (s.reg c t b) with
      | none => s.trap c t 39 (s.reg c t b)
      | some (_, g) => if g.reduce then s.trap c t 39 (s.reg c t b) else s.park c t .answer (.qcast h d a b) (ctlLen h 2)

/-- QCAST_ANSWER: the reads of the `qcast` of task t are done and the group answers (R395). -/
def execQcastAnswer (c t : Nat) (s : State) : Out :=
  match s.waitOf c t with
  | none => .next s
  | some w =>
    match w.what, w.instr with
    | .answer, .qcast _ d a b =>
      let ra := s.reg c t a
      if !w.answerable (s.isFrozen c) || (s.isFrozen c && w.res2 != 0#64) || s.tornWeave (s.weaveNo c) || decide (s.time < w.res2.toNat) then .next s
      else .next (s.answered c t <| withHomes s c t [] ra.toNat 64 fun rec_ =>
        if !queryRecordOk rec_ then s.trap c t 39 ra
        else match s.groupFor c (s.reg c t b) with
          | none => s.trap c t 39 (s.reg c t b)
          | some (h, g) =>
            if g.reduce then s.trap c t 39 (s.reg c t b)
            else if fld (blockWord rec_ 1) 32 32 ≠ 0 then s.castEntries c t d h g ra rec_
            else
              let n := fld (blockWord rec_ 5) 0 11
              let st := g.castStatus n (blockWord rec_ 3)
              if st ≠ 0 then s.wakeWith c t d (castResult g st)
              else
                let g1 := g.arm (fld (blockWord rec_ 5) 16 16) n
                (s.setGroup h g1).wakeWith c t d (castResult g1 0))
    | _, _ => .next s

/-! Stripe receivers (R396). -/

/-- A partial of a stripe message. -/
def State.stripePartial (s : State) (m : StripeMsg) (kind : PKind) : State :=
  { s with partials := s.partials ++ [{ id := s.nextId, h := m.h, gen := m.gen, slot := m.slot, qtag := m.qtag, kind, part := { m := 0, l := 0, o := [] } }],
           nextId := s.nextId + 1, stripes := dropFirst (fun x => x.id == m.id) s.stripes }

/-- The NMU of a stripe, its die, and its tag line's address. -/
def StripeMsg.unit (m : StripeMsg) : Nat := 64 * (8 * fld m.word0 17 6 + fld m.word0 24 3) + (fld m.word0 27 6 + m.j) % 64
def StripeMsg.die (m : StripeMsg) : Nat := m.unit / 256
def StripeMsg.row (m : StripeMsg) : Nat := fld m.word1 0 23

/-- Step 1: the stripe command block passes R337 with the window table and die offsets (R396). -/
def State.stripeBlockOk (s : State) (m : StripeMsg) (bs prog : List Byte) : Bool :=
  let w := blockWord bs
  nmuBlockOk bs && w 5 == 0 && decide (w 3 + w 4 ≤ saveRows) && s.windowOk m.die m.ctx .rd (w 3) (w 4)
  && s.windowOk m.die m.ctx .rd (w 0) (4 * w 1) && prog.length == 4 * w 1

/-- Step 2: the tag line and the stripe's lines lie in the region. -/
def stripeLinesOk (m : StripeMsg) (bs : List Byte) : Bool :=
  let w := blockWord bs
  let last := m.row + m.lpp * m.n
  decide (last < 2 ^ 23) && decide (w 3 ≤ lineOff m.unit m.row) && decide (lineOff m.unit last + 128 ≤ w 3 + w 4)

/-- Step 4: the dirty sectors of the stripe's lines go to the banks. -/
def State.stripeClean (s : State) (m : StripeMsg) : State :=
  (span (m.row + 1) (m.lpp * m.n)).foldl (fun s la => (span (linePa m.unit la / 32) 4).foldl (fun s k => s.homeClean k) s) s

/-- The registers that hold the query at a stripe command's start (R396). -/
def queryRegs (q : List Nat) : List Nat :=
  (span 0 ((q.length + 31) / 32)).map fun r => ofElems 32 ((span (32 * r) 32).map fun e => q.getD e 0)

/-- Step 5: the command of a stripe message. -/
def stripeCmd (m : StripeMsg) (id : Nat) (bs prog : List Byte) : NCmd :=
  let w := blockWord bs
  { id, weave := m.weave, ctx := m.ctx, core := m.core, task := m.task, uid := m.uid, words := (span 0 (w 1)).map (blockHalf prog),
    loopn := w 2 / 2 ^ 32 * 2 ^ 32 + m.n, lo := w 3, hi := w 3 + w 4,
    emit := 2 ^ 48 * m.gen + 2 ^ 38 * m.slot + 2 ^ 22 * m.qtag + 2 ^ 14 + m.h,
    y := (m.row + 1) :: (span 9 7).map (fun i => if w i = 0 then 0 else fld (w i) 15 23), n := queryRegs m.q, stripe := true }

/-- STRIPE_MESSAGE: a stripe receiver handles message id (R396). -/
def execStripeMessage (id : Nat) (s : State) : Out :=
  match firstWhere (fun m => m.id == id) s.stripes with
  | none => .next s
  | some m =>
    match tfind s.weaves m.weave with
    | none => .next { s with stripes := dropFirst (fun x => x.id == id) s.stripes }
    | some w =>
      if w.torn || w.st == .ended then .next { s with stripes := dropFirst (fun x => x.id == id) s.stripes }
      else if s.lost.testBit (fld m.word0 17 6) then .next (s.stripePartial m .lost)
      else if !s.windowOk m.die m.ctx .rd m.sprog 128 then .next (s.stripePartial m .failed)
      else
        let base := 2 ^ 41 * m.die
        let bs := s.homeBytes (base + m.sprog) 128
        let prog := if blockWord bs 1 ≤ 96 then s.homeBytes (base + blockWord bs 0) (4 * blockWord bs 1) else []
        if !s.stripeBlockOk m bs prog || !stripeLinesOk m bs then .next (s.stripePartial m .failed)
        else
          let tag := s.homeNum (linePa m.unit m.row) 6
          if fld tag 0 32 ≠ m.seqid ∨ fld tag 32 16 ≠ fld m.word0 0 16 then .next (s.stripePartial m .stale)
          else
            let s1 := s.stripeClean m
            match s1.tryAccept [m.unit] (stripeCmd m s1.nextId bs prog) with
            | some s2 => .next { s2.fresh with stripes := dropFirst (fun x => x.id == id) s2.stripes }
            | none => .next s1

/-! The end of a weave, and the resume of a halted one (R382, R403). -/

/-- The groups of a weave that goes on take up what arrived while it was halted (R403). -/
def State.resumeGroups (s : State) (w : Nat) : State :=
  (s.groups.filter fun e => e.2.weave == w).foldl (fun s e => if e.2.reduce then s.trySectors e.1 e.2 else s.tryRoot e.1 e.2) s

end Sys2Proof.Machine
end

