-- ==== Sys2Proof/Machine/Trackers.lean ====
section
/-! DEFINITION. Tile trackers (R253 to R263): arming, and the stored transfers of a die's tracker copy unit. How a tracker
counts and fires stands in Memory. -/

namespace Sys2Proof.Machine

/-! The arm record (R254, R255). -/

/-- The fields of an arm record. -/
def armBase (bs : List Byte) : Nat := blockWord bs 0
def armLen (bs : List Byte) : Nat := fld (blockWord bs 1) 0 32
def armExpect (bs : List Byte) : Nat := fld (blockWord bs 1) 32 32
def armEvt (bs : List Byte) : Nat := blockWord bs 2
def armWord (bs : List Byte) : Nat := blockWord bs 3

/-- The record's own fields meet R254. -/
def armFieldsOk (bs : List Byte) : Bool :=
  armBase bs % 32 == 0 && armLen bs % 32 == 0 && decide (32 ≤ armLen bs) && decide (armLen bs ≤ 2 ^ 30) && decide (1 ≤ armExpect bs)
  && fld (armEvt bs) 18 45 == 0 && (span 12 4).all fun i => blockWord bs i == 0

/-- The watched range: its physical pieces, BAD_RECORD, or SEGMENT_MISS at an address. -/
inductive RangeCheck where
  | ok (ps : List (Nat × Nat))
  | bad
  | miss (va : Nat)

/-- The pieces of a range for core c, each from its first to its last byte in the HBM of its package, and readable (R255). -/
def rangePieces (c : Nat) : List (Nat × Xlat × Nat) → RangeCheck
  | [] => .ok []
  | (va, x, n) :: t =>
    match x with
    | .bad 7 => .miss va
    | .bad _ => match rangePieces c t with
      | .miss a => .miss a
      | _ => .bad
    | .ok pa _ => match rangePieces c t with
      | .ok ps => if inHbm pa && inHbm (pa + n - 1) && paPkg pa == pkgOf c then .ok ((pa, n) :: ps) else .bad
      | r => r

/-- The range check of a record: one die holds it (R255). A range that passes 2^64 misses at the top address, and a miss decides before another
failure of the range (DESIGN CHOICE, assumption 125). -/
def rangeCheck (k : Core) (c : Nat) (bs : List Byte) : RangeCheck :=
  if 2 ^ 64 < armBase bs + armLen bs then .miss (2 ^ 64 - 1)
  else match rangePieces c (pieces k.seg .rd (armBase bs) (armLen bs)) with
    | .ok ps => if ((ps.map fun p => paDie p.1).eraseDups).length = 1 then .ok ps else .bad
    | r => r

/-! The stored word (R255). -/

/-- The transfer of a stored word, with its two sides before translation; none for another word or a field out of place. -/
def storedShape (bs : List Byte) : Option (DX × Shape) :=
  let t (n : Nat) : Nat := blockWord bs (4 + n)
  let ok (h : DHdr) (x : DX) (two : Bool) : Bool :=
    h.idle == 0 && !h.k && decide (x.xd < 8) && decide (x.xs < 8) && decide (x.xn < (if two then 7 else 8)) && decide (x.xb < 8)
    && x.ssp != 0 && x.dsp != 0
  match decodeData 3 (armWord bs) with
  | some (.cpLin h x) => if ok h x false then (shapeLin x (t x.xd) (t x.xs) (t x.xn)).map fun sh => (x, sh) else none
  | some (.cpRcopy h x) => if ok h x false then (shapeLin x (t x.xd) (t x.xs) (t x.xn)).map fun sh => (x, sh) else none
  | some (.cp2d h x) => if ok h x true then (shape2d x (t x.xd) (t x.xs) (t x.xn) (t (x.xn + 1))).map fun sh => (x, sh) else none
  | _ => none

/-- A side of a stored unit translates, a local one into its own package, none into device registers, which makes the word a BAD_WORD (R255;
DESIGN CHOICE, assumption 125). -/
def storedPlace (k : Core) (c sp : Nat) (p : Perm) (va : Nat) : Option Nat :=
  match (if sp = 1 then translateLocal k c p va else translate k.seg p va) with
  | .ok pa _ => if inDev pa then none else some pa
  | .bad _ => none

/-- The units of a stored transfer with panel-physical addresses. -/
def storedUnits (k : Core) (c : Nat) (x : DX) : List Sector → Option (List Sector)
  | [] => some []
  | q :: t =>
    match storedPlace k c x.ssp .rd q.src, storedPlace k c x.dsp .wr q.dst, storedUnits k c x t with
    | some a, some b, some qs => some ({ q with src := a, dst := b } :: qs)
    | _, _, _ => none

/-- The barrier of a stored word is allocated to the weave; a zero configuration does not fail the arm (R255, R258). -/
def State.storedBar (s : State) (c va : Nat) : Option BarId :=
  match s.checkBarrier c va with
  | .ok b => some b
  | .fault 14 => match translate (s.core c).seg .rd va with
    | .ok pa _ => (barAt pa).map fun x => x.1
    | .bad _ => none
  | _ => none

/-- The stored transfer of a record, or none for BAD_WORD (R255). A word that moves no bytes has no alignment to keep (DESIGN CHOICE, assumption
125). -/
def State.storedXfer (s : State) (c : Nat) (bs : List Byte) : Option Xfer :=
  match storedShape bs with
  | none => none
  | some (x, sh) =>
    let y : Xfer := { id := 0, pc := 0, ssp := x.ssp, dsp := x.dsp, scope := x.scope, wscope := x.scope, secs := sh.secs, moved := sh.moved }
    if sh.moved ≠ 0 ∧ unitsAligned y = false then none
    else match storedUnits (s.core c) c x sh.secs with
      | none => none
      | some qs =>
        if x.cen then
          (s.storedBar c (blockWord bs (4 + x.xb))).map fun b => { y with secs := qs, bar := some (b, blockWord bs (4 + x.xb)) }
        else some { y with secs := qs }

/-! Arming (R255). -/

/-- `trk.arm`: the task parks until the home slice answers. -/
def execTrkArm (h : CHdr) (d a : Nat) (s : State) : Out :=
  asTask s fun c t =>
    if (s.reg c t a).toNat % 128 ≠ 0 then s.trap c t 6 (s.reg c t a) else s.park c t .answer (.trkArm h d a) (ctlLen h 2)

/-- The trackers of a die. -/
def State.trkUnit (s : State) (d : Nat) : TrkUnit := tget {} s.trk d

/-- The answer of the home slice: the value of g[RD], and the state with the tracker armed, the lowest free one (R255; DESIGN CHOICE, assumption
128). -/
def State.armTracker (s : State) (c va : Nat) (bs : List Byte) (ps : List (Nat × Nat)) : Word × State :=
  let x := if armWord bs = 0 then none else s.storedXfer c bs
  let pa := match ps with | p :: _ => p.1 | [] => 0
  let d := paDie pa
  let slice := fld pa 7 7
  if armWord bs ≠ 0 ∧ x = none then (3#64, s)
  else match firstWhere (fun i => (tfind (s.trkUnit d).armed (16 * slice + i)).isNone) (span 0 16) with
    | none => (1#64, { s with trk := tmod {} s.trk d fun u => { u with stat := countUp u.stat 16 16 1 } })
    | some i =>
      let t : Tracker := { ctx := (s.core c).ctxno, weave := s.weaveNo c, core := c, pieces := ps, expect := armExpect bs, evt := armEvt bs,
                           xword := armWord bs, xfer := x, barVa := match x with | some y => (y.bar.map Prod.snd).getD 0 | none => 0, recVa := va }
      (word (2 ^ 8 * i + 2 ^ 12 * slice + 2 ^ 19 * d),
       { s with trk := tmod {} s.trk d fun u => { u with armed := tput u.armed (16 * slice + i) t } })

/-- Every earlier store and device access of the task is performed (R255). -/
def Core.armReady (k : Core) (t : Nat) : Bool := (k.pending t).all fun a => !(a.storeLike || a.space == .device)

/-- TRK_ARM_ANSWER: the record is read and checked, and the answer reaches task t of core c (R255). -/
def execTrkArmAnswer (c t : Nat) (s : State) : Out :=
  match s.waitOf c t with
  | none => .next s
  | some w =>
    match w.what, w.instr with
    | .answer, .trkArm _ d a =>
      if s.isFrozen c || !(s.core c).armReady t then .next s
      else
        let va := s.reg c t a
        .next (withBlock s c t va.toNat 128 fun bs =>
          if !armFieldsOk bs then s.wakeWith c t d 2#64
          else match rangeCheck (s.core c) c bs with
            | .miss x => s.fatal c t 0 7 (s.task c t).pc (word x)
            | .bad => s.wakeWith c t d 2#64
            | .ok ps =>
              let r := s.armTracker c va.toNat bs ps
              r.2.wakeWith c t d r.1)
    | _, _ => .next s

/-! Stored transfers (R258, R260, R261). -/

/-- The state with the head of die d's queue changed. -/
def State.modStored (s : State) (d : Nat) (f : Stored → Stored) : State :=
  { s with trk := tmod {} s.trk d fun u => { u with queue := match u.queue with | x :: t => f x :: t | [] => [] } }

/-- A unit's side meets a lasting error, or the window table of its die refuses it: the hint. -/
def State.storedRefusal (s : State) (ctx sp : Nat) (p : Perm) (pa : Nat) : Option Nat :=
  if sp = 2 ∧ s.windowOk (paDie pa) ctx p (paOff pa) 32 = false then some (s.hintOf (paPkg pa)) else none

/-- The refused read or write (key) of a sector of a stored transfer is sent again, or the transfer has failed (R123, R149, R261): RETRYMAX
counts the refusals of one access, and is that of the arming core as it stands now (assumption 103). -/
def State.storedRetry (s : State) (d hint key : Nat) (x : Stored) : State :=
  let n := tget 0 x.tries key + 1
  if hint ≠ 0 ∧ n < bits (s.core x.tracker.core).rctl 0 16 then
    s.modStored d fun y => { y with tries := tput y.tries key n, resendAt := tput y.resendAt key (s.time + 64 * hint) }
  else s.modStored d fun y => { y with failed := true }

/-- A write of unit q would land in source bytes that are still to be read, of a unit whose destination lies outside the source bytes
(R236); both sides are panel-physical. -/
def Xfer.clobbers (x : Xfer) (q : Sector) : Bool :=
  x.secs.any fun p => p.no != q.no && p.st == .todo && p.src / 32 == q.dst / 32 && !x.secs.any fun r => r.src / 32 == p.dst / 32

/-- The read of a stored transfer's sector meets an error: a clean copy is dropped and read from below, a lasting error elsewhere fails
the transfer (R136, R261). -/
def State.storedRead (s : State) (d src ecc : Nat) (go : State → State) : State :=
  match ecc with
  | 0 => go s
  | 3 => if s.cleanCopy (src / 32) then go ((s.homeDrop (src / 32)).countError (paDie src) 1)
         else (s.countError (paDie src) 3).modStored d fun z => { z with failed := true }
  | n => go (s.countError (paDie src) n)

/-- Unit q of a stored transfer, its checks passed, is read and written at the homes. -/
def State.moveStoredUnit (s : State) (d : Nat) (q : Sector) : State :=
  let upd (z : Stored) : Stored :=
    { z with started := true, tracker := { z.tracker with xfer := z.tracker.xfer.map fun y =>
        { y with secs := modFirst (fun p => p.no == q.no) (fun p => { p with st := .writing }) y.secs } } }
  (s.homeWrite none (cellsFrom q.dst (s.homeBytes q.src 32))).modStored d upd

/-- The stored transfer waits: its weave is halted, or is torn down before the transfer has begun, or a refused access of the unit is not
due yet (R123, R253, R260). -/
def State.storedHeld (s : State) (x : Stored) (q : Sector) : Bool :=
  x.failed || s.weaveHalted x.tracker.weave || (s.tornWeave x.tracker.weave && !x.started)
  || decide (s.time < tget 0 x.resendAt (2 * q.no)) || decide (s.time < tget 0 x.resendAt (2 * q.no + 1))

/-- Unit no of the stored transfer at the head of die d's queue moves: read and written at the homes (R258). While the head is held, those behind
it wait (R260; DESIGN CHOICE, assumption 126). -/
def State.moveStored (s : State) (d no ecc : Nat) : State :=
  match (s.trkUnit d).queue with
  | [] => s
  | x :: _ =>
    match x.tracker.xfer with
    | none => s
    | some y =>
      match firstWhere (fun q => q.no == no && q.st == .todo) y.secs with
      | none => s
      | some q =>
        if s.storedHeld x q || y.clobbers q then s
        else match s.storedRefusal x.tracker.ctx y.ssp .rd q.src, s.storedRefusal x.tracker.ctx y.dsp .wr q.dst with
          | some hint, _ => (s.queueMiss x.tracker.ctx q.src 32).storedRetry d hint (2 * no) x
          | none, some hint => (s.queueMiss x.tracker.ctx q.dst 32).storedRetry d hint (2 * no + 1) x
          | none, none =>
            if s.errorLine (q.src / 128) || s.errorLine (q.dst / 128) then s.modStored d fun z => { z with failed := true }
            else s.storedRead d q.src ecc fun s => s.moveStoredUnit d q

/-- A fault of a stored transfer for the arming job; a dropped one is counted (R258, R261). -/
def State.storedFault (s : State) (d : Nat) (t : Tracker) (code va : Nat) : State :=
  let r := s.jobFault t.weave t.core code (word va)
  if r.2 then r.1 else { r.1 with trk := tmod {} r.1.trk d fun u => { u with stat := countUp u.stat 0 16 1 } }

/-- The weave takes no more additions: it has ended or is torn down (R260). -/
def State.weaveGone (s : State) (w : Nat) : Bool :=
  match tfind s.weaves w with
  | some x => x.torn || x.st == .ended
  | none => true

/-- STORED_TRANSFER_COMPLETE: the transfer at the head of die d's queue is over (R258, R261). -/
def execStoredTransferComplete (d : Nat) (s : State) : Out :=
  match (s.trkUnit d).queue with
  | [] => .next s
  | x :: _ =>
    let fin := match x.tracker.xfer with
      | some y => y.secs.all fun q => q.st == .writing
      | none => true
    if s.weaveHalted x.tracker.weave || !(x.failed || fin) then .next s
    else
      let s1 := { s with trk := tmod {} s.trk d fun u => { u with queue := u.queue.drop 1 } }
      if x.failed then .next (s1.storedFault d x.tracker 33 x.tracker.recVa)
      else match x.tracker.xfer with
        | some y => match y.bar with
          | some (b, _) =>
            if s.weaveGone x.tracker.weave then .next s1
            else .next ((s1.barAddOf x.tracker.weave b y.moved).getD (s1.storedFault d x.tracker 14 x.tracker.barVa))
          | none => .next s1
        | none => .next s1

/-- A stored transfer of the weave has not completed (R260). -/
def State.storedOwed (s : State) (w : Nat) : Bool := s.trk.any fun e => e.2.queue.any fun x => x.tracker.weave == w

/-- The first word of tracker n of die d (R262): CTX and EXPECT of a fired tracker read 0, and HELD of an armed one too (DESIGN CHOICE,
assumption 127). -/
def State.trkWord0 (s : State) (d n : Nat) : Word :=
  match tfind (s.trkUnit d).armed n with
  | some t => word (2 ^ 63 + 2 ^ 46 * t.ctx + t.expect)
  | none => word (2 ^ 62 * bit ((s.trkUnit d).queue.any fun x => x.slot == n && s.weaveHalted x.tracker.weave))

/-- The second word: COUNTED of the armed tracker, 0 of a fired one (R262; DESIGN CHOICE, assumption 127). -/
def State.trkWord1 (s : State) (d n : Nat) : Word :=
  match tfind (s.trkUnit d).armed n with
  | some t => word t.counted
  | none => 0#64

end Sys2Proof.Machine
end

