-- ==== Sys2Proof/Machine/Walks.lean ====
section
/-! DEFINITION. The traversal engines (R352 to R373): walk commands, their steps, return slots and `tw.wait`. -/

namespace Sys2Proof.Machine

/-! The procedures (R360 to R366). -/

/-- NIL. -/
def nil64 : Nat := 2 ^ 64 - 1

/-- A region offset, modulo 2^64. -/
def off64 (n : Nat) : Nat := n % 2 ^ 64

/-- The bucket at which a hash search starts (R362). -/
def Walk.hashStart (w : Walk) : Nat := w.key * w.p2 % 2 ^ 64 / 2 ^ (64 - w.p1)

/-- The offset of the j-th bucket of a search. -/
def Walk.bucketAt (w : Walk) (j : Nat) : Nat := off64 (w.root + 32 * ((w.hashStart + j) % 2 ^ w.p1))

/-- The block of a token position, and the fields of P1 (R357, R363). -/
def Walk.block (w : Walk) : Nat := w.key / 2 ^ fld w.p1 0 5
def Walk.pshift (w : Walk) : Nat := fld w.p1 8 5

/-- The draw of hop h (R365). -/
def Walk.draw (w : Walk) (h : Nat) (given : Bool) : Nat :=
  if given then fld w.p2 0 24 else generator w.p2 (fld w.p3 0 32) ((fld w.p3 32 32 + h) % 2 ^ 32) / 2 ^ 40

/-- A position that ends the walk, or moves on, with no read. -/
def Walk.settle (w : Walk) (x : WPos) : WPos :=
  match w.kind, x with
  | .list fn, .list p h =>
    if p = nil64 then .fin 1 nil64 [] else if fn = 2 ∧ h = w.p2 then .fin 0 p [] else .list p h
  | .tree depth, .node d p => if depth ≤ d then .last p else .node d p
  | .tree depth, .sib d k c =>
    if c = nil64 then .fin 1 nil64 []
    else if fld w.key (4 * d) 4 < k then (if depth ≤ d + 1 then .last c else .node (d + 1) c)
    else .sib d k c
  | .rwalk _ _, .rnode h v => if w.p1 ≤ h then .fin 0 v [] else .rnode h v
  | _, x => x

/-- Where a walk starts (R361 to R366). -/
def Walk.start (w : Walk) : WPos :=
  match w.kind with
  | .list _ => w.settle (.list w.key 0)
  | .hash _ => if w.key = nil64 then .fin 1 nil64 [] else .bucket 0
  | .kvb => if w.p2 ≤ w.block / 2 ^ w.pshift then .fin 1 nil64 [] else .dir
  | .tree _ => w.settle (.node 0 w.root)
  | .rwalk _ _ => w.settle (.rnode 0 w.key)

/-- The bytes of an edge entry. -/
def Walk.edgeBytes (w : Walk) : Nat :=
  match w.kind with
  | .rwalk true _ => 16
  | _ => 8

/-- The read a walk makes next: the offset of its field and the field's size; none where it has ended. -/
def Walk.need (w : Walk) : Option (Nat × Nat) :=
  match w.pos with
  | .list p _ => some (p, 32)
  | .bucket j => some (w.bucketAt j, 32)
  | .dir => some (off64 (w.root + 8 * (w.block / 2 ^ w.pshift)), 8)
  | .page e1 => some (off64 (e1 + 8 * (w.block % 2 ^ w.pshift)), 8)
  | .node _ p => some (p, 32)
  | .sib _ _ c => some (c, 32)
  | .last p => some (p, 32)
  | .rnode _ v => some (v, 32)
  | .rsum _ _ eoff deg => some (off64 (eoff + 16 * (deg - 1) + 8), 4)
  | .rbin _ _ eoff lo hi _ => some (off64 (eoff + 16 * ((lo + hi) / 2) + 8), 4)
  | .rpick _ _ off => some (off, 8)
  | .fin _ _ _ => none

/-- The value a walk returns where LIMIT ends it (R360). -/
def Walk.limitValue (w : Walk) : Nat :=
  match w.pos with
  | .list p _ => p
  | .node _ p => p
  | .sib _ _ c => c
  | .last p => p
  | .rnode _ v => v
  | .rsum _ v _ _ => v
  | .rbin _ v _ _ _ _ => v
  | .rpick _ v _ => v
  | _ => nil64

/-- Where the search over CUM stands: a probe, or the neighbour it has found (R366). -/
def searchPos (h v eoff lo hi t : Nat) : WPos := if lo < hi then .rbin h v eoff lo hi t else .rpick h v (off64 (eoff + 16 * lo))

/-- Where a walk stands after its read: sec gives the sector's bytes and at the field's offset in it (R361 to R366). -/
def Walk.after (w : Walk) (sec : List Byte) (at_ : Nat) : WPos :=
  let num (o n : Nat) : Nat := numBytes ((sec.drop o).take n)
  match w.kind, w.pos with
  | .list fn, .list p h =>
    let q := num (8 * fld w.p1 0 2) 8
    if fn = 1 ∧ num (8 * fld w.p1 8 2) 8 = w.p2 then .fin 0 p []
    else if fn = 0 ∧ q = nil64 then .fin 0 p []
    else w.settle (.list q (h + 1))
  | .hash fn, .bucket j =>
    let b := w.bucketAt j
    let hit (e : Nat) : WPos := .fin 0 (if fn = 0 then num (16 * e + 8) 8 else off64 (b + 16 * e + 8)) []
    if num 0 8 = w.key then hit 0
    else if num 0 8 = nil64 then .fin 1 nil64 []
    else if num 16 8 = w.key then hit 1
    else if num 16 8 = nil64 then .fin 1 nil64 []
    else if 2 ^ w.p1 ≤ j + 1 then .fin 1 nil64 []
    else .bucket (j + 1)
  | .kvb, .dir => if num at_ 8 = nil64 then .fin 1 nil64 [] else .page (num at_ 8)
  | .kvb, .page _ =>
    let e2 := num at_ 8
    if e2 = nil64 then .fin 1 nil64 [] else .fin 0 (off64 (e2 + w.key % 2 ^ fld w.p1 0 5 * fld w.p1 32 32)) []
  | .tree _, .node d _ => w.settle (.sib d 1 (num 8 8))
  | .tree _, .sib d k _ => w.settle (.sib d (k + 1) (num 16 8))
  | .tree _, .last p => .fin 0 p sec
  | .rwalk wt given, .rnode h v =>
    let eoff := num 0 8
    let deg := num 8 4
    if deg = 0 then .fin 2 v []
    else if wt then .rsum h v eoff deg
    else .rpick h v (off64 (eoff + 8 * (w.draw h given * deg / 2 ^ 24)))
  | .rwalk _ given, .rsum h v eoff deg =>
    let sum := num at_ 4
    if sum = 0 then .fin 2 v [] else searchPos h v eoff 0 (deg - 1) (w.draw h given * sum / 2 ^ 24)
  | .rwalk _ _, .rbin h v eoff lo hi t =>
    let mid := (lo + hi) / 2
    if t < num at_ 4 then searchPos h v eoff lo mid t else searchPos h v eoff (mid + 1) hi t
  | .rwalk _ _, .rpick h _ _ => w.settle (.rnode (h + 1) (num at_ 8))
  | _, x => x

/-! Commands (R355 to R359). -/

/-- The kind's parameters meet R357. -/
def walkParamsOk (k : WKind) (mem : Bool) (len root p1 p2 p3 ret maxstep : Nat) : Bool :=
  let size := match k with
    | .tree _ => 32
    | _ => 8
  (if mem then ret % size == 0 && decide (ret + size ≤ len) else ret == 0)
  && (match k with
      | .list fn => root == 0 && fld p1 2 6 == 0 && fld p1 10 54 == 0 && p3 == 0 && (fn != 0 || p2 == 0)
      | .hash _ => root % 32 == 0 && decide (1 ≤ p1) && decide (p1 ≤ 32) && p3 == 0 && decide (root + 32 * 2 ^ p1 ≤ len)
      | .kvb => root % 8 == 0 && decide (fld p1 0 5 ≤ 16) && fld p1 5 3 == 0 && decide (fld p1 8 5 ≤ 12) && fld p1 13 19 == 0
                && decide (1 ≤ p2) && decide (p2 < 2 ^ 32) && p3 == 0
      | .tree _ => root % 32 == 0 && p1 == 0 && p2 == 0 && p3 == 0
      | .rwalk _ given => root == 0 && decide (1 ≤ p1) && decide (p1 ≤ 65535) && decide (p1 ≤ maxstep)
                && (!given || (p1 == 1 && decide (p2 < 2 ^ 24) && p3 == 0)))

/-- A walk descriptor meets R356 and R357. -/
def descriptorOk (k : WKind) (mem : Bool) (bs : List Byte) : Bool :=
  let w := blockWord bs
  w 0 % 128 == 0 && w 1 % 128 == 0 && decide (128 ≤ w 1) && decide (w 1 ≤ 2 ^ 38) && decide (1 ≤ w 6) && decide (w 6 ≤ 65535)
  && walkParamsOk k mem (w 1) (w 2) (w 3) (w 4) (w 7) (w 5) (w 6)

/-- The region of a walk (R352, R358): its panel-physical base, TRAV_COMMAND, or a fatal context error. -/
def walkRegion (k : Core) (c : Nat) (mem : Bool) (base len : Nat) : RegionCheck :=
  match segFor k.seg base with
  | none => .fatal 7
  | some e =>
    let pa := e.pbase + base % 2 ^ e.size
    if !e.rd || (mem && !e.wr) || e.dev || oneEntry k.seg base len != some e || paPkg pa != pkgOf c || !inHbm pa || !inHbm (pa + len - 1) then .bad
    else .ok pa

/-- The return slots of a core. -/
def Core.retSlot (k : Core) (n : Nat) : RetSlot := tget {} k.ret n

/-- The state with return slot n of core c replaced. -/
def State.setRet (s : State) (c n : Nat) (x : RetSlot) : State := s.modCore c fun k => { k with ret := tput k.ret n x }

/-- A walk command (R359): the descriptor is read and checked, the slot reserved, and the task parks for a walk place. -/
def walkCommand (i : Instr) (h : CHdr) (kind : WKind) (a b : Nat) (mem : Bool) (slot : Nat) (s : State) : Out :=
  asTask s fun c t =>
    let va := s.reg c t a
    let bad := s.trap c t 38 va
    if va.toNat % 64 ≠ 0 then bad
    else withBlock s c t va.toNat 64 fun bs =>
      let w := blockWord bs
      if !descriptorOk kind mem bs || ((s.core c).retSlot slot).st != .free then bad
      else match walkRegion (s.core c) c mem (w 0) (w 1) with
        | .bad => bad
        | .fatal st => s.fatal c t 0 st (s.task c t).pc (word (w 0))
        | .ok pa =>
          let p1 := match kind with
            | .hash _ => fld (w 3) 0 6
            | _ => w 3
          let x : Walk := { id := s.nextId, stack := stackOf pa, weave := s.weaveNo c, core := c, task := t, slot, kind, mem, base := pa, len := w 1,
                            key := (s.reg c t b).toNat, root := w 2, p1, p2 := w 4, p3 := w 7, ret := w 5, maxstep := w 6, pos := .dir }
          let s1 := ({ s with walks := s.walks ++ [x] }.fresh).setRet c slot { st := .pending }
          s1.park c t .room i (ctlLen h 2)

def execTwList (h : CHdr) (fn a b : Nat) (mem : Bool) (slot : Nat) (s : State) : Out :=
  walkCommand (.twList h fn a b mem slot) h (.list fn) a b mem slot s

def execTwHash (h : CHdr) (fn a b : Nat) (mem : Bool) (slot : Nat) (s : State) : Out :=
  walkCommand (.twHash h fn a b mem slot) h (.hash fn) a b mem slot s

def execTwKvb (h : CHdr) (fn a b : Nat) (mem : Bool) (slot : Nat) (s : State) : Out :=
  walkCommand (.twKvb h fn a b mem slot) h .kvb a b mem slot s

def execTwTree (h : CHdr) (fn a b : Nat) (mem : Bool) (slot : Nat) (s : State) : Out :=
  walkCommand (.twTree h fn a b mem slot) h (.tree fn) a b mem slot s

def execTwRwalk (h : CHdr) (fn a b : Nat) (mem : Bool) (slot : Nat) (s : State) : Out :=
  walkCommand (.twRwalk h fn a b mem slot) h (.rwalk (fn % 2 == 1) (fn / 2 % 2 == 1)) a b mem slot s

/-! Walks. -/

/-- Walk id. -/
def State.walkNo (s : State) (id : Nat) : Option Walk := firstWhere (fun w => w.id == id) s.walks

/-- The state with walk id changed. -/
def State.modWalk (s : State) (id : Nat) (f : Walk → Walk) : State := { s with walks := modFirst (fun w => w.id == id) f s.walks }

/-- The walk may go on: its weave is resident and not halted (R371, R482). -/
def State.walkRuns (s : State) (w : Walk) : Bool :=
  match tfind s.weaves w.weave with
  | some x => x.st == .resident && !x.torn && !s.weaveHalted w.weave
  | none => false

/-- What a walk has read is brought to its end also while its weave stops to be saved (R371). -/
def State.walkEnds (s : State) (w : Walk) : Bool :=
  match tfind s.weaves w.weave with
  | some x => (x.st == .resident || x.st == .stopping) && !x.torn && !s.weaveHalted w.weave
  | none => false

/-- The walk is the first that waits for a place of its engine, and a place is free (R359). -/
def State.placeFree (s : State) (w : Walk) : Bool :=
  let mine := s.walks.filter fun x => x.stack == w.stack
  decide ((mine.filter fun x => x.accepted).length < 256)
  && match firstWhere (fun x => !x.accepted) mine with
     | some x => x.id == w.id
     | none => false

/-- WALK_ACCEPT: walk id takes a place and starts; its task goes on (R359). -/
def execWalkAccept (id : Nat) (s : State) : Out :=
  match s.walkNo id with
  | none => .next s
  | some w =>
    if w.accepted || !s.placeFree w || !s.walkRuns w || s.isFrozen w.core then .next s
    else .next ((s.modWalk id fun w => { w with accepted := true, pos := w.start }).wake w.core w.task)

/-- A field of TWSTAT counts one (R373). -/
def State.countWalk (s : State) (stack lo : Nat) : State :=
  { s with twstat := tmod 0#64 s.twstat stack fun w => if lo = 32 then wrapUp w 32 32 1 else countUp w lo 8 1 }

/-- The next read of a walk fails R353: the sector does not lie in the region, or the field is not aligned. -/
def Walk.outside (w : Walk) (off size : Nat) : Bool := off % size != 0 || decide (w.len < off / 32 * 32 + 32)

/-- WALK_SECTOR_RETURN: the walk's next read is made and returns, or ends the walk with BOUNDS; err is an uncorrectable error met
twice, and a sector of a line of the error-address table gives one (R136, R353, R360, R372). -/
def execWalkSectorReturn (id : Nat) (err : Bool) (s : State) : Out :=
  match s.walkNo id with
  | none => .next s
  | some w =>
    if !w.accepted || !s.walkEnds w || decide (w.maxstep ≤ w.reads) then .next s
    else match w.need with
      | none => .next s
      | some (off, size) =>
        if w.outside off size then .next ((s.modWalk id fun w => { w with pos := .fin 4 off [] }).countWalk w.stack 0)
        else if !s.walkRuns w then .next s
        else
          let sec := off / 32 * 32
          let s1 := s.countWalk w.stack 32
          if s.errorLine ((w.base + sec) / 128) then .next (s1.modWalk id fun w => { w with reads := w.reads + 1, pos := .fin 5 sec [] })
          else if err then
            .next ((s1.modWalk id fun w => { w with reads := w.reads + 1, pos := .fin 5 sec [] }).countError (w.stack / 4) 3)
          else .next (s1.modWalk id fun w => { w with reads := w.reads + 1, pos := w.after (bytesAt s.banks (w.base + sec) 32) (off % 32) })

/-- An uncorrectable error in the engine's own state of walk id ends it with MEMORY_ERROR and VALUE NIL (R372). -/
def State.walkErrorMet (s : State) (id : Nat) : State :=
  match s.walkNo id with
  | none => s
  | some w =>
    if !w.accepted || !s.walkRuns w || w.need.isNone then s
    else (s.modWalk id fun w => { w with pos := .fin 5 nil64 [] }).countError (w.stack / 4) 3

/-- The walk makes no further read: it has ended, or ends with LIMIT or BOUNDS before its next one (R360). -/
def Walk.spent (w : Walk) : Bool :=
  match w.need with
  | none => true
  | some (off, size) => decide (w.maxstep ≤ w.reads) || w.outside off size

/-- The last read of a walk of the job on core c has returned, and its memory return and its slot are still to come (R371). -/
def State.walksEnding (s : State) (c : Nat) : Bool := s.walks.any fun w => w.core == c && w.weave == s.weaveNo c && w.accepted && w.spent

/-- WALK_STEP_LIMIT: a walk that has made MAXSTEP reads ends with LIMIT before its next one (R360). -/
def execWalkStepLimit (id : Nat) (s : State) : Out :=
  match s.walkNo id with
  | none => .next s
  | some w =>
    if !w.accepted || !s.walkEnds w || decide (w.reads < w.maxstep) || w.need.isNone then .next s
    else .next ((s.modWalk id fun w => { w with pos := .fin 3 w.limitValue [] }).countWalk w.stack 8)

/-- The bytes of a memory return (R367). -/
def Walk.returnBytes (w : Walk) (value : Nat) (record : List Byte) : List Byte :=
  match w.kind with
  | .tree _ => record
  | _ => bytesOfNum 8 value

/-- WALK_SLOT_FULL: an ended walk makes its memory return at the banks, and its slot is full (R367), before an instruction of the cycle
issues (R354). -/
def execWalkSlotFull (id : Nat) (s : State) : Out :=
  match s.walkNo id with
  | none => .next s
  | some w =>
    match w.pos with
    | .fin st value record =>
      if !w.accepted || s.isFrozen w.core || s.weaveNo w.core != w.weave || (s.core w.core).issued then .next s
      else
        let out := if w.mem && st == 0 then w.returnBytes value record else []
        let s1 := { s with banks := setBytes s.banks (w.base + w.ret) out }
        let s2 := s1.setRet w.core w.slot { st := .full, value := word value, status := word (2 ^ 16 * w.reads + st), ret := (w.base + w.ret, out.length) }
        .next { s2 with walks := dropFirst (fun x => x.id == id) s2.walks }
    | _ => .next s

/-! Return slots (R354, R368). -/

/-- A full slot is taken, with the acquire of the bytes of its memory return: the pair gets VALUE and the status word (R368). -/
def State.takeSlot (s : State) (c t d n : Nat) : State :=
  let x := (s.core c).retSlot n
  let s1 := if x.ret.2 = 0 then s else s.acquireLines c 4 [x.ret]
  ((s1.setRet c n {}).setReg c t d x.value).setReg c t (d + 1) x.status

/-- `tw.wait`. -/
def execTwWait (h : CHdr) (d a : Nat) (s : State) : Out :=
  asTask s fun c t =>
    let v := s.reg c t a
    if 31 < v.toNat then s.trap c t 38 v
    else match ((s.core c).retSlot v.toNat).st with
      | .full => (s.takeSlot c t d v.toNat).goOn c t (ctlLen h 1)
      | .pending => s.park c t (.slot v.toNat) (.twWait h d a) (ctlLen h 1)
      | .free => s.trap c t 38 v

/-- `tw.wait.try`. -/
def execTwWaitTry (h : CHdr) (d a : Nat) (s : State) : Out :=
  asTask s fun c t =>
    let v := s.reg c t a
    if 31 < v.toNat then s.trap c t 38 v
    else match ((s.core c).retSlot v.toNat).st with
      | .full => (s.takeSlot c t d v.toNat).goOn c t (ctlLen h 1)
      | _ => ((s.setReg c t d (word nil64)).setReg c t (d + 1) 6#64).goOn c t (ctlLen h 1)

/-- A parked `tw.wait` takes its slot once it is full. -/
def State.retrySlot (s : State) (c t n : Nat) : State :=
  match s.waitOf c t with
  | some { instr := .twWait _ d _, .. } => if ((s.core c).retSlot n).st = .full then (s.takeSlot c t d n).wake c t else s
  | _ => s

/-- A walk of the weave's job on core c has not filled its slot (R371). -/
def State.walksOwed (s : State) (w c : Nat) : Bool := s.walks.any fun x => x.weave == w && x.core == c

/-- The walk command of task t is withdrawn before its acceptance: its slot is free again (R225, R359). -/
def State.withdrawWalk (s : State) (c t : Nat) : State :=
  match firstWhere (fun x => x.core == c && x.task == t && x.weave == s.weaveNo c && !x.accepted) s.walks with
  | some x => ({ s with walks := dropFirst (fun y => y.id == x.id) s.walks }).setRet c x.slot {}
  | none => s

/-- The walks of a weave that ends are discarded (R371). -/
def State.freeWalks (s : State) (w : Nat) : State := { s with walks := s.walks.filter fun x => x.weave != w }

/-- TWSTAT of a stack (R373): PLACES is live. -/
def State.twWord (s : State) (stack : Nat) : Word :=
  setBits (tget 0#64 s.twstat stack) 24 8 (min 255 (s.walks.filter fun x => x.stack == stack && x.accepted).length)

end Sys2Proof.Machine
end

