-- ==== Sys2Proof/Machine/Net.lean ====
section
/-! DEFINITION. The network engines (R406 to R438): queue pairs, work entries, packets, acknowledgement and retransmission,
reception, counters and watches, and the `ne.*` instructions. -/

namespace Sys2Proof.Machine

/-- The network engine of die d. -/
def State.net (s : State) (d : Nat) : NetEng := tget {} s.nets d

/-- The state with f applied to the engine of die d. -/
def State.modNet (s : State) (d : Nat) (f : NetEng → NetEng) : State := { s with nets := tmod {} s.nets d f }

/-- The state with queue pair q of die d changed. -/
def State.modQp (s : State) (d q : Nat) (f : NeQp → NeQp) : State :=
  s.modNet d fun n => match tfind n.qps q with
    | some x => { n with qps := tput n.qps q (f x) }
    | none => n

/-- Queue pair q of die d. -/
def State.qp (s : State) (d q : Nat) : Option NeQp := tfind (s.net d).qps q

/-- The fields of NESTAT (R438). -/
def neSent (w : Word) (again : Bool) : Word :=
  let w1 := wrapUp w 32 32 1
  if again then countUp w1 16 16 1 else w1
def neDropped (w : Word) : Word := countUp w 8 8 1
def neNaked (w : Word) : Word := countUp w 0 8 1

/-! Counters and watches (R411, R424 to R426). -/

/-- Counter n of an engine. -/
def NetEng.ctr (e : NetEng) (n : Nat) : NeCtr := tget {} e.ctrs n

/-- A counter lies in the block of a queue pair. -/
def NeQp.block (q : NeQp) (n : Nat) : Bool := decide (q.cbase ≤ n) && decide (n < q.cbase + q.ccnt)

/-- A queue pair holds the counters of its block: one that is open or in ERROR does (R411). -/
def NeQp.holdsCtr (q : NeQp) (n : Nat) : Bool := q.st != .closing && q.block n

/-- A context holds a counter (R411). -/
def NetEng.holds (e : NetEng) (ctx n : Nat) : Bool := e.qps.any fun q => q.2.ctx == ctx && q.2.holdsCtr n

/-- The condition of a watch holds (R426). -/
def NetEng.watchDue (e : NetEng) (w : NeWatch) : Bool := (e.ctr w.ctr).err || decide (w.thresh.toNat ≤ (e.ctr w.ctr).value.toNat)

/-- The watches of die d whose conditions hold signal and are freed; those of a halted weave wait (R426, R436). -/
def State.fireWatches (s : State) (d : Nat) : State :=
  let e := s.net d
  let ok (w : NeWatch) : Bool := e.watchDue w && !s.weaveHalted w.weave
  (e.watches.filter fun x => ok x.2).foldl (fun s x => s.post (evTarget x.2.target).1 (evTarget x.2.target).2 (some x.2.weave) x.2.ctx (some 4))
    (s.modNet d fun e => { e with watches := e.watches.filter fun x => !ok x.2 })

/-- Counter n of die d changes, and the watches look at it. -/
def State.modCtr (s : State) (d n : Nat) (f : NeCtr → NeCtr) : State :=
  (s.modNet d fun e => { e with ctrs := tmod {} e.ctrs n f }).fireWatches d

/-- Counter n rises by v, modulo 2^64. -/
def State.addCtr (s : State) (d n v : Nat) : State := s.modCtr d n fun c => { c with value := c.value + word v }

/-! Queue-pair errors (R419). -/

/-- The bytes of send-ring entry i (R412), at its home. -/
def State.ringEntry (s : State) (q : NeQp) (i : Nat) : List Byte := s.homeBytes (q.base + q.sring + 64 * (i % 2 ^ q.slog2)) 64

/-- The counters that entries not yet completed name with LCEN = 1, the posted ones that have not started among them (R419). -/
def State.pendingCtrs (s : State) (q : NeQp) : List Nat :=
  let posted := (span 0 ((q.pidx + 2 ^ 32 - q.cidx) % 2 ^ 32)).filterMap fun i =>
    let ctl := blockWord (s.ringEntry q (q.cidx + i)) 0
    if fld ctl 18 1 = 1 then some (fld ctl 20 12) else none
  (q.ents.filterMap fun e => if e.lcen then some e.lctr else none) ++ posted

/-- Queue pair q enters ERROR with a cause (R419). -/
def State.qpError (s : State) (d q cause : Nat) : State :=
  match s.qp d q with
  | none => s
  | some x =>
    let cs := s.pendingCtrs x
    let s1 := s.modQp d q fun x => { x with st := .error, errc := cause, ents := [] }
    let s2 := cs.foldl (fun s n => s.modCtr d n fun c => { c with err := true }) s1
    if x.evt.testBit 63 then s2.post (evTarget x.evt).1 (evTarget x.evt).2 (some x.weave) x.ctx none else s2

/-- The sectors of n bytes at panel-physical a. -/
def sectorsOf (a n : Nat) : List Nat := if n = 0 then [] else span (a / 32) ((a % 32 + n + 31) / 32)

/-- The reads of an engine for queue pair q at the homes of ks succeed, then go: a line of the error-address table, or a lasting error that
they meet anew and that lies in no clean copy, sets the pair to ERROR with MEMORY_ERROR (R136, R419). -/
def State.netReads (s : State) (d q : Nat) (ks : List Nat) (err : Bool) (go : State → State) : State :=
  if ks.any fun k => s.errorLine (k / 4) then s.qpError d q 5
  else if err && !ks.isEmpty then
    if ks.all s.cleanCopy then go ((ks.foldl State.homeDrop s).countError d 1) else (s.countError d 3).qpError d q 5
  else go s

/-! Work entries (R412 to R415). -/

/-- The payload bytes of a packet. -/
def NeQp.mtuBytes (q : NeQp) : Nat := 1024 * 2 ^ q.mtu

/-- An entry passes R413. -/
def entryGood (q : NeQp) (bs : List Byte) : Bool :=
  let w := blockWord bs
  let ctl := w 0
  let opc := fld ctl 0 8
  let len := w 3
  let es := elemBytes (fld ctl 8 3)
  decide (1 ≤ opc) && decide (opc ≤ 5) && !(q.pds == 2 && (opc == 2 || opc == 3 || opc == 4))
  && fld ctl 11 5 == 0 && fld ctl 19 1 == 0 && fld ctl 32 32 == 0 && (opc == 4 || fld ctl 8 3 == 0)
  && (opc == 1 || opc == 2 || opc == 4 || w 2 == 0) && decide (len ≤ 2 ^ 30) && decide (w 1 + len ≤ q.len)
  && (fld ctl 18 1 == 0 || q.block (fld ctl 20 12))
  && (if fld ctl 16 1 = 1 then decide (w 4 < 2 ^ 12) && q.block (w 4) else w 4 == 0)
  && (opc == 3 || w 6 == 0) && w 7 == 0
  && (opc != 4 || (w 1 % es == 0 && w 2 % es == 0 && len % es == 0))

/-- The packets of n bytes from sequence number psn on (R415). -/
def cutPackets (mtu len psn : Nat) : List NePkt :=
  (span 0 (max 1 ((len + mtu - 1) / mtu))).map fun j =>
    { psn := (psn + j) % 2 ^ 32, off := j * mtu, len := min mtu (len - j * mtu) }

/-- The head entry starts (R414, R415). -/
def State.startEntry (s : State) (d q : Nat) (x : NeQp) (bs : List Byte) : State :=
  let w := blockWord bs
  let opc := fld (w 0) 0 8
  let lcen := fld (w 0) 18 1 == 1
  let lctr := fld (w 0) 20 12
  let s1 := s.modQp d q fun x => { x with cidx := (x.cidx + 1) % 2 ^ 32 }
  if opc = 5 then (if lcen then s1.addCtr d lctr 1 else s1)
  else
    let ps := cutPackets x.mtuBytes (w 3) x.psn
    let e : NeEnt := { opc, rtype := fld (w 0) 8 3, lcen, lctr, loff := w 1, roff := w 2, len := w 3, tag := w 6, msn := x.msn, pkts := ps }
    s1.modQp d q fun x => { x with ents := x.ents ++ [e], psn := (x.psn + ps.length) % 2 ^ 32,
                                   msn := if opc = 3 then (x.msn + 1) % 2 ^ 32 else x.msn }

/-- NE_ENTRY_START: the head of queue pair q's ring is checked and starts once its conditions hold; err is a lasting memory
error met in its read (R413, R414, R419). -/
def execNeEntryStart (d q : Nat) (err : Bool) (s : State) : Out :=
  match s.qp d q with
  | none => .next s
  | some x =>
    if x.st != .open_ || x.cidx == x.pidx || s.weaveHalted x.weave then .next s
    else .next (s.netReads d q (sectorsOf (x.base + x.sring + 64 * (x.cidx % 2 ^ x.slog2)) 64) err fun s =>
      let bs := s.ringEntry x x.cidx
      let ctl := blockWord bs 0
      let c := (s.net d).ctr (blockWord bs 4)
      if !entryGood x bs then s.qpError d q 1
      else if fld ctl 16 1 = 1 ∧ c.err = true then s.qpError d q 2
      else if fld ctl 16 1 = 1 ∧ c.value.toNat < blockWord bs 5 then s
      else if fld ctl 17 1 = 1 ∧ x.ents.isEmpty = false then s
      else s.startEntry d q x bs)

/-! Packets out (R408, R415 to R418). -/

/-- The set bits of a mask, ascending. -/
def setBitsOf (m : Nat) : List Nat := (span 0 16).filter fun i => m.testBit i

/-- A packet of the entry is done: acknowledged, or for a READ its bytes placed, or for UUD transmitted (R415). -/
def NePkt.done (p : NePkt) (opc pds : Nat) : Bool := if opc = 2 then p.placed else if pds = 2 then p.sent else p.acked

/-- The entries that have completed leave, and count (R415, R424). -/
def State.finishEntries (s : State) (d q : Nat) : State :=
  match s.qp d q with
  | none => s
  | some x =>
    let fin (e : NeEnt) : Bool := e.pkts.all fun (p : NePkt) => p.done e.opc x.pds
    (x.ents.filter fin).foldl (fun s e => if e.lcen then s.addCtr d e.lctr e.len else s)
      (s.modQp d q fun x => { x with ents := x.ents.filter fun e => !fin e })

/-- The packet psn of queue pair x, with its entry. -/
def NeQp.pkt (x : NeQp) (psn : Nat) : Option (NeEnt × NePkt) :=
  x.ents.foldl (fun (b : Option (NeEnt × NePkt)) e => match b with
    | some y => some y
    | none => (firstWhere (fun p => p.psn == psn) e.pkts).map fun p => (e, p)) none

/-- The packet psn changes. -/
def NeQp.modPkt (x : NeQp) (psn : Nat) (f : NePkt → NePkt) : NeQp :=
  { x with ents := x.ents.map fun e => { e with pkts := e.pkts.map fun p => if p.psn = psn then f p else p } }

/-- The bytes sent and not acknowledged (R416); a UUD queue pair asks for no acknowledgement. -/
def NeQp.inFlight (x : NeQp) : Nat :=
  if x.pds = 2 then 0
  else x.ents.foldl (fun n e => n + (e.pkts.filter fun p => p.sent && !p.acked).foldl (fun n p => n + p.len) 0) 0

/-- The packet may leave: it is due again, or it is the first one not sent and the window has room (R416). -/
def NeQp.maySend (x : NeQp) (p : NePkt) : Bool :=
  if p.sent then p.due
  else (match firstWhere (fun (p : NePkt) => !p.sent) (x.ents.flatMap fun e => e.pkts) with
        | some f => f.psn == p.psn
        | none => false)
       && (x.inFlight == 0 || decide (x.inFlight + p.len ≤ x.cwmax))

/-- The IPv6 address of die d's engine: bytes 16 to 31 of its NETADDR (R505, R511). -/
def State.netAddress (s : State) (d : Nat) : List Byte := bytesAt (tget {} s.pkgs (d / 2) : Pkg).netaddr (0x40 * (d % 2) + 16) 16

/-- The packet on the wire, from die d (R415). -/
def State.wirePacket (s : State) (d : Nat) (x : NeQp) (e : NeEnt) (p : NePkt) : Packet :=
  { qp := x.rqp, jobid := x.jobid, src := s.netAddress d, psn := p.psn, opc := e.opc, rtype := e.rtype, roff := e.roff + p.off, msgLen := e.len, off := p.off, len := p.len,
    msn := e.msn, tag := word e.tag, data := if e.opc = 2 then [] else s.homeBytes (x.base + e.loff + p.off) p.len }

/-- The first sequence number of the queue pair that has not been sent. -/
def NeQp.nextNew (x : NeQp) : Nat :=
  match firstWhere (fun (p : NePkt) => !p.sent) (x.ents.flatMap fun e => e.pkts) with
  | some p => p.psn
  | none => x.psn

/-- An edge port of a switch die is on (R505). -/
def State.portOn (s : State) (sw e : Nat) : Bool := (tget 0xFF s.edge sw).testBit e

/-- Every edge port by which the engine of die d sends and receives is off (R408, R505). -/
def State.portsOff (s : State) (d : Nat) : Bool := (span 0 16).all fun sw => !s.portOn sw (d / 16)

/-- The panel port by which die d's engine transmits on a plane: edge port e = floor(d / 16) of it (R408). -/
def panelPort (plane d : Nat) : Nat := 8 * plane + d / 16

/-- Packet psn of queue pair q leaves, and is lost at a port that is off (R505); err is a lasting error that the read of its source bytes
meets anew, which in clean copies is no loss (R136, R419). -/
def State.transmit (s : State) (d q psn : Nat) (err : Bool) : State :=
  match s.qp d q with
  | none => s
  | some x =>
    match x.pkt psn with
    | none => s
    | some (e, p) =>
      let planes := setBitsOf x.planes
      let idx := if x.pds = 1 then 0 else if p.sent then (p.plane + 1) % planes.length else p.psn % planes.length
      let ks := if e.opc = 2 then [] else sectorsOf (x.base + e.loff + p.off) p.len
      if x.st == .error || s.weaveHalted x.weave || !x.maySend p then s
      else s.netReads d q ks err fun s0 =>
        let out := if s.portOn (planes.getD idx 0) (d / 16) then [(panelPort (planes.getD idx 0) d, s0.wirePacket d x e p)] else []
        let s1 := s0.modNet d fun n => { n with sent := n.sent ++ out, stat := neSent n.stat p.sent }
        let mark := if p.sent then x.nextNew else (psn + 1) % 2 ^ 32
        let s2 := s1.modQp d q fun x =>
          { x.modPkt psn (fun p => { p with sent := true, due := false, plane := idx, age := 0, mark, retx := if p.sent then p.retx + 1 else p.retx }) with
            retx := if p.sent then min (2 ^ 24 - 1) (x.retx + 1) else x.retx }
        s2.finishEntries d q

/-- NE_PACKET_TRANSMIT: packet psn leaves on its plane, by the edge port of its die, with its source bytes read at their homes; a UUD
entry completes once every packet has left (R408, R415, R418). -/
def execNePacketTransmit (d q psn : Nat) (s : State) : Out := .next (s.transmit d q psn false)

/-! Acknowledgements (R417, R418). -/

/-- a lies below b among sequence numbers modulo 2^32. -/
def psnBelow (a b : Nat) : Bool := decide ((b + 2 ^ 32 - 1 - a % 2 ^ 32) % 2 ^ 32 < 2 ^ 31)

/-- An acknowledgement says that psn was received. -/
def ackCovers (cack bitmap psn : Nat) : Bool :=
  psnBelow psn cack || ((psn + 2 ^ 33 - cack - 1) % 2 ^ 32 < 64 && bitmap.testBit ((psn + 2 ^ 33 - cack - 1) % 2 ^ 32))

/-- How many received sequence numbers from mark on, all above psn, an acknowledgement shows: packets that left after psn was last sent. An
acknowledgement under way at that time does not show it missing anew (R418; assumption 120). -/
def ackAbove (cack bitmap psn mark : Nat) : Nat :=
  ((span 0 64).filter fun b => bitmap.testBit b && psnBelow psn ((cack + 1 + b) % 2 ^ 32) && !psnBelow ((cack + 1 + b) % 2 ^ 32) mark).length

/-- The packet needs another transmission: it is due, or its retries are used up (R418). -/
def State.needAgain (s : State) (d q psn : Nat) : State :=
  match s.qp d q with
  | none => s
  | some x =>
    match x.pkt psn with
    | none => s
    | some (_, p) => if x.retries ≤ p.retx then s.qpError d q 3 else s.modQp d q fun x => x.modPkt psn fun p => { p with due := true }

/-- A READ response is placed: its bytes go to the homes (R415, R421). -/
def State.placeResponse (s : State) (d q : Nat) (r : Packet) : State :=
  match s.qp d q with
  | none => s
  | some x =>
    match x.pkt r.psn with
    | none => s
    | some (e, p) =>
      if e.opc = 2 ∧ p.sent = true ∧ p.placed = false ∧ r.data.length = p.len then
        (s.homeWrite none (cellsFrom (x.base + e.loff + p.off) r.data)).modQp d q fun x => x.modPkt r.psn fun p => { p with placed := true, acked := true }
      else s

/-- The packets of an entry that an acknowledgement covers are acknowledged. -/
def ackEntry (cack bitmap : Nat) (e : NeEnt) : NeEnt :=
  { e with pkts := e.pkts.map fun p => if p.sent && ackCovers cack bitmap p.psn then { p with acked := true, due := false } else p }

/-- The packet that brings an acknowledgement carries the queue pair's JOBID and comes from its PADDR (R420). -/
def NeQp.ackFrom (x : NeQp) (resp : Option Packet) : Bool :=
  match resp with
  | some r => r.jobid == x.jobid && r.src == x.paddr
  | none => true

/-- NE_ACK_ARRIVAL: an acknowledgement, a refusal, or a READ response reaches queue pair q of die d (R415 to R419). resp is the packet that
brings it: of OPC 2 a READ response, of another the acknowledgement alone; none stands for one with the pair's own JOBID and address. As
any incoming packet it is dropped and counted where these are not the pair's, or the pair is not there or in ERROR (R420): DEDUCED; a
pair that is closing still takes what completes it (R429). -/
def execNeAckArrival (d q cack bitmap : Nat) (nak : Bool) (resp : Option Packet) (s : State) : Out :=
  let dropped : Out := .next (s.modNet d fun n => { n with stat := neDropped n.stat })
  if s.portsOff d then .next s
  else match s.qp d q with
  | none => dropped
  | some x =>
    if x.st == .error || !x.ackFrom resp then dropped
    else if nak then .next ((s.modNet d fun n => { n with stat := neNaked n.stat }).qpError d q 4)
    else if x.pds == 2 then .next s
    else
      let s1 := s.modQp d q fun x => { x with ents := x.ents.map (ackEntry cack bitmap) }
      let s2 := match resp with
        | some r => if r.opc = 2 then s1.placeResponse d q r else s1
        | none => s1
      let lost : List NePkt := match s2.qp d q with
        | some y => (y.ents.flatMap fun (e : NeEnt) => e.pkts).filter fun (p : NePkt) =>
            p.sent && !p.acked && !p.due && decide (x.reord ≤ ackAbove cack bitmap p.psn p.mark)
        | none => []
      .next ((lost.foldl (fun (s : State) (p : NePkt) => s.needAgain d q p.psn) s2).finishEntries d q)

/-- NE_RTO_EXPIRY: RTO µs have passed since packet psn was last sent (R418). -/
def execNeRtoExpiry (d q psn : Nat) (s : State) : Out :=
  match s.qp d q with
  | none => .next s
  | some x =>
    match x.pkt psn with
    | none => .next s
    | some (_, p) =>
      if x.st == .error || x.pds == 2 || s.weaveHalted x.weave || !p.sent || p.acked || p.due || decide (p.age < 1000 * x.rto) then .next s
      else .next (s.needAgain d q psn)

/-! Reception (R420 to R423). -/

/-- What becomes of an incoming packet: dropped and counted, dropped in silence, refused, acknowledged again, or accepted. -/
inductive RxVerdict where
  | drop | silent | nak | again | take
deriving DecidableEq

/-- The queue pair's mode supports the packet's operation (R406, R407): UUD takes a WRITE alone, as R413 gives it one to send. -/
def NeQp.supports (x : NeQp) (p : Packet) : Bool :=
  p.opc == 1 || (x.pds != 2 && (p.opc == 2 || p.opc == 3 || (p.opc == 4 && decide (p.rtype < 8))))

/-- The bytes of a WRITE, READ or WRITE_RED lie in the region (R420). -/
def NeQp.inside (x : NeQp) (p : Packet) : Bool :=
  p.opc == 3 || decide (p.roff + (if p.opc = 2 then p.len else p.data.length) ≤ x.len)

/-- The message of a SEND is accepted (R422). -/
def NeQp.acceptsMsg (x : NeQp) (p : Packet) : Bool :=
  p.opc != 3 || (x.ren && decide ((x.rxidx + 2 ^ 33 - 1 - p.msn) % 2 ^ 32 < 2 ^ x.rlog2))

/-- The queue pair has received the packet's sequence number before (R417). -/
def NeQp.duplicate (x : NeQp) (p : Packet) : Bool := x.pds != 2 && (psnBelow p.psn x.cack || x.seen.contains p.psn)

/-- A number that is new lies beyond the window of 1,024 (R417), or is not the next one expected in ROD (R421). -/
def NeQp.outOfWindow (x : NeQp) (p : Packet) : Bool :=
  x.pds != 2 && (decide (1024 ≤ (p.psn + 2 ^ 32 - x.cack) % 2 ^ 32) || (x.pds == 1 && p.psn != x.cack))

/-- The check of an incoming packet (R407, R417, R420 to R422). -/
def rxCheck (x : NeQp) (p : Packet) : RxVerdict :=
  if x.st != .open_ || p.jobid != x.jobid || p.src != x.paddr || !x.supports p then .drop
  else if !x.duplicate p && x.outOfWindow p then .silent
  else if !x.inside p then .nak
  else if x.duplicate p then .again
  else if x.acceptsMsg p then .take
  else .drop

/-- The window moves past the numbers received in a row. -/
def advanceCack : Nat → Nat → List Nat → Nat × List Nat
  | 0, c, xs => (c, xs)
  | n + 1, c, xs => if xs.contains c then advanceCack n ((c + 1) % 2 ^ 32) (xs.filter (· != c)) else (c, xs)

/-- Sequence number psn is received. -/
def NeQp.receive (x : NeQp) (psn : Nat) : NeQp :=
  if x.pds = 2 then x
  else
    let r := advanceCack (x.seen.length + 1) x.cack (x.seen ++ [psn])
    { x with cack := r.1, seen := r.2 }

/-- The selective bitmap (R417). -/
def NeQp.bitmap (x : NeQp) : Nat :=
  (span 0 64).foldl (fun m b => if x.seen.contains ((x.cack + 1 + b) % 2 ^ 32) then m + 2 ^ b else m) 0

/-- The elements of a WRITE_RED packet, each one step at its home (R423). -/
def State.placeReduce (s : State) (ty a : Nat) (data : List Byte) : State :=
  let n := elemBytes ty
  (span 0 (data.length / n)).foldl (fun s i =>
    let at_ := a + n * i
    let v := reduceElem ty [s.homeNum at_ n, numBytes ((data.drop (n * i)).take n)]
    s.homeWrite none (cellsFrom at_ (bytesOfNum n v))) s

/-- The completion record of a message (R422). -/
def rxRecord (x : NeQp) (p : Packet) : List Byte :=
  let cap := 2 ^ x.bshift
  bytesOfNum 8 p.tag.toNat ++ bytesOfNum 4 (min p.msgLen cap) ++ bytesOfNum 2 (p.msn % 2 ^ 16)
    ++ bytesOfNum 1 (bit (decide (cap < p.msgLen))) ++ [0x80#8]

/-- The bytes of a message so far, with those of a packet. -/
def NeQp.msgGot (x : NeQp) (p : Packet) : Nat :=
  (match firstWhere (fun m => m.msn == p.msn) x.msgs with | some m => m.got | none => 0) + p.data.length

/-- A SEND packet is placed; with the last byte of its message the record is written (R422). -/
def State.placeSend (s : State) (d q : Nat) (x : NeQp) (p : Packet) : State :=
  let i := p.msn % 2 ^ x.rlog2
  let cap := 2 ^ x.bshift
  let s1 := s.homeWrite none (cellsFrom (x.base + x.rxbuf + cap * i + p.off) (p.data.take (cap - p.off)))
  let got := x.msgGot p
  if got = p.msgLen then
    (s1.homeWrite none (cellsFrom (x.base + x.rxcpl + 16 * i) (rxRecord x p))).modQp d q fun x =>
      { x with rxdone := (x.rxdone + 1) % 2 ^ 32, msgs := x.msgs.filter fun m => m.msn != p.msn }
  else s1.modQp d q fun x => { x with msgs := x.msgs.filter (fun m => m.msn != p.msn) ++ [{ msn := p.msn, got }] }

/-- The bytes of an accepted packet are placed at their homes (R421). -/
def State.placePacket (s : State) (d q : Nat) (x : NeQp) (p : Packet) : State :=
  match p.opc with
  | 1 => s.homeWrite none (cellsFrom (x.base + p.roff) p.data)
  | 3 => s.placeSend d q x p
  | 4 => s.placeReduce p.rtype (x.base + p.roff) p.data
  | _ => s

/-- The answer of a receiver: an acknowledgement with a READ's bytes, which UUD asks for none of, or a refusal (R415, R417, R420). -/
def State.answerPacket (s : State) (d q : Nat) (nak : Bool) (p : Packet) : State :=
  match s.qp d q with
  | none => s
  | some x =>
    if x.pds = 2 ∧ nak = false then s
    else
      let resp := if p.opc = 2 && !nak then
          some { p with qp := x.rqp, src := s.netAddress d, data := s.homeBytes (x.base + p.roff) p.len }
        else none
      s.modNet d fun n => { n with acks := n.acks ++
        [{ qp := x.rqp, jobid := x.jobid, src := s.netAddress d, cack := x.cack, bitmap := x.bitmap, nak, resp }] }

/-- The sectors that an incoming packet reads at their homes: a READ's bytes, and where it is placed a WRITE_RED's elements (R415, R423). -/
def NeQp.reads (x : NeQp) (p : Packet) (placed : Bool) : List Nat :=
  if p.opc = 2 then sectorsOf (x.base + p.roff) p.len else if p.opc = 4 ∧ placed = true then sectorsOf (x.base + p.roff) p.data.length else []

/-- An incoming packet is checked, placed, counted and acknowledged (R417, R420 to R423); err is a lasting error that its reads meet. -/
def State.receive (s : State) (d : Nat) (p : Packet) (err : Bool) : State :=
  if s.portsOff d then s
  else match s.qp d p.qp with
  | none => s.modNet d fun n => { n with stat := neDropped n.stat }
  | some x =>
    match rxCheck x p with
    | .drop => s.modNet d fun n => { n with stat := neDropped n.stat }
    | .silent => s
    | .nak => (s.modNet d fun n => { n with stat := neNaked n.stat }).answerPacket d p.qp true p
    | .again => s.netReads d p.qp (x.reads p false) err fun s => s.answerPacket d p.qp false p
    | .take => s.netReads d p.qp (x.reads p true) err fun s =>
        let s1 := (s.placePacket d p.qp x p).modQp d p.qp fun x => x.receive p.psn
        let s2 := if x.rxcen && p.opc != 2 then s1.addCtr d x.rxctr p.data.length else s1
        s2.answerPacket d p.qp false p

/-- NE_PACKET_RECEIVE (R420). -/
def execNePacketReceive (d : Nat) (p : Packet) (s : State) : Out := .next (s.receive d p false)

/-! Opening (R409 to R411, R428). -/

/-- The descriptor's fields lie in their ranges (R409, R410). -/
def qpDescOk (bs : List Byte) : Bool :=
  let w := blockWord bs
  let len := w 1
  let mode := w 2
  let planes := fld mode 4 16
  let ren := fld (w 4) 63 1 == 1
  w 0 % 4096 == 0 && len % 4096 == 0 && decide (4096 ≤ len) && decide (len ≤ 2 ^ 38)
  && fld mode 0 2 != 3 && planes != 0 && (fld mode 0 2 != 1 || (setBitsOf planes).length == 1) && fld mode 20 6 != 0 && fld mode 26 6 == 0
  && fld mode 32 8 != 0 && fld mode 40 8 == 0 && fld mode 48 16 != 0
  && fld (w 3) 0 32 % 64 == 0 && decide (4 ≤ fld (w 3) 32 4) && decide (fld (w 3) 32 4 ≤ 12) && fld (w 3) 36 28 == 0
  && decide (fld (w 3) 0 32 + 64 * 2 ^ fld (w 3) 32 4 ≤ len)
  && (if ren then
        fld (w 4) 0 32 % 128 == 0 && decide (fld (w 4) 32 4 ≤ 12) && decide (10 ≤ fld (w 4) 36 5) && decide (fld (w 4) 36 5 ≤ 20)
        && fld (w 4) 41 22 == 0 && decide (fld (w 4) 0 32 + 2 ^ (fld (w 4) 32 4 + fld (w 4) 36 5) ≤ len)
        && w 5 % 16 == 0 && decide (w 5 < 2 ^ 32) && decide (w 5 + 16 * 2 ^ fld (w 4) 32 4 ≤ len)
      else w 4 == 0 && w 5 == 0)
  && decide (1 ≤ fld (w 6) 12 13) && decide (fld (w 6) 12 13 ≤ 4096) && fld (w 6) 25 7 == 0 && fld (w 6) 45 19 == 0
  && decide (fld (w 6) 0 12 + fld (w 6) 12 13 ≤ 4096)
  && (fld (w 6) 44 1 == 0 || (decide (fld (w 6) 0 12 ≤ fld (w 6) 32 12) && decide (fld (w 6) 32 12 < fld (w 6) 0 12 + fld (w 6) 12 13)))
  && fld (w 7) 24 8 == 0 && fld (w 7) 48 16 == 0 && decide (w 10 < 2 ^ 32)
  && decide (1024 * 2 ^ fld mode 2 2 ≤ w 11) && decide (w 11 < 2 ^ 32) && fld (w 12) 18 45 == 0 && w 13 == 0 && w 14 == 0 && w 15 == 0

/-- The queue pair that a descriptor opens, for the weave of core c, with its region at a panel-physical base. -/
def qpOf (s : State) (c : Nat) (bs : List Byte) (base : Nat) : NeQp :=
  let w := blockWord bs
  { weave := s.weaveNo c, ctx := (s.core c).ctxno, base, len := w 1, pds := fld (w 2) 0 2, mtu := fld (w 2) 2 2, planes := fld (w 2) 4 16,
    reord := fld (w 2) 20 6, retries := fld (w 2) 32 8, rto := fld (w 2) 48 16, sring := fld (w 3) 0 32, slog2 := fld (w 3) 32 4,
    rxbuf := fld (w 4) 0 32, rlog2 := fld (w 4) 32 4, bshift := fld (w 4) 36 5, ren := fld (w 4) 63 1 == 1, rxcpl := fld (w 5) 0 32,
    cbase := fld (w 6) 0 12, ccnt := fld (w 6) 12 13, rxctr := fld (w 6) 32 12, rxcen := fld (w 6) 44 1 == 1, jobid := fld (w 7) 0 24,
    rqp := fld (w 7) 32 16, paddr := (bs.drop 64).take 16, cwmax := w 11, evt := w 12, rxidx := 2 ^ fld (w 4) 32 4, psn := w 10, cack := w 10 }

/-- The region of a descriptor (R410): its panel-physical base, BAD_DESC, or a fatal context error. -/
def qpRegion (k : Core) (c base len : Nat) : RegionCheck :=
  match segFor k.seg base with
  | none => .fatal 7
  | some e =>
    let pa := e.pbase + base % 2 ^ e.size
    if !(e.rd && e.wr) || e.dev || oneEntry k.seg base len != some e || paPkg pa != pkgOf c || !inHbm pa || !inHbm (pa + len - 1) then .bad
    else .ok pa

/-- The counters of a block that no context holds start at 0 (R411). -/
def NetEng.takeCtrs (e : NetEng) (lo n : Nat) : NetEng :=
  { e with ctrs := e.ctrs.filter fun x => decide (x.1 < lo) || decide (lo + n ≤ x.1) || e.qps.any fun q => q.2.holdsCtr x.1 }

/-- The answer of `ne.qp.open`: the value of g[RD], and the state (R428). -/
def State.openQp (s : State) (c : Nat) (bs : List Byte) : Word × State :=
  let d := dieOf c
  let e := s.net d
  match qpRegion (s.core c) c (blockWord bs 0) (blockWord bs 1) with
  | .ok pa =>
    if !qpDescOk bs then (2#64, s)
    else
      let x := qpOf s c bs pa
      let taken := e.qps.any fun q => q.2.ctx != x.ctx && q.2.st != .closing && decide (q.2.cbase < x.cbase + x.ccnt) && decide (x.cbase < q.2.cbase + q.2.ccnt)
      match firstWhere (fun q => (tfind e.qps q).isNone) (span 0 1024), taken with
      | some q, false =>
        (word (2 ^ 32 * q), s.modNet d fun e => { e.takeCtrs x.cbase x.ccnt with qps := tput e.qps q x })
      | _, _ => (1#64, s)
  | _ => (2#64, s)

/-! The instructions (R427). -/

/-- A queue pair that the weave of core c holds, by a register value. -/
def State.qpFor (s : State) (c : Nat) (v : Word) : Option NeQp :=
  if 1024 ≤ v.toNat then none
  else match s.qp (dieOf c) v.toNat with
    | some q => if q.weave = s.weaveNo c then some q else none
    | none => none

/-- A counter that the weave's context holds, by a register value. -/
def State.ctrFor (s : State) (c : Nat) (v : Word) : Bool :=
  decide (v.toNat < 4096) && (s.net (dieOf c)).holds (s.core c).ctxno v.toNat

/-- A command of the engine: its operand conditions, then the task parks for the answer with a block it has read (R427). -/
def neCommand (i : Instr) (h : CHdr) (ok : State → Nat → Nat → Bool) (bad : State → Nat → Nat → Word) (s : State) : Out :=
  asTask s fun c t => if ok s c t then s.park c t .answer i (ctlLen h 1) else s.trap c t 40 (bad s c t)

/-- `ne.qp.open` (R428). -/
def execNeQpOpen (h : CHdr) (d a : Nat) (s : State) : Out :=
  asTask s fun c t =>
    let va := s.reg c t a
    if va.toNat % 128 ≠ 0 then s.trap c t 40 va
    else withBlock s c t va.toNat 128 fun bs =>
      match segFor (s.core c).seg (blockWord bs 0) with
      | none => s.fatal c t 0 7 (s.task c t).pc (word (blockWord bs 0))
      | some _ => (s.park c t .answer (.neQpOpen h d a) (ctlLen h 1)).modWait c t fun w => { w with blk := bs }

/-- A command whose operand is a queue pair in g[RA]. -/
def qpCommand (i : Instr) (h : CHdr) (a : Nat) (s : State) : Out :=
  neCommand i h (fun s c t => (s.qpFor c (s.reg c t a)).isSome) (fun s c t => s.reg c t a) s

def execNeQpClose (h : CHdr) (d a : Nat) (s : State) : Out := qpCommand (.neQpClose h d a) h a s
def execNeQpRd (h : CHdr) (d a : Nat) (s : State) : Out := qpCommand (.neQpRd h d a) h a s
def execNePoll (h : CHdr) (d a : Nat) (s : State) : Out := qpCommand (.nePoll h d a) h a s

/-- A post: a queue pair in g[RA], an index below 2^32 in g[RB]. -/
def postCommand (i : Instr) (h : CHdr) (a b : Nat) (s : State) : Out :=
  neCommand i h (fun s c t => (s.qpFor c (s.reg c t a)).isSome && bits (s.reg c t b) 32 32 == 0)
    (fun s c t => if (s.qpFor c (s.reg c t a)).isSome then s.reg c t b else s.reg c t a) s

def execNePost (h : CHdr) (d a b : Nat) (s : State) : Out := postCommand (.nePost h d a b) h a b s
def execNePostRx (h : CHdr) (d a b : Nat) (s : State) : Out := postCommand (.nePostRx h d a b) h a b s

/-- `ne.arm` (R432). -/
def execNeArm (h : CHdr) (d a b : Nat) (s : State) : Out :=
  neCommand (.neArm h d a b) h
    (fun s c t => bits (s.reg c t a) 18 30 == 0 && bits (s.reg c t a) 60 4 == 0 && s.ctrFor c (word (bits (s.reg c t a) 48 12)))
    (fun s c t => s.reg c t a) s

/-- A command whose operand is a counter in g[RA]. -/
def ctrCommand (i : Instr) (h : CHdr) (a : Nat) (s : State) : Out :=
  neCommand i h (fun s c t => s.ctrFor c (s.reg c t a)) (fun s c t => s.reg c t a) s

def execNeCtrRd (h : CHdr) (d a : Nat) (s : State) : Out := ctrCommand (.neCtrRd h d a) h a s
def execNeCtrSet (h : CHdr) (a b : Nat) (s : State) : Out := ctrCommand (.neCtrSet h a b) h a s
def execNeCtrAdd (h : CHdr) (a b : Nat) (s : State) : Out := ctrCommand (.neCtrAdd h a b) h a s

/-- `ne.cwait` (R434). -/
def execNeCwait (h : CHdr) (d a b : Nat) (s : State) : Out :=
  asTask s fun c t =>
    if s.ctrFor c (s.reg c t a) then s.park c t (.counter (s.reg c t a).toNat (s.reg c t b)) (.neCwait h d a b) (ctlLen h 1)
    else s.trap c t 40 (s.reg c t a)

/-- A parked `ne.cwait` looks at its counter (R425, R434). -/
def State.retryCwait (s : State) (c t n : Nat) (thr : Word) : State :=
  match s.waitOf c t with
  | some { instr := .neCwait _ d _ _, .. } =>
    let x := (s.net (dieOf c)).ctr n
    if x.err then s.wakeWith c t d 1#64
    else if thr.toNat ≤ x.value.toNat then (s.acquire c 4).wakeWith c t d 0#64
    else s
  | _ => s

/-- The status word of a queue pair (R430). -/
def NeQp.statusWord (q : NeQp) : Word :=
  let st := match q.st with
    | .open_ => 1
    | .error => 2
    | .closing => 3
  word (2 ^ 62 * st + 2 ^ 56 * q.errc + 2 ^ 32 * q.retx + q.pidx)

/-- `ne.post` at the engine (R431). -/
def NeQp.post (q : NeQp) (n : Nat) : Nat × NeQp :=
  if q.st != .open_ then (2, q)
  else if 2 ^ q.slog2 < (n + 2 ^ 32 - q.cidx) % 2 ^ 32 ∨ 2 ^ q.slog2 < (n + 2 ^ 32 - q.pidx) % 2 ^ 32 then (1, q)
  else (0, { q with pidx := n })

/-- `ne.post.rx` at the engine (R431). -/
def NeQp.postRx (q : NeQp) (n : Nat) : Nat × NeQp :=
  if q.st != .open_ then (2, q)
  else if 2 ^ q.rlog2 < (n + 2 ^ 32 - q.rxidx) % 2 ^ 32 ∨ q.ren = false then (1, q)
  else (0, { q with rxidx := n })

/-- A close, or a post, and its operand. -/
def nePairCmd (i : Instr) : Option (Bool × Nat) :=
  match i with
  | .neQpClose _ _ a => some (true, a)
  | .nePost _ _ a _ | .nePostRx _ _ a _ => some (false, a)
  | _ => none

/-- A post to queue pair qn of die d, issued at panel time now, has reached the engine and is not answered. -/
def State.postHere (s : State) (d qn now : Nat) : Bool :=
  s.cores.any fun e => dieOf e.1 == d && e.2.frozen.isNone && e.2.tasks.any fun x => match x.2.wait with
    | none => false
    | some v => v.what == .answer && v.parkedAt == now && e.2.quiet x.1 && match nePairCmd v.instr with
      | some (false, a) => (x.2.reg a).toNat == qn
      | _ => false

/-- A close, issued at panel time now, proceeds (R429): it starts, and once nothing it started is left the queue pair is freed and the task goes
on; a post of the same cycle finds the pair there still. -/
def State.closeQp (s : State) (c t rd qn now : Nat) (q : NeQp) : State :=
  let d := dieOf c
  let acted (s : State) : State := s.modWait c t fun w => { w with acted := true }
  match q.st with
  | .closing =>
    if q.ents.isEmpty && !s.postHere d qn now then (s.modNet d fun e => { e with qps := tdel e.qps qn }).wakeWith c t rd (word q.dropped) else s
  | .error =>
    if s.postHere d qn now then acted s
    else (s.modNet d fun e => { e with qps := tdel e.qps qn }).wakeWith c t rd (word ((q.pidx + 2 ^ 32 - q.cidx) % 2 ^ 32 + q.dropped))
  | .open_ =>
    acted (s.modQp d qn fun q => { q with st := .closing, dropped := (q.pidx + 2 ^ 32 - q.cidx) % 2 ^ 32, cidx := q.pidx })

/-- A watch is armed in the lowest free place (DESIGN CHOICE, assumption 128), or BUSY (R426, R432). -/
def State.armWatch (s : State) (c : Nat) (v thr : Word) : Word × State :=
  let d := dieOf c
  match firstWhere (fun i => (tfind (s.net d).watches i).isNone) (span 0 64) with
  | none => (1#64, s)
  | some i =>
    let w : NeWatch := { ctr := bits v 48 12, thresh := thr, target := bits v 0 18, weave := s.weaveNo c, ctx := (s.core c).ctxno }
    (0#64, (s.modNet d fun e => { e with watches := tput e.watches i w }).fireWatches d)

/-- The command acts with a release at package scope, once every earlier access of the task is performed (R431, R433). -/
def State.neRelease (s : State) (c t : Nat) (go : State → State) : State :=
  if (s.core c).quiet t then go (s.release c 4) else s

/-- Another command for the same queue pair, issued in the same nanosecond, comes first: a close before a post (R429), posts by ascending
core and task (R431). Commands of one nanosecond reach the engine in one cycle (assumption 98). -/
def State.neAfter (s : State) (c t : Nat) (w : Wait) : Bool :=
  match nePairCmd w.instr with
  | none => false
  | some (cl, a) =>
    s.cores.any fun e => dieOf e.1 == dieOf c && e.2.frozen.isNone && e.2.tasks.any fun x =>
      match x.2.wait with
      | none => false
      | some v => v.what == .answer && !v.acted && v.parkedAt == w.parkedAt && match nePairCmd v.instr with
        | none => false
        | some (cl', a') => s.reg e.1 x.1 a' == s.reg c t a && (if cl = cl' then decide (8 * e.1 + x.1 < 8 * c + t) else cl')

/-- NE_COMMAND_ANSWER: the engine of the die acts on the command of task t of core c, and answers (R427). -/
def execNeCommandAnswer (c t : Nat) (s : State) : Out :=
  match s.waitOf c t, s.isFrozen c || s.tornWeave (s.weaveNo c) with
  | some w, false =>
    let d := dieOf c
    let r (n : Nat) : Word := s.reg c t n
    let withQp (v : Word) (go : Nat → NeQp → State) : Out :=
      match s.qpFor c v with
      | some q => .next (go v.toNat q)
      | none => .next (s.trap c t 40 v)
    if w.what != .answer || s.neAfter c t w then .next s
    else match w.instr with
      | .neQpOpen _ rd _ =>
        let x := s.openQp c w.blk
        .next (x.2.wakeWith c t rd x.1)
      | .neQpClose _ rd a => withQp (r a) fun n q => s.closeQp c t rd n w.parkedAt q
      | .neQpRd _ rd a => withQp (r a) fun _ q => s.wakeWith c t rd q.statusWord
      | .nePoll _ rd a => withQp (r a) fun _ q => s.wakeWith c t rd (word (2 ^ 32 * q.rxdone + q.cidx))
      | .nePost _ rd a b => withQp (r a) fun n q => s.neRelease c t fun s =>
          let x := q.post (r b).toNat
          (s.modQp d n fun _ => x.2).wakeWith c t rd (word x.1)
      | .nePostRx _ rd a b => withQp (r a) fun n q => s.neRelease c t fun s =>
          let x := q.postRx (r b).toNat
          (s.modQp d n fun _ => x.2).wakeWith c t rd (word x.1)
      | .neArm _ rd a b =>
        let x := s.armWatch c (r a) (r b)
        .next (x.2.wakeWith c t rd x.1)
      | .neCtrRd _ rd a => .next (s.wakeWith c t rd ((s.net d).ctr (r a).toNat).value)
      | .neCtrSet _ a b => .next (s.neRelease c t fun s => (s.wake c t).modCtr d (r a).toNat fun _ => { value := r b, err := false })
      | .neCtrAdd _ a b => .next (s.neRelease c t fun s => (s.wake c t).addCtr d (r a).toNat (r b).toNat)
      | _ => .next s
  | _, _ => .next s

/-! The end of a weave, and time (R411, R436, R437). -/

/-- Watches of a weave that goes on (R436). -/
def State.resumeNet (s : State) : State := s.nets.foldl (fun s e => s.fireWatches e.1) s

/-- One nanosecond passes for the packets of a queue pair. -/
def NeQp.aged (q : NeQp) : NeQp :=
  { q with ents := q.ents.map fun e => { e with pkts := e.pkts.map fun p => if p.sent && !p.acked then { p with age := p.age + 1 } else p } }

/-- One nanosecond passes for the engines: timers of halted weaves stand still (R418, R483). -/
def State.ageNets (s : State) : State :=
  { s with nets := s.nets.map fun e => (e.1, { e.2 with qps := e.2.qps.map fun q => (q.1, if s.weaveHalted q.2.weave then q.2 else q.2.aged) }) }

end Sys2Proof.Machine
end

