-- ==== Sys2Proof/Machine/Sampler.lean ====
section
/-! DEFINITION. The samplers (R439 to R473): contexts, the words of a run, emits, the `sm.*` commands, cancellation. -/

namespace Sys2Proof.Machine

/-! Contexts. -/

/-- The sampler of die d. -/
def State.smp (s : State) (d : Nat) : Smp := tget {} s.smps d

/-- The state with f applied to the sampler of die d. -/
def State.modSmp (s : State) (d : Nat) (f : Smp → Smp) : State := { s with smps := tmod {} s.smps d f }

/-- Context h of die d. -/
def State.smCtx (s : State) (d h : Nat) : Option SmCtx := tfind (s.smp d).ctxs h

/-- The state with context h of die d changed. -/
def State.modCtx (s : State) (d h : Nat) (f : SmCtx → SmCtx) : State :=
  s.modSmp d fun x => match tfind x.ctxs h with
    | some c => { x with ctxs := tput x.ctxs h (f c) }
    | none => x

/-- N. -/
def SmCtx.n (x : SmCtx) : Nat := x.cand.length

/-- SMSTAT counts (R473). -/
def smWords (w : Word) : Word := wrapUp w 32 32 1
def smSpills (w : Word) : Word := countUp w 16 16 1
def smHalts (w : Word) : Word := countUp w 8 8 1
def smTransient (w : Word) : Word := countUp w 0 8 1

/-- A run ends with a status (R446): 3 to 11 halt the context. -/
def State.endRun (s : State) (d h status result : Nat) : State :=
  let s1 := s.modCtx d h fun x =>
    { x with st := if status < 3 then .idle else .halted, last := status, ended := some (result, min 65535 x.committed, status),
             ending := none, cpend := false, stopped := false, check := false }
  if status < 3 then s1 else s1.modSmp d fun x => { x with stat := smHalts x.stat }

/-- An `sm.end` that waits for its stores ends its run once they are performed (R450), but not after a teardown (R471); a closed context is
gone once they are (R461). -/
def State.settleRun (s : State) (d h : Nat) : State :=
  match s.smCtx d h with
  | some x =>
    if !x.out.isEmpty then s
    else if 4096 ≤ h then s.modSmp d fun y => { y with ctxs := tdel y.ctxs h }
    else match x.ending with
      | some r => if x.st = .running && !s.weaveGone x.weave then s.endRun d h 0 r else s
      | none => s
  | none => s

/-! Emits (R459). -/

/-- An entry may act: the earlier ones of its context are done, or are logged stores that a store may follow (R125). -/
def emitReady (out : List SmEmit) (id : Nat) : Bool :=
  match out with
  | [] => false
  | e :: t => e.id == id || (e.logged && emitReady t id && (t.any fun x => x.id == id && x.kind == .store))

/-- The entry leaves the list. -/
def State.dropEmit (s : State) (d h id : Nat) : State :=
  (s.modCtx d h fun x => { x with out := x.out.filter fun e => e.id != id }).settleRun d h

/-- What stays on its way when entry e is not performed: what was sent before it, its run's stores to the region, and what other runs sent. -/
def afterFailed (e : SmEmit) (out : List SmEmit) : List SmEmit :=
  let keep (y : SmEmit) : Bool := y.id != e.id
  out.takeWhile keep ++ (out.dropWhile keep).filter fun y => keep y && (y.run != e.run || y.kind == .region)

/-- A store of a run is not performed: its run ends with a status, unless it has ended or its weave is torn down (R459, R471, R472). -/
def State.emitEnds (s : State) (d h status : Nat) (e : SmEmit) : State :=
  let s1 := s.modCtx d h fun x => { x with out := afterFailed e x.out }
  match s.smCtx d h with
  | some x => if x.st = .running && x.run == e.run && !s.weaveGone x.weave then s1.endRun d h status 0 else s1.settleRun d h
  | none => s1

/-- A store is refused to its end: the run that sent it ends with REMOTE_ACCESS, and what that run sent behind it is gone (R459). -/
def State.emitFailed (s : State) (d h : Nat) (e : SmEmit) : State := s.emitEnds d h 9 e

/-- A refusal with the target's hint: another attempt, or the end after RETRYMAX = 1,024 of them (R123, R459). -/
def State.emitRefused (s : State) (d h : Nat) (e : SmEmit) : State :=
  let hint := s.hintOf (paPkg e.pa)
  if hint ≠ 0 ∧ e.tries + 1 < 1024 then
    s.modCtx d h fun x => { x with out := modFirst (fun y => y.id == e.id) (fun y => { y with tries := y.tries + 1, resendAt := s.time + 64 * hint }) x.out }
  else s.emitFailed d h e

/-- The bytes of a log entry of an emit (R124). -/
def emitLogEntry (e : SmEmit) (ctx cause src seq : Nat) : List Byte :=
  logEntry { id := e.id, party := 0, kind := .store, space := .fabric, va := 0, pa := e.pa, n := e.data.length, data := cellsFrom e.pa e.data } ctx cause src seq

/-- A store enters the log of its target's package (R124). -/
def State.emitLogged (s : State) (d h : Nat) (x : SmCtx) (e : SmEmit) (cause : Nat) : State :=
  let p := paPkg e.pa
  let l := tget {} s.logs p
  let seq := (s.core e.core).logSeq % 65536
  let s1 := s.homeWrite none (cellsFrom (l.base + 32 * (l.head % 65536)) (emitLogEntry e x.ctx cause e.core seq))
  let s2 := { s1 with logs := tput s1.logs p { l with head := l.head + 1 } }.attention p 0
  (s2.modCore e.core fun k => { k with logSeq := k.logSeq + 1 }).modCtx d h fun x =>
    { x with out := modFirst (fun y => y.id == e.id) (fun y => { y with logged := true, seq }) x.out }

/-- A store reaches its target, which checks it and performs it (R122 to R125). -/
def State.emitStore (s : State) (d h : Nat) (x : SmCtx) (e : SmEmit) (perform : State → State) : State :=
  let dd := paDie e.pa
  let forced := !(s.loggedTo e.core dd).isEmpty
  match (if forced then some 2 else s.windowCheck dd x.ctx .wr (paOff e.pa) e.data.length) with
  | none => perform s
  | some cause => if (tget {} s.logs (paPkg e.pa)).full then (s.queueMiss x.ctx e.pa e.data.length).emitRefused d h e else s.emitLogged d h x e cause


/-- A line of the bytes is in the error table of its die (R136). -/
def State.errorBytes (s : State) (a n : Nat) : Bool := (span (a / 128) ((a + n - 1) / 128 - a / 128 + 1)).any s.errorLine

/-- Entry e of a run, a store or one held back, keeps later stores to its die behind it (R139). -/
def SmEmit.holdsStore (e : SmEmit) (pa : Nat) : Bool := e.kind != .notify && paDie e.pa == paDie pa

/-- Entry id of context h of die d is sent: a store to its target, a notify to its slot with release at panel scope, a store to the region once
no earlier store to its die is on its way. A halted weave sends no notify, a torn-down one drops it (R470, R471). -/
def State.sendEmit (s : State) (d h id : Nat) : State :=
  match s.smCtx d h with
  | none => s
  | some x =>
    match firstWhere (fun e => e.id == id) x.out with
    | none => s
    | some e =>
      if e.kind == .region then
        if (x.out.takeWhile fun y => y.id != id).any fun y => y.holdsStore e.pa then s
        else if s.errorBytes e.pa e.data.length then s.emitEnds d h 10 e
        else (s.homeWrite none (cellsFrom e.pa e.data)).dropEmit d h id
      else if e.logged || decide (s.time < e.resendAt) || !emitReady x.out id then s
      else match e.kind with
        | .region => s
        | .store => s.emitStore d h x e fun s => (s.homeWrite none (cellsFrom e.pa e.data)).dropEmit d h e.id
        | .notify =>
          if s.weaveGone x.weave then s.dropEmit d h id
          else if s.weaveHalted x.weave then s
          else (s.post (evTarget e.ev).1 (evTarget e.ev).2 (some x.weave) x.ctx (some 5)).dropEmit d h id

/-- The logged emit of a package's log with a source and a sequence number, with its die and context. -/
def State.loggedEmit (s : State) (p src seq : Nat) : Option (Nat × Nat × SmEmit) :=
  s.smps.foldl (fun (b : Option (Nat × Nat × SmEmit)) d => match b with
    | some x => some x
    | none => d.2.ctxs.foldl (fun (b : Option (Nat × Nat × SmEmit)) h => match b with
      | some x => some x
      | none =>
        (firstWhere (fun (e : SmEmit) => e.core == src && e.logged && e.seq == seq && paPkg e.pa == p) h.2.out).map fun e => (d.1, h.1, e)) none) none

/-- An acknowledgement of a logged store reaches its requester, a core or a run; discarded, a run's store is a remote-store
fault of the core that started it (R125). -/
def State.acknowledgeLog (s : State) (p : Nat) (v : Word) (fault : Nat) : State :=
  match s.loggedEmit p (bits v 16 13) (bits v 0 16) with
  | some (d, h, e) =>
    let s1 := s.dropEmit d h e.id
    if fault = 0 then s1
    else match s.smCtx d h with
      | some x => (s1.jobFault x.weave e.core 16 (word e.pa)).1
      | none => s1
  | none => s.acknowledge p v fault

/-- REPLAY_WRITE: the host says that a logged store has been performed; in RECOVERY the word does not answer (R125, R507). -/
def execReplayWrite (p : Nat) (v : Word) (s : State) : Out := .next (if s.hostUp p then s.acknowledgeLog p v 0 else s)

/-- DISCARD_WRITE: the host says that a logged store has failed (R125, R507). -/
def execDiscardWrite (p : Nat) (v : Word) (s : State) : Out := .next (if s.hostUp p then s.acknowledgeLog p v 16 else s)

/-! The registers of a run (R443). -/

/-- Register r. -/
def SmCtx.reg (x : SmCtx) (r : Nat) : Word :=
  match r with
  | 0 => 0#64
  | 28 => x.key
  | 29 => word x.stream
  | 30 => word x.ctr
  | 31 => word x.n
  | _ => tget 0#64 x.regs r

/-- The context with register r written. -/
def SmCtx.setReg (x : SmCtx) (r : Nat) (v : Word) : SmCtx :=
  match r with
  | 0 => x
  | 28 => { x with key := v }
  | 29 => { x with stream := bits v 0 32 }
  | 30 => { x with ctr := bits v 0 32 }
  | 31 => x
  | _ => { x with regs := tput x.regs r v }

/-- The FP32 operand in a register. -/
def SmCtx.f32 (x : SmCtx) (r : Nat) : FVal := f32v (bits (x.reg r) 0 32)

/-! Words (R447 to R459). -/

/-- What a word does to its context: it goes on at the next word, it goes elsewhere, or it ends the run. -/
inductive SmRes where
  | go (x : SmCtx)
  | jump (x : SmCtx) (off : Int)
  | stop (status : Nat)

/-- A word of a run of a sampler: nobody else runs it. -/
def asRun (s : State) (f : Nat → Nat → SmCtx → State) : Out :=
  match s.cur with
  | .run d h => match s.smCtx d h with
    | some x => .next (f d h x)
    | none => .next s
  | _ => .next s

/-- The index of a word at an offset from another, modulo 2^64. -/
def smTarget (pc : Nat) (off : Int) : Nat := (((pc : Nat) : Int) + off).emod (2 ^ 64) |>.toNat

/-- The result of a word is taken into the state. -/
def State.smApply (s : State) (d h : Nat) (r : SmRes) : State :=
  match r with
  | .go x => s.modCtx d h fun _ => { x with pc := x.pc + 1 }
  | .jump x off => s.modCtx d h fun _ => { x with pc := smTarget x.pc off }
  | .stop st => s.endRun d h st 0

/-- A word that needs nothing but its context. -/
def smWord (f : SmCtx → SmRes) (s : State) : Out := asRun s fun d h x => s.smApply d h (f x)

/-- A word that writes register d. -/
def smReg (d : Nat) (v : SmCtx → Word) (s : State) : Out := smWord (fun x => .go (x.setReg d (v x))) s

/-- The low n bits as a signed integer. -/
def smImm (n v : Nat) : Word := sext64 n v

/-- The n bytes at a as the run reads them: its own latest store on the way, else what the home holds (R139, R468). -/
def State.runNum (s : State) (x : SmCtx) (a n : Nat) : Nat :=
  let own := (x.out.filter fun e => e.kind != .notify).flatMap fun e => cellsFrom e.pa e.data
  if own.isEmpty then s.homeNum a n
  else numBytes ((span a n).map fun b => match firstWhere (fun (y : Nat × Byte) => y.1 == b) own.reverse with
    | some y => y.2
    | none => BitVec.ofNat 8 (s.homeNum b 1))

/-- `sm.ld`. -/
def execSmLd (c : Bool) (off d a : Nat) (s : State) : Out :=
  asRun s fun dd h x =>
    if c then
      let i := (x.reg a + smImm 10 off).toNat
      s.smApply dd h (if x.n ≤ i then .stop 7 else .go (x.setReg d (word (x.cand.getD i 0))))
    else
      let o := (x.reg a + smImm 10 off * 8#64).toNat
      if o % 8 ≠ 0 ∨ x.len < o + 8 then s.smApply dd h (.stop 7)
      else if s.errorBytes (x.base + o) 8 then s.smApply dd h (.stop 10)
      else s.smApply dd h (.go (x.setReg d (word (s.runNum x (x.base + o) 8))))

/-- `sm.st`: at once at the home, or behind the run's earlier stores to that die that are still on their way (R139, R468). -/
def execSmSt (c : Bool) (off a b : Nat) (s : State) : Out :=
  asRun s fun dd h x =>
    let v := x.reg b
    if c then
      let i := (x.reg a + smImm 10 off).toNat
      s.smApply dd h (if x.n < i ∨ 1024 ≤ i then .stop 7 else .go { x with cand := if i = x.n then x.cand ++ [v.toNat] else listSet x.cand i v.toNat })
    else
      let o := (x.reg a + smImm 10 off * 8#64).toNat
      if o % 8 ≠ 0 ∨ x.len < o + 8 then s.smApply dd h (.stop 7)
      else if s.errorBytes (x.base + o) 8 then s.smApply dd h (.stop 10)
      else if x.out.any fun e => e.holdsStore x.base then
        let e : SmEmit := { id := s.nextId, run := x.run, core := x.core, kind := .region, pa := x.base + o, data := bytesOfNum 8 v.toNat }
        { s with nextId := s.nextId + 1 }.smApply dd h (.go { x with out := x.out ++ [e] })
      else (s.homeWrite none (cellsFrom (x.base + o) (bytesOfNum 8 v.toNat))).smApply dd h (.go x)

/-- `sm.li`. -/
def execSmLi (f : Bool) (val d : Nat) (s : State) : Out := smReg d (fun _ => if f then word (2 ^ 12 * val) else smImm 20 val) s

/-- `sm.mov`. -/
def execSmMov (d a : Nat) (s : State) : Out := smReg d (fun x => x.reg a) s

/-- `sm.add`. -/
def execSmAdd (f : Bool) (imm d a b : Nat) (s : State) : Out :=
  smReg d (fun x => if f then word (f32bits (addF 0 (x.f32 a) (x.f32 b))) else x.reg a + x.reg b + smImm 10 imm) s

/-- `sm.sub`. -/
def execSmSub (f : Bool) (imm d a b : Nat) (s : State) : Out :=
  smReg d (fun x => if f then word (f32bits (addF 0 (x.f32 a) (negF (x.f32 b)))) else x.reg a - x.reg b + smImm 10 imm) s

/-- The comparison of `sm.cmp`. -/
def smRel (u : Bool) (rel : Nat) (f : Bool) (x : SmCtx) (a b : Nat) : Bool :=
  if f then relF rel (x.f32 a) (x.f32 b) else relElem rel (.int 64 (!u)) false (x.reg a).toNat (x.reg b).toNat

/-- `sm.cmp`. -/
def execSmCmp (u : Bool) (rel : Nat) (f : Bool) (d a b : Nat) (s : State) : Out := smReg d (fun x => word (bit (smRel u rel f x a b))) s

/-- `sm.max`. -/
def execSmMax (f : Bool) (d a b : Nat) (s : State) : Out :=
  smReg d (fun x => if f then word (f32bits (minMaxF true (x.f32 a) (x.f32 b)))
    else if (x.reg a).toInt < (x.reg b).toInt then x.reg b else x.reg a) s

/-- `sm.div`. -/
def execSmDiv (d a b : Nat) (s : State) : Out := smReg d (fun x => word (f32bits (divF (x.f32 a) (x.f32 b)))) s

/-- `sm.exp`. -/
def execSmExp (d a : Nat) (s : State) : Out := smReg d (fun x => word (exp2F (x.f32 a)).bits) s

/-! Candidates (R451). -/

/-- The token field and the score of a candidate. -/
def candTok (c : Nat) : Nat := fld c 0 32
def candBits (c : Nat) : Nat := fld c 32 32
def candScore (c : Nat) : FVal := f32v (candBits c)

/-- A candidate. -/
def candOf (tok score : Nat) : Nat := 2 ^ 32 * score + tok

/-- The place of a score in the order of scores; that of a NaN is open (assumption 2). -/
def scoreKey (open_ : Nat) (c : Nat) : Int :=
  let b := candBits c
  if isNaNF (f32v b) then ((open_ % 2 ^ 33 : Nat) : Int) - 2 ^ 32
  else if b < 2 ^ 31 then ((b : Nat) : Int) else -((b - 2 ^ 31 : Nat) : Int)

/-- a may stand before b in the canonical order. -/
def candLe (o a b : Nat) : Bool :=
  decide (scoreKey o b < scoreKey o a) || (scoreKey o a == scoreKey o b && decide (candTok a ≤ candTok b))

/-- A candidate enters an ordered list, behind its equals. -/
def candInsert (o c : Nat) : List Nat → List Nat
  | [] => [c]
  | x :: t => if candLe o x c then x :: candInsert o c t else c :: x :: t

/-- The canonical order. -/
def canonical (o : Nat) (cs : List Nat) : List Nat := cs.foldl (fun l c => candInsert o c l) []

/-- The running weights P_i; the total weight W is the last one. -/
def weightsFrom (w : FVal) : List Nat → List FVal
  | [] => []
  | c :: t =>
    let w1 := rne32 (addF 0 w (f32v (exp2F (candScore c)).bits))
    w1 :: weightsFrom w1 t

/-- The weights of the candidates in their present order. -/
def SmCtx.weights (x : SmCtx) : List FVal := weightsFrom (.fin false 0 0) x.cand

/-- W. -/
def totalWeight (ps : List FVal) : FVal := ps.getLastD (.fin false 0 0)

/-- A value is zero. -/
def isZeroF (v : FVal) : Bool :=
  match v with
  | .fin _ m _ => m == 0
  | _ => false

/-- W cannot be used: +∞, NaN or 0. -/
def badWeight (w : FVal) : Bool := nanOrInf w || isZeroF w

/-- The index of the first element with a property, n where there is none. -/
def firstIndex {α : Type} (p : α → Bool) (n : Nat) : List α → Nat
  | [] => n
  | a :: t => if p a then 0 else 1 + firstIndex p (n - 1) t

/-- The new candidates of `sm.topk` from the logits' FP32 patterns; none where a NaN or +∞ is met (R452). -/
def topkNew (tag bias : Nat) : Nat → List Nat → Option (List Nat)
  | _, [] => some []
  | e, b :: t =>
    let x := f32v b
    if isNaNF x || x == .inf false then none
    else if x == .inf true then topkNew tag bias (e + 1) t
    else
      let sc := f32bits (addF 0 x (f32v bias))
      if isNaNF (f32v sc) || sc == infBits .f32 false then none
      else match topkNew tag bias (e + 1) t with
        | none => none
        | some l => some (if sc == infBits .f32 true then l else candOf (2 ^ 24 * tag + e) sc :: l)

/-- The logits of a row as FP32 patterns. -/
def State.logits (s : State) (x : SmCtx) (a v : Nat) (bf : Bool) : List Nat :=
  (span 0 v).map fun e => if bf then 2 ^ 16 * s.runNum x (a + 2 * e) 2 else s.runNum x (a + 4 * e) 4

/-- `sm.topk` (R452). -/
def execSmTopk (k d a b : Nat) (s : State) : Out :=
  asRun s fun dd h x =>
    let ra := x.reg a
    let rb := x.reg b
    let off := bits ra 0 40
    let v := bits rb 0 24
    let bf := bits rb 24 1 == 1
    let eb := if bf then 2 else 4
    if bits ra 48 16 ≠ 0 ∨ bits rb 26 6 ≠ 0 then s.smApply dd h (.stop 6)
    else if off % eb ≠ 0 ∨ x.len < off + v * eb then s.smApply dd h (.stop 7)
    else if v ≠ 0 && s.errorBytes (x.base + off) (v * eb) then s.smApply dd h (.stop 10)
    else match topkNew (bits ra 40 8) (bits rb 32 32) 0 (s.logits x (x.base + off) v bf) with
      | none => s.smApply dd h (.stop 5)
      | some new =>
        let o := s.open_
        let pool := (if bits rb 25 1 = 1 then x.cand else []) ++ new
        let cs := (canonical o.1 pool).take k
        o.2.smApply dd h (.go (({ x with cand := cs }).setReg d (word cs.length)))

/-- The scaled scores of `sm.temp`: c times the distance from the greatest score (R453). -/
def scaleScores (t : FVal) (cs : List Nat) : List Nat :=
  let c := rne32 (divF (f32v 0x3FB8AA3B) t)
  let m := (cs.map candScore).foldl (minMaxF true) (.inf true)
  cs.map fun x => candOf (candTok x) (f32bits (mulF (rne32 (addF 0 (candScore x) (negF m))) c))

/-- `sm.temp` (R453). -/
def execSmTemp (d a : Nat) (s : State) : Out :=
  asRun s fun dd h x =>
    let b := bits (x.reg a) 0 32
    let t := f32v b
    let o := s.open_
    if isNaNF t then s.smApply dd h (.stop 4)
    else if fld b 23 8 = 0 then
      let best := (canonical o.1 x.cand).head?
      o.2.smApply dd h (.go (({ x with cand := match best with | some c => [candOf (candTok c) 0] | none => [] }).setReg d 1#64))
    else if b ≥ 2 ^ 31 then s.smApply dd h (.stop 4)
    else
      let cs := scaleScores t x.cand
      if cs.any fun c => isNaNF (candScore c) then (s.modCtx dd h fun _ => { x with cand := cs }).smApply dd h (.stop 5)
      else o.2.smApply dd h (.go (({ x with cand := canonical o.1 cs }).setReg d (if t == FVal.inf false then 2#64 else 0#64)))

/-- `sm.topp` (R454). -/
def execSmTopp (d a : Nat) (s : State) : Out :=
  asRun s fun dd h x =>
    let p := x.f32 a
    if isNaNF p then s.smApply dd h (.stop 6)
    else if x.n = 0 then s.smApply dd h (.go (x.setReg d 0#64))
    else
      let o := s.open_
      let y := { x with cand := canonical o.1 x.cand }
      let ps := y.weights
      let w := totalWeight ps
      if badWeight w then (o.2.modCtx dd h fun _ => y).smApply dd h (.stop 5)
      else
        let theta := rne32 (mulF p w)
        let n := min y.n (1 + firstIndex (fun q => relF 5 q theta) (y.n - 1) ps)
        o.2.smApply dd h (.go (({ y with cand := y.cand.take n }).setReg d (word n)))

/-- The score of a candidate after `sm.sum` (R455). -/
def sumScore (kind : Nat) (w : FVal) (c : Nat) : Nat :=
  match kind with
  | 1 => candOf (candTok c) (f32bits (divF (f32v (exp2F (candScore c)).bits) w))
  | 2 => candOf (candTok c) (f32bits (addF 0 (candScore c) (negF (f32v (log2F w).bits))))
  | _ => c

/-- `sm.sum` (R455). -/
def execSmSum (kind d : Nat) (s : State) : Out :=
  smWord (fun x =>
    if x.n = 0 then .go (x.setReg d 0#64)
    else
      let w := totalWeight x.weights
      if badWeight w then .stop 5
      else .go (({ x with cand := x.cand.map (sumScore kind w) }).setReg d (word (f32bits w)))) s

/-- `sm.rng` (R449). -/
def execSmRng (u : Bool) (d : Nat) (s : State) : Out :=
  smWord (fun x =>
    let z := generator x.key.toNat x.stream x.ctr
    .go (({ x with ctr := (x.ctr + 1) % 2 ^ 32 }).setReg d (word (if u then z / 2 ^ 40 else z)))) s

/-- The value u × 2^-24 of a draw. -/
def drawF (v : Word) : FVal := .fin false (bits v 0 24) (-24)

/-- `sm.draw` (R456). -/
def execSmDraw (d a : Nat) (s : State) : Out :=
  smWord (fun x =>
    if x.n = 0 then .stop 8
    else
      let ps := x.weights
      let w := totalWeight ps
      if badWeight w then .stop 5
      else
        let tau := rne32 (mulF (drawF (x.reg a)) w)
        let i := min (x.n - 1) (firstIndex (fun q => relF 4 q tau) (x.n - 1) ps)
        .go (x.setReg d (word (x.cand.getD i 0)))) s

/-- `sm.tree` (R457): the sector is read at the banks. -/
def execSmTree (d a : Nat) (s : State) : Out :=
  asRun s fun dd h x =>
    let o := (x.reg a).toNat
    let y := { x with check := true }
    if o % 32 ≠ 0 ∨ x.len < o + 32 then (s.modCtx dd h fun _ => y).smApply dd h (.stop 7)
    else
      let s1 := s.countWalk (stackOf (x.base + o)) 32
      if s.errorBytes (x.base + o) 32 then (s1.modCtx dd h fun _ => y).smApply dd h (.stop 10)
      else
        let at_ (i : Nat) : Word := word (numBytes (bytesAt s.banks (x.base + o + 8 * i) 8))
        s1.smApply dd h (.go (((y.setReg d (at_ 0)).setReg (d + 1) (at_ 1)).setReg (d + 2) (at_ 2)))

/-- The list without element i. -/
def removeAt {α : Type} (l : List α) (i : Nat) : List α := l.take i ++ l.drop (i + 1)

/-- `sm.acc` (R458). -/
def execSmAcc (excl : Bool) (d a b : Nat) (s : State) : Out :=
  smWord (fun x =>
    let draft := (x.reg a).toNat
    let i := firstIndex (fun c => candTok c == candTok draft) x.n x.cand
    let p := if i < x.n then f32v (exp2F (candScore (x.cand.getD i 0))).bits else .fin false 0 0
    let q := f32v (exp2F (candScore draft)).bits
    let ok := relF 2 (rne32 (mulF (drawF (x.reg b)) q)) p
    let y := if !ok && excl && decide (i < x.n) then { x with cand := removeAt x.cand i } else x
    .go (y.setReg d (word (bit ok)))) s

/-- The emits of a token (R459): the record, the length word, the notify. -/
def SmCtx.emits (x : SmCtx) (id base tok : Nat) : List SmEmit :=
  let rec_ := bytesOfNum 4 tok ++ bytesOfNum 4 x.pos ++ bytesOfNum 4 x.seqid ++ [0#8, 0#8, 0#8, 0x80#8]
  let a : List SmEmit := [{ id, run := x.run, core := x.core, kind := .store, pa := base + 16 * (x.pos % 2 ^ x.elog2), data := rec_ }]
  let b : List SmEmit := match x.lenw with
    | some l => [{ id := id + 1, run := x.run, core := x.core, kind := .store, pa := l, data := bytesOfNum 8 (x.pos + 1) }]
    | none => []
  let c : List SmEmit := if x.evt.testBit 63 then [{ id := id + 2, run := x.run, core := x.core, kind := .notify, ev := fld x.evt 0 18 }] else []
  a ++ b ++ c

/-- `sm.emit`. -/
def execSmEmit (a : Nat) (s : State) : Out :=
  asRun s fun dd h x =>
    match x.emit with
    | none => s.smApply dd h (.stop 6)
    | some base =>
      { s with nextId := s.nextId + 3 }.smApply dd h (.go { x with
        out := x.out ++ x.emits s.nextId base (bits (x.reg a) 0 32), pos := (x.pos + 1) % 2 ^ 32, committed := x.committed + 1 })

/-- `sm.br`. -/
def execSmBr (off : Nat) (s : State) : Out := smWord (fun x => .jump x (signedOf 21 off)) s

/-- `sm.bz`. -/
def execSmBz (a off : Nat) (s : State) : Out := smWord (fun x => if x.reg a = 0#64 then .jump x (signedOf 11 off) else .go x) s

/-- `sm.end`: the run ends once its stores and emits are performed (R450). -/
def execSmEnd (a : Nat) (s : State) : Out :=
  asRun s fun dd h x => (s.modCtx dd h fun _ => { x with ending := some (bits (x.reg a) 0 32) }).settleRun dd h

/-! Before each word (R445, R466). -/

/-- The run may go on: it is running, neither ending nor stopped by a cancel, and its weave is not halted or torn down. -/
def State.runGoes (s : State) (x : SmCtx) : Bool :=
  x.st == .running && x.ending.isNone && !x.stopped && !s.weaveHalted x.weave && !s.weaveGone x.weave

/-- SM_STEP_LIMIT: a run that has issued STEPMAX words ends with LIMIT before the next one. -/
def execSmStepLimit (d h : Nat) (s : State) : Out :=
  match s.smCtx d h with
  | some x => .next (if s.runGoes x && decide (x.stepmax ≤ x.issued) then s.endRun d h 2 0 else s)
  | none => .next s

/-- The word at PC is `sm.tree` or `sm.end`. -/
def SmCtx.atBoundary (x : SmCtx) : Bool :=
  let op := fld (x.prog.getD x.pc 0) 26 6
  decide (x.pc < x.prog.length) && (op == 0x11 || op == 0x16)

/-- A pending cancel is at its point (R466). -/
def SmCtx.cancelDue (x : SmCtx) : Bool := x.cpend && (!x.check || x.atBoundary)

/-- SGEN rises by one at the header's home (R466); device space, which takes no access of two bytes (R112), keeps what it holds. -/
def State.bumpGen (s : State) (a : Nat) : State :=
  if inDev a then s
  else s.homeWrite none (cellsFrom a (bytesOfNum 2 ((s.homeNum a 2 + 1) % 2 ^ 16)))

/-- SM_CANCEL_EFFECT: at its point the run stops; once its emits are performed the header moves and the run ends with CANCELLED
(R466). -/
def execSmCancelEffect (d h : Nat) (s : State) : Out :=
  match s.smCtx d h with
  | none => .next s
  | some x =>
    if x.st != .running || x.ending.isSome || !x.cpend || s.weaveHalted x.weave || s.weaveGone x.weave then .next s
    else if !x.stopped && !x.cancelDue then .next s
    else if !x.out.isEmpty then .next (s.modCtx d h fun x => { x with stopped := true })
    else
      let s1 := match x.map with
        | some a => s.bumpGen a
        | none => s
      .next (s1.endRun d h 1 0)

/-- A cancel is set: the run is under way and no cancel waits. -/
def State.setCancel (s : State) (d h : Nat) : Bool × State :=
  match s.smCtx d h with
  | some x =>
    if x.st = .running ∧ x.ending = none ∧ x.cpend = false then (true, s.modCtx d h fun x => { x with cpend := true }) else (false, s)
  | none => (false, s)

/-- A write of SMCANCEL (R465). -/
def State.writeCancel (s : State) (d : Nat) (v : Word) : State :=
  match s.smCtx d (bits v 0 12) with
  | some x => if x.ctx = bits v 16 16 then (s.setCancel d (bits v 0 12)).2 else s
  | none => s

/-- SMCANCEL_WRITE: the host writes SMCANCEL; in RECOVERY it does not answer (R465, R507). -/
def execSmcancelWrite (d : Nat) (v : Word) (s : State) : Out := .next (if s.hostUp (d / 2) then s.writeCancel d v else s)

/-! Errors of the stores and of region data (R472). -/

/-- The word at the run's PC, if there is one and it is an instruction (R445). -/
def SmCtx.fetched (x : SmCtx) : Option SmOp := (x.prog[x.pc]?).bind decodeSmOp

/-- The sectors of the region that the word at PC reads, and whether it reads them at the banks. -/
def SmCtx.reads (x : SmCtx) : List Nat × Bool :=
  let at_ (o n : Nat) : List Nat := if x.len < o + n then [] else sectorsOf (x.base + o) n
  match x.fetched with
  | some (.ld false off _ a) => (at_ (x.reg a + smImm 10 off * 8#64).toNat 8, false)
  | some (.topk _ _ a b) => (at_ (bits (x.reg a) 0 40) (bits (x.reg b) 0 24 * if bits (x.reg b) 24 1 = 1 then 2 else 4), false)
  | some (.tree _ a) => (at_ (x.reg a).toNat 32, true)
  | _ => ([], false)

/-- A lasting error is met in the region data that the next word reads: a clean copy at the home is dropped and the data read from below, which
counts as corrected; anywhere else the run ends with MEMORY_ERROR (R136, R472). -/
def State.regionError (s : State) (d h : Nat) (x : SmCtx) : State :=
  let r := x.reads
  if r.1.isEmpty then s
  else if !r.2 && r.1.all s.cleanCopy then (r.1.foldl State.homeDrop s).countError (paDie x.base) 1
  else (s.countError (paDie x.base) 3).endRun d h 10 0

/-- An error is met on behalf of a run: 1 transient, 2 lasting in the run's storage, 3 lasting in region data. -/
def State.runErrorMet (s : State) (d h kind : Nat) : State :=
  match s.smCtx d h with
  | some x =>
    if !s.runGoes x then s
    else match kind with
      | 2 => (s.countError d 3).endRun d h 11 0
      | 3 => s.regionError d h x
      | _ => (s.countError d 2).modSmp d fun y => { y with stat := smTransient y.stat }
  | none => s

/-! Commands (R460 to R465). -/

/-- A context that the weave of core c holds, by a register value. -/
def State.ctxFor (s : State) (c : Nat) (v : Nat) : Option SmCtx :=
  if 4096 ≤ v then none
  else match s.smCtx (dieOf c) v with
    | some x => if x.weave = s.weaveNo c then some x else none
    | none => none

/-- A command: its operand conditions, then the task parks for the sampler's answer. -/
def smCommand (i : Instr) (h : CHdr) (bad : State → Nat → Nat → Option Word) (s : State) : Out :=
  asTask s fun c t => match bad s c t with
    | some v => s.trap c t 41 v
    | none => s.park c t .answer i (ctlLen h 1)

/-- The condition on a register that holds a handle and no more. -/
def badHandle (a : Nat) (s : State) (c t : Nat) : Option Word :=
  if (s.ctxFor c (s.reg c t a).toNat).isSome then none else some (s.reg c t a)

/-- A virtual address of the record: none where no entry decides it, with its place and whether the entry is right. -/
def smPlace (k : Core) (va n : Nat) (ok : SegEnt → Bool) : Option (Option Nat) :=
  match segFor k.seg va with
  | none => none
  | some e =>
    let pa := e.pbase + va % 2 ^ e.size
    some (if ok e && oneEntry k.seg va n == some e then some pa else none)

/-- The fields of a context record that are not addresses meet R441. -/
def smRecordOk (bs : List Byte) : Bool :=
  let w := blockWord bs
  w 0 % 128 == 0 && w 1 % 128 == 0 && decide (128 ≤ w 1) && decide (w 1 ≤ 2 ^ 38) && w 2 % 16384 == 0
  && (decide (w 2 + 16384 ≤ w 0) || decide (w 0 + w 1 ≤ w 2)) && w 5 % 16 == 0 && decide (w 6 ≤ 12) && fld (w 7) 18 45 == 0
  && w 8 % 64 == 0 && w 9 % 8 == 0 && fld (w 10) 32 32 != 0 && decide (w 11 < 2 ^ 32) && (span 12 4).all fun i => w i == 0

/-- The places of a record's addresses. -/
structure SmPlaces where
  base : Option Nat
  spill : Option Nat
  emit : Option Nat
  map : Option Nat
  lenw : Option Nat

/-- The addresses of a record are translated (R441): a miss is at a virtual address. -/
def smPlaces (k : Core) (bs : List Byte) : Except Nat SmPlaces :=
  let w := blockWord bs
  let rw (e : SegEnt) : Bool := e.rd && e.wr && !e.dev
  let all (e : SegEnt) : Bool := e.rd && e.wr && e.at_
  let opt (va n : Nat) (ok : SegEnt → Bool) : Except Nat (Option Nat) :=
    if va = 0 then .ok none else match smPlace k va n ok with
      | none => .error va
      | some x => .ok x
  match smPlace k (w 0) (w 1) rw, smPlace k (w 2) 16384 rw with
  | none, _ => .error (w 0)
  | _, none => .error (w 2)
  | some base, some spill =>
    match opt (w 5) (16 * 2 ^ fld (w 6) 0 4) (fun e => e.wr && !e.dev), opt (w 8) 64 all, opt (w 9) 8 all with
    | .error va, _, _ => .error va
    | _, .error va, _ => .error va
    | _, _, .error va => .error va
    | .ok emit, .ok map, .ok lenw => .ok { base, spill, emit, map, lenw }

/-- The places meet R441 for core c. -/
def SmPlaces.ok (p : SmPlaces) (c : Nat) (bs : List Byte) : Bool :=
  let w := blockWord bs
  let given (va : Nat) (x : Option Nat) : Bool := va == 0 || (match x with | some pa => decide (pa < 2 ^ 48) | none => false)
  (match p.base with | some a => paPkg a == pkgOf c && inHbm a && inHbm (a + w 1 - 1) && paDie a == paDie (a + w 1 - 1) | none => false)
  && (match p.spill with | some a => paDie a == dieOf c && inHbm a && inHbm (a + 16383) | none => false)
  && given (w 5) p.emit && given (w 8) p.map && given (w 9) p.lenw

/-- `sm.ctx.open`: the record is read and its addresses are translated; the task parks for the answer. -/
def execSmCtxOpen (h : CHdr) (d a : Nat) (s : State) : Out :=
  asTask s fun c t =>
    let va := s.reg c t a
    if va.toNat % 128 ≠ 0 then s.trap c t 41 va
    else withBlock s c t va.toNat 128 fun bs =>
      match smPlaces (s.core c) bs with
      | .error x => s.fatal c t 0 7 (s.task c t).pc (word x)
      | .ok _ => (s.park c t .answer (.smCtxOpen h d a) (ctlLen h 1)).modWait c t fun w => { w with blk := bs }

/-- The context that a record opens for core c. -/
def smCtxOf (s : State) (c : Nat) (bs : List Byte) (p : SmPlaces) : SmCtx :=
  let w := blockWord bs
  { weave := s.weaveNo c, ctx := (s.core c).ctxno, core := c, base := p.base.getD 0, len := w 1, spill := p.spill.getD 0, emit := p.emit,
    elog2 := fld (w 6) 0 4, evt := w 7, map := p.map, lenw := p.lenw, stepmax := fld (w 10) 32 32, seqid := fld (w 11) 0 32,
    key := word (w 3), stream := fld (w 4) 0 32, ctr := fld (w 4) 32 32, pos := fld (w 10) 0 32 }

/-- The answer of `sm.ctx.open`, and the state (R461). -/
def State.openCtx (s : State) (c : Nat) (bs : List Byte) : Word × State :=
  let d := dieOf c
  match smPlaces (s.core c) bs with
  | .error _ => (2#64, s)
  | .ok p =>
    if !(smRecordOk bs && p.ok c bs) then (2#64, s)
    else match firstWhere (fun h => (s.smCtx d h).isNone) (span 0 4096) with
      | none => (1#64, s)
      | some h => (word (2 ^ 32 * h), s.modSmp d fun x => { x with ctxs := tput x.ctxs h (smCtxOf s c bs p) })

def execSmCtxClose (h : CHdr) (d a : Nat) (s : State) : Out := smCommand (.smCtxClose h d a) h (badHandle a) s
def execSmCtxReset (h : CHdr) (d a : Nat) (s : State) : Out := smCommand (.smCtxReset h d a) h (badHandle a) s
def execSmCtxRd (h : CHdr) (d a : Nat) (s : State) : Out := smCommand (.smCtxRd h d a) h (badHandle a) s
def execSmCancel (h : CHdr) (d a : Nat) (s : State) : Out := smCommand (.smCancel h d a) h (badHandle a) s

/-- The status word of a context (R461). -/
def SmCtx.statusWord (x : SmCtx) : Word :=
  let st := match x.st with
    | .idle => 1
    | .running => 2
    | .halted => 3
  word (2 ^ 62 * st + 2 ^ 61 * bit x.res + 2 ^ 60 * bit x.cpend + 2 ^ 48 * x.n + 2 ^ 40 * x.last + x.pos)

/-- `sm.prog`: the words are read; the task parks for the answer (R462). -/
def execSmProg (h : CHdr) (d a b : Nat) (s : State) : Out :=
  asTask s fun c t =>
    let va := s.reg c t a
    let rb := s.reg c t b
    let n := bits rb 16 9
    if va.toNat % 4 ≠ 0 then s.trap c t 41 va
    else if bits rb 12 4 ≠ 0 ∨ bits rb 25 39 ≠ 0 ∨ n = 0 ∨ 256 < n ∨ s.ctxFor c (bits rb 0 12) = none then s.trap c t 41 rb
    else withBlock s c t va.toNat (4 * n) fun bs =>
      (s.park c t .answer (.smProg h d a b) (ctlLen h 1)).modWait c t fun w => { w with blk := bs }

/-- `sm.start` (R463). -/
def execSmStart (h : CHdr) (d a b : Nat) (s : State) : Out :=
  smCommand (.smStart h d a b) h (fun s c t =>
    let ra := s.reg c t a
    if bits ra 12 4 ≠ 0 ∨ bits ra 24 40 ≠ 0 ∨ s.ctxFor c (bits ra 0 12) = none then some ra else none) s

/-- The word that `sm.wait` writes (R464). -/
def waitWord (e : Nat × Nat × Nat) : Word := word (2 ^ 32 * e.1 + 2 ^ 16 * e.2.1 + e.2.2)

/-- An ended run is collected: an acquire at package scope. -/
def State.collectRun (s : State) (c t rd h : Nat) (e : Nat × Nat × Nat) : State :=
  ((s.modCtx (dieOf c) h fun x => { x with ended := none }).acquire c 4).wakeWith c t rd (waitWord e)

/-- A parked `sm.wait` or `sm.wait.try` looks at its context: the run has ended and its region stores are performed. -/
def State.answerWait (s : State) (c t rd h : Nat) (try_ : Bool) (v : Word) : State :=
  match s.ctxFor c h with
  | none => s.trap c t 41 v
  | some x =>
    if x.st = .running || (x.out.any fun e => e.kind == .region) then (if try_ then s.wakeWith c t rd 0xFF#64 else s)
    else match x.ended with
      | some e => s.collectRun c t rd h e
      | none => s.trap c t 41 v

/-- The condition of R460 and R464 on the operand of a wait. -/
def badWait (a : Nat) (s : State) (c t : Nat) : Option Word :=
  match s.ctxFor c (s.reg c t a).toNat with
  | none => some (s.reg c t a)
  | some x => if x.st != .running && x.ended.isNone then some (s.reg c t a) else none

/-- `sm.wait`: it parks until the run has ended. -/
def execSmWait (h : CHdr) (d a : Nat) (s : State) : Out :=
  asTask s fun c t => match badWait a s c t with
    | some v => s.trap c t 41 v
    | none => s.park c t (.run (s.reg c t a).toNat) (.smWait h d a) (ctlLen h 1)

/-- `sm.wait.try`. -/
def execSmWaitTry (h : CHdr) (d a : Nat) (s : State) : Out := smCommand (.smWaitTry h d a) h (badWait a) s

/-- A parked `sm.wait` is looked at again. -/
def State.retryRun (s : State) (c t h : Nat) : State :=
  match s.waitOf c t with
  | some { instr := .smWait _ d a, .. } => s.answerWait c t d h false (s.reg c t a)
  | _ => s

/-! Starting (R440, R463). -/

/-- The words of a block of instructions. -/
def progWords (bs : List Byte) : List Nat := (span 0 (bs.length / 4)).map fun i => blockHalf bs i

/-- The resident contexts of a sampler. -/
def Smp.resident (x : Smp) : Nat := (x.ctxs.filter fun c => c.2.res).length

/-- The context that makes room: the least recently started of those with no run. -/
def Smp.victim (x : Smp) : Option (Nat × SmCtx) :=
  x.ctxs.foldl (fun (b : Option (Nat × SmCtx)) e =>
    if e.2.res && e.2.st != .running then match b with
      | some y => if e.2.started < y.2.started then some e else b
      | none => some e
    else b) none

/-- A context is written to its spill area (R440): the candidates, the words, and a record whose layout is open. -/
def State.spillCtx (s : State) (d h : Nat) (x : SmCtx) : State :=
  let o := s.open_
  let cs := (x.cand.map fun c => bytesOfNum 8 c).flatten
  let ws := (x.prog.map fun w => bytesOfNum 4 w).flatten
  let s1 := ((o.2.homeWrite none (cellsFrom x.spill cs)).homeWrite none (cellsFrom (x.spill + 0x2000) ws)).homeWrite none
    (cellsFrom (x.spill + 0x2400) (bytesOfNum 64 o.1))
  (s1.modCtx d h fun x => { x with res := false }).modSmp d fun y => { y with stat := smSpills y.stat }

/-- Context h is made resident. -/
def State.makeResident (s : State) (d h : Nat) : State :=
  match s.smCtx d h with
  | some x =>
    if x.res then s
    else
      let s1 := if (s.smp d).resident < 512 then s else match (s.smp d).victim with
        | some (v, y) => s.spillCtx d v y
        | none => s
      s1.modCtx d h fun x => { x with res := true }
  | none => s

/-- The status that turns an `sm.start` away, if any (R463). -/
def SmCtx.startStatus (x : SmCtx) : Option Nat :=
  match x.st with
  | .halted => some 3
  | .running => some 1
  | .idle => if x.prog.isEmpty then some 2 else none

/-- The run of context h starts for task t of core c. -/
def State.beginRun (s : State) (d h c : Nat) (arg : Word) (start : Nat) : State :=
  let s1 := s.makeResident d h
  let k := (s1.smp d).starts
  (s1.modSmp d fun y => { y with starts := y.starts + 1 }).modCtx d h fun x =>
    { x with st := .running, regs := if arg = 0#64 then [] else [(1, arg)], pc := start, committed := 0, issued := 0, check := false, cpend := false,
             stopped := false, ending := none, ended := none, run := x.run + 1, started := k + 1, core := c }

/-- The tasks of die d whose accepted `sm.start` names context h, the first of them. -/
def State.starter (s : State) (d h : Nat) : Option (Nat × Nat × Wait) :=
  s.cores.foldl (fun (b : Option (Nat × Nat × Wait)) k =>
    if dieOf k.1 ≠ d then b
    else k.2.tasks.foldl (fun (b : Option (Nat × Nat × Wait)) t => match b, t.2.wait with
      | none, some w =>
        match w.instr with
        | .smStart _ _ a _ => if w.acted && t.2.st == .parked && bits (t.2.reg a) 0 12 == h then some (k.1, t.1, w) else none
        | _ => none
      | _, _ => b) b) none

/-- The runs of a sampler that hold a run place. -/
def Smp.running (x : Smp) : Nat := (x.ctxs.filter fun c => c.2.st == .running).length

/-- SM_RUN_BEGIN: a run place is free, and the run that an accepted `sm.start` waits for begins (R463). -/
def execSmRunBegin (d h : Nat) (s : State) : Out :=
  match s.starter d h, s.smCtx d h with
  | some (c, t, w), some x =>
    match w.instr with
    | .smStart _ rd a b =>
      if s.isFrozen c then .next s
      else match x.startStatus with
        | some st => .next (s.wakeWith c t rd (word st))
        | none =>
          if 16 ≤ (s.smp d).running then .next s
          else .next ((s.beginRun d h c (s.reg c t b) (bits (s.reg c t a) 16 8)).wakeWith c t rd 0#64)
    | _ => .next s
  | _, _ => .next s

/-- A context is closed: its handle is free, and its stores on their way complete (R461). -/
def State.closeCtx (s : State) (d h : Nat) (x : SmCtx) : State :=
  let s1 := s.modSmp d fun y => { y with ctxs := tdel y.ctxs h }
  if x.out.isEmpty then s1
  else { s1 with nextId := s1.nextId + 1 }.modSmp d fun y => { y with ctxs := tput y.ctxs (4096 + s1.nextId) { x with st := .idle, res := false, ended := none } }

/-- SAMPLER_ANSWER: the sampler acts on the command of task t of core c, and answers (R461 to R465). -/
def execSamplerAnswer (c t : Nat) (s : State) : Out :=
  match s.waitOf c t, s.isFrozen c with
  | some w, false =>
    let d := dieOf c
    let r (n : Nat) : Word := s.reg c t n
    let withCtx (rd : Nat) (v : Word) (h : Nat) (go : SmCtx → Word × State) : Out :=
      match s.ctxFor c h with
      | some x =>
        let y := go x
        .next (y.2.wakeWith c t rd y.1)
      | none => .next (s.trap c t 41 v)
    if w.what != .answer then .next s
    else match w.instr with
      | .smCtxOpen _ rd _ =>
        let x := s.openCtx c w.blk
        .next (x.2.wakeWith c t rd x.1)
      | .smCtxClose _ rd a =>
        match s.ctxFor c (r a).toNat with
        | some x =>
          if x.st = .running then .next (s.wakeWith c t rd 1#64)
          else .next ((s.closeCtx d (r a).toNat x).wakeWith c t rd 0#64)
        | none => .next (s.trap c t 41 (r a))
      | .smCtxReset _ rd a => withCtx rd (r a) (r a).toNat fun x =>
          if x.st = .running then (1#64, s) else (0#64, s.modCtx d (r a).toNat fun x => { x with st := .idle, cand := [] })
      | .smCtxRd _ rd a => withCtx rd (r a) (r a).toNat fun x => (x.statusWord, s)
      | .smProg _ rd _ b => withCtx rd (r b) (bits (r b) 0 12) fun x =>
          if x.st = .running then (1#64, s) else (0#64, s.modCtx d (bits (r b) 0 12) fun x => { x with prog := progWords w.blk })
      | .smCancel _ rd a => withCtx rd (r a) (r a).toNat fun _ =>
          let y := s.setCancel d (r a).toNat
          (if y.1 then 0#64 else 1#64, y.2)
      | .smStart _ rd a _ =>
        match s.ctxFor c (bits (r a) 0 12) with
        | none => .next (s.trap c t 41 (r a))
        | some x =>
          if !(s.core c).quiet t then .next s
          else
            let s1 := s.release c 4
            match x.startStatus with
            | some st => .next (s1.wakeWith c t rd (word st))
            | none => .next (s1.modWait c t fun w => { w with what := .room, acted := true })
      | .smWaitTry _ rd a => .next (s.answerWait c t rd (r a).toNat true (r a))
      | _ => .next s
  | _, _ => .next s

/-! The end of a weave (R471). -/

/-- A run of the weave has not ended, or stores of one are not performed. -/
def State.runsOwed (s : State) (w : Nat) : Bool :=
  s.smps.any fun d => d.2.ctxs.any fun h => h.2.weave == w && ((h.2.st == .running && !s.weaveGone w) || !h.2.out.isEmpty)

/-- The contexts of a weave that ends are freed. -/
def State.freeRuns (s : State) (w : Nat) : State :=
  { s with smps := s.smps.map fun d => (d.1, { d.2 with ctxs := d.2.ctxs.filter fun h => h.2.weave != w }) }

end Sys2Proof.Machine
end

