-- ==== Sys2Proof/Machine/DevRegs.lean ====
section
/-! DEFINITION. Reads and writes of the device registers (R111, R112), by queued accesses of a core, by requests over the
fabric, and by the host. -/

namespace Sys2Proof.Machine

/-! Queue slots (R154 to R157, R184). -/

/-- Slot n of the dispatcher of die d. -/
def State.qslot (s : State) (d n : Nat) : QSlot := tget {} (s.disp d).slots n

/-- The state with slot n of die d changed. -/
def State.modSlot (s : State) (d n : Nat) (f : QSlot → QSlot) : State := s.modDisp d fun x => { x with slots := tmod {} x.slots n f }

/-- The packets of a slot's queue: QLOG2. -/
def QSlot.log2 (q : QSlot) : Nat := bits q.qcfg 32 5
def QSlot.prio (q : QSlot) : Nat := bits q.qcfg 38 2
def QSlot.weight (q : QSlot) : Nat := bits q.qcfg 40 8
def QSlot.ctx (q : QSlot) : Nat := bits q.qcfg 48 16
def QSlot.sys (q : QSlot) : Bool := bits q.qcfg 37 1 == 1

/-- A new write index reaches a mapped slot: too far ahead, it is OVERRUN (R154). -/
def QSlot.notify (q : QSlot) (w : Nat) : QSlot :=
  if 2 ^ q.log2 < (w + 2 ^ 32 - q.rdidx) % 2 ^ 32 then { q with st := .overrun, wridx := w } else { q with wridx := w }

/-- NOTIFY: a write of a slot's notify register. A free slot ignores and counts it; in the cycle of its unmapping the write goes
to the queue being unmapped (R154, R157). -/
def State.notify (s : State) (d slot : Nat) (v : Word) : State :=
  let q := s.qslot d slot
  let w := bits v 0 32
  match q.st, q.unmapped with
  | .free, some (t, desc) =>
    if t = s.time then s.homeWrite none (cellsFrom (desc + 0x18) (bytesOfNum 8 (2 ^ 63 + w)))
    else s.modDisp d fun x => { x with dstat := countUp x.dstat 0 16 1 }
  | .free, none => s.modDisp d fun x => { x with dstat := countUp x.dstat 0 16 1 }
  | .mapped, _ => s.modSlot d slot fun q => q.notify w
  | .overrun, _ => s.modSlot d slot fun q => { q with wridx := w }

/-- NOTIFY_WRITE: the host writes a notify register; in RECOVERY it does not answer (R154, R507). -/
def execNotifyWrite (d slot : Nat) (v : Word) (s : State) : Out := .next (if s.hostUp (d / 2) then s.notify d slot v else s)

/-- The weaves and graph runs of a slot that are placed, waiting or saved (R184). -/
def State.activeOf (s : State) (d slot : Nat) : Nat :=
  (s.weaves.filter fun w => w.2.die == d && w.2.slot == slot && w.2.st != .ended).length
  + (s.runs.filter fun r => r.2.die == d && r.2.slot == slot).length

/-- The status word of a slot (R184); of a free one what its queue left running. -/
def State.slotWord (s : State) (d slot : Nat) : Word :=
  let q := s.qslot d slot
  match q.st with
  | .free => word (2 ^ 32 * min 255 (s.activeOf d slot))
  | st => word (2 ^ 62 * (if st = .mapped then 1 else 2) + 2 ^ 60 * q.prio + 2 ^ 52 * q.weight + 2 ^ 47 * q.lane.length
                + 2 ^ 32 * min 255 (s.activeOf d slot) + q.rdidx)

/-- A weave of die d is resident or saved: it is owned by the die, or holds a core of it. -/
def State.dieBusy (s : State) (d : Nat) : Bool :=
  s.weaves.any fun w => w.2.st != .waiting && w.2.st != .ended && (w.2.die == d || w.2.jobs.any fun j => dieOf j.1 == d)

/-- A write of SAVEPOOL or SAVECNT, which applies while no weave of the die is resident or saved (R185). -/
def State.setSavepool (s : State) (d : Nat) (cnt : Bool) (v : Word) : State :=
  if s.dieBusy d then s
  else if cnt then s.modDisp d fun x => { x with savecnt := word (bits v 0 10) }
  else s.modDisp d fun x => { x with savepool := word (2 ^ 23 * bits v 23 25) }

/-- SAVEPOOL_WRITE: the host writes SAVEPOOL or SAVECNT; in RECOVERY they do not answer (R185, R507). -/
def execSavepoolWrite (d : Nat) (cnt : Bool) (v : Word) (s : State) : Out := .next (if s.hostUp (d / 2) then s.setSavepool d cnt v else s)

/-! Ring descriptors (R20, R22, R295). -/

/-- The data side with the descriptor of ring n written: its slots are empty, its claim gone, its pointers as written. -/
def DataSide.writeRing (d : DataSide) (n : Nat) (v : Word) : DataSide :=
  { d with rings := tput d.rings n (setBits v 1 5 0), slots := d.slots.filter (fun e => e.1 / 256 != n), claims := tdel d.claims n }

/-- RDESC_WRITE: task t of the job on core c stores to the descriptor of ring n (R22, R295). -/
def execRdescWrite (c t n : Nat) (v : Word) (s : State) : Out :=
  .next (if t = 0 && (s.core c).data.allHeld && decide (n < 32) && (s.core c).job.isSome then s.modData c fun d => d.writeRing n v else s)

/-! Barrier configuration (R39, R41). -/

/-- The configuration of a barrier is set. -/
def State.configBarrier (s : State) (b : BarId) (v : Word) : State :=
  { s with barriers := tmod {} s.barriers (barKey b) fun x => { x with parties := bits v 44 20, bytes := bits v 0 43 } }

/-- The queued store of task t of core c to the configuration word of a barrier, next to be performed. -/
def State.configStore (s : State) (c t : Nat) (b : BarId) : Option Access :=
  let k := s.core c
  firstWhere (fun a => a.party == t && a.kind == .store && a.stage == .queued && a.space == .device && barAt a.pa == some (b, 0) && k.mayPerform a) k.accs

/-- Access a of frozen core c is for a panel barrier, which lies in the Cobin layer: it does not leave before T (R39, R481, R493). -/
def State.layerHeld (s : State) (c : Nat) (a : Access) : Bool :=
  s.isFrozen c && match barAt a.pa with
    | some (.panel _, _) => true
    | _ => false

/-- BARRIER_CONFIG_WRITE: task t of core c stores to a barrier's configuration word. A barrier that is not the weave's is
BARRIER_ACCESS; where a task waits on it BARRIER_CONFIG (R39, R41). -/
def execBarrierConfigWrite (b : BarId) (c t : Nat) (v : Word) (s : State) : Out :=
  match s.configStore c t b with
  | some a =>
    if s.layerHeld c a then .next s
    else if !s.barAllocated c b then .next (s.accessFault c a 13)
    else if s.barWaited b then .next (s.accessFault c a 14)
    else .next (((s.before_ c a).configBarrier b v).endAccess c a.id)
  | none => .next (if s.barWaited b then s else s.configBarrier b v)

/-! The memory-error block (R151). -/

/-- The line that entry n of die d's error-address table holds. -/
def State.errEntry (s : State) (d n : Nat) : Option Nat := tfind (tget {} s.memerr d).table n

/-- Every cached copy of a line goes, dirty bytes included: its accesses find the data held in HBM (R151). -/
def State.forgetLine (s : State) (line : Nat) : State :=
  let s1 := (span (4 * line) 4).foldl (fun s k => s.homeDrop k) (s.removeTracked line none)
  { s1 with cores := s1.cores.map fun e => (e.1, { e.2 with l1 := tdel e.2.l1 line }) }

/-- A write of 0 to the valid word of entry n clears it, and the line's accesses proceed on the data held in HBM (R151); any other value changes
nothing (assumption 104). -/
def State.clearEntry (s : State) (d n : Nat) (v : Word) : State :=
  if v ≠ 0#64 then s
  else match s.errEntry d n with
    | none => s
    | some a => { s with memerr := tmod {} s.memerr d fun m => { m with table := tdel m.table n } }.forgetLine (a / 128)

/-- ERROR_ENTRY_CLEAR: the host writes the valid word of entry n of die d; in RECOVERY it does not answer (R151, R507). -/
def execErrorEntryClear (d n : Nat) (v : Word) (s : State) : Out := .next (if s.hostUp (d / 2) then s.clearEntry d n v else s)

/-! The halt block's registers (R498). -/

/-- A write to HCMD: it clears DONE and starts the operation on HTGT and HARG as they stand; while one is under way, or for a reserved operation, it is ignored and
counted. -/
def HBlock.command (b : HBlock) (now : Nat) (v : Word) : HBlock :=
  if bits b.hres2 63 1 = 0 ∨ v.toNat = 0 ∨ 6 < v.toNat then { b with hlstat := countUp b.hlstat 0 16 1 }
  else { b with cmd := some v.toNat, tgt := b.htgt, arg := b.harg, at_ := now, hres2 := 0#64 }

/-- The word of a halt block. -/
def HBlock.read (b : HBlock) (w : Nat) : Option Word :=
  match w with
  | 0 => some b.htgt
  | 1 => some b.harg
  | 3 => some b.hres
  | 4 => some b.hres2
  | 5 => some b.hlstat
  | _ => none

/-- A word of a halt block written. -/
def HBlock.write (b : HBlock) (now w : Nat) (v : Word) : HBlock :=
  match w with
  | 0 => { b with htgt := v }
  | 1 => { b with harg := v }
  | 2 => b.command now v
  | 5 => { b with hlstat := v }
  | _ => b

/-! Reads. -/

/-- A word of the log control (R125, R150). -/
def RemoteLog.read (l : RemoteLog) (w : Nat) : Option Word :=
  match w with
  | 0 => some (word l.base)
  | 1 => some (word l.head)
  | 2 => some (word l.tail)
  | 5 => some (word l.wctl)
  | _ => none

/-- What a load of a device register reads; none for a reserved or write-only word (R112). The address word of an entry that is not valid reads 0
(DESIGN CHOICE, assumption 121). -/
def State.devRead (s : State) (pa : Nat) : Option Word :=
  match devAt pa with
  | none => none
  | some r => match r with
    | .barrier b w => some (if w = 0 then (s.barrier b).config else (s.barrier b).status)
    | .event c n =>
      let e : EvSlot := tget {} (s.core c).events n
      some (word (2 ^ 16 * bit e.ovf + e.count))
    | .window d i => some (tget 0#64 s.windows (4096 * d + i))
    | .log p w => (tget {} s.logs p : RemoteLog).read w
    | .errCount d => some (tget {} s.memerr d : MemErr).counts
    | .errAddr d n => some (word ((s.errEntry d n).getD 0))
    | .errValid d n => some (word (bit (s.errEntry d n).isSome))
    | .notify _ _ => none
    | .slotStat d n => some (s.slotWord d n)
    | .savePool d => some (s.disp d).savepool
    | .saveCnt d => some (s.disp d).savecnt
    | .dstat d => some (s.disp d).dstat
    | .tracker d n w => some (if w = 0 then s.trkWord0 d n else s.trkWord1 d n)
    | .trkStat d => some (s.trkUnit d).stat
    | .vstat c => some (s.core c).vstat
    | .mstat c => some (s.core c).mstat
    | .rdesc c n => some (tget 0#64 (s.core c).data.rings n)
    | .claim c n => some (word (tget 0 (s.core c).data.claims n))
    | .nmuStat n => some (s.nmu n).stat
    | .twStat k => some (s.twWord k)
    | .neStat d => some (s.net d).stat
    | .smCancel _ => none
    | .smStat d => some (s.smp d).stat
    | .halt d w => (tget {} s.hblocks d : HBlock).read w

/-! Writes. -/

/-- A word of the log control written. -/
def State.writeLog (s : State) (p w : Nat) (v : Word) : State :=
  match w with
  | 0 => { s with logs := tmod {} s.logs p fun l => { l with base := v.toNat } }
  | 2 => { s with logs := tmod {} s.logs p fun l => { l with tail := v.toNat } }
  | 3 => s.acknowledgeLog p v 0
  | 4 => s.acknowledgeLog p v 16
  | 5 => { s with logs := tmod {} s.logs p fun l => { l with wctl := bits v 0 8 } }
  | _ => s

/-- The state that a step leaves, for a step that cannot stop. -/
def after (r : Out) (s : State) : State :=
  match r with
  | .next t => t
  | _ => s

/-- A store to a device register, with what it does; read-only words stay (R112). -/
def State.devWrite (s : State) (pa : Nat) (v : Word) : State :=
  match devAt pa with
  | none => s
  | some r => match r with
    | .barrier b w => if w = 0 ∧ s.barWaited b = false then s.configBarrier b v else s
    | .event _ _ => s
    | .window d i => { s with windows := tput s.windows (4096 * d + i) (setBits (setBits v 41 7 0) 0 6 0) }
    | .log p w => s.writeLog p w v
    | .errCount d => { s with memerr := tmod {} s.memerr d fun m => { m with counts := v } }
    | .errAddr _ _ => s
    | .errValid d n => s.clearEntry d n v
    | .notify d n => s.notify d n v
    | .slotStat _ _ => s
    | .savePool d => s.setSavepool d false v
    | .saveCnt d => s.setSavepool d true v
    | .dstat d => s.modDisp d fun x => { x with dstat := v }
    | .tracker _ _ _ => s
    | .trkStat d => { s with trk := tmod {} s.trk d fun u => { u with stat := v } }
    | .vstat c => s.modCore c fun k => { k with vstat := v }
    | .mstat c => s.modCore c fun k => { k with mstat := v }
    | .rdesc c n => s.modData c fun d => d.writeRing n v
    | .claim _ _ => s
    | .nmuStat n => s.modNmu n fun u => { u with stat := v }
    | .twStat k => { s with twstat := tput s.twstat k (setBits v 16 16 0) }
    | .neStat d => s.modNet d fun n => { n with stat := v }
    | .smCancel d => s.writeCancel d v
    | .smStat d => s.modSmp d fun x => { x with stat := v }
    | .halt d w => { s with hblocks := tmod {} s.hblocks d fun b => b.write s.time w v }

/-! Queued accesses to device registers. -/

/-- The word of a store. -/
def Access.value (a : Access) : Word := BitVec.ofNat 64 (numBytes (a.data.map Prod.snd))

/-- The word of a barrier whose unit is still to end the present cycle with a flip: no read stands between its arrivals and its flip (R40). -/
def State.flipAhead (s : State) (pa : Nat) : Bool :=
  match barAt pa with
  | some (b, _) => s.flipDue b
  | none => false

/-- A device-register access of core c is performed (R112); a barrier that is no longer the weave's is BARRIER_ACCESS (R39), and a store that
the register takes no more, as a ring descriptor's whose strands run, is DEVICE_REG (R20, R295). -/
def State.performDevice (s : State) (c : Nat) (x : Access) : State :=
  let a := x.atDevice
  if a.stage != .queued || !(s.core c).mayPerform a || s.layerHeld c a then s
  else if !s.barrierOk c a.pa then s.accessFault c a 13
  else if a.kind == .store && !s.devAccepts c a.party a.pa a.n true then s.accessFault c a 8
  else
    let s1 := s.before_ c a
    match a.kind with
    | .store =>
      match barAt a.pa with
      | some (b, 0) => after (execBarrierConfigWrite b c a.party a.value s) s
      | _ => ((s1.devWrite a.pa a.value).endAccess c a.id).after_ c a
    | _ =>
      if s.flipAhead a.pa then s
      else match s.devRead a.pa with
        | some v => (s1.fix c a (bytesOfNum 8 v.toNat)).after_ c a
        | none => s.accessFault c a 8

/-- A store from another party reaches a device register; none where the reconfigured barrier has a waiter (R41). -/
def State.deviceStore (s : State) (pa : Nat) (v : Word) : Option State :=
  match barAt pa with
  | some (b, 0) => if s.barWaited b then none else some (s.configBarrier b v)
  | _ => some (s.devWrite pa v)

/-- Entry id of the emits of context h of die d is sent (R459): the length word of a record may lie in device space (R441), which it then
reaches as a store of the core that started the run does; one that the register does not take ends the run with REMOTE_ACCESS
(assumption 100). -/
def State.sendRunEmit (s : State) (d h id : Nat) : State :=
  match s.smCtx d h with
  | none => s
  | some x =>
    match firstWhere (fun e => e.id == id && e.kind == .store && inDev e.pa) x.out with
    | none => s.sendEmit d h id
    | some e =>
      if e.logged || decide (s.time < e.resendAt) || !emitReady x.out id then s
      else s.emitStore d h x e fun s =>
        match (if s.devAccepts e.core 0 e.pa 8 true && s.barrierOk e.core e.pa then s.deviceStore e.pa (word (numBytes e.data)) else none) with
        | some s1 => s1.dropEmit d h id
        | none => s.emitFailed d h e

/-! Requests over the fabric at their targets (R122 to R125, R376). -/

/-- A request for a device register that passed is performed. -/
def State.performFabricDevice (s : State) (c : Nat) (a : Access) : State :=
  if !s.barrierOk c a.pa then s.failReply c a.id 13
  else if a.kind == .store && !s.devAccepts c a.party a.pa a.n true then s.failReply c a.id 8
  else match a.kind with
    | .store =>
      match s.deviceStore a.pa a.value with
      | some s1 => s1.fix c a []
      | none => s.failReply c a.id 14
    | _ =>
      if s.flipAhead a.pa then s
      else match s.devRead a.pa with
        | some v => s.fix c a (bytesOfNum 8 v.toNat)
        | none => s.failReply c a.id 8

/-- The kinds of request that the window table of their target checks. -/
def AKind.request (k : AKind) : Bool :=
  match k with
  | .load => true
  | .store => true
  | .atom _ => true
  | _ => false

/-- FABRIC_REQUEST_ARRIVAL: request id of core c reaches its target and is checked; it is performed, refused, or logged (R122 to
R125, R376); ecc is the error its read meets. -/
def execFabricRequestArrival (c id ecc : Nat) (s : State) : Out :=
  let k := s.core c
  match k.access id with
  | none => .next s
  | some a =>
    if a.space != .fabric || a.stage != .sent || !a.kind.request || !k.mayArrive a then .next s
    else match s.verdict c a with
      | .refused => .next (s.refuse c a)
      | .logged cause => .next (s.logStore c a cause)
      | .pass => .next (if inDev a.pa then s.performFabricDevice c a else s.performFabric c a ecc)

end Sys2Proof.Machine
end

