-- ==== Sys2Proof/Machine/Launch.lean ====
section
/-! DEFINITION. Launch records and their checks (R9, R116, R162, R163), the choice of cores (R164, R165), and the start of the
jobs of a weave (R11, R13, R167). -/

namespace Sys2Proof.Machine

/-! Launch records (R162). -/

/-- n bytes of a record from byte i. -/
def recNum (bs : List Byte) (i n : Nat) : Nat := numBytes ((bs.drop i).take n)

/-- A level word: COUNT, DOMAIN, SCOPE. -/
def levelOf (w : Nat) : Nat × Nat × Nat := (fld w 0 16, fld w 16 3, fld w 19 3)

/-- A byte or a bit of the record that is to be 0 is not. -/
def recReserved (bs : List Byte) : Bool :=
  let n := recNum bs 2 1
  fld (recNum bs 1 1) 6 2 != 0 || fld (recNum bs 3 1) 4 4 != 0 || fld (recNum bs 4 1) 4 4 != 0 || fld (recNum bs 5 1) 1 7 != 0
  || recNum bs 6 2 != 0 || (span 0 8).any (fun i => fld (recNum bs (64 + 8 * i) 8) 22 42 != 0 || (decide (n ≤ i) && recNum bs (64 + 8 * i) 8 != 0))
  || recNum bs 130 2 != 0 || recNum bs 156 100 != 0

/-- The launch record of 256 bytes. -/
def recordOf (bs : List Byte) : LaunchRec :=
  { version := recNum bs 0 1, strands := fld (recNum bs 1 1) 0 3, modes := fld (recNum bs 1 1) 3 3, nlev := recNum bs 2 1,
    share := fld (recNum bs 3 1) 0 3, fuse := fld (recNum bs 3 1) 3 1 == 1, fmt := fld (recNum bs 4 1) 0 4, debug := fld (recNum bs 5 1) 0 1 == 1,
    cstart := recNum bs 8 8, vstart := recNum bs 16 8, mstart := recNum bs 24 8, pstart := recNum bs 32 8, mapimg := recNum bs 40 8,
    tbase := recNum bs 48 8, srseed := recNum bs 56 8, levels := (span 0 (min 8 (recNum bs 2 1))).map fun i => levelOf (recNum bs (64 + 8 * i) 8),
    bcore := recNum bs 128 2, bars := (span 0 4).map fun i => (recNum bs (132 + 4 * i) 2, recNum bs (134 + 4 * i) 2), arg := recNum bs 148 8,
    reserved := recReserved bs }

/-- The start of data strand e: 1 vector, 2 matrix, 3 copy. -/
def LaunchRec.start (r : LaunchRec) (e : Nat) : Nat :=
  match e with
  | 1 => r.vstart
  | 2 => r.mstart
  | _ => r.pstart

/-- Strand e is named (R13). -/
def LaunchRec.names (r : LaunchRec) (e : Nat) : Bool := r.strands.testBit (e - 1)

/-- The record fails the first check of R163. -/
def LaunchRec.invalid (r : LaunchRec) : Bool :=
  r.version != 1 || r.reserved || r.nlev == 0 || decide (8 < r.nlev) || decide (4 < r.share)
  || [1, 2, 3].any (fun e => !r.names e && (r.start e != 0 || r.modes.testBit (e - 1)))
  || (r.modes != 0 && r.modes != r.strands) || r.mapimg % 4096 != 0

/-! The level tree (R8, R9). -/

/-- The cores of one instance of a domain, the instances on the panel, and the narrowest scope of a level bound to it. -/
def domCores (d : Nat) : Nat := [8192, 1024, 128, 64, 8, 1].getD d 1
def domCount (d : Nat) : Nat := [1, 8, 64, 128, 1024, 8192].getD d 0
def domScope (d : Nat) : Nat := [5, 5, 4, 3, 2, 1].getD d 7

/-- A level's own fields. -/
def levelFields (l : Nat × Nat × Nat) : Bool :=
  decide (1 ≤ l.1) && decide (l.2.1 ≤ 5) && decide (l.2.2 ≤ 6) && decide (domScope l.2.1 ≤ l.2.2)

/-- The levels below a parent of domain d, whose instances or groups hold size cores. -/
def levelsBelow (d size : Nat) : List (Nat × Nat × Nat) → Bool
  | [] => true
  | (c, d', sc) :: t =>
    levelFields (c, d', sc) && decide (d ≤ d')
    && (if d' = d then decide (c ≤ size) && c == 2 ^ c.log2 && levelsBelow d (size / c) t
        else decide (c ≤ size / domCores d') && levelsBelow d' (domCores d') t)

/-- The tree meets R9. -/
def treeOk (ls : List (Nat × Nat × Nat)) : Bool :=
  match ls with
  | [] => false
  | (c, d, sc) :: t =>
    levelFields (c, d, sc) && decide (c ≤ domCount d) && levelsBelow d (domCores d) t
    && ((ls.filter fun l => l.2.1 == 5).length == 1) && (match ls.getLast? with | some l => l.2.1 == 5 | none => false)
    && decide (ls.foldl (fun n l => n * l.1) 1 ≤ c * domCores d)

/-! The choice of cores (R164). A group of cores is a run of them: its first and its length. -/

/-- The first cores of the whole instances of size z in a group. -/
def groupStarts (lo n z : Nat) : List Nat :=
  let a := (lo + z - 1) / z
  (span a ((lo + n) / z - a)).map fun i => i * z

/-- The starts counted from the instance that holds core base, upward and around. -/
def rotated (base z : Nat) (xs : List Nat) : List Nat :=
  let b := base / z * z
  xs.filter (fun x => decide (b ≤ x)) ++ xs.filter (fun x => decide (x < b))

/-- The first r starts that can hold a subtree, with the jobs of each; the instances are numbered from j. -/
def fillLevel (sub : Nat → Option (List (Nat × List Nat))) : List Nat → Nat → Nat → Option (List (Nat × List Nat))
  | _, _, 0 => some []
  | [], _, _ + 1 => none
  | a :: t, j, r + 1 =>
    match sub a with
    | some l => (fillLevel sub t (j + 1) r).map fun m => l.map (fun x => (x.1, j :: x.2)) ++ m
    | none => fillLevel sub t j (r + 1)

/-- The groups of a split, all of which hold their subtrees. -/
def splitLevel (sub : Nat → Option (List (Nat × List Nat))) : List Nat → Nat → Option (List (Nat × List Nat))
  | [], _ => some []
  | a :: t, j =>
    match sub a, splitLevel sub t (j + 1) with
    | some l, some m => some (l.map (fun x => (x.1, j :: x.2)) ++ m)
    | _, _ => none

/-- The cores of the jobs of a tree in a group of n cores from lo, with their indices at each level. free says which cores are
free, base is the first core of the owner's die, parent the domain of the level above. -/
def placeTree (free : Nat → Bool) (base : Nat) : List (Nat × Nat × Nat) → Option Nat → Nat → Nat → Option (List (Nat × List Nat))
  | [], _, lo, _ => if free lo then some [(lo, [])] else none
  | (c, d, _) :: rest, parent, lo, n =>
    if parent = some d then
      let z := n / c
      splitLevel (fun a => placeTree free base rest (some d) a z) ((span 0 c).map fun i => lo + i * z) 0
    else
      let z := domCores d
      let xs := groupStarts lo n z
      fillLevel (fun a => placeTree free base rest (some d) a z) (if parent.isSome && d == 5 then xs else rotated base z xs) 0 c

/-- The cores that a tree takes, for the owner die d. -/
def planFor (free : Nat → Bool) (d : Nat) (ls : List (Nat × Nat × Nat)) : Option (List (Nat × List Nat)) :=
  placeTree free (64 * d) ls none 0 8192

/-- Every cluster of the plan has a job on each of its cores (R165). -/
def clustersFull (plan : List (Nat × List Nat)) : Bool :=
  plan.all fun x => (span (x.1 / 8 * 8) 8).all fun c => plan.any fun y => y.1 == c

/-! The checks of R163. -/

/-- A barrier range is refused: it passes the domain's count, or is given for a domain wider than the root's. -/
def barRangeBad (root dom limit : Nat) (r : Nat × Nat) : Bool :=
  decide (limit < r.1 + r.2) || (decide (dom < root) && (r.1 != 0 || r.2 != 0))

/-- The barrier ranges fail. -/
def LaunchRec.barsBad (r : LaunchRec) : Bool :=
  let root := match r.levels with | l :: _ => l.2.1 | [] => 5
  let b (i : Nat) : Nat × Nat := r.bars.getD i (0, 0)
  barRangeBad root 4 64 (b 0) || barRangeBad root 3 256 (b 1) || barRangeBad root 2 256 (b 2) || barRangeBad root 0 1024 (b 3)

/-- The valid records of a map image, by entry. -/
def imageRecords (bs : List Byte) : Tbl Nat :=
  (span 0 256).filterMap fun i =>
    let x := recNum bs (16 * i) 16
    if fld x 9 1 = 1 then some (i, x) else none

/-- Two entries have an address in common. -/
def SegEnt.overlaps (a b : SegEnt) : Bool := decide (a.vbase < b.vbase + 2 ^ b.size) && decide (b.vbase < a.vbase + 2 ^ a.size)

/-- No two of the records overlap. -/
def noOverlap : Tbl Nat → Bool
  | [] => true
  | (_, x) :: t => t.all (fun e => !(segOfNum x).overlaps (segOfNum e.2)) && noOverlap t

/-- The map image passes R116. -/
def imageOk (xs : Tbl Nat) : Bool := xs.all (fun e => segRecordOk e.2) && noOverlap xs

/-- The status of a record at its checks, in the order of R163: 0 where it passes. -/
def State.checkRecord (s : State) (d : Nat) (r : LaunchRec) : Nat :=
  if r.invalid then 1
  else if !treeOk r.levels then 2
  else if r.cstart % 4 ≠ 0 ∨ r.vstart % 8 ≠ 0 ∨ r.mstart % 8 ≠ 0 ∨ r.pstart % 8 ≠ 0 then 3
  else if r.barsBad then 6
  else if r.fuse && !(match planFor (fun _ => true) d r.levels with | some p => clustersFull p | none => false) then 5
  else if !imageOk (imageRecords (s.homeBytes r.mapimg 4096)) then 4
  else 0

/-- Weave w reads its launch record and its map image: the state and the status, FAULT for a line of the error-address table (R136):
DEDUCED. -/
def State.readRecord (s : State) (w : Weave) : Nat × Weave :=
  if w.recAddr % 256 ≠ 0 ∨ inHbm w.recAddr = false then (1, w)
  else
    let r := recordOf (s.homeBytes w.recAddr 256)
    let lost (a n : Nat) : Bool := (span (a / 128) (n / 128)).any s.errorLine
    let st := if lost w.recAddr 256 then 11 else match s.checkRecord w.die r with
      | 4 => if lost r.mapimg 4096 then 11 else 4
      | 0 => if lost r.mapimg 4096 then 11 else 0
      | n => n
    (st, { w with lrec := r, checked := true,
                                     map := (imageRecords (s.homeBytes r.mapimg 4096)).map fun e => (e.1, segOfNum e.2) })

/-! What a weave needs (R164, R166, R169, R474). -/

/-- The package is in service. -/
def State.pkgUp (s : State) (p : Nat) : Bool := (tget {} s.pkgs p : Pkg).boot == .ready && !s.lost.testBit p

/-- A waiting weave other than w has reserved core c (R166). -/
def State.coreReserved (s : State) (w c : Nat) : Bool :=
  s.weaves.any fun x => x.1 != w && x.2.st == .waiting && x.2.granted.contains (dieOf c) && x.2.plan.any fun j => j.1 == c

/-- Core c is free for weave w. -/
def State.coreFree (s : State) (w c : Nat) : Bool := (s.core c).job.isNone && s.pkgUp (pkgOf c) && !s.coreReserved w c

/-- Two ranges have a number in common. -/
def rangesMeet (a b : Nat × Nat) : Bool := decide (0 < a.2) && decide (0 < b.2) && decide (a.1 < b.1 + b.2) && decide (b.1 < a.1 + a.2)

/-- The instance of domain i that holds a core: 0 cluster, 1 die, 2 package, 3 panel. -/
def instanceOf (i c : Nat) : Nat := c / [8, 64, 128, 8192].getD i 1

/-- Jobs on the cores xs and ys ask for a barrier in common. -/
def barsMeet (a b : LaunchRec) (xs ys : List Nat) : Bool :=
  (span 0 4).any fun i => rangesMeet (a.bars.getD i (0, 0)) (b.bars.getD i (0, 0))
    && xs.any fun x => ys.any fun y => instanceOf i x == instanceOf i y

/-- The cores whose barriers a weave holds or has reserved. -/
def Weave.places (w : Weave) : List Nat :=
  if w.st == .waiting then (w.plan.filter fun j => w.granted.contains (dieOf j.1)).map fun j => j.1 else w.jobs.map fun j => j.1

/-- The barriers that weave w needs on its cores are free. -/
def State.barsFree (s : State) (w : Weave) (cores : List Nat) : Bool :=
  s.weaves.all fun x => x.1 == w.id || !barsMeet w.lrec x.2.lrec cores x.2.places

/-- A free halt slot (R474). -/
def State.freeHaltSlot (s : State) : Option Nat := firstWhere (fun h => (tget {} s.hslots h : HSlot).weave.isNone) (span 0 16)

/-- The jobs' cores that weave w can take with the cores free that free names, if it fits. -/
def State.planWith (s : State) (w : Weave) (free : Nat → Bool) : Option (List (Nat × List Nat)) :=
  match planFor free w.die w.lrec.levels with
  | none => none
  | some p => if s.barsFree w (p.map fun j => j.1) && (!w.lrec.debug || s.freeHaltSlot.isSome) then some p else none

/-- The cores that weave w can take now. -/
def State.planOf (s : State) (w : Weave) : Option (List (Nat × List Nat)) := s.planWith w (s.coreFree w.id)

/-! Starting jobs (R167). -/

/-- The L1 of core c writes back its dirty bytes and drops its lines: what was cached for an earlier job is not seen. -/
def State.flushL1 (s : State) (c : Nat) : State :=
  (((s.core c).l1.map fun e => e.1).foldl (fun s l => s.writeBack c l) s).modCore c fun k => { k with l1 := [] }

/-- The level registers of a job: its index at each level. -/
def lvidOf : Nat → List (Nat × Nat × Nat) → List Nat → Tbl Lvid
  | n, (c, d, sc) :: t, i :: ix => (n, { scope := sc, valid := true, domain := d, count := c, index := i }) :: lvidOf (n + 1) t ix
  | _, _, _ => []

/-- A strand at job start: held at its start where it is named (R13); its address registers are 0 (R230, R264, R308). -/
def startStrand (r : LaunchRec) (e : Nat) : Strand := { named := r.names e, held := r.names e, pc := r.start e }

/-- The data side at job start; wipe says that the previous job was of another context (R167). Mask and scale registers are 0 (R264,
R298). -/
def startData (r : LaunchRec) (wipe : Bool) (d : DataSide) : DataSide :=
  { vec := startStrand r 1, mat := startStrand r 2, cpy := startStrand r 3, timed := r.modes == 0,
    v := if wipe then [] else d.v, acc := if wipe then [] else d.acc }

/-- Task 0 at job start. -/
def startTask (r : LaunchRec) : Task := { st := .ready, regs := if r.arg = 0 then [] else [(1, word r.arg)], pc := word r.cstart }

/-- The breakpoints of a weave's halt slot (R490). -/
def State.slotBps (s : State) (h : Option Nat) : Tbl (Nat × Nat) :=
  match h with
  | some h => (tget {} s.hslots h : HSlot).bps
  | none => []

/-- Core c as job j of weave w begins on it. -/
def startCore (w : Weave) (j c : Nat) (ix : List Nat) (bps : Tbl (Nat × Nat)) (k : Core) : Core :=
  let wipe := k.ctxno != w.ctx
  { tasks := [(0, startTask w.lrec)], srkey := word (w.lrec.srseed ^^^ c), lvid := lvidOf 0 w.lrec.levels ix, ctxno := w.ctx,
    job := some (w.id, j), data := startData w.lrec wipe k.data, scratch := if wipe then [] else k.scratch,
    opmem := if wipe then [] else k.opmem, share := w.lrec.share, fused := w.lrec.fuse, seg := w.map, bps, logSeq := k.logSeq }

/-- The barriers of the keys are set to 0. -/
def State.clearBarriers (s : State) (keys : List Nat) : State := { s with barriers := s.barriers.filter fun e => !keys.contains e.1 }

/-- The keys of the core barriers that job j of a weave takes on core c. -/
def coreBarKeys (r : LaunchRec) (c : Nat) : List Nat := (span 0 16).filterMap fun n => if r.bcore.testBit n then some (barKey (.core c n)) else none

/-- The keys of the wider barriers that a weave takes on its cores. -/
def wideBarKeys (r : LaunchRec) (cores : List Nat) : List Nat :=
  let each (i : Nat) (key : Nat → Nat → Nat) : List Nat :=
    let b := r.bars.getD i (0, 0)
    if b.2 = 0 then [] else ((cores.map fun c => instanceOf i c).eraseDups).flatMap fun u => (span b.1 b.2).map fun n => key u n
  each 0 (fun u n => barKey (.cluster u n)) ++ each 1 (fun d n => barKey (.die d n)) ++ each 2 (fun p n => barKey (.package p n))
    ++ each 3 (fun _ n => barKey (.panel n))

/-- Job j of weave w starts on core c. -/
def State.startJob (s : State) (w : Weave) (j c : Nat) (ix : List Nat) : State :=
  let s1 := (s.flushL1 c).clearBarriers (coreBarKeys w.lrec c)
  s1.modCore c (startCore w j c ix (s1.slotBps w.hslot))

/-- The packet of a weave has started (R159). -/
def State.startPacket (s : State) (o : Origin) (d : Nat) : State :=
  match o with
  | .packet id => s.modDisp d fun x => { x with pkts := modFirst (fun p => p.id == id) (fun p => if p.st == .waiting then { p with st := .started } else p) x.pkts }
  | .node _ _ => s

/-- The halt slot that a weave with DEBUG = 1 takes (R474). -/
def State.takeHaltSlot (s : State) (w : Weave) : Option Nat × State :=
  if w.lrec.debug then
    match s.freeHaltSlot with
    | some h => (some h, { s with hslots := tput s.hslots h { weave := some w.id, ctx := w.ctx } })
    | none => (none, s)
  else (none, s)

/-- The jobs of a weave start, numbered from j. -/
def State.startJobs (s : State) (w : Weave) : Nat → List (Nat × List Nat) → State
  | _, [] => s
  | j, (c, ix) :: t => State.startJobs (s.startJob w j c ix) w (j + 1) t

/-- The weaves whose cores weave w has taken at the end of their quantum wait for it no more. -/
def yielded (ws : Tbl Weave) (w : Nat) : Tbl Weave := ws.map fun e => if e.2.yields == some w then (e.1, { e.2 with yields := none }) else e

/-- Weave w is placed on the cores of a plan: all its jobs start together (R12, R167). -/
def State.placeWeave (s : State) (w : Weave) (plan : List (Nat × List Nat)) : State :=
  let h := s.takeHaltSlot w
  let x := { w with st := .resident, jobs := plan, hslot := h.1, placedSeq := h.2.nextId, quantum := 0, plan := [], asked := [], granted := [],
                    declined := false, passed := false, first := false }
  let s1 := { h.2.fresh with weaves := tput (yielded h.2.weaves w.id) w.id x }.clearBarriers (wideBarKeys x.lrec (plan.map fun (j : Nat × List Nat) => j.1))
  (State.startJobs s1 x 0 plan).startPacket x.origin x.die

end Sys2Proof.Machine
end

