-- ==== Sys2Proof/Machine/Packets.lean ====
section
/-! DEFINITION. The packets of queues and launch lanes (R153, R158 to R160), the queue slots' mapping (R155, R156, R183), and
task graphs (R170 to R174). -/

namespace Sys2Proof.Machine

/-! The fields of a packet (R158). -/

/-- The kinds of packet: 1 LAUNCH, 2 GRAPH, 3 MARKER. -/
def pktType (bs : List Byte) : Nat := recNum bs 0 1

/-- Kind, address and value of dependence i, and bits [59:48] of its address word. -/
def pktDep (bs : List Byte) (i : Nat) : Nat × Nat × Nat × Nat :=
  let a := recNum bs (16 + 16 * i) 8
  (fld a 60 4, fld a 0 48, recNum bs (24 + 16 * i) 8, fld a 48 12)

/-- The number of dependences. -/
def pktNdep (bs : List Byte) : Nat := recNum bs 2 1

def pktCpl (bs : List Byte) : Nat := recNum bs 80 8
def pktEvt (bs : List Byte) : Nat := recNum bs 88 8

/-- A dependence is refused. -/
def depBad (bs : List Byte) (i : Nat) : Bool :=
  let d := pktDep bs i
  d.1 == 0 || decide (3 < d.1) || d.2.1 % 8 != 0 || d.2.2.2 != 0

/-- The packet fails R158. A field that its type leaves 0 (START, NNODES, RECORD) and that is not 0 counts as reserved (DEDUCED, assumption
122). -/
def packetBad (bs : List Byte) : Bool :=
  let ty := pktType bs
  ty == 0 || decide (3 < ty) || fld (recNum bs 1 1) 1 7 != 0 || decide (4 < pktNdep bs) || recNum bs 3 1 != 0
  || (ty != 2 && (recNum bs 4 2 != 0 || recNum bs 6 2 != 0)) || (ty == 3 && recNum bs 8 8 != 0)
  || (span 0 (min 4 (pktNdep bs))).any (depBad bs) || fld (pktEvt bs) 18 45 != 0 || recNum bs 96 32 != 0 || pktCpl bs % 16 != 0

/-- The packet is ORDERED. -/
def pktOrdered (bs : List Byte) : Bool := fld (recNum bs 1 1) 0 1 == 1

/-! Slots (R155, R156, R183). -/

/-- A descriptor fails R183: bs are its 64 bytes. -/
def descBad (bs : List Byte) : Bool :=
  let q := recNum bs 0 8
  let l := fld q 32 5
  fld q 40 8 == 0 || decide (l < 4) || decide (16 < l) || recNum bs 8 8 % (128 * 2 ^ l) != 0 || fld q 0 32 != 0
  || fld (recNum bs 16 8) 32 32 != 0 || fld (recNum bs 24 8) 32 31 != 0 || recNum bs 40 24 != 0

/-- A descriptor is mapped onto slot n of die d: the status and the state (R155, R183). -/
def State.mapSlot (s : State) (d n desc : Nat) : Nat × State :=
  let bs := s.homeBytes desc 64
  if (s.qslot d n).st ≠ .free then (1, s)
  else if descBad bs then (2, s)
  else
    let save := recNum bs 24 8
    let q : QSlot := { st := .mapped, desc, qcfg := word (recNum bs 0 8), qbase := recNum bs 8 8, tdaddr := recNum bs 32 8,
                       rdidx := recNum bs 16 4, wridx := fld save 0 32, lastLane := (s.qslot d n).lastLane }
    if save.testBit 63 then
      (0, (s.modSlot d n fun _ => q.notify (fld save 0 32)).homeWrite none (cellsFrom (desc + 0x18) (bytesOfNum 8 (fld save 0 32))))
    else (0, s.modSlot d n fun _ => q)

/-- A lane packet that the unmapping of its slot discards: it completes with DISCARDED (R156). -/
def discardPkt (q : QSlot) (d slot id : Nat) (raw : List Byte) : DPkt :=
  { id, die := d, slot, lane := true, idx := 0, desc := q.desc, qcfg := q.qcfg, tdaddr := q.tdaddr, raw, st := .completed, status := 14 }

/-- The discarded packets, numbered from id. -/
def discardAll (q : QSlot) (d slot : Nat) : Nat → List (List Byte) → List DPkt
  | _, [] => []
  | id, b :: t => discardPkt q d slot id b :: discardAll q d slot (id + 1) t

/-- Slot n of die d is unmapped: the value `qunmap` returns, and the state (R156, R183). -/
def State.unmapSlot (s : State) (d n : Nat) : Nat × State :=
  let q := s.qslot d n
  if q.st = .free then (1, s)
  else
    let k := q.lane.length
    let s1 := s.homeWrite none (cellsFrom (q.desc + 0x10) (bytesOfNum 8 q.rdidx ++ bytesOfNum 8 q.wridx))
    let s2 := s1.modDisp d fun x => { x with pkts := x.pkts ++ discardAll q d n s1.nextId q.lane }
    (2 ^ 8 * k, { (s2.modSlot d n fun _ => { unmapped := some (s.time, q.desc), lastLane := if q.lane.isEmpty then q.lastLane else none }) with nextId := s1.nextId + k })

/-! Taking packets (R153, R158, R159). -/

/-- The packet of the same queue or lane before the next one (R159), while it has not completed: of a queue the one of the index before
RDIDX, on whichever die its queue was mapped then; of a lane the one taken last. -/
def State.lastOf (s : State) (q : QSlot) (lane : Bool) : Option DPkt :=
  firstWhere (fun p => p.lane == lane && (if lane then some p.id == q.lastLane else p.desc == q.desc && (p.idx + 1) % 2 ^ 32 == q.rdidx))
    (s.disps.flatMap fun e => e.2.pkts)

/-- The packet before the next one of a slot's lane or queue has started. -/
def State.lastStarted (s : State) (d slot : Nat) (lane : Bool) : Bool :=
  match s.lastOf (s.qslot d slot) lane with
  | some p => p.st != .waiting
  | none => true

/-- The next packet of a slot's lane may be taken. -/
def State.laneReady (s : State) (d slot : Nat) : Bool :=
  (s.qslot d slot).st == .mapped && !(s.qslot d slot).lane.isEmpty && s.lastStarted d slot true

/-- The dispatcher may take the next packet of a slot's lane or queue; the lane is served before the queue (R168, R175). -/
def State.mayTake (s : State) (d slot : Nat) (lane : Bool) : Bool :=
  let q := s.qslot d slot
  if lane then s.laneReady d slot
  else q.st == .mapped && q.rdidx != q.wridx && s.lastStarted d slot false && !s.laneReady d slot

/-- A read of the dispatcher in HBM meets a lasting error: a clean copy at the home is dropped and the data read from below, which counts as
corrected; elsewhere it counts as lasting (R136, R151). Whether the read goes on, and the state. -/
def State.dispError (s : State) (a n : Nat) : Bool × State :=
  let ks := sectorsOf a n
  if ks.all s.cleanCopy then (true, (ks.foldl State.homeDrop s).countError (paDie a) 1) else (false, s.countError (paDie a) 3)

/-- The address of the next packet of a slot's queue. -/
def QSlot.next (q : QSlot) : Nat := q.qbase + 128 * (q.rdidx % 2 ^ q.log2)

/-- The next packet of a slot's lane or queue is taken; lost where its read faults. -/
def State.takePacket (s : State) (d slot : Nat) (lane lost : Bool) : Out :=
  let q := s.qslot d slot
  if !s.mayTake d slot lane then .next s
  else
    let raw := if lane then q.lane.headD [] else if lost then List.replicate 128 0#8 else s.homeBytes q.next 128
    let bad := lost || packetBad raw
    let p : DPkt :=
      { id := s.nextId, die := d, slot, lane, idx := if lane then 2 ^ 32 - 1 else q.rdidx, desc := q.desc, qcfg := q.qcfg, tdaddr := q.tdaddr,
        raw, met := (span 0 4).map fun i => decide (pktNdep raw ≤ i), prev := (s.lastOf q lane).map fun p => p.id,
        readBy := s.time + 1000, st := if bad then .completed else .waiting, status := if lost then 11 else if bad then 15 else 0 }
    let s1 := s.fresh.modDisp d fun x => { x with pkts := x.pkts ++ [p] }
    if lane then .next (s1.modSlot d slot fun q => { q with lane := q.lane.drop 1, lastLane := some p.id })
    else
      let i := (q.rdidx + 1) % 2 ^ 32
      .next ((s1.modSlot d slot fun q => { q with rdidx := i }).homeWrite none (cellsFrom (q.desc + 0x10) (bytesOfNum 8 i)))

/-- PACKET_TAKE: the next packet of a slot's lane or queue is read and checked; the descriptor's RDIDX follows (R153, R158). One in a line
of the error-address table ends with FAULT, as a read of the dispatcher that faults does (R136, R159): DEDUCED; it names no record. -/
def execPacketTake (d slot : Nat) (lane : Bool) (s : State) : Out :=
  s.takePacket d slot lane (!lane && s.errorLine ((s.qslot d slot).next / 128))

/-- The read of the next packet of a slot's queue meets a lasting error anew (R135, R136). -/
def State.takeError (s : State) (d slot : Nat) : Out :=
  if !s.mayTake d slot false then .next s
  else
    let r := s.dispError (s.qslot d slot).next 128
    r.2.takePacket d slot false (!r.1)

/-- The state with packet id of die d changed. -/
def State.modPkt (s : State) (d id : Nat) (f : DPkt → DPkt) : State :=
  s.modDisp d fun x => { x with pkts := modFirst (fun p => p.id == id) f x.pkts }

/-- Packet id of die d. -/
def State.pkt (s : State) (d id : Nat) : Option DPkt := firstWhere (fun p => p.id == id) (s.disp d).pkts

/-- A packet completes with a status and a detail; its record is written next (R160). -/
def State.finishPkt (s : State) (d id status detail : Nat) : State :=
  s.modPkt d id fun p => { p with st := .completed, status, detail }

/-- The word that the dispatcher reads at a panel-physical address; none where the read meets a fault (R112, R136, R159). -/
def State.dispRead (s : State) (a : Nat) : Option Nat :=
  if inHbm a then (if s.errorLine (a / 128) then none else some (s.homeNum a 8))
  else match devAt a with
    | some (.rdesc _ _) => none
    | some (.claim _ _) => none
    | _ => (s.devRead a).map fun v => v.toNat

/-- A dependence is met; none where its read faults. -/
def State.depMet (s : State) (k a v : Nat) : Option Bool :=
  (s.dispRead a).map fun x =>
    match k with
    | 1 => decide (v ≤ x)
    | 2 => fld x 63 1 == fld v 0 1
    | _ => decide (fld v 0 16 ≤ fld x 0 16)

/-- The unmet dependences from number i on are read again: what is met now, none where a read faults. -/
def State.recheck (s : State) (raw : List Byte) : Nat → List Bool → Option (List Bool)
  | _, [] => some []
  | i, true :: t => (State.recheck s raw (i + 1) t).map fun l => true :: l
  | i, false :: t =>
    let d := pktDep raw i
    match s.depMet d.1 d.2.1 d.2.2.1 with
    | none => none
    | some b => (State.recheck s raw (i + 1) t).map fun l => b :: l

/-- The weave of a LAUNCH packet, waiting for its placement. -/
def newWeave (p : DPkt) (id : Nat) (o : Origin) (rec : Nat) : Weave :=
  { id, die := p.die, slot := p.slot, lane := p.lane, idx := p.idx, ctx := bits p.qcfg 48 16, prio := bits p.qcfg 38 2, sys := bits p.qcfg 37 1 == 1,
    tdaddr := p.tdaddr, origin := o, recAddr := rec, arrival := id }

/-- A packet whose dependences are met goes on (R159): a MARKER starts and completes, a GRAPH starts with its first node, a LAUNCH
waits for placement. -/
def State.startOf (s : State) (p : DPkt) : State :=
  match pktType p.raw with
  | 1 => { s.fresh with weaves := tput s.weaves s.nextId (newWeave p s.nextId (.packet p.id) (recNum p.raw 8 8)) }
  | 2 =>
    let r : GRun := { id := s.nextId, pkt := p.id, die := p.die, slot := p.slot, lane := p.lane, idx := p.idx, qcfg := p.qcfg, tdaddr := p.tdaddr,
                      base := recNum p.raw 8 8, nnodes := recNum p.raw 6 2, insts := [{ id := 0, node := recNum p.raw 4 2 }], cnt := 1 }
    { s.fresh with runs := tput s.runs s.nextId r }.modPkt p.die p.id fun p => { p with st := .started }
  | _ => s.finishPkt p.die p.id 0 0

/-- The weave of a packet exists. -/
def State.launched (s : State) (id : Nat) : Bool := s.weaves.any fun w => w.2.origin == .packet id

/-- The previous packet of the same queue or lane has completed. -/
def State.prevDone (s : State) (p : DPkt) : Bool :=
  match p.prev with
  | some q => s.disps.all fun e => e.2.pkts.all fun x => x.id != q
  | none => true

/-- The unmet dependences of a waiting packet are read again. -/
def State.recheckPkt (s : State) (d id : Nat) (p : DPkt) : State :=
  match s.recheck p.raw 0 p.met with
  | none => s.finishPkt d id 11 0
  | some met =>
    let s1 := s.modPkt d id fun p => { p with met, readBy := s.time + 1000 }
    if met.all (fun b => b) && (!pktOrdered p.raw || s.prevDone p) then s1.startOf { p with met } else s1

/-- The addresses in HBM of the dependences that are not met. -/
def DPkt.unmet (p : DPkt) : List Nat :=
  ((span 0 4).filter fun i => !(p.met.getD i true) && inHbm (pktDep p.raw i).2.1).map fun i => (pktDep p.raw i).2.1

/-- DEPENDENCE_RECHECK: the unmet dependences of a waiting packet are read again; a read that faults completes it with FAULT, all
met start it (R159). err says that the first such read in HBM meets a lasting memory error (R136). -/
def execDependenceRecheck (d id : Nat) (err : Bool) (s : State) : Out :=
  match s.pkt d id with
  | none => .next s
  | some p =>
    if p.st != .waiting || s.launched id then .next s
    else match (if err then p.unmet.head? else none) with
      | some a =>
        let r := s.dispError a 8
        .next (if r.1 then r.2.recheckPkt d id p else r.2.finishPkt d id 11 0)
      | none => .next (s.recheckPkt d id p)

/-- The completion record of a packet: STATUS, then one more in DONE (R160). -/
def State.writeCompletion (s : State) (p : DPkt) : State :=
  let a := pktCpl p.raw
  if a = 0 ∨ a % 16 ≠ 0 then s
  else
    let s1 := s.homeWrite none (cellsFrom a (bytesOfNum 8 (2 ^ 16 * (p.detail % 2 ^ 32) + p.status)))
    s1.homeWrite none (cellsFrom (a + 8) (bytesOfNum 8 (s1.homeNum (a + 8) 8 + 1)))

/-- PACKET_COMPLETE: where CPLADDR is not 0 the record is written and the event signalled (R158, R160). -/
def execPacketComplete (d id : Nat) (s : State) : Out :=
  match s.pkt d id with
  | none => .next s
  | some p =>
    if p.st != .completed then .next s
    else
      let s1 := s.writeCompletion p
      let e := pktEvt p.raw
      let s2 := if pktCpl p.raw ≠ 0 ∧ e.testBit 63 = true then s1.post (evTarget e).1 (evTarget e).2 none (bits p.qcfg 48 16) none else s1
      .next (s2.modDisp d fun x => { x with pkts := dropFirst (fun p => p.id == id) x.pkts })

/-! Task graphs (R170 to R174). -/

/-- NEXT[j] of a node's 64 bytes. -/
def nodeNext (bs : List Byte) (j : Nat) : Nat := recNum bs (8 + 2 * j) 2

/-- A node record is refused (R170, R172). -/
def nodeBad (r : GRun) (node : Nat) (bs : List Byte) : Bool :=
  let k := recNum bs 0 1
  let nin := recNum bs 1 1
  let cond := recNum bs 24 8
  decide (r.nnodes ≤ node) || k == 0 || decide (5 < k) || (k == 5) != (nin != 0) || recNum bs 2 6 != 0 || recNum bs 40 24 != 0
  || cond % 8 != 0 || ((k == 1 || k == 5) && cond != 0) || (k != 1 && recNum bs 32 8 != 0)
  || (span 0 8).any fun j => nodeNext bs j != 0xFFFF && decide (r.nnodes ≤ nodeNext bs j)

/-- The nodes become ready, each as an instance of its own; 0xFFFF starts nothing. -/
def GRun.ready (r : GRun) : List Nat → GRun
  | [] => r
  | n :: t =>
    if n = 0xFFFF then GRun.ready r t
    else GRun.ready { r with insts := r.insts ++ [{ id := r.cnt, node := n }], cnt := r.cnt + 1 } t

/-- The instance is over. -/
def GRun.drop (r : GRun) (inst : Nat) : GRun := { r with insts := dropFirst (fun i => i.id == inst) r.insts }

/-- A run ends with a status: its packet completes, its weaves that are not placed are gone (R172). -/
def State.endRunWith (s : State) (r : GRun) (status detail : Nat) : State :=
  let mine (w : Weave) : Bool := match w.origin with
    | .node run _ => run == r.id && w.st == .waiting
    | .packet _ => false
  { s with runs := tdel s.runs r.id, weaves := s.weaves.filter fun w => !mine w.2 }.finishPkt r.die r.pkt status detail

/-- The run goes on as r; with no instance ready or active it ends with DONE (R172). -/
def State.setGraph (s : State) (r : GRun) : State :=
  if r.insts.isEmpty then s.endRunWith r 0 0 else { s with runs := tput s.runs r.id r }

/-- The successor that the condition word chooses: if and while by c ≠ 0, switch by its value (R171). -/
def chosen (k c : Nat) (bs : List Byte) : Nat :=
  if k = 4 then (if c < 7 ∧ nodeNext bs c ≠ 0xFFFF then nodeNext bs c else nodeNext bs 7)
  else nodeNext bs (if c ≠ 0 then 0 else 1)

/-- The weave of a weave node, waiting for its placement, of priority, context and slot of the run. -/
def graphWeave (r : GRun) (id inst rec : Nat) : Weave :=
  { id, die := r.die, slot := r.slot, lane := r.lane, idx := r.idx, ctx := bits r.qcfg 48 16, prio := bits r.qcfg 38 2, sys := bits r.qcfg 37 1 == 1,
    tdaddr := r.tdaddr, origin := .node r.id inst, recAddr := rec, arrival := id }

/-- A visit counts in GMISS where it misses the node cache, which the spec leaves open (R186). -/
def State.nodeMiss (s : State) (d : Nat) : State :=
  let v := s.open_
  v.2.modDisp d fun x => { x with dstat := countUp x.dstat 48 16 (v.1 % 2) }

/-- A ready instance i of run r acts by its kind (R171, R172). -/
def State.nodeActs (s : State) (r : GRun) (i : NodeInst) : Out :=
  let inst := i.id
  let s1 := s.nodeMiss r.die
  let bs := s.homeBytes (r.base + 64 * i.node) 64
  let k := recNum bs 0 1
  if s.errorLine ((r.base + 64 * i.node) / 128) then .next (s1.endRunWith r 11 0)
  else if nodeBad r i.node bs then .next (s1.endRunWith r 13 0)
  else match k with
    | 1 =>
      let r1 : GRun := { r with insts := modFirst (fun x => x.id == inst) (fun x => { x with st := .active, next := (span 0 8).map (nodeNext bs) }) r.insts }
      .next { s1.fresh with weaves := tput s1.weaves s1.nextId (graphWeave r s1.nextId inst (recNum bs 32 8)), runs := tput s1.runs r.id r1 }
    | 5 =>
      let n := tget 0 r.joins i.node + 1
      let r1 := r.drop inst
      if recNum bs 1 1 ≤ n then .next (s1.setGraph ({ r1 with joins := tput r1.joins i.node (n - recNum bs 1 1) }.ready [nodeNext bs 0]))
      else .next (s1.setGraph { r1 with joins := tput r1.joins i.node n })
    | _ =>
      match s.dispRead (recNum bs 24 8) with
      | none => .next (s1.endRunWith r 11 0)
      | some c => .next (s1.setGraph ((r.drop inst).ready [chosen k c bs]))

/-- Where the read of a node meets an error: its condition word in HBM, or the record of a node that reads none. -/
def errorPlace (at_ : Nat) (bs : List Byte) : Nat × Nat :=
  if recNum bs 0 1 ∈ [2, 3, 4] ∧ inHbm (recNum bs 24 8) then (recNum bs 24 8, 8) else (at_, 64)

/-- GRAPH_NODE_READY: a ready instance acts by its kind (R171, R172); err says that a read it makes meets a lasting error (R136). -/
def execGraphNodeReady (run inst : Nat) (err : Bool) (s : State) : Out :=
  match tfind s.runs run with
  | none => .next s
  | some r =>
    match firstWhere (fun i => i.id == inst && i.st == .ready) r.insts with
    | none => .next s
    | some i =>
      if !err then s.nodeActs r i
      else
        let at_ := r.base + 64 * i.node
        let p := errorPlace at_ (s.homeBytes at_ 64)
        let e := s.dispError p.1 p.2
        if e.1 then e.2.nodeActs r i else .next ((e.2.nodeMiss r.die).endRunWith r 11 0)

/-- A weave on die d has ended: every unmet dependence there is read again (R159). -/
def State.rereadAll (s : State) (d : Nat) : State :=
  s.modDisp d fun x => { x with pkts := x.pkts.map fun p => { p with readBy := s.time } }

/-- The unmet dependences of a packet are to be read again before panel time goes on (R159). -/
def State.rereadDue (s : State) (p : DPkt) : Bool :=
  p.st == .waiting && p.met.any (fun b => !b) && decide (p.readBy ≤ s.time) && !s.launched p.id

/-- A weave has ended with a status: its packet completes, or its graph run goes on (R160, R171, R172). -/
def State.originDone (s : State) (w : Weave) (status detail : Nat) : State :=
  match w.origin with
  | .packet id => s.finishPkt w.die id status detail
  | .node run inst =>
    match tfind s.runs run with
    | none => s
    | some r =>
      if status ≠ 0 then s.endRunWith r status detail
      else match firstWhere (fun i => i.id == inst) r.insts with
        | some i => s.setGraph ((r.drop inst).ready i.next)
        | none => s

end Sys2Proof.Machine
end

