-- ==== Sys2Proof/Machine/Weaves.lean ====
section
/-! DEFINITION. The life of a weave on its cores: selection and placement (R164 to R168), pre-emption, save and resumption (R169,
R177 to R181), completion (R10, R160), teardown (R176). -/

namespace Sys2Proof.Machine

/-! The end of a weave. -/

/-- The save images of a weave are free again (R179). -/
def State.freeImages (s : State) (w : Weave) : State :=
  w.images.foldl (fun s i => s.modDisp i.2.die fun d => { d with images := d.images.filter fun n => n != i.2.slot }) s

/-- The weave is gone: what it held of every unit is freed, and its packet or graph node goes on. -/
def State.endWeave (s : State) (w : Weave) (status detail : Nat) : State :=
  let s1 := s.freeImages w
  let s2 := match w.hslot with
    | some h => { s1 with hslots := tput s1.hslots h {} }
    | none => s1
  let s3 : State := { s2.freeNmus w.id with weaves := tdel s2.weaves w.id, stripes := s2.stripes.filter fun m => m.weave != w.id }
  let others := s3.weaves.any fun e => e.2.ctx == w.ctx
  let s4 : State := { s3 with nmus := s3.nmus.map fun e => (e.1, if others then e.2 else e.2.freeCtx w.ctx) }
  ((((((s4.freeGroups w.id).freeTrackers w.id).freeWalks w.id).freeNet w.id).freeRuns w.id).rereadAll w.die).originDone w status detail

/-- Something of the weave has not completed: an NMU command, a stripe message, a stored transfer, a walk, a run (R10, R260, R339,
R371, R471). -/
def State.weaveOwes (s : State) (w : Weave) : Bool :=
  s.nmus.any (fun e => e.2.holds fun x => x.weave == w.id) || s.stripes.any (fun m => m.weave == w.id) || s.storedOwed w.id
  || (w.jobs.any fun j => s.walksOwed w.id j.1) || s.runsOwed w.id

/-- The scope of the root level. -/
def Weave.rootScope (w : Weave) : Nat :=
  match w.lrec.levels with
  | (_, _, sc) :: _ => sc
  | [] => 0

/-- WEAVE_COMPLETE: every job has ended; a release at the root level's scope for each, then the weave ends with DONE (R10). -/
def execWeaveComplete (w : Nat) (s : State) : Out :=
  match tfind s.weaves w with
  | none => .next s
  | some x =>
    if x.st == .waiting || x.torn || !x.live.isEmpty || s.weaveOwes x || s.weaveHalted w then .next s
    else .next ((x.jobs.foldl (fun s j => s.release j.1 x.rootScope) s).endWeave x 0 0)

/-! Teardown (R176). -/

/-- A launch of a parked task has not reached its dispatcher: it is dropped. -/
def Task.launching (x : Task) : Bool :=
  match x.wait with
  | some { what := .answer, instr := .launch _ _ _ _, .. } => x.st == .parked
  | _ => false

/-- The launches of a core that are dropped. -/
def Core.launches (k : Core) : Nat := (k.tasks.filter fun e => e.2.launching).length

/-- A core after its job: its segment map and elastic entries are cleared (R121); what else the next job finds is as the last one left it. -/
def Core.vacate (k : Core) : Core :=
  { k with job := none, tasks := [], accs := [], frozen := none, haltBuf := [], probe := none, phase := none, ncmds := [], dfault := none,
           dmet := false, afaults := [], before := none, bps := [], seg := [], elastic := [],
           data := { v := k.data.v, acc := k.data.acc } }

/-- Core c of a job that is torn down is freed, its dropped launches counted. -/
def State.freeTorn (s : State) (w j c : Nat) : State :=
  let n := (s.core c).launches
  (s.modCore c Core.vacate).modWeave w fun x => { x with done := x.done ++ [j], dropped := x.dropped + n }

/-- The launches parked in the images of the weave's saved jobs are dropped too (R176). -/
def Weave.countParked (w : Weave) : Weave := { w with dropped := w.images.foldl (fun n i => n + i.2.state.launches) w.dropped }

/-- The teardown report of 64 bytes (R176). -/
def reportBytes (w : Weave) (detail : Nat) : List Byte :=
  bytesOfNum 8 (2 ^ 16 * detail + w.status) ++ bytesOfNum 2 w.report.wherev ++ bytesOfNum 1 w.report.strand ++ bytesOfNum 1 w.report.task
  ++ bytesOfNum 4 w.dropped ++ bytesOfNum 8 w.report.word ++ bytesOfNum 8 w.report.vaddr ++ bytesOfNum 4 w.idx ++ bytesOfNum 28 0

/-- The report is written where the queue asks for one. -/
def State.writeReport (s : State) (w : Weave) : State :=
  if w.tdaddr = 0 then s else s.homeWrite none (cellsFrom w.tdaddr (reportBytes w w.dropped))

/-- The walks in progress of core c leave the page-walk queues (R119). -/
def State.dropWalk (s : State) (c : Nat) : State := { s with walkQ := s.walkQ.map fun e => (e.1, e.2.filter fun x => x != c) }

/-- A job of weave w on core c waits for its outstanding requests: it is resident there. -/
def State.jobHere (s : State) (w c : Nat) : Bool :=
  match (s.core c).job with
  | some (x, _) => x == w
  | none => false

/-- The weave's resident jobs whose outstanding requests have completed are freed. -/
def State.freeSettled (s : State) (w : Nat) (live : List (Nat × Nat)) : State :=
  live.foldl (fun s j => if s.jobHere w j.2 && (s.core j.2).accs.isEmpty then (s.dropWalk j.2).freeTorn w j.1 j.2 else s) s

/-- WEAVE_TEARDOWN: the cores of a torn-down weave are freed as their requests complete; with the last one, and with every store of its runs
that was sent, the report is written and the weave ends (R176, R179, R471). -/
def execWeaveTeardown (w : Nat) (s : State) : Out :=
  match tfind s.weaves w with
  | none => .next s
  | some x =>
    if !x.torn then .next s
    else
      let s1 := s.freeSettled w x.live
      match tfind s1.weaves w with
      | none => .next s1
      | some y =>
        if (y.live.any fun j => s1.jobHere w j.2) || s1.runsOwed w then .next s1
        else
          let z := y.countParked
          .next ((s1.writeReport z).endWeave z z.status (if 7 ≤ z.status ∧ z.status ≤ 12 then z.dropped else 0))

/-! Selection (R168). -/

/-- The weave that took a saved weave's cores at the end of its quantum still waits for them (R43, R169). -/
def State.yieldsStill (s : State) (w : Weave) : Bool :=
  match w.yields.bind fun y => tfind s.weaves y with
  | some y => (y.st == .waiting || y.st == .saved) && !y.torn
  | none => false

/-- A saved weave can go on: the cores of its jobs that have not ended are free, and it is not halted (R180). -/
def State.mayResume (s : State) (w : Weave) : Bool :=
  w.st == .saved && !w.torn && !s.weaveHalted w.id && !s.yieldsStill w && w.live.all fun j => s.coreFree w.id j.2

/-- A weave that waits for placement, or saved for its resumption, can be placed now; one whose record is still to be read may be, and
nothing is served before it is known. -/
def State.placeable (s : State) (w : Weave) : Bool :=
  match w.st with
  | .waiting => !w.torn && (!w.checked || (s.planOf w).isSome)
  | .saved => s.mayResume w
  | _ => false

/-- The slot of a weave has placed WEIGHT weaves in the present round. -/
def State.exhausted (s : State) (w : Weave) : Bool :=
  let q := s.qslot w.die w.slot
  q.st != .free && decide (q.weight ≤ q.round)

/-- The present round of the weave's priority still serves it: its slot has not placed its WEIGHT, and the round has not passed the slot, or the
weave was tried in vain in an earlier round (R168). -/
def State.inRound (s : State) (w : Weave) : Bool := !s.exhausted w && (w.first || decide (tget 0 (s.disp w.die).pos w.prio ≤ w.slot))

/-- A weave's place in the order of service within its die: priority, the round, those tried in vain in the round before, slot, lane before
queue, saved before new (R168). -/
def State.serveKey (s : State) (w : Weave) : Nat :=
  let now := s.inRound w
  let first := w.first || (!now && w.passed)
  (((((3 - w.prio) * 2 + bit (!now)) * 2 + bit (!first)) * 64 + w.slot) * 2 + bit (!w.lane)) * 2 + bit (w.st != .saved)

/-- Weave x is served before weave w. -/
def State.servedBefore (s : State) (x w : Weave) : Bool :=
  decide (s.serveKey x < s.serveKey w) || (s.serveKey x == s.serveKey w && decide (x.arrival < w.arrival))

/-- The cores of die d in a plan. -/
def planOn (plan : List (Nat × List Nat)) (d : Nat) : List Nat := (plan.filter fun j => dieOf j.1 == d).map fun j => j.1

/-- The cores and the barriers of weave w's share of die d are free (R166). -/
def State.shareFree (s : State) (d : Nat) (w : Weave) : Bool :=
  let cs := planOn w.plan d
  (cs.all fun c => s.coreFree w.id c) && s.barsFree w cs

/-- Weave w asks die d, which is not its owner's, for a reservation that the die has not answered (R166). -/
def Weave.asks (w : Weave) (d : Nat) : Bool := w.asked.contains d && !w.granted.contains d && !w.declined

/-- Something of a higher priority than w comes first at die d: a weave of the die that can be placed, or the request of another owner,
which joins the die's selection (R166, R168). -/
def State.higherWaits (s : State) (d : Nat) (w : Weave) : Bool :=
  s.weaves.any fun e => e.1 != w.id && decide (w.prio < e.2.prio)
    && ((e.2.die == d && s.placeable e.2) || (e.2.asks d && s.shareFree d e.2))

/-- No weave of the die that is served before w can be placed, no request of another owner comes first, and of w's own slot no lane packet
is to be taken before a weave of its queue (R166, R168, R175). -/
def State.mayGo (s : State) (w : Weave) : Bool :=
  (s.weaves.all fun e => !(e.2.die == w.die && e.1 != w.id && s.servedBefore e.2 w && s.placeable e.2))
  && !s.higherWaits w.die w && (w.lane || w.st == .saved || !s.laneReady w.die w.slot)

/-- A new round of a priority begins at a die: every slot has its WEIGHT again, and the weaves tried in vain come first (R168). -/
def State.newRound (s : State) (d prio : Nat) : State :=
  let s1 := s.modDisp d fun x => { x with slots := x.slots.map fun e => if e.2.prio = prio then (e.1, { e.2 with round := 0 }) else e,
                                          pos := tput x.pos prio 0 }
  { s1 with weaves := s1.weaves.map fun e =>
      if e.2.die == d && e.2.prio == prio then (e.1, { e.2 with first := e.2.first || e.2.passed, passed := false }) else e }

/-- A weave of a slot is placed: the round of its priority counts it and stands at its slot, unless it came first for an earlier one; where the
round is spent or has passed the slot, a new one begins with it (R168). -/
def State.countRound (s : State) (w : Weave) : State :=
  let now := s.inRound w
  let s1 := if now then s else s.newRound w.die w.prio
  let s2 := if w.first || (!now && w.passed) then s1 else s1.modDisp w.die fun d => { d with pos := tput d.pos w.prio w.slot }
  if (s2.qslot w.die w.slot).st == .free then s2 else s2.modSlot w.die w.slot fun q => { q with round := q.round + 1 }

/-! Placement (R163 to R167). -/

/-- The record of a weave is refused: its packet completes, or its run ends, with the status (R163). -/
def State.refuseWeave (s : State) (w : Weave) (status : Nat) : State := { s with weaves := tdel s.weaves w.id }.originDone w status 0

/-- The dies of a plan. -/
def planDies (plan : List (Nat × List Nat)) : List Nat := (plan.map fun j => dieOf j.1).eraseDups

/-- A plan is taken: at once within the owner's die, by reservations beyond it (R166). -/
def State.takePlan (s : State) (w : Weave) (plan : List (Nat × List Nat)) : State :=
  if (planDies plan).all fun d => d == w.die then (s.placeWeave w plan).countRound w
  else
    let asked := (planDies plan).filter fun d => d != w.die
    { s with weaves := tput s.weaves w.id { w with plan, asked, askedAt := s.time, granted := [w.die], declined := false } }

/-- A checked weave is placed, or in its turn passed over (R164, R165, R168). -/
def State.tryPlace (s : State) (w : Weave) : State :=
  match s.planOf w with
  | none => if s.mayGo w then { s with weaves := tput s.weaves w.id { w with passed := true } } else s
  | some plan =>
    if w.lrec.fuse && !clustersFull plan then s.refuseWeave w 5
    else if s.mayGo w then s.takePlan w plan
    else s

/-- WEAVE_PLACEMENT: the record of a waiting weave is read and checked once, and its jobs placed all at once (R12, R163, R164). -/
def execWeavePlacement (w : Nat) (s : State) : Out :=
  match tfind s.weaves w with
  | none => .next s
  | some x =>
    if x.st != .waiting || x.torn || !x.asked.isEmpty || !s.pkgUp (x.die / 2) then .next s
    else if x.checked then .next (s.tryPlace x)
    else
      let r := s.readRecord x
      if r.1 ≠ 0 then .next (s.refuseWeave x r.1)
      else .next ({ s with weaves := tput s.weaves w r.2 }.tryPlace r.2)

/-- Die d can reserve its share of weave w: cores and barriers are free, and nothing of a higher priority comes first there (R166, R168). -/
def State.canReserve (s : State) (d : Nat) (w : Weave) : Bool := s.shareFree d w && !s.higherWaits d w

/-- RESERVATION_REQUEST: die d reserves its share of weave w, or declines (R166). -/
def execReservationRequest (d w : Nat) (s : State) : Out :=
  match tfind s.weaves w with
  | none => .next s
  | some x =>
    if !x.asked.contains d || x.granted.contains d || x.declined then .next s
    else if s.canReserve d x then .next (s.modWeave w fun x => { x with granted := x.granted ++ [d] })
    else .next (s.modWeave w fun x => { x with declined := true })

/-- The agreement ends: nothing stays reserved. -/
def Weave.release (w : Weave) : Weave := { w with asked := [], granted := [], plan := [], declined := false, passed := true }

/-- RESERVATION_REPLY: the answers have arrived: all the jobs are placed, or every reservation is released (R166). -/
def execReservationReply (w : Nat) (s : State) : Out :=
  match tfind s.weaves w with
  | none => .next s
  | some x =>
    if x.asked.isEmpty then .next s
    else if x.declined || (x.lrec.debug && s.freeHaltSlot.isNone) then .next (s.modWeave w Weave.release)
    else if x.asked.all fun d => x.granted.contains d then .next ((s.placeWeave x x.plan).countRound x)
    else .next s

/-! Pre-emption (R169, R177, R178). -/

/-- The images of a die that are free and not promised to a stopping weave (R169, R179). -/
def State.freeImageCount (s : State) (d : Nat) : Nat :=
  let promised := s.weaves.foldl (fun n e => if e.2.st == .stopping
    then n + (e.2.live.filter fun j => dieOf j.2 == d && !e.2.images.any fun i => i.2.core == j.2).length else n) 0
  bits (s.disp d).savecnt 0 10 - (s.disp d).images.length - promised

/-- The save pools and the NMUs have room for the weaves (R169, R350): each NMU has four save slots, one for each pre-empted weave that
has commands on it, until the NMU has taken its state back. -/
def State.roomFor (s : State) (ws : List Weave) : Bool :=
  let cores := ws.flatMap fun w => w.live.map fun j => j.2
  ((cores.map dieOf).eraseDups.all fun d => decide ((cores.filter fun c => dieOf c == d).length ≤ s.freeImageCount d))
  && s.nmus.all fun e => !(ws.any fun w => e.2.holds fun x => x.weave == w.id) || decide (((s.weaves.filter fun y =>
      (y.2.st == .stopping || y.2.st == .saved || e.2.saved.any (fun p => p.1 == y.1) || ws.any fun w => w.id == y.1) && e.2.holds fun x => x.weave == y.1).length) ≤ 4)

/-- Weave w fits once the weaves of a list have left their cores. -/
def State.fitsWithout (s : State) (w : Weave) (gone : List Weave) : Bool :=
  let off (c : Nat) : Bool := s.pkgUp (pkgOf c) && !s.coreReserved w.id c
    && ((s.core c).job.isNone || gone.any fun g => s.jobHere g.id c)
  match w.st with
  | .waiting => w.checked && (s.planWith w off).isSome
  | .saved => w.live.all fun j => off j.2
  | _ => false

/-- Weave x goes before weave y as a victim: lower priority first, then the one placed last (R169). -/
def victimBefore (x y : Weave) : Bool := decide (x.prio < y.prio) || (x.prio == y.prio && decide (y.placedSeq < x.placedSeq))

/-- A victim put in its place. -/
def insertVictim (x : Weave) : List Weave → List Weave
  | [] => [x]
  | y :: t => if victimBefore x y then x :: y :: t else y :: insertVictim x t

/-- The resident weaves of lower priority, in the order of R169. -/
def State.victims (s : State) (w : Weave) : List Weave :=
  ((s.weaves.filter fun e => e.2.st == .resident && !e.2.torn && !s.weaveHalted e.1 && decide (e.2.prio < w.prio)).map fun e => e.2).foldr insertVictim []

/-- The weaves that stop already. -/
def State.stoppingWeaves (s : State) : List Weave := (s.weaves.filter fun e => e.2.st == .stopping).map fun e => e.2

/-- The fewest of the victims, in order, whose leaving lets w fit. -/
def State.chooseVictims (s : State) (w : Weave) : Option (List Weave) :=
  let vs := s.victims w
  (firstWhere (fun n => s.fitsWithout w (s.stoppingWeaves ++ vs.take n)) (span 0 (vs.length + 1))).map fun n => vs.take n

/-- The largest SPC of the weave's context on the NMUs that hold a command of it (R349). -/
def State.commonPoint (s : State) (w : Weave) : Nat :=
  s.nmus.foldl (fun m e => if e.2.holds fun x => x.weave == w.id then max m (e.2.spc w.ctx) else m) 0

/-- Weave w is pre-empted: its jobs begin to stop (R177, R349). -/
def State.preempt (s : State) (w : Weave) : State :=
  { s with weaves := tput s.weaves w.id { w with st := .stopping, stopTime := 0, commonSpc := if w.wide then some (s.commonPoint w) else none } }

/-- PREEMPT_DECISION: resident weave w is pre-empted for weave w', which waits and lacks what weaves of lower priority hold (R169,
R177). -/
def execPreemptDecision (w w' : Nat) (s : State) : Out :=
  match tfind s.weaves w, tfind s.weaves w' with
  | some x, some y =>
    if (y.st != .waiting && y.st != .saved) || y.torn || s.placeable y || bits (s.disp y.die).savecnt 0 10 = 0 then .next s
    else match s.chooseVictims y with
      | none => .next s
      | some vs => .next (if (vs.any fun v => v.id == w) && s.roomFor vs then s.preempt x else s)
  | _, _ => .next s

/-- Weave y waits for a core that resident weave x of its priority holds: it fits once x leaves, or it would take a core of x once every
resident weave of that priority or a lower one left (R169). -/
def State.waitsFor (s : State) (y x : Weave) : Bool :=
  let mates := (s.weaves.filter fun e => (e.2.st == .resident && decide (e.2.prio ≤ x.prio)) || e.2.st == .stopping).map fun e => e.2
  let off (c : Nat) : Bool := s.pkgUp (pkgOf c) && !s.coreReserved y.id c && ((s.core c).job.isNone || mates.any fun g => s.jobHere g.id c)
  (y.st == .waiting || y.st == .saved) && !y.torn && y.prio == x.prio && !s.placeable y
  && (s.fitsWithout y (x :: s.stoppingWeaves) || (match y.st with
    | .saved => y.live.any fun j => s.jobHere x.id j.2
    | _ => (s.planWith y off).any fun p => p.any fun j => s.jobHere x.id j.1))

/-- QUANTUM_EXPIRY: 2 ms of a resident weave have passed; weave w', of the same priority, that waits for a core of it takes its place, and the
weave that leaves stands behind those that came before (R43); where none waits, or none of the images it needs is free, a new quantum begins (R169). -/
def execQuantumExpiry (w w' : Nat) (s : State) : Out :=
  match tfind s.weaves w with
  | none => .next s
  | some x =>
    if x.st != .resident || x.torn || decide (x.quantum < 2000000) || s.weaveHalted w then .next s
    else if bits (s.disp x.die).savecnt 0 10 == 0 || !s.roomFor [x] || !s.weaves.any (fun e => s.waitsFor e.2 x) then
      .next { s with weaves := tput s.weaves w { x with quantum := 0 } }
    else match tfind s.weaves w' with
      | some y => .next (if s.waitsFor y x then s.fresh.preempt { x with arrival := s.nextId, yields := some w' } else s)
      | none => .next s

/-- The strand counts as stopped by itself: not named, held at a rim, waiting at a region word, or stopped by a fault (R177). -/
def Strand.atStop (x : Strand) : Bool := !x.named || x.held || x.stopped || x.atRegion.isSome

/-- The data side has stopped (R177): in an interlocked region at a boundary with its queues drained, in a timed region at the restart
point, or with every strand stopped by itself. -/
def DataSide.atRest (d : DataSide) : Bool :=
  (!d.timed || d.saveStop || (d.vec.atStop && d.mat.atStop && d.cpy.atStop))
  && (if d.vec.stopped || d.mat.stopped || d.cpy.stopped then d.landed else d.drained)

/-- The job on core c has stopped. -/
def State.jobStopped (s : State) (c : Nat) : Bool := (s.core c).data.atRest && (s.core c).probe.isNone && (s.core c).phase.isNone

/-! The save image (R179). -/

/-- The nonzero bytes of a number, n bytes of it, as cells from address a up. -/
def numCells (a n x : Nat) : List Host.Cell := (cellsFrom a (bytesOfNum n x)).filter fun e => e.2 != emptyByte

/-- n open bytes from address a up: the parts of an image whose layout the spec leaves open (assumption 2). -/
def freeCells (s : State) (a n : Nat) : List Host.Cell := (span 0 n).map fun i => (a + i, BitVec.ofNat 8 (Config.freeWord (s.freeCtr + i)))

/-- The bytes of a store from address a up. -/
def shiftCells (a n : Nat) (m : Bytes) : List Host.Cell := (m.filter fun e => decide (e.1 < n)).map fun e => (a + e.1, e.2)

/-- The bytes of the numbers of a table as cells from address a up: entry e of n bytes at a + n · e, for e below limit. -/
def tableCells (a n limit : Nat) (t : Tbl Nat) : List Host.Cell := t.flatMap fun e => if e.1 < limit then numCells (a + n * e.1) n e.2 else []

/-- The table that cells from address a up hold, entry e of n bytes at a + n · e; an entry of 0 is not listed. -/
def cellsTable (a n : Nat) (xs : List Host.Cell) : Tbl Nat :=
  xs.foldl (fun t x => tmod 0 t ((x.1 - a) / n) fun v => v + x.2.toNat * 256 ^ ((x.1 - a) % n)) []

/-- Where the parts of an image begin (R179); that mask registers come before address registers, those of the vector, the matrix and the copy
engine in this order, and elements of 5 bytes in row order, is DEDUCED (assumption 32). -/
def imgV : Nat := 0x10000
def imgK : Nat := 0x210000
def imgX (e : Nat) : Nat := 0x210800 + 256 * (e - 1)
def imgAcc : Nat := 0x214000
def imgOp : Nat := 0x264000
def imgScratch : Nat := 0x364000

/-- The accumulators as one table: element n of entry e is number 1024 · e + n. -/
def accTable (t : Tbl AccEntry) : Tbl Nat := t.flatMap fun e => e.2.elems.map fun x => (1024 * e.1 + x.1, x.2)

/-- The cells of the image of a core at address a (R179): vector, mask and address registers, accumulators, operand memory and the scratchpad
share stand as they are; the layout of the header and the rest of the registers' region is open. -/
def imageCells (s : State) (a : Nat) (k : Core) : List Host.Cell :=
  let xs (e : Nat) : List Host.Cell := tableCells (a + imgX e) 8 32 ((k.data.strand e).x.map fun r => (r.1, r.2.toNat))
  freeCells s a imgV ++ tableCells (a + imgV) 4096 512 k.data.v ++ tableCells (a + imgK) 128 16 k.data.k ++ xs 1 ++ xs 2 ++ xs 3
  ++ freeCells { s with freeCtr := s.freeCtr + imgV } (a + 0x210B00) 0x3500 ++ tableCells (a + imgAcc) 5 65536 (accTable k.data.acc)
  ++ shiftCells (a + imgOp) 0x100000 k.opmem ++ shiftCells (a + imgScratch) k.scratchTop k.scratch

/-- The bytes other than 0 of a range of memory, as its homes hold them. -/
def State.rangeCells (s : State) (a n : Nat) : List Host.Cell :=
  (s.banks.filter fun e => decide (a ≤ e.1) && decide (e.1 < a + n) && (tfind s.homes (e.1 / 32)).isNone)
  ++ (s.homes.filter fun e => decide (a ≤ 32 * e.1) && decide (32 * e.1 < a + n)).flatMap fun e => (cellsFrom (32 * e.1) e.2.bytes).filter fun x => x.2 != emptyByte

/-- An accumulator's entry with its elements out of a table. -/
def accOf (t : Tbl Nat) (e : Nat) (x : AccEntry) : AccEntry :=
  { x with elems := (t.filter fun r => r.1 / 1024 == e).map fun r => (r.1 % 1024, r.2) }

/-- A strand with address registers out of cells. -/
def Strand.loadX (x : Strand) (a : Nat) (cs : List Host.Cell) : Strand := { x with x := (cellsTable a 8 cs).map fun r => (r.1, word r.2) }

/-- The core of an image with what its regions hold in memory at address a (R179, R181). -/
def State.loadImage (s : State) (a : Nat) (k : Core) : Core :=
  let part (o n : Nat) : List Host.Cell := s.rangeCells (a + o) n
  let ld (x : Strand) (e : Nat) : Strand := x.loadX (a + imgX e) (part (imgX e) 256)
  let acc := cellsTable (a + imgAcc) 5 (part imgAcc 0x50000)
  let store (o n : Nat) : Bytes := setCells [] ((part o n).map fun x => (x.1 - (a + o), x.2))
  { k with
    data := { k.data with v := cellsTable (a + imgV) 4096 (part imgV 0x200000), k := cellsTable (a + imgK) 128 (part imgK 0x800),
                          vec := ld k.data.vec 1, mat := ld k.data.mat 2, cpy := ld k.data.cpy 3,
                          acc := (span 0 64).filterMap fun e =>
                            let x := accOf acc e (tget {} k.data.acc e)
                            if x.elems.isEmpty && !x.int && !x.sat then none else some (e, x) },
    opmem := store imgOp 0x100000, scratch := store imgScratch 0x400000 }

/-- The bytes of an image are written into the pool: nothing older of the range stays at a home or in an L1. -/
def State.writeImage (s : State) (a : Nat) (k : Core) : State :=
  let n := 0x764000
  let s1 := s.untrackRange [(a, n)]
  { s1 with homes := s1.homes.filter fun e => !(decide (a ≤ 32 * e.1) && decide (32 * e.1 < a + n)),
            banks := setCells (s1.banks.filter fun e => !(decide (a ≤ e.1) && decide (e.1 < a + n))) (imageCells s a k), freeCtr := s.freeCtr + n }

/-- The lowest free image of a die's pool (DESIGN CHOICE, assumption 128). -/
def State.nextImage (s : State) (d : Nat) : Option Nat :=
  firstWhere (fun n => !(s.disp d).images.contains n) (span 0 (bits (s.disp d).savecnt 0 10))

/-- The core barriers of core c. -/
def State.coreBars (s : State) (c : Nat) : Tbl Barrier := s.barriers.filter fun e => decide (16 * c ≤ e.1) && decide (e.1 < 16 * c + 16) && decide (e.1 < 2 ^ 17)

/-- The job of weave w on core c is saved into image i of its die. -/
def State.saveJob (s : State) (w : Nat) (c i : Nat) : State :=
  let d := dieOf c
  let s1 := s.flushL1 c
  let k := s1.core c
  let a := (s1.disp d).savepool.toNat + i * 2 ^ 23
  let img : Image := { slot := i, die := d, core := c, addr := a, state := k, bars := s1.coreBars c }
  let s2 := s1.writeImage a k
  let s3 := s2.modDisp d fun x => { x with images := x.images ++ [i], dstat := countUp x.dstat 32 16 1 }
  (s3.modCore c Core.vacate).modWeave w fun x => { x with images := tput x.images (match k.job with | some (_, j) => j | none => 0) img }

/-- Every job of the weave is saved and its NMUs are at rest: it is saved. -/
def State.settleSave (s : State) (w : Nat) : State :=
  s.modWeave w fun x =>
    if x.st == .stopping && (x.live.all fun j => x.images.any fun i => i.1 == j.1) && s.nmus.all (fun e => s.nmuAtRest e.1 w) then { x with st := .saved } else x

/-- Every job of a weave that is resident has stopped: they leave their cores together (R12). -/
def State.allStopped (s : State) (w : Weave) : Bool := w.live.all fun j => !s.jobHere w.id j.2 || s.jobStopped j.2

/-- JOB_SAVE_COMPLETE: the jobs of the weave have stopped, the requests of the one on core c are complete, what its ended walks return has
come (R371), and its image is written (R177, R179). With the last job and the NMUs at rest, the weave is saved. -/
def execJobSaveComplete (c : Nat) (s : State) : Out :=
  match s.weaveOf c with
  | none => .next s
  | some w =>
    if w.st != .stopping || w.torn || s.isFrozen c || s.weaveHalted w.id || !s.allStopped w || !(s.core c).accs.isEmpty || s.walksEnding c then .next s
    else match s.nextImage (dieOf c) with
      | some i => .next ((s.saveJob w.id c i).settleSave w.id)
      | none => .next s

/-- PREEMPT_OVERDUE: 200 µs after the decision a job has not stopped: the weave is torn down (R178). -/
def execPreemptOverdue (w : Nat) (s : State) : Out :=
  match tfind s.weaves w with
  | none => .next s
  | some x =>
    if x.st != .stopping || decide (x.stopTime < 200000) || s.weaveHalted w || s.allStopped x then .next s
    else .next (s.tearDown w 10 {})

/-! Resumption (R180, R181). -/

/-- Core c takes up its image, whose core as memory holds it is x: a job stopped at a restart point starts from its snapshot. -/
def Image.onto (x : Core) (bps : Tbl (Nat × Nat)) (k : Core) : Core :=
  let d := x.data
  let d1 := match d.saveStop, d.snap with
    | true, some m => { d.restore m with saveStop := false }
    | _, _ => { d with saveStop := false }
  { x with data := d1, ibuf := [], l1 := [], before := none, logSeq := k.logSeq, bps }

/-- The job of an image goes on on its core; tasks that wait for events take those that came meanwhile (R180, R181). -/
def State.resumeJob (s : State) (h : Option Nat) (i : Image) : State :=
  let s1 := s.flushL1 i.core
  let s2 : State := { s1 with barriers := i.bars.foldl (fun t e => tput t e.1 e.2) (s1.barriers.filter fun e => !(s1.coreBars i.core).any fun x => x.1 == e.1) }
  (s2.modCore i.core (Image.onto (s2.loadImage i.addr i.state) (s2.slotBps h))).drainSignals i.core

/-- WEAVE_RESUME: the cores of a saved weave are free and its turn has come: its jobs resume together (R180, R181). A weave whose last
job was saved before its NMUs came to rest is saved now. -/
def execWeaveResume (w : Nat) (s : State) : Out :=
  match tfind s.weaves w with
  | none => .next s
  | some x =>
    if x.st == .stopping then .next (if s.weaveHalted w then s else s.settleSave w)
    else if s.mayResume x && s.mayGo x then
      let s1 := x.images.foldl (fun s i => s.resumeJob x.hslot i.2) (s.freeImages x)
      let y := { x with st := .resident, images := [], quantum := 0, placedSeq := s1.nextId, commonSpc := none, passed := false, first := false,
                        yields := none }
      .next ({ s1.fresh with weaves := tput (yielded s1.weaves w) w y }.countRound x)
    else .next (if x.st == .saved && !s.mayResume x && s.mayGo x then { s with weaves := tput s.weaves w { x with passed := true } } else s)

end Sys2Proof.Machine
end

