-- ==== Sys2Proof/Machine/Operands.lean ====
section
/-! DEFINITION. What the issue selector needs to know of an instruction before it issues (R19, R119, R134, R140, R189): the general
registers it names, and the classes that its holds turn on. -/

namespace Sys2Proof.Machine

/-- The register and its successor where the size is 16 bytes (R203). -/
def regPair (size r : Nat) : List Nat := if size = 4 then [r, r + 1] else [r]

/-- The general registers that a control instruction reads or writes (R189). -/
def ctlRegs (i : Instr) : List Nat :=
  match i with
  | .add _ d a b | .sub _ d a b | .and _ d a b | .or _ d a b | .xor _ d a b | .shl _ d a b | .shr _ d a b | .sra _ d a b => [d, a, b]
  | .slt _ d a b | .sltu _ d a b | .min _ d a b | .max _ d a b | .minu _ d a b | .maxu _ d a b => [d, a, b]
  | .addi _ d a _ | .andi _ d a _ | .ori _ d a _ | .xori _ d a _ | .shli _ d a _ | .shri _ d a _ | .srai _ d a _ | .slti _ d a _ => [d, a]
  | .mul _ d a b | .mulh _ d a b | .mulhu _ d a b | .div _ d a b | .divu _ d a b | .rem _ d a b | .remu _ d a b => [d, a, b]
  | .li _ d _ | .lih _ d _ => [d]
  | .fadd _ _ d a b | .fsub _ _ d a b | .fmul _ _ d a b | .fmin _ _ d a b | .fmax _ _ d a b | .fdiv _ _ d a b => [d, a, b]
  | .feq _ _ d a b | .flt _ _ d a b | .fle _ _ d a b => [d, a, b]
  | .ffma _ _ d a b c => [d, a, b, c]
  | .fsqrt _ _ d a | .fcvt _ _ d a => [d, a]
  | .beq _ a b _ | .bne _ a b _ | .blt _ a b _ | .bge _ a b _ | .bltu _ a b _ | .bgeu _ a b _ => [a, b]
  | .call _ _ | .ret _ => [63]
  | .jr _ a => [a]
  | .callr _ a => [a, 63]
  | .ld _ _ size d a _ _ _ => a :: regPair size d
  | .st _ size a b _ _ _ => a :: regPair size b
  | .gld _ _ size d a _ => a :: regPair size d
  | .gst _ size a b _ => a :: regPair size b
  | .atom _ _ _ d a b | .cas _ _ d a b | .gatom _ _ _ d a b | .rstAdd _ _ d a b | .rstMax _ _ d a b | .probe _ _ d a b => [d, a, b]
  | .cleanR _ a b | .invR _ a b | .cleaninvR _ a b | .barw _ a b | .ncmd _ a b _ | .neCtrSet _ a b | .neCtrAdd _ a b => [a, b]
  | .cqCount _ _ a _ | .cqOut _ _ a _ | .cqVal _ _ a _ => [a]
  | .cqMrow _ _ a b _ | .cqMbits _ _ a b _ => [a, b]
  | .tspawn _ d a _ | .bara _ d a | .trkArm _ d a | .nstat _ d a => [d, a]
  | .evs _ a | .evw _ a | .sysw _ _ a | .trap _ a | .gnfy _ a => [a]
  | .sysr _ d _ => [d]
  | .twList _ _ a b _ _ | .twHash _ _ a b _ _ | .twKvb _ _ a b _ _ | .twTree _ _ a b _ _ | .twRwalk _ _ a b _ _ => [a, b]
  | .twWait _ d a | .twWaitTry _ d a => [d, d + 1, a]
  | .qcast _ d a b | .nePost _ d a b | .nePostRx _ d a b | .neArm _ d a b | .neCwait _ d a b | .smProg _ d a b | .smStart _ d a b => [d, a, b]
  | .dbgStep _ d a b | .dbgResume _ d a b | .dbgBp _ d a b | .qmap _ d a b => [d, a, b]
  | .dbgRdc _ d a b => [d, d + 1, a, b]
  | .mgCfgOpen _ d a | .neQpOpen _ d a | .neQpClose _ d a | .neQpRd _ d a | .neCtrRd _ d a | .nePoll _ d a => [d, a]
  | .smCtxOpen _ d a | .smCtxClose _ d a | .smCtxReset _ d a | .smCtxRd _ d a | .smCancel _ d a | .smWait _ d a | .smWaitTry _ d a => [d, a]
  | .dbgHalt _ d a | .dbgClr _ d a | .launch _ d a _ => [d, a]
  | .mgCfgFree _ d b | .mgRd _ d b | .qunmap _ d b | .qstat _ d b => [d, b]
  | _ => []

/-- An access to virtual space (R119): held while a walk or a `phase` is in progress. -/
def virtualAccess (i : Instr) : Bool :=
  match i with
  | .ld _ _ _ _ _ cs _ _ => !cs
  | .st _ _ _ _ cs _ _ => !cs
  | .atom _ _ _ _ _ _ | .cas _ _ _ _ _ | .cleanR _ _ _ | .invR _ _ _ | .cleaninvR _ _ _ => true
  | .gld _ _ _ _ _ _ | .gst _ _ _ _ _ | .gatom _ _ _ _ _ _ => true
  | .launch _ _ _ _ | .qmap _ _ _ _ | .bara _ _ _ | .barw _ _ _ | .trkArm _ _ _ | .ncmd _ _ _ _ => true
  | .twList _ _ _ _ _ _ | .twHash _ _ _ _ _ _ | .twKvb _ _ _ _ _ _ | .twTree _ _ _ _ _ _ | .twRwalk _ _ _ _ _ _ => true
  | .qcast _ _ _ _ | .mgCfgOpen _ _ _ | .rstAdd _ _ _ _ _ | .rstMax _ _ _ _ _ | .neQpOpen _ _ _ => true
  | .smCtxOpen _ _ _ | .smProg _ _ _ _ | .probe _ _ _ _ _ => true
  | _ => false

/-- The instruction takes an outstanding-request entry (R134). -/
def takesEntry (i : Instr) : Bool :=
  match i with
  | .ld _ _ _ _ _ _ _ _ | .st _ _ _ _ _ _ _ | .atom _ _ _ _ _ _ | .cas _ _ _ _ _ | .gld _ _ _ _ _ _ | .gst _ _ _ _ _ | .gatom _ _ _ _ _ _ => true
  | .rstAdd _ _ _ _ _ | .rstMax _ _ _ _ _ => true
  | _ => false

/-- An access to memory or to a device register, also one that a command makes (R112). -/
def isAccess (i : Instr) : Bool :=
  takesEntry i || virtualAccess i || match i with
    | .gnfy _ _ => true
    | _ => false

/-- A command, which waits for every earlier `qmark` of its task to pass (R140, R182). -/
def waitsQmark (i : Instr) : Bool :=
  match i with
  | .ncmd _ _ _ _ | .qcast _ _ _ _ | .launch _ _ _ _ | .qmap _ _ _ _ | .qunmap _ _ _ | .qstat _ _ _ => true
  | .twList _ _ _ _ _ _ | .twHash _ _ _ _ _ _ | .twKvb _ _ _ _ _ _ | .twTree _ _ _ _ _ _ | .twRwalk _ _ _ _ _ _ | .twWait _ _ _ | .twWaitTry _ _ _ => true
  | .neQpOpen _ _ _ | .neQpClose _ _ _ | .neQpRd _ _ _ | .nePost _ _ _ _ | .nePostRx _ _ _ _ | .neArm _ _ _ _ | .neCtrRd _ _ _ => true
  | .neCtrSet _ _ _ | .neCtrAdd _ _ _ | .neCwait _ _ _ _ | .nePoll _ _ _ => true
  | .smCtxOpen _ _ _ | .smCtxClose _ _ _ | .smCtxReset _ _ _ | .smCtxRd _ _ _ | .smProg _ _ _ _ | .smStart _ _ _ _ | .smCancel _ _ _ => true
  | .smWait _ _ _ | .smWaitTry _ _ _ => true
  | .cleanR _ _ _ | .invR _ _ _ | .cleaninvR _ _ _ => true
  | _ => false

/-- The command reads a block as loads of its task, which stand behind the task's earlier loads (R139). -/
def readsBlock (i : Instr) : Bool :=
  match i with
  | .ncmd _ _ _ _ | .mgCfgOpen _ _ _ | .neQpOpen _ _ _ | .smCtxOpen _ _ _ | .smProg _ _ _ _ => true
  | .twList _ _ _ _ _ _ | .twHash _ _ _ _ _ _ | .twKvb _ _ _ _ _ _ | .twTree _ _ _ _ _ _ | .twRwalk _ _ _ _ _ _ => true
  | .qcast _ _ _ _ | .trkArm _ _ _ => true
  | _ => false

/-- A send to a control queue, which waits for every earlier `qmark` and fence of its task (R213). -/
def isSend (i : Instr) : Bool :=
  match i with
  | .cqCount _ _ _ _ | .cqOut _ _ _ _ | .cqMrow _ _ _ _ _ | .cqMbits _ _ _ _ _ | .cqVal _ _ _ _ | .cqRegion _ _ => true
  | _ => false

/-- A send to the control queue of a named strand without a free entry (R26, R210). -/
def sendBlocked (k : Core) (i : Instr) : Bool :=
  let full (e : Nat) : Bool := k.data.names e && !(k.data.strand e).cq.room
  match i with
  | .cqCount _ e _ _ | .cqOut _ e _ _ | .cqVal _ e _ _ => full e
  | .cqMrow _ e _ _ _ | .cqMbits _ e _ _ _ => full e
  | .cqRegion _ _ => [1, 2, 3].any full
  | _ => false

/-- The address of a load, store or atomic of task t outside the core store, with the permission it needs. -/
def accessAt (s : State) (c t : Nat) (i : Instr) : Option (Word × Perm) :=
  match i with
  | .ld _ _ _ _ a cs _ off => if cs then none else some (lsAddr s c t a off, .rd)
  | .st _ _ a _ cs _ off => if cs then none else some (lsAddr s c t a off, .wr)
  | .gld _ _ _ _ a off => some (lsAddr s c t a off, .rd)
  | .gst _ _ a _ off => some (lsAddr s c t a off, .wr)
  | .atom _ _ _ _ a _ | .cas _ _ _ a _ | .gatom _ _ _ _ a _ => some (s.reg c t a, .at_)
  | _ => none

/-- The panel-physical address that the instruction's access reaches. -/
def accessPlace (s : State) (c t : Nat) (i : Instr) : Option Nat :=
  match accessAt s c t i with
  | some (va, p) => match translate (s.core c).seg p va.toNat with
    | .ok pa _ => some pa
    | .bad _ => none
  | none => none

/-- The word pops an entry of its strand's control queue (R27). -/
def popsQueue (i : Instr) : Bool :=
  match i with
  | .dataRegion _ _ | .vloopQ _ _ | .vwhileQ _ _ | .vifQ _ _ | .vvalQ _ _ | .vmaskQ _ _ => true
  | .mloopQ _ _ | .mwhileQ _ _ | .mifQ _ _ | .mvalQ _ _ | .cpLoopQ _ _ | .cpWhileQ _ _ | .cpIfQ _ _ | .cpValQ _ _ => true
  | _ => false

end Sys2Proof.Machine
end

