-- ==== Sys2Proof/Machine/Issue.lean ====
section
/-! DEFINITION. What issues: the fetch of words (R190), the issue selector of the control slice (R19, R189), the issue and the
freeze of the data strands (R30 to R34), the end of a main-clock cycle, words that are no instruction (R68), the faults that task 0
takes (R225). -/

namespace Sys2Proof.Machine

/-! Fetch (R45, R190). -/

/-- A word of this counted cycle has issued: every word that is due in it issues in it (R30, R32). -/
def Core.cycleOpen (k : Core) : Bool := k.data.timed && k.before.isSome

/-- A 32-bit word fetched by core c: held in its instruction buffer, not held, or at an address that does not translate. -/
inductive Fetch where
  | word (w : Nat)
  | missing
  | bad (status va : Nat)
  /-- the word's line stands in the error-address table (R136) -/
  | lost (va : Nat)

def State.fetch (s : State) (c va : Nat) : Fetch :=
  match translate (s.core c).seg .x va with
  | .bad st => .bad st va
  | .ok pa _ => match tfind (s.core c).ibuf (pa / 4) with
    | some w => .word w
    | none => if s.errorLine (pa / 128) then .lost va else .missing

/-- The word starts an instruction of format C-W: LEN is 0b01 and its major opcode is one of that format (R45, R55, R68). -/
def wideWord (w : Nat) : Bool :=
  fld w 0 2 == 1 &&
  [0x0A, 0x0B, 0x0D, 0x1B, 0x1C, 0x1D, 0x1E, 0x30, 0x36, 0x48, 0x50, 0x51, 0x52, 0x53, 0x54, 0x58, 0x59, 0x5A, 0x5B, 0x5C, 0x5D, 0x74].contains (fld w 3 7)

/-- What a fetch of an instruction finds. -/
inductive Fetched where
  | fate (f : Fate)
  | missing
  | bad (status va : Nat)
  | lost (va : Nat)

/-- A fetch that needs a further word. -/
def Fetch.next (f : Fetch) (go : Nat → Fetched) : Fetched :=
  match f with
  | .word w => go w
  | .missing => .missing
  | .bad st va => .bad st va
  | .lost va => .lost va

/-- The upper half of an instruction of format C-W: the transfer, prefix and illegal-instruction conditions that the words before it already
meet decide before its fetch (R53, R223). What the halves 0 and 2 (of the atomics, 2 names a size of 4 bytes) leave unassigned or forbidden no half
makes an instruction (R55, R204, R376). -/
def Fetch.upper (f : Fetch) (fate : Nat → Fate) : Fetched :=
  match fate 0, fate 2 with
  | .bad 1 _, .bad code tval => .fate (.bad code tval)
  | .bad 1 _, .ins _ _ => f.next fun w => .fate (fate w)
  | .bad code tval, _ => .fate (.bad code tval)
  | .ins _ _, _ => f.next fun w => .fate (fate w)

/-- The instruction at pc, with its prefix: the words it needs are fetched, and no others. -/
def State.fetchIns (s : State) (c pc : Nat) : Fetched :=
  let at_ (i : Nat) : Fetch := s.fetch c ((pc + 4 * i) % 2 ^ 64)
  (at_ 0).next fun w0 =>
    if fld w0 0 2 == 2 && (parsePfx w0).isSome then
      (at_ 1).next fun w1 => if wideWord w1 then (at_ 2).upper (controlFate pc w0 w1) else .fate (controlFate pc w0 w1 0)
    else if wideWord w0 then (at_ 1).upper fun w1 => controlFate pc w0 w1 0
    else .fate (controlFate pc w0 0 0)

/-- The physical pieces of the bodies of the loops that enclose a strand's next word, with the loops' own words (R62). -/
def Strand.loopCode (seg : Tbl SegEnt) (x : Strand) : List (Nat × Nat) :=
  (x.blocks.filter fun b => b.kind == .loop || b.kind == .whileLoop).flatMap fun b => physical (pieces seg .x b.head (b.last - b.head))

/-- The loop bodies that the instruction buffer holds while they run (R190). -/
def Core.loopCode (k : Core) : List (Nat × Nat) := [k.data.vec, k.data.mat, k.data.cpy].flatMap (Strand.loopCode k.seg)

/-- The buffer without the n words of the lowest addresses that stand in no kept piece (assumption 15). -/
def dropLowest (kept : List (Nat × Nat)) : Nat → Tbl Nat → Tbl Nat
  | 0, m => m
  | _, [] => []
  | n + 1, e :: t => if addrIn kept (4 * e.1) then e :: dropLowest kept (n + 1) t else dropLowest kept n t

/-- The buffer holds the 32-bit words n and n + 1, and at most 16,384 (64 KiB); a full one keeps what kept names (R190). -/
def putPair (kept : List (Nat × Nat)) (m : Tbl Nat) (n lo hi : Nat) : Tbl Nat :=
  let room := if m.length + 2 ≤ 16384 then m else dropLowest kept 2 m
  tput (tput room n lo) (n + 1) hi

/-- IBUF_FILL: the 64 bits that hold the word at va arrive in the buffer of core c whole (R190); held while a walk or a `phase` is in
progress (R119), between the words of one cycle of a timed region (R32), and at a line of the error-address table (R136). -/
def execIbufFill (c va : Nat) (s : State) : Out :=
  let k := s.core c
  match translate k.seg .x va with
  | .bad _ => .next s
  | .ok pa _ =>
    if k.job.isNone || k.probe.isSome || k.phase.isSome || k.cycleOpen || s.errorLine (pa / 128) then .next s
    else
      let s1 := s.homeFetch (pa / 32)
      let at_ (i : Nat) : Nat := s1.homeNum (pa / 8 * 8 + 4 * i) 4
      .next (s1.modCore c fun k => { k with ibuf := putPair k.loopCode k.ibuf (pa / 8 * 2) (at_ 0) (at_ 1) })

/-! Data strands (R30 to R35). -/

/-- The 64-bit word at the pc of strand e of core c: its bits, and whether the buffer holds it (R57, R190). -/
inductive DFetch where
  | word (w : Nat) (held : Bool)
  | bad (status va : Nat)

def State.dataWord (s : State) (c e : Nat) : DFetch :=
  let pc := (s.strand c e).pc
  let seg := (s.core c).seg
  match translate seg .x pc, translate seg .x ((pc + 4) % 2 ^ 64) with
  | .ok p _, .ok q _ =>
    .word (s.fetchedWord c p + 2 ^ 32 * s.fetchedWord c q) ((tfind (s.core c).ibuf (p / 4)).isSome && (tfind (s.core c).ibuf (q / 4)).isSome)
  | .bad st, _ => .bad st pc
  | _, .bad st => .bad st ((pc + 4) % 2 ^ 64)

/-- The strand is on its way: it runs and does not wait at a region word. -/
def Strand.going (x : Strand) : Bool := x.running && x.atRegion.isNone

/-- The word at the pc of strand e lies in a line of the error-address table (R136). -/
def State.wordLost (s : State) (c e : Nat) : Bool :=
  match translate (s.core c).seg .x (s.strand c e).pc with
  | .ok p _ => s.errorLine (p / 128)
  | .bad _ => false

/-- The next word of strand e is due in this cycle (R30). -/
def State.dataDue (s : State) (c e : Nat) : Bool :=
  let x := s.strand c e
  x.going && match s.dataWord c e with
    | .word w _ => decide (x.base + fld w 0 10 ≤ (s.core c).data.counted)
    | .bad _ _ => true

/-- The request entries that a decoded word of strand e needs at its issue (R134). -/
def wordNeed (d : DataSide) (e : Nat) (i : Instr) : Nat :=
  match e with
  | 1 => vectorNeed d i
  | 2 => 0
  | _ => copyNeed i

/-- The request entries that the due words of core c need in this cycle. -/
def State.entriesDue (s : State) (c : Nat) : Nat :=
  ([1, 2, 3].map fun e =>
    if s.dataDue c e && !(s.strand c e).skipping then match s.dataWord c e with
      | .word w _ => ((decodeData e w).map (wordNeed (s.core c).data e)).getD 0
      | .bad _ _ => 0
    else 0).sum

/-- The request entries kept for the words that still issue in an open cycle of a timed region (R32). -/
def State.entriesKept (s : State) (c : Nat) : Nat := if (s.core c).cycleOpen then s.entriesDue c else 0

/-! The issue selector (R19). -/

/-- What the next instruction of a task meets: it is passed over, it issues, a breakpoint stops it, a trap at its fetch takes its
place, its fetch does not translate. -/
inductive Choice where
  | stall
  | stop (index : Nat)
  | issue (i : Instr) (words : Nat)
  | trap (code : Nat) (tval : Nat)
  | fatal (status va : Nat)

/-- A register is not usable yet: its result is not due, or a load of it has not returned (R189). -/
def Core.regPending (k : Core) (t r : Nat) : Bool :=
  r != 0 && ((match tfind (k.task t).due r with | some n => decide (k.cycle < n) | none => false)
    || k.accs.any fun a => a.party == t && match a.dest with
        | .reg d _ => d == r || (a.n == 16 && d + 1 == r)
        | _ => false)

/-- A device-register access, which the later accesses of its task wait for (R112). -/
def Access.toDevice (a : Access) : Bool := a.space == .device || (a.space == .fabric && inDev a.pa)

/-- A store to a barrier's configuration word or to a ring descriptor, which may still meet BARRIER_CONFIG or DEVICE_REG: its fault is met
before anything after it takes effect, and a `go` finds the descriptor written (R21, R41, R112, R222, R295). -/
def Access.configures (a : Access) : Bool :=
  a.toDevice && a.kind == .store && match devAt a.pa with
    | some (.barrier _ 0) => true
    | some (.rdesc _ _) => true
    | _ => false

/-- An access of task t holds instruction i of that task (R112). -/
def Access.holds (a : Access) (i : Instr) : Bool := a.configures || (a.waiting && a.toDevice && isAccess i)

/-- The instruction's own conditions allow it to issue for task t of core c (R19, R112, R119, R127, R134, R140, R189, R210, R213). -/
def State.ctlReady (s : State) (c t : Nat) (i : Instr) : Bool :=
  let k := s.core c
  let mine := k.accs.filter fun a => a.party == t
  let toDevice := match accessPlace s c t i with
    | some pa => inDev pa
    | none => false
  (ctlRegs i).all (fun r => !k.regPending t r) && !sendBlocked k i
  && !(virtualAccess i && (k.probe.isSome || k.phase.isSome))
  && !(takesEntry i && decide (8192 ≤ k.outstanding + s.entriesKept c))
  && !(waitsQmark i && mine.any fun a => a.kind == .qmark)
  && !(isSend i && mine.any fun a => a.kind == .qmark || a.isFence)
  && !(toDevice && mine.any fun a => a.waiting)
  && mine.all (fun a => !a.holds i)
  && (match i with | .phase _ _ => k.phase.isNone | _ => true)

/-- The breakpoint of a kind at an address (R490, R491). -/
def Core.breakpoint (k : Core) (kind va : Nat) : Option Nat :=
  match firstWhere (fun e => e.2.1 == kind && e.2.2 == va) k.bps with
  | some e => some e.1
  | none => none

/-- A fault waits for task 0, which can take it at an instruction boundary after the cycle that met it (R225). -/
def Core.faultDue (k : Core) : Bool :=
  let met (f : AFault) : Bool := f.cycle != k.cycle
  !(k.task 0).tin && (k.dfault.any met || k.afaults.any met)

/-- What task t of core c does next; a breakpoint stops a word that would issue (R491). -/
def State.ctlChoice (s : State) (c t : Nat) : Choice :=
  let k := s.core c
  let x := k.task t
  let orStop (y : Choice) : Choice := match (if x.exempt then none else k.breakpoint 1 x.pc.toNat) with
    | some n => .stop n
    | none => y
  if x.st != .ready || decide (k.cycle < x.notBefore) || (t == 0 && k.faultDue) then .stall
  else
    match s.fetchIns c x.pc.toNat with
    | .missing => .stall
    | .bad st va => .fatal st va
    | .lost va => .trap 17 va
    | .fate (.bad code tval) => orStop (if code = 1 then .issue (.illegalInstruction tval) 0 else .trap code tval)
    | .fate (.ins i n) => if s.ctlReady c t i then orStop (.issue i n) else .stall

/-- The choice is no stall. -/
def Choice.goes (x : Choice) : Bool :=
  match x with
  | .stall => false
  | _ => true

/-- The tasks in the order of the search: from the one after the task that issued last (R19). -/
def Core.rotation (k : Core) : List Nat := (span 1 8).map fun i => (k.rot + i) % 8

/-- The weave of core c may issue control instructions: its job is here, it is not torn down, not stopped, not halted. -/
def State.ctlRuns (s : State) (c : Nat) : Bool := (s.core c).job.isSome && !s.stopped c && !s.isFrozen c

/-- The task whose next instruction issues in this main-clock cycle. -/
def State.selectTask (s : State) (c : Nat) : Option Nat :=
  if !s.ctlRuns c || (s.core c).issued then none else firstWhere (fun t => (s.ctlChoice c t).goes) (s.core c).rotation

/-! What the due words do (R30 to R34). -/

/-- The queue, the rings, the request entries and virtual space allow a decoded word to issue (R32). -/
def dataReady (k : Core) (e : Nat) (i : Instr) : Bool :=
  !(popsQueue i && (k.data.strand e).cq.head.isNone)
  && (match e with
      | 1 => vectorReady k i
      | 2 => matrixReady k.data i
      | _ => copyReady k i)

/-- The scoreboard allows a decoded word to issue in an interlocked region (R30, R267, R269, R309). -/
def dataClear (d : DataSide) (e : Nat) (i : Instr) : Bool :=
  match e with
  | 1 => vectorClear d i
  | 2 => matrixClear d i
  | _ => true

/-- What the due word of a strand does: it cannot issue; a word of a skipped block passes; it issues; a breakpoint stops it; its
fetch fails, in translation or at a line of the error-address table. -/
inductive DChoice where
  | stall
  | skip
  | issue (i : Instr)
  | stop (index : Nat)
  | fatal (status va : Nat)
  | lost

/-- A breakpoint stops a word that would issue (R491). -/
def State.dataChoice (s : State) (c e : Nat) : DChoice :=
  let k := s.core c
  let x := k.data.strand e
  if x.skipping then .skip
  else match s.dataWord c e with
    | .bad st va => .fatal st va
    | .word w held =>
      let orStop (i : Instr) : DChoice := match (if x.exempt || k.stepOwed == some 8 then none else k.breakpoint 2 x.pc) with
        | some n => .stop n
        | none => .issue i
      if !held && !k.cycleOpen then (if s.wordLost c e then .lost else .stall)
      else match decodeData e w with
        | none => orStop (.illegalInstruction w)
        | some i => if k.cycleOpen || (dataReady k e i && (k.data.timed || dataClear k.data e i)) then orStop i else .stall

/-- The word of strand e is due and can do what it does. -/
def State.dataGoes (s : State) (c e : Nat) : Bool :=
  match s.dataChoice c e with
  | .stall => false
  | _ => true

/-- The results of the engines that have their cycle now are all written: nothing issues before (R268, R305, R309). -/
def Core.settledNow (k : Core) : Bool :=
  k.caughtUp && (match k.data.matQ with | w :: _ => !w.due k.data.counted | [] => true)
  && k.data.slotActs.all fun a => !releaseRipe k.data a

/-- A result of class 3 is absent at its due cycle (R34). -/
def DataSide.late3 (d : DataSide) : Option VLoad :=
  if d.timed && !d.vec.stopped then firstWhere (fun v => v.cls3 && v.out != 0 && decide (v.due ≤ d.counted)) d.vloads else none

/-- The free request entries do not do for all the due words of the cycle (R32, R134). -/
def State.entriesShort (s : State) (c : Nat) : Bool := s.entriesDue c != 0 && decide (8192 < (s.core c).outstanding + s.entriesDue c)

/-- A due word of a timed region cannot issue in this cycle (R32): it is looked at before the first word of the cycle issues, and then all
of them issue. -/
def State.wordFreezes (s : State) (c : Nat) : Bool :=
  let d := (s.core c).data
  !d.saveStop && (d.vec.running || d.mat.running || d.cpy.running)
  && (s.core c).before.isNone && (s.entriesShort c || [1, 2, 3].any fun e => s.dataDue c e && !s.dataGoes c e)

/-- A freeze condition holds in this cycle (R32): a late result of class 0 to 2, whatever the strands do, or a due word that cannot issue
once what is due in the cycle is written. -/
def State.freezeMet (s : State) (c : Nat) : Bool :=
  let d := (s.core c).data
  d.timed && (d.lateResult || ((s.core c).settledNow && s.wordFreezes c))

/-- The weave of core c is being pre-empted. -/
def State.stopsToSave (s : State) (c : Nat) : Bool :=
  match s.weaveOf c with
  | some w => w.st == .stopping && !w.torn
  | none => false

/-- A due word of a strand is a restart point (R36). -/
def State.atRestartPoint (s : State) (c : Nat) : Bool :=
  [1, 2, 3].any fun e => s.dataDue c e && !(s.strand c e).skipping && match s.dataWord c e with
    | .word w held => held && w.testBit 10
    | .bad _ _ => false

/-- The data strands of core c may issue words (R32, R177, R480): its job is here and not torn down; while it is pre-empted, only on
the way to the restart point of a timed region. -/
def State.dataRuns (s : State) (c : Nat) : Bool :=
  let d := (s.core c).data
  (s.core c).job.isSome && !s.dataHeld c && !d.frozen && !d.saveStop
  && (!s.stopped c || (s.stopsToSave c && d.timed)) && (s.core c).settledNow && d.late3.isNone

/-- The job of core c stops at this cycle's restart point to be saved (R177). -/
def State.savesNow (s : State) (c : Nat) : Bool :=
  s.stopsToSave c && (s.core c).data.timed && !(s.core c).data.saveStop && (s.core c).before.isNone && s.atRestartPoint c

/-- Strand e issues in this turn. -/
def State.dataIssues (s : State) (c e : Nat) : Bool :=
  s.dataRuns c && s.dataDue c e && s.dataGoes c e && (!(s.core c).data.timed || !s.freezeMet c)

/-- The snapshot of the restart point at which a pre-empted job stops is taken (R36, R177). -/
def State.saveStopHere (s : State) (c : Nat) : State :=
  (s.takeSnap c (s.core c).data.image).modData c fun d => { d with saveStop := true }

/-! The end of a main-clock cycle. -/

/-- An array or queue word starts in this cycle. -/
def State.startsNow (s : State) (c : Nat) : Bool :=
  let d := (s.core c).data
  (match d.arrayQ with | w :: _ => d.mayStart w | [] => false) || (match d.nextQueued with | some m => d.mayStartQueue m | none => false)

/-- What the cycle holds is done: results, words that can issue in a timed region, starts. -/
def State.cycleDone (s : State) (c : Nat) : Bool :=
  (s.core c).settledNow && !s.startsNow c
  && !((s.core c).data.timed && s.dataRuns c && (s.savesNow c || [1, 2, 3].any fun e => s.dataIssues c e))

/-- A counter of a word of VSTAT, MSTAT or ISTAT goes up where p holds. -/
def countIf (w : Word) (lo n : Nat) (p : Bool) : Word := if p then countUp w lo n 1 else w

/-- A ready task is passed over in this cycle: it stays ready, did not issue last and cannot issue now (R229); the tasks of a frozen core are
held (R478). -/
def State.passesOver (s : State) (c : Nat) : Bool :=
  let k := s.core c
  !s.isFrozen c && (span 0 8).any fun t => (k.task t).st == .ready && !(k.issued && k.rot == t) && !(s.ctlChoice c t).goes

/-- The due word of strand e, where it is there and does not issue in this cycle. -/
def State.stalledWord (s : State) (c e : Nat) : Option Instr :=
  if s.dataDue c e && !s.dataGoes c e then match s.dataWord c e with
    | .word w true => decodeData e w
    | _ => none
  else none

/-- The counts of a cycle for tuning (R229, R293, R318). A task that issued was ready; the tasks of a frozen core are held, none is
ready (R478). -/
def State.countCycle (s : State) (c : Nat) : State :=
  let k := s.core c
  let d := k.data
  let passed := s.passesOver c
  let none_ := s.isFrozen c || (!k.issued && (span 0 8).all fun t => (k.task t).st != .ready)
  let cqEmpty := (s.stalledWord c 1).any fun i => popsQueue i && d.vec.cq.head.isNone
  let ring := (s.stalledWord c 2).any fun i => !matrixReady d i
  s.modCore c fun k =>
    { k with istat := countIf (countIf k.istat 16 16 passed) 0 16 none_,
             vstat := countIf (if d.counted < d.arrayFree then wrapUp k.vstat 32 32 1 else k.vstat) 0 16 cqEmpty,
             mstat := countIf k.mstat 0 16 ring }

/-- A cycle of the control slice ends. -/
def Core.nextCycle (k : Core) : Core := { k with cycle := (k.cycle + 1) % 2 ^ 64, issued := false, before := none }

/-- A cycle of the data engines passes: counted, or frozen and watched (R30, R32, R33). -/
def DataSide.pass (d : DataSide) (freeze : Bool) : DataSide :=
  if freeze then { d with frozen := true, watch := d.watch + 1 } else { d with counted := d.counted + 1, watch := 0 }

/-- A main-clock cycle of core c ends, once everything that belongs to it is done: an instruction that can issue has issued, results
that are due are written, due words that can issue have issued, and a fault of the cycle is raised. A frozen core's cycles pass for
CYCLE alone; in a single step of its data engines one cycle passes for them (R19, R30 to R34, R480, R493). -/
def State.tick (s : State) (c : Nat) : State :=
  let k := s.core c
  let d := k.data
  if k.job.isNone then s.modCore c Core.nextCycle
  else if s.dataHeld c then
    if s.flipOwed c then s
    else s.modCore c fun k => { k with cycle := (k.cycle + 1) % 2 ^ 64, issued := false, istat := countIf k.istat 0 16 (!k.issued) }
  else if s.freezeDue c || (s.selectTask c).isSome || s.flipOwed c || d.late3.isSome || (d.frozen && !d.timeoutRaised && (!s.freezeMet c || decide (65536 ≤ d.watch))) then s
  else
    let freeze := s.freezeMet c || (d.frozen && d.timeoutRaised)
    if !freeze && !s.cycleDone c then s
    else ((s.countCycle c).modCore c Core.nextCycle).modCore c fun k =>
      { k with data := k.data.pass freeze, stepOwed := if k.stepOwed == some 8 then none else k.stepOwed }

/-- DATA_FREEZE_END: every unmet condition is met: the engines go on, and what was late counts as on time (R32). A freeze that has
reached 65,536 cycles ends in the timeout, and after it the engines stay frozen until the handler acts (R33): DEDUCED, until its
`restart`. -/
def execDataFreezeEnd (c : Nat) (s : State) : Out :=
  .next (if (s.core c).data.frozen && !(s.core c).data.timeoutRaised && decide ((s.core c).data.watch < 65536) && (s.core c).settledNow && !s.freezeMet c && !s.dataHeld c then s.modData c fun d => { d with frozen := false, watch := 0 } else s)

/-- The pc of the lowest-numbered running strand. -/
def DataSide.frozenPc (d : DataSide) : Nat × Nat :=
  if d.vec.running then (1, d.vec.pc) else if d.mat.running then (2, d.mat.pc) else (3, d.cpy.pc)

/-- FREEZE_TIMEOUT: a freeze of 65,536 cycles is a fault of task 0; the engines stay frozen (R33). -/
def execFreezeTimeout (c : Nat) (s : State) : Out :=
  let d := (s.core c).data
  .next (if d.frozen && decide (65536 ≤ d.watch) && !d.timeoutRaised && d.late3.isNone && !s.isFrozen c then
      (s.modData c fun d => { d with timeoutRaised := true }).dataFault c d.frozenPc.1 28 (word d.frozenPc.2)
    else s)

/-- TIMING_TRAP: a class-3 result is absent at its due cycle: the data engines stop (R34). -/
def execTimingTrap (c : Nat) (s : State) : Out :=
  let d := (s.core c).data
  .next (match d.late3 with
    | some v => if s.dataHeld c || (s.core c).job.isNone then s else s.strandFault c 1 29 (word v.word)
    | none => s)

/-! Words that are no instruction (R68). -/

/-- ILLEGAL_INSTRUCTION: the word would issue: a precise trap of the task, an undefined-word fault of the strand, the end of the NMU
command or of the run with BAD_WORD. -/
def execIllegalInstruction (raw : Nat) (s : State) : Out :=
  match s.cur with
  | .task c t => .next (s.trap c t 1 (word raw))
  | .strand c e => .next (s.undefinedWord c e)
  | .nmu n => match (s.nmu n).run with
    | some r => .next (s.nmuEnd n r 1)
    | none => .next s
  | .run d h => .next (s.endRun d h 3 0)
  | .none => .next s

/-! Faults that task 0 takes (R225). -/

/-- The next fault: of one cycle the one of the lowest strand, which is one that names none; whether it names a strand. -/
def Core.nextFault (k : Core) : Option (AFault × Bool) :=
  match k.afaults, k.dfault with
  | f :: _, some g => if f.cycle ≤ g.cycle then some (f, false) else some (g, true)
  | f :: _, none => some (f, false)
  | [], some g => some (g, true)
  | [], none => none

/-- The fault is no longer pending. -/
def Core.dropFault (k : Core) (data : Bool) : Core := if data then { k with dfault := none } else { k with afaults := k.afaults.drop 1 }

/-- The wait has acted at its target, or is about to: it is not left (R225). -/
def Core.hasActed (k : Core) (w : Wait) : Bool :=
  w.acted || match w.what with
    | .reply id => match k.access id with
      | some a => (match a.kind with | .atom _ => a.stage == .performed | _ => false)
      | none => false
    | .phase => true
    | .restart => true
    | _ => false

/-- Task 0 of core c leaves its wait: a load's reply goes nowhere, a command is withdrawn (R225). -/
def State.abandon (s : State) (c : Nat) (w : Wait) : State :=
  match w.what with
  | .reply id => match (s.core c).access id with
    | some a => (match a.kind with
      | .atom _ => s.endAccess c id
      | _ => s.modAccess c id fun a => { a with dest := .none })
    | none => s
  | .arrival id => s.endAccess c id
  | .walk => (s.dropWalk c).modCore c fun k => { k with probe := none }
  | .room => (s.withdrawWalk c 0).modCore c fun k => { k with ncmds := tdel k.ncmds 0 }
  | _ => s

/-- ASYNC_FAULT_TAKE: task 0 takes the pending fault at its instruction boundary, or leaves its wait for it (R225, R226). -/
def execAsyncFaultTake (c : Nat) (s : State) : Out :=
  let k := s.core c
  let x := k.task 0
  if !s.ctlRuns c || !k.faultDue then .next s
  else match k.nextFault with
    | none => .next s
    | some (f, data) =>
      let take (s : State) : State := (s.modCore c fun k => k.dropFault data).enterTrap c 0 f.strand true f.task f.code x.pc f.tval
        (word f.word) f.va
      match x.st, x.wait with
      | .ready, _ => .next (take s)
      | .parked, some w => if k.hasActed w then .next s else .next (take (s.abandon c w))
      | _, _ => .next s

end Sys2Proof.Machine
end

