-- ==== Sys2Proof/Machine/Dispatcher.lean ====
section
/-! DEFINITION. The instructions that name the dispatcher's slots (R182, R183): `launch`, `qmap`, `qunmap`, `qstat`, and the
dispatcher's answers. -/

namespace Sys2Proof.Machine

/-- The weave of core c comes from a queue with SYS = 1. -/
def State.sysWeave (s : State) (c : Nat) : Bool :=
  match s.weaveOf c with
  | some w => w.sys
  | none => false

/-- A read of n bytes at va that the dispatcher makes for a command: its failures come first (R112, R117, R136), then go gets the places. -/
def dispPlaces (s : State) (c t va n : Nat) (go : List (Nat × Nat) → State) : State :=
  match s.blockPlace c va n .rd with
  | .trap code => s.trap c t code (word va)
  | .fatal st a => s.fatal c t 0 st (s.task c t).pc (word a)
  | .ok ps => if ps.any fun p => s.errorLine (p.1 / 128) then s.trap c t 17 (word va) else go ps

/-- The failures of such a read at the issue of the command, then go. -/
def dispBlock (s : State) (c t va n : Nat) (go : State) : State := dispPlaces s c t va n fun _ => go

/-- LAUNCH: the packet's address is checked, and the task parks until the dispatcher answers (R182). -/
def execLaunch (h : CHdr) (d a slot : Nat) (s : State) : Out :=
  asTask s fun c t =>
    let v := s.reg c t a
    if v.toNat % 128 ≠ 0 then s.trap c t 20 v
    else dispBlock s c t v.toNat 128 (s.park c t .answer (.launch h d a slot) (ctlLen h 2))

/-- QMAP (R183). -/
def execQmap (h : CHdr) (d a b : Nat) (s : State) : Out :=
  asTask s fun c t =>
    let v := s.reg c t a
    let n := s.reg c t b
    if !s.sysWeave c then s.trap c t 21 0#64
    else if 64 ≤ n.toNat then s.trap c t 20 n
    else if v.toNat % 64 ≠ 0 then s.trap c t 20 v
    else dispBlock s c t v.toNat 64 (s.park c t .answer (.qmap h d a b) (ctlLen h 1))

/-- QUNMAP (R183). -/
def execQunmap (h : CHdr) (d b : Nat) (s : State) : Out :=
  asTask s fun c t =>
    let n := s.reg c t b
    if !s.sysWeave c then s.trap c t 21 0#64
    else if 64 ≤ n.toNat then s.trap c t 20 n
    else s.park c t .answer (.qunmap h d b) (ctlLen h 1)

/-- QSTAT (R183). -/
def execQstat (h : CHdr) (d b : Nat) (s : State) : Out :=
  asTask s fun c t =>
    let n := s.reg c t b
    if 64 ≤ n.toNat then s.trap c t 20 n else s.park c t .answer (.qstat h d b) (ctlLen h 1)

/-- The answer to `launch`: its status, and the slot's lane with the packet (R182). -/
def State.submit (s : State) (c slot : Nat) (p : List Byte) : Nat × State :=
  let q := s.qslot (dieOf c) slot
  if q.st ≠ .mapped then (2, s)
  else if q.ctx ≠ (s.core c).ctxno then (3, s)
  else if packetBad p then (4, s)
  else if 16 ≤ q.lane.length then (1, s)
  else (0, s.modSlot (dieOf c) slot fun q => { q with lane := q.lane ++ [p] })

/-- The slot status word as `qstat` of core c returns it: STATE alone for another context's slot (R184). -/
def State.qstatWord (s : State) (c n : Nat) : Word :=
  let w := s.slotWord (dieOf c) n
  if (s.qslot (dieOf c) n).st ≠ .free ∧ (s.qslot (dieOf c) n).ctx ≠ (s.core c).ctxno then setBits 0#64 62 2 (bits w 62 2) else w

/-- The dispatcher's answer to instruction i of task t; a read that no longer translates ends it as at its issue (R117, R182, R183). -/
def State.dispAnswer (s : State) (c t : Nat) (i : Instr) : State :=
  match i with
  | .launch _ d a slot =>
    let s1 := s.release c 5
    dispPlaces s1 c t (s1.reg c t a).toNat 128 fun ps =>
      let r := s1.submit c slot (ps.flatMap fun p => s1.homeBytes p.1 p.2)
      r.2.wakeWith c t d (word r.1)
  | .qmap _ d a b =>
    let s1 := s.release c 5
    dispPlaces s1 c t (s1.reg c t a).toNat 64 fun ps =>
      let r := s1.mapSlot (dieOf c) (s1.reg c t b).toNat ((ps.headD (0, 0)).1)
      r.2.wakeWith c t d (word r.1)
  | .qunmap _ d b =>
    let r := s.unmapSlot (dieOf c) (s.reg c t b).toNat
    (r.2.acquire c 5).wakeWith c t d (word r.1)
  | .qstat _ d b => s.wakeWith c t d (s.qstatWord c (s.reg c t b).toNat)
  | _ => s

/-- The command releases: it waits until every earlier access of its task is performed (R141, R182, R183). -/
def releasing (i : Instr) : Bool :=
  match i with
  | .launch _ _ _ _ => true
  | .qmap _ _ _ _ => true
  | _ => false

/-- DISPATCHER_ANSWER: the dispatcher of its die answers the parked command of task t of core c (R182, R183). -/
def execDispatcherAnswer (c t : Nat) (s : State) : Out :=
  match s.waitOf c t, s.isFrozen c || s.stopped c with
  | some w, false =>
    .next (if w.what == .answer && (!releasing w.instr || (s.core c).quiet t) then s.dispAnswer c t w.instr else s)
  | _, _ => .next s

end Sys2Proof.Machine
end

