-- ==== Sys2Proof/Machine/Crypto.lean ====
section
/-! DEFINITION. The functions that the chapter on the panel in service names (R506, R508): SHA-512, and PureEd25519 of RFC 8032. The rules name
them and leave their text to that RFC; what is written here is its text (assumption 132). -/

namespace Sys2Proof.Machine

/-! SHA-512. -/

/-- The round constants: the first 64 bits of the fractions of the cube roots of the first 80 primes. -/
def shaK : List Word :=
  [0x428a2f98d728ae22#64, 0x7137449123ef65cd#64, 0xb5c0fbcfec4d3b2f#64, 0xe9b5dba58189dbbc#64,
   0x3956c25bf348b538#64, 0x59f111f1b605d019#64, 0x923f82a4af194f9b#64, 0xab1c5ed5da6d8118#64,
   0xd807aa98a3030242#64, 0x12835b0145706fbe#64, 0x243185be4ee4b28c#64, 0x550c7dc3d5ffb4e2#64,
   0x72be5d74f27b896f#64, 0x80deb1fe3b1696b1#64, 0x9bdc06a725c71235#64, 0xc19bf174cf692694#64] ++
  [0xe49b69c19ef14ad2#64, 0xefbe4786384f25e3#64, 0x0fc19dc68b8cd5b5#64, 0x240ca1cc77ac9c65#64,
   0x2de92c6f592b0275#64, 0x4a7484aa6ea6e483#64, 0x5cb0a9dcbd41fbd4#64, 0x76f988da831153b5#64,
   0x983e5152ee66dfab#64, 0xa831c66d2db43210#64, 0xb00327c898fb213f#64, 0xbf597fc7beef0ee4#64,
   0xc6e00bf33da88fc2#64, 0xd5a79147930aa725#64, 0x06ca6351e003826f#64, 0x142929670a0e6e70#64] ++
  [0x27b70a8546d22ffc#64, 0x2e1b21385c26c926#64, 0x4d2c6dfc5ac42aed#64, 0x53380d139d95b3df#64,
   0x650a73548baf63de#64, 0x766a0abb3c77b2a8#64, 0x81c2c92e47edaee6#64, 0x92722c851482353b#64,
   0xa2bfe8a14cf10364#64, 0xa81a664bbc423001#64, 0xc24b8b70d0f89791#64, 0xc76c51a30654be30#64,
   0xd192e819d6ef5218#64, 0xd69906245565a910#64, 0xf40e35855771202a#64, 0x106aa07032bbd1b8#64] ++
  [0x19a4c116b8d2d0c8#64, 0x1e376c085141ab53#64, 0x2748774cdf8eeb99#64, 0x34b0bcb5e19b48a8#64,
   0x391c0cb3c5c95a63#64, 0x4ed8aa4ae3418acb#64, 0x5b9cca4f7763e373#64, 0x682e6ff3d6b2b8a3#64,
   0x748f82ee5defb2fc#64, 0x78a5636f43172f60#64, 0x84c87814a1f0ab72#64, 0x8cc702081a6439ec#64,
   0x90befffa23631e28#64, 0xa4506cebde82bde9#64, 0xbef9a3f7b2c67915#64, 0xc67178f2e372532b#64] ++
  [0xca273eceea26619c#64, 0xd186b8c721c0c207#64, 0xeada7dd6cde0eb1e#64, 0xf57d4f7fee6ed178#64,
   0x06f067aa72176fba#64, 0x0a637dc5a2c898a6#64, 0x113f9804bef90dae#64, 0x1b710b35131c471b#64,
   0x28db77f523047d84#64, 0x32caab7b40c72493#64, 0x3c9ebe0a15c9bebc#64, 0x431d67c49c100d4c#64,
   0x4cc5d4becb3e42b6#64, 0x597f299cfc657e2a#64, 0x5fcb6fab3ad6faec#64, 0x6c44198c4a475817#64]

/-- The first hash value: the same of the square roots of the first 8 primes. -/
def shaH : List Word :=
  [0x6a09e667f3bcc908#64, 0xbb67ae8584caa73b#64, 0x3c6ef372fe94f82b#64, 0xa54ff53a5f1d36f1#64,
   0x510e527fade682d1#64, 0x9b05688c2b3e6c1f#64, 0x1f83d9abfb41bd6b#64, 0x5be0cd19137e2179#64]

/-- The number of n bytes, the most significant first. -/
def bigNum (l : List Byte) : Nat := numBytes l.reverse

/-- A number in n bytes, the most significant first. -/
def bigBytes (n v : Nat) : List Byte := (bytesOfNum n v).reverse

/-- A message with its padding: a multiple of 128 bytes. -/
def shaPad (m : List Byte) : List Byte :=
  m ++ [0x80#8] ++ List.replicate ((239 - m.length % 128) % 128) 0#8 ++ bigBytes 16 (8 * m.length)

/-- The next word of the schedule from the last 16, the newest first. -/
def shaNext (w : List Word) : Word :=
  let a := w.getD 14 0#64
  let b := w.getD 1 0#64
  let s0 := a.rotateRight 1 ^^^ a.rotateRight 8 ^^^ (a >>> 7)
  let s1 := b.rotateRight 19 ^^^ b.rotateRight 61 ^^^ (b >>> 6)
  w.getD 15 0#64 + s0 + w.getD 6 0#64 + s1

/-- The schedule of a block, the newest word first, longer by n words. -/
def shaExtend : Nat → List Word → List Word
  | 0, w => w
  | n + 1, w => shaExtend n (shaNext w :: w)

/-- One round: the eight working words with a constant and a word of the schedule. -/
def shaRound (v : List Word) (k w : Word) : List Word :=
  match v with
  | [a, b, c, d, e, f, g, h] =>
    let s1 := e.rotateRight 14 ^^^ e.rotateRight 18 ^^^ e.rotateRight 41
    let t1 := h + s1 + ((e &&& f) ^^^ (~~~e &&& g)) + k + w
    let s0 := a.rotateRight 28 ^^^ a.rotateRight 34 ^^^ a.rotateRight 39
    [t1 + (s0 + ((a &&& b) ^^^ (a &&& c) ^^^ (b &&& c))), a, b, c, d + t1, e, f, g]
  | _ => v

/-- The hash value after a block of 128 bytes. -/
def shaBlock (hv : List Word) (blk : List Byte) : List Word :=
  let w := (shaExtend 64 ((span 0 16).map fun i => BitVec.ofNat 64 (bigNum ((blk.drop (8 * i)).take 8))).reverse).reverse
  ((shaK.zip w).foldl (fun v x => shaRound v x.1 x.2) hv).zipWith (fun a b => b + a) hv

/-- The hash value after n blocks. -/
def shaBlocks : Nat → List Word → List Byte → List Word
  | 0, hv, _ => hv
  | n + 1, hv, m => shaBlocks n (shaBlock hv (m.take 128)) (m.drop 128)

/-- SHA-512: 64 bytes. -/
def sha512 (m : List Byte) : List Byte :=
  let x := shaPad m
  (shaBlocks (x.length / 128) shaH x).flatMap fun w => bigBytes 8 w.toNat

/-! Ed25519 (RFC 8032). -/

/-- The prime of the field, the order of the base point, and the curve's constant. -/
def edP : Nat := 2 ^ 255 - 19
def edL : Nat := 2 ^ 252 + 27742317777372353535851937790883648493
def edD : Nat := 37095705934669439343138083508754565189542113879843219016388785533085940283555

/-- b to the power of the low bits of e, modulo the prime. -/
def edPow : Nat → Nat → Nat → Nat
  | 0, _, _ => 1
  | n + 1, b, e => (if e % 2 = 1 then b else 1) * edPow n (b * b % edP) (e / 2) % edP

/-- A point in extended coordinates. -/
structure EdPoint where
  x : Nat
  y : Nat
  z : Nat
  t : Nat
deriving DecidableEq, Repr

/-- The neutral point and the base point. -/
def EdPoint.zero : EdPoint := { x := 0, y := 1, z := 1, t := 0 }
def EdPoint.base : EdPoint :=
  { x := 15112221349535400772501151409588531511454012693041857206046113283949847762202,
    y := 46316835694926478169428394003475163141307993866256225615783033603165251855960, z := 1,
    t := 46827403850823179245072216630277197565144205554125654976674165829533817101731 }

/-- The sum of two points. -/
def EdPoint.add (p q : EdPoint) : EdPoint :=
  let a := (p.y + edP - p.x) * (q.y + edP - q.x) % edP
  let b := (p.y + p.x) * (q.y + q.x) % edP
  let c := p.t * 2 * edD * q.t % edP
  let d := p.z * 2 * q.z % edP
  let e := b + edP - a
  let f := d + edP - c
  let g := d + c
  let h := b + a
  { x := e * f % edP, y := g * h % edP, z := f * g % edP, t := e * h % edP }

/-- The multiple of a point by the low n bits of k. -/
def EdPoint.mul : Nat → Nat → EdPoint → EdPoint
  | 0, _, _ => .zero
  | n + 1, k, p =>
    let r := EdPoint.mul n (k / 2) (p.add p)
    if k % 2 = 1 then r.add p else r

/-- Two points are the same. -/
def EdPoint.same (p q : EdPoint) : Bool := p.x * q.z % edP == q.x * p.z % edP && p.y * q.z % edP == q.y * p.z % edP

/-- The 32 bytes of a point. -/
def EdPoint.bytes (p : EdPoint) : List Byte :=
  let i := edPow 256 p.z (edP - 2)
  bytesOfNum 32 (p.y * i % edP + 2 ^ 255 * (p.x * i % edP % 2))

/-- The point of 32 bytes, if they stand for one. -/
def EdPoint.ofBytes (l : List Byte) : Option EdPoint :=
  let n := numBytes l
  let y := n % 2 ^ 255
  let u := (y * y + edP - 1) % edP
  let v := (edD * (y * y % edP) + 1) % edP
  let x0 := u * edPow 256 v 3 * edPow 256 (u * edPow 256 v 7 % edP) ((edP - 5) / 8) % edP
  let w := v * (x0 * x0 % edP) % edP
  let x1 := if w = u then some x0 else if w = (edP - u) % edP then some (x0 * edPow 256 2 ((edP - 1) / 4) % edP) else none
  match x1 with
  | none => none
  | some x =>
    let s := n / 2 ^ 255 % 2
    if l.length ≠ 32 ∨ edP ≤ y ∨ (x = 0 ∧ s = 1) then none
    else
      let z := if x % 2 = s then x else edP - x
      some { x := z, y, z := 1, t := z * y % edP }

/-- The number of a SHA-512 digest, modulo the order of the base point. -/
def edHash (m : List Byte) : Nat := numBytes (sha512 m) % edL

/-- The signature of 64 bytes verifies over the message against the public key. The RFC asks for the equation times 8 and lets a verifier leave
the 8 out: where the two differ, what the package takes is open. -/
def ed25519Verify (key msg sig : List Byte) : Bool :=
  let rb := sig.take 32
  let sn := numBytes (sig.drop 32)
  match EdPoint.ofBytes rb, EdPoint.ofBytes key with
  | some r, some a =>
    let l := EdPoint.mul 256 sn .base
    let q := r.add (EdPoint.mul 256 (edHash (rb ++ key ++ msg)) a)
    sig.length == 64 && decide (sn < edL) && (if Config.edStrict then l.same q else (EdPoint.mul 4 8 l).same (EdPoint.mul 4 8 q))
  | _, _ => false

/-- The secret number of a seed of 32 bytes. -/
def edSecret (seed : List Byte) : Nat :=
  let n := numBytes ((sha512 seed).take 32)
  n % 2 ^ 254 - n % 8 + 2 ^ 254

/-- The public key that a seed gives. -/
def ed25519Key (seed : List Byte) : List Byte := (EdPoint.mul 256 (edSecret seed) .base).bytes

/-- The signature of a message under a seed. -/
def ed25519Sign (seed msg : List Byte) : List Byte :=
  let key := ed25519Key seed
  let r := edHash ((sha512 seed).drop 32 ++ msg)
  let rb := (EdPoint.mul 256 r .base).bytes
  rb ++ bytesOfNum 32 ((r + edHash (rb ++ key ++ msg) * edSecret seed) % edL)

end Sys2Proof.Machine
end

