-- ==== Sys2Proof/Machine/Halt.lean ====
section
/-! DEFINITION. The halt controllers and the halt wave (R474 to R499): causes, the wave, the records, the debug instructions, the
single step, the ordered resume, the halt block. -/

namespace Sys2Proof.Machine

/-! The wave (R476, R477, R484). -/

/-- Breakpoint n stops the word that task t of core c would issue now. -/
def State.stopsTask (s : State) (c t n : Nat) : Bool :=
  s.selectTask c == some t && match s.ctlChoice c t with
    | .stop m => m == n
    | _ => false

/-- Breakpoint n stops the word that strand e of core c would issue now. -/
def State.stopsStrand (s : State) (c e n : Nat) : Bool :=
  !s.savesNow c && s.dataIssues c e && match s.dataChoice c e with
    | .stop m => m == n
    | _ => false

/-- HALT_CAUSE: a breakpoint stops the word that a task, or for parties 8 to 10 a data strand, would issue (R475, R476, R491). Every
other cause arises in the step that meets it. -/
def execHaltCause (c t src code : Nat) (pc val : Word) (s : State) : Out :=
  let here := if t < 8 then s.stopsTask c t code && (s.task c t).pc == pc else s.stopsStrand c (t - 7) code && (s.strand c (t - 7)).pc == pc.toNat
  if src = 4 ∧ val = 0#64 ∧ here = true then
    .next (if t < 8 then s.haltCore c t 0 4 code pc val else s.haltCore c 0 (t - 7) 4 code pc val)
  else .next s

/-- HALT_WAVE_ARRIVAL: the wave reaches core c, and the weave's cores of its die freeze (R477). -/
def execHaltWaveArrival (c : Nat) (s : State) : Out :=
  .next (match (s.core c).job with
    | some (w, _) => if s.weaveHalted w && !s.isFrozen c then s.freezeDie w (dieOf c) else s
    | none => s)

/-- The cores of weave w that hold a job of it. -/
def State.coresOf (s : State) (w : Weave) : List Nat := (w.jobs.map fun j => j.1).filter fun c => s.jobHere w.id c

/-- A task's command has gone to a switch die and is not carried out there (R382, R395, R481). -/
def Task.inLayer (x : Task) (frozen : Bool) : Bool :=
  match x.st, x.wait with
  | .parked, some w => w.what == .answer && w.answerable frozen && match w.instr with
      | .mgCfgOpen _ _ _ | .mgCfgFree _ _ _ | .mgRd _ _ _ => true
      | .qcast _ _ _ _ => w.res2 == 0#64
      | _ => false
  | _, _ => false

/-- A request of the weave is in the Cobin layer and can be performed at its target, but is not (R481, R484). A request whose turn at the
target comes behind one that T releases, and a stripe message for which an NMU has no room, wait on. -/
def State.inLayer (s : State) (w : Weave) : Bool :=
  (s.coresOf w).any (fun c => (s.core c).accs.any (fun a => a.space == .fabric && a.stage == .sent && (s.core c).mayArrive a)
    || (s.core c).tasks.any fun x => x.2.inLayer (s.isFrozen c))
  || s.signals.any (fun g => g.weave == some w.id && g.held.isNone)
  || s.stripes.any (fun m => m.weave == w.id && decide ((after (execStripeMessage m.id s) s).stripes.length < s.stripes.length))
  || s.partials.any fun p => match tfind s.groups p.h with
      | some g => g.weave == w.id
      | none => false

/-- HALT_SETTLED: every core has frozen and what had entered the layer is performed (R484). -/
def execHaltSettled (slot : Nat) (s : State) : Out :=
  let sl : HSlot := tget {} s.hslots slot
  match sl.weave with
  | none => .next s
  | some w => match tfind s.weaves w with
    | none => .next s
    | some x =>
      if sl.halting && !sl.settled && (s.coresOf x).all (fun c => s.isFrozen c) && !s.inLayer x then
        .next { s with hslots := tput s.hslots slot { sl with settled := true } }
      else .next s

/-! Targets (R487, R488). -/

def tgtOwn (v : Word) : Bool := bits v 47 1 == 1
def tgtCtx (v : Word) : Nat := bits v 48 16
def tgtKind (v : Word) : Nat := bits v 14 2
def tgtLoc (v : Word) : Nat := bits v 0 13

/-- The slot whose weave has a context number. -/
def State.slotOfCtx (s : State) (ctx : Nat) : Option Nat :=
  firstWhere (fun h => (tget {} s.hslots h : HSlot).weave.isSome && (tget {} s.hslots h : HSlot).ctx == ctx) (span 0 16)

/-- The slot that a target names for the weave on core c. -/
def State.targetSlot (s : State) (c : Nat) (v : Word) : Option Nat := if tgtOwn v then s.slotOf c else s.slotOfCtx (tgtCtx v)

/-- A target word is refused: a reserved bit, OWN with CTX, a KIND or a LOC that is not allowed. -/
def tgtBad (v : Word) (kinds : List Nat) (loc : Nat → Nat → Bool) : Bool :=
  bits v 16 31 != 0 || bits v 13 1 != 0 || (tgtOwn v && tgtCtx v != 0) || !kinds.contains (tgtKind v) || !loc (tgtKind v) (tgtLoc v)

/-- The debug operations, by their code in HCMD (R498). -/
def targetBad (op : Nat) (v : Word) : Bool :=
  match op with
  | 2 => tgtBad v [2] fun _ _ => true
  | 4 => tgtBad v [0, 1, 2] fun k l => k == 2 || (k == 1 && l % 64 == 0) || l == 0
  | 5 => tgtBad v [0] fun _ l => l / 64 == 0 && fld l 3 1 == 0 && fld l 4 2 != 3
  | _ => tgtBad v [0] fun _ l => l == 0

/-- The operand in RB is refused (R490, R492 to R494). -/
def operandBad (op : Nat) (v arg : Word) : Bool :=
  match op with
  | 2 => bits arg 3 5 != 0 || bits arg 9 55 != 0
  | 3 => bits arg 1 63 != 0
  | 4 => bits arg 11 53 != 0
  | 5 => match fld (tgtLoc v) 4 2 with
    | 0 => arg != 0#64
    | 1 => arg.toNat % 4 != 0
    | _ => arg.toNat % 8 != 0
  | _ => false

/-- The register value that DEBUG_COMMAND names, if the operation is refused. -/
def debugBad (op : Nat) (v arg : Word) : Option Word := if targetBad op v then some v else if operandBad op v arg then some arg else none

/-- The target is the issuing weave: it is named OWN, by the slot it holds, or by a context number that no slot has and that is its own
(R474, R487). -/
def State.namesSelf (s : State) (c : Nat) (v : Word) : Bool :=
  tgtOwn v || match s.targetSlot c v with
    | some h => s.slotOf c == some h
    | none => tgtCtx v == (s.core c).ctxno

/-- The issuing weave may name the target (R488): its own weave, or any with SYS = 1. -/
def State.debugAllowed (s : State) (c : Nat) (v : Word) : Bool :=
  s.namesSelf c v || match s.weaveOf c with
    | some w => w.sys
    | none => false

/-- A debug instruction: the privilege, the operands, and the park until the controllers answer (R488). The spec states no TVAL for
DEBUG_PRIV: it is an open value. -/
def debugWord (op : Nat) (i : Instr) (a : Nat) (arg : Option Nat) (s : State) : Out :=
  asTask s fun c t =>
    let v := s.reg c t a
    let x := match arg with
      | some b => s.reg c t b
      | none => 0#64
    if !s.debugAllowed c v then s.open_.2.trap c t 43 (word s.open_.1)
    else match debugBad op v x with
      | some w => s.trap c t 42 w
      | none => s.park c t .answer i (ctlLen {} 1)

def execDbgHalt (h : CHdr) (d a : Nat) (s : State) : Out := debugWord 1 (.dbgHalt h d a) a none s
def execDbgStep (h : CHdr) (d a b : Nat) (s : State) : Out := debugWord 2 (.dbgStep h d a b) a (some b) s
def execDbgResume (h : CHdr) (d a b : Nat) (s : State) : Out := debugWord 3 (.dbgResume h d a b) a (some b) s
def execDbgRdc (h : CHdr) (d a b : Nat) (s : State) : Out := debugWord 4 (.dbgRdc h d a b) a (some b) s
def execDbgBp (h : CHdr) (d a b : Nat) (s : State) : Out := debugWord 5 (.dbgBp h d a b) a (some b) s
def execDbgClr (h : CHdr) (d a : Nat) (s : State) : Out := debugWord 6 (.dbgClr h d a) a none s

/-! The operations. -/

/-- What an operation answers: its value, for rdc a status, and the state. -/
structure DbgAns where
  val : Word
  st : Word := 0#64
  next : State

def dbgStatus (n : Nat) (s : State) : DbgAns := { val := word n, next := s }

/-- A record of a slot changed. -/
def State.modSlotRec (s : State) (h : Nat) (f : HSlot → HSlot) : State := { s with hslots := tmod {} s.hslots h f }

/-- The halt of another weave (R489, R498): the wave starts from die d with a cause. -/
def State.dbgHaltOp (s : State) (h d : Nat) (r : HRec) : DbgAns :=
  let sl : HSlot := tget {} s.hslots h
  if sl.halting || sl.resuming then dbgStatus 2 s else dbgStatus 0 (s.haltSlot h d r)

/-- The reply that a parked task of a frozen core waits for is in its halt buffer. -/
def Core.heldReply (k : Core) (t : Nat) : Option Access :=
  match (k.task t).wait with
  | some { what := .reply id, .. } =>
    if k.haltBuf.contains id then (k.access id).bind fun a => if a.stage == .performed then some a else none else none
  | _ => none

/-- The reply is delivered in a single step: the wait ends (R493). -/
def State.stepReply (s : State) (c : Nat) (a : Access) : State :=
  let s1 := s.unholdReply c a.id
  match a.fault with
  | 0 => (s1.deliver c a).after_ c a.ordered
  | 16 => (s1.endAccess c a.id).asyncFault c 16 a.party (word a.pa) a.word
  | code => if s1.unawaited c a then s1.endAccess c a.id else s1.accessFault c a code

/-- A single step is accepted and counted (R485, R493, R499). -/
def State.countStep (s : State) (h c : Nat) : State :=
  { s.modSlotRec h (fun sl => { sl with panel := { sl.panel with steps := (sl.panel.steps + 1) % 2 ^ 32 } }) with
    hblocks := tmod {} s.hblocks (dieOf c) fun b => { b with hlstat := countUp b.hlstat 16 16 1 } }

/-- Core c as the next cycle of its data engines would find it: what is due in the cycle is written. -/
def State.settledAhead (s : State) (c : Nat) : State :=
  let s1 := s.modCore c fun k => { k with stepOwed := some 8 }
  let s2 := (s1.core c).data.matQ.foldl (fun s _ => after (execMatrixQueueW c s) s) s1
  let s3 := after (execMreleaseSlotsEmpty c s2) s2
  after (execResultDue c s3) s3

/-- The cycle would meet a freeze condition, or a class-3 result due in it is absent (R493). -/
def State.stepFreezes (s : State) (c : Nat) : Bool :=
  let s1 := s.settledAhead c
  s1.freezeMet c || (s1.core c).data.late3.isSome

/-- `dbg.step` on core c of the weave of slot h (R493). -/
def State.dbgStepOp (s : State) (h c : Nat) (arg : Word) : DbgAns :=
  let sl : HSlot := tget {} s.hslots h
  let k := s.core c
  let d := k.data
  let t := bits arg 0 3
  let owe (n : Nat) : DbgAns := dbgStatus 0 ((s.countStep h c).modCore c fun k => { k with stepOwed := some n })
  if !sl.halting || !sl.settled || sl.resuming then dbgStatus 2 s
  else if !(match sl.weave with | some w => s.jobHere w c | none => false) then dbgStatus 6 s
  else if bits arg 8 1 = 0 then
    match (k.task t).st with
    | .free => dbgStatus 6 s
    | .ready => owe t
    | .parked => match k.heldReply t, (k.task t).wait.bind fun w => w.held with
      | some a, _ => dbgStatus 4 ((s.countStep h c).stepReply c a)
      | none, some rs => dbgStatus 4 ((s.countStep h c).modTask c t fun x => x.answer rs)
      | none, none => dbgStatus 3 s
  else if d.vec.atStop && d.mat.atStop && d.cpy.atStop then dbgStatus 6 s
  else if s.stepFreezes c then dbgStatus 5 s
  else owe 8

/-- `dbg.resume` issued at panel time now (R494). -/
def State.dbgResumeOp (s : State) (h : Nat) (arg : Word) (now : Nat) : DbgAns :=
  let sl : HSlot := tget {} s.hslots h
  if !sl.halting || !sl.settled || sl.resuming then dbgStatus 2 s
  else dbgStatus 0 (s.modSlotRec h fun sl => { sl with resuming := true, deliver := bits arg 0 1 == 1, resumeAt := now + 1000 })

/-- HSTAT of a record of a slot (R485). -/
def HSlot.hstat (sl : HSlot) (r : HRec) (settled : Bool) : Word :=
  word (2 ^ 63 * bit r.valid + 2 ^ 62 * bit settled + 2 ^ 61 * bit sl.resuming + 2 ^ 60 * bit sl.halting + 2 ^ 32 * sl.ctx + 2 ^ 16 * r.more
        + 2 ^ 8 * r.src + r.code % 256)

/-- Word n of a record of a slot. -/
def HSlot.item (sl : HSlot) (r : HRec) (settled : Bool) (n : Nat) : Word :=
  match n with
  | 0 => sl.hstat r settled
  | 1 => word r.wherev
  | 2 => word r.pc
  | 3 => word r.val
  | 4 => word r.time
  | 5 => word r.settleAt
  | 6 => word sl.resumeAt
  | _ => word sl.panel.steps

/-- A frozen core's state by item (R492). -/
def State.coreItem (s : State) (c t n : Nat) : Word :=
  let k := s.core c
  let x := k.task t
  if n < 64 then x.reg n
  else match n with
    | 64 => x.pc
    | 65 => x.tcause
    | 66 => x.tpc
    | 67 => x.tval
    | 68 => k.tstat t
    | 69 => x.fpm
    | 70 => word (taskCode x + 4 * bit (x.pendCause.isSome || (t == 0 && (k.dfault.isSome || !k.afaults.isEmpty)))
                  + 8 * bit ((k.haltBuf.any fun id => match k.access id with | some a => a.party == t | none => false) || x.wait.any fun w => w.held.isSome))
    | 71 => k.tasksWord
    | 72 => k.data.dstrand
    | 73 => word ((k.frozen.map Prod.fst).getD 0)
    | 74 => word ((k.frozen.map Prod.snd).getD 0)
    | 75 => word k.data.vec.pc
    | 76 => word k.data.mat.pc
    | _ => word k.data.cpy.pc

/-- `dbg.rdc` (R492): the item of a record or of a core; SETTLED = 1 in HSTAT is an acquire of the reader. -/
def State.dbgRdcOp (s : State) (h : Nat) (reader : Option Nat) (v arg : Word) : DbgAns :=
  let sl : HSlot := tget {} s.hslots h
  let n := bits arg 0 8
  let c := tgtLoc v
  let read (r : HRec) (settled : Bool) : DbgAns :=
    if 8 ≤ n then { val := 0#64, st := 3#64, next := s }
    else { val := sl.item r settled n, next := match reader with | some x => if n = 0 ∧ settled = true then s.acquire x 5 else s | none => s }
  match sl.weave.bind fun w => tfind s.weaves w with
  | none => { val := 0#64, st := 1#64, next := s }
  | some w =>
    match tgtKind v with
    | 0 => read sl.panel sl.settled
    | 1 => read (tget {} sl.dies (c / 64)) (sl.halting && ((s.coresOf w).filter fun x => dieOf x == c / 64).all fun x => s.isFrozen x)
    | _ =>
      if !s.jobHere w.id c || !s.isFrozen c then { val := 0#64, st := 2#64, next := s }
      else if 78 ≤ n then { val := 0#64, st := 3#64, next := s }
      else { val := s.coreItem c (bits arg 8 3) n, next := s }

/-- `dbg.bp` (R490): the setting is loaded into every resident core. -/
def State.dbgBpOp (s : State) (h : Nat) (v arg : Word) : DbgAns :=
  let bk := fld (tgtLoc v) 4 2
  let s1 := s.modSlotRec h fun sl => { sl with bps := if bk = 0 then tdel sl.bps (tgtLoc v % 8) else tput sl.bps (tgtLoc v % 8) (bk, arg.toNat) }
  let sl : HSlot := tget {} s1.hslots h
  dbgStatus 0 (match sl.weave.bind fun w => tfind s1.weaves w with
    | some w => (s1.coresOf w).foldl (fun s c => s.modCore c fun k => { k with bps := sl.bps }) s1
    | none => s1)

/-- A record without its cause (R497). -/
def HRec.clear (r : HRec) : HRec := { settleAt := r.settleAt }

/-- `dbg.clr` (R497). -/
def State.dbgClrOp (s : State) (h : Nat) : DbgAns :=
  dbgStatus 0 (s.modSlotRec h fun sl => { sl with panel := sl.panel.clear, dies := sl.dies.map fun e => (e.1, e.2.clear) })

/-- A single step of a core of the slot's weave is still owed: the controllers do not answer before it is made. -/
def State.stepping (s : State) (h : Nat) : Bool :=
  match (tget {} s.hslots h : HSlot).weave.bind fun w => tfind s.weaves w with
  | some w => (s.coresOf w).any fun c => (s.core c).stepOwed.isSome
  | none => false

/-- The operation of a code on a target's slot, but for the halt, issued at panel time now (R498). -/
def State.dbgOp (s : State) (op : Nat) (slot reader : Option Nat) (v arg : Word) (now : Nat) : DbgAns :=
  match slot with
  | none => if op = 4 then { val := 0#64, st := 1#64, next := s } else dbgStatus 1 s
  | some h =>
    match op with
    | 2 => s.dbgStepOp h (tgtLoc v) arg
    | 3 => s.dbgResumeOp h arg now
    | 4 => s.dbgRdcOp h reader v arg
    | 5 => s.dbgBpOp h v arg
    | _ => s.dbgClrOp h

/-- The code and the operand registers of a debug instruction: destination, target, RB. -/
def dbgParts (i : Instr) : Option (Nat × Nat × Nat × Option Nat) :=
  match i with
  | .dbgHalt _ d a => some (1, d, a, none)
  | .dbgStep _ d a b => some (2, d, a, some b)
  | .dbgResume _ d a b => some (3, d, a, some b)
  | .dbgRdc _ d a b => some (4, d, a, some b)
  | .dbgBp _ d a b => some (5, d, a, some b)
  | .dbgClr _ d a => some (6, d, a, none)
  | _ => none

/-- The answer to `dbg.halt` of task t of core c, parked with w (R489): its own weave freezes in this cycle, once the status is written; another
one with TIME from the issuing cycle. -/
def State.answerHalt (s : State) (c t d : Nat) (w : Wait) (v : Word) : State :=
  let after_ := (s.task c t).pc + BitVec.ofNat 64 w.len
  match s.targetSlot c v with
  | none => s.wakeWith c t d 1#64
  | some h =>
    let sl : HSlot := tget {} s.hslots h
    if sl.halting || sl.resuming then s.wakeWith c t d 2#64
    else if s.slotOf c = some h then (s.wakeWith c t d 0#64).haltCore c t 0 5 0 after_ 0#64
    else
      let r := s.dbgHaltOp h (dieOf c) { causeOf s c t 0 5 0 after_ 0#64 with time := w.parkedAt }
      r.next.wakeWith c t d r.val

/-- A `dbg.resume` of task t of core c for slot h, issued at panel time now, waits for a `dbg.step` of the same time and for a `dbg.resume` of it
that stands before it by package, die, core and task (R496). -/
def State.resumeWaits (s : State) (h c t now : Nat) : Bool :=
  decide (s.time ≤ now) || s.cores.any fun e => !s.stopped e.1 && e.2.tasks.any fun x => match x.2.st, x.2.wait with
    | .parked, some w => w.what == .answer && w.parkedAt == now && w.answerable (s.isFrozen e.1) && match dbgParts w.instr with
        | some (op, _, a, _) => s.targetSlot e.1 (x.2.reg a) == some h && (op == 2 || (op == 3 && decide (8 * e.1 + x.1 < 8 * c + t)))
        | none => false
    | _, _ => false

/-- The controllers do not carry out an operation on slot h yet: a single step is still owed, or the order of one cycle holds it. -/
def State.debugWaits (s : State) (op h c t now : Nat) : Bool := s.stepping h || (op == 3 && s.resumeWaits h c t now)

/-- HALT_CONTROLLER_ANSWER: the controllers carry out a debug instruction, and its task goes on; on a frozen core at T (R481, R488). -/
def execHaltControllerAnswer (c t : Nat) (s : State) : Out :=
  match s.waitOf c t, s.stopped c with
  | some w, false =>
    if !w.answerable (s.isFrozen c) then .next s
    else match w.what, dbgParts w.instr with
    | .answer, some (op, d, a, b) =>
      let v := s.reg c t a
      let arg := match b with
        | some b => s.reg c t b
        | none => 0#64
      let slot := s.targetSlot c v
      if (match slot with | some h => s.debugWaits op h c t w.parkedAt | none => false) then .next s
      else if op = 1 then .next (s.answered c t (s.answerHalt c t d w v))
      else
        let r := s.dbgOp op slot (some c) v arg w.parkedAt
        .next (s.answered c t (if op = 4 then (r.next.setReg c t (d + 1) r.st).wakeWith c t d r.val else r.next.wakeWith c t d r.val))
    | _, _ => .next s
  | _, _ => .next s

/-! The halt block (R498). -/

/-- An operation of die d's block is carried out: op 1 to 6. -/
def hcmd (op d : Nat) (s : State) : Out :=
  let b : HBlock := tget {} s.hblocks d
  let put (val st : Word) (s : State) : State :=
    { s with hblocks := tmod {} s.hblocks d fun b => { b with cmd := none, hres := val, hres2 := setBits st 63 1 1 } }
  if b.cmd ≠ some op then .next s
  else match debugBad op b.tgt b.arg with
    | some _ => .next (put 0xFF#64 0#64 s)
    | none =>
      let slot := if tgtOwn b.tgt then none else s.slotOfCtx (tgtCtx b.tgt)
      if (match slot with | some h => s.stepping h | none => false) then .next s
      else
        let r := if op = 1 then (match slot with
            | some h => s.dbgHaltOp h d { causeOf s (64 * d) 0 0 6 0 0#64 0#64 with time := b.at_ }
            | none => dbgStatus 1 s)
          else s.dbgOp op slot none b.tgt b.arg b.at_
        .next (put r.val r.st r.next)

def execHcmdHalt (d : Nat) (s : State) : Out := hcmd 1 d s
def execHcmdStep (d : Nat) (s : State) : Out := hcmd 2 d s
def execHcmdResume (d : Nat) (s : State) : Out := hcmd 3 d s
def execHcmdRdc (d : Nat) (s : State) : Out := hcmd 4 d s
def execHcmdBp (d : Nat) (s : State) : Out := hcmd 5 d s
def execHcmdClr (d : Nat) (s : State) : Out := hcmd 6 d s

/-! The ordered resume (R494, R495). -/

/-- A task as its core resumes: a wait that ended is over, a held answer comes, and what it waits for goes on; a word it stopped at meets no
breakpoint (R481, R491, R494). -/
def Task.resume (x : Task) : Task :=
  match x.wait with
  | some { what := .ended, .. } => x.wake
  | some { held := some rs, .. } => x.answer rs
  | some w => { x with exempt := x.st == .ready, wait := some { w with late := false } }
  | none => { x with exempt := x.st == .ready }

/-- A strand as its core resumes. -/
def Strand.resume (x : Strand) : Strand := { x with exempt := x.going }

/-- The pending causes of a core: with DELIVER the tasks enter their traps, without it the marks are dropped (R495). -/
def State.settleCauses (s : State) (c : Nat) (deliver : Bool) : State :=
  (span 0 8).foldl (fun s t =>
    let x := s.task c t
    match x.pendCause with
    | none => s
    | some (cause, tpc, tval) =>
      let s1 := s.modTask c t fun x => { x with pendCause := none }
      if !deliver then s1
      else if (s1.core c).tvec = 0#64 ∨ x.tin = true then
        let code := bits cause 0 8
        s1.tearDown (s1.weaveNo c) 11 { wherev := placeOf c, strand := 0, task := t, word := x.pendAt.toNat, vaddr := trapVa code tval, cause := code }
      else s1.modTask c t fun x => x.enter (s1.core c).tvec cause tpc tval (s1.core c).cycle) s

/-- Core c resumes (R494). -/
def State.thaw (s : State) (deliver : Bool) (c : Nat) : State :=
  let s1 := s.modCore c fun k =>
    let data := { k.data with vec := k.data.vec.resume, mat := k.data.mat.resume, cpy := k.data.cpy.resume }
    { k with frozen := none, stepOwed := none, tasks := k.tasks.map fun e => (e.1, e.2.resume), data := data }
  ((s1.freeSignals c).drainSignals c).settleCauses c deliver

/-- RESUME_AT_T: at T the weave's cores restart together, what waited for them goes on, pending causes are settled, and a deferred
teardown proceeds (R494, R495). -/
def execResumeAtT (slot : Nat) (s : State) : Out :=
  let sl : HSlot := tget {} s.hslots slot
  match sl.weave.bind fun w => tfind s.weaves w with
  | none => .next s
  | some w =>
    if !sl.resuming || decide (s.time < sl.resumeAt) || s.stepping slot then .next s
    else
      let s1 := s.modSlotRec slot fun sl => { sl with halting := false, settled := false, resuming := false, teardown := none }
      let s2 := (s1.coresOf w).foldl (fun s c => s.thaw sl.deliver c) s1
      let s3 := match sl.teardown with
        | some (st, rep) => s2.tearDown w.id st rep
        | none => s2
      .next (((s3.resumeNmus w.id).resumeGroups w.id).resumeNet)

end Sys2Proof.Machine
end

