-- ==== Sys2Proof/Machine/Service.lean ====
section
/-! DEFINITION. The panel in service (R500 to R513): host accesses, bring-up, firmware and attestation, power and cooling, ageing,
the package management block. -/

namespace Sys2Proof.Machine

/-- What is watched of die d. -/
def State.serv (s : State) (d : Nat) : DieServ := tget {} s.dieServ d

/-- The state with f applied to what is watched of die d. -/
def State.modServ (s : State) (d : Nat) (f : DieServ → DieServ) : State := { s with dieServ := tmod {} s.dieServ d f }

/-- A host write of package p is dropped and counted in DROPW (R502, R513). -/
def State.dropHost (s : State) (p : Nat) : State := s.modPkg p fun x => { x with mgmtstat := countUp x.mgmtstat 32 32 1 }

/-- The packages that have power. -/
def State.powered (s : State) : List Nat := (span 0 64).filter fun p => (s.pkg p).boot != .off

/-- A bit of MGMTINT rises in every package that has power. -/
def State.attentionAll (s : State) (b : Nat) : State := s.powered.foldl (fun s p => s.attention p b) s

/-- A package is marked lost (R393, R511). -/
def State.markLost (s : State) (p : Nat) : State :=
  if s.lost.testBit p then s else { s with lost := s.lost + 2 ^ p }.attentionAll 3

/-! Host accesses (R148, R501, R502). -/

/-- The panel-physical address that a BAR4 offset reaches, with target package t. -/
def bar4Addr (t off : Nat) : Nat := 2 ^ 42 * t + 2 ^ 41 * (off / 2 ^ 38 % 2) + off % 2 ^ 38

/-- HOST_MEMORY_ACCESS: a host read or write of HBM enters at the homes of its sectors; err is a lasting error that a read meets
anew. The package's port answers a read with the bytes, or with a Completer Abort (R136, R148, R502). -/
def execHostMemoryAccess (p : Nat) (write : Bool) (off : Nat) (data : List Byte) (err : Bool) (s : State) : Out :=
  let t := (s.pkg p).apbase
  let at_ (i : Nat) : Nat := bar4Addr t (off + i)
  let as := (span 0 data.length).map at_
  if !s.hostUp p || (s.pkg t).boot == .off || decide (2 ^ 39 < off + data.length) then .next s
  else if write then
    .next (s.homeWrite none ((as.zip data).filter fun x => !s.errorLine (x.1 / 128)))
  else
    let ks := (as.map fun a => a / 32).eraseDups
    let s1 := ks.foldl (fun s k => s.homeFetch k) s
    let reply (s : State) (r : HostCpl) : State := s.modPkg p fun x => { x with hostRead := r }
    let bytes : HostCpl := .data (as.flatMap fun a => s.homeBytes a 1)
    .next (if ks.any fun k => s.errorLine (k / 4) then reply s .abort
      else if err then
        (match ks with
         | k :: _ => if s.cleanCopy k then reply (((s.homeDrop k).countError (paDie (32 * k)) 1).homeFetch k) bytes
                     else reply (s.countError (paDie (32 * k)) 3) .abort
         | [] => s)
      else reply s1 bytes)

/-! Firmware (R506, R507). -/

/-- The 64-bit number at a byte of an image. -/
def imageNum (m : Bytes) (i : Nat) : Nat := numBytes (bytesAt m i 8)

/-- The fate of the image that package p finds in a store: 0 accepted, else the code of BOOTSTAT: 1 bad signature, 2 ROLLBACK,
3 bad LEN (R506). -/
def checkImage (p : Nat) (m : Bytes) : Nat :=
  let len := imageNum m 72
  if len < 64 ∨ 2 ^ 25 - 64 < len then 3
  else if !ed25519Verify (Config.vireriKey p) (bytesAt m 64 len) (bytesAt m 0 64) then 1
  else if imageNum m 64 < Config.minVersion p then 2
  else 0

/-- The bytes of a digest. -/
def fit (n : Nat) (l : List Byte) : List Byte := (l ++ List.replicate n 0#8).take n

/-- FWDIGEST of the image in the flash (R506). -/
def digestOf (m : Bytes) : List Byte := sha512 (bytesAt m 64 (imageNum m 72))

/-! Power and reset (R503, R507, R511). -/

/-- Die d throttles to step 5. -/
def State.throttled (s : State) (d : Nat) : Bool := s.flowThrottle || (s.serv d).hot

/-- The slowest step that throttling and CLKFORCE demand of die d. -/
def State.stepFloor (s : State) (d : Nat) : Nat :=
  let f := (s.pkg (d / 2)).clkforce
  if s.throttled d then 5 else if fld f 3 1 = 1 then min 5 (fld f 0 3) else 0

/-- A die runs at a step no faster than the floor. -/
def State.slow (s : State) (d : Nat) : State := s.modServ d fun x => { x with step := max x.step (s.stepFloor d) }

/-- Both dies of package p run no faster than their floors. -/
def State.slowPkg (s : State) (p : Nat) : State := (s.slow (2 * p)).slow (2 * p + 1)

/-- What is watched of a die after a reset of its package: its junction is as hot as before. -/
def DieServ.kept (x : DieServ) : DieServ := { temp := x.temp, hot := x.hot }

/-- The entries of a table whose keys lie outside n numbers from lo. -/
def keysOut {α : Type} (t : Tbl α) (lo n : Nat) : Tbl α := t.filter fun e => decide (e.1 < lo) || decide (lo + n ≤ e.1)

/-- What stands outside a package's state: the barriers of other packages and of the panel. -/
def barsOut (t : Tbl Barrier) (p : Nat) : Tbl Barrier :=
  keysOut (keysOut (keysOut (keysOut t (2048 * p) 2048) (2 ^ 17 + 1024 * p) 1024) (2 ^ 18 + 512 * p) 512) (2 ^ 19 + 256 * p) 256

/-- Every register of package p takes its reset value: its cores, caches, dispatchers and engines; the flash, the staging buffer
and the boot count stay, and what HBM holds, and the temperatures. -/
def State.resetPkg (s : State) (p : Nat) : State :=
  let x := s.pkg p
  State.slowPkg (p := p) { s with
    cores := keysOut s.cores (128 * p) 128, disps := keysOut s.disps (2 * p) 2, barriers := barsOut s.barriers p,
    weaves := s.weaves.filter fun e => !(e.2.die / 2 == p && e.2.st == .waiting), runs := s.runs.filter fun e => e.2.die / 2 != p,
    homes := keysOut s.homes (2 ^ 37 * p) (2 ^ 37), tracked := keysOut s.tracked (256 * p) 256, windows := keysOut s.windows (8192 * p) 8192,
    logs := keysOut s.logs p 1, walkQ := keysOut s.walkQ (2 * p) 2, walkStore := keysOut s.walkStore (2 * p) 2, memerr := keysOut s.memerr (2 * p) 2,
    hblocks := keysOut s.hblocks (2 * p) 2, trk := keysOut s.trk (2 * p) 2, nmus := keysOut s.nmus (512 * p) 512, twstat := keysOut s.twstat (8 * p) 8,
    nets := keysOut s.nets (2 * p) 2, smps := keysOut s.smps (2 * p) 2, dieServ := s.dieServ.map fun e => (e.1, if e.1 / 2 = p then e.2.kept else e.2),
    pkgs := tput s.pkgs p { flash := x.flash, fwbuf := x.fwbuf, bootCount := x.bootCount, apbase := p, inlet := x.inlet } }

/-- Package p loses power: what its HBM holds is lost too. -/
def State.cutPower (s : State) (p : Nat) : State :=
  let s1 := s.resetPkg p
  { s1 with banks := keysOut s1.banks (2 ^ 42 * p) (2 ^ 42) }.modPkg p fun x => { x with fwbuf := [] }

/-- POWER_OFF: the panel or one package loses power (R511). Flash and boot counts stay, the flow and the temperatures, and the model's own
fields. -/
def execPowerOff (p : Option Nat) (s : State) : Out :=
  match p with
  | some p => .next (if p < 64 then s.cutPower p else s)
  | none => .next { turns := s.turns, turnCtr := s.turnCtr, cur := s.cur, freeCtr := s.freeCtr, nextId := s.nextId,
                    flow := s.flow, flowThrottle := decide (s.flow < 120), flowSince := if s.flow < 130 then none else some 0,
                    dieServ := s.dieServ.map fun e => (e.1, e.2.kept),
                    pkgs := s.pkgs.map fun e => (e.1, { flash := e.2.flash, bootCount := e.2.bootCount, apbase := e.1, inlet := e.2.inlet }) }

/-- A step of bring-up fails; the failing link or step is open. -/
def State.bootFails (s : State) (p : Nat) : State :=
  let v := s.open_
  v.2.modPkg p fun x => { x with boot := .failed, code := v.1 % 256 }

/-- POWER_ON: package p makes the next step of its bring-up, from power-on up to its report to the Cobin layer (R503, R506): the ROM starts and
waits for flow, the image is checked, the links are trained, panel time is locked. -/
def execPowerOn (p : Nat) (flowOk linksOk syncOk : Bool) (s : State) : Out :=
  let to_ (b : Boot) (code : Nat) : State := s.modPkg p fun x => { x with boot := b, code }
  if 64 ≤ p ∨ s.lost.testBit p = true then .next s
  else match (s.pkg p).boot with
    | .off => .next ((s.modPkg p fun x => { x with boot := .rom, code := 0, apbase := p }).slowPkg p)
    | .rom =>
      if flowOk = false ∨ s.flow = 0 then .next s
      else .next (s.modPkg p fun x => { x with boot := .fwcheck, code := 0, bootCount := x.bootCount + 1, fwdigest := digestOf x.flash })
    | .fwcheck =>
      let code := checkImage p (s.pkg p).flash
      if code ≠ 0 then .next (to_ .recovery code)
      else .next (s.modPkg p fun x => { x with boot := .train, fwver := word (imageNum x.flash 64) })
    | .train => .next (if linksOk then to_ .sync 0 else s.bootFails p)
    | .sync => .next (if syncOk then to_ .join 0 else s.bootFails p)
    | .join | .ready | .recovery | .failed => .next s

/-- The package has joined, or is marked lost. -/
def State.joined (s : State) (p : Nat) : Bool := (s.pkg p).boot == .join || (s.pkg p).boot == .ready || s.lost.testBit p

/-- JOIN_END: every package has joined, or 2 s have passed: the packages that have not are marked lost, and the others become
READY (R503). -/
def execJoinEnd (s : State) : Out :=
  let some_ := (span 0 64).any fun p => (s.pkg p).boot == .join && !s.lost.testBit p
  let all_ := (span 0 64).all s.joined
  if !some_ || (!all_ && decide (s.time < 2000000000)) then .next s
  else
    let s1 := ((span 0 64).filter fun p => !s.joined p).foldl State.markLost s
    .next ((span 0 64).foldl (fun s p => if (s.pkg p).boot == .join && !s.lost.testBit p then s.modPkg p fun x => { x with boot := .ready } else s) s1)

/-- A weave is resident or saved on package p. -/
def State.pkgBusy (s : State) (p : Nat) : Bool := s.dieBusy (2 * p) || s.dieBusy (2 * p + 1)

/-- FWCTL_COMMIT: the staged image is checked; the package replaces its flash and resets, or rejects it (R507). -/
def execFwctlCommit (p : Nat) (s : State) : Out :=
  if !s.mgmtUp p then .next s
  else if s.pkgBusy p then .next (s.modPkg p fun x => { x with fwstat := 1 })
  else if checkImage p (s.pkg p).fwbuf ≠ 0 then .next (s.modPkg p fun x => { x with fwstat := 2 })
  else .next ((s.resetPkg p).modPkg p fun x => { x with flash := x.fwbuf, boot := .rom, fwstat := 3 })

/-! Attestation (R508). -/

/-- ATTCMD_START: the host writes 1 to ATTCMD. -/
def execAttcmdStart (p : Nat) (s : State) : Out := .next (if s.mgmtUp p then s.modPkg p fun x => { x with attcmd := 1 } else s)

/-- The first 192 bytes of the report of package p. -/
def State.reportBody (s : State) (p : Nat) : List Byte :=
  let x := s.pkg p
  let store (d : Nat) : List Byte := bytesAt (tget [] s.walkStore d) 0 65536
  bytesAt x.nonce 0 32 ++ bytesOfNum 8 p ++ bytesOfNum 8 Config.panelSerial ++ fit 64 x.fwdigest
  ++ sha512 (store (2 * p) ++ store (2 * p + 1)) ++ bytesOfNum 8 x.bootCount ++ bytesOfNum 8 s.time

/-- ATTEST_REPORT_READY: the report stands in ATTREP, signed under the key pair that the fused seed gives (R508). -/
def execAttestReportReady (p : Nat) (s : State) : Out :=
  if (s.pkg p).attcmd ≠ 1 then .next s
  else
    let b := s.reportBody p
    .next (s.modPkg p fun x => { x with attrep := b ++ ed25519Sign (fit 32 (Config.seed p)) b, attcmd := 2 })

/-! Power, cooling and clocks (R509, R510, R513). Clock steps change timing only. -/

/-- The dies of the panel that have power. -/
def State.poweredDies (s : State) : List Nat := s.powered.flatMap fun p => [2 * p, 2 * p + 1]

/-- COOLANT_FLOW_CHANGE: below 160 L/min THERM is set; below 120 every package throttles (R509). -/
def execCoolantFlowChange (flow : Nat) (s : State) : Out :=
  let since := if flow < 130 then none else match s.flowSince with
    | some t => some t
    | none => some s.time
  let s1 := { s with flow, flowSince := since, flowThrottle := s.flowThrottle || decide (flow < 120) }
  let s2 := if 120 ≤ flow ∧ flow < 160 then s1.attentionAll 1 else s1
  .next (if flow < 120 then s2.poweredDies.foldl State.slow s2 else s2)

/-- FLOW_RECOVERY_TIMER: the flow has stood at 130 L/min or more for 1 s: throttling on flow ends (R509). -/
def execFlowRecoveryTimer (s : State) : Out :=
  .next (match s.flowSince with
    | some t => if s.flowThrottle && decide (130 ≤ s.flow) && decide (t + 1000000000 ≤ s.time) then { s with flowThrottle := false } else s
    | none => s)

/-- JUNCTION_TEMPERATURE_CHANGE: a die throttles from 105 °C until it has fallen to 100 °C (R509). -/
def execJunctionTemperatureChange (d temp : Nat) (s : State) : Out :=
  if 128 ≤ d then .next s
  else .next ((s.modServ d fun x => { x with temp, hot := if 105 ≤ temp then true else if temp ≤ 100 then false else x.hot }).slow d)

/-- THERMAL_TRIP: a junction at 115 °C or stopped flow: the package powers off and is marked lost (R509). -/
def execThermalTrip (p : Nat) (s : State) : Out :=
  if 64 ≤ p ∨ (s.pkg p).boot = .off then .next s
  else if s.flow = 0 ∨ 115 ≤ (s.serv (2 * p)).temp ∨ 115 ≤ (s.serv (2 * p + 1)).temp then .next ((s.cutPower p).markLost p)
  else .next s

/-- PCAP_WRITE: the cap of die d of package p, clamped (R510, R511). -/
def execPcapWrite (p d : Nat) (v : Word) (s : State) : Out :=
  .next (if s.mgmtUp p then s.modServ (2 * p + d % 2) fun x => { x with pcap := max 200 (min 640 (bits v 0 10)) } else s)

/-- SWCAP_WRITE: the cap of the switch dies. The spec states no value for a write outside 50 to 300: it is an open value. -/
def execSwcapWrite (p : Nat) (v : Word) (s : State) : Out :=
  let n := bits v 0 10
  if !s.mgmtUp p then .next s
  else if 50 ≤ n ∧ n ≤ 300 then .next (s.modPkg p fun x => { x with swcap := n })
  else .next (s.open_.2.modPkg p fun x => { x with swcap := s.open_.1 % 1024 })

/-- CLKFORCE_WRITE: both dies run at STEP or slower (R513). -/
def execClkforceWrite (p : Nat) (v : Word) (s : State) : Out :=
  .next (if s.mgmtUp p then ((s.modPkg p fun x => { x with clkforce := bits v 0 4 }).slow (2 * p)).slow (2 * p + 1) else s)

/-- CLOCK_STEP_CHANGE: a die moves among the steps to keep its cap, no faster than throttling and CLKFORCE allow; a step past 5
says that step 5 cannot meet the cap: it holds step 5 and sets MGMTINT.CAP (R510). -/
def execClockStepChange (d step : Nat) (s : State) : Out :=
  if 128 ≤ d then .next s
  else
    let s1 := s.modServ d fun x => { x with step := max (min 5 step) (s.stepFloor d) }
    .next (if 5 < step then s1.attention (d / 2) 2 else s1)

/-! Ageing (R512). -/

/-- Sums over the samples, numbered from x: of x, of x², of the sample, of x times the sample. -/
def sumsOf : Nat → List Nat → Nat × Nat × Nat × Nat
  | _, [] => (0, 0, 0, 0)
  | x, m :: t => let r := sumsOf (x + 1) t; (x + r.1, x * x + r.2.1, m + r.2.2.1, x * m + r.2.2.2)

/-- H from the margins, in units of 0.1 mV and the newest last: the hours to 20 mV along the least-squares line. -/
def lifeLeft (ms : List Nat) (margin : Nat) : Nat :=
  let n := ms.length
  let r := sumsOf 0 ms
  let den := n * r.2.1 - r.1 * r.1
  let fall := r.1 * r.2.2.1 - n * r.2.2.2
  if margin ≤ 200 then 0
  else if 0 < fall ∧ 0 < den then min (2 ^ 32 - 1) ((margin - 200) * den / fall)
  else 2 ^ 32 - 1

/-- AGE_SAMPLE: a die's hourly sample: drift in ppm, margin in units of 0.1 mV; MARGIN saturates as DRIFT does (R512; DESIGN CHOICE, assumption
129). -/
def execAgeSample (d drift margin : Nat) (s : State) : Out :=
  let x := s.serv d
  if 128 ≤ d ∨ s.time < x.sampled + 3600000000000 then .next s
  else
    let ms := (x.margins ++ [margin]).drop (x.margins.length + 1 - 1024)
    let h := lifeLeft ms margin
    let s1 := s.modServ d fun x => { x with margins := ms, margin := min 65535 margin, drift := min 65535 (drift / 10), eolh := h, sampled := s.time }
    .next (if h < 8760 ∨ 50000 < drift then s1.attention (d / 2) 4 else s1)

/-! The management block (R504, R505, R511). -/

/-- A halted weave that is killed goes on for its teardown: its cores are free to finish, nothing of it resumes (R496). -/
def State.unhalt (s : State) (w : Weave) : State :=
  match w.hslot with
  | none => s
  | some h =>
    let s1 := { s with hslots := tmod {} s.hslots h fun sl => { sl with halting := false, settled := false, resuming := false, teardown := none } }
    (s1.coresOf w).foldl (fun s c => (s.modCore c fun k => { k with frozen := none, stepOwed := none }).freeSignals c) s1

/-- KILL_WRITE: every weave of a context is torn down with KILLED; one that names none counts (R176, R511). -/
def execKillWrite (p : Nat) (v : Word) (s : State) : Out :=
  let ws := (s.weaves.filter fun e => e.2.ctx == bits v 0 16 && !e.2.torn && e.2.st != .ended).map fun e => e.2
  if !s.mgmtUp p then .next s
  else if ws.isEmpty then .next (s.modPkg p fun x => { x with mgmtstat := countUp x.mgmtstat 16 16 1 })
  else .next (ws.foldl (fun s w => (s.unhalt w).tearDown w.id 12 {}) s)

/-- LOST_WRITE: with SET = 1 the package is marked in every LOSTMAP (R511). -/
def execLostWrite (p : Nat) (v : Word) (s : State) : Out :=
  .next (if s.mgmtUp p && v.toNat.testBit 63 then s.markLost (bits v 0 6) else s)

/-- APBASE_WRITE: the target package of BAR4 (R502). -/
def execApbaseWrite (p : Nat) (v : Word) (s : State) : Out :=
  .next (if s.mgmtUp p then s.modPkg p fun x => { x with apbase := bits v 0 6 } else s)

/-- MGMTINT_WRITE: bits written 1 are cleared (R511). -/
def execMgmtintWrite (p : Nat) (v : Word) (s : State) : Out :=
  .next (if s.mgmtUp p then s.modPkg p fun x => { x with mgmtint := x.mgmtint - (x.mgmtint &&& v.toNat) } else s)

/-- NETADDR_WRITE: a word of a die's network addresses, off its offset in the block; dropped while a queue pair of the die is open (R505). -/
def execNetaddrWrite (p off : Nat) (v : Word) (s : State) : Out :=
  let d := 2 * p + (off - 0x100) / 0x40
  if !s.mgmtUp p || decide (off < 0x100) || decide (0x180 ≤ off) || off % 8 != 0 then .next s
  else if !(tget {} s.nets d : NetEng).qps.isEmpty then .next (s.dropHost p)
  else .next (s.modPkg p fun x => { x with netaddr := setBytes x.netaddr (off - 0x100) (bytesOfNum 8 v.toNat) })

/-- WALK_STORE_WRITE: a word of die d's walk store; dropped while a weave of the die is resident or saved (R504). -/
def execWalkStoreWrite (d off : Nat) (v : Word) (s : State) : Out :=
  if !s.hostUp (d / 2) || decide (65536 ≤ off) || off % 8 != 0 then .next s
  else if s.dieBusy d then .next (s.dropHost (d / 2))
  else .next { s with walkStore := tmod [] s.walkStore d fun m => setBytes m off (bytesOfNum 8 v.toNat) }

/-- EDGECTL_WRITE: the edge ports of a switch die, written through a package whose window answers (R505, R507). -/
def execEdgectlWrite (sw : Nat) (v : Word) (s : State) : Out :=
  .next (if decide (sw < 16) && (span 0 64).any s.hostUp then { s with edge := tput s.edge sw (bits v 0 8) } else s)

/-- The panel-physical address of the device register at an offset of BAR2 of package p (R501). -/
def bar2Addr (p off : Nat) : Option Nat :=
  if 0x4000000 ≤ off ∧ off < 0xC000000 then some (2 ^ 42 * p + 2 ^ 41 * (off / 0x4000000 - 1) + 0x4000000000 + off % 0x4000000)
  else if 0xC000000 ≤ off ∧ off < 0xE000000 then some (2 ^ 42 * p + 2 ^ 41 * (off / 0x1000000 - 12) + 0x4100000000 + off % 0x1000000)
  else none

/-- The host writes a device register (R112): read-only words stay, and the ring blocks, which answer to their own core alone (R295); a reserved
offset is dropped and counted (R502). -/
def State.hostRegWrite (s : State) (pa : Nat) (v : Word) : State :=
  match devAt pa with
  | some (.rdesc _ _) => s
  | some r => if r.writable then s.devWrite pa v else s
  | none => s.dropHost (paPkg pa)

/-- A word of the package management block is written (R511, R513). -/
def State.blockWrite (s : State) (p off : Nat) (v : Word) : State :=
  match off with
  | 0x018 => if bits v 0 1 = 1 then after (execFwctlCommit p s) s else s
  | 0x028 => after (execMgmtintWrite p v s) s
  | 0x030 => s.modPkg p fun x => { x with mgmten := bits v 0 5 }
  | 0x038 => after (execKillWrite p v s) s
  | 0x040 => after (execLostWrite p v s) s
  | 0x050 => after (execApbaseWrite p v s) s
  | 0x058 => after (execPcapWrite p 0 v s) s
  | 0x060 => after (execPcapWrite p 1 v s) s
  | 0x068 => after (execSwcapWrite p v s) s
  | 0x220 => if v = 1#64 then after (execAttcmdStart p s) s else s.modPkg p fun x => { x with attcmd := bits v 0 2 }
  | 0x800 => s.modPkg p fun x => { x with mgmtstat := v }
  | 0x808 => after (execClkforceWrite p v s) s
  | _ =>
    if 0x200 ≤ off ∧ off < 0x220 then
      s.modPkg p fun x => if x.attcmd = 1 then x else { x with nonce := setBytes x.nonce (off - 0x200) (bytesOfNum 8 v.toNat) }
    else if 0x100 ≤ off ∧ off < 0x180 then after (execNetaddrWrite p off v s) s
    else if off ≤ 0x80 ∨ (0x400 ≤ off ∧ off < 0x500) then s
    else s.dropHost p

/-- The word at an aligned offset of package p's management window is written (R501). -/
def State.mgmtWrite (s : State) (p off : Nat) (v : Word) : State :=
  if off % 8 ≠ 0 then s.dropHost p
  else if off < 0x1000 then s.blockWrite p off v
  else if 0x2000000 ≤ off ∧ off < 0x4000000 then s.modPkg p fun x => { x with fwbuf := setBytes x.fwbuf (off - 0x2000000) (bytesOfNum 8 v.toNat) }
  else if !s.hostUp p then s.dropHost p
  else if 0x10000 ≤ off ∧ off < 0x20000 then
    let sw := (off - 0x10000) / 0x1000
    (if off % 0x1000 = 0 then { s with fabstat := tput s.fabstat sw v } else if off % 0x1000 = 8 then after (execEdgectlWrite sw v s) s else s.dropHost p)
  else if 0x100000 ≤ off ∧ off < 0x120000 then after (execWalkStoreWrite (2 * p + (off - 0x100000) / 0x10000) (off % 0x10000) v s) s
  else match bar2Addr p off with
    | some pa => s.hostRegWrite pa v
    | none => s.dropHost p

/-- DEVICE_REGISTER_WRITE: system software writes a device register by its panel-physical address (R112), or a word of package p's management
window by 2^48 + 2^28 p + its BAR2 offset. -/
def execDeviceRegisterWrite (pa : Nat) (v : Word) (s : State) : Out :=
  if 2 ^ 48 ≤ pa then
    let p := (pa - 2 ^ 48) / 2 ^ 28
    .next (if s.mgmtUp p then s.mgmtWrite p (pa % 2 ^ 28) v else s)
  else .next (if s.hostUp (paPkg pa) then s.hostRegWrite pa v else s)

/-! What the host reads (R501, R502, R511): none is Unsupported Request. A read changes nothing. -/

/-- The codes of STATE in BOOTSTAT. -/
def Boot.num (b : Boot) : Nat :=
  match b with
  | .off => 0
  | .rom => 1
  | .fwcheck => 2
  | .train => 3
  | .sync => 4
  | .join => 5
  | .ready => 6
  | .recovery => 7
  | .failed => 8

/-- AGE0 and AGE1 (R512). -/
def DieServ.age (x : DieServ) : Word := word (2 ^ 32 * x.eolh + 2 ^ 16 * x.drift + x.margin)

/-- THERM (R511). -/
def State.therm (s : State) (p : Nat) : Word :=
  word (2 ^ 24 * (s.flow % 2 ^ 16) + 2 ^ 16 * ((s.pkg p).inlet % 2 ^ 8) + 2 ^ 8 * ((s.serv (2 * p + 1)).temp % 2 ^ 8) + (s.serv (2 * p)).temp % 2 ^ 8)

/-- A word of the package management block (R511). -/
def State.mgmtWord (s : State) (p off : Nat) : Option Word :=
  let x := s.pkg p
  match off with
  | 0x000 => some (word (2 ^ 16 * (Config.panelSerial % 2 ^ 32) + p))
  | 0x008 => some (word (2 ^ 8 * x.code + x.boot.num))
  | 0x010 => some x.fwver
  | 0x020 => some (word x.fwstat)
  | 0x028 => some (word x.mgmtint)
  | 0x030 => some (word x.mgmten)
  | 0x048 => some (word s.lost)
  | 0x050 => some (word x.apbase)
  | 0x058 => some (word (s.serv (2 * p)).pcap)
  | 0x060 => some (word (s.serv (2 * p + 1)).pcap)
  | 0x068 => some (word x.swcap)
  | 0x070 => some (s.therm p)
  | 0x078 => some (s.serv (2 * p)).age
  | 0x080 => some (s.serv (2 * p + 1)).age
  | 0x220 => some (word x.attcmd)
  | 0x800 => some x.mgmtstat
  | 0x808 => some (word x.clkforce)
  | _ =>
    if 0x100 ≤ off ∧ off < 0x180 then some (word (numBytes (bytesAt x.netaddr (off - 0x100) 8)))
    else if 0x200 ≤ off ∧ off < 0x220 then some (word (numBytes (bytesAt x.nonce (off - 0x200) 8)))
    else if 0x400 ≤ off ∧ off < 0x500 then some (word (recNum x.attrep (off - 0x400) 8))
    else none

/-- A device register as the host reads it; the ring blocks answer to tasks of their own core alone (R295). -/
def State.hostReg (s : State) (pa : Nat) : Option Word :=
  match devAt pa with
  | some (.rdesc _ _) => none
  | some (.claim _ _) => none
  | _ => s.devRead pa

/-- The 8 bytes at an offset of BAR2 of package p (R501). -/
def State.bar2Read (s : State) (p off : Nat) : Option Word :=
  if !s.mgmtUp p || off % 8 != 0 then none
  else if off < 0x1000 then s.mgmtWord p off
  else if 0x2000000 ≤ off ∧ off < 0x4000000 then some (word (numBytes (bytesAt (s.pkg p).fwbuf (off - 0x2000000) 8)))
  else if !s.hostUp p then none
  else if 0x10000 ≤ off ∧ off < 0x20000 then
    let sw := (off - 0x10000) / 0x1000
    (if off % 0x1000 = 0 then some (tget 0#64 s.fabstat sw) else if off % 0x1000 = 8 then some (word (tget 0xFF s.edge sw)) else none)
  else if 0x100000 ≤ off ∧ off < 0x120000 then some (word (numBytes (bytesAt (tget [] s.walkStore (2 * p + (off - 0x100000) / 0x10000)) (off % 0x10000) 8)))
  else (bar2Addr p off).bind s.hostReg

/-- The 8 bytes at an offset of BAR0 of package p: SLOTSTAT (R184, R501). -/
def State.bar0Read (s : State) (p off : Nat) : Option Word :=
  if !s.hostUp p || decide (0x2000 ≤ off) || off % 0x1000 < 0x200 || 0x400 ≤ off % 0x1000 || off % 8 != 0 then none
  else some (s.slotWord (2 * p + off / 0x1000) ((off % 0x1000 - 0x200) / 8))

/-- The host reads n bytes at an offset of BAR0 or BAR2 of package p: another size or alignment, or a word that does not answer, completes with
Unsupported Request (R502). A package whose management block does not answer does not complete it. -/
def State.hostLoad (s : State) (p : Nat) (bar2 : Bool) (off n : Nat) : State :=
  let v := if n ≠ 8 then none else if bar2 then s.bar2Read p off else s.bar0Read p off
  if !s.mgmtUp p then s
  else s.modPkg p fun x => { x with hostRead := match v with
    | some w => .data (bytesOfNum 8 w.toNat)
    | none => .unsupported }

/-- The host writes n bytes at an offset of BAR0 or BAR2 of package p: another size or alignment, or a reserved offset, is dropped and counted
(R502). -/
def State.hostStore (s : State) (p : Nat) (bar2 : Bool) (off n : Nat) (v : Word) : State :=
  if !s.mgmtUp p then s
  else if n ≠ 8 ∨ off % 8 ≠ 0 then s.dropHost p
  else if bar2 then s.mgmtWrite p off v
  else if !s.hostUp p || decide (0x2000 ≤ off) || decide (0x400 ≤ off % 0x1000) then s.dropHost p
  else if off % 0x1000 < 0x200 then s.notify (2 * p + off / 0x1000) (off % 0x1000 / 8) v
  else s

end Sys2Proof.Machine
end

