-- ==== Sys2Proof/Machine/Dispatch.lean ====
section
/-! DEFINITION. One arm for each constructor of Instr: the meaning of the instruction or of the event. -/

namespace Sys2Proof.Machine

/-- What an instruction or an event does. -/
def exec (i : Instr) (s : State) : Host.Outcome State Fault Refusal :=
  match i with
  | .add h d a b => Sys2Proof.Machine.execAdd h d a b s
  | .sub h d a b => Sys2Proof.Machine.execSub h d a b s
  | .and h d a b => Sys2Proof.Machine.execAnd h d a b s
  | .or h d a b => Sys2Proof.Machine.execOr h d a b s
  | .xor h d a b => Sys2Proof.Machine.execXor h d a b s
  | .shl h d a b => Sys2Proof.Machine.execShl h d a b s
  | .shr h d a b => Sys2Proof.Machine.execShr h d a b s
  | .sra h d a b => Sys2Proof.Machine.execSra h d a b s
  | .slt h d a b => Sys2Proof.Machine.execSlt h d a b s
  | .sltu h d a b => Sys2Proof.Machine.execSltu h d a b s
  | .min h d a b => Sys2Proof.Machine.execMin h d a b s
  | .max h d a b => Sys2Proof.Machine.execMax h d a b s
  | .minu h d a b => Sys2Proof.Machine.execMinu h d a b s
  | .maxu h d a b => Sys2Proof.Machine.execMaxu h d a b s
  | .addi h d a imm => Sys2Proof.Machine.execAddi h d a imm s
  | .andi h d a imm => Sys2Proof.Machine.execAndi h d a imm s
  | .ori h d a imm => Sys2Proof.Machine.execOri h d a imm s
  | .xori h d a imm => Sys2Proof.Machine.execXori h d a imm s
  | .shli h d a sh => Sys2Proof.Machine.execShli h d a sh s
  | .shri h d a sh => Sys2Proof.Machine.execShri h d a sh s
  | .srai h d a sh => Sys2Proof.Machine.execSrai h d a sh s
  | .slti h d a imm => Sys2Proof.Machine.execSlti h d a imm s
  | .mul h d a b => Sys2Proof.Machine.execMul h d a b s
  | .mulh h d a b => Sys2Proof.Machine.execMulh h d a b s
  | .mulhu h d a b => Sys2Proof.Machine.execMulhu h d a b s
  | .div h d a b => Sys2Proof.Machine.execDiv h d a b s
  | .divu h d a b => Sys2Proof.Machine.execDivu h d a b s
  | .rem h d a b => Sys2Proof.Machine.execRem h d a b s
  | .remu h d a b => Sys2Proof.Machine.execRemu h d a b s
  | .li h d imm => Sys2Proof.Machine.execLi h d imm s
  | .lih h d imm => Sys2Proof.Machine.execLih h d imm s
  | .fadd h fmt d a b => Sys2Proof.Machine.execFadd h fmt d a b s
  | .fsub h fmt d a b => Sys2Proof.Machine.execFsub h fmt d a b s
  | .fmul h fmt d a b => Sys2Proof.Machine.execFmul h fmt d a b s
  | .fmin h fmt d a b => Sys2Proof.Machine.execFmin h fmt d a b s
  | .fmax h fmt d a b => Sys2Proof.Machine.execFmax h fmt d a b s
  | .ffma h fmt d a b c => Sys2Proof.Machine.execFfma h fmt d a b c s
  | .fdiv h fmt d a b => Sys2Proof.Machine.execFdiv h fmt d a b s
  | .fsqrt h fmt d a => Sys2Proof.Machine.execFsqrt h fmt d a s
  | .feq h fmt d a b => Sys2Proof.Machine.execFeq h fmt d a b s
  | .flt h fmt d a b => Sys2Proof.Machine.execFlt h fmt d a b s
  | .fle h fmt d a b => Sys2Proof.Machine.execFle h fmt d a b s
  | .fcvt h fn d a => Sys2Proof.Machine.execFcvt h fn d a s
  | .beq h a b off => Sys2Proof.Machine.execBeq h a b off s
  | .bne h a b off => Sys2Proof.Machine.execBne h a b off s
  | .blt h a b off => Sys2Proof.Machine.execBlt h a b off s
  | .bge h a b off => Sys2Proof.Machine.execBge h a b off s
  | .bltu h a b off => Sys2Proof.Machine.execBltu h a b off s
  | .bgeu h a b off => Sys2Proof.Machine.execBgeu h a b off s
  | .j h off => Sys2Proof.Machine.execJ h off s
  | .call h off => Sys2Proof.Machine.execCall h off s
  | .jr h a => Sys2Proof.Machine.execJr h a s
  | .callr h a => Sys2Proof.Machine.execCallr h a s
  | .ret h => Sys2Proof.Machine.execRet h s
  | .ld h sx size d a cs swz off => Sys2Proof.Machine.execLd h sx size d a cs swz off s
  | .st h size a b cs swz off => Sys2Proof.Machine.execSt h size a b cs swz off s
  | .atom h op size d a b => Sys2Proof.Machine.execAtom h op size d a b s
  | .cas h size d a b => Sys2Proof.Machine.execCas h size d a b s
  | .fence h => Sys2Proof.Machine.execFence h s
  | .fenceSc h => Sys2Proof.Machine.execFenceSc h s
  | .qmark h => Sys2Proof.Machine.execQmark h s
  | .cleanR h a b => Sys2Proof.Machine.execCleanR h a b s
  | .invR h a b => Sys2Proof.Machine.execInvR h a b s
  | .cleaninvR h a b => Sys2Proof.Machine.execCleaninvR h a b s
  | .probe h kind d a b => Sys2Proof.Machine.execProbe h kind d a b s
  | .phase h code => Sys2Proof.Machine.execPhase h code s
  | .cqCount h eng a tag => Sys2Proof.Machine.execCqCount h eng a tag s
  | .cqOut h eng a tag => Sys2Proof.Machine.execCqOut h eng a tag s
  | .cqMrow h eng a b tag => Sys2Proof.Machine.execCqMrow h eng a b tag s
  | .cqMbits h eng a b tag => Sys2Proof.Machine.execCqMbits h eng a b tag s
  | .cqVal h eng a tag => Sys2Proof.Machine.execCqVal h eng a tag s
  | .cqRegion h mode => Sys2Proof.Machine.execCqRegion h mode s
  | .cqSquash h eng tag => Sys2Proof.Machine.execCqSquash h eng tag s
  | .go h => Sys2Proof.Machine.execGo h s
  | .rim h => Sys2Proof.Machine.execRim h s
  | .jend h => Sys2Proof.Machine.execJend h s
  | .tspawn h d a off => Sys2Proof.Machine.execTspawn h d a off s
  | .texit h => Sys2Proof.Machine.execTexit h s
  | .barw h a b => Sys2Proof.Machine.execBarw h a b s
  | .bara h d a => Sys2Proof.Machine.execBara h d a s
  | .evs h a => Sys2Proof.Machine.execEvs h a s
  | .evw h a => Sys2Proof.Machine.execEvw h a s
  | .trkArm h d a => Sys2Proof.Machine.execTrkArm h d a s
  | .restart h => Sys2Proof.Machine.execRestart h s
  | .sysr h d n => Sys2Proof.Machine.execSysr h d n s
  | .sysw h n a => Sys2Proof.Machine.execSysw h n a s
  | .trap h a => Sys2Proof.Machine.execTrap h a s
  | .brk h => Sys2Proof.Machine.execBrk h s
  | .tret h => Sys2Proof.Machine.execTret h s
  | .ctlNop h => Sys2Proof.Machine.execCtlNop h s
  | .ncmd h a b stack => Sys2Proof.Machine.execNcmd h a b stack s
  | .nfence h => Sys2Proof.Machine.execNfence h s
  | .nstat h d a => Sys2Proof.Machine.execNstat h d a s
  | .twList h fn a b mem slot => Sys2Proof.Machine.execTwList h fn a b mem slot s
  | .twHash h fn a b mem slot => Sys2Proof.Machine.execTwHash h fn a b mem slot s
  | .twKvb h fn a b mem slot => Sys2Proof.Machine.execTwKvb h fn a b mem slot s
  | .twTree h fn a b mem slot => Sys2Proof.Machine.execTwTree h fn a b mem slot s
  | .twRwalk h fn a b mem slot => Sys2Proof.Machine.execTwRwalk h fn a b mem slot s
  | .twWait h d a => Sys2Proof.Machine.execTwWait h d a s
  | .twWaitTry h d a => Sys2Proof.Machine.execTwWaitTry h d a s
  | .gld h sx size d a off => Sys2Proof.Machine.execGld h sx size d a off s
  | .gst h size a b off => Sys2Proof.Machine.execGst h size a b off s
  | .gatom h op size d a b => Sys2Proof.Machine.execGatom h op size d a b s
  | .qcast h d a b => Sys2Proof.Machine.execQcast h d a b s
  | .rstAdd h ty d a b => Sys2Proof.Machine.execRstAdd h ty d a b s
  | .rstMax h ty d a b => Sys2Proof.Machine.execRstMax h ty d a b s
  | .mgCfgOpen h d a => Sys2Proof.Machine.execMgCfgOpen h d a s
  | .mgCfgFree h d b => Sys2Proof.Machine.execMgCfgFree h d b s
  | .mgRd h d b => Sys2Proof.Machine.execMgRd h d b s
  | .gnfy h a => Sys2Proof.Machine.execGnfy h a s
  | .neQpOpen h d a => Sys2Proof.Machine.execNeQpOpen h d a s
  | .neQpClose h d a => Sys2Proof.Machine.execNeQpClose h d a s
  | .neQpRd h d a => Sys2Proof.Machine.execNeQpRd h d a s
  | .nePost h d a b => Sys2Proof.Machine.execNePost h d a b s
  | .nePostRx h d a b => Sys2Proof.Machine.execNePostRx h d a b s
  | .neArm h d a b => Sys2Proof.Machine.execNeArm h d a b s
  | .neCtrRd h d a => Sys2Proof.Machine.execNeCtrRd h d a s
  | .neCtrSet h a b => Sys2Proof.Machine.execNeCtrSet h a b s
  | .neCtrAdd h a b => Sys2Proof.Machine.execNeCtrAdd h a b s
  | .neCwait h d a b => Sys2Proof.Machine.execNeCwait h d a b s
  | .nePoll h d a => Sys2Proof.Machine.execNePoll h d a s
  | .smCtxOpen h d a => Sys2Proof.Machine.execSmCtxOpen h d a s
  | .smCtxClose h d a => Sys2Proof.Machine.execSmCtxClose h d a s
  | .smCtxReset h d a => Sys2Proof.Machine.execSmCtxReset h d a s
  | .smCtxRd h d a => Sys2Proof.Machine.execSmCtxRd h d a s
  | .smProg h d a b => Sys2Proof.Machine.execSmProg h d a b s
  | .smStart h d a b => Sys2Proof.Machine.execSmStart h d a b s
  | .smCancel h d a => Sys2Proof.Machine.execSmCancel h d a s
  | .smWait h d a => Sys2Proof.Machine.execSmWait h d a s
  | .smWaitTry h d a => Sys2Proof.Machine.execSmWaitTry h d a s
  | .dbgHalt h d a => Sys2Proof.Machine.execDbgHalt h d a s
  | .dbgStep h d a b => Sys2Proof.Machine.execDbgStep h d a b s
  | .dbgResume h d a b => Sys2Proof.Machine.execDbgResume h d a b s
  | .dbgRdc h d a b => Sys2Proof.Machine.execDbgRdc h d a b s
  | .dbgBp h d a b => Sys2Proof.Machine.execDbgBp h d a b s
  | .dbgClr h d a => Sys2Proof.Machine.execDbgClr h d a s
  | .launch h d a slot => Sys2Proof.Machine.execLaunch h d a slot s
  | .qmap h d a b => Sys2Proof.Machine.execQmap h d a b s
  | .qunmap h d b => Sys2Proof.Machine.execQunmap h d b s
  | .qstat h d b => Sys2Proof.Machine.execQstat h d b s
  | .dataNop h => Sys2Proof.Machine.execDataNop h s
  | .dataRim h => Sys2Proof.Machine.execDataRim h s
  | .dataRegion h mode => Sys2Proof.Machine.execDataRegion h mode s
  | .vloopQ h len => Sys2Proof.Machine.execVloopQ h len s
  | .vwhileQ h len => Sys2Proof.Machine.execVwhileQ h len s
  | .vifQ h len => Sys2Proof.Machine.execVifQ h len s
  | .vvalQ h xd => Sys2Proof.Machine.execVvalQ h xd s
  | .vmaskQ h kd => Sys2Proof.Machine.execVmaskQ h kd s
  | .vxset h xd src val => Sys2Proof.Machine.execVxset h xd src val s
  | .vxadd h xa xd imm => Sys2Proof.Machine.execVxadd h xa xd imm s
  | .mloopQ h len => Sys2Proof.Machine.execMloopQ h len s
  | .mwhileQ h len => Sys2Proof.Machine.execMwhileQ h len s
  | .mifQ h len => Sys2Proof.Machine.execMifQ h len s
  | .mvalQ h xd => Sys2Proof.Machine.execMvalQ h xd s
  | .mxset h xd src val => Sys2Proof.Machine.execMxset h xd src val s
  | .mxadd h xa xd imm => Sys2Proof.Machine.execMxadd h xa xd imm s
  | .cpLoopQ h len => Sys2Proof.Machine.execCpLoopQ h len s
  | .cpWhileQ h len => Sys2Proof.Machine.execCpWhileQ h len s
  | .cpIfQ h len => Sys2Proof.Machine.execCpIfQ h len s
  | .cpValQ h xd => Sys2Proof.Machine.execCpValQ h xd s
  | .cpXset h xd src val => Sys2Proof.Machine.execCpXset h xd src val s
  | .cpXadd h xa xd imm => Sys2Proof.Machine.execCpXadd h xa xd imm s
  | .vadd h r => Sys2Proof.Machine.execVadd h r s
  | .vsub h r => Sys2Proof.Machine.execVsub h r s
  | .vmul h r => Sys2Proof.Machine.execVmul h r s
  | .vfma h r => Sys2Proof.Machine.execVfma h r s
  | .vmin h r => Sys2Proof.Machine.execVmin h r s
  | .vmax h r => Sys2Proof.Machine.execVmax h r s
  | .vand h r => Sys2Proof.Machine.execVand h r s
  | .vor h r => Sys2Proof.Machine.execVor h r s
  | .vxor h r => Sys2Proof.Machine.execVxor h r s
  | .vnot h r => Sys2Proof.Machine.execVnot h r s
  | .vshl h r => Sys2Proof.Machine.execVshl h r s
  | .vshr h r => Sys2Proof.Machine.execVshr h r s
  | .vsra h r => Sys2Proof.Machine.execVsra h r s
  | .vcmp h rel r => Sys2Proof.Machine.execVcmp h rel r s
  | .vsel h r => Sys2Proof.Machine.execVsel h r s
  | .vmovi h imm men km vd => Sys2Proof.Machine.execVmovi h imm men km vd s
  | .vcvt h dst r => Sys2Proof.Machine.execVcvt h dst r s
  | .vexp2 h r => Sys2Proof.Machine.execVexp2 h r s
  | .vlog2 h r => Sys2Proof.Machine.execVlog2 h r s
  | .vrcp h r => Sys2Proof.Machine.execVrcp h r s
  | .vrsq h r => Sys2Proof.Machine.execVrsq h r s
  | .vrotr h r => Sys2Proof.Machine.execVrotr h r s
  | .vrotc h r => Sys2Proof.Machine.execVrotc h r s
  | .vbcr h r => Sys2Proof.Machine.execVbcr h r s
  | .vbcc h r => Sys2Proof.Machine.execVbcc h r s
  | .vredr h op r => Sys2Proof.Machine.execVredr h op r s
  | .vredc h op r => Sys2Proof.Machine.execVredc h op r s
  | .vld h m => Sys2Proof.Machine.execVld h m s
  | .vst h m => Sys2Proof.Machine.execVst h m s
  | .vldr h g => Sys2Proof.Machine.execVldr h g s
  | .vstr h g => Sys2Proof.Machine.execVstr h g s
  | .vchain h vp g => Sys2Proof.Machine.execVchain h vp g s
  | .acvt h r => Sys2Proof.Machine.execAcvt h r s
  | .vkopAnd h kd ka kb => Sys2Proof.Machine.execVkopAnd h kd ka kb s
  | .vkopOr h kd ka kb => Sys2Proof.Machine.execVkopOr h kd ka kb s
  | .vkopXor h kd ka kb => Sys2Proof.Machine.execVkopXor h kd ka kb s
  | .vkopAndn h kd ka kb => Sys2Proof.Machine.execVkopAndn h kd ka kb s
  | .vkopNot h kd ka => Sys2Proof.Machine.execVkopNot h kd ka s
  | .vkopSet h kd => Sys2Proof.Machine.execVkopSet h kd s
  | .vkopClr h kd => Sys2Proof.Machine.execVkopClr h kd s
  | .vkmovToMask h r => Sys2Proof.Machine.execVkmovToMask h r s
  | .vkmovToVector h r => Sys2Proof.Machine.execVkmovToVector h r s
  | .mma h m => Sys2Proof.Machine.execMma h m s
  | .mclaim h ring cnt => Sys2Proof.Machine.execMclaim h ring cnt s
  | .mrelease h ring cnt => Sys2Proof.Machine.execMrelease h ring cnt s
  | .mzero h int vd n => Sys2Proof.Machine.execMzero h int vd n s
  | .mfill h sf g => Sys2Proof.Machine.execMfill h sf g s
  | .mdrain h df rm clr sat g => Sys2Proof.Machine.execMdrain h df rm clr sat g s
  | .cpLin h x => Sys2Proof.Machine.execCpLin h x s
  | .cp2d h x => Sys2Proof.Machine.execCp2d h x s
  | .cpGth h x => Sys2Proof.Machine.execCpGth h x s
  | .cpSct h x => Sys2Proof.Machine.execCpSct h x s
  | .cpSet h x => Sys2Proof.Machine.execCpSet h x s
  | .cpRcopy h x => Sys2Proof.Machine.execCpRcopy h x s
  | .cpFill h sfmt dfmt rl lc g => Sys2Proof.Machine.execCpFill h sfmt dfmt rl lc g s
  | .cpDrain h sfmt dfmt rl lc g => Sys2Proof.Machine.execCpDrain h sfmt dfmt rl lc g s
  | .cpTr h ew g => Sys2Proof.Machine.execCpTr h ew g s
  | .nld pi off d a => Sys2Proof.Machine.execNld pi off d a s
  | .nst pi off d a => Sys2Proof.Machine.execNst pi off d a s
  | .nadd f d a b => Sys2Proof.Machine.execNadd f d a b s
  | .nsub f d a b => Sys2Proof.Machine.execNsub f d a b s
  | .nmul f d a b => Sys2Proof.Machine.execNmul f d a b s
  | .nfma f d a b => Sys2Proof.Machine.execNfma f d a b s
  | .nmax ftz fmt d a b => Sys2Proof.Machine.execNmax ftz fmt d a b s
  | .nmin ftz fmt d a b => Sys2Proof.Machine.execNmin ftz fmt d a b s
  | .ncmp rel ftz fmt d a b => Sys2Proof.Machine.execNcmp rel ftz fmt d a b s
  | .nsel d a b => Sys2Proof.Machine.execNsel d a b s
  | .nexp2 ftz fmt d a => Sys2Proof.Machine.execNexp2 ftz fmt d a s
  | .ncvt half dst f d a => Sys2Proof.Machine.execNcvt half dst f d a s
  | .nmov d a => Sys2Proof.Machine.execNmov d a s
  | .nbcst fmt e d a => Sys2Proof.Machine.execNbcst fmt e d a s
  | .nredmax sat ftz fmt d a => Sys2Proof.Machine.execNredmax sat ftz fmt d a s
  | .nredsum f d a => Sys2Proof.Machine.execNredsum f d a s
  | .nlogic fn d a b => Sys2Proof.Machine.execNlogic fn d a b s
  | .nset kind v d => Sys2Proof.Machine.execNset kind v d s
  | .nloop sp len cnt => Sys2Proof.Machine.execNloop sp len cnt s
  | .nloop2 sp len cnt => Sys2Proof.Machine.execNloop2 sp len cnt s
  | .nemit cnt d a b => Sys2Proof.Machine.execNemit cnt d a b s
  | .nend => Sys2Proof.Machine.execNend s
  | .naddr imm d a => Sys2Proof.Machine.execNaddr imm d a s
  | .illegalInstruction raw => Sys2Proof.Machine.execIllegalInstruction raw s
  | .smLd c off d a => Sys2Proof.Machine.execSmLd c off d a s
  | .smSt c off a b => Sys2Proof.Machine.execSmSt c off a b s
  | .smLi f val d => Sys2Proof.Machine.execSmLi f val d s
  | .smMov d a => Sys2Proof.Machine.execSmMov d a s
  | .smAdd f imm d a b => Sys2Proof.Machine.execSmAdd f imm d a b s
  | .smSub f imm d a b => Sys2Proof.Machine.execSmSub f imm d a b s
  | .smCmp u rel f d a b => Sys2Proof.Machine.execSmCmp u rel f d a b s
  | .smMax f d a b => Sys2Proof.Machine.execSmMax f d a b s
  | .smDiv d a b => Sys2Proof.Machine.execSmDiv d a b s
  | .smExp d a => Sys2Proof.Machine.execSmExp d a s
  | .smSum kind d => Sys2Proof.Machine.execSmSum kind d s
  | .smTopk k d a b => Sys2Proof.Machine.execSmTopk k d a b s
  | .smTopp d a => Sys2Proof.Machine.execSmTopp d a s
  | .smTemp d a => Sys2Proof.Machine.execSmTemp d a s
  | .smRng u d => Sys2Proof.Machine.execSmRng u d s
  | .smDraw d a => Sys2Proof.Machine.execSmDraw d a s
  | .smTree d a => Sys2Proof.Machine.execSmTree d a s
  | .smAcc excl d a b => Sys2Proof.Machine.execSmAcc excl d a b s
  | .smEmit a => Sys2Proof.Machine.execSmEmit a s
  | .smBr off => Sys2Proof.Machine.execSmBr off s
  | .smBz a off => Sys2Proof.Machine.execSmBz a off s
  | .smEnd a => Sys2Proof.Machine.execSmEnd a s
  | .pageWalkComplete d => Sys2Proof.Machine.execPageWalkComplete d s
  | .phaseComplete c => Sys2Proof.Machine.execPhaseComplete c s
  | .rimRendezvous c => Sys2Proof.Machine.execRimRendezvous c s
  | .barrierCarryFlip b => Sys2Proof.Machine.execBarrierCarryFlip b s
  | .eventSignalArrival id => Sys2Proof.Machine.execEventSignalArrival id s
  | .asyncFaultTake c => Sys2Proof.Machine.execAsyncFaultTake c s
  | .dispatcherAnswer c t => Sys2Proof.Machine.execDispatcherAnswer c t s
  | .regionCrossingComplete c => Sys2Proof.Machine.execRegionCrossingComplete c s
  | .dataFreezeEnd c => Sys2Proof.Machine.execDataFreezeEnd c s
  | .freezeTimeout c => Sys2Proof.Machine.execFreezeTimeout c s
  | .timingTrap c => Sys2Proof.Machine.execTimingTrap c s
  | .arrayWordStart c => Sys2Proof.Machine.execArrayWordStart c s
  | .resultDue c => Sys2Proof.Machine.execResultDue c s
  | .mreleaseSlotsEmpty c => Sys2Proof.Machine.execMreleaseSlotsEmpty c s
  | .matrixQueueStart c => Sys2Proof.Machine.execMatrixQueueStart c s
  | .matrixQueueW c => Sys2Proof.Machine.execMatrixQueueW c s
  | .copyTransferComplete c id => Sys2Proof.Machine.execCopyTransferComplete c id s
  | .ibufFill c va => Sys2Proof.Machine.execIbufFill c va s
  | .homeRequest c id ecc => Sys2Proof.Machine.execHomeRequest c id ecc s
  | .storedTransferComplete d => Sys2Proof.Machine.execStoredTransferComplete d s
  | .cacheEviction home c line err => Sys2Proof.Machine.execCacheEviction home c line err s
  | .memoryReadReturn c id ecc => Sys2Proof.Machine.execMemoryReadReturn c id ecc s
  | .fabricRequestArrival c id ecc => Sys2Proof.Machine.execFabricRequestArrival c id ecc s
  | .fabricRefusal c id => Sys2Proof.Machine.execFabricRefusal c id s
  | .fabricRetryResend c id => Sys2Proof.Machine.execFabricRetryResend c id s
  | .fabricReply c id => Sys2Proof.Machine.execFabricReply c id s
  | .replayWrite p v => Sys2Proof.Machine.execReplayWrite p v s
  | .discardWrite p v => Sys2Proof.Machine.execDiscardWrite p v s
  | .errorEntryClear d n v => Sys2Proof.Machine.execErrorEntryClear d n v s
  | .rdescWrite c t n v => Sys2Proof.Machine.execRdescWrite c t n v s
  | .barrierConfigWrite b c t v => Sys2Proof.Machine.execBarrierConfigWrite b c t v s
  | .deviceRegisterWrite pa v => Sys2Proof.Machine.execDeviceRegisterWrite pa v s
  | .notifyWrite d slot v => Sys2Proof.Machine.execNotifyWrite d slot v s
  | .packetTake d slot lane => Sys2Proof.Machine.execPacketTake d slot lane s
  | .dependenceRecheck d id err => Sys2Proof.Machine.execDependenceRecheck d id err s
  | .packetComplete d id => Sys2Proof.Machine.execPacketComplete d id s
  | .weavePlacement w => Sys2Proof.Machine.execWeavePlacement w s
  | .reservationRequest d w => Sys2Proof.Machine.execReservationRequest d w s
  | .reservationReply w => Sys2Proof.Machine.execReservationReply w s
  | .quantumExpiry w v => Sys2Proof.Machine.execQuantumExpiry w v s
  | .preemptDecision w v => Sys2Proof.Machine.execPreemptDecision w v s
  | .jobSaveComplete c => Sys2Proof.Machine.execJobSaveComplete c s
  | .preemptOverdue w => Sys2Proof.Machine.execPreemptOverdue w s
  | .weaveResume w => Sys2Proof.Machine.execWeaveResume w s
  | .weaveComplete w => Sys2Proof.Machine.execWeaveComplete w s
  | .weaveTeardown w => Sys2Proof.Machine.execWeaveTeardown w s
  | .graphNodeReady run inst err => Sys2Proof.Machine.execGraphNodeReady run inst err s
  | .savepoolWrite d cnt v => Sys2Proof.Machine.execSavepoolWrite d cnt v s
  | .nmuCommandStart n => Sys2Proof.Machine.execNmuCommandStart n s
  | .nmuPreemptStop n => Sys2Proof.Machine.execNmuPreemptStop n s
  | .nmuRestWatchdog w => Sys2Proof.Machine.execNmuRestWatchdog w s
  | .nmuResume n => Sys2Proof.Machine.execNmuResume n s
  | .walkAccept id => Sys2Proof.Machine.execWalkAccept id s
  | .walkSectorReturn id err => Sys2Proof.Machine.execWalkSectorReturn id err s
  | .walkStepLimit id => Sys2Proof.Machine.execWalkStepLimit id s
  | .walkSlotFull id => Sys2Proof.Machine.execWalkSlotFull id s
  | .reduceContribution id => Sys2Proof.Machine.execReduceContribution id s
  | .reduceTimeout g => Sys2Proof.Machine.execReduceTimeout g s
  | .stripeMessage id => Sys2Proof.Machine.execStripeMessage id s
  | .partialArrival id => Sys2Proof.Machine.execPartialArrival id s
  | .mergeTimeout g => Sys2Proof.Machine.execMergeTimeout g s
  | .queryCompletionDone g => Sys2Proof.Machine.execQueryCompletionDone g s
  | .switchDieAnswer c t => Sys2Proof.Machine.execSwitchDieAnswer c t s
  | .neEntryStart d q err => Sys2Proof.Machine.execNeEntryStart d q err s
  | .neAckArrival d q cack bitmap nak resp => Sys2Proof.Machine.execNeAckArrival d q cack bitmap nak resp s
  | .neRtoExpiry d q psn => Sys2Proof.Machine.execNeRtoExpiry d q psn s
  | .nePacketReceive d p => Sys2Proof.Machine.execNePacketReceive d p s
  | .smRunBegin d ctx => Sys2Proof.Machine.execSmRunBegin d ctx s
  | .smStepLimit d ctx => Sys2Proof.Machine.execSmStepLimit d ctx s
  | .smcancelWrite d v => Sys2Proof.Machine.execSmcancelWrite d v s
  | .smCancelEffect d ctx => Sys2Proof.Machine.execSmCancelEffect d ctx s
  | .haltCause c t src code pc val => Sys2Proof.Machine.execHaltCause c t src code pc val s
  | .haltWaveArrival c => Sys2Proof.Machine.execHaltWaveArrival c s
  | .haltSettled slot => Sys2Proof.Machine.execHaltSettled slot s
  | .haltControllerAnswer c t => Sys2Proof.Machine.execHaltControllerAnswer c t s
  | .resumeAtT slot => Sys2Proof.Machine.execResumeAtT slot s
  | .hcmdHalt d => Sys2Proof.Machine.execHcmdHalt d s
  | .hcmdStep d => Sys2Proof.Machine.execHcmdStep d s
  | .hcmdResume d => Sys2Proof.Machine.execHcmdResume d s
  | .hcmdRdc d => Sys2Proof.Machine.execHcmdRdc d s
  | .hcmdBp d => Sys2Proof.Machine.execHcmdBp d s
  | .hcmdClr d => Sys2Proof.Machine.execHcmdClr d s
  | .hostMemoryAccess p write off data err => Sys2Proof.Machine.execHostMemoryAccess p write off data err s
  | .powerOn p flowOk linksOk syncOk => Sys2Proof.Machine.execPowerOn p flowOk linksOk syncOk s
  | .joinEnd => Sys2Proof.Machine.execJoinEnd s
  | .fwctlCommit p => Sys2Proof.Machine.execFwctlCommit p s
  | .attcmdStart p => Sys2Proof.Machine.execAttcmdStart p s
  | .attestReportReady p => Sys2Proof.Machine.execAttestReportReady p s
  | .coolantFlowChange flow => Sys2Proof.Machine.execCoolantFlowChange flow s
  | .flowRecoveryTimer => Sys2Proof.Machine.execFlowRecoveryTimer s
  | .junctionTemperatureChange d temp => Sys2Proof.Machine.execJunctionTemperatureChange d temp s
  | .thermalTrip p => Sys2Proof.Machine.execThermalTrip p s
  | .pcapWrite p d v => Sys2Proof.Machine.execPcapWrite p d v s
  | .clkforceWrite p v => Sys2Proof.Machine.execClkforceWrite p v s
  | .ageSample d drift margin => Sys2Proof.Machine.execAgeSample d drift margin s
  | .killWrite p v => Sys2Proof.Machine.execKillWrite p v s
  | .lostWrite p v => Sys2Proof.Machine.execLostWrite p v s
  | .apbaseWrite p v => Sys2Proof.Machine.execApbaseWrite p v s
  | .mgmtintWrite p v => Sys2Proof.Machine.execMgmtintWrite p v s
  | .netaddrWrite p off v => Sys2Proof.Machine.execNetaddrWrite p off v s
  | .walkStoreWrite d off v => Sys2Proof.Machine.execWalkStoreWrite d off v s
  | .edgectlWrite sw v => Sys2Proof.Machine.execEdgectlWrite sw v s
  | .trkArmAnswer c t => Sys2Proof.Machine.execTrkArmAnswer c t s
  | .neCommandAnswer c t => Sys2Proof.Machine.execNeCommandAnswer c t s
  | .samplerAnswer c t => Sys2Proof.Machine.execSamplerAnswer c t s
  | .nstatAnswer c t => Sys2Proof.Machine.execNstatAnswer c t s
  | .qcastAnswer c t => Sys2Proof.Machine.execQcastAnswer c t s
  | .nePacketTransmit d q psn => Sys2Proof.Machine.execNePacketTransmit d q psn s
  | .powerOff p => Sys2Proof.Machine.execPowerOff p s
  | .swcapWrite p v => Sys2Proof.Machine.execSwcapWrite p v s
  | .clockStepChange d step => Sys2Proof.Machine.execClockStepChange d step s

end Sys2Proof.Machine
end

