-- ==== Sys2Proof/Machine/Limits.lean ====
section
/-! DEFINITION. The limits that the spec sets in panel time (R514): where one is reached, no nanosecond passes before what must have happened
by then has happened. -/

namespace Sys2Proof.Machine

/-! Answers to parked commands. -/

/-- The bound in nanoseconds on the answer to a parked command of task t of core k, once nothing that it waits for by its own rule is left:
R182, R183, R255, R342, R382, R383, R427, R460, R488. What a `dbg.halt` or `dbg.resume` sets in motion counts from its issue and has 1 µs
(R477, R489, R494). -/
def Core.answerBound (k : Core) (t : Nat) (i : Instr) : Option Nat :=
  let once (p : Bool) (n : Nat) : Option Nat := if p then some n else none
  match i with
  | .trkArm _ _ _ => once (k.armReady t) 1000
  | .launch _ _ _ _ | .qmap _ _ _ _ => once (k.quiet t) 2000
  | .qunmap _ _ _ | .qstat _ _ _ => some 2000
  | .nstat _ _ _ => some 1000
  | .mgCfgOpen _ _ _ | .mgCfgFree _ _ _ | .mgRd _ _ _ => some 2000
  | .nePost _ _ _ _ | .nePostRx _ _ _ _ | .neCtrSet _ _ _ | .neCtrAdd _ _ _ => once (k.quiet t) 1000
  | .neQpOpen _ _ _ | .neQpRd _ _ _ | .neArm _ _ _ _ | .neCtrRd _ _ _ | .nePoll _ _ _ => some 1000
  | .smCtxOpen _ _ _ | .smCtxReset _ _ _ | .smCtxRd _ _ _ | .smProg _ _ _ _ | .smCancel _ _ _ => some 2000
  | .dbgHalt _ _ _ | .dbgResume _ _ _ _ => some 1000
  | .dbgStep _ _ _ _ | .dbgRdc _ _ _ _ | .dbgBp _ _ _ _ | .dbgClr _ _ _ => some 2000
  | _ => none

/-- Something comes before the answer to a debug instruction of task t: a single step that is owed, or one of its own cycle (R493, R496). -/
def State.debugFirst (s : State) (c t : Nat) (w : Wait) : Bool :=
  match dbgParts w.instr with
  | some (op, _, a, _) => match s.targetSlot c (s.reg c t a) with
    | some h => s.debugWaits op h c t w.parkedAt
    | none => false
  | none => false

/-- The answer to a parked command of core c is due; to one of a frozen core where it stands in the Cobin layer or at the controllers. -/
def State.answerDue (s : State) (c : Nat) (k : Core) : Bool :=
  !s.stopped c && k.tasks.any fun x => match x.2.st, x.2.wait with
    | .parked, some w => w.what == .answer && w.answerable (s.isFrozen c)
      && (!s.isFrozen c || x.2.inLayer true || (dbgParts w.instr).isSome) && match k.answerBound x.1 w.instr with
      | some n => decide (w.parkedAt + n ≤ s.time) && !s.debugFirst c x.1 w
      | none => false
    | _, _ => false

/-- The halt of a halt block's HCMD is due: its weave freezes within 1 µs of the write (R477, R498). -/
def State.hcmdDue (s : State) (b : HBlock) : Bool :=
  b.cmd == some 1 && decide (b.at_ + 1000 ≤ s.time) && !(match s.slotOfCtx (tgtCtx b.tgt) with | some h => s.stepping h | none => false)

/-! The halt wave (R477, R484, R494). -/

/-- The panel time of the last freeze of a weave's cores. -/
def State.lastFreeze (s : State) (w : Weave) : Nat :=
  (s.coresOf w).foldl (fun n c => match (s.core c).frozen with | some f => max n f.1 | none => n) 0

/-- A step of the halt wave of a slot is due: a core of the weave still runs 1 µs after the cause, the halt is settled for 2 µs and not
marked so, or T has come (R2, R477, R484, R494). -/
def State.haltDue (s : State) (h : Nat) (sl : HSlot) : Bool :=
  match sl.weave.bind fun w => tfind s.weaves w with
  | none => false
  | some w =>
    sl.halting && (
      (decide (sl.since + 1000 ≤ s.time) && (s.coresOf w).any fun c => !s.isFrozen c)
      || (!sl.settled && decide (s.lastFreeze w + 2000 ≤ s.time) && decide (sl.since + 2000 ≤ s.time)
          && (s.coresOf w).all (fun c => s.isFrozen c))
      || (sl.resuming && decide (sl.resumeAt ≤ s.time) && !s.stepping h))

/-! Weaves, groups and packets (R166, R169, R178, R349, R387, R402, R418). -/

/-- Something that the dispatchers do for a weave is due: the end of a quantum, of a pre-emption of 200 µs, of the NMUs' 2 ms, of an agreement
of 4 µs on a reservation. -/
def State.weaveDue (s : State) (w : Weave) : Bool :=
  (w.st == .resident && !w.torn && !s.weaveHalted w.id && decide (2000000 ≤ w.quantum))
  || (w.st == .stopping && !w.torn && !s.weaveHalted w.id &&
      ((decide (200000 ≤ w.stopTime) && !s.allStopped w)
       || (decide (2000000 ≤ w.stopTime) && w.commonSpc.isSome && !s.nmus.all fun e => s.nmuAtRest e.1 w.id)))
  || (w.st == .waiting && !w.asked.isEmpty && decide (w.askedAt + 4000 ≤ s.time))

/-- The timeout of a query or of a reduction is due (R387, R402). -/
def State.groupDue (s : State) (g : Grp) : Bool := g.st == .armed && g.expired && !s.weaveHalted g.weave

/-- A packet's RTO has passed (R418). -/
def State.rtoDue (s : State) (q : NeQp) : Bool :=
  q.st != .error && q.pds != 2 && !s.weaveHalted q.weave
  && q.ents.any fun e => e.pkts.any fun p => p.sent && !p.acked && !p.due && decide (1000 * q.rto ≤ p.age)

/-- Panel time waits for what is due (R2, R514). -/
def State.timeHeld (s : State) : Bool :=
  s.wideFlipOwed || s.cores.any (fun e => s.freezeDue e.1 || s.answerDue e.1 e.2) || s.hblocks.any (fun e => s.hcmdDue e.2) || s.hslots.any (fun e => s.haltDue e.1 e.2)
  || s.weaves.any (fun e => s.weaveDue e.2) || s.groups.any (fun e => s.groupDue e.2) || s.disps.any (fun e => e.2.pkts.any s.rereadDue)
  || s.nets.any fun e => e.2.qps.any fun q => s.rtoDue q.2

end Sys2Proof.Machine
end

