-- ==== Sys2Proof/Machine/Turns.lean ====
section
/-! DEFINITION. The turns: which unit moves in a step, and how its next instruction is fetched, decoded and run. -/

namespace Sys2Proof.Machine

/-! The control slice (R19, R229, R493). -/

/-- The instruction has a prefix (R50). -/
def hasPfx (i : Instr) : Bool := fld ((encode i).headD 0) 0 2 == 2

/-- Task t of core c issues: it stands last in the rotation, and the counts follow (R19, R229). -/
def State.beginIssue (s : State) (c t n : Nat) : State :=
  { s with cur := .task c t }.modCore c fun k =>
    { k.setTask t { k.task t with icount := (k.task t).icount + 1, exempt := false } with rot := t, issued := true, istat := issuedStat k.istat n }

/-- What task t of core c does in its turn. -/
def State.carryOut (s : State) (c t : Nat) (x : Choice) : Out :=
  match x with
  | .stall => .next s
  | .issue i words => exec i (s.beginIssue c t (if words = 0 then 0 else if hasPfx i then 2 else 1))
  | .trap code tval => .next ((s.beginIssue c t 0).trap c t code (word tval))
  | .stop n => execHaltCause c t 4 n (s.task c t).pc 0#64 s
  | .fatal st va => .next (s.fatal c t 0 st (s.task c t).pc (word va))

/-- Instruction i of task t of core c reads a block behind loads of the task that are not yet performed (R139). -/
def State.behindLoads (s : State) (c t : Nat) (i : Instr) : Bool :=
  readsBlock i && (s.core c).accs.any fun a => a.party == t && a.loadLike && a.waiting

/-- The due word of strand e pops an entry that stands in its queue. -/
def State.popDue (s : State) (c e : Nat) : Bool :=
  s.dataDue c e && !(s.strand c e).skipping && (s.strand c e).cq.head.isSome && match s.dataWord c e with
    | .word w _ => ((decodeData e w).map popsQueue).getD false
    | .bad _ _ => false

/-- Words may still issue in this cycle, once its due results are written or its freeze has ended. -/
def State.cycleAhead (s : State) (c : Nat) : Bool :=
  let d := (s.core c).data
  !d.saveStop && d.late3.isNone && !(d.timed && d.lateResult)
  && (!(s.core c).settledNow || (d.frozen && !d.timeoutRaised && decide (d.watch < 65536) && !s.freezeMet c))

/-- A pop of this cycle is still to come at the control queue that instruction i squashes: it goes first (R29, R212). -/
def State.popFirst (s : State) (c : Nat) (i : Instr) : Bool :=
  match i with
  | .cqSquash _ e _ => s.popDue c e && (s.cycleAhead c || s.dataIssues c e)
  | _ => false

/-- The chosen task's turn: a squash lets the pop of its cycle go first; a command parks until the loads that it follows are performed. -/
def State.takeTurn (s : State) (c t : Nat) (x : Choice) : Out :=
  match x with
  | .issue i words =>
    if s.popFirst c i then .next s
    else if s.behindLoads c t i then .next ((s.beginIssue c t (if hasPfx i then 2 else 1)).park c t .loads i (4 * words))
    else s.carryOut c t x
  | _ => s.carryOut c t x

/-- A command that waited for its task's loads runs. -/
def State.retryCommand (s : State) (c t : Nat) (i : Instr) : State :=
  if s.behindLoads c t i then s
  else after (exec i ({ s with cur := .task c t }.modTask c t fun x => { x with st := .ready, wait := none })) s

/-- The words that the next instruction of task t can take are in the buffer (R190). -/
def State.fillFor3 (s : State) (c pc : Nat) : State :=
  [pc, pc + 4, pc + 8].foldl (fun s va => match translate (s.core c).seg .x (va % 2 ^ 64) with
    | .ok pa _ => s.modCore c fun k => { k with ibuf := tput k.ibuf (pa / 4) (s.fetchedWord c pa) }
    | .bad _ => s) s

/-- An access of a frozen core that completes before T (R479, R481): not one of the fabric or the Cobin layer, and none behind such a one. -/
def State.landsFrozen (s : State) (c : Nat) (a : Access) : Bool :=
  a.space != .fabric && (a.stage == .performed || ((s.core c).mayPerform a && !s.layerHeld c a))

/-- A register whose result an instruction issued before the freeze still writes (R479). -/
def State.stepPending (s : State) (c t r : Nat) : Bool :=
  let k := s.core c
  (match tfind (k.task t).due r with | some n => decide (k.cycle < n) | none => false)
  || k.accs.any fun a => a.party == t && s.landsFrozen c a && match a.dest with
      | .reg d _ => d == r || (a.n == 16 && d + 1 == r)
      | _ => false

/-- The choice of a single step: the next instruction issues whatever holds it back, once the results that earlier instructions still write
stand in its registers (R479, R493; assumption 34). -/
def State.stepChoice (s : State) (c t : Nat) : Choice :=
  match s.fetchIns c (s.task c t).pc.toNat with
  | .missing => .stall
  | .bad st va => .fatal st va
  | .lost va => .trap 17 va
  | .fate (.bad code tval) => if code = 1 then .issue (.illegalInstruction tval) 0 else .trap code tval
  | .fate (.ins i n) => if (ctlRegs i).any fun r => r != 0 && s.stepPending c t r then .stall else .issue i n

/-- What a single step of task t of core c sent to the Cobin layer waits for T: signals with numbers from n on, by `gnfy` or to another package,
and its command (R493). -/
def State.stepHeld (s : State) (c t n : Nat) (x : Choice) : State :=
  let notify := match x with
    | .issue (.gnfy _ _) _ => true
    | _ => false
  ({ s with signals := s.signals.map fun g =>
      if n ≤ g.id && g.held.isNone && (notify || pkgOf g.core != pkgOf c) then { g with held := some c } else g } : State).modWait c t fun w =>
    if w.what == .answer then { w with late := true } else w

/-- The issue selector of core c has its turn: the chosen task issues, or a frozen core makes the single step it owes. -/
def State.ctlTurn (s : State) (c : Nat) : Out :=
  match s.isFrozen c, (s.core c).stepOwed with
  | true, some t =>
    if t < 8 then
      let s1 := (s.fillFor3 c (s.task c t).pc.toNat).modCore c fun k => { k with stepOwed := none }
      match s1.stepChoice c t with
      | .stall => .next s
      | x => .next ((after (s1.carryOut c t x) s1).stepHeld c t s1.nextId x)
    else .next s
  | _, _ => match s.selectTask c with
    | some t => s.takeTurn c t (s.ctlChoice c t)
    | none => .next s

/-! The data strands (R30, R491). -/

/-- Strand e of core c has its turn. -/
def State.dataTurn (s : State) (c e : Nat) : Out :=
  if s.savesNow c then .next (s.saveStopHere c)
  else if !s.dataIssues c e then .next s
  else match s.dataChoice c e with
    | .stall => .next s
    | .skip => .next (s.skipWord c e)
    | .issue i => exec i ({ s with cur := .strand c e }.modStrand c e fun x => { x with exempt := false })
    | .stop n => execHaltCause c (7 + e) 4 n (word (s.strand c e).pc) 0#64 s
    | .fatal st va => .next (s.fatal c 0 e st (word (s.strand c e).pc) (word va))
    | .lost => .next (s.strandFault c e 17 (word (s.strand c e).pc) (s.strand c e).pc)

/-- A read that the next word of a party of core c makes, in a register file, a ring or an operand store, meets an error: a corrected or
transient one is counted; a lasting one is a precise trap of the task whose turn it is, or the fault of the strand whose word issues
(R135, R136, R151). The spec gives the trap no address for such a read: TVAL names the word (assumption 97). -/
def State.wordError (s : State) (c party ecc : Nat) : State :=
  match ecc with
  | 3 =>
    if s.selectTask c == some party then ((s.countError (dieOf c) 3).beginIssue c party 0).trap c party 17 (s.task c party).pc
    else if 8 ≤ party ∧ s.dataIssues c (party - 7) = true then
      (s.countError (dieOf c) 3).strandFault c (party - 7) 17 (word (s.strand c (party - 7)).pc) (s.strand c (party - 7)).pc
    else s
  | n => s.countError (dieOf c) n

/-- The instruction of task t of core c that issues next loads, and its read meets a lasting error: a precise trap with the address, before
anything later of the task issues (R136, R222; assumption 16). A clean copy at the home is read from below instead. -/
def State.readFails (s : State) (c t : Nat) : State :=
  match s.selectTask c, s.ctlChoice c t with
  | some u, .issue i n =>
    let fails (a : Access) : Bool := a.loadLike && match a.space with
      | .core => true
      | .virt | .fabric => inHbm a.pa && !s.cleanCopy (a.pa / 32)
      | _ => false
    match ((after (s.takeTurn c t (.issue i n)) s).core c).accs.drop (s.core c).accs.length with
    | [a] =>
      if u = t ∧ fails a = true then
        ((s.countError (if a.space == .core then dieOf c else paDie a.pa) 3).beginIssue c t (if hasPfx i then 2 else 1)).trap c t 17 (word a.va)
      else s
    | _ => s
  | _, _ => s

/-! Near-memory units and samplers (R68, R332, R445). -/

/-- The instruction at a command's pc; a word past the program is undefined as one that decodes to nothing (R68). -/
def NRun.fetched (r : NRun) : Instr :=
  match r.cmd.words[r.st.pc]? with
  | none => .illegalInstruction 0
  | some w => (decodeNmu w).getD (.illegalInstruction w)

/-- NMU n has its turn, a cycle of its own. -/
def State.nmuTurn (s : State) (n : Nat) : Out :=
  let s1 := s.modNmu n fun u => { u with clk := u.clk + 1 }
  match (s1.nmu n).run with
  | none => .next s1
  | some r => if s1.nmuMayIssue n r then exec r.fetched { s1 with cur := .nmu n } else .next s1

/-- A sampler word runs. -/
def runSmOp (o : SmOp) (s : State) : Out :=
  match o with
  | .ld c off d a => execSmLd c off d a s
  | .st c off a b => execSmSt c off a b s
  | .li f val d => execSmLi f val d s
  | .mov d a => execSmMov d a s
  | .add f imm d a b => execSmAdd f imm d a b s
  | .sub f imm d a b => execSmSub f imm d a b s
  | .cmp u rel f d a b => execSmCmp u rel f d a b s
  | .max f d a b => execSmMax f d a b s
  | .div d a b => execSmDiv d a b s
  | .exp d a => execSmExp d a s
  | .sum kind d => execSmSum kind d s
  | .topk k d a b => execSmTopk k d a b s
  | .topp d a => execSmTopp d a s
  | .temp d a => execSmTemp d a s
  | .rng u d => execSmRng u d s
  | .draw d a => execSmDraw d a s
  | .tree d a => execSmTree d a s
  | .acc excl d a b => execSmAcc excl d a b s
  | .emit a => execSmEmit a s
  | .br off => execSmBr off s
  | .bz a off => execSmBz a off s
  | .end_ a => execSmEnd a s

/-- Run h of die d has its turn: before each word the limit and a cancel at its point hold it (R445, R466, R473). -/
def State.runTurn (s : State) (d h : Nat) : Out :=
  match s.smCtx d h with
  | none => .next s
  | some x =>
    if !s.runGoes x || x.cancelDue || decide (x.stepmax ≤ x.issued) then .next s
    else match x.fetched with
      | none => .next (s.endRun d h 3 0)
      | some o =>
        let s1 := (s.modCtx d h fun x => { x with issued := x.issued + 1 }).modSmp d fun y => { y with stat := smWords y.stat }
        runSmOp o { s1 with cur := .run d h }

/-! Parked tasks (R16, R336, R339). -/

/-- Nothing of the job on core c is outstanding: requests, the data engines, walks (R16, R371). -/
def State.jobQuiet (s : State) (c : Nat) : Bool :=
  (s.core c).accs.isEmpty && s.dataDrained c && !s.walksOwed (s.weaveNo c) c && (s.core c).probe.isNone

/-- The job on core c ends (R16): the core is free. -/
def State.endJob (s : State) (c : Nat) : State :=
  match (s.core c).job with
  | some (w, j) => (s.modCore c Core.vacate).modWeave w fun x => { x with done := x.done ++ [j] }
  | none => s

/-- A parked task looks again at what it waits for. -/
def State.wakeTurn (s : State) (c t : Nat) : State :=
  match s.waitOf c t, s.isFrozen c || s.stopped c with
  | some w, false =>
    match w.what with
    | .jend => if s.jobQuiet c then s.endJob c else s
    | .restart => s.finishRestart c
    | .room => s.retryNcmd c t
    | .nmus => if s.nmuOwed c t then s else s.wake c t
    | .counter n thr => s.retryCwait c t n thr
    | .slot n => s.retrySlot c t n
    | .run h => s.retryRun c t h
    | .loads => s.retryCommand c t w.instr
    | _ => s
  | _, _ => s

/-! Accesses (R107, R112, R377). -/

/-- Nothing of its core holds access a back: the arrivals of a frozen core stand still (R44), one that comes after its barrier's flip belongs
to the unit's next cycle (R40), and words leave the instruction buffer between the cycles of a timed region (R32). -/
def State.nearNow (s : State) (c : Nat) (a : Access) : Bool :=
  match a.kind with
  | .arrival b => !s.isFrozen c && !s.flippedNow b
  | .inv | .cleaninv => !(s.core c).cycleOpen
  | _ => true

/-- Access id of core c has its turn: it is performed inside the core or at a device register, or leaves for the fabric. -/
def State.accessTurn (s : State) (c id : Nat) : State :=
  match (s.core c).access id with
  | none => s
  | some a => match a.space with
    | .device => s.performDevice c a
    | .fabric => if s.isNear c a then (if (s.core c).mayPerform a then s.performNear c a else s) else s.sendFabric c a
    | _ => if a.stage == .queued && s.isNear c a && (s.core c).mayPerform a && s.nearNow c a && s.l1Room c a then s.performNear c a else s

/-! Data races (R144, R145). A store that stands in another party's queue while an access of the same bytes is performed is ordered with it by
no happens-before: the two race. -/

/-- The stores and atomics of other parties that are not performed while access a of core c is: their core, and the access. -/
def State.rivals (s : State) (c : Nat) (a : Access) : List (Nat × Access) :=
  let near (x : Nat) (e : Access) : Bool := (a.space != .core && a.space != .opmem) || (x == c && e.space == a.space)
  s.cores.flatMap fun k => (k.2.accs.filter fun e =>
    (k.1 != c || e.party != a.party) && e.waiting && near k.1 e && sameMemory e.space a.space
    && (match e.kind with | .store => true | .atom _ => true | _ => false)
    && decide (e.pa < a.pa + a.n) && decide (a.pa < e.pa + e.n)).map fun e => (k.1, e)

/-- The value that a rival store writes to byte b. -/
def rivalByte (e : Access) (b : Nat) : Option Byte :=
  match e.kind with
  | .store => (e.data.find? fun x => x.1 == b).map Prod.snd
  | _ => none

/-- Values that were written to byte b, or its initial value: those of its bank, its home and every L1 that holds it. -/
def State.valuesOf (s : State) (c : Nat) (a : Access) (b : Nat) : List Byte :=
  match a.space with
  | .core => [byteAt (s.core c).scratch b]
  | .opmem => [byteAt (s.core c).opmem b]
  | _ => byteAt s.banks b :: s.homeByte b :: s.cores.filterMap fun k => (tfind k.2.l1 (b / 128)).bind fun x =>
      if x.isDirty (b % 128) || x.isValid (b % 128) then some (byteAt x.bytes (b % 128)) else none

/-- An open one of a list of values. -/
def State.openByte (s : State) (vs : List Byte) (b : Byte) : Byte × State :=
  (vs.getD (s.open_.1 % vs.length) b, s.open_.2)

/-- The bytes of addresses with an open value where one has any to choose from. -/
def State.openBytes (s : State) (choose : Nat → List Byte) : List Host.Cell → List Host.Cell × State
  | [] => ([], s)
  | (b, x) :: t =>
    let vs := choose b
    let r := if vs.isEmpty then (x, s) else s.openByte vs x
    let q := State.openBytes r.2 choose t
    ((b, r.1) :: q.1, q.2)

/-- Access id of core c is performed where it can be: inside the core, at its home, or at the target of its request. -/
def State.performAny (s : State) (c id : Nat) : State :=
  match (s.core c).access id with
  | none => s
  | some a =>
    if a.stage == .sent then after (execFabricRequestArrival c id 0 s) s
    else if a.space == .fabric then s
    else if s.isNear c a then s.accessTurn c id
    else after (execHomeRequest c id 0 s) s

/-- A load that races is performed, and each byte that a rival store would write returns any value of it (R144). -/
def State.raceTurn (s : State) (c id : Nat) : State :=
  match (s.core c).access id with
  | none => s
  | some a =>
    let rivals := (s.rivals c a).map Prod.snd
    let s1 := s.performAny c id
    match a.kind, (s1.core c).access id with
    | .load, some x =>
      if a.stage == .performed || x.stage != .performed || x.fault ≠ 0 || rivals.isEmpty || a.space == .device || inDev a.pa then s
      else
        let choose (b : Nat) : List Byte :=
          let ws := rivals.filterMap fun e => rivalByte e b
          if ws.isEmpty then [] else ws ++ s.valuesOf c a b
        let r := s1.openBytes choose (x.addrs.zip x.val)
        r.2.modAccess c id fun x => { x with val := r.1.map Prod.snd }
    | _, _ => s

/-- A strong store races with a strong store of another size: each byte that both write takes either's value or the one held before (R145). A
weave with debug enabled traps instead. -/
def State.mixTurn (s : State) (c id : Nat) : State :=
  match (s.core c).access id with
  | none => s
  | some a =>
    let rivals := (s.rivals c a).filter fun e => e.2.strong && e.2.n != a.n && e.2.kind == .store
    if a.kind != .store || !a.strong || rivals.isEmpty || s.debugOn c || a.space == .device || inDev a.pa then s
    else
      let choose (b : Nat) : List Byte :=
        let ws := rivals.filterMap fun e => rivalByte e.2 b
        if ws.isEmpty then [] else (a.data.filterMap fun x => if x.1 == b then some x.2 else none) ++ ws ++ s.valuesOf c a b
      let r := s.openBytes choose a.data
      (r.2.modAccess c id fun x => { x with data := r.1 }).performAny c id

/-! Time (R2, R169, R178, R387, R402, R483, R513). -/

/-- One nanosecond passes for a weave: the quantum, and the time since the decision to pre-empt it. -/
def Weave.aged (w : Weave) : Weave :=
  match w.st with
  | .resident => { w with quantum := w.quantum + 1 }
  | .stopping => { w with stopTime := w.stopTime + 1 }
  | _ => w

/-- The packages that run a die below step 0 count another millisecond (R513). -/
def State.countThrottle (s : State) : State :=
  if s.time % 1000000 ≠ 0 then s
  else { s with pkgs := s.pkgs.map fun e =>
    if (s.serv (2 * e.1)).step ≠ 0 ∨ (s.serv (2 * e.1 + 1)).step ≠ 0 then (e.1, { e.2 with mgmtstat := countUp e.2.mgmtstat 0 16 1 }) else e }

/-- One nanosecond of panel time passes, where no limit holds it; the timers of a halted weave stand still (R483). There is one panel time,
the same on every die and switch die: the spec lets them differ by 10 ns (R2; assumption 88). -/
def State.timeTurn (s : State) : State :=
  if s.timeHeld then s
  else
  let s1 : State := { s with time := (s.time + 1) % 2 ^ 64,
                             weaves := s.weaves.map fun e => (e.1, if s.weaveHalted e.1 then e.2 else e.2.aged),
                             groups := s.groups.map fun e => (e.1, if s.weaveHalted e.2.weave then e.2 else { e.2 with elapsed := e.2.elapsed + 1 }) }
  s1.ageNets.countThrottle

/-! System software and the queues (R155, R156). -/

/-- System software maps the descriptor onto a slot of die d: a package in service alone accepts it (R503). -/
def State.mapTurn (s : State) (d slot desc : Nat) : State :=
  if s.pkgUp (d / 2) && desc % 64 == 0 && inHbm desc then (s.mapSlot d slot desc).2 else s

/-! The turns. -/

/-- The unit that a turn names is none of the panel (R2): its number. -/
def Turn.absent (x : Turn) : Option Nat :=
  let past (limit n : Nat) : Option Nat := if limit ≤ n then some n else none
  match x with
  | .issueCtl c | .tick c | .perform c _ | .sector c _ _ | .race c _ | .mix c _ => past 8192 c
  | .wordError c p n => if 10 < p then some p else if n = 0 ∨ 3 < n then some n else past 8192 c
  | .pageWalkError d | .packetError d _ _ | .receiveError d _ | .takeError d _ => past 128 d
  | .hostLoad p _ _ _ | .hostStore p _ _ _ _ | .inlet p _ => past 64 p
  | .softError d n => if n = 0 ∨ 3 < n then some n else past 128 d
  | .issueData c e => if e = 0 ∨ 3 < e then some e else past 8192 c
  | .issueNmu n | .nmuError n _ => past 32768 n
  | .issueRun d _ | .emit d _ _ | .runError d _ _ | .stored d _ _ => past 128 d
  | .wake c t | .readError c t => if 7 < t then some t else past 8192 c
  | .sysMap d n _ | .sysUnmap d n => if 63 < n then some n else past 128 d
  | .event _ | .time | .walkError _ => none

/-- A turn is carried out. -/
def State.turn (s : State) (x : Turn) : Out :=
  match x.absent with
  | some n => .fault (.noSuchUnit n)
  | none =>
    match x with
    | .issueCtl c => s.ctlTurn c
    | .issueData c e => s.dataTurn c e
    | .issueNmu n => s.nmuTurn n
    | .issueRun d h => s.runTurn d h
    | .event i => exec i { s with cur := .none }
    | .tick c => .next (s.tick c)
    | .time => .next s.timeTurn
    | .perform c id => .next (s.accessTurn c id)
    | .sector c x no => .next (s.moveUnit c x no)
    | .emit d h id => .next (s.sendRunEmit d h id)
    | .runError d h kind => .next (s.runErrorMet d h kind)
    | .stored d no ecc => .next (s.moveStored d no ecc)
    | .nmuError n kind => .next (s.nmuErrorMet n kind)
    | .wake c t => .next (s.wakeTurn c t)
    | .sysMap d slot desc => .next (s.mapTurn d slot desc)
    | .sysUnmap d slot => .next (s.unmapSlot d slot).2
    | .wordError c p ecc => .next (s.wordError c p ecc)
    | .readError c t => .next (s.readFails c t)
    | .race c id => .next (s.raceTurn c id)
    | .mix c id => .next (s.mixTurn c id)
    | .pageWalkError d => .next (s.walkStep d true)
    | .packetError d q psn => .next (s.transmit d q psn true)
    | .hostLoad p b off n => .next (s.hostLoad p b off n)
    | .hostStore p b off n v => .next (s.hostStore p b off n v)
    | .inlet p temp => .next (s.modPkg p fun x => { x with inlet := temp })
    | .takeError d slot => s.takeError d slot
    | .receiveError d p => .next (s.receive d p true)
    | .walkError id => .next (s.walkErrorMet id)
    | .softError d ecc => .next (s.countError d ecc)

/-- The lines that the homes of one slice hold. -/
def State.sliceLines (s : State) (sl : Nat) : Nat :=
  (s.homes.foldl (fun (r : Option Nat × Nat) e => if sliceOf (32 * e.1) == sl && r.1 != some (e.1 / 4) then (some (e.1 / 4), r.2 + 1) else r) (none, 0)).2

/-- A slice of the L2 of a die would hold more than its 2 MiB, 16,384 lines (R107). -/
def State.overfull (s : State) : Bool :=
  decide (16384 < s.homes.length) && (s.homes.map fun e => sliceOf (32 * e.1)).eraseDups.any fun sl => decide (16384 < s.sliceLines sl)

/-- What a turn leaves, where the homes have room for the lines that it brings in; else another line leaves its slice first (R107, R132;
assumption 76). -/
def State.bounded (s : State) (r : Out) : Out :=
  match r with
  | .next t => if t.overfull && !s.overfull then .next s else .next t
  | r => r

/-- The turn that comes next, and the state without it: the schedule's first, or where it is spent an open one (assumption 1). -/
def State.nextTurn (s : State) : Turn × State :=
  match s.turns with
  | x :: t => (x, { s with turns := t })
  | [] => (Config.arbiter s.turnCtr, { s with turnCtr := s.turnCtr + 1 })

end Sys2Proof.Machine
end

