-- ==== Sys2Proof/Machine/Place.lean ====
section
/-! DEFINITION. One instruction put where the unit that it belongs to fetches its next one: what a loader leaves behind for it, and
the schedule's turn for that unit (assumption 3). -/

namespace Sys2Proof.Machine

/-- The kinds of word that the opcode table holds (R45, R57, R65). -/
inductive WordKind where
  | control
  | data (e : Nat)
  | nmu
  | sampler
deriving DecidableEq, Repr

/-- The kind of an instruction by its words, as decodeTableWord reads it. -/
def kindOf (nbits w : Nat) : WordKind :=
  if (decodeBytes (bytesOfNum 12 w)).isSome then .control
  else if nbits ≤ 32 then
    (if (decodeNmu (w % 2 ^ 32)).isSome then .nmu else if (decodeSmOp (w % 2 ^ 32)).isSome then .sampler else .control)
  else if (decodeData 1 w).isSome then .data 1
  else if (decodeData 2 w).isSome then .data 2
  else if (decodeData 3 w).isSome then .data 3
  else .control

/-- The weave of one job that the loader places on core 0: an own queue with SYS = 1. -/
def loaderWeave : Weave :=
  { id := 1, die := 0, slot := 0, ctx := 0, sys := true, origin := .packet 0, checked := true, st := .resident, jobs := [(0, [0])],
    lrec := { version := 1, nlev := 1, levels := [(1, 5, 1)] } }

/-- Its segment map: die 0 of package 0 stands at its own addresses. -/
def loaderSeg : Tbl SegEnt := [(0, { v := true, size := 41, rd := true, wr := true, at_ := true, x := true })]

/-- Core 0 has a job: its own, or the loader's. -/
def State.withJob (s : State) : State :=
  match (s.core 0).job with
  | some _ => s
  | none =>
    { s with weaves := tput s.weaves 1 loaderWeave, nextId := s.nextId + 1 }.modCore 0 fun k =>
      { k with job := some (1, 0), seg := loaderSeg, ctxno := 0, tasks := [(0, { st := .ready, pc := 0x1000#64 })],
               lvid := [(0, { scope := 1, valid := true, domain := 5, count := 1, index := 0 })] }

/-- A 32-bit word stands at a virtual address of core 0, in its buffer and at its home. -/
def State.placeWord (s : State) (va w : Nat) : State :=
  match translate (s.core 0).seg .x (va % 2 ^ 64) with
  | .ok pa _ => (s.homePutAll (cellsFrom (pa / 4 * 4) (bytesOfNum 4 w))).modCore 0 fun k => { k with ibuf := tput k.ibuf (pa / 4) w }
  | .bad _ => s

/-- Words from a virtual address up. -/
def State.placeWords (s : State) (va : Nat) : List Nat → State
  | [] => s
  | w :: ws => State.placeWords (s.placeWord va w) (va + 4) ws

/-- A control instruction of up to three words stands at the pc of task 0, which is ready. -/
def State.placeControl (s : State) (w : Nat) : State :=
  let s1 := s.withJob
  let s2 := s1.placeWords (s1.task 0 0).pc.toNat [w % 2 ^ 32, w / 2 ^ 32 % 2 ^ 32, w / 2 ^ 64 % 2 ^ 32]
  s2.modCore 0 fun k => { k.setTask 0 { k.task 0 with st := .ready, wait := none, notBefore := 0, due := [] } with rot := 7, issued := false }

/-- The entry that a word pops from its strand's control queue (R25 to R27). -/
def entryFor (i : Instr) : List CqEnt :=
  let one (ty v : Nat) : List CqEnt := [{ ty, tag := 0, payload := v }]
  match i with
  | .dataRegion _ _ => one 5 0
  | .vloopQ _ _ => one 0 1
  | .mloopQ _ _ => one 0 1
  | .cpLoopQ _ _ => one 0 1
  | .vwhileQ _ _ => one 1 1
  | .mwhileQ _ _ => one 1 1
  | .cpWhileQ _ _ => one 1 1
  | .vifQ _ _ => one 1 1
  | .mifQ _ _ => one 1 1
  | .cpIfQ _ _ => one 1 1
  | .vvalQ _ _ => one 4 0
  | .mvalQ _ _ => one 4 0
  | .cpValQ _ _ => one 4 0
  | .vmaskQ _ _ => one 3 0
  | _ => []

/-- Strand x of a job at a word of idle count n: it is released, and the word is due in counted cycle now. -/
def Strand.atWord (x : Strand) (q : List CqEnt) (n now : Nat) : Strand :=
  { x with named := true, held := false, stopped := false, atRegion := none, pc := if x.pc = 0 then 0x2000 else x.pc, base := now - n,
           cq := if (x.cq.ents.drop x.cq.popped).isEmpty then { x.cq with ents := x.cq.ents ++ q } else x.cq }

/-- A data word stands at the pc of strand e, due in this cycle. -/
def State.placeData (s : State) (e w : Nat) : State :=
  let s1 := s.withJob
  let q := match decodeData e w with
    | some i => entryFor i
    | none => []
  let s2 := s1.modData 0 fun d => { d with counted := max d.counted (fld w 0 10) }
  let s3 := s2.modStrand 0 e fun x => x.atWord q (fld w 0 10) (s2.core 0).data.counted
  s3.placeWords (s3.strand 0 e).pc [w % 2 ^ 32, w / 2 ^ 32 % 2 ^ 32]

/-- A program of n words and then w. -/
def progTo (p : List Nat) (n w : Nat) : List Nat := (p ++ List.replicate n 0).take n ++ [w]

/-- A word stands at the pc of the command that NMU 0 runs. -/
def State.placeNmu (s : State) (w : Nat) : State :=
  let s1 := s.withJob
  let c : NCmd := { id := 0, weave := s1.weaveNo 0, ctx := (s1.core 0).ctxno, core := 0, task := 0, uid := 0, words := [], loopn := 1, lo := 0,
                    hi := 2 ^ 38, y := List.replicate 8 0 }
  let r := (s1.nmu 0).run.getD c.start
  s1.modNmu 0 fun u => { u with run := some { r with cmd := { r.cmd with words := progTo r.cmd.words r.st.pc w } } }

/-- A word stands at the PC of the run of context 0 of die 0. -/
def State.placeSampler (s : State) (w : Nat) : State :=
  let s1 := s.withJob
  let x : SmCtx := (s1.smCtx 0 0).getD
    { weave := s1.weaveNo 0, ctx := (s1.core 0).ctxno, core := 0, base := 0x10000, len := 0x10000, spill := 0x20000, emit := none, elog2 := 0, evt := 0,
      map := none, lenw := none, stepmax := 1, seqid := 0, key := 0#64, stream := 0, ctr := 0, pos := 0, res := true }
  let z : SmCtx := { x with st := .running, ended := none, prog := progTo x.prog x.pc w, stepmax := max x.stepmax (x.issued + 1) }
  s1.modSmp 0 fun y => { y with ctxs := tput y.ctxs 0 z }

/-- The instruction w of nbits bits stands where its unit fetches next, and the next turn is that unit's. -/
def State.placeFor (s : State) (k : WordKind) (w : Nat) : State × Turn :=
  match k with
  | .control => (s.placeControl w, .issueCtl 0)
  | .data e => (s.placeData e w, .issueData 0 e)
  | .nmu => (s.placeNmu (w % 2 ^ 32), .issueNmu 0)
  | .sampler => (s.placeSampler (w % 2 ^ 32), .issueRun 0 0)

end Sys2Proof.Machine
end

