-- ==== Sys2Proof/Machine/Step.lean ====
section
/-! DEFINITION. One step of the panel: the next turn of the schedule is carried out; and the placing of one instruction where a
step fetches it. -/

namespace Sys2Proof.Machine

/-- One step. -/
def step (s : State) : Host.Outcome State Fault Refusal := s.nextTurn.2.bounded (s.nextTurn.2.turn s.nextTurn.1)

/-- The state with an instruction of the opcode table stored where the next step fetches it (assumption 3). -/
def State.withFetchWord (s : State) (nbits w : Nat) : State :=
  let r := s.placeFor (kindOf nbits w) w
  { r.1 with turns := r.2 :: r.1.turns }

end Sys2Proof.Machine
end

