-- ==== Sys2Proof/Safety.lean ====
section
/-! DEFINITION. Safe runs, and the terms that claims use: what a run reaches, that the machine does not stop, and what an instruction
changes and keeps. -/

namespace Sys2Proof

open Sys2Proof.Machine

/-- State t comes after n steps from state s. -/
def reaches : Nat → State → State → Prop
  | 0, s, t => s = t
  | n + 1, s, t => ∃ u, step s = .next u ∧ reaches n u t

/-- A step from s does not stop. -/
def goesOn (s : State) : Prop := ∃ t, step s = .next t

/-- Every memory of the panel that the banks hold stands in the canonical form. -/
def banksOk (s : State) : Prop := Memory.wf s.banks = true

/-- The homes list every sector once, in rising order, each with 32 bytes. -/
def homesOk (s : State) : Prop := s.homes.Pairwise (fun x y => x.1 < y.1) ∧ ∀ e ∈ s.homes, e.2.bytes.length = 32

/-- Memory stands in its one form: the banks and the homes. -/
def memoryOk (s : State) : Prop := banksOk s ∧ homesOk s

/-- A safe run: it goes on for n steps, and memory keeps its form. -/
def safeFor : Nat → State → Prop
  | 0, s => memoryOk s
  | n + 1, s => memoryOk s ∧ ∃ t, step s = .next t ∧ safeFor n t

/-! The terms of claims. -/

/-- Instruction i answers a next state at s, and p holds of it. -/
def answers (i : Instr) (s : State) (p : State → Prop) : Prop := ∃ u, exec i s = .next u ∧ p u

/-- Every byte of memory reads in u as in s: at the homes and in the banks, in the core stores, and through the L1s. -/
def bytesKept (s u : State) : Prop :=
  (∀ a, u.homeByte a = s.homeByte a) ∧ (∀ a, byteAt u.banks a = byteAt s.banks a) ∧
  (∀ e a, byteAt (u.core e).scratch a = byteAt (s.core e).scratch a ∧ byteAt (u.core e).opmem a = byteAt (s.core e).opmem a) ∧
  ∀ e a, u.nearByte e a = s.nearByte e a ∧ u.wideByte e a = s.wideByte e a

/-- Nothing outside core c differs between s and u. -/
def onlyCore (s : State) (c : Nat) (u : State) : Prop := u.setCore c {} = s.setCore c {}

/-- Nothing outside task t of core c and the core's NUMCHK differs between s and u. -/
def onlyTask (s : State) (c t : Nat) (u : State) : Prop :=
  onlyCore s c u ∧ { (u.core c).setTask t {} with numchk := 0#64 } = { (s.core c).setTask t {} with numchk := 0#64 }

/-- Of a task nothing differs but its registers, the pc, the due cycles of results and the draw counter. -/
def taskKept (x y : Task) : Prop :=
  { y with regs := [], pc := 0#64, due := [], notBefore := 0, src := 0 } = { x with regs := [], pc := 0#64, due := [], notBefore := 0, src := 0 }

/-- In u the result of an instruction of task t of core c stands: register d holds v, or is g0 and reads zero, every other register is as
in s, the pc is len bytes on, the result is due lat cycles after the issue, NUMCHK reads num and the draw counter src; nothing
else differs, and no byte of memory. -/
def wroteResult (s : State) (c t d : Nat) (v : Word) (lat len : Nat) (num : Word) (src : Nat) (u : State) : Prop :=
  u.reg c t d = (if d = 0 then 0#64 else v) ∧ (∀ r, r ≠ d → u.reg c t r = s.reg c t r) ∧
  (u.task c t).pc = (s.task c t).pc + BitVec.ofNat 64 len ∧ (u.task c t).notBefore = (s.task c t).notBefore ∧
  (d ≠ 0 → tfind (u.task c t).due d = some ((s.core c).cycle + lat)) ∧ (∀ r, r ≠ d → tfind (u.task c t).due r = tfind (s.task c t).due r) ∧
  (u.core c).numchk = num ∧ (u.task c t).src = src ∧
  taskKept (s.task c t) (u.task c t) ∧ onlyTask s c t u ∧ bytesKept s u

/-- The result of an instruction that touches neither NUMCHK nor the draw counter. -/
def wroteReg (s : State) (c t d : Nat) (v : Word) (lat len : Nat) (u : State) : Prop :=
  wroteResult s c t d v lat len (s.core c).numchk (s.task c t).src u

/-- The control word i of registers d, a and b puts f of registers a and b into register d, usable lat cycles later. -/
def givesOfTwo (i : CHdr → Nat → Nat → Nat → Instr) (lat : Nat) (f : Word → Word → Word) : Prop :=
  ∀ h d a b s c t, s.cur = .task c t → answers (i h d a b) s (wroteReg s c t d (f (s.reg c t a) (s.reg c t b)) lat (ctlLen h 1))

/-- The control word i of registers d and a and a field of n values puts f of register a and the field into register d. -/
def givesOfImm (i : CHdr → Nat → Nat → Nat → Instr) (n : Nat) (f : Word → Nat → Word) : Prop :=
  ∀ h d a imm s c t, imm < n → s.cur = .task c t → answers (i h d a imm) s (wroteReg s c t d (f (s.reg c t a) imm) 1 (ctlLen h 1))

/-- The exact result z as 64 bits: modulo 2^64, or with SAT clamped to the signed range (R96, R191). -/
def reduced (sat : Bool) (z : Int) : Word :=
  if sat then (if z < -2 ^ 63 then BitVec.ofInt 64 (-2 ^ 63) else if 2 ^ 63 - 1 < z then BitVec.ofInt 64 (2 ^ 63 - 1) else BitVec.ofInt 64 z)
  else BitVec.ofInt 64 z

/-- NUMCHK after the exact result z: SATS counts a clamp and holds at 65,535 (R106). -/
def satCounted (sat : Bool) (z : Int) (num : Word) : Word :=
  if sat = true ∧ (z < -2 ^ 63 ∨ 2 ^ 63 - 1 < z) then countUp num 0 16 1 else num

/-- In u task t of core c stands at target, to issue no earlier than cycle nb, with link in g63 where there is one; nothing else differs. -/
def went (s : State) (c t : Nat) (target : Word) (nb : Nat) (link : Option Word) (u : State) : Prop :=
  (u.task c t).pc = target ∧ (u.task c t).notBefore = nb ∧
  (∀ r, u.reg c t r = if r = 63 then link.getD (s.reg c t 63) else s.reg c t r) ∧
  (u.task c t).due = (s.task c t).due ∧ (u.task c t).src = (s.task c t).src ∧ (u.core c).numchk = (s.core c).numchk ∧
  taskKept (s.task c t) (u.task c t) ∧ onlyTask s c t u ∧ bytesKept s u

/-- In u task t of core c stands at the word after an instruction of len bytes; nothing else differs. -/
def wentOn (s : State) (c t len : Nat) (u : State) : Prop :=
  went s c t ((s.task c t).pc + BitVec.ofNat 64 len) (s.task c t).notBefore none u

/-- A transfer of a task of core c to target happens: the target is aligned, may be fetched, and its word has L = 1 (R45, R49). -/
def landable (s : State) (c : Nat) (target : Word) : Prop :=
  target.toNat % 4 = 0 ∧ ∃ pa nc, translate (s.core c).seg .x target.toNat = .ok pa nc ∧ (s.fetchedWord c pa).testBit 2 = true

/-- A trap of task t of core c enters the handler at once (R226, R228, R475): there is a handler, the task is not in it, and debug is
not enabled for the weave. -/
def handles (s : State) (c t : Nat) : Prop := (s.core c).tvec ≠ 0#64 ∧ (s.task c t).tin = false ∧ s.debugOn c = false

/-- In u task t of core c has entered its handler (R226): TCAUSE names the task and the cause, TPC and TVAL hold their values, TIN is
set, the task is at TVEC, to issue no earlier than 4 cycles later; its registers and FPM, every other task and every byte of memory
are as in s. -/
def entered (s : State) (c t code : Nat) (tpc tval : Word) (u : State) : Prop :=
  (u.task c t).tcause = BitVec.ofNat 64 (2 ^ 8 * (t % 8) + code) ∧ (u.task c t).tpc = tpc ∧ (u.task c t).tval = tval ∧
  (u.task c t).tin = true ∧ (u.task c t).pc = (s.core c).tvec ∧ (u.task c t).st = .ready ∧
  (u.task c t).notBefore = (s.core c).cycle + 4 ∧
  (∀ r, u.reg c t r = s.reg c t r) ∧ (u.task c t).fpm = (s.task c t).fpm ∧ (u.task c t).src = (s.task c t).src ∧
  (u.core c).numchk = (s.core c).numchk ∧ onlyTask s c t u ∧ bytesKept s u

/-- A transfer of a task of core c to target x does not happen, for the cause code: 5 where x is misaligned, 4 where the word there has L = 0
(R45, R49). -/
def noLanding (s : State) (c : Nat) (x : Word) (code : Nat) : Prop :=
  (x.toNat % 4 ≠ 0 ∧ code = 5) ∨
  (x.toNat % 4 = 0 ∧ code = 4 ∧ ∃ pa nc, translate (s.core c).seg .x x.toNat = .ok pa nc ∧ (s.fetchedWord c pa).testBit 2 = false)

/-- A cause on core c has halted its weave (R475, R476): the core is frozen and the weave's slot halting, and where no cause stood in the slot
yet its panel record is of this one; the other cores and every byte of memory are as in s. -/
def haltedBy (s : State) (c src code : Nat) (pc val : Word) (u : State) : Prop :=
  u.isFrozen c = true ∧ (∀ e, e ≠ c → u.core e = s.core e) ∧ bytesKept s u ∧
  ∃ h, s.slotOf c = some h ∧ (tget {} u.hslots h).halting = true ∧
    ((tget {} s.hslots h).panel.valid = false →
      let r := (tget {} u.hslots h).panel
      r.valid = true ∧ r.src = src ∧ r.code = code ∧ r.pc = pc.toNat ∧ r.val = val.toNat)

/-- In u a precise trap of task t of core c, whose weave has debug enabled, is pending instead of taken (R475): TCAUSE, TPC and TVAL are
recorded, the task stays at pc, TIN, its registers and FPM stay, and the trap has halted the weave. -/
def caught (s : State) (c t src code : Nat) (tpc tval pc : Word) (u : State) : Prop :=
  let cause := BitVec.ofNat 64 (2 ^ 8 * (t % 8) + code)
  (u.task c t).tcause = cause ∧ (u.task c t).tpc = tpc ∧ (u.task c t).tval = tval ∧ (u.task c t).tin = (s.task c t).tin ∧
  (u.task c t).pc = pc ∧ (u.task c t).pendCause = some (cause, tpc, tval) ∧ (∀ r, u.reg c t r = s.reg c t r) ∧
  (u.task c t).fpm = (s.task c t).fpm ∧ (∀ t', t' ≠ t → u.task c t' = s.task c t') ∧ haltedBy s c src code tpc tval u

/-- A conditional branch: not taken it goes on; taken it goes to its own address + 4 × OFF10, or where that cannot be it traps with cause 5 or
4 at the branch, TVAL the target (R45, R49, R199). -/
def branchesOn (i : CHdr → Nat → Nat → Nat → Instr) (rel : Word → Word → Prop) : Prop :=
  ∀ h a b off s c t, off < 2 ^ 10 → s.cur = .task c t →
    let target := wordAt h (s.task c t).pc + 4#64 * (BitVec.ofNat 10 off).signExtend 64
    (¬ rel (s.reg c t a) (s.reg c t b) → answers (i h a b off) s (wentOn s c t (ctlLen h 1))) ∧
    (rel (s.reg c t a) (s.reg c t b) → landable s c target →
      answers (i h a b off) s (went s c t target ((s.core c).cycle + 2) none)) ∧
    (rel (s.reg c t a) (s.reg c t b) → handles s c t → ∀ code, noLanding s c target code →
      answers (i h a b off) s (entered s c t code (s.task c t).pc target))

/-- An access as the control slice makes it, before its number, its party and its instruction are known (R52, R202). -/
def freshAccess (h : CHdr) (kind : AKind) (space : Space) (va pa n : Nat) (dest : Dest) (data : List Host.Cell) : Access :=
  { id := 0, party := 0, kind, space, va, pa, n, dest, data, scope := scopeOf h 1, acq := acqOf h, rel := relOf h }

/-- The data address va reaches pa on the core's own package, outside the device registers, with permission p (R115, R117). -/
def finds (s : State) (c : Nat) (p : Perm) (va : Word) (pa : Nat) (nc : Bool) : Prop :=
  translate (s.core c).seg p va.toNat = .ok pa nc ∧ paPkg pa = pkgOf c ∧ inDev pa = false

/-- Instruction i of task t of core c issues the memory access x (R136, R145, R222): of a weave with debug enabled a strong access of another size
than the last one there traps with MIXED_SIZE, an access to a line of the error-address table with MEMORY_ERROR; else a strong access of such a
weave leaves its size, the access enters the task's queues, and the task goes on len bytes further. -/
def issuesAccess (i : Instr) (s : State) (c t len : Nat) (x : Access) : Prop :=
  let clash : Prop := s.debugOn c = true ∧ x.strong = true ∧ ∃ u ∈ x.units, ∃ m, tfind s.strong u = some m ∧ m ≠ x.n
  let marked : State := if s.debugOn c = true ∧ x.strong = true then { s with strong := x.units.foldl (fun m u => tput m u x.n) s.strong } else s
  (clash → exec i s = .next (s.trap c t 18 (BitVec.ofNat 64 x.va))) ∧
  (¬ clash → s.errorLine (x.pa / 128) = true → exec i s = .next (s.trap c t 17 (BitVec.ofNat 64 x.va))) ∧
  (¬ clash → s.errorLine (x.pa / 128) = false → exec i s = .next ((marked.taskAccess c t x).goOn c t len))

end Sys2Proof
end

