-- ==== Sys2Proof/Certificates/Slice0/Obligations.lean ====
section
/-! DEFINITION. The statements about this model, one for each line of OBLIGATIONS.json. -/

open Sys2Proof Sys2Proof.Machine

/-! The integer and floating-point words of the control slice (R191 to R198). -/

/-- R191, R192, R193: sums, differences and products are exact, then reduced, or clamped and counted with SAT. R193: division never traps, and what
it gives; R189: the latency by the significant bits of the exact quotient's magnitude. -/
def Obligations.IntegerArithmeticIsExactThenReduced : Prop :=
  (
  ∀ h d a b imm s c t, s.cur = .task c t →
    let x := (s.reg c t a).toInt
    let y := (s.reg c t b).toInt
    let k := imm10 imm
    let done (z : Int) (lat : Nat) : State → Prop :=
      wroteResult s c t d (reduced (satOf h) z) lat (ctlLen h 1) (satCounted (satOf h) z (s.core c).numchk) (s.task c t).src
    answers (.add h d a b) s (done (x + y) 1) ∧
    answers (.sub h d a b) s (done (x - y) 1) ∧
    answers (.mul h d a b) s (done (x * y) 4) ∧
    answers (.addi h d a imm) s (done (x + k.toInt) 1)) ∧
  (
  ∀ (h : CHdr) (d a b : Nat) (s : State) (c t : Nat), s.cur = .task c t →
    let x := s.reg c t a
    let y := s.reg c t b
    let short : Prop := y = 0#64
    let minimum : Prop := x = 1#64 <<< 63 ∧ y = -1#64
    let q (z : Nat) : Nat := if z = 0 then 0 else Nat.log2 z + 1
    let sg : Nat := if short ∨ minimum then 6 else 6 + (q (x.toInt.natAbs / y.toInt.natAbs) - 2)
    let us : Nat := if short then 6 else 6 + (q (x.toNat / y.toNat) - 2)
    answers (.div h d a b) s (wroteReg s c t d (if short then -1#64 else x.sdiv y) sg (ctlLen h 1)) ∧
    answers (.divu h d a b) s (wroteReg s c t d (if short then -1#64 else x / y) us (ctlLen h 1)) ∧
    answers (.rem h d a b) s (wroteReg s c t d (if short then x else x.srem y) sg (ctlLen h 1)) ∧
    answers (.remu h d a b) s (wroteReg s c t d (if short then x else x % y) us (ctlLen h 1)))

/-- R191: the two-register operations; R193: the high halves. R192: the operations with an immediate; R194: `li` and `lih`. -/
def Obligations.RegisterOperationsGiveTheirResult : Prop :=
  (
  givesOfTwo .and 1 (fun x y => x &&& y) ∧
  givesOfTwo .or 1 (fun x y => x ||| y) ∧
  givesOfTwo .xor 1 (fun x y => x ^^^ y) ∧
  givesOfTwo .shl 1 (fun x y => x <<< (y.toNat % 64)) ∧
  givesOfTwo .shr 1 (fun x y => x >>> (y.toNat % 64)) ∧
  givesOfTwo .sra 1 (fun x y => x.sshiftRight (y.toNat % 64)) ∧
  givesOfTwo .slt 1 (fun x y => if x.toInt < y.toInt then 1#64 else 0#64) ∧
  givesOfTwo .sltu 1 (fun x y => if x.toNat < y.toNat then 1#64 else 0#64) ∧
  givesOfTwo .min 1 (fun x y => BitVec.ofInt 64 (min x.toInt y.toInt)) ∧
  givesOfTwo .max 1 (fun x y => BitVec.ofInt 64 (max x.toInt y.toInt)) ∧
  givesOfTwo .minu 1 (fun x y => BitVec.ofNat 64 (min x.toNat y.toNat)) ∧
  givesOfTwo .maxu 1 (fun x y => BitVec.ofNat 64 (max x.toNat y.toNat)) ∧
  givesOfTwo .mulh 4 (fun x y => ((x.signExtend 128 * y.signExtend 128) >>> 64).setWidth 64) ∧
  givesOfTwo .mulhu 4 (fun x y => ((x.setWidth 128 * y.setWidth 128) >>> 64).setWidth 64)) ∧
  (
  givesOfImm .andi (2 ^ 10) (fun x i => x &&& (BitVec.ofNat 10 i).signExtend 64) ∧
  givesOfImm .ori (2 ^ 10) (fun x i => x ||| (BitVec.ofNat 10 i).signExtend 64) ∧
  givesOfImm .xori (2 ^ 10) (fun x i => x ^^^ (BitVec.ofNat 10 i).signExtend 64) ∧
  givesOfImm .shli 64 (fun x i => x <<< i) ∧
  givesOfImm .shri 64 (fun x i => x >>> i) ∧
  givesOfImm .srai 64 (fun x i => x.sshiftRight i) ∧
  givesOfImm .slti (2 ^ 10) (fun x i => if x.toInt < ((BitVec.ofNat 10 i).signExtend 64).toInt then 1#64 else 0#64) ∧
  ∀ h d imm s c t, imm < 2 ^ 32 → s.cur = .task c t →
    answers (.li h d imm) s (wroteReg s c t d ((BitVec.ofNat 32 imm).signExtend 64) 1 (ctlLen h 2)) ∧
    answers (.lih h d imm) s (wroteReg s c t d (BitVec.ofNat 32 imm ++ (s.reg c t d).setWidth 32 : BitVec 64) 1 (ctlLen h 2)))

/-- R196, R197, R198: the arithmetic, comparisons and conversions; R90: an instruction that rounds in mode SR takes one draw; R106: NaNs, overflows
and clamps are counted; R189: the latencies. -/
def Obligations.ScalarFloatingPointGivesTheRoundedResult : Prop :=
  ∀ (h : CHdr) (fmt fn d a b e : Nat) (s : State) (c t : Nat), s.cur = .task c t → fmt < 3 → fn < 12 →
    let f : FFmt := if fmt = 0 then .f32 else if fmt = 1 then .bf16 else .f16
    let x := s.task c t
    let k : RndCtl := { rm := rmOf h x.fpm, sat := satOf h, ftz := ftzOf h x.fpm, draw := srDraw (s.core c).srkey.toNat 0 t x.src }
    let va := (s.reg c t a).toNat
    let vb := (s.reg c t b).toNat
    let fa := decodeFloat f k.ftz va
    let fb := decodeFloat f k.ftz vb
    let src := if k.rm = 5 then (x.src + 1) % 2 ^ 32 else x.src
    let done (r : NumRes) (lat words src : Nat) : State → Prop :=
      wroteResult s c t d (BitVec.ofNat 64 r.bits) lat (ctlLen h words) (noteRes (s.core c).numchk r) src
    let flag (p : Bool) : State → Prop := wroteReg s c t d (if p then 1#64 else 0#64) 4 (ctlLen h 1)
    answers (.fadd h fmt d a b) s (done (arithElem .add (.flt f) k va vb 0) 4 1 src) ∧
    answers (.fsub h fmt d a b) s (done (arithElem .sub (.flt f) k va vb 0) 4 1 src) ∧
    answers (.fmul h fmt d a b) s (done (arithElem .mul (.flt f) k va vb 0) 4 1 src) ∧
    answers (.fmin h fmt d a b) s (done (arithElem .min (.flt f) k va vb 0) 4 1 x.src) ∧
    answers (.fmax h fmt d a b) s (done (arithElem .max (.flt f) k va vb 0) 4 1 x.src) ∧
    answers (.ffma h fmt d a b e) s (done (arithElem .fma (.flt f) k va vb (s.reg c t e).toNat) 5 2 src) ∧
    answers (.fdiv h fmt d a b) s (done (packFloat f k.rm false k.ftz k.draw (divF fa fb)) 20 1 src) ∧
    answers (.fsqrt h fmt d a) s (done (packFloat f k.rm false k.ftz k.draw (sqrtF fa)) 20 1 src) ∧
    answers (.feq h fmt d a b) s (flag (relF 0 fa fb)) ∧
    answers (.flt h fmt d a b) s (flag (relF 2 fa fb)) ∧
    answers (.fle h fmt d a b) s (flag (relF 3 fa fb)) ∧
    answers (.fcvt h fn d a) s (done (convertElem (fcvtFormats fn).1 (fcvtFormats fn).2 k va) 4 1 src)

/-! Branches, calls and the traps of a transfer (R45, R48, R49, R117, R199, R200). -/

/-- R199 with R48: majors 0x12 to 0x17 are the conditional branches, in format C-B; each is taken when its registers satisfy its relation: equal, not
equal, signed less, signed greater or equal, unsigned less, unsigned greater or equal. Taken, it goes to its own address + 4 × sext(OFF10); not
taken, it goes on at the next word. A taken branch to a misaligned target traps with cause 5, one to a word with L = 0 with cause 4 (R45, R49). -/
def Obligations.BranchesAreTakenOnTheirRelation : Prop :=
  (∀ e ∈ [((0x12 : Nat), Instr.beq), (0x13, .bne), (0x14, .blt), (0x15, .bge), (0x16, .bltu), (0x17, .bgeu)],
    ∀ l a b off, a < 64 → b < 64 → off < 2 ^ 10 →
      decodeControl (2 ^ 2 * bit l + 2 ^ 3 * e.1 + 2 ^ 10 * b + 2 ^ 16 * a + 2 ^ 22 * off) 0 0 = some (e.2 { l := l } a b off)) ∧
  branchesOn .beq (fun x y => x = y) ∧
  branchesOn .bne (fun x y => x ≠ y) ∧
  branchesOn .blt (fun x y => x.toInt < y.toInt) ∧
  branchesOn .bge (fun x y => y.toInt ≤ x.toInt) ∧
  branchesOn .bltu (fun x y => x.toNat < y.toNat) ∧
  branchesOn .bgeu (fun x y => y.toNat ≤ x.toNat)

/-- R200: jumps, calls and returns; a call writes its own address + 4 into g63, and `callr` reads its register first. R45, R49, R226: a transfer to a
misaligned target traps with cause 5 and one to a word with L = 0 with cause 4, TVAL the target, at the transferring instruction; the transfer
does not happen and no link is written (R200). -/
def Obligations.JumpsTransferOrTrap : Prop :=
  (
  ∀ (h : CHdr) (off a : Nat) (s : State) (c t : Nat), off < 2 ^ 22 → s.cur = .task c t →
    let own := wordAt h (s.task c t).pc
    let target := own + 4#64 * (BitVec.ofNat 22 off).signExtend 64
    let nb := (s.core c).cycle + 2
    (landable s c target →
      answers (.j h off) s (went s c t target nb none) ∧ answers (.call h off) s (went s c t target nb (some (own + 4#64)))) ∧
    (landable s c (s.reg c t a) →
      answers (.jr h a) s (went s c t (s.reg c t a) nb none) ∧ answers (.callr h a) s (went s c t (s.reg c t a) nb (some (own + 4#64)))) ∧
    (landable s c (s.reg c t 63) → answers (.ret h) s (went s c t (s.reg c t 63) nb none))) ∧
  (
  ∀ (h : CHdr) (off a : Nat) (s : State) (c t : Nat), off < 2 ^ 22 → s.cur = .task c t → handles s c t →
    let pc := (s.task c t).pc
    let target := wordAt h pc + 4#64 * (BitVec.ofNat 22 off).signExtend 64
    (∀ code, noLanding s c target code →
      answers (.j h off) s (entered s c t code pc target) ∧ answers (.call h off) s (entered s c t code pc target)) ∧
    (∀ code, noLanding s c (s.reg c t a) code →
      answers (.jr h a) s (entered s c t code pc (s.reg c t a)) ∧ answers (.callr h a) s (entered s c t code pc (s.reg c t a))) ∧
    ∀ code, noLanding s c (s.reg c t 63) code → answers (.ret h) s (entered s c t code pc (s.reg c t 63)))

/-! Memory accesses of the control slice (R113 to R143, R202 to R209). -/

/-- R203, R204, R205: an aligned access outside the device registers enters its task's queues, with its address, size, bytes, scope and order, and
the task goes on; in the core store the address is swizzled and the value comes after 12 cycles, else after 24 (R189). What an access of the
control slice that enters the queues changes: it stands last, with a number of its own, for its task and its instruction; the task is at the next
word; no register, no flag, no byte of memory changes, and nothing outside the core. R203, R224, R226: a misaligned access traps with DATA_ALIGN,
one past the scratchpad with CORESTORE_RANGE, an atomic at a device register with DEVICE_REG; TVAL is the address, TPC the instruction, nothing
enters the queues. R136, R145, R222: of a weave with debug enabled a strong access of another size than the last one there traps with MIXED_SIZE,
and one that is none leaves its size; an access to a line of the error-address table traps with MEMORY_ERROR. That both are tested, and the size
left, as the access issues is the model's choice (log entries 16 and 106); the rules put the kept size at the home. -/
def Obligations.AccessesEnterTheQueuesOrTrap : Prop :=
  (
  ∀ (h : CHdr) (sx : Bool) (op size d a b swz off : Nat) (s : State) (c t pa : Nat) (nc : Bool), off < 2 ^ 28 → s.cur = .task c t →
    let n := 2 ^ size
    let ea := s.reg c t a + (BitVec.ofNat 28 off).signExtend 64
    let at_ := s.reg c t a
    let now := (s.core c).cycle
    let v := (s.reg c t b).toNat + (if size = 4 then 2 ^ 64 * (s.reg c t (b + 1)).toNat else 0)
    let cells (x w : Nat) : List Host.Cell := cellsFrom x (bytesOfNum n w)
    let here := swizzle swz (ea.toNat % 2 ^ 22)
    let then_ (x : Access) : Out := .next ((s.taskAccess c t x).goOn c t (ctlLen h 2))
    let issues (i : Instr) (x : Access) : Prop := issuesAccess i s c t (ctlLen h 2) x
    (ea.toNat % n = 0 → ea.toNat < (s.core c).scratchTop →
      exec (.ld h sx size d a true swz off) s =
        then_ { freshAccess h .load .core ea.toNat here n (.reg d sx) [] with readyAt := now + 12 } ∧
      exec (.st h size a b true swz off) s =
        then_ { freshAccess h .store .core ea.toNat here n .none (cells here v) with readyAt := now + 12 }) ∧
    (ea.toNat % n = 0 → finds s c .rd ea pa nc →
      issues (.ld h sx size d a false swz off) { freshAccess h .load .virt ea.toNat pa n (.reg d sx) [] with nc, readyAt := now + 24 }) ∧
    (ea.toNat % n = 0 → finds s c .wr ea pa nc →
      issues (.st h size a b false swz off) { freshAccess h .store .virt ea.toNat pa n .none (cells pa v) with nc, readyAt := now + 24 }) ∧
    (at_.toNat % n = 0 → finds s c .at_ at_ pa nc →
      issues (.atom h op size d a b)
        { freshAccess h (.atom op) .virt at_.toNat pa n (.reg d false) (cells pa (s.reg c t b).toNat) with nc, readyAt := now + 24 } ∧
      issues (.cas h size d a b) { freshAccess h (.atom 0) .virt at_.toNat pa n (.reg d false) (cells pa (s.reg c t b).toNat) with
        nc, readyAt := now + 24, cmp := some ((s.reg c t d).toNat % 2 ^ (8 * n)) })) ∧
  (
  ∀ (s : State) (c t len : Nat) (x : Access),
    let u := (s.taskAccess c t x).goOn c t len
    (u.core c).accs =
      (s.core c).accs ++ [{ x with id := s.nextId, party := t, word := (s.task c t).pc.toNat, icount := (s.task c t).icount }] ∧
    u.nextId = s.nextId + 1 ∧ (u.task c t).pc = (s.task c t).pc + BitVec.ofNat 64 len ∧
    (∀ r, u.reg c t r = s.reg c t r) ∧ (u.task c t).due = (s.task c t).due ∧ taskKept (s.task c t) (u.task c t) ∧
    { (u.core c).setTask t {} with accs := [] } = { (s.core c).setTask t {} with accs := [] } ∧
    { u with nextId := 0 }.setCore c {} = { s with nextId := 0 }.setCore c {} ∧ bytesKept s u) ∧
  (
  ∀ (h : CHdr) (sx cs : Bool) (op size d a b swz off : Nat) (s : State) (c t : Nat), off < 2 ^ 28 → s.cur = .task c t → handles s c t →
    let n := 2 ^ size
    let ea := s.reg c t a + (BitVec.ofNat 28 off).signExtend 64
    let at_ := s.reg c t a
    let pc := (s.task c t).pc
    (ea.toNat % n ≠ 0 →
      answers (.ld h sx size d a cs swz off) s (entered s c t 6 pc ea) ∧ answers (.st h size a b cs swz off) s (entered s c t 6 pc ea)) ∧
    (at_.toNat % n ≠ 0 →
      answers (.atom h op size d a b) s (entered s c t 6 pc at_) ∧ answers (.cas h size d a b) s (entered s c t 6 pc at_)) ∧
    (ea.toNat % n = 0 → (s.core c).scratchTop ≤ ea.toNat →
      answers (.ld h sx size d a true swz off) s (entered s c t 7 pc ea) ∧ answers (.st h size a b true swz off) s (entered s c t 7 pc ea)) ∧
    (at_.toNat % n = 0 → (∃ pa nc, translate (s.core c).seg .at_ at_.toNat = .ok pa nc ∧ paPkg pa = pkgOf c ∧ inDev pa = true) →
      answers (.atom h op size d a b) s (entered s c t 8 pc at_) ∧ answers (.cas h size d a b) s (entered s c t 8 pc at_)))

/-- R113, R139, R203: a store to the core store, once its turn has come, writes exactly its bytes; a load finds exactly the bytes there, where the
task has no earlier store under way. R203: the value of a load of 1, 2, 4 or 8 bytes returns sign- or zero-extended, that of 16 bytes in a
register pair, low half first; no other register changes and the task stays where it is. -/
def Obligations.CoreStoreBytesAndLoadedValues : Prop :=
  (
  ∀ (s : State) (c id : Nat) (a : Access), c < 8192 → (s.core c).access id = some a → a.space = .core → a.stage = .queued →
    a.acq = false → a.rel = false → (s.core c).mayPerform a = true →
    (∀ bs, a.kind = .store → a.data = cellsFrom a.pa bs → Memory.wf (s.core c).scratch = true →
      ∃ u, s.turn (.perform c id) = .next u ∧
        (∀ i, i < bs.length → byteAt (u.core c).scratch (a.pa + i) = bs.getD i 0#8) ∧
        (∀ x, x < a.pa ∨ a.pa + bs.length ≤ x → byteAt (u.core c).scratch x = byteAt (s.core c).scratch x) ∧
        (∀ e, e ≠ c → u.core e = s.core e) ∧ u.banks = s.banks ∧ u.homes = s.homes ∧
        (u.core c).tasks = (s.core c).tasks ∧ (u.core c).l1 = (s.core c).l1 ∧ (u.core c).opmem = (s.core c).opmem ∧
        Memory.wf (u.core c).scratch = true) ∧
    (a.kind = .load → ((s.core c).earlier a).all (fun e => e.kind != .store) = true →
      ∃ u, s.turn (.perform c id) = .next u ∧
        (u.core c).access id = some { a with stage := .performed, val := bytesAt (s.core c).scratch a.pa a.n } ∧
        { (u.core c) with accs := [] } = { (s.core c) with accs := [] } ∧ (∀ e, e ≠ c → u.core e = s.core e) ∧ bytesKept s u)) ∧
  (
  ∀ (s : State) (c id d : Nat) (sx : Bool) (a : Access), (s.core c).access id = some a → a.stage = .performed → a.space ≠ .fabric →
    a.readyAt ≤ (s.core c).cycle → a.fault = 0 → a.party < 8 → a.dest = .reg d sx → (s.task c a.party).st = .ready →
    let lo := numBytes (a.val.take 8)
    (a.val.length ≤ 8 → a.val ≠ [] →
      answers (.memoryReadReturn c id 0) s fun u =>
        u.reg c a.party d = (if d = 0 then 0#64 else if sx then (BitVec.ofNat (8 * a.val.length) lo).signExtend 64 else BitVec.ofNat 64 lo) ∧
        (∀ r, r ≠ d → u.reg c a.party r = s.reg c a.party r) ∧ (u.task c a.party).pc = (s.task c a.party).pc ∧
        (u.core c).accs = dropFirst (fun x => x.id == id) (s.core c).accs ∧ (∀ t, t ≠ a.party → u.task c t = s.task c t) ∧ bytesKept s u) ∧
    (a.val.length = 16 →
      answers (.memoryReadReturn c id 0) s fun u =>
        u.reg c a.party d = (if d = 0 then 0#64 else BitVec.ofNat 64 lo) ∧
        u.reg c a.party (d + 1) = BitVec.ofNat 64 (numBytes (a.val.drop 8)) ∧
        (∀ r, r ≠ d → r ≠ d + 1 → u.reg c a.party r = s.reg c a.party r) ∧ (u.task c a.party).pc = (s.task c a.party).pc ∧ bytesKept s u))

/-- R206: fences and `qmark` enter the task's queues; `fence` with ORD relaxed is an acquire-release fence (R141), `fence.sc` always is. R207: a
range of maintenance enters with its physical pieces, lines of device segments left alone. -/
def Obligations.FencesAndMaintenanceEnterTheQueues : Prop :=
  ∀ (h : CHdr) (a b : Nat) (s : State) (c t : Nat), s.cur = .task c t →
    let then_ (x : Access) : Out := .next ((s.taskAccess c t x).goOn c t (ctlLen h 1))
    let plain (kind : AKind) (space : Space) (acq rel : Bool) : Access :=
      { freshAccess h kind space 0 0 0 .none [] with acq, rel }
    let relaxed := acqOf h = false ∧ relOf h = false
    (relaxed → exec (.fence h) s = then_ (plain (.fence false) .core true true)) ∧
    (¬ relaxed → exec (.fence h) s = then_ (plain (.fence false) .core (acqOf h) (relOf h))) ∧
    exec (.fenceSc h) s = then_ (plain (.fence true) .core true true) ∧
    exec (.qmark h) s = then_ (plain .qmark .core false false) ∧
    let lo := (s.reg c t a).toNat
    let n := (s.reg c t b).toNat
    let first := lo / 128 * 128
    let ps := if n = 0 then [] else pieces (s.core c).seg .wr first (min ((lo + n + 127) / 128 * 128) (2 ^ 64) - first)
    let range (kind : AKind) : Access :=
      { freshAccess h kind .virt lo 0 0 .none [] with pieces := (physical ps).filter fun p => !inDev p.1 }
    firstBad ps = none →
      exec (.cleanR h a b) s = then_ (range .clean) ∧ exec (.invR h a b) s = then_ (range .inv) ∧
      exec (.cleaninvR h a b) s = then_ (range .cleaninv)

/-- R119, R208: a `probe` whose range is covered answers HIT, 0, at once; one that needs a walk parks the task and queues the walk of its die while
every named strand is held, and otherwise traps with PROBE_STATE. R127, R209: `phase` parks its task for 96 + 2 × N cycles, N the lines of the
region that changes sides. R126, R127: when its cycles have passed a `phase` completes: the share is the new one, the task goes on after the
word, bytes that leave the scratchpad, or come to it, read 0 afterwards, the others are kept; a growing L1 keeps its lines, a shrinking one writes its dirty
bytes back and drops them (the spec leaves open which lines leave: the model lets all). R118, R120: the walk at the head
of a die's queue ends the `probe` with MAPPED where nothing of its range is left uncovered, once the core's requests have completed. R120, R121: of a
sorted table of format 0 a walk finds the lowest-numbered record that contains the address; a record that passes the checks, grants the permission
and that no lower entry hides goes into a free elastic entry (the lowest: the model's choice, log entry 128), else the one installed earliest that
this probe did not install, and the probe ends where its range is covered; any other result is NOMAP, and 32 entries of its own are FULL. -/
def Obligations.ProbesAndPhasesBeginAndComplete : Prop :=
  (
  ∀ (h : CHdr) (kind d a b code : Nat) (s : State) (c t : Nat), s.cur = .task c t →
    let k := s.core c
    let va := (s.reg c t a).toNat
    let n := (s.reg c t b).toNat
    let old := k.scratchTop
    let new := 0x400000 - shareBytes code
    let lines := (max old new - min old new) / 128
    ((n = 0 ∨ firstUncovered k.seg kind va n = none) → answers (.probe h kind d a b) s (wroteReg s c t d 0#64 1 (ctlLen h 1))) ∧
    (n ≠ 0 → firstUncovered k.seg kind va n ≠ none → k.data.allHeld = true →
      answers (.probe h kind d a b) s fun u =>
        (u.core c).probe = some { task := t, rd := d, kind, addr := va, left := n } ∧ (u.task c t).st = .parked ∧
        (u.task c t).pc = (s.task c t).pc ∧ (∀ r, u.reg c t r = s.reg c t r) ∧
        tget [] u.walkQ (dieOf c) = tget [] s.walkQ (dieOf c) ++ [c] ∧ (u.core c).seg = k.seg ∧ bytesKept s u) ∧
    (n ≠ 0 → firstUncovered k.seg kind va n ≠ none → k.data.allHeld = false → handles s c t →
      answers (.probe h kind d a b) s (entered s c t 11 (s.task c t).pc (s.reg c t a))) ∧
    (k.fused = true → handles s c t → answers (.phase h code) s (entered s c t 12 (s.task c t).pc (BitVec.ofNat 64 code))) ∧
    (k.fused = false → (new < old → ringInRegion k new old = none) →
      answers (.phase h code) s fun u =>
        (u.core c).phase = some { task := t, code, doneAt := k.cycle + 96 + 2 * lines } ∧ (u.task c t).st = .parked ∧
        (u.task c t).pc = (s.task c t).pc ∧ (u.core c).share = k.share ∧ bytesKept s u)) ∧
  (
  (∀ (s : State) (c code done n : Nat) (w : Wait) (t : Nat), (s.core c).phase = some { task := t, code, doneAt := done } →
    done ≤ (s.core c).cycle → s.isFrozen c = false → (s.task c t).wait = some w → w.len = n →
    shareBytes (s.core c).share ≤ shareBytes code →
    answers (.phaseComplete c) s fun u =>
      (u.core c).share = code ∧ (u.core c).phase = none ∧ (u.task c t).st = .ready ∧
      (u.task c t).pc = (s.task c t).pc + BitVec.ofNat 64 n ∧ (u.core c).l1 = (s.core c).l1 ∧
      (∀ a, a < 0x400000 - shareBytes code → byteAt (u.core c).scratch a = byteAt (s.core c).scratch a) ∧
      (∀ a, 0x400000 - shareBytes code ≤ a → byteAt (u.core c).scratch a = 0#8) ∧
      (∀ e, e ≠ c → u.core e = s.core e) ∧ u.banks = s.banks ∧ u.homes = s.homes) ∧
  (∀ (s : State) (c code done n : Nat) (w : Wait) (t : Nat), (s.core c).phase = some { task := t, code, doneAt := done } →
    done ≤ (s.core c).cycle → s.isFrozen c = false → (s.task c t).wait = some w → w.len = n → memoryOk s → s.isFused c = false →
    shareBytes code < shareBytes (s.core c).share →
    answers (.phaseComplete c) s fun u =>
      (u.core c).share = code ∧ (u.core c).phase = none ∧ (u.task c t).st = .ready ∧
      (u.task c t).pc = (s.task c t).pc + BitVec.ofNat 64 n ∧ (u.core c).l1 = [] ∧ (∀ a, u.homeByte a = s.wideByte c a) ∧
      (∀ a, a < (s.core c).scratchTop → byteAt (u.core c).scratch a = byteAt (s.core c).scratch a) ∧
      (∀ a, (s.core c).scratchTop ≤ a → byteAt (u.core c).scratch a = 0#8) ∧
      (∀ e, e ≠ c → (u.core e).tasks = (s.core e).tasks ∧ (u.core e).scratch = (s.core e).scratch) ∧ u.banks = s.banks) ∧
  (∀ (s : State) (tbase a : Nat),
    let n := s.homeNum tbase 8
    let rec_ (k : Nat) : SegEnt := segOfNum (s.walkRecord tbase k)
    (∀ k, k < n → (rec_ k).size ≤ 40 ∧ (rec_ k).vbase % 2 ^ (rec_ k).size = 0) → (∀ j k, j < k → k < n → (rec_ j).vbase ≤ (rec_ k).vbase) →
    (∀ k, k < n → (rec_ k).matches a = true → (∀ j, j < k → (rec_ j).matches a = false) → s.walkTable tbase a = some (s.walkRecord tbase k)) ∧
    ((∀ k, k < n → (rec_ k).matches a = false) → s.walkTable tbase a = none)) ∧
  (∀ (s : State) (d c a : Nat) (q : List Nat) (p : Probe) (w : Wait) (wv : Weave), tget [] s.walkQ d = c :: q → (s.core c).probe = some p →
    dieOf c = d → (∀ x ∈ (s.core c).accs, x.kind = .qmark ∨ ∃ b, x.kind = .fence b) → a < 2 ^ (64 : Nat) →
    firstUncovered (s.core c).seg p.kind p.addr p.left = some a → (s.task c p.task).wait = some w → s.weaveOf c = some wv → wv.lrec.fmt = 0 →
    s.walkLost wv.lrec.tbase a = false →
    let k := s.core c
    let ends (st : Nat) (seg : Tbl SegEnt) : State → Prop := fun u =>
      (u.core c).probe = none ∧ tget [] u.walkQ d = q ∧ u.reg c p.task p.rd = (if p.rd = 0 then 0#64 else BitVec.ofNat 64 st) ∧
      (u.task c p.task).st = .ready ∧ (u.task c p.task).pc = (s.task c p.task).pc + BitVec.ofNat 64 w.len ∧
      (u.core c).seg = seg ∧ bytesKept s u
    let good (x : Nat) : Prop := segRecordOk x = true ∧ (segOfNum x).matches a = true ∧ (segOfNum x).grants (probePerm p.kind) = true
    let free (i : Nat) : Prop := 256 ≤ i ∧ i < 288 ∧ i ∉ k.elastic ∧ ∀ j, 256 ≤ j → j < i → j ∈ k.elastic
    let full : Prop := ∀ j, 256 ≤ j → j < 288 → j ∈ k.elastic
    let oldest (i : Nat) : Prop := full ∧ ∃ xs ys, k.elastic = xs ++ i :: ys ∧ i ∉ p.mine ∧ ∀ j ∈ xs, j ∈ p.mine
    let hidden (i : Nat) : Prop := ∃ y ∈ k.seg, y.1 < i ∧ y.2.matches a = true
    (s.walkTable wv.lrec.tbase a = none → answers (.pageWalkComplete d) s (ends 2 k.seg)) ∧
    ∀ x, s.walkTable wv.lrec.tbase a = some x →
      (¬ good x → answers (.pageWalkComplete d) s (ends 2 k.seg)) ∧
      (good x → full → (∀ j ∈ k.elastic, j ∈ p.mine) → answers (.pageWalkComplete d) s (ends 3 k.seg)) ∧
      ∀ i, good x → (free i ∨ oldest i) →
        (hidden i → answers (.pageWalkComplete d) s (ends 2 k.seg)) ∧
        (¬ hidden i →
          let seg := tput k.seg i (segOfNum x)
          (firstUncovered seg p.kind p.addr p.left = none → answers (.pageWalkComplete d) s (ends 1 seg)) ∧
          (firstUncovered seg p.kind p.addr p.left ≠ none → answers (.pageWalkComplete d) s fun u =>
            (u.core c).seg = seg ∧ (u.core c).elastic = k.elastic.filter (fun j => j != i) ++ [i] ∧
            (u.core c).probe = some { p with mine := p.mine ++ [i] } ∧ u.walkQ = s.walkQ ∧ (u.core c).tasks = k.tasks ∧
            onlyCore s c u ∧ bytesKept s u))) ∧
  ∀ (s : State) (d c : Nat) (q : List Nat) (p : Probe) (w : Wait), tget [] s.walkQ d = c :: q → (s.core c).probe = some p → dieOf c = d →
    (∀ a ∈ (s.core c).accs, a.kind = .qmark ∨ ∃ b, a.kind = .fence b) → firstUncovered (s.core c).seg p.kind p.addr p.left = none → (s.task c p.task).wait = some w →
    answers (.pageWalkComplete d) s fun u =>
      (u.core c).probe = none ∧ tget [] u.walkQ d = q ∧ u.reg c p.task p.rd = (if p.rd = 0 then 0#64 else 1#64) ∧
      (u.task c p.task).st = .ready ∧ (u.task c p.task).pc = (s.task c p.task).pc + BitVec.ofNat 64 w.len ∧
      (u.core c).seg = (s.core c).seg ∧ bytesKept s u)

/-! Jobs, tasks, control queues, barriers and events (R13 to R44, R210 to R220). -/

/-- R210, R211, R212: a send to a named strand whose queue has room appends its entry, and the task goes on; `cq.region` appends to every named
strand; a squash acts on the waiting entries; a send or squash to a strand that is not named queues nothing, and traps in task 0. R29, R212: what
a squash leaves: no waiting entry of the tag but REGION entries and one STOP in the place of the first removed, the entries of other tags in
their order. -/
def Obligations.ControlQueuesTakeSendsAndSquashes : Prop :=
  (
  ∀ (h : CHdr) (e a b tag mode : Nat) (s : State) (c t : Nat), s.cur = .task c t →
    let x := s.reg c t a
    let y := s.reg c t b
    let q := (s.strand c e).cq
    let sent (ty payload : Nat) : State → Prop := fun u =>
      (u.strand c e).cq = { q with ents := q.ents ++ [{ ty, tag, payload }] } ∧
      { u.strand c e with cq := {} } = { s.strand c e with cq := {} } ∧
      (∀ e', 1 ≤ e' → e' ≤ 3 → e' ≠ e → u.strand c e' = s.strand c e') ∧
      (u.task c t).pc = (s.task c t).pc + BitVec.ofNat 64 (ctlLen h 1) ∧ (∀ r, u.reg c t r = s.reg c t r) ∧
      (∀ t', t' ≠ t → u.task c t' = s.task c t') ∧ onlyCore s c u ∧ bytesKept s u
    ((s.core c).data.names e = true → q.ents.length < 64 →
      answers (.cqCount h e a tag) s (sent 0 (x.toNat % 2 ^ (32 : Nat))) ∧
      answers (.cqOut h e a tag) s (sent 1 (if x = 0#64 then 0 else 1)) ∧
      answers (.cqMrow h e a b tag) s (sent 2 (x.toNat + 2 ^ (64 : Nat) * (y.toNat % 2 ^ (48 : Nat)))) ∧
      answers (.cqMbits h e a b tag) s (sent 3 (x.toNat + 2 ^ (64 : Nat) * (y.toNat % 2 ^ (16 : Nat)))) ∧
      answers (.cqVal h e a tag) s (sent 4 x.toNat)) ∧
    ((∀ e', 1 ≤ e' → e' ≤ 3 → (s.strand c e').named = true → (s.strand c e').cq.ents.length < 64) →
      answers (.cqRegion h mode) s fun u =>
        (∀ e', 1 ≤ e' → e' ≤ 3 → u.strand c e' = if (s.strand c e').named then
          { s.strand c e' with cq := { (s.strand c e').cq with ents := (s.strand c e').cq.ents ++ [{ ty := 5, tag := 0, payload := mode }] } }
          else s.strand c e') ∧
        (u.task c t).pc = (s.task c t).pc + BitVec.ofNat 64 (ctlLen h 1) ∧ onlyCore s c u ∧ bytesKept s u) ∧
    ((s.core c).data.names e = true →
      answers (.cqSquash h e tag) s fun u =>
        (u.strand c e).cq.ents = q.ents.take q.popped ++ squashList tag false (q.ents.drop q.popped) ∧
        (u.strand c e).cq.popped = q.popped ∧ (u.task c t).pc = (s.task c t).pc + BitVec.ofNat 64 (ctlLen h 1) ∧
        onlyCore s c u ∧ bytesKept s u) ∧
    ((s.core c).data.names e = false → t = 0 → handles s c t →
      answers (.cqVal h e a tag) s (entered s c t 24 (s.task c t).pc (wordAt h (s.task c t).pc)) ∧
      answers (.cqSquash h e tag) s (entered s c t 24 (s.task c t).pc (wordAt h (s.task c t).pc)))) ∧
  (
  ∀ (tag : Nat) (q : List CqEnt),
    let r := squashList tag false q
    (r.filter fun e => e.tag != tag) = (q.filter fun e => e.tag != tag) ∧
    (r.filter fun e => e.tag == tag && e.ty == 5) = (q.filter fun e => e.tag == tag && e.ty == 5) ∧
    (r.filter fun e => e.tag == tag && e.ty != 5) =
      (if (q.filter fun e => e.tag == tag && e.ty != 5).isEmpty then [] else [{ ty := 6, tag, payload := 0 }]) ∧
    ∀ p x z, q = p ++ x :: z → (p.all fun e => !(e.tag == tag && e.ty != 5)) = true → x.tag = tag → x.ty ≠ 5 →
      r.take (p.length + 1) = p ++ [{ ty := 6, tag, payload := 0 }])

/-- R14, R21: `go` of task 0, with every named strand held and every enabled ring in order, releases the named strands together, its own counted
cycle being the 0 of their idle counts, and keeps a snapshot (R36). From another task, or with a strand not held, it raises GO_STATE and releases
nothing; with a ring out of order, RING_DESC with the ring's number. -/
def Obligations.GoReleasesTheHeldStrandsOrTraps : Prop :=
  ∀ (h : CHdr) (s : State) (c t : Nat), s.cur = .task c t →
    let d := (s.core c).data
    let pc := (s.task c t).pc
    (t = 0 → d.allHeld = true → failingRing (s.core c) = none → d.withheld = [] →
      answers (.go h) s fun u =>
        (∀ e, 1 ≤ e → e ≤ 3 → (s.strand c e).named = true → (u.strand c e).held = false ∧ (u.strand c e).base = d.counted) ∧
        (∀ e, 1 ≤ e → e ≤ 3 → (u.strand c e).pc = (s.strand c e).pc ∧ (u.strand c e).named = (s.strand c e).named) ∧
        (u.core c).data.snap.isSome = true ∧ (u.core c).data.started = true ∧ (u.core c).data.frozen = false ∧
        (u.core c).data.rings = d.rings ∧ (u.core c).data.slots = d.slots ∧
        (u.task c t).pc = pc + BitVec.ofNat 64 (ctlLen h 1) ∧ (∀ r, u.reg c t r = s.reg c t r) ∧ onlyCore s c u ∧ bytesKept s u) ∧
    (t ≠ 0 ∨ d.allHeld = false → handles s c t → answers (.go h) s (entered s c t 9 pc d.dstrand)) ∧
    (∀ n, t = 0 → d.allHeld = true → failingRing (s.core c) = some n → handles s c t →
      answers (.go h) s (entered s c t 25 pc (BitVec.ofNat 64 n)))

/-- R15, R16, R214, R220: `rim`, `jend` and `restart` of task 0 park it at its word; from another task they raise TASK_STATE, `jend` with a strand
not held and `restart` before the first `go` GO_STATE. A `restart` stops every running strand. R15: `rim` completes once every named strand is
held and the engines have drained, with the acquire at core scope. R35, R36: a region crossing completes once every named strand waits at a
region word of one mode and the engines have drained, and neither a freeze stands nor the weave stops: the mode is the new one, no strand waits any
longer, and a snapshot is kept. That strands held at any word of theirs, also at their start words before the first `go`, suffice for `rim` to
complete and for `jend` to be accepted is the model's choice (log entries 89 and 90). -/
def Obligations.JobsWaitAtTheirRendezvous : Prop :=
  (
  ∀ (h : CHdr) (s : State) (c t : Nat), s.cur = .task c t →
    let d := (s.core c).data
    let pc := (s.task c t).pc
    let waits (w : WaitFor) : State → Prop := fun u =>
      (u.task c t).st = .parked ∧ (u.task c t).wait.map (fun x => (x.what, x.len)) = some (w, ctlLen h 1) ∧ (u.task c t).pc = pc ∧
      (∀ r, u.reg c t r = s.reg c t r) ∧ (∀ t', t' ≠ t → u.task c t' = s.task c t') ∧ onlyCore s c u ∧ bytesKept s u
    (t = 0 → answers (.rim h) s fun u => waits .rim u ∧ (u.core c).data = d) ∧
    (t = 0 → d.allHeld = true → answers (.jend h) s fun u => waits .jend u ∧ (u.core c).data = d) ∧
    (t = 0 → d.snap.isSome = true → answers (.restart h) s fun u => waits .restart u ∧
      (∀ e, 1 ≤ e → e ≤ 3 → (u.strand c e).running = false) ∧ (u.core c).data.snap = d.snap ∧ (u.core c).data.v = d.v) ∧
    (handles s c t →
      (t ≠ 0 → answers (.rim h) s (entered s c t 10 pc 0#64) ∧ answers (.jend h) s (entered s c t 10 pc 0#64) ∧
        answers (.restart h) s (entered s c t 10 pc 0#64)) ∧
      (t = 0 → d.allHeld = false → answers (.jend h) s (entered s c t 9 pc d.dstrand)) ∧
      (t = 0 → d.snap = none → answers (.restart h) s (entered s c t 9 pc d.dstrand)))) ∧
  (
  (∀ (s : State) (c : Nat) (w : Wait), (s.task c 0).st = .parked → (s.task c 0).wait = some w → w.what = .rim →
    (s.core c).data.allHeld = true → s.dataDrained c = true → s.isFrozen c = false →
    answers (.rimRendezvous c) s fun u =>
      u = (s.acquire c 1).wake c 0 ∧ (u.task c 0).st = .ready ∧ (u.task c 0).pc = (s.task c 0).pc + BitVec.ofNat 64 w.len) ∧
  ∀ (s : State) (c : Nat) (m : Bool), (s.core c).data.crossing = some m → s.dataDrained c = true → s.isFrozen c = false →
    s.stopped c = false → (s.core c).data.frozen = false → (s.core c).data.withheld = [] →
    answers (.regionCrossingComplete c) s fun u =>
      (u.core c).data.timed = m ∧ (∀ e, 1 ≤ e → e ≤ 3 → (u.strand c e).atRegion = none ∧ (u.strand c e).base = (s.core c).data.counted) ∧
      (u.core c).data.snap.isSome = true ∧ (∀ e, 1 ≤ e → e ≤ 3 → (u.strand c e).pc = (s.strand c e).pc) ∧ onlyCore s c u ∧ bytesKept s u)

/-- R17, R187, R215: `tspawn` takes the lowest-numbered free context: it is ready at the start address with g1, every other register 0, the spawner's
FPM, draw counter and TSTAT 0, and the spawner gets its number; with none free it gets −1; a start address that is misaligned, or whose word has L = 0,
traps with cause 5 or 4, and no task starts (R45, R49). R216: `texit` frees the context of a task other than
0; task 0 traps. -/
def Obligations.TasksAreSpawnedAndExit : Prop :=
  ∀ (h : CHdr) (d a off : Nat) (s : State) (c t : Nat), off < 2 ^ 32 → s.cur = .task c t → (s.task c t).st = .ready → t < 8 →
    let target := wordAt h (s.task c t).pc + 4#64 * (BitVec.ofNat 32 off).signExtend 64
    let gets (v : Word) : State → Prop := fun u =>
      u.reg c t d = (if d = 0 then 0#64 else v) ∧ (∀ r, r ≠ d → u.reg c t r = s.reg c t r) ∧
      (u.task c t).pc = (s.task c t).pc + BitVec.ofNat 64 (ctlLen h 2) ∧ bytesKept s u
    (landable s c target → (∀ n, n < 8 → (s.task c n).st ≠ .free) →
      answers (.tspawn h d a off) s fun u => gets (BitVec.allOnes 64) u ∧ ∀ t', t' ≠ t → u.task c t' = s.task c t') ∧
    (∀ n, landable s c target → n < 8 → (s.task c n).st = .free → (∀ m, m < n → (s.task c m).st ≠ .free) →
      answers (.tspawn h d a off) s fun u => gets (BitVec.ofNat 64 n) u ∧
        (u.task c n).st = .ready ∧ (u.task c n).pc = target ∧ u.reg c n 1 = s.reg c t a ∧ (∀ r, r ≠ 1 → u.reg c n r = 0#64) ∧
        (u.task c n).fpm = (s.task c t).fpm ∧ (u.task c n).src = 0 ∧ (u.task c n).tin = false ∧
        (u.task c n).notBefore = (s.core c).cycle + 2 ∧ ∀ t', t' ≠ t → t' ≠ n → u.task c t' = s.task c t') ∧
    (handles s c t → ∀ code, noLanding s c target code → answers (.tspawn h d a off) s (entered s c t code (s.task c t).pc target)) ∧
    (t ≠ 0 → answers (.texit h) s fun u =>
      (u.task c t).st = .free ∧ (∀ t', t' ≠ t → u.task c t' = s.task c t') ∧ onlyCore s c u ∧ bytesKept s u) ∧
    (t = 0 → handles s c t → answers (.texit h) s (entered s c t 10 (s.task c t).pc 0#64))

/-- R40: applying arrivals and bytes adds them; at the end of the unit's cycle a barrier that meets its counts flips, at most once in the cycle: the
phase toggles and the expected counts are taken away, so that an excess counts towards the next phase; where its weave is halted it flips for what comes from outside only (R44). R217, R143: with the address of a barrier allocated to the weave, `bara` puts a release at the domain's scope into
the task's queues and parks until it is applied; `barw` goes on where PHASE already differs from g[RB][0] and parks where it does not; a misaligned address is DATA_ALIGN, one that is no barrier's DEVICE_REG, a barrier not allocated to the weave
BARRIER_ACCESS, and `barw` at one whose configuration is zero BARRIER_CONFIG. R42, R218: `evs` sends one signal to the slot that g[RA] names, acting for the weave; `evw` takes a signal of
its own core's slot, or parks where the count is 0; an arriving signal for the weave on the core adds 1 where no task waits, and the count holds
at 65,535 with the overflow bit set. A non-zero upper bit of g[RA] is EVENT_OPERAND. -/
def Obligations.BarriersFlipAndEventsWake : Prop :=
  (
  ∀ (b : Barrier) (n m : Nat), b.arrived + n < 2 ^ (20 : Nat) → b.counted + m < 2 ^ (43 : Nat) →
    b.apply n m = { b with arrived := b.arrived + n, counted := b.counted + m }) ∧
  (
  (∀ (h : CHdr) (d a b : Nat) (s : State) (c t pa : Nat) (nc : Bool) (x : BarId) (w : Nat), s.cur = .task c t →
    let va := s.reg c t a
    let ph := (s.reg c t b).getLsbD 0
    va.toNat % 16 = 0 → translate (s.core c).seg .rd va.toNat = .ok pa nc → barAt pa = some (x, w) → s.barAllocated c x = true →
    (answers (.bara h d a) s fun u =>
      (u.task c t).st = .parked ∧ (u.task c t).pc = (s.task c t).pc ∧
      (∃ y, (u.core c).accs = (s.core c).accs ++ [y] ∧ y.id = s.nextId ∧ y.party = t ∧ y.kind = .arrival x ∧ y.rel = true ∧
        y.scope = barScope x ∧ y.dest = .reg d false) ∧ u.barriers = s.barriers ∧ bytesKept s u) ∧
    ((s.barrier x).unset = false → (s.barrier x).phase = !ph → exec (.barw h a b) s = .next ((s.acquire c (barScope x)).goOn c t (ctlLen h 1))) ∧
    ((s.barrier x).unset = false → (s.barrier x).phase = ph →
      answers (.barw h a b) s fun u => (u.task c t).st = .parked ∧ (u.task c t).pc = (s.task c t).pc ∧
        (u.task c t).wait.map (fun y => y.what) = some (.flip x ph) ∧ u.barriers = s.barriers ∧ bytesKept s u)) ∧
  (∀ (h : CHdr) (d a b : Nat) (s : State) (c t : Nat), s.cur = .task c t → handles s c t →
    let va := s.reg c t a
    let traps (code : Nat) : Prop := answers (.bara h d a) s (entered s c t code (s.task c t).pc va) ∧
      answers (.barw h a b) s (entered s c t code (s.task c t).pc va)
    (va.toNat % 16 ≠ 0 → traps 6) ∧
    ∀ pa nc, va.toNat % 16 = 0 → translate (s.core c).seg .rd va.toNat = .ok pa nc →
      (barAt pa = none → traps 8) ∧
      ∀ x w, barAt pa = some (x, w) →
        (s.barAllocated c x = false → traps 13) ∧
        (s.barAllocated c x = true → (s.barrier x).unset = true → answers (.barw h a b) s (entered s c t 14 (s.task c t).pc va))) ∧
  ∀ (s : State) (x : BarId),
    let b := s.barrier x
    let meets : Prop := (b.parties ≠ 0 ∨ b.bytes ≠ 0) ∧ b.parties ≤ b.arrived ∧ b.bytes ≤ b.counted
    let flippedNow : Prop := b.flippedAt ≠ none ∧ b.flippedAt = s.barClock x
    let held : Prop := b.outside = false ∧ s.barFrozen x = true
    (meets → ¬ flippedNow → ¬ held →
      answers (.barrierCarryFlip x) s fun u =>
        u.barrier x = { b with phase := !b.phase, arrived := b.arrived - b.parties, counted := b.counted - b.bytes, flippedAt := s.barClock x,
                               outside := b.outside && b.flip.due } ∧
        (∀ y, barKey y ≠ barKey x → u.barrier y = s.barrier y)) ∧
    (¬ meets ∨ flippedNow ∨ held → exec (.barrierCarryFlip x) s = .next s)) ∧
  (
  (∀ (h : CHdr) (a : Nat) (s : State) (c t : Nat), s.cur = .task c t →
    let v := s.reg c t a
    (v.toNat < 2 ^ (18 : Nat) →
      answers (.evs h a) s fun u =>
        u.signals = s.signals ++ [{ id := s.nextId, core := v.toNat / 2 ^ (5 : Nat), slot := v.toNat % 2 ^ (5 : Nat), weave := (s.weaveOf c).map (fun w => w.id),
                                    ctx := (s.core c).ctxno, acq := none }] ∧
        wentOn s c t (ctlLen h 1) { u with signals := s.signals, nextId := s.nextId }) ∧
    (v.toNat < 2 ^ (5 : Nat) → (tget {} (s.core c).events v.toNat).count = 0 →
      answers (.evw h a) s fun u => (u.task c t).st = .parked ∧ (u.task c t).pc = (s.task c t).pc ∧
        (u.task c t).wait.map (fun x => x.what) = some (.event v.toNat) ∧ (u.core c).events = (s.core c).events ∧ bytesKept s u) ∧
    (v.toNat < 2 ^ (5 : Nat) → (tget {} (s.core c).events v.toNat).count ≠ 0 →
      answers (.evw h a) s fun u =>
        (tget {} (u.core c).events v.toNat).count + 1 = (tget {} (s.core c).events v.toNat).count ∧
        (∀ n, n ≠ v.toNat → tget {} (u.core c).events n = tget {} (s.core c).events n) ∧
        (u.task c t).pc = (s.task c t).pc + BitVec.ofNat 64 (ctlLen h 1) ∧ ∀ r, u.reg c t r = s.reg c t r) ∧
    (handles s c t → (2 ^ (18 : Nat) ≤ v.toNat → answers (.evs h a) s (entered s c t 19 (s.task c t).pc v)) ∧
      (2 ^ (5 : Nat) ≤ v.toNat → answers (.evw h a) s (entered s c t 19 (s.task c t).pc v)))) ∧
  ∀ (s : State) (g : Signal) (rest : List Signal) (w : Weave), s.signals = g :: rest → s.weaveOf g.core = some w → g.reaches w = true → g.acq = none → g.held = none →
    (s.core g.core).eventWaiter g.slot = none →
    answers (.eventSignalArrival g.id) s fun u =>
      u.signals = rest ∧ (∀ n, n ≠ g.slot → tget {} (u.core g.core).events n = tget {} (s.core g.core).events n) ∧
      (let e := tget {} (s.core g.core).events g.slot
       tget {} (u.core g.core).events g.slot = if e.count < 65535 then { e with count := e.count + 1 } else { e with ovf := true }) ∧
      (u.core g.core).tasks = (s.core g.core).tasks ∧ onlyCore { s with signals := rest } g.core u ∧ bytesKept s u)

/-! System registers and traps (R188, R221 to R228). -/

/-- R188, R221: what `sysr` reads, register by register; a number that the table does not list is ILLEGAL and writes nothing. R91, R106, R149, R188,
R221: what `sysw` writes, register by register: reserved bits stay 0; 6 or 7 in FPM.RM, a non-zero [1:0] for TVEC or TPC, a read-only register
and a number that is not listed are ILLEGAL, and nothing changes. -/
def Obligations.SystemRegistersReadAndWriteAsListed : Prop :=
  (
  ∀ (h : CHdr) (d n : Nat) (s : State) (c t : Nat), s.cur = .task c t → c < 8192 → t < 8 →
    let k := s.core c
    let x := s.task c t
    let reads (v : Word) : Prop := answers (.sysr h d n) s (wroteReg s c t d v 1 (ctlLen h 1))
    (n = 0x00 → reads x.fpm) ∧ (n = 0x01 → reads k.srkey) ∧ (n = 0x02 → reads k.numchk) ∧ (n = 0x03 → reads k.rctl) ∧
    (n = 0x04 → reads (BitVec.ofNat 64 t)) ∧ (n = 0x05 → reads (BitVec.ofNat 64 (2 ^ 7 * (c / 128) + 2 ^ 6 * (c / 64 % 2) + c % 64))) ∧
    (n = 0x06 → reads (BitVec.ofNat 64 s.time)) ∧ (n = 0x07 → reads (BitVec.ofNat 64 k.cycle)) ∧ (n = 0x08 → reads k.tvec) ∧
    (n = 0x09 → reads x.tcause) ∧ (n = 0x0A → reads x.tpc) ∧ (n = 0x0B → reads x.tval) ∧
    (n = 0x0C → reads (BitVec.ofNat 64 ((if t = 0 ∧ (k.dfault.isSome ∨ k.afaults ≠ []) then 2 else 0) + (if x.tin then 1 else 0)))) ∧
    (n = 0x0D → reads k.tasksWord) ∧ (n = 0x0E → reads k.data.dstrand) ∧ (n = 0x0F → reads k.istat) ∧
    (∀ m, m < 8 → n = 0x10 + m → reads (Lvid.value (tget {} k.lvid m))) ∧
    (n = 0x18 → reads (BitVec.ofNat 64 (k.ctxno % 2 ^ 16))) ∧
    (0x18 < n → handles s c t → answers (.sysr h d n) s (entered s c t 1 x.pc (ownWord h (.sysr h d n))))) ∧
  (
  ∀ (h : CHdr) (n a : Nat) (s : State) (c t : Nat), s.cur = .task c t →
    let v := s.reg c t a
    let x := s.task c t
    let on (u : State) : State := u.goOn c t (ctlLen h 1)
    let writes (u : State) : Prop := exec (.sysw h n a) s = .next (on u)
    let refused : Prop := handles s c t → answers (.sysw h n a) s (entered s c t 1 x.pc (ownWord h (.sysw h n a)))
    (n = 0x00 → (v.extractLsb' 0 3).toNat < 6 → writes (s.modTask c t fun y => { y with fpm := (v.extractLsb' 0 4).setWidth 64 })) ∧
    (n = 0x00 → 6 ≤ (v.extractLsb' 0 3).toNat → refused) ∧
    (n = 0x01 → writes (s.modCore c fun k => { k with srkey := v })) ∧
    (n = 0x02 → writes (s.modCore c fun k => { k with numchk := (v.extractLsb' 0 48).setWidth 64 })) ∧
    (n = 0x03 → writes (s.modCore c fun k => { k with rctl := (v.extractLsb' 0 16).setWidth 64 })) ∧
    (n = 0x08 → v.toNat % 4 = 0 → writes (s.modCore c fun k => { k with tvec := v })) ∧
    (n = 0x08 → v.toNat % 4 ≠ 0 → refused) ∧
    (n = 0x09 → writes (s.modTask c t fun y => { y with tcause := (v.extractLsb' 0 14).setWidth 64 })) ∧
    (n = 0x0A → v.toNat % 4 = 0 → writes (s.modTask c t fun y => { y with tpc := v })) ∧
    (n = 0x0A → v.toNat % 4 ≠ 0 → refused) ∧
    (n = 0x0B → writes (s.modTask c t fun y => { y with tval := v })) ∧
    (n = 0x0C → writes (s.modTask c t fun y => { y with tin := v.getLsbD 0 })) ∧
    (n = 0x0F → writes (s.modCore c fun k => { k with istat := v })) ∧
    ((4 ≤ n ∧ n ≤ 7) ∨ n = 0x0D ∨ n = 0x0E ∨ 0x10 ≤ n → refused))

/-- R222, R226, R227: `trap` enters the handler with SOFT and TPC at the next word, `brk` with BREAK; `tret` in the handler clears TIN and goes to
TPC, whatever its word, and outside it raises TASK_STATE; `nop` only goes on; a word that is no instruction raises ILLEGAL (R68). R176, R228: a
trap without a handler, or in a task that is in its handler, tears the weave down with status FAULT; the report names the core, the task and the
word, and no register changes. R225, R226: task 0, ready and outside its handler, takes the pending fault that was met first, in an earlier cycle, with ASYNC set, TPC
at its next instruction, and the strand and the task that the fault names; that fault is no longer pending. R475: with debug enabled none of these
enters a handler or tears down: `trap`, `brk` (SRC 1, else 2), an undefined word, a fault of a data strand or for task 0 (3) and a fatal context error
(7) halt the weave: the core freezes, a trap's TCAUSE, TPC and TVAL are recorded, its task stays, at the trapping word or for `brk` after it, and the
cause is pending; so is the fault, and the teardown waits for the resume. -/
def Obligations.TrapsAndFaultsAreTaken : Prop :=
  (
  ∀ (h : CHdr) (a raw : Nat) (s : State) (c t : Nat), s.cur = .task c t →
    let pc := (s.task c t).pc
    answers (.ctlNop h) s (wentOn s c t (ctlLen h 1)) ∧
    (handles s c t →
      answers (.trap h a) s (entered s c t 22 (pc + BitVec.ofNat 64 (ctlLen h 1)) (s.reg c t a)) ∧
      answers (.brk h) s (entered s c t 23 (pc + BitVec.ofNat 64 (ctlLen h 1)) 0#64) ∧
      answers (.tret h) s (entered s c t 10 pc 0#64) ∧
      answers (.illegalInstruction raw) s (entered s c t 1 pc (BitVec.ofNat 64 raw))) ∧
    ((s.task c t).tin = true →
      answers (.tret h) s fun u =>
        (u.task c t).tin = false ∧ (u.task c t).pc = (s.task c t).tpc ∧ (∀ r, u.reg c t r = s.reg c t r) ∧
        (u.task c t).tcause = (s.task c t).tcause ∧ (u.task c t).fpm = (s.task c t).fpm ∧
        (∀ t', t' ≠ t → u.task c t' = s.task c t') ∧ onlyTask s c t u ∧ bytesKept s u)) ∧
  (
  ∀ (h : CHdr) (a : Nat) (s : State) (c t : Nat) (w : Weave), s.cur = .task c t → s.debugOn c = false → s.weaveOf c = some w →
    tfind s.weaves w.id = some w → w.torn = false → ((s.core c).tvec = 0#64 ∨ (s.task c t).tin = true) →
    answers (.trap h a) s fun u =>
      u.cores = s.cores ∧ (∀ n, n ≠ w.id → tfind u.weaves n = tfind s.weaves n) ∧ bytesKept s u ∧
      ∃ x, tfind u.weaves w.id = some x ∧ x.torn = true ∧ x.status = 11 ∧ x.report.wherev = c ∧ x.report.task = t ∧
        x.report.word = (s.task c t).pc.toNat) ∧
  (
  ∀ (s : State) (c : Nat) (f : AFault) (data : Bool), s.ctlRuns c = true → (s.task c 0).st = .ready → (s.task c 0).tin = false →
    (s.core c).tvec ≠ 0#64 → (s.core c).nextFault = some (f, data) → f.cycle ≠ (s.core c).cycle →
    answers (.asyncFaultTake c) s fun u =>
      let x := u.task c 0
      x.tcause = BitVec.ofNat 64 (2 ^ 12 * (f.strand % 4) + 2 ^ 11 + 2 ^ 8 * (f.task % 8) + f.code % 256) ∧
      x.tpc = (s.task c 0).pc ∧ x.tval = f.tval ∧ x.tin = true ∧ x.pc = (s.core c).tvec ∧
      (∀ r, u.reg c 0 r = s.reg c 0 r) ∧ (∀ t, t ≠ 0 → u.task c t = s.task c t) ∧
      (if data then (u.core c).dfault = none ∧ (u.core c).afaults = (s.core c).afaults
       else (u.core c).dfault = (s.core c).dfault ∧ (s.core c).afaults = f :: (u.core c).afaults) ∧ onlyCore s c u ∧ bytesKept s u) ∧
  (
  ∀ (s : State) (c : Nat), s.debugOn c = true →
    (∀ (h : CHdr) (a raw t : Nat), s.cur = .task c t →
      let pc := (s.task c t).pc
      let after := pc + BitVec.ofNat 64 (ctlLen h 1)
      answers (.trap h a) s (caught s c t 2 22 after (s.reg c t a) pc) ∧
      answers (.brk h) s (caught s c t 1 23 after 0#64 after) ∧
      answers (.illegalInstruction raw) s (caught s c t 2 1 pc (BitVec.ofNat 64 raw) pc)) ∧
    (∀ (e code va : Nat) (tval : Word), (s.core c).dfault = none → (s.core c).dmet = false →
      let u := s.dataFault c e code tval va
      haltedBy s c 3 code tval tval u ∧ (u.core c).tasks = (s.core c).tasks ∧
      (u.core c).dfault = some { strand := e, code, tval, cycle := (s.core c).cycle, word := tval.toNat, va }) ∧
    (∀ (code task word : Nat) (tval : Word),
      let u := s.asyncFault c code task tval word
      haltedBy s c 3 code (s.task c 0).pc tval u ∧ (u.core c).tasks = (s.core c).tasks ∧
      (u.core c).afaults.map (fun f => f.code) = (s.core c).afaults.map (fun f => f.code) ++ [code]) ∧
    ∀ (t e status : Nat) (pc va : Word),
      let u := s.fatal c t e status pc va
      haltedBy s c 7 status pc va u ∧ u.weaves = s.weaves ∧
      ∀ h, s.slotOf c = some h → (tget {} s.hslots h).teardown = none →
        (tget {} u.hslots h).teardown.map (fun x => (x.1, x.2.word, x.2.vaddr)) = some (status, pc.toNat, va.toNat))

/-! The data strands (R25 to R37, R57 to R69). -/

/-- R57, R36: a word that issues leaves the data side as it is but for the snapshot: without K none is taken; with K, and no completion withheld, the
one that the core holds afterwards has every strand's pc and counter, the rings and the claims as they stood before the first issue of the cycle,
and the queue entries popped by then are freed. R32: a freeze ends when no unmet condition is left; R33: one of 65,536 cycles is FREEZE_TIMEOUT
of task 0, and the engines stay frozen; R34: a class-3 result that is absent at its due cycle is TIMING, and every running strand stops; R190: the
64 bits that hold a word arrive in the buffer whole. R225: the fault of the first since the last restart is the one kept. -/
def Obligations.WordsIssueAndFreezesEnd : Prop :=
  (
  ∀ (s : State) (c : Nat) (h : DHdr),
    let u := s.issueWord c h
    let before := (s.core c).before.getD (s.core c).data.image
    (h.k = false → (u.core c).data = (s.core c).data ∧ (u.core c).before = some before ∧ (u.core c).tasks = (s.core c).tasks ∧
      onlyCore s c u ∧ bytesKept s u) ∧
    (h.k = true → (s.core c).data.withheld = [] →
      (∃ m, (u.core c).data.snap = some m ∧ m.vec.pc = before.vec.pc ∧ m.mat.pc = before.mat.pc ∧ m.cpy.pc = before.cpy.pc ∧
        m.vec.src = before.vec.src ∧ m.mat.src = before.mat.src ∧ m.cpy.src = before.cpy.src ∧ m.vec.blocks = before.vec.blocks ∧
        m.mat.blocks = before.mat.blocks ∧ m.cpy.blocks = before.cpy.blocks ∧ m.rings = before.rings ∧ m.slots = before.slots ∧
        m.claims = before.claims ∧ m.timed = before.timed ∧ m.counted = before.counted ∧ m.vec.popped = 0 ∧ m.mat.popped = 0 ∧ m.cpy.popped = 0) ∧
      (u.strand c 1).cq = { ents := (s.strand c 1).cq.ents.drop before.vec.popped, popped := (s.strand c 1).cq.popped - before.vec.popped } ∧
      (u.core c).data.v = (s.core c).data.v ∧ (u.core c).data.rings = (s.core c).data.rings ∧ (u.core c).tasks = (s.core c).tasks ∧
      onlyCore s c u ∧ bytesKept s u)) ∧
  (
  (∀ (s : State) (c : Nat), (s.core c).data.frozen = true → s.freezeMet c = false → s.dataHeld c = false → (s.core c).settledNow = true →
    ((s.core c).data.timeoutRaised = false → (s.core c).data.watch < 65536 → answers (.dataFreezeEnd c) s fun u =>
      (u.core c).data.frozen = false ∧ (u.core c).data.watch = 0 ∧ (u.core c).data.counted = (s.core c).data.counted ∧
      (u.core c).tasks = (s.core c).tasks ∧ onlyCore s c u ∧ bytesKept s u) ∧
    (65536 ≤ (s.core c).data.watch → exec (.dataFreezeEnd c) s = .next s)) ∧
  (∀ (s : State) (c : Nat), (s.core c).data.frozen = true → 65536 ≤ (s.core c).data.watch → (s.core c).data.timeoutRaised = false →
    (s.core c).data.late3 = none → s.isFrozen c = false → s.debugOn c = false → (s.core c).dfault = none → (s.core c).dmet = false →
    answers (.freezeTimeout c) s fun u =>
      (u.core c).data.frozen = true ∧ (u.core c).dfault.map (fun f => (f.code, f.strand)) = some (28, (s.core c).data.frozenPc.1) ∧
      (u.core c).tasks = (s.core c).tasks ∧ onlyCore s c u ∧ bytesKept s u) ∧
  (∀ (s : State) (c : Nat) (v : VLoad), (s.core c).data.late3 = some v → s.dataHeld c = false → (s.core c).job.isSome = true →
    s.debugOn c = false → (s.core c).dfault = none → (s.core c).dmet = false →
    answers (.timingTrap c) s fun u =>
      (∀ e, 1 ≤ e → e ≤ 3 → (u.strand c e).running = false) ∧ (u.core c).data.frozen = false ∧
      (u.core c).dfault.map (fun f => (f.code, f.strand, f.tval)) = some (29, 1, BitVec.ofNat 64 v.word) ∧ onlyCore s c u ∧ bytesKept s u) ∧
  ∀ (s : State) (c va pa : Nat) (nc : Bool), translate (s.core c).seg .x va = .ok pa nc → (s.core c).job.isSome = true →
    (s.core c).probe = none → (s.core c).phase = none → ((s.core c).data.timed = false ∨ (s.core c).before = none) →
    s.errorLine (pa / 128) = false → (tfind s.homes (pa / 32)).isSome = true →
    answers (.ibufFill c va) s fun u =>
      tfind (u.core c).ibuf (pa / 8 * 2) = some (s.homeNum (pa / 8 * 8) 4) ∧
      tfind (u.core c).ibuf (pa / 8 * 2 + 1) = some (s.homeNum (pa / 8 * 8 + 4) 4) ∧ (u.core c).tasks = (s.core c).tasks ∧
      (u.core c).data = (s.core c).data ∧ onlyCore s c u ∧ bytesKept s u)

/-- R30, R62: outside any block, and inside one but for its last word, the next word of a strand is the one 8 bytes on, and its idle count runs from the
next cycle. After the last word of a loop's block the strand goes back to its first word while a further repeat remains; a while block goes back to
its construct; a loop with none left, a conditional and a skipped block are left, and the strand goes on as the block outside it has it. R62: the shared words that need no entry, in every strand e: `nop` only passes; an xset word writes its
address register with the sign-extended immediate or the job's index or count at a level, an xadd word with a sum; the strand goes on. -/
def Obligations.SharedWordsAndBlocks : Prop :=
  (
  (∀ (x : Strand) (now : Nat), x.blocks = [] →
    (x.step now).pc = x.pc + 8 ∧ (x.step now).base = now + 1 ∧ (x.step now).blocks = [] ∧ (x.step now).x = x.x ∧ (x.step now).cq = x.cq) ∧
  ∀ (x : Strand) (now : Nat) (b : Block) (outer : List Block), x.blocks = b :: outer →
    let at_ (pc : Nat) (blocks : List Block) : Strand := { x with pc, blocks, base := now + 1, exempt := false }
    let ends : Prop := x.pc + 8 = b.last
    (¬ ends → x.step now = at_ (x.pc + 8) (b :: outer)) ∧
    (ends → b.kind = .loop → 1 < b.remain → x.step now = at_ b.first ({ b with remain := b.remain - 1 } :: outer)) ∧
    (ends → b.kind = .whileLoop → x.step now = at_ b.head (b :: outer)) ∧
    (ends → (b.kind = .cond ∨ b.kind = .skip ∨ (b.kind = .loop ∧ b.remain ≤ 1)) → x.step now = ({ x with blocks := outer } : Strand).step now)) ∧
  (
  ∀ (h : DHdr) (xa xd val : Nat) (s : State) (c e : Nat), s.cur = .strand c e → val < 2 ^ 28 → (e = 1 ∨ e = 2 ∨ e = 3) →
    let s1 := s.issueWord c h
    let l : Lvid := tget {} (s.core c).lvid val
    let sets (v : Strand → Word) : Out :=
      .next ((s1.modStrand c e fun x => { x with x := tput x.x xd (v x) }).stepStrand c e)
    let imm : Word := (BitVec.ofNat 25 val).signExtend 64
    let sum (x : Strand) : Word := tget 0#64 x.x xa + (BitVec.ofNat 28 val).signExtend 64
    exec (.dataNop h) s = .next (s1.stepStrand c e) ∧
    (∀ i ∈ [Instr.vxset h xd 0 val, .mxset h xd 0 val, .cpXset h xd 0 val], val < 2 ^ 25 → exec i s = sets fun _ => imm) ∧
    (∀ i ∈ [Instr.vxset h xd 1 val, .mxset h xd 1 val, .cpXset h xd 1 val], exec i s = sets fun _ => if l.valid then BitVec.ofNat 64 l.index else 0#64) ∧
    (∀ i ∈ [Instr.vxset h xd 2 val, .mxset h xd 2 val, .cpXset h xd 2 val], exec i s = sets fun _ => if l.valid then BitVec.ofNat 64 l.count else 0#64) ∧
    ∀ i ∈ [Instr.vxadd h xa xd val, .mxadd h xa xd val, .cpXadd h xa xd val], exec i s = sets sum)

/-- R26 to R28, R62: the words that pop: each takes the head entry of its strand's queue. A loop word with a COUNT other than 0 enters its block for
that many repeats, a while or if word with an OUT of 1 enters its block, with the count or outcome 0 the block is skipped; a val word writes its
address register; `vmask.q` builds the mask of R25, which is in its register from the next cycle on (R268). R35: a region word of the entry's mode waits for the crossing. R62: a while word that
issues again after its block runs the block once more for an OUT of 1, and for 0 leaves it. R27, R28, R69: an entry of
another type is CQ_TYPE, which stops every running strand; a STOP leaves the innermost loop around the word for the word after its body, or of a loop
word its own; outside any loop it skips the block of an if word and only passes the others. R63: a block that would end after the one around it, a
third level of loops or of ifs, and `rim` or `region` inside a block are undefined words. -/
def Obligations.QueueDrivenWordsTakeOrRefuseTheirEntry : Prop :=
  (
  ∀ (h : DHdr) (len xd : Nat) (s : State) (c e : Nat) (ent : CqEnt), s.cur = .strand c e → (e = 1 ∨ e = 2 ∨ e = 3) → h.k = false →
    (s.strand c e).cq.ents[(s.strand c e).cq.popped]? = some ent →
    let x := s.strand c e
    let now := (s.core c).data.counted
    let y : Strand := { x with cq := { x.cq with popped := x.cq.popped + 1 } }
    let fits : Prop := ∀ b ∈ x.blocks.head?, x.pc + 8 + 8 * len ≤ b.last
    let again : Prop := ∃ b ∈ x.blocks.head?, b.kind = .whileLoop ∧ b.head = x.pc
    let z : Strand := { y with blocks := x.blocks.drop 1 }
    let gets (z : Strand) : State → Prop := fun u => u.strand c e = z ∧ (u.core c).tasks = (s.core c).tasks ∧ onlyCore s c u ∧ bytesKept s u
    (∀ i ∈ [Instr.vloopQ h len, .mloopQ h len, .cpLoopQ h len], fits → loopLevels x.blocks < 2 → ent.ty = 0 →
      answers i s (gets (if ent.payload % 2 ^ 32 = 0 then y.skip len now else y.enter .loop len (ent.payload % 2 ^ 32) now))) ∧
    (∀ i ∈ [Instr.vwhileQ h len, .mwhileQ h len, .cpWhileQ h len], fits → loopLevels x.blocks < 2 → ¬ again → ent.ty = 1 →
      answers i s (gets (if ent.payload % 2 = 1 then y.enter .whileLoop len 0 now else y.skip len now))) ∧
    (∀ i ∈ [Instr.vwhileQ h len, .mwhileQ h len, .cpWhileQ h len], again → ent.ty = 1 →
      answers i s (gets (if ent.payload % 2 = 1 then z.enter .whileLoop len 0 now else z.goTo (x.pc + 8 + 8 * len) now))) ∧
    (∀ i ∈ [Instr.vifQ h len, .mifQ h len, .cpIfQ h len], fits → condLevels x.blocks < 2 → ent.ty = 1 →
      answers i s (gets (if ent.payload % 2 = 1 then y.enter .cond len 0 now else y.skip len now))) ∧
    (∀ i ∈ [Instr.vvalQ h xd, .mvalQ h xd, .cpValQ h xd], ent.ty = 4 →
      answers i s (gets (({ y with x := tput y.x xd (BitVec.ofNat 64 ent.payload) } : Strand).step now))) ∧
    (∀ mode, mode < 2 → x.blocks = [] → ent.ty = 5 → ent.payload % 2 = mode → (e ≠ 3 ∨ ((s.core c).data.withheld = [] ∧ (s.core c).data.xfers = [])) →
      answers (.dataRegion h mode) s (gets { y.step now with atRegion := some (mode == 0) })) ∧
    (e = 1 → (ent.ty = 2 ∨ ent.ty = 3) →
      answers (.vmaskQ h xd) s fun u => gets (y.step now) u ∧ (u.core c).data.k = (s.core c).data.k ∧
        ∃ r, (u.core c).data.vres = (s.core c).data.vres ++ [r] ∧ r.due = now + 1 ∧ r.target = .mreg xd ∧ r.mask = allCells ∧
          r.val = maskOf ent) ∧
    -- R15, R63: `rim` outside a block holds the strand at the next word
    (x.blocks = [] → (e ≠ 3 ∨ ((s.core c).data.withheld = [] ∧ (s.core c).data.xfers = [])) →
      answers (.dataRim h) s (gets { x.step now with held := true }))) ∧
  (
  ∀ (h : DHdr) (len xd : Nat) (s : State) (c e : Nat) (ent : CqEnt), s.cur = .strand c e → (e = 1 ∨ e = 2 ∨ e = 3) → h.k = false →
    s.debugOn c = false → (s.core c).dfault = none → (s.core c).dmet = false →
    (s.strand c e).cq.ents[(s.strand c e).cq.popped]? = some ent →
    let x := s.strand c e
    let now := (s.core c).data.counted
    let y : Strand := { x with cq := { x.cq with popped := x.cq.popped + 1 } }
    let fits : Prop := ∀ b ∈ x.blocks.head?, x.pc + 8 + 8 * len ≤ b.last
    let again : Prop := ∃ b ∈ x.blocks.head?, b.kind = .whileLoop ∧ b.head = x.pc
    let isLoop (b : Block) : Prop := b.kind = .loop ∨ b.kind = .whileLoop
    let faults (code : Nat) : State → Prop := fun u =>
      (∀ e', 1 ≤ e' → e' ≤ 3 → (u.strand c e').running = false) ∧
      (u.core c).dfault.map (fun f => (f.strand, f.code, f.tval)) = some (e, code, BitVec.ofNat 64 x.pc) ∧ onlyCore s c u ∧ bytesKept s u
    let wrong := faults 26
    let loops := [Instr.vloopQ h len, .mloopQ h len, .cpLoopQ h len]
    let whiles := [Instr.vwhileQ h len, .mwhileQ h len, .cpWhileQ h len]
    let ifs := [Instr.vifQ h len, .mifQ h len, .cpIfQ h len]
    let vals := [Instr.vvalQ h xd, .mvalQ h xd, .cpValQ h xd]
    let goes (i : Instr) (z : Strand) : Prop := answers i s fun u => u.strand c e = z ∧ (u.core c).tasks = (s.core c).tasks ∧ onlyCore s c u ∧ bytesKept s u
    (fits → loopLevels x.blocks < 2 → (∀ i ∈ loops, ent.ty ≠ 0 → ent.ty ≠ 6 → answers i s wrong) ∧
      ∀ i ∈ whiles, ent.ty ≠ 1 → ent.ty ≠ 6 → answers i s wrong) ∧
    (fits → condLevels x.blocks < 2 → ∀ i ∈ ifs, ent.ty ≠ 1 → ent.ty ≠ 6 → answers i s wrong) ∧
    (∀ i ∈ vals, ent.ty ≠ 4 → ent.ty ≠ 6 → answers i s wrong) ∧
    (e = 1 → ent.ty ≠ 2 → ent.ty ≠ 3 → ent.ty ≠ 6 → answers (.vmaskQ h xd) s wrong) ∧
    (∀ mode, x.blocks = [] → (ent.ty ≠ 5 ∨ ent.payload % 2 ≠ mode) → ent.ty ≠ 6 → answers (.dataRegion h mode) s wrong) ∧
    (∀ mode, x.blocks = [] → ent.ty = 6 → (e ≠ 3 ∨ ((s.core c).data.withheld = [] ∧ (s.core c).data.xfers = [])) →
      goes (.dataRegion h mode) (y.step now)) ∧
    (ent.ty = 6 →
      ((∀ b ∈ x.blocks, ¬ isLoop b) → (∀ i ∈ vals, goes i (y.step now)) ∧ (e = 1 → goes (.vmaskQ h xd) (y.step now)) ∧
        (fits → condLevels x.blocks < 2 → ∀ i ∈ ifs, goes i (y.skip len now))) ∧
      (∀ inner l outer, x.blocks = inner ++ l :: outer → (∀ b ∈ inner, ¬ isLoop b) → isLoop l →
        let z : Strand := ({ y with blocks := outer } : Strand).goTo l.last now
        (∀ i ∈ vals, goes i z) ∧ (e = 1 → goes (.vmaskQ h xd) z) ∧ (fits → condLevels x.blocks < 2 → ∀ i ∈ ifs, goes i z)) ∧
      (fits → loopLevels x.blocks < 2 → (∀ i ∈ loops, goes i (y.goTo (x.pc + 8 + 8 * len) now)) ∧
        ∀ i ∈ whiles, ¬ again → goes i (y.goTo (x.pc + 8 + 8 * len) now)) ∧
      ∀ i ∈ whiles, again → goes i (({ y with blocks := x.blocks.drop 1 } : Strand).goTo (x.pc + 8 + 8 * len) now)) ∧
    (¬ fits → (∀ i ∈ loops ++ ifs, answers i s (faults 27)) ∧ ∀ i ∈ whiles, ¬ again → answers i s (faults 27)) ∧
    (2 ≤ loopLevels x.blocks → (∀ i ∈ loops, answers i s (faults 27)) ∧ ∀ i ∈ whiles, ¬ again → answers i s (faults 27)) ∧
    (2 ≤ condLevels x.blocks → ∀ i ∈ ifs, answers i s (faults 27)) ∧
    (x.blocks ≠ [] → answers (.dataRim h) s (faults 27) ∧ ∀ mode, answers (.dataRegion h mode) s (faults 27)))

/-! The vector engine (R262 to R293). -/

/-- R267: an array word enters the array queue with its place in issue order, the draw counter and the key of its issue; the counter takes one draw
where the word rounds in mode SR (R90); that an `acvt` in mode SR takes it at its issue, whatever entry it will meet, is the model's choice (log entry
92). In a timed region with eight array words waiting it is ARRAY_FULL, and enters nothing. R268: in a cycle
the results due are written to their registers and no others change; R23: slots due change hands. Here for a cycle with one result due, and none
of loads or slots. -/
def Obligations.ArrayWordsQueueAndTheirResultsAreWritten : Prop :=
  (
  ∀ (h : DHdr) (r : DR) (rel imm dst op km vd : Nat) (men : Bool) (s : State) (c : Nat) (i : Instr) (rounds : Bool),
    s.cur = .strand c 1 →
    (i, rounds) ∈
      [(Instr.vadd h r, true), (.vsub h r, true), (.vmul h r, true), (.vfma h r, true), (.vcvt h dst r, true), (.acvt h r, true),
       (.vmin h r, false), (.vmax h r, false), (.vand h r, false), (.vor h r, false), (.vxor h r, false), (.vnot h r, false), (.vshl h r, false),
       (.vshr h r, false), (.vsra h r, false), (.vcmp h rel r, false), (.vsel h r, false), (.vmovi h imm men km vd, false),
       (.vexp2 h r, false), (.vlog2 h r, false), (.vrcp h r, false), (.vrsq h r, false), (.vrotr h r, false), (.vrotc h r, false),
       (.vbcr h r, false), (.vbcc h r, false), (.vredr h op r, false), (.vredc h op r, false), (.vkmovToMask h r, false),
       (.vkmovToVector h r, false)] →
    let d := (s.core c).data
    let w : AWord := { seq := d.seq, pc := d.vec.pc, instr := i, issued := d.counted, draws := d.vec.src, key := (s.core c).srkey,
                       rose := decide (rounds = true ∧ r.rm = 5) }
    let src := if rounds = true ∧ r.rm = 5 then (d.vec.src + 1) % 2 ^ 32 else d.vec.src
    ((d.timed = false ∨ d.arrayWaiting < 8) →
      exec i s = .next (((s.issueWord c h).modData c fun d =>
        { d with seq := d.seq + 1, arrayQ := d.arrayQ ++ [w], vec := { d.vec with src } }).stepStrand c 1)) ∧
    (d.timed = true → 8 ≤ d.arrayWaiting → exec i s = .next (s.strandFault c 1 34 (BitVec.ofNat 64 d.vec.pc)))) ∧
  (
  ∀ (s : State) (c : Nat) (x : VResult) (later : List VResult), s.dataHeld c = false →
    let d := (s.core c).data
    d.vres = x :: later → x.due ≤ d.counted → (∀ y ∈ later, d.counted < y.due) → d.vloads = [] → d.slotActs = [] →
    answers (.resultDue c) s fun u =>
      let e := (u.core c).data
      e.vres = later ∧ e.slots = d.slots ∧ (u.core c).scratch = (s.core c).scratch ∧
      (∀ n, x.target = .vreg n → e.vreg n = mergeBits (d.vreg n) x.mask x.val ∧ (∀ m, m ≠ n → e.vreg m = d.vreg m) ∧ e.k = d.k) ∧
      (∀ n, x.target = .mreg n → e.kreg n = mergeBits (d.kreg n) x.mask x.val ∧ (∀ m, m ≠ n → e.kreg m = d.kreg m) ∧ e.v = d.v) ∧
      (u.core c).tasks = (s.core c).tasks ∧ onlyCore s c u ∧ bytesKept s u)

/-- R267, R268: the head of the array queue starts once the array is free; for the raw words (R272, R275, R276, R279, R290) the result that comes
due, latency cycles later, leaves in each active cell of the destination what the word gives from the registers as they stand in the start cycle,
and keeps every inactive cell. -/
def Obligations.RawArrayWordsGiveEachActiveCell : Prop :=
  ∀ (h : DHdr) (r : DR) (imm : Nat) (s : State) (c : Nat) (w : AWord) (rest : List AWord) (lat : Nat) (f : Nat → Nat),
    let d := (s.core c).data
    let a (n : Nat) : Nat := cellAt (d.vreg r.va) n
    let b (n : Nat) : Nat := cellAt (d.vreg r.vb) n
    let o (n : Nat) : Nat := cellAt (d.vreg r.vd) n
    d.arrayQ = w :: rest → d.arrayFree ≤ d.counted → d.vec.stopped = false → (d.timed = true → d.frozen = false ∧ d.lateResult = false) →
    (s.core c).caughtUp = true → s.dataHeld c = false → imm < 2 ^ (32 : Nat) →
    ((w.instr = .vand h r ∧ lat = 4 ∧ f = fun n => a n &&& b n) ∨
     (w.instr = .vor h r ∧ lat = 4 ∧ f = fun n => a n ||| b n) ∨
     (w.instr = .vxor h r ∧ lat = 4 ∧ f = fun n => a n ^^^ b n) ∨
     (w.instr = .vnot h r ∧ lat = 4 ∧ f = fun n => 2 ^ (32 : Nat) - 1 - a n) ∨
     (w.instr = .vsel h r ∧ lat = 4 ∧ f = fun n => (o n &&& a n) ||| ((2 ^ (32 : Nat) - 1 - o n) &&& b n)) ∨
     (w.instr = .vmovi h imm r.men r.km r.vd ∧ lat = 4 ∧ f = fun _ => imm) ∨
     (w.instr = .vrotr h r ∧ lat = 10 ∧ r.vb < 64 ∧ f = fun n => a (64 * (n / 64) + (n % 64 + r.vb) % 64)) ∨
     (w.instr = .vrotc h r ∧ lat = 6 ∧ r.vb < 16 ∧ f = fun n => a (64 * ((n / 64 + r.vb) % 16) + n % 64)) ∨
     (w.instr = .vbcr h r ∧ lat = 10 ∧ r.vb < 64 ∧ f = fun n => a (64 * (n / 64) + r.vb)) ∨
     (w.instr = .vbcc h r ∧ lat = 6 ∧ r.vb < 16 ∧ f = fun n => a (64 * r.vb + n % 64)) ∨
     (w.instr = .vkmovToVector h r ∧ lat = 4 ∧ f = fun n => if (d.kreg r.va).testBit n then 2 ^ (32 : Nat) - 1 else 0)) →
    answers (.arrayWordStart c) s fun u =>
      let e := (u.core c).data
      e.arrayQ = rest ∧ e.arrayFree = d.counted + 4 ∧ e.v = d.v ∧ e.k = d.k ∧
      ∃ x, e.vres = d.vres ++ [x] ∧ x.due = d.counted + lat ∧ x.seq = w.seq ∧ x.target = .vreg r.vd ∧
        ∀ n, n < 1024 → cellAt (mergeBits (d.vreg r.vd) x.mask x.val) n =
          if r.men = false ∨ (d.kreg r.km).testBit n = true then f n else o n

/-- R265, R268, R271, R273, R274, R278: in every view, element q of each active cell takes its result of the arithmetic, shift, comparison and
special-function words, rounded or reduced under the word's own RM, SAT and FTZ, with the draw of the element (R90); inactive cells are kept. R277,
R287: `vcvt` and `acvt` convert part by part and keep the parts they do not name; an `acvt` sees the entry as the region has it (R288). R290: `vkmov` to a
mask tells which active cells are not zero. R280: a reduction gives every element of the active cells of a row or column the value of its active
elements: in integer views the exact sum reduced to the view, the largest or the smallest; of floating-point views the sum pair by pair in FP32. -/
def Obligations.ArithmeticArrayWordsGiveEachActiveElement : Prop :=
  (
  ∀ (h : DHdr) (r : DR) (rel : Nat) (d : DataSide) (w : AWord) (lat : Nat) (f : Nat → Nat → Nat), r.view < 9 →
    let n := viewWidth r.view
    let p := 32 / n
    let el := viewElem r.view
    let a (c q : Nat) : Nat := partAt (d.vreg r.va) c n q
    let b (c q : Nat) : Nat := partAt (d.vreg r.vb) c n q
    let o (c q : Nat) : Nat := partAt (d.vreg r.vd) c n q
    let k (c q : Nat) : RndCtl := { rm := r.rm, sat := r.sat, ftz := r.ftz, draw := srDraw w.key.toNat 1 (p * c + q) w.draws }
    let ar (op : ArOp) (c q : Nat) : Nat := (arithElem op el (k c q) (a c q) (b c q) (o c q)).bits % 2 ^ n
    let sp (fn : SpecialFn) (c q : Nat) : Nat := match el with
      | .flt t => (specialElem fn t r.ftz (a c q)).bits % 2 ^ n
      | .int _ _ => 0
    let slow : Nat := if viewFloat r.view then 6 else 4
    ((w.instr = .vadd h r ∧ lat = slow ∧ f = ar .add) ∨
     (w.instr = .vsub h r ∧ lat = slow ∧ f = ar .sub) ∨
     (w.instr = .vmul h r ∧ lat = slow ∧ f = ar .mul) ∨
     (w.instr = .vfma h r ∧ lat = slow ∧ f = ar .fma) ∨
     (w.instr = .vmin h r ∧ lat = slow ∧ f = ar .min) ∨
     (w.instr = .vmax h r ∧ lat = slow ∧ f = ar .max) ∨
     (w.instr = .vcmp h rel r ∧ lat = slow ∧ f = fun c q => if relElem rel el r.ftz (a c q) (b c q) then 2 ^ n - 1 else 0) ∨
     (w.instr = .vshl h r ∧ lat = 4 ∧ f = fun c q => a c q * 2 ^ (b c q % n) % 2 ^ n) ∨
     (w.instr = .vshr h r ∧ lat = 4 ∧ f = fun c q => a c q / 2 ^ (b c q % n)) ∨
     (w.instr = .vsra h r ∧ lat = 4 ∧ f = fun c q => ((BitVec.ofNat n (a c q)).sshiftRight (b c q % n)).toNat) ∨
     (viewFloat r.view = true ∧ lat = 12 ∧
       ((w.instr = .vexp2 h r ∧ f = sp .exp2) ∨ (w.instr = .vlog2 h r ∧ f = sp .log2) ∨ (w.instr = .vrcp h r ∧ f = sp .rcp) ∨
        (w.instr = .vrsq h r ∧ f = sp .rsq)))) →
    arrayLat w.instr = lat ∧
    ∃ ps, arrayResult d w = some (.vreg r.vd, ps) ∧
      ∀ c q, c < 1024 → q < p → partAt (mergeBits (d.vreg r.vd) (pieceMask ps) (pieceVal ps)) c n q =
        if r.men = false ∨ (d.kreg r.km).testBit c = true then f c q else o c q) ∧
  (
  ∀ (h : DHdr) (r : DR) (dst : Nat) (d : DataSide) (w : AWord), r.view < 9 → dst < 9 →
    let active (c : Nat) : Prop := r.men = false ∨ (d.kreg r.km).testBit c = true
    let key := w.key.toNat
    let gives (wt : Nat) (g : Nat → Nat → Option Nat) : Prop :=
      ∃ ps, arrayResult d w = some (.vreg r.vd, ps) ∧
        ∀ c q, c < 1024 → q < 32 / wt →
          let got := partAt (mergeBits (d.vreg r.vd) (pieceMask ps) (pieceVal ps)) c wt q
          (active c → got = (g c q).getD (partAt (d.vreg r.vd) c wt q)) ∧ (¬ active c → got = partAt (d.vreg r.vd) c wt q)
    let wv := viewWidth r.view
    let wd := viewWidth dst
    let cvt (src to_ : Elem) (wt c q x : Nat) : Nat :=
      (convertElem src to_ { rm := r.rm, sat := r.sat, ftz := r.ftz, draw := srDraw key 1 (32 / wt * c + q) w.draws } x).bits % 2 ^ wt
    let from_ (q : Nat) : Option Nat :=
      if wv = wd then some q
      else if wd < wv then (if 32 / wv * r.vb ≤ q ∧ q < 32 / wv * r.vb + 32 / wv then some (q - 32 / wv * r.vb) else none)
      else some (32 / wd * r.vb + q)
    (w.instr = .vcvt h dst r → (wv = wd → r.vb = 0) → (wd < wv → r.vb < wv / wd) → (wv < wd → r.vb < wd / wv) →
      arrayLat w.instr = 6 ∧ gives wd fun c q => (from_ q).map fun x => cvt (viewElem r.view) (viewElem dst) wd c q (partAt (d.vreg r.va) c wv x)) ∧
    (∀ e : AccEntry, w.instr = .acvt h r → r.vb < 32 / wv →
      ((e = tget {} d.acc r.va ∧ (d.timed = false ∨ d.accBefore = none ∨ ∃ n t, d.accBefore = some (n, t) ∧ n ≠ d.counted)) ∨
       (d.timed = true ∧ ∃ t, d.accBefore = some (d.counted, t) ∧ e = tget {} t r.va)) →
      arrayLat w.instr = 8 ∧ gives wv fun c q => if q = r.vb then
        some (cvt (if e.int then .int 40 true else .flt .acc) (viewElem r.view) wv c q (tget 0 e.elems c)) else none) ∧
    (w.instr = .vkmovToMask h r →
      arrayLat w.instr = 4 ∧ ∃ ps, arrayResult d w = some (.mreg r.vd, ps) ∧
        ∀ c, c < 1024 →
          let got := (mergeBits (d.kreg r.vd) (pieceMask ps) (pieceVal ps)).testBit c
          (active c → got = decide (cellAt (d.vreg r.va) c ≠ 0)) ∧ (¬ active c → got = (d.kreg r.vd).testBit c)) ∧
    ∀ op, op < 3 →
      let p := 32 / wv
      let slot (c q : Nat) : Option Nat := if r.men = false ∨ (d.kreg r.km).testBit c = true then some (partAt (d.vreg r.va) c wv q) else none
      let row (i : Nat) : List (Option Nat) := (List.range (64 * p)).map fun e => slot (64 * i + e / p) (e % p)
      let col (j q : Nat) : List (Option Nat) := (List.range 16).map fun i => slot (64 * i + j) q
      (w.instr = .vredr h op r → arrayLat w.instr = 12 ∧ gives wv fun c _ => (reduceElems op r (row (c / 64))).map fun u => u.bits % 2 ^ wv) ∧
      (w.instr = .vredc h op r → arrayLat w.instr = 8 ∧ gives wv fun c q => (reduceElems op r (col (c % 64) q)).map fun u => u.bits % 2 ^ wv)) ∧
  (
  ∀ (r : DR) (xs : List (Option Nat)) (vs : List Nat), r.view < 9 → xs.length ≤ 256 → xs.filterMap id = vs → vs ≠ [] →
    (∀ w s, viewElem r.view = .int w s → (∀ v ∈ vs, v < 2 ^ w) →
      reduceElems 0 r xs = some (reduceInt w s r.sat (vs.map (intOf w s)).sum) ∧
      (∃ u ∈ vs, reduceElems 1 r xs = some (plainRes u) ∧ ∀ v ∈ vs, intOf w s v ≤ intOf w s u) ∧
      ∃ u ∈ vs, reduceElems 2 r xs = some (plainRes u) ∧ ∀ v ∈ vs, intOf w s u ≤ intOf w s v) ∧
    ∀ t, viewElem r.view = .flt t →
      let wide (v : Nat) : NumRes := plainRes (packFloat .f32 0 false false 0 (decodeFloat t r.ftz v)).bits
      let add (x y : NumRes) : NumRes :=
        (packFloat .f32 r.rm false false 0 (addF r.rm (f32v x.bits) (f32v y.bits))).from .f32 (x.inf || y.inf)
      reduceElems 0 r xs = (reduceTree add 8 (xs.map fun x => x.map wide)).map fun u =>
        (packFloat t r.rm r.sat r.ftz 0 (f32v u.bits)).from t u.inf)

/-- R281 to R284, R289: the words that are not array words act at issue. `vkop` comes due one cycle later with the operation on its masks as they
stand; `vld` and `vst`, once their active units pass the checks, make their accesses, of 16 bytes or over the fabric a sector each, and the
post-increment; `vldr` and `vstr` fire on their
ring, the registers or the slots coming 12 cycles later; `vchain` fires on both and enters the array queue. -/
def Obligations.VectorMemoryRingAndMaskWordsIssue : Prop :=
  ∀ (h : DHdr) (m : DM) (g : DG) (kd ka kb vp : Nat) (s : State) (c : Nat), s.cur = .strand c 1 →
    let k := s.core c
    let d := k.data
    let on (u : State) : Out := .next (u.stepStrand c 1)
    let s1 := s.issueWord c h
    let mask (v : DataSide → Nat) : Out := on (s1.modData c fun d =>
      { d with seq := d.seq + 1,
               vres := d.vres ++ [{ due := d.counted + 1, seq := d.seq, target := .mreg kd, mask := 2 ^ 1024 - 1, val := v d }] })
    exec (.vkopAnd h kd ka kb) s = mask (fun d => d.kreg ka &&& d.kreg kb) ∧
    exec (.vkopOr h kd ka kb) s = mask (fun d => d.kreg ka ||| d.kreg kb) ∧
    exec (.vkopXor h kd ka kb) s = mask (fun d => d.kreg ka ^^^ d.kreg kb) ∧
    exec (.vkopAndn h kd ka kb) s = mask (fun d => d.kreg ka &&& (d.kreg kb ^^^ (2 ^ 1024 - 1))) ∧
    exec (.vkopNot h kd ka) s = mask (fun d => d.kreg ka ^^^ (2 ^ 1024 - 1)) ∧
    exec (.vkopSet h kd) s = mask (fun _ => 2 ^ 1024 - 1) ∧ exec (.vkopClr h kd) s = mask (fun _ => 0) ∧
    (let act := if m.men then d.kreg m.km else 2 ^ 1024 - 1
     let n := if m.lc = 3 then 32 else 16
     let base := (d.vec.xreg m.xa + 128#64 * (BitVec.ofNat 10 m.off).signExtend 64).toNat
     let pitch := (d.vec.xreg (m.xa + 1)).toNat % 2 ^ 32
     let us := (activeUnits n (m.fn == 2) act).map fun o => (o, vecAddr m.fn base pitch o)
     let inc (x : Strand) : Strand := if m.pi then x.setX m.xa (x.xreg m.xa + BitVec.ofNat 64 (accessSize m.fn pitch)) else x
     m.off < 2 ^ 10 →
     (us = [] → exec (.vld h m) s = on (s1.modStrand c 1 inc) ∧ exec (.vst h m) s = on (s1.fresh.modStrand c 1 inc)) ∧
     (∀ vs, us ≠ [] → vecCheck k c m .wr base pitch us = .ok vs →
       exec (.vst h m) s = on ((s1.fresh.vecAccesses c m
         (fun y => { id := 0, party := 8, kind := .store, space := .core, va := 0, pa := 0, n,
                     data := unitData ((s1.core c).data.vreg m.reg) act y.off n y.pa, op := s1.nextId }) vs).modStrand c 1 inc)) ∧
     (∀ vs, us ≠ [] → vs ≠ [] → vecCheck k c m .rd base pitch us = .ok vs →
       exec (.vld h m) s = on (((s1.fresh.modData c fun d =>
         { d with seq := d.seq + 1,
                  vloads := d.vloads ++ [{ op := s1.nextId, seq := d.seq, reg := m.reg, word := d.vec.pc,
                                           due := if d.timed then d.counted + classLat m else d.counted, cls3 := m.lc == 3,
                                           row := m.fn == 2, out := vs.length, cells := cellsOf act }] }).vecAccesses c m
         (fun y => { id := 0, party := 8, kind := .load, space := .core, va := 0, pa := 0, n, dest := .vec s1.nextId y.off,
                     op := s1.nextId }) vs).modStrand c 1 inc))) ∧
    (g.reg + g.cnt ≤ 512 → vecRing d g.ring g.cnt true = true →
      answers (.vldr h g) s fun u =>
        let e := (u.core c).data
        let keys := d.inputs g.ring g.cnt
        e.vres.length = d.vres.length + g.cnt ∧ (∀ x ∈ e.vres.drop d.vres.length, x.due = d.counted + 12) ∧
        (∀ q ∈ keys, e.slot q = .draining) ∧ ringCptr (e.ring g.ring) = (ringCptr (d.ring g.ring) + g.cnt) % ringSlots (d.ring g.ring) ∧ e.v = d.v) ∧
    (g.reg + g.cnt ≤ 512 → vecRing d g.ring g.cnt false = true →
      answers (.vstr h g) s fun u =>
        let e := (u.core c).data
        (∀ q ∈ d.outputs g.ring g.cnt, e.slot q = .filling) ∧
        ringPptr (e.ring g.ring) = (ringPptr (d.ring g.ring) + g.cnt) % ringSlots (d.ring g.ring) ∧ e.v = d.v ∧
        e.slotActs.length = d.slotActs.length + 1) ∧
    (vecRing d g.ring g.cnt true = true → vecRing d g.reg g.cnt false = true → ringSlotBytes (d.ring g.ring) = ringSlotBytes (d.ring g.reg) →
      (d.timed = false ∨ d.arrayWaiting < 8) → g.ring ≠ g.reg →
      answers (.vchain h vp g) s fun u =>
        let e := (u.core c).data
        e.arrayQ.length = d.arrayQ.length + 1 ∧ (∀ q ∈ d.inputs g.ring g.cnt, e.slot q = .draining) ∧
        (∀ q ∈ d.outputs g.reg g.cnt, e.slot q = .filling))

/-! The matrix engine (R294 to R318). -/

/-- R302, R303, R306, R307, R309: a queue word whose rings pass its checks enters the queue with its place and its slots; pop-mode operands and
filled slots are draining, drained slots filling, and the pointers move on; a claimed operand moves nothing. The accumulators wait for W. An
`mma` whose operand rings break R302 is an undefined word, and in a timed region a ninth waiting word is ARRAY_FULL. R305, R310: a claim holds
the slots from CPTR and leaves CPTR; a release moves CPTR and shrinks the claim at issue, and its slots are empty once no earlier `mma` still has
to read them; with a claim held, or none, each is an undefined word. -/
def Obligations.MatrixWordsQueueAndClaimsHoldSlots : Prop :=
  (
  ∀ (h : DHdr) (m : DMma) (sf df rm vd n : Nat) (int clr sat : Bool) (g : DG) (s : State) (c : Nat), s.cur = .strand c 2 →
    let d := (s.core c).data
    let queued (i : Instr) (slots slotsB : List Nat) (u : State) : Prop :=
      let e := (u.core c).data
      e.matQ = d.matQ ++ [{ seq := d.seq, pc := d.mat.pc, instr := i, issued := d.counted, slots, slotsB }] ∧
      e.acc = d.acc ∧ e.sc = d.sc ∧ e.claims = d.claims ∧
      (h.k = false → (u.core c).tasks = (s.core c).tasks ∧ onlyCore s c u ∧ bytesKept s u)
    let room : Prop := d.timed = false ∨ d.queueWaiting < 8
    let operand (ring : Nat) (claim : Bool) (off n : Nat) : Prop :=
      ringOn (d.ring ring) = true ∧ ringLoc (d.ring ring) = 1 ∧ ringCons (d.ring ring) = 2 ∧
      if claim then d.claimOf ring ≠ 0 ∧ off + n ≤ d.claimOf ring else d.claimOf ring = 0 ∧ n ≤ ringSlots (d.ring ring)
    let run (ring : Nat) (claim : Bool) (off n : Nat) : List Nat :=
      (List.range n).map fun j => 256 * ring + (ringCptr (d.ring ring) + (if claim then off else 0) + j) % ringSlots (d.ring ring)
    let na := if m.fus = 0 then 1 else if m.fus = 1 then 2 else 4
    let nb := if m.fus = 1 then 2 else if m.fus = 2 then 1 else 4
    let good : Prop := operand m.ra m.ac m.aof na ∧ operand m.rb m.bc m.bof nb
    (good → room → m.ra ≠ m.rb → m.fus < 4 →
      answers (.mma h m) s fun u =>
        let e := (u.core c).data
        queued (.mma h m) (run m.ra m.ac m.aof na) (run m.rb m.bc m.bof nb) u ∧
        (m.ac = true → m.bc = true → e.slots = d.slots ∧ e.rings = d.rings) ∧
        (m.ac = false → (∀ q ∈ run m.ra false 0 na, e.slot q = .draining) ∧
          ringCptr (e.ring m.ra) = (ringCptr (d.ring m.ra) + na) % ringSlots (d.ring m.ra)) ∧
        (m.bc = false → (∀ q ∈ run m.rb false 0 nb, e.slot q = .draining) ∧
          ringCptr (e.ring m.rb) = (ringCptr (d.ring m.rb) + nb) % ringSlots (d.ring m.rb))) ∧
    (m.fus < 4 → ¬ good → exec (.mma h m) s = .next (s.strandFault c 2 27 (BitVec.ofNat 64 d.mat.pc))) ∧
    (room → answers (.mzero h int vd n) s (queued (.mzero h int vd n) [] [])) ∧
    (let size := if sf = 3 then 512 else if sf = 2 then 8192 else 4096
     sf < 4 → g.reg + g.cnt ≤ (if sf = 3 then 16 else 64) → ringOn (d.ring g.ring) = true → 1 ≤ g.cnt → g.cnt ≤ ringSlots (d.ring g.ring) →
     ringCons (d.ring g.ring) = 2 → size ≤ ringSlotBytes (d.ring g.ring) → (g.swz = 0 ∨ ringLoc (d.ring g.ring) = 0) → room →
      answers (.mfill h sf g) s fun u =>
        queued (.mfill h sf g) (run g.ring false 0 g.cnt) [] u ∧ ∀ q ∈ run g.ring false 0 g.cnt, (u.core c).data.slot q = .draining) ∧
    (let size := 1024 * (if df = 0 ∨ df = 3 then 4 else if df = 4 then 8 else 2)
     df < 5 → g.reg + g.cnt ≤ 64 → ringOn (d.ring g.ring) = true → 1 ≤ g.cnt → g.cnt ≤ ringSlots (d.ring g.ring) →
     ringProd (d.ring g.ring) = 2 → size ≤ ringSlotBytes (d.ring g.ring) → (g.swz = 0 ∨ ringLoc (d.ring g.ring) = 0) → room →
      answers (.mdrain h df rm clr sat g) s fun u =>
        queued (.mdrain h df rm clr sat g) (d.outputs g.ring g.cnt) [] u ∧ ∀ q ∈ d.outputs g.ring g.cnt, (u.core c).data.slot q = .filling) ∧
    (d.timed = true → 8 ≤ d.queueWaiting → exec (.mzero h int vd n) s = .next (s.strandFault c 2 34 (BitVec.ofNat 64 d.mat.pc)))) ∧
  (
  ∀ (h : DHdr) (ring cnt : Nat) (s : State) (c : Nat),
    let d := (s.core c).data
    let w := d.ring ring
    let right : Prop := ringOn w = true ∧ ringLoc w = 1 ∧ ringCons w = 2
    (s.cur = .strand c 2 → right → d.claimOf ring = 0 → 1 ≤ cnt → cnt ≤ 8 → cnt ≤ ringSlots w →
      answers (.mclaim h ring cnt) s fun u =>
        let e := (u.core c).data
        e.claimOf ring = cnt ∧ e.ring ring = w ∧ e.matQ = d.matQ ∧ e.acc = d.acc ∧
        ∀ q, e.slot q = if q ∈ d.inputs ring cnt then .draining else d.slot q) ∧
    (s.cur = .strand c 2 → right → 1 ≤ cnt → cnt ≤ d.claimOf ring →
      answers (.mrelease h ring cnt) s fun u =>
        let e := (u.core c).data
        e.claimOf ring = d.claimOf ring - cnt ∧ ringCptr (e.ring ring) = (ringCptr w + cnt) % ringSlots w ∧ e.slots = d.slots ∧
        e.acc = d.acc ∧ ∃ a, e.slotActs = d.slotActs ++ [a] ∧ a.slots = d.inputs ring cnt ∧ a.release = true ∧ a.dst = .empty) ∧
    (s.cur = .strand c 2 → d.claimOf ring ≠ 0 → exec (.mclaim h ring cnt) s = .next (s.strandFault c 2 27 (BitVec.ofNat 64 d.mat.pc))) ∧
    (s.cur = .strand c 2 → d.claimOf ring < cnt → exec (.mrelease h ring cnt) s = .next (s.strandFault c 2 27 (BitVec.ofNat 64 d.mat.pc))) ∧
    (let reading (a : SlotAct) (m : MWord) : Prop :=
       m.seq < a.seq ∧ (∃ h x, m.instr = .mma h x ∧ ∀ st, m.start = some st → d.counted < st + (if x.fmt = 11 then 192 else 64)) ∧
       ∃ q ∈ m.slots ++ m.slotsB, q ∈ a.slots
     let ripe (a : SlotAct) : Prop := a.release = true ∧ a.due ≤ d.counted ∧ ∀ m ∈ d.matQ, ¬ reading a m
     s.dataHeld c = false → (d.timed = true → d.lateResult = false) →
      answers (.mreleaseSlotsEmpty c) s fun u =>
        let e := (u.core c).data
        (∀ q, e.slot q = d.slot q ∨ e.slot q = .empty) ∧ (∀ a ∈ d.slotActs, ripe a → a ∉ e.slotActs ∧ ∀ q ∈ a.slots, e.slot q = .empty) ∧
        (∀ a ∈ d.slotActs, ¬ ripe a → a ∈ e.slotActs) ∧
        (∀ q, (∀ a ∈ d.slotActs, ripe a → q ∉ a.slots) → e.slot q = d.slot q)))

/-- R303, R309, R312: the first word that waits starts once the sub-arrays are free, the strand has not stopped and, in an interlocked region, no
earlier `acvt` is still to start; it holds the sub-arrays for its occupancy, in which an `mma` reads its operand slots and an `mfill` its slots; popped operands are empty at
the end of it. R297, R304, R306, R307: what the word at the head of the queue does in its W, start + occupancy + 8. An `mma` adds to each of its
four entries, element by element under R97 to R100, or with ZC = 0 and an entry of the other mode is ACC_MODE and writes none; `mzero` writes
zeros of its mode; an `mfill` loads entries or scale registers and empties its slots; an `mdrain` writes its slots, which are ready, and with CLR
zeroes its entries but keeps their mode. -/
def Obligations.MatrixWordsStartAndActInTheirDueCycle : Prop :=
  (
  ∀ (s : State) (c : Nat) (old : List MWord) (m : MWord) (rest : List MWord),
    let k := s.core c
    let d := k.data
    let occ := match m.instr with
      | .mma _ x => if x.fmt = 11 then 192 else 64
      | .mfill _ _ g => 4 * g.cnt
      | .mdrain _ _ _ _ _ g => 4 * g.cnt
      | _ => 1
    d.matQ = old ++ m :: rest → (∀ x ∈ old, x.start ≠ none) → m.start = none → s.dataHeld c = false → k.caughtUp = true →
    d.mat.stopped = false → (d.timed = true → d.frozen = false ∧ d.lateResult = false) →
    (d.counted < d.matFree → exec (.matrixQueueStart c) s = .next s) ∧
    (d.matFree ≤ d.counted → (d.timed = true ∨ d.arrayQ = []) →
      answers (.matrixQueueStart c) s fun u =>
        let e := (u.core c).data
        e.matFree = d.counted + occ ∧ e.acc = d.acc ∧ e.slots = d.slots ∧
        ∃ x, e.matQ = old ++ x :: rest ∧ x.start = some d.counted ∧ x.instr = m.instr ∧ x.slots = m.slots ∧ x.slotsB = m.slotsB ∧
          (∀ h sf (g : DG), m.instr = .mfill h sf g → sf < 4 →
            x.opsA = m.slots.map fun q => k.matSlot g.swz q (if sf = 3 then 512 else if sf = 2 then 8192 else 4096)) ∧
          ∀ h (y : DMma), m.instr = .mma h y →
            x.opsA.length = m.slots.length ∧ x.opsB.length = m.slotsB.length ∧
            (∀ j q, m.slots[j]? = some q → ringLoc (d.ring (q / 256)) = 1 → ∀ o, o < 8192 →
              (x.opsA.getD j 0) / 2 ^ (8 * o) % 2 ^ 8 = (byteAt k.opmem (d.slotAddr q + o)).toNat) ∧
            (y.ac = false → ∃ a, a ∈ e.slotActs ∧ a.due = d.counted + occ ∧ a.dst = .empty ∧ ∀ q ∈ m.slots, q ∈ a.slots))) ∧
  (
  ∀ (s : State) (c : Nat) (w : MWord) (rest : List MWord) (st occ : Nat),
    let k := s.core c
    let d := k.data
    let ent (n : Nat) : AccEntry := tget {} d.acc n
    d.matQ = w :: rest → w.start = some st → st + occ + 8 ≤ d.counted → s.dataHeld c = false →
    (d.timed = true → d.lateResult = false) →
    (∀ h (m : DMma), w.instr = .mma h m → occ = (if m.fmt = 11 then 192 else 64) →
      let int : Bool := decide (6 ≤ m.fmt ∧ m.fmt ≤ 8)
      let f := mmaFormat m.fmt
      let use (p : Nat) : Nat × Nat := if m.fus = 0 then (0, p) else if m.fus = 1 then (p / 2, p % 2) else if m.fus = 2 then (p, 0) else (p, p)
      let row (p i : Nat) : List Nat :=
        (List.range f.2.2.1).map fun x => w.opsA.getD (use p).1 0 / 2 ^ (8 * (2048 * m.aq + f.2.2.2 * i) + f.1.width * x) % 2 ^ f.1.width
      let col (p n : Nat) : List Nat :=
        (List.range f.2.2.1).map fun x => w.opsB.getD (use p).2 0 / 2 ^ (8 * 128 * n + f.2.1.width * x) % 2 ^ f.2.1.width
      let scale (p : Nat) : Nat := tget 0 d.sc (4 * m.scb + (use p).2)
      let before (p i n : Nat) : NumRes := plainRes (if m.zc then 0 else tget 0 (ent (m.ad + p)).elems (64 * i + n))
      let flt (t : MElem) : Nat → FVal := fun x => match t with
        | .el (.flt y) => decodeFloat y false x
        | _ => .nan
      let int' (t : MElem) : Nat → Int := fun x => match t with
        | .el (.int b sg) => if sg then ((BitVec.ofNat b x).toInt) else (x : Int)
        | _ => 0
      let after (p i n : Nat) : NumRes :=
        if m.fmt = 11 then stepF32 (row p i) (col p n) (before p i n)
        else if 9 ≤ m.fmt then
          stepQ4 ((row p i).map (flt f.1)) ((col p n).map q4nVal) (fun blk => scale p / 2 ^ (8 * (4 * n + blk)) % 2 ^ 8)
            (scale p / 2 ^ (8 * (256 + 4 * n)) % 2 ^ 32) (before p i n)
        else if int then stepInt ((row p i).map (int' f.1)) ((col p n).map (int' f.2.1)) (before p i n)
        else stepFloat ((row p i).map (flt f.1)) ((col p n).map (flt f.2.1)) (before p i n)
      m.fmt < 12 → m.fus < 4 →
      (m.zc = false → (∃ p, p < 4 ∧ (ent (m.ad + p)).int ≠ int) →
        answers (.matrixQueueW c) s fun u =>
          let e := (u.core c).data
          e.matQ = rest ∧ e.acc = d.acc ∧ (s.debugOn c = false → k.dfault = none → k.dmet = false →
            (u.core c).dfault.map (fun x => (x.strand, x.code, x.tval)) = some (2, 35, BitVec.ofNat 64 w.pc))) ∧
      ((m.zc = true ∨ ∀ p, p < 4 → (ent (m.ad + p)).int = int) →
        answers (.matrixQueueW c) s fun u =>
          let e := (u.core c).data
          let got (n : Nat) : AccEntry := tget {} e.acc n
          e.matQ = rest ∧ e.slots = d.slots ∧ (∀ n, (n < m.ad ∨ m.ad + 4 ≤ n) → got n = ent n) ∧
          ∀ p, p < 4 →
            (got (m.ad + p)).int = int ∧
            ((got (m.ad + p)).sat = true ↔
              ((m.zc = false ∧ (ent (m.ad + p)).sat = true) ∨ ∃ i n, i < 16 ∧ n < 64 ∧ (after p i n).sat = true)) ∧
            ∀ i n, i < 16 → n < 64 → tget 0 (got (m.ad + p)).elems (64 * i + n) = (after p i n).bits)) ∧
    (∀ h int vd n, w.instr = .mzero h int vd n → occ = 1 →
      answers (.matrixQueueW c) s fun u =>
        let e := (u.core c).data
        e.matQ = rest ∧ ∀ x, tget {} e.acc x = if vd ≤ x ∧ x < vd + n then { int } else ent x) ∧
    (∀ h sf (g : DG), w.instr = .mfill h sf g → occ = 4 * g.cnt → w.slots.length = g.cnt → w.opsA.length = g.cnt → sf < 4 →
      answers (.matrixQueueW c) s fun u =>
        let e := (u.core c).data
        e.matQ = rest ∧ (∀ q ∈ w.slots, e.slot q = .empty) ∧
        (∀ x, (x < g.reg ∨ g.reg + g.cnt ≤ x) → tget {} e.acc x = ent x) ∧
        ∀ j, j < g.cnt →
          (sf = 3 → e.acc = d.acc ∧ tget 0 e.sc (g.reg + j) = w.opsA.getD j 0) ∧
          (sf < 3 → e.sc = d.sc ∧
            let v (x n : Nat) : Nat := w.opsA.getD j 0 / 2 ^ (n * x) % 2 ^ n
            let y : AccEntry := tget {} e.acc (g.reg + j)
            y.int = (if sf = 2 then (v 0 64).testBit 63 else decide (sf = 1)) ∧ y.sat = (decide (sf = 2) && (v 0 64).testBit 62) ∧
            ∀ x, x < 1024 → tget 0 y.elems x =
              if sf = 0 then (packFloat .acc 0 false false 0 (decodeFloat .f32 false (v x 32))).bits
              else if sf = 1 then ((BitVec.ofNat 32 (v x 32)).signExtend 40).toNat else v x 64 % 2 ^ 40)) ∧
    (∀ h df rm clr sat (g : DG), w.instr = .mdrain h df rm clr sat g → occ = 4 * g.cnt → w.slots.length = g.cnt → df < 5 →
      (∀ q ∈ w.slots, ringLoc (d.ring (q / 256)) = 1) →
      let eb := if df = 0 ∨ df = 3 then 4 else if df = 4 then 8 else 2
      let elem (a : AccEntry) (x : Nat) : Nat :=
        if df = 4 then tget 0 a.elems x + (if a.sat then 2 ^ 62 else 0) + (if a.int then 2 ^ 63 else 0)
        else (convertElem (if a.int then .int 40 true else .flt .acc)
          (if df = 0 then .flt .f32 else if df = 1 then .flt .bf16 else if df = 2 then .flt .f16 else .int 32 true) { rm, sat } (tget 0 a.elems x)).bits
      answers (.matrixQueueW c) s fun u =>
        let e := (u.core c).data
        e.matQ = rest ∧ (∀ q ∈ w.slots, e.slot q = .ready) ∧ (u.core c).scratch = k.scratch ∧
        (u.core c).opmem = (w.slots.zip (List.range g.cnt)).foldl (fun mem x =>
          setBytes mem (d.slotAddr x.1) ((List.range 1024).flatMap fun n => bytesOfNum eb (elem (ent (g.reg + x.2)) n))) k.opmem ∧
        (∀ x, tget {} e.acc x =
          if clr = true ∧ g.reg ≤ x ∧ x < g.reg + g.cnt then { int := (ent x).int } else ent x)))

/-! The copy engine and the tile trackers (R229 to R261). -/

/-- R233, R234, R235: a transfer word whose shape, alignment and core-store sides are in order starts a transfer: its 32-byte units take their bytes
from and to the addresses that R235 gives, under the swizzles, at its scope; with CEN it holds its barrier and writes at the wider of the two
scopes (R238). Nothing is moved yet, and the strand goes on. R233, R234, R251: what a transfer word stops at, in order: a shape out of place is
COPY_SHAPE, a misaligned address DATA_ALIGN, a core-store side out of range CORESTORE_RANGE, and a barrier that fails its check that fault; a
transfer that moves nothing meets only the first and the last. Said for `cp.lin` and `cp.rcopy`; TVAL is the word's address, every running
strand stops, and the report of R176 names the misaligned address or the barrier's. -/
def Obligations.CopyTransferWordsBeginOrStop : Prop :=
  (
  ∀ (h : DHdr) (x : DX) (s : State) (c : Nat) (bar : Option (BarId × Nat)) (ws : Nat), s.cur = .strand c 3 →
    let k := s.core c
    let d := k.data
    let rd := (d.cpy.xreg x.xd).toNat
    let rs := (d.cpy.xreg x.xs).toNat
    let n := (d.cpy.xreg x.xn).toNat
    let m := (d.cpy.xreg (x.xn + 1)).toNat
    let cut (w lo b : Nat) : Nat := w / 2 ^ lo % 2 ^ b
    let ss := cut n 61 3
    let ds := cut n 58 3
    let fits (sp a len : Nat) : Prop := sp = 0 → a + len ≤ k.dataTop
    let begun (moved : Nat) (src dst : Nat → Nat) (ix : Nat → Option Nat) (u : State) : Prop :=
      ∃ y, (u.core c).data.xfers = (if h.k then d.xfers.map (fun z => { z with late := z.late && z.cycle == d.counted }) else d.xfers) ++ [y] ∧
        y.pc = d.cpy.pc ∧ y.moved = moved ∧ y.ssp = x.ssp ∧ y.dsp = x.dsp ∧ y.ssw = ss ∧ y.dsw = ds ∧ y.scope = x.scope ∧
        y.wscope = ws ∧ y.bar = bar ∧ y.shaping = .plain ∧ y.secs.length = moved / 32 ∧ u.nextId = s.nextId + 1 ∧ y.id = s.nextId ∧
        (∀ i, i < moved / 32 → ∃ q, y.secs[i]? = some q ∧ q.src = src i ∧ q.dst = dst i ∧ q.ix = ix i ∧ q.rn = 32 ∧ q.wn = 32 ∧ q.no = i) ∧
        (h.k = false → (u.core c).tasks = (s.core c).tasks ∧ onlyCore s.fresh c u ∧ bytesKept s u)
    ((x.cen = false ∧ bar = none ∧ ws = x.scope) ∨
      (x.cen = true ∧ ∃ b, s.checkBarrier c (d.cpy.xreg x.xb).toNat = .ok b ∧ bar = some (b, (d.cpy.xreg x.xb).toNat) ∧ ws = max x.scope (barScope b))) →
    (x.ssp = 0 ∨ ss = 0) → (x.dsp = 0 ∨ ds = 0) →
    let aligned : Prop := rs % 32 = 0 ∧ rd % 32 = 0
    (cut n 40 18 = 0 → cut n 0 40 % 32 = 0 → (cut n 0 40 = 0 ∨ (aligned ∧ fits x.ssp rs (cut n 0 40) ∧ fits x.dsp rd (cut n 0 40))) →
      ∀ i ∈ [Instr.cpLin h x, .cpRcopy h x],
        answers i s (begun (cut n 0 40) (fun i => (rs + 32 * i) % 2 ^ (64 : Nat)) (fun i => (rd + 32 * i) % 2 ^ (64 : Nat)) fun _ => none)) ∧
    (let rb := cut n 0 20
     let rows := cut n 20 20
     let row (base p r : Nat) : Nat := (BitVec.ofNat 64 base + BitVec.ofNat 64 r * (BitVec.ofNat 32 p).signExtend 64).toNat
     cut n 40 18 = 0 → rb % 32 = 0 → cut m 0 32 % 32 = 0 → cut m 32 32 % 32 = 0 →
     (rows * rb = 0 ∨ (aligned ∧ ∀ r, r < rows → fits x.ssp (row rs (cut m 0 32) r) rb ∧ fits x.dsp (row rd (cut m 32 32) r) rb)) →
      answers (.cp2d h x) s (begun (rows * rb)
        (fun i => (row rs (cut m 0 32) (i / (rb / 32)) + 32 * (i % (rb / 32))) % 2 ^ (64 : Nat))
        (fun i => (row rd (cut m 32 32) (i / (rb / 32)) + 32 * (i % (rb / 32))) % 2 ^ (64 : Nat)) fun _ => none)) ∧
    (let cnt := cut n 0 24
     let w := 32 * 2 ^ cut n 24 3
     let idx := cut n 27 22
     let at_ (j : Nat) : Nat := numBytes (bytesAt k.scratch (idx + 4 * j) 4)
     cut n 49 9 = 0 → idx % 4 = 0 → (cnt = 0 ∨ (aligned ∧ idx + 4 * cnt ≤ k.dataTop)) →
     ((x.ssp = 0 → cnt = 0 ∨ rs + w ≤ 2 ^ (22 : Nat)) → (∀ j, j < cnt → fits x.ssp (rs + at_ j * w) w ∧ fits x.dsp (rd + j * w) w) →
        answers (.cpGth h x) s (begun (cnt * w) (fun i => (rs + 32 * (i % (w / 32))) % 2 ^ (64 : Nat))
          (fun i => (rd + i / (w / 32) * w + 32 * (i % (w / 32))) % 2 ^ (64 : Nat)) fun i => some (idx + 4 * (i / (w / 32))))) ∧
     ((x.dsp = 0 → cnt = 0 ∨ rd + w ≤ 2 ^ (22 : Nat)) → (∀ j, j < cnt → fits x.dsp (rd + at_ j * w) w ∧ fits x.ssp (rs + j * w) w) →
        answers (.cpSct h x) s (begun (cnt * w) (fun i => (rs + i / (w / 32) * w + 32 * (i % (w / 32))) % 2 ^ (64 : Nat))
          (fun i => (rd + 32 * (i % (w / 32))) % 2 ^ (64 : Nat)) fun i => some (idx + 4 * (i / (w / 32)))))) ∧
    (x.ssp = 0 → ss = 0 → cut n 40 18 = 0 → cut n 0 40 % 32 = 0 → (cut n 0 40 = 0 ∨ (rd % 32 = 0 ∧ fits x.dsp rd (cut n 0 40))) →
      answers (.cpSet h x) s fun u => begun (cut n 0 40) (fun i => 32 * i % 2 ^ (64 : Nat)) (fun i => (rd + 32 * i) % 2 ^ (64 : Nat)) (fun _ => none) u ∧
        ∀ y, (u.core c).data.xfers.getLast? = some y → ∀ q ∈ y.secs, q.st = .read ∧
          ∀ o, o < 32 → (byteAt q.bytes o).toNat = cut (d.cpy.xreg x.xs).toNat (8 * (o % 8)) 8)) ∧
  (
  ∀ (h : DHdr) (x : DX) (s : State) (c : Nat) (i : Instr), s.cur = .strand c 3 → i ∈ [Instr.cpLin h x, .cpRcopy h x] →
    let d := (s.core c).data
    let rd := (d.cpy.xreg x.xd).toNat
    let rs := (d.cpy.xreg x.xs).toNat
    let n := (d.cpy.xreg x.xn).toNat
    let len := n % 2 ^ (40 : Nat)
    let fault (code va : Nat) : Prop := exec i s = .next (s.strandFault c 3 code (BitVec.ofNat 64 d.cpy.pc) va)
    let xb := (d.cpy.xreg x.xb).toNat
    let shaped : Prop := n / 2 ^ (40 : Nat) % 2 ^ (18 : Nat) = 0 ∧ len % 32 = 0 ∧ (x.ssp = 0 ∨ n / 2 ^ (61 : Nat) % 8 = 0) ∧ (x.dsp = 0 ∨ n / 2 ^ (58 : Nat) % 8 = 0)
    let aligned : Prop := len = 0 ∨ (rs % 32 = 0 ∧ rd % 32 = 0)
    let inside : Prop := len = 0 ∨ ((x.ssp = 0 → rs + len ≤ (s.core c).dataTop) ∧ (x.dsp = 0 → rd + len ≤ (s.core c).dataTop))
    (¬ shaped → fault 32 0) ∧ (shaped → ¬ aligned → fault 6 (if rs % 32 = 0 then rd else rs)) ∧ (shaped → aligned → ¬ inside → fault 7 0) ∧
    ∀ code, shaped → aligned → inside → x.cen = true → s.checkBarrier c xb = .fault code → fault code xb)

/-- R239 to R245: a fill fires its output ring, a drain its input ring, a transpose both: the slots are filling or draining, the pointers move, and a
transfer holds the fire's units, which take each slot row from or to its memory row and convert element by element under R242; a transpose puts
element (r, col) of a slot at place 16 col + r. -/
def Obligations.CopyRingWordsFire : Prop :=
  ∀ (h : DHdr) (sfmt dfmt rl lc ew : Nat) (g : DG) (s : State) (c : Nat), s.cur = .strand c 3 → h.k = false →
    let k := s.core c
    let d := k.data
    let w := d.ring g.ring
    let lay := (d.cpy.xreg (g.reg + 1)).toNat
    let base := (d.cpy.xreg g.reg).toNat
    let cut (w lo b : Nat) : Nat := w / 2 ^ lo % 2 ^ b
    let eb (f : Nat) : Nat := if f = 1 ∨ f = 7 then 4 else if f = 2 ∨ f = 3 then 2 else 1
    let srow := 32 * 2 ^ rl
    let rows := cut lay 32 16
    let pitch := cut lay 0 32
    let rm := cut lay 48 3
    let began (y : Xfer) (u : State) : Prop :=
      (u.core c).data.xfers = d.xfers ++ [y] ∧ y.pc = d.cpy.pc ∧ y.bar = none ∧ y.id = s.nextId ∧
      (u.core c).tasks = k.tasks ∧ onlyCore s.fresh c u ∧ bytesKept s u
    let ring (w : Word) : Prop := ringOn w = true ∧ 1 ≤ g.cnt ∧ g.cnt ≤ ringSlots w ∧ (g.swz = 0 ∨ ringLoc w = 0)
    let src (u : State) : Prop :=
      (u.strand c 3).src = if sfmt ≠ 0 ∧ ¬ (6 ≤ sfmt ∧ 6 ≤ dfmt) ∧ rm = 5 then (d.cpy.src + 1) % 2 ^ 32 else d.cpy.src
    let shaping (y : Xfer) : Prop := y.shaping = if sfmt = 0 then .plain else .convert sfmt dfmt rm d.cpy.src k.srkey
    let fire (fill : Bool) (keys : List Nat) : Prop :=
      let se := eb (if fill then dfmt else sfmt)
      let me := eb (if fill then sfmt else dfmt)
      let su := 32 * (se / min se me)
      let mu := 32 * (me / min se me)
      cut lay 51 13 = 0 → rm < 6 → rows ≠ 0 → rows * srow ≤ ringSlotBytes w → srow * me % se = 0 → srow * me / se % 32 = 0 → pitch % 32 = 0 →
      base % 32 = 0 →
      (lc = 0 → ∀ r, r < g.cnt * rows → (base + r * pitch) % 2 ^ 64 + srow * me / se ≤ k.dataTop) →
      (ringLoc w = 0 → ∀ q ∈ keys, d.slotAddr q + rows * srow ≤ k.dataTop) →
      answers (if fill then .cpFill h sfmt dfmt rl lc g else .cpDrain h sfmt dfmt rl lc g) s fun u =>
        ∃ y, began y u ∧ shaping y ∧ src u ∧ y.secs.length = g.cnt * rows * (srow / su) ∧
          (∀ q ∈ keys, (u.core c).data.slot q = if fill then .filling else .draining) ∧
          (y.outSlots, y.inSlots) = (if fill then (keys, []) else ([], keys)) ∧
          (if fill then ringPptr ((u.core c).data.ring g.ring) = (ringPptr w + g.cnt) % ringSlots w
           else ringCptr ((u.core c).data.ring g.ring) = (ringCptr w + g.cnt) % ringSlots w) ∧
          (if fill then y.ssp = (if lc = 0 then 0 else 1) ∧ y.dsp = (if ringLoc w = 0 then 0 else 3) ∧ y.dsw = g.swz ∧ y.scope = (if lc = 2 then 3 else 1)
           else y.dsp = (if lc = 0 then 0 else 1) ∧ y.ssp = (if ringLoc w = 0 then 0 else 3) ∧ y.ssw = g.swz ∧ y.wscope = (if lc = 2 then 3 else 1)) ∧
          ∀ a r j, a < g.cnt → r < rows → j < srow / su → ∃ q ∈ y.secs,
            let slot := d.slotAddr (keys.getD a 0) + r * srow + j * su
            let mem := (base + (a * rows + r) * pitch + j * mu) % 2 ^ 64
            q.no = (a * rows + r) * (srow / su) + j ∧ q.st = .todo ∧
            (if fill then q.src = mem ∧ q.dst = slot ∧ q.rn = mu ∧ q.wn = su else q.src = slot ∧ q.dst = mem ∧ q.rn = su ∧ q.wn = mu)
    (sfmt < 8 → dfmt < 8 → ring w → ringProd w = 3 → fire true (d.outputs g.ring g.cnt)) ∧
    (sfmt < 8 → dfmt < 8 → ring w → ringCons w = 3 → fire false (d.inputs g.ring g.cnt)) ∧
    (let wo := d.ring g.reg
     let e := 2 ^ ew
     ew < 3 → ring w → ringCons w = 3 → ringOn wo = true → ringProd wo = 3 → g.cnt ≤ ringSlots wo → g.ring ≠ g.reg →
     1024 * e ≤ ringSlotBytes w → 1024 * e ≤ ringSlotBytes wo →
     (ringLoc w = 0 → ∀ q ∈ d.inputs g.ring g.cnt, d.slotAddr q + 1024 * e ≤ k.dataTop) →
     (ringLoc wo = 0 → ∀ q ∈ d.outputs g.reg g.cnt, d.slotAddr q + 1024 * e ≤ k.dataTop) →
      answers (.cpTr h ew g) s fun u =>
        ∃ y, began y u ∧ y.shaping = .transpose e ∧ y.inSlots = d.inputs g.ring g.cnt ∧ y.outSlots = d.outputs g.reg g.cnt ∧ y.ssw = g.swz ∧
          (∀ q ∈ y.inSlots, (u.core c).data.slot q = .draining) ∧ (∀ q ∈ y.outSlots, (u.core c).data.slot q = .filling) ∧
          y.secs.length = g.cnt ∧ ∀ a, a < g.cnt → ∃ q, y.secs[a]? = some q ∧ q.src = d.slotAddr (y.inSlots.getD a 0) ∧
            q.dst = d.slotAddr (y.outSlots.getD a 0) ∧ q.rn = 1024 * e ∧ q.wn = 1024 * e) ∧
    -- what a unit writes
    ∀ (y : Xfer) (q : Sector) (num : Word),
      (∀ e, y.shaping = .transpose e → ∀ r col o, r < 16 → col < 64 → o < e →
        (unitBytes y q num).1[(16 * col + r) * e + o]? = some (byteAt q.bytes ((64 * r + col) * e + o))) ∧
      (∀ draws key, y.shaping = .convert sfmt dfmt rm draws key → 1 ≤ sfmt → sfmt < 8 → 1 ≤ dfmt → dfmt < 8 →
        let el (f : Nat) : Elem := if f = 1 then .flt .f32 else if f = 2 then .flt .bf16 else if f = 3 then .flt .f16 else
          if f = 4 then .flt .e4 else if f = 5 then .flt .e5 else if f = 6 then .int 8 true else .int 32 true
        let n := q.rn / eb sfmt
        ∀ i o, i < n → o < eb dfmt →
          (unitBytes y q num).1[i * eb dfmt + o]? = some (BitVec.ofNat 8
            ((convertElem (el sfmt) (el dfmt) { rm, sat := true, ftz := false, draw := srDraw key.toNat 2 (q.no * n + i) draws }
              (numBytes (bytesAt q.bytes (eb sfmt * i) (eb sfmt)))).bits / 2 ^ (8 * o) % 2 ^ 8)))

/-- R23, R238, R250, R258, R261: a transfer whose bytes are all performed leaves the list, its input slots are empty and its output slots ready, and
its barrier gets the bytes moved: at once after a release point, else withheld; a zero configuration is BARRIER_CONFIG. Bytes that come after the
barrier's flip of a cycle wait for the next one (R40). A die's stored transfer
at the head of its queue adds to its barrier likewise, for a saved job to the barrier of its image (R260), and a failed one is TRACKER_FAULT of the
arming job. R255: `trk.arm` parks its task until
the home slice answers: BAD_RECORD where the record's fields fail, BAD_WORD where its stored word does, BUSY where the slice of the range's first
line has no free tracker, else ARMED, with a free tracker (the lowest: the model's choice, log entry 128) counting from 0. -/
def Obligations.TransfersCompleteAndTrackersAreArmed : Prop :=
  (
  ∀ (s : State) (c id n : Nat) (x : Xfer),
    let k := s.core c
    let d := k.data
    let added (b : BarId) (n : Nat) : Barrier :=
      let y := (s.barrier b).apply 0 n
      { y with outside := y.outside || (y.due && s.barFrozen b) }
    (firstWhere (fun y => y.id == id) d.xfers = some x → s.isFrozen c = false → (∀ q ∈ x.secs, q.st = .writing) →
      (∀ a ∈ k.accs, a.xfer ≠ id) → (∀ b va, x.bar = some (b, va) → s.flippedNow b = false) →
      let left (u : State) : Prop :=
        let e := (u.core c).data
        e.xfers = d.xfers.filter (fun y => y.id != id) ∧
        ∀ q, e.slot q = if q ∈ x.outSlots then .ready else if q ∈ x.inSlots then .empty else d.slot q
      (x.bar = none → answers (.copyTransferComplete c id) s fun u => left u ∧ u.barriers = s.barriers ∧ (u.core c).data.withheld = d.withheld) ∧
      (∀ b va, x.bar = some (b, va) → x.late = true → answers (.copyTransferComplete c id) s fun u =>
        left u ∧ u.barriers = s.barriers ∧ (u.core c).data.withheld = d.withheld ++ [{ bar := b, amount := x.moved, word := x.pc, cycle := x.cycle }]) ∧
      (∀ b va, x.bar = some (b, va) → x.late = false → (s.barrier b).unset = false → answers (.copyTransferComplete c id) s fun u =>
        u.barrier b = added b x.moved ∧ (u.core c).data.withheld = d.withheld ∧
        (u.core c).data.xfers = d.xfers.filter fun y => y.id != id) ∧
      (∀ b va, x.bar = some (b, va) → x.late = false → (s.barrier b).unset = true → s.debugOn c = false → k.dfault = none → k.dmet = false →
        answers (.copyTransferComplete c id) s fun u =>
          left u ∧ u.barriers = s.barriers ∧
          (u.core c).dfault.map (fun f => (f.strand, f.code, f.tval)) = some (3, 14, BitVec.ofNat 64 x.pc))) ∧
    (firstWhere (fun y => y.id == id) d.xfers = some x → (∃ b va, x.bar = some (b, va) ∧ s.flippedNow b = true) →
      exec (.copyTransferComplete c id) s = .next s) ∧
    (firstWhere (fun y => y.id == id) d.xfers = some x → (∃ q ∈ x.secs, q.st ≠ .writing) → exec (.copyTransferComplete c id) s = .next s) ∧
    ∀ (y : Stored) (rest : List Stored), (s.trkUnit n).queue = y :: rest → s.weaveHalted y.tracker.weave = false →
      (y.failed = false → y.tracker.xfer = some x → (∀ q ∈ x.secs, q.st = .writing) →
        (x.bar = none → answers (.storedTransferComplete n) s fun u => (u.trkUnit n).queue = rest ∧ u.barriers = s.barriers ∧ u.cores = s.cores) ∧
        ∀ b va, x.bar = some (b, va) → s.weaveGone y.tracker.weave = false → (∀ v, tfind s.weaves y.tracker.weave = some v → v.holds b = true) →
          (s.barSaved y.tracker.weave b = false → (s.barrier b).unset = false →
            answers (.storedTransferComplete n) s fun u => (u.trkUnit n).queue = rest ∧ u.barrier b = added b x.moved) ∧
          ∀ e m v, b = .core e m → tfind s.weaves y.tracker.weave = some v → (∃ i ∈ v.images, i.2.core = e) →
            (∀ i ∈ v.images, i.2.core = e → (tget {} i.2.bars (barKey b)).unset = false) →
            answers (.storedTransferComplete n) s fun u => (u.trkUnit n).queue = rest ∧ u.barriers = s.barriers ∧
              ∃ v', tfind u.weaves y.tracker.weave = some v' ∧ ∀ i ∈ v.images, i.2.core = e → ∃ j ∈ v'.images, j.1 = i.1 ∧
                tget {} j.2.bars (barKey b) = (tget {} i.2.bars (barKey b)).apply 0 x.moved) ∧
      (∀ j, y.failed = true → (s.core y.tracker.core).job = some (y.tracker.weave, j) →
        (∃ v, tfind s.weaves y.tracker.weave = some v ∧ v.torn = false) → s.debugOn y.tracker.core = false →
        answers (.storedTransferComplete n) s fun u =>
          (u.trkUnit n).queue = rest ∧ u.barriers = s.barriers ∧
          (u.core y.tracker.core).afaults = (s.core y.tracker.core).afaults ++
            [{ strand := 0, code := 33, task := 0, tval := BitVec.ofNat 64 y.tracker.recVa, cycle := (s.core y.tracker.core).cycle }])) ∧
  (
  ∀ (h : CHdr) (d a : Nat) (s : State) (c t : Nat),
    let va := s.reg c t a
    (s.cur = .task c t → handles s c t → va.toNat % 128 ≠ 0 → answers (.trkArm h d a) s (entered s c t 6 (s.task c t).pc va)) ∧
    (s.cur = .task c t → va.toNat % 128 = 0 → answers (.trkArm h d a) s fun u =>
      (u.task c t).st = .parked ∧ (∀ r, u.reg c t r = s.reg c t r) ∧ onlyTask s c t u ∧ bytesKept s u ∧
      ∃ w, (u.task c t).wait = some w ∧ w.what = .answer ∧ w.instr = .trkArm h d a ∧ w.len = ctlLen h 2) ∧
    ∀ (w : Wait) (bs : List Byte), s.waitOf c t = some w → w.what = .answer → w.instr = .trkArm h d a → w.len = ctlLen h 2 →
      s.isFrozen c = false → (∀ x ∈ (s.core c).accs, x.party = t → x.storeLike = false ∧ x.space ≠ .device) →
      s.readBlock c t va.toNat 128 = .ok bs →
      let word (i : Nat) : Nat := numBytes ((bs.drop (8 * i)).take 8)
      let len := word 1 % 2 ^ 32
      let expect := word 1 / 2 ^ 32
      let fields : Prop := word 0 % 32 = 0 ∧ len % 32 = 0 ∧ 32 ≤ len ∧ len ≤ 2 ^ 30 ∧ 1 ≤ expect ∧ word 2 / 2 ^ 18 % 2 ^ 45 = 0 ∧
        ∀ i, 12 ≤ i → i < 16 → word i = 0
      let answered (v : Nat) (u : State) : Prop :=
        u.reg c t d = (if d = 0 then 0#64 else BitVec.ofNat 64 v) ∧ (∀ r, r ≠ d → u.reg c t r = s.reg c t r) ∧
        (u.task c t).st = .ready ∧ (u.task c t).pc = (s.task c t).pc + BitVec.ofNat 64 (ctlLen h 2) ∧ bytesKept s u
      bs.length = 128 →
      (¬ fields → answers (.trkArmAnswer c t) s fun u => answered 2 u ∧ u.trk = s.trk) ∧
      ∀ ps pa n, fields → rangeCheck (s.core c) c bs = .ok ps → ps = (pa, n) :: ps.drop 1 →
        let die := pa / 2 ^ 41
        let slice := pa / 2 ^ 7 % 2 ^ 7
        (word 3 ≠ 0 → s.storedXfer c bs = none → answers (.trkArmAnswer c t) s fun u => answered 3 u ∧ u.trk = s.trk) ∧
        ((word 3 = 0 ∨ s.storedXfer c bs ≠ none) → (∀ i, i < 16 → tfind (s.trkUnit die).armed (16 * slice + i) ≠ none) →
          answers (.trkArmAnswer c t) s fun u => answered 1 u ∧ (u.trkUnit die).armed = (s.trkUnit die).armed) ∧
        ∀ i, (word 3 = 0 ∨ s.storedXfer c bs ≠ none) → i < 16 → tfind (s.trkUnit die).armed (16 * slice + i) = none →
          (∀ j, j < i → tfind (s.trkUnit die).armed (16 * slice + j) ≠ none) →
          answers (.trkArmAnswer c t) s fun u =>
            answered (2 ^ 8 * i + 2 ^ 12 * slice + 2 ^ 19 * die) u ∧
            ∃ x, tfind (u.trkUnit die).armed (16 * slice + i) = some x ∧ x.counted = 0 ∧ x.expect = expect ∧ x.evt = word 2 ∧
              x.pieces = ps ∧ x.core = c ∧ x.recVa = va.toNat ∧ x.xfer = (if word 3 = 0 then none else s.storedXfer c bs))

/-! The near-memory units (R319 to R351). -/

/-- R324 to R327, R329: a word that writes a register puts its result there, keeps every other register, sets DIRTY for n16 to n23 (R330), and goes
to the next word; nothing reaches the banks. Element by element for the element-wise words, `nbcst`, `nset` and `ncvt`, bit by bit for the raw
words, and with one result in every element for the reductions. -/
def Obligations.NmuWordsWriteTheirRegister : Prop :=
  ∀ (f : NAr) (ftz sat : Bool) (rel half dst fn k v imm d a b : Nat) (s : State) (n : Nat) (r : NRun), s.cur = .nmu n → (s.nmu n).run = some r →
    (r.st.loops = [] ∨ ∃ l rest, r.st.loops = l :: rest ∧ l.last ≠ r.st.pc + 1) →
    let kept (u : State) (r' : NRun) : Prop :=
      (u.nmu n).run = some r' ∧ r'.cmd = r.cmd ∧ r'.st.pc = r.st.pc + 1 ∧ r'.st.loops = r.st.loops ∧ r'.st.stores = r.st.stores ∧
      r'.lines = r.lines ∧ r'.parts = r.parts ∧ r'.point = r.point ∧ r'.atBoundary = false ∧ u.banks = s.banks ∧ u.cores = s.cores ∧
      u.partials = s.partials ∧ ∀ m, m ≠ n → u.nmu m = s.nmu m
    let gives (i : Instr) (p : Nat → Prop) : Prop :=
      answers i s fun u => ∃ r', kept u r' ∧ r'.st.y = r.st.y ∧ r'.st.dirty = (r.st.dirty || decide (16 ≤ d)) ∧
        (∀ x, x ≠ d → r'.st.reg x = r.st.reg x) ∧ p (r'.st.reg d)
    let w (fmt : Nat) : Nat := if fmt = 1 ∨ fmt = 2 then 16 else 32
    let at_ (fmt reg e : Nat) : Nat := r.st.reg reg / 2 ^ (w fmt * e) % 2 ^ w fmt
    let each (i : Instr) (fmt : Nat) (g : Nat → Nat) : Prop := gives i fun x => ∀ e, e < 1024 / w fmt → x / 2 ^ (w fmt * e) % 2 ^ w fmt = g e
    let ctl (g : NAr) : RndCtl := { rm := g.rm, sat := g.sat, ftz := g.ftz }
    let ar (op : ArOp) (e : Nat) : Nat := (arithElem op (nmuElem f.fmt) (ctl f) (at_ f.fmt a e) (at_ f.fmt b e) (at_ f.fmt d e)).bits % 2 ^ w f.fmt
    let mm (op : ArOp) (e : Nat) : Nat := (arithElem op (nmuElem f.fmt) { ftz } (at_ f.fmt a e) (at_ f.fmt b e) 0).bits % 2 ^ w f.fmt
    let bitsOf (i : Instr) (g : Nat → Bool) : Prop := gives i fun x => ∀ j, j < 1024 → x.testBit j = g j
    let A (j : Nat) : Bool := (r.st.reg a).testBit j
    let B (j : Nat) : Bool := (r.st.reg b).testBit j
    f.fmt < 4 → dst < 4 → half < 2 →
    each (.nadd f d a b) f.fmt (ar .add) ∧ each (.nsub f d a b) f.fmt (ar .sub) ∧ each (.nmul f d a b) f.fmt (ar .mul) ∧
    each (.nfma f d a b) f.fmt (ar .fma) ∧ each (.nmax ftz f.fmt d a b) f.fmt (mm .max) ∧ each (.nmin ftz f.fmt d a b) f.fmt (mm .min) ∧
    each (.ncmp rel ftz f.fmt d a b) f.fmt (fun e => if relElem rel (nmuElem f.fmt) ftz (at_ f.fmt a e) (at_ f.fmt b e) then 2 ^ w f.fmt - 1 else 0) ∧
    (f.fmt < 3 → each (.nexp2 ftz f.fmt d a) f.fmt fun e =>
      (specialElem .exp2 (if f.fmt = 0 then .f32 else if f.fmt = 1 then .bf16 else .f16) ftz (at_ f.fmt a e)).bits % 2 ^ w f.fmt) ∧
    bitsOf (.nsel d a b) (fun j => if (r.st.reg d).testBit j then A j else B j) ∧ bitsOf (.nmov d a) A ∧
    (fn < 5 → bitsOf (.nlogic fn d a b) fun j =>
      if fn = 0 then A j && B j else if fn = 1 then A j || B j else if fn = 2 then A j != B j else if fn = 3 then A j && !(B j) else !(A j)) ∧
    (k < 1024 / w f.fmt → each (.nbcst f.fmt k d a) f.fmt fun _ => at_ f.fmt a k) ∧
    (v < 2 ^ 9 → each (.nset half v d) 0 fun _ => if half = 0 then (if v < 256 then v else 2 ^ 32 - 512 + v) else v * 2 ^ 23) ∧
    (v < 2 ^ 9 → each (.nset 2 v d) 1 fun _ => v * 2 ^ 7) ∧
    (let cvt (x : Nat) : Nat := (convertElem (nmuElem f.fmt) (nmuElem dst) (ctl f) x).bits % 2 ^ w dst
     (w f.fmt = w dst → each (.ncvt 0 dst f d a) dst fun e => cvt (at_ f.fmt a e)) ∧
     (w f.fmt = 32 → w dst = 16 → each (.ncvt half dst f d a) dst fun e => if e / 32 = half then cvt (at_ f.fmt a (e % 32)) else at_ dst d e) ∧
     (w f.fmt = 16 → w dst = 32 → each (.ncvt half dst f d a) dst fun e => cvt (at_ f.fmt a (32 * half + e)))) ∧
    (let tree (op : Nat) (g : NAr) (x : Nat) : Prop :=
       ∃ y, reduceElems op { view := if g.fmt = 0 then 0 else if g.fmt = 1 then 2 else if g.fmt = 2 then 3 else 1, rm := g.rm, sat := g.sat, ftz := g.ftz }
         ((List.range (1024 / w g.fmt)).map fun e => some (at_ g.fmt a e)) = some y ∧ x = y.bits % 2 ^ w g.fmt
     gives (.nredmax sat ftz f.fmt d a) (fun x => ∀ e, e < 1024 / w f.fmt → tree 1 { sat, ftz, fmt := f.fmt } (x / 2 ^ (w f.fmt * e) % 2 ^ w f.fmt)) ∧
     gives (.nredsum f d a) (fun x => ∀ e, e < 1024 / w f.fmt → tree 0 f (x / 2 ^ (w f.fmt * e) % 2 ^ w f.fmt))) ∧
    (imm < 2 ^ 11 → answers (.naddr imm d a) s fun u => ∃ r', kept u r' ∧ r'.st.n = r.st.n ∧ r'.st.dirty = r.st.dirty ∧
      ∀ x, tget 0 r'.st.y x = if x = d then (((tget 0 r.st.y a : Nat) + (BitVec.ofNat 11 imm).toInt) % 2 ^ 23).toNat else tget 0 r.st.y x)

/-- R329: `naddr` is the word of opcode 0x18 with D and A below 8 and B = 0; it sets y[D] to (y[A] + sext(IMM11)) mod 2^23, keeps every other y
register and every n register, and goes to the next word. -/
def Obligations.NaddrAddsModuloTwoToThe23 : Prop :=
  (∀ imm d a, imm < 2 ^ 11 → d < 8 → a < 8 → decodeNmu (2 ^ 26 * 0x18 + 2 ^ 21 * d + 2 ^ 16 * a + imm) = some (.naddr imm d a)) ∧
  (∀ w i, w < 2 ^ 32 → w / 2 ^ 26 = 0x18 → decodeNmu w = some i → ∃ imm d a, i = .naddr imm d a ∧ imm < 2 ^ 11 ∧ d < 8 ∧ a < 8) ∧
  ∀ (imm d a : Nat) (s : State) (n : Nat) (r : NRun), imm < 2 ^ 11 → s.cur = .nmu n → (s.nmu n).run = some r →
    (r.st.loops = [] ∨ ∃ l rest, r.st.loops = l :: rest ∧ l.last ≠ r.st.pc + 1) →
    answers (.naddr imm d a) s fun u => ∃ r', (u.nmu n).run = some r' ∧ r'.st.pc = r.st.pc + 1 ∧ r'.st.n = r.st.n ∧
      ((tget 0 r'.st.y d : Nat) : Int) = ((tget 0 r.st.y a : Nat) + (BitVec.ofNat 11 imm).toInt) % 2 ^ 23 ∧ ∀ x, x ≠ d → tget 0 r'.st.y x = tget 0 r.st.y x

/-- R319, R328, R330, R332, R341: a line in the command's region and in no save row is loaded, from the iteration buffer where it is held, or is held
there until the boundary; PI steps the line address. Any other line ends the command with BOUNDS, a seventeenth line or a third partial with
ITER_FULL. `nemit` holds its partial and clears DIRTY. R331 to R333, R340: at a boundary the held lines go to the banks, the held partials leave,
and with SP and DIRTY clear the context's SPC counts. A loop word stands at a boundary and enters its body, or skips it; the end of a body is a
boundary before the next iteration, or after the last one; a body out of place is BAD_WORD. At `nend` the command ends DONE with 128 bytes for
each `nst` added to its barrier, and the registers keep what it left (R321 lists them and says no more; that they keep it is the model's choice, log
entry 99); one of a halted weave stops at that boundary with its partials held
(R350). R136, R345: a load from a line of the error-address table that the iteration does not hold is MEMORY_ERROR. -/
def Obligations.NmuLinesPartialsAndBoundaries : Prop :=
  (
  ∀ (pi : Bool) (off d a b cnt : Nat) (s : State) (n : Nat) (r : NRun), s.cur = .nmu n → (s.nmu n).run = some r → off < 2 ^ (10 : Nat) →
    (r.st.loops = [] ∨ ∃ l rest, r.st.loops = l :: rest ∧ l.last ≠ r.st.pc + 1) →
    let la := (((tget 0 r.st.y a : Nat) + (BitVec.ofNat 10 off).toInt) % 2 ^ (23 : Nat)).toNat
    let o := la * 2 ^ (15 : Nat) + n % 2 * 2 ^ (14 : Nat) + (32 * (n / 64 % 4) + n % 64 / 2) * 2 ^ (7 : Nat)
    let inside : Prop := r.cmd.lo ≤ o ∧ o + 128 ≤ r.cmd.hi ∧ o / 2 ^ (23 : Nat) < 32767
    let kept (u : State) (r' : NRun) : Prop :=
      (u.nmu n).run = some r' ∧ r'.cmd = r.cmd ∧ r'.st.pc = r.st.pc + 1 ∧ r'.st.loops = r.st.loops ∧ r'.point = r.point ∧ r'.atBoundary = false ∧
      u.banks = s.banks ∧ u.partials = s.partials ∧ u.cores = s.cores
    let stepped (r' : NRun) : Prop := ∀ x, tget 0 r'.st.y x = if pi = true ∧ x = a then (tget 0 r.st.y a + 1) % 2 ^ (23 : Nat) else tget 0 r.st.y x
    let ended (i : Instr) (st : Nat) : Prop := exec i s = .next (s.nmuEnd n r st)
    (inside → tfind r.lines la = none → s.errorLine ((n / 256 * 2 ^ (41 : Nat) + o) / 128) = true → ended (.nld pi off d a) 5) ∧
    (inside → (tfind r.lines la ≠ none ∨ s.errorLine ((n / 256 * 2 ^ (41 : Nat) + o) / 128) = false) →
      answers (.nld pi off d a) s fun u => ∃ r', kept u r' ∧ stepped r' ∧ r'.lines = r.lines ∧ r'.parts = r.parts ∧
      r'.st.reg d = (tfind r.lines la).getD (numBytes (bytesAt s.banks (n / 256 * 2 ^ (41 : Nat) + o) 128)) ∧ (∀ x, x ≠ d → r'.st.reg x = r.st.reg x) ∧
      r'.st.dirty = (r.st.dirty || decide (16 ≤ d)) ∧ r'.st.stores = r.st.stores) ∧
    (inside → (tfind r.lines la ≠ none ∨ r.lines.length < 16) → answers (.nst pi off d a) s fun u => ∃ r', kept u r' ∧ stepped r' ∧
      (∀ x, tfind r'.lines x = if x = la then some (r.st.reg d) else tfind r.lines x) ∧ r'.parts = r.parts ∧ r'.st.n = r.st.n ∧
      r'.st.dirty = r.st.dirty ∧ r'.st.stores = r.st.stores + 1) ∧
    (¬ inside → ended (.nld pi off d a) 2 ∧ ended (.nst pi off d a) 2) ∧
    (inside → tfind r.lines la = none → 16 ≤ r.lines.length → ended (.nst pi off d a) 3) ∧
    (r.cmd.emit = 0 → ended (.nemit cnt d a b) 1) ∧ (r.cmd.emit ≠ 0 → 2 ≤ r.parts.length → ended (.nemit cnt d a b) 3) ∧
    (r.cmd.emit ≠ 0 → r.parts.length < 2 → answers (.nemit cnt d a b) s fun u => ∃ r' p, kept u r' ∧ r'.parts = r.parts ++ [p] ∧
      r'.lines = r.lines ∧ r'.st.n = r.st.n ∧ r'.st.y = r.st.y ∧ r'.st.dirty = false ∧ p.m = r.st.reg d % 2 ^ (32 : Nat) ∧ p.l = r.st.reg a % 2 ^ (32 : Nat) ∧
      p.o.length = 32 * cnt ∧ ∀ j e, j < cnt → e < 32 → p.o.getD (32 * j + e) 0 = r.st.reg (b + j) / 2 ^ (32 * e) % 2 ^ (32 : Nat))) ∧
  (
  ∀ (sp : Bool) (len cnt : Nat) (s : State) (n : Nat) (r : NRun), s.cur = .nmu n → (s.nmu n).run = some r →
    let committed (u : State) : Prop :=
      u.banks = r.lines.foldl (fun m l => setBytes m (linePa n l.1) (bytesOfNum 128 l.2)) s.banks ∧
      u.partials.length = s.partials.length + (if s.weaveHalted r.cmd.weave then 0 else r.held.length + r.parts.length) ∧
      u.partials.take s.partials.length = s.partials ∧ u.cores = s.cores
    let count (sp : Bool) (u : State) : Prop :=
      (u.nmu n).ctxs = (s.nmu n).ctxs.map fun e => if sp = true ∧ r.st.dirty = false ∧ e.1 = r.cmd.ctx then (e.1, (e.2 + 1) % 2 ^ (32 : Nat)) else e
    let clean (r' : NRun) : Prop :=
      r'.lines = [] ∧ r'.parts = [] ∧ r'.held = (if s.weaveHalted r.cmd.weave then r.held ++ r.parts else []) ∧
      r'.atBoundary = true ∧ r'.point = r'.st ∧ r'.st.n = r.st.n ∧ r'.st.y = r.st.y ∧ r'.st.dirty = r.st.dirty ∧
      r'.st.stores = r.st.stores ∧ r'.cmd = r.cmd
    let word (inner : Bool) : Instr := if inner then .nloop2 sp len cnt else .nloop sp len cnt
    let k (inner : Bool) : Nat := if cnt = 2047 then r.cmd.loopn / 2 ^ (if inner then 32 else 0) % 2 ^ (32 : Nat) else cnt
    let legal (inner : Bool) : Prop :=
      (if inner then ∀ l ∈ r.st.loops, l.inner = false else r.st.loops = []) ∧
      (∀ l rest, r.st.loops = l :: rest → r.st.pc + 1 + len ≤ l.last) ∧ r.st.pc + 1 + len ≤ r.cmd.words.length
    (∀ inner, legal inner → k inner ≠ 0 → answers (word inner) s fun u => committed u ∧ count sp u ∧ ∃ r', (u.nmu n).run = some r' ∧ clean r' ∧
      r'.st.pc = r.st.pc + 1 ∧
      r'.st.loops = { first := r.st.pc + 1, last := r.st.pc + 1 + len, remain := k inner, sp, inner } :: r.st.loops) ∧
    (∀ inner, legal inner → k inner = 0 → r.st.loops = [] → answers (word inner) s fun u => committed u ∧ count sp u ∧
      ∃ r', (u.nmu n).run = some r' ∧ clean r' ∧ r'.st.pc = r.st.pc + 1 + len ∧ r'.st.loops = []) ∧
    (∀ inner, ¬ legal inner → exec (word inner) s = .next (s.nmuEnd n r 1)) ∧
    -- the last word of a body, here an `nmov`
    (∀ (d a : Nat) (l : NLoop) (rest : List NLoop), r.st.loops = l :: rest → l.last = r.st.pc + 1 → (1 < l.remain ∨ rest = []) → d < 16 →
      answers (.nmov d a) s fun u => committed u ∧ count l.sp u ∧ ∃ r', (u.nmu n).run = some r' ∧ r'.atBoundary = true ∧ r'.lines = [] ∧ r'.parts = [] ∧
        r'.point = r'.st ∧ (if 1 < l.remain then r'.st.pc = l.first ∧ r'.st.loops = { l with remain := l.remain - 1 } :: rest
          else r'.st.pc = l.last ∧ r'.st.loops = [])) ∧
    (s.weaveHalted r.cmd.weave = true → answers .nend s fun u => committed u ∧ ∃ r', (u.nmu n).run = some r' ∧ clean r' ∧ r'.st = r.st) ∧
    (s.weaveHalted r.cmd.weave = false → r.cmd.bar = none → r.retried = false → answers .nend s fun u =>
      committed u ∧ (u.nmu n).run = none ∧ (u.nmu n).regs = r.st ∧ (u.nmu n).ibuf = r.cmd.words ∧ tget 99 (u.nmu n).last r.cmd.weave = 0 ∧
      (u.nmu n).queue = (s.nmu n).queue ∧ (u.nmu n).stat = wrapUp (s.nmu n).stat 0 16 1 ∧ (u.nmu n).ctxs = (s.nmu n).ctxs) ∧
    ∀ b, s.weaveHalted r.cmd.weave = false → r.cmd.bar = some b → (s.barrier b).unset = false → s.barSaved r.cmd.weave b = false →
      (∀ v, tfind s.weaves r.cmd.weave = some v → v.holds b = true) → answers .nend s fun u =>
      let y := (s.barrier b).apply 0 (128 * r.st.stores)
      (u.nmu n).run = none ∧ u.barrier b = { y with outside := y.outside || (y.due && s.barFrozen b) } ∧ tget 99 (u.nmu n).last r.cmd.weave = 0)

/-- R335 to R337, R339, R342: a command whose block and program pass the checks enters the queue of every NMU of its mask at once, each with a
context entry, where all have room, behind those accepted in earlier cycles of the NMU; else its task parks with it. A block out of order is NMU_COMMAND with TVAL its address. `nfence` goes on when
no command of its task is left, else it parks. `nstat` asks for an NMU's status word, and the word returns to its register. R338, R348 to R350:
an idle NMU starts its first queued command that may run, with its registers cleared and its line addresses set; at a boundary the command of a
weave that stops is saved with its state, in a save slot of its own in the save rows of its banks (its places are the model's own: log entry 99);
after the resume it reloads what the slot then holds (R320) and goes on there. A wide weave's watchdog leaves nothing of it queued or saved on an
NMU that is not at rest after 2 ms. -/
def Obligations.NmuCommandsAreAcceptedAndRun : Prop :=
  (
  ∀ (h : CHdr) (a b d stack : Nat) (s : State) (c t : Nat),
    let va := s.reg c t a
    let mask := (s.reg c t b).toNat
    (s.cur = .task c t → handles s c t → (va.toNat % 128 ≠ 0 ∨ mask = 0) → answers (.ncmd h a b stack) s (entered s c t 36 (s.task c t).pc va)) ∧
    (∀ (bs prog : List Byte) (lo : Nat), s.cur = .task c t → va.toNat % 128 = 0 → mask ≠ 0 → s.readBlock c t va.toNat 128 = .ok bs →
      let w (i : Nat) : Nat := numBytes ((bs.drop (8 * i)).take 8)
      let ns := (List.range 64).filterMap fun i => if mask.testBit i then some (64 * (8 * pkgOf c + stack) + i) else none
      nmuBlockOk bs = true → s.readBlock c t (w 0) (4 * w 1) = .ok prog → regionCheck (s.core c) c (2 * pkgOf c + stack / 4) (w 3) (w 4) = .ok lo →
      (w 5 = 0 ∨ ∃ bar, s.checkBarrier c (w 5) = .ok bar) →
      let right (x : NCmd) : Prop :=
        x.weave = s.weaveNo c ∧ x.ctx = (s.core c).ctxno ∧ x.core = c ∧ x.task = t ∧ x.loopn = w 2 ∧ x.lo = lo ∧ x.hi = lo + w 4 ∧ x.emit = w 6 ∧
        x.words.length = w 1 ∧ (∀ i, i < w 1 → x.words[i]? = some (numBytes ((prog.drop (4 * i)).take 4))) ∧
        (w 5 = 0 → x.bar = none) ∧ (∀ bar, w 5 ≠ 0 → s.checkBarrier c (w 5) = .ok bar → x.bar = some bar) ∧
        ∀ i, i < 8 → x.y[i]? = some (if w (8 + i) = 0 then 0 else (lo + (w (8 + i) - w 3)) / 2 ^ 15 % 2 ^ 23)
      let room (n : Nat) : Prop :=
        (s.nmu n).queue.length < 8 ∧ ((∃ e ∈ (s.nmu n).ctxs, e.1 = (s.core c).ctxno) ∨ (s.nmu n).ctxs.length < 8)
      ((∀ n ∈ ns, room n) → answers (.ncmd h a b stack) s fun u =>
        (u.task c t).st = (s.task c t).st ∧ (u.task c t).pc = (s.task c t).pc + BitVec.ofNat 64 (ctlLen h 2) ∧ (∀ r, u.reg c t r = s.reg c t r) ∧
        (∀ n, n ∉ ns → u.nmu n = s.nmu n) ∧
        ∃ x, right x ∧ ∀ n ∈ ns, let z : NCmd := { x with cyc := (s.nmu n).clk }
          (∀ y, y ∈ (u.nmu n).queue ↔ y = z ∨ y ∈ (s.nmu n).queue) ∧
          ((∀ y ∈ (s.nmu n).queue, y.accepted ≠ s.time ∨ y.cyc ≠ z.cyc) → (u.nmu n).queue = (s.nmu n).queue ++ [z]) ∧ (u.nmu n).run = (s.nmu n).run ∧
          ∃ e ∈ (u.nmu n).ctxs, e.1 = x.ctx) ∧
      ((∃ n ∈ ns, ¬ room n) → answers (.ncmd h a b stack) s fun u =>
        (u.task c t).st = .parked ∧ u.nmus = s.nmus ∧ ∃ x, right x ∧ tfind (u.core c).ncmds t = some (ns, x))) ∧
    (s.cur = .task c t → (s.nmuOwed c t = false → answers (.nfence h) s (wentOn s c t (ctlLen h 1))) ∧
      (s.nmuOwed c t = true → answers (.nfence h) s fun u => (u.task c t).st = .parked ∧ (∀ r, u.reg c t r = s.reg c t r) ∧ onlyTask s c t u)) ∧
    (s.cur = .task c t → handles s c t → 2 ^ 9 ≤ va.toNat → answers (.nstat h d a) s (entered s c t 36 (s.task c t).pc va)) ∧
    (s.cur = .task c t → va.toNat < 2 ^ 9 → answers (.nstat h d a) s fun u =>
      (u.task c t).st = .parked ∧ (∀ r, u.reg c t r = s.reg c t r) ∧ onlyTask s c t u ∧
      ∃ w, (u.task c t).wait = some w ∧ w.what = .answer ∧ w.instr = .nstat h d a ∧ w.res = va) ∧
    ∀ w, s.waitOf c t = some w → w.what = .answer → w.instr = .nstat h d a → w.len = ctlLen h 1 → s.isFrozen c = false →
      let m := s.nmu (64 * (8 * pkgOf c + w.res.toNat % 8) + w.res.toNat / 8 % 64)
      let v := s.weaveNo c
      m.queue.length ≤ 8 → tget 0 m.last v < 256 → m.spc (s.core c).ctxno < 2 ^ 32 → d ≠ 0 →
      answers (.nstatAnswer c t) s fun u =>
        let x := (u.reg c t d).toNat
        x / 2 ^ 56 = tget 0 m.last v ∧ x / 2 ^ 44 % 2 ^ 12 = m.queue.length ∧ x / 2 ^ 43 % 2 = (if m.run.isSome then 1 else 0) ∧
        (x / 2 ^ 42 % 2 = 1 ↔ ∃ r, m.run = some r ∧ r.cmd.weave = v ∧ r.st.dirty = true) ∧ x % 2 ^ 42 = m.spc (s.core c).ctxno ∧
        (∀ r, r ≠ d → u.reg c t r = s.reg c t r) ∧ (u.task c t).st = .ready ∧
        (u.task c t).pc = (s.task c t).pc + BitVec.ofNat 64 (ctlLen h 1) ∧ bytesKept s u) ∧
  (
  ∀ (s : State) (n w : Nat) (x : NCmd) (r : NRun) (v : Weave),
    let u0 := s.nmu n
    let resident (y : Weave) : Prop := tfind s.weaves y.id = some y ∧ y.st = .resident ∧ s.weaveHalted y.id = false
    (∀ rest, u0.run = none → u0.queue = x :: rest → resident v → x.weave = v.id → (∀ e ∈ u0.saved, e.1 ≠ v.id) → x.n = [] →
      answers (.nmuCommandStart n) s fun u => (u.nmu n).queue = rest ∧ (∀ m, m ≠ n → u.nmu m = s.nmu m) ∧ u.banks = s.banks ∧
        ∃ r', (u.nmu n).run = some r' ∧ r'.cmd = x ∧ r'.st.pc = 0 ∧ (∀ i, r'.st.reg i = 0) ∧ r'.st.dirty = false ∧ r'.st.loops = [] ∧ r'.lines = [] ∧
          r'.point = r'.st ∧ r'.atBoundary = true ∧ ∀ i, i < 8 → i < x.y.length → tget 0 r'.st.y i = x.y.getD i 0) ∧
    (u0.run ≠ none → exec (.nmuCommandStart n) s = .next s) ∧
    (u0.run = some r → tfind s.weaves r.cmd.weave = some v → v.st = .stopping → u0.saved.length < 4 → s.weaveHalted r.cmd.weave = false →
      (r.atBoundary = true → (v.commonSpc = none ∨ (r.safe = true ∧ v.commonSpc = some (u0.spc r.cmd.ctx))) →
        answers (.nmuPreemptStop n) s fun u => (u.nmu n).run = none ∧ (u.nmu n).queue = u0.queue ∧ (∀ m, m ≠ n → u.nmu m = s.nmu m) ∧
          (∀ p, p % 2 ^ (41 : Nat) < 32767 * 2 ^ (23 : Nat) → byteAt u.banks p = byteAt s.banks p) ∧
          ∃ i, i < 4 ∧ (∀ e ∈ u0.saved, e.2.slot ≠ i) ∧ (u.nmu n).saved = u0.saved ++ [(r.cmd.weave, { r with slot := i })] ∧
            (let line (j : Nat) : Nat := u.bankLine n (32767 * 2 ^ (8 : Nat) + 64 * i + j)
             (∀ j, j < 24 → line j = r.st.reg j % 2 ^ (1024 : Nat)) ∧
             (∀ j, j < 8 → line 24 / 2 ^ (64 * j) % 2 ^ (64 : Nat) = tget 0 r.st.y j % 2 ^ (64 : Nat)) ∧
             line 25 % 2 ^ (64 : Nat) = r.st.pc % 2 ^ (64 : Nat) ∧ (line 25).testBit 64 = r.st.dirty ∧
             line 25 / 2 ^ (128 : Nat) % 2 ^ (64 : Nat) = u0.spc r.cmd.ctx % 2 ^ (64 : Nat))) ∧
      (r.atBoundary = false → exec (.nmuPreemptStop n) s = .next s)) ∧
    (∀ rest, u0.run = none → u0.saved = (v.id, r) :: rest → resident v →
      answers (.nmuResume n) s fun u => (u.nmu n).saved = rest ∧ (u.nmu n).queue = u0.queue ∧ u.banks = s.banks ∧
        (let line (j : Nat) : Nat := s.bankLine n (32767 * 2 ^ (8 : Nat) + 64 * r.slot + j)
         (u.nmu n).ctxs = (u0.ctxs.map fun e => if e.1 = r.cmd.ctx then (e.1, line 25 / 2 ^ (128 : Nat) % 2 ^ (32 : Nat)) else e) ∧
         ∃ r', (u.nmu n).run = some r' ∧ { r' with st := r.st, point := r.point } = r ∧ (∀ j, j < 24 → r'.st.reg j = line j) ∧
           (∀ j, j < 8 → tget 0 r'.st.y j = line 24 / 2 ^ (64 * j) % 2 ^ (23 : Nat)) ∧ r'.st.pc = line 25 % 2 ^ (64 : Nat) ∧
           r'.st.dirty = (line 25).testBit 64)) ∧
    (tfind s.weaves w = some v → v.st = .stopping → v.commonSpc ≠ none → 2000000 ≤ v.stopTime → s.weaveHalted w = false →
      s.nmus = [(n, u0)] → s.nmuAtRest n w = false →
      answers (.nmuRestWatchdog w) s fun u =>
        (∀ y ∈ (u.nmu n).queue, y.weave ≠ w) ∧ (∀ e ∈ (u.nmu n).saved, e.1 ≠ w) ∧ (∀ e ∈ (u.nmu n).ctxs, e.1 ≠ v.ctx) ∧
        (u0.run = some r → r.cmd.weave = w → (u.nmu n).run = none ∧ tget 0 (u.nmu n).last w = 6) ∧ u.banks = s.banks))

/-! The table walks (R352 to R373). -/

/-- R354, R358, R359, R368: a walk command whose descriptor and region pass the checks and whose slot is free reserves the slot and parks with its
walk until a place is free; a misaligned descriptor or a slot in use is TRAV_COMMAND. An accepted walk lets its task go on. `tw.wait` takes a
full slot into its pair, parks on a pending one, and traps on a free one or a number past 31; `tw.wait.try` gives NIL and EMPTY there. R353, R360
to R366, R372: what one step of a walk does, kind by kind, as the sector it reads says; a read outside the region or misaligned ends it with
BOUNDS, MAXSTEP reads with LIMIT, a lasting error, or a sector on a listed line, with MEMORY_ERROR. R367: an ended walk makes its memory return
only when DONE with MEM, and then its slot is full, before an instruction of its core's cycle issues (R354); taking it acquires those bytes (R368):
a load of them no longer finds a clean copy filled at a narrower scope. -/
def Obligations.WalksReserveSlotsAndFollowTheirProcedures : Prop :=
  (
  ∀ (h : CHdr) (fn a b d slot : Nat) (mem : Bool) (s : State) (c t : Nat),
    let va := s.reg c t a
    let st (n : Nat) : RetSt := ((s.core c).retSlot n).st
    (∀ (i : Instr) (kind : WKind),
      (i, kind) ∈ [(Instr.twList h fn a b mem slot, WKind.list fn), (.twHash h fn a b mem slot, .hash fn), (.twKvb h fn a b mem slot, .kvb),
        (.twTree h fn a b mem slot, .tree fn), (.twRwalk h fn a b mem slot, .rwalk (fn.testBit 0) (fn.testBit 1))] →
      s.cur = .task c t →
      (handles s c t → va.toNat % 64 ≠ 0 → answers i s (entered s c t 38 (s.task c t).pc va)) ∧
      (∀ bs, va.toNat % 64 = 0 → s.readBlock c t va.toNat 64 = .ok bs →
        let w (j : Nat) : Nat := numBytes ((bs.drop (8 * j)).take 8)
        (handles s c t → st slot ≠ .free → answers i s (entered s c t 38 (s.task c t).pc va)) ∧
        ∀ pa, descriptorOk kind mem bs = true → st slot = .free → walkRegion (s.core c) c mem (w 0) (w 1) = .ok pa →
          answers i s fun u =>
            (u.task c t).st = .parked ∧ (∀ r, u.reg c t r = s.reg c t r) ∧ ((u.core c).retSlot slot).st = .pending ∧
            (∀ n, n ≠ slot → (u.core c).retSlot n = (s.core c).retSlot n) ∧ u.banks = s.banks ∧
            ∃ x, u.walks = s.walks ++ [x] ∧ x.kind = kind ∧ x.mem = mem ∧ x.slot = slot ∧ x.core = c ∧ x.task = t ∧ x.weave = s.weaveNo c ∧
              x.key = (s.reg c t b).toNat ∧ x.base = pa ∧ x.len = w 1 ∧ x.root = w 2 ∧ x.p2 = w 4 ∧ x.p3 = w 7 ∧ x.ret = w 5 ∧
              x.maxstep = w 6 ∧ x.accepted = false ∧ x.reads = 0 ∧ x.stack = 4 * (pa / 2 ^ (41 : Nat)) + pa / 2 ^ (12 : Nat) % 4)) ∧
    (∀ (w : Walk) (rest : List Walk) (v : Weave) (wt : Wait), s.walks = w :: rest → (∀ x ∈ rest, x.accepted = true ∧ x.stack ≠ w.stack) → w.accepted = false →
      tfind s.weaves w.weave = some v → v.st = .resident → v.torn = false → s.weaveHalted w.weave = false → s.isFrozen w.core = false →
      (s.task w.core w.task).wait = some wt →
      answers (.walkAccept w.id) s fun u =>
        u.walks = { w with accepted := true, pos := w.start } :: rest ∧ (u.task w.core w.task).st = .ready ∧
        (u.task w.core w.task).pc = (s.task w.core w.task).pc + BitVec.ofNat 64 wt.len ∧ (∀ r, u.reg w.core w.task r = s.reg w.core w.task r)) ∧
    (s.cur = .task c t → d % 2 = 0 → d < 64 →
      let n := va.toNat
      let taken (u : State) : Prop :=
        u.reg c t d = (if d = 0 then 0#64 else ((s.core c).retSlot n).value) ∧ u.reg c t (d + 1) = ((s.core c).retSlot n).status ∧
        (∀ r, r ≠ d → r ≠ d + 1 → u.reg c t r = s.reg c t r) ∧ ((u.core c).retSlot n).st = .free ∧
        (∀ m, m ≠ n → (u.core c).retSlot m = (s.core c).retSlot m) ∧ (u.task c t).pc = (s.task c t).pc + BitVec.ofNat 64 (ctlLen h 1) ∧
        u.banks = s.banks ∧ u.homes = s.homes ∧
        (let ret := ((s.core c).retSlot n).ret
         (ret.2 = 0 → bytesKept s u) ∧
         ((∀ e ∈ s.l1Cores c, (s.core e).l1.Pairwise fun x y => x.1 < y.1) → ∀ p, u.wideByte c p = s.wideByte c p ∧
           (ret.1 ≤ p → p < ret.1 + ret.2 → (∀ x, s.l1Line c (p / 128) = some x → x.fs < 4) → u.nearByte c p = s.wideByte c p)))
      (n ≤ 31 → st n = .full → answers (.twWait h d a) s taken ∧ answers (.twWaitTry h d a) s taken) ∧
      (n ≤ 31 → st n = .pending → answers (.twWait h d a) s fun u =>
        (u.task c t).st = .parked ∧ (∀ r, u.reg c t r = s.reg c t r) ∧ onlyTask s c t u ∧ ∃ w, (u.task c t).wait = some w ∧ w.what = .slot n) ∧
      (n ≤ 31 → st n ≠ .full → answers (.twWaitTry h d a) s fun u =>
        u.reg c t d = (if d = 0 then 0#64 else BitVec.ofNat 64 (2 ^ (64 : Nat) - 1)) ∧ u.reg c t (d + 1) = 6#64 ∧
        (∀ r, r ≠ d → r ≠ d + 1 → u.reg c t r = s.reg c t r) ∧ (u.task c t).pc = (s.task c t).pc + BitVec.ofNat 64 (ctlLen h 1) ∧
        onlyTask s c t u ∧ bytesKept s u) ∧
      (handles s c t → (31 < n ∨ st n = .free) → answers (.twWait h d a) s (entered s c t 38 (s.task c t).pc va)) ∧
      (handles s c t → 31 < n → answers (.twWaitTry h d a) s (entered s c t 38 (s.task c t).pc va)))) ∧
  (
  ∀ (s : State) (w : Walk) (rest : List Walk) (v : Weave), s.walks = w :: rest → w.accepted = true →
    tfind s.weaves w.weave = some v → v.st = .resident → v.torn = false → s.weaveHalted w.weave = false →
    let nil := 2 ^ (64 : Nat) - 1
    let byte (o : Nat) (n : Nat) : Nat := numBytes (bytesAt s.banks (w.base + o) n)
    let inside (o : Nat) : Prop := o / 32 * 32 + 32 ≤ w.len
    let now (u : State) (p : WPos) : Prop :=
      ∃ x, u.walks = x :: rest ∧ x.pos = p ∧ x.reads = w.reads + 1 ∧ x.kind = w.kind ∧ x.key = w.key ∧ x.root = w.root ∧ u.banks = s.banks ∧ u.cores = s.cores
    let goes (p : WPos) : Prop :=
      (∀ off size, w.need = some (off, size) → s.errorLine ((w.base + off / 32 * 32) / 128) = false) →
        answers (.walkSectorReturn w.id false) s fun u => now u p
    let child (d c : Nat) (depth k : Nat) : WPos :=
      if c = nil then .fin 1 nil [] else if w.key / 2 ^ (4 * d) % 16 < k then (if depth ≤ d + 1 then .last c else .node (d + 1) c) else .sib d k c
    let hop (h v : Nat) : WPos := if w.p1 ≤ h then .fin 0 v [] else .rnode h v
    let draw (given : Bool) (h : Nat) : Nat :=
      if given then w.p2 % 2 ^ (24 : Nat) else generator w.p2 (w.p3 % 2 ^ (32 : Nat)) ((w.p3 / 2 ^ (32 : Nat) % 2 ^ (32 : Nat) + h) % 2 ^ (32 : Nat)) / 2 ^ (40 : Nat)
    let near (h v e lo hi t : Nat) : WPos := if lo < hi then .rbin h v e lo hi t else .rpick h v ((e + 16 * lo) % 2 ^ (64 : Nat))
    (w.reads < w.maxstep →
      (∀ fn p h, w.kind = .list fn → w.pos = .list p h → p % 32 = 0 → inside p →
        let q := byte (p + 8 * (w.p1 % 4)) 8
        goes (if fn = 1 ∧ byte (p + 8 * (w.p1 / 2 ^ (8 : Nat) % 4)) 8 = w.p2 then .fin 0 p []
          else if fn = 0 ∧ q = nil then .fin 0 p [] else if q = nil then .fin 1 nil []
          else if fn = 2 ∧ h + 1 = w.p2 then .fin 0 q [] else .list q (h + 1))) ∧
      (∀ fn j, w.kind = .hash fn → w.pos = .bucket j → w.p1 ≤ 32 → 1 ≤ w.p1 →
        let b := (w.root + 32 * ((w.key * w.p2 % 2 ^ (64 : Nat) / 2 ^ (64 - w.p1) + j) % 2 ^ w.p1)) % 2 ^ (64 : Nat)
        b % 32 = 0 → inside b →
        goes (if byte b 8 = w.key then .fin 0 (if fn = 0 then byte (b + 8) 8 else (b + 8) % 2 ^ (64 : Nat)) []
          else if byte b 8 = nil then .fin 1 nil []
          else if byte (b + 16) 8 = w.key then .fin 0 (if fn = 0 then byte (b + 24) 8 else (b + 24) % 2 ^ (64 : Nat)) []
          else if byte (b + 16) 8 = nil then .fin 1 nil [] else if 2 ^ w.p1 ≤ j + 1 then .fin 1 nil [] else .bucket (j + 1))) ∧
      (w.kind = .kvb → w.pos = .dir →
        let o := (w.root + 8 * (w.key / 2 ^ (w.p1 % 32) / 2 ^ (w.p1 / 2 ^ (8 : Nat) % 32))) % 2 ^ (64 : Nat)
        o % 8 = 0 → inside o → goes (if byte o 8 = nil then .fin 1 nil [] else .page (byte o 8))) ∧
      (∀ e, w.kind = .kvb → w.pos = .page e →
        let o := (e + 8 * (w.key / 2 ^ (w.p1 % 32) % 2 ^ (w.p1 / 2 ^ (8 : Nat) % 32))) % 2 ^ (64 : Nat)
        o % 8 = 0 → inside o →
        goes (if byte o 8 = nil then .fin 1 nil []
          else .fin 0 ((byte o 8 + w.key % 2 ^ (w.p1 % 32) * (w.p1 / 2 ^ (32 : Nat) % 2 ^ (32 : Nat))) % 2 ^ (64 : Nat)) [])) ∧
      (∀ depth d p, w.kind = .tree depth → w.pos = .node d p → p % 32 = 0 → inside p → goes (child d (byte (p + 8) 8) depth 1)) ∧
      (∀ depth d k p, w.kind = .tree depth → w.pos = .sib d k p → p % 32 = 0 → inside p → goes (child d (byte (p + 16) 8) depth (k + 1))) ∧
      (∀ depth p, w.kind = .tree depth → w.pos = .last p → p % 32 = 0 → inside p → goes (.fin 0 p (bytesAt s.banks (w.base + p) 32))) ∧
      (∀ wt given h v, w.kind = .rwalk wt given → w.pos = .rnode h v → v % 32 = 0 → inside v →
        let e := byte v 8
        let deg := byte (v + 8) 4
        goes (if deg = 0 then .fin 2 v [] else if wt then .rsum h v e deg else .rpick h v ((e + 8 * (draw given h * deg / 2 ^ (24 : Nat))) % 2 ^ (64 : Nat)))) ∧
      (∀ wt given h v e deg, w.kind = .rwalk wt given → w.pos = .rsum h v e deg →
        let o := (e + 16 * (deg - 1) + 8) % 2 ^ (64 : Nat)
        o % 4 = 0 → inside o →
        goes (if byte o 4 = 0 then .fin 2 v [] else near h v e 0 (deg - 1) (draw given h * byte o 4 / 2 ^ (24 : Nat)))) ∧
      (∀ wt given h v e lo hi t, w.kind = .rwalk wt given → w.pos = .rbin h v e lo hi t →
        let o := (e + 16 * ((lo + hi) / 2) + 8) % 2 ^ (64 : Nat)
        o % 4 = 0 → inside o →
        goes (if t < byte o 4 then near h v e lo ((lo + hi) / 2) t else near h v e ((lo + hi) / 2 + 1) hi t)) ∧
      (∀ wt given h v o, w.kind = .rwalk wt given → w.pos = .rpick h v o → o % 8 = 0 → inside o → goes (hop (h + 1) (byte o 8))) ∧
      (∀ off size, w.need = some (off, size) → (off % size ≠ 0 ∨ ¬ inside off) → answers (.walkSectorReturn w.id false) s fun u =>
        ∃ x, u.walks = x :: rest ∧ x.pos = .fin 4 off [] ∧ x.reads = w.reads ∧ u.banks = s.banks) ∧
      (∀ off size err, w.need = some (off, size) → off % size = 0 → inside off →
        (err = true ∨ s.errorLine ((w.base + off / 32 * 32) / 128) = true) → answers (.walkSectorReturn w.id err) s fun u =>
        ∃ x, u.walks = x :: rest ∧ x.pos = .fin 5 (off / 32 * 32) [] ∧ x.reads = w.reads + 1 ∧ u.banks = s.banks)) ∧
    (w.maxstep ≤ w.reads → w.need ≠ none → exec (.walkSectorReturn w.id false) s = .next s ∧
      answers (.walkStepLimit w.id) s fun u => ∃ x y, u.walks = x :: rest ∧ x.pos = .fin 3 y [] ∧ u.banks = s.banks ∧
        (∀ p h, w.pos = .list p h → y = p) ∧ (∀ j, w.pos = .bucket j → y = nil) ∧ (w.pos = .dir → y = nil) ∧ (∀ e, w.pos = .page e → y = nil) ∧
        (∀ d p, w.pos = .node d p → y = p) ∧ (∀ d k p, w.pos = .sib d k p → y = p) ∧ (∀ p, w.pos = .last p → y = p) ∧
        (∀ h v, w.pos = .rnode h v → y = v) ∧ (∀ h v o, w.pos = .rpick h v o → y = v) ∧ (∀ h v e deg, w.pos = .rsum h v e deg → y = v) ∧
        (∀ h v e lo hi t, w.pos = .rbin h v e lo hi t → y = v)) ∧
    ∀ st value record, w.pos = .fin st value record → s.isFrozen w.core = false → s.weaveNo w.core = w.weave → w.slot < 32 →
      let out : List Byte := if w.mem = true ∧ st = 0 then (match w.kind with
        | .tree _ => record
        | _ => bytesOfNum 8 value) else []
      ((s.core w.core).issued = true → exec (.walkSlotFull w.id) s = .next s) ∧
      ((s.core w.core).issued = false → answers (.walkSlotFull w.id) s fun u =>
        u.walks = rest ∧ (u.core w.core).retSlot w.slot = { st := .full, value := BitVec.ofNat 64 value, status := BitVec.ofNat 64 (2 ^ (16 : Nat) * w.reads + st), ret := (w.base + w.ret, out.length) } ∧
        (∀ n, n ≠ w.slot → (u.core w.core).retSlot n = (s.core w.core).retSlot n) ∧ u.banks = setBytes s.banks (w.base + w.ret) out))

/-! The fabric and the homes (R122 to R139, R374 to R378). -/

/-- R375, R376, R378: an aligned fabric access whose address translates, into any package and outside the device registers, enters its task's queue;
`gld` and `gatom` park their task until the reply, `gst` and a release `gnfy` go on; a relaxed `gnfy` sends its signal at once. A misaligned
access is DATA_ALIGN, and an event operand with high bits traps as R218 says. A `gst` is precise (R222): MIXED_SIZE and a line of the error-address
table trap at it (R136, R145). That the line and the kept size are tested, and the size marked, as the `gst` issues, while R145 puts that size at
the home slice, is the model's reading, log entries 16 and 106. -/
def Obligations.FabricAccessesEnterTheQueues : Prop :=
  ∀ (h : CHdr) (sx : Bool) (op size d a b off : Nat) (s : State) (c t pa : Nat) (nc : Bool), off < 2 ^ (28 : Nat) → s.cur = .task c t →
    let n := 2 ^ size
    let ea := s.reg c t a + (BitVec.ofNat 28 off).signExtend 64
    let at_ := s.reg c t a
    let v := (s.reg c t b).toNat + (if size = 4 then 2 ^ (64 : Nat) * (s.reg c t (b + 1)).toNat else 0)
    let cells (w : Nat) : List Host.Cell := cellsFrom pa (bytesOfNum n w)
    let reach (p : Perm) (x : Word) : Prop := x.toNat % n = 0 ∧ translate (s.core c).seg p x.toNat = .ok pa nc ∧ inDev pa = false
    let fresh (kind : AKind) (va : Word) (dest : Dest) (data : List Host.Cell) : Access :=
      { freshAccess h kind .fabric va.toNat pa n dest data with nc, scope := scopeOf h 5 }
    let waits (x : Access) (i : Instr) (u : State) : Prop :=
      (u.core c).accs = (s.core c).accs ++
        [{ x with id := s.nextId, party := t, word := (s.task c t).pc.toNat, icount := (s.task c t).icount }] ∧
      (u.task c t).st = .parked ∧ (u.task c t).pc = (s.task c t).pc ∧ (∀ r, u.reg c t r = s.reg c t r) ∧ bytesKept s u ∧
      ∃ w, (u.task c t).wait = some w ∧ w.what = .reply s.nextId ∧ w.instr = i ∧ w.len = ctlLen h 2
    (reach .rd ea → answers (.gld h sx size d a off) s (waits (fresh .load ea (.reg d sx) []) (.gld h sx size d a off))) ∧
    (reach .wr ea → issuesAccess (.gst h size a b off) s c t (ctlLen h 2) (fresh .store ea .none (cells v))) ∧
    (op < 9 → reach .at_ at_ → answers (.gatom h op size d a b) s
      (waits (fresh (.atom op) at_ (.reg d false) (cells (s.reg c t b).toNat)) (.gatom h op size d a b))) ∧
    (reach .at_ at_ → answers (.gatom h 9 size d a b) s
      (waits { fresh (.atom 0) at_ (.reg d false) (cells (s.reg c t b).toNat) with cmp := some ((s.reg c t d).toNat % 2 ^ (8 * n)) }
        (.gatom h 9 size d a b))) ∧
    (handles s c t → ea.toNat % n ≠ 0 → answers (.gld h sx size d a off) s (entered s c t 6 (s.task c t).pc ea) ∧
      answers (.gst h size a b off) s (entered s c t 6 (s.task c t).pc ea)) ∧
    (handles s c t → at_.toNat % n ≠ 0 → answers (.gatom h op size d a b) s (entered s c t 6 (s.task c t).pc at_)) ∧
    (at_.toNat < 2 ^ (18 : Nat) → relOf h = false → answers (.gnfy h a) s fun u =>
      (∃ g, u.signals = s.signals ++ [g] ∧ g.core = at_.toNat / 2 ^ (5 : Nat) ∧ g.slot = at_.toNat % 2 ^ (5 : Nat) ∧ g.acq = none ∧ g.weave = (s.weaveOf c).map fun w => w.id) ∧
      wentOn s c t (ctlLen h 1) { u with signals := s.signals, nextId := s.nextId }) ∧
    (at_.toNat < 2 ^ (18 : Nat) → relOf h = true → answers (.gnfy h a) s fun u =>
      ∃ x, (u.core c).accs = (s.core c).accs ++ [x] ∧ x.kind = .notify at_.toNat ∧ x.rel = true ∧ x.scope = scopeOf h 5 ∧ x.space = .fabric ∧ x.party = t ∧
        u.signals = s.signals ∧ (u.task c t).pc = (s.task c t).pc + BitVec.ofNat 64 (ctlLen h 1)) ∧
    (handles s c t → 2 ^ (18 : Nat) ≤ at_.toNat → answers (.gnfy h a) s (entered s c t 19 (s.task c t).pc at_))

/-- R122 to R124: a request at its target passes where the lowest-numbered window entry that holds all its bytes for its context grants its
permission. Another load or atomic is refused with the package's hint; another store enters the remote-store log with its address, data, context,
size, cause, source and sequence number, or is refused where the log is full. R125: behind a logged store of its source to the same die a store is
logged too, whatever its window, and a load or atomic of its bytes is refused. R123: a refusal is sent again 64 times its hint later, unless the
hint is 0 or the retries run out, when a task's `gst` is REMOTE_ACCESS for task 0. R376: a reply brings its value, 16 bytes to a register pair, and wakes its task; a load into g0
leaves every register. R374: a request that is sent has the plane of its core and die. The model's choices here: SEQ is one count of the core over
every log, log entry 96; the head counts on, and its number modulo 65,536 places an entry, log entry 101; the package's one hint
answers both its dies, log entry 80. -/
def Obligations.RequestsAreCheckedAtTheirTarget : Prop :=
  ∀ (s : State) (c id ecc : Nat) (a : Access), (s.core c).access id = some a → a.space = .fabric →
    let k := s.core c
    let die := a.pa / 2 ^ 41
    let off := a.pa % 2 ^ 41
    let log := tget {} s.logs (a.pa / 2 ^ 42)
    let perm : Perm := match a.kind with
      | .load => .rd
      | .atom _ => .at_
      | _ => .wr
    let finds (w : Word) : Prop := ∃ pre post, s.windowsOf die = pre ++ w :: post ∧ winMatches w k.ctxno off a.n = true ∧
      ∀ x ∈ pre, winMatches x k.ctxno off a.n = false
    let passes : Prop := ∃ w, finds w ∧ winGrants w perm = true
    let kind (load store atom : Prop) : Prop := match a.kind with
      | .load => load
      | .store => store
      | .atom _ => atom
      | _ => False
    let refused (u : State) : Prop := (u.core c).access id = some { a with stage := .refused, hint := log.wctl, resendAt := 0 } ∧ bytesKept s u
    (a.stage = .sent → k.mayArrive a = true → ¬ passes → kind True False True → answers (.fabricRequestArrival c id ecc) s refused) ∧
    (a.stage = .sent → k.mayArrive a = true → kind True False True → (∃ e ∈ s.loggedTo c die, e.1 < a.pa + a.n ∧ a.pa < e.1 + e.2) →
      answers (.fabricRequestArrival c id ecc) s refused) ∧
    (a.stage = .sent → k.mayArrive a = true → ¬ passes → a.kind = .store → a.xfer ≠ 0 → answers (.fabricRequestArrival c id ecc) s refused) ∧
    (a.stage = .sent → k.mayArrive a = true → (¬ passes ∨ s.loggedTo c die ≠ []) → a.kind = .store → a.xfer = 0 → 65536 ≤ log.head - log.tail →
      answers (.fabricRequestArrival c id ecc) s refused) ∧
    (a.stage = .sent → k.mayArrive a = true → (¬ passes ∨ s.loggedTo c die ≠ []) → a.kind = .store → a.xfer = 0 → log.head - log.tail < 65536 →
      memoryOk s → log.base % 32 = 0 → a.n = 8 → (∃ bs, bs.length = 8 ∧ a.data = cellsFrom a.pa bs) → a.pa < 2 ^ 48 → c < 8192 →
      answers (.fabricRequestArrival c id ecc) s fun u =>
        let e := log.base + 32 * (log.head % 65536)
        let at_ (o n : Nat) : Nat := numBytes (u.homeBytes (e + o) n)
        (∃ x, (u.core c).access id = some x ∧ x.stage = .logged ∧ x.seq = k.logSeq % 65536) ∧ (u.core c).logSeq = k.logSeq + 1 ∧
        tget {} u.logs (a.pa / 2 ^ 42) = { log with head := log.head + 1 } ∧ at_ 0 8 = a.pa ∧ u.homeBytes (e + 8) 8 = a.data.map Prod.snd ∧
        at_ 16 8 = 0 ∧ at_ 24 2 = k.ctxno % 2 ^ 16 ∧ at_ 26 1 = 3 ∧ 
        (s.loggedTo c die ≠ [] → at_ 27 1 = 2) ∧ (s.loggedTo c die = [] → (∃ w, finds w) → at_ 27 1 = 1) ∧
        (s.loggedTo c die = [] → (¬ ∃ w, finds w) → at_ 27 1 = 0) ∧ at_ 28 2 = c ∧ at_ 30 2 = k.logSeq % 65536 ∧
        (tget {} u.pkgs (a.pa / 2 ^ 42)).mgmtint.testBit 0 = true) ∧
    (a.stage = .refused → a.resendAt = 0 → k.haltBuf = [] → s.isFrozen c = false →
      let again : Prop := a.hint ≠ 0 ∧ a.tries + 1 < k.rctl.toNat % 2 ^ 16
      (again → answers (.fabricRefusal c id) s fun u =>
        (u.core c).access id = some { a with tries := a.tries + 1, resendAt := s.time + 64 * a.hint } ∧ bytesKept s u) ∧
      (¬ again → a.party < 8 → a.kind = .store → s.debugOn c = false → answers (.fabricRefusal c id) s fun u =>
        (u.core c).accs = dropFirst (fun x => x.id == id) k.accs ∧
        (u.core c).afaults = k.afaults ++
          [{ strand := 0, code := 15, task := a.party, tval := BitVec.ofNat 64 a.va, cycle := k.cycle, word := a.word, va := a.va % 2 ^ 64 }] ∧ bytesKept s u)) ∧
    ((∀ g i, a.kind ≠ .contribution g i) → a.stage = .refused → a.resendAt ≠ 0 → a.resendAt ≤ s.time → s.isFrozen c = false →
      answers (.fabricRetryResend c id) s fun u => (u.core c).access id = some { a with stage := .sent, resendAt := 0, plane := (c % 64 + 4 * (die / 2) + die % 2) % 16, sentNo := s.nextId } ∧ u.nextId = s.nextId + 1 ∧ bytesKept s u) ∧
    (a.stage = .refused → s.time < a.resendAt → exec (.fabricRetryResend c id) s = .next s) ∧
    (∀ d sx w, a.stage = .performed → a.fault = 0 → a.acq = false → k.haltBuf = [] → s.isFrozen c = false → a.dest = .reg d sx → a.party < 8 →
      s.waitOf c a.party = some w → w.what = .reply id → a.val ≠ [] →
      let lo := numBytes a.val
      let woken (u : State) : Prop := (u.task c a.party).st = .ready ∧ (u.task c a.party).wait = none ∧
        (u.task c a.party).pc = (s.task c a.party).pc + BitVec.ofNat 64 w.len ∧ (u.core c).accs = dropFirst (fun x => x.id == id) k.accs ∧ bytesKept s u
      (a.val.length ≤ 8 → answers (.fabricReply c id) s fun u =>
        u.reg c a.party d = (if d = 0 then 0#64 else if sx then (BitVec.ofNat (8 * a.val.length) lo).signExtend 64 else BitVec.ofNat 64 lo) ∧
        (∀ r, r ≠ d → u.reg c a.party r = s.reg c a.party r) ∧ woken u) ∧
      (a.val.length = 16 → d % 2 = 0 → d ≠ 0 → answers (.fabricReply c id) s fun u =>
        u.reg c a.party d = BitVec.ofNat 64 lo ∧ u.reg c a.party (d + 1) = BitVec.ofNat 64 (lo / 2 ^ (64 : Nat)) ∧
        (∀ r, r ≠ d → r ≠ d + 1 → u.reg c a.party r = s.reg c a.party r) ∧ woken u)) ∧
    (a.stage = .performed → a.fault = 0 → a.acq = false → k.haltBuf = [] → s.isFrozen c = false → a.dest = .none → a.party < 8 → (s.task c a.party).st = .ready →
      answers (.fabricReply c id) s fun u => (u.core c).accs = dropFirst (fun x => x.id == id) k.accs ∧ (u.core c).tasks = k.tasks ∧ bytesKept s u)

/-- R130, R132, R204, R205, R376: an access that its home performs, a core's own or one that came over the fabric: a load finds the bytes as the home
holds them, a store writes exactly its bytes there, an atomic takes the old number and leaves its operation's result, a `cas` writes only where
it matches. Here for requesters whose L1 holds no copy and has room (R107), and homes whose sectors hold 32 bytes. -/
def Obligations.AccessesArePerformedAtTheirHome : Prop :=
  ∀ (s : State) (c id : Nat) (a : Access), memoryOk s → (∀ l, s.l1Line c l = none) →
    (s.core c).access id = some a → s.debugOn c = false → s.errorLine (a.pa / 128) = false → inDev a.pa = false → a.acq = false → a.rel = false →
    ((s.core c).earlier a).all (fun e => e.kind != .store) = true →
    let own : Prop := a.space = .virt ∧ a.stage = .queued ∧ s.isNear c a = false ∧ (s.core c).mayPerform a = true ∧ s.l1Room c a = true
    let remote : Prop := a.space = .fabric ∧ a.stage = .sent ∧ (s.core c).mayArrive a = true ∧ s.loggedTo c (a.pa / 2 ^ 41) = [] ∧
      s.windowCheck (a.pa / 2 ^ 41) (s.core c).ctxno a.perm (a.pa % 2 ^ 41) a.n = none
    let old := numBytes (s.homeBytes a.pa a.n)
    let m := 2 ^ (8 * a.n)
    let sg (x : Nat) : Int := (BitVec.ofNat (8 * a.n) x).toInt
    let y := numBytes (a.data.map Prod.snd) % m
    let result (op : Nat) : Nat :=
      if op = 0 then y else if op = 1 then (old + y) % m else if op = 2 then old &&& y else if op = 3 then old ||| y else if op = 4 then old ^^^ y
      else if op = 5 then (if sg y < sg old then y else old) else if op = 6 then (if sg old < sg y then y else old)
      else if op = 7 then min old y else max old y
    let fixed (bs : List Byte) (u : State) : Prop := ∃ x, (u.core c).access id = some x ∧ x.stage = .performed ∧ x.val = bs ∧ x.fault = 0
    let left (v : Nat) (u : State) : Prop :=
      numBytes (u.homeBytes a.pa a.n) = v ∧ ∀ x, (x < a.pa ∨ a.pa + a.n ≤ x) → u.homeByte x = s.homeByte x
    ∀ i, ((i = .homeRequest c id 0 ∧ own) ∨ (i = .fabricRequestArrival c id 0 ∧ remote)) →
      (a.kind = .load → answers i s fun u => fixed (s.homeBytes a.pa a.n) u ∧ ∀ x, u.homeByte x = s.homeByte x) ∧
      (∀ bs, a.kind = .store → bs.length = a.n → 0 < a.n → a.data = cellsFrom a.pa bs → answers i s fun u =>
        u.homeBytes a.pa a.n = bs ∧ (∀ x, (x < a.pa ∨ a.pa + a.n ≤ x) → u.homeByte x = s.homeByte x) ∧
        (own → (u.core c).access id = none ∨ ∃ y ∈ (s.core c).accs, y ≠ a ∧ y.id = id) ∧ (remote → fixed [] u)) ∧
      (∀ op, a.kind = .atom op → 0 < a.n → op < 9 → a.cmp = none → answers i s fun u => fixed (bytesOfNum a.n old) u ∧ left (result op) u) ∧
      (∀ x, a.kind = .atom 0 → 0 < a.n → a.cmp = some x → x < m → answers i s fun u =>
        fixed (bytesOfNum a.n old) u ∧ left (if old = x then y else old) u)

/-- R125, R132, R136, R151, R22, R295, R39, R41, R154, R185, R112, R507: the device events. An eviction of a sector from its home leaves every byte
readable as before; where it meets a lasting error, a clean copy is dropped and counted as corrected, and of a dirty one the line enters the
error-address table; an acknowledgement of a logged store ends its access or names the fault, once it has come for each of the store's entries.
What the host writes acts while its package answers, and does nothing else. A write of 0 clears an error entry, and the line's bytes are then those
held in HBM; that any other value changes nothing is the model's choice, log entry 104. Task 0 of a job with its strands held writes a ring
descriptor, which empties the ring and its claim. A configuration store sets a barrier that nobody waits on; where a task waits it is BARRIER_CONFIG,
and on a barrier that is not the weave's BARRIER_ACCESS. SAVEPOOL and SAVECNT are written while the die is idle; a notify sets a mapped slot's write
index; a plain register is written, and a read-only one stays. -/
def Obligations.DeviceRegistersAreWritten : Prop :=
  ∀ (s : State) (d n p c t line : Nat) (v : Word) (b : BarId) (a : Access),
    (memoryOk s → answers (.cacheEviction true c line false) s fun u =>
      (∀ x, u.homeByte x = s.homeByte x) ∧ tfind u.homes line = none ∧ (∀ j, j ≠ line → tfind u.homes j = tfind s.homes j) ∧ u.cores = s.cores) ∧
    (∀ h, memoryOk s → tfind s.homes line = some h → answers (.cacheEviction true c line true) s fun u =>
      let m := tget {} s.memerr (32 * line / 2 ^ 41)
      let m' := tget {} u.memerr (32 * line / 2 ^ 41)
      tfind u.homes line = none ∧ u.banks = s.banks ∧ u.cores = s.cores ∧
      (h.dirty = false → m' = { m with counts := countUp m.counts 0 32 1 }) ∧
      (h.dirty = true → m'.counts = countUp m.counts 48 16 1 ∧
        ∀ i, i < 16 → tfind m.table i = none → (∀ j, j < i → tfind m.table j ≠ none) → tfind m'.table i = some (128 * (line / 4)))) ∧
    ((tfind (s.core c).l1 line = none ∨ ∃ x, tfind (s.core c).l1 line = some x ∧ x.dirty = 0) → answers (.cacheEviction false c line false) s fun u =>
      (u.core c).l1 = tdel (s.core c).l1 line ∧ u.homes = s.homes ∧ u.banks = s.banks ∧ (∀ e, e ≠ c → u.core e = s.core e)) ∧
    (∀ rest ack fault, (ack = Instr.replayWrite p v ∧ fault = 0 ∨ ack = Instr.discardWrite p v ∧ fault = 16) →
      (s.hostUp p = false → exec ack s = .next s) ∧
      (s.hostUp p = true → s.smps = [] → c = v.toNat / 2 ^ 16 % 2 ^ 13 → (s.core c).accs = a :: rest → a.stage = .logged → a.pa / 2 ^ 42 = p → a.fault = 0 →
        (a.seq = v.toNat % 2 ^ 16 → a.also = [] →
          answers ack s fun u => (u.core c).accs = { a with stage := .performed, fault } :: rest ∧ bytesKept s u) ∧
        (∀ seq more, a.seq = v.toNat % 2 ^ 16 → a.also = seq :: more →
          answers ack s fun u => (u.core c).accs = { a with seq, also := more, fault } :: rest ∧ bytesKept s u))) ∧
    (∀ e, memoryOk s → (∀ k, (s.core k).l1.Pairwise fun x y => x.1 < y.1) → s.hostUp (d / 2) = true → v = 0#64 → s.errEntry d n = some e → answers (.errorEntryClear d n v) s fun u =>
      (tget {} u.memerr d).table = tdel (tget {} s.memerr d).table n ∧ (tget {} u.memerr d).counts = (tget {} s.memerr d).counts ∧ u.banks = s.banks ∧
      (∀ x, x / 128 = e / 128 → u.homeByte x = byteAt s.banks x) ∧ (∀ x, x / 128 ≠ e / 128 → u.homeByte x = s.homeByte x) ∧
      ∀ k, tfind (u.core k).l1 (e / 128) = none) ∧
    (v ≠ 0#64 ∨ s.errEntry d n = none ∨ s.hostUp (d / 2) = false → exec (.errorEntryClear d n v) s = .next s) ∧
    (n < 32 → (s.core c).job ≠ none → (s.core c).data.claims.Pairwise (fun x y => x.1 < y.1) → (∀ e, 1 ≤ e → e ≤ 3 → (s.strand c e).named = true → (s.strand c e).held = true ∧ (s.strand c e).stopped = false) →
      answers (.rdescWrite c 0 n v) s fun u =>
        let e := (u.core c).data
        let e₀ := (s.core c).data
        (∀ m, m ≠ n → e.ring m = e₀.ring m ∧ tfind e.claims m = tfind e₀.claims m ∧ ∀ j, j < 256 → e.slot (256 * m + j) = e₀.slot (256 * m + j)) ∧
        e.ring n = v &&& ~~~ 62#64 ∧ tfind e.claims n = none ∧ (∀ j, j < 256 → e.slot (256 * n + j) = .empty) ∧
        (u.core c).tasks = (s.core c).tasks ∧ onlyCore s c u ∧ bytesKept s u) ∧
    (t ≠ 0 → exec (.rdescWrite c t n v) s = .next s) ∧
    (s.configStore c t b = none → s.barWaited b = false → answers (.barrierConfigWrite b c t v) s fun u =>
      u.barrier b = { s.barrier b with parties := v.toNat / 2 ^ 44 % 2 ^ 20, bytes := v.toNat % 2 ^ 43 } ∧ u.cores = s.cores ∧ bytesKept s u) ∧
    (s.configStore c t b = none → s.barWaited b = true → exec (.barrierConfigWrite b c t v) s = .next s) ∧
    (s.configStore c t b = some a →
      let left := s.endAccess c a.id
      let faults (code : Nat) : Prop := t < 8 → a.xfer = 0 → a.dest = .none → handles s c t →
        answers (.barrierConfigWrite b c t v) s fun u => entered left c t code (BitVec.ofNat 64 a.word) (BitVec.ofNat 64 a.va) u ∧ ∀ x, u.barrier x = s.barrier x
      (s.layerHeld c a = true → exec (.barrierConfigWrite b c t v) s = .next s) ∧
      (s.layerHeld c a = false → s.barAllocated c b = false → faults 13) ∧
      (s.layerHeld c a = false → s.barAllocated c b = true → s.barWaited b = true → faults 14) ∧
      (s.layerHeld c a = false → s.barAllocated c b = true → s.barWaited b = false → a.rel = false → answers (.barrierConfigWrite b c t v) s fun u =>
        u.barrier b = { s.barrier b with parties := v.toNat / 2 ^ 44 % 2 ^ 20, bytes := v.toNat % 2 ^ 43 } ∧ u.cores = left.cores ∧ bytesKept s u)) ∧
    (s.hostUp (d / 2) = true → s.dieBusy d = false →
      answers (.savepoolWrite d true v) s (fun u => (u.disp d).savecnt = BitVec.ofNat 64 (v.toNat % 2 ^ 10) ∧
        (u.disp d).savepool = (s.disp d).savepool ∧ u.cores = s.cores) ∧
      answers (.savepoolWrite d false v) s fun u => (u.disp d).savepool = BitVec.ofNat 64 (v.toNat / 2 ^ 23 % 2 ^ 25 * 2 ^ 23) ∧
        (u.disp d).savecnt = (s.disp d).savecnt ∧ u.cores = s.cores) ∧
    (s.hostUp (d / 2) = false ∨ s.dieBusy d = true → exec (.savepoolWrite d true v) s = .next s ∧ exec (.savepoolWrite d false v) s = .next s) ∧
    (s.hostUp (d / 2) = true →
      let q := s.qslot d n
      let w := v.toNat % 2 ^ 32
      (q.st = .mapped → answers (.notifyWrite d n v) s fun u =>
        u.qslot d n = { q with wridx := w, st := if 2 ^ (q.qcfg.toNat / 2 ^ 32 % 2 ^ 5) < (w + 2 ^ 32 - q.rdidx) % 2 ^ 32 then .overrun else .mapped } ∧
        u.cores = s.cores ∧ bytesKept s u) ∧
      (q.st = .overrun → answers (.notifyWrite d n v) s fun u => u.qslot d n = { q with wridx := w } ∧ u.cores = s.cores ∧ bytesKept s u) ∧
      (q.st = .free → q.unmapped = none → answers (.notifyWrite d n v) s fun u =>
        u.qslot d n = q ∧ (u.disp d).dstat = countUp (s.disp d).dstat 0 16 1)) ∧
    (s.hostUp (d / 2) = false → exec (.notifyWrite d n v) s = .next s) ∧
    (p < 64 →
      (s.hostUp p = true → answers (.deviceRegisterWrite (2 ^ 42 * p + 0x4003000000) v) s fun u =>
        (tget {} u.memerr (2 * p)).counts = v ∧ (tget {} u.memerr (2 * p)).table = (tget {} s.memerr (2 * p)).table ∧ bytesKept s u) ∧
      (s.hostUp p = true → exec (.deviceRegisterWrite (2 ^ 42 * p + 0x4002000008) v) s = .next s) ∧
      (s.hostUp p = false → exec (.deviceRegisterWrite (2 ^ 42 * p + 0x4003000000) v) s = .next s))

/-! Merge and reduce groups (R379 to R405). -/

/-- R380, R382 to R385, R394, R395: `mg.cfg`, `mg.rd` and `qcast` park their task for the switch die, once the record lies in order and the handle
names a group of the task's weave; a contribution joins its task's stores with its handle, its index, its address and its data, and the task goes
on. Else FABRIC_COMMAND, with TVAL the register that R380 names, or DATA_ALIGN for the contribution's address. R381 to R383: the switch die's
answers. A record that breaks R381 is BAD_RECORD and one for which no unit has a free group and room BUSY; else the group opens, idle, on the
first unit in the order of R382 with room, a merge group with the OUT and the barrier that its command has translated. A free ends an armed query
with CANCELLED, or with TIMEOUT where TMO has run out (R402), and takes any other group that is not completing away; that a free of a completing
group only marks it freed, and leaves the status it is completing with, is the model's reading, log entry 84. `mg.rd` gives the group's status
word. -/
def Obligations.GroupCommandsBeginAndSwitchDiesAnswer : Prop :=
  (
  ∀ (h : CHdr) (ty d a b : Nat) (s : State) (c t : Nat), s.cur = .task c t →
    let pc := (s.task c t).pc
    let va := s.reg c t a
    let mine (H : Nat) (g : Grp) : Prop := s.group H = some g ∧ g.weave = s.weaveNo c ∧ (s.core c).job.isSome = true ∧ g.freed = false
    let waits (i : Instr) (len : Nat) (p : Wait → Prop) : Prop := answers i s fun u =>
      (u.task c t).st = .parked ∧ (u.task c t).pc = pc ∧ (∀ r, u.reg c t r = s.reg c t r) ∧ onlyTask s c t u ∧ bytesKept s u ∧
      ∃ w, (u.task c t).wait = some w ∧ w.what = .answer ∧ w.instr = i ∧ w.len = len ∧ p w
    let bad (i : Instr) (code : Nat) (v : Word) : Prop := handles s c t → answers i s (entered s c t code pc v)
    (∀ bs ps, va.toNat % 64 = 0 → s.readBlock c t va.toNat 64 = .ok bs →
      let w (i : Nat) : Nat := numBytes ((bs.drop (8 * i)).take 8)
      let places : Prop := w 4 % 4 = 0 ∧ s.blockPlace c (w 0) (64 + 4 * (w 1 % 2 ^ 9)) .wr = .ok ps
      let opens (p : Wait → Prop) : Prop := waits (.mgCfgOpen h d a) (ctlLen h 1) fun x => x.blk = bs ∧ p x
      (w 4 % 4 ≠ 0 → opens fun _ => True) ∧
      (places → w 3 = 0 → opens fun x => x.out = ps ∧ x.bar = none ∧ x.res2 = 0#64) ∧
      (∀ bar, places → w 3 ≠ 0 → s.checkBarrier c (w 3) = .ok bar → opens fun x => x.out = ps ∧ x.bar = some bar ∧ x.res2 = 2#64) ∧
      (∀ code, places → w 3 ≠ 0 → s.checkBarrier c (w 3) = .fault code → opens fun x => x.res2 = 1#64)) ∧
    (va.toNat % 64 ≠ 0 → bad (.mgCfgOpen h d a) 39 va ∧ bad (.qcast h d a b) 39 va) ∧
    ((∃ g, mine (s.reg c t b).toNat g) → waits (.mgCfgFree h d b) (ctlLen h 1) (fun x => x.res = s.reg c t b) ∧
      waits (.mgRd h d b) (ctlLen h 1) fun x => x.res = s.reg c t b) ∧
    ((¬ ∃ g, mine (s.reg c t b).toNat g) → bad (.mgCfgFree h d b) 39 (s.reg c t b) ∧ bad (.mgRd h d b) 39 (s.reg c t b)) ∧
    (va.toNat % 64 = 0 → ((∃ g, mine (s.reg c t b).toNat g ∧ g.reduce = false) → waits (.qcast h d a b) (ctlLen h 2) fun _ => True) ∧
      ((¬ ∃ g, mine (s.reg c t b).toNat g ∧ g.reduce = false) → bad (.qcast h d a b) 39 (s.reg c t b))) ∧
    ∀ i t', (i = Instr.rstAdd h ty d a b ∧ t' = ty ∧ ty < 3) ∨ (i = Instr.rstMax h ty d a b ∧ t' = 3 + ty ∧ ty < 5) →
      let x := (s.reg c t d).toNat
      let H := x % 2 ^ 14
      let idx := x / 2 ^ 16 % 2 ^ 16
      let n := if t' = 1 ∨ t' = 4 ∨ t' = 7 then 8 else 4
      let clean : Prop := x / 2 ^ 14 % 4 = 0 ∧ x / 2 ^ 32 = 0
      let takes : Prop := ∃ g, mine H g ∧ g.reduce = true ∧ g.ty = t' ∧ idx < g.nelem
      (∀ pa nc, clean → va.toNat % n = 0 → takes → translate (s.core c).seg .wr va.toNat = .ok pa nc → inDev pa = false →
        exec i s = .next ((s.taskAccess c t { freshAccess h (.contribution H idx) .fabric va.toNat pa n .none
          (cellsFrom pa (bytesOfNum n (s.reg c t b).toNat)) with scope := scopeOf h 5 }).goOn c t (ctlLen h 2))) ∧
      (¬ clean → bad i 39 (s.reg c t d)) ∧ (clean → va.toNat % n ≠ 0 → bad i 6 va) ∧
      (clean → va.toNat % n = 0 → ¬ takes → bad i 39 (s.reg c t d)) ∧
      (∀ pa nc, clean → va.toNat % n = 0 → takes → translate (s.core c).seg .wr va.toNat = .ok pa nc → inDev pa = true → bad i 8 va)) ∧
  (
  ∀ (h : CHdr) (d a : Nat) (s : State) (c t : Nat) (w : Wait), s.waitOf c t = some w → w.what = .answer → s.isFrozen c = false → s.tornWeave (s.weaveNo c) = false →
    let answered (v : Nat) (u : State) : Prop :=
      u.reg c t d = (if d = 0 then 0#64 else BitVec.ofNat 64 v) ∧ (∀ r, r ≠ d → u.reg c t r = s.reg c t r) ∧
      (u.task c t).st = .ready ∧ (u.task c t).pc = (s.task c t).pc + BitVec.ofNat 64 w.len ∧ bytesKept s u
    let room (n size : Nat) : Prop :=
      ((s.groups.filter fun e => e.1 / 16 == n).map fun e => e.2.size).sum + size ≤ 2 ^ 20 ∧ ∃ i, i < 16 ∧ s.group (16 * n + i) = none
    let order (n : Nat) : Nat := (n / 64 + 16 - dieOf c % 16) % 16 * 64 + n % 64
    (w.instr = .mgCfgOpen h d a →
      let x (i : Nat) : Nat := numBytes ((w.blk.drop (8 * i)).take 8)
      let nelem := x 1 % 2 ^ 16
      let count := x 1 / 2 ^ 16 % 2 ^ 8
      let ty := x 1 / 2 ^ 24 % 8
      let e := if ty = 1 ∨ ty = 4 ∨ ty = 7 then 4 else 8
      let size := nelem / e * (64 + 8 * count)
      -- a reduce record
      let right : Prop := x 0 = 0 ∧ 1 ≤ nelem ∧ nelem ≤ 4096 ∧ nelem % e = 0 ∧ 1 ≤ count ∧ count ≤ 128 ∧ x 1 / 2 ^ 27 % 2 ^ 5 = 0 ∧
        x 1 / 2 ^ 48 = 0 ∧ x 2 < 2 ^ 9 ∧ x 3 = 0 ∧ x 4 = 1 ∧ x 5 = 0 ∧ x 6 = 0 ∧ x 7 = 0
      w.blk.length = 64 →
      (x 4 % 4 ≠ 0 → ¬ right → answers (.switchDieAnswer c t) s fun u => answered (2 ^ 17) u ∧ u.groups = s.groups) ∧
      (right → (∀ n, n < 1024 → ¬ room n size) → answers (.switchDieAnswer c t) s fun u => answered (2 ^ 16) u ∧ u.groups = s.groups) ∧
      (∀ n i, right → n < 1024 → i < 16 → room n size → (∀ m, m < 1024 → order m < order n → ¬ room m size) →
        s.group (16 * n + i) = none → (∀ j, j < i → s.group (16 * n + j) ≠ none) →
        answers (.switchDieAnswer c t) s fun u => answered (16 * n + i) u ∧ (∀ k, k ≠ 16 * n + i → u.group k = s.group k) ∧
          u.group (16 * n + i) = some
            { weave := s.weaveNo c, ctx := (s.core c).ctxno, reduce := true, size, tmo := x 1 / 2 ^ 32 % 2 ^ 16,
              nelem, count, ty, barno := x 2 % 2 ^ 8, ben := decide (x 2 / 2 ^ 8 % 2 = 1) }) ∧
      -- a merge record; its OUT and BAR were translated as the command read it
      (let dim := x 1 % 2 ^ 9
       let smax := x 1 / 2 ^ 16 % 2 ^ 11
       let right : Prop := x 0 % 64 = 0 ∧ 1 ≤ dim ∧ dim ≤ 256 ∧ 1 ≤ smax ∧ smax ≤ 1024 ∧ x 1 / 2 ^ 9 % 2 ^ 7 = 0 ∧ x 1 / 2 ^ 27 % 2 ^ 5 = 0 ∧
         x 1 / 2 ^ 48 = 0 ∧ x 2 / 2 ^ 18 % 2 ^ 45 = 0 ∧ x 4 = 0 ∧ x 5 = 0 ∧ x 6 = 0 ∧ x 7 = 0
       (x 4 % 4 = 0 → (¬ right ∨ w.res2 = 1#64) → answers (.switchDieAnswer c t) s fun u => answered (2 ^ 17) u ∧ u.groups = s.groups) ∧
       (right → w.res2 ≠ 1#64 → (∀ n, n < 1024 → ¬ room n (1024 * smax)) →
         answers (.switchDieAnswer c t) s fun u => answered (2 ^ 16) u ∧ u.groups = s.groups) ∧
       ∀ n i, right → w.res2 ≠ 1#64 → n < 1024 → i < 16 → room n (1024 * smax) →
         (∀ m, m < 1024 → order m < order n → ¬ room m (1024 * smax)) → s.group (16 * n + i) = none → (∀ j, j < i → s.group (16 * n + j) ≠ none) →
         answers (.switchDieAnswer c t) s fun u => answered (16 * n + i) u ∧ (∀ k, k ≠ 16 * n + i → u.group k = s.group k) ∧
           u.group (16 * n + i) = some
             { weave := s.weaveNo c, ctx := (s.core c).ctxno, reduce := false, size := 1024 * smax,
               tmo := x 1 / 2 ^ 32 % 2 ^ 16, evt := x 2, out := w.out, dim, smax, bar := w.bar })) ∧
    ∀ g, s.group w.res.toNat = some g → g.weave = s.weaveNo c → (s.core c).job.isSome = true → g.freed = false →
      (w.instr = .mgCfgFree h d a →
        (g.reduce = false → g.st = .armed →
          let late : Prop := g.tmo ≠ 0 ∧ 1000 * g.tmo ≤ g.elapsed ∧ s.weaveHalted g.weave = false
          ∀ st, (late ∧ st = 3 ∨ ¬ late ∧ st = 4) → answers (.switchDieAnswer c t) s fun u => answered 0 u ∧ (∀ k, k ≠ w.res.toNat → u.group k = s.group k) ∧
            u.group w.res.toNat = some { g with freed := true, st := .completing, status := 2 ^ 63 + 2 ^ 32 * g.gen + 2 ^ 12 * g.arr + st }) ∧
        (g.reduce = false → g.st = .completing → answers (.switchDieAnswer c t) s fun u => answered 0 u ∧
          u.group w.res.toNat = some { g with freed := true }) ∧
        (g.reduce = true ∨ g.st = .idle → answers (.switchDieAnswer c t) s fun u => answered 0 u ∧
          u.groups = tdel s.groups w.res.toNat)) ∧
      (w.instr = .mgRd h d a → answers (.switchDieAnswer c t) s fun u => u.groups = s.groups ∧
        let busy : Prop := g.st = .armed ∨ g.st = .completing
        ∃ st, (busy → st = if s.weaveHalted g.weave then 2 else 1) ∧ (¬ busy → st = 0) ∧
          answered (2 ^ 48 * g.gen + 2 ^ 32 * g.qtag + 2 ^ 30 * st + 2 ^ 28 * (if g.reduce then 1 else 0) + 2 ^ 17 * min 2047 g.arr + g.last) u))

/-- R388, R389, R394, R395: the answer of a `qcast`. A record out of order is FABRIC_COMMAND; else the group answers MAP_INVALID, STALE, MISFIT or
BUSY, in that order, and arms nothing, or it is armed with the next QTAG, and one message for each stripe leaves, in slot order: to its holder
with the number of its positions below LIMIT, or the masked partial where there is none. With NE = 0 nothing is read or sent. That the record and
the query, like the header and the entries of R395, are the bytes at their homes is the model's reading, log entry 81. -/
def Obligations.QueriesAreArmedAndMulticast : Prop :=
  ∀ (h : CHdr) (d a b : Nat) (s : State) (c t : Nat) (w : Wait) (rec_ hdr ents qb : List Byte) (g : Grp),
    let H := (s.reg c t b).toNat
    s.waitOf c t = some w → w.what = .answer → w.instr = .qcast h d a b → w.res2.toNat ≤ s.time → s.isFrozen c = false →
    s.tornWeave (s.weaveNo c) = false → s.group H = some g → g.weave = s.weaveNo c → (s.core c).job.isSome = true → g.freed = false → g.reduce = false →
    s.readHomes c t (s.reg c t a).toNat 64 = .ok rec_ →
    let r (i : Nat) : Nat := numBytes ((rec_.drop (8 * i)).take 8)
    let ne := r 1 / 2 ^ 32
    let e0 := r 1 % 2 ^ 32
    let answered (st : Nat) (g' : Grp) (u : State) : Prop :=
      u.reg c t d = (if d = 0 then 0#64 else BitVec.ofNat 64 (st + 2 ^ 16 * g'.qtag + 2 ^ 32 * g'.gen)) ∧ (∀ x, x ≠ d → u.reg c t x = s.reg c t x) ∧
      (u.task c t).st = .ready ∧ (u.task c t).pc = (s.task c t).pc + BitVec.ofNat 64 w.len
    let turned (st : Nat) : Prop := answers (.qcastAnswer c t) s fun u =>
      answered st g u ∧ u.groups = s.groups ∧ u.stripes = s.stripes ∧ u.partials = s.partials
    let busy : Prop := g.st = .armed ∨ g.st = .completing
    let armed (gen n : Nat) : Grp := { g with st := .armed, qtag := (g.qtag + 1) % 2 ^ 16, gen, s := n, arr := 0, elapsed := 0, leaves := [] }
    let fits : Prop := 1 ≤ r 3 ∧ r 3 ≤ 256 ∧ r 6 = 0 ∧ r 7 = 0
    let alone : Prop := fits ∧ ne = 0 ∧ e0 = 0 ∧ r 0 = 0 ∧ r 2 = 0 ∧ r 4 = 0 ∧ 1 ≤ r 5 % 2 ^ 11 ∧ r 5 % 2 ^ 11 ≤ 1024 ∧ r 5 / 2 ^ 11 % 2 ^ 5 = 0 ∧ r 5 / 2 ^ 32 = 0
    let many : Prop := fits ∧ ne ≠ 0 ∧ r 0 % 64 = 0 ∧ r 2 < 2 ^ 40 ∧ r 4 % 128 = 0 ∧ r 5 = 0
    rec_.length = 64 →
    (¬ alone → ¬ many → handles s c t → answers (.qcastAnswer c t) s (entered s c t 39 (s.task c t).pc (s.reg c t a))) ∧
    (alone → (g.smax < r 5 % 2 ^ 11 ∨ r 3 ≠ g.dim) → turned 3) ∧
    (alone → r 5 % 2 ^ 11 ≤ g.smax → r 3 = g.dim → (busy → turned 1) ∧
      (¬ busy → answers (.qcastAnswer c t) s fun u => answered 0 (armed (r 5 / 2 ^ 16 % 2 ^ 16) (r 5 % 2 ^ 11)) u ∧
        u.group H = some (armed (r 5 / 2 ^ 16 % 2 ^ 16) (r 5 % 2 ^ 11)) ∧ u.stripes = s.stripes ∧ u.partials = s.partials)) ∧
    (let s1 := s.acquire c 5
     many → s.readHomes c t (r 0) 64 = .ok hdr → s1.readHomes c t (r 0 + 64 + 16 * e0) (16 * ne) = .ok ents → s1.readHomes c t (r 4) (4 * r 3) = .ok qb →
     hdr.length = 64 → ents.length = 16 * ne → qb.length = 4 * r 3 →
     let m (i : Nat) : Nat := numBytes ((hdr.drop (8 * i)).take 8)
     let en (i k : Nat) : Nat := numBytes ((ents.drop (16 * i + 8 * k)).take 8)
     let span_ (i : Nat) : Nat := 2 ^ (en i 0 / 2 ^ 33 % 8)
     let headed : Prop := m 0 < 2 ^ 16 ∧ m 1 < 2 ^ 32 ∧ m 2 < 2 ^ 12 ∧ 1 ≤ m 2 % 2 ^ 8 ∧ m 2 / 2 ^ 8 ≤ 8 ∧ m 3 % 128 = 0 ∧ m 3 < 2 ^ 41 ∧ m 4 < 2 ^ 32 ∧
       m 5 = 0 ∧ m 6 = 0 ∧ m 7 = 0
     let entry (i : Nat) : Prop := en i 0 / 2 ^ 23 % 2 = 0 ∧ en i 0 / 2 ^ 36 = 0 ∧ en i 1 < 2 ^ 23 ∧ en i 0 / 2 ^ 33 % 8 ≤ 6 ∧
       en i 0 / 2 ^ 27 % 2 ^ 6 % span_ i = 0 ∧ en i 0 / 2 ^ 27 % 2 ^ 6 + span_ i ≤ 64
     let valid (i : Nat) : Prop := en i 0 / 2 ^ 16 % 2 = 1
     let first (i : Nat) : Nat := ((List.range i).map span_).sum
     let within : Prop := e0 + ne ≤ m 1 % 2 ^ 32
     let sound : Prop := headed ∧ ∀ i, i < ne → entry i
     (¬ within → handles s1 c t → answers (.qcastAnswer c t) s (entered s1 c t 39 (s1.task c t).pc (s1.reg c t a))) ∧
     (within → ¬ sound → turned 4) ∧ (within → sound → (∃ i, i < ne ∧ ¬ valid i) → turned 2) ∧
     (within → sound → (∀ i, i < ne → valid i) → (g.smax < first ne ∨ r 3 ≠ g.dim) → turned 3) ∧
     (within → sound → (∀ i, i < ne → valid i) → first ne ≤ g.smax → r 3 = g.dim → (busy → turned 1) ∧
       (¬ busy → answers (.qcastAnswer c t) s fun u =>
         let g' := armed (m 0) (first ne)
         answered 0 g' u ∧ u.group H = some g' ∧ u.stripes.take s.stripes.length = s.stripes ∧ u.partials.take s.partials.length = s.partials ∧
         u.stripes.length + u.partials.length = s.stripes.length + s.partials.length + first ne ∧
         ∀ i j, i < ne → j < span_ i →
           let n := ((List.range 256).filter fun k => decide (256 * (e0 + i) + k < r 2) && decide (k / 2 ^ (m 2 / 2 ^ 8) % span_ i = j)).length
           (n = 0 → ∃ p ∈ u.partials.drop s.partials.length, p.slot = first i + j ∧ p.h = H ∧ p.gen = g'.gen ∧ p.qtag = g'.qtag ∧ p.kind = .normal ∧
             p.part = { m := 0xFF800000, l := 0, o := List.replicate g.dim 0 }) ∧
           (n ≠ 0 → ∃ p ∈ u.stripes.drop s.stripes.length, p.slot = first i + j ∧ p.h = H ∧ p.gen = g'.gen ∧ p.qtag = g'.qtag ∧ p.word0 = en i 0 ∧
             p.word1 = en i 1 ∧ p.j = j ∧ p.n = n ∧ p.seqid = m 4 ∧ p.sprog = m 3 ∧ p.lpp = m 2 % 2 ^ 8 ∧ p.weave = g.weave ∧ p.core = c ∧ p.task = t ∧
             p.q = (List.range (r 3)).map fun k => numBytes ((qb.drop (4 * k)).take 4)))))

/-- R396, R398 to R402: an arriving partial meets the first row of R398 that applies; the root over all slots, in slot order, completes the query
DONE with its outputs at OUT; TMO completes it TIMEOUT; and a completion ends with the status word, the barrier's bytes and the event. A stripe
message of a weave that is gone is dropped, one to a lost package sends LOST, one whose tag line differs STALE; else its command is queued. R386,
R387: a contribution that the switch die counts takes its place; the COUNT-th of the last element of a sector makes it final: the whole sector is
written at every base recorded for it, 32 bytes are counted in the die barrier, and the last sector leaves the group idle and DONE. One that
breaks the base rule or comes after COUNT ends the reduction FAILED, TMO ends it TIMEOUT, and after the end contributions are dropped. Sums are
exact, maxima by their type. That a group freed while it completes is gone once its completion is done is the model's reading, log entry 84. -/
def Obligations.QueriesMergeAndContributionsReduce : Prop :=
  (
  (∀ (s : State) (m : PartMsg) (rest : List PartMsg) (g : Grp), s.partials = m :: rest → s.group m.h = some g →
    let ends (st : Nat) (lo : Nat) : Prop := answers (.partialArrival m.id) s fun u => u.partials = rest ∧ bytesKept s u ∧
      u.group m.h = some { g with st := .completing, status := 2 ^ (63 : Nat) + 2 ^ (32 : Nat) * g.gen + 2 ^ (12 : Nat) * g.arr + st } ∧
      (st = 1 → tget 0#64 u.fabstat (m.h / 1024) = countUp (tget 0#64 s.fabstat (m.h / 1024)) lo 16 1)
    let open_ : Prop := g.reduce = false ∧ g.st = .armed ∧ m.qtag = g.qtag
    let stale : Prop := m.kind = .stale ∨ m.kind = .lost ∨ (m.kind = .normal ∧ m.gen ≠ g.gen)
    let failed : Prop := m.kind = .failed ∨ g.s ≤ m.slot ∨ tfind g.leaves m.slot ≠ none ∨ m.part.o.length < g.dim
    let g' : Grp := { g with leaves := tput g.leaves m.slot { m.part with o := m.part.o.take g.dim }, arr := g.arr + 1 }
    (¬ open_ → answers (.partialArrival m.id) s fun u => u.partials = rest ∧ u.groups = s.groups ∧ bytesKept s u ∧
      tget 0#64 u.fabstat (m.h / 1024) = countUp (tget 0#64 s.fabstat (m.h / 1024)) 48 16 1) ∧
    (open_ → stale → ends 1 32) ∧ (open_ → ¬ stale → failed → ends 2 0) ∧
    (open_ → ¬ stale → ¬ failed → (g'.leaves.length ≠ g.s ∨ s.weaveHalted g.weave = true) →
      answers (.partialArrival m.id) s fun u => u.partials = rest ∧ u.group m.h = some g' ∧ bytesKept s u) ∧
    ∀ out, open_ → ¬ stale → ¬ failed → g'.leaves.length = g.s → s.weaveHalted g.weave = false → g.out = [(out, 64 + 4 * g.dim)] →
      memoryOk s → (∀ e ∈ g'.leaves, e.2.o.length = g.dim) → 0 < g.s →
      let y := mergeRoot g.dim 10 (g'.leaves.map fun e => e.2)
      let val (n : Nat) : FVal := decodeFloat .f32 false n
      let isNan : Prop := val y.m = .nan
      let isZero : Prop := ∃ sg ex, val y.l = .fin sg 0 ex
      answers (.partialArrival m.id) s fun u =>
        let at_ (o : Nat) : Nat := numBytes (u.homeBytes (out + o) 4)
        u.partials = rest ∧ at_ 8 = y.m % 2 ^ (32 : Nat) ∧ at_ 12 = y.l % 2 ^ (32 : Nat) ∧ (∀ o, 16 ≤ o → o < 64 → u.homeByte (out + o) = 0#8) ∧
        (∀ i, i < g.dim → (isNan → at_ (64 + 4 * i) = 0x7FC00000) ∧ (¬ isNan → isZero → at_ (64 + 4 * i) = 0) ∧
          (¬ isNan → ¬ isZero → at_ (64 + 4 * i) = (packFloat .f32 0 false false 0 (divF (val (y.o.getD i 0)) (val y.l))).bits)) ∧
        (∀ x, (x < out + 8 ∨ out + 64 + 4 * g.dim ≤ x) → u.homeByte x = s.homeByte x) ∧
        ∃ nan masked, (nan = 1 ↔ isNan) ∧ (masked = 1 ↔ ¬ isNan ∧ isZero) ∧ nan < 2 ∧ masked < 2 ∧
          u.group m.h = some { g' with st := .completing, status := 2 ^ (63 : Nat) + 2 ^ (32 : Nat) * g.gen + 2 ^ (12 : Nat) * (g.arr + 1) + 2 ^ (9 : Nat) * nan + 2 ^ (8 : Nat) * masked }) ∧
  -- the tree and its combination
  (∀ dim n a b c, mergeRoot dim (n + 2) [a] = a ∧ mergeRoot dim (n + 2) [a, b] = combine dim a b ∧
    mergeRoot dim (n + 2) [a, b, c] = combine dim (combine dim a b) c) ∧
  (∀ (dim : Nat) (a b : NPart) (sg : Bool) (mant : Nat) (ex : Int),
    let val (n : Nat) : FVal := decodeFloat .f32 false n
    let rne (v : FVal) : Nat := (packFloat .f32 0 false false 0 v).bits
    let top := minMaxF true (val a.m) (val b.m)
    let inf (x : FVal) : Prop := x = .nan ∨ x = .inf false
    let e (x : Nat) : FVal := val (exp2F (decodeFloat .f32 false (rne (addF 0 (val x) (negF top))))).bits
    (inf (val a.m) ∨ inf (val b.m) → combine dim a b = { m := 0x7FC00000, l := 0x7FC00000, o := List.replicate dim 0x7FC00000 }) ∧
    (¬ inf (val a.m) → ¬ inf (val b.m) → top = .fin sg mant ex → a.o.length = dim → b.o.length = dim →
      let y := combine dim a b
      y.m = rne top ∧ y.l = rne (exactSum [mulF (val a.l) (e a.m), mulF (val b.l) (e b.m)]) ∧ y.o.length = dim ∧
      ∀ i, i < dim → y.o.getD i 0 = rne (exactSum [mulF (val (a.o.getD i 0)) (e a.m), mulF (val (b.o.getD i 0)) (e b.m)]))) ∧
  (∀ (s : State) (i : GrpId) (g : Grp),
    let H := 1024 * i.plane + 16 * i.unit + i.grp
    s.group H = some g → s.weaveHalted g.weave = false →
    (g.reduce = false → g.st = .armed → g.tmo ≠ 0 → 1000 * g.tmo ≤ g.elapsed → answers (.mergeTimeout i) s fun u =>
      u.group H = some { g with st := .completing, status := 2 ^ (63 : Nat) + 2 ^ (32 : Nat) * g.gen + 2 ^ (12 : Nat) * g.arr + 3 } ∧ bytesKept s u ∧
      tget 0#64 u.fabstat (H / 1024) = countUp (tget 0#64 s.fabstat (H / 1024)) 0 16 1) ∧
    (∀ out n, g.st = .completing → g.out = [(out, n)] → 8 ≤ n → g.status < 2 ^ (64 : Nat) → memoryOk s →
      answers (.queryCompletionDone i) s fun u =>
        numBytes (u.homeBytes out 8) = g.status ∧ (∀ x, (x < out ∨ out + 8 ≤ x) → u.homeByte x = s.homeByte x) ∧
        u.groups = (if g.freed then tdel s.groups H else tput s.groups H { g with st := .idle, last := g.status % 2 ^ (8 : Nat), leaves := [] }) ∧
        (∀ b, g.bar = some b → s.barSaved g.weave b = false → (s.barrier b).unset = false → (∀ v, tfind s.weaves g.weave = some v → v.holds b = true) →
          let y := (s.barrier b).apply 0 (if g.status % 2 ^ (8 : Nat) = 0 then 64 + 4 * g.dim else 8)
          u.barrier b = { y with outside := y.outside || (y.due && s.barFrozen b) }) ∧
        (∀ e m v, g.bar = some (.core e m) → tfind s.weaves g.weave = some v → v.holds (.core e m) = true → (∃ i ∈ v.images, i.2.core = e) →
          (∀ i ∈ v.images, i.2.core = e → (tget {} i.2.bars (barKey (.core e m))).unset = false) → u.barriers = s.barriers ∧
            ∃ v', tfind u.weaves g.weave = some v' ∧ ∀ i ∈ v.images, i.2.core = e → ∃ j ∈ v'.images, j.1 = i.1 ∧
              tget {} j.2.bars (barKey (.core e m)) =
                (tget {} i.2.bars (barKey (.core e m))).apply 0 (if g.status % 2 ^ (8 : Nat) = 0 then 64 + 4 * g.dim else 8)) ∧
        (g.evt / 2 ^ (63 : Nat) % 2 = 1 → ∃ x ∈ u.signals, x.core = g.evt / 2 ^ (5 : Nat) % 2 ^ (13 : Nat) ∧ x.slot = g.evt % 2 ^ (5 : Nat) ∧ x.weave = some g.weave ∧ x.acq = some 4))) ∧
  ∀ (s : State) (m : StripeMsg) (rest : List StripeMsg), s.stripes = m :: rest →
    let sends (k : PKind) : Prop := answers (.stripeMessage m.id) s fun u => u.stripes = rest ∧ u.nmus = s.nmus ∧ bytesKept s u ∧
      ∃ p, u.partials = s.partials ++ [p] ∧ p.h = m.h ∧ p.slot = m.slot ∧ p.qtag = m.qtag ∧ p.kind = k
    let pkg := m.word0 / 2 ^ (17 : Nat) % 2 ^ (6 : Nat)
    let n := 64 * (8 * pkg + m.word0 / 2 ^ (24 : Nat) % 8) + (m.word0 / 2 ^ (27 : Nat) % 2 ^ (6 : Nat) + m.j) % 64
    let die := n / 256
    let la (x : Nat) : Nat := die * 2 ^ (41 : Nat) + x * 2 ^ (15 : Nat) + n % 2 * 2 ^ (14 : Nat) + (32 * (n / 64 % 4) + n % 64 / 2) * 2 ^ (7 : Nat)
    let row := m.word1 % 2 ^ (23 : Nat)
    (s.weaveGone m.weave = true → answers (.stripeMessage m.id) s fun u => u.stripes = rest ∧ u.nmus = s.nmus ∧ u.partials = s.partials ∧ bytesKept s u) ∧
    (s.weaveGone m.weave = false → s.lost.testBit pkg = true → sends .lost) ∧
    (s.weaveGone m.weave = false → s.lost.testBit pkg = false → s.windowCheck die m.ctx .rd m.sprog 128 ≠ none → sends .failed) ∧
    ∀ bs, s.weaveGone m.weave = false → s.lost.testBit pkg = false → s.windowCheck die m.ctx .rd m.sprog 128 = none →
      bs = s.homeBytes (2 ^ (41 : Nat) * die + m.sprog) 128 →
      let w (i : Nat) : Nat := numBytes ((bs.drop (8 * i)).take 8)
      let prog := s.homeBytes (2 ^ (41 : Nat) * die + w 0) (4 * w 1)
      let lo := w 3
      let right : Prop := nmuBlockOk bs = true ∧ w 5 = 0 ∧ lo + w 4 ≤ 32767 * 2 ^ (23 : Nat) ∧ s.windowCheck die m.ctx .rd lo (w 4) = none ∧
        s.windowCheck die m.ctx .rd (w 0) (4 * w 1) = none ∧ row + m.lpp * m.n < 2 ^ (23 : Nat) ∧
        die * 2 ^ (41 : Nat) + lo ≤ la row ∧ la (row + m.lpp * m.n) + 128 ≤ die * 2 ^ (41 : Nat) + lo + w 4
      let tag (o k : Nat) : Nat := numBytes (s.homeBytes (la row + o) k)
      let same : Prop := tag 0 4 = m.seqid ∧ tag 4 2 = m.word0 % 2 ^ (16 : Nat)
      (¬ right → sends .failed) ∧ (right → ¬ same → sends .stale) ∧
      (right → same → (s.nmu n).queue.length < 8 → (s.nmu n).ctxs.length < 8 → answers (.stripeMessage m.id) s fun u =>
        u.stripes = rest ∧ u.partials = s.partials ∧ (∀ k, k ≠ n → u.nmu k = s.nmu k) ∧
        ∃ x, (∀ y, y ∈ (u.nmu n).queue ↔ y = x ∨ y ∈ (s.nmu n).queue) ∧
          ((∀ y ∈ (s.nmu n).queue, y.accepted ≠ s.time) → (u.nmu n).queue = (s.nmu n).queue ++ [x]) ∧ x.accepted = s.time ∧ x.weave = m.weave ∧ x.ctx = m.ctx ∧ x.core = m.core ∧ x.task = m.task ∧ x.stripe = true ∧
          x.bar = none ∧ x.lo = lo ∧ x.hi = lo + w 4 ∧ x.loopn = w 2 / 2 ^ (32 : Nat) * 2 ^ (32 : Nat) + m.n ∧ x.y[0]? = some (row + 1) ∧
          x.emit = 2 ^ (48 : Nat) * m.gen + 2 ^ (38 : Nat) * m.slot + 2 ^ (22 : Nat) * m.qtag + 2 ^ (14 : Nat) + m.h ∧
          (∀ i, i < w 1 → x.words[i]? = some (numBytes ((prog.drop (4 * i)).take 4))) ∧
          ∀ e, e < m.q.length → e < 256 → m.q.getD e 0 < 2 ^ (32 : Nat) → (x.n.getD (e / 32) 0) / 2 ^ (32 * (e % 32)) % 2 ^ (32 : Nat) = m.q.getD e 0)) ∧
  (
  (∀ (s : State) (c id H idx : Nat) (a : Access) (g : Grp), s.findAccess id = some (c, a) → a.kind = .contribution H idx → a.stage = .sent →
    a.acq = false → (s.core c).mayArrive a = true → s.group H = some g →
    let n := if g.ty = 1 ∨ g.ty = 4 ∨ g.ty = 7 then 8 else 4
    let e := 32 / n
    let k := idx / e
    let base := a.pa / 32 * 32
    let v := numBytes (a.data.map Prod.snd)
    let live : Prop := g.reduce = true ∧ g.weave = s.weaveNo c ∧ (g.st = .armed ∨ g.st = .idle)
    let placed : Prop := a.pa % 32 = idx % e * n ∧ (∀ x ∈ tget [] g.bases k, x.1 = c → x.2 = base) ∧ (tget [] g.elems idx).length < g.count
    let g0 : Grp := if g.st = .idle then { g with st := .armed, elapsed := 0, arr := 0 } else g
    let g1 : Grp := { g0 with elems := tput g0.elems idx (tget [] g0.elems idx ++ [v]), bases := tput g0.bases k (tget [] g0.bases k ++ [(c, base)]) }
    let full : Prop := ∀ i, i < e → (tget [] g1.elems (k * e + i)).length = g.count
    (¬ live → g.st ≠ .completing → answers (.reduceContribution id) s fun u => u.groups = s.groups ∧ bytesKept s u ∧
      tget 0#64 u.fabstat (H / 1024) = countUp (tget 0#64 s.fabstat (H / 1024)) 48 16 1) ∧
    (live → ¬ placed → answers (.reduceContribution id) s fun u => bytesKept s u ∧
      u.group H = some { g0 with st := .ended, last := 2, elems := [], bases := [], fins := [] }) ∧
    (live → placed → ¬ full → k ∉ g.fins → answers (.reduceContribution id) s fun u => u.group H = some g1 ∧ bytesKept s u) ∧
    (live → placed → full → k ∉ g.fins → s.weaveHalted g.weave = false → memoryOk s → (∀ x ∈ tget [] g1.bases k, x.2 % 32 = 0) →
      answers (.reduceContribution id) s fun u =>
        (g.ben = true → tget [] g.bases k = [] → s.groupHolds g (.die (base / 2 ^ (41 : Nat)) g.barno) = true → (s.barrier (.die (base / 2 ^ (41 : Nat)) g.barno)).unset = false →
          let b := BarId.die (base / 2 ^ (41 : Nat)) g.barno
          let y := (s.barrier b).apply 0 32
          u.barrier b = { y with outside := y.outside || (y.due && s.barFrozen b) }) ∧
        (∀ x ∈ tget [] g1.bases k, ∀ i, i < e → numBytes (u.homeBytes (x.2 + i * n) n) = reduceElem g.ty (tget [] g1.elems (k * e + i)) % 2 ^ (8 * n)) ∧
        (∀ y, (∀ x ∈ tget [] g1.bases k, y < x.2 ∨ x.2 + 32 ≤ y) → u.homeByte y = s.homeByte y) ∧
        u.group H = some (if (g.fins.length + 1) * e = g.nelem then { g1 with fins := [], arr := g1.arr + 1, st := .idle, last := 0, elems := [], bases := [] }
          else { g1 with fins := g.fins ++ [k], arr := g1.arr + 1 }))) ∧
  (∀ (s : State) (i : GrpId) (g : Grp),
    let H := 1024 * i.plane + 16 * i.unit + i.grp
    s.group H = some g → s.weaveHalted g.weave = false → g.reduce = true → g.st = .armed → g.tmo ≠ 0 → 1000 * g.tmo ≤ g.elapsed →
    answers (.reduceTimeout i) s fun u => bytesKept s u ∧
      u.group H = some { g with st := .ended, last := 3, elems := [], bases := [], fins := [] }) ∧
  ∀ (x y : Nat) (xs : List Nat),
    let val (n : Nat) : FVal := decodeFloat .f32 false n
    let sg (w z : Nat) : Int := (BitVec.ofNat w z).toInt
    let sum (ys : List Int) : Int := ys.foldl (· + ·) 0
    reduceElem 0 xs = (BitVec.ofInt 32 (sum (xs.map (sg 32)))).toNat ∧ reduceElem 1 xs = (BitVec.ofInt 64 (sum (xs.map (sg 64)))).toNat ∧
    reduceElem 2 xs = (packFloat .f32 0 false false 0 (exactSum (xs.map val))).bits ∧
    reduceElem 3 [x, y] = (BitVec.ofInt 32 (max (sg 32 x) (sg 32 y))).toNat ∧ reduceElem 4 [x, y] = (BitVec.ofInt 64 (max (sg 64 x) (sg 64 y))).toNat ∧
    reduceElem 5 [x, y] = (packFloat .f32 0 false false 0 (minMaxF true (val x) (val y))).bits ∧
    (∀ z ∈ xs, z ≤ reduceElem 6 xs ∧ z ≤ reduceElem 7 xs) ∧ (xs ≠ [] → reduceElem 6 xs ∈ xs ∧ reduceElem 7 xs ∈ xs))

/-! The network engines (R406 to R438). -/

/-- R427, R428, R434: a network command whose queue pair, counter and operand bits pass parks its task for the engine, `ne.qp.open` with its
descriptor read, `ne.cwait` with its counter and threshold; else it is NET_COMMAND with TVAL the register that fails. R409 to R411, R428 to R435:
the engine's answers. An open takes the lowest free queue pair with the descriptor's fields, both indexes 0, or is BAD_DESC or BUSY; a close
discards what has not started and frees the pair once nothing started is left; the posts, with their release, move PIDX and RXIDX or refuse; the
counters are read, set and raised; a watch that holds already signals at once; `ne.cwait` ends REACHED, with the acquire, or ERROR. Of commands for
one queue pair that were issued in one nanosecond a close comes before a post, which the close waits for, and posts come by core and task (R429,
R431; that one nanosecond stands for one cycle of the engine is the model's choice: log entry 98). That a close of a pair in ERROR answers
PIDX − CIDX, with what an earlier close of it has discarded, is the model's reading, log entry 43. -/
def Obligations.NetworkCommandsAreAnswered : Prop :=
  (
  ∀ (h : CHdr) (d a b : Nat) (s : State) (c t : Nat), s.cur = .task c t →
    let pc := (s.task c t).pc
    let x := s.reg c t a
    let y := s.reg c t b
    let e := s.net (dieOf c)
    let pair : Prop := x.toNat < 1024 ∧ ∃ q, tfind e.qps x.toNat = some q ∧ q.weave = s.weaveNo c
    let held (n : Nat) : Prop := n < 4096 ∧ ∃ q ∈ e.qps, q.2.ctx = (s.core c).ctxno ∧ q.2.st ≠ .closing ∧ q.2.cbase ≤ n ∧ n < q.2.cbase + q.2.ccnt
    let waits (i : Instr) (what : WaitFor) (p : Wait → Prop) : Prop := answers i s fun u =>
      (u.task c t).st = .parked ∧ (u.task c t).pc = pc ∧ (∀ r, u.reg c t r = s.reg c t r) ∧ onlyTask s c t u ∧ bytesKept s u ∧
      ∃ w, (u.task c t).wait = some w ∧ w.what = what ∧ w.instr = i ∧ w.len = ctlLen h 1 ∧ p w
    let bad (i : Instr) (v : Word) : Prop := handles s c t → answers i s (entered s c t 40 pc v)
    (∀ i ∈ [Instr.neQpClose h d a, .neQpRd h d a, .nePoll h d a], (pair → waits i .answer fun _ => True) ∧ (¬ pair → bad i x)) ∧
    (∀ i ∈ [Instr.nePost h d a b, .nePostRx h d a b], (pair → y.toNat < 2 ^ (32 : Nat) → waits i .answer fun _ => True) ∧
      (pair → 2 ^ (32 : Nat) ≤ y.toNat → bad i y) ∧ (¬ pair → bad i x)) ∧
    (let right : Prop := x.toNat / 2 ^ (18 : Nat) % 2 ^ (30 : Nat) = 0 ∧ x.toNat / 2 ^ (60 : Nat) = 0 ∧ held (x.toNat / 2 ^ (48 : Nat))
     (right → waits (.neArm h d a b) .answer fun _ => True) ∧ (¬ right → bad (.neArm h d a b) x)) ∧
    (∀ i ∈ [Instr.neCtrRd h d a, .neCtrSet h a b, .neCtrAdd h a b], (held x.toNat → waits i .answer fun _ => True) ∧ (¬ held x.toNat → bad i x)) ∧
    (held x.toNat → waits (.neCwait h d a b) (.counter x.toNat y) fun _ => True) ∧ (¬ held x.toNat → bad (.neCwait h d a b) x) ∧
    (∀ bs, x.toNat % 128 = 0 → s.readBlock c t x.toNat 128 = .ok bs → segFor (s.core c).seg (numBytes (bs.take 8)) ≠ none →
      waits (.neQpOpen h d a) .answer fun w => w.blk = bs) ∧
    (x.toNat % 128 ≠ 0 → bad (.neQpOpen h d a) x)) ∧
  (
  ∀ (h : CHdr) (d a b : Nat) (s : State) (c t : Nat) (w : Wait), s.waitOf c t = some w → s.isFrozen c = false →
    s.tornWeave (s.weaveNo c) = false → s.neAfter c t w = false →
    let n := dieOf c
    let x := s.reg c t a
    let y := s.reg c t b
    let e := s.net n
    let cmd : Instr := .neCommandAnswer c t
    let on (u : State) : Prop := (u.task c t).st = .ready ∧ (u.task c t).pc = (s.task c t).pc + BitVec.ofNat 64 w.len
    let answered (v : Word) (u : State) : Prop :=
      u.reg c t d = (if d = 0 then 0#64 else v) ∧ (∀ r, r ≠ d → u.reg c t r = s.reg c t r) ∧ on u
    let val (v : Nat) : State → Prop := answered (BitVec.ofNat 64 v)
    let others (u : State) : Prop := ∀ m, m ≠ n → u.net m = s.net m
    (∀ bs pa, w.what = .answer → w.instr = .neQpOpen h d a → w.blk = bs → qpDescOk bs = true →
      qpRegion (s.core c) c (numBytes (bs.take 8)) (numBytes ((bs.drop 8).take 8)) = .ok pa →
      let f (i lo m : Nat) : Nat := numBytes ((bs.drop (8 * i)).take 8) / 2 ^ lo % 2 ^ m
      let taken : Prop := ∃ q ∈ e.qps, q.2.ctx ≠ (s.core c).ctxno ∧ q.2.st ≠ .closing ∧ q.2.cbase < f 6 0 12 + f 6 12 13 ∧ f 6 0 12 < q.2.cbase + q.2.ccnt
      (taken ∨ (∀ q, q < 1024 → tfind e.qps q ≠ none) → answers cmd s fun u => val 1 u ∧ u.nets = s.nets) ∧
      ∀ q, ¬ taken → q < 1024 → tfind e.qps q = none → (∀ m, m < q → tfind e.qps m ≠ none) → answers cmd s fun u =>
        val (2 ^ (32 : Nat) * q) u ∧ others u ∧ (∀ m, m ≠ q → tfind (u.net n).qps m = tfind e.qps m) ∧
        ∃ z, tfind (u.net n).qps q = some z ∧ z.st = .open_ ∧ z.weave = s.weaveNo c ∧ z.ctx = (s.core c).ctxno ∧ z.base = pa ∧ z.len = f 1 0 64 ∧
          z.pds = f 2 0 2 ∧ z.mtu = f 2 2 2 ∧ z.planes = f 2 4 16 ∧ z.reord = f 2 20 6 ∧ z.retries = f 2 32 8 ∧ z.rto = f 2 48 16 ∧
          z.sring = f 3 0 32 ∧ z.slog2 = f 3 32 4 ∧ z.rxbuf = f 4 0 32 ∧ z.rlog2 = f 4 32 4 ∧ z.bshift = f 4 36 5 ∧ z.ren = decide (f 4 63 1 = 1) ∧
          z.rxcpl = f 5 0 32 ∧ z.cbase = f 6 0 12 ∧ z.ccnt = f 6 12 13 ∧ z.rxctr = f 6 32 12 ∧ z.rxcen = decide (f 6 44 1 = 1) ∧ z.jobid = f 7 0 24 ∧
          z.rqp = f 7 32 16 ∧ z.paddr = (bs.drop 64).take 16 ∧ z.psn = f 10 0 64 ∧ z.cwmax = f 11 0 64 ∧ z.evt = f 12 0 64 ∧ z.pidx = 0 ∧ z.cidx = 0 ∧
          z.rxidx = 2 ^ f 4 32 4 ∧ z.msn = 0 ∧ z.ents = [] ∧
          ∀ k, z.cbase ≤ k → k < z.cbase + z.ccnt → 
            (∀ q ∈ e.qps, ¬ (q.2.st ≠ .closing ∧ q.2.cbase ≤ k ∧ k < q.2.cbase + q.2.ccnt)) → (u.net n).ctr k = {}) ∧
    (∀ bs, w.what = .answer → w.instr = .neQpOpen h d a → w.blk = bs →
      (qpDescOk bs = false ∨ qpRegion (s.core c) c (numBytes (bs.take 8)) (numBytes ((bs.drop 8).take 8)) = .bad) →
      answers cmd s fun u => val 2 u ∧ u.nets = s.nets) ∧
    (∀ q, w.what = .answer → x.toNat < 1024 → tfind e.qps x.toNat = some q → q.weave = s.weaveNo c →
      let waiting := (q.pidx + 2 ^ (32 : Nat) - q.cidx) % 2 ^ (32 : Nat)
      let state : Nat := match q.st with
        | .open_ => 1
        | .error => 2
        | .closing => 3
      let posted : Prop := s.postHere n x.toNat w.parkedAt = true
      let changed (q' : NeQp) (u : State) : Prop :=
        others u ∧ tfind (u.net n).qps x.toNat = some q' ∧ ∀ m, m ≠ x.toNat → tfind (u.net n).qps m = tfind e.qps m
      (w.instr = .neQpClose h d a →
        (q.st = .open_ → answers cmd s fun u => changed { q with st := .closing, dropped := waiting, cidx := q.pidx } u ∧ (u.task c t).st = .parked) ∧
        (q.st = .closing → (q.ents ≠ [] ∨ posted) → exec cmd s = .next s) ∧
        (q.st = .closing → q.ents = [] → ¬ posted → answers cmd s fun u => val q.dropped u ∧ (u.net n).qps = tdel e.qps x.toNat ∧ others u) ∧
        (q.st = .error → posted → answers cmd s fun u => changed q u ∧ ∃ w', (u.task c t).wait = some w' ∧ w' = { w with acted := true }) ∧
        (q.st = .error → ¬ posted → answers cmd s fun u => val (waiting + q.dropped) u ∧ (u.net n).qps = tdel e.qps x.toNat ∧ others u)) ∧
      (w.instr = .neQpRd h d a → answers cmd s fun u => val (2 ^ (62 : Nat) * state + 2 ^ (56 : Nat) * q.errc + 2 ^ (32 : Nat) * q.retx + q.pidx) u ∧ u.nets = s.nets) ∧
      (w.instr = .nePoll h d a → answers cmd s fun u => val (2 ^ (32 : Nat) * q.rxdone + q.cidx) u ∧ u.nets = s.nets) ∧
      ((s.core c).quiet t = false → (w.instr = .nePost h d a b ∨ w.instr = .nePostRx h d a b) → exec cmd s = .next s) ∧
      ((s.core c).quiet t = true → w.instr = .nePost h d a b →
        let far : Prop := 2 ^ q.slog2 < (y.toNat + 2 ^ (32 : Nat) - q.cidx) % 2 ^ (32 : Nat) ∨ 2 ^ q.slog2 < (y.toNat + 2 ^ (32 : Nat) - q.pidx) % 2 ^ (32 : Nat)
        (q.st ≠ .open_ → answers cmd s fun u => val 2 u ∧ changed q u) ∧ (q.st = .open_ → far → answers cmd s fun u => val 1 u ∧ changed q u) ∧
        (q.st = .open_ → ¬ far → answers cmd s fun u => val 0 u ∧ changed { q with pidx := y.toNat } u)) ∧
      ((s.core c).quiet t = true → w.instr = .nePostRx h d a b →
        let far : Prop := 2 ^ q.rlog2 < (y.toNat + 2 ^ (32 : Nat) - q.rxidx) % 2 ^ (32 : Nat) ∨ q.ren = false
        (q.st ≠ .open_ → answers cmd s fun u => val 2 u ∧ changed q u) ∧ (q.st = .open_ → far → answers cmd s fun u => val 1 u ∧ changed q u) ∧
        (q.st = .open_ → ¬ far → answers cmd s fun u => val 0 u ∧ changed { q with rxidx := y.toNat } u))) ∧
    (w.what = .answer → w.instr = .neArm h d a b →
      let z : NeWatch := { ctr := x.toNat / 2 ^ (48 : Nat) % 2 ^ (12 : Nat), thresh := y, target := x.toNat % 2 ^ (18 : Nat), weave := s.weaveNo c, ctx := (s.core c).ctxno }
      let due (v : NeWatch) : Prop := ((e.ctr v.ctr).err = true ∨ v.thresh.toNat ≤ (e.ctr v.ctr).value.toNat) ∧ s.weaveHalted v.weave = false
      ((∀ i, i < 64 → tfind e.watches i ≠ none) → answers cmd s fun u => val 1 u ∧ u.nets = s.nets) ∧
      ∀ i, i < 64 → tfind e.watches i = none → (∀ j, j < i → tfind e.watches j ≠ none) → (∀ v ∈ e.watches, ¬ due v.2) →
        (¬ due z → answers cmd s fun u => val 0 u ∧ tfind (u.net n).watches i = some z ∧ u.signals = s.signals) ∧
        (due z → answers cmd s fun u => val 0 u ∧ (∀ j v, tfind (u.net n).watches j = some v → ¬ due v) ∧
          ∃ g, u.signals = s.signals ++ [g] ∧ g.core = z.target / 2 ^ (5 : Nat) ∧ g.slot = z.target % 2 ^ (5 : Nat) ∧ g.weave = some z.weave ∧ g.acq = some 4)) ∧
    (w.what = .answer →
      (w.instr = .neCtrRd h d a → answers cmd s fun u => answered (e.ctr x.toNat).value u ∧ u.nets = s.nets) ∧
      ((s.core c).quiet t = true → w.instr = .neCtrSet h a b → answers cmd s fun u => on u ∧ (∀ r, u.reg c t r = s.reg c t r) ∧
        (u.net n).ctr x.toNat = { value := y, err := false } ∧ ∀ k, k ≠ x.toNat → (u.net n).ctr k = e.ctr k) ∧
      ((s.core c).quiet t = true → w.instr = .neCtrAdd h a b → answers cmd s fun u => on u ∧ (∀ r, u.reg c t r = s.reg c t r) ∧
        (u.net n).ctr x.toNat = { e.ctr x.toNat with value := (e.ctr x.toNat).value + y } ∧ ∀ k, k ≠ x.toNat → (u.net n).ctr k = e.ctr k)) ∧
    ∀ k thr, w.what = .counter k thr → w.instr = .neCwait h d a b → s.stopped c = false → c < 8192 → t < 8 →
      let z := e.ctr k
      (z.err = true → ∃ u, s.turn (.wake c t) = .next u ∧ val 1 u ∧ bytesKept s u) ∧
      (z.err = false → thr.toNat ≤ z.value.toNat → ∃ u, s.turn (.wake c t) = .next u ∧ val 0 u ∧ u = (s.acquire c 4).wakeWith c t d 0#64) ∧
      (z.err = false → z.value.toNat < thr.toNat → s.turn (.wake c t) = .next s)) ∧
  -- commands of one nanosecond for one queue pair: a close before a post, posts by core and task
  (
  ∀ (h h' : CHdr) (d d' a a' b b' : Nat) (s : State) (c e t t' : Nat) (k : Core) (x : Task) (w v : Wait), s.waitOf c t = some w → w.what = .answer →
    (e, k) ∈ s.cores → (t', x) ∈ k.tasks → k.frozen = none → x.wait = some v → v.what = .answer → v.acted = false → v.parkedAt = w.parkedAt →
    dieOf e = dieOf c → s.reg e t' a' = s.reg c t a →
    (w.instr = .nePost h d a b ∨ w.instr = .nePostRx h d a b) →
    (v.instr = .neQpClose h' d' a' ∨ ((v.instr = .nePost h' d' a' b' ∨ v.instr = .nePostRx h' d' a' b') ∧ 8 * e + t' < 8 * c + t)) →
    exec (.neCommandAnswer c t) s = .next s) ∧
  (
  ∀ (s : State) (c t : Nat) (w : Wait),
    (∀ e ∈ s.cores, ∀ x ∈ e.2.tasks, ∀ v, x.2.wait = some v → v.parkedAt = w.parkedAt → e.1 = c ∧ x.1 = t ∧ v = w) → s.neAfter c t w = false)

/-- R412 to R419, R424: the head of an open pair's ring is read at its home; a bad entry, a trigger counter in error and a lasting memory error put
the pair into ERROR with causes 1, 2 and 5; one that waits for its trigger or its fence changes nothing; else it starts, CIDX moves, and it is
cut into packets. A packet leaves with its bytes on its plane; an acknowledgement takes the packets that it covers, a refusal is REMOTE_NAK; an
RTO makes the packet due again, or the retries are used up. In ERROR every counter that an entry under way names takes ERR. R407, R417, R420 to R423:
an incoming packet for no open pair, of another job or peer, or one that its mode does not support, is dropped and counted, and so is an
acknowledgement for no pair, or one in ERROR, or with another JOBID or address (DEDUCED: log entry 113); out of the region a
packet is refused, in UUD too; a duplicate is acknowledged again; one beyond the window is silent; an accepted one is placed at its homes before its acknowledgement, and counted. A WRITE places its bytes,
a SEND fills its buffer and with its last byte writes the record, a WRITE_RED combines element by element, a READ is answered with the bytes; a
line of the error-address table that these read is MEMORY_ERROR. R505: where every edge port of the engine is off nothing arrives, and what leaves
by a port that is off is lost. That a packet keeps the number from which acknowledgements can show it missing is the model's reading of R418, log
entry 120. -/
def Obligations.NetworkPacketsAreSentAndReceived : Prop :=
  (
  ∀ (s : State) (d q psn cack bm : Nat) (x : NeQp), tfind (s.net d).qps q = some x →
    let f (bs : List Byte) (i lo n : Nat) : Nat := numBytes ((bs.drop (8 * i)).take 8) / 2 ^ lo % 2 ^ n
    let after (x' : NeQp) (u : State) : Prop := tfind (u.net d).qps q = some x' ∧ (∀ m, m ≠ q → tfind (u.net d).qps m = tfind (s.net d).qps m) ∧
      (∀ m, m ≠ d → u.net m = s.net m) ∧ bytesKept s u
    let failed (cause : Nat) (u : State) : Prop := after { x with st := .error, errc := cause, ents := [] } u ∧
      (∀ e ∈ x.ents, e.lcen = true → ((u.net d).ctr e.lctr).err = true) ∧
      (∀ i, i < (x.pidx + 2 ^ (32 : Nat) - x.cidx) % 2 ^ (32 : Nat) →
        let bs := s.homeBytes (x.base + x.sring + 64 * ((x.cidx + i) % 2 ^ x.slog2)) 64
        f bs 0 18 1 = 1 → ((u.net d).ctr (f bs 0 20 12)).err = true) ∧
      (∀ n, ((u.net d).ctr n).value = ((s.net d).ctr n).value) ∧
      (x.evt / 2 ^ (63 : Nat) % 2 = 1 → ∃ g ∈ u.signals, g.core = x.evt / 2 ^ (5 : Nat) % 2 ^ (13 : Nat) ∧ g.slot = x.evt % 2 ^ (5 : Nat) ∧ g.weave = some x.weave)
    (x.st = .open_ → x.cidx ≠ x.pidx → s.weaveHalted x.weave = false →
      let start (err : Bool) : Instr := .neEntryStart d q err
      let bs := s.homeBytes (x.base + x.sring + 64 * (x.cidx % 2 ^ x.slog2)) 64
      let opc := f bs 0 0 8
      let tctr := (s.net d).ctr (f bs 4 0 64)
      let trig : Prop := f bs 0 16 1 = 1
      let mtu := 1024 * 2 ^ x.mtu
      let good : Prop := entryGood x bs = true
      let next : NeQp := { x with cidx := (x.cidx + 1) % 2 ^ (32 : Nat) }
      let ks := sectorsOf (x.base + x.sring + 64 * (x.cidx % 2 ^ x.slog2)) 64
      let listed : Prop := ∃ k ∈ ks, s.errorLine (k / 4) = true
      -- a lasting error of the read: met in clean copies alone they are dropped and the read is made below
      ((∃ k ∈ ks, s.cleanCopy k = false) → answers (start true) s (failed 5)) ∧
      (¬ listed → (∀ k ∈ ks, s.cleanCopy k = true) → exec (start true) s = exec (start false) ((ks.foldl State.homeDrop s).countError d 1)) ∧
      (listed → answers (start true) s (failed 5) ∧ answers (start false) s (failed 5)) ∧ (¬ listed → ¬ good → answers (start false) s (failed 1)) ∧
      (¬ listed →
      (good → trig → tctr.err = true → answers (start false) s (failed 2)) ∧
      (good → trig → tctr.err = false → tctr.value.toNat < f bs 5 0 64 → exec (start false) s = .next s) ∧
      (good → (trig → tctr.err = false ∧ f bs 5 0 64 ≤ tctr.value.toNat) → f bs 0 17 1 = 1 → x.ents ≠ [] → exec (start false) s = .next s) ∧
      (good → (trig → tctr.err = false ∧ f bs 5 0 64 ≤ tctr.value.toNat) → (f bs 0 17 1 = 1 → x.ents = []) →
        (opc = 5 → answers (start false) s fun u => after next u ∧
          (u.net d).ctr (f bs 0 20 12) = { (s.net d).ctr (f bs 0 20 12) with
            value := ((s.net d).ctr (f bs 0 20 12)).value + BitVec.ofNat 64 (f bs 0 18 1) }) ∧
        (opc ≠ 5 → answers (start false) s fun u =>
          let len := f bs 3 0 64
          let k := max 1 ((len + mtu - 1) / mtu)
          ∃ e, after { next with ents := x.ents ++ [e], psn := (x.psn + k) % 2 ^ (32 : Nat), msn := if opc = 3 then (x.msn + 1) % 2 ^ (32 : Nat) else x.msn } u ∧
            e.opc = opc ∧ e.rtype = f bs 0 8 3 ∧ e.lcen = decide (f bs 0 18 1 = 1) ∧ e.lctr = f bs 0 20 12 ∧ e.loff = f bs 1 0 64 ∧ e.roff = f bs 2 0 64 ∧
            e.len = len ∧ e.tag = f bs 6 0 64 ∧ e.msn = x.msn ∧ e.pkts.length = k ∧
            ∀ j, j < k → e.pkts[j]? = some { psn := (x.psn + j) % 2 ^ (32 : Nat), off := j * mtu, len := min mtu (len - j * mtu) })))) ∧
    (∀ e p, x.pkt psn = some (e, p) → x.st ≠ .error → s.weaveHalted x.weave = false →
      let planes := (List.range 16).filter fun i => x.planes.testBit i
      let idx := if x.pds = 1 then 0 else if p.sent then (p.plane + 1) % planes.length else psn % planes.length
      let a := x.base + e.loff + p.off
      let clear : Prop := ∀ l, 0 < p.len → a / 128 ≤ l → 128 * l < a + p.len → s.errorLine l = false
      let tx : Instr := .nePacketTransmit d q psn
      (x.maySend p = false → exec tx s = .next s) ∧
      (x.maySend p = true → e.opc ≠ 2 → ¬ clear → answers tx s (failed 5)) ∧
      (x.maySend p = true → (e.opc = 2 ∨ clear) → answers tx s fun u =>
        (s.portOn (planes.getD idx 0) (d / 16) = false → (u.net d).sent = (s.net d).sent) ∧
        (s.portOn (planes.getD idx 0) (d / 16) = true → ∃ y, (u.net d).sent = (s.net d).sent ++ [(8 * planes.getD idx 0 + d / 16, y)] ∧ y.qp = x.rqp ∧ y.jobid = x.jobid ∧ y.src = s.netAddress d ∧ y.psn = p.psn ∧ y.opc = e.opc ∧
          y.rtype = e.rtype ∧ y.roff = e.roff + p.off ∧ y.msgLen = e.len ∧ y.off = p.off ∧ y.len = p.len ∧ y.msn = e.msn ∧ y.tag = BitVec.ofNat 64 e.tag ∧
          y.data = if e.opc = 2 then [] else s.homeBytes a p.len) ∧
        (u.net d).stat.toNat / 2 ^ (32 : Nat) = ((s.net d).stat.toNat / 2 ^ (32 : Nat) + 1) % 2 ^ (32 : Nat) ∧ bytesKept s u ∧
        (x.pds ≠ 2 → e.opc ≠ 2 → (∀ e ∈ x.ents, ∃ p ∈ e.pkts, p.psn ≠ psn ∧ p.acked = false) → ∃ x' e' p', tfind (u.net d).qps q = some x' ∧
          x'.pkt psn = some (e', p') ∧ p' = { p with sent := true, due := false, plane := idx, age := 0, retx := if p.sent then p.retx + 1 else p.retx, mark := if p.sent then x.nextNew else (psn + 1) % 2 ^ (32 : Nat) }))) ∧
    (∀ e p, x.pkt psn = some (e, p) → x.st ≠ .error → x.pds ≠ 2 → s.weaveHalted x.weave = false → p.sent = true → p.acked = false → p.due = false →
      let rto : Instr := .neRtoExpiry d q psn
      (p.age < 1000 * x.rto → exec rto s = .next s) ∧
      (1000 * x.rto ≤ p.age → x.retries ≤ p.retx → answers rto s (failed 3)) ∧
      (1000 * x.rto ≤ p.age → p.retx < x.retries → answers rto s (after (x.modPkt psn fun p => { p with due := true })))) ∧
    (∀ nak resp, s.portsOff d = true → exec (.neAckArrival d q cack bm nak resp) s = .next s) ∧
    (∀ nak resp, s.portsOff d = false → (x.st = .error ∨ ∃ r, resp = some r ∧ (r.jobid ≠ x.jobid ∨ r.src ≠ x.paddr)) → answers (.neAckArrival d q cack bm nak resp) s fun u =>
      (u.net d).qps = (s.net d).qps ∧ (u.net d).stat = countUp (s.net d).stat 8 8 1 ∧ bytesKept s u) ∧
    (∀ resp, s.portsOff d = false → x.st ≠ .error → (∀ r, resp = some r → r.jobid = x.jobid ∧ r.src = x.paddr) → answers (.neAckArrival d q cack bm true resp) s (failed 4)) ∧
    (∀ resp, s.portsOff d = false → x.st ≠ .error → x.pds ≠ 2 → (∀ r, resp = some r → r.jobid = x.jobid ∧ r.src = x.paddr ∧ r.opc ≠ 2) →
      answers (.neAckArrival d q cack bm false resp) s fun u =>
        bytesKept s u ∧
        let covers (n : Nat) : Prop := (cack + 2 ^ (32 : Nat) - 1 - n) % 2 ^ (32 : Nat) < 2 ^ (31 : Nat) ∨ ((n + 2 ^ (33 : Nat) - cack - 1) % 2 ^ (32 : Nat) < 64 ∧ bm.testBit ((n + 2 ^ (33 : Nat) - cack - 1) % 2 ^ (32 : Nat)) = true)
        -- a packet that stays is acknowledged where the acknowledgement covers it, and an entry whose packets all are leaves and counts
        ∀ x', tfind (u.net d).qps q = some x' → x'.st ≠ .error → cack < 2 ^ (32 : Nat) → (∀ e ∈ x.ents, ∀ p ∈ e.pkts, p.psn < 2 ^ (32 : Nat)) →
          (∀ e' ∈ x'.ents, ∃ e ∈ x.ents, e'.msn = e.msn ∧ e'.opc = e.opc ∧ e'.lctr = e.lctr ∧ e'.pkts.length = e.pkts.length ∧
            ∀ (j : Nat) (p : NePkt), e.pkts[j]? = some p → ∃ p' : NePkt, e'.pkts[j]? = some p' ∧ p'.psn = p.psn ∧ p'.sent = p.sent ∧
              ((p.sent = true ∧ covers p.psn) → p'.acked = true) ∧ (p'.acked = true → p.acked = true ∨ (p.sent = true ∧ covers p.psn))) ∧
          ∀ e' ∈ x'.ents, e'.opc ≠ 2 → ∃ p ∈ e'.pkts, p.acked = false) ∧
    ∀ e p r, s.portsOff d = false → x.st ≠ .error → x.pds ≠ 2 → r.jobid = x.jobid → r.src = x.paddr → r.opc = 2 → x.pkt r.psn = some (e, p) → e.opc = 2 → p.sent = true → p.placed = false → r.data.length = p.len → memoryOk s →
      answers (.neAckArrival d q cack bm false (some r)) s fun u => u.homeBytes (x.base + e.loff + p.off) p.len = r.data ∧
        ∀ y, (y < x.base + e.loff + p.off ∨ x.base + e.loff + p.off + p.len ≤ y) → u.homeByte y = s.homeByte y) ∧
  (
  ∀ (s : State) (d : Nat) (p : Packet), memoryOk s →
    let rx : Instr := .nePacketReceive d p
    let dropped (u : State) : Prop := (u.net d).qps = (s.net d).qps ∧ (u.net d).acks = (s.net d).acks ∧ bytesKept s u ∧
      (u.net d).stat = countUp (s.net d).stat 8 8 1
    let written (lo n : Nat) (u : State) : Prop := ∀ y, (y < lo ∨ lo + n ≤ y) → u.homeByte y = s.homeByte y
    (s.portsOff d = true → exec rx s = .next s) ∧
    (s.portsOff d = false → tfind (s.net d).qps p.qp = none → answers rx s dropped ∧ ∀ cack bm nak resp, answers (.neAckArrival d p.qp cack bm nak resp) s dropped) ∧
    ∀ x, s.portsOff d = false → tfind (s.net d).qps p.qp = some x →
      let clear (n : Nat) : Prop := ∀ k ∈ sectorsOf (x.base + p.roff) n, s.errorLine (k / 4) = false
      let failed (u : State) : Prop := bytesKept s u ∧ ∃ x', tfind (u.net d).qps p.qp = some x' ∧ x'.st = .error ∧ x'.errc = 5 ∧ x'.ents = []
      let mine : Prop := x.st = .open_ ∧ p.jobid = x.jobid ∧ p.src = x.paddr
      let rel := (p.psn + 2 ^ (32 : Nat) - x.cack) % 2 ^ (32 : Nat)
      let old : Prop := 2 ^ (31 : Nat) ≤ rel ∨ p.psn ∈ x.seen
      let known : Prop := p.opc = 1 ∨ (x.pds ≠ 2 ∧ (p.opc = 2 ∨ p.opc = 3 ∨ (p.opc = 4 ∧ p.rtype < 8)))
      let fresh : Prop := mine ∧ known ∧ (x.pds = 2 ∨ (¬ old ∧ rel < 1024 ∧ (x.pds = 1 → p.psn = x.cack)))
      let inside (n : Nat) : Prop := p.roff + n ≤ x.len
      let bounded : Prop := p.opc = 3 ∨ inside (if p.opc = 2 then p.len else p.data.length)
      let acked (nak : Bool) (resp : Option Packet) (u : State) : Prop :=
        if x.pds = 2 ∧ nak = false then (u.net d).acks = (s.net d).acks
        else ∃ a, (u.net d).acks = (s.net d).acks ++ [a] ∧ a.qp = x.rqp ∧ a.jobid = x.jobid ∧ a.src = s.netAddress d ∧ a.nak = nak ∧ a.resp = resp
      let read : Packet := { p with qp := x.rqp, src := s.netAddress d, data := s.homeBytes (x.base + p.roff) p.len }
      let counted (u : State) : Prop := x.rxcen = true →
        (u.net d).ctr x.rxctr = { (s.net d).ctr x.rxctr with value := ((s.net d).ctr x.rxctr).value + BitVec.ofNat 64 p.data.length }
      p.psn < 2 ^ (32 : Nat) → x.cack < 2 ^ (32 : Nat) →
      (¬ (mine ∧ known) → answers rx s dropped) ∧
      (mine → known → x.pds ≠ 2 → old → bounded → p.opc = 2 → ¬ clear p.len → answers rx s failed) ∧
      (mine → known → x.pds ≠ 2 → old → bounded → (p.opc = 2 → clear p.len) → answers rx s fun u => acked false (if p.opc = 2 then some read else none) u ∧
        (u.net d).qps = (s.net d).qps ∧ bytesKept s u) ∧
      (mine → known → x.pds ≠ 2 → ¬ old → (1024 ≤ rel ∨ (x.pds = 1 ∧ p.psn ≠ x.cack)) → exec rx s = .next s) ∧
      ((fresh ∨ (mine ∧ known ∧ x.pds ≠ 2 ∧ old)) → ¬ bounded → answers rx s fun u => acked true none u ∧
        (u.net d).qps = (s.net d).qps ∧ (u.net d).stat = countUp (s.net d).stat 0 8 1 ∧ bytesKept s u) ∧
      (fresh → p.opc = 1 → inside p.data.length → answers rx s fun u =>
        u.homeBytes (x.base + p.roff) p.data.length = p.data ∧ written (x.base + p.roff) p.data.length u ∧ acked false none u ∧ counted u) ∧
      (fresh → p.opc = 2 → inside p.len → ¬ clear p.len → answers rx s failed) ∧
      (fresh → p.opc = 2 → inside p.len → clear p.len → answers rx s fun u => bytesKept s u ∧ acked false (some read) u) ∧
      (let n := if p.rtype = 1 ∨ p.rtype = 4 ∨ p.rtype = 7 then 8 else 4
       (fresh → p.opc = 4 → x.pds ≠ 2 → p.rtype < 8 → inside p.data.length → ¬ clear p.data.length → answers rx s failed) ∧
       (fresh → p.opc = 4 → x.pds ≠ 2 → p.rtype < 8 → inside p.data.length → clear p.data.length → p.data.length % n = 0 → answers rx s fun u =>
        (∀ i, i < p.data.length / n → numBytes (u.homeBytes (x.base + p.roff + n * i) n) =
          reduceElem p.rtype [numBytes (s.homeBytes (x.base + p.roff + n * i) n), numBytes ((p.data.drop (n * i)).take n)] % 2 ^ (8 * n)) ∧
        written (x.base + p.roff) p.data.length u ∧ acked false none u ∧ counted u)) ∧
      (fresh → p.opc = 3 → x.pds ≠ 2 → (x.ren = false ∨ 2 ^ x.rlog2 ≤ (x.rxidx + 2 ^ (33 : Nat) - 1 - p.msn) % 2 ^ (32 : Nat)) → answers rx s dropped) ∧
      (let i := p.msn % 2 ^ x.rlog2
       let cap := 2 ^ x.bshift
       let buf := x.base + x.rxbuf + cap * i
       let record := x.base + x.rxcpl + 16 * i
       fresh → p.opc = 3 → x.pds ≠ 2 → x.ren = true → (x.rxidx + 2 ^ (33 : Nat) - 1 - p.msn) % 2 ^ (32 : Nat) < 2 ^ x.rlog2 → (∀ m ∈ x.msgs, m.msn ≠ p.msn) →
       (record + 16 ≤ buf ∨ buf + cap ≤ record) → p.off + p.data.length ≤ cap →
        (p.data.length ≠ p.msgLen → answers rx s fun u => u.homeBytes (buf + p.off) p.data.length = p.data ∧ written (buf + p.off) p.data.length u ∧
          acked false none u ∧ counted u ∧ ∃ x', tfind (u.net d).qps p.qp = some x' ∧ x'.rxdone = x.rxdone) ∧
        (p.data.length = p.msgLen → answers rx s fun u => u.homeBytes (buf + p.off) p.data.length = p.data ∧ acked false none u ∧ counted u ∧
          numBytes (u.homeBytes record 8) = p.tag.toNat ∧ numBytes (u.homeBytes (record + 8) 4) = min p.msgLen cap % 2 ^ (32 : Nat) ∧
          numBytes (u.homeBytes (record + 12) 2) = p.msn % 2 ^ (16 : Nat) ∧ u.homeByte (record + 14) = (if cap < p.msgLen then 1#8 else 0#8) ∧
          u.homeByte (record + 15) = 0x80#8 ∧ ∃ x', tfind (u.net d).qps p.qp = some x' ∧ x'.rxdone = (x.rxdone + 1) % 2 ^ (32 : Nat))))

/-! The samplers (R439 to R473). -/

/-- R67: the sampler opcodes 0x01 to 0x16 stand, in order, for their mnemonics: a word that a sampler decodes has one of these opcodes and is the
instruction of that place, and each of them decodes for some fields. -/
def Obligations.SamplerOpcodesAreAssignedInOrder : Prop :=
  (∀ w i, w < 2 ^ 32 → decodeSampler w = some i →
    let at_ (n : Nat) (p : Prop) : Prop := w / 2 ^ 26 = n ∧ p
    at_ 0x01 (∃ c off d a, i = .smLd c off d a) ∨ at_ 0x02 (∃ c off a b, i = .smSt c off a b) ∨ at_ 0x03 (∃ f v d, i = .smLi f v d) ∨
    at_ 0x04 (∃ d a, i = .smMov d a) ∨ at_ 0x05 (∃ f m d a b, i = .smAdd f m d a b) ∨ at_ 0x06 (∃ f m d a b, i = .smSub f m d a b) ∨
    at_ 0x07 (∃ u r f d a b, i = .smCmp u r f d a b) ∨ at_ 0x08 (∃ f d a b, i = .smMax f d a b) ∨ at_ 0x09 (∃ d a b, i = .smDiv d a b) ∨
    at_ 0x0A (∃ d a, i = .smExp d a) ∨ at_ 0x0B (∃ k d, i = .smSum k d) ∨ at_ 0x0C (∃ k d a b, i = .smTopk k d a b) ∨ at_ 0x0D (∃ d a, i = .smTopp d a) ∨
    at_ 0x0E (∃ d a, i = .smTemp d a) ∨ at_ 0x0F (∃ u d, i = .smRng u d) ∨ at_ 0x10 (∃ d a, i = .smDraw d a) ∨ at_ 0x11 (∃ d a, i = .smTree d a) ∨
    at_ 0x12 (∃ x d a b, i = .smAcc x d a b) ∨ at_ 0x13 (∃ a, i = .smEmit a) ∨ at_ 0x14 (∃ o, i = .smBr o) ∨ at_ 0x15 (∃ a o, i = .smBz a o) ∨
    at_ 0x16 (∃ a, i = .smEnd a)) ∧
  ∀ n, 0x01 ≤ n → n ≤ 0x16 → ∃ w, w < 2 ^ 32 ∧ w / 2 ^ 26 = n ∧ decodeSampler w ≠ none

/-- R460 to R464: a sampler command whose handle and operand bits pass parks its task for the sampler, `sm.ctx.open` and `sm.prog` with the bytes
they read, `sm.wait` until its run has ended; else it is SMP_COMMAND with TVAL the register that fails. R461 to R466: the sampler's answers: an
open takes the lowest free handle with the record's fields, or is BUSY or BAD_RECORD; close, reset and `sm.prog` act on a context that does not
run, and else answer BUSY; the status word; a cancel sets CPEND once, from a task or through SMCANCEL with the context's number; a start is
HALTED, BUSY or NOPROG, or waits, after its release, for one of the 16 run places and then runs from its start word with its argument in s1; a
wait collects an ended run with an acquire, and `sm.wait.try` of a running one is PENDING. -/
def Obligations.SamplerCommandsAreAnswered : Prop :=
  (
  ∀ (h : CHdr) (d a b : Nat) (s : State) (c t : Nat), s.cur = .task c t →
    let pc := (s.task c t).pc
    let v := s.reg c t a
    let y := s.reg c t b
    let ctx (n : Nat) (x : SmCtx) : Prop := n < 4096 ∧ s.smCtx (dieOf c) n = some x ∧ x.weave = s.weaveNo c
    let held (n : Nat) : Prop := ∃ x, ctx n x
    let collects (n : Nat) : Prop := ∃ x, ctx n x ∧ (x.st = .running ∨ x.ended ≠ none)
    let waits (i : Instr) (what : WaitFor) (p : Wait → Prop) : Prop := answers i s fun u =>
      (u.task c t).st = .parked ∧ (u.task c t).pc = pc ∧ (∀ r, u.reg c t r = s.reg c t r) ∧ onlyTask s c t u ∧ bytesKept s u ∧
      ∃ w, (u.task c t).wait = some w ∧ w.what = what ∧ w.instr = i ∧ w.len = ctlLen h 1 ∧ p w
    let bad (i : Instr) (v : Word) : Prop := handles s c t → answers i s (entered s c t 41 pc v)
    (∀ i ∈ [Instr.smCtxClose h d a, .smCtxReset h d a, .smCtxRd h d a, .smCancel h d a],
      (held v.toNat → waits i .answer fun _ => True) ∧ (¬ held v.toNat → bad i v)) ∧
    (let right : Prop := v.toNat / 2 ^ 12 % 2 ^ 4 = 0 ∧ v.toNat / 2 ^ 24 = 0 ∧ held (v.toNat % 2 ^ 12)
     (right → waits (.smStart h d a b) .answer fun _ => True) ∧ (¬ right → bad (.smStart h d a b) v)) ∧
    (collects v.toNat → waits (.smWait h d a) (.run v.toNat) (fun _ => True) ∧ waits (.smWaitTry h d a) .answer fun _ => True) ∧
    (¬ collects v.toNat → bad (.smWait h d a) v ∧ bad (.smWaitTry h d a) v) ∧
    (∀ bs p, v.toNat % 128 = 0 → s.readBlock c t v.toNat 128 = .ok bs → smPlaces (s.core c) bs = .ok p →
      waits (.smCtxOpen h d a) .answer fun w => w.blk = bs) ∧
    (v.toNat % 128 ≠ 0 → bad (.smCtxOpen h d a) v) ∧
    (let n := y.toNat / 2 ^ 16 % 2 ^ 9
     let right : Prop := y.toNat / 2 ^ 12 % 2 ^ 4 = 0 ∧ y.toNat / 2 ^ 25 = 0 ∧ 1 ≤ n ∧ n ≤ 256 ∧ held (y.toNat % 2 ^ 12)
     (∀ bs, v.toNat % 4 = 0 → right → s.readBlock c t v.toNat (4 * n) = .ok bs → waits (.smProg h d a b) .answer fun w => w.blk = bs) ∧
     (v.toNat % 4 ≠ 0 → bad (.smProg h d a b) v) ∧ (v.toNat % 4 = 0 → ¬ right → bad (.smProg h d a b) y))) ∧
  (
  (∀ (h : CHdr) (d a b : Nat) (s : State) (c t : Nat) (w : Wait), s.waitOf c t = some w → s.isFrozen c = false →
    let n := dieOf c
    let v := s.reg c t a
    let cmd : Instr := .samplerAnswer c t
    let val (v : Nat) (u : State) : Prop :=
      u.reg c t d = (if d = 0 then 0#64 else BitVec.ofNat 64 v) ∧ (∀ r, r ≠ d → u.reg c t r = s.reg c t r) ∧ (u.task c t).st = .ready ∧
      (u.task c t).pc = (s.task c t).pc + BitVec.ofNat 64 w.len
    let only (k : Nat) (x : SmCtx) (u : State) : Prop := u.smCtx n k = some x ∧ ∀ m, m ≠ k → u.smCtx n m = s.smCtx n m
    let ctx (k : Nat) (x : SmCtx) : Prop := k < 4096 ∧ s.smCtx n k = some x ∧ x.weave = s.weaveNo c
    -- the run has not ended, or stores of it to its region are not performed
    let going (x : SmCtx) : Prop := x.st = .running ∨ ∃ e ∈ x.out, e.kind = .region
    (∀ bs p, w.what = .answer → w.instr = .smCtxOpen h d a → w.blk = bs → smPlaces (s.core c) bs = .ok p →
      let f (i lo m : Nat) : Nat := numBytes ((bs.drop (8 * i)).take 8) / 2 ^ lo % 2 ^ m
      let right : Prop := smRecordOk bs = true ∧ p.ok c bs = true
      (¬ right → answers cmd s fun u => val 2 u ∧ u.smps = s.smps) ∧
      (right → (∀ k, k < 4096 → s.smCtx n k ≠ none) → answers cmd s fun u => val 1 u ∧ u.smps = s.smps) ∧
      ∀ k, right → k < 4096 → s.smCtx n k = none → (∀ m, m < k → s.smCtx n m ≠ none) → answers cmd s fun u => val (2 ^ 32 * k) u ∧ ∃ x, only k x u ∧
        x.weave = s.weaveNo c ∧ x.ctx = (s.core c).ctxno ∧ some x.base = p.base ∧ x.len = f 1 0 64 ∧ some x.spill = p.spill ∧ x.emit = p.emit ∧
        x.elog2 = f 6 0 4 ∧ x.evt = f 7 0 64 ∧ x.map = p.map ∧ x.lenw = p.lenw ∧ x.stepmax = f 10 32 32 ∧ x.seqid = f 11 0 32 ∧
        x.key = BitVec.ofNat 64 (f 3 0 64) ∧ x.stream = f 4 0 32 ∧ x.ctr = f 4 32 32 ∧ x.pos = f 10 0 32 ∧ x.cand = [] ∧ x.prog = [] ∧ x.st = .idle ∧
        x.res = false) ∧
    (∀ x, w.what = .answer → ctx v.toNat x →
      let st : Nat := match x.st with
        | .idle => 1
        | .running => 2
        | .halted => 3
      (w.instr = .smCtxRd h d a → answers cmd s fun u => u.smps = s.smps ∧
        val (2 ^ 62 * st + 2 ^ 61 * (if x.res then 1 else 0) + 2 ^ 60 * (if x.cpend then 1 else 0) + 2 ^ 48 * x.cand.length + 2 ^ 40 * x.last + x.pos) u) ∧
      (x.st = .running → (w.instr = .smCtxClose h d a ∨ w.instr = .smCtxReset h d a) → answers cmd s fun u => val 1 u ∧ u.smps = s.smps) ∧
      (x.st ≠ .running → w.instr = .smCtxClose h d a → answers cmd s fun u => val 0 u ∧
        (x.out = [] → (u.smp n).ctxs = tdel (s.smp n).ctxs v.toNat) ∧
        -- stores that are on their way stay, under no handle
        (x.out ≠ [] → (u.smp n).ctxs = tput (tdel (s.smp n).ctxs v.toNat) (4096 + s.nextId) { x with st := .idle, res := false, ended := none })) ∧
      (x.st ≠ .running → w.instr = .smCtxReset h d a → answers cmd s fun u => val 0 u ∧ only v.toNat { x with st := .idle, cand := [] } u) ∧
      (w.instr = .smCancel h d a →
        (x.st = .running → x.ending = none → x.cpend = false → answers cmd s fun u => val 0 u ∧ only v.toNat { x with cpend := true } u) ∧
        ((x.st ≠ .running ∨ x.ending ≠ none ∨ x.cpend = true) → answers cmd s fun u => val 1 u ∧ u.smps = s.smps)) ∧
      (w.instr = .smWaitTry h d a → (going x → answers cmd s fun u => val 0xFF u ∧ u.smps = s.smps) ∧
        ∀ e, ¬ going x → x.ended = some e → answers cmd s fun u => val (2 ^ 32 * e.1 + 2 ^ 16 * e.2.1 + e.2.2) u ∧ only v.toNat { x with ended := none } u)) ∧
    (∀ x, w.what = .answer → w.instr = .smProg h d a b → ctx ((s.reg c t b).toNat % 2 ^ 12) x →
      (x.st = .running → answers cmd s fun u => val 1 u ∧ u.smps = s.smps) ∧
      (x.st ≠ .running → answers cmd s fun u => val 0 u ∧ ∃ ws, only ((s.reg c t b).toNat % 2 ^ 12) { x with prog := ws } u ∧ ws.length = w.blk.length / 4 ∧
        ∀ i, i < ws.length → ws[i]? = some (numBytes ((w.blk.drop (4 * i)).take 4)))) ∧
    (∀ x, w.what = .answer → w.instr = .smStart h d a b → ctx (v.toNat % 2 ^ 12) x →
      ((s.core c).quiet t = false → exec cmd s = .next s) ∧
      ((s.core c).quiet t = true → (x.st = .halted → answers cmd s fun u => val 3 u ∧ u.smps = s.smps) ∧
        (x.st = .running → answers cmd s fun u => val 1 u ∧ u.smps = s.smps) ∧
        (x.st = .idle → x.prog = [] → answers cmd s fun u => val 2 u ∧ u.smps = s.smps) ∧
        (x.st = .idle → x.prog ≠ [] → answers cmd s fun u => (u.task c t).st = .parked ∧ u.smps = s.smps ∧ u.homes = (s.release c 4).homes))) ∧
    ∀ x, w.what = .run v.toNat → w.instr = .smWait h d a → ctx v.toNat x → s.stopped c = false → c < 8192 → t < 8 →
      (going x → s.turn (.wake c t) = .next s) ∧
      ∀ e, ¬ going x → x.ended = some e → ∃ u, s.turn (.wake c t) = .next u ∧
        val (2 ^ 32 * e.1 + 2 ^ 16 * e.2.1 + e.2.2) u ∧ only v.toNat { x with ended := none } u) ∧
  (∀ (s : State) (d k c t rd a b : Nat) (h : CHdr) (x : SmCtx) (w : Wait), s.starter d k = some (c, t, w) → w.instr = .smStart h rd a b →
    s.smCtx d k = some x → s.isFrozen c = false → s.waitOf c t = some w → rd ≠ 0 →
    let v := (s.reg c t a).toNat
    let go (u : State) : Prop := (u.task c t).st = .ready ∧ ∀ r, r ≠ rd → u.reg c t r = s.reg c t r
    (x.st = .idle → x.prog ≠ [] → 16 ≤ (s.smp d).running → exec (.smRunBegin d k) s = .next s) ∧
    (x.st = .idle → x.prog ≠ [] → (s.smp d).running < 16 → answers (.smRunBegin d k) s fun u => go u ∧ u.reg c t rd = 0#64 ∧
      ∃ y, u.smCtx d k = some y ∧ y.st = .running ∧ y.res = true ∧ y.pc = v / 2 ^ 16 % 2 ^ 8 ∧ y.reg 1 = s.reg c t b ∧
        (∀ r, 2 ≤ r → r ≤ 27 → y.reg r = 0#64) ∧ y.committed = 0 ∧ y.issued = 0 ∧ y.check = false ∧ y.cpend = false ∧ y.ended = none ∧
        y.cand = x.cand ∧ y.prog = x.prog ∧ y.key = x.key ∧ y.stream = x.stream ∧ y.ctr = x.ctr ∧ y.pos = x.pos)) ∧
  ∀ (s : State) (d : Nat) (v : Word) (x : SmCtx), s.smCtx d (v.toNat % 2 ^ 12) = some x →
    (s.hostUp (d / 2) = false → exec (.smcancelWrite d v) s = .next s) ∧
    (s.hostUp (d / 2) = true → x.ctx = v.toNat / 2 ^ 16 % 2 ^ 16 → x.st = .running → x.ending = none → answers (.smcancelWrite d v) s fun u =>
      u.smCtx d (v.toNat % 2 ^ 12) = some { x with cpend := true } ∧ (∀ m, m ≠ v.toNat % 2 ^ 12 → u.smCtx d m = s.smCtx d m) ∧ bytesKept s u) ∧
    ((x.ctx ≠ v.toNat / 2 ^ 16 % 2 ^ 16 ∨ x.st ≠ .running ∨ x.ending ≠ none) → exec (.smcancelWrite d v) s = .next s))

/-- R443, R445 to R450, R457 to R459: what the scalar, memory and control words of a run do: s0 and s31 discard writes, s29 and s30 keep 32 bits, a
result in FP32 is rounded to nearest even, and the run goes on at the next word; an access out of bounds ends it BOUNDS, one to a line of the
error-address table MEMORY_ERROR; a load finds the run's own stores that are still on their way, and a store to the region goes behind them;
`sm.emit` queues the record, the length word and the notify; `sm.end` ends the run DONE once its emits are done; STEPMAX ends it LIMIT; a cancel at
its point, in a check pass before the next `sm.tree` or `sm.end` (R466), ends it CANCELLED and moves the generation. The model's choices here: the
length word takes POS + 1 as it is, log entry 46, and where MAP lies in device space no generation moves, log entry 100. R451 to R456: the candidate words. `sm.topk` keeps the first K of the pool in canonical order, skips −∞ and
ends BAD_LOGIT at a NaN or +∞; `sm.temp` is greedy, scales, or ends BAD_TEMPERATURE; `sm.topp` keeps the smallest prefix whose weight reaches p ×
W; `sm.sum` and `sm.draw` use the running weights. Said for pools without a NaN score, whose place the spec leaves open. -/
def Obligations.SamplerWordsAct : Prop :=
  (
  ∀ (d h : Nat) (s : State) (x : SmCtx), s.smCtx d h = some x →
    let reg (r : Nat) : Word := if r = 0 then 0#64 else if r = 28 then x.key else if r = 29 then BitVec.ofNat 64 x.stream else
      if r = 30 then BitVec.ofNat 64 x.ctr else if r = 31 then BitVec.ofNat 64 x.cand.length else tget 0#64 x.regs r
    let put (x : SmCtx) (r : Nat) (v : Word) : SmCtx := if r = 0 ∨ r = 31 then x else if r = 28 then { x with key := v } else
      if r = 29 then { x with stream := v.toNat % 2 ^ 32 } else if r = 30 then { x with ctr := v.toNat % 2 ^ 32 } else { x with regs := tput x.regs r v }
    let alone (u : State) : Prop := (∀ m, m ≠ h → u.smCtx d m = s.smCtx d m) ∧ (∀ m, m ≠ d → u.smp m = s.smp m) ∧ u.cores = s.cores
    let now (y : SmCtx) (u : State) : Prop := u.smCtx d h = some y ∧ alone u
    let gives (i : Instr) (r : Nat) (v : Word) : Prop := answers i s fun u => now { put x r v with pc := x.pc + 1 } u ∧ bytesKept s u
    let over_ (st : Nat) (res : Nat) : SmCtx :=
      { x with st := if st < 3 then .idle else .halted, last := st, ended := some (res, min 65535 x.committed, st), ending := none, cpend := false,
               stopped := false, check := false }
    let ends (i : Instr) (st : Nat) : Prop := answers i s fun u => now (over_ st 0) u ∧ bytesKept s u
    let val (r : Nat) : FVal := decodeFloat .f32 false ((reg r).toNat % 2 ^ 32)
    let rne (v : FVal) : Word := BitVec.ofNat 64 (packFloat .f32 0 false false 0 v).bits
    let im (n v : Nat) : Word := (BitVec.ofNat n v).signExtend 64
    let clear (o n : Nat) : Prop := ∀ l, (x.base + o) / 128 ≤ l → l ≤ (x.base + o + n - 1) / 128 → s.errorLine l = false
    (s.cur = .run d h → ∀ (off imm val_ r a b rel : Nat) (u_ : Bool), off < 2 ^ 10 → imm < 2 ^ 10 → val_ < 2 ^ 20 → rel < 6 → x.cand.length ≤ 1024 →
      let i := (reg a + im 10 off).toNat
      let o := (reg a + 8#64 * im 10 off).toNat
      let out : Prop := o % 8 ≠ 0 ∨ x.len < o + 8
      (i < x.cand.length → gives (.smLd true off r a) r (BitVec.ofNat 64 (x.cand.getD i 0))) ∧ (x.cand.length ≤ i → ends (.smLd true off r a) 7) ∧
      (out → ends (.smLd false off r a) 7 ∧ ends (.smSt false off a b) 7) ∧
      (¬ out → ¬ clear o 8 → ends (.smLd false off r a) 10 ∧ ends (.smSt false off a b) 10) ∧
      (¬ out → clear o 8 → (∀ e ∈ x.out, e.kind = .notify) → gives (.smLd false off r a) r (BitVec.ofNat 64 (numBytes (s.homeBytes (x.base + o) 8)))) ∧
      (∀ pre e post, ¬ out → clear o 8 → x.out = pre ++ e :: post → e.kind ≠ .notify → e.pa = x.base + o → e.data.length = 8 → (∀ f ∈ post, f.kind = .notify) →
        gives (.smLd false off r a) r (BitVec.ofNat 64 (numBytes e.data))) ∧
      (let behind : Prop := ∃ e ∈ x.out, e.kind ≠ .notify ∧ e.pa / 2 ^ 41 = x.base / 2 ^ 41
       ¬ out → clear o 8 → behind → answers (.smSt false off a b) s fun u => bytesKept s u ∧
        ∃ e, now { x with pc := x.pc + 1, out := x.out ++ [e] } u ∧ e.kind = .region ∧ e.pa = x.base + o ∧ e.data = bytesOfNum 8 (reg b).toNat ∧
          e.run = x.run ∧ e.core = x.core) ∧
      (¬ out → clear o 8 → (∀ e ∈ x.out, e.kind ≠ .notify → e.pa / 2 ^ 41 ≠ x.base / 2 ^ 41) → memoryOk s → answers (.smSt false off a b) s fun u => u.smCtx d h = some { x with pc := x.pc + 1 } ∧
        numBytes (u.homeBytes (x.base + o) 8) = (reg b).toNat ∧ ∀ y, (y < x.base + o ∨ x.base + o + 8 ≤ y) → u.homeByte y = s.homeByte y) ∧
      (i ≤ x.cand.length → i < 1024 → answers (.smSt true off a b) s fun u => bytesKept s u ∧ ∃ cs, now { x with pc := x.pc + 1, cand := cs } u ∧
        cs.length = max x.cand.length (i + 1) ∧ ∀ k, k < cs.length → cs.getD k 0 = if k = i then (reg b).toNat else x.cand.getD k 0) ∧
      ((x.cand.length < i ∨ 1024 ≤ i) → ends (.smSt true off a b) 7) ∧
      gives (.smLi false val_ r) r (im 20 val_) ∧ gives (.smLi true val_ r) r (BitVec.ofNat 64 (2 ^ 12 * val_)) ∧ gives (.smMov r a) r (reg a) ∧
      gives (.smAdd false imm r a b) r (reg a + reg b + im 10 imm) ∧ gives (.smSub false imm r a b) r (reg a - reg b + im 10 imm) ∧
      gives (.smAdd true 0 r a b) r (rne (addF 0 (val a) (val b))) ∧ gives (.smSub true 0 r a b) r (rne (addF 0 (val a) (negF (val b)))) ∧
      (let z : Int × Int := if u_ then (((reg a).toNat : Int), ((reg b).toNat : Int)) else ((reg a).toInt, (reg b).toInt)
       let holds : Bool := if rel = 0 then decide (z.1 = z.2) else if rel = 1 then decide (z.1 ≠ z.2) else if rel = 2 then decide (z.1 < z.2) else
         if rel = 3 then decide (z.1 ≤ z.2) else if rel = 4 then decide (z.2 < z.1) else decide (z.2 ≤ z.1)
       gives (.smCmp u_ rel false r a b) r (if holds then 1#64 else 0#64)) ∧
      gives (.smCmp false rel true r a b) r (if relF rel (val a) (val b) then 1#64 else 0#64) ∧
      gives (.smMax false r a b) r (BitVec.ofInt 64 (max (reg a).toInt (reg b).toInt)) ∧ gives (.smMax true r a b) r (rne (minMaxF true (val a) (val b))) ∧
      gives (.smDiv r a b) r (rne (divF (val a) (val b))) ∧ gives (.smExp r a) r (BitVec.ofNat 64 (exp2F (val a)).bits) ∧
      (let z := generator x.key.toNat x.stream x.ctr
       answers (.smRng u_ r) s fun u => now { put { x with ctr := (x.ctr + 1) % 2 ^ 32 } r (BitVec.ofNat 64 (if u_ then z / 2 ^ 40 else z)) with pc := x.pc + 1 } u ∧
         bytesKept s u) ∧
      (let o := (reg a).toNat
       let at_ (k : Nat) : Word := BitVec.ofNat 64 (numBytes (bytesAt s.banks (x.base + o + 8 * k) 8))
       let st := 4 * ((x.base + o) / 2 ^ 41) + (x.base + o) / 2 ^ 12 % 4
       (o % 32 = 0 → o + 32 ≤ x.len → clear o 32 → answers (.smTree r a) s fun u => bytesKept s u ∧
         tget 0#64 u.twstat st = wrapUp (tget 0#64 s.twstat st) 32 32 1 ∧
         now { put (put (put { x with check := true } r (at_ 0)) (r + 1) (at_ 1)) (r + 2) (at_ 2) with pc := x.pc + 1 } u) ∧
       ((o % 32 ≠ 0 ∨ x.len < o + 32) → ends (.smTree r a) 7) ∧ (o % 32 = 0 → o + 32 ≤ x.len → ¬ clear o 32 → ends (.smTree r a) 10)) ∧
      (let tok := (reg a).toNat % 2 ^ 32
       let draw : FVal := .fin false ((reg b).toNat % 2 ^ 24) (-24)
       let e2 (bits : Nat) : FVal := decodeFloat .f32 false (exp2F (decodeFloat .f32 false bits)).bits
       let q := e2 ((reg a).toNat / 2 ^ 32)
       let pass (p : FVal) : Bool := relF 2 (decodeFloat .f32 false (packFloat .f32 0 false false 0 (mulF draw q)).bits) p
       (∀ k, k < x.cand.length → x.cand.getD k 0 % 2 ^ 32 = tok → (∀ j, j < k → x.cand.getD j 0 % 2 ^ 32 ≠ tok) →
         let yes := pass (e2 (x.cand.getD k 0 / 2 ^ 32 % 2 ^ 32))
         answers (.smAcc u_ r a b) s fun u => bytesKept s u ∧
           now { put { x with cand := if yes = false ∧ u_ = true then x.cand.take k ++ x.cand.drop (k + 1) else x.cand } r (if yes then 1#64 else 0#64) with pc := x.pc + 1 } u) ∧
       ((∀ j, j < x.cand.length → x.cand.getD j 0 % 2 ^ 32 ≠ tok) → gives (.smAcc u_ r a b) r (if pass (.fin false 0 0) then 1#64 else 0#64))) ∧
      (x.emit = none → ends (.smEmit a) 6) ∧
      (∀ base, x.emit = some base → answers (.smEmit a) s fun u => bytesKept s u ∧ ∃ es,
        now { x with pc := x.pc + 1, pos := (x.pos + 1) % 2 ^ 32, committed := x.committed + 1, out := x.out ++ es } u ∧
        (∃ e ∈ es, e.kind = .store ∧ e.pa = base + 16 * (x.pos % 2 ^ x.elog2) ∧ e.run = x.run ∧ e.core = x.core ∧ e.logged = false ∧
          e.data = bytesOfNum 4 ((reg a).toNat % 2 ^ 32) ++ bytesOfNum 4 x.pos ++ bytesOfNum 4 x.seqid ++ [0#8, 0#8, 0#8, 0x80#8]) ∧
        (∀ l, x.lenw = some l → ∃ e ∈ es, e.kind = .store ∧ e.pa = l ∧ e.data = bytesOfNum 8 (x.pos + 1)) ∧
        (x.evt / 2 ^ 63 % 2 = 1 → ∃ e, es.getLast? = some e ∧ e.kind = .notify ∧ e.ev = x.evt % 2 ^ 18) ∧
        es.length = 1 + (if x.lenw = none then 0 else 1) + x.evt / 2 ^ 63 % 2) ∧
      (x.st = .running → (x.out = [] → h < 4096 → s.weaveGone x.weave = false → answers (.smEnd a) s fun u => now (over_ 0 ((reg a).toNat % 2 ^ 32)) u ∧ bytesKept s u) ∧
        (x.out ≠ [] → answers (.smEnd a) s fun u => now { x with ending := some ((reg a).toNat % 2 ^ 32) } u ∧ bytesKept s u))) ∧
    (∀ off a, s.cur = .run d h → off < 2 ^ 21 →
      let there (n : Nat) : SmCtx := { x with pc := (((x.pc : Int) + (BitVec.ofNat n off).toInt) % 2 ^ 64).toNat }
      (answers (.smBr off) s fun u => now (there 21) u ∧ bytesKept s u) ∧
      answers (.smBz a (off % 2 ^ 11)) s fun u => now (if reg a = 0#64 then there 11 else { x with pc := x.pc + 1 }) u ∧ bytesKept s u) ∧
    (let live : Prop := x.st = .running ∧ x.ending = none ∧ s.weaveHalted x.weave = false ∧ s.weaveGone x.weave = false
     (live → x.stopped = false → x.stepmax ≤ x.issued → ends (.smStepLimit d h) 2) ∧ (x.issued < x.stepmax → exec (.smStepLimit d h) s = .next s) ∧
     (let op := x.prog.getD x.pc 0 / 2 ^ 26 % 2 ^ 6
      let boundary : Prop := x.pc < x.prog.length ∧ (op = 0x11 ∨ op = 0x16)
      live → x.cpend = true → (x.check = true → x.stopped = false → ¬ boundary → exec (.smCancelEffect d h) s = .next s) ∧
      (x.check = false ∨ x.stopped = true ∨ boundary →
        (x.out ≠ [] → answers (.smCancelEffect d h) s fun u => now { x with stopped := true } u ∧ bytesKept s u) ∧
        (x.out = [] → x.map = none → ends (.smCancelEffect d h) 1) ∧
        (∀ a, x.out = [] → x.map = some a → inDev a = true → ends (.smCancelEffect d h) 1) ∧
        ∀ a, x.out = [] → x.map = some a → inDev a = false → memoryOk s → answers (.smCancelEffect d h) s fun u => u.smCtx d h = some (over_ 1 0) ∧
          numBytes (u.homeBytes a 2) = (numBytes (s.homeBytes a 2) + 1) % 2 ^ 16 ∧ ∀ y, (y < a ∨ a + 2 ≤ y) → u.homeByte y = s.homeByte y)) ∧
     (x.cpend = false → exec (.smCancelEffect d h) s = .next s))) ∧
  (
  ∀ (d h k kind r a b : Nat) (s : State) (x : SmCtx), s.cur = .run d h → s.smCtx d h = some x → r ≠ 0 → r < 28 →
    let reg (r : Nat) : Nat := (x.reg r).toNat
    let cut (w lo n : Nat) : Nat := w / 2 ^ lo % 2 ^ n
    let val (n : Nat) : FVal := decodeFloat .f32 false n
    let rne (v : FVal) : Nat := (packFloat .f32 0 false false 0 v).bits
    let tok (c : Nat) : Nat := cut c 0 32
    let score (c : Nat) : FVal := val (cut c 32 32)
    let before (a b : Nat) : Prop := relF 4 (score a) (score b) = true ∨ (relF 0 (score a) (score b) = true ∧ tok a ≤ tok b)
    let sorted (l : List Nat) : Prop := l.Pairwise before
    let number (l : List Nat) : Prop := ∀ c ∈ l, score c ≠ .nan ∧ c < 2 ^ 64
    let went (p : SmCtx → Prop) (i : Instr) : Prop := answers i s fun u => bytesKept s u ∧ u.cores = s.cores ∧ (∀ m, m ≠ h → u.smCtx d m = s.smCtx d m) ∧
      ∃ y, u.smCtx d h = some y ∧ y.pc = x.pc + 1 ∧ y.pos = x.pos ∧ y.st = x.st ∧ y.prog = x.prog ∧ y.key = x.key ∧ y.ctr = x.ctr ∧ y.out = x.out ∧
        (∀ q, q ≠ r → q ≠ 31 → y.reg q = x.reg q) ∧ p y
    let ends (i : Instr) (st : Nat) : Prop := answers i s fun u => bytesKept s u ∧ ∃ y, u.smCtx d h = some y ∧ y.st = .halted ∧ y.last = st ∧
      y.ended = some (0, min 65535 x.committed, st)
    let weight (l : List Nat) (i : Nat) : FVal :=
      (l.take (i + 1)).foldl (fun w c => val (rne (addF 0 w (val (exp2F (score c)).bits)))) (.fin false 0 0)
    let total (l : List Nat) : FVal := weight l (l.length - 1)
    let unusable (w : FVal) : Prop := w = .nan ∨ w = .inf false ∨ ∃ sg e, w = .fin sg 0 e
    -- `sm.topk`
    (let off := cut (reg a) 0 40
     let v := cut (reg b) 0 24
     let eb := if cut (reg b) 24 1 = 1 then 2 else 4
     let logit (e : Nat) : Nat := if cut (reg b) 24 1 = 1 then 2 ^ 16 * s.runNum x (x.base + off + 2 * e) 2 else s.runNum x (x.base + off + 4 * e) 4
     let sum (e : Nat) : Nat := rne (addF 0 (val (logit e)) (val (cut (reg b) 32 32)))
     let top (n : Nat) : Prop := val n = .nan ∨ val n = .inf false
     let wrong : Prop := ∃ e, e < v ∧ (top (logit e) ∨ (val (logit e) ≠ .inf true ∧ top (sum e)))
     let new : List Nat := (List.range v).filterMap fun e =>
       if val (logit e) = .inf true ∨ val (sum e) = .inf true then none else some (2 ^ 32 * sum e + 2 ^ 24 * cut (reg a) 40 8 + e)
     let pool : List Nat := (if cut (reg b) 25 1 = 1 then x.cand else []) ++ new
     let reserved : Prop := cut (reg a) 48 16 ≠ 0 ∨ cut (reg b) 26 6 ≠ 0
     let outside : Prop := off % eb ≠ 0 ∨ x.len < off + v * eb
     (∀ y n, (∀ e ∈ x.out, e.kind = .notify) → s.runNum x y n = numBytes (s.homeBytes y n)) ∧
     (reserved → ends (.smTopk k r a b) 6) ∧ (¬ reserved → outside → ends (.smTopk k r a b) 7) ∧
     (¬ reserved → ¬ outside → (∀ l, s.errorLine l = false) → (wrong → ends (.smTopk k r a b) 5) ∧
       (¬ wrong → number pool → went (fun y => ∃ rest, (y.cand ++ rest).Perm pool ∧ sorted y.cand ∧ (∀ c ∈ y.cand, ∀ e ∈ rest, before c e) ∧
         y.cand.length = min k pool.length ∧ y.reg r = BitVec.ofNat 64 y.cand.length) (.smTopk k r a b)))) ∧
    -- `sm.temp`
    (let t := cut (reg a) 0 32
     let c := val (rne (divF (val 0x3FB8AA3B) (val t)))
     let m := (x.cand.map score).foldl (minMaxF true) (.inf true)
     let scaled : List Nat := x.cand.map fun e => 2 ^ 32 * rne (mulF (val (rne (addF 0 (score e) (negF m)))) c) + tok e
     let greedy : Prop := val t ≠ .nan ∧ cut t 23 8 = 0
     (val t = .nan → ends (.smTemp r a) 4) ∧ (val t ≠ .nan → ¬ greedy → 2 ^ 31 ≤ t → ends (.smTemp r a) 4) ∧
     (greedy → x.cand = [] → went (fun y => y.cand = [] ∧ y.reg r = 1#64) (.smTemp r a)) ∧
     (greedy → x.cand ≠ [] → number x.cand → went (fun y => y.reg r = 1#64 ∧ ∃ e ∈ x.cand, (∀ f ∈ x.cand, before e f) ∧ y.cand = [tok e]) (.smTemp r a)) ∧
     (val t ≠ .nan → ¬ greedy → t < 2 ^ 31 → (∃ e ∈ scaled, score e = .nan) → ends (.smTemp r a) 5 ∧
       answers (.smTemp r a) s fun u => ∃ y, u.smCtx d h = some y ∧ y.cand = scaled) ∧
     (val t ≠ .nan → ¬ greedy → t < 2 ^ 31 → (∀ e ∈ scaled, score e ≠ .nan) →
       went (fun y => y.cand.Perm scaled ∧ sorted y.cand ∧ y.reg r = (if val t = .inf false then 2#64 else 0#64)) (.smTemp r a))) ∧
    -- `sm.topp`
    (let p := val (cut (reg a) 0 32)
     (p = .nan → ends (.smTopp r a) 6) ∧ (p ≠ .nan → x.cand = [] → went (fun y => y.cand = [] ∧ y.reg r = 0#64) (.smTopp r a)) ∧
     (p ≠ .nan → x.cand ≠ [] → number x.cand → ∃ l, l.Perm x.cand ∧ sorted l ∧ (unusable (total l) → ends (.smTopp r a) 5) ∧
       (¬ unusable (total l) → went (fun y => ∃ n, y.cand = l.take n ∧ 1 ≤ n ∧ n ≤ l.length ∧ y.reg r = BitVec.ofNat 64 n ∧
         (n < l.length → relF 5 (weight l (n - 1)) (val (rne (mulF p (total l)))) = true) ∧
         ∀ i, i + 1 < n → relF 5 (weight l i) (val (rne (mulF p (total l)))) = false) (.smTopp r a)))) ∧
    -- `sm.sum` and `sm.draw`
    (let w := total x.cand
     (x.cand = [] → went (fun y => y.cand = [] ∧ y.reg r = 0#64) (.smSum kind r) ∧ ends (.smDraw r a) 8) ∧
     (x.cand ≠ [] → unusable w → ends (.smSum kind r) 5 ∧ ends (.smDraw r a) 5) ∧
     (x.cand ≠ [] → ¬ unusable w → kind < 3 →
       went (fun y => y.reg r = BitVec.ofNat 64 (rne w) ∧ y.cand.length = x.cand.length ∧ ∀ i, i < x.cand.length →
         let e := x.cand.getD i 0
         y.cand.getD i 0 = if kind = 0 then e else if kind = 1 then 2 ^ 32 * rne (divF (val (exp2F (score e)).bits) w) + tok e
           else 2 ^ 32 * rne (addF 0 (score e) (negF (val (log2F w).bits))) + tok e) (.smSum kind r)) ∧
     (x.cand ≠ [] → ¬ unusable w →
       let tau := val (rne (mulF (.fin false (cut (reg a) 0 24) (-24)) w))
       went (fun y => y.cand = x.cand ∧ ∃ i, i < x.cand.length ∧ y.reg r = BitVec.ofNat 64 (x.cand.getD i 0) ∧
         (i + 1 < x.cand.length → relF 4 (weight x.cand i) tau = true) ∧ ∀ j, j < i → relF 4 (weight x.cand j) tau = false) (.smDraw r a))))

/-! Debugging (R474 to R499). -/

/-- R487, R488, R490, R492 to R494: a debug word whose weave may name the target and whose target and operand pass parks its task for the halt
controllers; a target that is not the issuing weave needs SYS = 1, else it is DEBUG_PRIV; a reserved bit, OWN with CTX, a KIND or LOC that is not
allowed and a refused operand are DEBUG_COMMAND, with TVAL the register. R485, R489, R492 to R494, R497, R498: what the halt controllers answer,
to a task or, the same, through a die's halt block into HRES and HRES2, on HTGT and HARG as they stood at the write of HCMD: `dbg.resume` of a
settled halt sets T 1,000 ns after its issue, behind what of its cycle comes before it (R496), `dbg.clr` clears the
causes, `dbg.bp` reaches every resident core, `dbg.rdc` reads an item, `dbg.step` answers PARKED, NO_TASK or FROZEN, delivers a held reply, or
owes the core one step, any task that is ready, which is the model's reading, log entry 34; a halt of a weave not halted starts its wave, with PC 0
where it comes through the block, log entry 38; STATE and NO_WEAVE change nothing; the answer to a task of a frozen core is held (R481). R476, R477, R484, R491, R494: the four
steps of a halt complete, under conditions on the state alone: the cause of a breakpoint and the wave's arrival freeze the core, the settling
marks the slot, the resume at T lets every core go. -/
def Obligations.DebugCommandsAreAnswered : Prop :=
  (
  ∀ (h : CHdr) (d a b : Nat) (s : State) (c t : Nat), s.cur = .task c t →
    let pc := (s.task c t).pc
    let v := (s.reg c t a).toNat
    let y := (s.reg c t b).toNat
    let loc := v % 2 ^ 13
    let kind := v / 2 ^ 14 % 4
    let bk := loc / 2 ^ 4 % 4
    let plain : Prop := v / 2 ^ 16 % 2 ^ 31 = 0 ∧ v / 2 ^ 13 % 2 = 0 ∧ (v / 2 ^ 47 % 2 = 1 → v / 2 ^ 48 = 0)
    let allowed : Prop := v / 2 ^ 47 % 2 = 1 ∨ (∃ n, s.targetSlot c (s.reg c t a) = some n ∧ s.slotOf c = some n) ∨
      (s.targetSlot c (s.reg c t a) = none ∧ v / 2 ^ 48 = (s.core c).ctxno) ∨ ∃ w, s.weaveOf c = some w ∧ w.sys = true
    let acts (i : Instr) (target operand : Prop) : Prop :=
      (allowed → plain → target → operand → answers i s fun u =>
        (u.task c t).st = .parked ∧ (u.task c t).pc = pc ∧ (∀ r, u.reg c t r = s.reg c t r) ∧ onlyTask s c t u ∧ bytesKept s u ∧
        ∃ w, (u.task c t).wait = some w ∧ w.what = .answer ∧ w.instr = i) ∧
      (handles s c t → (¬ allowed → answers i s fun u => ∃ tv, entered s c t 43 pc tv { u with freeCtr := s.freeCtr }) ∧
        (allowed → ¬ (plain ∧ target) → answers i s (entered s c t 42 pc (s.reg c t a))) ∧
        (allowed → plain → target → ¬ operand → answers i s (entered s c t 42 pc (s.reg c t b))))
    acts (.dbgHalt h d a) (kind = 0 ∧ loc = 0) True ∧ acts (.dbgClr h d a) (kind = 0 ∧ loc = 0) True ∧
    acts (.dbgResume h d a b) (kind = 0 ∧ loc = 0) (y / 2 = 0) ∧ acts (.dbgStep h d a b) (kind = 2) (y / 2 ^ 3 % 2 ^ 5 = 0 ∧ y / 2 ^ 9 = 0) ∧
    acts (.dbgRdc h d a b) (kind = 2 ∨ (kind = 1 ∧ loc % 64 = 0) ∨ (kind = 0 ∧ loc = 0)) (y / 2 ^ 11 = 0) ∧
    acts (.dbgBp h d a b) (kind = 0 ∧ loc / 64 = 0 ∧ loc / 8 % 2 = 0 ∧ bk ≠ 3)
      ((bk = 0 → y = 0) ∧ (bk = 1 → y % 4 = 0) ∧ (bk = 2 → y % 8 = 0))) ∧
  (
  ∀ (hd : CHdr) (s : State) (op n c t d a b slot : Nat) (i e : Instr) (w : Wait) (v arg : Word),
    (op, i, e) ∈ [(1, Instr.dbgHalt hd d a, Instr.hcmdHalt n), (2, .dbgStep hd d a b, .hcmdStep n), (3, .dbgResume hd d a b, .hcmdResume n),
      (4, .dbgRdc hd d a b, .hcmdRdc n), (5, .dbgBp hd d a b, .hcmdBp n), (6, .dbgClr hd d a, .hcmdClr n)] →
    let sl : HSlot := tget {} s.hslots slot
    let blk : HBlock := tget {} s.hblocks n
    let asked : Prop := s.waitOf c t = some w ∧ w.what = .answer ∧ w.instr = i ∧ s.isFrozen c = false ∧ s.stopped c = false ∧ s.reg c t a = v ∧
      (op ≠ 1 ∧ op ≠ 6 → s.reg c t b = arg) ∧ (op = 3 → s.resumeWaits slot c t w.parkedAt = false)
    let posted : Prop := blk.cmd = some op ∧ blk.tgt = v ∧ blk.arg = arg ∧ debugBad op v arg = none ∧ tgtOwn v = false
    let told (val : Nat) (u : State) : Prop := u.reg c t d = (if d = 0 then 0#64 else BitVec.ofNat 64 val) ∧ (u.task c t).st = .ready ∧
      (u.task c t).pc = (s.task c t).pc + BitVec.ofNat 64 w.len
    let shown (val : Word) (st : Nat) (u : State) : Prop :=
      (tget {} u.hblocks n).hres = val ∧ (tget {} u.hblocks n).hres2 = BitVec.ofNat 64 (2 ^ 63 + st) ∧ (tget {} u.hblocks n).cmd = none
    let gives (val st : Nat) (p : State → Prop) : Prop :=
      (asked → s.targetSlot c v = some slot → answers (.haltControllerAnswer c t) s fun u => told val u ∧ (op = 4 → u.reg c t (d + 1) = BitVec.ofNat 64 st) ∧ p u) ∧
      (posted → s.slotOfCtx (v.toNat / 2 ^ 48) = some slot → answers e s fun u => shown (BitVec.ofNat 64 val) st u ∧ p u)
    let same (u : State) : Prop := u.hslots = s.hslots ∧ bytesKept s u
    let ready : Prop := sl.halting = true ∧ sl.settled = true ∧ sl.resuming = false
    -- no weave, and an operand that the instruction would trap on
    (asked → s.targetSlot c v = none → answers (.haltControllerAnswer c t) s fun u => told (if op = 4 then 0 else 1) u ∧ same u ∧
      (op = 4 → u.reg c t (d + 1) = 1#64)) ∧
    (posted → s.slotOfCtx (v.toNat / 2 ^ 48) = none → answers e s fun u =>
      shown (if op = 4 then 0#64 else 1#64) (if op = 4 then 1 else 0) u ∧ same u) ∧
    (blk.cmd = some op → debugBad op blk.tgt blk.arg ≠ none → answers e s fun u => shown 0xFF#64 0 u ∧ same u) ∧
    -- of one cycle a step comes before a resume, and resumes come by their places
    (op = 3 → s.waitOf c t = some w → w.what = .answer → w.instr = i → s.isFrozen c = false → s.stopped c = false → s.targetSlot c (s.reg c t a) = some slot →
      s.resumeWaits slot c t w.parkedAt = true → exec (.haltControllerAnswer c t) s = .next s) ∧
    -- the answer to a frozen core
    (s.stepping slot = false → op = 6 → s.waitOf c t = some w → w.what = .answer → w.instr = i → s.isFrozen c = true → s.stopped c = false → w.held = none →
      w.late = false → s.targetSlot c (s.reg c t a) = some slot → answers (.haltControllerAnswer c t) s fun u =>
        (∀ r, u.reg c t r = s.reg c t r) ∧ (u.task c t).st = .parked ∧ (u.task c t).pc = (s.task c t).pc ∧ (tget {} u.hslots slot).panel = { settleAt := sl.panel.settleAt } ∧
        ∃ rs, (u.task c t).wait = some { w with held := some rs }) ∧
    (s.stepping slot = false →
      (op = 3 → (¬ ready → gives 2 0 same) ∧ (ready →
        let set_ (now : Nat) (u : State) : Prop := bytesKept s u ∧ tget {} u.hslots slot = { sl with resuming := true, deliver := arg.getLsbD 0, resumeAt := now + 1000 }
        (asked → s.targetSlot c v = some slot → answers (.haltControllerAnswer c t) s fun u => told 0 u ∧ set_ w.parkedAt u) ∧
        (posted → s.slotOfCtx (v.toNat / 2 ^ 48) = some slot → answers e s fun u => shown 0#64 0 u ∧ set_ blk.at_ u))) ∧
      (op = 6 → gives 0 0 fun u => bytesKept s u ∧ (tget {} u.hslots slot).panel = { settleAt := sl.panel.settleAt } ∧
        (∀ x r, tfind sl.dies x = some r → tfind (tget {} u.hslots slot).dies x = some { settleAt := r.settleAt }) ∧
        (tget {} u.hslots slot).halting = sl.halting ∧ (tget {} u.hslots slot).resumeAt = sl.resumeAt) ∧
      (op = 5 →
        let loc := v.toNat % 2 ^ 13
        let bk := loc / 2 ^ 4 % 4
        gives 0 0 fun u => bytesKept s u ∧ (bk ≠ 0 → tfind (tget {} u.hslots slot).bps (loc % 8) = some (bk, arg.toNat)) ∧
          (bk = 0 → (tget {} u.hslots slot).bps = tdel sl.bps (loc % 8)) ∧
          ∀ k x, sl.weave = some k → tfind s.weaves k = some x → ∀ f ∈ s.coresOf x, (u.core f).bps = (tget {} u.hslots slot).bps) ∧
      (op = 4 → ∀ k x, sl.weave = some k → tfind s.weaves k = some x →
        let m := arg.toNat % 2 ^ 8
        let f := v.toNat % 2 ^ 13
        let t' := arg.toNat / 2 ^ 8 % 8
        let head (r : HRec) (settled : Bool) : Nat := 2 ^ 63 * (if r.valid then 1 else 0) + 2 ^ 62 * (if settled then 1 else 0) +
          2 ^ 61 * (if sl.resuming then 1 else 0) + 2 ^ 60 * (if sl.halting then 1 else 0) + 2 ^ 32 * sl.ctx + 2 ^ 16 * r.more + 2 ^ 8 * r.src + r.code % 256
        let item (r : HRec) (settled : Bool) : Nat := [head r settled, r.wherev, r.pc, r.val, r.time, r.settleAt, sl.resumeAt, sl.panel.steps].getD m 0
        let kind := v.toNat / 2 ^ 14 % 4
        (kind = 0 → m < 8 → gives (item sl.panel sl.settled) 0 fun u => u.hslots = s.hslots) ∧ (kind = 0 → 8 ≤ m → gives 0 3 same) ∧
        (kind = 2 → (s.jobHere x.id f = false ∨ s.isFrozen f = false) → gives 0 2 same) ∧
        (kind = 2 → s.jobHere x.id f = true → s.isFrozen f = true → (78 ≤ m → gives 0 3 same) ∧ (m < 64 → gives (s.reg f t' m).toNat 0 same) ∧
          (m = 64 → gives (s.task f t').pc.toNat 0 same) ∧ (m = 65 → gives (s.task f t').tcause.toNat 0 same) ∧ (m = 66 → gives (s.task f t').tpc.toNat 0 same) ∧
          (m = 67 → gives (s.task f t').tval.toNat 0 same) ∧ (m = 69 → gives (s.task f t').fpm.toNat 0 same) ∧
          (m = 75 → gives (s.strand f 1).pc 0 same) ∧ (m = 76 → gives (s.strand f 2).pc 0 same) ∧ (m = 77 → gives (s.strand f 3).pc 0 same))) ∧
      (op = 2 →
        let f := v.toNat % 2 ^ 13
        let t' := arg.toNat % 2 ^ 3
        let mode := arg.toNat / 2 ^ 8 % 2
        let x := s.task f t'
        let holds : Prop := ∃ k, sl.weave = some k ∧ s.jobHere k f = true
        let still : Prop := (s.strand f 1).atStop = true ∧ (s.strand f 2).atStop = true ∧ (s.strand f 3).atStop = true
        let stuck : Prop := s.stepFreezes f = true
        let counted (u : State) : Prop := tget {} u.hslots slot = { sl with panel := { sl.panel with steps := (sl.panel.steps + 1) % 2 ^ 32 } }
        (¬ ready → gives 2 0 same) ∧ (ready → ¬ holds → gives 6 0 same) ∧
        (ready → holds → mode = 0 → (x.st = .free → gives 6 0 same) ∧ 
          (x.st = .parked → (s.core f).heldReply t' = none → (∀ y, x.wait = some y → y.held = none) → gives 3 0 same) ∧
          (∀ y, x.st = .parked → (s.core f).heldReply t' = some y → y.fault = 0 → gives 4 0 counted) ∧
          (∀ y rs, f ≠ c → x.st = .parked → (s.core f).heldReply t' = none → x.wait = some y → y.held = some rs →
            gives 4 0 fun u => counted u ∧ u.task f t' = (rs.foldl (fun x r => x.setReg r.1 r.2) x).wake ∧ bytesKept s u) ∧
          (x.st = .ready → gives 0 0 fun u => counted u ∧ (u.core f).stepOwed = some t' ∧ (∀ g, g ≠ f → g ≠ c → u.core g = s.core g) ∧ bytesKept s u)) ∧
        (ready → holds → mode = 1 → (still → gives 6 0 same) ∧ (¬ still → stuck → gives 5 0 same) ∧
          (¬ still → ¬ stuck → gives 0 0 fun u => counted u ∧ (u.core f).stepOwed = some 8 ∧ bytesKept s u))) ∧
      (op = 1 → (sl.halting = true ∨ sl.resuming = true → gives 2 0 same) ∧
        (sl.halting = false → sl.resuming = false →
          let begun (now : Nat) (u : State) : Prop := bytesKept s u ∧ (tget {} u.hslots slot).halting = true ∧ (tget {} u.hslots slot).settled = false ∧
            (sl.panel.valid = false → let r := (tget {} u.hslots slot).panel
              r.valid = true ∧ r.time = now ∧ r.val = 0 ∧ r.steps = 0 ∧ r.code = 0) ∧ (tget {} u.hslots slot).since = now
          (asked → s.targetSlot c v = some slot → answers (.haltControllerAnswer c t) s fun u => told 0 u ∧
            (s.slotOf c = some slot → begun s.time u) ∧ (s.slotOf c ≠ some slot → begun w.parkedAt u) ∧
            (sl.panel.valid = false → (tget {} u.hslots slot).panel.src = 5 ∧ (tget {} u.hslots slot).panel.pc = ((s.task c t).pc + BitVec.ofNat 64 w.len).toNat) ∧
            ∀ k x j, s.slotOf c = some slot → (s.core c).job = some (k, j) → tfind s.weaves k = some x → (∃ y ∈ x.jobs, y.1 = c) →
              (u.core c).frozen = some (s.time, (s.core c).cycle)) ∧
          (posted → s.slotOfCtx (v.toNat / 2 ^ 48) = some slot → answers e s fun u => shown 0#64 0 u ∧ begun blk.at_ u ∧
            (sl.panel.valid = false → (tget {} u.hslots slot).panel.src = 6 ∧ (tget {} u.hslots slot).panel.pc = 0)))))) ∧
  -- the halt that follows completes: its cause, its wave, its settling, and the resume
  (
  ∀ (s : State) (c t k j code slot : Nat) (x : Weave), tfind s.weaves k = some x → x.hslot = some slot → x.id = k →
    let sl : HSlot := tget {} s.hslots slot
    let here : Prop := (s.core c).job = some (k, j) ∧ s.isFrozen c = false ∧ ∃ y ∈ x.jobs, y.1 = c
    let stopped (i : Instr) : Prop := ∃ u, exec i s = .next u ∧ (u.core c).frozen = some (s.time, (s.core c).cycle) ∧ (tget {} u.hslots slot).halting = true
    (here → t < 8 → s.stopsTask c t code = true → stopped (.haltCause c t 4 code (s.task c t).pc 0#64)) ∧
    (here → sl.halting = true → stopped (.haltWaveArrival c)) ∧
    (sl.weave = some k → sl.halting = true → sl.settled = false → (∀ e ∈ s.coresOf x, s.isFrozen e = true) → s.inLayer x = false →
      exec (.haltSettled slot) s = .next { s with hslots := tput s.hslots slot { sl with settled := true } }) ∧
    (sl.weave = some k → sl.resuming = true → s.stepping slot = false → sl.resumeAt ≤ s.time →
      ∃ u, exec (.resumeAtT slot) s = .next u ∧ (∀ e ∈ s.coresOf x, (u.core e).frozen = none) ∧ (tget {} u.hslots slot).halting = false))

/-- R475 to R477, R484, R486, R491, R494, R495: a breakpoint at the word that a task or a strand would issue now freezes its core before it issues and
starts the wave, with SRC 4; the other cores of the die stay until the cycle ends (R477, R486); the wave freezes every core of the weave on its die in one cycle, and no other; the halt is settled when every core has
frozen and nothing of the weave is left in the layer; at T the cores restart, and a pending trap is entered or, without DELIVER, dropped. -/
def Obligations.HaltsFreezeSettleAndResume : Prop :=
  ∀ (s : State) (c t k j code slot : Nat) (x : Weave), tfind s.weaves k = some x → x.hslot = some slot → x.id = k →
    let sl : HSlot := tget {} s.hslots slot
    let froze (d : Nat) (u : State) : Prop :=
      (∀ e, dieOf e = d → (∃ y ∈ x.jobs, y.1 = e) → s.jobHere k e = true → s.isFrozen e = false → (u.core e).frozen = some (s.time, (s.core e).cycle)) ∧
      (∀ e, dieOf e ≠ d ∨ s.jobHere k e = false → u.core e = s.core e) ∧
      (∀ e, { (u.core e) with frozen := none } = { (s.core e) with frozen := none }) ∧ bytesKept s u
    let frozeOne (u : State) : Prop :=
      (u.core c).frozen = some (s.time, (s.core c).cycle) ∧ (∀ e, e ≠ c → u.core e = s.core e) ∧
      { (u.core c) with frozen := none } = { (s.core c) with frozen := none } ∧ bytesKept s u
    ((s.core c).job = some (k, j) → s.isFrozen c = false →
      (t < 8 → s.stopsTask c t code = true →
        answers (.haltCause c t 4 code (s.task c t).pc 0#64) s fun u => frozeOne u ∧ (tget {} u.hslots slot).halting = true ∧
          (sl.halting = false → sl.panel.valid = false → let r := (tget {} u.hslots slot).panel
            r.src = 4 ∧ r.code = code ∧ r.pc = (s.task c t).pc.toNat ∧ r.val = 0 ∧ r.time = s.time)) ∧
      (∀ e, 1 ≤ e → e ≤ 3 → (s.strand c e).pc < 2 ^ 64 → s.stopsStrand c e code = true →
        answers (.haltCause c (e + 7) 4 code (BitVec.ofNat 64 (s.strand c e).pc) 0#64) s fun u => frozeOne u ∧ (tget {} u.hslots slot).halting = true) ∧
      (t < 8 → s.stopsTask c t code = false → exec (.haltCause c t 4 code (s.task c t).pc 0#64) s = .next s) ∧
      (sl.halting = true → answers (.haltWaveArrival c) s fun u => froze (dieOf c) u ∧ (tget {} u.hslots slot).halting = true)) ∧
    (sl.weave = some k → sl.halting = true → sl.settled = false →
      ((∀ e ∈ s.coresOf x, s.isFrozen e = true) → s.inLayer x = false → answers (.haltSettled slot) s fun u =>
        tget {} u.hslots slot = { sl with settled := true } ∧ u.cores = s.cores ∧ bytesKept s u) ∧
      ((∃ e ∈ s.coresOf x, s.isFrozen e = false) ∨ s.inLayer x = true → exec (.haltSettled slot) s = .next s)) ∧
    (sl.weave = some k → sl.resuming = true → s.stepping slot = false →
      (s.time < sl.resumeAt → exec (.resumeAtT slot) s = .next s) ∧
      (sl.resumeAt ≤ s.time → answers (.resumeAtT slot) s fun u =>
        tget {} u.hslots slot = { sl with halting := false, settled := false, resuming := false, teardown := none } ∧
        (∀ e ∈ s.coresOf x, (u.core e).frozen = none) ∧ (∀ e, e ∉ s.coresOf x → (u.core e).tasks = (s.core e).tasks) ∧
        ∀ e t cause tpc tval, e ∈ s.coresOf x → t < 8 → (s.task e t).wait = none → (s.task e t).st = .ready → (s.task e t).pendCause = some (cause, tpc, tval) →
          (u.task e t).pendCause = none ∧ (sl.deliver = false → (u.task e t).pc = (s.task e t).pc) ∧
          (sl.deliver = true → (s.core e).tvec ≠ 0#64 → (s.task e t).tin = false → (u.task e t).pc = (s.core e).tvec ∧ (u.task e t).tin = true ∧
            (u.task e t).tcause = cause ∧ (u.task e t).tpc = tpc ∧ (u.task e t).tval = tval)))

/-! The dispatcher (R8 to R12, R152 to R186). -/

/-- R182, R183: `launch`, `qmap`, `qunmap` and `qstat` park their task for the dispatcher where the slot is 0 to 63, the address aligned and its
block readable; a misaligned address and a slot past 63 are dispatcher-operand traps with TVAL the register, and `qmap` and `qunmap` of a queue
with SYS = 0 are dispatcher-privilege traps. R155, R156, R158, R175, R182 to R184: the dispatcher's answers. `launch` waits for the task's
earlier accesses, releases, and appends the packet to the slot's lane or refuses it: SLOT_UNMAPPED, CONTEXT_MISMATCH, PACKET_INVALID, LANE_FULL,
in that order; `qmap` loads a descriptor into a free slot, with a latched notify applied and its PEND cleared; `qunmap` writes RDIDX and SAVE
back, discards the lane and frees the slot; `qstat` reads the slot, of another context only its STATE, of a free slot the weaves and runs of its
queue that are still active. That PACKET_INVALID also covers ADDR[59:48] other than 0 of a used dependence, and START, NNODES and RECORD where a
packet's type leaves them 0, is the model's reading of R158, log entries 27 and 122. -/
def Obligations.DispatcherCommandsAreAnswered : Prop :=
  (
  ∀ (h : CHdr) (d a b slot : Nat) (s : State) (c t : Nat), s.cur = .task c t →
    let pc := (s.task c t).pc
    let v := s.reg c t a
    let n := s.reg c t b
    let sys : Prop := ∃ w, s.weaveOf c = some w ∧ w.sys = true
    let readable (len : Nat) : Prop := ∃ ps, s.blockPlace c v.toNat len .rd = .ok ps ∧ ∀ p ∈ ps, s.errorLine (p.1 / 128) = false
    let waits (i : Instr) (len : Nat) : Prop := answers i s fun u =>
      (u.task c t).st = .parked ∧ (u.task c t).pc = pc ∧ (∀ r, u.reg c t r = s.reg c t r) ∧ onlyTask s c t u ∧ bytesKept s u ∧
      ∃ w, (u.task c t).wait = some w ∧ w.what = .answer ∧ w.instr = i ∧ w.len = len
    let bad (i : Instr) (code : Nat) (tv : Word) : Prop := handles s c t → answers i s (entered s c t code pc tv)
    (v.toNat % 128 = 0 → readable 128 → waits (.launch h d a slot) (ctlLen h 2)) ∧ (v.toNat % 128 ≠ 0 → bad (.launch h d a slot) 20 v) ∧
    (¬ sys → bad (.qmap h d a b) 21 0#64 ∧ bad (.qunmap h d b) 21 0#64) ∧
    (sys → 64 ≤ n.toNat → bad (.qmap h d a b) 20 n ∧ bad (.qunmap h d b) 20 n) ∧ (64 ≤ n.toNat → bad (.qstat h d b) 20 n) ∧
    (sys → n.toNat < 64 → v.toNat % 64 ≠ 0 → bad (.qmap h d a b) 20 v) ∧
    (sys → n.toNat < 64 → v.toNat % 64 = 0 → readable 64 → waits (.qmap h d a b) (ctlLen h 1)) ∧
    (sys → n.toNat < 64 → waits (.qunmap h d b) (ctlLen h 1)) ∧ (n.toNat < 64 → waits (.qstat h d b) (ctlLen h 1))) ∧
  (
  ∀ (h : CHdr) (d a b slot : Nat) (s : State) (c t : Nat) (w : Wait),
    s.waitOf c t = some w → s.isFrozen c = false → s.stopped c = false → w.what = .answer → memoryOk s →
    let n := dieOf c
    let x := (s.reg c t a).toNat
    let y := (s.reg c t b).toNat
    let r := s.release c 5
    let cmd : Instr := .dispatcherAnswer c t
    let told (v : Nat) (u : State) : Prop :=
      u.reg c t d = (if d = 0 then 0#64 else BitVec.ofNat 64 v) ∧ (∀ g, g ≠ d → u.reg c t g = s.reg c t g) ∧
      (u.task c t).st = .ready ∧ (u.task c t).pc = (s.task c t).pc + BitVec.ofNat 64 w.len
    let same (v : Nat) : Prop := answers cmd s fun u => told v u ∧ u.disps = s.disps
    let others (m : Nat) (u : State) : Prop := (∀ k, k ≠ m → u.qslot n k = s.qslot n k) ∧ ∀ e, e ≠ n → u.disp e = s.disp e
    (w.instr = .launch h d a slot →
      ((s.core c).quiet t = false → exec cmd s = .next s) ∧
      ∀ ps, (s.core c).quiet t = true → s.blockPlace c x 128 .rd = .ok ps → (∀ q ∈ ps, s.errorLine (q.1 / 128) = false) →
        let p := ps.flatMap fun q => r.homeBytes q.1 q.2
        let f (i m : Nat) : Nat := numBytes ((p.drop i).take m)
        let dep (i : Nat) : Nat := f (16 + 16 * i) 8
        let q := s.qslot n slot
        let refused : Prop := f 0 1 = 0 ∨ 3 < f 0 1 ∨ 2 ≤ f 1 1 ∨ 4 < f 2 1 ∨ f 3 1 ≠ 0 ∨ (f 0 1 ≠ 2 ∧ (f 4 2 ≠ 0 ∨ f 6 2 ≠ 0)) ∨ (f 0 1 = 3 ∧ f 8 8 ≠ 0) ∨
          (∃ i, i < 4 ∧ i < f 2 1 ∧ (dep i / 2 ^ 60 = 0 ∨ 3 < dep i / 2 ^ 60 ∨ dep i % 8 ≠ 0 ∨ dep i / 2 ^ 48 % 2 ^ 12 ≠ 0)) ∨
          f 88 8 / 2 ^ 18 % 2 ^ 45 ≠ 0 ∨ f 96 32 ≠ 0 ∨ f 80 8 % 16 ≠ 0
        (q.st ≠ .mapped → same 2) ∧ (q.st = .mapped → q.ctx ≠ (s.core c).ctxno → same 3) ∧
        (q.st = .mapped → q.ctx = (s.core c).ctxno → (refused → same 4) ∧ (¬ refused → 16 ≤ q.lane.length → same 1) ∧
          (¬ refused → q.lane.length < 16 → answers cmd s fun u => told 0 u ∧ u.qslot n slot = { q with lane := q.lane ++ [p] } ∧ others slot u ∧
            (u.disp n).pkts = (s.disp n).pkts))) ∧
    (∀ pa m ps, w.instr = .qmap h d a b → (s.core c).quiet t = true → s.blockPlace c x 64 .rd = .ok ((pa, m) :: ps) →
      (∀ q ∈ (pa, m) :: ps, s.errorLine (q.1 / 128) = false) →
      let f (i m : Nat) : Nat := numBytes (((r.homeBytes pa 64).drop i).take m)
      let lg := f 0 8 / 2 ^ 32 % 2 ^ 5
      let bad : Prop := f 5 1 = 0 ∨ lg < 4 ∨ 16 < lg ∨ f 8 8 % (128 * 2 ^ lg) ≠ 0 ∨ f 0 4 ≠ 0 ∨ f 20 4 ≠ 0 ∨ f 24 8 / 2 ^ 32 % 2 ^ 31 ≠ 0 ∨ f 40 24 ≠ 0
      ((s.qslot n y).st ≠ .free → same 1) ∧ ((s.qslot n y).st = .free → bad → same 2) ∧
      ((s.qslot n y).st = .free → ¬ bad → answers cmd s fun u => told 0 u ∧ others y u ∧
        (let far : Prop := 2 ^ 63 ≤ f 24 8 ∧ 2 ^ lg < (f 24 4 + 2 ^ 32 - f 16 4) % 2 ^ 32
         let q := u.qslot n y
         q.desc = pa ∧ q.qcfg = BitVec.ofNat 64 (f 0 8) ∧ q.qbase = f 8 8 ∧ q.rdidx = f 16 4 ∧ q.wridx = f 24 4 ∧ q.tdaddr = f 32 8 ∧ q.lane = [] ∧
           (far → q.st = .overrun) ∧ (¬ far → q.st = .mapped)) ∧
        (2 ^ 63 ≤ f 24 8 → u.homeNum (pa + 0x18) 8 = f 24 4))) ∧
    (w.instr = .qunmap h d b → let q := s.qslot n y
      (q.st = .free → same 1) ∧
      (q.st ≠ .free → answers cmd s fun u => told (2 ^ 8 * q.lane.length) u ∧ others y u ∧ (u.qslot n y).st = .free ∧
        u.homeNum (q.desc + 0x10) 8 = q.rdidx % 2 ^ 64 ∧ u.homeNum (q.desc + 0x18) 8 = q.wridx % 2 ^ 64 ∧
        ∃ ps : List DPkt, (u.disp n).pkts = (s.disp n).pkts ++ ps ∧ ps.map (fun p => p.raw) = q.lane ∧ ∀ p ∈ ps, p.st = .completed ∧ p.status = 14)) ∧
    (w.instr = .qstat h d b → let q := s.qslot n y
      (q.st = .free → same (2 ^ 32 * min 255 (s.activeOf n y))) ∧
      (q.st ≠ .free → q.lane.length ≤ 16 → q.rdidx < 2 ^ 32 →
        let st := 2 ^ 62 * (if q.st = .mapped then 1 else 2)
        same (if q.ctx = (s.core c).ctxno then
          st + 2 ^ 60 * q.prio + 2 ^ 52 * q.weight + 2 ^ 47 * q.lane.length + 2 ^ 32 * min 255 (s.activeOf n y) + q.rdidx else st))))

/-- R153, R155, R158 to R160: a packet is taken from a mapped slot once the one before it of the same queue or lane has started, from its queue only
where its lane has none to take (R175), its RDIDX follows in the slot and in the descriptor, and a refused one completes with PACKET_INVALID; a waiting packet whose dependences are met starts (a LAUNCH as a
weave, a GRAPH as a run with its first node, a MARKER completes), one whose dependence read faults completes with FAULT, else it waits; a
completed packet's STATUS is written, its DONE word rises by 1 and its event is signalled, where CPLADDR is not 0, and it is gone. R170 to R172: a ready node of a run acts
by its KIND: a weave node launches its record, and is active; an if or a while and a switch read their condition word and start the successor it
chooses; a join counts, and starts its successor at NIN arrivals; a bad node ends the run with GRAPH_INVALID, a condition read that faults with
FAULT; a run with no instance left ends with DONE. A packet or a node that stands in a line of the error-address table ends with FAULT, as one whose
read meets a lasting error does, where no clean copy is dropped and the data read below (R136; that these reads end so is DEDUCED: log entry 112).
The model's readings: PACKET_INVALID for ADDR[59:48], START, NNODES and RECORD, log entries 27 and 122; GRAPH_INVALID for unused fields and a NIN
out of place, log entry 28; that a run which ends early completes its packet at once, log entry 29. -/
def Obligations.PacketsAndGraphNodesAct : Prop :=
  (
  ∀ (s : State) (d slot id : Nat), memoryOk s →
    let q := s.qslot d slot
    let f (raw : List Byte) (i m : Nat) : Nat := numBytes ((raw.drop i).take m)
    let dep (raw : List Byte) (i : Nat) : Nat := f raw (16 + 16 * i) 8
    let refused (raw : List Byte) : Prop :=
      f raw 0 1 = 0 ∨ 3 < f raw 0 1 ∨ 2 ≤ f raw 1 1 ∨ 4 < f raw 2 1 ∨ f raw 3 1 ≠ 0 ∨ (f raw 0 1 ≠ 2 ∧ (f raw 4 2 ≠ 0 ∨ f raw 6 2 ≠ 0)) ∨
      (f raw 0 1 = 3 ∧ f raw 8 8 ≠ 0) ∨
      (∃ i, i < 4 ∧ i < f raw 2 1 ∧ (dep raw i / 2 ^ 60 = 0 ∨ 3 < dep raw i / 2 ^ 60 ∨ dep raw i % 8 ≠ 0 ∨ dep raw i / 2 ^ 48 % 2 ^ 12 ≠ 0)) ∨
      f raw 88 8 / 2 ^ 18 % 2 ^ 45 ≠ 0 ∨ f raw 96 32 ≠ 0 ∨ f raw 80 8 % 16 ≠ 0
    let before (lane : Bool) (p : DPkt) : Prop :=
      p.lane = lane ∧ (lane = true → q.lastLane = some p.id) ∧ (lane = false → p.desc = q.desc ∧ (p.idx + 1) % 2 ^ 32 = q.rdidx)
    -- the packets of every die: a queue may have been mapped on another one
    let all : List DPkt := s.disps.flatMap fun e => e.2.pkts
    let settled (lane : Bool) : Prop := ∀ p ∈ all, before lane p → p.st ≠ .waiting
    let unread : Prop := s.errorLine ((q.qbase + 128 * (q.rdidx % 2 ^ q.log2)) / 128) = true
    let taken (lane : Bool) (raw : List Byte) (idx : Nat) (u : State) : Prop :=
      ∃ p : DPkt, (u.disp d).pkts = (s.disp d).pkts ++ [p] ∧ p.id = s.nextId ∧ p.die = d ∧ p.slot = slot ∧
        (∀ o, p.prev = some o → ∃ z ∈ all, z.id = o ∧ before lane z) ∧ ((∃ z ∈ all, before lane z) → p.prev ≠ none) ∧ p.lane = lane ∧ p.idx = idx ∧ p.desc = q.desc ∧ p.qcfg = q.qcfg ∧
        p.tdaddr = q.tdaddr ∧ p.raw = raw ∧ (∀ i, i < 4 → p.met[i]? = some (decide (f raw 2 1 ≤ i))) ∧
        (refused raw → p.st = .completed ∧ p.status = 15) ∧ (¬ refused raw → p.st = .waiting)
    -- taking
    (q.st ≠ .mapped → ∀ lane, exec (.packetTake d slot lane) s = .next s) ∧
    (q.lane = [] → exec (.packetTake d slot true) s = .next s) ∧ (q.rdidx = q.wridx → exec (.packetTake d slot false) s = .next s) ∧
    (∀ raw l, q.st = .mapped → q.lane = raw :: l → settled true → answers (.packetTake d slot true) s fun u =>
      taken true raw (2 ^ 32 - 1) u ∧ u.qslot d slot = { q with lane := l, lastLane := some s.nextId } ∧ bytesKept s u) ∧
    (q.st = .mapped → q.lane ≠ [] → settled true → exec (.packetTake d slot false) s = .next s) ∧
    (q.st = .mapped → q.rdidx ≠ q.wridx → settled false → (q.lane = [] ∨ s.lastStarted d slot true = false) → answers (.packetTake d slot false) s fun u =>
      (¬ unread → taken false (s.homeBytes (q.qbase + 128 * (q.rdidx % 2 ^ q.log2)) 128) q.rdidx u) ∧
      (unread → ∃ p : DPkt, (u.disp d).pkts = (s.disp d).pkts ++ [p] ∧ p.idx = q.rdidx ∧ p.st = .completed ∧ p.status = 11) ∧
      u.qslot d slot = { q with rdidx := (q.rdidx + 1) % 2 ^ 32 } ∧ u.homeNum (q.desc + 0x10) 8 = (q.rdidx + 1) % 2 ^ 32) ∧
    -- starting
    (∀ p : DPkt, s.pkt d id = some p → p.st = .waiting → p.die = d → p.id = id → p.met.length = 4 → (∀ w ∈ s.weaves, w.2.origin ≠ .packet id) →
      let reads (i : Nat) : Option Nat := s.dispRead (dep p.raw i % 2 ^ 48)
      let value (i : Nat) : Nat := f p.raw (24 + 16 * i) 8
      let meets (i x : Nat) : Prop := (dep p.raw i / 2 ^ 60 = 1 ∧ value i ≤ x) ∨ (dep p.raw i / 2 ^ 60 = 2 ∧ x / 2 ^ 63 % 2 = value i % 2) ∨
        (dep p.raw i / 2 ^ 60 = 3 ∧ value i % 2 ^ 16 ≤ x % 2 ^ 16)
      let kinds : Prop := ∀ i, i < 4 → p.met[i]? = some false → 1 ≤ dep p.raw i / 2 ^ 60 ∧ dep p.raw i / 2 ^ 60 ≤ 3
      let met : Prop := ∀ i, i < 4 → p.met[i]? = some false → ∃ x, reads i = some x ∧ meets i x
      let free : Prop := f p.raw 1 1 % 2 = 0 ∨ p.prev = none ∨ ∃ o, p.prev = some o ∧ ∀ z ∈ all, z.id ≠ o
      let go : Instr := .dependenceRecheck d id false
      (kinds → met → free →
        (f p.raw 0 1 = 1 → answers go s fun u => u.runs = s.runs ∧ ∃ w, u.weaves = tput s.weaves s.nextId w ∧ w.id = s.nextId ∧ w.st = .waiting ∧
          w.origin = .packet id ∧ w.recAddr = f p.raw 8 8 ∧ w.die = d ∧ w.slot = p.slot ∧ w.lane = p.lane ∧ w.ctx = p.qcfg.toNat / 2 ^ 48 ∧
          w.prio = p.qcfg.toNat / 2 ^ 38 % 4 ∧ (w.sys = true ↔ p.qcfg.toNat / 2 ^ 37 % 2 = 1)) ∧
        (f p.raw 0 1 = 2 → answers go s fun u => u.weaves = s.weaves ∧ (∃ p', u.pkt d id = some p' ∧ p'.st = .started) ∧
          ∃ r, u.runs = tput s.runs s.nextId r ∧ r.id = s.nextId ∧ r.pkt = id ∧ r.die = d ∧ r.base = f p.raw 8 8 ∧ r.nnodes = f p.raw 6 2 ∧
            r.joins = [] ∧ r.insts.map (fun i => (i.node, i.st)) = [(f p.raw 4 2, .ready)]) ∧
        (f p.raw 0 1 = 3 → answers go s fun u => u.weaves = s.weaves ∧ u.runs = s.runs ∧
          ∃ p', u.pkt d id = some p' ∧ p'.st = .completed ∧ p'.status = 0 ∧ p'.detail = 0)) ∧
      (kinds → (∀ i, i < 4 → p.met[i]? = some false → ∃ x, reads i = some x) → (¬ met ∨ ¬ free) → answers go s fun u =>
        u.weaves = s.weaves ∧ u.runs = s.runs ∧ bytesKept s u ∧ ∃ p', u.pkt d id = some p' ∧ p' = { p with met := p'.met, readBy := s.time + 1000 } ∧ p'.met.length = 4 ∧
          ∀ i, i < 4 → (p'.met[i]? = some true ↔ p.met[i]? = some true ∨ ∃ x, reads i = some x ∧ meets i x)) ∧
      (let faults (i : Instr) : Prop := answers i s fun u =>
        u.weaves = s.weaves ∧ u.runs = s.runs ∧ u.pkt d id = some { p with st := .completed, status := 11, detail := 0 }
       ((∃ i, i < 4 ∧ p.met[i]? = some false ∧ reads i = none) → faults go) ∧
       (∀ a, p.unmet.head? = some a → (∃ k ∈ sectorsOf a 8, s.cleanCopy k = false) → faults (.dependenceRecheck d id true)))) ∧
    -- completing
    (∀ p : DPkt, s.pkt d id = some p → p.st = .completed →
      let a := f p.raw 80 8
      let ev := f p.raw 88 8
      answers (.packetComplete d id) s fun u =>
        (u.disp d).pkts = (s.disp d).pkts.eraseP (fun x => x.id == id) ∧
        (a ≠ 0 → a % 16 = 0 → u.homeNum a 8 = (2 ^ 16 * (p.detail % 2 ^ 32) + p.status) % 2 ^ 64 ∧ u.homeNum (a + 8) 8 = (s.homeNum (a + 8) 8 + 1) % 2 ^ 64) ∧
        ((a = 0 ∨ a % 16 ≠ 0) → bytesKept s u) ∧
        (a = 0 → u.signals = s.signals) ∧
        (a ≠ 0 → ev / 2 ^ 63 = 1 → ∃ g ∈ u.signals, g.core = ev / 2 ^ 5 % 2 ^ 13 ∧ g.slot = ev % 2 ^ 5 ∧ g.weave = none ∧ g.ctx = p.qcfg.toNat / 2 ^ 48 ∧ g.acq = none))) ∧
  (
  ∀ (s : State) (run inst : Nat) (r : GRun) (i : NodeInst) (p : DPkt), tfind s.runs run = some r → r.id = run →
    r.insts.find? (fun x => x.id == inst && x.st == .ready) = some i → (∀ x ∈ r.insts, x.id = inst → x = i) → s.pkt r.die r.pkt = some p →
    let go : Instr := .graphNodeReady run inst false
    let bs := s.homeBytes (r.base + 64 * i.node) 64
    let f (n m : Nat) : Nat := numBytes ((bs.drop n).take m)
    let kind := f 0 1
    let next (j : Nat) : Nat := f (8 + 2 * j) 2
    let bad : Prop := r.nnodes ≤ i.node ∨ kind = 0 ∨ 5 < kind ∨ (kind = 5 ∧ f 1 1 = 0) ∨ (kind ≠ 5 ∧ f 1 1 ≠ 0) ∨ f 2 6 ≠ 0 ∨ f 40 24 ≠ 0 ∨ f 24 8 % 8 ≠ 0 ∨
      ((kind = 1 ∨ kind = 5) ∧ f 24 8 ≠ 0) ∨ (kind ≠ 1 ∧ f 32 8 ≠ 0) ∨ ∃ j, j < 8 ∧ next j ≠ 0xFFFF ∧ r.nnodes ≤ next j
    let left := r.insts.erase i
    let ends (status : Nat) (u : State) : Prop :=
      u.runs = tdel s.runs run ∧ u.pkt r.die r.pkt = some { p with st := .completed, status := status, detail := 0 } ∧ bytesKept s u ∧
      (∀ e ∈ u.weaves, e ∈ s.weaves ∧ ¬ (e.2.st = .waiting ∧ ∃ m, e.2.origin = .node run m))
    let goesTo (n : Nat) (joins : Tbl Nat) (u : State) : Prop :=
      (n = 0xFFFF → left = [] → ends 0 u) ∧
      (n = 0xFFFF → left ≠ [] → u.runs = tput s.runs run { r with insts := left, joins := joins } ∧ u.weaves = s.weaves ∧ bytesKept s u) ∧
      (n ≠ 0xFFFF → u.runs = tput s.runs run { r with insts := left ++ [{ id := r.cnt, node := n }], cnt := r.cnt + 1, joins := joins } ∧
        u.weaves = s.weaves ∧ bytesKept s u)
    let unread : Prop := s.errorLine ((r.base + 64 * i.node) / 128) = true
    let errs : Nat × Nat := if 2 ≤ kind ∧ kind ≤ 4 ∧ inHbm (f 24 8) = true then (f 24 8, 8) else (r.base + 64 * i.node, 64)
    let ks := sectorsOf errs.1 errs.2
    ((∃ k ∈ ks, s.cleanCopy k = false) → answers (.graphNodeReady run inst true) s (ends 11)) ∧
    ((∀ k ∈ ks, s.cleanCopy k = true) → exec (.graphNodeReady run inst true) s = exec go ((ks.foldl State.homeDrop s).countError (errs.1 / 2 ^ 41) 1)) ∧
    (unread → answers go s (ends 11)) ∧ (¬ unread → bad → answers go s (ends 13)) ∧
    (¬ unread → ¬ bad →
      (kind = 1 → answers go s fun u => bytesKept s u ∧
        (∃ w, u.weaves = tput s.weaves s.nextId w ∧ w.id = s.nextId ∧ w.st = .waiting ∧ w.origin = .node run inst ∧ w.recAddr = f 32 8 ∧ w.die = r.die ∧
          w.slot = r.slot ∧ w.lane = r.lane ∧ w.ctx = r.qcfg.toNat / 2 ^ 48 ∧ w.prio = r.qcfg.toNat / 2 ^ 38 % 4) ∧
        ∃ r', u.runs = tput s.runs run r' ∧ r' = { r with insts := r'.insts } ∧ ({ i with st := .active, next := (List.range 8).map next } : NodeInst) ∈ r'.insts) ∧
      (kind = 5 →
        let n := tget 0 r.joins i.node + 1
        (n < f 1 1 → answers go s (goesTo 0xFFFF (tput r.joins i.node n))) ∧
        (f 1 1 ≤ n → answers go s (goesTo (next 0) (tput r.joins i.node (n - f 1 1))))) ∧
      (2 ≤ kind → kind ≤ 4 →
        (s.dispRead (f 24 8) = none → answers go s (ends 11)) ∧
        ∀ v, s.dispRead (f 24 8) = some v →
          (kind ≠ 4 → answers go s (goesTo (if v ≠ 0 then next 0 else next 1) r.joins)) ∧
          (kind = 4 → answers go s (goesTo (if v < 7 ∧ next v ≠ 0xFFFF then next v else next 7) r.joins)))))

/-- R9, R12, R163 to R168: a waiting weave's record is read and checked once: its first failing status, in the order of R163, is its packet's, and
the weave is gone; where no cores fit it, or a weave of higher priority can be placed, it waits; where a plan of its owner's die fits and its
turn has come, all its jobs start in that step, each core with the state of R167; a plan beyond the die is asked of the other dies, which reserve
or decline; a request of another owner joins a die's selection, and of a slot the lane's packets come first; when all have reserved all the jobs
start, when one declines nothing stays reserved. The model's choices: a record at an address that is misaligned or outside HBM ends with
RECORD_INVALID (log entry 24), FUSE_INVALID is decided on the plan for an empty panel (23), cores are taken in the order of planFor (22), the L1 is
empty at the start of a job (19), and a record or an image in a line of the error-address table ends with FAULT (112). -/
def Obligations.WeavesArePlacedAllAtOnce : Prop :=
  ∀ (s : State) (w d : Nat) (x : Weave), tfind s.weaves w = some x → x.id = w → x.st = .waiting → x.torn = false →
    let go : Instr := .weavePlacement w
    let waits (u : State) : Prop := u.cores = s.cores ∧ bytesKept s u ∧ u.barriers = s.barriers ∧ ∃ y, tfind u.weaves w = some y ∧ y.st = .waiting ∧ y.lrec = x.lrec
    let started (r : LaunchRec) (plan : List (Nat × List Nat)) (u : State) : Prop :=
      (∃ y, tfind u.weaves w = some y ∧ y.st = .resident ∧ y.jobs = plan ∧ y.asked = [] ∧ y.granted = [] ∧ (r.debug = true → y.hslot ≠ none)) ∧
      (∀ j c ix, plan[j]? = some (c, ix) → (u.core c).job = some (w, j) ∧ (u.core c).ctxno = x.ctx ∧ (u.task c 0).st = .ready ∧ (u.task c 0).pc = BitVec.ofNat 64 r.cstart ∧
        (∀ g, u.reg c 0 g = if g = 1 then BitVec.ofNat 64 r.arg else 0#64) ∧ (∀ t, t ≠ 0 → (u.task c t).st = .free) ∧ (u.task c 0).fpm = ({} : Task).fpm ∧
        (u.core c).srkey = BitVec.ofNat 64 (r.srseed ^^^ c) ∧ (u.core c).share = r.share ∧ (u.core c).fused = r.fuse ∧ (u.core c).seg = x.map ∧
        (u.core c).events = [] ∧ (u.core c).l1 = [] ∧ (u.core c).accs = [] ∧ (u.core c).data.timed = (r.modes == 0) ∧
        (∀ n l i, r.levels[n]? = some l → ix[n]? = some i → ix.length = r.levels.length →
          tfind (u.core c).lvid n = some { scope := l.2.2, valid := true, domain := l.2.1, count := l.1, index := i }) ∧
        (∀ e, 1 ≤ e → e ≤ 3 → let y := u.strand c e
          y.named = r.strands.testBit (e - 1) ∧ y.held = r.strands.testBit (e - 1) ∧ y.pc = [0, r.vstart, r.mstart, r.pstart].getD e 0 ∧ y.cq = {}) ∧
        ((s.core c).ctxno ≠ x.ctx → (u.core c).scratch = [] ∧ (u.core c).opmem = [] ∧ (u.core c).data.v = [] ∧ (u.core c).data.acc = []) ∧
        ((s.core c).ctxno = x.ctx → (u.core c).scratch = (s.core c).scratch ∧ (u.core c).data.v = (s.core c).data.v)) ∧
      ∀ c, (∀ e ∈ plan, e.1 ≠ c) → (u.core c).tasks = (s.core c).tasks ∧ (u.core c).job = (s.core c).job
    -- the record
    (∀ p : DPkt, x.checked = false → x.asked = [] → s.pkgUp (x.die / 2) = true → (∃ id, x.origin = .packet id ∧ s.pkt x.die id = some p ∧ p.id = id) →
      let bs := s.homeBytes x.recAddr 256
      let r := recordOf bs
      let b (i : Nat) : Nat := numBytes ((bs.drop i).take 1)
      let map := (imageRecords (s.homeBytes r.mapimg 4096)).map fun e => (e.1, segOfNum e.2)
      let read := { x with lrec := r, checked := true, map := map }
      let placed : Prop := x.recAddr % 256 = 0 ∧ inHbm x.recAddr = true
      let valid : Prop := placed ∧ b 0 = 1 ∧ r.reserved = false ∧ 1 ≤ b 2 ∧ b 2 ≤ 8 ∧ b 3 % 8 ≤ 4 ∧ r.mapimg % 4096 = 0 ∧ (r.modes = 0 ∨ r.modes = r.strands) ∧
        ∀ e, 1 ≤ e → e ≤ 3 → r.strands.testBit (e - 1) = false → [0, r.vstart, r.mstart, r.pstart].getD e 0 = 0 ∧ r.modes.testBit (e - 1) = false
      let even : Prop := r.cstart % 4 = 0 ∧ r.vstart % 8 = 0 ∧ r.mstart % 8 = 0 ∧ r.pstart % 8 = 0
      let full : Prop := ∀ q, planFor (fun _ => true) x.die r.levels = some q → clustersFull q = true
      let unread (a k : Nat) : Prop := ∃ l, a / 128 ≤ l ∧ l < a / 128 + k ∧ s.errorLine l = true
      let refused (n : Nat) : Prop := answers go s fun u =>
        u.pkt x.die p.id = some { p with st := .completed, status := n, detail := 0 } ∧ u.weaves = tdel s.weaves w ∧ u.cores = s.cores ∧ bytesKept s u
      (¬ placed → refused 1) ∧ (placed → unread x.recAddr 2 → refused 11) ∧
      (¬ unread x.recAddr 2 →
        (¬ valid → refused 1) ∧ (valid → treeOk r.levels = false → refused 2) ∧ (valid → treeOk r.levels = true → ¬ even → refused 3) ∧
        (valid → treeOk r.levels = true → even → r.barsBad = true → refused 6) ∧
        (valid → treeOk r.levels = true → even → r.barsBad = false → r.fuse = true → ¬ full → refused 5) ∧
        (valid → treeOk r.levels = true → even → r.barsBad = false →
          (r.fuse = true → planFor (fun _ => true) x.die r.levels ≠ none ∧ full) →
          (unread r.mapimg 32 → refused 11) ∧
          (¬ unread r.mapimg 32 → (imageOk (imageRecords (s.homeBytes r.mapimg 4096)) = false → refused 4) ∧
            (imageOk (imageRecords (s.homeBytes r.mapimg 4096)) = true → exec go s = exec go { s with weaves := tput s.weaves w read }))))) ∧
    -- the placement: another owner's request to a die that has its cores and barriers free joins the die's selection
    let asks (y : Weave) (n : Nat) : Prop := n ∈ y.asked ∧ n ∉ y.granted ∧ y.declined = false ∧ s.shareFree n y = true
    let first : Prop := (∀ e ∈ s.weaves, e.1 ≠ w → e.2.die = x.die → s.placeable e.2 = false) ∧
      (∀ e ∈ s.weaves, e.1 ≠ w → x.prio < e.2.prio → ¬ asks e.2 x.die) ∧ (x.lane = true ∨ s.laneReady x.die x.slot = false)
    (x.checked = true → x.asked = [] → s.pkgUp (x.die / 2) = true →
      (s.planOf x = none → answers go s waits) ∧
      (∀ plan, s.planOf x = some plan → (x.lrec.fuse = true → clustersFull plan = true) → (plan.map fun j => j.1).Nodup →
        (∀ e ∈ s.weaves, e.1 ≠ w → x.prio < e.2.prio → ((e.2.die = x.die ∧ s.placeable e.2 = true) ∨ asks e.2 x.die) → exec go s = .next s) ∧
        (x.lane = false → s.laneReady x.die x.slot = true → exec go s = .next s) ∧
        (first → (∀ e ∈ plan, dieOf e.1 = x.die) → answers go s (started x.lrec plan)) ∧
        (first → (∃ e ∈ plan, dieOf e.1 ≠ x.die) → answers go s fun u =>
          u.cores = s.cores ∧ ∃ y, tfind u.weaves w = some y ∧ y.st = .waiting ∧ y.plan = plan ∧ y.askedAt = s.time ∧ (∀ n, n ∈ y.asked ↔ n ≠ x.die ∧ ∃ e ∈ plan, dieOf e.1 = n) ∧ y.granted = [x.die]))) ∧
    -- the agreement
    (d ∈ x.asked → d ∉ x.granted → x.declined = false →
      ((∀ e ∈ x.plan, dieOf e.1 = d → s.coreFree w e.1 = true) → s.barsFree x ((x.plan.filter fun e => dieOf e.1 == d).map fun e => e.1) = true →
        (∀ e ∈ s.weaves, e.1 ≠ w → x.prio < e.2.prio → (e.2.die = d → s.placeable e.2 = false) ∧ ¬ asks e.2 d) →
        answers (.reservationRequest d w) s fun u => u = { s with weaves := tput s.weaves w { x with granted := x.granted ++ [d] } }) ∧
      (((∃ e ∈ x.plan, dieOf e.1 = d ∧ s.coreFree w e.1 = false) ∨ ∃ e ∈ s.weaves, e.1 ≠ w ∧ x.prio < e.2.prio ∧ asks e.2 d) →
        answers (.reservationRequest d w) s fun u => u = { s with weaves := tput s.weaves w { x with declined := true } })) ∧
    (x.asked ≠ [] →
      (x.declined = true → answers (.reservationReply w) s fun u => u.cores = s.cores ∧
        ∃ y, tfind u.weaves w = some y ∧ y.st = .waiting ∧ y.asked = [] ∧ y.granted = [] ∧ y.plan = []) ∧
      (x.declined = false → (∀ n ∈ x.asked, n ∈ x.granted) → (x.lrec.debug = true → s.freeHaltSlot ≠ none) → (x.plan.map fun j => j.1).Nodup →
        answers (.reservationReply w) s (started x.lrec x.plan)) ∧
      (x.declined = false → (x.lrec.debug = true → s.freeHaltSlot ≠ none) → (∃ n ∈ x.asked, n ∉ x.granted) → exec (.reservationReply w) s = .next s))

/-- R10, R160, R176: a weave whose jobs have all ended, and that owes nothing, ends with DONE after a release at its root level's scope for each job,
and its packet completes; a weave that is torn down frees each core whose requests have completed, drops and counts the launches of its parked
tasks, and with the last core writes the report, and its packet completes with its status. R169, R177 to R181: for a waiting weave that does not
fit, resident weaves of lower priority are pre-empted where the save pool has images and room; at the end of its quantum a resident weave goes
for one of its own priority, behind those that came before (R43), else a new quantum begins; once all its jobs have stopped (R12), a job whose
requests are complete is saved in a free image of its die, its registers and stores at their places of R179; 200 µs after the decision an
unstopped weave is torn down with PREEMPT_OVERDUE; all the jobs of a saved weave resume together on their cores, from what their images then
hold, and not before the weave that took its cores at the end of its quantum. Nothing is pre-empted further while it is halted (R482, R483). The
model's choices: the fewest victims, and halted weaves are none (log entry 21), an L1 that is written back and empty at a save and a resumption
(19), the lowest free image (128), the order at the end of a quantum (131). -/
def Obligations.WeavesEndArePreemptedAndResume : Prop :=
  (
  ∀ (s : State) (w id : Nat) (x : Weave) (p : DPkt), tfind s.weaves w = some x → x.id = w → x.origin = .packet id → s.pkt x.die id = some p →
    s.weaves.Pairwise (fun e f => e.1 < f.1) →
    let ends (status detail : Nat) (u : State) : Prop :=
      tfind u.weaves w = none ∧ (∀ e ∈ s.weaves, e.1 ≠ w → e ∈ u.weaves) ∧ u.pkt x.die id = some { p with st := .completed, status := status, detail := detail, readBy := s.time } ∧
      (∀ h, x.hslot = some h → tfind u.hslots h = some {}) ∧ (∀ e ∈ u.groups, e.2.weave ≠ w)
    (x.st ≠ .waiting → x.torn = false → x.live = [] → s.weaveOwes x = false → s.weaveHalted w = false →
      answers (.weaveComplete w) s fun u => ends 0 0 u ∧ ∀ a, u.homeByte a = (x.jobs.foldl (fun v j => v.release j.1 x.rootScope) s).homeByte a) ∧
    ((x.st = .waiting ∨ x.torn = true ∨ x.live ≠ [] ∨ s.weaveOwes x = true ∨ s.weaveHalted w = true) → exec (.weaveComplete w) s = .next s) ∧
    (x.torn = false → exec (.weaveTeardown w) s = .next s) ∧
    (x.torn = true → (x.live.map fun j : Nat × Nat => j.2).Nodup →
      let held : Prop := (∃ j ∈ x.live, s.jobHere w j.2 = true ∧ (s.core j.2).accs ≠ []) ∨ s.runsOwed w = true
      let freed (u : State) : Prop :=
        (∀ j ∈ x.live, s.jobHere w j.2 = true → (s.core j.2).accs = [] → (u.core j.2).job = none ∧ (u.core j.2).tasks = []) ∧
        (∀ c, (∀ j ∈ x.live, j.2 ≠ c ∨ s.jobHere w c = false ∨ (s.core c).accs ≠ []) → u.core c = s.core c)
      (held → answers (.weaveTeardown w) s fun u => freed u ∧ bytesKept s u ∧ ∃ y, tfind u.weaves w = some y ∧ y.torn = true ∧ y.status = x.status ∧ y.report = x.report) ∧
      (¬ held → memoryOk s → x.status < 2 ^ 16 →
        let n := x.dropped + ((x.live.filter fun j => s.jobHere w j.2).map fun j => (s.core j.2).launches).sum + (x.images.map fun i => i.2.state.launches).sum
        let detail := if 7 ≤ x.status ∧ x.status ≤ 12 then n else 0
        answers (.weaveTeardown w) s fun u => ends x.status detail u ∧ (∀ j ∈ x.live, s.jobHere w j.2 = true → (u.core j.2).job = none ∧ (u.core j.2).tasks = []) ∧
          (x.tdaddr = 0 → ∀ a, u.homeByte a = s.homeByte a) ∧
          (x.tdaddr ≠ 0 → let a := x.tdaddr
            u.homeNum a 8 = (2 ^ 16 * n + x.status) % 2 ^ 64 ∧ u.homeNum (a + 8) 2 = x.report.wherev % 2 ^ 16 ∧ u.homeNum (a + 10) 1 = x.report.strand % 2 ^ 8 ∧
            u.homeNum (a + 11) 1 = x.report.task % 2 ^ 8 ∧ u.homeNum (a + 12) 4 = n % 2 ^ 32 ∧ u.homeNum (a + 16) 8 = x.report.word % 2 ^ 64 ∧
            u.homeNum (a + 24) 8 = x.report.vaddr % 2 ^ 64 ∧ u.homeNum (a + 32) 4 = x.idx % 2 ^ 32 ∧ u.homeNum (a + 36) 28 = 0)))) ∧
  (
  ∀ (s : State) (w w' : Nat) (x : Weave), tfind s.weaves w = some x → x.id = w →
    let stops (u : State) : Prop := u.cores = s.cores ∧ bytesKept s u ∧
      ∃ y, u = { s with weaves := tput s.weaves w y } ∧ y = { x with st := .stopping, stopTime := 0, commonSpc := y.commonSpc }
    (∀ y, tfind s.weaves w' = some y → y.id = w' → w' ≠ w → (y.st = .waiting ∨ y.st = .saved) → y.torn = false → s.placeable y = false →
      let count := ((s.disp y.die).savecnt.toNat % 2 ^ 10)
      (count = 0 → exec (.preemptDecision w w') s = .next s) ∧
      (∀ vs, count ≠ 0 → s.chooseVictims y = some vs →
        (s.roomFor vs = true → (∃ v ∈ vs, v.id = w) → answers (.preemptDecision w w') s stops) ∧
        ((s.roomFor vs = false ∨ ∀ v ∈ vs, v.id ≠ w) → exec (.preemptDecision w w') s = .next s)) ∧
      (∀ vs, s.chooseVictims y = some vs → ∀ v ∈ vs, v.st = .resident ∧ v.prio < y.prio) ∧
      (x.st = .resident → x.torn = false → s.weaveHalted w = false → y.prio = x.prio →
        (s.fitsWithout y (x :: s.stoppingWeaves) = true ∨ (y.st = .saved ∧ ∃ j ∈ y.live, s.jobHere w j.2 = true)) →
        (s.disp x.die).savecnt.toNat % 2 ^ 10 ≠ 0 → s.roomFor [x] = true → 2000000 ≤ x.quantum → answers (.quantumExpiry w w') s fun u =>
          u.cores = s.cores ∧ bytesKept s u ∧ (∀ v, v ≠ w → tfind u.weaves v = tfind s.weaves v) ∧
          ∃ z, tfind u.weaves w = some z ∧ z = { x with st := .stopping, stopTime := 0, commonSpc := z.commonSpc, arrival := s.nextId, yields := some w' })) ∧
    (x.st = .resident → x.torn = false → s.weaveHalted w = false →
      (x.quantum < 2000000 → exec (.quantumExpiry w w') s = .next s) ∧
      (let alone : Prop := (s.disp x.die).savecnt.toNat % 2 ^ 10 = 0 ∨ s.roomFor [x] = false ∨ ∀ e ∈ s.weaves, s.waitsFor e.2 x = false
       2000000 ≤ x.quantum →
        (alone → exec (.quantumExpiry w w') s = .next { s with weaves := tput s.weaves w { x with quantum := 0 } }) ∧
        (¬ alone → tfind s.weaves w' = none → exec (.quantumExpiry w w') s = .next s))) ∧
    (x.st = .stopping → x.torn = false →
      let stopped : Prop := ∀ j ∈ x.live, s.jobHere w j.2 = true → s.jobStopped j.2 = true
      (∀ c j i, (s.core c).job = some (w, j) → (s.core c).frozen = none → s.weaveHalted w = false → stopped → (s.core c).accs = [] → s.walksEnding c = false →
        s.nextImage (dieOf c) = some i →
        answers (.jobSaveComplete c) s fun u =>
          (u.core c).job = none ∧ (u.core c).tasks = [] ∧ (u.disp (dieOf c)).images = (s.disp (dieOf c)).images ++ [i] ∧
          (∀ e, e ≠ c → (u.core e).tasks = (s.core e).tasks ∧ (u.core e).job = (s.core e).job) ∧
          ∃ y img, tfind u.weaves w = some y ∧ (y.st = .stopping ∨ y.st = .saved) ∧ tfind y.images j = some img ∧ img.slot = i ∧ img.core = c ∧
            img.state.tasks = (s.core c).tasks ∧ img.state.data.v = (s.core c).data.v ∧ img.state.events = (s.core c).events ∧
            img.state.data.timed = (s.core c).data.timed ∧ (∀ e ∈ img.state.l1, e.2.dirty = 0) ∧
            img.addr = (s.disp (dieOf c)).savepool.toNat + 2 ^ 23 * i ∧
            (let k := s.core c
             memoryOk s →
              (k.data.v.Pairwise (fun e f => e.1 < f.1) → ∀ r, r < 512 → numBytes (bytesAt u.banks (img.addr + 0x10000 + 4096 * r) 4096) = tget 0 k.data.v r % 2 ^ 32768) ∧
              (Memory.wf k.opmem = true → ∀ o, o < 0x100000 → byteAt u.banks (img.addr + 0x264000 + o) = byteAt k.opmem o) ∧
              (Memory.wf k.scratch = true → ∀ o, o < 0x400000 → byteAt u.banks (img.addr + 0x364000 + o) = if o < k.scratchTop then byteAt k.scratch o else 0#8))) ∧
      (∀ c j, (s.core c).job = some (w, j) → (¬ stopped ∨ s.weaveHalted w = true ∨ s.walksEnding c = true ∨ (s.core c).accs ≠ [] ∨ s.nextImage (dieOf c) = none) → exec (.jobSaveComplete c) s = .next s) ∧
      (200000 ≤ x.stopTime → s.weaveHalted w = false → (∃ j ∈ x.live, s.jobHere w j.2 = true ∧ s.jobStopped j.2 = false) →
        answers (.preemptOverdue w) s fun u => u.cores = s.cores ∧ bytesKept s u ∧ ∃ y, tfind u.weaves w = some y ∧ y.torn = true ∧ y.status = 10) ∧
      ((x.stopTime < 200000 ∨ s.weaveHalted w = true ∨ ∀ j ∈ x.live, s.jobHere w j.2 = true → s.jobStopped j.2 = true) →
        exec (.preemptOverdue w) s = .next s)) ∧
    (x.st = .saved → x.torn = false → s.yieldsStill x = true → answers (.weaveResume w) s fun u =>
      u.cores = s.cores ∧ bytesKept s u ∧ ∃ y, tfind u.weaves w = some y ∧ y.st = .saved ∧ y.images = x.images) ∧
    (x.st = .saved → x.torn = false → s.weaveHalted w = false → s.yieldsStill x = false → (∀ j ∈ x.live, s.coreFree w j.2 = true) →
      (∀ e ∈ s.weaves, e.1 ≠ w → e.2.die = x.die → s.placeable e.2 = false) →
      (∀ e ∈ s.weaves, e.1 ≠ w → x.prio < e.2.prio → x.die ∈ e.2.asked → x.die ∉ e.2.granted → e.2.declined = false → s.shareFree x.die e.2 = false) →
      (x.images.map fun i => i.2.core).Nodup →
      answers (.weaveResume w) s fun u => (∃ y, tfind u.weaves w = some y ∧ y.st = .resident ∧ y.images = [] ∧ y.quantum = 0) ∧
        ∀ i ∈ x.images, let k := u.core i.2.core
          k.job = i.2.state.job ∧ k.srkey = i.2.state.srkey ∧ k.l1 = [] ∧ k.seg = i.2.state.seg ∧
          (i.2.state.drained = [] → k.tasks = i.2.state.tasks ∧ k.events = i.2.state.events) ∧
          -- the first task that waits for an event whose slot has a count goes on (R180, R181)
          (∀ n t, n < 32 → t < 8 → i.2.state.tasks.Pairwise (fun e f => e.1 < f.1) → i.2.state.eventWaiter n = some t → 0 < (tget {} i.2.state.events n).count → (u.task i.2.core t).st = .ready) ∧
          (i.2.state.data.saveStop = false → k.data.counted = i.2.state.data.counted ∧ k.data.vec.pc = i.2.state.data.vec.pc ∧ k.data.timed = i.2.state.data.timed) ∧
          (∀ m, i.2.state.data.saveStop = true → i.2.state.data.snap = some m → k.data.counted = m.counted ∧ k.data.vec.pc = m.vec.pc) ∧
          (let at_ (o : Nat) : Nat := i.2.addr + o
           memoryOk s → (∀ j ∈ x.images, (s.core j.2.core).l1 = []) → i.2.addr % 32 = 0 →
            (∀ r, r < 512 → tget 0 k.data.v r = numBytes (s.homeBytes (at_ (0x10000 + 4096 * r)) 4096)) ∧
            (∀ o, o < 0x100000 → byteAt k.opmem o = s.homeByte (at_ (0x264000 + o))) ∧
            ∀ o, o < 0x400000 → byteAt k.scratch o = s.homeByte (at_ (0x364000 + o)))))

/-! The panel in service (R500 to R513). -/

/-- R503, R506 to R508, R509, R511: bring-up goes through ROM, FWCHECK, TRAIN and SYNC to JOIN, or stays in ROM, enters RECOVERY with CODE 3, 1 or
2, or is FAILED; when every package has joined or is lost, or after 2 s, the joined ones are READY and the others lost; COMMIT is BUSY, REJECTED,
or replaces the flash and resets the package; the report of 256 bytes is written and signed; a package without coolant or at 115 °C powers off and
is marked lost; power-off leaves the flash and the boot count; a package that starts or resets while the flow throttles the panel runs at step 5.
The signatures and digests are those of the text of RFC 8032 that the model takes (log entry 132). The model's choices: which fault of an image is
reported (58), what a power loss and a reset leave (60), when JOIN ends (61). -/
def Obligations.PackagesBootUpdateAndAttest : Prop :=
  ∀ (s : State) (p : Nat), p < 64 →
    let x := s.pkg p
    let n (m : Bytes) (i : Nat) : Nat := numBytes (bytesAt m i 8)
    let long (m : Bytes) : Prop := n m 72 < 64 ∨ 2 ^ 25 - 64 < n m 72
    let signed (m : Bytes) : Prop := ed25519Verify (Config.vireriKey p) (bytesAt m 64 (n m 72)) (bytesAt m 0 64) = true
    let older (m : Bytes) : Prop := n m 64 < Config.minVersion p
    let sized (k : Nat) (l : List Byte) : List Byte := (l ++ List.replicate k 0#8).take k
    let goes (flow links sync : Bool) (q : Pkg → Prop) : Prop := answers (.powerOn p flow links sync) s fun u =>
      q (u.pkg p) ∧ (∀ m, m ≠ p → u.pkg m = s.pkg m) ∧ u.cores = s.cores ∧ bytesKept s u
    let rest (u : State) : Prop := (u.pkg p).flash = x.flash ∧ (u.pkg p).bootCount = x.bootCount ∧ (u.pkg p).boot = .off
    let gone (u : State) : Prop := (∀ c, pkgOf c = p → u.core c = {}) ∧ (∀ c, pkgOf c ≠ p → u.core c = s.core c)
    let slowed (u : State) : Prop := s.flowThrottle = true → ∀ d, d / 2 = p → 5 ≤ (u.serv d).step
    -- bring-up, step by step
    (s.lost.testBit p = true → ∀ f l y, exec (.powerOn p f l y) s = .next s) ∧
    (s.lost.testBit p = false →
      (x.boot = .off → ∀ f l y, goes f l y (fun z => z = { x with boot := .rom, code := 0, apbase := p }) ∧ answers (.powerOn p f l y) s slowed) ∧
      (x.boot = .rom → ∀ f l y, ((f = false ∨ s.flow = 0) → exec (.powerOn p f l y) s = .next s) ∧
        (f = true → s.flow ≠ 0 → goes f l y fun z =>
          z = { x with boot := .fwcheck, code := 0, bootCount := x.bootCount + 1, fwdigest := sha512 (bytesAt x.flash 64 (n x.flash 72)) })) ∧
      (x.boot = .fwcheck → ∀ f l y,
        (long x.flash → goes f l y fun z => z = { x with boot := .recovery, code := 3 }) ∧
        (¬ long x.flash → ¬ signed x.flash → goes f l y fun z => z = { x with boot := .recovery, code := 1 }) ∧
        (¬ long x.flash → signed x.flash → older x.flash → goes f l y fun z => z = { x with boot := .recovery, code := 2 }) ∧
        (¬ long x.flash → signed x.flash → ¬ older x.flash → goes f l y fun z => z = { x with boot := .train, fwver := BitVec.ofNat 64 (n x.flash 64) })) ∧
      (x.boot = .train → ∀ f y, goes f true y (fun z => z = { x with boot := .sync, code := 0 }) ∧ goes f false y fun z => z = { x with boot := .failed, code := z.code }) ∧
      (x.boot = .sync → ∀ f l, goes f l true (fun z => z = { x with boot := .join, code := 0 }) ∧ goes f l false fun z => z = { x with boot := .failed, code := z.code }) ∧
      ((x.boot = .join ∨ x.boot = .ready ∨ x.boot = .recovery ∨ x.boot = .failed) → ∀ f l y, exec (.powerOn p f l y) s = .next s)) ∧
    (let up (m : Nat) : Prop := (s.pkg m).boot = .join ∨ (s.pkg m).boot = .ready ∨ s.lost.testBit m = true
     x.boot = .join → s.lost.testBit p = false → ((∀ m, m < 64 → up m) ∨ 2000000000 ≤ s.time) → answers .joinEnd s fun u =>
      (∀ m, m < 64 → (s.pkg m).boot = .join → s.lost.testBit m = false → (u.pkg m).boot = .ready ∧ u.lost.testBit m = false) ∧
      (∀ m, m < 64 → ¬ up m → u.lost.testBit m = true) ∧ u.cores = s.cores ∧ bytesKept s u) ∧
    -- firmware
    (s.mgmtUp p = true →
      (s.pkgBusy p = true → answers (.fwctlCommit p) s fun u => u.pkg p = { x with fwstat := 1 } ∧ u.cores = s.cores ∧ bytesKept s u) ∧
      (s.pkgBusy p = false → (long x.fwbuf ∨ ¬ signed x.fwbuf ∨ older x.fwbuf) → answers (.fwctlCommit p) s fun u =>
        u.pkg p = { x with fwstat := 2 } ∧ u.cores = s.cores ∧ bytesKept s u) ∧
      (s.pkgBusy p = false → ¬ long x.fwbuf → signed x.fwbuf → ¬ older x.fwbuf → answers (.fwctlCommit p) s fun u =>
        (u.pkg p).flash = x.fwbuf ∧ (u.pkg p).boot = .rom ∧ (u.pkg p).fwstat = 3 ∧ (u.pkg p).mgmten = 0 ∧ (u.pkg p).apbase = p ∧ gone u ∧ slowed u)) ∧
    -- attestation
    (s.mgmtUp p = true → answers (.attcmdStart p) s fun u => u.pkg p = { x with attcmd := 1 } ∧ bytesKept s u) ∧
    (x.attcmd = 1 →
      let store (d : Nat) : List Byte := bytesAt (tget [] s.walkStore d) 0 65536
      let body := bytesAt x.nonce 0 32 ++ bytesOfNum 8 p ++ bytesOfNum 8 Config.panelSerial ++ sized 64 x.fwdigest ++
        sha512 (store (2 * p) ++ store (2 * p + 1)) ++ bytesOfNum 8 x.bootCount ++ bytesOfNum 8 s.time
      answers (.attestReportReady p) s fun u => u.pkg p = { x with attrep := body ++ ed25519Sign (sized 32 (Config.seed p)) body, attcmd := 2 } ∧ bytesKept s u) ∧
    -- power
    (x.boot ≠ .off → (s.flow = 0 ∨ 115 ≤ (s.serv (2 * p)).temp ∨ 115 ≤ (s.serv (2 * p + 1)).temp) → answers (.thermalTrip p) s fun u => rest u ∧ u.lost.testBit p = true) ∧
    (answers (.powerOff (some p)) s fun u => rest u ∧ u.lost = s.lost) ∧ answers (.powerOff none) s fun u => rest u ∧ u.lost = 0 ∧ u.cores = [] ∧ u.weaves = []

/-- R136, R148, R176, R502, R504, R505, R509 to R513: a host write enters at the homes, a host read gives their bytes, or an abort where a line of it
is in the error-address table; the writes of the management words take effect as listed, PCAP
clamped to 200 to 640; KILL tears down every weave of its context, or counts; below 120 L/min every package throttles to step 5, at 105 °C that
die, until the flow has stood at 130 L/min or more for 1 s or the junction has fallen to 100 °C; a die keeps its step no faster than that, and
CAP is set where step 5 cannot meet the cap; the hourly sample gives MARGIN, DRIFT and EOLH. The model's choices: when a sample is taken, and the
line and the bounds of H (log entry 65); MARGIN that stays at its greatest value (129). -/
def Obligations.ManagementWordsAndEventsTakeEffect : Prop :=
  ∀ (s : State) (p d : Nat) (v : Word), p < 64 → d < 128 →
    let x := s.pkg p
    let y := s.serv d
    let kept (u : State) : Prop := u.cores = s.cores ∧ u.weaves = s.weaves ∧ bytesKept s u
    let n := v.toNat
    let only (i : Instr) (z : Pkg) : Prop := answers i s fun u => u.pkg p = z ∧ (∀ m, m ≠ p → u.pkg m = s.pkg m) ∧ kept u
    let rises (b : Nat) (q : Nat) (u : State) : Prop := (u.pkg q).mgmtint.testBit b = true
    (∀ off data, s.hostUp p = true → (s.pkg x.apbase).boot ≠ .off → off + data.length ≤ 2 ^ 39 → memoryOk s → x.apbase < 64 →
      let at_ (i : Nat) : Nat := 2 ^ 42 * x.apbase + 2 ^ 41 * ((off + i) / 2 ^ 38 % 2) + (off + i) % 2 ^ 38
      (answers (.hostMemoryAccess p true off data false) s fun u =>
        (∀ i b, data[i]? = some b → s.errorLine (at_ i / 128) = false → u.homeByte (at_ i) = b) ∧
        ∀ a, (∀ i, i < data.length → a ≠ at_ i) → u.homeByte a = s.homeByte a) ∧
      answers (.hostMemoryAccess p false off data false) s fun u => bytesKept s u ∧ u.cores = s.cores ∧
        ((∃ i, i < data.length ∧ s.errorLine (at_ i / 128) = true) → (u.pkg p).hostRead = .abort) ∧
        ((∀ i, i < data.length → s.errorLine (at_ i / 128) = false) →
          (u.pkg p).hostRead = .data ((List.range data.length).map fun i => s.homeByte (at_ i)))) ∧
    (s.mgmtUp p = true →
      (∀ k, k < 2 → answers (.pcapWrite p k v) s fun u => kept u ∧ u.serv (2 * p + k) = { s.serv (2 * p + k) with pcap := max 200 (min 640 (n % 2 ^ 10)) }) ∧
      (50 ≤ n % 2 ^ 10 → n % 2 ^ 10 ≤ 300 → only (.swcapWrite p v) { x with swcap := n % 2 ^ 10 }) ∧
      only (.clkforceWrite p v) { x with clkforce := n % 2 ^ 4 } ∧ only (.apbaseWrite p v) { x with apbase := n % 2 ^ 6 } ∧
      (answers (.mgmtintWrite p v) s fun u => kept u ∧ ∀ b, (u.pkg p).mgmtint.testBit b = (x.mgmtint.testBit b && !n.testBit b)) ∧
      (answers (.lostWrite p v) s fun u => kept u ∧ ∀ q, q < 64 → (u.lost.testBit q = true ↔ s.lost.testBit q = true ∨ (2 ^ 63 ≤ n ∧ q = n % 2 ^ 6))) ∧
      (∀ off, 0x100 ≤ off → off < 0x180 → off % 8 = 0 → (s.net (2 * p + (off - 0x100) / 0x40)).qps = [] → Memory.wf x.netaddr = true →
        answers (.netaddrWrite p off v) s fun u => kept u ∧ numBytes (bytesAt (u.pkg p).netaddr (off - 0x100) 8) = n) ∧
      (∀ off, 0x100 ≤ off → off < 0x180 → off % 8 = 0 → (s.net (2 * p + (off - 0x100) / 0x40)).qps ≠ [] →
        only (.netaddrWrite p off v) { x with mgmtstat := countUp x.mgmtstat 32 32 1 }) ∧
      ((∀ e ∈ s.weaves, e.2.ctx = n % 2 ^ 16 → e.2.torn = true ∨ e.2.st = .ended) →
        only (.killWrite p v) { x with mgmtstat := countUp x.mgmtstat 16 16 1 }) ∧
      (∀ w z, tfind s.weaves w = some z → z.id = w → z.ctx = n % 2 ^ 16 → z.torn = false → z.st ≠ .ended → answers (.killWrite p v) s fun u =>
        bytesKept s u ∧ ∃ z', tfind u.weaves w = some z' ∧ z'.torn = true ∧ z'.status = 12)) ∧
    (∀ off, s.hostUp (d / 2) = true → off < 65536 → off % 8 = 0 →
      (s.dieBusy d = false → Memory.wf (tget [] s.walkStore d) = true → answers (.walkStoreWrite d off v) s fun u => kept u ∧
        numBytes (bytesAt (tget [] u.walkStore d) off 8) = n) ∧
      (s.dieBusy d = true → answers (.walkStoreWrite d off v) s fun u => kept u ∧ u.walkStore = s.walkStore ∧
        u.pkg (d / 2) = { s.pkg (d / 2) with mgmtstat := countUp (s.pkg (d / 2)).mgmtstat 32 32 1 })) ∧
    (∀ k, k < 16 → s.hostUp p = true → answers (.edgectlWrite k v) s fun u => kept u ∧ tfind u.edge k = some (n % 2 ^ 8)) ∧
    -- flow and temperature
    (∀ flow, answers (.coolantFlowChange flow) s fun u => kept u ∧ u.flow = flow ∧ (u.flowThrottle = true ↔ s.flowThrottle = true ∨ flow < 120) ∧
      (flow < 120 → (s.pkg (d / 2)).boot ≠ .off → 5 ≤ (u.serv d).step) ∧ (120 ≤ flow → flow < 160 → x.boot ≠ .off → rises 1 p u)) ∧
    (answers .flowRecoveryTimer s fun u => kept u ∧ u = { s with flowThrottle := u.flowThrottle } ∧
      (u.flowThrottle = true ↔ s.flowThrottle = true ∧ ¬ (130 ≤ s.flow ∧ ∃ t, s.flowSince = some t ∧ t + 1000000000 ≤ s.time))) ∧
    (∀ temp, answers (.junctionTemperatureChange d temp) s fun u => kept u ∧ (u.serv d).temp = temp ∧ (105 ≤ temp → (u.serv d).hot = true ∧ 5 ≤ (u.serv d).step) ∧
      (temp ≤ 100 → (u.serv d).hot = false) ∧ (100 < temp → temp < 105 → (u.serv d).hot = y.hot)) ∧
    (∀ step, answers (.clockStepChange d step) s fun u => kept u ∧ (u.serv d).pcap = y.pcap ∧
      ((s.flowThrottle = true ∨ y.hot = true) → (u.serv d).step = 5) ∧
      (s.flowThrottle = false → y.hot = false → let f := (s.pkg (d / 2)).clkforce
        (u.serv d).step = max (min 5 step) (if f / 2 ^ 3 % 2 = 1 then min 5 (f % 2 ^ 3) else 0)) ∧ (5 < step → rises 2 (d / 2) u)) ∧
    -- ageing
    ∀ drift margin, y.sampled + 3600000000000 ≤ s.time → answers (.ageSample d drift margin) s fun u => kept u ∧
      let z := u.serv d
      let ms := z.margins
      let r : List Nat := List.range ms.length
      let m : Int := ms.length
      let sx : Int := ((r.map fun (i : Nat) => (i : Int))).sum
      let sxx : Int := ((r.map fun (i : Nat) => (i : Int) * i)).sum
      let sy : Int := ((ms.map fun (i : Nat) => (i : Int))).sum
      let sxy : Int := ((ms.zip r).map fun (e : Nat × Nat) => (e.1 : Int) * e.2).sum
      let slope := m * sxy - sx * sy
      let den := m * sxx - sx * sx
      ms = (y.margins ++ [margin]).drop (y.margins.length - 1023) ∧ z.margin = min 65535 margin ∧ z.drift = min 65535 (drift / 10) ∧ z.sampled = s.time ∧
      (margin ≤ 200 → z.eolh = 0) ∧
      (200 < margin → slope < 0 → (z.eolh : Int) = min (2 ^ 32 - 1) (((margin : Int) - 200) * den / (-slope))) ∧
      (200 < margin → 0 ≤ slope → z.eolh = 2 ^ 32 - 1) ∧ (z.eolh < 8760 ∨ 50000 < drift → rises 4 (d / 2) u)

/-! Decoding, the step, the form of memory, reset. -/

/-- R45 to R68: every well-formed instruction that has words is decoded from its own encoding, with every operand: as a control instruction from its
bytes, as a data word of an engine, as a word of an NMU, or as a word of a sampler; so its encoding drops no bit of it. The words that are no
instruction (R68) are left out. -/
def Obligations.DecodingInvertsEncoding : Prop :=
  ∀ (i : Instr), wellFormed i = true → encode i ≠ [] → (∀ raw, i ≠ .illegalInstruction raw) →
    let bs := encodeBytes i
    decodeBytes bs = some i ∨ (∃ e, 1 ≤ e ∧ e ≤ 3 ∧ decodeData e (numOfBytes 8 bs) = some i) ∨ decodeNmu (numOfBytes 4 bs) = some i ∨
      decodeSampler (numOfBytes 4 bs) = some i

/-- R45 to R68: what a decoder answers is well formed, and its encoding is the words that were read: no bit of them is ignored, so words with a
reserved or unused bit set decode to nothing. -/
def Obligations.EncodingInvertsDecoding : Prop :=
  (∀ pc w0 w1 w2 i n, w0 < 2 ^ 32 → w1 < 2 ^ 32 → w2 < 2 ^ 32 → controlFate pc w0 w1 w2 = .ins i n →
    wellFormed i = true ∧ n ≤ 3 ∧ encode i = [w0, w1, w2].take n) ∧
  (∀ e w i, 1 ≤ e → e ≤ 3 → w < 2 ^ 64 → decodeData e w = some i → wellFormed i = true ∧ encode i = [w % 2 ^ 32, w / 2 ^ 32]) ∧
  (∀ w i, w < 2 ^ 32 → decodeNmu w = some i → wellFormed i = true ∧ encode i = [w]) ∧
  (∀ w i, w < 2 ^ 32 → decodeSampler w = some i → wellFormed i = true ∧ encode i = [w])

/-- R45, R57, R65: words that the spec prints decode to the instructions it prints them for. -/
def Obligations.PrintedWordsDecode : Prop :=
  decodeBytes (bytesOfNum 8 0x0000000C000617A1) = some (.launch {} 5 6 12) ∧ decodeBytes (bytesOfNum 4 0x01030BA8) = some (.qmap {} 2 3 4) ∧
  decodeBytes (bytesOfNum 8 0x00000008300216C1) = some (.gld {} false 3 5 2 8) ∧ decodeBytes (bytesOfNum 4 0x000616F0) = some (.mgCfgOpen {} 5 6) ∧
  decodeBytes (bytesOfNum 4 0x000C3B60) = some (.smWait {} 14 12) ∧ decodeBytes (bytesOfNum 4 0x01C62398) = some (.dbgRdc {} 8 6 7) ∧
  decodeData 1 0x3F800000900DF000 = some (.vmovi {} 0x3F800000 true 2 3) ∧ decodeData 2 0x0000004000113000 = some (.mzero {} false 4 4) ∧
  decodeData 3 0x0380001018114002 = some (.cpFill { idle := 2 } 0 0 7 0 { cnt := 1, ring := 3, reg := 4 }) ∧
  decodeNmu 0x10400801 = some (.nadd { fmt := 1 } 2 0 1)

/-- R19, R30, R45, R65, R332, R445: a turn of a unit whose next words decode to an instruction, and which lets it issue, runs exec of that
instruction at the state, with the unit as the issuer and the issue counted, but that a squash lets a pop of its cycle go first and a command
that reads a block parks behind its task's loads (R29, R139); an NMU counts the turn as a cycle of its own (log entry 131); an event of the schedule
runs exec of it. A turn that would bring a line into a full slice of the L2 waits until another line has left (R107; log entry 76). -/
def Obligations.AStepRunsTheDecodedInstruction : Prop :=
  ∀ (s : State) (l : List Turn) (i : Instr),
    let v : State := { s with turns := l }
    (∀ c t w0 w1 w2 n, s.turns = .issueCtl c :: l → c < 8192 → t < 8 → v.ctlRuns c = true → (v.core c).issued = false →
      (∀ u, u < 8 → u ≠ t → (v.task c u).st ≠ .ready) → (v.task c t).st = .ready → (v.task c t).notBefore ≤ (v.core c).cycle →
      (t = 0 → (v.core c).faultDue = false) → (v.core c).bps = [] →
      let pc := (v.task c t).pc.toNat
      v.fetch c pc = .word w0 → v.fetch c ((pc + 4) % 2 ^ 64) = .word w1 → v.fetch c ((pc + 8) % 2 ^ 64) = .word w2 →
      controlFate pc w0 w1 w2 = .ins i n → v.ctlReady c t i = true →
      (v.popFirst c i = true → step s = .next v) ∧
      (v.popFirst c i = false → v.behindLoads c t i = true → ∃ u, step s = .next u ∧ (u.task c t).st = .parked ∧ bytesKept s u) ∧
      (v.popFirst c i = false → v.behindLoads c t i = false → step s = v.bounded (exec i (v.beginIssue c t (if w0 % 4 = 2 then 2 else 1))))) ∧
    (∀ c e w, s.turns = .issueData c e :: l → c < 8192 → 1 ≤ e → e ≤ 3 → v.savesNow c = false → v.dataIssues c e = true → (v.strand c e).blocks = [] →
      (v.core c).bps = [] → v.dataWord c e = .word w true → decodeData e w = some i →
      step s = v.bounded (exec i ({ v with cur := .strand c e }.modStrand c e fun x => { x with exempt := false }))) ∧
    (∀ n r w, s.turns = .issueNmu n :: l → n < 32768 →
      let y := v.modNmu n fun u => { u with clk := u.clk + 1 }
      (y.nmu n).run = some r → y.nmuMayIssue n r = true → r.cmd.words[r.st.pc]? = some w → decodeNmu w = some i →
      step s = v.bounded (exec i { y with cur := .nmu n })) ∧
    (∀ d h x w, s.turns = .issueRun d h :: l → d < 128 → v.smCtx d h = some x → v.runGoes x = true → x.cancelDue = false → x.issued < x.stepmax →
      x.prog[x.pc]? = some w → decodeSampler w = some i →
      step s = v.bounded (exec i { (v.modCtx d h fun x => { x with issued := x.issued + 1 }).modSmp d (fun y => { y with stat := smWords y.stat }) with cur := .run d h })) ∧
    (s.turns = .event i :: l → step s = v.bounded (exec i { v with cur := .none })) ∧
    -- the room of a slice of the L2
    (∀ x t, s.turns = x :: l → v.turn x = .next t → (t.overfull = false → step s = .next t) ∧ (t.overfull = true → v.overfull = false → step s = .next v))

/-- R132, R144: the form of memory is kept by every step: the banks list no byte twice and no byte that an unlisted address reads as, and the homes
list every sector once with its 32 bytes. -/
def Obligations.EveryStepKeepsMemoryInItsForm : Prop := ∀ s t, memoryOk s → step s = .next t → memoryOk t

/-- Memory stands in its canonical form at reset (R132, R144: what the homes and banks hold). -/
def Obligations.ResetMemoryIsInItsForm : Prop := memoryOk State.reset

/-- R91, R106, R149, R185 to R188, R229, R505, R511 to R513: what the spec gives for reset: the system registers with a reset value read it, the
dispatchers' and the management registers hold theirs, every package is off and not lost, and no job is resident. -/
def Obligations.ResetLeavesTheStatedValues : Prop :=
  let s := State.reset
  (∀ c t, c < 8192 → t < 8 →
    (∀ n ∈ [0x00, 0x02, 0x08, 0x09, 0x0C, 0x0F], sysRead s c t n = some 0#64) ∧ sysRead s c t 0x03 = some 1024#64 ∧
    sysRead s c t 0x04 = some (BitVec.ofNat 64 t) ∧ sysRead s c t 0x05 = some (BitVec.ofNat 64 c) ∧ (s.core c).job = none) ∧
  (∀ d n, d < 128 → n < 64 → (s.disp d).savepool = 0#64 ∧ (s.disp d).savecnt = 0#64 ∧ (s.disp d).dstat = 0#64 ∧ s.slotWord d n = 0#64) ∧
  (∀ d, d < 128 → (s.serv d).pcap = 640 ∧ (s.serv d).eolh = 0xFFFFFFFF ∧ (s.serv d).drift = 0 ∧ (s.serv d).margin = 0) ∧
  (∀ p, p < 64 → (s.pkg p).boot = .off ∧ (s.pkg p).swcap = 300 ∧ (s.pkg p).mgmten = 0 ∧ (s.pkg p).clkforce = 0 ∧ (s.pkg p).mgmtstat = 0#64 ∧ s.lost.testBit p = false) ∧
  ∀ k, k < 16 → tget 0xFF s.edge k = 0xFF
end

