-- ==== Sys2Proof/Laws/Exec.lean ====
section
/-! SUPPORT. The arm of each constructor: exec of an instruction is its meaning. A proof cites these and never unfolds exec. -/

namespace Sys2Proof.Machine

@[simp] theorem exec_add h d a b (s : State) : exec (.add h d a b) s = execAdd h d a b s := rfl
@[simp] theorem exec_sub h d a b (s : State) : exec (.sub h d a b) s = execSub h d a b s := rfl
@[simp] theorem exec_and h d a b (s : State) : exec (.and h d a b) s = execAnd h d a b s := rfl
@[simp] theorem exec_or h d a b (s : State) : exec (.or h d a b) s = execOr h d a b s := rfl
@[simp] theorem exec_xor h d a b (s : State) : exec (.xor h d a b) s = execXor h d a b s := rfl
@[simp] theorem exec_shl h d a b (s : State) : exec (.shl h d a b) s = execShl h d a b s := rfl
@[simp] theorem exec_shr h d a b (s : State) : exec (.shr h d a b) s = execShr h d a b s := rfl
@[simp] theorem exec_sra h d a b (s : State) : exec (.sra h d a b) s = execSra h d a b s := rfl
@[simp] theorem exec_slt h d a b (s : State) : exec (.slt h d a b) s = execSlt h d a b s := rfl
@[simp] theorem exec_sltu h d a b (s : State) : exec (.sltu h d a b) s = execSltu h d a b s := rfl
@[simp] theorem exec_min h d a b (s : State) : exec (.min h d a b) s = execMin h d a b s := rfl
@[simp] theorem exec_max h d a b (s : State) : exec (.max h d a b) s = execMax h d a b s := rfl
@[simp] theorem exec_minu h d a b (s : State) : exec (.minu h d a b) s = execMinu h d a b s := rfl
@[simp] theorem exec_maxu h d a b (s : State) : exec (.maxu h d a b) s = execMaxu h d a b s := rfl
@[simp] theorem exec_addi h d a imm (s : State) : exec (.addi h d a imm) s = execAddi h d a imm s := rfl
@[simp] theorem exec_andi h d a imm (s : State) : exec (.andi h d a imm) s = execAndi h d a imm s := rfl
@[simp] theorem exec_ori h d a imm (s : State) : exec (.ori h d a imm) s = execOri h d a imm s := rfl
@[simp] theorem exec_xori h d a imm (s : State) : exec (.xori h d a imm) s = execXori h d a imm s := rfl
@[simp] theorem exec_shli h d a sh (s : State) : exec (.shli h d a sh) s = execShli h d a sh s := rfl
@[simp] theorem exec_shri h d a sh (s : State) : exec (.shri h d a sh) s = execShri h d a sh s := rfl
@[simp] theorem exec_srai h d a sh (s : State) : exec (.srai h d a sh) s = execSrai h d a sh s := rfl
@[simp] theorem exec_slti h d a imm (s : State) : exec (.slti h d a imm) s = execSlti h d a imm s := rfl
@[simp] theorem exec_mul h d a b (s : State) : exec (.mul h d a b) s = execMul h d a b s := rfl
@[simp] theorem exec_mulh h d a b (s : State) : exec (.mulh h d a b) s = execMulh h d a b s := rfl
@[simp] theorem exec_mulhu h d a b (s : State) : exec (.mulhu h d a b) s = execMulhu h d a b s := rfl
@[simp] theorem exec_div h d a b (s : State) : exec (.div h d a b) s = execDiv h d a b s := rfl
@[simp] theorem exec_divu h d a b (s : State) : exec (.divu h d a b) s = execDivu h d a b s := rfl
@[simp] theorem exec_rem h d a b (s : State) : exec (.rem h d a b) s = execRem h d a b s := rfl
@[simp] theorem exec_remu h d a b (s : State) : exec (.remu h d a b) s = execRemu h d a b s := rfl
@[simp] theorem exec_li h d imm (s : State) : exec (.li h d imm) s = execLi h d imm s := rfl
@[simp] theorem exec_lih h d imm (s : State) : exec (.lih h d imm) s = execLih h d imm s := rfl
@[simp] theorem exec_fadd h fmt d a b (s : State) : exec (.fadd h fmt d a b) s = execFadd h fmt d a b s := rfl
@[simp] theorem exec_fsub h fmt d a b (s : State) : exec (.fsub h fmt d a b) s = execFsub h fmt d a b s := rfl
@[simp] theorem exec_fmul h fmt d a b (s : State) : exec (.fmul h fmt d a b) s = execFmul h fmt d a b s := rfl
@[simp] theorem exec_fmin h fmt d a b (s : State) : exec (.fmin h fmt d a b) s = execFmin h fmt d a b s := rfl
@[simp] theorem exec_fmax h fmt d a b (s : State) : exec (.fmax h fmt d a b) s = execFmax h fmt d a b s := rfl
@[simp] theorem exec_ffma h fmt d a b c (s : State) : exec (.ffma h fmt d a b c) s = execFfma h fmt d a b c s := rfl
@[simp] theorem exec_fdiv h fmt d a b (s : State) : exec (.fdiv h fmt d a b) s = execFdiv h fmt d a b s := rfl
@[simp] theorem exec_fsqrt h fmt d a (s : State) : exec (.fsqrt h fmt d a) s = execFsqrt h fmt d a s := rfl
@[simp] theorem exec_feq h fmt d a b (s : State) : exec (.feq h fmt d a b) s = execFeq h fmt d a b s := rfl
@[simp] theorem exec_flt h fmt d a b (s : State) : exec (.flt h fmt d a b) s = execFlt h fmt d a b s := rfl
@[simp] theorem exec_fle h fmt d a b (s : State) : exec (.fle h fmt d a b) s = execFle h fmt d a b s := rfl
@[simp] theorem exec_fcvt h fn d a (s : State) : exec (.fcvt h fn d a) s = execFcvt h fn d a s := rfl
@[simp] theorem exec_beq h a b off (s : State) : exec (.beq h a b off) s = execBeq h a b off s := rfl
@[simp] theorem exec_bne h a b off (s : State) : exec (.bne h a b off) s = execBne h a b off s := rfl
@[simp] theorem exec_blt h a b off (s : State) : exec (.blt h a b off) s = execBlt h a b off s := rfl
@[simp] theorem exec_bge h a b off (s : State) : exec (.bge h a b off) s = execBge h a b off s := rfl
@[simp] theorem exec_bltu h a b off (s : State) : exec (.bltu h a b off) s = execBltu h a b off s := rfl
@[simp] theorem exec_bgeu h a b off (s : State) : exec (.bgeu h a b off) s = execBgeu h a b off s := rfl
@[simp] theorem exec_j h off (s : State) : exec (.j h off) s = execJ h off s := rfl
@[simp] theorem exec_call h off (s : State) : exec (.call h off) s = execCall h off s := rfl
@[simp] theorem exec_jr h a (s : State) : exec (.jr h a) s = execJr h a s := rfl
@[simp] theorem exec_callr h a (s : State) : exec (.callr h a) s = execCallr h a s := rfl
@[simp] theorem exec_ret h (s : State) : exec (.ret h) s = execRet h s := rfl
@[simp] theorem exec_ld h sx size d a cs swz off (s : State) : exec (.ld h sx size d a cs swz off) s = execLd h sx size d a cs swz off s := rfl
@[simp] theorem exec_st h size a b cs swz off (s : State) : exec (.st h size a b cs swz off) s = execSt h size a b cs swz off s := rfl
@[simp] theorem exec_atom h op size d a b (s : State) : exec (.atom h op size d a b) s = execAtom h op size d a b s := rfl
@[simp] theorem exec_cas h size d a b (s : State) : exec (.cas h size d a b) s = execCas h size d a b s := rfl
@[simp] theorem exec_fence h (s : State) : exec (.fence h) s = execFence h s := rfl
@[simp] theorem exec_fenceSc h (s : State) : exec (.fenceSc h) s = execFenceSc h s := rfl
@[simp] theorem exec_qmark h (s : State) : exec (.qmark h) s = execQmark h s := rfl
@[simp] theorem exec_cleanR h a b (s : State) : exec (.cleanR h a b) s = execCleanR h a b s := rfl
@[simp] theorem exec_invR h a b (s : State) : exec (.invR h a b) s = execInvR h a b s := rfl
@[simp] theorem exec_cleaninvR h a b (s : State) : exec (.cleaninvR h a b) s = execCleaninvR h a b s := rfl
@[simp] theorem exec_probe h kind d a b (s : State) : exec (.probe h kind d a b) s = execProbe h kind d a b s := rfl
@[simp] theorem exec_phase h code (s : State) : exec (.phase h code) s = execPhase h code s := rfl
@[simp] theorem exec_cqCount h eng a tag (s : State) : exec (.cqCount h eng a tag) s = execCqCount h eng a tag s := rfl
@[simp] theorem exec_cqOut h eng a tag (s : State) : exec (.cqOut h eng a tag) s = execCqOut h eng a tag s := rfl
@[simp] theorem exec_cqMrow h eng a b tag (s : State) : exec (.cqMrow h eng a b tag) s = execCqMrow h eng a b tag s := rfl
@[simp] theorem exec_cqMbits h eng a b tag (s : State) : exec (.cqMbits h eng a b tag) s = execCqMbits h eng a b tag s := rfl
@[simp] theorem exec_cqVal h eng a tag (s : State) : exec (.cqVal h eng a tag) s = execCqVal h eng a tag s := rfl
@[simp] theorem exec_cqRegion h mode (s : State) : exec (.cqRegion h mode) s = execCqRegion h mode s := rfl
@[simp] theorem exec_cqSquash h eng tag (s : State) : exec (.cqSquash h eng tag) s = execCqSquash h eng tag s := rfl
@[simp] theorem exec_go h (s : State) : exec (.go h) s = execGo h s := rfl
@[simp] theorem exec_rim h (s : State) : exec (.rim h) s = execRim h s := rfl
@[simp] theorem exec_jend h (s : State) : exec (.jend h) s = execJend h s := rfl
@[simp] theorem exec_tspawn h d a off (s : State) : exec (.tspawn h d a off) s = execTspawn h d a off s := rfl
@[simp] theorem exec_texit h (s : State) : exec (.texit h) s = execTexit h s := rfl
@[simp] theorem exec_barw h a b (s : State) : exec (.barw h a b) s = execBarw h a b s := rfl
@[simp] theorem exec_bara h d a (s : State) : exec (.bara h d a) s = execBara h d a s := rfl
@[simp] theorem exec_evs h a (s : State) : exec (.evs h a) s = execEvs h a s := rfl
@[simp] theorem exec_evw h a (s : State) : exec (.evw h a) s = execEvw h a s := rfl
@[simp] theorem exec_trkArm h d a (s : State) : exec (.trkArm h d a) s = execTrkArm h d a s := rfl
@[simp] theorem exec_restart h (s : State) : exec (.restart h) s = execRestart h s := rfl
@[simp] theorem exec_sysr h d n (s : State) : exec (.sysr h d n) s = execSysr h d n s := rfl
@[simp] theorem exec_sysw h n a (s : State) : exec (.sysw h n a) s = execSysw h n a s := rfl
@[simp] theorem exec_trap h a (s : State) : exec (.trap h a) s = execTrap h a s := rfl
@[simp] theorem exec_brk h (s : State) : exec (.brk h) s = execBrk h s := rfl
@[simp] theorem exec_tret h (s : State) : exec (.tret h) s = execTret h s := rfl
@[simp] theorem exec_ctlNop h (s : State) : exec (.ctlNop h) s = execCtlNop h s := rfl
@[simp] theorem exec_ncmd h a b stack (s : State) : exec (.ncmd h a b stack) s = execNcmd h a b stack s := rfl
@[simp] theorem exec_nfence h (s : State) : exec (.nfence h) s = execNfence h s := rfl
@[simp] theorem exec_nstat h d a (s : State) : exec (.nstat h d a) s = execNstat h d a s := rfl
@[simp] theorem exec_twList h fn a b mem slot (s : State) : exec (.twList h fn a b mem slot) s = execTwList h fn a b mem slot s := rfl
@[simp] theorem exec_twHash h fn a b mem slot (s : State) : exec (.twHash h fn a b mem slot) s = execTwHash h fn a b mem slot s := rfl
@[simp] theorem exec_twKvb h fn a b mem slot (s : State) : exec (.twKvb h fn a b mem slot) s = execTwKvb h fn a b mem slot s := rfl
@[simp] theorem exec_twTree h fn a b mem slot (s : State) : exec (.twTree h fn a b mem slot) s = execTwTree h fn a b mem slot s := rfl
@[simp] theorem exec_twRwalk h fn a b mem slot (s : State) : exec (.twRwalk h fn a b mem slot) s = execTwRwalk h fn a b mem slot s := rfl
@[simp] theorem exec_twWait h d a (s : State) : exec (.twWait h d a) s = execTwWait h d a s := rfl
@[simp] theorem exec_twWaitTry h d a (s : State) : exec (.twWaitTry h d a) s = execTwWaitTry h d a s := rfl
@[simp] theorem exec_gld h sx size d a off (s : State) : exec (.gld h sx size d a off) s = execGld h sx size d a off s := rfl
@[simp] theorem exec_gst h size a b off (s : State) : exec (.gst h size a b off) s = execGst h size a b off s := rfl
@[simp] theorem exec_gatom h op size d a b (s : State) : exec (.gatom h op size d a b) s = execGatom h op size d a b s := rfl
@[simp] theorem exec_qcast h d a b (s : State) : exec (.qcast h d a b) s = execQcast h d a b s := rfl
@[simp] theorem exec_rstAdd h ty d a b (s : State) : exec (.rstAdd h ty d a b) s = execRstAdd h ty d a b s := rfl
@[simp] theorem exec_rstMax h ty d a b (s : State) : exec (.rstMax h ty d a b) s = execRstMax h ty d a b s := rfl
@[simp] theorem exec_mgCfgOpen h d a (s : State) : exec (.mgCfgOpen h d a) s = execMgCfgOpen h d a s := rfl
@[simp] theorem exec_mgCfgFree h d b (s : State) : exec (.mgCfgFree h d b) s = execMgCfgFree h d b s := rfl
@[simp] theorem exec_mgRd h d b (s : State) : exec (.mgRd h d b) s = execMgRd h d b s := rfl
@[simp] theorem exec_gnfy h a (s : State) : exec (.gnfy h a) s = execGnfy h a s := rfl
@[simp] theorem exec_neQpOpen h d a (s : State) : exec (.neQpOpen h d a) s = execNeQpOpen h d a s := rfl
@[simp] theorem exec_neQpClose h d a (s : State) : exec (.neQpClose h d a) s = execNeQpClose h d a s := rfl
@[simp] theorem exec_neQpRd h d a (s : State) : exec (.neQpRd h d a) s = execNeQpRd h d a s := rfl
@[simp] theorem exec_nePost h d a b (s : State) : exec (.nePost h d a b) s = execNePost h d a b s := rfl
@[simp] theorem exec_nePostRx h d a b (s : State) : exec (.nePostRx h d a b) s = execNePostRx h d a b s := rfl
@[simp] theorem exec_neArm h d a b (s : State) : exec (.neArm h d a b) s = execNeArm h d a b s := rfl
@[simp] theorem exec_neCtrRd h d a (s : State) : exec (.neCtrRd h d a) s = execNeCtrRd h d a s := rfl
@[simp] theorem exec_neCtrSet h a b (s : State) : exec (.neCtrSet h a b) s = execNeCtrSet h a b s := rfl
@[simp] theorem exec_neCtrAdd h a b (s : State) : exec (.neCtrAdd h a b) s = execNeCtrAdd h a b s := rfl
@[simp] theorem exec_neCwait h d a b (s : State) : exec (.neCwait h d a b) s = execNeCwait h d a b s := rfl
@[simp] theorem exec_nePoll h d a (s : State) : exec (.nePoll h d a) s = execNePoll h d a s := rfl
@[simp] theorem exec_smCtxOpen h d a (s : State) : exec (.smCtxOpen h d a) s = execSmCtxOpen h d a s := rfl
@[simp] theorem exec_smCtxClose h d a (s : State) : exec (.smCtxClose h d a) s = execSmCtxClose h d a s := rfl
@[simp] theorem exec_smCtxReset h d a (s : State) : exec (.smCtxReset h d a) s = execSmCtxReset h d a s := rfl
@[simp] theorem exec_smCtxRd h d a (s : State) : exec (.smCtxRd h d a) s = execSmCtxRd h d a s := rfl
@[simp] theorem exec_smProg h d a b (s : State) : exec (.smProg h d a b) s = execSmProg h d a b s := rfl
@[simp] theorem exec_smStart h d a b (s : State) : exec (.smStart h d a b) s = execSmStart h d a b s := rfl
@[simp] theorem exec_smCancel h d a (s : State) : exec (.smCancel h d a) s = execSmCancel h d a s := rfl
@[simp] theorem exec_smWait h d a (s : State) : exec (.smWait h d a) s = execSmWait h d a s := rfl
@[simp] theorem exec_smWaitTry h d a (s : State) : exec (.smWaitTry h d a) s = execSmWaitTry h d a s := rfl
@[simp] theorem exec_dbgHalt h d a (s : State) : exec (.dbgHalt h d a) s = execDbgHalt h d a s := rfl
@[simp] theorem exec_dbgStep h d a b (s : State) : exec (.dbgStep h d a b) s = execDbgStep h d a b s := rfl
@[simp] theorem exec_dbgResume h d a b (s : State) : exec (.dbgResume h d a b) s = execDbgResume h d a b s := rfl
@[simp] theorem exec_dbgRdc h d a b (s : State) : exec (.dbgRdc h d a b) s = execDbgRdc h d a b s := rfl
@[simp] theorem exec_dbgBp h d a b (s : State) : exec (.dbgBp h d a b) s = execDbgBp h d a b s := rfl
@[simp] theorem exec_dbgClr h d a (s : State) : exec (.dbgClr h d a) s = execDbgClr h d a s := rfl
@[simp] theorem exec_launch h d a slot (s : State) : exec (.launch h d a slot) s = execLaunch h d a slot s := rfl
@[simp] theorem exec_qmap h d a b (s : State) : exec (.qmap h d a b) s = execQmap h d a b s := rfl
@[simp] theorem exec_qunmap h d b (s : State) : exec (.qunmap h d b) s = execQunmap h d b s := rfl
@[simp] theorem exec_qstat h d b (s : State) : exec (.qstat h d b) s = execQstat h d b s := rfl
@[simp] theorem exec_dataNop h (s : State) : exec (.dataNop h) s = execDataNop h s := rfl
@[simp] theorem exec_dataRim h (s : State) : exec (.dataRim h) s = execDataRim h s := rfl
@[simp] theorem exec_dataRegion h mode (s : State) : exec (.dataRegion h mode) s = execDataRegion h mode s := rfl
@[simp] theorem exec_vloopQ h len (s : State) : exec (.vloopQ h len) s = execVloopQ h len s := rfl
@[simp] theorem exec_vwhileQ h len (s : State) : exec (.vwhileQ h len) s = execVwhileQ h len s := rfl
@[simp] theorem exec_vifQ h len (s : State) : exec (.vifQ h len) s = execVifQ h len s := rfl
@[simp] theorem exec_vvalQ h xd (s : State) : exec (.vvalQ h xd) s = execVvalQ h xd s := rfl
@[simp] theorem exec_vmaskQ h kd (s : State) : exec (.vmaskQ h kd) s = execVmaskQ h kd s := rfl
@[simp] theorem exec_vxset h xd src val (s : State) : exec (.vxset h xd src val) s = execVxset h xd src val s := rfl
@[simp] theorem exec_vxadd h xa xd imm (s : State) : exec (.vxadd h xa xd imm) s = execVxadd h xa xd imm s := rfl
@[simp] theorem exec_mloopQ h len (s : State) : exec (.mloopQ h len) s = execMloopQ h len s := rfl
@[simp] theorem exec_mwhileQ h len (s : State) : exec (.mwhileQ h len) s = execMwhileQ h len s := rfl
@[simp] theorem exec_mifQ h len (s : State) : exec (.mifQ h len) s = execMifQ h len s := rfl
@[simp] theorem exec_mvalQ h xd (s : State) : exec (.mvalQ h xd) s = execMvalQ h xd s := rfl
@[simp] theorem exec_mxset h xd src val (s : State) : exec (.mxset h xd src val) s = execMxset h xd src val s := rfl
@[simp] theorem exec_mxadd h xa xd imm (s : State) : exec (.mxadd h xa xd imm) s = execMxadd h xa xd imm s := rfl
@[simp] theorem exec_cpLoopQ h len (s : State) : exec (.cpLoopQ h len) s = execCpLoopQ h len s := rfl
@[simp] theorem exec_cpWhileQ h len (s : State) : exec (.cpWhileQ h len) s = execCpWhileQ h len s := rfl
@[simp] theorem exec_cpIfQ h len (s : State) : exec (.cpIfQ h len) s = execCpIfQ h len s := rfl
@[simp] theorem exec_cpValQ h xd (s : State) : exec (.cpValQ h xd) s = execCpValQ h xd s := rfl
@[simp] theorem exec_cpXset h xd src val (s : State) : exec (.cpXset h xd src val) s = execCpXset h xd src val s := rfl
@[simp] theorem exec_cpXadd h xa xd imm (s : State) : exec (.cpXadd h xa xd imm) s = execCpXadd h xa xd imm s := rfl
@[simp] theorem exec_vadd h r (s : State) : exec (.vadd h r) s = execVadd h r s := rfl
@[simp] theorem exec_vsub h r (s : State) : exec (.vsub h r) s = execVsub h r s := rfl
@[simp] theorem exec_vmul h r (s : State) : exec (.vmul h r) s = execVmul h r s := rfl
@[simp] theorem exec_vfma h r (s : State) : exec (.vfma h r) s = execVfma h r s := rfl
@[simp] theorem exec_vmin h r (s : State) : exec (.vmin h r) s = execVmin h r s := rfl
@[simp] theorem exec_vmax h r (s : State) : exec (.vmax h r) s = execVmax h r s := rfl
@[simp] theorem exec_vand h r (s : State) : exec (.vand h r) s = execVand h r s := rfl
@[simp] theorem exec_vor h r (s : State) : exec (.vor h r) s = execVor h r s := rfl
@[simp] theorem exec_vxor h r (s : State) : exec (.vxor h r) s = execVxor h r s := rfl
@[simp] theorem exec_vnot h r (s : State) : exec (.vnot h r) s = execVnot h r s := rfl
@[simp] theorem exec_vshl h r (s : State) : exec (.vshl h r) s = execVshl h r s := rfl
@[simp] theorem exec_vshr h r (s : State) : exec (.vshr h r) s = execVshr h r s := rfl
@[simp] theorem exec_vsra h r (s : State) : exec (.vsra h r) s = execVsra h r s := rfl
@[simp] theorem exec_vcmp h rel r (s : State) : exec (.vcmp h rel r) s = execVcmp h rel r s := rfl
@[simp] theorem exec_vsel h r (s : State) : exec (.vsel h r) s = execVsel h r s := rfl
@[simp] theorem exec_vmovi h imm men km vd (s : State) : exec (.vmovi h imm men km vd) s = execVmovi h imm men km vd s := rfl
@[simp] theorem exec_vcvt h dst r (s : State) : exec (.vcvt h dst r) s = execVcvt h dst r s := rfl
@[simp] theorem exec_vexp2 h r (s : State) : exec (.vexp2 h r) s = execVexp2 h r s := rfl
@[simp] theorem exec_vlog2 h r (s : State) : exec (.vlog2 h r) s = execVlog2 h r s := rfl
@[simp] theorem exec_vrcp h r (s : State) : exec (.vrcp h r) s = execVrcp h r s := rfl
@[simp] theorem exec_vrsq h r (s : State) : exec (.vrsq h r) s = execVrsq h r s := rfl
@[simp] theorem exec_vrotr h r (s : State) : exec (.vrotr h r) s = execVrotr h r s := rfl
@[simp] theorem exec_vrotc h r (s : State) : exec (.vrotc h r) s = execVrotc h r s := rfl
@[simp] theorem exec_vbcr h r (s : State) : exec (.vbcr h r) s = execVbcr h r s := rfl
@[simp] theorem exec_vbcc h r (s : State) : exec (.vbcc h r) s = execVbcc h r s := rfl
@[simp] theorem exec_vredr h op r (s : State) : exec (.vredr h op r) s = execVredr h op r s := rfl
@[simp] theorem exec_vredc h op r (s : State) : exec (.vredc h op r) s = execVredc h op r s := rfl
@[simp] theorem exec_vld h m (s : State) : exec (.vld h m) s = execVld h m s := rfl
@[simp] theorem exec_vst h m (s : State) : exec (.vst h m) s = execVst h m s := rfl
@[simp] theorem exec_vldr h g (s : State) : exec (.vldr h g) s = execVldr h g s := rfl
@[simp] theorem exec_vstr h g (s : State) : exec (.vstr h g) s = execVstr h g s := rfl
@[simp] theorem exec_vchain h vp g (s : State) : exec (.vchain h vp g) s = execVchain h vp g s := rfl
@[simp] theorem exec_acvt h r (s : State) : exec (.acvt h r) s = execAcvt h r s := rfl
@[simp] theorem exec_vkopAnd h kd ka kb (s : State) : exec (.vkopAnd h kd ka kb) s = execVkopAnd h kd ka kb s := rfl
@[simp] theorem exec_vkopOr h kd ka kb (s : State) : exec (.vkopOr h kd ka kb) s = execVkopOr h kd ka kb s := rfl
@[simp] theorem exec_vkopXor h kd ka kb (s : State) : exec (.vkopXor h kd ka kb) s = execVkopXor h kd ka kb s := rfl
@[simp] theorem exec_vkopAndn h kd ka kb (s : State) : exec (.vkopAndn h kd ka kb) s = execVkopAndn h kd ka kb s := rfl
@[simp] theorem exec_vkopNot h kd ka (s : State) : exec (.vkopNot h kd ka) s = execVkopNot h kd ka s := rfl
@[simp] theorem exec_vkopSet h kd (s : State) : exec (.vkopSet h kd) s = execVkopSet h kd s := rfl
@[simp] theorem exec_vkopClr h kd (s : State) : exec (.vkopClr h kd) s = execVkopClr h kd s := rfl
@[simp] theorem exec_vkmovToMask h r (s : State) : exec (.vkmovToMask h r) s = execVkmovToMask h r s := rfl
@[simp] theorem exec_vkmovToVector h r (s : State) : exec (.vkmovToVector h r) s = execVkmovToVector h r s := rfl
@[simp] theorem exec_mma h m (s : State) : exec (.mma h m) s = execMma h m s := rfl
@[simp] theorem exec_mclaim h ring cnt (s : State) : exec (.mclaim h ring cnt) s = execMclaim h ring cnt s := rfl
@[simp] theorem exec_mrelease h ring cnt (s : State) : exec (.mrelease h ring cnt) s = execMrelease h ring cnt s := rfl
@[simp] theorem exec_mzero h int vd n (s : State) : exec (.mzero h int vd n) s = execMzero h int vd n s := rfl
@[simp] theorem exec_mfill h sf g (s : State) : exec (.mfill h sf g) s = execMfill h sf g s := rfl
@[simp] theorem exec_mdrain h df rm clr sat g (s : State) : exec (.mdrain h df rm clr sat g) s = execMdrain h df rm clr sat g s := rfl
@[simp] theorem exec_cpLin h x (s : State) : exec (.cpLin h x) s = execCpLin h x s := rfl
@[simp] theorem exec_cp2d h x (s : State) : exec (.cp2d h x) s = execCp2d h x s := rfl
@[simp] theorem exec_cpGth h x (s : State) : exec (.cpGth h x) s = execCpGth h x s := rfl
@[simp] theorem exec_cpSct h x (s : State) : exec (.cpSct h x) s = execCpSct h x s := rfl
@[simp] theorem exec_cpSet h x (s : State) : exec (.cpSet h x) s = execCpSet h x s := rfl
@[simp] theorem exec_cpRcopy h x (s : State) : exec (.cpRcopy h x) s = execCpRcopy h x s := rfl
@[simp] theorem exec_cpFill h sfmt dfmt rl lc g (s : State) : exec (.cpFill h sfmt dfmt rl lc g) s = execCpFill h sfmt dfmt rl lc g s := rfl
@[simp] theorem exec_cpDrain h sfmt dfmt rl lc g (s : State) : exec (.cpDrain h sfmt dfmt rl lc g) s = execCpDrain h sfmt dfmt rl lc g s := rfl
@[simp] theorem exec_cpTr h ew g (s : State) : exec (.cpTr h ew g) s = execCpTr h ew g s := rfl
@[simp] theorem exec_nld pi off d a (s : State) : exec (.nld pi off d a) s = execNld pi off d a s := rfl
@[simp] theorem exec_nst pi off d a (s : State) : exec (.nst pi off d a) s = execNst pi off d a s := rfl
@[simp] theorem exec_nadd f d a b (s : State) : exec (.nadd f d a b) s = execNadd f d a b s := rfl
@[simp] theorem exec_nsub f d a b (s : State) : exec (.nsub f d a b) s = execNsub f d a b s := rfl
@[simp] theorem exec_nmul f d a b (s : State) : exec (.nmul f d a b) s = execNmul f d a b s := rfl
@[simp] theorem exec_nfma f d a b (s : State) : exec (.nfma f d a b) s = execNfma f d a b s := rfl
@[simp] theorem exec_nmax ftz fmt d a b (s : State) : exec (.nmax ftz fmt d a b) s = execNmax ftz fmt d a b s := rfl
@[simp] theorem exec_nmin ftz fmt d a b (s : State) : exec (.nmin ftz fmt d a b) s = execNmin ftz fmt d a b s := rfl
@[simp] theorem exec_ncmp rel ftz fmt d a b (s : State) : exec (.ncmp rel ftz fmt d a b) s = execNcmp rel ftz fmt d a b s := rfl
@[simp] theorem exec_nsel d a b (s : State) : exec (.nsel d a b) s = execNsel d a b s := rfl
@[simp] theorem exec_nexp2 ftz fmt d a (s : State) : exec (.nexp2 ftz fmt d a) s = execNexp2 ftz fmt d a s := rfl
@[simp] theorem exec_ncvt half dst f d a (s : State) : exec (.ncvt half dst f d a) s = execNcvt half dst f d a s := rfl
@[simp] theorem exec_nmov d a (s : State) : exec (.nmov d a) s = execNmov d a s := rfl
@[simp] theorem exec_nbcst fmt e d a (s : State) : exec (.nbcst fmt e d a) s = execNbcst fmt e d a s := rfl
@[simp] theorem exec_nredmax sat ftz fmt d a (s : State) : exec (.nredmax sat ftz fmt d a) s = execNredmax sat ftz fmt d a s := rfl
@[simp] theorem exec_nredsum f d a (s : State) : exec (.nredsum f d a) s = execNredsum f d a s := rfl
@[simp] theorem exec_nlogic fn d a b (s : State) : exec (.nlogic fn d a b) s = execNlogic fn d a b s := rfl
@[simp] theorem exec_nset kind v d (s : State) : exec (.nset kind v d) s = execNset kind v d s := rfl
@[simp] theorem exec_nloop sp len cnt (s : State) : exec (.nloop sp len cnt) s = execNloop sp len cnt s := rfl
@[simp] theorem exec_nloop2 sp len cnt (s : State) : exec (.nloop2 sp len cnt) s = execNloop2 sp len cnt s := rfl
@[simp] theorem exec_nemit cnt d a b (s : State) : exec (.nemit cnt d a b) s = execNemit cnt d a b s := rfl
@[simp] theorem exec_nend (s : State) : exec (.nend) s = execNend s := rfl
@[simp] theorem exec_naddr imm d a (s : State) : exec (.naddr imm d a) s = execNaddr imm d a s := rfl
@[simp] theorem exec_illegalInstruction raw (s : State) : exec (.illegalInstruction raw) s = execIllegalInstruction raw s := rfl
@[simp] theorem exec_smLd c off d a (s : State) : exec (.smLd c off d a) s = execSmLd c off d a s := rfl
@[simp] theorem exec_smSt c off a b (s : State) : exec (.smSt c off a b) s = execSmSt c off a b s := rfl
@[simp] theorem exec_smLi f val d (s : State) : exec (.smLi f val d) s = execSmLi f val d s := rfl
@[simp] theorem exec_smMov d a (s : State) : exec (.smMov d a) s = execSmMov d a s := rfl
@[simp] theorem exec_smAdd f imm d a b (s : State) : exec (.smAdd f imm d a b) s = execSmAdd f imm d a b s := rfl
@[simp] theorem exec_smSub f imm d a b (s : State) : exec (.smSub f imm d a b) s = execSmSub f imm d a b s := rfl
@[simp] theorem exec_smCmp u rel f d a b (s : State) : exec (.smCmp u rel f d a b) s = execSmCmp u rel f d a b s := rfl
@[simp] theorem exec_smMax f d a b (s : State) : exec (.smMax f d a b) s = execSmMax f d a b s := rfl
@[simp] theorem exec_smDiv d a b (s : State) : exec (.smDiv d a b) s = execSmDiv d a b s := rfl
@[simp] theorem exec_smExp d a (s : State) : exec (.smExp d a) s = execSmExp d a s := rfl
@[simp] theorem exec_smSum kind d (s : State) : exec (.smSum kind d) s = execSmSum kind d s := rfl
@[simp] theorem exec_smTopk k d a b (s : State) : exec (.smTopk k d a b) s = execSmTopk k d a b s := rfl
@[simp] theorem exec_smTopp d a (s : State) : exec (.smTopp d a) s = execSmTopp d a s := rfl
@[simp] theorem exec_smTemp d a (s : State) : exec (.smTemp d a) s = execSmTemp d a s := rfl
@[simp] theorem exec_smRng u d (s : State) : exec (.smRng u d) s = execSmRng u d s := rfl
@[simp] theorem exec_smDraw d a (s : State) : exec (.smDraw d a) s = execSmDraw d a s := rfl
@[simp] theorem exec_smTree d a (s : State) : exec (.smTree d a) s = execSmTree d a s := rfl
@[simp] theorem exec_smAcc excl d a b (s : State) : exec (.smAcc excl d a b) s = execSmAcc excl d a b s := rfl
@[simp] theorem exec_smEmit a (s : State) : exec (.smEmit a) s = execSmEmit a s := rfl
@[simp] theorem exec_smBr off (s : State) : exec (.smBr off) s = execSmBr off s := rfl
@[simp] theorem exec_smBz a off (s : State) : exec (.smBz a off) s = execSmBz a off s := rfl
@[simp] theorem exec_smEnd a (s : State) : exec (.smEnd a) s = execSmEnd a s := rfl
@[simp] theorem exec_pageWalkComplete d (s : State) : exec (.pageWalkComplete d) s = execPageWalkComplete d s := rfl
@[simp] theorem exec_phaseComplete c (s : State) : exec (.phaseComplete c) s = execPhaseComplete c s := rfl
@[simp] theorem exec_rimRendezvous c (s : State) : exec (.rimRendezvous c) s = execRimRendezvous c s := rfl
@[simp] theorem exec_barrierCarryFlip b (s : State) : exec (.barrierCarryFlip b) s = execBarrierCarryFlip b s := rfl
@[simp] theorem exec_eventSignalArrival id (s : State) : exec (.eventSignalArrival id) s = execEventSignalArrival id s := rfl
@[simp] theorem exec_asyncFaultTake c (s : State) : exec (.asyncFaultTake c) s = execAsyncFaultTake c s := rfl
@[simp] theorem exec_dispatcherAnswer c t (s : State) : exec (.dispatcherAnswer c t) s = execDispatcherAnswer c t s := rfl
@[simp] theorem exec_regionCrossingComplete c (s : State) : exec (.regionCrossingComplete c) s = execRegionCrossingComplete c s := rfl
@[simp] theorem exec_dataFreezeEnd c (s : State) : exec (.dataFreezeEnd c) s = execDataFreezeEnd c s := rfl
@[simp] theorem exec_freezeTimeout c (s : State) : exec (.freezeTimeout c) s = execFreezeTimeout c s := rfl
@[simp] theorem exec_timingTrap c (s : State) : exec (.timingTrap c) s = execTimingTrap c s := rfl
@[simp] theorem exec_arrayWordStart c (s : State) : exec (.arrayWordStart c) s = execArrayWordStart c s := rfl
@[simp] theorem exec_resultDue c (s : State) : exec (.resultDue c) s = execResultDue c s := rfl
@[simp] theorem exec_mreleaseSlotsEmpty c (s : State) : exec (.mreleaseSlotsEmpty c) s = execMreleaseSlotsEmpty c s := rfl
@[simp] theorem exec_matrixQueueStart c (s : State) : exec (.matrixQueueStart c) s = execMatrixQueueStart c s := rfl
@[simp] theorem exec_matrixQueueW c (s : State) : exec (.matrixQueueW c) s = execMatrixQueueW c s := rfl
@[simp] theorem exec_copyTransferComplete c id (s : State) : exec (.copyTransferComplete c id) s = execCopyTransferComplete c id s := rfl
@[simp] theorem exec_ibufFill c va (s : State) : exec (.ibufFill c va) s = execIbufFill c va s := rfl
@[simp] theorem exec_homeRequest c id ecc (s : State) : exec (.homeRequest c id ecc) s = execHomeRequest c id ecc s := rfl
@[simp] theorem exec_storedTransferComplete d (s : State) : exec (.storedTransferComplete d) s = execStoredTransferComplete d s := rfl
@[simp] theorem exec_cacheEviction home c line err (s : State) : exec (.cacheEviction home c line err) s = execCacheEviction home c line err s := rfl
@[simp] theorem exec_memoryReadReturn c id ecc (s : State) : exec (.memoryReadReturn c id ecc) s = execMemoryReadReturn c id ecc s := rfl
@[simp] theorem exec_fabricRequestArrival c id ecc (s : State) : exec (.fabricRequestArrival c id ecc) s = execFabricRequestArrival c id ecc s := rfl
@[simp] theorem exec_fabricRefusal c id (s : State) : exec (.fabricRefusal c id) s = execFabricRefusal c id s := rfl
@[simp] theorem exec_fabricRetryResend c id (s : State) : exec (.fabricRetryResend c id) s = execFabricRetryResend c id s := rfl
@[simp] theorem exec_fabricReply c id (s : State) : exec (.fabricReply c id) s = execFabricReply c id s := rfl
@[simp] theorem exec_replayWrite p v (s : State) : exec (.replayWrite p v) s = execReplayWrite p v s := rfl
@[simp] theorem exec_discardWrite p v (s : State) : exec (.discardWrite p v) s = execDiscardWrite p v s := rfl
@[simp] theorem exec_errorEntryClear d n v (s : State) : exec (.errorEntryClear d n v) s = execErrorEntryClear d n v s := rfl
@[simp] theorem exec_rdescWrite c t n v (s : State) : exec (.rdescWrite c t n v) s = execRdescWrite c t n v s := rfl
@[simp] theorem exec_barrierConfigWrite b c t v (s : State) : exec (.barrierConfigWrite b c t v) s = execBarrierConfigWrite b c t v s := rfl
@[simp] theorem exec_deviceRegisterWrite pa v (s : State) : exec (.deviceRegisterWrite pa v) s = execDeviceRegisterWrite pa v s := rfl
@[simp] theorem exec_notifyWrite d slot v (s : State) : exec (.notifyWrite d slot v) s = execNotifyWrite d slot v s := rfl
@[simp] theorem exec_packetTake d slot lane (s : State) : exec (.packetTake d slot lane) s = execPacketTake d slot lane s := rfl
@[simp] theorem exec_dependenceRecheck d id err (s : State) : exec (.dependenceRecheck d id err) s = execDependenceRecheck d id err s := rfl
@[simp] theorem exec_packetComplete d id (s : State) : exec (.packetComplete d id) s = execPacketComplete d id s := rfl
@[simp] theorem exec_weavePlacement w (s : State) : exec (.weavePlacement w) s = execWeavePlacement w s := rfl
@[simp] theorem exec_reservationRequest d w (s : State) : exec (.reservationRequest d w) s = execReservationRequest d w s := rfl
@[simp] theorem exec_reservationReply w (s : State) : exec (.reservationReply w) s = execReservationReply w s := rfl
@[simp] theorem exec_quantumExpiry w v (s : State) : exec (.quantumExpiry w v) s = execQuantumExpiry w v s := rfl
@[simp] theorem exec_preemptDecision w v (s : State) : exec (.preemptDecision w v) s = execPreemptDecision w v s := rfl
@[simp] theorem exec_jobSaveComplete c (s : State) : exec (.jobSaveComplete c) s = execJobSaveComplete c s := rfl
@[simp] theorem exec_preemptOverdue w (s : State) : exec (.preemptOverdue w) s = execPreemptOverdue w s := rfl
@[simp] theorem exec_weaveResume w (s : State) : exec (.weaveResume w) s = execWeaveResume w s := rfl
@[simp] theorem exec_weaveComplete w (s : State) : exec (.weaveComplete w) s = execWeaveComplete w s := rfl
@[simp] theorem exec_weaveTeardown w (s : State) : exec (.weaveTeardown w) s = execWeaveTeardown w s := rfl
@[simp] theorem exec_graphNodeReady run inst err (s : State) : exec (.graphNodeReady run inst err) s = execGraphNodeReady run inst err s := rfl
@[simp] theorem exec_savepoolWrite d cnt v (s : State) : exec (.savepoolWrite d cnt v) s = execSavepoolWrite d cnt v s := rfl
@[simp] theorem exec_nmuCommandStart n (s : State) : exec (.nmuCommandStart n) s = execNmuCommandStart n s := rfl
@[simp] theorem exec_nmuPreemptStop n (s : State) : exec (.nmuPreemptStop n) s = execNmuPreemptStop n s := rfl
@[simp] theorem exec_nmuRestWatchdog w (s : State) : exec (.nmuRestWatchdog w) s = execNmuRestWatchdog w s := rfl
@[simp] theorem exec_nmuResume n (s : State) : exec (.nmuResume n) s = execNmuResume n s := rfl
@[simp] theorem exec_walkAccept id (s : State) : exec (.walkAccept id) s = execWalkAccept id s := rfl
@[simp] theorem exec_walkSectorReturn id err (s : State) : exec (.walkSectorReturn id err) s = execWalkSectorReturn id err s := rfl
@[simp] theorem exec_walkStepLimit id (s : State) : exec (.walkStepLimit id) s = execWalkStepLimit id s := rfl
@[simp] theorem exec_walkSlotFull id (s : State) : exec (.walkSlotFull id) s = execWalkSlotFull id s := rfl
@[simp] theorem exec_reduceContribution id (s : State) : exec (.reduceContribution id) s = execReduceContribution id s := rfl
@[simp] theorem exec_reduceTimeout g (s : State) : exec (.reduceTimeout g) s = execReduceTimeout g s := rfl
@[simp] theorem exec_stripeMessage id (s : State) : exec (.stripeMessage id) s = execStripeMessage id s := rfl
@[simp] theorem exec_partialArrival id (s : State) : exec (.partialArrival id) s = execPartialArrival id s := rfl
@[simp] theorem exec_mergeTimeout g (s : State) : exec (.mergeTimeout g) s = execMergeTimeout g s := rfl
@[simp] theorem exec_queryCompletionDone g (s : State) : exec (.queryCompletionDone g) s = execQueryCompletionDone g s := rfl
@[simp] theorem exec_switchDieAnswer c t (s : State) : exec (.switchDieAnswer c t) s = execSwitchDieAnswer c t s := rfl
@[simp] theorem exec_neEntryStart d q err (s : State) : exec (.neEntryStart d q err) s = execNeEntryStart d q err s := rfl
@[simp] theorem exec_neAckArrival d q cack bitmap nak resp (s : State) : exec (.neAckArrival d q cack bitmap nak resp) s = execNeAckArrival d q cack bitmap nak resp s := rfl
@[simp] theorem exec_neRtoExpiry d q psn (s : State) : exec (.neRtoExpiry d q psn) s = execNeRtoExpiry d q psn s := rfl
@[simp] theorem exec_nePacketReceive d p (s : State) : exec (.nePacketReceive d p) s = execNePacketReceive d p s := rfl
@[simp] theorem exec_smRunBegin d ctx (s : State) : exec (.smRunBegin d ctx) s = execSmRunBegin d ctx s := rfl
@[simp] theorem exec_smStepLimit d ctx (s : State) : exec (.smStepLimit d ctx) s = execSmStepLimit d ctx s := rfl
@[simp] theorem exec_smcancelWrite d v (s : State) : exec (.smcancelWrite d v) s = execSmcancelWrite d v s := rfl
@[simp] theorem exec_smCancelEffect d ctx (s : State) : exec (.smCancelEffect d ctx) s = execSmCancelEffect d ctx s := rfl
@[simp] theorem exec_haltCause c t src code pc val (s : State) : exec (.haltCause c t src code pc val) s = execHaltCause c t src code pc val s := rfl
@[simp] theorem exec_haltWaveArrival c (s : State) : exec (.haltWaveArrival c) s = execHaltWaveArrival c s := rfl
@[simp] theorem exec_haltSettled slot (s : State) : exec (.haltSettled slot) s = execHaltSettled slot s := rfl
@[simp] theorem exec_haltControllerAnswer c t (s : State) : exec (.haltControllerAnswer c t) s = execHaltControllerAnswer c t s := rfl
@[simp] theorem exec_resumeAtT slot (s : State) : exec (.resumeAtT slot) s = execResumeAtT slot s := rfl
@[simp] theorem exec_hcmdHalt d (s : State) : exec (.hcmdHalt d) s = execHcmdHalt d s := rfl
@[simp] theorem exec_hcmdStep d (s : State) : exec (.hcmdStep d) s = execHcmdStep d s := rfl
@[simp] theorem exec_hcmdResume d (s : State) : exec (.hcmdResume d) s = execHcmdResume d s := rfl
@[simp] theorem exec_hcmdRdc d (s : State) : exec (.hcmdRdc d) s = execHcmdRdc d s := rfl
@[simp] theorem exec_hcmdBp d (s : State) : exec (.hcmdBp d) s = execHcmdBp d s := rfl
@[simp] theorem exec_hcmdClr d (s : State) : exec (.hcmdClr d) s = execHcmdClr d s := rfl
@[simp] theorem exec_hostMemoryAccess p write off data err (s : State) : exec (.hostMemoryAccess p write off data err) s = execHostMemoryAccess p write off data err s := rfl
@[simp] theorem exec_powerOn p flowOk linksOk syncOk (s : State) : exec (.powerOn p flowOk linksOk syncOk) s = execPowerOn p flowOk linksOk syncOk s := rfl
@[simp] theorem exec_joinEnd (s : State) : exec (.joinEnd) s = execJoinEnd s := rfl
@[simp] theorem exec_fwctlCommit p (s : State) : exec (.fwctlCommit p) s = execFwctlCommit p s := rfl
@[simp] theorem exec_attcmdStart p (s : State) : exec (.attcmdStart p) s = execAttcmdStart p s := rfl
@[simp] theorem exec_attestReportReady p (s : State) : exec (.attestReportReady p) s = execAttestReportReady p s := rfl
@[simp] theorem exec_coolantFlowChange flow (s : State) : exec (.coolantFlowChange flow) s = execCoolantFlowChange flow s := rfl
@[simp] theorem exec_flowRecoveryTimer (s : State) : exec (.flowRecoveryTimer) s = execFlowRecoveryTimer s := rfl
@[simp] theorem exec_junctionTemperatureChange d temp (s : State) : exec (.junctionTemperatureChange d temp) s = execJunctionTemperatureChange d temp s := rfl
@[simp] theorem exec_thermalTrip p (s : State) : exec (.thermalTrip p) s = execThermalTrip p s := rfl
@[simp] theorem exec_pcapWrite p d v (s : State) : exec (.pcapWrite p d v) s = execPcapWrite p d v s := rfl
@[simp] theorem exec_clkforceWrite p v (s : State) : exec (.clkforceWrite p v) s = execClkforceWrite p v s := rfl
@[simp] theorem exec_ageSample d drift margin (s : State) : exec (.ageSample d drift margin) s = execAgeSample d drift margin s := rfl
@[simp] theorem exec_killWrite p v (s : State) : exec (.killWrite p v) s = execKillWrite p v s := rfl
@[simp] theorem exec_lostWrite p v (s : State) : exec (.lostWrite p v) s = execLostWrite p v s := rfl
@[simp] theorem exec_apbaseWrite p v (s : State) : exec (.apbaseWrite p v) s = execApbaseWrite p v s := rfl
@[simp] theorem exec_mgmtintWrite p v (s : State) : exec (.mgmtintWrite p v) s = execMgmtintWrite p v s := rfl
@[simp] theorem exec_netaddrWrite p off v (s : State) : exec (.netaddrWrite p off v) s = execNetaddrWrite p off v s := rfl
@[simp] theorem exec_walkStoreWrite d off v (s : State) : exec (.walkStoreWrite d off v) s = execWalkStoreWrite d off v s := rfl
@[simp] theorem exec_edgectlWrite sw v (s : State) : exec (.edgectlWrite sw v) s = execEdgectlWrite sw v s := rfl
@[simp] theorem exec_trkArmAnswer c t (s : State) : exec (.trkArmAnswer c t) s = execTrkArmAnswer c t s := rfl
@[simp] theorem exec_neCommandAnswer c t (s : State) : exec (.neCommandAnswer c t) s = execNeCommandAnswer c t s := rfl
@[simp] theorem exec_samplerAnswer c t (s : State) : exec (.samplerAnswer c t) s = execSamplerAnswer c t s := rfl
@[simp] theorem exec_nstatAnswer c t (s : State) : exec (.nstatAnswer c t) s = execNstatAnswer c t s := rfl
@[simp] theorem exec_qcastAnswer c t (s : State) : exec (.qcastAnswer c t) s = execQcastAnswer c t s := rfl
@[simp] theorem exec_nePacketTransmit d q psn (s : State) : exec (.nePacketTransmit d q psn) s = execNePacketTransmit d q psn s := rfl
@[simp] theorem exec_powerOff p (s : State) : exec (.powerOff p) s = execPowerOff p s := rfl
@[simp] theorem exec_swcapWrite p v (s : State) : exec (.swcapWrite p v) s = execSwcapWrite p v s := rfl
@[simp] theorem exec_clockStepChange d step (s : State) : exec (.clockStepChange d step) s = execClockStepChange d step s := rfl

end Sys2Proof.Machine
end

