-- ==== Sys2Proof/Laws/Table.lean ====
section
/-! SUPPORT. Laws of the sparse tables and of the memories made of them: what a key reads after a write to it or to another key, and
that every memory operation keeps the canonical form. -/

namespace Sys2Proof.Machine

variable {α : Type}

@[simp] theorem tfind_tput_same (t : Tbl α) (n : Nat) (v : α) : tfind (tput t n v) n = some v := by
  induction t with
  | nil => simp [tput, tfind]
  | cons e t ih =>
    obtain ⟨k, w⟩ := e
    simp only [tput]
    split
    · simp [tfind]
    · split
      · simp [tfind]
      · rename_i h1 h2
        simp [tfind, ih]
        intro h; exact absurd h.symm h2

theorem tfind_tput_other (t : Tbl α) (n m : Nat) (v : α) (h : m ≠ n) : tfind (tput t n v) m = tfind t m := by
  induction t with
  | nil => simp [tput, tfind, Ne.symm h]
  | cons e t ih =>
    obtain ⟨k, w⟩ := e
    simp only [tput]
    split
    · simp [tfind, Ne.symm h]
    · split
      · rename_i h1 h2
        subst h2
        simp [tfind, Ne.symm h]
      · simp [tfind, ih]

/-- What a key reads after a write. -/
theorem tfind_tput (t : Tbl α) (n m : Nat) (v : α) : tfind (tput t n v) m = if m = n then some v else tfind t m := by
  split
  · next h => subst h; simp
  · next h => exact tfind_tput_other t n m v h

@[simp] theorem tget_tput_same (d : α) (t : Tbl α) (n : Nat) (v : α) : tget d (tput t n v) n = v := by simp [tget]

theorem tget_tput_other (d : α) (t : Tbl α) (n m : Nat) (v : α) (h : m ≠ n) : tget d (tput t n v) m = tget d t m := by
  simp [tget, tfind_tput_other t n m v h]

theorem tget_tput (d : α) (t : Tbl α) (n m : Nat) (v : α) : tget d (tput t n v) m = if m = n then v else tget d t m := by
  simp only [tget, tfind_tput]
  split <;> rfl

@[simp] theorem tput_tput_same (t : Tbl α) (n : Nat) (v w : α) : tput (tput t n v) n w = tput t n w := by
  induction t with
  | nil => simp [tput]
  | cons e t ih =>
    obtain ⟨k, x⟩ := e
    simp only [tput]
    split
    · next h => simp [tput]
    · next h =>
      split
      · next h2 => simp [tput]
      · next h2 => simp [tput, h, h2, ih]

@[simp] theorem tget_nil (d : α) (n : Nat) : tget d ([] : Tbl α) n = d := rfl

theorem tget_tmod_same (d : α) (t : Tbl α) (n : Nat) (f : α → α) : tget d (tmod d t n f) n = f (tget d t n) := by simp [tmod]

theorem tget_tmod_other (d : α) (t : Tbl α) (n m : Nat) (f : α → α) (h : m ≠ n) : tget d (tmod d t n f) m = tget d t m := by
  simp [tmod, tget_tput_other d t n m _ h]

theorem tfind_tdel_other (t : Tbl α) (n m : Nat) (h : m ≠ n) : tfind (tdel t n) m = tfind t m := by
  induction t with
  | nil => simp [tdel]
  | cons e t ih =>
    obtain ⟨k, w⟩ := e
    simp only [tdel]
    split
    · next h2 => subst h2; simp [tfind, Ne.symm h]
    · simp [tfind, ih]

/-! The canonical form of a memory. -/

theorem canonicalAbove_mono (m : Bytes) (lo lo' : Nat) (h : lo' ≤ lo) (hm : canonicalAbove lo m = true) : canonicalAbove lo' m = true := by
  cases m with
  | nil => rfl
  | cons e t =>
    obtain ⟨a, b⟩ := e
    simp only [canonicalAbove, Bool.and_eq_true, decide_eq_true_eq] at hm ⊢
    exact ⟨⟨le_trans h hm.1.1, hm.1.2⟩, hm.2⟩

theorem canonicalAbove_tput (m : Bytes) (lo n : Nat) (v : Byte) (hn : lo ≤ n) (hv : v ≠ emptyByte) (hm : canonicalAbove lo m = true) :
    canonicalAbove lo (tput m n v) = true := by
  induction m generalizing lo with
  | nil => simp [tput, canonicalAbove, hn, hv]
  | cons e t ih =>
    obtain ⟨a, b⟩ := e
    simp only [canonicalAbove, Bool.and_eq_true, decide_eq_true_eq, bne_iff_ne] at hm
    simp only [tput]
    split
    · next h =>
      simp only [canonicalAbove, Bool.and_eq_true, decide_eq_true_eq, bne_iff_ne]
      exact ⟨⟨hn, hv⟩, ⟨h, hm.1.2⟩, hm.2⟩
    · split
      · next h1 h2 =>
        subst h2
        simp only [canonicalAbove, Bool.and_eq_true, decide_eq_true_eq, bne_iff_ne]
        exact ⟨⟨hn, hv⟩, hm.2⟩
      · next h1 h2 =>
        simp only [canonicalAbove, Bool.and_eq_true, decide_eq_true_eq, bne_iff_ne]
        exact ⟨hm.1, ih (a + 1) (by omega) hm.2⟩

theorem canonicalAbove_tdel (m : Bytes) (lo n : Nat) (hm : canonicalAbove lo m = true) : canonicalAbove lo (tdel m n) = true := by
  induction m generalizing lo with
  | nil => rfl
  | cons e t ih =>
    obtain ⟨a, b⟩ := e
    simp only [canonicalAbove, Bool.and_eq_true, decide_eq_true_eq, bne_iff_ne] at hm
    simp only [tdel]
    split
    · exact canonicalAbove_mono t (a + 1) lo (by omega) hm.2
    · simp only [canonicalAbove, Bool.and_eq_true, decide_eq_true_eq, bne_iff_ne]
      exact ⟨hm.1, ih (a + 1) hm.2⟩

/-- Writing a byte keeps the canonical form. -/
theorem setByte_wf (m : Bytes) (a : Nat) (b : Byte) (hm : Memory.wf m = true) : Memory.wf (setByte m a b) = true := by
  unfold setByte tset Memory.wf
  split
  · exact canonicalAbove_tdel m 0 a hm
  · next h => exact canonicalAbove_tput m 0 a b (Nat.zero_le a) (by simpa using h) hm

theorem setBytes_wf (bs : List Byte) (m : Bytes) (a : Nat) (hm : Memory.wf m = true) : Memory.wf (setBytes m a bs) = true := by
  induction bs generalizing m a with
  | nil => exact hm
  | cons b bs ih => exact ih _ _ (setByte_wf m a b hm)

theorem setCells_wf (cs : List Host.Cell) (m : Bytes) (hm : Memory.wf m = true) : Memory.wf (setCells m cs) = true := by
  induction cs generalizing m with
  | nil => exact hm
  | cons c cs ih => exact ih _ (setByte_wf m c.1 c.2 hm)

theorem canonicalAbove_filter (m : Bytes) (p : Host.Cell → Bool) (lo : Nat) (hm : canonicalAbove lo m = true) :
    canonicalAbove lo (m.filter p) = true := by
  induction m generalizing lo with
  | nil => rfl
  | cons e t ih =>
    obtain ⟨a, b⟩ := e
    simp only [canonicalAbove, Bool.and_eq_true, decide_eq_true_eq, bne_iff_ne] at hm
    simp only [List.filter_cons]
    split
    · simp only [canonicalAbove, Bool.and_eq_true, decide_eq_true_eq, bne_iff_ne]
      exact ⟨hm.1, ih (a + 1) hm.2⟩
    · exact canonicalAbove_mono _ (a + 1) lo (by omega) (ih (a + 1) hm.2)

/-- Keeping only some bytes of a memory keeps the canonical form. -/
theorem filter_wf (m : Bytes) (p : Host.Cell → Bool) (hm : Memory.wf m = true) : Memory.wf (m.filter p) = true :=
  canonicalAbove_filter m p 0 hm

/-! Bytes after a write. -/

theorem tfind_above (m : Bytes) (lo n : Nat) (h : n < lo) (hm : canonicalAbove lo m = true) : tfind m n = none := by
  induction m generalizing lo with
  | nil => rfl
  | cons e t ih =>
    obtain ⟨a, b⟩ := e
    simp only [canonicalAbove, Bool.and_eq_true, decide_eq_true_eq, bne_iff_ne] at hm
    have hne : a ≠ n := by omega
    simp [tfind, hne, ih (a + 1) (by omega) hm.2]

theorem tfind_tdel_same (m : Bytes) (lo n : Nat) (hm : canonicalAbove lo m = true) : tfind (tdel m n) n = none := by
  induction m generalizing lo with
  | nil => rfl
  | cons e t ih =>
    obtain ⟨a, b⟩ := e
    simp only [canonicalAbove, Bool.and_eq_true, decide_eq_true_eq, bne_iff_ne] at hm
    simp only [tdel]
    split
    · next h => exact tfind_above t (a + 1) n (by omega) hm.2
    · next h => simp [tfind, h, ih (a + 1) hm.2]

/-- The byte written is the byte read. -/
theorem byteAt_setByte_same (m : Bytes) (a : Nat) (b : Byte) (hm : Memory.wf m = true) : byteAt (setByte m a b) a = b := by
  unfold setByte tset
  split
  · next h => simp [byteAt, tget, tfind_tdel_same m 0 a hm]; simpa using (beq_iff_eq.mp h).symm
  · simp [byteAt]

/-- Every other byte is as before. -/
theorem byteAt_setByte_other (m : Bytes) (a x : Nat) (b : Byte) (h : x ≠ a) : byteAt (setByte m a b) x = byteAt m x := by
  unfold setByte tset
  split
  · simp [byteAt, tget, tfind_tdel_other m a x h]
  · simp [byteAt, tget_tput_other _ m a x b h]

theorem byteAt_setCells_other (cs : List Host.Cell) (m : Bytes) (x : Nat) (h : ∀ c ∈ cs, c.1 ≠ x) :
    byteAt (setCells m cs) x = byteAt m x := by
  induction cs generalizing m with
  | nil => rfl
  | cons c cs ih =>
    rw [setCells, ih _ fun c' hc => h c' (List.mem_cons_of_mem _ hc),
      byteAt_setByte_other _ _ _ _ (Ne.symm (h c List.mem_cons_self))]

end Sys2Proof.Machine
end

