-- ==== Sys2Proof/Laws/State.lean ====
section
/-! SUPPORT. Laws of the state: what each field, each core, each task and each register is after one of the named updates. One lemma a
field and update, so that no proof unfolds a record update. -/

namespace Sys2Proof.Machine

/-! The fields of the state. -/

@[simp] theorem State.setCore_time (s : State) (c : Nat) (k : Core) : (s.setCore c k).time = s.time := rfl
@[simp] theorem State.setCore_disps (s : State) (c : Nat) (k : Core) : (s.setCore c k).disps = s.disps := rfl
@[simp] theorem State.setCore_weaves (s : State) (c : Nat) (k : Core) : (s.setCore c k).weaves = s.weaves := rfl
@[simp] theorem State.setCore_runs (s : State) (c : Nat) (k : Core) : (s.setCore c k).runs = s.runs := rfl
@[simp] theorem State.setCore_barriers (s : State) (c : Nat) (k : Core) : (s.setCore c k).barriers = s.barriers := rfl
@[simp] theorem State.setCore_banks (s : State) (c : Nat) (k : Core) : (s.setCore c k).banks = s.banks := rfl
@[simp] theorem State.setCore_homes (s : State) (c : Nat) (k : Core) : (s.setCore c k).homes = s.homes := rfl
@[simp] theorem State.setCore_tracked (s : State) (c : Nat) (k : Core) : (s.setCore c k).tracked = s.tracked := rfl
@[simp] theorem State.setCore_windows (s : State) (c : Nat) (k : Core) : (s.setCore c k).windows = s.windows := rfl
@[simp] theorem State.setCore_logs (s : State) (c : Nat) (k : Core) : (s.setCore c k).logs = s.logs := rfl
@[simp] theorem State.setCore_misses (s : State) (c : Nat) (k : Core) : (s.setCore c k).misses = s.misses := rfl
@[simp] theorem State.setCore_signals (s : State) (c : Nat) (k : Core) : (s.setCore c k).signals = s.signals := rfl
@[simp] theorem State.setCore_walkQ (s : State) (c : Nat) (k : Core) : (s.setCore c k).walkQ = s.walkQ := rfl
@[simp] theorem State.setCore_walkStore (s : State) (c : Nat) (k : Core) : (s.setCore c k).walkStore = s.walkStore := rfl
@[simp] theorem State.setCore_memerr (s : State) (c : Nat) (k : Core) : (s.setCore c k).memerr = s.memerr := rfl
@[simp] theorem State.setCore_hslots (s : State) (c : Nat) (k : Core) : (s.setCore c k).hslots = s.hslots := rfl
@[simp] theorem State.setCore_hblocks (s : State) (c : Nat) (k : Core) : (s.setCore c k).hblocks = s.hblocks := rfl
@[simp] theorem State.setCore_trk (s : State) (c : Nat) (k : Core) : (s.setCore c k).trk = s.trk := rfl
@[simp] theorem State.setCore_nmus (s : State) (c : Nat) (k : Core) : (s.setCore c k).nmus = s.nmus := rfl
@[simp] theorem State.setCore_aborted (s : State) (c : Nat) (k : Core) : (s.setCore c k).aborted = s.aborted := rfl
@[simp] theorem State.setCore_groups (s : State) (c : Nat) (k : Core) : (s.setCore c k).groups = s.groups := rfl
@[simp] theorem State.setCore_fabstat (s : State) (c : Nat) (k : Core) : (s.setCore c k).fabstat = s.fabstat := rfl
@[simp] theorem State.setCore_partials (s : State) (c : Nat) (k : Core) : (s.setCore c k).partials = s.partials := rfl
@[simp] theorem State.setCore_stripes (s : State) (c : Nat) (k : Core) : (s.setCore c k).stripes = s.stripes := rfl
@[simp] theorem State.setCore_walks (s : State) (c : Nat) (k : Core) : (s.setCore c k).walks = s.walks := rfl
@[simp] theorem State.setCore_twstat (s : State) (c : Nat) (k : Core) : (s.setCore c k).twstat = s.twstat := rfl
@[simp] theorem State.setCore_nets (s : State) (c : Nat) (k : Core) : (s.setCore c k).nets = s.nets := rfl
@[simp] theorem State.setCore_smps (s : State) (c : Nat) (k : Core) : (s.setCore c k).smps = s.smps := rfl
@[simp] theorem State.setCore_pkgs (s : State) (c : Nat) (k : Core) : (s.setCore c k).pkgs = s.pkgs := rfl
@[simp] theorem State.setCore_dieServ (s : State) (c : Nat) (k : Core) : (s.setCore c k).dieServ = s.dieServ := rfl
@[simp] theorem State.setCore_lost (s : State) (c : Nat) (k : Core) : (s.setCore c k).lost = s.lost := rfl
@[simp] theorem State.setCore_flow (s : State) (c : Nat) (k : Core) : (s.setCore c k).flow = s.flow := rfl
@[simp] theorem State.setCore_flowThrottle (s : State) (c : Nat) (k : Core) : (s.setCore c k).flowThrottle = s.flowThrottle := rfl
@[simp] theorem State.setCore_flowSince (s : State) (c : Nat) (k : Core) : (s.setCore c k).flowSince = s.flowSince := rfl
@[simp] theorem State.setCore_edge (s : State) (c : Nat) (k : Core) : (s.setCore c k).edge = s.edge := rfl
@[simp] theorem State.setCore_strong (s : State) (c : Nat) (k : Core) : (s.setCore c k).strong = s.strong := rfl
@[simp] theorem State.setCore_turns (s : State) (c : Nat) (k : Core) : (s.setCore c k).turns = s.turns := rfl
@[simp] theorem State.setCore_turnCtr (s : State) (c : Nat) (k : Core) : (s.setCore c k).turnCtr = s.turnCtr := rfl
@[simp] theorem State.setCore_cur (s : State) (c : Nat) (k : Core) : (s.setCore c k).cur = s.cur := rfl
@[simp] theorem State.setCore_freeCtr (s : State) (c : Nat) (k : Core) : (s.setCore c k).freeCtr = s.freeCtr := rfl
@[simp] theorem State.setCore_nextId (s : State) (c : Nat) (k : Core) : (s.setCore c k).nextId = s.nextId := rfl

@[simp] theorem State.modCore_time (s : State) (c : Nat) (f : Core → Core) : (s.modCore c f).time = s.time := rfl
@[simp] theorem State.modCore_disps (s : State) (c : Nat) (f : Core → Core) : (s.modCore c f).disps = s.disps := rfl
@[simp] theorem State.modCore_weaves (s : State) (c : Nat) (f : Core → Core) : (s.modCore c f).weaves = s.weaves := rfl
@[simp] theorem State.modCore_runs (s : State) (c : Nat) (f : Core → Core) : (s.modCore c f).runs = s.runs := rfl
@[simp] theorem State.modCore_barriers (s : State) (c : Nat) (f : Core → Core) : (s.modCore c f).barriers = s.barriers := rfl
@[simp] theorem State.modCore_banks (s : State) (c : Nat) (f : Core → Core) : (s.modCore c f).banks = s.banks := rfl
@[simp] theorem State.modCore_homes (s : State) (c : Nat) (f : Core → Core) : (s.modCore c f).homes = s.homes := rfl
@[simp] theorem State.modCore_tracked (s : State) (c : Nat) (f : Core → Core) : (s.modCore c f).tracked = s.tracked := rfl
@[simp] theorem State.modCore_windows (s : State) (c : Nat) (f : Core → Core) : (s.modCore c f).windows = s.windows := rfl
@[simp] theorem State.modCore_logs (s : State) (c : Nat) (f : Core → Core) : (s.modCore c f).logs = s.logs := rfl
@[simp] theorem State.modCore_misses (s : State) (c : Nat) (f : Core → Core) : (s.modCore c f).misses = s.misses := rfl
@[simp] theorem State.modCore_signals (s : State) (c : Nat) (f : Core → Core) : (s.modCore c f).signals = s.signals := rfl
@[simp] theorem State.modCore_walkQ (s : State) (c : Nat) (f : Core → Core) : (s.modCore c f).walkQ = s.walkQ := rfl
@[simp] theorem State.modCore_walkStore (s : State) (c : Nat) (f : Core → Core) : (s.modCore c f).walkStore = s.walkStore := rfl
@[simp] theorem State.modCore_memerr (s : State) (c : Nat) (f : Core → Core) : (s.modCore c f).memerr = s.memerr := rfl
@[simp] theorem State.modCore_hslots (s : State) (c : Nat) (f : Core → Core) : (s.modCore c f).hslots = s.hslots := rfl
@[simp] theorem State.modCore_hblocks (s : State) (c : Nat) (f : Core → Core) : (s.modCore c f).hblocks = s.hblocks := rfl
@[simp] theorem State.modCore_trk (s : State) (c : Nat) (f : Core → Core) : (s.modCore c f).trk = s.trk := rfl
@[simp] theorem State.modCore_nmus (s : State) (c : Nat) (f : Core → Core) : (s.modCore c f).nmus = s.nmus := rfl
@[simp] theorem State.modCore_aborted (s : State) (c : Nat) (f : Core → Core) : (s.modCore c f).aborted = s.aborted := rfl
@[simp] theorem State.modCore_groups (s : State) (c : Nat) (f : Core → Core) : (s.modCore c f).groups = s.groups := rfl
@[simp] theorem State.modCore_fabstat (s : State) (c : Nat) (f : Core → Core) : (s.modCore c f).fabstat = s.fabstat := rfl
@[simp] theorem State.modCore_partials (s : State) (c : Nat) (f : Core → Core) : (s.modCore c f).partials = s.partials := rfl
@[simp] theorem State.modCore_stripes (s : State) (c : Nat) (f : Core → Core) : (s.modCore c f).stripes = s.stripes := rfl
@[simp] theorem State.modCore_walks (s : State) (c : Nat) (f : Core → Core) : (s.modCore c f).walks = s.walks := rfl
@[simp] theorem State.modCore_twstat (s : State) (c : Nat) (f : Core → Core) : (s.modCore c f).twstat = s.twstat := rfl
@[simp] theorem State.modCore_nets (s : State) (c : Nat) (f : Core → Core) : (s.modCore c f).nets = s.nets := rfl
@[simp] theorem State.modCore_smps (s : State) (c : Nat) (f : Core → Core) : (s.modCore c f).smps = s.smps := rfl
@[simp] theorem State.modCore_pkgs (s : State) (c : Nat) (f : Core → Core) : (s.modCore c f).pkgs = s.pkgs := rfl
@[simp] theorem State.modCore_dieServ (s : State) (c : Nat) (f : Core → Core) : (s.modCore c f).dieServ = s.dieServ := rfl
@[simp] theorem State.modCore_lost (s : State) (c : Nat) (f : Core → Core) : (s.modCore c f).lost = s.lost := rfl
@[simp] theorem State.modCore_flow (s : State) (c : Nat) (f : Core → Core) : (s.modCore c f).flow = s.flow := rfl
@[simp] theorem State.modCore_flowThrottle (s : State) (c : Nat) (f : Core → Core) : (s.modCore c f).flowThrottle = s.flowThrottle := rfl
@[simp] theorem State.modCore_flowSince (s : State) (c : Nat) (f : Core → Core) : (s.modCore c f).flowSince = s.flowSince := rfl
@[simp] theorem State.modCore_edge (s : State) (c : Nat) (f : Core → Core) : (s.modCore c f).edge = s.edge := rfl
@[simp] theorem State.modCore_strong (s : State) (c : Nat) (f : Core → Core) : (s.modCore c f).strong = s.strong := rfl
@[simp] theorem State.modCore_turns (s : State) (c : Nat) (f : Core → Core) : (s.modCore c f).turns = s.turns := rfl
@[simp] theorem State.modCore_turnCtr (s : State) (c : Nat) (f : Core → Core) : (s.modCore c f).turnCtr = s.turnCtr := rfl
@[simp] theorem State.modCore_cur (s : State) (c : Nat) (f : Core → Core) : (s.modCore c f).cur = s.cur := rfl
@[simp] theorem State.modCore_freeCtr (s : State) (c : Nat) (f : Core → Core) : (s.modCore c f).freeCtr = s.freeCtr := rfl
@[simp] theorem State.modCore_nextId (s : State) (c : Nat) (f : Core → Core) : (s.modCore c f).nextId = s.nextId := rfl

@[simp] theorem State.modTask_time (s : State) (c t : Nat) (f : Task → Task) : (s.modTask c t f).time = s.time := rfl
@[simp] theorem State.modTask_disps (s : State) (c t : Nat) (f : Task → Task) : (s.modTask c t f).disps = s.disps := rfl
@[simp] theorem State.modTask_weaves (s : State) (c t : Nat) (f : Task → Task) : (s.modTask c t f).weaves = s.weaves := rfl
@[simp] theorem State.modTask_runs (s : State) (c t : Nat) (f : Task → Task) : (s.modTask c t f).runs = s.runs := rfl
@[simp] theorem State.modTask_barriers (s : State) (c t : Nat) (f : Task → Task) : (s.modTask c t f).barriers = s.barriers := rfl
@[simp] theorem State.modTask_banks (s : State) (c t : Nat) (f : Task → Task) : (s.modTask c t f).banks = s.banks := rfl
@[simp] theorem State.modTask_homes (s : State) (c t : Nat) (f : Task → Task) : (s.modTask c t f).homes = s.homes := rfl
@[simp] theorem State.modTask_tracked (s : State) (c t : Nat) (f : Task → Task) : (s.modTask c t f).tracked = s.tracked := rfl
@[simp] theorem State.modTask_windows (s : State) (c t : Nat) (f : Task → Task) : (s.modTask c t f).windows = s.windows := rfl
@[simp] theorem State.modTask_logs (s : State) (c t : Nat) (f : Task → Task) : (s.modTask c t f).logs = s.logs := rfl
@[simp] theorem State.modTask_misses (s : State) (c t : Nat) (f : Task → Task) : (s.modTask c t f).misses = s.misses := rfl
@[simp] theorem State.modTask_signals (s : State) (c t : Nat) (f : Task → Task) : (s.modTask c t f).signals = s.signals := rfl
@[simp] theorem State.modTask_walkQ (s : State) (c t : Nat) (f : Task → Task) : (s.modTask c t f).walkQ = s.walkQ := rfl
@[simp] theorem State.modTask_walkStore (s : State) (c t : Nat) (f : Task → Task) : (s.modTask c t f).walkStore = s.walkStore := rfl
@[simp] theorem State.modTask_memerr (s : State) (c t : Nat) (f : Task → Task) : (s.modTask c t f).memerr = s.memerr := rfl
@[simp] theorem State.modTask_hslots (s : State) (c t : Nat) (f : Task → Task) : (s.modTask c t f).hslots = s.hslots := rfl
@[simp] theorem State.modTask_hblocks (s : State) (c t : Nat) (f : Task → Task) : (s.modTask c t f).hblocks = s.hblocks := rfl
@[simp] theorem State.modTask_trk (s : State) (c t : Nat) (f : Task → Task) : (s.modTask c t f).trk = s.trk := rfl
@[simp] theorem State.modTask_nmus (s : State) (c t : Nat) (f : Task → Task) : (s.modTask c t f).nmus = s.nmus := rfl
@[simp] theorem State.modTask_aborted (s : State) (c t : Nat) (f : Task → Task) : (s.modTask c t f).aborted = s.aborted := rfl
@[simp] theorem State.modTask_groups (s : State) (c t : Nat) (f : Task → Task) : (s.modTask c t f).groups = s.groups := rfl
@[simp] theorem State.modTask_fabstat (s : State) (c t : Nat) (f : Task → Task) : (s.modTask c t f).fabstat = s.fabstat := rfl
@[simp] theorem State.modTask_partials (s : State) (c t : Nat) (f : Task → Task) : (s.modTask c t f).partials = s.partials := rfl
@[simp] theorem State.modTask_stripes (s : State) (c t : Nat) (f : Task → Task) : (s.modTask c t f).stripes = s.stripes := rfl
@[simp] theorem State.modTask_walks (s : State) (c t : Nat) (f : Task → Task) : (s.modTask c t f).walks = s.walks := rfl
@[simp] theorem State.modTask_twstat (s : State) (c t : Nat) (f : Task → Task) : (s.modTask c t f).twstat = s.twstat := rfl
@[simp] theorem State.modTask_nets (s : State) (c t : Nat) (f : Task → Task) : (s.modTask c t f).nets = s.nets := rfl
@[simp] theorem State.modTask_smps (s : State) (c t : Nat) (f : Task → Task) : (s.modTask c t f).smps = s.smps := rfl
@[simp] theorem State.modTask_pkgs (s : State) (c t : Nat) (f : Task → Task) : (s.modTask c t f).pkgs = s.pkgs := rfl
@[simp] theorem State.modTask_dieServ (s : State) (c t : Nat) (f : Task → Task) : (s.modTask c t f).dieServ = s.dieServ := rfl
@[simp] theorem State.modTask_lost (s : State) (c t : Nat) (f : Task → Task) : (s.modTask c t f).lost = s.lost := rfl
@[simp] theorem State.modTask_flow (s : State) (c t : Nat) (f : Task → Task) : (s.modTask c t f).flow = s.flow := rfl
@[simp] theorem State.modTask_flowThrottle (s : State) (c t : Nat) (f : Task → Task) : (s.modTask c t f).flowThrottle = s.flowThrottle := rfl
@[simp] theorem State.modTask_flowSince (s : State) (c t : Nat) (f : Task → Task) : (s.modTask c t f).flowSince = s.flowSince := rfl
@[simp] theorem State.modTask_edge (s : State) (c t : Nat) (f : Task → Task) : (s.modTask c t f).edge = s.edge := rfl
@[simp] theorem State.modTask_strong (s : State) (c t : Nat) (f : Task → Task) : (s.modTask c t f).strong = s.strong := rfl
@[simp] theorem State.modTask_turns (s : State) (c t : Nat) (f : Task → Task) : (s.modTask c t f).turns = s.turns := rfl
@[simp] theorem State.modTask_turnCtr (s : State) (c t : Nat) (f : Task → Task) : (s.modTask c t f).turnCtr = s.turnCtr := rfl
@[simp] theorem State.modTask_cur (s : State) (c t : Nat) (f : Task → Task) : (s.modTask c t f).cur = s.cur := rfl
@[simp] theorem State.modTask_freeCtr (s : State) (c t : Nat) (f : Task → Task) : (s.modTask c t f).freeCtr = s.freeCtr := rfl
@[simp] theorem State.modTask_nextId (s : State) (c t : Nat) (f : Task → Task) : (s.modTask c t f).nextId = s.nextId := rfl

@[simp] theorem State.modData_time (s : State) (c : Nat) (f : DataSide → DataSide) : (s.modData c f).time = s.time := rfl
@[simp] theorem State.modData_disps (s : State) (c : Nat) (f : DataSide → DataSide) : (s.modData c f).disps = s.disps := rfl
@[simp] theorem State.modData_weaves (s : State) (c : Nat) (f : DataSide → DataSide) : (s.modData c f).weaves = s.weaves := rfl
@[simp] theorem State.modData_runs (s : State) (c : Nat) (f : DataSide → DataSide) : (s.modData c f).runs = s.runs := rfl
@[simp] theorem State.modData_barriers (s : State) (c : Nat) (f : DataSide → DataSide) : (s.modData c f).barriers = s.barriers := rfl
@[simp] theorem State.modData_banks (s : State) (c : Nat) (f : DataSide → DataSide) : (s.modData c f).banks = s.banks := rfl
@[simp] theorem State.modData_homes (s : State) (c : Nat) (f : DataSide → DataSide) : (s.modData c f).homes = s.homes := rfl
@[simp] theorem State.modData_tracked (s : State) (c : Nat) (f : DataSide → DataSide) : (s.modData c f).tracked = s.tracked := rfl
@[simp] theorem State.modData_windows (s : State) (c : Nat) (f : DataSide → DataSide) : (s.modData c f).windows = s.windows := rfl
@[simp] theorem State.modData_logs (s : State) (c : Nat) (f : DataSide → DataSide) : (s.modData c f).logs = s.logs := rfl
@[simp] theorem State.modData_misses (s : State) (c : Nat) (f : DataSide → DataSide) : (s.modData c f).misses = s.misses := rfl
@[simp] theorem State.modData_signals (s : State) (c : Nat) (f : DataSide → DataSide) : (s.modData c f).signals = s.signals := rfl
@[simp] theorem State.modData_walkQ (s : State) (c : Nat) (f : DataSide → DataSide) : (s.modData c f).walkQ = s.walkQ := rfl
@[simp] theorem State.modData_walkStore (s : State) (c : Nat) (f : DataSide → DataSide) : (s.modData c f).walkStore = s.walkStore := rfl
@[simp] theorem State.modData_memerr (s : State) (c : Nat) (f : DataSide → DataSide) : (s.modData c f).memerr = s.memerr := rfl
@[simp] theorem State.modData_hslots (s : State) (c : Nat) (f : DataSide → DataSide) : (s.modData c f).hslots = s.hslots := rfl
@[simp] theorem State.modData_hblocks (s : State) (c : Nat) (f : DataSide → DataSide) : (s.modData c f).hblocks = s.hblocks := rfl
@[simp] theorem State.modData_trk (s : State) (c : Nat) (f : DataSide → DataSide) : (s.modData c f).trk = s.trk := rfl
@[simp] theorem State.modData_nmus (s : State) (c : Nat) (f : DataSide → DataSide) : (s.modData c f).nmus = s.nmus := rfl
@[simp] theorem State.modData_aborted (s : State) (c : Nat) (f : DataSide → DataSide) : (s.modData c f).aborted = s.aborted := rfl
@[simp] theorem State.modData_groups (s : State) (c : Nat) (f : DataSide → DataSide) : (s.modData c f).groups = s.groups := rfl
@[simp] theorem State.modData_fabstat (s : State) (c : Nat) (f : DataSide → DataSide) : (s.modData c f).fabstat = s.fabstat := rfl
@[simp] theorem State.modData_partials (s : State) (c : Nat) (f : DataSide → DataSide) : (s.modData c f).partials = s.partials := rfl
@[simp] theorem State.modData_stripes (s : State) (c : Nat) (f : DataSide → DataSide) : (s.modData c f).stripes = s.stripes := rfl
@[simp] theorem State.modData_walks (s : State) (c : Nat) (f : DataSide → DataSide) : (s.modData c f).walks = s.walks := rfl
@[simp] theorem State.modData_twstat (s : State) (c : Nat) (f : DataSide → DataSide) : (s.modData c f).twstat = s.twstat := rfl
@[simp] theorem State.modData_nets (s : State) (c : Nat) (f : DataSide → DataSide) : (s.modData c f).nets = s.nets := rfl
@[simp] theorem State.modData_smps (s : State) (c : Nat) (f : DataSide → DataSide) : (s.modData c f).smps = s.smps := rfl
@[simp] theorem State.modData_pkgs (s : State) (c : Nat) (f : DataSide → DataSide) : (s.modData c f).pkgs = s.pkgs := rfl
@[simp] theorem State.modData_dieServ (s : State) (c : Nat) (f : DataSide → DataSide) : (s.modData c f).dieServ = s.dieServ := rfl
@[simp] theorem State.modData_lost (s : State) (c : Nat) (f : DataSide → DataSide) : (s.modData c f).lost = s.lost := rfl
@[simp] theorem State.modData_flow (s : State) (c : Nat) (f : DataSide → DataSide) : (s.modData c f).flow = s.flow := rfl
@[simp] theorem State.modData_flowThrottle (s : State) (c : Nat) (f : DataSide → DataSide) : (s.modData c f).flowThrottle = s.flowThrottle := rfl
@[simp] theorem State.modData_flowSince (s : State) (c : Nat) (f : DataSide → DataSide) : (s.modData c f).flowSince = s.flowSince := rfl
@[simp] theorem State.modData_edge (s : State) (c : Nat) (f : DataSide → DataSide) : (s.modData c f).edge = s.edge := rfl
@[simp] theorem State.modData_strong (s : State) (c : Nat) (f : DataSide → DataSide) : (s.modData c f).strong = s.strong := rfl
@[simp] theorem State.modData_turns (s : State) (c : Nat) (f : DataSide → DataSide) : (s.modData c f).turns = s.turns := rfl
@[simp] theorem State.modData_turnCtr (s : State) (c : Nat) (f : DataSide → DataSide) : (s.modData c f).turnCtr = s.turnCtr := rfl
@[simp] theorem State.modData_cur (s : State) (c : Nat) (f : DataSide → DataSide) : (s.modData c f).cur = s.cur := rfl
@[simp] theorem State.modData_freeCtr (s : State) (c : Nat) (f : DataSide → DataSide) : (s.modData c f).freeCtr = s.freeCtr := rfl
@[simp] theorem State.modData_nextId (s : State) (c : Nat) (f : DataSide → DataSide) : (s.modData c f).nextId = s.nextId := rfl

@[simp] theorem State.modDisp_time (s : State) (d : Nat) (f : Disp → Disp) : (s.modDisp d f).time = s.time := rfl
@[simp] theorem State.modDisp_cores (s : State) (d : Nat) (f : Disp → Disp) : (s.modDisp d f).cores = s.cores := rfl
@[simp] theorem State.modDisp_weaves (s : State) (d : Nat) (f : Disp → Disp) : (s.modDisp d f).weaves = s.weaves := rfl
@[simp] theorem State.modDisp_runs (s : State) (d : Nat) (f : Disp → Disp) : (s.modDisp d f).runs = s.runs := rfl
@[simp] theorem State.modDisp_barriers (s : State) (d : Nat) (f : Disp → Disp) : (s.modDisp d f).barriers = s.barriers := rfl
@[simp] theorem State.modDisp_banks (s : State) (d : Nat) (f : Disp → Disp) : (s.modDisp d f).banks = s.banks := rfl
@[simp] theorem State.modDisp_homes (s : State) (d : Nat) (f : Disp → Disp) : (s.modDisp d f).homes = s.homes := rfl
@[simp] theorem State.modDisp_tracked (s : State) (d : Nat) (f : Disp → Disp) : (s.modDisp d f).tracked = s.tracked := rfl
@[simp] theorem State.modDisp_windows (s : State) (d : Nat) (f : Disp → Disp) : (s.modDisp d f).windows = s.windows := rfl
@[simp] theorem State.modDisp_logs (s : State) (d : Nat) (f : Disp → Disp) : (s.modDisp d f).logs = s.logs := rfl
@[simp] theorem State.modDisp_misses (s : State) (d : Nat) (f : Disp → Disp) : (s.modDisp d f).misses = s.misses := rfl
@[simp] theorem State.modDisp_signals (s : State) (d : Nat) (f : Disp → Disp) : (s.modDisp d f).signals = s.signals := rfl
@[simp] theorem State.modDisp_walkQ (s : State) (d : Nat) (f : Disp → Disp) : (s.modDisp d f).walkQ = s.walkQ := rfl
@[simp] theorem State.modDisp_walkStore (s : State) (d : Nat) (f : Disp → Disp) : (s.modDisp d f).walkStore = s.walkStore := rfl
@[simp] theorem State.modDisp_memerr (s : State) (d : Nat) (f : Disp → Disp) : (s.modDisp d f).memerr = s.memerr := rfl
@[simp] theorem State.modDisp_hslots (s : State) (d : Nat) (f : Disp → Disp) : (s.modDisp d f).hslots = s.hslots := rfl
@[simp] theorem State.modDisp_hblocks (s : State) (d : Nat) (f : Disp → Disp) : (s.modDisp d f).hblocks = s.hblocks := rfl
@[simp] theorem State.modDisp_trk (s : State) (d : Nat) (f : Disp → Disp) : (s.modDisp d f).trk = s.trk := rfl
@[simp] theorem State.modDisp_nmus (s : State) (d : Nat) (f : Disp → Disp) : (s.modDisp d f).nmus = s.nmus := rfl
@[simp] theorem State.modDisp_aborted (s : State) (d : Nat) (f : Disp → Disp) : (s.modDisp d f).aborted = s.aborted := rfl
@[simp] theorem State.modDisp_groups (s : State) (d : Nat) (f : Disp → Disp) : (s.modDisp d f).groups = s.groups := rfl
@[simp] theorem State.modDisp_fabstat (s : State) (d : Nat) (f : Disp → Disp) : (s.modDisp d f).fabstat = s.fabstat := rfl
@[simp] theorem State.modDisp_partials (s : State) (d : Nat) (f : Disp → Disp) : (s.modDisp d f).partials = s.partials := rfl
@[simp] theorem State.modDisp_stripes (s : State) (d : Nat) (f : Disp → Disp) : (s.modDisp d f).stripes = s.stripes := rfl
@[simp] theorem State.modDisp_walks (s : State) (d : Nat) (f : Disp → Disp) : (s.modDisp d f).walks = s.walks := rfl
@[simp] theorem State.modDisp_twstat (s : State) (d : Nat) (f : Disp → Disp) : (s.modDisp d f).twstat = s.twstat := rfl
@[simp] theorem State.modDisp_nets (s : State) (d : Nat) (f : Disp → Disp) : (s.modDisp d f).nets = s.nets := rfl
@[simp] theorem State.modDisp_smps (s : State) (d : Nat) (f : Disp → Disp) : (s.modDisp d f).smps = s.smps := rfl
@[simp] theorem State.modDisp_pkgs (s : State) (d : Nat) (f : Disp → Disp) : (s.modDisp d f).pkgs = s.pkgs := rfl
@[simp] theorem State.modDisp_dieServ (s : State) (d : Nat) (f : Disp → Disp) : (s.modDisp d f).dieServ = s.dieServ := rfl
@[simp] theorem State.modDisp_lost (s : State) (d : Nat) (f : Disp → Disp) : (s.modDisp d f).lost = s.lost := rfl
@[simp] theorem State.modDisp_flow (s : State) (d : Nat) (f : Disp → Disp) : (s.modDisp d f).flow = s.flow := rfl
@[simp] theorem State.modDisp_flowThrottle (s : State) (d : Nat) (f : Disp → Disp) : (s.modDisp d f).flowThrottle = s.flowThrottle := rfl
@[simp] theorem State.modDisp_flowSince (s : State) (d : Nat) (f : Disp → Disp) : (s.modDisp d f).flowSince = s.flowSince := rfl
@[simp] theorem State.modDisp_edge (s : State) (d : Nat) (f : Disp → Disp) : (s.modDisp d f).edge = s.edge := rfl
@[simp] theorem State.modDisp_strong (s : State) (d : Nat) (f : Disp → Disp) : (s.modDisp d f).strong = s.strong := rfl
@[simp] theorem State.modDisp_turns (s : State) (d : Nat) (f : Disp → Disp) : (s.modDisp d f).turns = s.turns := rfl
@[simp] theorem State.modDisp_turnCtr (s : State) (d : Nat) (f : Disp → Disp) : (s.modDisp d f).turnCtr = s.turnCtr := rfl
@[simp] theorem State.modDisp_cur (s : State) (d : Nat) (f : Disp → Disp) : (s.modDisp d f).cur = s.cur := rfl
@[simp] theorem State.modDisp_freeCtr (s : State) (d : Nat) (f : Disp → Disp) : (s.modDisp d f).freeCtr = s.freeCtr := rfl
@[simp] theorem State.modDisp_nextId (s : State) (d : Nat) (f : Disp → Disp) : (s.modDisp d f).nextId = s.nextId := rfl

@[simp] theorem State.fresh_time (s : State) : (s.fresh).time = s.time := rfl
@[simp] theorem State.fresh_cores (s : State) : (s.fresh).cores = s.cores := rfl
@[simp] theorem State.fresh_disps (s : State) : (s.fresh).disps = s.disps := rfl
@[simp] theorem State.fresh_weaves (s : State) : (s.fresh).weaves = s.weaves := rfl
@[simp] theorem State.fresh_runs (s : State) : (s.fresh).runs = s.runs := rfl
@[simp] theorem State.fresh_barriers (s : State) : (s.fresh).barriers = s.barriers := rfl
@[simp] theorem State.fresh_banks (s : State) : (s.fresh).banks = s.banks := rfl
@[simp] theorem State.fresh_homes (s : State) : (s.fresh).homes = s.homes := rfl
@[simp] theorem State.fresh_tracked (s : State) : (s.fresh).tracked = s.tracked := rfl
@[simp] theorem State.fresh_windows (s : State) : (s.fresh).windows = s.windows := rfl
@[simp] theorem State.fresh_logs (s : State) : (s.fresh).logs = s.logs := rfl
@[simp] theorem State.fresh_misses (s : State) : (s.fresh).misses = s.misses := rfl
@[simp] theorem State.fresh_signals (s : State) : (s.fresh).signals = s.signals := rfl
@[simp] theorem State.fresh_walkQ (s : State) : (s.fresh).walkQ = s.walkQ := rfl
@[simp] theorem State.fresh_walkStore (s : State) : (s.fresh).walkStore = s.walkStore := rfl
@[simp] theorem State.fresh_memerr (s : State) : (s.fresh).memerr = s.memerr := rfl
@[simp] theorem State.fresh_hslots (s : State) : (s.fresh).hslots = s.hslots := rfl
@[simp] theorem State.fresh_hblocks (s : State) : (s.fresh).hblocks = s.hblocks := rfl
@[simp] theorem State.fresh_trk (s : State) : (s.fresh).trk = s.trk := rfl
@[simp] theorem State.fresh_nmus (s : State) : (s.fresh).nmus = s.nmus := rfl
@[simp] theorem State.fresh_aborted (s : State) : (s.fresh).aborted = s.aborted := rfl
@[simp] theorem State.fresh_groups (s : State) : (s.fresh).groups = s.groups := rfl
@[simp] theorem State.fresh_fabstat (s : State) : (s.fresh).fabstat = s.fabstat := rfl
@[simp] theorem State.fresh_partials (s : State) : (s.fresh).partials = s.partials := rfl
@[simp] theorem State.fresh_stripes (s : State) : (s.fresh).stripes = s.stripes := rfl
@[simp] theorem State.fresh_walks (s : State) : (s.fresh).walks = s.walks := rfl
@[simp] theorem State.fresh_twstat (s : State) : (s.fresh).twstat = s.twstat := rfl
@[simp] theorem State.fresh_nets (s : State) : (s.fresh).nets = s.nets := rfl
@[simp] theorem State.fresh_smps (s : State) : (s.fresh).smps = s.smps := rfl
@[simp] theorem State.fresh_pkgs (s : State) : (s.fresh).pkgs = s.pkgs := rfl
@[simp] theorem State.fresh_dieServ (s : State) : (s.fresh).dieServ = s.dieServ := rfl
@[simp] theorem State.fresh_lost (s : State) : (s.fresh).lost = s.lost := rfl
@[simp] theorem State.fresh_flow (s : State) : (s.fresh).flow = s.flow := rfl
@[simp] theorem State.fresh_flowThrottle (s : State) : (s.fresh).flowThrottle = s.flowThrottle := rfl
@[simp] theorem State.fresh_flowSince (s : State) : (s.fresh).flowSince = s.flowSince := rfl
@[simp] theorem State.fresh_edge (s : State) : (s.fresh).edge = s.edge := rfl
@[simp] theorem State.fresh_strong (s : State) : (s.fresh).strong = s.strong := rfl
@[simp] theorem State.fresh_turns (s : State) : (s.fresh).turns = s.turns := rfl
@[simp] theorem State.fresh_turnCtr (s : State) : (s.fresh).turnCtr = s.turnCtr := rfl
@[simp] theorem State.fresh_cur (s : State) : (s.fresh).cur = s.cur := rfl
@[simp] theorem State.fresh_freeCtr (s : State) : (s.fresh).freeCtr = s.freeCtr := rfl

@[simp] theorem State.setReg_time (s : State) (c t r : Nat) (v : Word) : (s.setReg c t r v).time = s.time := rfl
@[simp] theorem State.setReg_disps (s : State) (c t r : Nat) (v : Word) : (s.setReg c t r v).disps = s.disps := rfl
@[simp] theorem State.setReg_weaves (s : State) (c t r : Nat) (v : Word) : (s.setReg c t r v).weaves = s.weaves := rfl
@[simp] theorem State.setReg_runs (s : State) (c t r : Nat) (v : Word) : (s.setReg c t r v).runs = s.runs := rfl
@[simp] theorem State.setReg_barriers (s : State) (c t r : Nat) (v : Word) : (s.setReg c t r v).barriers = s.barriers := rfl
@[simp] theorem State.setReg_banks (s : State) (c t r : Nat) (v : Word) : (s.setReg c t r v).banks = s.banks := rfl
@[simp] theorem State.setReg_homes (s : State) (c t r : Nat) (v : Word) : (s.setReg c t r v).homes = s.homes := rfl
@[simp] theorem State.setReg_tracked (s : State) (c t r : Nat) (v : Word) : (s.setReg c t r v).tracked = s.tracked := rfl
@[simp] theorem State.setReg_windows (s : State) (c t r : Nat) (v : Word) : (s.setReg c t r v).windows = s.windows := rfl
@[simp] theorem State.setReg_logs (s : State) (c t r : Nat) (v : Word) : (s.setReg c t r v).logs = s.logs := rfl
@[simp] theorem State.setReg_misses (s : State) (c t r : Nat) (v : Word) : (s.setReg c t r v).misses = s.misses := rfl
@[simp] theorem State.setReg_signals (s : State) (c t r : Nat) (v : Word) : (s.setReg c t r v).signals = s.signals := rfl
@[simp] theorem State.setReg_walkQ (s : State) (c t r : Nat) (v : Word) : (s.setReg c t r v).walkQ = s.walkQ := rfl
@[simp] theorem State.setReg_walkStore (s : State) (c t r : Nat) (v : Word) : (s.setReg c t r v).walkStore = s.walkStore := rfl
@[simp] theorem State.setReg_memerr (s : State) (c t r : Nat) (v : Word) : (s.setReg c t r v).memerr = s.memerr := rfl
@[simp] theorem State.setReg_hslots (s : State) (c t r : Nat) (v : Word) : (s.setReg c t r v).hslots = s.hslots := rfl
@[simp] theorem State.setReg_hblocks (s : State) (c t r : Nat) (v : Word) : (s.setReg c t r v).hblocks = s.hblocks := rfl
@[simp] theorem State.setReg_trk (s : State) (c t r : Nat) (v : Word) : (s.setReg c t r v).trk = s.trk := rfl
@[simp] theorem State.setReg_nmus (s : State) (c t r : Nat) (v : Word) : (s.setReg c t r v).nmus = s.nmus := rfl
@[simp] theorem State.setReg_aborted (s : State) (c t r : Nat) (v : Word) : (s.setReg c t r v).aborted = s.aborted := rfl
@[simp] theorem State.setReg_groups (s : State) (c t r : Nat) (v : Word) : (s.setReg c t r v).groups = s.groups := rfl
@[simp] theorem State.setReg_fabstat (s : State) (c t r : Nat) (v : Word) : (s.setReg c t r v).fabstat = s.fabstat := rfl
@[simp] theorem State.setReg_partials (s : State) (c t r : Nat) (v : Word) : (s.setReg c t r v).partials = s.partials := rfl
@[simp] theorem State.setReg_stripes (s : State) (c t r : Nat) (v : Word) : (s.setReg c t r v).stripes = s.stripes := rfl
@[simp] theorem State.setReg_walks (s : State) (c t r : Nat) (v : Word) : (s.setReg c t r v).walks = s.walks := rfl
@[simp] theorem State.setReg_twstat (s : State) (c t r : Nat) (v : Word) : (s.setReg c t r v).twstat = s.twstat := rfl
@[simp] theorem State.setReg_nets (s : State) (c t r : Nat) (v : Word) : (s.setReg c t r v).nets = s.nets := rfl
@[simp] theorem State.setReg_smps (s : State) (c t r : Nat) (v : Word) : (s.setReg c t r v).smps = s.smps := rfl
@[simp] theorem State.setReg_pkgs (s : State) (c t r : Nat) (v : Word) : (s.setReg c t r v).pkgs = s.pkgs := rfl
@[simp] theorem State.setReg_dieServ (s : State) (c t r : Nat) (v : Word) : (s.setReg c t r v).dieServ = s.dieServ := rfl
@[simp] theorem State.setReg_lost (s : State) (c t r : Nat) (v : Word) : (s.setReg c t r v).lost = s.lost := rfl
@[simp] theorem State.setReg_flow (s : State) (c t r : Nat) (v : Word) : (s.setReg c t r v).flow = s.flow := rfl
@[simp] theorem State.setReg_flowThrottle (s : State) (c t r : Nat) (v : Word) : (s.setReg c t r v).flowThrottle = s.flowThrottle := rfl
@[simp] theorem State.setReg_flowSince (s : State) (c t r : Nat) (v : Word) : (s.setReg c t r v).flowSince = s.flowSince := rfl
@[simp] theorem State.setReg_edge (s : State) (c t r : Nat) (v : Word) : (s.setReg c t r v).edge = s.edge := rfl
@[simp] theorem State.setReg_strong (s : State) (c t r : Nat) (v : Word) : (s.setReg c t r v).strong = s.strong := rfl
@[simp] theorem State.setReg_turns (s : State) (c t r : Nat) (v : Word) : (s.setReg c t r v).turns = s.turns := rfl
@[simp] theorem State.setReg_turnCtr (s : State) (c t r : Nat) (v : Word) : (s.setReg c t r v).turnCtr = s.turnCtr := rfl
@[simp] theorem State.setReg_cur (s : State) (c t r : Nat) (v : Word) : (s.setReg c t r v).cur = s.cur := rfl
@[simp] theorem State.setReg_freeCtr (s : State) (c t r : Nat) (v : Word) : (s.setReg c t r v).freeCtr = s.freeCtr := rfl
@[simp] theorem State.setReg_nextId (s : State) (c t r : Nat) (v : Word) : (s.setReg c t r v).nextId = s.nextId := rfl

@[simp] theorem State.result_time (s : State) (c t r : Nat) (v : Word) (lat len : Nat) : (s.result c t r v lat len).time = s.time := rfl
@[simp] theorem State.result_disps (s : State) (c t r : Nat) (v : Word) (lat len : Nat) : (s.result c t r v lat len).disps = s.disps := rfl
@[simp] theorem State.result_weaves (s : State) (c t r : Nat) (v : Word) (lat len : Nat) : (s.result c t r v lat len).weaves = s.weaves := rfl
@[simp] theorem State.result_runs (s : State) (c t r : Nat) (v : Word) (lat len : Nat) : (s.result c t r v lat len).runs = s.runs := rfl
@[simp] theorem State.result_barriers (s : State) (c t r : Nat) (v : Word) (lat len : Nat) : (s.result c t r v lat len).barriers = s.barriers := rfl
@[simp] theorem State.result_banks (s : State) (c t r : Nat) (v : Word) (lat len : Nat) : (s.result c t r v lat len).banks = s.banks := rfl
@[simp] theorem State.result_homes (s : State) (c t r : Nat) (v : Word) (lat len : Nat) : (s.result c t r v lat len).homes = s.homes := rfl
@[simp] theorem State.result_tracked (s : State) (c t r : Nat) (v : Word) (lat len : Nat) : (s.result c t r v lat len).tracked = s.tracked := rfl
@[simp] theorem State.result_windows (s : State) (c t r : Nat) (v : Word) (lat len : Nat) : (s.result c t r v lat len).windows = s.windows := rfl
@[simp] theorem State.result_logs (s : State) (c t r : Nat) (v : Word) (lat len : Nat) : (s.result c t r v lat len).logs = s.logs := rfl
@[simp] theorem State.result_misses (s : State) (c t r : Nat) (v : Word) (lat len : Nat) : (s.result c t r v lat len).misses = s.misses := rfl
@[simp] theorem State.result_signals (s : State) (c t r : Nat) (v : Word) (lat len : Nat) : (s.result c t r v lat len).signals = s.signals := rfl
@[simp] theorem State.result_walkQ (s : State) (c t r : Nat) (v : Word) (lat len : Nat) : (s.result c t r v lat len).walkQ = s.walkQ := rfl
@[simp] theorem State.result_walkStore (s : State) (c t r : Nat) (v : Word) (lat len : Nat) : (s.result c t r v lat len).walkStore = s.walkStore := rfl
@[simp] theorem State.result_memerr (s : State) (c t r : Nat) (v : Word) (lat len : Nat) : (s.result c t r v lat len).memerr = s.memerr := rfl
@[simp] theorem State.result_hslots (s : State) (c t r : Nat) (v : Word) (lat len : Nat) : (s.result c t r v lat len).hslots = s.hslots := rfl
@[simp] theorem State.result_hblocks (s : State) (c t r : Nat) (v : Word) (lat len : Nat) : (s.result c t r v lat len).hblocks = s.hblocks := rfl
@[simp] theorem State.result_trk (s : State) (c t r : Nat) (v : Word) (lat len : Nat) : (s.result c t r v lat len).trk = s.trk := rfl
@[simp] theorem State.result_nmus (s : State) (c t r : Nat) (v : Word) (lat len : Nat) : (s.result c t r v lat len).nmus = s.nmus := rfl
@[simp] theorem State.result_aborted (s : State) (c t r : Nat) (v : Word) (lat len : Nat) : (s.result c t r v lat len).aborted = s.aborted := rfl
@[simp] theorem State.result_groups (s : State) (c t r : Nat) (v : Word) (lat len : Nat) : (s.result c t r v lat len).groups = s.groups := rfl
@[simp] theorem State.result_fabstat (s : State) (c t r : Nat) (v : Word) (lat len : Nat) : (s.result c t r v lat len).fabstat = s.fabstat := rfl
@[simp] theorem State.result_partials (s : State) (c t r : Nat) (v : Word) (lat len : Nat) : (s.result c t r v lat len).partials = s.partials := rfl
@[simp] theorem State.result_stripes (s : State) (c t r : Nat) (v : Word) (lat len : Nat) : (s.result c t r v lat len).stripes = s.stripes := rfl
@[simp] theorem State.result_walks (s : State) (c t r : Nat) (v : Word) (lat len : Nat) : (s.result c t r v lat len).walks = s.walks := rfl
@[simp] theorem State.result_twstat (s : State) (c t r : Nat) (v : Word) (lat len : Nat) : (s.result c t r v lat len).twstat = s.twstat := rfl
@[simp] theorem State.result_nets (s : State) (c t r : Nat) (v : Word) (lat len : Nat) : (s.result c t r v lat len).nets = s.nets := rfl
@[simp] theorem State.result_smps (s : State) (c t r : Nat) (v : Word) (lat len : Nat) : (s.result c t r v lat len).smps = s.smps := rfl
@[simp] theorem State.result_pkgs (s : State) (c t r : Nat) (v : Word) (lat len : Nat) : (s.result c t r v lat len).pkgs = s.pkgs := rfl
@[simp] theorem State.result_dieServ (s : State) (c t r : Nat) (v : Word) (lat len : Nat) : (s.result c t r v lat len).dieServ = s.dieServ := rfl
@[simp] theorem State.result_lost (s : State) (c t r : Nat) (v : Word) (lat len : Nat) : (s.result c t r v lat len).lost = s.lost := rfl
@[simp] theorem State.result_flow (s : State) (c t r : Nat) (v : Word) (lat len : Nat) : (s.result c t r v lat len).flow = s.flow := rfl
@[simp] theorem State.result_flowThrottle (s : State) (c t r : Nat) (v : Word) (lat len : Nat) : (s.result c t r v lat len).flowThrottle = s.flowThrottle := rfl
@[simp] theorem State.result_flowSince (s : State) (c t r : Nat) (v : Word) (lat len : Nat) : (s.result c t r v lat len).flowSince = s.flowSince := rfl
@[simp] theorem State.result_edge (s : State) (c t r : Nat) (v : Word) (lat len : Nat) : (s.result c t r v lat len).edge = s.edge := rfl
@[simp] theorem State.result_strong (s : State) (c t r : Nat) (v : Word) (lat len : Nat) : (s.result c t r v lat len).strong = s.strong := rfl
@[simp] theorem State.result_turns (s : State) (c t r : Nat) (v : Word) (lat len : Nat) : (s.result c t r v lat len).turns = s.turns := rfl
@[simp] theorem State.result_turnCtr (s : State) (c t r : Nat) (v : Word) (lat len : Nat) : (s.result c t r v lat len).turnCtr = s.turnCtr := rfl
@[simp] theorem State.result_cur (s : State) (c t r : Nat) (v : Word) (lat len : Nat) : (s.result c t r v lat len).cur = s.cur := rfl
@[simp] theorem State.result_freeCtr (s : State) (c t r : Nat) (v : Word) (lat len : Nat) : (s.result c t r v lat len).freeCtr = s.freeCtr := rfl
@[simp] theorem State.result_nextId (s : State) (c t r : Nat) (v : Word) (lat len : Nat) : (s.result c t r v lat len).nextId = s.nextId := rfl

@[simp] theorem State.goOn_time (s : State) (c t len : Nat) : (s.goOn c t len).time = s.time := rfl
@[simp] theorem State.goOn_disps (s : State) (c t len : Nat) : (s.goOn c t len).disps = s.disps := rfl
@[simp] theorem State.goOn_weaves (s : State) (c t len : Nat) : (s.goOn c t len).weaves = s.weaves := rfl
@[simp] theorem State.goOn_runs (s : State) (c t len : Nat) : (s.goOn c t len).runs = s.runs := rfl
@[simp] theorem State.goOn_barriers (s : State) (c t len : Nat) : (s.goOn c t len).barriers = s.barriers := rfl
@[simp] theorem State.goOn_banks (s : State) (c t len : Nat) : (s.goOn c t len).banks = s.banks := rfl
@[simp] theorem State.goOn_homes (s : State) (c t len : Nat) : (s.goOn c t len).homes = s.homes := rfl
@[simp] theorem State.goOn_tracked (s : State) (c t len : Nat) : (s.goOn c t len).tracked = s.tracked := rfl
@[simp] theorem State.goOn_windows (s : State) (c t len : Nat) : (s.goOn c t len).windows = s.windows := rfl
@[simp] theorem State.goOn_logs (s : State) (c t len : Nat) : (s.goOn c t len).logs = s.logs := rfl
@[simp] theorem State.goOn_misses (s : State) (c t len : Nat) : (s.goOn c t len).misses = s.misses := rfl
@[simp] theorem State.goOn_signals (s : State) (c t len : Nat) : (s.goOn c t len).signals = s.signals := rfl
@[simp] theorem State.goOn_walkQ (s : State) (c t len : Nat) : (s.goOn c t len).walkQ = s.walkQ := rfl
@[simp] theorem State.goOn_walkStore (s : State) (c t len : Nat) : (s.goOn c t len).walkStore = s.walkStore := rfl
@[simp] theorem State.goOn_memerr (s : State) (c t len : Nat) : (s.goOn c t len).memerr = s.memerr := rfl
@[simp] theorem State.goOn_hslots (s : State) (c t len : Nat) : (s.goOn c t len).hslots = s.hslots := rfl
@[simp] theorem State.goOn_hblocks (s : State) (c t len : Nat) : (s.goOn c t len).hblocks = s.hblocks := rfl
@[simp] theorem State.goOn_trk (s : State) (c t len : Nat) : (s.goOn c t len).trk = s.trk := rfl
@[simp] theorem State.goOn_nmus (s : State) (c t len : Nat) : (s.goOn c t len).nmus = s.nmus := rfl
@[simp] theorem State.goOn_aborted (s : State) (c t len : Nat) : (s.goOn c t len).aborted = s.aborted := rfl
@[simp] theorem State.goOn_groups (s : State) (c t len : Nat) : (s.goOn c t len).groups = s.groups := rfl
@[simp] theorem State.goOn_fabstat (s : State) (c t len : Nat) : (s.goOn c t len).fabstat = s.fabstat := rfl
@[simp] theorem State.goOn_partials (s : State) (c t len : Nat) : (s.goOn c t len).partials = s.partials := rfl
@[simp] theorem State.goOn_stripes (s : State) (c t len : Nat) : (s.goOn c t len).stripes = s.stripes := rfl
@[simp] theorem State.goOn_walks (s : State) (c t len : Nat) : (s.goOn c t len).walks = s.walks := rfl
@[simp] theorem State.goOn_twstat (s : State) (c t len : Nat) : (s.goOn c t len).twstat = s.twstat := rfl
@[simp] theorem State.goOn_nets (s : State) (c t len : Nat) : (s.goOn c t len).nets = s.nets := rfl
@[simp] theorem State.goOn_smps (s : State) (c t len : Nat) : (s.goOn c t len).smps = s.smps := rfl
@[simp] theorem State.goOn_pkgs (s : State) (c t len : Nat) : (s.goOn c t len).pkgs = s.pkgs := rfl
@[simp] theorem State.goOn_dieServ (s : State) (c t len : Nat) : (s.goOn c t len).dieServ = s.dieServ := rfl
@[simp] theorem State.goOn_lost (s : State) (c t len : Nat) : (s.goOn c t len).lost = s.lost := rfl
@[simp] theorem State.goOn_flow (s : State) (c t len : Nat) : (s.goOn c t len).flow = s.flow := rfl
@[simp] theorem State.goOn_flowThrottle (s : State) (c t len : Nat) : (s.goOn c t len).flowThrottle = s.flowThrottle := rfl
@[simp] theorem State.goOn_flowSince (s : State) (c t len : Nat) : (s.goOn c t len).flowSince = s.flowSince := rfl
@[simp] theorem State.goOn_edge (s : State) (c t len : Nat) : (s.goOn c t len).edge = s.edge := rfl
@[simp] theorem State.goOn_strong (s : State) (c t len : Nat) : (s.goOn c t len).strong = s.strong := rfl
@[simp] theorem State.goOn_turns (s : State) (c t len : Nat) : (s.goOn c t len).turns = s.turns := rfl
@[simp] theorem State.goOn_turnCtr (s : State) (c t len : Nat) : (s.goOn c t len).turnCtr = s.turnCtr := rfl
@[simp] theorem State.goOn_cur (s : State) (c t len : Nat) : (s.goOn c t len).cur = s.cur := rfl
@[simp] theorem State.goOn_freeCtr (s : State) (c t len : Nat) : (s.goOn c t len).freeCtr = s.freeCtr := rfl
@[simp] theorem State.goOn_nextId (s : State) (c t len : Nat) : (s.goOn c t len).nextId = s.nextId := rfl

@[simp] theorem State.jumpTo_time (s : State) (c t : Nat) (target : Word) : (s.jumpTo c t target).time = s.time := rfl
@[simp] theorem State.jumpTo_disps (s : State) (c t : Nat) (target : Word) : (s.jumpTo c t target).disps = s.disps := rfl
@[simp] theorem State.jumpTo_weaves (s : State) (c t : Nat) (target : Word) : (s.jumpTo c t target).weaves = s.weaves := rfl
@[simp] theorem State.jumpTo_runs (s : State) (c t : Nat) (target : Word) : (s.jumpTo c t target).runs = s.runs := rfl
@[simp] theorem State.jumpTo_barriers (s : State) (c t : Nat) (target : Word) : (s.jumpTo c t target).barriers = s.barriers := rfl
@[simp] theorem State.jumpTo_banks (s : State) (c t : Nat) (target : Word) : (s.jumpTo c t target).banks = s.banks := rfl
@[simp] theorem State.jumpTo_homes (s : State) (c t : Nat) (target : Word) : (s.jumpTo c t target).homes = s.homes := rfl
@[simp] theorem State.jumpTo_tracked (s : State) (c t : Nat) (target : Word) : (s.jumpTo c t target).tracked = s.tracked := rfl
@[simp] theorem State.jumpTo_windows (s : State) (c t : Nat) (target : Word) : (s.jumpTo c t target).windows = s.windows := rfl
@[simp] theorem State.jumpTo_logs (s : State) (c t : Nat) (target : Word) : (s.jumpTo c t target).logs = s.logs := rfl
@[simp] theorem State.jumpTo_misses (s : State) (c t : Nat) (target : Word) : (s.jumpTo c t target).misses = s.misses := rfl
@[simp] theorem State.jumpTo_signals (s : State) (c t : Nat) (target : Word) : (s.jumpTo c t target).signals = s.signals := rfl
@[simp] theorem State.jumpTo_walkQ (s : State) (c t : Nat) (target : Word) : (s.jumpTo c t target).walkQ = s.walkQ := rfl
@[simp] theorem State.jumpTo_walkStore (s : State) (c t : Nat) (target : Word) : (s.jumpTo c t target).walkStore = s.walkStore := rfl
@[simp] theorem State.jumpTo_memerr (s : State) (c t : Nat) (target : Word) : (s.jumpTo c t target).memerr = s.memerr := rfl
@[simp] theorem State.jumpTo_hslots (s : State) (c t : Nat) (target : Word) : (s.jumpTo c t target).hslots = s.hslots := rfl
@[simp] theorem State.jumpTo_hblocks (s : State) (c t : Nat) (target : Word) : (s.jumpTo c t target).hblocks = s.hblocks := rfl
@[simp] theorem State.jumpTo_trk (s : State) (c t : Nat) (target : Word) : (s.jumpTo c t target).trk = s.trk := rfl
@[simp] theorem State.jumpTo_nmus (s : State) (c t : Nat) (target : Word) : (s.jumpTo c t target).nmus = s.nmus := rfl
@[simp] theorem State.jumpTo_aborted (s : State) (c t : Nat) (target : Word) : (s.jumpTo c t target).aborted = s.aborted := rfl
@[simp] theorem State.jumpTo_groups (s : State) (c t : Nat) (target : Word) : (s.jumpTo c t target).groups = s.groups := rfl
@[simp] theorem State.jumpTo_fabstat (s : State) (c t : Nat) (target : Word) : (s.jumpTo c t target).fabstat = s.fabstat := rfl
@[simp] theorem State.jumpTo_partials (s : State) (c t : Nat) (target : Word) : (s.jumpTo c t target).partials = s.partials := rfl
@[simp] theorem State.jumpTo_stripes (s : State) (c t : Nat) (target : Word) : (s.jumpTo c t target).stripes = s.stripes := rfl
@[simp] theorem State.jumpTo_walks (s : State) (c t : Nat) (target : Word) : (s.jumpTo c t target).walks = s.walks := rfl
@[simp] theorem State.jumpTo_twstat (s : State) (c t : Nat) (target : Word) : (s.jumpTo c t target).twstat = s.twstat := rfl
@[simp] theorem State.jumpTo_nets (s : State) (c t : Nat) (target : Word) : (s.jumpTo c t target).nets = s.nets := rfl
@[simp] theorem State.jumpTo_smps (s : State) (c t : Nat) (target : Word) : (s.jumpTo c t target).smps = s.smps := rfl
@[simp] theorem State.jumpTo_pkgs (s : State) (c t : Nat) (target : Word) : (s.jumpTo c t target).pkgs = s.pkgs := rfl
@[simp] theorem State.jumpTo_dieServ (s : State) (c t : Nat) (target : Word) : (s.jumpTo c t target).dieServ = s.dieServ := rfl
@[simp] theorem State.jumpTo_lost (s : State) (c t : Nat) (target : Word) : (s.jumpTo c t target).lost = s.lost := rfl
@[simp] theorem State.jumpTo_flow (s : State) (c t : Nat) (target : Word) : (s.jumpTo c t target).flow = s.flow := rfl
@[simp] theorem State.jumpTo_flowThrottle (s : State) (c t : Nat) (target : Word) : (s.jumpTo c t target).flowThrottle = s.flowThrottle := rfl
@[simp] theorem State.jumpTo_flowSince (s : State) (c t : Nat) (target : Word) : (s.jumpTo c t target).flowSince = s.flowSince := rfl
@[simp] theorem State.jumpTo_edge (s : State) (c t : Nat) (target : Word) : (s.jumpTo c t target).edge = s.edge := rfl
@[simp] theorem State.jumpTo_strong (s : State) (c t : Nat) (target : Word) : (s.jumpTo c t target).strong = s.strong := rfl
@[simp] theorem State.jumpTo_turns (s : State) (c t : Nat) (target : Word) : (s.jumpTo c t target).turns = s.turns := rfl
@[simp] theorem State.jumpTo_turnCtr (s : State) (c t : Nat) (target : Word) : (s.jumpTo c t target).turnCtr = s.turnCtr := rfl
@[simp] theorem State.jumpTo_cur (s : State) (c t : Nat) (target : Word) : (s.jumpTo c t target).cur = s.cur := rfl
@[simp] theorem State.jumpTo_freeCtr (s : State) (c t : Nat) (target : Word) : (s.jumpTo c t target).freeCtr = s.freeCtr := rfl
@[simp] theorem State.jumpTo_nextId (s : State) (c t : Nat) (target : Word) : (s.jumpTo c t target).nextId = s.nextId := rfl

@[simp] theorem State.park_time (s : State) (c t : Nat) (w : WaitFor) (i : Instr) (len : Nat) : (s.park c t w i len).time = s.time := rfl
@[simp] theorem State.park_disps (s : State) (c t : Nat) (w : WaitFor) (i : Instr) (len : Nat) : (s.park c t w i len).disps = s.disps := rfl
@[simp] theorem State.park_weaves (s : State) (c t : Nat) (w : WaitFor) (i : Instr) (len : Nat) : (s.park c t w i len).weaves = s.weaves := rfl
@[simp] theorem State.park_runs (s : State) (c t : Nat) (w : WaitFor) (i : Instr) (len : Nat) : (s.park c t w i len).runs = s.runs := rfl
@[simp] theorem State.park_barriers (s : State) (c t : Nat) (w : WaitFor) (i : Instr) (len : Nat) : (s.park c t w i len).barriers = s.barriers := rfl
@[simp] theorem State.park_banks (s : State) (c t : Nat) (w : WaitFor) (i : Instr) (len : Nat) : (s.park c t w i len).banks = s.banks := rfl
@[simp] theorem State.park_homes (s : State) (c t : Nat) (w : WaitFor) (i : Instr) (len : Nat) : (s.park c t w i len).homes = s.homes := rfl
@[simp] theorem State.park_tracked (s : State) (c t : Nat) (w : WaitFor) (i : Instr) (len : Nat) : (s.park c t w i len).tracked = s.tracked := rfl
@[simp] theorem State.park_windows (s : State) (c t : Nat) (w : WaitFor) (i : Instr) (len : Nat) : (s.park c t w i len).windows = s.windows := rfl
@[simp] theorem State.park_logs (s : State) (c t : Nat) (w : WaitFor) (i : Instr) (len : Nat) : (s.park c t w i len).logs = s.logs := rfl
@[simp] theorem State.park_misses (s : State) (c t : Nat) (w : WaitFor) (i : Instr) (len : Nat) : (s.park c t w i len).misses = s.misses := rfl
@[simp] theorem State.park_signals (s : State) (c t : Nat) (w : WaitFor) (i : Instr) (len : Nat) : (s.park c t w i len).signals = s.signals := rfl
@[simp] theorem State.park_walkQ (s : State) (c t : Nat) (w : WaitFor) (i : Instr) (len : Nat) : (s.park c t w i len).walkQ = s.walkQ := rfl
@[simp] theorem State.park_walkStore (s : State) (c t : Nat) (w : WaitFor) (i : Instr) (len : Nat) : (s.park c t w i len).walkStore = s.walkStore := rfl
@[simp] theorem State.park_memerr (s : State) (c t : Nat) (w : WaitFor) (i : Instr) (len : Nat) : (s.park c t w i len).memerr = s.memerr := rfl
@[simp] theorem State.park_hslots (s : State) (c t : Nat) (w : WaitFor) (i : Instr) (len : Nat) : (s.park c t w i len).hslots = s.hslots := rfl
@[simp] theorem State.park_hblocks (s : State) (c t : Nat) (w : WaitFor) (i : Instr) (len : Nat) : (s.park c t w i len).hblocks = s.hblocks := rfl
@[simp] theorem State.park_trk (s : State) (c t : Nat) (w : WaitFor) (i : Instr) (len : Nat) : (s.park c t w i len).trk = s.trk := rfl
@[simp] theorem State.park_nmus (s : State) (c t : Nat) (w : WaitFor) (i : Instr) (len : Nat) : (s.park c t w i len).nmus = s.nmus := rfl
@[simp] theorem State.park_aborted (s : State) (c t : Nat) (w : WaitFor) (i : Instr) (len : Nat) : (s.park c t w i len).aborted = s.aborted := rfl
@[simp] theorem State.park_groups (s : State) (c t : Nat) (w : WaitFor) (i : Instr) (len : Nat) : (s.park c t w i len).groups = s.groups := rfl
@[simp] theorem State.park_fabstat (s : State) (c t : Nat) (w : WaitFor) (i : Instr) (len : Nat) : (s.park c t w i len).fabstat = s.fabstat := rfl
@[simp] theorem State.park_partials (s : State) (c t : Nat) (w : WaitFor) (i : Instr) (len : Nat) : (s.park c t w i len).partials = s.partials := rfl
@[simp] theorem State.park_stripes (s : State) (c t : Nat) (w : WaitFor) (i : Instr) (len : Nat) : (s.park c t w i len).stripes = s.stripes := rfl
@[simp] theorem State.park_walks (s : State) (c t : Nat) (w : WaitFor) (i : Instr) (len : Nat) : (s.park c t w i len).walks = s.walks := rfl
@[simp] theorem State.park_twstat (s : State) (c t : Nat) (w : WaitFor) (i : Instr) (len : Nat) : (s.park c t w i len).twstat = s.twstat := rfl
@[simp] theorem State.park_nets (s : State) (c t : Nat) (w : WaitFor) (i : Instr) (len : Nat) : (s.park c t w i len).nets = s.nets := rfl
@[simp] theorem State.park_smps (s : State) (c t : Nat) (w : WaitFor) (i : Instr) (len : Nat) : (s.park c t w i len).smps = s.smps := rfl
@[simp] theorem State.park_pkgs (s : State) (c t : Nat) (w : WaitFor) (i : Instr) (len : Nat) : (s.park c t w i len).pkgs = s.pkgs := rfl
@[simp] theorem State.park_dieServ (s : State) (c t : Nat) (w : WaitFor) (i : Instr) (len : Nat) : (s.park c t w i len).dieServ = s.dieServ := rfl
@[simp] theorem State.park_lost (s : State) (c t : Nat) (w : WaitFor) (i : Instr) (len : Nat) : (s.park c t w i len).lost = s.lost := rfl
@[simp] theorem State.park_flow (s : State) (c t : Nat) (w : WaitFor) (i : Instr) (len : Nat) : (s.park c t w i len).flow = s.flow := rfl
@[simp] theorem State.park_flowThrottle (s : State) (c t : Nat) (w : WaitFor) (i : Instr) (len : Nat) : (s.park c t w i len).flowThrottle = s.flowThrottle := rfl
@[simp] theorem State.park_flowSince (s : State) (c t : Nat) (w : WaitFor) (i : Instr) (len : Nat) : (s.park c t w i len).flowSince = s.flowSince := rfl
@[simp] theorem State.park_edge (s : State) (c t : Nat) (w : WaitFor) (i : Instr) (len : Nat) : (s.park c t w i len).edge = s.edge := rfl
@[simp] theorem State.park_strong (s : State) (c t : Nat) (w : WaitFor) (i : Instr) (len : Nat) : (s.park c t w i len).strong = s.strong := rfl
@[simp] theorem State.park_turns (s : State) (c t : Nat) (w : WaitFor) (i : Instr) (len : Nat) : (s.park c t w i len).turns = s.turns := rfl
@[simp] theorem State.park_turnCtr (s : State) (c t : Nat) (w : WaitFor) (i : Instr) (len : Nat) : (s.park c t w i len).turnCtr = s.turnCtr := rfl
@[simp] theorem State.park_cur (s : State) (c t : Nat) (w : WaitFor) (i : Instr) (len : Nat) : (s.park c t w i len).cur = s.cur := rfl
@[simp] theorem State.park_freeCtr (s : State) (c t : Nat) (w : WaitFor) (i : Instr) (len : Nat) : (s.park c t w i len).freeCtr = s.freeCtr := rfl
@[simp] theorem State.park_nextId (s : State) (c t : Nat) (w : WaitFor) (i : Instr) (len : Nat) : (s.park c t w i len).nextId = s.nextId := rfl

@[simp] theorem State.wake_time (s : State) (c t : Nat) : (s.wake c t).time = s.time := rfl
@[simp] theorem State.wake_disps (s : State) (c t : Nat) : (s.wake c t).disps = s.disps := rfl
@[simp] theorem State.wake_weaves (s : State) (c t : Nat) : (s.wake c t).weaves = s.weaves := rfl
@[simp] theorem State.wake_runs (s : State) (c t : Nat) : (s.wake c t).runs = s.runs := rfl
@[simp] theorem State.wake_barriers (s : State) (c t : Nat) : (s.wake c t).barriers = s.barriers := rfl
@[simp] theorem State.wake_banks (s : State) (c t : Nat) : (s.wake c t).banks = s.banks := rfl
@[simp] theorem State.wake_homes (s : State) (c t : Nat) : (s.wake c t).homes = s.homes := rfl
@[simp] theorem State.wake_tracked (s : State) (c t : Nat) : (s.wake c t).tracked = s.tracked := rfl
@[simp] theorem State.wake_windows (s : State) (c t : Nat) : (s.wake c t).windows = s.windows := rfl
@[simp] theorem State.wake_logs (s : State) (c t : Nat) : (s.wake c t).logs = s.logs := rfl
@[simp] theorem State.wake_misses (s : State) (c t : Nat) : (s.wake c t).misses = s.misses := rfl
@[simp] theorem State.wake_signals (s : State) (c t : Nat) : (s.wake c t).signals = s.signals := rfl
@[simp] theorem State.wake_walkQ (s : State) (c t : Nat) : (s.wake c t).walkQ = s.walkQ := rfl
@[simp] theorem State.wake_walkStore (s : State) (c t : Nat) : (s.wake c t).walkStore = s.walkStore := rfl
@[simp] theorem State.wake_memerr (s : State) (c t : Nat) : (s.wake c t).memerr = s.memerr := rfl
@[simp] theorem State.wake_hslots (s : State) (c t : Nat) : (s.wake c t).hslots = s.hslots := rfl
@[simp] theorem State.wake_hblocks (s : State) (c t : Nat) : (s.wake c t).hblocks = s.hblocks := rfl
@[simp] theorem State.wake_trk (s : State) (c t : Nat) : (s.wake c t).trk = s.trk := rfl
@[simp] theorem State.wake_nmus (s : State) (c t : Nat) : (s.wake c t).nmus = s.nmus := rfl
@[simp] theorem State.wake_aborted (s : State) (c t : Nat) : (s.wake c t).aborted = s.aborted := rfl
@[simp] theorem State.wake_groups (s : State) (c t : Nat) : (s.wake c t).groups = s.groups := rfl
@[simp] theorem State.wake_fabstat (s : State) (c t : Nat) : (s.wake c t).fabstat = s.fabstat := rfl
@[simp] theorem State.wake_partials (s : State) (c t : Nat) : (s.wake c t).partials = s.partials := rfl
@[simp] theorem State.wake_stripes (s : State) (c t : Nat) : (s.wake c t).stripes = s.stripes := rfl
@[simp] theorem State.wake_walks (s : State) (c t : Nat) : (s.wake c t).walks = s.walks := rfl
@[simp] theorem State.wake_twstat (s : State) (c t : Nat) : (s.wake c t).twstat = s.twstat := rfl
@[simp] theorem State.wake_nets (s : State) (c t : Nat) : (s.wake c t).nets = s.nets := rfl
@[simp] theorem State.wake_smps (s : State) (c t : Nat) : (s.wake c t).smps = s.smps := rfl
@[simp] theorem State.wake_pkgs (s : State) (c t : Nat) : (s.wake c t).pkgs = s.pkgs := rfl
@[simp] theorem State.wake_dieServ (s : State) (c t : Nat) : (s.wake c t).dieServ = s.dieServ := rfl
@[simp] theorem State.wake_lost (s : State) (c t : Nat) : (s.wake c t).lost = s.lost := rfl
@[simp] theorem State.wake_flow (s : State) (c t : Nat) : (s.wake c t).flow = s.flow := rfl
@[simp] theorem State.wake_flowThrottle (s : State) (c t : Nat) : (s.wake c t).flowThrottle = s.flowThrottle := rfl
@[simp] theorem State.wake_flowSince (s : State) (c t : Nat) : (s.wake c t).flowSince = s.flowSince := rfl
@[simp] theorem State.wake_edge (s : State) (c t : Nat) : (s.wake c t).edge = s.edge := rfl
@[simp] theorem State.wake_strong (s : State) (c t : Nat) : (s.wake c t).strong = s.strong := rfl
@[simp] theorem State.wake_turns (s : State) (c t : Nat) : (s.wake c t).turns = s.turns := rfl
@[simp] theorem State.wake_turnCtr (s : State) (c t : Nat) : (s.wake c t).turnCtr = s.turnCtr := rfl
@[simp] theorem State.wake_cur (s : State) (c t : Nat) : (s.wake c t).cur = s.cur := rfl
@[simp] theorem State.wake_freeCtr (s : State) (c t : Nat) : (s.wake c t).freeCtr = s.freeCtr := rfl
@[simp] theorem State.wake_nextId (s : State) (c t : Nat) : (s.wake c t).nextId = s.nextId := rfl

@[simp] theorem State.wakeWith_time (s : State) (c t r : Nat) (v : Word) : (s.wakeWith c t r v).time = s.time := rfl
@[simp] theorem State.wakeWith_disps (s : State) (c t r : Nat) (v : Word) : (s.wakeWith c t r v).disps = s.disps := rfl
@[simp] theorem State.wakeWith_weaves (s : State) (c t r : Nat) (v : Word) : (s.wakeWith c t r v).weaves = s.weaves := rfl
@[simp] theorem State.wakeWith_runs (s : State) (c t r : Nat) (v : Word) : (s.wakeWith c t r v).runs = s.runs := rfl
@[simp] theorem State.wakeWith_barriers (s : State) (c t r : Nat) (v : Word) : (s.wakeWith c t r v).barriers = s.barriers := rfl
@[simp] theorem State.wakeWith_banks (s : State) (c t r : Nat) (v : Word) : (s.wakeWith c t r v).banks = s.banks := rfl
@[simp] theorem State.wakeWith_homes (s : State) (c t r : Nat) (v : Word) : (s.wakeWith c t r v).homes = s.homes := rfl
@[simp] theorem State.wakeWith_tracked (s : State) (c t r : Nat) (v : Word) : (s.wakeWith c t r v).tracked = s.tracked := rfl
@[simp] theorem State.wakeWith_windows (s : State) (c t r : Nat) (v : Word) : (s.wakeWith c t r v).windows = s.windows := rfl
@[simp] theorem State.wakeWith_logs (s : State) (c t r : Nat) (v : Word) : (s.wakeWith c t r v).logs = s.logs := rfl
@[simp] theorem State.wakeWith_misses (s : State) (c t r : Nat) (v : Word) : (s.wakeWith c t r v).misses = s.misses := rfl
@[simp] theorem State.wakeWith_signals (s : State) (c t r : Nat) (v : Word) : (s.wakeWith c t r v).signals = s.signals := rfl
@[simp] theorem State.wakeWith_walkQ (s : State) (c t r : Nat) (v : Word) : (s.wakeWith c t r v).walkQ = s.walkQ := rfl
@[simp] theorem State.wakeWith_walkStore (s : State) (c t r : Nat) (v : Word) : (s.wakeWith c t r v).walkStore = s.walkStore := rfl
@[simp] theorem State.wakeWith_memerr (s : State) (c t r : Nat) (v : Word) : (s.wakeWith c t r v).memerr = s.memerr := rfl
@[simp] theorem State.wakeWith_hslots (s : State) (c t r : Nat) (v : Word) : (s.wakeWith c t r v).hslots = s.hslots := rfl
@[simp] theorem State.wakeWith_hblocks (s : State) (c t r : Nat) (v : Word) : (s.wakeWith c t r v).hblocks = s.hblocks := rfl
@[simp] theorem State.wakeWith_trk (s : State) (c t r : Nat) (v : Word) : (s.wakeWith c t r v).trk = s.trk := rfl
@[simp] theorem State.wakeWith_nmus (s : State) (c t r : Nat) (v : Word) : (s.wakeWith c t r v).nmus = s.nmus := rfl
@[simp] theorem State.wakeWith_aborted (s : State) (c t r : Nat) (v : Word) : (s.wakeWith c t r v).aborted = s.aborted := rfl
@[simp] theorem State.wakeWith_groups (s : State) (c t r : Nat) (v : Word) : (s.wakeWith c t r v).groups = s.groups := rfl
@[simp] theorem State.wakeWith_fabstat (s : State) (c t r : Nat) (v : Word) : (s.wakeWith c t r v).fabstat = s.fabstat := rfl
@[simp] theorem State.wakeWith_partials (s : State) (c t r : Nat) (v : Word) : (s.wakeWith c t r v).partials = s.partials := rfl
@[simp] theorem State.wakeWith_stripes (s : State) (c t r : Nat) (v : Word) : (s.wakeWith c t r v).stripes = s.stripes := rfl
@[simp] theorem State.wakeWith_walks (s : State) (c t r : Nat) (v : Word) : (s.wakeWith c t r v).walks = s.walks := rfl
@[simp] theorem State.wakeWith_twstat (s : State) (c t r : Nat) (v : Word) : (s.wakeWith c t r v).twstat = s.twstat := rfl
@[simp] theorem State.wakeWith_nets (s : State) (c t r : Nat) (v : Word) : (s.wakeWith c t r v).nets = s.nets := rfl
@[simp] theorem State.wakeWith_smps (s : State) (c t r : Nat) (v : Word) : (s.wakeWith c t r v).smps = s.smps := rfl
@[simp] theorem State.wakeWith_pkgs (s : State) (c t r : Nat) (v : Word) : (s.wakeWith c t r v).pkgs = s.pkgs := rfl
@[simp] theorem State.wakeWith_dieServ (s : State) (c t r : Nat) (v : Word) : (s.wakeWith c t r v).dieServ = s.dieServ := rfl
@[simp] theorem State.wakeWith_lost (s : State) (c t r : Nat) (v : Word) : (s.wakeWith c t r v).lost = s.lost := rfl
@[simp] theorem State.wakeWith_flow (s : State) (c t r : Nat) (v : Word) : (s.wakeWith c t r v).flow = s.flow := rfl
@[simp] theorem State.wakeWith_flowThrottle (s : State) (c t r : Nat) (v : Word) : (s.wakeWith c t r v).flowThrottle = s.flowThrottle := rfl
@[simp] theorem State.wakeWith_flowSince (s : State) (c t r : Nat) (v : Word) : (s.wakeWith c t r v).flowSince = s.flowSince := rfl
@[simp] theorem State.wakeWith_edge (s : State) (c t r : Nat) (v : Word) : (s.wakeWith c t r v).edge = s.edge := rfl
@[simp] theorem State.wakeWith_strong (s : State) (c t r : Nat) (v : Word) : (s.wakeWith c t r v).strong = s.strong := rfl
@[simp] theorem State.wakeWith_turns (s : State) (c t r : Nat) (v : Word) : (s.wakeWith c t r v).turns = s.turns := rfl
@[simp] theorem State.wakeWith_turnCtr (s : State) (c t r : Nat) (v : Word) : (s.wakeWith c t r v).turnCtr = s.turnCtr := rfl
@[simp] theorem State.wakeWith_cur (s : State) (c t r : Nat) (v : Word) : (s.wakeWith c t r v).cur = s.cur := rfl
@[simp] theorem State.wakeWith_freeCtr (s : State) (c t r : Nat) (v : Word) : (s.wakeWith c t r v).freeCtr = s.freeCtr := rfl
@[simp] theorem State.wakeWith_nextId (s : State) (c t r : Nat) (v : Word) : (s.wakeWith c t r v).nextId = s.nextId := rfl

@[simp] theorem State.modWait_time (s : State) (c t : Nat) (f : Wait → Wait) : (s.modWait c t f).time = s.time := rfl
@[simp] theorem State.modWait_disps (s : State) (c t : Nat) (f : Wait → Wait) : (s.modWait c t f).disps = s.disps := rfl
@[simp] theorem State.modWait_weaves (s : State) (c t : Nat) (f : Wait → Wait) : (s.modWait c t f).weaves = s.weaves := rfl
@[simp] theorem State.modWait_runs (s : State) (c t : Nat) (f : Wait → Wait) : (s.modWait c t f).runs = s.runs := rfl
@[simp] theorem State.modWait_barriers (s : State) (c t : Nat) (f : Wait → Wait) : (s.modWait c t f).barriers = s.barriers := rfl
@[simp] theorem State.modWait_banks (s : State) (c t : Nat) (f : Wait → Wait) : (s.modWait c t f).banks = s.banks := rfl
@[simp] theorem State.modWait_homes (s : State) (c t : Nat) (f : Wait → Wait) : (s.modWait c t f).homes = s.homes := rfl
@[simp] theorem State.modWait_tracked (s : State) (c t : Nat) (f : Wait → Wait) : (s.modWait c t f).tracked = s.tracked := rfl
@[simp] theorem State.modWait_windows (s : State) (c t : Nat) (f : Wait → Wait) : (s.modWait c t f).windows = s.windows := rfl
@[simp] theorem State.modWait_logs (s : State) (c t : Nat) (f : Wait → Wait) : (s.modWait c t f).logs = s.logs := rfl
@[simp] theorem State.modWait_misses (s : State) (c t : Nat) (f : Wait → Wait) : (s.modWait c t f).misses = s.misses := rfl
@[simp] theorem State.modWait_signals (s : State) (c t : Nat) (f : Wait → Wait) : (s.modWait c t f).signals = s.signals := rfl
@[simp] theorem State.modWait_walkQ (s : State) (c t : Nat) (f : Wait → Wait) : (s.modWait c t f).walkQ = s.walkQ := rfl
@[simp] theorem State.modWait_walkStore (s : State) (c t : Nat) (f : Wait → Wait) : (s.modWait c t f).walkStore = s.walkStore := rfl
@[simp] theorem State.modWait_memerr (s : State) (c t : Nat) (f : Wait → Wait) : (s.modWait c t f).memerr = s.memerr := rfl
@[simp] theorem State.modWait_hslots (s : State) (c t : Nat) (f : Wait → Wait) : (s.modWait c t f).hslots = s.hslots := rfl
@[simp] theorem State.modWait_hblocks (s : State) (c t : Nat) (f : Wait → Wait) : (s.modWait c t f).hblocks = s.hblocks := rfl
@[simp] theorem State.modWait_trk (s : State) (c t : Nat) (f : Wait → Wait) : (s.modWait c t f).trk = s.trk := rfl
@[simp] theorem State.modWait_nmus (s : State) (c t : Nat) (f : Wait → Wait) : (s.modWait c t f).nmus = s.nmus := rfl
@[simp] theorem State.modWait_aborted (s : State) (c t : Nat) (f : Wait → Wait) : (s.modWait c t f).aborted = s.aborted := rfl
@[simp] theorem State.modWait_groups (s : State) (c t : Nat) (f : Wait → Wait) : (s.modWait c t f).groups = s.groups := rfl
@[simp] theorem State.modWait_fabstat (s : State) (c t : Nat) (f : Wait → Wait) : (s.modWait c t f).fabstat = s.fabstat := rfl
@[simp] theorem State.modWait_partials (s : State) (c t : Nat) (f : Wait → Wait) : (s.modWait c t f).partials = s.partials := rfl
@[simp] theorem State.modWait_stripes (s : State) (c t : Nat) (f : Wait → Wait) : (s.modWait c t f).stripes = s.stripes := rfl
@[simp] theorem State.modWait_walks (s : State) (c t : Nat) (f : Wait → Wait) : (s.modWait c t f).walks = s.walks := rfl
@[simp] theorem State.modWait_twstat (s : State) (c t : Nat) (f : Wait → Wait) : (s.modWait c t f).twstat = s.twstat := rfl
@[simp] theorem State.modWait_nets (s : State) (c t : Nat) (f : Wait → Wait) : (s.modWait c t f).nets = s.nets := rfl
@[simp] theorem State.modWait_smps (s : State) (c t : Nat) (f : Wait → Wait) : (s.modWait c t f).smps = s.smps := rfl
@[simp] theorem State.modWait_pkgs (s : State) (c t : Nat) (f : Wait → Wait) : (s.modWait c t f).pkgs = s.pkgs := rfl
@[simp] theorem State.modWait_dieServ (s : State) (c t : Nat) (f : Wait → Wait) : (s.modWait c t f).dieServ = s.dieServ := rfl
@[simp] theorem State.modWait_lost (s : State) (c t : Nat) (f : Wait → Wait) : (s.modWait c t f).lost = s.lost := rfl
@[simp] theorem State.modWait_flow (s : State) (c t : Nat) (f : Wait → Wait) : (s.modWait c t f).flow = s.flow := rfl
@[simp] theorem State.modWait_flowThrottle (s : State) (c t : Nat) (f : Wait → Wait) : (s.modWait c t f).flowThrottle = s.flowThrottle := rfl
@[simp] theorem State.modWait_flowSince (s : State) (c t : Nat) (f : Wait → Wait) : (s.modWait c t f).flowSince = s.flowSince := rfl
@[simp] theorem State.modWait_edge (s : State) (c t : Nat) (f : Wait → Wait) : (s.modWait c t f).edge = s.edge := rfl
@[simp] theorem State.modWait_strong (s : State) (c t : Nat) (f : Wait → Wait) : (s.modWait c t f).strong = s.strong := rfl
@[simp] theorem State.modWait_turns (s : State) (c t : Nat) (f : Wait → Wait) : (s.modWait c t f).turns = s.turns := rfl
@[simp] theorem State.modWait_turnCtr (s : State) (c t : Nat) (f : Wait → Wait) : (s.modWait c t f).turnCtr = s.turnCtr := rfl
@[simp] theorem State.modWait_cur (s : State) (c t : Nat) (f : Wait → Wait) : (s.modWait c t f).cur = s.cur := rfl
@[simp] theorem State.modWait_freeCtr (s : State) (c t : Nat) (f : Wait → Wait) : (s.modWait c t f).freeCtr = s.freeCtr := rfl
@[simp] theorem State.modWait_nextId (s : State) (c t : Nat) (f : Wait → Wait) : (s.modWait c t f).nextId = s.nextId := rfl

@[simp] theorem State.note_time (s : State) (c : Nat) (r : NumRes) : (s.note c r).time = s.time := rfl
@[simp] theorem State.note_disps (s : State) (c : Nat) (r : NumRes) : (s.note c r).disps = s.disps := rfl
@[simp] theorem State.note_weaves (s : State) (c : Nat) (r : NumRes) : (s.note c r).weaves = s.weaves := rfl
@[simp] theorem State.note_runs (s : State) (c : Nat) (r : NumRes) : (s.note c r).runs = s.runs := rfl
@[simp] theorem State.note_barriers (s : State) (c : Nat) (r : NumRes) : (s.note c r).barriers = s.barriers := rfl
@[simp] theorem State.note_banks (s : State) (c : Nat) (r : NumRes) : (s.note c r).banks = s.banks := rfl
@[simp] theorem State.note_homes (s : State) (c : Nat) (r : NumRes) : (s.note c r).homes = s.homes := rfl
@[simp] theorem State.note_tracked (s : State) (c : Nat) (r : NumRes) : (s.note c r).tracked = s.tracked := rfl
@[simp] theorem State.note_windows (s : State) (c : Nat) (r : NumRes) : (s.note c r).windows = s.windows := rfl
@[simp] theorem State.note_logs (s : State) (c : Nat) (r : NumRes) : (s.note c r).logs = s.logs := rfl
@[simp] theorem State.note_misses (s : State) (c : Nat) (r : NumRes) : (s.note c r).misses = s.misses := rfl
@[simp] theorem State.note_signals (s : State) (c : Nat) (r : NumRes) : (s.note c r).signals = s.signals := rfl
@[simp] theorem State.note_walkQ (s : State) (c : Nat) (r : NumRes) : (s.note c r).walkQ = s.walkQ := rfl
@[simp] theorem State.note_walkStore (s : State) (c : Nat) (r : NumRes) : (s.note c r).walkStore = s.walkStore := rfl
@[simp] theorem State.note_memerr (s : State) (c : Nat) (r : NumRes) : (s.note c r).memerr = s.memerr := rfl
@[simp] theorem State.note_hslots (s : State) (c : Nat) (r : NumRes) : (s.note c r).hslots = s.hslots := rfl
@[simp] theorem State.note_hblocks (s : State) (c : Nat) (r : NumRes) : (s.note c r).hblocks = s.hblocks := rfl
@[simp] theorem State.note_trk (s : State) (c : Nat) (r : NumRes) : (s.note c r).trk = s.trk := rfl
@[simp] theorem State.note_nmus (s : State) (c : Nat) (r : NumRes) : (s.note c r).nmus = s.nmus := rfl
@[simp] theorem State.note_aborted (s : State) (c : Nat) (r : NumRes) : (s.note c r).aborted = s.aborted := rfl
@[simp] theorem State.note_groups (s : State) (c : Nat) (r : NumRes) : (s.note c r).groups = s.groups := rfl
@[simp] theorem State.note_fabstat (s : State) (c : Nat) (r : NumRes) : (s.note c r).fabstat = s.fabstat := rfl
@[simp] theorem State.note_partials (s : State) (c : Nat) (r : NumRes) : (s.note c r).partials = s.partials := rfl
@[simp] theorem State.note_stripes (s : State) (c : Nat) (r : NumRes) : (s.note c r).stripes = s.stripes := rfl
@[simp] theorem State.note_walks (s : State) (c : Nat) (r : NumRes) : (s.note c r).walks = s.walks := rfl
@[simp] theorem State.note_twstat (s : State) (c : Nat) (r : NumRes) : (s.note c r).twstat = s.twstat := rfl
@[simp] theorem State.note_nets (s : State) (c : Nat) (r : NumRes) : (s.note c r).nets = s.nets := rfl
@[simp] theorem State.note_smps (s : State) (c : Nat) (r : NumRes) : (s.note c r).smps = s.smps := rfl
@[simp] theorem State.note_pkgs (s : State) (c : Nat) (r : NumRes) : (s.note c r).pkgs = s.pkgs := rfl
@[simp] theorem State.note_dieServ (s : State) (c : Nat) (r : NumRes) : (s.note c r).dieServ = s.dieServ := rfl
@[simp] theorem State.note_lost (s : State) (c : Nat) (r : NumRes) : (s.note c r).lost = s.lost := rfl
@[simp] theorem State.note_flow (s : State) (c : Nat) (r : NumRes) : (s.note c r).flow = s.flow := rfl
@[simp] theorem State.note_flowThrottle (s : State) (c : Nat) (r : NumRes) : (s.note c r).flowThrottle = s.flowThrottle := rfl
@[simp] theorem State.note_flowSince (s : State) (c : Nat) (r : NumRes) : (s.note c r).flowSince = s.flowSince := rfl
@[simp] theorem State.note_edge (s : State) (c : Nat) (r : NumRes) : (s.note c r).edge = s.edge := rfl
@[simp] theorem State.note_strong (s : State) (c : Nat) (r : NumRes) : (s.note c r).strong = s.strong := rfl
@[simp] theorem State.note_turns (s : State) (c : Nat) (r : NumRes) : (s.note c r).turns = s.turns := rfl
@[simp] theorem State.note_turnCtr (s : State) (c : Nat) (r : NumRes) : (s.note c r).turnCtr = s.turnCtr := rfl
@[simp] theorem State.note_cur (s : State) (c : Nat) (r : NumRes) : (s.note c r).cur = s.cur := rfl
@[simp] theorem State.note_freeCtr (s : State) (c : Nat) (r : NumRes) : (s.note c r).freeCtr = s.freeCtr := rfl
@[simp] theorem State.note_nextId (s : State) (c : Nat) (r : NumRes) : (s.note c r).nextId = s.nextId := rfl

@[simp] theorem State.modAccess_time (s : State) (c id : Nat) (f : Access → Access) : (s.modAccess c id f).time = s.time := rfl
@[simp] theorem State.modAccess_disps (s : State) (c id : Nat) (f : Access → Access) : (s.modAccess c id f).disps = s.disps := rfl
@[simp] theorem State.modAccess_weaves (s : State) (c id : Nat) (f : Access → Access) : (s.modAccess c id f).weaves = s.weaves := rfl
@[simp] theorem State.modAccess_runs (s : State) (c id : Nat) (f : Access → Access) : (s.modAccess c id f).runs = s.runs := rfl
@[simp] theorem State.modAccess_barriers (s : State) (c id : Nat) (f : Access → Access) : (s.modAccess c id f).barriers = s.barriers := rfl
@[simp] theorem State.modAccess_banks (s : State) (c id : Nat) (f : Access → Access) : (s.modAccess c id f).banks = s.banks := rfl
@[simp] theorem State.modAccess_homes (s : State) (c id : Nat) (f : Access → Access) : (s.modAccess c id f).homes = s.homes := rfl
@[simp] theorem State.modAccess_tracked (s : State) (c id : Nat) (f : Access → Access) : (s.modAccess c id f).tracked = s.tracked := rfl
@[simp] theorem State.modAccess_windows (s : State) (c id : Nat) (f : Access → Access) : (s.modAccess c id f).windows = s.windows := rfl
@[simp] theorem State.modAccess_logs (s : State) (c id : Nat) (f : Access → Access) : (s.modAccess c id f).logs = s.logs := rfl
@[simp] theorem State.modAccess_misses (s : State) (c id : Nat) (f : Access → Access) : (s.modAccess c id f).misses = s.misses := rfl
@[simp] theorem State.modAccess_signals (s : State) (c id : Nat) (f : Access → Access) : (s.modAccess c id f).signals = s.signals := rfl
@[simp] theorem State.modAccess_walkQ (s : State) (c id : Nat) (f : Access → Access) : (s.modAccess c id f).walkQ = s.walkQ := rfl
@[simp] theorem State.modAccess_walkStore (s : State) (c id : Nat) (f : Access → Access) : (s.modAccess c id f).walkStore = s.walkStore := rfl
@[simp] theorem State.modAccess_memerr (s : State) (c id : Nat) (f : Access → Access) : (s.modAccess c id f).memerr = s.memerr := rfl
@[simp] theorem State.modAccess_hslots (s : State) (c id : Nat) (f : Access → Access) : (s.modAccess c id f).hslots = s.hslots := rfl
@[simp] theorem State.modAccess_hblocks (s : State) (c id : Nat) (f : Access → Access) : (s.modAccess c id f).hblocks = s.hblocks := rfl
@[simp] theorem State.modAccess_trk (s : State) (c id : Nat) (f : Access → Access) : (s.modAccess c id f).trk = s.trk := rfl
@[simp] theorem State.modAccess_nmus (s : State) (c id : Nat) (f : Access → Access) : (s.modAccess c id f).nmus = s.nmus := rfl
@[simp] theorem State.modAccess_aborted (s : State) (c id : Nat) (f : Access → Access) : (s.modAccess c id f).aborted = s.aborted := rfl
@[simp] theorem State.modAccess_groups (s : State) (c id : Nat) (f : Access → Access) : (s.modAccess c id f).groups = s.groups := rfl
@[simp] theorem State.modAccess_fabstat (s : State) (c id : Nat) (f : Access → Access) : (s.modAccess c id f).fabstat = s.fabstat := rfl
@[simp] theorem State.modAccess_partials (s : State) (c id : Nat) (f : Access → Access) : (s.modAccess c id f).partials = s.partials := rfl
@[simp] theorem State.modAccess_stripes (s : State) (c id : Nat) (f : Access → Access) : (s.modAccess c id f).stripes = s.stripes := rfl
@[simp] theorem State.modAccess_walks (s : State) (c id : Nat) (f : Access → Access) : (s.modAccess c id f).walks = s.walks := rfl
@[simp] theorem State.modAccess_twstat (s : State) (c id : Nat) (f : Access → Access) : (s.modAccess c id f).twstat = s.twstat := rfl
@[simp] theorem State.modAccess_nets (s : State) (c id : Nat) (f : Access → Access) : (s.modAccess c id f).nets = s.nets := rfl
@[simp] theorem State.modAccess_smps (s : State) (c id : Nat) (f : Access → Access) : (s.modAccess c id f).smps = s.smps := rfl
@[simp] theorem State.modAccess_pkgs (s : State) (c id : Nat) (f : Access → Access) : (s.modAccess c id f).pkgs = s.pkgs := rfl
@[simp] theorem State.modAccess_dieServ (s : State) (c id : Nat) (f : Access → Access) : (s.modAccess c id f).dieServ = s.dieServ := rfl
@[simp] theorem State.modAccess_lost (s : State) (c id : Nat) (f : Access → Access) : (s.modAccess c id f).lost = s.lost := rfl
@[simp] theorem State.modAccess_flow (s : State) (c id : Nat) (f : Access → Access) : (s.modAccess c id f).flow = s.flow := rfl
@[simp] theorem State.modAccess_flowThrottle (s : State) (c id : Nat) (f : Access → Access) : (s.modAccess c id f).flowThrottle = s.flowThrottle := rfl
@[simp] theorem State.modAccess_flowSince (s : State) (c id : Nat) (f : Access → Access) : (s.modAccess c id f).flowSince = s.flowSince := rfl
@[simp] theorem State.modAccess_edge (s : State) (c id : Nat) (f : Access → Access) : (s.modAccess c id f).edge = s.edge := rfl
@[simp] theorem State.modAccess_strong (s : State) (c id : Nat) (f : Access → Access) : (s.modAccess c id f).strong = s.strong := rfl
@[simp] theorem State.modAccess_turns (s : State) (c id : Nat) (f : Access → Access) : (s.modAccess c id f).turns = s.turns := rfl
@[simp] theorem State.modAccess_turnCtr (s : State) (c id : Nat) (f : Access → Access) : (s.modAccess c id f).turnCtr = s.turnCtr := rfl
@[simp] theorem State.modAccess_cur (s : State) (c id : Nat) (f : Access → Access) : (s.modAccess c id f).cur = s.cur := rfl
@[simp] theorem State.modAccess_freeCtr (s : State) (c id : Nat) (f : Access → Access) : (s.modAccess c id f).freeCtr = s.freeCtr := rfl
@[simp] theorem State.modAccess_nextId (s : State) (c id : Nat) (f : Access → Access) : (s.modAccess c id f).nextId = s.nextId := rfl

@[simp] theorem State.endAccess_time (s : State) (c id : Nat) : (s.endAccess c id).time = s.time := rfl
@[simp] theorem State.endAccess_disps (s : State) (c id : Nat) : (s.endAccess c id).disps = s.disps := rfl
@[simp] theorem State.endAccess_weaves (s : State) (c id : Nat) : (s.endAccess c id).weaves = s.weaves := rfl
@[simp] theorem State.endAccess_runs (s : State) (c id : Nat) : (s.endAccess c id).runs = s.runs := rfl
@[simp] theorem State.endAccess_barriers (s : State) (c id : Nat) : (s.endAccess c id).barriers = s.barriers := rfl
@[simp] theorem State.endAccess_banks (s : State) (c id : Nat) : (s.endAccess c id).banks = s.banks := rfl
@[simp] theorem State.endAccess_homes (s : State) (c id : Nat) : (s.endAccess c id).homes = s.homes := rfl
@[simp] theorem State.endAccess_tracked (s : State) (c id : Nat) : (s.endAccess c id).tracked = s.tracked := rfl
@[simp] theorem State.endAccess_windows (s : State) (c id : Nat) : (s.endAccess c id).windows = s.windows := rfl
@[simp] theorem State.endAccess_logs (s : State) (c id : Nat) : (s.endAccess c id).logs = s.logs := rfl
@[simp] theorem State.endAccess_misses (s : State) (c id : Nat) : (s.endAccess c id).misses = s.misses := rfl
@[simp] theorem State.endAccess_signals (s : State) (c id : Nat) : (s.endAccess c id).signals = s.signals := rfl
@[simp] theorem State.endAccess_walkQ (s : State) (c id : Nat) : (s.endAccess c id).walkQ = s.walkQ := rfl
@[simp] theorem State.endAccess_walkStore (s : State) (c id : Nat) : (s.endAccess c id).walkStore = s.walkStore := rfl
@[simp] theorem State.endAccess_memerr (s : State) (c id : Nat) : (s.endAccess c id).memerr = s.memerr := rfl
@[simp] theorem State.endAccess_hslots (s : State) (c id : Nat) : (s.endAccess c id).hslots = s.hslots := rfl
@[simp] theorem State.endAccess_hblocks (s : State) (c id : Nat) : (s.endAccess c id).hblocks = s.hblocks := rfl
@[simp] theorem State.endAccess_trk (s : State) (c id : Nat) : (s.endAccess c id).trk = s.trk := rfl
@[simp] theorem State.endAccess_nmus (s : State) (c id : Nat) : (s.endAccess c id).nmus = s.nmus := rfl
@[simp] theorem State.endAccess_aborted (s : State) (c id : Nat) : (s.endAccess c id).aborted = s.aborted := rfl
@[simp] theorem State.endAccess_groups (s : State) (c id : Nat) : (s.endAccess c id).groups = s.groups := rfl
@[simp] theorem State.endAccess_fabstat (s : State) (c id : Nat) : (s.endAccess c id).fabstat = s.fabstat := rfl
@[simp] theorem State.endAccess_partials (s : State) (c id : Nat) : (s.endAccess c id).partials = s.partials := rfl
@[simp] theorem State.endAccess_stripes (s : State) (c id : Nat) : (s.endAccess c id).stripes = s.stripes := rfl
@[simp] theorem State.endAccess_walks (s : State) (c id : Nat) : (s.endAccess c id).walks = s.walks := rfl
@[simp] theorem State.endAccess_twstat (s : State) (c id : Nat) : (s.endAccess c id).twstat = s.twstat := rfl
@[simp] theorem State.endAccess_nets (s : State) (c id : Nat) : (s.endAccess c id).nets = s.nets := rfl
@[simp] theorem State.endAccess_smps (s : State) (c id : Nat) : (s.endAccess c id).smps = s.smps := rfl
@[simp] theorem State.endAccess_pkgs (s : State) (c id : Nat) : (s.endAccess c id).pkgs = s.pkgs := rfl
@[simp] theorem State.endAccess_dieServ (s : State) (c id : Nat) : (s.endAccess c id).dieServ = s.dieServ := rfl
@[simp] theorem State.endAccess_lost (s : State) (c id : Nat) : (s.endAccess c id).lost = s.lost := rfl
@[simp] theorem State.endAccess_flow (s : State) (c id : Nat) : (s.endAccess c id).flow = s.flow := rfl
@[simp] theorem State.endAccess_flowThrottle (s : State) (c id : Nat) : (s.endAccess c id).flowThrottle = s.flowThrottle := rfl
@[simp] theorem State.endAccess_flowSince (s : State) (c id : Nat) : (s.endAccess c id).flowSince = s.flowSince := rfl
@[simp] theorem State.endAccess_edge (s : State) (c id : Nat) : (s.endAccess c id).edge = s.edge := rfl
@[simp] theorem State.endAccess_strong (s : State) (c id : Nat) : (s.endAccess c id).strong = s.strong := rfl
@[simp] theorem State.endAccess_turns (s : State) (c id : Nat) : (s.endAccess c id).turns = s.turns := rfl
@[simp] theorem State.endAccess_turnCtr (s : State) (c id : Nat) : (s.endAccess c id).turnCtr = s.turnCtr := rfl
@[simp] theorem State.endAccess_cur (s : State) (c id : Nat) : (s.endAccess c id).cur = s.cur := rfl
@[simp] theorem State.endAccess_freeCtr (s : State) (c id : Nat) : (s.endAccess c id).freeCtr = s.freeCtr := rfl
@[simp] theorem State.endAccess_nextId (s : State) (c id : Nat) : (s.endAccess c id).nextId = s.nextId := rfl

@[simp] theorem State.enqueue_time (s : State) (c : Nat) (a : Access) : (s.enqueue c a).time = s.time := rfl
@[simp] theorem State.enqueue_disps (s : State) (c : Nat) (a : Access) : (s.enqueue c a).disps = s.disps := rfl
@[simp] theorem State.enqueue_weaves (s : State) (c : Nat) (a : Access) : (s.enqueue c a).weaves = s.weaves := rfl
@[simp] theorem State.enqueue_runs (s : State) (c : Nat) (a : Access) : (s.enqueue c a).runs = s.runs := rfl
@[simp] theorem State.enqueue_barriers (s : State) (c : Nat) (a : Access) : (s.enqueue c a).barriers = s.barriers := rfl
@[simp] theorem State.enqueue_banks (s : State) (c : Nat) (a : Access) : (s.enqueue c a).banks = s.banks := rfl
@[simp] theorem State.enqueue_homes (s : State) (c : Nat) (a : Access) : (s.enqueue c a).homes = s.homes := rfl
@[simp] theorem State.enqueue_tracked (s : State) (c : Nat) (a : Access) : (s.enqueue c a).tracked = s.tracked := rfl
@[simp] theorem State.enqueue_windows (s : State) (c : Nat) (a : Access) : (s.enqueue c a).windows = s.windows := rfl
@[simp] theorem State.enqueue_logs (s : State) (c : Nat) (a : Access) : (s.enqueue c a).logs = s.logs := rfl
@[simp] theorem State.enqueue_misses (s : State) (c : Nat) (a : Access) : (s.enqueue c a).misses = s.misses := rfl
@[simp] theorem State.enqueue_signals (s : State) (c : Nat) (a : Access) : (s.enqueue c a).signals = s.signals := rfl
@[simp] theorem State.enqueue_walkQ (s : State) (c : Nat) (a : Access) : (s.enqueue c a).walkQ = s.walkQ := rfl
@[simp] theorem State.enqueue_walkStore (s : State) (c : Nat) (a : Access) : (s.enqueue c a).walkStore = s.walkStore := rfl
@[simp] theorem State.enqueue_memerr (s : State) (c : Nat) (a : Access) : (s.enqueue c a).memerr = s.memerr := rfl
@[simp] theorem State.enqueue_hslots (s : State) (c : Nat) (a : Access) : (s.enqueue c a).hslots = s.hslots := rfl
@[simp] theorem State.enqueue_hblocks (s : State) (c : Nat) (a : Access) : (s.enqueue c a).hblocks = s.hblocks := rfl
@[simp] theorem State.enqueue_trk (s : State) (c : Nat) (a : Access) : (s.enqueue c a).trk = s.trk := rfl
@[simp] theorem State.enqueue_nmus (s : State) (c : Nat) (a : Access) : (s.enqueue c a).nmus = s.nmus := rfl
@[simp] theorem State.enqueue_aborted (s : State) (c : Nat) (a : Access) : (s.enqueue c a).aborted = s.aborted := rfl
@[simp] theorem State.enqueue_groups (s : State) (c : Nat) (a : Access) : (s.enqueue c a).groups = s.groups := rfl
@[simp] theorem State.enqueue_fabstat (s : State) (c : Nat) (a : Access) : (s.enqueue c a).fabstat = s.fabstat := rfl
@[simp] theorem State.enqueue_partials (s : State) (c : Nat) (a : Access) : (s.enqueue c a).partials = s.partials := rfl
@[simp] theorem State.enqueue_stripes (s : State) (c : Nat) (a : Access) : (s.enqueue c a).stripes = s.stripes := rfl
@[simp] theorem State.enqueue_walks (s : State) (c : Nat) (a : Access) : (s.enqueue c a).walks = s.walks := rfl
@[simp] theorem State.enqueue_twstat (s : State) (c : Nat) (a : Access) : (s.enqueue c a).twstat = s.twstat := rfl
@[simp] theorem State.enqueue_nets (s : State) (c : Nat) (a : Access) : (s.enqueue c a).nets = s.nets := rfl
@[simp] theorem State.enqueue_smps (s : State) (c : Nat) (a : Access) : (s.enqueue c a).smps = s.smps := rfl
@[simp] theorem State.enqueue_pkgs (s : State) (c : Nat) (a : Access) : (s.enqueue c a).pkgs = s.pkgs := rfl
@[simp] theorem State.enqueue_dieServ (s : State) (c : Nat) (a : Access) : (s.enqueue c a).dieServ = s.dieServ := rfl
@[simp] theorem State.enqueue_lost (s : State) (c : Nat) (a : Access) : (s.enqueue c a).lost = s.lost := rfl
@[simp] theorem State.enqueue_flow (s : State) (c : Nat) (a : Access) : (s.enqueue c a).flow = s.flow := rfl
@[simp] theorem State.enqueue_flowThrottle (s : State) (c : Nat) (a : Access) : (s.enqueue c a).flowThrottle = s.flowThrottle := rfl
@[simp] theorem State.enqueue_flowSince (s : State) (c : Nat) (a : Access) : (s.enqueue c a).flowSince = s.flowSince := rfl
@[simp] theorem State.enqueue_edge (s : State) (c : Nat) (a : Access) : (s.enqueue c a).edge = s.edge := rfl
@[simp] theorem State.enqueue_strong (s : State) (c : Nat) (a : Access) : (s.enqueue c a).strong = s.strong := rfl
@[simp] theorem State.enqueue_turns (s : State) (c : Nat) (a : Access) : (s.enqueue c a).turns = s.turns := rfl
@[simp] theorem State.enqueue_turnCtr (s : State) (c : Nat) (a : Access) : (s.enqueue c a).turnCtr = s.turnCtr := rfl
@[simp] theorem State.enqueue_cur (s : State) (c : Nat) (a : Access) : (s.enqueue c a).cur = s.cur := rfl
@[simp] theorem State.enqueue_freeCtr (s : State) (c : Nat) (a : Access) : (s.enqueue c a).freeCtr = s.freeCtr := rfl

@[simp] theorem State.taskAccess_time (s : State) (c t : Nat) (a : Access) : (s.taskAccess c t a).time = s.time := rfl
@[simp] theorem State.taskAccess_disps (s : State) (c t : Nat) (a : Access) : (s.taskAccess c t a).disps = s.disps := rfl
@[simp] theorem State.taskAccess_weaves (s : State) (c t : Nat) (a : Access) : (s.taskAccess c t a).weaves = s.weaves := rfl
@[simp] theorem State.taskAccess_runs (s : State) (c t : Nat) (a : Access) : (s.taskAccess c t a).runs = s.runs := rfl
@[simp] theorem State.taskAccess_barriers (s : State) (c t : Nat) (a : Access) : (s.taskAccess c t a).barriers = s.barriers := rfl
@[simp] theorem State.taskAccess_banks (s : State) (c t : Nat) (a : Access) : (s.taskAccess c t a).banks = s.banks := rfl
@[simp] theorem State.taskAccess_homes (s : State) (c t : Nat) (a : Access) : (s.taskAccess c t a).homes = s.homes := rfl
@[simp] theorem State.taskAccess_tracked (s : State) (c t : Nat) (a : Access) : (s.taskAccess c t a).tracked = s.tracked := rfl
@[simp] theorem State.taskAccess_windows (s : State) (c t : Nat) (a : Access) : (s.taskAccess c t a).windows = s.windows := rfl
@[simp] theorem State.taskAccess_logs (s : State) (c t : Nat) (a : Access) : (s.taskAccess c t a).logs = s.logs := rfl
@[simp] theorem State.taskAccess_misses (s : State) (c t : Nat) (a : Access) : (s.taskAccess c t a).misses = s.misses := rfl
@[simp] theorem State.taskAccess_signals (s : State) (c t : Nat) (a : Access) : (s.taskAccess c t a).signals = s.signals := rfl
@[simp] theorem State.taskAccess_walkQ (s : State) (c t : Nat) (a : Access) : (s.taskAccess c t a).walkQ = s.walkQ := rfl
@[simp] theorem State.taskAccess_walkStore (s : State) (c t : Nat) (a : Access) : (s.taskAccess c t a).walkStore = s.walkStore := rfl
@[simp] theorem State.taskAccess_memerr (s : State) (c t : Nat) (a : Access) : (s.taskAccess c t a).memerr = s.memerr := rfl
@[simp] theorem State.taskAccess_hslots (s : State) (c t : Nat) (a : Access) : (s.taskAccess c t a).hslots = s.hslots := rfl
@[simp] theorem State.taskAccess_hblocks (s : State) (c t : Nat) (a : Access) : (s.taskAccess c t a).hblocks = s.hblocks := rfl
@[simp] theorem State.taskAccess_trk (s : State) (c t : Nat) (a : Access) : (s.taskAccess c t a).trk = s.trk := rfl
@[simp] theorem State.taskAccess_nmus (s : State) (c t : Nat) (a : Access) : (s.taskAccess c t a).nmus = s.nmus := rfl
@[simp] theorem State.taskAccess_aborted (s : State) (c t : Nat) (a : Access) : (s.taskAccess c t a).aborted = s.aborted := rfl
@[simp] theorem State.taskAccess_groups (s : State) (c t : Nat) (a : Access) : (s.taskAccess c t a).groups = s.groups := rfl
@[simp] theorem State.taskAccess_fabstat (s : State) (c t : Nat) (a : Access) : (s.taskAccess c t a).fabstat = s.fabstat := rfl
@[simp] theorem State.taskAccess_partials (s : State) (c t : Nat) (a : Access) : (s.taskAccess c t a).partials = s.partials := rfl
@[simp] theorem State.taskAccess_stripes (s : State) (c t : Nat) (a : Access) : (s.taskAccess c t a).stripes = s.stripes := rfl
@[simp] theorem State.taskAccess_walks (s : State) (c t : Nat) (a : Access) : (s.taskAccess c t a).walks = s.walks := rfl
@[simp] theorem State.taskAccess_twstat (s : State) (c t : Nat) (a : Access) : (s.taskAccess c t a).twstat = s.twstat := rfl
@[simp] theorem State.taskAccess_nets (s : State) (c t : Nat) (a : Access) : (s.taskAccess c t a).nets = s.nets := rfl
@[simp] theorem State.taskAccess_smps (s : State) (c t : Nat) (a : Access) : (s.taskAccess c t a).smps = s.smps := rfl
@[simp] theorem State.taskAccess_pkgs (s : State) (c t : Nat) (a : Access) : (s.taskAccess c t a).pkgs = s.pkgs := rfl
@[simp] theorem State.taskAccess_dieServ (s : State) (c t : Nat) (a : Access) : (s.taskAccess c t a).dieServ = s.dieServ := rfl
@[simp] theorem State.taskAccess_lost (s : State) (c t : Nat) (a : Access) : (s.taskAccess c t a).lost = s.lost := rfl
@[simp] theorem State.taskAccess_flow (s : State) (c t : Nat) (a : Access) : (s.taskAccess c t a).flow = s.flow := rfl
@[simp] theorem State.taskAccess_flowThrottle (s : State) (c t : Nat) (a : Access) : (s.taskAccess c t a).flowThrottle = s.flowThrottle := rfl
@[simp] theorem State.taskAccess_flowSince (s : State) (c t : Nat) (a : Access) : (s.taskAccess c t a).flowSince = s.flowSince := rfl
@[simp] theorem State.taskAccess_edge (s : State) (c t : Nat) (a : Access) : (s.taskAccess c t a).edge = s.edge := rfl
@[simp] theorem State.taskAccess_strong (s : State) (c t : Nat) (a : Access) : (s.taskAccess c t a).strong = s.strong := rfl
@[simp] theorem State.taskAccess_turns (s : State) (c t : Nat) (a : Access) : (s.taskAccess c t a).turns = s.turns := rfl
@[simp] theorem State.taskAccess_turnCtr (s : State) (c t : Nat) (a : Access) : (s.taskAccess c t a).turnCtr = s.turnCtr := rfl
@[simp] theorem State.taskAccess_cur (s : State) (c t : Nat) (a : Access) : (s.taskAccess c t a).cur = s.cur := rfl
@[simp] theorem State.taskAccess_freeCtr (s : State) (c t : Nat) (a : Access) : (s.taskAccess c t a).freeCtr = s.freeCtr := rfl

/-! Cores. -/

@[simp] theorem State.setCore_core_same (s : State) (c : Nat) (k : Core) : (s.setCore c k).core c = k := by simp [State.core, State.setCore]

theorem State.setCore_core (s : State) (c e : Nat) (k : Core) : (s.setCore c k).core e = if e = c then k else s.core e := by
  simp [State.core, State.setCore, tget_tput]

@[simp] theorem State.setCore_setCore (s : State) (c : Nat) (k k' : Core) : (s.setCore c k).setCore c k' = s.setCore c k' := by
  simp [State.setCore]

@[simp] theorem State.modCore_core_same (s : State) (c : Nat) (f : Core → Core) : (s.modCore c f).core c = f (s.core c) := by
  simp [State.modCore]

theorem State.modCore_core (s : State) (c e : Nat) (f : Core → Core) : (s.modCore c f).core e = if e = c then f (s.core c) else s.core e := by
  simp [State.modCore, State.setCore_core]

theorem State.modCore_core_other (s : State) (c e : Nat) (f : Core → Core) (h : e ≠ c) : (s.modCore c f).core e = s.core e := by
  simp [State.modCore_core, h]

@[simp] theorem State.modCore_setCore (s : State) (c : Nat) (f : Core → Core) (k : Core) : (s.modCore c f).setCore c k = s.setCore c k := by
  simp [State.modCore]

@[simp] theorem State.modCore_modCore (s : State) (c : Nat) (f g : Core → Core) :
    (s.modCore c f).modCore c g = s.modCore c fun k => g (f k) := by simp [State.modCore]

/-! Tasks. -/

@[simp] theorem Core.setTask_task_same (k : Core) (t : Nat) (x : Task) : (k.setTask t x).task t = x := by simp [Core.task, Core.setTask]

theorem Core.setTask_task (k : Core) (t e : Nat) (x : Task) : (k.setTask t x).task e = if e = t then x else k.task e := by
  simp [Core.task, Core.setTask, tget_tput]

@[simp] theorem Core.setTask_setTask (k : Core) (t : Nat) (x y : Task) : (k.setTask t x).setTask t y = k.setTask t y := by simp [Core.setTask]

@[simp] theorem State.modTask_task_same (s : State) (c t : Nat) (f : Task → Task) : (s.modTask c t f).task c t = f (s.task c t) := by
  simp [State.modTask, State.task]

theorem State.modTask_task (s : State) (c t e u : Nat) (f : Task → Task) :
    (s.modTask c t f).task e u = if e = c ∧ u = t then f (s.task c t) else s.task e u := by
  simp only [State.modTask, State.task, State.modCore_core]
  by_cases h : e = c
  · subst h; simp [Core.setTask_task]
  · simp [h]

@[simp] theorem State.modTask_modTask (s : State) (c t : Nat) (f g : Task → Task) :
    (s.modTask c t f).modTask c t g = s.modTask c t fun x => g (f x) := by simp [State.modTask]

theorem State.modTask_core_other (s : State) (c t e : Nat) (f : Task → Task) (h : e ≠ c) : (s.modTask c t f).core e = s.core e := by
  simp [State.modTask, State.modCore_core, h]

@[simp] theorem State.modTask_core_same (s : State) (c t : Nat) (f : Task → Task) :
    (s.modTask c t f).core c = (s.core c).setTask t (f ((s.core c).task t)) := by simp [State.modTask]

@[simp] theorem Core.setTask_rot (k : Core) (t : Nat) (x : Task) : (k.setTask t x).rot = k.rot := rfl
@[simp] theorem Core.setTask_issued (k : Core) (t : Nat) (x : Task) : (k.setTask t x).issued = k.issued := rfl
@[simp] theorem Core.setTask_srkey (k : Core) (t : Nat) (x : Task) : (k.setTask t x).srkey = k.srkey := rfl
@[simp] theorem Core.setTask_numchk (k : Core) (t : Nat) (x : Task) : (k.setTask t x).numchk = k.numchk := rfl
@[simp] theorem Core.setTask_rctl (k : Core) (t : Nat) (x : Task) : (k.setTask t x).rctl = k.rctl := rfl
@[simp] theorem Core.setTask_istat (k : Core) (t : Nat) (x : Task) : (k.setTask t x).istat = k.istat := rfl
@[simp] theorem Core.setTask_tvec (k : Core) (t : Nat) (x : Task) : (k.setTask t x).tvec = k.tvec := rfl
@[simp] theorem Core.setTask_cycle (k : Core) (t : Nat) (x : Task) : (k.setTask t x).cycle = k.cycle := rfl
@[simp] theorem Core.setTask_lvid (k : Core) (t : Nat) (x : Task) : (k.setTask t x).lvid = k.lvid := rfl
@[simp] theorem Core.setTask_ctxno (k : Core) (t : Nat) (x : Task) : (k.setTask t x).ctxno = k.ctxno := rfl
@[simp] theorem Core.setTask_job (k : Core) (t : Nat) (x : Task) : (k.setTask t x).job = k.job := rfl
@[simp] theorem Core.setTask_ibuf (k : Core) (t : Nat) (x : Task) : (k.setTask t x).ibuf = k.ibuf := rfl
@[simp] theorem Core.setTask_data (k : Core) (t : Nat) (x : Task) : (k.setTask t x).data = k.data := rfl
@[simp] theorem Core.setTask_before (k : Core) (t : Nat) (x : Task) : (k.setTask t x).before = k.before := rfl
@[simp] theorem Core.setTask_scratch (k : Core) (t : Nat) (x : Task) : (k.setTask t x).scratch = k.scratch := rfl
@[simp] theorem Core.setTask_opmem (k : Core) (t : Nat) (x : Task) : (k.setTask t x).opmem = k.opmem := rfl
@[simp] theorem Core.setTask_share (k : Core) (t : Nat) (x : Task) : (k.setTask t x).share = k.share := rfl
@[simp] theorem Core.setTask_fused (k : Core) (t : Nat) (x : Task) : (k.setTask t x).fused = k.fused := rfl
@[simp] theorem Core.setTask_l1 (k : Core) (t : Nat) (x : Task) : (k.setTask t x).l1 = k.l1 := rfl
@[simp] theorem Core.setTask_seg (k : Core) (t : Nat) (x : Task) : (k.setTask t x).seg = k.seg := rfl
@[simp] theorem Core.setTask_elastic (k : Core) (t : Nat) (x : Task) : (k.setTask t x).elastic = k.elastic := rfl
@[simp] theorem Core.setTask_accs (k : Core) (t : Nat) (x : Task) : (k.setTask t x).accs = k.accs := rfl
@[simp] theorem Core.setTask_events (k : Core) (t : Nat) (x : Task) : (k.setTask t x).events = k.events := rfl
@[simp] theorem Core.setTask_evAcq (k : Core) (t : Nat) (x : Task) : (k.setTask t x).evAcq = k.evAcq := rfl
@[simp] theorem Core.setTask_ret (k : Core) (t : Nat) (x : Task) : (k.setTask t x).ret = k.ret := rfl
@[simp] theorem Core.setTask_dfault (k : Core) (t : Nat) (x : Task) : (k.setTask t x).dfault = k.dfault := rfl
@[simp] theorem Core.setTask_dmet (k : Core) (t : Nat) (x : Task) : (k.setTask t x).dmet = k.dmet := rfl
@[simp] theorem Core.setTask_afaults (k : Core) (t : Nat) (x : Task) : (k.setTask t x).afaults = k.afaults := rfl
@[simp] theorem Core.setTask_probe (k : Core) (t : Nat) (x : Task) : (k.setTask t x).probe = k.probe := rfl
@[simp] theorem Core.setTask_phase (k : Core) (t : Nat) (x : Task) : (k.setTask t x).phase = k.phase := rfl
@[simp] theorem Core.setTask_ncmds (k : Core) (t : Nat) (x : Task) : (k.setTask t x).ncmds = k.ncmds := rfl
@[simp] theorem Core.setTask_vstat (k : Core) (t : Nat) (x : Task) : (k.setTask t x).vstat = k.vstat := rfl
@[simp] theorem Core.setTask_mstat (k : Core) (t : Nat) (x : Task) : (k.setTask t x).mstat = k.mstat := rfl
@[simp] theorem Core.setTask_frozen (k : Core) (t : Nat) (x : Task) : (k.setTask t x).frozen = k.frozen := rfl
@[simp] theorem Core.setTask_stepOwed (k : Core) (t : Nat) (x : Task) : (k.setTask t x).stepOwed = k.stepOwed := rfl
@[simp] theorem Core.setTask_haltBuf (k : Core) (t : Nat) (x : Task) : (k.setTask t x).haltBuf = k.haltBuf := rfl
@[simp] theorem Core.setTask_bps (k : Core) (t : Nat) (x : Task) : (k.setTask t x).bps = k.bps := rfl
@[simp] theorem Core.setTask_logSeq (k : Core) (t : Nat) (x : Task) : (k.setTask t x).logSeq = k.logSeq := rfl

/-! Registers (R47): g0 reads as zero, and a write to it is discarded. -/

@[simp] theorem Task.reg_zero (x : Task) : x.reg 0 = 0#64 := rfl
@[simp] theorem Task.setReg_zero (x : Task) (v : Word) : x.setReg 0 v = x := rfl
@[simp] theorem Task.setReg_st (x : Task) (r : Nat) (v : Word) : (x.setReg r v).st = x.st := by unfold Task.setReg; split <;> rfl
@[simp] theorem Task.setReg_pc (x : Task) (r : Nat) (v : Word) : (x.setReg r v).pc = x.pc := by unfold Task.setReg; split <;> rfl
@[simp] theorem Task.setReg_wait (x : Task) (r : Nat) (v : Word) : (x.setReg r v).wait = x.wait := by unfold Task.setReg; split <;> rfl
@[simp] theorem Task.setReg_fpm (x : Task) (r : Nat) (v : Word) : (x.setReg r v).fpm = x.fpm := by unfold Task.setReg; split <;> rfl
@[simp] theorem Task.setReg_src (x : Task) (r : Nat) (v : Word) : (x.setReg r v).src = x.src := by unfold Task.setReg; split <;> rfl
@[simp] theorem Task.setReg_tcause (x : Task) (r : Nat) (v : Word) : (x.setReg r v).tcause = x.tcause := by unfold Task.setReg; split <;> rfl
@[simp] theorem Task.setReg_tpc (x : Task) (r : Nat) (v : Word) : (x.setReg r v).tpc = x.tpc := by unfold Task.setReg; split <;> rfl
@[simp] theorem Task.setReg_tval (x : Task) (r : Nat) (v : Word) : (x.setReg r v).tval = x.tval := by unfold Task.setReg; split <;> rfl
@[simp] theorem Task.setReg_tin (x : Task) (r : Nat) (v : Word) : (x.setReg r v).tin = x.tin := by unfold Task.setReg; split <;> rfl
@[simp] theorem Task.setReg_due (x : Task) (r : Nat) (v : Word) : (x.setReg r v).due = x.due := by unfold Task.setReg; split <;> rfl
@[simp] theorem Task.setReg_notBefore (x : Task) (r : Nat) (v : Word) : (x.setReg r v).notBefore = x.notBefore := by unfold Task.setReg; split <;> rfl
@[simp] theorem Task.setReg_pendCause (x : Task) (r : Nat) (v : Word) : (x.setReg r v).pendCause = x.pendCause := by unfold Task.setReg; split <;> rfl
@[simp] theorem Task.setReg_exempt (x : Task) (r : Nat) (v : Word) : (x.setReg r v).exempt = x.exempt := by unfold Task.setReg; split <;> rfl
@[simp] theorem Task.setReg_icount (x : Task) (r : Nat) (v : Word) : (x.setReg r v).icount = x.icount := by unfold Task.setReg; split <;> rfl
@[simp] theorem Task.setReg_uid (x : Task) (r : Nat) (v : Word) : (x.setReg r v).uid = x.uid := by unfold Task.setReg; split <;> rfl
@[simp] theorem Task.next_st (x : Task) (len : Nat) : (x.next len).st = x.st := rfl
@[simp] theorem Task.next_regs (x : Task) (len : Nat) : (x.next len).regs = x.regs := rfl
@[simp] theorem Task.next_wait (x : Task) (len : Nat) : (x.next len).wait = x.wait := rfl
@[simp] theorem Task.next_fpm (x : Task) (len : Nat) : (x.next len).fpm = x.fpm := rfl
@[simp] theorem Task.next_src (x : Task) (len : Nat) : (x.next len).src = x.src := rfl
@[simp] theorem Task.next_tcause (x : Task) (len : Nat) : (x.next len).tcause = x.tcause := rfl
@[simp] theorem Task.next_tpc (x : Task) (len : Nat) : (x.next len).tpc = x.tpc := rfl
@[simp] theorem Task.next_tval (x : Task) (len : Nat) : (x.next len).tval = x.tval := rfl
@[simp] theorem Task.next_tin (x : Task) (len : Nat) : (x.next len).tin = x.tin := rfl
@[simp] theorem Task.next_due (x : Task) (len : Nat) : (x.next len).due = x.due := rfl
@[simp] theorem Task.next_notBefore (x : Task) (len : Nat) : (x.next len).notBefore = x.notBefore := rfl
@[simp] theorem Task.next_pendCause (x : Task) (len : Nat) : (x.next len).pendCause = x.pendCause := rfl
@[simp] theorem Task.next_exempt (x : Task) (len : Nat) : (x.next len).exempt = x.exempt := rfl
@[simp] theorem Task.next_icount (x : Task) (len : Nat) : (x.next len).icount = x.icount := rfl
@[simp] theorem Task.next_uid (x : Task) (len : Nat) : (x.next len).uid = x.uid := rfl
@[simp] theorem Task.next_pc (x : Task) (len : Nat) : (x.next len).pc = x.pc + BitVec.ofNat 64 len := rfl
@[simp] theorem Task.next_reg (x : Task) (len r : Nat) : (x.next len).reg r = x.reg r := rfl

theorem Task.setReg_reg (x : Task) (r q : Nat) (v : Word) : (x.setReg r v).reg q = if q = r ∧ r ≠ 0 then v else x.reg q := by
  unfold Task.setReg Task.reg
  by_cases h : r = 0 <;> by_cases h2 : q = 0 <;> simp_all [tget_tput]
  omega

theorem Task.setReg_reg_same (x : Task) (r : Nat) (v : Word) : (x.setReg r v).reg r = if r = 0 then 0#64 else v := by
  by_cases h : r = 0 <;> simp [Task.setReg_reg, h]

theorem Task.setReg_reg_other (x : Task) (r q : Nat) (v : Word) (h : q ≠ r) : (x.setReg r v).reg q = x.reg q := by
  simp [Task.setReg_reg, h]

/-- The register of a task whose other fields change. -/
theorem Task.reg_of_regs (x y : Task) (r : Nat) (h : x.regs = y.regs) : x.reg r = y.reg r := by simp [Task.reg, h]

/-! What that a result of the control slice changes (R47, R189). -/

theorem State.result_task_other (s : State) (c t r e u : Nat) (v : Word) (lat len : Nat) (h : ¬(e = c ∧ u = t)) :
    (s.result c t r v lat len).task e u = s.task e u := by simp [State.result, State.modTask_task, h]

theorem State.result_reg_same (s : State) (c t r : Nat) (v : Word) (lat len : Nat) :
    (s.result c t r v lat len).reg c t r = if r = 0 then 0#64 else v := by
  simp only [State.reg, State.result, State.modTask_task_same]
  rw [← Task.setReg_reg_same (s.task c t) r v]
  rfl

theorem State.result_reg_other (s : State) (c t r q : Nat) (v : Word) (lat len : Nat) (h : q ≠ r) :
    (s.result c t r v lat len).reg c t q = s.reg c t q := by
  simp only [State.reg, State.result, State.modTask_task_same]
  rw [← Task.setReg_reg_other (s.task c t) r q v h]
  rfl

theorem State.result_pc (s : State) (c t r : Nat) (v : Word) (lat len : Nat) :
    ((s.result c t r v lat len).task c t).pc = (s.task c t).pc + BitVec.ofNat 64 len := by
  simp [State.result]

end Sys2Proof.Machine
end

