-- ==== Sys2Proof/Laws/Control.lean ====
section
/-! SUPPORT. What the shared operations of the control slice do: one lemma an operation, in the terms of Safety. -/

namespace Sys2Proof.Machine

open Sys2Proof

/-- An instruction of a task runs as the task that issues. -/
theorem asTask_next (s : State) (c t : Nat) (f : Nat → Nat → State) (hs : s.cur = .task c t) : asTask s f = .next (f c t) := by
  simp [asTask, hs]

/-- Memory is untouched where the banks, the homes, and of each core the local stores and the L1 are. -/
theorem bytesKept_of (s u : State) (hb : u.banks = s.banks) (hh : u.homes = s.homes)
    (hc : ∀ e, (u.core e).scratch = (s.core e).scratch ∧ (u.core e).opmem = (s.core e).opmem ∧ (u.core e).l1 = (s.core e).l1 ∧
      (u.core e).fused = (s.core e).fused) : bytesKept s u := by
  have h1 : ∀ a, u.homeByte a = s.homeByte a := fun a => by simp [State.homeByte, hb, hh]
  have h2 : ∀ e line, u.l1Line e line = s.l1Line e line := fun e line => by
    simp only [State.l1Line, State.l1Core, State.isFused, (hc e).2.2.2]
    exact congrArg (fun l => tfind l line) (hc _).2.2.1
  exact ⟨h1, fun a => by rw [hb], fun e a => by rw [(hc e).1, (hc e).2.1]; exact ⟨rfl, rfl⟩, fun e a => by
    simp only [State.nearByte, State.wideByte, h1, h2]
    exact ⟨trivial, trivial⟩⟩

/-- Memory is untouched where core c alone changes, and not its local stores or its L1. -/
theorem modCore_bytes (s : State) (c : Nat) (f : Core → Core) (hs : (f (s.core c)).scratch = (s.core c).scratch)
    (ho : (f (s.core c)).opmem = (s.core c).opmem) (hl : (f (s.core c)).l1 = (s.core c).l1) (hf : (f (s.core c)).fused = (s.core c).fused) :
    bytesKept s (s.modCore c f) := by
  refine bytesKept_of _ _ rfl rfl fun e => ?_
  by_cases h : e = c
  · subst h; simp [hs, ho, hl, hf]
  · simp [State.modCore_core_other _ _ _ _ h]

/-- A change of a task touches no memory. -/
theorem modTask_bytes (s : State) (c t : Nat) (f : Task → Task) : bytesKept s (s.modTask c t f) :=
  modCore_bytes _ _ _ rfl rfl rfl rfl

/-- What a result does (R47, R189). -/
theorem result_wroteReg (s : State) (c t d : Nat) (v : Word) (lat len : Nat) : wroteReg s c t d v lat len (s.result c t d v lat len) := by
  refine ⟨State.result_reg_same .., fun r h => State.result_reg_other _ _ _ _ _ _ _ _ h, by simp [State.result], by simp [State.result],
    ?_, ?_, by simp [State.result], by simp [State.result], ?_, ⟨?_, ?_⟩, modTask_bytes ..⟩
  · intro h; simp [State.result, h]
  · intro r h
    simp only [State.result, State.modTask_task_same]
    split
    · rfl
    · simp [tfind_tput_other _ _ _ _ h]
  · simp only [taskKept, State.result, State.modTask_task_same]
    unfold Task.setReg; split <;> rfl
  · simp [onlyCore, State.result, State.modTask]
  · simp [State.result, Core.setTask]

/-- A result after a change of NUMCHK and of the task's draw counter (R90, R106). -/
theorem result_wroteResult (s : State) (c t d : Nat) (v : Word) (lat len : Nat) (num : Word) (src : Nat) :
    wroteResult s c t d v lat len num src
      (((s.modCore c fun k => { k with numchk := num }).modTask c t fun x => { x with src }).result c t d v lat len) := by
  have h0 : ∀ e u, (((s.modCore c fun k => { k with numchk := num }).modTask c t fun x => { x with src }).task e u) =
      if e = c ∧ u = t then { s.task c t with src } else s.task e u := by
    intro e u
    rw [State.modTask_task]
    have hk : ∀ u, (s.modCore c fun k => { k with numchk := num }).task e u = s.task e u := by
      intro u
      by_cases h : e = c
      · subst h; simp [State.task, Core.task]
      · simp [State.task, State.modCore_core_other _ _ _ _ h]
    by_cases h : e = c ∧ u = t
    · obtain ⟨rfl, rfl⟩ := h
      simp [hk]
    · simp [h, hk]
  refine ⟨State.result_reg_same .., fun r h => ?_, by simp [State.result_pc, h0],
    by simp [State.result, State.task]; rfl, ?_, ?_, by simp [State.result],
    by simp [State.result], ?_, ⟨?_, ?_⟩, ?_⟩
  · rw [State.result_reg_other _ _ _ _ _ _ _ _ h, State.reg, h0]; simp [Task.reg, State.reg]
  · intro h; simp [State.result, h]
  · intro r h
    simp only [State.result, State.modTask_task_same]
    split
    · simp [State.task, Core.task]
    · simp [tfind_tput_other _ _ _ _ h, State.task, Core.task]
  · simp only [taskKept, State.result, State.modTask_task_same]
    unfold Task.setReg; split <;> simp [State.task, Core.task, Task.next]
  · simp [onlyCore, State.result, State.modTask]
  · simp [State.result, Core.setTask]
  · refine bytesKept_of _ _ rfl rfl fun e => ?_
    by_cases h : e = c
    · subst h; simp [State.result]
    · simp [State.result, State.modTask_core_other _ _ _ _ _ h, State.modCore_core_other _ _ _ _ h]

end Sys2Proof.Machine
end

