-- ==== Sys2Proof/Tests/Slice0.lean ====
section
/-! SUPPORT. Tests: words written out from the spec, ill-formed terms, single steps on small states, and for every statement with
hypotheses states and operands that meet them. Expected values come from the spec's tables and examples, or from its formulas by hand. -/

namespace Sys2Proof.Tests

set_option Elab.async false

open Sys2Proof Sys2Proof.Machine

/-! Small states. -/

/-- Core 0 runs a job of one task, which issues. -/
def job : State := { State.reset.withJob with cur := .task 0 0 }

/-- Registers of task 0. -/
def regs (s : State) (l : Tbl Word) : State := s.modTask 0 0 fun x => { x with regs := l }

/-- Core 0 has a trap handler at 0x8000. -/
def handled (s : State) : State := s.modCore 0 fun k => { k with tvec := 0x8000#64 }

/-- The state after an instruction; the state itself where it has none. -/
def after (i : Instr) (s : State) : State :=
  match exec i s with
  | .next u => u
  | _ => s

/-- The state after a turn. -/
def afterTurn (x : Turn) (s : State) : State :=
  match s.turn x with
  | .next u => u
  | _ => s

/-- The data side of core 0 changed. -/
def data (s : State) (f : DataSide → DataSide) : State := s.modData 0 f

/-- The three strands of core 0 named, by a function of their number. -/
def strands (s : State) (f : Nat → Strand) : State := data s fun d => { d with vec := f 1, mat := f 2, cpy := f 3 }

/-- An access of core 0. -/
def access (s : State) (a : Access) : State := s.modCore 0 fun k => { k with accs := k.accs ++ [a] }

/-! The integer and floating-point words. -/

theorem wit_task : job.cur = .task 0 0 := by decide
theorem test_add_wraps : (after (.add {} 3 1 2) (regs job [(1, -1#64), (2, 2#64)])).reg 0 0 3 = 1#64 := by decide
theorem test_sub_saturates : (after (.sub { pfx := some ⟨false, false, 0, true, true, false, false, false, 0, 0⟩ } 3 1 2)
    (regs job [(1, 1#64 <<< 63), (2, 1#64)])).reg 0 0 3 = 1#64 <<< 63 := by decide
theorem test_sub_saturation_counts : ((after (.sub { pfx := some ⟨false, false, 0, true, true, false, false, false, 0, 0⟩ } 3 1 2)
    (regs job [(1, 1#64 <<< 63), (2, 1#64)])).core 0).numchk = 1#64 := by decide
theorem test_mul_low : (after (.mul {} 3 1 2) (regs job [(1, -2#64), (2, 3#64)])).reg 0 0 3 = -6#64 := by decide
theorem test_mulh_negative : (after (.mulh {} 3 1 2) (regs job [(1, -2#64), (2, 3#64)])).reg 0 0 3 = -1#64 := by decide
theorem test_mulhu_unsigned : (after (.mulhu {} 3 1 2) (regs job [(1, -2#64), (2, 3#64)])).reg 0 0 3 = 2#64 := by decide
theorem test_addi_sign_extends : (after (.addi {} 3 1 1023) (regs job [(1, 5#64)])).reg 0 0 3 = 4#64 := by decide
theorem test_div_by_zero : (after (.div {} 3 1 2) (regs job [(1, 7#64)])).reg 0 0 3 = -1#64 := by decide
theorem test_div_minimum : (after (.div {} 3 1 2) (regs job [(1, 1#64 <<< 63), (2, -1#64)])).reg 0 0 3 = 1#64 <<< 63 := by decide
theorem test_divu_by_zero : (after (.divu {} 3 1 2) (regs job [(1, 7#64)])).reg 0 0 3 = -1#64 := by decide
theorem test_rem_sign_of_dividend : (after (.rem {} 3 1 2) (regs job [(1, -7#64), (2, 2#64)])).reg 0 0 3 = -1#64 := by decide
theorem test_remu_by_zero : (after (.remu {} 3 1 2) (regs job [(1, 7#64)])).reg 0 0 3 = 7#64 := by decide
theorem test_and : (after (.and {} 3 1 2) (regs job [(1, 12#64), (2, 10#64)])).reg 0 0 3 = 8#64 := by decide
theorem test_or : (after (.or {} 3 1 2) (regs job [(1, 12#64), (2, 10#64)])).reg 0 0 3 = 14#64 := by decide
theorem test_xor_to_g0 : (after (.xor {} 0 1 2) (regs job [(1, 12#64), (2, 10#64)])).reg 0 0 0 = 0#64 := by decide
theorem test_shl_by_64 : (after (.shl {} 3 1 2) (regs job [(1, 5#64), (2, 64#64)])).reg 0 0 3 = 5#64 := by decide
theorem test_shr_zeros : (after (.shr {} 3 1 2) (regs job [(1, -1#64), (2, 63#64)])).reg 0 0 3 = 1#64 := by decide
theorem test_sra_sign : (after (.sra {} 3 1 2) (regs job [(1, -8#64), (2, 2#64)])).reg 0 0 3 = -2#64 := by decide
theorem test_slt_signed : (after (.slt {} 3 1 2) (regs job [(1, -1#64), (2, 0#64)])).reg 0 0 3 = 1#64 := by decide
theorem test_sltu_unsigned : (after (.sltu {} 3 1 2) (regs job [(1, -1#64), (2, 0#64)])).reg 0 0 3 = 0#64 := by decide
theorem test_min_signed : (after (.min {} 3 1 2) (regs job [(1, -1#64), (2, 0#64)])).reg 0 0 3 = -1#64 := by decide
theorem test_max_signed : (after (.max {} 3 1 2) (regs job [(1, -1#64), (2, 0#64)])).reg 0 0 3 = 0#64 := by decide
theorem test_minu_unsigned : (after (.minu {} 3 1 2) (regs job [(1, -1#64), (2, 0#64)])).reg 0 0 3 = 0#64 := by decide
theorem test_maxu_unsigned : (after (.maxu {} 3 1 2) (regs job [(1, -1#64), (2, 0#64)])).reg 0 0 3 = -1#64 := by decide
theorem test_andi_sign_extends : (after (.andi {} 3 1 1023) (regs job [(1, -4#64)])).reg 0 0 3 = -4#64 := by decide
theorem test_ori : (after (.ori {} 3 1 512) (regs job [])).reg 0 0 3 = -512#64 := by decide
theorem test_xori : (after (.xori {} 3 1 1023) (regs job [(1, 5#64)])).reg 0 0 3 = -6#64 := by decide
theorem test_shli : (after (.shli {} 3 1 63) (regs job [(1, 3#64)])).reg 0 0 3 = 1#64 <<< 63 := by decide
theorem test_shri : (after (.shri {} 3 1 4) (regs job [(1, 0x123#64)])).reg 0 0 3 = 0x12#64 := by decide
theorem test_srai : (after (.srai {} 3 1 63) (regs job [(1, -5#64)])).reg 0 0 3 = -1#64 := by decide
theorem test_slti : (after (.slti {} 3 1 1023) (regs job [(1, -2#64)])).reg 0 0 3 = 1#64 := by decide
theorem test_li_sign_extends : (after (.li {} 3 0x80000000) job).reg 0 0 3 = 0xFFFFFFFF80000000#64 := by decide
theorem test_lih_keeps_low : (after (.lih {} 3 0x12345678) (regs job [(3, 0x9ABCDEF0#64)])).reg 0 0 3 = 0x123456789ABCDEF0#64 := by decide
theorem test_result_due_after_four_cycles : tfind ((after (.mul {} 3 1 2) job).task 0 0).due 3 = some 4 := by decide
theorem test_fadd_one_and_one : (after (.fadd {} 0 3 1 2) (regs job [(1, 0x3F800000#64), (2, 0x3F800000#64)])).reg 0 0 3 = 0x40000000#64 := by decide
theorem test_fsub_bf16 : (after (.fsub {} 1 3 1 2) (regs job [(1, 0x4040#64), (2, 0x3F80#64)])).reg 0 0 3 = 0x4000#64 := by decide
theorem test_fmul_f16 : (after (.fmul {} 2 3 1 2) (regs job [(1, 0x4000#64), (2, 0x4200#64)])).reg 0 0 3 = 0x4600#64 := by decide
theorem test_fmin_orders_zeros : (after (.fmin {} 0 3 1 2) (regs job [(1, 0x80000000#64)])).reg 0 0 3 = 0x80000000#64 := by decide
theorem test_fmax_keeps_number : (after (.fmax {} 0 3 1 2) (regs job [(1, 0x7FC00000#64), (2, 0x3F800000#64)])).reg 0 0 3 = 0x3F800000#64 := by decide
theorem test_ffma_one_rounding : (after (.ffma {} 0 3 1 2 4) (regs job [(1, 0x40000000#64), (2, 0x40400000#64), (4, 0x3F800000#64)])).reg 0 0 3 = 0x40E00000#64 := by decide
theorem test_fdiv : (after (.fdiv {} 0 3 1 2) (regs job [(1, 0x40C00000#64), (2, 0x40000000#64)])).reg 0 0 3 = 0x40400000#64 := by decide +kernel
theorem test_fsqrt : (after (.fsqrt {} 0 3 1) (regs job [(1, 0x40800000#64)])).reg 0 0 3 = 0x40000000#64 := by decide +kernel
theorem test_feq_nan : (after (.feq {} 0 3 1 1) (regs job [(1, 0x7FC00000#64)])).reg 0 0 3 = 0#64 := by decide
theorem test_flt : (after (.flt {} 0 3 1 2) (regs job [(1, 0x3F800000#64), (2, 0x40000000#64)])).reg 0 0 3 = 1#64 := by decide
theorem test_fle : (after (.fle {} 0 3 1 2) (regs job [(1, 0x80000000#64)])).reg 0 0 3 = 1#64 := by decide
theorem test_fcvt_f32_to_bf16 : (after (.fcvt {} 2 3 1) (regs job [(1, 0x3F800000#64)])).reg 0 0 3 = 0x3F80#64 := by decide +kernel

/-! Transfers. -/

/-- The word at 0x1000 has L = 1. -/
def landing : State := (handled job).placeWord 0x1000 4

theorem wit_landable : landable landing 0 0x1000#64 := ⟨by decide, 0x1000, false, by decide, by decide⟩
theorem wit_handles : handles landing 0 0 := ⟨by decide, by decide, by decide⟩
theorem wit_refused_misaligned : (2#64).toNat % 4 ≠ 0 := by decide
theorem wit_refused_unmarked : (0x2000#64).toNat % 4 = 0 ∧ ∃ pa nc, translate (landing.core 0).seg .x (0x2000#64).toNat = .ok pa nc ∧
    (landing.fetchedWord 0 pa).testBit 2 = false := ⟨by decide, 0x2000, false, by decide, by decide⟩
theorem test_beq_taken : ((after (.beq {} 1 2 0) landing).task 0 0).pc = 0x1000#64 := by decide
theorem test_bne_goes_on : ((after (.bne {} 1 2 0) landing).task 0 0).pc = 0x1004#64 := by decide
theorem test_blt_signed : ((after (.blt {} 1 2 0) (regs landing [(1, -1#64)])).task 0 0).notBefore = 2 := by decide
theorem test_bge_signed : ((after (.bge {} 1 2 0) (regs landing [(1, -1#64)])).task 0 0).notBefore = 0 := by decide
theorem test_bltu_unsigned : ((after (.bltu {} 1 2 0) (regs landing [(1, -1#64)])).task 0 0).notBefore = 0 := by decide
theorem test_bgeu_unsigned : ((after (.bgeu {} 1 2 0) (regs landing [(1, -1#64)])).task 0 0).notBefore = 2 := by decide
theorem test_call_links : (after (.call {} 0) landing).reg 0 0 63 = 0x1004#64 := by decide
theorem test_callr_reads_first : ((after (.callr {} 63) (regs landing [(63, 0x1000#64)])).task 0 0).pc = 0x1000#64 := by decide
theorem test_j_refused_traps : ((after (.j {} 1) landing).task 0 0).pc = 0x8000#64 := by decide
theorem test_jr_misaligned_cause : ((after (.jr {} 1) (regs landing [(1, 2#64)])).task 0 0).tcause = 5#64 := by decide
theorem test_ret : ((after (.ret {}) (regs landing [(63, 0x1000#64)])).task 0 0).pc = 0x1000#64 := by decide

/-! Accesses of the control slice. -/

/-- Task 0 of core 0, which has a handler, with registers l. -/
def ctl (l : Tbl Word) : State := regs (handled job) l

/-- The last 8 bytes of the scratchpad stand in g1's address. -/
def topOfStore : State := ctl [(1, 0x3FFFF8#64), (2, 7#64)]

theorem wit_access_core : topOfStore.cur = .task 0 0 ∧ (0 : Nat) < 2 ^ 28 ∧ (topOfStore.reg 0 0 1).toNat % 8 = 0 ∧
    (topOfStore.reg 0 0 1).toNat < (topOfStore.core 0).scratchTop := by decide
theorem wit_access_virtual : finds job 0 .rd 0x1000#64 0x1000 false ∧ finds job 0 .wr 0x1000#64 0x1000 false ∧
    finds job 0 .at_ 0x1000#64 0x1000 false ∧ (0x1000#64).toNat % 16 = 0 := by unfold finds; decide
theorem wit_access_traps : handles topOfStore 0 0 ∧ (0x3FFFF9#64).toNat % 2 ≠ 0 ∧ (0x400000#64).toNat % 16 = 0 ∧
    (topOfStore.core 0).scratchTop ≤ (0x400000#64).toNat := by unfold handles; decide
theorem wit_atomic_at_register : (0x4000000000#64).toNat % 8 = 0 ∧ translate (job.core 0).seg .at_ (0x4000000000#64).toNat = .ok 0x4000000000 false ∧
    paPkg 0x4000000000 = pkgOf 0 ∧ inDev 0x4000000000 = true := by decide
theorem test_store_enters_queue : ((after (.st {} 3 1 2 true 0 0) topOfStore).core 0).accs.map (fun a => (a.pa, a.n, a.data.length)) = [(0x3FFFF8, 8, 8)] := by
  decide
theorem test_load_waits_twelve_cycles : ((after (.ld {} false 3 3 1 true 0 0) topOfStore).core 0).accs.map (fun a => a.readyAt) = [12] := by decide
theorem test_load_past_store_traps : ((after (.ld {} false 3 3 1 true 0 8) topOfStore).task 0 0).tcause = 7#64 := by decide
theorem test_atom_misaligned_traps : ((after (.atom {} 0 3 3 1 2) (ctl [(1, 4#64)])).task 0 0).tcause = 6#64 := by decide
theorem test_cas_keeps_comparand : ((after (.cas {} 2 3 1 2) (ctl [(1, 8#64), (3, -1#64)])).core 0).accs.map (fun a => a.cmp) = [some 0xFFFFFFFF] := by decide

/-- A store of task 0 to the core store. -/
def storing : State := access job { id := 9, party := 0, kind := .store, space := .core, va := 0x80, pa := 0x80, n := 2, data := cellsFrom 0x80 [1#8, 2#8] }
/-- A load of task 0 from the core store. -/
def loading : State := access job { id := 9, party := 0, kind := .load, space := .core, va := 0x80, pa := 0x80, n := 2, dest := .reg 5 true }
/-- The same load with its value on the way back. -/
def loaded (n : Nat) (bs : List Byte) : State :=
  access job { id := 9, party := 0, kind := .load, space := .core, va := 0x80, pa := 0x80, n, dest := .reg 5 true, stage := .performed, val := bs }

theorem wit_store_performs : (storing.core 0).access 9 ≠ none ∧ ((storing.core 0).accs.all fun a => (storing.core 0).mayPerform a && a.stage == .queued &&
    !a.acq && !a.rel && a.space == .core && a.kind == .store && a.data == cellsFrom a.pa [1#8, 2#8]) = true ∧ Memory.wf (storing.core 0).scratch = true := by decide
theorem wit_load_performs : (loading.core 0).access 9 ≠ none ∧ ((loading.core 0).accs.all fun a => (loading.core 0).mayPerform a && a.stage == .queued &&
    !a.acq && !a.rel && a.space == .core && a.kind == .load && ((loading.core 0).earlier a).all fun e => e.kind != .store) = true := by decide
theorem wit_value_returns : ((loaded 2 [0#8, 0x80#8]).core 0).access 9 ≠ none ∧ (((loaded 2 [0#8, 0x80#8]).core 0).accs.all fun a => a.stage == .performed &&
    a.space != .fabric && decide (a.readyAt ≤ 0) && a.party == 0 && a.dest == .reg 5 true && a.val.length == 2) = true ∧
    ((loaded 2 [0#8, 0x80#8]).task 0 0).st = .ready := by decide
theorem wit_pair_returns : (((loaded 16 (List.replicate 16 1#8)).core 0).accs.map fun a => a.val.length) = [16] := by decide
theorem test_store_writes_its_bytes : byteAt ((afterTurn (.perform 0 9) storing).core 0).scratch 0x81 = 2#8 := by decide
theorem test_load_sign_extends : (after (.memoryReadReturn 0 9 0) (loaded 2 [0#8, 0x80#8])).reg 0 0 5 = 0xFFFFFFFFFFFF8000#64 := by decide
theorem test_pair_high_half : (after (.memoryReadReturn 0 9 0) (loaded 16 (List.replicate 16 1#8))).reg 0 0 6 = 0x0101010101010101#64 := by decide

theorem wit_fence_orders : (acqOf {} = false ∧ relOf {} = false) ∧
    ¬ (acqOf { pfx := some ⟨false, false, 0, false, false, false, false, false, 0, 2⟩ } = false ∧
       relOf { pfx := some ⟨false, false, 0, false, false, false, false, false, 0, 2⟩ } = false) := by decide
theorem wit_maintenance_range : firstBad (pieces (job.core 0).seg .wr 0 0x100) = none := by decide
theorem test_fence : ((after (.fence {}) job).core 0).accs.map (fun a => (a.acq, a.rel)) = [(true, true)] := by decide
theorem test_fence_sc : ((after (.fenceSc {}) job).core 0).accs.map (fun a => a.kind) = [.fence true] := by decide
theorem test_qmark : ((after (.qmark {}) job).core 0).accs.map (fun a => a.kind) = [.qmark] := by decide
theorem test_clean_two_lines : ((after (.cleanR {} 1 2) (ctl [(1, 0x7F#64), (2, 2#64)])).core 0).accs.map (fun a => a.pieces) = [[(0, 256)]] := by decide
theorem test_inv_nothing : ((after (.invR {} 1 2) job).core 0).accs.map (fun a => a.pieces) = [[]] := by decide
theorem test_cleaninv : ((after (.cleaninvR {} 1 2) (ctl [(2, 1#64)])).core 0).accs.map (fun a => a.kind) = [.cleaninv] := by decide

/-- g1 lies where no segment is; g2 is 4. -/
def unmapped : State := ctl [(1, 0x20000000000#64), (2, 4#64)]
/-- The same with a strand running. -/
def unmappedRunning : State := strands unmapped fun e => { named := e == 1 }

theorem wit_probe_hit : firstUncovered (job.core 0).seg 0 0x1000 4 = none := by decide
theorem wit_probe_walks : (unmapped.reg 0 0 2).toNat ≠ 0 ∧ firstUncovered (unmapped.core 0).seg 0 (unmapped.reg 0 0 1).toNat (unmapped.reg 0 0 2).toNat ≠ none ∧
    (unmapped.core 0).data.allHeld = true := by decide
theorem wit_probe_traps : handles unmappedRunning 0 0 ∧ firstUncovered (unmappedRunning.core 0).seg 0 (unmappedRunning.reg 0 0 1).toNat 4 ≠ none ∧
    (unmappedRunning.core 0).data.allHeld = false := by unfold handles; decide
theorem test_probe_hit : (after (.probe {} 0 3 0 2) (ctl [(2, 4#64), (3, 9#64)])).reg 0 0 3 = 0#64 := by decide
theorem test_probe_parks : ((after (.probe {} 0 3 1 2) unmapped).task 0 0).st = .parked := by decide

/-- A core whose L1 is fused. -/
def fusedCore : State := (handled job).modCore 0 fun k => { k with fused := true }
/-- Core 0 in the last cycle of a phase to code 1. -/
def phaseDone : State := (after (.phase {} 1) job).modCore 0 fun k => { k with cycle := 96 + 2 * 2048 }
/-- The head of the walk queue of die 0 is core 0, whose probe finds all of its range. -/
def walked : State :=
  { job with walkQ := [(0, [0])] }.modCore 0 fun k => { (k.setTask 0 { k.task 0 with st := .parked, wait := some { what := .walk, instr := .probe {} 0 3 1 2, len := 4 } }) with
    probe := some { task := 0, rd := 3, kind := 0, addr := 0x1000, left := 4 } }

theorem wit_phase_traps : handles fusedCore 0 0 ∧ (fusedCore.core 0).fused = true := by unfold handles; decide
theorem wit_phase_begins : (job.core 0).fused = false ∧ ringInRegion (job.core 0) 0 0x400000 = none := by decide
theorem wit_phase_ends : ((phaseDone.core 0).phase.all fun p => p.task == 0 && p.code == 1 && decide (p.doneAt ≤ (phaseDone.core 0).cycle)) = true ∧
    (phaseDone.core 0).phase.isSome = true ∧ phaseDone.isFrozen 0 = false ∧ (phaseDone.task 0 0).wait.isSome = true ∧
    shareBytes (phaseDone.core 0).share ≤ shareBytes 1 := by decide
theorem wit_walk_ends : tget [] walked.walkQ 0 = [0] ∧ (walked.core 0).probe.isSome = true ∧ dieOf 0 = 0 ∧ (walked.core 0).outstanding = 0 ∧
    firstUncovered (walked.core 0).seg 0 0x1000 4 = none ∧ (walked.task 0 0).wait.isSome = true := by decide
theorem test_phase_cycles : ((after (.phase {} 1) job).core 0).phase.map (fun p => p.doneAt) = some ((shareBytes 1 / 128) * 2 + 96) := by decide
theorem test_walk_answers_mapped : (after (.pageWalkComplete 0) walked).reg 0 0 3 = 1#64 := by decide

/-! Jobs, tasks, control queues, barriers and events. -/

/-- The vector strand is named and held, its queue holds n entries. -/
def queued (n : Nat) : State :=
  strands (ctl [(1, 5#64), (2, 6#64)]) fun e => { named := e == 1, held := e == 1, cq := { ents := List.replicate n { ty := 4, tag := 2, payload := 3 } } }

theorem wit_queue_has_room : ((queued 63).core 0).data.names 1 = true ∧ ((queued 63).strand 0 1).cq.ents.length < 64 ∧
    (∀ e, e < 4 → 1 ≤ e → ((queued 63).strand 0 e).named = true → ((queued 63).strand 0 e).cq.ents.length < 64) := by decide
theorem wit_send_unnamed : ((queued 0).core 0).data.names 2 = false ∧ handles (queued 0) 0 0 := by unfold handles; decide
theorem wit_squash_first_removed : [⟨5, 2, 0⟩, ⟨0, 1, 9⟩, ⟨4, 2, 7⟩, ⟨4, 2, 8⟩] = [⟨5, 2, 0⟩, ⟨0, 1, 9⟩] ++ (⟨4, 2, 7⟩ : CqEnt) :: [⟨4, 2, 8⟩] ∧
    (([⟨5, 2, 0⟩, ⟨0, 1, 9⟩] : List CqEnt).all fun e => !(e.tag == 2 && e.ty != 5)) = true := by decide
theorem test_squash : squashList 2 false [⟨5, 2, 0⟩, ⟨0, 1, 9⟩, ⟨4, 2, 7⟩, ⟨4, 2, 8⟩] = [⟨5, 2, 0⟩, ⟨0, 1, 9⟩, ⟨6, 2, 0⟩] := by decide
theorem test_cq_count : ((after (.cqCount {} 1 1 3) (queued 0)).strand 0 1).cq.ents = [⟨0, 3, 5⟩] := by decide
theorem test_cq_out : ((after (.cqOut {} 1 1 3) (queued 0)).strand 0 1).cq.ents = [⟨1, 3, 1⟩] := by decide
theorem test_cq_mrow : ((after (.cqMrow {} 1 1 2 3) (queued 0)).strand 0 1).cq.ents = [⟨2, 3, 5 + 2 ^ 64 * 6⟩] := by decide
theorem test_cq_mbits : ((after (.cqMbits {} 1 1 2 3) (queued 0)).strand 0 1).cq.ents = [⟨3, 3, 5 + 2 ^ 64 * 6⟩] := by decide
theorem test_cq_val_unnamed : ((after (.cqVal {} 2 1 3) (queued 0)).task 0 0).tcause = 24#64 := by decide
theorem test_cq_region : ((after (.cqRegion {} 1) (queued 0)).strand 0 1).cq.ents = [⟨5, 0, 1⟩] := by decide
theorem test_cq_squash : ((after (.cqSquash {} 1 2) (queued 2)).strand 0 1).cq.ents = [⟨6, 2, 0⟩] := by decide

/-- The same strand runs. -/
def running : State := strands (handled job) fun e => { named := e == 1 }
/-- Ring 3 is enabled, and its producer is not named. -/
def ringWrong : State := data (queued 0) fun d => { d with rings := [(3, 1#64)] }
/-- Task 1 of core 0 issues. -/
def second (s : State) : State := { s.modTask 0 1 fun x => { x with st := .ready, pc := 0x3000#64 } with cur := .task 0 1 }

theorem wit_go : ((queued 0).core 0).data.allHeld = true ∧ failingRing ((queued 0).core 0) = none ∧ ((queued 0).core 0).data.withheld = [] := by decide
theorem wit_go_state : (running.core 0).data.allHeld = false ∧ handles running 0 0 := by unfold handles; decide
theorem wit_go_of_another_task : (second (queued 0)).cur = .task 0 1 ∧ handles (second (queued 0)) 0 1 := by unfold handles; decide
theorem wit_go_ring : (ringWrong.core 0).data.allHeld = true ∧ failingRing (ringWrong.core 0) = some 3 := by decide
theorem test_go_releases : ((after (.go {}) (queued 0)).strand 0 1).held = false := by decide
theorem test_go_names_the_ring : ((after (.go {}) ringWrong).task 0 0).tval = 3#64 := by decide

/-- A `go` has been carried out. -/
def started : State := { after (.go {}) (queued 0) with cur := .task 0 0 }
/-- Task 0 waits at a `rim` with the strand held. -/
def atRim : State := after (.rim {}) (queued 0)
/-- The strand waits at a region word of the interlocked mode. -/
def crossing : State := strands job fun e => { named := e == 1, atRegion := if e == 1 then some false else none }

theorem wit_jend : ((queued 0).core 0).data.allHeld = true := by decide
theorem wit_restart : (started.core 0).data.snap.isSome = true := by decide
theorem wit_restart_refused : ((queued 0).core 0).data.snap = none ∧ handles (queued 0) 0 0 := by unfold handles; decide
theorem wit_rim_ends : (atRim.task 0 0).st = .parked ∧ (atRim.task 0 0).wait.map (fun w => w.what) = some .rim ∧ (atRim.core 0).data.allHeld = true ∧
    atRim.dataDrained 0 = true ∧ atRim.isFrozen 0 = false := by decide
theorem wit_crossing : (crossing.core 0).data.crossing = some false ∧ crossing.dataDrained 0 = true ∧ crossing.isFrozen 0 = false ∧
    (crossing.core 0).data.withheld = [] := by decide
theorem test_rim_goes_on : ((after (.rimRendezvous 0) atRim).task 0 0).pc = 0x1004#64 := by decide
theorem test_jend_waits : ((after (.jend {}) (queued 0)).task 0 0).wait.map (fun w => w.what) = some .jend := by decide
theorem test_restart_stops : ((after (.restart {}) started).strand 0 1).running = false := by decide
theorem test_crossing_sets_the_mode : ((after (.regionCrossingComplete 0) crossing).core 0).data.timed = false := by decide

/-- All eight contexts are in use, and the word at 0x1000 is a landing. -/
def full : State := landing.modCore 0 fun k => { k with tasks := (span 0 8).map fun n => (n, { st := .ready, pc := 0x1000#64 }) }

theorem wit_spawn_none_free : landable full 0 0x1000#64 ∧ ∀ n, n < 8 → (full.task 0 n).st ≠ .free :=
  ⟨⟨by decide, 0x1000, false, by decide, by decide⟩, by decide⟩
theorem wit_spawn_first_free : (landing.task 0 0).st = .ready ∧ (landing.task 0 1).st = .free ∧ ∀ m, m < 1 → (landing.task 0 m).st ≠ .free := by decide
theorem wit_texit : (second job).cur = .task 0 1 ∧ (1 : Nat) ≠ 0 ∧ handles landing 0 0 := by unfold handles; decide
theorem test_tspawn_argument : (after (.tspawn {} 2 1 0) (regs landing [(1, 7#64)])).reg 0 1 1 = 7#64 := by decide
theorem test_tspawn_none_free : (after (.tspawn {} 2 1 0) full).reg 0 0 2 = -1#64 := by decide
theorem test_texit_frees : ((after (.texit {}) (second job)).task 0 1).st = .free := by decide

/-- A weave that holds panel barrier 0; g1 is the address of the barrier's configuration. -/
def barriered (b : Barrier) : State :=
  { ctl [(1, 0x4000040000#64)] with weaves := [(1, { loaderWeave with lrec := { loaderWeave.lrec with bars := [(0, 0), (0, 0), (0, 0), (0, 1)] } })],
                                     barriers := [(barKey (.panel 0), b)] }

theorem wit_barrier_flips : ({ parties := 1, arrived := 2 ^ 20 - 2 } : Barrier).arrived + 1 < 2 ^ 20 ∧ (1 : Nat) ≠ 0 ∧ 1 ≤ 2 ^ 20 - 2 + 1 := by decide
theorem wit_barrier_does_not_flip : ({ parties := 2 } : Barrier).arrived + 1 < 2 ∧ ({ parties := 2 } : Barrier).counted + 0 < 2 ^ 43 := by decide
theorem wit_arrive : ((barriered { parties := 2 }).reg 0 0 1).toNat % 16 = 0 ∧
    translate ((barriered { parties := 2 }).core 0).seg .rd 0x4000040000 = .ok 0x4000040000 false ∧ barAt 0x4000040000 = some (.panel 0, 0) ∧
    (barriered { parties := 2 }).barAllocated 0 (.panel 0) = true := by decide
theorem wit_barrier_wait : ((barriered { parties := 2 }).barrier (.panel 0)).unset = false ∧
    ((barriered { parties := 2 }).barrier (.panel 0)).phase = ((barriered { parties := 2 }).reg 0 0 2).getLsbD 0 ∧
    ((barriered { parties := 2, phase := true }).barrier (.panel 0)).phase = !((barriered { parties := 2, phase := true }).reg 0 0 2).getLsbD 0 := by decide
theorem wit_carried : ((barriered { parties := 1, arrived := 1 }).barrier (.panel 0)).due = true ∧ (barriered { parties := 1, arrived := 1 }).barWaited (.panel 0) = false := by
  decide
theorem test_barrier_excess : (({ parties := 2, bytes := 8, arrived := 1, counted := 8 } : Barrier).apply 2 3).flip =
    { parties := 2, bytes := 8, arrived := 1, counted := 3, phase := true } := by decide
theorem test_bara_parks : ((after (.bara {} 3 1) (barriered { parties := 2 })).task 0 0).st = .parked := by decide
theorem test_barw_goes_on : ((after (.barw {} 1 2) (barriered { parties := 2, phase := true })).task 0 0).pc = 0x1004#64 := by decide
theorem test_carry_flips : ((after (.barrierCarryFlip (.panel 0)) (barriered { parties := 1, arrived := 1 })).barrier (.panel 0)).phase = true := by decide

/-- A signal of weave 1 for slot 31 of core 0, whose count is n. -/
def signalled (n : Nat) : State :=
  { ctl [(1, 31#64), (2, 0x3FFFF#64), (3, 0x40000#64)] with
      signals := [{ id := 4, core := 0, slot := 31, weave := some 1, ctx := 0, acq := none }] }.modCore 0 fun k => { k with events := [(31, { count := n })] }

theorem wit_signal : (0x3FFFF#64).toNat < 2 ^ 18 ∧ 2 ^ 18 ≤ (0x40000#64).toNat ∧ handles (signalled 0) 0 0 := by unfold handles; decide
theorem wit_event_parks : (31#64).toNat < 2 ^ 5 ∧ (tget {} ((signalled 0).core 0).events 31).count = 0 ∧ 2 ^ 5 ≤ (0x3FFFF#64).toNat := by decide
theorem wit_event_taken : (tget {} ((signalled 1).core 0).events 31).count ≠ 0 := by decide
theorem wit_signal_arrives : (signalled 65535).weaveOf 0 = some loaderWeave ∧ ((signalled 65535).signals.all fun g => g.reaches loaderWeave && g.acq == none) = true ∧
    ((signalled 65535).core 0).eventWaiter 31 = none := by decide
theorem test_evs_names_core_and_slot : ((after (.evs {} 2) (signalled 0)).signals.map fun g => (g.core, g.slot)) = [(0, 31), (8191, 31)] := by decide
theorem test_evw_takes : tget {} ((after (.evw {} 1) (signalled 1)).core 0).events 31 = {} := by decide
theorem test_signal_overflow : tget {} ((after (.eventSignalArrival 4) (signalled 65535)).core 0).events 31 = { count := 65535, ovf := true } := by decide
theorem test_evw_operand : ((after (.evw {} 2) (signalled 1)).task 0 0).tval = 0x3FFFF#64 := by decide

/-! System registers and traps. -/

/-- A pending fault of the vector strand. -/
def faulted : State := (handled job).modCore 0 fun k => { k with dfault := some { strand := 1, code := 28, tval := 9#64, cycle := 1 } }

theorem wit_sysr : job.cur = .task 0 0 ∧ (0 : Nat) < 8192 ∧ (0x10 : Nat) + 7 = 0x17 ∧ (0x18 : Nat) < 0x19 := by decide
theorem wit_sysw : ((0xF5#64).extractLsb' 0 3).toNat < 6 ∧ 6 ≤ ((0xF6#64).extractLsb' 0 3).toNat ∧ (8#64).toNat % 4 = 0 ∧ (9#64).toNat % 4 ≠ 0 := by decide
theorem test_sysr_taskid : (after (.sysr {} 3 0x04) (second job)).reg 0 1 3 = 1#64 := by decide
theorem test_sysr_unlisted : ((after (.sysr {} 3 0x19) (handled job)).task 0 0).tcause = 1#64 := by decide
theorem test_sysw_fpm_reserved_bits : ((after (.sysw {} 0x00 1) (ctl [(1, 0xF5#64)])).task 0 0).fpm = 5#64 := by decide
theorem test_sysw_fpm_mode : ((after (.sysw {} 0x00 1) (ctl [(1, 6#64)])).task 0 0).tcause = 1#64 := by decide
theorem wit_traps : handles (handled job) 0 0 ∧ ((handled job).modTask 0 0 fun x => { x with tin := true }).task 0 0 ≠ {} := by unfold handles; decide
theorem wit_torn : job.debugOn 0 = false ∧ job.weaveOf 0 = some loaderWeave ∧ tfind job.weaves loaderWeave.id = some loaderWeave ∧ loaderWeave.torn = false ∧
    (job.core 0).tvec = 0#64 := by decide
theorem wit_fault_taken : faulted.ctlRuns 0 = true ∧ (faulted.task 0 0).st = .ready ∧ (faulted.task 0 0).tin = false ∧ (faulted.core 0).tvec ≠ 0#64 ∧
    (faulted.core 0).nextFault = some ({ strand := 1, code := 28, tval := 9#64, cycle := 1 }, true) := by decide
theorem test_trap_saves_the_next_word : ((after (.trap {} 1) (ctl [(1, 77#64)])).task 0 0).tpc = 0x1004#64 := by decide
theorem test_trap_value : ((after (.trap {} 1) (ctl [(1, 77#64)])).task 0 0).tval = 77#64 := by decide
theorem test_brk_cause : ((after (.brk {}) (handled job)).task 0 0).tcause = 23#64 := by decide
theorem test_tret : ((after (.tret {}) ((handled job).modTask 0 0 fun x => { x with tin := true, tpc := 0x1234#64 })).task 0 0).pc = 0x1234#64 := by decide
theorem test_illegal : ((after (.illegalInstruction 0x55) (handled job)).task 0 0).tval = 0x55#64 := by decide
theorem test_nop : ((after (.ctlNop {}) job).task 0 0).pc = 0x1004#64 := by decide
theorem test_trap_without_handler : ((after (.trap {} 1) job).weaves.map fun w => w.2.status) = [11] := by decide
theorem test_fault_cause : ((after (.asyncFaultTake 0) faulted).task 0 0).tcause = 0x181C#64 := by decide

/-! The data strands. -/

/-- Strand e of core 0 is x, and it issues. -/
def strandOf (e : Nat) (x : Strand) : State :=
  { strands (handled job) (fun n => if n = e then { x with named := true } else {}) with cur := .strand 0 e }

/-- A ring descriptor: the place, the engines, slots, the slot size, the base, the two pointers; enabled. -/
def ringW (loc prod cons slots size base p c : Nat) : Word :=
  BitVec.ofNat 64 (2 ^ 62 * loc + 2 ^ 59 * prod + 2 ^ 56 * cons + 2 ^ 48 * (slots - 1) + 2 ^ 44 * size + 2 ^ 22 * base + 2 ^ 14 * p + 2 ^ 6 * c + 1)

/-- A load of class 3 whose bytes are still out at its due cycle. -/
def late : State := data (strandOf 1 {}) fun d => { d with vloads := [{ op := 5, seq := 0, reg := 1, word := 0x40, due := 0, cls3 := true, out := 1, cells := [] }] }
/-- The data engines freeze, and have for n cycles. -/
def freezing (n : Nat) : State := data (strandOf 1 { held := true }) fun d => { d with frozen := true, watch := n }

theorem wit_snapshot : (strandOf 1 { pc := 0x2000 }).cur = .strand 0 1 ∧ ((strandOf 1 { pc := 0x2000 }).core 0).data.withheld = [] := by decide
theorem wit_freeze_ends : ((freezing 1).core 0).data.frozen = true ∧ (freezing 1).freezeMet 0 = false ∧ (freezing 1).dataHeld 0 = false ∧
    ((freezing 1).core 0).data.timeoutRaised = false := by decide
theorem wit_freeze_timeout : 65536 ≤ ((freezing 65536).core 0).data.watch ∧ ((freezing 65536).core 0).data.late3 = none ∧
    (freezing 65536).isFrozen 0 = false ∧ (freezing 65536).debugOn 0 = false ∧ ((freezing 65536).core 0).dfault = none := by decide
theorem wit_late : (late.core 0).data.late3.isSome = true ∧ late.dataHeld 0 = false ∧ (late.core 0).job.isSome = true ∧ late.debugOn 0 = false ∧
    (late.core 0).dfault = none := by decide
theorem wit_word_arrives : translate (landing.core 0).seg .x 0x1000 = .ok 0x1000 false ∧ (landing.core 0).job.isSome = true ∧
    (landing.core 0).probe = none ∧ (landing.core 0).phase = none ∧ (tfind landing.homes (0x1000 / 32)).isSome = true := by decide
theorem test_snapshot_taken : ((after (.dataNop { k := true }) (strandOf 1 { pc := 0x2000 })).core 0).data.snap.map (fun m => m.vec.pc) = some 0x2000 := by decide
theorem test_freeze_ends : ((after (.dataFreezeEnd 0) (freezing 1)).core 0).data.frozen = false := by decide
theorem test_freeze_timeout : ((after (.freezeTimeout 0) (freezing 65536)).core 0).dfault.map (fun f => f.code) = some 28 := by decide
theorem test_timing : ((after (.timingTrap 0) late).core 0).dfault.map (fun f => f.tval) = some 0x40#64 := by decide
theorem test_ibuf_fill : tfind ((after (.ibufFill 0 0x1000) { landing with cores := landing.cores.map fun e => (e.1, { e.2 with ibuf := [] }) }).core 0).ibuf 0x400 = some 4 := by
  decide

/-- A strand at the last word of a block. -/
def atEnd (kind : BlockKind) (remain : Nat) : Strand := { pc := 0x2010, blocks := [{ kind, head := 0x2000, first := 0x2008, last := 0x2018, remain }] }
/-- A strand whose queue has one entry. -/
def popping (e : Nat) (ent : CqEnt) : State := strandOf e { pc := 0x2000, cq := { ents := [ent] } }

theorem wit_block_repeats : (atEnd .loop 2).pc + 8 = 0x2018 ∧ 1 < 2 ∧ (atEnd .loop 1).blocks ≠ [] ∧ (1 : Nat) ≤ 1 ∧ ({ pc := 0x2000 } : Strand).blocks = [] := by decide
theorem test_loop_goes_back : ((atEnd .loop 2).step 7).pc = 0x2008 := by decide
theorem test_loop_is_left : ((atEnd .loop 1).step 7).pc = 0x2018 := by decide
theorem test_while_goes_to_its_head : ((atEnd .whileLoop 0).step 7).pc = 0x2000 := by decide
theorem test_cond_is_left : ((atEnd .cond 0).step 7).blocks = [] := by decide
theorem wit_shared : ∀ e ∈ [1, 2, 3], (strandOf e {}).cur = .strand 0 e ∧ (2 ^ 28 - 1 : Nat) < 2 ^ 28 ∧ (2 ^ 25 - 1 : Nat) < 2 ^ 25 := by decide
theorem test_xset_sign_extends : (after (.vxset {} 3 0 (2 ^ 25 - 1)) (strandOf 1 {})).strand 0 1 =
    { named := true, pc := 8, base := 1, x := [(3, -1#64)] } := by decide
theorem test_xset_index : tget 0#64 ((after (.mxset {} 3 1 0) ((strandOf 2 {}).modCore 0 fun k => { k with lvid := [(0, { valid := true, count := 9, index := 4 })] })).strand 0 2).x 3 = 4#64 := by
  decide
theorem test_xset_invalid_level : tget 0#64 ((after (.cpXset {} 3 2 7) (strandOf 3 {})).strand 0 3).x 3 = 0#64 := by decide
theorem test_xadd : tget 0#64 ((after (.vxadd {} 2 3 (2 ^ 28 - 1)) (strandOf 1 { x := [(2, 5#64)] })).strand 0 1).x 3 = 4#64 := by decide
theorem test_mxadd : tget 0#64 ((after (.mxadd {} 2 2 1) (strandOf 2 { x := [(2, 5#64)] })).strand 0 2).x 2 = 6#64 := by decide
theorem test_cp_xadd : tget 0#64 ((after (.cpXadd {} 2 2 0) (strandOf 3 { x := [(2, 5#64)] })).strand 0 3).x 2 = 5#64 := by decide

theorem wit_entry : ∀ e ∈ [1, 2, 3], ∀ ent ∈ [⟨0, 1, 0⟩, ⟨1, 1, 1⟩, ⟨4, 0, 9⟩, ⟨5, 0, 1⟩, ⟨2, 0, 3⟩, ⟨6, 1, 0⟩],
    (popping e ent).cur = .strand 0 e ∧ ((popping e ent).strand 0 e).blocks = [] ∧
    ((popping e ent).strand 0 e).cq.ents[((popping e ent).strand 0 e).cq.popped]? = some ent ∧
    ((popping e ent).core 0).data.withheld = [] ∧ ((popping e ent).core 0).data.xfers = [] ∧ (popping e ent).debugOn 0 = false ∧
    ((popping e ent).core 0).dfault = none := by decide
theorem test_loop_count_zero_skips : ((after (.vloopQ {} 3) (popping 1 ⟨0, 1, 0⟩)).strand 0 1).blocks.map (fun b => (b.kind, b.last)) = [(.skip, 0x2020)] := by decide
theorem test_loop_enters : ((after (.mloopQ {} 3) (popping 2 ⟨0, 1, 5⟩)).strand 0 2).blocks.map (fun b => (b.first, b.last, b.remain)) = [(0x2008, 0x2020, 5)] := by decide
theorem test_loop_wrong_entry : ((after (.cpLoopQ {} 3) (popping 3 ⟨4, 1, 5⟩)).core 0).dfault.map (fun f => (f.strand, f.code)) = some (3, 26) := by decide
theorem test_while_enters : ((after (.vwhileQ {} 2) (popping 1 ⟨1, 1, 1⟩)).strand 0 1).blocks.map (fun b => b.kind) = [.whileLoop] := by decide
theorem test_mwhile_skips : ((after (.mwhileQ {} 2) (popping 2 ⟨1, 1, 0⟩)).strand 0 2).skipping = true := by decide
theorem test_cp_while_skips : ((after (.cpWhileQ {} 0) (popping 3 ⟨1, 1, 0⟩)).strand 0 3).pc = 0x2008 := by decide
theorem test_if_enters : ((after (.vifQ {} 1) (popping 1 ⟨1, 0, 1⟩)).strand 0 1).blocks.map (fun b => b.kind) = [.cond] := by decide
theorem test_mif_skips : ((after (.mifQ {} 1) (popping 2 ⟨1, 0, 0⟩)).strand 0 2).skipping = true := by decide
theorem test_cp_if_enters : ((after (.cpIfQ {} 1) (popping 3 ⟨1, 0, 1⟩)).strand 0 3).pc = 0x2008 := by decide
theorem test_val : tget 0#64 ((after (.vvalQ {} 6) (popping 1 ⟨4, 0, 9⟩)).strand 0 1).x 6 = 9#64 := by decide
theorem test_mval_stop_passes : ((after (.mvalQ {} 6) (popping 2 ⟨6, 0, 0⟩)).strand 0 2).x = [] := by decide
theorem test_cp_val : tget 0#64 ((after (.cpValQ {} 6) (popping 3 ⟨4, 0, 9⟩)).strand 0 3).x 6 = 9#64 := by decide
theorem test_region_waits : ((after (.dataRegion {} 1) (popping 1 ⟨5, 0, 1⟩)).strand 0 1).atRegion = some false := by decide
theorem test_vmask : ((after (.vmaskQ {} 2) (popping 1 ⟨2, 0, 3⟩)).core 0).data.vres.map (fun x => (x.due, x.val)) = [(1, 7)] := by decide +kernel
theorem test_rim_holds : ((after (.dataRim {}) (popping 1 ⟨2, 0, 3⟩)).strand 0 1).held = true := by decide

/-! The vector engine. -/

/-- The array queue of core 0 holds n words. -/
def arrayed (n : Nat) : State :=
  data (strandOf 1 { pc := 0x40, src := 2 ^ 32 - 1 }) fun d =>
    { d with timed := true, arrayFree := 9, arrayQ := List.replicate n { seq := 0, pc := 0, instr := .dataNop {}, issued := 0 } }
/-- A word stands at the head of the array queue; the registers hold cells of use. -/
def heading (i : Instr) (va vb : Nat) : DataSide :=
  { v := [(1, va), (2, vb)], k := [(7, 2 ^ 1023 + 2 ^ 960 + 2 ^ 64 + 2 ^ 63 + 3)], arrayQ := [{ seq := 3, pc := 0x40, instr := i, issued := 0 }], seq := 4 }
def headed (i : Instr) (va vb : Nat) : State := data job fun _ => heading i va vb
/-- The words of destination 3 and sources 1 and 2, in the cells of mask 7. -/
def d12 : DR := { vd := 3, va := 1, vb := 2, men := true, km := 7 }
/-- Cell n of the result that a word at the head of the array queue is to give. -/
def resultCell (i : Instr) (va vb n : Nat) : Option Nat :=
  match arrayResult (heading i va vb) { seq := 3, pc := 0x40, instr := i, issued := 0 } with
  | some (_, ps) => some (cellAt (mergeBits ((heading i va vb).vreg 3) (pieceMask ps) (pieceVal ps)) n)
  | none => none

theorem wit_array_room : ((arrayed 7).core 0).data.arrayWaiting < 8 ∧ ((arrayed 8).core 0).data.timed = true ∧ 8 ≤ ((arrayed 8).core 0).data.arrayWaiting ∧
    (arrayed 8).cur = .strand 0 1 := by decide
theorem test_array_draws_wrap : ((after (.vadd {} { rm := 5 }) (arrayed 7)).strand 0 1).src = 0 := by decide
theorem test_array_full : ((after (.vmin {} {}) (arrayed 8)).core 0).dfault.map (fun f => f.code) = some 34 := by decide

/-- One result of core 0 is due. -/
def resultDue (t : VTarget) : State :=
  data job fun d => { d with counted := 9, v := [(5, 0xFF)], k := [(5, 0xFF)], vres := [{ due := 9, seq := 1, target := t, mask := 0xF0, val := 0x50 }, { due := 10, seq := 2, target := t, mask := 1, val := 0 }] }

theorem wit_result_due : (resultDue (.vreg 5)).dataHeld 0 = false ∧ ((resultDue (.vreg 5)).core 0).data.vres.map (fun x => x.due) = [9, 10] ∧
    ((resultDue (.vreg 5)).core 0).data.counted = 9 ∧ ((resultDue (.vreg 5)).core 0).data.vloads = [] ∧ ((resultDue (.vreg 5)).core 0).data.slotActs = [] := by decide
theorem test_result_merges : tget 0 ((after (.resultDue 0) (resultDue (.vreg 5))).core 0).data.v 5 = 0x5F := by decide
theorem test_result_of_a_mask : tget 0 ((after (.resultDue 0) (resultDue (.mreg 5))).core 0).data.k 5 = 0x5F := by decide

theorem wit_raw_words : ∀ i ∈ [Instr.vand {} d12, .vor {} d12, .vxor {} d12, .vnot {} d12, .vsel {} d12, .vmovi {} (2 ^ 32 - 1) true 7 3,
      .vrotr {} { d12 with vb := 63 }, .vrotc {} { d12 with vb := 15 }, .vbcr {} { d12 with vb := 63 }, .vbcc {} { d12 with vb := 15 }, .vkmovToVector {} d12],
    (((headed i 12 10).core 0).data.arrayQ.map fun w => w.instr) = [i] ∧ ((headed i 12 10).core 0).data.arrayFree ≤ ((headed i 12 10).core 0).data.counted ∧
    ((headed i 12 10).core 0).data.vec.stopped = false ∧ ((headed i 12 10).core 0).caughtUp = true ∧ (headed i 12 10).dataHeld 0 = false := by decide
theorem test_vand : resultCell (.vand {} d12) 12 10 0 = some 8 := by decide +kernel
theorem test_vor : resultCell (.vor {} d12) 12 10 0 = some 14 := by decide +kernel
theorem test_vxor : resultCell (.vxor {} d12) 12 10 0 = some 6 := by decide +kernel
theorem test_vnot : resultCell (.vnot {} d12) 12 10 1023 = some 0xFFFFFFFF := by decide +kernel
theorem test_vmovi : resultCell (.vmovi {} 0x80000000 true 7 3) 0 0 1023 = some 0x80000000 := by decide +kernel
theorem test_vsel_takes_vb_where_clear : resultCell (.vsel {} d12) 12 10 0 = some 10 := by decide +kernel
theorem test_vrotr : resultCell (.vrotr {} { d12 with vb := 63 }) 12 0 1 = some 12 := by decide +kernel
theorem test_vrotc : resultCell (.vrotc {} { d12 with vb := 15 }) 12 0 64 = some 12 := by decide +kernel
theorem test_vbcr : resultCell (.vbcr {} { d12 with vb := 0 }) 12 0 63 = some 12 := by decide +kernel
theorem test_vbcc : resultCell (.vbcc {} { d12 with vb := 0 }) 12 0 960 = some 12 := by decide +kernel
theorem test_array_word_starts : ((after (.arrayWordStart 0) (headed (.vand {} d12) 12 10)).core 0).data.vres.map (fun x => x.due) = [4] := by decide +kernel
/-- Element n of what a word gives in the 32-bit view. -/
def elem32 (i : Instr) (va vb : Nat) : Option Nat := resultCell i va vb 0

theorem wit_view : d12.view < 2 ∧ ({ d12 with view := 1 } : DR).view < 2 := by decide
theorem test_vadd_float : elem32 (.vadd {} d12) 0x3F800000 0x40000000 = some 0x40400000 := by decide +kernel
theorem test_vsub_integer_wraps : elem32 (.vsub {} { d12 with view := 1 }) 0 1 = some 0xFFFFFFFF := by decide +kernel
theorem test_vmul_float : elem32 (.vmul {} d12) 0x40000000 0x40400000 = some 0x40C00000 := by decide +kernel
theorem test_vfma_adds_to_vd : elem32 (.vfma {} { d12 with view := 1 }) 3 5 = some 15 := by decide +kernel
theorem test_vmin_signed : elem32 (.vmin {} { d12 with view := 1 }) 0xFFFFFFFF 1 = some 0xFFFFFFFF := by decide +kernel
theorem test_vmax_signed : elem32 (.vmax {} { d12 with view := 1 }) 0xFFFFFFFF 1 = some 1 := by decide +kernel
theorem test_vcmp_less : elem32 (.vcmp {} 2 { d12 with view := 1 }) 1 2 = some 0xFFFFFFFF := by decide +kernel
theorem test_vshl : elem32 (.vshl {} { d12 with view := 1 }) 3 33 = some 6 := by decide +kernel
theorem test_vshr : elem32 (.vshr {} { d12 with view := 1 }) 0x80000000 31 = some 1 := by decide +kernel
theorem test_vsra : elem32 (.vsra {} { d12 with view := 1 }) 0x80000000 31 = some 0xFFFFFFFF := by decide +kernel
theorem test_vexp2_of_zero : elem32 (.vexp2 {} d12) 0 0 = some 0x3F800000 := by decide +kernel
theorem test_vlog2_of_one : elem32 (.vlog2 {} d12) 0x3F800000 0 = some 0 := by decide +kernel
theorem test_vrcp_of_two : elem32 (.vrcp {} d12) 0x40000000 0 = some 0x3F000000 := by decide +kernel
theorem test_vrsq_of_four : elem32 (.vrsq {} d12) 0x40800000 0 = some 0x3F000000 := by decide +kernel
theorem test_vkmov_of_zero : elem32 (.vkmovToVector {} d12) 1 1 = some 0 := by decide +kernel

/-- Ring 1 goes to the vector engine and ring 2 from it, two slots of 4096 bytes each in the scratchpad. -/
def vecRings : DataSide → DataSide := fun d => { d with rings := [(1, ringW 0 3 1 2 5 0x1000 0 1), (2, ringW 0 1 3 2 5 0x4000 1 0)] }
def vecIssue : State := data (strandOf 1 { pc := 0x40 }) fun d => vecRings { d with k := [(7, 1)] }
/-- A memory word of one active unit, in the core store, and one of none. -/
def oneUnit : DM := { xa := 2, reg := 3, men := true, km := 7, off := 1023 }
def vecBased : State := vecIssue.modStrand 0 1 fun x => { x with x := [(2, 0x80#64)] }

theorem wit_vec_memory_none : oneUnit.off < 2 ^ 10 ∧ activeUnits 16 false 0 = [] := by decide +kernel
theorem wit_vec_memory : activeUnits 16 false 1 = [0] ∧ vecAddr 0 0 0 0 = 0 ∧
    (∃ vs, vs ≠ [] ∧ vecCheck (vecBased.core 0) 0 oneUnit .rd 0 0 [(0, 0)] = .ok vs) ∧ vecCheck (vecBased.core 0) 0 oneUnit .wr 0 0 [(0, 0)] = .ok [⟨0, 0, 0, false⟩] :=
  ⟨by decide +kernel, by decide +kernel, ⟨[⟨0, 0, 0, false⟩], by decide, rfl⟩, rfl⟩
theorem wit_vec_rings : vecRing (vecIssue.core 0).data 1 2 true = true ∧ vecRing (vecIssue.core 0).data 2 2 false = true ∧ (510 + 2 : Nat) ≤ 512 ∧
    ringSlotBytes ((vecIssue.core 0).data.ring 1) = ringSlotBytes ((vecIssue.core 0).data.ring 2) ∧ (vecIssue.core 0).data.arrayWaiting < 8 ∧ (1 : Nat) ≠ 2 := by decide
theorem test_vkop_andn : ((after (.vkopAndn {} 3 7 8) vecIssue).core 0).data.vres.map (fun x => x.val) = [1] := by decide +kernel
theorem test_vkop_not : ((after (.vkopNot {} 3 7) vecIssue).core 0).data.vres.map (fun x => x.val) = [2 ^ 1024 - 2] := by decide +kernel
theorem test_vkop_set : ((after (.vkopSet {} 3) vecIssue).core 0).data.vres.map (fun x => x.due) = [1] := by decide +kernel
theorem test_vld_one_unit : ((after (.vld {} oneUnit) vecBased).core 0).accs.map (fun a => (a.va, a.n)) = [(0, 16)] := by decide +kernel
theorem test_vst_writes_the_active_cell : ((after (.vst {} oneUnit) vecBased).core 0).accs.map (fun a => a.data.map Prod.fst) = [[0, 1, 2, 3]] := by decide +kernel
theorem test_vldr_drains : (after (.vldr {} { ring := 1, cnt := 1, reg := 4 }) vecIssue |>.core 0).data.slot 257 = .draining := by decide +kernel
theorem test_vstr_moves_the_pointer : ringPptr ((after (.vstr {} { ring := 2, cnt := 1, reg := 4 }) vecIssue |>.core 0).data.ring 2) = 0 := by decide +kernel
theorem test_vchain_queues : ((after (.vchain {} 5 { ring := 1, reg := 2, cnt := 1 }) vecIssue).core 0).data.arrayQ.map (fun w => w.inSlots) = [[257]] := by decide +kernel

/-! The matrix engine. -/

/-- Rings 1 and 2 are operand rings of four slots; ring 3 drains to the copy engine, and ring 4 fills from it, both in the scratchpad. -/
def matRings : Tbl Word := [(1, ringW 1 3 2 4 6 0 0 3), (2, ringW 1 3 2 4 6 0x8000 0 0), (3, ringW 0 2 3 2 6 0x10000 1 0), (4, ringW 0 3 2 2 6 0x20000 0 0)]
/-- The matrix strand issues; claims, words that wait, and the accumulators as given. -/
def matIssue (claims : Tbl Nat) (n : Nat) : State :=
  data (strandOf 2 { pc := 0x40 }) fun d =>
    { d with timed := true, rings := matRings, claims, matFree := 9, matQ := List.replicate n { seq := 0, pc := 0, instr := .mzero {} false 0 1, issued := 0 } }
/-- A pop of ring 1 and a claim of ring 2, in the default fusion. -/
def popA : DMma := { ra := 1, rb := 2, bc := true }

theorem wit_mma_popped : ((fun d : DataSide => ringOn (d.ring 1) && ringLoc (d.ring 1) == 1 && ringCons (d.ring 1) == 2 && d.claimOf 1 == 0 && decide (1 ≤ ringSlots (d.ring 1)) &&
    ringOn (d.ring 2) && ringLoc (d.ring 2) == 1 && ringCons (d.ring 2) == 2 && d.claimOf 2 == 4 && decide (d.queueWaiting < 8)) ((matIssue [(2, 4)] 7).core 0).data) = true := by decide
theorem wit_mma_claim_too_small : ((matIssue [(2, 3)] 0).core 0).data.claimOf 2 = 3 ∧ ¬ (0 + 4 ≤ 3) ∧ popA.fus < 4 := by decide
theorem wit_queue_full : ((matIssue [] 8).core 0).data.timed = true ∧ 8 ≤ ((matIssue [] 8).core 0).data.queueWaiting := by decide
theorem wit_mfill : ((fun w : Word => ringOn w && ringCons w == 2 && decide (2 ≤ ringSlots w) && decide (8192 ≤ ringSlotBytes w) && ringLoc w == 0) ((matIssue [] 0).core 0 |>.data.ring 4)) = true ∧
    (62 + 2 : Nat) ≤ 64 ∧ (14 + 2 : Nat) ≤ 16 := by decide
theorem wit_mdrain : ((fun w : Word => ringOn w && ringProd w == 2 && decide (2 ≤ ringSlots w) && decide (8192 ≤ ringSlotBytes w) && ringLoc w == 0) ((matIssue [] 0).core 0 |>.data.ring 3)) = true := by
  decide
theorem wit_claim : ringOn (((matIssue [] 0).core 0).data.ring 1) = true ∧ ((matIssue [] 0).core 0).data.claimOf 1 = 0 ∧ 4 ≤ ringSlots (((matIssue [] 0).core 0).data.ring 1) ∧
    ((matIssue [(1, 4)] 0).core 0).data.claimOf 1 ≠ 0 ∧ ((matIssue [(1, 3)] 0).core 0).data.claimOf 1 < 4 := by decide
theorem test_mma_pops : (after (.mma {} popA) (matIssue [(2, 4)] 0) |>.core 0).data.slot 259 = .draining := by decide
theorem test_mma_refused : ((after (.mma {} popA) (matIssue [(2, 3)] 0)).core 0).dfault.map (fun f => (f.strand, f.code)) = some (2, 27) := by decide
theorem test_mzero_full : ((after (.mzero {} true 3 1) (matIssue [] 8)).core 0).dfault.map (fun f => f.code) = some 34 := by decide
theorem test_mfill_drains_its_slots : (after (.mfill {} 0 { ring := 4, cnt := 2, reg := 62 }) (matIssue [] 0) |>.core 0).data.slot 1025 = .draining := by decide
theorem test_mdrain_wraps : ((after (.mdrain {} 0 0 false false { ring := 3, cnt := 2, reg := 0 }) (matIssue [] 0)).core 0).data.matQ.map (fun m => m.slots) = [[769, 768]] := by decide
theorem test_mclaim : (after (.mclaim {} 1 2) (matIssue [] 0) |>.core 0).data.slot 256 = .draining := by decide
theorem test_mrelease_moves_cptr : ringCptr ((after (.mrelease {} 1 2) (matIssue [(1, 2)] 0) |>.core 0).data.ring 1) = 1 := by decide
theorem wit_release_empties : job.dataHeld 0 = false := by decide

/-- A word at the head of the matrix queue, started in cycle 0, in its due cycle. -/
def matDue (i : Instr) (slots : List Nat) (due : Nat) (acc : Tbl AccEntry) : State :=
  data job fun d => { d with rings := matRings, counted := due, acc,
                             matQ := [{ seq := 0, pc := 0x40, instr := i, issued := 0, start := some 0, slots, slotsB := [], opsA := [0], opsB := [0, 0, 0, 0] }] }

theorem wit_matrix_start : ((matIssue [] 1).core 0).data.matQ.map (fun m => m.start) = [none] ∧ (matIssue [] 1).dataHeld 0 = false ∧
    ((matIssue [] 1).core 0).caughtUp = true ∧ ((matIssue [] 1).core 0).data.mat.stopped = false ∧ ((matIssue [] 1).core 0).data.counted < ((matIssue [] 1).core 0).data.matFree ∧
    ((data (matIssue [] 1) fun d => { d with matFree := 0 }).core 0).data.matFree ≤ 0 := by decide
theorem wit_matrix_due : ∀ i ∈ [(Instr.mma {} { fmt := 11, zc := true }, 200), (.mma {} { fmt := 6, zc := false }, 72), (.mzero {} true 5 2, 9), (.mfill {} 3 { ring := 4, cnt := 2 }, 16), (.mdrain {} 4 0 true false { ring := 1, cnt := 2 }, 16)],
    (matDue i.1 [] i.2 []).dataHeld 0 = false ∧ ((matDue i.1 [] i.2 []).core 0).data.counted = i.2 ∧ (∃ p, p < 4 ∧ ((tget {} [(2, ({ int := false } : AccEntry))] p).int ≠ true)) :=
  fun i h => ⟨by revert i; decide, by revert i; decide, 0, by decide, by decide⟩
theorem wit_matrix_slots : (∀ q ∈ [256, 257], ringLoc ((matDue (.mdrain {} 4 0 true false { ring := 1, cnt := 2 }) [256, 257] 16 [] |>.core 0).data.ring (q / 256)) = 1) := by decide
theorem test_mzero_sets_the_mode : (tget {} ((after (.matrixQueueW 0) (matDue (.mzero {} true 5 2) [] 9 [])).core 0).data.acc 6).int = true := by decide
theorem test_mma_mode_of_the_entry : ((after (.matrixQueueW 0) (matDue (.mma {} { fmt := 6 }) [] 72 [])).core 0).dfault.map (fun f => f.code) = some 35 := by decide
theorem test_integer_step : stepInt (3 :: -2 :: List.replicate 14 0) (5 :: 4 :: List.replicate 14 9) (plainRes 1) = plainRes 8 := by decide
theorem test_drain_clears : (tget {} ((after (.matrixQueueW 0) (matDue (.mdrain {} 0 0 true false { ring := 3, cnt := 1, reg := 5 }) [768] 12 [(5, { int := true, elems := [(0, 7)] })])).core 0).data.acc 5) =
    { int := true } := by decide +kernel
theorem test_fill_empties : (after (.matrixQueueW 0) (matDue (.mfill {} 3 { ring := 4, cnt := 1 }) [1024] 12 []) |>.core 0).data.slot 1024 = .empty := by decide +kernel

/-! The copy engine and the tile trackers. -/

/-- The copy strand issues with address registers l; core 0 has panel barrier 0 expecting one party. -/
def copying (l : Tbl Word) : State :=
  { strandOf 3 { pc := 0x40, x := l } with
      weaves := [(1, { loaderWeave with lrec := { loaderWeave.lrec with bars := [(0, 0), (0, 0), (0, 0), (0, 1)] } })],
      barriers := [(barKey (.panel 0), { parties := 1, arrived := 0 })] }
/-- Destination x1, source x2, shape from x4, barrier x6. -/
def moves : DX := { xd := 1, xs := 2, xn := 4, xb := 6 }
/-- 32 bytes to the last of the scratchpad. -/
def oneUnitMove : State := copying [(1, 0x3FFFE0#64), (4, 32#64), (6, 0x4000040000#64)]

theorem wit_copy_linear : oneUnitMove.cur = .strand 0 3 ∧ (32 : Nat) / 2 ^ 40 % 2 ^ 18 = 0 ∧ (32 : Nat) % 2 ^ 40 % 32 = 0 ∧ (0x3FFFE0 : Nat) % 32 = 0 ∧
    0x3FFFE0 + 32 ≤ (oneUnitMove.core 0).dataTop ∧ ({ moves with cen := false } : DX).cen = false := by decide
theorem wit_copy_barrier : oneUnitMove.checkBarrier 0 0x4000040000 = .ok (.panel 0) ∧ (job.checkBarrier 0 0 = .fault 8) := ⟨rfl, rfl⟩
theorem wit_copy_rows : (32 + 2 * 2 ^ 20 : Nat) % 2 ^ 20 % 32 = 0 ∧ (32 + 2 * 2 ^ 20 : Nat) / 2 ^ 20 % 2 ^ 20 = 2 ∧ (64 + 2 ^ 32 * 32 : Nat) % 2 ^ 32 % 32 = 0 ∧
    (64 + 2 ^ 32 * 32 : Nat) / 2 ^ 32 % 2 ^ 32 % 32 = 0 ∧ 64 + 32 ≤ ((copying []).core 0).dataTop := by decide
theorem wit_copy_gather : (1 + 2 ^ 27 * 0x1000 : Nat) / 2 ^ 49 % 2 ^ 9 = 0 ∧ (1 + 2 ^ 27 * 0x1000 : Nat) / 2 ^ 27 % 2 ^ 22 % 4 = 0 ∧
    (1 + 2 ^ 27 * 0x1000 : Nat) % 2 ^ 24 = 1 ∧ 0x1000 + 4 ≤ ((copying []).core 0).dataTop ∧ 0 + 32 ≤ 2 ^ 22 := by decide
theorem wit_copy_stops : (8 : Nat) % 2 ^ 40 % 32 ≠ 0 ∧ (8 : Nat) % 32 ≠ 0 ∧ ¬ 0x400000 + 32 ≤ (oneUnitMove.core 0).dataTop ∧ (32 : Nat) % 32 = 0 := by decide
theorem test_cp_lin : ((after (.cpLin {} { moves with cen := true }) oneUnitMove).core 0).data.xfers.map (fun y => (y.moved, y.wscope, y.secs.map fun q => q.dst)) =
    [(32, 5, [0x3FFFE0])] := by decide
theorem test_cp_rcopy_misaligned : ((after (.cpRcopy {} moves) (copying [(1, 8#64), (4, 32#64)])).core 0).dfault.map (fun f => f.code) = some 6 := by decide
theorem test_cp_2d_rows : ((after (.cp2d {} moves) (copying [(4, 0x200020#64), (5, 0x2000000040#64)])).core 0).data.xfers.map (fun y => y.secs.map fun q => (q.src, q.dst)) =
    [[(0, 0), (64, 32)]] := by decide
theorem test_cp_gth_index : ((after (.cpGth {} moves) (copying [(4, BitVec.ofNat 64 (1 + 2 ^ 27 * 0x1000))])).core 0).data.xfers.map (fun y => y.secs.map fun q => q.ix) =
    [[some 0x1000]] := by decide
theorem test_cp_sct_index : ((after (.cpSct {} moves) (copying [(4, BitVec.ofNat 64 (1 + 2 ^ 27 * 0x1000))])).core 0).data.xfers.map (fun y => y.secs.map fun q => q.ix) =
    [[some 0x1000]] := by decide
theorem test_cp_set_pattern : ((after (.cpSet {} moves) (copying [(2, 0x0102#64), (4, 32#64)])).core 0).data.xfers.map (fun y => y.secs.map fun q => byteAt q.bytes 8) = [[2#8]] := by decide

/-- The copy strand issues with the rings of the matrix tests; slots hold one row of 32 bytes. -/
def ringCopy : State := data (copying [(8, 0x100000#64), (9, BitVec.ofNat 64 (2 ^ 32 + 32))]) fun d => { d with rings := matRings }
def oneSlot (ring : Nat) : DG := { ring, cnt := 1, reg := 8 }

theorem wit_fill : ((fun w : Word => ringOn w && ringProd w == 3 && decide (1 ≤ ringSlots w) && ringLoc w == 0 && decide (1 * 32 ≤ ringSlotBytes w)) ((ringCopy.core 0).data.ring 4)) = true ∧
    (2 ^ 32 + 32) / 2 ^ 51 % 2 ^ 13 = 0 ∧ (2 ^ 32 + 32) / 2 ^ 32 % 2 ^ 16 = 1 ∧ (2 ^ 32 + 32) % 2 ^ 32 % 32 = 0 ∧ 0x100000 % 32 = 0 ∧
    (∀ q ∈ (ringCopy.core 0).data.outputs 4 1, (ringCopy.core 0).data.slotAddr q + 1 * 32 ≤ (ringCopy.core 0).dataTop) ∧ 0x100000 + 0 * 32 + 32 ≤ (ringCopy.core 0).dataTop := by decide
theorem wit_drain : ((fun w : Word => ringOn w && ringCons w == 3 && decide (1 ≤ ringSlots w) && ringLoc w == 0) ((ringCopy.core 0).data.ring 3)) = true ∧
    (∀ q ∈ (ringCopy.core 0).data.inputs 3 1, (ringCopy.core 0).data.slotAddr q + 1 * 32 ≤ (ringCopy.core 0).dataTop) := by decide
theorem wit_transpose : 1024 * 4 ≤ ringSlotBytes ((ringCopy.core 0).data.ring 3) ∧ 1024 * 4 ≤ ringSlotBytes ((ringCopy.core 0).data.ring 4) ∧ (2 : Nat) < 3 ∧ (3 : Nat) ≠ 4 ∧
    (∀ q ∈ (ringCopy.core 0).data.inputs 3 1, (ringCopy.core 0).data.slotAddr q + 1024 * 4 ≤ (ringCopy.core 0).dataTop) ∧
    (∀ q ∈ (ringCopy.core 0).data.outputs 4 1, (ringCopy.core 0).data.slotAddr q + 1024 * 4 ≤ (ringCopy.core 0).dataTop) := by decide
theorem wit_unit : ({ id := 0, pc := 0, secs := [], shaping := .transpose 2 } : Xfer).shaping = .transpose 2 ∧
    ({ id := 0, pc := 0, secs := [], shaping := .convert 1 7 5 3 0#64 } : Xfer).shaping = .convert 1 7 5 3 0#64 := by decide
theorem test_cp_fill : ((after (.cpFill {} 0 0 0 0 (oneSlot 4)) ringCopy).core 0).data.xfers.map (fun y => y.secs.map fun q => (q.src, q.dst)) = [[(0x100000, 0x20000)]] := by decide
theorem test_cp_drain : (after (.cpDrain {} 0 0 0 0 (oneSlot 3)) ringCopy |>.core 0).data.slot 768 = .draining := by decide
theorem test_cp_tr : ((after (.cpTr {} 1 { ring := 3, reg := 4, cnt := 1 }) ringCopy).core 0).data.xfers.map (fun y => y.secs.map fun q => q.rn) = [[2048]] := by decide

/-- A transfer of core 0 whose bytes are all on their way, with a barrier or none. -/
def moved (bar : Option (BarId × Nat)) (late : Bool) : Xfer :=
  { id := 7, pc := 0x40, secs := [{ no := 0, src := 0, dst := 0, st := .writing }], bar, moved := 32, late, inSlots := [768], outSlots := [1024] }
def moving (b : Barrier) (bar : Option (BarId × Nat)) (late : Bool) : State :=
  { data (copying []) fun d => { d with xfers := [moved bar late] } with barriers := [(barKey (.panel 0), b)] }
/-- A stored transfer of die 0. -/
def stored (bar : Option (BarId × Nat)) (failed : Bool) : State :=
  { copying [] with trk := [(0, { queue := [{ tracker := { ctx := 0, weave := 1, core := 0, pieces := [], expect := 1, evt := 0, xfer := some (moved bar false), recVa := 0x1000 }, slot := 0, failed }] })] }

theorem wit_transfer_ends : firstWhere (fun y => y.id == 7) ((moving {} none false).core 0).data.xfers = some (moved none false) ∧ (moving {} none false).isFrozen 0 = false ∧
    (∀ q ∈ (moved none false).secs, q.st = .writing) ∧ (∀ a ∈ ((moving {} none false).core 0).accs, a.xfer ≠ 7) := by decide
theorem wit_transfer_barrier : ((moving { bytes := 8 } (some (.panel 0, 0)) false).barrier (.panel 0)).unset = false ∧ ((moving {} (some (.panel 0, 0)) false).barrier (.panel 0)).unset = true ∧
    (moving {} (some (.panel 0, 0)) false).debugOn 0 = false ∧ ((moving {} (some (.panel 0, 0)) false).core 0).dfault = none := by decide
theorem wit_transfer_goes_on : ∃ q ∈ ({ moved none false with secs := [{ no := 0, src := 0, dst := 0 }] } : Xfer).secs, q.st ≠ .writing := by decide
theorem wit_stored : ((stored none false).trkUnit 0).queue.map (fun y => (y.failed, y.tracker.xfer)) = [(false, some (moved none false))] ∧ (stored none false).weaveHalted 1 = false ∧
    (stored (some (.panel 0, 0)) false).weaveGone 1 = false ∧ ((stored (some (.panel 0, 0)) false).barrier (.panel 0)).unset = false := by decide
theorem wit_stored_fails : ((stored none true).core 0).job = some (1, 0) ∧ (tfind (stored none true).weaves 1).map (fun v => v.torn) = some false ∧ (stored none true).debugOn 0 = false := by decide
theorem test_transfer_adds_bytes : ((after (.copyTransferComplete 0 7) (moving { bytes := 64 } (some (.panel 0, 0)) false)).barrier (.panel 0)).counted = 32 := by decide
theorem test_transfer_of_unset_barrier : ((after (.copyTransferComplete 0 7) (moving {} (some (.panel 0, 0)) false)).core 0).dfault.map (fun f => f.code) = some 14 := by decide
theorem test_stored_fault : ((after (.storedTransferComplete 0) (stored none true)).core 0).afaults.map (fun f => (f.code, f.tval)) = [(33, 0x1000#64)] := by decide

/-- A block of 64-bit words at 0x4000, whose address is in g1. -/
def block (ws : List Nat) : State := (ctl [(1, 0x4000#64), (2, 1#64)]).placeWords 0x4000 (ws.flatMap fun w => [w % 2 ^ 32, w / 2 ^ 32])
/-- Task 0 waits for the answer of a command. -/
def answering (i : Instr) (len : Nat) (res : Word) (s : State) : State :=
  s.modTask 0 0 fun x => { x with st := .parked, wait := some { what := .answer, instr := i, len, res } }
/-- A range of one line at 0x10000, to be filled once; slot 5 of core 0 gets the signal. -/
def armWords : List Nat := [0x10000, 128 + 2 ^ 32, 5, 0, 0, 0, 0, 0, 0, 0, 0, 0, 0, 0, 0, 0]
def arming : State := answering (.trkArm {} 3 1) 8 0#64 (block armWords)
/-- Every tracker of slice 0 of die 0 is in use. -/
def armedFull : State :=
  { arming with trk := [(0, { armed := (span 0 16).map fun n => (n, { ctx := 0, weave := 1, core := 0, pieces := [], expect := 1, evt := 0, recVa := 0 }) })] }

theorem block_ok (r : BlockRead) (bs : List Byte) (h : (match r with | .ok x => x == bs | _ => false) = true) : r = .ok bs := by
  cases r <;> simp_all
theorem range_ok (r : RangeCheck) (ps : List (Nat × Nat)) (h : (match r with | .ok x => x == ps | _ => false) = true) : r = .ok ps := by
  cases r <;> simp_all

theorem wit_arm : (block armWords).cur = .task 0 0 ∧ ((block armWords).reg 0 0 1).toNat % 128 = 0 ∧ handles (block armWords) 0 0 ∧ (0x4040#64).toNat % 128 ≠ 0 := by
  unfold handles; decide +kernel
theorem wit_arm_answers : arming.waitOf 0 0 = some { what := .answer, instr := .trkArm {} 3 1, len := ctlLen {} 2 } ∧ arming.isFrozen 0 = false ∧ (arming.core 0).accs = [] := by
  decide +kernel
theorem wit_arm_block : arming.readBlock 0 0 0x4000 128 = .ok (armWords.flatMap (bytesOfNum 8)) ∧ rangeCheck (arming.core 0) 0 (armWords.flatMap (bytesOfNum 8)) = .ok [(0x10000, 128)] :=
  ⟨block_ok _ _ (by decide +kernel), range_ok _ _ (by decide +kernel)⟩
theorem wit_arm_places : (∀ i, i < 16 → tfind (arming.trkUnit 0).armed (16 * (0x10000 / 2 ^ 7 % 2 ^ 7) + i) = none) ∧
    (∀ i, i < 16 → tfind (armedFull.trkUnit 0).armed (16 * (0x10000 / 2 ^ 7 % 2 ^ 7) + i) ≠ none) := by decide +kernel
theorem test_arm_parks : ((after (.trkArm {} 3 1) (block armWords)).task 0 0).st = .parked := by decide +kernel
theorem test_armed : (after (.trkArmAnswer 0 0) arming).reg 0 0 3 = 0#64 := by decide +kernel
theorem test_arm_busy : (after (.trkArmAnswer 0 0) armedFull).reg 0 0 3 = 1#64 := by decide +kernel
theorem test_arm_bad_record : (after (.trkArmAnswer 0 0) (answering (.trkArm {} 3 1) 8 0#64 (block ((0x10001 :: armWords.drop 1))))).reg 0 0 3 = 2#64 := by decide +kernel

/-! The near-memory units. -/

/-- A command of the loader's weave. -/
def cmd : NCmd := { id := 0, weave := 1, ctx := 0, core := 0, task := 0, uid := 0, words := List.replicate 4 0, loopn := 2 ^ 32, lo := 0, hi := 2 ^ 38, y := List.replicate 8 0 }
/-- NMU 0 runs it at word 0, with registers l. -/
def nmuRun (l : Tbl Nat) : NRun := { cmd, st := { n := l } }
def nmuAt (r : NRun) : State := { job with nmus := [(0, { run := some r, ctxs := [(0, 6)] })], cur := .nmu 0 }
/-- Register d after a word. -/
def nmuGives (i : Instr) (l : Tbl Nat) (d : Nat) : Option Nat := ((after i (nmuAt (nmuRun l))).nmu 0).run.map fun r => r.st.reg d

theorem wit_nmu_word : (nmuAt (nmuRun [])).cur = .nmu 0 ∧ ((nmuAt (nmuRun [])).nmu 0).run = some (nmuRun []) ∧ (nmuRun []).st.loops = [] ∧ (31 : Nat) < 1024 / 32 ∧ (63 : Nat) < 1024 / 16 ∧
    (511 : Nat) < 2 ^ 9 ∧ (2047 : Nat) < 2 ^ 11 := by decide
theorem test_nadd_lane_one : nmuGives (.nadd { fmt := 3 } 1 2 3) [(2, 2 ^ 32 * 5), (3, 2 ^ 32 * 6 + 1)] 1 = some (2 ^ 32 * 11 + 1) := by decide +kernel
theorem test_nsub_saturates : nmuGives (.nsub { fmt := 3, sat := true } 1 2 3) [(2, 2 ^ 31), (3, 1)] 1 = some (2 ^ 31) := by decide +kernel
theorem test_nmul_bf16 : nmuGives (.nmul { fmt := 1 } 1 2 3) [(2, 0x4000), (3, 0x4040)] 1 = some 0x40C0 := by decide +kernel
theorem test_nfma_adds_d : nmuGives (.nfma { fmt := 3 } 1 2 3) [(1, 7), (2, 3), (3, 4)] 1 = some 19 := by decide +kernel
theorem test_nmax_signed : nmuGives (.nmax false 3 1 2 3) [(2, 2 ^ 32 - 1)] 1 = some 0 := by decide +kernel
theorem test_nmin_signed : nmuGives (.nmin false 3 1 2 3) [(2, 2 ^ 32 - 1)] 1 = some (2 ^ 32 - 1) := by decide +kernel
theorem test_ncmp_half_lanes : nmuGives (.ncmp 2 false 2 1 2 3) [(3, 0x3C00)] 1 = some 0xFFFF := by decide +kernel
theorem test_nexp2 : nmuGives (.nexp2 false 0 1 2) [(2, 0x3F800000)] 1 = some (0x40000000 + (2 ^ 1024 - 2 ^ 32) / (2 ^ 32 - 1) * 0x3F800000) := by decide +kernel
theorem test_nsel_bitwise : nmuGives (.nsel 1 2 3) [(1, 12), (2, 10), (3, 5)] 1 = some 9 := by decide +kernel
theorem test_nlogic_not : nmuGives (.nlogic 4 1 2 0) [(2, 1)] 1 = some (2 ^ 1024 - 2) := by decide +kernel
theorem test_nmov : nmuGives (.nmov 1 2) [(2, 77)] 1 = some 77 := by decide +kernel
theorem test_nbcst : nmuGives (.nbcst 1 63 1 2) [(2, 2 ^ 1008 * 3)] 1 = some ((2 ^ 1024 - 1) / 65535 * 3) := by decide +kernel
theorem test_nset_sign_extends : nmuGives (.nset 0 511 1) [] 1 = some (2 ^ 1024 - 1) := by decide +kernel
theorem test_ncvt_keeps_the_other_half : nmuGives (.ncvt 1 1 { fmt := 0 } 1 2) [(1, 9), (2, 0x3F800000)] 1 = some (2 ^ 512 * 0x3F80 + 9) := by decide +kernel
theorem test_nredmax : nmuGives (.nredmax false false 3 1 2) [(2, 2 ^ 32 * 5)] 1 = some ((2 ^ 1024 - 1) / (2 ^ 32 - 1) * 5) := by decide +kernel
theorem test_nredsum : nmuGives (.nredsum { fmt := 3 } 1 2) [(2, 2 ^ 32 * 5 + 6)] 1 = some ((2 ^ 1024 - 1) / (2 ^ 32 - 1) * 11) := by decide +kernel
theorem test_naddr_wraps : ((after (.naddr 2047 1 2) (nmuAt (nmuRun []))).nmu 0).run.map (fun r => tget 0 r.st.y 1) = some (2 ^ 23 - 1) := by decide

/-- The run with lines and partials held. -/
def held (lines parts emit : Nat) : NRun :=
  { nmuRun [] with lines := (span 0 lines).map (fun n => (n + 1, 0)), parts := List.replicate parts { m := 0, l := 0, o := [] }, cmd := { cmd with emit } }
def outside : NRun := { nmuRun [] with cmd := { cmd with lo := 128 } }
def looping (remain last : Nat) : NRun :=
  { nmuRun [] with st := { pc := 1, loops := [{ first := 1, last, remain, sp := true, inner := false }] } }

theorem wit_line_inside : cmd.lo ≤ 0 ∧ 0 + 128 ≤ cmd.hi ∧ 0 / 2 ^ 23 < 32767 ∧ (held 15 1 1).lines.length < 16 ∧ ¬ (outside.cmd.lo ≤ 0) := by decide
theorem wit_line_full : tfind (held 16 0 0).lines 0 = none ∧ 16 ≤ (held 16 0 0).lines.length ∧ tfind (held 15 0 0).lines 15 ≠ none := by decide
theorem wit_emit : (held 0 0 0).cmd.emit = 0 ∧ (held 0 2 1).cmd.emit ≠ 0 ∧ 2 ≤ (held 0 2 1).parts.length ∧ (held 0 1 1).parts.length < 2 := by decide
theorem wit_loop : (nmuRun []).st.loops = [] ∧ (nmuRun []).st.pc + 1 + 3 ≤ cmd.words.length ∧ ¬ ((nmuRun []).st.pc + 1 + 4 ≤ cmd.words.length) ∧
    cmd.loopn / 2 ^ 32 % 2 ^ 32 ≠ 0 ∧ cmd.loopn / 2 ^ 0 % 2 ^ 32 = 0 := by decide
theorem wit_body_ends : (looping 2 2).st.loops.map (fun l => (l.last, l.remain)) = [(2, 2)] ∧ (looping 1 2).st.loops.drop 1 = [] ∧ (looping 1 2).st.pc + 1 = 2 := by decide
theorem wit_nend : (nmuRun []).cmd.bar = none ∧ (nmuRun []).retried = false ∧ (({ job with barriers := [(barKey (.panel 0), { bytes := 8 })] } : State).barrier (.panel 0)).unset = false := by decide
theorem test_nld : ((after (.nld true 0 1 2) { nmuAt (nmuRun []) with banks := setBytes [] 0 [9#8] }).nmu 0).run.map (fun r => (r.st.reg 1, tget 0 r.st.y 2)) = some (9, 1) := by decide +kernel
theorem test_nst_full : ((after (.nst false 0 1 2) (nmuAt (held 16 0 0))).nmu 0).last = [(1, 3)] := by decide
theorem test_nemit_without_group : ((after (.nemit 1 1 2 3) (nmuAt (held 0 0 0))).nmu 0).last = [(1, 1)] := by decide
theorem test_nloop_enters : ((after (.nloop true 3 5) (nmuAt (nmuRun []))).nmu 0).run.map (fun r => r.st.loops.map fun l => (l.first, l.last, l.remain)) = some [(1, 4, 5)] := by decide
theorem test_nloop2_zero : ((after (.nloop2 true 3 0) (nmuAt (nmuRun []))).nmu 0).run.map (fun r => r.st.pc) = some 4 := by decide
theorem test_safe_point_counts : ((after (.nmov 1 2) (nmuAt (looping 2 2))).nmu 0).ctxs = [(0, 7)] := by decide +kernel
theorem test_nend : ((after .nend (nmuAt (nmuRun []))).nmu 0).last = [(1, 0)] := by decide

/-- A command block: a program of one word at 0x5000 and a region of one line. -/
def nmuWords : List Nat := [0x5000, 1, 0, 0x10000, 128, 0, 0, 0, 0, 0, 0, 0, 0, 0, 0, 0]
def commanding : State := block nmuWords
/-- NMU 0 has a queue of n commands and m contexts. -/
def crowded (n m : Nat) : State := { commanding with nmus := [(0, { queue := List.replicate n cmd, ctxs := (span 1 m).map fun k => (k, 0) })] }
def nstatWaits : State := answering (.nstat {} 3 1) 4 0x1FF#64 job

theorem region_ok (r : RegionCheck) (n : Nat) (h : (match r with | .ok x => x == n | _ => false) = true) : r = .ok n := by
  cases r <;> simp_all
theorem wit_ncmd_traps : handles commanding 0 0 ∧ (0x4001#64).toNat % 128 ≠ 0 ∧ (commanding.reg 0 0 3).toNat = 0 := by unfold handles; decide +kernel
theorem wit_ncmd : commanding.readBlock 0 0 0x4000 128 = .ok (nmuWords.flatMap (bytesOfNum 8)) ∧ nmuBlockOk (nmuWords.flatMap (bytesOfNum 8)) = true ∧
    commanding.readBlock 0 0 0x5000 4 = .ok [0, 0, 0, 0] ∧ regionCheck (commanding.core 0) 0 0 0x10000 128 = .ok 0x10000 :=
  ⟨block_ok _ _ (by decide +kernel), by decide +kernel, block_ok _ _ (by decide +kernel), region_ok _ _ (by decide +kernel)⟩
theorem wit_ncmd_room : ((crowded 7 7).nmu 0).queue.length < 8 ∧ ((crowded 7 7).nmu 0).ctxs.length < 8 ∧ ¬ ((crowded 8 0).nmu 0).queue.length < 8 := by decide +kernel
theorem wit_nfence : job.nmuOwed 0 0 = false ∧ ({ job with nmus := [(0, { queue := [cmd] })] } : State).nmuOwed 0 0 = true := by decide
theorem wit_nstat : handles (ctl [(1, 0x200#64)]) 0 0 ∧ 2 ^ 9 ≤ (0x200#64).toNat ∧ (0x1FF#64).toNat < 2 ^ 9 := by unfold handles; decide
theorem wit_nstat_answers : nstatWaits.waitOf 0 0 = some { what := .answer, instr := .nstat {} 3 1, len := ctlLen {} 1, res := 0x1FF#64 } ∧ nstatWaits.isFrozen 0 = false ∧
    (nstatWaits.nmu 511).queue.length ≤ 8 ∧ tget 0 (nstatWaits.nmu 511).last (nstatWaits.weaveNo 0) < 256 ∧ (nstatWaits.nmu 511).spc 0 < 2 ^ 32 ∧ (3 : Nat) ≠ 0 := by decide
theorem test_ncmd_queues : ((after (.ncmd {} 1 2 0) commanding).nmu 0).queue.map (fun x => (x.lo, x.hi, x.words)) = [(0x10000, 0x10080, [0])] := by decide +kernel
theorem test_ncmd_waits_for_room : ((after (.ncmd {} 1 2 0) (crowded 8 0)).task 0 0).st = .parked := by decide +kernel
theorem test_nfence_waits : ((after (.nfence {}) { job with nmus := [(0, { queue := [cmd] })] }).task 0 0).st = .parked := by decide
theorem test_nstat_queue_count : (after (.nstatAnswer 0 0) { answering (.nstat {} 3 1) 4 0#64 job with nmus := [(0, { queue := [cmd, cmd] })] }).reg 0 0 3 = BitVec.ofNat 64 (2 ^ 45) := by decide

/-- The weave of core 0 stops to be saved; with stop time and a common safe point where given. -/
def stopping (t : Nat) (spc : Option Nat) : Weave := { loaderWeave with st := .stopping, stopTime := t, commonSpc := spc }
def waitingCmd (v : Weave) (u : Nmu) : State := { job with weaves := [(1, v)], nmus := [(0, u)] }

theorem wit_nmu_start : ((waitingCmd loaderWeave { queue := [cmd] }).nmu 0).run = none ∧ tfind (waitingCmd loaderWeave { queue := [cmd] }).weaves 1 = some loaderWeave ∧
    loaderWeave.st = .resident ∧ (waitingCmd loaderWeave { queue := [cmd] }).weaveHalted 1 = false ∧ cmd.weave = loaderWeave.id ∧ cmd.n = [] := by decide
theorem wit_nmu_saved : ((waitingCmd (stopping 0 none) { run := some (nmuRun []) }).nmu 0).run = some (nmuRun []) ∧ (stopping 0 none).st = .stopping ∧ (nmuRun []).atBoundary = true ∧
    ((waitingCmd (stopping 0 none) { run := some (nmuRun []) }).nmu 0).saved.length < 4 ∧ ({ nmuRun [] with safe := true } : NRun).safe = true ∧
    (stopping 0 (some 6)).commonSpc = some (({ run := some (nmuRun []), ctxs := [(0, 6)] } : Nmu).spc 0) ∧ ({ nmuRun [] with atBoundary := false } : NRun).atBoundary = false := by decide
theorem wit_nmu_watchdog : 2000000 ≤ (stopping 2000000 (some 0)).stopTime ∧ (stopping 2000000 (some 0)).commonSpc ≠ none ∧
    (waitingCmd (stopping 2000000 (some 0)) { run := some (nmuRun []) }).nmuAtRest 0 1 = false ∧ (waitingCmd (stopping 2000000 (some 0)) { run := some (nmuRun []) }).weaveHalted 1 = false := by decide
theorem test_nmu_starts : ((after (.nmuCommandStart 0) (waitingCmd loaderWeave { queue := [cmd] })).nmu 0).run.map (fun r => r.cmd) = some cmd := by decide
theorem test_nmu_is_saved : ((after (.nmuPreemptStop 0) (waitingCmd (stopping 0 none) { run := some (nmuRun []) })).nmu 0).saved.map (fun e => e.1) = [1] := by decide
theorem test_nmu_resumes : ((after (.nmuResume 0) (waitingCmd loaderWeave { saved := [(1, nmuRun [(1, 9)])] })).nmu 0).run.map (fun r => r.cmd) = some cmd := by
  decide
theorem test_slot_gives_the_state_back : (fun p => [p.reg 1, p.reg 2, p.pc, p.stores, p.loops.length, tget 0 p.y 6])
    (pointOf (({ n := [(1, 9)], y := [(6, 5)], pc := 3, stores := 2, loops := [⟨1, 4, 7, true, false⟩] } : NPoint).lines 8)) = [9, 0, 3, 2, 1, 5] := by decide +kernel
theorem test_nmu_watchdog : tget 0 ((after (.nmuRestWatchdog 1) (waitingCmd (stopping 2000000 (some 0)) { run := some (nmuRun []) })).nmu 0).last 1 = 6 := by decide

/-! The table walks. -/

/-- A walk of kind k over 128 bytes at 0x10000 of die 0, which has been accepted. -/
def walkAt (kind : WKind) (p1 : Nat) (pos : WPos) : Walk :=
  { id := 5, stack := 0, weave := 1, core := 0, task := 0, slot := 31, accepted := true, kind, mem := true, base := 0x10000, len := 128, key := 0, root := 0, p1, p2 := 0, p3 := 0,
    ret := 0, maxstep := 1, pos }
def walking (w : Walk) : State := { job with walks := [w] }
/-- Where a walk stands after a step; the bytes at its region are given. -/
noncomputable def stepped (w : Walk) (bs : List Byte) : Option WPos := (after (.walkSectorReturn 5 false) { walking w with banks := setBytes [] 0x10000 bs }).walks.head?.map fun x => x.pos
/-- A descriptor over the same region. -/
def desc (p1 p2 : Nat) : List Nat := [0x10000, 128, 0, p1, p2, 0, 1, 0]
def full31 (st : RetSt) : State := (ctl [(1, 31#64), (2, 32#64)]).modCore 0 fun k => { k with ret := [(31, { st, value := 7#64, status := 8#64 })] }

theorem wit_walk_command : (∀ x ∈ [(WKind.list 0, desc 0 0), (.hash 0, desc 1 0), (.kvb, desc 0 1), (.tree 1, desc 0 0), (.rwalk true true, desc 1 0)],
      descriptorOk x.1 true (x.2.flatMap (bytesOfNum 8)) = true) ∧ (block (desc 0 0)).readBlock 0 0 0x4000 64 = .ok ((desc 0 0).flatMap (bytesOfNum 8)) ∧
    walkRegion ((block (desc 0 0)).core 0) 0 true 0x10000 128 = .ok 0x10000 ∧ ((block (desc 0 0)).core 0 |>.retSlot 31).st = .free ∧ ((full31 .full).core 0 |>.retSlot 31).st ≠ .free :=
  ⟨by decide +kernel, block_ok _ _ (by decide +kernel), region_ok _ _ (by decide +kernel), by decide +kernel, by decide⟩
theorem wit_walk_accept : (walking { walkAt (.list 0) 0 (.list 0 0) with accepted := false }).walks.map (fun w => w.accepted) = [false] ∧ tfind job.weaves 1 = some loaderWeave ∧
    loaderWeave.st = .resident ∧ loaderWeave.torn = false ∧ job.weaveHalted 1 = false ∧ job.isFrozen 0 = false ∧ ((answering (.twWait {} 3 1) 8 0#64 job).task 0 0).wait.isSome = true := by decide
theorem wit_tw_wait : (31#64).toNat ≤ 31 ∧ 31 < (32#64).toNat ∧ ((full31 .full).core 0 |>.retSlot 31).st = .full ∧ ((full31 .pending).core 0 |>.retSlot 31).st = .pending ∧
    ((full31 .free).core 0 |>.retSlot 31).st = .free ∧ handles (full31 .free) 0 0 := by unfold handles; decide
theorem wit_walk_step : (walkAt (.list 0) 0 (.list 96 0)).reads < (walkAt (.list 0) 0 (.list 96 0)).maxstep ∧ 96 % 32 = 0 ∧ 96 / 32 * 32 + 32 ≤ (walkAt (.list 0) 0 (.list 96 0)).len ∧
    ¬ (128 / 32 * 32 + 32 ≤ (walkAt (.list 0) 0 (.list 128 0)).len) ∧ (walkAt (.list 0) 0 (.list 128 0)).need = some (128, 32) ∧
    (walkAt .kvb 0 .dir).need = some (0, 8) ∧ ({ walkAt (.list 0) 0 (.list 0 0) with reads := 1 } : Walk).need ≠ none := by decide
theorem wit_walk_slot_full : (walkAt (.list 0) 0 (.fin 0 64 [])).pos = .fin 0 64 [] ∧ (walking (walkAt (.list 0) 0 (.fin 0 64 []))).weaveNo 0 = 1 ∧ (31 : Nat) < 32 := by decide
theorem test_tw_list_parks : ((after (.twList {} 0 1 2 true 31) (block (desc 0 0))).task 0 0).st = .parked := by decide +kernel
theorem test_tw_hash_key : (after (.twHash {} 0 1 2 true 31) (block (desc 1 0))).walks.map (fun w => (w.key, w.base)) = [(1, 0x10000)] := by decide +kernel
theorem test_tw_kvb : (after (.twKvb {} 0 1 2 true 31) (block (desc 0 1))).walks.map (fun w => w.kind) = [.kvb] := by decide +kernel
theorem test_tw_tree : (after (.twTree {} 1 1 2 true 31) (block (desc 0 0))).walks.map (fun w => w.slot) = [31] := by decide +kernel
theorem test_tw_rwalk_slot_used : ((after (.twRwalk {} 3 1 2 true 31) ((block (desc 1 0)).modCore 0 fun k => { k with ret := [(31, { st := .full })] })).task 0 0).tcause = 38#64 := by
  decide +kernel
theorem test_tw_wait_takes : (after (.twWait {} 4 1) (full31 .full)).reg 0 0 5 = 8#64 := by decide
theorem test_tw_try_empty : (after (.twWaitTry {} 4 1) (full31 .pending)).reg 0 0 5 = 6#64 := by decide
theorem test_walk_list_ends_at_nil : stepped (walkAt (.list 0) 0 (.list 0 0)) (bytesOfNum 8 (2 ^ 64 - 1)) = some (.fin 0 0 []) := by decide +kernel
theorem test_walk_hash_finds : stepped (walkAt (.hash 0) 1 (.bucket 0)) (bytesOfNum 8 0 ++ bytesOfNum 8 42) = some (.fin 0 42 []) := by decide +kernel
theorem test_walk_tree_last : stepped (walkAt (.tree 1) 0 (.node 0 0)) (bytesOfNum 8 0 ++ bytesOfNum 8 64) = some (.last 64) := by decide +kernel
theorem test_walk_no_edges : stepped (walkAt (.rwalk true true) 1 (.rnode 0 0)) [] = some (.fin 2 0 []) := by decide +kernel
theorem test_walk_memory_return : byteAt (after (.walkSlotFull 5) (walking (walkAt (.list 0) 0 (.fin 0 64 [])))).banks 0x10000 = 64#8 := by decide +kernel

/-! The fabric and the homes. -/

/-- g1 lies in package 1, which a second segment reaches. -/
def remotely (l : Tbl Word) : State :=
  (ctl l).modCore 0 fun k => { k with seg := k.seg ++ [(1, { v := true, size := 41, vbase := 2 ^ 41, pbase := 2 ^ 42, rd := true, wr := true, at_ := true })] }
def remoteTask : State := remotely [(1, BitVec.ofNat 64 (2 ^ 41 + 8)), (2, 9#64), (3, 0x40000#64), (4, 0x3FFFF#64)]
def releasing : CHdr := { pfx := some ⟨false, false, 0, false, false, false, false, false, 0, 2⟩ }

theorem wit_fabric : translate (remoteTask.core 0).seg .rd (2 ^ 41 + 8) = .ok (2 ^ 42 + 8) false ∧ translate (remoteTask.core 0).seg .wr (2 ^ 41 + 8) = .ok (2 ^ 42 + 8) false ∧
    translate (remoteTask.core 0).seg .at_ (2 ^ 41 + 8) = .ok (2 ^ 42 + 8) false ∧ (2 ^ 41 + 8) % 8 = 0 ∧ inDev (2 ^ 42 + 8) = false ∧ (2 ^ 41 + 8) % 16 ≠ 0 ∧
    handles remoteTask 0 0 := by unfold handles; decide
theorem wit_gnfy : (0x3FFFF#64).toNat < 2 ^ 18 ∧ relOf {} = false ∧ relOf releasing = true ∧ 2 ^ 18 ≤ (0x40000#64).toNat := by decide
theorem test_gld_parks : ((after (.gld {} false 3 5 1 0) remoteTask).task 0 0).st = .parked := by decide
theorem test_gst_scope : ((after (.gst {} 3 1 2 0) remoteTask).core 0).accs.map (fun a => (a.pa, a.scope)) = [(2 ^ 42 + 8, 5)] := by decide
theorem test_gatom_cas : ((after (.gatom {} 9 3 5 1 2) remoteTask).core 0).accs.map (fun a => a.cmp) = [some 0] := by decide
theorem test_gnfy_released : ((after (.gnfy releasing 4) remoteTask).core 0).accs.map (fun a => a.kind) = [.notify 0x3FFFF] := by decide

/-- A request of core 0 at die 2, and its reply. -/
def request (kind : AKind) : Access :=
  { id := 9, party := 0, kind, space := .fabric, va := 2 ^ 41, pa := 2 ^ 42, n := 8, dest := if kind == .load then .reg 5 false else .none, stage := .sent,
    data := if kind == .load then [] else cellsFrom (2 ^ 42) (bytesOfNum 8 3) }
/-- A window of all of die 2 that grants the permissions of bits 8 to 6. -/
def window (perm : Nat) : Tbl Word := [(2 * 4096, BitVec.ofNat 64 (2 ^ 48 * 0xFFFF + 2 ^ 10 * 41 + 2 ^ 9 + 2 ^ 6 * perm))]
def asking (a : Access) : State := access job a
def refusedRequest (kind : AKind) (hint at_ : Nat) : State := asking { request kind with stage := .refused, hint, resendAt := at_ }
def fullLog : State := { asking (request .store) with logs := [(1, { head := 65536 })] }
def replied (kind : AKind) : State :=
  asking { request kind with stage := .performed, val := if kind == .load then bytesOfNum 8 3 else [] }
def waitingReply : State := (replied .load).modTask 0 0 fun x => { x with st := .parked, wait := some { what := .reply 9, instr := .gld {} false 3 5 1 0, len := 8 } }

theorem wit_request : ((asking (request .load)).core 0).access 9 = some (request .load) ∧ ((asking (request .load)).core 0).mayArrive (request .load) = true ∧
    (asking (request .load)).windowsOf 2 = [] ∧ ((asking (request .store)).core 0).access 9 = some (request .store) ∧ (request (.atom 1)).kind = .atom 1 := by decide
theorem wit_request_logged : ((asking (request .store)).core 0).loggedTo 2 = [] ∧ (tget {} (asking (request .store)).logs 1 : RemoteLog).head = 0 ∧
    (tget {} (asking (request .store)).logs 1 : RemoteLog).base % 32 = 0 ∧ (request .store).data = cellsFrom (request .store).pa (bytesOfNum 8 3) ∧ (request .store).pa < 2 ^ 48 ∧
    65536 ≤ (tget {} fullLog.logs 1 : RemoteLog).head - (tget {} fullLog.logs 1 : RemoteLog).tail := by decide
theorem wit_request_memory : memoryOk (asking (request .store)) := by unfold memoryOk banksOk homesOk; decide
theorem wit_refusal : ((refusedRequest .store 16 0).core 0).access 9 = some { request .store with stage := .refused, hint := 16 } ∧ ((refusedRequest .store 16 0).core 0).haltBuf = [] ∧
    (refusedRequest .store 16 0).isFrozen 0 = false ∧ 0 + 1 < ((refusedRequest .store 16 0).core 0).rctl.toNat % 2 ^ 16 ∧ (refusedRequest .store 0 0).debugOn 0 = false ∧
    (0 : Nat) ≤ (refusedRequest .store 16 0).time ∧ (refusedRequest .store 16 1).time < 1 := by decide
theorem wit_resend : ({ refusedRequest .store 16 1 with time := 1 } : State).time = 1 ∧ (1 : Nat) ≠ 0 := by decide
theorem wit_reply : ((waitingReply).core 0).access 9 = some { request .load with stage := .performed, val := bytesOfNum 8 3 } ∧ (waitingReply.waitOf 0 0).map (fun w => w.what) = some (.reply 9) ∧
    (bytesOfNum 8 3).length ≤ 8 ∧ bytesOfNum 8 3 ≠ [] ∧ ((replied .store).core 0).access 9 = some { request .store with stage := .performed } ∧ ((replied .store).task 0 0).st = .ready := by decide
theorem test_request_is_refused : ((after (.fabricRequestArrival 0 9 0) (asking (request .load))).core 0).accs.map (fun a => (a.stage, a.hint)) = [(.refused, 16)] := by decide +kernel
theorem test_store_is_logged : ((after (.fabricRequestArrival 0 9 0) (asking (request .store))).core 0).accs.map (fun a => a.stage) = [.logged] := by decide +kernel
theorem test_logged_cause : ((after (.fabricRequestArrival 0 9 0) { asking (request .store) with windows := window 4 }).homeByte 27) = 1#8 := by decide +kernel
theorem test_refusal_waits : ((after (.fabricRefusal 0 9) (refusedRequest .store 16 0)).core 0).accs.map (fun a => a.resendAt) = [1024] := by decide
theorem test_refusal_without_hint : ((after (.fabricRefusal 0 9) (refusedRequest .store 0 0)).core 0).afaults.map (fun f => f.code) = [15] := by decide
theorem test_reply_wakes : (after (.fabricReply 0 9) waitingReply).reg 0 0 5 = 3#64 := by decide

/-- An access of core 0 at its own home, and one that came over the fabric. -/
def atHome (kind : AKind) (cmp : Option Nat) : Access :=
  { id := 9, party := 0, kind, space := .virt, va := 0x2000, pa := 0x2000, n := 4, cmp, scope := 3, data := if kind == .load then [] else cellsFrom 0x2000 (bytesOfNum 4 7) }
def homed (a : Access) : State := { access job a with banks := setBytes [] 0x2000 (bytesOfNum 4 5), homes := [(0x100, { bytes := bytesOfNum 32 5 })] }

theorem wit_home : memoryOk (homed (atHome .load none)) := by unfold memoryOk banksOk homesOk; decide +kernel
theorem wit_home_lines : (homed (atHome .load none)).cores.all (fun e => e.2.l1.isEmpty) = true := by decide +kernel
theorem wit_home_access : ∀ a ∈ [atHome .load none, atHome .store none, atHome (.atom 8) none, atHome (.atom 0) (some (2 ^ 32 - 1))],
    ((homed a).core 0).access 9 = some a ∧ (homed a).debugOn 0 = false ∧ (homed a).errorLine (0x2000 / 128) = false ∧ inDev 0x2000 = false ∧ a.acq = false ∧ a.rel = false ∧
    (((homed a).core 0).earlier a).all (fun e => e.kind != .store) = true ∧ (homed a).isNear 0 a = false ∧ ((homed a).core 0).mayPerform a = true := by decide +kernel
theorem wit_home_remote : ({ asking (request .load) with windows := window 4 } : State).windowCheck 2 0 .rd 0 8 = none ∧ ((asking (request .load)).core 0).loggedTo 2 = [] ∧
    (request .load).space = .fabric ∧ (request .load).stage = .sent := by decide
theorem test_home_store : (after (.homeRequest 0 9 0) (homed (atHome .store none))).homeByte 0x2000 = 7#8 := by decide +kernel
theorem test_home_atomic_maximum : (after (.homeRequest 0 9 0) (homed (atHome (.atom 8) none))).homeByte 0x2000 = 7#8 := by decide +kernel
theorem test_home_cas_differs : (after (.homeRequest 0 9 0) (homed (atHome (.atom 0) (some 6)))).homeByte 0x2000 = 5#8 := by decide +kernel
theorem test_home_atomic_old : ((after (.homeRequest 0 9 0) (homed (atHome (.atom 1) none))).core 0).accs.map (fun a => a.val) = [bytesOfNum 4 5] := by decide +kernel

/-- Package p is in service. -/
def serving (p : Nat) (s : State) : State := { s with pkgs := [(p, { boot := .ready })] }
/-- A logged store of core 0, whose package awaits its acknowledgement. -/
def loggedStore : State := serving 1 (asking { request .store with stage := .logged, seq := 3 })
/-- Queue slot 2 of die 0 is mapped. -/
def slotted (st : QSt) : State := { job with disps := [(0, { slots := [(2, { st, qcfg := 2#64 <<< 32 })] })] }

theorem wit_eviction : memoryOk (homed (atHome .load none)) ∧ tfind (job.core 0).l1 64 = none := ⟨wit_home, by decide⟩
theorem wit_acknowledged : loggedStore.hostUp 1 = true ∧ job.hostUp 1 = false ∧ loggedStore.smps = [] ∧ (3#64).toNat / 2 ^ 16 % 2 ^ 13 = 0 ∧ (loggedStore.core 0).accs.map (fun a => (a.stage, a.seq, a.pa / 2 ^ 42)) = [(.logged, 3, 1)] := by decide
theorem wit_ring_write : (31 : Nat) < 32 ∧ (job.core 0).job ≠ none ∧ (∀ e, e < 4 → 1 ≤ e → (job.strand 0 e).named = true → (job.strand 0 e).held = true) := by decide
theorem wit_barrier_write : job.configStore 0 0 (.panel 0) = none ∧ job.barWaited (.panel 0) = false ∧
    ((barriered { parties := 2 }).modTask 0 0 fun x => { x with st := .parked, wait := some { what := .flip (.panel 0) false, instr := .barw {} 1 2, len := 4 } }).barWaited (.panel 0) = true := by decide
theorem wit_savepool : (serving 0 State.reset).dieBusy 0 = false ∧ (serving 0 job).dieBusy 0 = true ∧ (serving 0 job).hostUp (0 / 2) = true := by decide
theorem wit_notify : ((slotted .mapped).qslot 0 2).st = .mapped ∧ ((slotted .free).qslot 0 2).st = .free ∧ ((slotted .free).qslot 0 2).unmapped = none := by decide
theorem wit_device_write : (serving 63 job).hostUp 63 = true := by decide
theorem test_evicted_home_keeps_bytes : (after (.cacheEviction true 0 64 false) { homed (atHome .load none) with homes := [(0x100, { dirty := true, bytes := bytesOfNum 32 6 })] }).homeByte 0x2000 = 6#8 := by
  decide +kernel
theorem test_replayed : ((after (.replayWrite 1 3#64) loggedStore).core 0).accs.map (fun a => (a.stage, a.fault)) = [(.performed, 0)] := by decide +kernel
theorem test_discarded : ((after (.discardWrite 1 3#64) loggedStore).core 0).accs.map (fun a => a.fault) = [16] := by decide +kernel
theorem test_error_entry : (tget {} (after (.errorEntryClear 0 3 0#64) (serving 0 { job with memerr := [(0, { table := [(3, 9)] })] })).memerr 0 : MemErr).table = [] := by decide
theorem test_ring_reserved_bits : ((after (.rdescWrite 0 0 4 0x3F#64) job).core 0).data.ring 4 = 1#64 := by decide
theorem test_barrier_word : ((after (.barrierConfigWrite (.panel 0) 0 0 (BitVec.ofNat 64 (3 * 2 ^ 44 + 5))) job).barrier (.panel 0)) = { parties := 3, bytes := 5 } := by decide
theorem test_savecnt_bits : ((after (.savepoolWrite 0 true (-1#64)) (serving 0 State.reset)).disp 0).savecnt = 1023#64 := by decide
theorem test_notify_overrun : ((after (.notifyWrite 0 2 5#64) (serving 0 (slotted .mapped))).qslot 0 2).st = .overrun := by decide
theorem test_device_write : (tget {} (after (.deviceRegisterWrite (2 ^ 42 * 63 + 0x4003000000) 5#64) (serving 63 job)).memerr 126 : MemErr).counts = 5#64 := by
  decide +kernel

/-! Merge and reduce groups. -/

/-- A merge group and a reduce group of the loader's weave. -/
def merge : Grp := { weave := 1, ctx := 0, reduce := false, size := 1024, tmo := 1, dim := 1, smax := 1, s := 1, out := [(0x10000, 68)] }
def reduce : Grp := { weave := 1, ctx := 0, reduce := true, size := 144, tmo := 1, nelem := 8, count := 2, ty := 0 }
def grouped (s : State) (g : Grp) : State := { s with groups := [(1, g)] }
/-- A record of a merge group, and one of a reduce group, which has no unit with room where large. -/
def mergeWords : List Nat := [0x10000, 1 + 2 ^ 16, 0, 0, 0, 0, 0, 0]
def reduceWords (large : Bool) : List Nat := [0, if large then 4096 + 2 ^ 16 * 128 + 2 ^ 24 else 8 + 2 ^ 16, 0, 0, 1, 0, 0, 0]
/-- A contribution of the register pair g3, g1 and g2. -/
def contributing (g : Grp) (d a : Word) : State := grouped (ctl [(1, a), (2, 9#64), (3, d)]) g
def opening (ws : List Nat) : State :=
  (block ws).modTask 0 0 fun x => { x with st := .parked, wait := some { what := .answer, instr := .mgCfgOpen {} 3 1, len := 4, blk := ws.flatMap (bytesOfNum 8) } }
def regrouping (i : Instr) (g : Grp) : State := grouped (answering i 4 1#64 job) g

theorem place_ok (r : BlockPlace) (ps : List (Nat × Nat)) (h : (match r with | .ok x => x == ps | _ => false) = true) : r = .ok ps := by
  cases r <;> simp_all
theorem home_ok (r : HomeRead) (bs : List Byte) (h : (match r with | .ok x => x == bs | _ => false) = true) : r = .ok bs := by
  cases r <;> simp_all

theorem wit_group_commands : (block mergeWords).readBlock 0 0 0x4000 64 = .ok (mergeWords.flatMap (bytesOfNum 8)) ∧
    (block mergeWords).blockPlace 0 0x10000 68 .wr = .ok [(0x10000, 68)] ∧ handles (block mergeWords) 0 0 ∧ (0x4020#64).toNat % 64 ≠ 0 :=
  ⟨block_ok _ _ (by decide +kernel), place_ok _ _ (by decide +kernel), by unfold handles; decide +kernel, by decide⟩
theorem wit_group_mine : (grouped (block mergeWords) merge).group 1 = some merge ∧ merge.weave = (grouped (block mergeWords) merge).weaveNo 0 ∧
    ((grouped (block mergeWords) merge).core 0).job.isSome = true ∧ merge.freed = false ∧ (block mergeWords).group 1 = none := by decide +kernel
theorem wit_contribution : (contributing reduce (BitVec.ofNat 64 (1 + 2 ^ 16 * 7)) 0x1000#64).group 1 = some reduce ∧ (1 + 2 ^ 16 * 7) % 2 ^ 14 = 1 ∧ (1 + 2 ^ 16 * 7) / 2 ^ 16 % 2 ^ 16 = 7 ∧
    (7 : Nat) < reduce.nelem ∧ ¬ 8 < reduce.nelem ∧ translate ((contributing reduce 0#64 0#64).core 0).seg .wr 0x1000 = .ok 0x1000 false ∧ inDev 0x1000 = false ∧
    translate ((contributing reduce 0#64 0#64).core 0).seg .wr 0x4000000000 = .ok 0x4000000000 false ∧ inDev 0x4000000000 = true ∧ (1 + 2 ^ 14) / 2 ^ 14 % 4 ≠ 0 ∧ (0x1002 : Nat) % 4 ≠ 0 := by decide
theorem test_mg_cfg_parks : ((after (.mgCfgOpen {} 3 1) (block mergeWords)).task 0 0).wait.map (fun w => w.blk.length) = some 64 := by decide +kernel
theorem test_mg_free_unknown : ((after (.mgCfgFree {} 3 2) (block mergeWords)).task 0 0).tval = 1#64 := by decide +kernel
theorem test_qcast_parks : ((after (.qcast {} 3 1 2) (grouped (block mergeWords) merge)).task 0 0).st = .parked := by decide +kernel
theorem test_rst_add_joins : ((after (.rstAdd {} 0 3 1 2) (contributing reduce (BitVec.ofNat 64 (1 + 2 ^ 16 * 7)) 0x101C#64)).core 0).accs.map (fun a => a.kind) = [.contribution 1 7] := by decide
theorem test_rst_max_other_type : ((after (.rstMax {} 0 3 1 2) (contributing reduce (BitVec.ofNat 64 (1 + 2 ^ 16 * 7)) 0x101C#64)).task 0 0).tcause = 39#64 := by decide

theorem wit_group_answer : ((opening mergeWords).waitOf 0 0).map (fun w => (w.what, w.instr, w.res2)) = some (.answer, .mgCfgOpen {} 3 1, 0#64) ∧ (opening mergeWords).isFrozen 0 = false ∧
    (mergeWords.flatMap (bytesOfNum 8)).length = 64 ∧ (opening mergeWords).group 0 = none := by decide +kernel
theorem wit_group_room : ((job.groups.filter fun e => e.1 / 16 == 0).map fun e => e.2.size).sum + 1024 * 1 ≤ 2 ^ 20 ∧ job.group (16 * 0 + 0) = none ∧
    ∀ m, m < 1024 → ¬ ((m / 64 + 16 - dieOf 0 % 16) % 16 * 64 + m % 64 < (0 / 64 + 16 - dieOf 0 % 16) % 16 * 64 + 0 % 64) :=
  ⟨by decide, by decide, fun m _ => Nat.not_lt_zero _⟩
theorem wit_group_no_room : ∀ n, n < 1024 →
    ¬ ((((opening (reduceWords true)).groups.filter fun e => e.1 / 16 == n).map fun e => e.2.size).sum + 4096 / 4 * (64 + 8 * 128) ≤ 2 ^ 20) := fun _ _ => by omega
theorem wit_group_bad_record : ¬ ((opening (1 :: (reduceWords false).drop 1)).waitOf 0 0).map (fun w => numBytes (w.blk.take 8)) = some 0 := by decide +kernel
theorem wit_group_free : ∀ st ∈ [GSt.idle, .armed, .completing], (regrouping (.mgCfgFree {} 3 1) { merge with st }).group (1#64).toNat = some { merge with st } := by decide
theorem test_open_first_group : (after (.switchDieAnswer 0 0) (opening mergeWords)).reg 0 0 3 = 0#64 := by decide +kernel
theorem test_open_reduce_busy : (after (.switchDieAnswer 0 0) (opening (reduceWords true))).reg 0 0 3 = 0x10000#64 := by decide +kernel
theorem test_open_reduce_field : (after (.switchDieAnswer 0 0) (opening (1 :: (reduceWords false).drop 1))).reg 0 0 3 = 0x20000#64 := by decide +kernel
theorem test_free_cancels : ((after (.switchDieAnswer 0 0) (regrouping (.mgCfgFree {} 3 1) { merge with st := .armed, gen := 2, arr := 3 })).group 1).map (fun g => g.status) =
    some (2 ^ 63 + 2 ^ 33 + 3 * 2 ^ 12 + 4) := by decide
theorem test_mg_rd : (after (.switchDieAnswer 0 0) (regrouping (.mgRd {} 3 1) { merge with st := .armed, qtag := 5, last := 1 })).reg 0 0 3 = BitVec.ofNat 64 (5 * 2 ^ 32 + 2 ^ 30 + 1) := by decide

/-- A `qcast` at the switch die: its record, a header and one entry at 0x5000, and a query of one zero at 0x6000. -/
def queryWords (many : Bool) : List Nat := if many then [0x5000, 2 ^ 32, 256, 1, 0x6000, 0, 0, 0] else [0, 0, 0, 1, 0, 1 + 2 ^ 16 * 4, 0, 0]
def mapWords (count lpp flags : Nat) : List Nat := [4, count, lpp, 0, 0, 0, 0, 0, flags, 0]
def querying (many : Bool) (ws : List Nat) (g : Grp) : State :=
  answering (.qcast {} 3 1 2) 8 0#64 ((grouped (block (queryWords many)) g).placeWords 0x5000 (ws.flatMap fun w => [w % 2 ^ 32, w / 2 ^ 32]))

theorem wit_query : ((querying true [] merge).waitOf 0 0).map (fun w => (w.what, w.instr, w.res2)) = some (.answer, .qcast {} 3 1 2, 0#64) ∧ (querying true [] merge).isFrozen 0 = false ∧
    (querying true [] merge).group 1 = some merge ∧ (querying true [] merge).reg 0 0 2 = 1#64 ∧ handles (querying true [] merge) 0 0 := by unfold handles; decide +kernel
theorem wit_query_record : (querying false [] merge).readHomes 0 0 0x4000 64 = .ok ((queryWords false).flatMap (bytesOfNum 8)) ∧ (1 + 2 ^ 16 * 4) % 2 ^ 11 = 1 ∧ ¬ merge.smax < 1 ∧
    ({ merge with smax := 0 } : Grp).smax < 1 ∧ merge.st ≠ .armed :=
  ⟨home_ok _ _ (by decide +kernel), by decide, by decide, by decide, by decide⟩
theorem wit_query_map : ((querying true (mapWords 1 1 (2 ^ 16)) merge).acquire 0 5).readHomes 0 0 0x5040 16 = .ok ([2 ^ 16, 0].flatMap (bytesOfNum 8)) ∧
    (querying true (mapWords 1 1 (2 ^ 16)) merge).readHomes 0 0 0x5000 64 = .ok (([4, 1, 1, 0, 0, 0, 0, 0] : List Nat).flatMap (bytesOfNum 8)) ∧
    ((querying true (mapWords 1 1 (2 ^ 16)) merge).acquire 0 5).readHomes 0 0 0x6000 4 = .ok [0, 0, 0, 0] :=
  ⟨home_ok _ _ (by decide +kernel), home_ok _ _ (by decide +kernel), home_ok _ _ (by decide +kernel)⟩
theorem wit_query_clauses : ¬ 0 + 1 ≤ 0 % 2 ^ 32 ∧ 0 + 1 ≤ 1 % 2 ^ 32 ∧ ¬ 1 ≤ (0 : Nat) % 2 ^ 8 ∧ ¬ (0 / 2 ^ 16 % 2 = 1) ∧ 2 ^ 16 / 2 ^ 16 % 2 = 1 ∧
    1 ≤ (({ merge with smax := 1 } : Grp).smax) ∧ ({ merge with st := .armed } : Grp).st = .armed := by decide
theorem test_query_alone_arms : ((after (.qcastAnswer 0 0) (querying false [] merge)).group 1).map (fun g => (g.st, g.gen, g.s)) = some (.armed, 4, 1) := by decide +kernel
theorem test_query_stripe : (after (.qcastAnswer 0 0) (querying true (mapWords 1 1 (2 ^ 16)) merge)).stripes.map (fun m => m.n) = [256] := by decide +kernel
theorem test_query_stale_entry : (after (.qcastAnswer 0 0) (querying true (mapWords 1 1 0) merge)).reg 0 0 3 = 2#64 := by decide +kernel
theorem test_query_map_invalid : (after (.qcastAnswer 0 0) (querying true (mapWords 1 0 (2 ^ 16)) merge)).reg 0 0 3 = 4#64 := by decide +kernel
theorem test_query_beyond_count : ((after (.qcastAnswer 0 0) (querying true (mapWords 0 1 (2 ^ 16)) merge)).task 0 0).tcause = 39#64 := by decide +kernel

/-- A partial for slot 0 of group 1. -/
def partialMsg (kind : PKind) (slot : Nat) : PartMsg := { id := 4, h := 1, gen := 0, slot, qtag := 0, kind, part := { m := 0, l := 0x3F800000, o := [0x40000000] } }
def arriving (m : PartMsg) (g : Grp) : State := { grouped job g with partials := [m] }
def armedMerge : Grp := { merge with st := .armed }
/-- A stripe message to NMU 0, whose command block is at 0x4000 of die 0, with a region of two rows. -/
def stripe : StripeMsg :=
  { id := 4, h := 1, gen := 0, qtag := 0, slot := 0, weave := 1, ctx := 0, core := 0, task := 0, uid := 0, word0 := 0, word1 := 2, j := 0, n := 1, lpp := 1, sprog := 0x4000,
    seqid := 0, q := [7] }
def striped (m : StripeMsg) (win : Bool) : State :=
  { block [0x5000, 1, 0, 0x10000, 0x8080, 0, 0, 0, 0, 0, 0, 0, 0, 0, 0, 0] with
      stripes := [m], windows := if win then [(0, BitVec.ofNat 64 (2 ^ 48 * 0xFFFF + 2 ^ 10 * 41 + 2 ^ 9 + 2 ^ 8))] else [] }
/-- A contribution of core 0 to element 7 of group 1. -/
def contribution (pa : Nat) : Access :=
  { id := 9, party := 0, kind := .contribution 1 7, space := .fabric, va := pa, pa, n := 4, stage := .sent, data := cellsFrom pa (bytesOfNum 4 5) }
def contributed (pa : Nat) (g : Grp) : State := grouped (access job (contribution pa)) g
/-- Every element of the group has one contribution, of value 5; element 7 none. -/
def almost : Grp := { reduce with st := .armed, count := 1, elems := (span 0 7).map fun n => (n, [5]), bases := [(0, [(0, 0x1000)])] }

theorem wit_partial : (arriving (partialMsg .normal 0) armedMerge).group 1 = some armedMerge ∧ armedMerge.reduce = false ∧ (partialMsg .normal 0).qtag = armedMerge.qtag ∧
    (partialMsg .lost 0).kind = .lost ∧ armedMerge.s ≤ (partialMsg .normal 1).slot ∧ tfind armedMerge.leaves 0 = none ∧ ¬ (partialMsg .normal 0).part.o.length < armedMerge.dim := by decide
theorem wit_partial_last : (tput armedMerge.leaves 0 ({ m := 0, l := 0, o := [0] } : NPart)).length = armedMerge.s ∧ (tput armedMerge.leaves 0 ({ m := 0, l := 0, o := [0] } : NPart)).length ≠ 2 ∧
    (arriving (partialMsg .normal 0) armedMerge).weaveHalted 1 = false ∧ armedMerge.out = [(0x10000, 64 + 4 * armedMerge.dim)] ∧ 0 < armedMerge.s := by decide
theorem wit_partial_memory : memoryOk (arriving (partialMsg .normal 0) armedMerge) := by unfold memoryOk banksOk homesOk; decide
theorem wit_combine : (decodeFloat .f32 false 0x3F800000 ≠ .nan) ∧ minMaxF true (decodeFloat .f32 false 0x3F800000) (decodeFloat .f32 false 0) = .fin false 8388608 (-23) ∧
    decodeFloat .f32 false 0x7F800000 = .inf false := by decide
theorem wit_query_ends : 1000 * merge.tmo ≤ ({ merge with elapsed := 1000 } : Grp).elapsed ∧ merge.tmo ≠ 0 ∧ (8 : Nat) ≤ 68 ∧ ({ merge with status := 2 ^ 63 } : Grp).status < 2 ^ 64 := by decide
theorem wit_stripe : (striped stripe true).stripes = [stripe] ∧ (striped stripe true).weaveGone 1 = false ∧ (striped { stripe with weave := 2 } true).weaveGone 2 = true ∧
    (striped stripe true).windowCheck 0 0 .rd 0x4000 128 = none ∧ (striped stripe false).windowCheck 0 0 .rd 0x4000 128 ≠ none ∧ ({ striped stripe true with lost := 1 } : State).lost.testBit 0 = true := by
  decide +kernel
theorem wit_stripe_right : nmuBlockOk ((striped stripe true).homeBytes 0x4000 128) = true ∧ 2 * 2 ^ 15 = 0x10000 ∧ (2 + 1 * 1) * 2 ^ 15 + 128 ≤ 0x10000 + 0x8080 ∧
    numBytes (bytesAt (striped stripe true).banks (2 * 2 ^ 15) 4) = stripe.seqid := by decide +kernel
theorem wit_contributed : (contributed 0x101C almost).findAccess 9 = some (0, contribution 0x101C) ∧ ((contributed 0x101C almost).core 0).mayArrive (contribution 0x101C) = true ∧
    0x101C % 32 = 7 % 8 * 4 ∧ ¬ (0x1000 % 32 = 7 % 8 * 4) ∧ (tget [] almost.elems 7).length < almost.count ∧ 0 ∉ almost.fins ∧ (contributed 0x101C almost).weaveHalted 1 = false ∧
    (∀ i, i < 7 → (tget [] almost.elems i).length = almost.count) := by decide
theorem wit_contribution_memory : memoryOk (contributed 0x101C almost) := by unfold memoryOk banksOk homesOk; decide
theorem wit_reduce_timeout : almost.st = .armed ∧ almost.tmo ≠ 0 ∧ 1000 * almost.tmo ≤ ({ almost with elapsed := 1000 } : Grp).elapsed := by decide
theorem test_partial_completes : ((after (.partialArrival 4) (arriving (partialMsg .normal 0) armedMerge)).homeBytes 0x10040 4) = [0, 0, 0, 0x40] := by decide +kernel
theorem test_partial_lost : ((after (.partialArrival 4) (arriving (partialMsg .lost 0) armedMerge)).group 1).map (fun g => g.status) = some (2 ^ 63 + 1) := by decide
theorem test_merge_timeout : ((after (.mergeTimeout ⟨0, 0, 1⟩) (grouped job { armedMerge with elapsed := 1000 })).group 1).map (fun g => g.status) = some (2 ^ 63 + 3) := by decide
theorem test_completion_writes_status : (after (.queryCompletionDone ⟨0, 0, 1⟩) (grouped job { merge with st := .completing, status := 2 ^ 63 + 3 })).homeBytes 0x10000 8 = [3, 0, 0, 0, 0, 0, 0, 0x80] := by
  decide +kernel
theorem test_stripe_queues : ((after (.stripeMessage 4) (striped stripe true)).nmu 0).queue.map (fun x => (x.y.take 1, x.loopn)) = [([3], 1)] := by decide +kernel
theorem test_stripe_stale : (after (.stripeMessage 4) (striped { stripe with seqid := 1 } true)).partials.map (fun p => p.kind) = [.stale] := by decide +kernel
theorem test_contribution_writes_the_sector : (after (.reduceContribution 9) (contributed 0x101C almost)).homeBytes 0x101C 4 = [5, 0, 0, 0] := by decide +kernel
theorem test_contribution_misplaced : ((after (.reduceContribution 9) (contributed 0x1000 almost)).group 1).map (fun g => g.last) = some 2 := by decide
theorem test_reduce_timeout : ((after (.reduceTimeout ⟨0, 0, 1⟩) (grouped job { almost with elapsed := 1000 })).group 1).map (fun g => g.last) = some 3 := by decide
theorem test_integer_sum_wraps : reduceElem 0 [2 ^ 31, 2 ^ 31, 5] = 5 := by decide

/-! The network engines. -/

/-- An open queue pair of the loader's weave, its region at 0x10000; queue pair 5 of die 0, and counters. -/
def qp : NeQp :=
  { weave := 1, ctx := 0, base := 0x10000, len := 0x10000, pds := 0, mtu := 0, planes := 3, reord := 1, retries := 1, rto := 1, sring := 0, slog2 := 4, rxbuf := 0x1000, rlog2 := 0,
    bshift := 10, ren := true, rxcpl := 0x2000, cbase := 0, ccnt := 16, rxctr := 0, rxcen := true, jobid := 7, rqp := 9, paddr := List.replicate 16 1#8, cwmax := 1024,
    evt := 2 ^ 63 + 3, pidx := 1, rxidx := 1, psn := 0, cack := 0 }
def netted (s : State) (q : NeQp) : State := { s with nets := [(0, { qps := [(5, q)], ctrs := [(15, { value := 9#64 })] })] }
/-- A network command's registers: queue pair 5, counter 15, and an operand. -/
def netTask : State := netted (ctl [(1, 5#64), (2, 1#64), (3, 15#64), (4, 0x100000000#64), (5, 16#64), (6, BitVec.ofNat 64 (2 ^ 48 * 15))]) qp
def netWaits (i : Instr) (q : NeQp) : State := answering i 4 0#64 (netted (ctl [(1, 5#64), (2, 1#64), (3, 15#64), (4, 20#64), (6, BitVec.ofNat 64 (2 ^ 48 * 15))]) q)
/-- A descriptor of a queue pair. -/
def qpWords (field : Nat) : List Nat :=
  [0x10000, 0x10000, 2 ^ 4 + 2 ^ 20 + 2 ^ 32 + 2 ^ 48, 4 * 2 ^ 32, 0, 0, 16 * 2 ^ 12, 0, 0, 0, 0, 1024, 0, field, 0, 0]
def qpOpening (field : Nat) (q : List (Nat × NeQp)) : State :=
  { (block (qpWords field)).modTask 0 0 fun x =>
      { x with st := .parked, wait := some { what := .answer, instr := .neQpOpen {} 3 1, len := 4, blk := (qpWords field).flatMap (bytesOfNum 8) } } with nets := [(0, { qps := q })] }
def cwaiting (k : Nat) (thr : Word) (err : Bool) : State :=
  { ctl [] with nets := [(0, { ctrs := [(k, { value := 9#64, err })] })] }.modTask 0 0 fun x =>
    { x with st := .parked, wait := some { what := .counter k thr, instr := .neCwait {} 3 1 2, len := 4 } }

theorem wit_net_commands : netTask.cur = .task 0 0 ∧ (5#64).toNat < 1024 ∧ tfind (netTask.net 0).qps 5 = some qp ∧ qp.weave = netTask.weaveNo 0 ∧ tfind (netTask.net 0).qps 1 = none ∧
    handles netTask 0 0 ∧ (1#64).toNat < 2 ^ 32 ∧ 2 ^ 32 ≤ (0x100000000#64).toNat := by unfold handles; decide
theorem wit_net_counters : (15 : Nat) < 4096 ∧ qp.ctx = (netTask.core 0).ctxno ∧ qp.cbase ≤ 15 ∧ 15 < qp.cbase + qp.ccnt ∧ ¬ 16 < qp.cbase + qp.ccnt ∧ 2 ^ 48 * 15 / 2 ^ 18 % 2 ^ 30 = 0 ∧
    2 ^ 48 * 15 / 2 ^ 60 = 0 := by decide
theorem wit_net_open_command : (block (qpWords 0)).readBlock 0 0 0x4000 128 = .ok ((qpWords 0).flatMap (bytesOfNum 8)) ∧ segFor ((block (qpWords 0)).core 0).seg 0x10000 ≠ none ∧ (0x4040#64).toNat % 128 ≠ 0 :=
  ⟨block_ok _ _ (by decide +kernel), by decide +kernel, by decide⟩
theorem wit_net_open : qpDescOk ((qpWords 0).flatMap (bytesOfNum 8)) = true ∧ qpRegion ((qpOpening 0 []).core 0) 0 0x10000 0x10000 = .ok 0x10000 ∧ tfind ((qpOpening 0 []).net 0).qps 0 = none ∧
    qpDescOk ((qpWords 1).flatMap (bytesOfNum 8)) = false ∧ (qpOpening 0 [(0, { qp with ctx := 1 })]).isFrozen 0 = false ∧ 0 < 0 + 16 :=
  ⟨by decide +kernel, region_ok _ _ (by decide +kernel), by decide +kernel, by decide +kernel, by decide +kernel, by decide⟩
theorem wit_net_pair_states : ∀ q ∈ [qp, { qp with st := .closing }, { qp with st := .closing, ents := [{ opc := 1, rtype := 0, lcen := false, lctr := 0, loff := 0, roff := 0, len := 0, tag := 0, msn := 0, pkts := [] }] },
      { qp with st := .error }], (netWaits (.neQpClose {} 3 1) q).waitOf 0 0 = some { what := .answer, instr := .neQpClose {} 3 1, len := 4 } ∧ tfind ((netWaits (.neQpClose {} 3 1) q).net 0).qps 5 = some q ∧
      ((netWaits (.neQpClose {} 3 1) q).core 0).quiet 0 = true ∧ (netWaits (.neQpClose {} 3 1) q).isFrozen 0 = false := by decide
theorem wit_net_post : ¬ (2 ^ qp.slog2 < (16 + 2 ^ 32 - qp.cidx) % 2 ^ 32) ∧ 2 ^ qp.slog2 < (17 + 2 ^ 32 - qp.cidx) % 2 ^ 32 ∧ 2 ^ qp.rlog2 < (3 + 2 ^ 32 - qp.rxidx) % 2 ^ 32 := by decide
theorem wit_net_watch : tfind ((netWaits (.neArm {} 3 6 4) qp).net 0).watches 0 = none ∧ ((netWaits (.neArm {} 3 6 4) qp).net 0).watches = [] ∧ ((netWaits (.neArm {} 3 6 4) qp).net 0).ctr 15 = { value := 9#64 } ∧
    ¬ (20#64).toNat ≤ (9#64).toNat ∧ (1#64).toNat ≤ (9#64).toNat := by decide
theorem wit_net_cwait : ((cwaiting 15 9#64 false).waitOf 0 0).map (fun w => w.what) = some (.counter 15 9#64) ∧ (cwaiting 15 9#64 false).stopped 0 = false ∧ (((cwaiting 15 9#64 true).net 0).ctr 15).err = true ∧
    (9#64).toNat ≤ (((cwaiting 15 9#64 false).net 0).ctr 15).value.toNat ∧ (((cwaiting 15 10#64 false).net 0).ctr 15).value.toNat < (10#64).toNat := by decide
theorem test_qp_close_parks : ((after (.neQpClose {} 7 1) netTask).task 0 0).st = .parked := by decide
theorem test_qp_rd_unknown : ((after (.neQpRd {} 7 2) netTask).task 0 0).tval = 1#64 := by decide
theorem test_post_operand : ((after (.nePost {} 7 1 4) netTask).task 0 0).tval = 0x100000000#64 := by decide
theorem test_post_rx_parks : ((after (.nePostRx {} 7 1 2) netTask).task 0 0).st = .parked := by decide
theorem test_arm_parks_on_its_counter : ((after (.neArm {} 7 6 2) netTask).task 0 0).st = .parked := by decide
theorem test_ctr_rd_outside : ((after (.neCtrRd {} 7 5) netTask).task 0 0).tcause = 40#64 := by decide
theorem test_cwait_parks : ((after (.neCwait {} 7 3 2) netTask).task 0 0).wait.map (fun w => w.what) = some (.counter 15 1#64) := by decide
theorem test_qp_open_parks : ((after (.neQpOpen {} 7 1) (block (qpWords 0))).task 0 0).st = .parked := by decide +kernel
theorem test_poll_parks : ((after (.nePoll {} 7 1) netTask).task 0 0).st = .parked := by decide
theorem test_qp_opens_lowest : (after (.neCommandAnswer 0 0) (qpOpening 0 [(0, { qp with ctx := 1, cbase := 16 })])).reg 0 0 3 = 0x100000000#64 := by decide +kernel
theorem test_qp_counters_taken : (after (.neCommandAnswer 0 0) (qpOpening 0 [(0, { qp with ctx := 1 })])).reg 0 0 3 = 1#64 := by decide +kernel
theorem test_qp_bad_descriptor : (after (.neCommandAnswer 0 0) (qpOpening 1 [])).reg 0 0 3 = 2#64 := by decide +kernel
theorem test_qp_rd_word : (after (.neCommandAnswer 0 0) (netWaits (.neQpRd {} 7 1) qp)).reg 0 0 7 = BitVec.ofNat 64 (2 ^ 62 + 1) := by decide
theorem test_post_refused_in_error : (after (.neCommandAnswer 0 0) (netWaits (.nePost {} 7 1 2) { qp with st := .error })).reg 0 0 7 = 2#64 := by decide
theorem test_ctr_add : ((after (.neCommandAnswer 0 0) (netWaits (.neCtrAdd {} 3 4) qp)).net 0).ctr 15 = { value := 29#64 } := by decide
theorem test_ctr_set : ((after (.neCommandAnswer 0 0) (netWaits (.neCtrSet {} 3 4) qp)).net 0).ctr 15 = { value := 20#64 } := by decide
theorem test_watch_signals_at_once : (after (.neCommandAnswer 0 0) (netWaits (.neArm {} 7 6 2) qp)).signals.length = 1 := by decide
theorem test_cwait_error : (afterTurn (.wake 0 0) (cwaiting 15 10#64 true)).reg 0 0 3 = 1#64 := by decide

/-- The first ring entry of queue pair 5, at 0x10000. -/
def entryState (ws : List Nat) (q : NeQp) : State := (netted job q).placeWords 0x10000 (ws.flatMap fun w => [w % 2 ^ 32, w / 2 ^ 32])
/-- A WRITE of 4 bytes; one that waits for counter 15 to reach 10; one behind a fence. -/
def entryWords (flags ctr thr : Nat) : List Nat := [1 + 2 ^ 16 * flags, 0, 0, 4, ctr, thr, 0, 0]
def entry (pkts : List NePkt) (opc : Nat) : NeEnt := { opc, rtype := 0, lcen := true, lctr := 3, loff := 0x100, roff := 0x40, len := 4, tag := 0, msn := 0, pkts }
def sending (p : NePkt) (opc : Nat) : State := netted job { qp with ents := [entry [p] opc] }
def packet (opc : Nat) (data : List Byte) : Packet :=
  { qp := 5, jobid := 7, src := List.replicate 16 1#8, psn := 0, opc, rtype := 0, roff := 0x40, msgLen := data.length, off := 0, len := data.length, msn := 0, tag := 6#64, data }

theorem wit_entry_bad : ((netted job qp).net 0).qps.map (fun q => (q.2.st, q.2.cidx, q.2.pidx)) = [(.open_, 0, 1)] ∧ (netted job qp).weaveHalted 1 = false ∧
    entryGood qp ((netted job qp).homeBytes 0x10000 64) = false := by decide +kernel
theorem wit_entry_good : entryGood qp ((entryState (entryWords 0 0 0) qp).homeBytes 0x10000 64) = true ∧ entryGood qp ((entryState (entryWords 1 15 10) qp).homeBytes 0x10000 64) = true ∧
    (((entryState (entryWords 1 15 10) qp).net 0).ctr 15).value.toNat < 10 ∧ entryGood qp ((entryState (entryWords 2 0 0) qp).homeBytes 0x10000 64) = true ∧
    ({ qp with ents := [entry [] 1] } : NeQp).ents ≠ [] := by decide +kernel
theorem wit_packet : ({ qp with ents := [entry [{ psn := 0, off := 0, len := 4 }] 1] } : NeQp).pkt 0 = some (entry [{ psn := 0, off := 0, len := 4 }] 1, { psn := 0, off := 0, len := 4 }) ∧
    ({ qp with ents := [entry [{ psn := 0, off := 0, len := 4 }] 1] } : NeQp).maySend { psn := 0, off := 0, len := 4 } = true ∧
    ({ qp with ents := [entry [{ psn := 0, off := 0, len := 4, sent := true }] 1] } : NeQp).maySend { psn := 0, off := 0, len := 4, sent := true } = false ∧ job.errorLine 512 = false := by decide
theorem wit_rto : (999 : Nat) < 1000 * qp.rto ∧ 1000 * qp.rto ≤ 1000 ∧ qp.retries ≤ 1 ∧ 0 < qp.retries := by decide
theorem wit_packet_memory : memoryOk (netted job qp) := by unfold memoryOk banksOk homesOk; decide
theorem wit_receive : tfind ((netted job qp).net 0).qps 5 = some qp ∧ (packet 1 [1#8]).jobid = qp.jobid ∧ (packet 1 [1#8]).src = qp.paddr ∧ (0 + 2 ^ 32 - qp.cack) % 2 ^ 32 = 0 ∧
    tfind ((netted job qp).net 0).qps 6 = none ∧ (2 ^ 31 ≤ ((2 ^ 32 - 1) + 2 ^ 32 - qp.cack) % 2 ^ 32) ∧ 1024 ≤ (1024 + 2 ^ 32 - qp.cack) % 2 ^ 32 ∧ ¬ (0xFFFF + 2 ≤ qp.len) ∧
    (qp.rxidx + 2 ^ 33 - 1 - 0) % 2 ^ 32 < 2 ^ qp.rlog2 ∧ 2 ^ qp.rlog2 ≤ (qp.rxidx + 2 ^ 33 - 1 - 1) % 2 ^ 32 ∧ 0x10000 + 0x2000 + 16 ≤ 0x20000 := by decide
theorem test_entry_bad : (tget qp ((after (.neEntryStart 0 5 false) (netted job qp)).net 0).qps 5).errc = 1 := by decide +kernel
theorem test_entry_starts : (tget qp ((after (.neEntryStart 0 5 false) (entryState (entryWords 0 0 0) qp)).net 0).qps 5).ents.map (fun e => e.pkts) = [[{ psn := 0, off := 0, len := 4 }]] := by decide +kernel
theorem test_packet_leaves_on_its_plane : ((after (.nePacketTransmit 0 5 1) (netted job { qp with ents := [entry [{ psn := 1, off := 0, len := 4 }] 1] })).net 0).sent.map (fun x => (x.1, x.2.roff)) = [(8, 0x40)] := by
  decide +kernel
theorem test_retries_used_up : (tget qp ((after (.neRtoExpiry 0 5 0) (sending { psn := 0, off := 0, len := 4, sent := true, age := 1000, retx := 1 } 1)).net 0).qps 5).errc = 3 := by decide
theorem test_ack_completes : ((after (.neAckArrival 0 5 1 0 false none) (sending { psn := 0, off := 0, len := 4, sent := true } 1)).net 0).ctr 3 = { value := 4#64 } := by decide
theorem test_write_arrives : (after (.nePacketReceive 0 (packet 1 [8#8])) (netted job qp)).homeByte 0x10040 = 8#8 := by decide +kernel
theorem test_send_record : (after (.nePacketReceive 0 (packet 3 [8#8])) (netted job qp)).homeByte 0x1200F = 0x80#8 := by decide +kernel

/-! The samplers. -/

/-- A context of the loader's weave, and the sampler of die 0 with it at handle 4095. -/
def smx : SmCtx :=
  { weave := 1, ctx := 0, core := 0, base := 0x10000, len := 0x1000, spill := 0x20000, emit := some 0x30000, elog2 := 0, evt := 2 ^ 63 + 3, map := none, lenw := some 0x30100, stepmax := 1, seqid := 5, key := 9#64,
    stream := 0, ctr := 0, pos := 0, prog := [0], res := true }
def sampled (s : State) (x : SmCtx) : State := { s with smps := [(0, { ctxs := [(4095, x)] })] }
def smTask (x : SmCtx) : State := sampled (ctl [(1, 4095#64), (2, BitVec.ofNat 64 (4095 + 2 ^ 16)), (3, 7#64), (4, BitVec.ofNat 64 (4095 + 2 ^ 16 * 257)), (5, 0x4000#64)]) x
def smWaits (i : Instr) (x : SmCtx) : State := answering i 4 0#64 (smTask x)
/-- A context record over the region 0x10000 and the spill area 0x40000. -/
def smWords (field : Nat) : List Nat := [0x10000, 0x1000, 0x40000, 7, 0, 0, 0, 0, 0, 0, 2 ^ 32, 0, field, 0, 0, 0]
def smOpening (field : Nat) : State :=
  (block (smWords field)).modTask 0 0 fun x => { x with st := .parked, wait := some { what := .answer, instr := .smCtxOpen {} 3 1, len := 4, blk := (smWords field).flatMap (bytesOfNum 8) } }
def smStarting (x : SmCtx) : State :=
  (smTask x).modTask 0 0 fun y => { y with st := .parked, wait := some { what := .answer, instr := .smStart {} 6 1 3, len := 4, acted := true } }
def smCollecting (x : SmCtx) : State :=
  (smTask x).modTask 0 0 fun y => { y with st := .parked, wait := some { what := .run 4095, instr := .smWait {} 6 1, len := 4 } }

theorem places_ok (r : Except Nat SmPlaces) (h : (match r with | .ok _ => true | .error _ => false) = true) : ∃ p, r = .ok p := by
  cases r <;> simp_all

theorem wit_sm_commands : (smTask smx).cur = .task 0 0 ∧ (smTask smx).smCtx 0 4095 = some smx ∧ smx.weave = (smTask smx).weaveNo 0 ∧ (smTask smx).smCtx 0 7 = none ∧ handles (smTask smx) 0 0 ∧
    (4095 + 2 ^ 16 * 255) / 2 ^ 24 = 0 ∧ (4095 + 2 ^ 16 * 256) / 2 ^ 24 ≠ 0 := by unfold handles; decide
theorem wit_sm_collects : ({ smx with st := .running } : SmCtx).st = .running ∧ ({ smx with ended := some (1, 2, 0) } : SmCtx).ended ≠ none ∧ smx.st ≠ .running ∧ smx.ended = none := by decide
theorem wit_sm_open_command : (block (smWords 0)).readBlock 0 0 0x4000 128 = .ok ((smWords 0).flatMap (bytesOfNum 8)) ∧ (∃ p, smPlaces ((block (smWords 0)).core 0) ((smWords 0).flatMap (bytesOfNum 8)) = .ok p) ∧
    (0x4040#64).toNat % 128 ≠ 0 := ⟨block_ok _ _ (by decide +kernel), places_ok _ (by decide +kernel), by decide⟩
theorem wit_sm_prog : (4095 + 2 ^ 16 * 256) / 2 ^ 25 = 0 ∧ 1 ≤ (4095 + 2 ^ 16 * 256) / 2 ^ 16 % 2 ^ 9 ∧ (4095 + 2 ^ 16 * 256) / 2 ^ 16 % 2 ^ 9 ≤ 256 ∧ ¬ ((4095 + 2 ^ 16 * 257) / 2 ^ 16 % 2 ^ 9 ≤ 256) ∧
    (smTask smx).readBlock 0 0 0x4000 4 = .ok [0, 0, 0, 0] ∧ (0x4002#64).toNat % 4 ≠ 0 :=
  ⟨by decide, by decide, by decide, by decide, block_ok _ _ (by decide +kernel), by decide⟩
theorem wit_sm_open : smRecordOk ((smWords 0).flatMap (bytesOfNum 8)) = true ∧ smRecordOk ((smWords 1).flatMap (bytesOfNum 8)) = false ∧ (smOpening 0).smCtx 0 0 = none ∧ (smOpening 0).isFrozen 0 = false := by decide +kernel
theorem wit_sm_answers : ∀ x ∈ [smx, { smx with st := .running }, { smx with st := .halted }, { smx with st := .running, cpend := true }, { smx with prog := [] }],
    (smWaits (.smCtxRd {} 6 1) x).smCtx 0 4095 = some x ∧ ((smWaits (.smCtxRd {} 6 1) x).waitOf 0 0).map (fun w => w.what) = some .answer ∧ ((smWaits (.smCtxRd {} 6 1) x).core 0).quiet 0 = true := by decide
theorem wit_sm_starts : (smStarting smx).starter 0 4095 = some (0, 0, { what := .answer, instr := .smStart {} 6 1 3, len := 4, acted := true }) ∧ (smStarting smx).isFrozen 0 = false ∧
    ((smStarting smx).smp 0).running < 16 ∧ smx.st = .idle ∧ smx.prog ≠ [] ∧ (6 : Nat) ≠ 0 ∧
    16 ≤ ({ (smStarting smx).smp 0 with ctxs := (span 0 16).map fun n => (n, { smx with st := .running }) } : Smp).running := by decide
theorem wit_sm_collected : ((smCollecting { smx with ended := some (1, 2, 0) }).waitOf 0 0).map (fun w => (w.what, w.instr)) = some (.run 4095, .smWait {} 6 1) ∧
    (smCollecting { smx with ended := some (1, 2, 0) }).stopped 0 = false ∧ ((smCollecting { smx with st := .running }).smCtx 0 4095).map (fun x => x.st) = some .running := by decide
theorem wit_sm_cancel_word : (sampled job { smx with st := .running }).smCtx 0 ((4095#64).toNat % 2 ^ 12) = some { smx with st := .running } ∧ smx.ctx = (4095#64).toNat / 2 ^ 16 % 2 ^ 16 ∧
    smx.ctx ≠ (0x10FFF#64).toNat / 2 ^ 16 % 2 ^ 16 := by decide
theorem test_sm_open_parks : ((after (.smCtxOpen {} 6 1) (block (smWords 0))).task 0 0).st = .parked := by decide +kernel
theorem test_sm_close_parks : ((after (.smCtxClose {} 6 1) (smTask smx)).task 0 0).st = .parked := by decide
theorem test_sm_reset_unknown : ((after (.smCtxReset {} 6 3) (smTask smx)).task 0 0).tcause = 41#64 := by decide
theorem test_sm_rd_parks : ((after (.smCtxRd {} 6 1) (smTask smx)).task 0 0).st = .parked := by decide
theorem test_sm_cancel_parks : ((after (.smCancel {} 6 1) (smTask smx)).task 0 0).st = .parked := by decide
theorem test_sm_start_parks : ((after (.smStart {} 6 2 3) (smTask smx)).task 0 0).st = .parked := by decide
theorem test_sm_wait_nothing : ((after (.smWait {} 6 1) (smTask smx)).task 0 0).tcause = 41#64 := by decide
theorem test_sm_try_parks : ((after (.smWaitTry {} 6 1) (smTask { smx with st := .running })).task 0 0).st = .parked := by decide
theorem test_sm_prog_too_long : ((after (.smProg {} 6 5 4) (smTask smx)).task 0 0).tval = BitVec.ofNat 64 (4095 + 2 ^ 16 * 257) := by decide
theorem test_sm_opened : (after (.samplerAnswer 0 0) (smOpening 0)).smCtx 0 0 |>.map (fun x => (x.key, x.stepmax)) |> (· = some (7#64, 1)) := by decide +kernel
theorem test_sm_bad_record : (after (.samplerAnswer 0 0) (smOpening 1)).reg 0 0 3 = 2#64 := by decide +kernel
theorem test_sm_status : (after (.samplerAnswer 0 0) (smWaits (.smCtxRd {} 6 1) { smx with cand := [1, 2], last := 3, pos := 4 })).reg 0 0 6 = BitVec.ofNat 64 (2 ^ 62 + 2 ^ 61 + 2 ^ 49 + 3 * 2 ^ 40 + 4) := by decide
theorem test_sm_cancel_pends : ((after (.samplerAnswer 0 0) (smWaits (.smCancel {} 6 1) { smx with st := .running })).smCtx 0 4095).map (fun x => x.cpend) = some true := by decide
theorem test_sm_run_begins : ((after (.smRunBegin 0 4095) (smStarting smx)).smCtx 0 4095).map (fun x => (x.st, x.reg 1)) = some (.running, 7#64) := by decide
theorem test_sm_wait_collects : (afterTurn (.wake 0 0) (smCollecting { smx with ended := some (1, 2, 3) })).reg 0 0 6 = BitVec.ofNat 64 (2 ^ 32 + 2 * 2 ^ 16 + 3) := by decide
theorem test_smcancel_other_context : ((after (.smcancelWrite 0 0x10FFF#64) (sampled job { smx with st := .running })).smCtx 0 4095).map (fun x => x.cpend) = some false := by decide

/-- The run of handle 4095 issues. -/
def smRun (x : SmCtx) : State := { sampled job { x with st := .running } with cur := .run 0 4095 }
/-- Register r of the run after a word. -/
noncomputable def smGives (i : Instr) (x : SmCtx) (r : Nat) : Option Word := ((after i (smRun x)).smCtx 0 4095).map fun y => y.reg r
/-- How the run ended. -/
noncomputable def smEnds (i : Instr) (x : SmCtx) : Option Nat := ((after i (smRun x)).smCtx 0 4095).map fun y => y.last
/-- The candidate of a token with a score. -/
def scored (f tok : Nat) : Nat := 2 ^ 32 * f + tok
/-- Two candidates, of scores 0 and −1, in no order. -/
def pool : List Nat := [scored 0xBF800000 7, scored 0 3]
def withRegs (l : Tbl Word) : SmCtx := { smx with regs := l, cand := pool }

theorem wit_sm_memory : memoryOk (smRun smx) := by unfold memoryOk banksOk homesOk; decide
theorem wit_sm_words : (smRun (withRegs [])).smCtx 0 4095 = some { withRegs [] with st := .running } ∧ (withRegs []).cand.length ≤ 1024 ∧ (0 + 1 : Nat) < (withRegs []).cand.length ∧
    (withRegs []).cand.length ≤ 2 ∧ ¬ (0xFF8 % 8 ≠ 0 ∨ smx.len < 0xFF8 + 8) ∧ (0x1000 % 8 ≠ 0 ∨ smx.len < 0x1000 + 8) ∧ 0xFE0 % 32 = 0 ∧ 0xFE0 + 32 ≤ smx.len ∧ job.errorLine 512 = false := by decide
theorem wit_sm_emit : smx.emit = some 0x30000 ∧ ({ smx with emit := none } : SmCtx).emit = none ∧ smx.out = [] ∧ ({ smx with out := [{ id := 1, run := 0, kind := .notify }] } : SmCtx).out ≠ [] := by decide
theorem wit_sm_limit : ({ smx with issued := 1 } : SmCtx).stepmax ≤ 1 ∧ smx.issued < smx.stepmax ∧ (smRun smx).weaveHalted 1 = false ∧ (smRun smx).tornWeave 1 = false ∧ smx.check = false ∧
    ({ smx with map := some 0x30200 } : SmCtx).map ≠ none := by decide
theorem wit_sm_pool : (∀ c ∈ pool, decodeFloat .f32 false (c / 2 ^ 32 % 2 ^ 32) ≠ .nan ∧ c < 2 ^ 64) ∧ pool ≠ [] ∧ (1 : Nat) < 28 ∧ 0x10000 / 2 ^ 48 % 2 ^ 16 = 0 ∧ 0x1000 < 0xFFF + 1 * 4 ∧
    ¬ (0xFFC % 4 ≠ 0 ∨ smx.len < 0xFFC + 1 * 4) ∧ decodeFloat .f32 false 0x7FC00000 = .nan ∧ decodeFloat .f32 false 0x3F800000 ≠ .nan ∧ (∀ l, (smRun smx).errorLine l = false) :=
  ⟨by decide, by decide, by decide, by decide, by decide, by decide, by decide, by decide, fun _ => rfl⟩
theorem wit_sm_weights : ∃ l : List Nat, l.Perm pool ∧ l.Pairwise (fun a b => relF 4 (decodeFloat .f32 false (a / 2 ^ 32 % 2 ^ 32)) (decodeFloat .f32 false (b / 2 ^ 32 % 2 ^ 32)) = true ∨
      (relF 0 (decodeFloat .f32 false (a / 2 ^ 32 % 2 ^ 32)) (decodeFloat .f32 false (b / 2 ^ 32 % 2 ^ 32)) = true ∧ a % 2 ^ 32 ≤ b % 2 ^ 32)) :=
  ⟨[scored 0 3, scored 0xBF800000 7], by decide, by decide⟩
theorem test_sm_ld_past : smEnds (.smLd true 2 1 0) (withRegs []) = some 7 := by decide
theorem test_sm_ld_candidate : smGives (.smLd true 1 1 0) (withRegs []) 1 = some 3#64 := by decide
theorem test_sm_st_appends : ((after (.smSt true 2 0 0) (smRun (withRegs []))).smCtx 0 4095).map (fun x => x.cand.length) = some 3 := by decide
theorem test_sm_li_high : smGives (.smLi true 0xFFFFF 1) smx 1 = some 0xFFFFF000#64 := by decide
theorem test_sm_li_signed : smGives (.smLi false 0xFFFFF 1) smx 1 = some (-1#64) := by decide
theorem test_sm_mov_to_ctr : smGives (.smMov 30 2) (withRegs [(2, -1#64)]) 30 = some 0xFFFFFFFF#64 := by decide
theorem test_sm_add_immediate : smGives (.smAdd false 1023 1 2 2) (withRegs [(2, 4#64)]) 1 = some 7#64 := by decide
theorem test_sm_sub : smGives (.smSub false 0 1 2 3) (withRegs [(2, 4#64), (3, 5#64)]) 1 = some (-1#64) := by decide
theorem test_sm_cmp_unsigned : smGives (.smCmp true 2 false 1 2 3) (withRegs [(2, -1#64)]) 1 = some 0#64 := by decide
theorem test_sm_max_signed : smGives (.smMax false 1 2 3) (withRegs [(2, -1#64)]) 1 = some 0#64 := by decide
theorem test_sm_div : smGives (.smDiv 1 2 3) (withRegs [(2, 0x40C00000#64), (3, 0x40000000#64)]) 1 = some 0x40400000#64 := by decide +kernel
theorem test_sm_exp_of_zero : smGives (.smExp 1 0) smx 1 = some 0x3F800000#64 := by decide +kernel
theorem test_sm_sum_of_one : smGives (.smSum 0 1) { smx with cand := [scored 0 3] } 1 = some 0x3F800000#64 := by decide +kernel
theorem test_sm_sum_empty : smGives (.smSum 0 1) smx 1 = some 0#64 := by decide
theorem test_sm_topk_keeps_the_first : smGives (.smTopk 1 1 0 2) (withRegs [(2, BitVec.ofNat 64 (2 ^ 25))]) 31 = some 1#64 := by decide +kernel
theorem test_sm_topp_nan : smEnds (.smTopp 1 2) (withRegs [(2, 0x7FC00000#64)]) = some 6 := by decide
theorem test_sm_temp_greedy : ((after (.smTemp 1 0) (smRun (withRegs []))).smCtx 0 4095).map (fun x => x.cand) = some [3] := by decide +kernel
theorem test_sm_rng_counts : smGives (.smRng true 1) smx 30 = some 1#64 := by decide +kernel
theorem test_sm_draw_first : smGives (.smDraw 1 0) (withRegs []) 1 = some (BitVec.ofNat 64 (scored 0xBF800000 7)) := by decide +kernel
theorem test_sm_tree_out : smEnds (.smTree 1 2) (withRegs [(2, 0x1000#64)]) = some 7 := by decide
theorem test_sm_acc_absent : smGives (.smAcc true 1 2 0) (withRegs [(2, 9#64)]) 1 = some 0#64 := by decide +kernel
theorem test_sm_emit_record : ((after (.smEmit 2) (smRun (withRegs [(2, 9#64)]))).smCtx 0 4095).map (fun x => x.out.map fun e => e.pa) = some [0x30000, 0x30100, 0] := by decide
theorem test_sm_br_back : ((after (.smBr 0x1FFFFF) (smRun { smx with pc := 3 })).smCtx 0 4095).map (fun x => x.pc) = some 2 := by decide
theorem test_sm_bz_taken : ((after (.smBz 0 5) (smRun smx)).smCtx 0 4095).map (fun x => x.pc) = some 5 := by decide
theorem test_sm_end : ((after (.smEnd 2) (smRun (withRegs [(2, 6#64)]))).smCtx 0 4095).map (fun x => x.ended) = some (some (6, 0, 0)) := by decide
theorem test_sm_step_limit : ((after (.smStepLimit 0 4095) (smRun { smx with issued := 1 })).smCtx 0 4095).map (fun x => x.last) = some 2 := by decide
theorem test_sm_cancelled : ((after (.smCancelEffect 0 4095) (smRun { smx with cpend := true })).smCtx 0 4095).map (fun x => x.last) = some 1 := by decide

/-! The halt controllers. -/

/-- A weave of two jobs, on cores 0 and 1, that holds halt slot 0. -/
def debugWeave : Weave := { loaderWeave with jobs := [(0, [0]), (1, [1])], hslot := some 0 }
/-- Its slot, with core 1 frozen or not and a task there. -/
def debugged (l : Tbl Word) (sl : HSlot) (stands : Bool) (x : Task) : State :=
  { ctl l with weaves := [(1, debugWeave)], hslots := [(0, { sl with weave := some 1 })] }.modCore 1 fun k =>
    { k with job := some (1, 1), frozen := if stands then some (9, 7) else none, tasks := [(0, x)], data := { k.data with vec := { named := true } } }
def settledSlot : HSlot := { halting := true, settled := true }
/-- A target word: its own weave, the kind, the location. -/
def own (kind loc : Nat) : Word := BitVec.ofNat 64 (2 ^ 47 + 2 ^ 14 * kind + loc)
/-- Task 0 waits for the controllers; g1 is the target and g2 the operand. -/
def asked (i : Instr) (v y : Word) (sl : HSlot) (stands : Bool) (x : Task) : State := answering i 4 0#64 (debugged [(1, v), (2, y)] sl stands x)
/-- The same operation in the halt block of die 0. -/
def posted (op : Nat) (v y : Word) (s : State) : State := { s with hblocks := [(0, { tgt := v, arg := y, cmd := some op })] }
/-- What the block answers. -/
def blockSays (s : State) : Word × Word := ((tget {} s.hblocks 0).hres, (tget {} s.hblocks 0).hres2)

theorem wit_debug_allowed : (debugged [] {} false {}).targetSlot 0 0#64 = some 0 ∧ (debugged [] {} false {}).slotOf 0 = some 0 ∧
    (own 0 0).toNat / 2 ^ 47 % 2 = 1 ∧ (own 0 0).toNat / 2 ^ 16 % 2 ^ 31 = 0 ∧ (own 0 0).toNat / 2 ^ 48 = 0 ∧ (own 2 8191).toNat % 2 ^ 13 = 8191 ∧ (own 2 8191).toNat / 2 ^ 13 % 2 = 0 := by
  decide
theorem wit_debug_not_allowed : ¬ ((2 ^ 48 : Nat) / 2 ^ 47 % 2 = 1) ∧ job.slotOf 0 = none ∧
    (({ job with weaves := [(1, { loaderWeave with sys := false })] } : State).weaveOf 0).map (fun w => w.sys) = some false := by decide
theorem wit_debug_targets : (∀ k ∈ [(2, 8191), (1, 8128), (0, 0)], (own k.1 k.2).toNat / 2 ^ 14 % 4 = k.1 ∧ (own k.1 k.2).toNat % 2 ^ 13 = k.2) ∧ 8128 % 64 = 0 ∧ 1 % 64 ≠ 0 ∧
    (∀ n ∈ [7, 16 + 7, 32 + 7], n / 64 = 0 ∧ n / 8 % 2 = 0 ∧ n / 2 ^ 4 % 4 ≠ 3) ∧ 48 / 2 ^ 4 % 4 = 3 ∧ 8 / 8 % 2 ≠ 0 := by decide
theorem wit_debug_operands : (1 : Nat) / 2 = 0 ∧ 2 / 2 ≠ 0 ∧ (2 ^ 8 + 7) / 2 ^ 3 % 2 ^ 5 = 0 ∧ (2 ^ 8 + 7) / 2 ^ 9 = 0 ∧ 8 / 2 ^ 3 % 2 ^ 5 ≠ 0 ∧ (2 ^ 11 - 1) / 2 ^ 11 = 0 ∧ 2 ^ 11 / 2 ^ 11 ≠ 0 := by decide
theorem wit_debug_handles : handles (ctl [(1, own 1 0)]) 0 0 := ⟨by decide, by decide, by decide⟩
theorem wit_debug_asked : (asked (.dbgHalt {} 3 1) (own 0 0) 0#64 {} false {}).waitOf 0 0 = some { what := .answer, instr := .dbgHalt {} 3 1, len := 4 } ∧
    (asked (.dbgHalt {} 3 1) (own 0 0) 0#64 {} false {}).isFrozen 0 = false ∧ (asked (.dbgHalt {} 3 1) (own 0 0) 0#64 {} false {}).stopped 0 = false ∧
    (asked (.dbgHalt {} 3 1) (own 0 0) 0#64 {} false {}).targetSlot 0 (own 0 0) = some 0 ∧ (answering (.dbgHalt {} 3 1) 4 0#64 job).targetSlot 0 (own 0 0) = none := by decide
theorem wit_debug_posted : (tget {} (posted 1 0#64 0#64 (debugged [] {} false {})).hblocks 0).cmd = some 1 ∧ debugBad 1 0#64 0#64 = none ∧ tgtOwn 0#64 = false ∧
    (debugged [] {} false {}).slotOfCtx (0 / 2 ^ 48) = some 0 ∧ job.slotOfCtx 0 = none ∧ debugBad 1 1#64 0#64 ≠ none := by decide
theorem wit_debug_ready : (tget {} (debugged [] settledSlot true {}).hslots 0).halting = true ∧ (tget {} (debugged [] settledSlot true {}).hslots 0).settled = true ∧
    (tget {} (debugged [] settledSlot true {}).hslots 0).resuming = false ∧ (tget {} (debugged [] {} true {}).hslots 0).halting = false ∧
    (debugged [] settledSlot true {}).stepping 0 = false := by decide
theorem wit_debug_items : (debugged [] settledSlot true {}).jobHere 1 1 = true ∧ (debugged [] settledSlot true {}).isFrozen 1 = true ∧ (debugged [] settledSlot false {}).isFrozen 1 = false ∧
    tfind (debugged [] settledSlot true {}).weaves 1 = some debugWeave ∧ (7 : Nat) < 8 ∧ (8 : Nat) ≤ 8 ∧ (63 : Nat) < 64 ∧ (78 : Nat) ≤ 255 := by decide
theorem wit_debug_steps : ((debugged [] settledSlot true { st := .ready }).task 1 0).st = .ready ∧ ((debugged [] settledSlot true { st := .parked }).core 1 |>.heldReply 0) = none ∧
    ((debugged [] settledSlot true {}).task 1 7).st = .free ∧ ((debugged [] settledSlot true {}).strand 0 1).atStop = true ∧ ((debugged [] settledSlot true {}).strand 0 2).atStop = true ∧
    ((debugged [] settledSlot true {}).strand 0 3).atStop = true ∧ ((debugged [] settledSlot true {}).strand 1 1).atStop = false ∧ (debugged [] settledSlot true {}).freezeMet 1 = false ∧
    ((debugged [] settledSlot true {}).core 1).data.late3 = none ∧ (debugged [] settledSlot true {}).jobHere 1 2 = false := by decide
theorem test_dbg_halt_parks : ((after (.dbgHalt {} 3 1) (debugged [(1, own 0 0)] {} false {})).task 0 0).st = .parked := by decide
theorem test_dbg_clr_bad_target : ((after (.dbgClr {} 3 1) (ctl [(1, own 1 0)])).task 0 0).tcause = 42#64 := by decide
theorem test_dbg_resume_bad_operand : ((after (.dbgResume {} 3 1 2) (ctl [(1, own 0 0), (2, 2#64)])).task 0 0).tval = 2#64 := by decide
theorem test_dbg_step_parks : ((after (.dbgStep {} 3 1 2) (debugged [(1, own 2 8191), (2, 7#64)] {} false {})).task 0 0).st = .parked := by decide
theorem test_dbg_rdc_parks : ((after (.dbgRdc {} 3 1 2) (debugged [(1, own 1 64), (2, 2047#64)] {} false {})).task 0 0).st = .parked := by decide
theorem test_dbg_bp_misaligned : ((after (.dbgBp {} 3 1 2) (ctl [(1, own 0 32), (2, 4#64)])).task 0 0).tcause = 42#64 := by decide
theorem test_dbg_privilege : ((after (.dbgClr {} 3 1) { ctl [(1, BitVec.ofNat 64 (2 ^ 48))] with weaves := [(1, { loaderWeave with sys := false })] }).task 0 0).tcause = 43#64 := by
  decide
theorem test_answer_no_weave : (after (.haltControllerAnswer 0 0) (answering (.dbgHalt {} 3 1) 4 0#64 (ctl [(1, own 0 0)]))).reg 0 0 3 = 1#64 := by decide
theorem test_answer_halt_freezes : ((after (.haltControllerAnswer 0 0) (asked (.dbgHalt {} 3 1) (own 0 0) 0#64 {} false {})).core 0).frozen = some (0, 0) := by decide
theorem test_answer_resume_at : (tget {} (after (.haltControllerAnswer 0 0) { asked (.dbgResume {} 3 1 2) (own 0 0) 1#64 settledSlot true {} with time := 1 }).hslots 0).resumeAt = 1000 := by decide
theorem test_answer_resume_not_settled : (after (.haltControllerAnswer 0 0) { asked (.dbgResume {} 3 1 2) (own 0 0) 1#64 {} true {} with time := 1 }).reg 0 0 3 = 2#64 := by decide
theorem test_answer_rdc_pc : (after (.haltControllerAnswer 0 0) (asked (.dbgRdc {} 3 1 2) (own 2 1) 64#64 settledSlot true { pc := 0x1234#64 })).reg 0 0 3 = 0x1234#64 := by decide
theorem test_answer_rdc_status : (after (.haltControllerAnswer 0 0) (asked (.dbgRdc {} 3 1 2) (own 2 1) 78#64 settledSlot true {})).reg 0 0 4 = 3#64 := by decide
theorem test_hcmd_halt : blockSays (after (.hcmdHalt 0) (posted 1 0#64 0#64 (debugged [] {} false {}))) = (0#64, 1#64 <<< 63) := by decide
theorem test_hcmd_step_owed : ((after (.hcmdStep 0) (posted 2 0x8001#64 0#64 (debugged [] settledSlot true { st := .ready }))).core 1).stepOwed = some 0 := by decide
theorem test_hcmd_resume_no_weave : blockSays (after (.hcmdResume 0) (posted 3 0#64 0#64 job)) = (1#64, 1#64 <<< 63) := by decide
theorem test_hcmd_rdc_register : blockSays (after (.hcmdRdc 0) (posted 4 0x8001#64 5#64 (debugged [] settledSlot true { regs := [(5, 99#64)] }))) = (99#64, 1#64 <<< 63) := by decide
theorem test_hcmd_bp_loads_cores : ((after (.hcmdBp 0) (posted 5 0x15#64 0x2000#64 (debugged [] {} false {}))).core 1).bps = [(5, (1, 0x2000))] := by decide
theorem test_hcmd_clr_refused : blockSays (after (.hcmdClr 0) (posted 6 1#64 0#64 (debugged [] {} false {}))) = (0xFF#64, 1#64 <<< 63) := by decide

/-- A breakpoint of kind 1 at 0x1000, or of kind 2 at 0. -/
def breaking (b : Nat × Nat) (sl : HSlot) : State := (debugged [] sl false {}).modCore 0 fun k => { k with bps := [(5, b)], data := { k.data with vec := { named := true } } }
/-- Both cores are frozen, and task 0 of core 1 is as given. -/
def bothFrozen (sl : HSlot) (x : Task) : State := (debugged [] sl true x).modCore 0 fun k => { k with frozen := some (9, 7) }
def trapPending : Task := { st := .ready, pc := 0x40#64, pendCause := some (5#64, 0x40#64, 2#64) }

/-- An `add` stands at the breakpoint, and could issue. -/
def breakingAdd : State := (breaking (1, 0x1000) {}).placeWords 0x1000 (encode (.add {} 3 1 2))
theorem wit_breakpoint_word : breakingAdd.stopsTask 0 0 5 = true ∧ breakingAdd.stopsTask 0 0 4 = false := by decide +kernel
theorem wit_breakpoint : ((breaking (1, 0x1000) {}).task 0 0).st = .ready ∧ tfind ((breaking (1, 0x1000) {}).core 0).bps 5 = some (1, ((breaking (1, 0x1000) {}).task 0 0).pc.toNat) ∧
    ((breaking (2, 0) {}).strand 0 1).going = true ∧ tfind ((breaking (2, 0) {}).core 0).bps 5 = some (2, ((breaking (2, 0) {}).strand 0 1).pc) ∧ ((breaking (2, 0) {}).strand 0 1).pc < 2 ^ 64 ∧
    (breaking (1, 0) {}).isFrozen 0 = false ∧ ((breaking (1, 0) {}).core 0).job = some (1, 0) ∧ debugWeave.hslot = some 0 ∧ debugWeave.id = 1 := by decide
theorem wit_settle : (∀ e ∈ (bothFrozen { halting := true } {}).coresOf debugWeave, (bothFrozen { halting := true } {}).isFrozen e = true) ∧
    (bothFrozen { halting := true } {}).inLayer debugWeave = false ∧ (∃ e ∈ (debugged [] { halting := true } true {}).coresOf debugWeave, (debugged [] { halting := true } true {}).isFrozen e = false) := by
  decide
theorem wit_resume_at : (bothFrozen { settledSlot with resuming := true, resumeAt := 1 } {}).time < 1 ∧ (bothFrozen { settledSlot with resuming := true } {}).stepping 0 = false ∧
    1 ∈ (bothFrozen settledSlot trapPending).coresOf debugWeave ∧ ((bothFrozen settledSlot trapPending).task 1 0).wait = none ∧
    ((bothFrozen settledSlot trapPending).task 1 0).pendCause = some (5#64, 0x40#64, 2#64) ∧ ((bothFrozen settledSlot trapPending).task 1 0).tin = false := by decide
theorem test_breakpoint_freezes : [0, 1].map (fun c => ((after (.haltCause 0 0 4 5 0x1000#64 0#64) breakingAdd).core c).frozen) = [some (0, 0), none] := by decide +kernel
theorem test_breakpoint_record : (tget {} (after (.haltCause 0 0 4 5 0x1000#64 0#64) breakingAdd).hslots 0).panel.code = 5 := by decide +kernel
theorem test_wave_arrives : ((after (.haltWaveArrival 0) (debugged [] { halting := true } true {})).core 0).frozen = some (0, 0) := by decide
theorem test_settles : (tget {} (after (.haltSettled 0) (bothFrozen { halting := true } {})).hslots 0).settled = true := by decide
theorem test_resumes_together : [0, 1].map (fun c => ((after (.resumeAtT 0) (bothFrozen { settledSlot with resuming := true } {})).core c).frozen) = [none, none] := by decide +kernel
theorem test_delivered_trap : ((after (.resumeAtT 0) ((bothFrozen { settledSlot with resuming := true, deliver := true } trapPending).modCore 1 fun k => { k with tvec := 0x9000#64 })).task 1 0).pc =
    0x9000#64 := by decide +kernel
theorem wit_debug_stuck : (late.core 0).data.late3.isSome = true ∧ (late.strand 0 1).atStop = false := by decide

/-! The dispatcher. -/

/-- Slot 2 of die 0's dispatcher. -/
def dispatched (q : QSlot) (s : State) : State := { s with disps := [(0, { slots := [(2, q)] })] }
/-- A mapped queue of 16 packets, descriptor at 0x30000, ring at 0x38000. -/
def mappedSlot : QSlot := { st := .mapped, desc := 0x30000, qcfg := BitVec.ofNat 64 (4 * 2 ^ 32), qbase := 0x38000 }
/-- The words of a packet of a kind with a dependence count, the STATUS address and an event. -/
def packetWords (kind ndep : Nat) (dep value addr ev : Nat) : List Nat := [kind + 2 ^ 16 * ndep, if kind = 3 then 0 else 0x6000, dep, value, 0, 0, 0, 0, 0, 0, addr, ev, 0, 0, 0, 0]
def marker : List Byte := (packetWords 3 0 0 0 0 0).flatMap (bytesOfNum 8)
/-- Task 0 waits for its launch to be accepted. -/
def launching (ws : List Nat) (q : QSlot) : State := dispatched q (answering (.launch {} 3 1 2) 8 0#64 (block ws))
/-- A queue descriptor: LOG2 and WEIGHT, the base, RDIDX, WRIDX with its mark. -/
def queueWords (wt rd wr : Nat) : List Nat := [2 ^ 40 * wt + 2 ^ 32 * 4, 0x38000, rd, wr, 0, 0, 0, 0]
def mapping (ws : List Nat) (q : QSlot) : State := dispatched q (answering (.qmap {} 3 1 2) 4 0#64 ((block ws).modTask 0 0 fun x => { x with regs := [(1, 0x4000#64), (2, 2#64)] }))
def slotAsk (i : Instr) (q : QSlot) : State := dispatched q (answering i 4 0#64 (ctl [(2, 2#64)]))

theorem wit_dispatcher_block : (block (packetWords 3 0 0 0 0 0)).blockPlace 0 0x4000 128 .rd = .ok [(0x4000, 128)] ∧ (∀ p ∈ [(0x4000, 128)], (block []).errorLine (p.1 / 128) = false) ∧
    (block (queueWords 1 0 0)).blockPlace 0 0x4000 64 .rd = .ok [(0x4000, 64)] ∧ handles (block []) 0 0 ∧ 0x4040 % 128 ≠ 0 :=
  ⟨place_ok _ _ (by decide +kernel), by decide +kernel, place_ok _ _ (by decide +kernel), ⟨by decide +kernel, by decide +kernel, by decide +kernel⟩, by decide⟩
theorem wit_dispatcher_privilege : (job.weaveOf 0).map (fun w => w.sys) = some true ∧ (({ job with weaves := [(1, { loaderWeave with sys := false })] } : State).weaveOf 0).map (fun w => w.sys) = some false ∧
    (63 : Nat) < 64 ∧ (64 : Nat) ≤ 64 := by decide
theorem wit_launch_answers : (launching (packetWords 3 0 0 0 0 0) mappedSlot).waitOf 0 0 = some { what := .answer, instr := .launch {} 3 1 2, len := 8 } ∧
    (launching (packetWords 3 0 0 0 0 0) mappedSlot).isFrozen 0 = false ∧ ((launching (packetWords 3 0 0 0 0 0) mappedSlot).core 0).quiet 0 = true ∧
    (job.core 0).ctxno = mappedSlot.ctx ∧ ({ mappedSlot with qcfg := 1#64 <<< 48 } : QSlot).ctx ≠ 0 ∧ ({ mappedSlot with lane := List.replicate 15 marker } : QSlot).lane.length < 16 := by decide +kernel
theorem wit_launch_memory : memoryOk (launching (packetWords 3 0 0 0 0 0) mappedSlot) := by unfold memoryOk banksOk homesOk; decide +kernel
theorem wit_packet_fields : (∀ n ∈ [1, 2, 3], ¬ (n = 0 ∨ 3 < n)) ∧ 3 < 4 ∧ ¬ (2 ≤ 1) ∧ ¬ (4 < 4) ∧ numBytes ((((packetWords 3 5 0 0 0 0).flatMap (bytesOfNum 8)).drop 2).take 1) = 5 ∧
    2 ^ 60 / 2 ^ 60 = 1 ∧ 3 < 2 ^ 62 / 2 ^ 60 ∧ 2 ^ 48 / 2 ^ 48 % 2 ^ 12 ≠ 0 ∧ 2 ^ 18 / 2 ^ 18 % 2 ^ 45 ≠ 0 ∧ 8 % 16 ≠ 0 := by decide +kernel
theorem wit_qmap_answers : (mapping (queueWords 1 0 16) {}).waitOf 0 0 = some { what := .answer, instr := .qmap {} 3 1 2, len := 4 } ∧ ((mapping (queueWords 1 0 16) {}).core 0).quiet 0 = true ∧
    ((mapping (queueWords 1 0 16) {}).reg 0 0 2).toNat = 2 ∧ (mapping (queueWords 1 0 16) {}).blockPlace 0 0x4000 64 .rd = .ok [(0x4000, 64)] ∧ (16 + 2 ^ 32 - 0) % 2 ^ 32 ≤ 2 ^ 4 ∧
    2 ^ 4 < (17 + 2 ^ 32 - 0) % 2 ^ 32 ∧ 0x38000 % (128 * 2 ^ 4) = 0 :=
  ⟨by decide +kernel, by decide +kernel, by decide +kernel, place_ok _ _ (by decide +kernel), by decide, by decide, by decide⟩
theorem wit_qunmap_answers : (slotAsk (.qunmap {} 3 2) mappedSlot).waitOf 0 0 = some { what := .answer, instr := .qunmap {} 3 2, len := 4 } ∧ memoryOk (slotAsk (.qunmap {} 3 2) mappedSlot) ∧
    ((slotAsk (.qunmap {} 3 2) mappedSlot).qslot 0 2).st ≠ .free ∧ ((slotAsk (.qunmap {} 3 2) mappedSlot).qslot 0 3).st = .free := by unfold memoryOk banksOk homesOk; decide
theorem test_launch_parks : ((after (.launch {} 3 1 2) (block (packetWords 3 0 0 0 0 0))).task 0 0).st = .parked := by decide +kernel
theorem test_launch_misaligned : ((after (.launch {} 3 1 2) (ctl [(1, 0x4040#64)])).task 0 0).tcause = 20#64 := by decide +kernel
theorem test_qmap_without_system : ((after (.qmap {} 3 1 2) { ctl [] with weaves := [(1, { loaderWeave with sys := false })] }).task 0 0).tcause = 21#64 := by decide +kernel
theorem test_qunmap_slot_64 : ((after (.qunmap {} 3 2) (ctl [(2, 64#64)])).task 0 0).tval = 64#64 := by decide +kernel
theorem test_qstat_parks : ((after (.qstat {} 3 2) (ctl [(2, 63#64)])).task 0 0).st = .parked := by decide +kernel
theorem test_launch_accepted : ((after (.dispatcherAnswer 0 0) (launching (packetWords 3 0 0 0 0 0) mappedSlot)).qslot 0 2).lane = [marker] := by decide +kernel
theorem test_launch_unmapped : (after (.dispatcherAnswer 0 0) (launching (packetWords 3 0 0 0 0 0) {})).reg 0 0 3 = 2#64 := by decide +kernel
theorem test_launch_lane_full : (after (.dispatcherAnswer 0 0) (launching (packetWords 3 0 0 0 0 0) { mappedSlot with lane := List.replicate 16 marker })).reg 0 0 3 = 1#64 := by decide +kernel
theorem test_launch_bad_packet : (after (.dispatcherAnswer 0 0) (launching (packetWords 4 0 0 0 0 0) mappedSlot)).reg 0 0 3 = 4#64 := by decide +kernel
theorem test_qmap_overrun : ((after (.dispatcherAnswer 0 0) (mapping (queueWords 1 0 (2 ^ 63 + 17)) {})).qslot 0 2).st = .overrun := by decide +kernel
theorem test_qmap_weight_zero : (after (.dispatcherAnswer 0 0) (mapping (queueWords 0 0 0) {})).reg 0 0 3 = 2#64 := by decide +kernel
theorem test_qunmap_counts_lane : (after (.dispatcherAnswer 0 0) (slotAsk (.qunmap {} 3 2) { mappedSlot with lane := [marker] })).reg 0 0 3 = 256#64 := by decide +kernel
theorem test_qstat_free : (after (.dispatcherAnswer 0 0) (slotAsk (.qstat {} 3 2) {})).reg 0 0 3 = 0#64 := by decide +kernel

/-! Packets. -/

/-- A packet of die 0's dispatcher. -/
def dispPacket (ws : List Nat) (st : PktSt) : DPkt :=
  { id := 9, die := 0, slot := 2, lane := false, idx := 0, desc := 0x30000, qcfg := BitVec.ofNat 64 (4 * 2 ^ 32), tdaddr := 0, raw := ws.flatMap (bytesOfNum 8), st,
    met := [ws.headD 0 / 2 ^ 16 == 0, true, true, true] }
def waitsAt (p : DPkt) (s : State) : State := { s with disps := [(0, { slots := [(2, mappedSlot)], pkts := [p] })] }
/-- The word that a dependence reads holds 5. -/
def five : State := { job with banks := setBytes [] 0x50000 [5#8] }
def depends (kind value : Nat) : List Nat := packetWords 3 1 (2 ^ 60 * kind + 0x50000) value 0 0

theorem wit_take : (dispatched { mappedSlot with lane := [marker], wridx := 1 } job |>.qslot 0 2).lane = [marker] ∧ (dispatched { mappedSlot with wridx := 1 } job |>.qslot 0 2).rdidx ≠
      (dispatched { mappedSlot with wridx := 1 } job |>.qslot 0 2).wridx ∧ ((dispatched mappedSlot job).disp 0).pkts = [] ∧ memoryOk (dispatched mappedSlot job) := by
  unfold memoryOk banksOk homesOk; decide +kernel
theorem wit_start : (waitsAt (dispPacket (depends 1 5) .waiting) five).pkt 0 9 = some (dispPacket (depends 1 5) .waiting) ∧ (dispPacket (depends 1 5) .waiting).met = [false, true, true, true] ∧
    five.dispRead 0x50000 = some 5 ∧ (∀ w ∈ five.weaves, w.2.origin ≠ .packet 9) ∧ (5 : Nat) / 2 ^ 63 % 2 = 2 % 2 ∧ ¬ (6 ≤ 5) ∧ (65536 + 5) % 2 ^ 16 ≤ 5 % 2 ^ 16 ∧
    five.dispRead (2 ^ 38 - 8) ≠ none ∧ five.dispRead (2 ^ 40) = none := by decide +kernel
theorem wit_start_memory : memoryOk (waitsAt (dispPacket (depends 1 5) .waiting) five) := by unfold memoryOk banksOk homesOk; decide +kernel
theorem wit_complete : (waitsAt (dispPacket (packetWords 3 0 0 0 0x50010 (2 ^ 63 + 3)) .completed) five).pkt 0 9 = some (dispPacket (packetWords 3 0 0 0 0x50010 (2 ^ 63 + 3)) .completed) ∧
    0x50010 % 16 = 0 ∧ (2 ^ 63 + 3) / 2 ^ 63 = 1 := by decide +kernel
theorem test_take_from_lane : ((after (.packetTake 0 2 true) (dispatched { mappedSlot with lane := [marker] } job)).disp 0).pkts.map (fun p => (p.idx, p.raw)) = [(2 ^ 32 - 1, marker)] := by decide +kernel
theorem test_take_refuses : ((after (.packetTake 0 2 false) (dispatched { mappedSlot with wridx := 1 } job)).disp 0).pkts.map (fun p => (p.idx, p.status)) = [(0, 15)] := by decide +kernel
theorem test_met_marker_completes : ((after (.dependenceRecheck 0 9 false) (waitsAt (dispPacket (depends 1 5) .waiting) five)).pkt 0 9).map (fun p => p.st) = some .completed := by decide +kernel
theorem test_unmet_waits : ((after (.dependenceRecheck 0 9 false) (waitsAt (dispPacket (depends 1 6) .waiting) five)).pkt 0 9).map (fun p => (p.st, p.met)) = some (.waiting, [false, true, true, true]) := by decide +kernel
theorem test_launch_starts : (after (.dependenceRecheck 0 9 false) (waitsAt (dispPacket (packetWords 1 0 0 0 0 0) .waiting) five)).weaves.map (fun e => (e.1, e.2.recAddr)) = [(1, 0), (2, 0x6000)] := by decide +kernel
theorem test_graph_starts : (after (.dependenceRecheck 0 9 false) (waitsAt (dispPacket (packetWords (2 + 2 ^ 48 * 3) 0 0 0 0 0) .waiting) five)).runs.map (fun e => (e.2.base, e.2.nnodes)) = [(0x6000, 3)] := by
  decide +kernel
theorem test_packet_done_word : (after (.packetComplete 0 9) (waitsAt (dispPacket (packetWords 3 0 0 0 0x4FFF0 0) .completed) { job with banks := setBytes [] 0x4FFF8 [5#8] })).homeNum 0x4FFF8 8 = 6 := by decide +kernel

/-! Graph runs. -/

/-- The words of a node: kind and NIN, two successors, the condition's address, the record. -/
def nodeWords (kind nin n0 n1 ca rec : Nat) : List Nat := [kind + 2 ^ 8 * nin, n0 + 2 ^ 16 * n1 + 2 ^ 32 * 0xFFFFFFFF, 2 ^ 64 - 1, ca, rec, 0, 0, 0]
/-- A graph of three nodes at 0x6000, whose node 0 is as given; the condition word holds v. -/
def graphAt (ws : List Nat) (v : Nat) : State :=
  { waitsAt (dispPacket (packetWords 2 0 0 0 0 0) .started) { job with banks := setBytes (setBytes [] 0x50000 (bytesOfNum 8 v)) 0x6000 (ws.flatMap (bytesOfNum 8)) } with
      runs := [(4, { id := 4, pkt := 9, die := 0, slot := 2, lane := false, idx := 0, qcfg := BitVec.ofNat 64 (4 * 2 ^ 32), tdaddr := 0, base := 0x6000, nnodes := 3, insts := [{ id := 0, node := 0 }], cnt := 1 })] }
/-- The nodes that are started after node 0 acts. -/
noncomputable def goesOn (ws : List Nat) (v : Nat) : Option (List Nat) := (tfind (after (.graphNodeReady 4 0 false) (graphAt ws v)).runs 4).map fun r => r.insts.map fun i => i.node

theorem wit_run : ((graphAt (nodeWords 1 0 1 2 0 0x7000) 0).pkt 0 9).isSome = true ∧ (tfind (graphAt (nodeWords 1 0 1 2 0 0x7000) 0).runs 4).map (fun r => r.insts.find? fun x => x.id == 0 && x.st == .ready) =
    some (some { id := 0, node := 0 }) ∧ (graphAt (nodeWords 2 0 1 2 0x50000 0) 1).dispRead 0x50000 = some 1 ∧ (graphAt (nodeWords 2 0 1 2 0x50000 0) 1).dispRead (2 ^ 40) = none := by decide +kernel
theorem wit_node : (∀ ws ∈ [nodeWords 1 0 1 2 0 0x7000, nodeWords 2 0 1 2 0x50000 0, nodeWords 3 0 1 2 0x50000 0, nodeWords 4 0 1 2 0x50000 0, nodeWords 5 1 1 0xFFFF 0 0],
    (graphAt ws 0).homeBytes 0x6000 64 = ws.flatMap (bytesOfNum 8)) ∧ (3 : Nat) ≤ 3 ∧ ¬ (3 ≤ 2) ∧ (7 : Nat) < 8 := by decide +kernel
theorem test_if_taken : goesOn (nodeWords 2 0 1 2 0x50000 0) 1 = some [1] := by decide +kernel
theorem test_while_not_taken : goesOn (nodeWords 3 0 1 2 0x50000 0) 0 = some [2] := by decide +kernel
theorem test_switch_second : goesOn (nodeWords 4 0 1 2 0x50000 0) 1 = some [2] := by decide +kernel
theorem test_weave_node_stays : goesOn (nodeWords 1 0 1 2 0 0x7000) 0 = some [0] := by decide +kernel
theorem test_join_waits : goesOn (nodeWords 5 1 1 2 0 0) 0 = some [1] := by decide +kernel
theorem test_bad_kind_ends : ((after (.graphNodeReady 4 0 false) (graphAt (nodeWords 6 0 1 2 0 0) 0)).pkt 0 9).map (fun p => p.status) = some 13 := by decide +kernel
theorem test_condition_fault_ends : ((after (.graphNodeReady 4 0 true) (graphAt (nodeWords 2 0 1 2 0x50000 0) 0)).pkt 0 9).map (fun p => p.status) = some 11 := by decide +kernel

/-! Placement. -/

/-- Package 0 is up. -/
def up : State := { State.reset with pkgs := [(0, { boot := .ready })] }
/-- A weave of a tree of levels waits, its record checked. -/
def waits (levels : List (Nat × Nat × Nat)) : Weave := { loaderWeave with st := .waiting, jobs := [], lrec := { loaderWeave.lrec with levels, cstart := 0x1000, arg := 7 } }
def oneJob : List (Nat × Nat × Nat) := [(1, 5, 1)]
/-- Two dies of one core each. -/
def twoDies : List (Nat × Nat × Nat) := [(1, 2, 4), (2, 3, 3), (1, 5, 1)]
def waitingFor (x : Weave) : State := { up with weaves := [(1, x)], nextId := 5 }
/-- Its launch record at 0x6000, read with the packet of the weave. -/
def recordWords (version nlev flags cstart bars level : Nat) : List Nat :=
  [version + 2 ^ 16 * nlev + 2 ^ 24 * flags, cstart, 0, 0, 0, 0x9000, 0, 0, level, 0, 0, 0, 0, 0, 0, 0, bars, 0, 0, 0, 0, 0, 0, 0, 0, 0, 0, 0, 0, 0, 0, 0]
def unread (ws : List Nat) (seg : Nat) : State :=
  { waitingFor { waits [] with checked := false, recAddr := 0x6000, origin := .packet 9 } with
      disps := [(0, { pkts := [dispPacket (packetWords 1 0 0 0 0 0) .waiting] })],
      banks := setBytes (setBytes [] 0x6000 (ws.flatMap (bytesOfNum 8))) 0x9000 (bytesOfNum 8 seg) }
/-- A good record: one job, its tree of one level at core scope. -/
def goodWords : List Nat := recordWords 1 1 0 0x1000 0 (2 ^ 19 * 1 + 2 ^ 16 * 5 + 1)
/-- The status that a record is refused with. -/
noncomputable def refusedWith (ws : List Nat) (seg : Nat) : Option Nat := ((after (.weavePlacement 1) (unread ws seg)).pkt 0 9).map fun p => p.status

theorem wit_record : ((unread goodWords 0).pkt 0 9).map (fun p => p.id) = some 9 ∧ (unread goodWords 0).pkgUp 0 = true ∧ 0x6000 % 256 = 0 ∧ inHbm 0x6000 = true ∧
    treeOk (recordOf ((unread goodWords 0).homeBytes 0x6000 256)).levels = true ∧ (recordOf ((unread goodWords 0).homeBytes 0x6000 256)).barsBad = false ∧
    (recordOf ((unread goodWords 0).homeBytes 0x6000 256)).reserved = false := by decide +kernel
theorem nothing_listed (m : Bytes) (a : Nat) (h : ∀ e ∈ m, e.1 < a) : tfind m a = none := by
  induction m with
  | nil => rfl
  | cons e t ih =>
    have h1 := h e (by simp)
    simp only [tfind]
    rw [if_neg (by omega)]
    exact ih fun x hx => h x (List.mem_cons_of_mem _ hx)
theorem nothing_there (s : State) (n a : Nat) (hs : s.homes = []) (h : ∀ e ∈ s.banks, e.1 < a) : s.homeBytes a n = List.replicate n 0#8 := by
  induction n generalizing a with
  | zero => rfl
  | succ n ih =>
    have h1 : s.homeByte a = 0#8 := by simp [State.homeByte, hs, tfind, byteAt, tget, nothing_listed s.banks a h, emptyByte]
    simp [State.homeBytes, List.replicate_succ, h1, ih (a + 1) fun e he => Nat.lt_succ_of_lt (h e he)]
theorem no_number (n k : Nat) : numOfBytes k (List.replicate n 0#8) = 0 := by
  induction n generalizing k with
  | zero => cases k <;> rfl
  | succ n ih => cases k <;> simp [List.replicate_succ, numOfBytes, ih]
theorem wit_map_image : imageOk (imageRecords ((unread goodWords 0).homeBytes 0x9000 4096)) = true := by
  rw [nothing_there _ _ _ rfl (by decide +kernel)]
  have h : imageRecords (List.replicate 4096 0#8) = [] :=
    List.filterMap_eq_nil_iff.2 fun i _ => by simp only [recNum, numBytes, List.drop_replicate, List.take_replicate, no_number, fld, Nat.zero_div, Nat.zero_mod]; rfl
  rw [h]; rfl
theorem wit_record_boundaries : treeOk [(1, 5, 1), (1, 5, 1)] = false ∧ ¬ (1 ≤ 0) ∧ (8 : Nat) ≤ 8 ∧ (4 : Nat) % 8 ≤ 4 ∧ ¬ (5 % 8 ≤ 4) ∧ 0x1002 % 4 ≠ 0 ∧
    planFor (fun _ => true) 0 oneJob = some [(0, [0])] ∧ clustersFull [(0, [0])] = false ∧ clustersFull ((span 0 8).map fun c => (c, [c])) = true := by decide +kernel
theorem wit_placement : (waitingFor (waits oneJob)).planOf (waits oneJob) = some [(0, [0])] ∧ ([(0, [0])].map fun (j : Nat × List Nat) => j.1).Nodup ∧ (∀ e ∈ [(0, [0])], dieOf e.1 = 0) ∧
    (State.planOf { waitingFor (waits oneJob) with pkgs := [] } (waits oneJob)) = none ∧ (waits oneJob).torn = false := by decide +kernel
theorem wit_placement_priority : State.placeable { waitingFor (waits oneJob) with weaves := [(1, waits oneJob), (2, { waits oneJob with id := 2, prio := 3 })] } { waits oneJob with id := 2, prio := 3 } = true ∧
    (0 : Nat) < 3 ∧ (63 : Nat) < 64 := by decide +kernel
theorem wit_placement_asks : (waitingFor (waits twoDies)).planOf (waits twoDies) = some [(0, [0, 0, 0]), (64, [0, 1, 0])] ∧ dieOf 64 = 1 := by decide +kernel
/-- The weave on two dies has asked die 1. -/
def asks (granted : List Nat) (declined : Bool) : Weave := { waits twoDies with plan := [(0, [0, 0, 0]), (64, [0, 1, 0])], asked := [1], granted, declined }
theorem wit_agreement : 1 ∈ (asks [0] false).asked ∧ 1 ∉ (asks [0] false).granted ∧ (waitingFor (asks [0] false)).coreFree 1 64 = true ∧ (waitingFor (asks [0] false)).barsFree (asks [0] false) [64] = true ∧
    ((waitingFor (asks [0] false)).modCore 64 fun k => { k with job := some (3, 0) }).coreFree 1 64 = false ∧ (∀ n ∈ (asks [0, 1] false).asked, n ∈ (asks [0, 1] false).granted) ∧
    (asks [0, 1] false).lrec.debug = false ∧ (asks [0] true).declined = true := by decide +kernel
theorem test_record_version : refusedWith (recordWords 2 1 0 0x1000 0 (2 ^ 19 * 1 + 2 ^ 16 * 5 + 1)) 0 = some 1 := by decide +kernel
theorem test_record_tree : refusedWith (recordWords 1 1 0 0x1000 0 (2 ^ 19 * 1 + 2 ^ 16 * 5)) 0 = some 2 := by decide +kernel
theorem test_record_start : refusedWith (recordWords 1 1 0 0x1002 0 (2 ^ 19 * 1 + 2 ^ 16 * 5 + 1)) 0 = some 3 := by decide +kernel
theorem test_record_image : refusedWith goodWords (2 ^ 9 + 1) = some 4 := by decide +kernel
theorem test_record_fuse : refusedWith (recordWords 1 1 8 0x1000 0 (2 ^ 19 * 1 + 2 ^ 16 * 5 + 1)) 0 = some 5 := by decide +kernel
theorem test_record_barriers : refusedWith (recordWords 1 1 0 0x1000 (2 ^ 48) (2 ^ 19 * 1 + 2 ^ 16 * 5 + 1)) 0 = some 6 := by decide +kernel
theorem test_placed_argument : (after (.weavePlacement 1) (waitingFor (waits oneJob))).reg 0 0 1 = 7#64 := by decide +kernel
theorem test_placed_start : ((after (.weavePlacement 1) (waitingFor (waits oneJob))).task 0 0).pc = 0x1000#64 := by decide +kernel
theorem test_placement_asks_the_other_die : (tfind (after (.weavePlacement 1) (waitingFor (waits twoDies))).weaves 1).map (fun w => (w.asked, w.granted)) = some ([1], [0]) := by decide +kernel
theorem test_die_reserves : (tfind (after (.reservationRequest 1 1) (waitingFor (asks [0] false))).weaves 1).map (fun w => w.granted) = some [0, 1] := by decide +kernel
theorem test_agreed_jobs_start : [0, 64].map (fun c => ((after (.reservationReply 1) (waitingFor (asks [0, 1] false))).core c).job) = [some (1, 0), some (1, 1)] := by decide +kernel
theorem test_declined_frees : (tfind (after (.reservationReply 1) (waitingFor (asks [0] true))).weaves 1).map (fun w => (w.asked, w.plan)) = some ([], []) := by decide +kernel

/-! The end of weaves, pre-emption. -/

/-- The loader's weave changed, with its packet 0 in the dispatcher; a pool of n images. -/
def living (f : Weave → Weave) (n : Nat) : State :=
  { up.withJob with weaves := [(1, f loaderWeave)], disps := [(0, { savecnt := BitVec.ofNat 64 n, pkts := [{ dispPacket (packetWords 1 0 0 0 0 0) .started with id := 0 }] })] }
/-- Weave 2 of a priority was saved from core 0, which the loader's weave holds. -/
def rival (prio : Nat) : Weave := { loaderWeave with id := 2, st := .saved, prio }
def contested (f : Weave → Weave) (prio n : Nat) : State := { living f n with weaves := [(1, f loaderWeave), (2, rival prio)] }
def savedWeave : Weave := { loaderWeave with st := .saved, images := [(0, { slot := 0, die := 0, core := 0, state := { job := some (1, 0), tasks := [(0, { pc := 0x44#64 })] } })] }
def saved : State := { waitingFor savedWeave with disps := [(0, { savecnt := 1#64, images := [0] })] }
def teardown (status : Nat) (f : Weave → Weave) : State := living (fun w => f { w with torn := true, status, tdaddr := 0x7000 }) 0

theorem wit_weave_ends : (tfind (living (fun w => { w with done := [0] }) 0).weaves 1).map (fun w => (w.live, w.torn)) = some ([], false) ∧
    (living (fun w => { w with done := [0] }) 0).weaveOwes { loaderWeave with done := [0] } = false ∧ (living (fun w => { w with done := [0] }) 0).weaveHalted 1 = false ∧
    ((living id 0).pkt 0 0).isSome = true ∧ (living id 0).weaves.Pairwise (fun e f => e.1 < f.1) ∧ loaderWeave.live ≠ [] := by decide +kernel
theorem wit_weave_torn : ((({ loaderWeave with torn := true } : Weave).live.map fun j : Nat × Nat => j.2).Nodup) ∧ (teardown 7 id).jobHere 1 0 = true ∧ ((teardown 7 id).core 0).accs = [] ∧
    ((access (teardown 7 id) { id := 9, party := 0, kind := .load, space := .core, va := 0, pa := 0, n := 1 }).core 0).accs ≠ [] ∧ 12 < 2 ^ 16 := by decide +kernel
theorem wit_weave_torn_memory : memoryOk (teardown 7 id) := by unfold memoryOk banksOk homesOk; decide +kernel
theorem wit_preempt : (contested id 1 1).placeable (rival 1) = false ∧ (contested id 1 1).chooseVictims (rival 1) = some [loaderWeave] ∧
    (contested id 1 1).roomFor [loaderWeave] = true ∧ (contested id 1 0).roomFor [loaderWeave] = false ∧ ((contested id 1 0).disp 0).savecnt.toNat % 2 ^ 10 = 0 := by decide +kernel
theorem wit_quantum : (contested (fun w => { w with quantum := 2000000 }) 0 1).fitsWithout (rival 0) [{ loaderWeave with quantum := 2000000 }] = true ∧
    (contested (fun w => { w with quantum := 2000000 }) 0 1).roomFor [{ loaderWeave with quantum := 2000000 }] = true ∧ (2000000 : Nat) ≤ 2000000 ∧ (1999999 : Nat) < 2000000 ∧
    tfind (living id 0).weaves 7 = none := by decide +kernel
theorem wit_save : (living (fun w => { w with st := .stopping }) 1).jobStopped 0 = true ∧ ((living id 1).core 0).frozen = none ∧ ((living id 1).core 0).accs = [] ∧ (living id 1).nextImage 0 = some 0 ∧
    (living id 0).nextImage 0 = none ∧ (data (living id 1) fun d => { d with timed := false, vec := { named := true } }).jobStopped 0 = true ∧
    (data (living id 1) fun d => { d with timed := true, vec := { named := true } }).jobStopped 0 = false := by decide +kernel
theorem wit_resume : (∀ j ∈ savedWeave.live, saved.coreFree 1 j.2 = true) ∧ (savedWeave.images.map fun i => i.2.core).Nodup ∧ saved.weaveHalted 1 = false ∧
    (∀ e ∈ saved.weaves, e.1 ≠ 1 → saved.placeable e.2 = false) := by decide +kernel
theorem test_weave_done : ((after (.weaveComplete 1) (living (fun w => { w with done := [0] }) 0)).pkt 0 0).map (fun p => (p.st, p.status)) = some (.completed, 0) := by decide +kernel
theorem test_weave_not_done : (after (.weaveComplete 1) (living id 0)).weaves.length = 1 := by decide +kernel
theorem test_torn_core_is_free : ((after (.weaveTeardown 1) (teardown 8 id)).core 0).job = none := by decide +kernel
theorem test_teardown_report : (after (.weaveTeardown 1) (teardown 8 id)).homeNum 0x7000 8 = 8 := by decide +kernel
theorem test_preempted : (tfind (after (.preemptDecision 1 2) (contested id 1 1)).weaves 1).map (fun w => w.st) = some .stopping := by decide +kernel
theorem test_preempt_without_images : (tfind (after (.preemptDecision 1 2) (contested id 1 0)).weaves 1).map (fun w => w.st) = some .resident := by decide +kernel
theorem test_quantum_passes : (tfind (after (.quantumExpiry 1 2) (contested (fun w => { w with quantum := 2000000 }) 0 1)).weaves 1).map (fun w => w.st) = some .stopping := by decide +kernel
theorem test_quantum_renewed : (tfind (after (.quantumExpiry 1 7) (living (fun w => { w with quantum := 2000000 }) 1)).weaves 1).map (fun w => w.quantum) = some 0 := by decide +kernel
theorem test_job_saved : (tfind (after (.jobSaveComplete 0) (living (fun w => { w with st := .stopping }) 1)).weaves 1).map (fun w => (w.st, w.images.map fun i => i.2.slot)) = some (.saved, [0]) := by decide +kernel
theorem test_overdue : (tfind (after (.preemptOverdue 1) (data (living (fun w => { w with st := .stopping, stopTime := 200000 }) 1) fun d => { d with timed := true, vec := { named := true } })).weaves 1).map
    (fun w => (w.torn, w.status)) = some (true, 10) := by decide +kernel
theorem test_resumes_from_image : ((after (.weaveResume 1) saved).task 0 0).pc = 0x44#64 := by decide +kernel

/-! Words that the spec prints, and the instructions it prints them for. -/

theorem decode_control_words :
    decodeBytes (bytesOfNum 4 0x01000C10) = some (.addi {} 3 0 4) ∧ decodeBytes (bytesOfNum 8 0x0000400000000851) = some (.li {} 2 0x4000) ∧
    decodeBytes (bytesOfNum 8 0x00000000200214DD) = some (.ld { l := true } false 2 5 2 false 0 0) ∧ decodeBytes (bytesOfNum 4 0xFE830098) = some (.bne {} 3 0 0x3FA) ∧
    decodeBytes (bytesOfNum 4 0x000008C8) = some (.call {} 2) ∧ decodeBytes (bytesOfNum 4 0x000010C4) = some (.j { l := true } 4) ∧
    decodeBytes (bytesOfNum 8 0x000000040144186D) = some (.ffma { l := true } 0 6 4 5 4) ∧ decodeBytes (bytesOfNum 4 0x200000D0) = some (.ret {}) ∧
    decodeBytes (bytesOfNum 4 0x9184240C) = some (.sltu { l := true } 9 4 6) ∧ decodeBytes (bytesOfNum 4 0x00C90090) = some (.beq {} 9 0 3) ∧
    decodeBytes (bytesOfNum 4 0x0108200C) = some (.add { l := true } 8 8 4) := by decide
theorem decode_prefixed_words :
    decodeBytes (bytesOfNum 8 0x014410600000001A) = some (.fadd { pfx := some ⟨false, true, 1, false, false, false, false, false, 0, 0⟩ } 0 4 4 5) ∧
    decodeBytes (bytesOfNum 8 0x01C6140800000182) = some (.add { pfx := some ⟨false, false, 0, true, true, false, false, false, 0, 0⟩ } 5 6 7) ∧
    decodeBytes (bytesOfNum 12 0x00000000210200E100013802) = some (.st { pfx := some ⟨false, false, 0, false, false, false, false, true, 3, 2⟩ } 2 2 4 false 0 0) ∧
    decodeBytes (bytesOfNum 8 0x0081040C00000182) = none := by decide
theorem decode_unit_words :
    decodeBytes (bytesOfNum 8 0x000929B1) = some (.trkArm {} 10 9) ∧ decodeBytes (bytesOfNum 8 0x02890241) = some (.ncmd {} 9 10 0) ∧ decodeBytes (bytesOfNum 4 0x00000248) = some (.nfence {}) ∧
    decodeBytes (bytesOfNum 4 0x00061650) = some (.nstat {} 5 6) ∧ decodeBytes (bytesOfNum 8 0x300902A1) = some (.twRwalk {} 3 9 0 false 0) ∧
    decodeBytes (bytesOfNum 8 0x00000001030B0291) = some (.twKvb {} 0 11 12 false 1) ∧ decodeBytes (bytesOfNum 4 0x00003AA8) = some (.twWait {} 14 0) ∧
    decodeBytes (bytesOfNum 8 0x0000000310C212D1) = some (.gatom {} 1 3 4 2 3) ∧ decodeBytes (bytesOfNum 4 0x000602F8) = some (.gnfy {} 6) ∧
    decodeBytes (bytesOfNum 4 0x124016F0) = some (.mgRd {} 5 9) ∧ decodeBytes (bytesOfNum 8 0x20C212E1) = some (.rstAdd {} 2 4 2 3) ∧ decodeBytes (bytesOfNum 8 0x01481ED9) = some (.qcast {} 7 8 5) ∧
    decodeBytes (bytesOfNum 4 0x00092B00) = some (.neQpOpen {} 10 9) ∧ decodeBytes (bytesOfNum 4 0x020C3708) = some (.nePost {} 13 12 8) ∧ decodeBytes (bytesOfNum 4 0x120C3708) = some (.nePostRx {} 13 12 8) ∧
    decodeBytes (bytesOfNum 4 0x00092B40) = some (.smCtxOpen {} 10 9) ∧ decodeBytes (bytesOfNum 4 0x014C2F50) = some (.smStart {} 11 12 5) ∧
    decodeBytes (bytesOfNum 4 0x00061780) = some (.dbgHalt {} 5 6) ∧ decodeBytes (bytesOfNum 4 0x11C61798) = some (.dbgBp {} 5 6 7) := by decide
theorem decode_data_words :
    decodeData 1 0x000000C058290403 = some (.vadd { k := true, idle := 3 } { vd := 10, va := 11, vb := 12 }) ∧
    decodeData 1 0x0002220008068000 = some (.vld {} { men := true, km := 1, pi := true, xa := 1, reg := 1 }) ∧
    decodeData 1 0x08022000080A4000 = some (.vredr {} 1 { men := true, km := 1, va := 1, vd := 2 }) ∧
    decodeData 2 0x4201001000010400 = some (.mma { k := true } { fus := 1, fmt := 0, zc := true, ac := true, ra := 0, rb := 1 }) ∧
    decodeData 2 0x000000200001100C = some (.mclaim { idle := 12 } 0 2) ∧ decodeData 2 0x0000002000012000 = some (.mrelease {} 0 2) ∧
    decodeData 2 0x000000401001403F = some (.mdrain { idle := 63 } 0 0 false false { ring := 2, cnt := 4, reg := 0 }) ∧
    decodeData 3 0x2D40602008010000 = some (.cpLin {} { cen := true, scope := 3, dsp := 1, ssp := 1, xb := 3, xn := 2, xs := 1, xd := 0 }) := by decide
theorem decode_nmu_words :
    decodeNmu 0x500027FF = some (.nloop false 4 0x7FF) ∧ decodeNmu 0x04000400 = some (.nld true 0 0 0) ∧ decodeNmu 0x04210400 = some (.nld true 0 1 1) ∧
    decodeNmu 0x08420400 = some (.nst true 0 2 2) ∧ decodeNmu 0x5C000000 = some .nend := by decide
theorem decode_sampler_words :
    decodeSampler 0x0C400008 = some (.smLi false 8 2) ∧ decodeSampler 0x04A30001 = some (.smLd false 1 5 3) ∧ decodeSampler 0x30C42808 = some (.smTopk 8 6 4 5) ∧
    decodeSampler 0x144207FE = some (.smAdd false 0x3FF 2 2 0) ∧ decodeSampler 0x54020002 = some (.smBz 2 2) ∧ decodeSampler 0x501FFFFA = some (.smBr 0x1FFFFA) ∧
    decodeSampler 0x04E80400 = some (.smLd true 0 7 8) ∧ decodeSampler 0x08033800 = some (.smSt false 0 3 7) ∧ decodeSampler 0x58060000 = some (.smEnd 6) := by decide

/-! Ill-formed terms: one for each check. -/

/-- A header with a prefix, as it stands. -/
def prefixed (p : Pfx) : CHdr := { pfx := some p }
def noPfx : Pfx := ⟨false, false, 0, false, false, false, false, false, 0, 0⟩

theorem ill_formed_prefixes : ∀ i ∈ [Instr.add { prefixed noPfx with l := true } 1 2 3, .add (prefixed { noPfx with rm := 8 }) 1 2 3, .add (prefixed { noPfx with scope := 8 }) 1 2 3,
    .add (prefixed { noPfx with ord := 4 }) 1 2 3, .add (prefixed { noPfx with rmv := true }) 1 2 3, .and (prefixed { noPfx with satv := true }) 1 2 3, .add (prefixed { noPfx with ftzv := true }) 1 2 3,
    .add (prefixed { noPfx with scv := true }) 1 2 3, .fadd (prefixed { noPfx with rmv := true, rm := 7 }) 0 1 2 3, .fadd (prefixed { noPfx with satv := true }) 0 1 2 3,
    .feq (prefixed { noPfx with rmv := true }) 0 1 2 3, .ld (prefixed { noPfx with scv := true, scope := 7 }) false 2 1 2 false 0 0, .ld (prefixed { noPfx with ord := 2 }) false 2 1 2 false 0 0,
    .st (prefixed { noPfx with ord := 1 }) 2 1 2 false 0 0, .st (prefixed { noPfx with ord := 3 }) 2 1 2 false 0 0, .fcvt (prefixed { noPfx with satv := true }) 5 1 2], wellFormed i = false := by decide
theorem ill_formed_control : ∀ i ∈ [Instr.add {} 64 2 3, .add {} 1 64 3, .add {} 1 2 64, .addi {} 1 2 1024, .shli {} 1 2 64, .li {} 1 (2 ^ 32), .fadd {} 3 1 2 3, .ffma {} 0 1 2 3 64, .fcvt {} 12 1 2,
    .beq {} 1 2 1024, .j {} (2 ^ 22), .ld {} false 5 1 2 false 0 0, .ld {} false 2 1 2 false 8 0, .ld {} false 2 1 2 false 1 0, .ld {} false 2 1 2 false 0 (2 ^ 28), .ld {} true 3 1 2 false 0 0,
    .ld {} false 4 1 2 false 0 0, .st {} 4 2 1 false 0 0, .atom {} 9 2 1 2 3, .atom {} 0 1 1 2 3, .cas {} 4 1 2 3, .probe {} 4 1 2 3, .phase {} 5, .cqCount {} 0 1 0, .cqCount {} 4 1 0, .cqCount {} 1 1 16,
    .cqRegion {} 2, .cqSquash {} 1 16, .tspawn {} 1 2 (2 ^ 32)], wellFormed i = false := by decide
theorem ill_formed_commands : ∀ i ∈ [Instr.ncmd {} 1 2 8, .twList {} 3 1 2 true 0, .twList {} 0 1 2 true 32, .twHash {} 2 1 2 true 0, .twKvb {} 1 1 2 true 0, .twTree {} 16 1 2 true 0, .twRwalk {} 4 1 2 true 0,
    .twWait {} 1 2, .twWaitTry {} 3 2, .gld {} false 4 1 2 0, .gst {} 4 1 1 0, .gatom {} 10 2 1 2 3, .gatom {} 0 4 1 2 3, .rstAdd {} 3 1 2 3, .rstMax {} 5 1 2 3, .mgCfgOpen {} 1 0, .dbgRdc {} 1 2 3,
    .launch {} 1 2 64], wellFormed i = false := by decide
theorem ill_formed_data : ∀ i ∈ [Instr.dataNop { idle := 1024 }, .dataRegion {} 2, .vloopQ {} 0, .vloopQ {} 512, .vwhileQ {} 512, .vvalQ {} 32, .vmaskQ {} 16, .vxset {} 1 3 0, .vxset {} 1 0 (2 ^ 25),
    .vxset {} 1 1 8, .vxadd {} 1 2 (2 ^ 28), .vadd {} { view := 9 }, .vadd {} { rm := 6 }, .vadd {} { km := 1 }, .vadd {} { men := true, km := 16 }, .vadd {} { vb := 512 }, .vadd {} { view := 1, rm := 1 },
    .vmin {} { rm := 1 }, .vmin {} { sat := true }, .vand {} { view := 0 }, .vnot {} { view := 1, vb := 1 }, .vshl {} { view := 0 }, .vsra {} { view := 8 }, .vcmp {} 6 {}, .vmovi {} (2 ^ 32) false 0 1,
    .vcvt {} 0 {}, .vcvt {} 9 {}, .vcvt {} 2 { vb := 2 }, .vexp2 {} { view := 1 }, .vexp2 {} { vb := 1 }, .vrotr {} { view := 1, vb := 64 }, .vrotc {} { view := 1, vb := 16 }, .vredr {} 3 {}, .vredr {} 0 { rm := 5 },
    .vredr {} 1 { rm := 1 }, .vld {} { fn := 3 }, .vst {} { fn := 2 }, .vld {} { lat := 1 }, .vld {} { lc := 1, swz := 1 }, .vld {} { fn := 1, xa := 31 }, .vldr {} { ring := 32 }, .vldr {} { cnt := 512 },
    .vchain {} 512 {}, .vchain {} 0 { reg := 32 }, .acvt {} { va := 64 }, .acvt {} { vb := 1 }, .vkopAnd {} 16 0 0, .vkmovToMask {} { view := 1, vd := 16 }, .vkmovToVector {} { view := 1, va := 16 }], wellFormed i = false := by
  decide
theorem ill_formed_matrix_and_copy : ∀ i ∈ [Instr.mma {} { ra := 1, rb := 1 }, .mma {} { rb := 1, fmt := 12 }, .mma {} { rb := 1, ad := 1 }, .mma {} { rb := 1, aof := 1 }, .mma {} { rb := 1, bof := 1 },
    .mma {} { rb := 1, scb := 1 }, .mma {} { rb := 1, fmt := 9, aq := 1 }, .mma {} { rb := 1, fmt := 10, aq := 1 }, .mclaim {} 32 0, .mclaim {} 0 512, .mzero {} false 0 0, .mzero {} false 1 64, .mfill {} 4 {},
    .mfill {} 0 { men := true }, .mfill {} 3 { reg := 16 }, .mfill {} 0 { reg := 64 }, .mdrain {} 5 0 false false {}, .mdrain {} 0 5 false false {}, .cpLin {} {}, .cpLin {} { scope := 7 }, .cpLin {} { scope := 1, xb := 1 },
    .cpLin {} { scope := 1, dsp := 2 }, .cp2d {} { scope := 1, xn := 31 }, .cpSet {} { scope := 1, ssp := 1 }, .cpRcopy {} { scope := 1 }, .cpFill {} 0 1 0 0 {}, .cpFill {} 2 2 0 0 {}, .cpFill {} 0 0 8 0 {},
    .cpFill {} 0 0 0 3 {}, .cpFill {} 0 0 0 0 { reg := 31 }, .cpTr {} 3 {}], wellFormed i = false := by decide
theorem ill_formed_engine_words : ∀ i ∈ [Instr.nld true 1024 0 0, .nld true 0 24 0, .nld true 0 0 8, .nadd { fmt := 4 } 0 0 0, .nadd { rm := 5 } 0 0 0, .nadd { fmt := 3, rm := 1 } 0 0 0, .nadd { fmt := 3, ftz := true } 0 0 0,
    .nmax true 3 0 0 0, .ncmp 6 false 0 0 0 0, .nexp2 false 3 0 0, .ncvt 0 0 {} 0 0, .ncvt 2 1 {} 0 0, .ncvt 1 3 {} 0 0, .nbcst 0 32 0 0, .nredmax true false 0 0 0, .nlogic 5 0 0 0, .nlogic 4 0 0 1, .nset 3 0 0, .nset 0 512 0,
    .nloop true 0 1, .nloop true 32 1, .nloop true 1 2048, .nemit 0 0 0 0, .nemit 9 0 0 0, .nemit 2 0 0 23, .naddr 2048 0 0, .naddr 0 8 0, .smLd false 1024 0 0, .smLd false 0 31 0, .smLi false (2 ^ 20) 0, .smMov 0 32,
    .smAdd true 1 0 0 0, .smCmp false 6 false 0 0 0, .smCmp true 0 true 0 0 0, .smSum 3 0, .smTopk 0 0 0 0, .smTopk 1025 0 0 0, .smTree 0 0, .smTree 26 0, .smBr (2 ^ 21), .smBz 0 2048, .smEnd 32], wellFormed i = false := by decide

/-! Encoding, and the step. -/

theorem wit_encoding_control : wellFormed (.add { l := true } 8 8 4) = true ∧ decodeBytes (encodeBytes (.add { l := true } 8 8 4)) = some (.add { l := true } 8 8 4) ∧ encode (.add { l := true } 8 8 4) ≠ [] := by decide
theorem wit_encoding_data : wellFormed (.vld {} { fn := 2, off := 1023, men := true, km := 15, lat := 7, lc := 3, xa := 31, reg := 511 }) = true ∧
    decodeData 1 (numOfBytes 8 (encodeBytes (.vld {} { fn := 2, off := 1023, men := true, km := 15, lat := 7, lc := 3, xa := 31, reg := 511 }))) =
      some (.vld {} { fn := 2, off := 1023, men := true, km := 15, lat := 7, lc := 3, xa := 31, reg := 511 }) := by decide
theorem wit_decoding_fate : controlFate 0x1000 0x00000182 0x01C61408 0 = .ins (.add { pfx := some ⟨false, false, 0, true, true, false, false, false, 0, 0⟩ } 5 6 7) 2 ∧
    encode (.add { pfx := some ⟨false, false, 0, true, true, false, false, false, 0, 0⟩ } 5 6 7) = [0x00000182, 0x01C61408] := by decide
theorem test_reserved_bit_is_refused : decodeBytes (bytesOfNum 4 (0x00061780 + 2 ^ 22)) = none ∧ decodeNmu (0x5C000000 + 1) = none ∧ decodeData 2 (0x0000002000012000 + 2 ^ 63) = none := by decide

theorem fetch_ok (f : Fetch) (w : Nat) (h : (match f with | .word x => x == w | _ => false) = true) : f = .word w := by cases f <;> simp_all
theorem data_ok (f : DFetch) (w : Nat) (h : (match f with | .word x b => x == w && b | _ => false) = true) : f = .word w true := by cases f <;> simp_all

/-- `launch g5, g6, 12` stands where the next step fetches. -/
def launchNext : State := State.reset.withFetchWord 64 0x0000000C000617A1
def vmoviNext : State := State.reset.withFetchWord 64 0x3F800000900DF000
def naddNext : State := State.reset.withFetchWord 32 0x10400801
/-- `sm.st [s3, 0], s7`, as the run of a sampler context. -/
def storeNext : State := { job.placeSampler 0x08033800 with turns := [.issueRun 0 0] }

theorem wit_step_control : launchNext.turns = [.issueCtl 0] ∧ launchNext.ctlRuns 0 = true ∧ (launchNext.core 0).issued = false ∧ (∀ u, u < 8 → u ≠ 0 → (launchNext.task 0 u).st ≠ .ready) ∧
    (launchNext.task 0 0).st = .ready ∧ (launchNext.task 0 0).notBefore ≤ (launchNext.core 0).cycle ∧ (launchNext.core 0).faultDue = false ∧ (launchNext.core 0).bps = [] := by decide +kernel
theorem wit_step_control_fetch : (launchNext.task 0 0).pc.toNat = 0x1000 ∧ launchNext.fetch 0 0x1000 = .word 0x000617A1 ∧ launchNext.fetch 0 0x1004 = .word 0xC ∧ launchNext.fetch 0 0x1008 = .word 0 ∧
    controlFate 0x1000 0x000617A1 0xC 0 = .ins (.launch {} 5 6 12) 2 ∧ launchNext.ctlReady 0 0 (.launch {} 5 6 12) = true :=
  ⟨by decide +kernel, fetch_ok _ _ (by decide +kernel), fetch_ok _ _ (by decide +kernel), fetch_ok _ _ (by decide +kernel), by decide, by decide +kernel⟩
theorem wit_step_data : vmoviNext.turns = [.issueData 0 1] ∧ vmoviNext.savesNow 0 = false ∧ vmoviNext.dataIssues 0 1 = true ∧ (vmoviNext.strand 0 1).blocks = [] ∧ (vmoviNext.core 0).bps = [] ∧
    vmoviNext.dataWord 0 1 = .word 0x3F800000900DF000 true ∧ decodeData 1 0x3F800000900DF000 = some (.vmovi {} 0x3F800000 true 2 3) :=
  ⟨by decide +kernel, by decide +kernel, by decide +kernel, by decide +kernel, by decide +kernel, data_ok _ _ (by decide +kernel), by decide⟩
theorem wit_step_nmu : naddNext.turns = [.issueNmu 0] ∧ ((naddNext.nmu 0).run.map fun r => (naddNext.nmuMayIssue 0 r, r.cmd.words[r.st.pc]?)) = some (true, some 0x10400801) ∧
    decodeNmu 0x10400801 = some (.nadd { fmt := 1 } 2 0 1) := by decide +kernel
theorem wit_step_sampler : ((storeNext.smCtx 0 0).map fun x => (storeNext.runGoes x, x.cancelDue, decide (x.issued < x.stepmax), x.prog[x.pc]?)) = some (true, false, true, some 0x08033800) ∧
    decodeSampler 0x08033800 = some (.smSt false 0 3 7) := by decide +kernel
theorem wit_step_event : (({ State.reset with turns := [.event .joinEnd] } : State).turns) = [.event .joinEnd] := rfl
theorem wit_step_memory : memoryOk launchNext ∧ (match step launchNext with | .next _ => true | _ => false) = true := by unfold memoryOk banksOk homesOk; decide +kernel
theorem test_step_issues_launch : (match step launchNext with | .next u => (u.task 0 0).wait.map fun w => w.instr | _ => none) = some (.launch {} 5 6 12) := by decide +kernel
theorem test_decode_table_word : decodeTableWord 32 0x01030BA8 = some (.qmap {} 2 3 4) ∧ decodeTableWord 64 0x3F800000900DF000 = some (.vmovi {} 0x3F800000 true 2 3) := by decide

/-! The panel in service. -/

/-- Package 0 in a state of bring-up, and the flow. -/
def booted (p : Pkg) : State := { State.reset with pkgs := [(0, p)] }
def ready : Pkg := { boot := .ready }
/-- A flash image whose LEN is given; whether its signature holds, and what version is too old, no rule says: both stay open. -/
def flashOf (len : Nat) : Bytes := setBytes [] 72 (bytesOfNum 8 len)
def imageLen (m : Bytes) : Nat := numBytes (bytesAt m 72 8)

theorem wit_boot : (booted {}).lost.testBit 0 = false ∧ ((booted {}).pkg 0).boot = .off ∧ (booted {}).flow ≠ 0 ∧ imageLen (flashOf 63) < 64 ∧ ¬ (imageLen (flashOf 64) < 64) ∧ ¬ (2 ^ 25 - 64 < imageLen (flashOf (2 ^ 25 - 64))) ∧
    2 ^ 25 - 64 < imageLen (flashOf (2 ^ 25 - 63)) := by decide
theorem wit_boot_signature (m : Bytes) : (ed25519Verify (Config.vireriKey 0) (bytesAt m 64 64) (bytesAt m 0 64) = true ∨
    ¬ ed25519Verify (Config.vireriKey 0) (bytesAt m 64 64) (bytesAt m 0 64) = true) ∧
    (numBytes (bytesAt m 64 8) < Config.minVersion 0 ∨ ¬ numBytes (bytesAt m 64 8) < Config.minVersion 0) := ⟨Decidable.em _, Decidable.em _⟩
theorem wit_join : ((booted { boot := .join }).pkg 0).boot = .join ∧ (booted { boot := .join }).lost.testBit 0 = false ∧ 2000000000 ≤ ({ booted { boot := .join } with time := 2000000000 } : State).time ∧
    (∀ m, m < 64 → (State.pkg { booted { boot := .join } with lost := 2 ^ 64 - 2 } m).boot = .join ∨ ({ booted { boot := .join } with lost := 2 ^ 64 - 2 } : State).lost.testBit m = true) := by decide
theorem wit_service : (booted ready).mgmtUp 0 = true ∧ (booted ready).pkgBusy 0 = false ∧ ({ booted ready with weaves := [(1, loaderWeave)] } : State).pkgBusy 0 = true ∧ (booted ready).hostUp 0 = true ∧
    ((booted { ready with attcmd := 1 }).pkg 0).attcmd = 1 ∧ imageLen ((booted ready).pkg 0).fwbuf < 64 := by decide
theorem wit_trip : ({ booted ready with flow := 0 } : State).flow = 0 ∧ 115 ≤ (State.serv { booted ready with dieServ := [(1, { temp := 115 })] } 1).temp := by decide
theorem test_power_on_without_flow : ((after (.powerOn 0 false true true) (booted { boot := .rom })).pkg 0).boot = .rom := by decide
theorem test_power_on_bad_length : ((after (.powerOn 0 true true true) (booted { boot := .fwcheck, flash := flashOf 63 })).pkg 0).code = 3 := by decide +kernel
theorem test_training_fails : ((after (.powerOn 0 true false true) (booted { boot := .train })).pkg 0).boot = .failed := by decide +kernel
theorem test_join_ends : ((after .joinEnd { booted { boot := .join } with time := 2000000000 }).pkg 0).boot = .ready := by decide +kernel
theorem test_join_loses_the_rest : (after .joinEnd { booted { boot := .join } with time := 2000000000 }).lost = 2 ^ 64 - 2 := by decide +kernel
theorem test_commit_busy : ((after (.fwctlCommit 0) { booted ready with weaves := [(1, loaderWeave)] }).pkg 0).fwstat = 1 := by decide +kernel
theorem test_commit_rejected : ((after (.fwctlCommit 0) (booted { ready with fwbuf := flashOf 63 })).pkg 0).fwstat = 2 := by decide +kernel
theorem test_attest_starts : ((after (.attcmdStart 0) (booted ready)).pkg 0).attcmd = 1 := by decide
theorem test_attest_ends : ((after (.attestReportReady 0) (booted { ready with attcmd := 1 })).pkg 0).attcmd = 2 := by decide
theorem test_trip_marks_lost : (after (.thermalTrip 0) { booted ready with flow := 0 }).lost = 1 := by decide +kernel
theorem test_power_off_keeps_flash : ((after (.powerOff (some 0)) (booted { ready with flash := [(3, 1#8)] })).pkg 0).flash = [(3, 1#8)] := by decide +kernel

/-! The management words. -/

theorem wit_host_access : (booted ready).hostUp 0 = true ∧ ((booted ready).pkg ((booted ready).pkg 0).apbase).boot ≠ .off ∧ (2 ^ 39 - 2) + [1#8, 2#8].length ≤ 2 ^ 39 := by decide
theorem wit_host_memory : memoryOk (booted ready) := by unfold memoryOk banksOk homesOk; decide
theorem wit_management : (50 : Nat) ≤ 50 ∧ (300 : Nat) ≤ 300 ∧ 0x178 < 0x180 ∧ 0x178 % 8 = 0 ∧ ((booted ready).net 1).qps = [] ∧ Memory.wf ((booted ready).pkg 0).netaddr = true ∧
    (({ booted ready with nets := [(1, { qps := [(0, qp)] })] } : State).net 1).qps ≠ [] ∧ (booted ready).dieBusy 0 = false ∧ ({ booted ready with weaves := [(1, loaderWeave)] } : State).dieBusy 0 = true ∧
    65528 < 65536 ∧ 65528 % 8 = 0 ∧ (15 : Nat) < 16 := by decide
theorem wit_kill : tfind ({ booted ready with weaves := [(1, loaderWeave)] } : State).weaves 1 = some loaderWeave ∧ loaderWeave.ctx = 0 % 2 ^ 16 ∧ loaderWeave.torn = false ∧ loaderWeave.st ≠ .ended := by decide
theorem wit_ageing : ((booted ready).serv 0).sampled + 3600000000000 ≤ ({ booted ready with time := 3600000000000 } : State).time ∧ ¬ (201 ≤ 200) ∧ 200 < 201 := by decide
theorem test_host_write : (after (.hostMemoryAccess 0 true (2 ^ 38 + 5) [7#8] false) (booted ready)).homeByte (2 ^ 41 + 5) = 7#8 := by decide +kernel
theorem test_pcap_clamped : ((after (.pcapWrite 0 1 1023#64) (booted ready)).serv 1).pcap = 640 := by decide
theorem test_swcap : ((after (.swcapWrite 0 50#64) (booted ready)).pkg 0).swcap = 50 := by decide
theorem test_clkforce_slows : ((after (.clkforceWrite 0 11#64) (booted ready)).serv 1).step = 3 := by decide
theorem test_apbase : ((after (.apbaseWrite 0 63#64) (booted ready)).pkg 0).apbase = 63 := by decide
theorem test_mgmtint_cleared : ((after (.mgmtintWrite 0 2#64) (booted { ready with mgmtint := 6 })).pkg 0).mgmtint = 4 := by decide
theorem test_lost_write : (after (.lostWrite 0 (BitVec.ofNat 64 (2 ^ 63 + 63))) (booted ready)).lost = 2 ^ 63 := by decide +kernel
theorem test_netaddr_held : ((after (.netaddrWrite 0 0x140 9#64) { booted ready with nets := [(1, { qps := [(0, qp)] })] }).pkg 0).mgmtstat = 0x100000000#64 := by decide
theorem test_kill_tears_down : (tfind (after (.killWrite 0 0#64) { booted ready with weaves := [(1, loaderWeave)] }).weaves 1).map (fun w => (w.torn, w.status)) = some (true, 12) := by decide
theorem test_kill_counts : ((after (.killWrite 0 5#64) (booted ready)).pkg 0).mgmtstat = 0x10000#64 := by decide
theorem test_walk_store : byteAt (tget [] (after (.walkStoreWrite 1 65528 0xAB#64) (booted ready)).walkStore 1) 65528 = 0xAB#8 := by decide +kernel
theorem test_edgectl : tget 0xFF (after (.edgectlWrite 15 0x10F#64) (booted ready)).edge 15 = 0x0F := by decide
theorem test_flow_throttles : ((after (.coolantFlowChange 119) (booted ready)).serv 1).step = 5 := by decide +kernel
theorem test_flow_warns : ((after (.coolantFlowChange 159) (booted ready)).pkg 0).mgmtint.testBit 1 = true := by decide +kernel
theorem test_flow_recovers : (after .flowRecoveryTimer { booted ready with flow := 130, flowThrottle := true, flowSince := some 0, time := 1000000000 }).flowThrottle = false := by decide
theorem test_flow_not_yet : (after .flowRecoveryTimer { booted ready with flow := 130, flowThrottle := true, flowSince := some 0, time := 999999999 }).flowThrottle = true := by decide
theorem test_junction_hot : ((after (.junctionTemperatureChange 0 105) (booted ready)).serv 0).step = 5 := by decide
theorem test_junction_stays_hot : ((after (.junctionTemperatureChange 0 101) { booted ready with dieServ := [(0, { hot := true })] }).serv 0).hot = true := by decide
theorem test_clock_step_floor : ((after (.clockStepChange 0 1) (booted { ready with clkforce := 12 })).serv 0).step = 4 := by decide
theorem test_age_margin : ((after (.ageSample 0 500 300) { booted ready with time := 3600000000000 }).serv 0).drift = 50 := by decide
theorem test_age_at_the_limit : ((after (.ageSample 0 500 200) { booted ready with time := 3600000000000 }).serv 0).eolh = 0 := by decide
theorem test_age_line : ((after (.ageSample 0 500 300) { booted ready with time := 3600000000000, dieServ := [(0, { margins := [310] })] }).serv 0).eolh = 10 := by decide
theorem test_device_register_read_only : after (.deviceRegisterWrite 0x4000100000 1#64) (booted ready) = booted ready := by decide +kernel

/-! Events not met above. -/

theorem test_phase_completes : ((after (.phaseComplete 0) phaseDone).core 0).share = 1 := by decide +kernel
theorem test_vkop_or_xor_clr : ((after (.vkopOr {} 3 7 8) vecIssue).core 0).data.vres.map (fun x => x.val) = [1] ∧ ((after (.vkopXor {} 3 7 7) vecIssue).core 0).data.vres.map (fun x => x.val) = [0] ∧
    ((after (.vkopClr {} 7) vecIssue).core 0).data.vres.map (fun x => x.val) = [0] := by decide +kernel
theorem test_vredc_adds_a_column : (resultCell (.vredc {} 0 { d12 with view := 1, men := false, km := 0, vb := 0 }) (2 ^ 2048 * 4 + 1) 0 0) = some 5 := by decide +kernel
theorem test_slots_empty : (after (.mreleaseSlotsEmpty 0) (data job fun d => { d with slotActs := [{ due := 0, seq := 0, slots := [256], dst := .empty, release := true }] }) |>.core 0).data.slotActs = [] := by decide +kernel
theorem test_queue_starts : ((after (.matrixQueueStart 0) (data (matIssue [] 1) fun d => { d with matFree := 0 })).core 0).data.matQ.map (fun m => m.start) = [some 0] := by decide +kernel
theorem test_refused_is_sent_again : ((after (.fabricRetryResend 0 9) { refusedRequest .store 16 1024 with time := 1024 }).core 0).accs.map (fun a => (a.stage == .sent, a.resendAt)) = [(true, 0)] := by
  decide +kernel
theorem test_walk_is_accepted : ((after (.walkAccept 5) (walking { walkAt (.list 0) 0 (.list 0 0) with accepted := false })).walks.map fun w => w.accepted) = [true] := by decide +kernel
theorem test_walk_limit : ((after (.walkStepLimit 5) (walking { walkAt (.list 0) 0 (.list 0 0) with reads := 1 })).walks.map fun w => match w.pos with | .fin st _ _ => st | _ => 0) = [3] := by decide +kernel

/-! Page-walk routines (R504). The words are those that a RISC-V assembler gives for the instructions named. -/

/-- lui a5, 0x12345; ld a1, 8(a1); bne a0, a1, −4; jal ra, 16; mul a0, a1, a2; sraiw a0, a0, 3; ecall. -/
theorem test_routine_words :
    [0x123457B7, 0x0085B583, 0xFEB51EE3, 0x010000EF, 0x02C58533, 0x4035551B, 0x00000073].map rvDecode32 =
      [some (.lui 15 0x12345000#64), some (.load 3 11 11 8#64), some (.branch 1 10 11 (-4#64)), some (.jal 1 16#64), some (.op .mul false 10 11 12),
       some (.opImm .sra true 10 10 3#64), none] := by decide

/-- addi sp, sp, −64; sd ra, 56(sp); ld a5, 0(a0); mv a0, a1; li a0, 0; beqz a0, 8; ret; the word of zeros. -/
theorem test_routine_short_words :
    [0x7139, 0xFC06, 0x611C, 0x852E, 0x4501, 0xC501, 0x8082, 0].map rvDecode16 =
      [some (.opImm .add false 2 2 (-64#64)), some (.store 3 2 1 56#64), some (.load 3 15 10 0#64), some (.op .add false 10 0 11),
       some (.opImm .add false 10 0 0#64), some (.branch 0 10 0 8#64), some (.jalr 0 1 0#64), none] := by decide

/-- A routine of two words, `li a0, 0` and `ret`, finds the record that a1 and a2 hold. -/
theorem test_routine_found :
    (rvRun (setBytes [] 120 [0x01#8, 0x45#8, 0x82#8, 0x80#8]) false 0x10000#64 4096 { pc := 120#64, x := [(1, 0x10000#64), (11, 5#64), (12, 2#64)] }
      State.reset).1 = some (2 * 2 ^ 64 + 5) := by decide

/-- A routine that meets a word of zeros, which is no instruction, is NOMAP. -/
theorem test_routine_traps :
    (rvRun (setBytes [] 120 [0x01#8, 0x45#8]) false 0x10000#64 4096 { pc := 120#64, x := [] } State.reset).1 = none := by decide

/-- The most negative number divided by −1, and a division by 0. -/
theorem test_routine_divide :
    (rvResult .div false (BitVec.intMin 64) (-1#64), rvResult .remu true 7#64 0#64, rvResult .mulhu false (-1#64) (-1#64)) =
      (BitVec.intMin 64, 7#64, -2#64) := by decide

/-! What the host reads (R501, R511): the example of R501, and words of the management block after the boot. -/

theorem test_bar2_window : ({ booted ready with windows := [(4096 + 5, 7#64)] }).bar2Read 0 0x9000028 = some 7#64 := by decide
theorem test_bar2_words : [0x008, 0x018, 0x048, 0x058, 0x068, 0x070].map ((booted ready).bar2Read 0) =
    [some 6#64, none, some 0#64, some 640#64, some 300#64, some 0xA0000000#64] := by decide
theorem test_bar2_age : (booted ready).bar2Read 0 0x080 = some 0xFFFFFFFF00000000#64 := by decide

/-! Premises and clauses on listed lines, on cycles and on what waits for what. -/

/-- Line n of die 0 is in the error-address table. -/
def listing (s : State) (line : Nat) : State := { s with memerr := [(0, { table := [(15, 128 * line)] })] }
/-- A strong access of debug mode, in a weave with debug enabled; an access of 16 bytes was made there last. -/
def strongLoad : Access := freshAccess { pfx := some ⟨false, false, 0, false, false, false, false, false, 0, 1⟩ } .load .virt 0x1000 0x1000 8 (.reg 3 false) []
def strongTask : State := { ctl [] with weaves := [(1, { loaderWeave with hslot := some 0 })], strong := [(0x100, 16)] }
/-- A core barrier 5 of core 0, as given. -/
def coreBar (b : Barrier) : State := { job with barriers := [(barKey (.core 0 5), b)] }
/-- A saved image of weave 1 holds core barrier 5 of core 0, as given. -/
def barImage (b : Barrier) : Image := { slot := 0, die := 0, core := 0, bars := [(barKey (.core 0 5), b)], state := {} }
def barInImage (s : State) (b : Barrier) : State := { s with weaves := [(1, { loaderWeave with images := [(0, barImage b)] })] }
/-- Core 0 is in an interlocked region. -/
def crossed : State := data job fun d => { d with timed := false }

theorem wit_strong : strongTask.debugOn 0 = true ∧ strongLoad.strong = true ∧ (∃ u ∈ strongLoad.units, ∃ m, tfind strongTask.strong u = some m ∧ m ≠ strongLoad.n) ∧ job.debugOn 0 = false :=
  ⟨by decide, by decide, ⟨0x100, by decide, 16, by decide, by decide⟩, by decide⟩
theorem wit_listed : (listing job 32).errorLine (0x1000 / 128) = true ∧ job.errorLine (0x1000 / 128) = false ∧ ¬ ((listing job 32).debugOn 0 = true) := by decide
theorem wit_returns_sound : ((loaded 2 [0#8, 0x80#8]).core 0).accs.all (fun a => a.fault == 0) = true := by decide
theorem wit_walk_waits_for_no_request : ∀ a ∈ (walked.core 0).accs, a.kind = .qmark ∨ ∃ b, a.kind = .fence b := by decide
theorem wit_flip : (let b := (coreBar { parties := 1, arrived := 1 }).barrier (.core 0 5)
    (b.parties ≠ 0 ∨ b.bytes ≠ 0) ∧ b.parties ≤ b.arrived ∧ b.bytes ≤ b.counted ∧ b.flippedAt = none) ∧
    (let b := (coreBar { parties := 1, arrived := 1, flippedAt := some 0 }).barrier (.core 0 5)
     b.flippedAt ≠ none ∧ b.flippedAt = (coreBar { parties := 1, arrived := 1, flippedAt := some 0 }).barClock (.core 0 5)) ∧
    ¬ (((coreBar { parties := 2, arrived := 1 }).barrier (.core 0 5)).parties ≤ 1) ∧ barKey (.core 0 6) ≠ barKey (.core 0 5) := by decide
theorem wit_fault_of_earlier_cycle : (1 : Nat) ≠ (faulted.core 0).cycle := by decide
theorem wit_freeze_watch : ((freezing 1).core 0).data.watch < 65536 ∧ 65536 ≤ ((freezing 65536).core 0).data.watch ∧ ((freezing 65536).core 0).data.frozen = true ∧
    (freezing 65536).freezeMet 0 = false ∧ (freezing 65536).dataHeld 0 = false := by decide
theorem wit_first_fault : ((freezing 65536).core 0).dmet = false ∧ (late.core 0).dmet = false ∧ ((popping 1 ⟨4, 0, 9⟩).core 0).dmet = false ∧
    ((moving {} (some (.panel 0, 0)) false).core 0).dmet = false ∧ ((matDue (.mma {} {}) [] 72 []).core 0).dmet = false := by decide
theorem wit_fill_goes_on : (landing.core 0).before = none ∧ landing.errorLine (0x1000 / 128) = false ∧ (crossed.core 0).data.timed = false := by decide
theorem wit_engines_go_on : ((headed (.vand {} d12) 12 10).core 0).data.frozen = false ∧ ((headed (.vand {} d12) 12 10).core 0).data.lateResult = false ∧
    (crossed.core 0).data.timed = false ∧
    ((matIssue [] 1).core 0).data.frozen = false ∧ ((matIssue [] 1).core 0).data.lateResult = false := by decide
theorem wit_stored_live : (stored (some (.panel 0, 0)) false).barSaved 1 (.panel 0) = false := by decide
theorem wit_stored_saved : tfind (barInImage (stored (some (.core 0 5, 0)) false) { bytes := 8 }).weaves 1 = some { loaderWeave with images := [(0, barImage { bytes := 8 })] } ∧
    (∃ i ∈ [(0, barImage { bytes := 8 })], i.2.core = 0) ∧
    (∀ i ∈ [(0, barImage { bytes := 8 })], i.2.core = 0 → (tget {} i.2.bars (barKey (.core 0 5))).unset = false) ∧
    (barInImage (stored (some (.core 0 5, 0)) false) { bytes := 8 }).weaveGone 1 = false := by decide
theorem wit_line_listed : (listing (nmuAt (held 15 1 1)) 0).errorLine (0 / 128) = true ∧ tfind (held 15 1 1).lines 0 = none ∧ tfind (held 15 1 1).lines 1 ≠ none ∧
    (nmuAt (held 15 1 1)).errorLine (0 / 128) = false := by decide
theorem wit_nend_halted : ({ nmuAt (nmuRun []) with weaves := [(1, { loaderWeave with hslot := some 0 })], hslots := [(0, { halting := true, weave := some 1 })] } : State).weaveHalted 1 = true ∧
    (nmuAt (nmuRun [])).weaveHalted 1 = false := by decide
theorem wit_earlier_commands : ∀ y ∈ [cmd], y.accepted ≠ ({ job with time := 1 } : State).time := by decide
theorem wit_save_slot : ∀ e ∈ [((2 : Nat), { nmuRun [] with slot := 0 })], e.2.slot ≠ 1 := by decide
theorem wit_slot_l1 : (∀ e ∈ (full31 .full).l1Cores 0, ((full31 .full).core e).l1.Pairwise fun x y => x.1 < y.1) ∧ (full31 .full).l1Line 0 512 = none := by decide
theorem wit_walk_listed : (listing (walking (walkAt (.list 0) 0 (.list 96 0))) 512).errorLine ((0x10000 + 96 / 32 * 32) / 128) = true ∧
    (walking (walkAt (.list 0) 0 (.list 96 0))).errorLine ((0x10000 + 96 / 32 * 32) / 128) = false := by decide
theorem wit_slot_full_order : ((walking (walkAt (.list 0) 0 (.fin 0 64 []))).core 0).issued = false ∧
    (((walking (walkAt (.list 0) 0 (.fin 0 64 []))).modCore 0 fun k => { k with issued := true }).core 0).issued = true := by decide
/-- A logged store of core 0 to the first bytes of die 2, and a later request to them. -/
def behindLogged (kind : AKind) : State := access (asking { request .store with id := 8, stage := .logged, seq := 3 }) (request kind)
theorem wit_behind_logged : ((behindLogged .load).core 0).access 9 = some (request .load) ∧ ((behindLogged .load).core 0).mayArrive (request .load) = true ∧
    (∃ e ∈ (behindLogged .load).loggedTo 0 2, e.1 < 2 ^ 42 + 8 ∧ 2 ^ 42 < e.1 + e.2) ∧ (behindLogged .store).loggedTo 0 2 ≠ [] ∧ (asking (request .store)).loggedTo 0 2 = [] := by decide
theorem wit_home_room : ∀ a ∈ [atHome .load none, atHome .store none, atHome (.atom 8) none], (homed a).l1Room 0 a = true := by decide +kernel
theorem wit_eviction_errors : tfind (homed (atHome .load none)).homes 0x100 = some { bytes := bytesOfNum 32 5 } ∧ ({ bytes := bytesOfNum 32 5 } : HomeSec).dirty = false ∧
    ({ dirty := true, bytes := bytesOfNum 32 5 } : HomeSec).dirty = true ∧ tfind (tget {} (homed (atHome .load none)).memerr 0).table 0 = none ∧
    (∀ j, j < 15 → tfind ((span 0 15).map fun n => (n, 128 * (n + 1))) j ≠ none) ∧ tfind ((span 0 15).map fun n => (n, 128 * (n + 1))) 15 = none := by decide +kernel
theorem wit_ring_write_held : ∀ e, e < 4 → 1 ≤ e → ((queued 0).strand 0 e).named = true → ((queued 0).strand 0 e).held = true ∧ ((queued 0).strand 0 e).stopped = false := by decide
/-- Weave 1 is torn down. -/
def torn (s : State) : State := { s with weaves := [(1, { loaderWeave with torn := true })] }
/-- A post of task 0 waits for its answer, and a close of task 1, or a post of core 1, of the same nanosecond. -/
def posting (i : Instr) : State :=
  (netWaits (.nePost {} 3 1 4) qp).modTask 0 1 fun x => { x with st := .parked, regs := [(1, 5#64)], wait := some { what := .answer, instr := i, len := 4 } }
def closingPair : NeQp := { qp with st := .closing }
/-- What comes back for queue pair 5. -/
def response : Packet := { packet 2 [1#8, 2#8, 3#8, 4#8] with src := List.replicate 16 1#8 }

theorem wit_weave_not_torn : job.tornWeave (job.weaveNo 0) = false ∧ (regrouping (.mgCfgFree {} 3 1) merge).tornWeave 1 = false ∧ (querying true [] merge).tornWeave 1 = false ∧
    (netWaits (.neQpClose {} 3 1) qp).tornWeave 1 = false ∧ (torn job).tornWeave 1 = true := by decide +kernel
theorem wit_query_bar_saved : tfind (barInImage (grouped job { merge with bar := some (.core 0 5) }) { bytes := 8 }).weaves 1 = some { loaderWeave with images := [(0, barImage { bytes := 8 })] } ∧
    (barInImage job { bytes := 8 }).barSaved 1 (.core 0 5) = true ∧ job.barSaved 1 (.panel 0) = false := by decide
theorem wit_stripe_queue : ∀ y ∈ [cmd], y.accepted ≠ ({ striped stripe true with time := 1 } : State).time := by decide
theorem wit_stripe_tag : numBytes ((striped stripe true).homeBytes (2 * 2 ^ 15) 4) = stripe.seqid := by decide +kernel
theorem wit_net_order : (netWaits (.nePost {} 3 1 4) qp).neAfter 0 0 { what := .answer, instr := .nePost {} 3 1 4, len := 4 } = false ∧
    ((posting (.neQpClose {} 3 1)).waitOf 0 0).map (fun w => w.instr) = some (.nePost {} 3 1 4) ∧ (posting (.neQpClose {} 3 1)).reg 0 1 1 = (posting (.neQpClose {} 3 1)).reg 0 0 1 ∧
    ((posting (.neQpClose {} 3 1)).waitOf 0 1).map (fun w => (w.instr, w.acted, w.parkedAt)) = some (.neQpClose {} 3 1, false, 0) ∧ (job.core 0).frozen = none ∧
    ((posting (.nePost {} 3 1 4)).waitOf 0 1).map (fun w => w.instr) = some (.nePost {} 3 1 4) ∧ 8 * 0 + 0 < 8 * 0 + 1 ∧ dieOf 1 = dieOf 0 := by decide
theorem wit_net_alone : (State.reset.cores.all fun e => e.2.tasks.all fun x => x.2.wait.isNone) = true := by decide
theorem wit_net_closing : closingPair.st = .closing ∧ qp.st ≠ .closing := by decide
theorem wit_net_listed : (listing (netted job qp) 512).errorLine ((qp.base + qp.sring + 64 * (qp.cidx % 2 ^ qp.slog2)) / 128) = true ∧
    (netted job qp).errorLine ((qp.base + qp.sring + 64 * (qp.cidx % 2 ^ qp.slog2)) / 128) = false := by decide
theorem wit_net_response : response.jobid = qp.jobid ∧ response.src = qp.paddr ∧ response.opc = 2 ∧ (packet 1 [1#8]).opc ≠ 2 ∧ ({ response with jobid := 8 } : Packet).jobid ≠ qp.jobid ∧
    ({ response with src := [] } : Packet).src ≠ qp.paddr ∧ ({ qp with st := .error } : NeQp).st = .error := by decide
theorem wit_net_known : ((packet 1 [1#8]).opc = 1) ∧ ¬ (5 = 1 ∨ (qp.pds ≠ 2 ∧ (5 = 2 ∨ 5 = 3 ∨ (5 = 4 ∧ 0 < 8)))) ∧ (qp.pds ≠ 2 ∧ (4 = 4 ∧ 7 < 8)) ∧ (3 : Nat) = 3 ∧ ¬ (8 < 8) := by decide
theorem wit_sm_map : inDev 0x30200 = false ∧ inDev 0x4000000000 = true ∧ (smRun smx).weaveGone 1 = false := by decide
theorem wit_sm_temp_nan : decodeFloat .f32 false 0x7FC00000 = .nan ∧ (∃ e ∈ [scored 0x7FC00000 7], decodeFloat .f32 false (e / 2 ^ 32 % 2 ^ 32) = .nan) := by decide
theorem wit_halt_here : ((breaking (1, 0x1000) {}).core 0).job = some (1, 0) ∧ (breaking (1, 0x1000) {}).isFrozen 0 = false ∧ (∃ y ∈ debugWeave.jobs, y.1 = 0) ∧
    (tget {} (breaking (1, 0x1000) { halting := true }).hslots 0).halting = true ∧ (breaking (1, 0x1000) { halting := true }).isFrozen 0 = false := by decide
theorem wit_halt_settles : (tget {} (bothFrozen { halting := true } {}).hslots 0).weave = some 1 ∧ (tget {} (bothFrozen { halting := true } {}).hslots 0).settled = false ∧
    (tget {} (bothFrozen { settledSlot with resuming := true } {}).hslots 0).resuming = true ∧ 0 ≤ (bothFrozen { settledSlot with resuming := true } {}).time := by decide
theorem wit_listed_packet : (listing job 128).errorLine (0x4000 / 128) = true ∧ (listing (dispatched { mappedSlot with wridx := 1 } job) (0x38000 / 128)).errorLine ((0x38000 + 128 * (0 % 2 ^ 4)) / 128) = true ∧
    (dispatched { mappedSlot with wridx := 1 } job).errorLine ((0x38000 + 128 * (0 % 2 ^ 4)) / 128) = false := by decide
theorem wit_take_order : (dispatched { mappedSlot with lane := [marker] } job).lastStarted 0 2 true = true ∧ (∀ p ∈ ((dispatched { mappedSlot with lane := [marker] } job).disp 0).pkts, p.st ≠ .waiting) ∧
    (waitsAt (dispPacket (depends 1 5) .started) five).lastStarted 0 2 false = true := by decide +kernel
theorem wit_event_without_status : ((waitsAt (dispPacket (packetWords 3 0 0 0 0 (2 ^ 63 + 3)) .completed) five).pkt 0 9).isSome = true := by decide +kernel
theorem wit_node_listed : (listing (graphAt (nodeWords 5 1 1 0xFFFF 0 0) 0) (0x6000 / 128)).errorLine ((0x6000 + 64 * 0) / 128) = true ∧
    (graphAt (nodeWords 5 1 1 0xFFFF 0 0) 0).errorLine ((0x6000 + 64 * 0) / 128) = false := by decide +kernel
theorem wit_record_listed : (∃ l, 0x6000 / 128 ≤ l ∧ l < 0x6000 / 128 + 2 ∧ (listing (unread goodWords 0) (0x6000 / 128 + 1)).errorLine l = true) ∧
    (∃ l, 0x9000 / 128 ≤ l ∧ l < 0x9000 / 128 + 32 ∧ (listing (unread goodWords 0) (0x9000 / 128 + 31)).errorLine l = true) ∧ (∀ l, (unread goodWords 0).errorLine l = false) :=
  ⟨⟨0x6000 / 128 + 1, by decide, by decide, by decide +kernel⟩, ⟨0x9000 / 128 + 31, by decide, by decide, by decide +kernel⟩, fun _ => rfl⟩
theorem wit_request_joins : (let s : State := { waitingFor (waits oneJob) with weaves := [(1, waits oneJob), (2, { asks [1] false with id := 2, prio := 3, asked := [0] })] }
    0 ∈ ({ asks [1] false with id := 2, prio := 3, asked := [0] } : Weave).asked ∧ 0 ∉ ({ asks [1] false with id := 2, prio := 3, asked := [0] } : Weave).granted ∧
    s.shareFree 0 { asks [1] false with id := 2, prio := 3, asked := [0] } = true) := by decide +kernel
theorem wit_placement_first : (∀ e ∈ (waitingFor (waits oneJob)).weaves, e.1 ≠ 1 → False) ∧ (waitingFor (waits oneJob)).laneReady 0 (waits oneJob).slot = false ∧
    (dispatched { mappedSlot with lane := [marker] } (waitingFor (waits oneJob))).laneReady 0 2 = true := by decide +kernel
theorem wit_quantum_alone : ((living (fun w => { w with quantum := 2000000 }) 0).disp 0).savecnt.toNat % 2 ^ 10 = 0 ∧
    (contested (fun w => { w with quantum := 2000000 }) 0 1).waitsFor (rival 0) { loaderWeave with quantum := 2000000 } = true ∧
    tfind (contested (fun w => { w with quantum := 2000000 }) 0 1).weaves 7 = none := by decide +kernel
theorem wit_save_together : (∀ j ∈ loaderWeave.live, (living (fun w => { w with st := .stopping }) 1).jobHere 1 j.2 = true → (living (fun w => { w with st := .stopping }) 1).jobStopped j.2 = true) ∧
    (living (fun w => { w with st := .stopping }) 1).walksEnding 0 = false ∧ (walking (walkAt (.list 0) 0 (.fin 0 64 []))).walksEnding 0 = true ∧
    memoryOk (living (fun w => { w with st := .stopping }) 1) ∧ Memory.wf ((living id 1).core 0).opmem = true ∧ Memory.wf ((living id 1).core 0).scratch = true := by
  unfold memoryOk banksOk homesOk; decide +kernel
/-- The saved image of weave 1 has a task that waits for event 3, which has come. -/
def wokenImage : Image := { slot := 0, die := 0, core := 0, addr := 0x800000, state := { job := some (1, 0), events := [(3, { count := 1 })], tasks := [(0, { st := .parked, wait := some { what := .event 3, instr := .evw {} 1, len := 4 } })] } }
theorem wit_resume_waiter : wokenImage.state.eventWaiter 3 = some 0 ∧ wokenImage.state.tasks.Pairwise (fun e f => e.1 < f.1) ∧ 0 < (tget {} wokenImage.state.events 3).count ∧ wokenImage.addr % 32 = 0 ∧
    (∀ i ∈ savedWeave.images, i.2.state.drained = []) ∧ memoryOk saved ∧ (∀ j ∈ savedWeave.images, (saved.core j.2.core).l1 = []) := by
  unfold memoryOk banksOk homesOk; decide +kernel
theorem wit_host_listed : (listing (booted ready) 0).errorLine (0 / 128) = true ∧ (booted ready).errorLine (0 / 128) = false := by decide
theorem wit_step_waits : launchNext.popFirst 0 (.launch {} 5 6 12) = false ∧ launchNext.behindLoads 0 0 (.launch {} 5 6 12) = false ∧
    (access launchNext { id := 9, party := 0, kind := .load, space := .virt, va := 0, pa := 0, n := 8, dest := .reg 3 false }).behindLoads 0 0 (.trkArm {} 5 6) = true := by decide +kernel
theorem wit_step_pop_first : (State.reset.withFetchWord 64 (numOfBytes 8 (encodeBytes (.vvalQ {} 6)))).popFirst 0 (.cqSquash {} 1 2) = true := by decide +kernel
theorem test_acknowledged_by_another_job : (countUp 0#64 8 8 1) = ((after (.neAckArrival 0 5 0 0 false (some { response with jobid := 8 })) (netted job qp)).net 0).stat := by decide
theorem test_host_read_of_a_listed_line : ((after (.hostMemoryAccess 0 false 0 [0#8] false) (listing (booted ready) 0)).pkg 0).hostRead = .abort := by decide
theorem test_host_read : ((after (.hostMemoryAccess 0 false 5 [0#8] false) { booted ready with banks := setBytes [] 5 [7#8] }).pkg 0).hostRead = .data [7#8] := by decide +kernel
theorem test_listed_line_traps : ((after (.ld {} false 3 3 1 false 0 0) { listing (ctl [(1, 0x1000#64)]) 32 with weaves := [(1, loaderWeave)] }).task 0 0).tcause = 17#64 := by decide
theorem test_carried_once_a_cycle : ((after (.barrierCarryFlip (.core 0 5)) (coreBar { parties := 1, arrived := 1, flippedAt := some 0 })).barrier (.core 0 5)).arrived = 1 := by decide
theorem test_event_resumes : ((after (.weaveResume 1) { saved with weaves := [(1, { savedWeave with images := [(0, wokenImage)] })] }).task 0 0).st = .ready := by decide +kernel

/-! Clauses on what does not land, on walks that find something, on barriers that fault and on weaves with debug enabled. -/

theorem wit_no_landing : noLanding landing 0 2#64 5 ∧ noLanding landing 0 0x2000#64 4 :=
  ⟨.inl ⟨by decide, rfl⟩, .inr ⟨by decide, rfl, 0x2000, false, by decide, by decide⟩⟩
theorem test_tspawn_no_landing : ((after (.tspawn {} 2 1 1) landing).task 0 0).tcause = 4#64 ∧ ((after (.tspawn {} 2 1 1) landing).task 0 1).st = .free := by decide +kernel

/-- Core 0, whose share is of code 1 and whose L1 holds a dirty byte, in the last cycle of a phase to code 0. -/
def shrinking : State :=
  ({ after (.phase {} 0) (job.modCore 0 fun k => { k with share := 1 }) with homes := [(0x100, { bytes := bytesOfNum 32 5 })] }).modCore 0 fun k =>
    { k with cycle := 96 + 2 * 2048, l1 := [(64, { bytes := [(0, 9#8)], dirty := 1, valid := 1 })] }

theorem wit_phase_shrinks : (shrinking.core 0).phase.map (fun p => (p.task, p.code)) = some (0, 0) ∧ (∀ p, (shrinking.core 0).phase = some p → p.doneAt ≤ (shrinking.core 0).cycle) ∧
    shrinking.isFrozen 0 = false ∧ (shrinking.task 0 0).wait.isSome = true ∧ memoryOk shrinking ∧ shrinking.isFused 0 = false ∧
    shareBytes 0 < shareBytes (shrinking.core 0).share := by unfold memoryOk banksOk homesOk; decide +kernel
theorem test_shrinking_keeps_dirty_bytes : (after (.phaseComplete 0) shrinking).homeByte 0x2000 = 9#8 ∧ ((after (.phaseComplete 0) shrinking).core 0).l1 = [] := by decide +kernel

/-- A record of a table or a map image: of 64 KiB at VBASE and at PBASE, readable. -/
def readable (vbase pbase size : Nat) : Nat := 2 ^ 9 + 2 ^ 8 + 2 ^ 10 * size + vbase + 2 ^ 64 * pbase
/-- A probe of kind 0 for 4 bytes at the address, with a table of records at 0x50000 and elastic entries. -/
def probing (recs : List Nat) (addr left : Nat) (elastic mine : List Nat) : State :=
  ({ walked with weaves := [(1, { loaderWeave with lrec := { loaderWeave.lrec with tbase := 0x50000 } })] }.placeWords 0x50000
    ([recs.length, 0, 0, 0] ++ recs.flatMap fun x => [x % 2 ^ 32, x / 2 ^ 32 % 2 ^ 32, x / 2 ^ 64 % 2 ^ 32, x / 2 ^ 96])).modCore 0 fun k =>
      { k with probe := some { task := 0, rd := 3, kind := 0, addr, left, mine }, elastic }

def far : Nat := 2 ^ 44
theorem wit_table : (probing [readable far 0 16] far 4 [] []).homeNum 0x50000 8 = 1 ∧
    (segOfNum ((probing [readable far 0 16] far 4 [] []).walkRecord 0x50000 0)).matches far = true ∧
    (segOfNum ((probing [readable far 0 16] far 4 [] []).walkRecord 0x50000 0)).matches (far - 1) = false ∧
    (segOfNum (readable far 0 16)).size ≤ 40 ∧ (segOfNum (readable far 0 16)).vbase % 2 ^ (segOfNum (readable far 0 16)).size = 0 := by decide +kernel
theorem wit_walk : (let s := probing [readable far 0 16] far 4 [] []
    tget [] s.walkQ 0 = [0] ∧ (s.core 0).accs = [] ∧ far < 2 ^ 64 ∧ firstUncovered (s.core 0).seg 0 far 4 = some far ∧ (s.task 0 0).wait.isSome = true ∧
    (s.weaveOf 0).map (fun w => (w.lrec.fmt, w.lrec.tbase)) = some (0, 0x50000) ∧ s.walkLost 0x50000 far = false) := by decide +kernel
theorem wit_walk_results : (probing [] far 4 [] []).walkTable 0x50000 far = none ∧ (probing [readable far 0 16] far 4 [] []).walkTable 0x50000 far = some (readable far 0 16) ∧
    segRecordOk (readable far 0 16) = true ∧ (segOfNum (readable far 0 16)).matches far = true ∧ (segOfNum (readable far 0 16)).grants (probePerm 0) = true ∧
    segRecordOk (readable far 0 15) = false := by decide +kernel
theorem wit_elastic : (∀ j, 256 ≤ j → j < 256 → j ∈ ([] : List Nat)) ∧ (∀ j, j < 288 → 256 ≤ j → j ∈ span 256 32) ∧
    (∃ xs ys, span 256 32 = xs ++ 257 :: ys ∧ 257 ∉ [256] ∧ ∀ j ∈ xs, j ∈ [256]) ∧ (∀ j ∈ span 256 32, j ∈ span 256 32) :=
  ⟨by omega, by decide +kernel, ⟨[256], span 258 30, by decide, by decide, by decide⟩, fun _ h => h⟩
theorem wit_hidden : (∃ y ∈ ((probing [] 8 4 [] []).core 0).seg, y.1 < 256 ∧ y.2.matches 8 = true) ∧ ¬ (∃ y ∈ ((probing [] 8 4 [] []).core 0).seg, y.1 < 256 ∧ y.2.matches far = true) := by
  decide +kernel
theorem wit_covered : (let s := probing [readable far 0 16] far 4 [] []
    firstUncovered (tput (s.core 0).seg 256 (segOfNum (readable far 0 16))) 0 far 4 = none ∧
    firstUncovered (tput (s.core 0).seg 256 (segOfNum (readable far 0 16))) 0 far (2 ^ 16 + 1) = some (far + 2 ^ 16)) := by decide +kernel
theorem test_walk_installs : (after (.pageWalkComplete 0) (probing [readable far 0 16] far 4 [] [])).reg 0 0 3 = 1#64 := by decide +kernel
theorem test_walk_is_full : (after (.pageWalkComplete 0) (probing [readable far 0 16] far 4 (span 256 32) (span 256 32))).reg 0 0 3 = 3#64 := by decide +kernel
theorem test_walk_takes_the_oldest : ((after (.pageWalkComplete 0) (probing [readable far 0 16] far (2 ^ 16 + 1) (span 256 32) [256])).core 0).elastic.getLast? = some 257 := by decide +kernel

theorem wit_barrier_faults : (0x4000040008 : Nat) % 16 ≠ 0 ∧ barAt 0x2000 = none ∧ translate (job.core 0).seg .rd 0x2000 = .ok 0x2000 false ∧ (0x2000 : Nat) % 16 = 0 ∧
    (ctl [(1, 0x4000040000#64)]).barAllocated 0 (.panel 0) = false ∧ ((barriered {}).barrier (.panel 0)).unset = true := by decide
theorem test_bara_not_allocated : ((after (.bara {} 3 1) (ctl [(1, 0x4000040000#64)])).task 0 0).tcause = 13#64 := by decide
theorem test_barw_unset : ((after (.barw {} 1 2) (barriered {})).task 0 0).tcause = 14#64 := by decide
theorem wit_flip_held : (coreBar { parties := 1, arrived := 1, outside := true }).barFrozen (.core 0 5) = false ∧
    ((coreBar { parties := 1, arrived := 1 }).modCore 0 fun k => { k with frozen := some (0, 0) }).barFrozen (.core 0 5) = true := by decide
theorem wit_signal_free : ((signalled 1).signals.all fun g => g.held == none) = true := by decide

/-- Weave 1 has debug enabled; g1 is 9. -/
def enabled : State := { handled (regs job [(1, 9#64)]) with weaves := [(1, debugWeave)], hslots := [(0, { weave := some 1 })] }
theorem wit_debug_enabled : enabled.debugOn 0 = true ∧ enabled.cur = .task 0 0 ∧ (enabled.core 0).dfault = none ∧ (enabled.core 0).dmet = false ∧
    enabled.slotOf 0 = some 0 ∧ (tget {} enabled.hslots 0).teardown = none := by decide
theorem test_trap_is_pending : ((after (.trap {} 1) enabled).task 0 0).pendCause = some (22#64, 0x1004#64, 9#64) ∧ ((after (.trap {} 1) enabled).task 0 0).pc = 0x1000#64 := by decide
theorem test_brk_source : (tget {} (after (.brk {}) enabled).hslots 0).panel.src = 1 := by decide

/-! Nested blocks, and the other views. -/

/-- A block from 0x2008 up to a last word. -/
def blockTo (kind : BlockKind) (last remain : Nat) : Block := { kind, head := 0x2000, first := 0x2008, last, remain }
/-- A strand of a queue with one entry, at 0x2010 in blocks. -/
def within (e : Nat) (ent : CqEnt) (blocks : List Block) : State := strandOf e { pc := 0x2010, cq := { ents := [ent] }, blocks }

theorem wit_nested : (atEnd .cond 0).blocks ++ [blockTo .loop 0x2018 2] ≠ [] ∧ (0x2010 : Nat) + 8 = 0x2018 ∧ (0x2010 : Nat) + 8 ≠ 0x2020 := by decide
theorem test_nested_ends_together : ({ atEnd .cond 0 with blocks := (atEnd .cond 0).blocks ++ [blockTo .loop 0x2018 2] } : Strand).step 7 =
    { pc := 0x2008, base := 8, blocks := [blockTo .loop 0x2018 1] } := by decide
theorem wit_fits : (∀ b ∈ [blockTo .loop 0x2030 2].head?, 0x2010 + 8 + 8 * 3 ≤ b.last) ∧ ¬ (∀ b ∈ [blockTo .loop 0x2030 2].head?, 0x2010 + 8 + 8 * 4 ≤ b.last) ∧
    (∃ b ∈ [{ blockTo .whileLoop 0x2030 0 with head := 0x2010 }].head?, b.kind = .whileLoop ∧ b.head = 0x2010) ∧
    loopLevels [blockTo .loop 0x2030 2] = 1 ∧ loopLevels [blockTo .loop 0x2030 2, blockTo .whileLoop 0x2030 2] = 2 ∧
    condLevels [blockTo .cond 0x2030 0] = 1 ∧ condLevels [blockTo .cond 0x2030 0, blockTo .cond 0x2030 0] = 2 :=
  ⟨by decide, by decide, ⟨_, rfl, rfl, rfl⟩, by decide, by decide, by decide, by decide⟩
theorem wit_within : ∀ e ∈ [1, 2, 3], ∀ ent ∈ [⟨0, 1, 0⟩, ⟨1, 1, 1⟩, ⟨6, 1, 0⟩], (let s := within e ent [blockTo .cond 0x2030 0, blockTo .loop 0x2040 2]
    s.cur = .strand 0 e ∧ (s.strand 0 e).cq.ents[(s.strand 0 e).cq.popped]? = some ent ∧ s.debugOn 0 = false ∧ (s.core 0).dfault = none ∧ (s.core 0).dmet = false) := by decide
theorem wit_stop_in_a_loop : ((within 1 ⟨6, 1, 0⟩ [blockTo .cond 0x2030 0, blockTo .loop 0x2040 2]).strand 0 1).blocks = [blockTo .cond 0x2030 0] ++ blockTo .loop 0x2040 2 :: [] ∧
    (∀ b ∈ [blockTo .cond 0x2030 0], ¬ (b.kind = .loop ∨ b.kind = .whileLoop)) := by decide
theorem test_stop_leaves_the_loop : ((after (.vvalQ {} 6) (within 1 ⟨6, 1, 0⟩ [blockTo .cond 0x2030 0, blockTo .loop 0x2040 2])).strand 0 1).pc = 0x2040 := by decide
theorem test_block_past_its_outer : ((after (.mifQ {} 4) (within 2 ⟨1, 0, 1⟩ [blockTo .loop 0x2030 2])).core 0).dfault.map (fun f => f.code) = some 27 := by decide
theorem test_third_loop : ((after (.vloopQ {} 1) (within 1 ⟨0, 1, 1⟩ [blockTo .loop 0x2030 2, blockTo .loop 0x2030 2])).core 0).dfault.map (fun f => f.code) = some 27 := by decide
theorem test_while_again : ((after (.cpWhileQ {} 3) (within 3 ⟨1, 1, 0⟩ [{ blockTo .whileLoop 0x2030 0 with head := 0x2010 }])).strand 0 3).blocks = [] := by decide

theorem wit_views : (8 : Nat) < 9 ∧ viewWidth 8 = 8 ∧ viewFloat 6 = true ∧ (∀ v ∈ span 0 9, 32 % viewWidth v = 0) ∧ (3 : Nat) < viewWidth 0 / viewWidth 5 ∧ (1 : Nat) < viewWidth 1 / viewWidth 4 := by decide
theorem test_vadd_halves : resultCell (.vadd {} { d12 with view := 4 }) 0x0001FFFF 0x00020001 0 = some 0x00030000 := by decide +kernel
theorem test_vcvt_narrows_into_a_part : resultCell (.vcvt {} 2 { d12 with vb := 1 }) 0x3F800000 0 0 = some 0x3F800000 := by decide +kernel
theorem test_vcvt_widens_a_part : resultCell (.vcvt {} 0 { d12 with view := 2, vb := 1 }) 0x40003F80 0 0 = some 0x40000000 := by decide +kernel
theorem test_vkmov_to_mask : (match arrayResult (heading (.vkmovToMask {} d12) 12 0) { seq := 3, pc := 0x40, instr := .vkmovToMask {} d12, issued := 0 } with
    | some (_, ps) => some (pieceVal ps) | none => none) = some 1 := by decide +kernel
theorem test_vredr_sums_bytes : resultCell (.vredr {} 0 { d12 with view := 8, sat := true }) 0xFF01 0 0 = some 0xFFFFFFFF := by decide +kernel
theorem test_vredc_takes_the_largest : resultCell (.vredc {} 1 { d12 with view := 1 }) (2 ^ 2048 * 9 + 4) 0 0 = some 9 := by decide +kernel
theorem test_acvt : (match arrayResult { heading (.acvt {} { d12 with va := 4, vb := 0 }) 0 0 with acc := [(4, { elems := [(0, 0x3F800000 * 2 ^ 8)] })] }
      { seq := 3, pc := 0x40, instr := .acvt {} { d12 with va := 4, vb := 0 }, issued := 0 } with
    | some (_, ps) => some (cellAt (pieceVal ps) 0) | none => none) = some 0x3F800000 := by decide +kernel
theorem wit_acvt_entry : ({ accBefore := none } : DataSide).accBefore = none ∧ ({ timed := true, counted := 7, accBefore := some (7, []) } : DataSide).accBefore = some (7, []) := by decide
theorem wit_reduce : ([some 5, none, some 250] : List (Option Nat)).length ≤ 256 ∧ ([some 5, none, some 250] : List (Option Nat)).filterMap id = [5, 250] ∧
    viewElem 8 = .int 8 false ∧ viewElem 0 = .flt .f32 ∧ (250 : Nat) < 2 ^ 8 := by decide
theorem test_reduce_wraps : reduceElems 0 { view := 8 } [some 5, none, some 254] = some ⟨3, false, false, false⟩ := by decide +kernel

/-! Sector accesses, fills, faults of copies, barriers of other units. -/

/-- The vector strand of a core that reaches package 1, its base there. -/
def vecFar : State :=
  (vecIssue.modCore 0 fun k => { k with seg := (remoteTask.core 0).seg }).modStrand 0 1 fun x => { x with x := [(2, BitVec.ofNat 64 (2 ^ 41 + 0x80))] }
def farUnit : DM := { oneUnit with lc := 3 }

theorem wit_vec_sectors : farUnit.lc = 3 ∧ activeUnits 32 false (2 ^ 9 + 1) = [0, 32] ∧
    vecCheck (vecFar.core 0) 0 farUnit .rd (2 ^ 41) 0 [(0, 2 ^ 41), (32, 2 ^ 41 + 32)] = .ok [⟨0, 2 ^ 41, 2 ^ 42, false⟩, ⟨32, 2 ^ 41 + 32, 2 ^ 42 + 32, false⟩] ∧
    vecCheck (vecFar.core 0) 0 farUnit .wr (2 ^ 41) 0 [(0, 2 ^ 41)] = .ok [⟨0, 2 ^ 41, 2 ^ 42, false⟩] := ⟨rfl, by decide +kernel, rfl, rfl⟩
theorem test_vst_sends_a_sector : ((after (.vst {} farUnit) vecFar).core 0).accs.map (fun a => (a.n, a.data.map Prod.fst)) = [(32, [2 ^ 42, 2 ^ 42 + 1, 2 ^ 42 + 2, 2 ^ 42 + 3])] := by
  decide +kernel

/-- A fill of slot 1024 at the head of the matrix queue; byte 0 of the slot holds 9. -/
def filling : State :=
  (data job fun d => { d with rings := matRings, counted := 9, matQ := [{ seq := 0, pc := 0x40, instr := .mfill {} 3 { ring := 4, cnt := 1 }, issued := 0, slots := [1024] }] }).modCore 0 fun k =>
    { k with scratch := [(0x20000, 9#8)] }
theorem wit_fill_starts : (filling.core 0).data.matQ.map (fun m => (m.start, m.instr)) = [(none, .mfill {} 3 { ring := 4, cnt := 1 })] ∧ filling.dataHeld 0 = false ∧
    (filling.core 0).caughtUp = true ∧ (filling.core 0).data.matFree ≤ 9 ∧ (filling.core 0).data.timed = true ∧ (filling.core 0).data.frozen = false ∧ (filling.core 0).data.lateResult = false ∧ (filling.core 0).data.mat.stopped = false := by decide +kernel
theorem test_fill_reads_at_its_start : ((after (.matrixQueueStart 0) filling).core 0).data.matQ.map (fun m => m.opsA) = [[9]] := by decide +kernel

theorem wit_copy_unshaped : (2 ^ 40 + 32 : Nat) / 2 ^ 40 % 2 ^ 18 ≠ 0 := by decide
theorem wit_copy_outside : (32 : Nat) / 2 ^ 40 % 2 ^ 18 = 0 ∧ (32 : Nat) % 32 = 0 ∧ ¬ 0x400000 + 32 ≤ ((copying [(1, 0x400000#64), (4, 32#64)]).core 0).dataTop ∧
    (8 : Nat) % 32 ≠ 0 := by decide
theorem test_copy_outside : ((after (.cpLin {} moves) (copying [(1, 0x400000#64), (4, 32#64)])).core 0).dfault.map (fun f => f.code) = some 7 := by decide
theorem test_copy_shape : ((after (.cpLin {} moves) (copying [(4, BitVec.ofNat 64 (2 ^ 40 + 32))])).core 0).dfault.map (fun f => f.code) = some 32 := by decide
theorem wit_copy_barrier_faults : (copying [(4, 32#64), (6, 8#64)]).checkBarrier 0 ((copying [(4, 32#64), (6, 8#64)]).core 0 |>.data.cpy.xreg 6).toNat = .fault 6 := rfl
theorem test_copy_barrier_faults : ((after (.cpLin {} { moves with cen := true }) (copying [(4, 32#64), (6, 8#64)])).core 0).dfault.map (fun f => f.code) = some 6 := by decide

/-- Core barrier 2 has flipped in the present cycle. -/
def flippedCore : State := { moving {} (some (.core 0 2, 0)) false with barriers := [(barKey (.core 0 2), { bytes := 32, flippedAt := some 0 })] }
theorem wit_flipped_now : (∃ b va, (moved (some (.core 0 2, 0)) false).bar = some (b, va) ∧ flippedCore.flippedNow b = true) ∧
    (moving { bytes := 8 } (some (.panel 0, 0)) false).flippedNow (.panel 0) = false := ⟨⟨_, _, rfl, by decide⟩, by decide⟩
theorem test_bytes_wait_behind_a_flip : ((after (.copyTransferComplete 0 7) flippedCore).core 0).data.xfers.length = 1 := by decide
theorem wit_stored_allocated : (stored (some (.panel 0, 0)) false).barSaved 1 (.panel 0) = false ∧
    (tfind (stored (some (.panel 0, 0)) false).weaves 1).map (fun v => v.holds (.panel 0)) = some true := by decide

/-- NMU 0 ends a command that has stored one line and has panel barrier 0. -/
def barred (b : Barrier) : State :=
  { copying [] with nmus := [(0, { run := some { nmuRun [] with cmd := { cmd with bar := some (.panel 0) }, st := { stores := 1 } } })], barriers := [(barKey (.panel 0), b)], cur := .nmu 0 }
theorem wit_nend_barrier : (barred { bytes := 512 }).weaveHalted 1 = false ∧ ((barred { bytes := 512 }).barrier (.panel 0)).unset = false ∧ (barred { bytes := 512 }).barSaved 1 (.panel 0) = false ∧
    (tfind (barred { bytes := 512 }).weaves 1).map (fun v => v.holds (.panel 0)) = some true := by decide
theorem test_nend_adds_its_bytes : ((after .nend (barred { bytes := 512 })).barrier (.panel 0)).counted = 128 := by decide
theorem wit_nmu_reads_a_listed_line : (nmuAt (nmuRun [])).errorLine 0 = false ∧ (listing (nmuAt (nmuRun [])) 0).errorLine 0 = true ∧ tfind (nmuRun []).lines 0 = none := by decide
theorem test_nld_of_a_listed_line : ((after (.nld false 0 1 0) (listing (nmuAt (nmuRun [])) 0)).nmu 0).last = [(1, 5)] := by decide
/-- Another core's command of an earlier cycle of NMU 0 waits. -/
def earlier : State := { commanding with nmus := [(0, { queue := [{ cmd with core := 1, cyc := 3 }], clk := 4 })] }
theorem wit_ncmd_order : ∀ y ∈ (earlier.nmu 0).queue, y.accepted ≠ earlier.time ∨ y.cyc ≠ (earlier.nmu 0).clk := by decide +kernel
theorem test_ncmd_behind_earlier_cycles : ((after (.ncmd {} 1 2 0) earlier).nmu 0).queue.map (fun x => (x.core, x.cyc)) = [(1, 3), (0, 4)] := by decide +kernel
theorem test_ncmd_before_a_higher_core : ((after (.ncmd {} 1 2 0) { earlier with nmus := [(0, { queue := [{ cmd with core := 1, cyc := 4 }], clk := 4 })] }).nmu 0).queue.map (fun x => x.core) = [0, 1] := by
  decide +kernel

/-! Replies, configuration stores, and groups with what they wait for. -/

/-- A reply with the bytes, for g0 or for a pair. -/
def pairReply (d n : Nat) : State :=
  (asking { request .load with stage := .performed, n, dest := .reg d false, val := List.replicate n 1#8 }).modTask 0 0 fun x =>
    { x with st := .parked, wait := some { what := .reply 9, instr := .gld {} false 3 d 1 0, len := 8 } }
theorem wit_pair_reply : ((pairReply 4 16).core 0).accs.map (fun a => (a.dest, a.val.length, a.fault)) = [(.reg 4 false, 16, 0)] ∧ 4 % 2 = 0 ∧ (4 : Nat) ≠ 0 ∧
    ((pairReply 0 8).core 0).accs.map (fun a => (a.dest, a.val.length)) = [(.reg 0 false, 8)] := by decide
theorem test_pair_reply : (after (.fabricReply 0 9) (pairReply 4 16)).reg 0 0 5 = 0x0101010101010101#64 ∧ ((after (.fabricReply 0 9) (pairReply 0 8)).task 0 0).st = .ready := by decide
theorem wit_resend_kind : ∀ g i, (request .store).kind ≠ .contribution g i := nofun

/-- A logged store with two entries. -/
def loggedTwice : State := serving 1 (asking { request .store with stage := .logged, seq := 3, also := [4] })
theorem wit_logged_twice : (loggedTwice.core 0).accs.map (fun a => (a.seq, a.also, a.fault)) = [(3, [4], 0)] ∧ loggedTwice.hostUp 1 = true := by decide
theorem test_logged_twice : ((after (.replayWrite 1 3#64) loggedTwice).core 0).accs.map (fun a => (a.stage, a.seq, a.also)) = [(.logged, 4, [])] := by decide +kernel
theorem wit_error_entry : (serving 0 (listing job 9)).errEntry 0 15 = some (128 * 9) ∧ (serving 0 (listing job 9)).hostUp (0 / 2) = true ∧ (listing job 9).hostUp (0 / 2) = false ∧
    (serving 0 (listing job 9)).errEntry 0 3 = none ∧ memoryOk (serving 0 (listing job 9)) ∧ ((serving 0 (listing job 9)).core 0).l1 = [] := by unfold memoryOk banksOk homesOk; decide
theorem test_error_entry_forgets : (after (.errorEntryClear 0 15 0#64) (serving 0 { homed (atHome .load none) with homes := [(0x100, { dirty := true, bytes := bytesOfNum 32 6 })], memerr := [(0, { table := [(15, 0x2000)] })] })).homeByte 0x2000 = 5#8 := by
  decide +kernel
/-- Ring 4 has a claim. -/
def claimed : State := data job fun d => { d with claims := [(3, 1), (4, 2)] }
theorem wit_ring_claims : (claimed.core 0).data.claims.Pairwise (fun x y => x.1 < y.1) ∧ (claimed.core 0).job ≠ none ∧ tfind (claimed.core 0).data.claims 4 = some 2 := by decide
theorem test_ring_write_drops_the_claim : ((after (.rdescWrite 0 0 4 1#64) claimed).core 0).data.claims = [(3, 1)] := by decide

/-- Task 0's store of a configuration of panel barrier 0 is queued. -/
def configuring (s : State) : State :=
  access s { id := 9, party := 0, kind := .store, space := .device, va := 0x4000040000, pa := 0x4000040000, n := 8, word := 0x40, data := cellsFrom 0x4000040000 (bytesOfNum 8 5) }
def waitedBarrier : State :=
  (barriered { parties := 2 }).modTask 0 1 fun x => { x with st := .parked, wait := some { what := .flip (.panel 0) false, instr := .barw {} 1 2, len := 4 } }
theorem wit_config_store : ((configuring (barriered {})).configStore 0 0 (.panel 0)).map (fun a => (a.id, a.party, a.xfer, a.dest, a.rel)) = some (9, 0, 0, .none, false) ∧
    ((configuring (barriered {})).core 0).accs.all (fun a => !(configuring (barriered {})).layerHeld 0 a) = true ∧ (configuring (barriered {})).barAllocated 0 (.panel 0) = true ∧
    (configuring (barriered {})).barWaited (.panel 0) = false ∧ (configuring waitedBarrier).barWaited (.panel 0) = true ∧ (configuring job).barAllocated 0 (.panel 0) = false ∧
    handles (configuring waitedBarrier) 0 0 := by unfold handles; decide
theorem wit_config_held : (∃ a, (configuring ((barriered {}).modCore 0 fun k => { k with frozen := some (0, 0) })).configStore 0 0 (.panel 0) = some a ∧
    (configuring ((barriered {}).modCore 0 fun k => { k with frozen := some (0, 0) })).layerHeld 0 a = true) := ⟨_, rfl, by decide⟩
theorem test_config_store : ((after (.barrierConfigWrite (.panel 0) 0 0 (BitVec.ofNat 64 (2 ^ 44))) (configuring (barriered {}))).barrier (.panel 0)).parties = 1 := by decide
theorem test_config_of_waited : ((after (.barrierConfigWrite (.panel 0) 0 0 5#64) (configuring waitedBarrier)).task 0 0).tcause = 14#64 ∧
    ((after (.barrierConfigWrite (.panel 0) 0 0 5#64) (configuring waitedBarrier)).barrier (.panel 0)).parties = 2 := by decide
theorem test_config_not_allocated : ((after (.barrierConfigWrite (.panel 0) 0 0 5#64) (configuring (handled job))).task 0 0).tcause = 13#64 := by decide

theorem wit_group_record : 0 % 4 = 0 ∧ (block mergeWords).blockPlace 0 0x10000 (64 + 4 * ((1 + 2 ^ 16) % 2 ^ 9)) .wr = .ok [(0x10000, 68)] ∧ (2 : Nat) % 4 ≠ 0 ∧
    (block mergeWords).checkBarrier 0 8 = .fault 6 ∧ (barriered { parties := 2 }).checkBarrier 0 0x4000040000 = .ok (.panel 0) := ⟨rfl, place_ok _ _ (by decide +kernel), by decide, rfl, rfl⟩
theorem test_mg_cfg_reads_its_places : ((after (.mgCfgOpen {} 3 1) (block mergeWords)).task 0 0).wait.map (fun w => (w.out, w.bar, w.res2)) = some ([(0x10000, 68)], none, 0#64) := by decide +kernel
theorem test_mg_cfg_bad_barrier : ((after (.mgCfgOpen {} 3 1) (block (mergeWords.set 3 8))).task 0 0).wait.map (fun w => w.res2) = some 1#64 := by decide +kernel
theorem test_open_takes_its_places : ((after (.switchDieAnswer 0 0) ((opening mergeWords).modTask 0 0 fun x =>
    { x with wait := x.wait.map fun w => { w with out := [(0x20000, 68)], bar := some (.panel 0), res2 := 2#64 } })).group 0).map (fun g => (g.out, g.bar)) = some ([(0x20000, 68)], some (.panel 0)) := by decide +kernel
theorem wit_free_late : ({ merge with st := .armed, elapsed := 1000 } : Grp).tmo ≠ 0 ∧ 1000 * merge.tmo ≤ 1000 ∧ (regrouping (.mgCfgFree {} 3 1) { merge with st := .armed, elapsed := 1000 }).weaveHalted merge.weave = false ∧
    ¬ (1000 * merge.tmo ≤ 999) := by decide
theorem test_free_after_its_time : ((after (.switchDieAnswer 0 0) (regrouping (.mgCfgFree {} 3 1) { merge with st := .armed, elapsed := 1000 })).group 1).map (fun g => g.status % 16) = some 3 := by decide

/-- A completing group with panel barrier 0, and one whose barrier is in the image of a saved job. -/
def endingQuery (b : BarId) : Grp := { merge with st := .completing, status := 2 ^ 63 + 3, bar := some b }
theorem wit_query_barrier : (grouped (barriered { bytes := 64 }) (endingQuery (.panel 0))).barSaved 1 (.panel 0) = false ∧
    (tfind (grouped (barriered { bytes := 64 }) (endingQuery (.panel 0))).weaves 1).map (fun v => v.holds (.panel 0)) = some true ∧
    ((grouped (barriered { bytes := 64 }) (endingQuery (.panel 0))).barrier (.panel 0)).unset = false := by decide
theorem test_query_adds_its_bytes : ((after (.queryCompletionDone ⟨0, 0, 1⟩) (grouped (barriered { bytes := 64 }) (endingQuery (.panel 0)))).barrier (.panel 0)).counted = 8 := by decide +kernel
def coreWeave : Weave := { loaderWeave with lrec := { loaderWeave.lrec with bcore := 32 }, images := [(0, barImage { bytes := 64 })] }
theorem wit_query_core_barrier : tfind ({ grouped job (endingQuery (.core 0 5)) with weaves := [(1, coreWeave)] } : State).weaves 1 = some coreWeave ∧ coreWeave.holds (.core 0 5) = true ∧
    (∃ i ∈ coreWeave.images, i.2.core = 0) ∧ ∀ i ∈ coreWeave.images, i.2.core = 0 → (tget {} i.2.bars (barKey (.core 0 5))).unset = false := by decide
theorem test_query_adds_to_the_image : (tfind (after (.queryCompletionDone ⟨0, 0, 1⟩) { grouped job (endingQuery (.core 0 5)) with weaves := [(1, coreWeave)] }).weaves 1).map
    (fun v => v.images.map fun i => (tget {} i.2.bars (barKey (.core 0 5))).counted) = some [8] := by decide +kernel
/-- The last contribution to group 1, with die barrier 32 of die 0, its weave's. -/
def dieCounted (b : Barrier) : State :=
  { contributed 0x101C { almost with ben := true, barno := 32, bases := [] } with
      weaves := [(1, { loaderWeave with lrec := { loaderWeave.lrec with bars := [(0, 0), (32, 1), (0, 0), (0, 0)] } })], barriers := [(barKey (.die 0 32), b)] }
theorem wit_die_barrier : (dieCounted { bytes := 64 }).groupHolds almost (.die 0 32) = true ∧ ((dieCounted { bytes := 64 }).barrier (.die 0 32)).unset = false ∧
    (tget [] ([] : Tbl (List (Nat × Nat))) 0) = [] := by decide
theorem test_die_barrier_counts : ((after (.reduceContribution 9) (dieCounted { bytes := 64 })).barrier (.die 0 32)).counted = 32 := by decide +kernel

/-! Ports that are off, pairs that a post still finds, and stores of a run on their way. -/

/-- A close of queue pair 5 by task 0, and a post to it of the same nanosecond by task 1. -/
def closingWithPost (q : NeQp) : State :=
  (netWaits (.neQpClose {} 3 1) q).modTask 0 1 fun x => { x with st := .parked, regs := [(1, 5#64)], wait := some { what := .answer, instr := .nePost {} 3 1 4, len := 4 } }
theorem wit_post_here : (closingWithPost qp).postHere 0 5 0 = true ∧ (netWaits (.neQpClose {} 3 1) qp).postHere 0 5 0 = false ∧ (closingWithPost { qp with st := .error }).tornWeave 1 = false ∧
    (closingWithPost { qp with st := .error }).neAfter 0 0 { what := .answer, instr := .neQpClose {} 3 1, len := 4 } = false := by decide
theorem test_close_waits_for_the_post : ((after (.neCommandAnswer 0 0) (closingWithPost { qp with st := .error })).net 0).qps.length = 1 ∧
    (after (.neCommandAnswer 0 1) (closingWithPost { qp with st := .error })).reg 0 1 3 = 0#64 := by decide

/-- Every edge port of die 0's engine is off. -/
def unplugged (s : State) : State := { s with edge := (span 0 16).map fun n => (n, 0xFE) }
theorem wit_ports : (unplugged (netted job qp)).portsOff 0 = true ∧ (netted job qp).portsOff 0 = false ∧ (netted job qp).portOn 1 0 = true ∧ (unplugged (netted job qp)).portOn 1 0 = false := by decide
theorem test_nothing_arrives : (after (.nePacketReceive 0 (packet 1 [8#8])) (unplugged (netted job qp))).homeByte 0x10040 = 0#8 := by decide +kernel
theorem test_nothing_leaves : ((after (.nePacketTransmit 0 5 1) (unplugged (netted job { qp with ents := [entry [{ psn := 1, off := 0, len := 4 }] 1] }))).net 0).sent = [] := by decide +kernel

theorem wit_read_listed : (listing (netted job qp) ((0x10000 + 0x40) / 128)).errorLine (0x10040 / 128) = true ∧ (netted job qp).errorLine (0x10040 / 128) = false ∧ (packet 2 [1#8]).roff + (packet 2 [1#8]).len ≤ qp.len := by decide
theorem test_read_of_a_listed_line : (tget qp ((after (.nePacketReceive 0 (packet 2 [1#8])) (listing (netted job qp) (0x10040 / 128))).net 0).qps 5).errc = 5 := by decide +kernel
theorem wit_entry_clean : (∀ k ∈ sectorsOf 0x10000 64, ({ netted job qp with homes := [(0x800, { bytes := bytesOfNum 32 0 }), (0x801, { bytes := bytesOfNum 32 0 })] } : State).cleanCopy k = true) ∧
    (∃ k ∈ sectorsOf 0x10000 64, (netted job qp).cleanCopy k = false) ∧ qp.base + qp.sring + 64 * (qp.cidx % 2 ^ qp.slog2) = 0x10000 := by decide
theorem test_pending_entry_sets_its_counter : (((after (.neEntryStart 0 5 false) (entryState [0xFF + 2 ^ 18 + 2 ^ 20 * 9, 0, 0, 4, 0, 0, 0, 0] qp)).net 0).ctr 9).err = true := by decide +kernel

/-- A store of a run to its region, of 8 bytes. -/
def ownStore (o v : Nat) : SmEmit := { id := 1, run := 0, kind := .region, pa := 0x10000 + o, data := bytesOfNum 8 v }
theorem wit_sm_going : (∃ e ∈ ({ smx with out := [ownStore 0 5] } : SmCtx).out, e.kind = .region) ∧ ¬ (smx.st = .running ∨ ∃ e ∈ smx.out, e.kind = .region) := by decide
theorem test_sm_wait_try_goes_on : (after (.samplerAnswer 0 0) (smWaits (.smWaitTry {} 6 1) { smx with ended := some (1, 1, 0), out := [ownStore 0 5] })).reg 0 0 6 = 0xFF#64 := by decide
theorem test_sm_close_keeps_stores : ((after (.samplerAnswer 0 0) (smWaits (.smCtxClose {} 6 1) { smx with out := [ownStore 0 5] })).smp 0).ctxs.map (fun e => (e.1, e.2.out.length)) =
    [(4096 + (smWaits (.smCtxClose {} 6 1) smx).nextId, 1)] := by decide
theorem wit_sm_cancel_up : (serving 0 (sampled job { smx with st := .running })).hostUp (0 / 2) = true ∧ (sampled job { smx with st := .running }).hostUp (0 / 2) = false := by decide
theorem test_smcancel : ((after (.smcancelWrite 0 4095#64) (serving 0 (sampled job { smx with st := .running }))).smCtx 0 4095).map (fun x => x.cpend) = some true := by decide

theorem wit_own_store : [ownStore 0x40 1, ownStore 0x80 2, { id := 2, run := 0, kind := .notify }] = [ownStore 0x40 1] ++ ownStore 0x80 2 :: [{ id := 2, run := 0, kind := .notify }] ∧
    (ownStore 0x80 2).pa = smx.base + 0x80 ∧ (ownStore 0x80 2).data.length = 8 ∧ (∀ f ∈ ([{ id := 2, run := 0, kind := .notify }] : List SmEmit), f.kind = .notify) ∧
    (∃ e ∈ ({ smx with out := [ownStore 0x80 2] } : SmCtx).out, e.kind ≠ .notify ∧ e.pa / 2 ^ 41 = smx.base / 2 ^ 41) := by decide
theorem test_sm_ld_own_store : smGives (.smLd false 16 1 0) { smx with out := [ownStore 0x80 2] } 1 = some 2#64 := by decide +kernel
theorem test_sm_st_behind_its_stores : ((after (.smSt false 16 0 2) (smRun { smx with regs := [(2, 7#64)], out := [ownStore 0x80 2] })).smCtx 0 4095).map (fun x => x.out.map fun e => e.data.take 1) =
    some [[2#8], [7#8]] := by decide +kernel
theorem wit_sm_listed : (listing (smRun smx) 512).errorLine ((smx.base + 0) / 128) = true ∧ (smx.base + 0) / 128 ≤ 512 ∧ 512 ≤ (smx.base + 0 + 8 - 1) / 128 := by decide
theorem test_sm_ld_of_a_listed_line : ((after (.smLd false 0 1 0) (listing (smRun smx) 512)).smCtx 0 4095).map (fun x => x.last) = some 10 := by decide
/-- A check pass with a cancel, before the word of opcode op. -/
def checking (op : Nat) : SmCtx := { smx with cpend := true, check := true, prog := [2 ^ 26 * op] }
theorem wit_sm_boundary : (∀ op ∈ [0x11, 0x16], (checking op).prog.getD 0 0 / 2 ^ 26 % 2 ^ 6 = op ∧ (checking op).pc < (checking op).prog.length) ∧
    ¬ ((checking 1).prog.getD 0 0 / 2 ^ 26 % 2 ^ 6 = 0x11 ∨ (checking 1).prog.getD 0 0 / 2 ^ 26 % 2 ^ 6 = 0x16) ∧ (checking 1).stopped = false ∧ (smRun (checking 1)).weaveGone 1 = false := by decide
theorem test_sm_check_pass_cancelled : ((after (.smCancelEffect 0 4095) (smRun (checking 0x11))).smCtx 0 4095).map (fun x => x.last) = some 1 ∧
    ((after (.smCancelEffect 0 4095) (smRun (checking 1))).smCtx 0 4095).map (fun x => x.st) = some .running := by decide
theorem wit_run_num : ∀ e ∈ [({ id := 2, run := 0, kind := .notify } : SmEmit)], e.kind = .notify := by decide

/-! Debug words of one cycle, held answers, packets of other dies, and weaves that yield. -/

/-- A weave with debug and system privilege off, whose own CTX is not halted. -/
def plainWeave : State := { ctl [(1, 0#64)] with weaves := [(1, { loaderWeave with sys := false })] }
theorem wit_debug_names_itself : plainWeave.targetSlot 0 0#64 = none ∧ 0 / 2 ^ 48 = (plainWeave.core 0).ctxno ∧ plainWeave.slotOf 0 = none := by decide
theorem test_debug_names_itself : ((after (.dbgClr {} 3 1) plainWeave).task 0 0).st = .parked := by decide
/-- Task 0 resumes its weave, and task 1 steps it in the same cycle. -/
def resumeAndStep : State :=
  { asked (.dbgResume {} 3 1 2) (own 0 0) 1#64 settledSlot true {} with time := 1 }.modTask 0 1 fun x =>
    { x with st := .parked, regs := [(1, own 2 1)], wait := some { what := .answer, instr := .dbgStep {} 3 1 2, len := 4 } }
theorem wit_resume_order : resumeAndStep.resumeWaits 0 0 0 0 = true ∧ ({ asked (.dbgResume {} 3 1 2) (own 0 0) 1#64 settledSlot true {} with time := 1 } : State).resumeWaits 0 0 0 0 = false ∧
    resumeAndStep.isFrozen 0 = false ∧ resumeAndStep.stopped 0 = false ∧ resumeAndStep.targetSlot 0 (resumeAndStep.reg 0 0 1) = some 0 := by decide
theorem test_resume_waits_for_the_step : (tget {} (after (.haltControllerAnswer 0 0) resumeAndStep).hslots 0).resuming = false := by decide
/-- A clear by a core that is frozen. -/
def frozenClear : State := (asked (.dbgClr {} 3 1) (own 0 0) 0#64 { settledSlot with panel := { valid := true } } true {}).modCore 0 fun k => { k with frozen := some (9, 7) }
theorem wit_frozen_answer : frozenClear.isFrozen 0 = true ∧ frozenClear.stopped 0 = false ∧ frozenClear.stepping 0 = false ∧ (frozenClear.waitOf 0 0).map (fun w => (w.held, w.late)) = some (none, false) ∧
    frozenClear.targetSlot 0 (frozenClear.reg 0 0 1) = some 0 := by decide
theorem test_frozen_answer_is_held : ((after (.haltControllerAnswer 0 0) frozenClear).task 0 0).wait.map (fun w => w.held.isSome) = some true ∧
    (tget {} (after (.haltControllerAnswer 0 0) frozenClear).hslots 0).panel.valid = false := by decide
/-- A task of core 1 holds an answer, or waits without one. -/
def heldTask (rs : Option (List (Nat × Word))) : Task := { st := .parked, wait := some { what := .answer, instr := .dbgClr {} 3 1, len := 4, held := rs } }
theorem wit_step_delivers : ((debugged [] settledSlot true (heldTask (some [(3, 7#64)]))).core 1).heldReply 0 = none ∧ ((debugged [] settledSlot true (heldTask (some [(3, 7#64)]))).task 1 0).st = .parked ∧
    (heldTask none).wait.map (fun w => w.held) = some none := by decide
theorem test_step_delivers : ((after (.hcmdStep 0) (posted 2 0x8001#64 0#64 (debugged [] settledSlot true (heldTask (some [(3, 7#64)]))))).task 1 0).st = .ready ∧
    (after (.hcmdStep 0) (posted 2 0x8001#64 0#64 (debugged [] settledSlot true (heldTask (some [(3, 7#64)]))))).reg 1 0 3 = 7#64 := by decide
theorem wit_step_freezes : (debugged [] settledSlot true {}).stepFreezes 1 = false ∧ late.stepFreezes 0 = true := by decide
theorem test_halt_through_the_block : (tget {} (after (.hcmdHalt 0) (posted 1 0#64 0#64 { debugged [] {} false {} with time := 5 })).hslots 0).panel.time = 0 := by decide

/-- A packet of a queue that was mapped on die 1 waits; slot 2 of die 0 has its next one. -/
def elsewhere (st : PktSt) : State :=
  { job with disps := [(0, { slots := [(2, { mappedSlot with rdidx := 1, wridx := 2 })] }), (1, { pkts := [{ dispPacket (packetWords 3 0 0 0 0 0) st with die := 1 }] })] }
theorem wit_take_elsewhere : ∃ p ∈ (elsewhere .waiting).disps.flatMap (fun e => e.2.pkts), p.lane = false ∧ p.desc = mappedSlot.desc ∧ (p.idx + 1) % 2 ^ 32 = 1 ∧ p.st = .waiting :=
  ⟨{ dispPacket (packetWords 3 0 0 0 0 0) .waiting with die := 1 }, by decide +kernel, by decide +kernel⟩
theorem test_take_after_another_die : ((after (.packetTake 0 2 false) (elsewhere .waiting)).disp 0).pkts = [] ∧ ((after (.packetTake 0 2 false) (elsewhere .started)).disp 0).pkts.map (fun p => p.idx) = [1] := by
  decide +kernel
theorem test_unmet_is_read_again : ((after (.dependenceRecheck 0 9 false) (waitsAt (dispPacket (depends 1 6) .waiting) { five with time := 7 })).pkt 0 9).map (fun p => p.readBy) = some 1007 := by decide +kernel
theorem wit_dependence_error : (dispPacket (depends 1 5) .waiting).unmet.head? = some 0x50000 ∧ (∃ k ∈ sectorsOf 0x50000 8, (waitsAt (dispPacket (depends 1 5) .waiting) five).cleanCopy k = false) ∧
    (∀ k ∈ sectorsOf 0x6000 64, ({ graphAt (nodeWords 1 0 1 2 0 0x7000) 0 with homes := [(0x300, { bytes := bytesOfNum 32 0 }), (0x301, { bytes := bytesOfNum 32 0 })] } : State).cleanCopy k = true) ∧
    (∃ k ∈ sectorsOf 0x6000 64, (graphAt (nodeWords 1 0 1 2 0 0x7000) 0).cleanCopy k = false) := by decide +kernel
theorem test_dependence_error : ((after (.dependenceRecheck 0 9 true) (waitsAt (dispPacket (depends 1 5) .waiting) five)).pkt 0 9).map (fun p => p.status) = some 11 := by decide +kernel

/-- A run of weave 1 has a store on its way. -/
def owing (s : State) : State := sampled s { smx with out := [{ id := 1, run := 0, kind := .store, pa := 0x30000, data := [1#8] }] }
theorem wit_runs_owed : (owing (teardown 7 id)).runsOwed 1 = true ∧ (teardown 7 id).runsOwed 1 = false := by decide +kernel
theorem test_teardown_waits_for_a_run : (after (.weaveTeardown 1) (owing (teardown 7 id))).weaves.length = 1 := by decide +kernel
theorem wit_yields : ({ saved with weaves := [(1, { savedWeave with yields := some 2 }), (2, rival 0)] } : State).yieldsStill { savedWeave with yields := some 2 } = true ∧ saved.yieldsStill savedWeave = false ∧
    ({ saved with weaves := [(1, { savedWeave with yields := some 2 }), (2, { rival 0 with st := .resident })] } : State).yieldsStill { savedWeave with yields := some 2 } = false := by decide
theorem test_does_not_resume_before_its_rival : (tfind (after (.weaveResume 1) { saved with weaves := [(1, { savedWeave with yields := some 2 }), (2, rival 0)] }).weaves 1).map (fun w => w.st) = some .saved := by
  decide +kernel
theorem wit_quantum_of_a_saved_rival : (rival 0).st = .saved ∧ (∃ j ∈ (rival 0).live, (contested (fun w => { w with quantum := 2000000 }) 0 1).jobHere 1 j.2 = true) ∧
    (contested (fun w => { w with quantum := 2000000 }) 0 1).placeable (rival 0) = false ∧ (1 : Nat) ≠ 2 := by decide +kernel
theorem test_quantum_yields : (tfind (after (.quantumExpiry 1 2) (contested (fun w => { w with quantum := 2000000 }) 0 1)).weaves 1).map (fun w => w.yields) = some (some 2) := by decide +kernel
theorem wit_not_halted_weaves : (living (fun w => { w with st := .stopping, stopTime := 200000 }) 1).weaveHalted 1 = false ∧ (bothFrozen settledSlot {}).weaveHalted 1 = true := by decide +kernel

/-- The flow throttles the panel. -/
def throttled (s : State) : State := { s with flowThrottle := true }
theorem wit_slowed : (throttled (booted {})).flowThrottle = true ∧ (throttled (booted {})).lost.testBit 0 = false ∧ ({ booted {} with lost := 1 } : State).lost.testBit 0 = true := by decide
theorem test_starts_slowed : ((after (.powerOn 0 true true true) (throttled (booted {}))).serv 1).step = 5 := by decide +kernel

/-- The homes hold every line that slice 0 of die 0 has room for. -/
def crammed : State := { booted ready with homes := (span 0 16384).map fun k => (4 * 2 ^ 7 * k, {}) }
set_option maxRecDepth 100000 in
theorem wit_step_room : (afterTurn (.event (.hostMemoryAccess 0 true (2 ^ 14 * 16384) [1#8] false)) crammed).overfull = true ∧ crammed.overfull = false := by decide +kernel

end Sys2Proof.Tests
end

section
/-! SUPPORT. What is kept: memory and the other cores through a run of core-local changes, and what a trap that is taken does. -/

namespace Sys2Proof.Machine

open Sys2Proof

/-! Memory that is kept. -/

@[simp] theorem bytesKept_refl (s : State) : bytesKept s s := ⟨fun _ => rfl, fun _ => rfl, fun _ _ => ⟨rfl, rfl⟩, fun _ _ => ⟨rfl, rfl⟩⟩

theorem bytesKept_trans {s u v : State} (h : bytesKept s u) (g : bytesKept u v) : bytesKept s v := by
  obtain ⟨hh, hb, hc, hn⟩ := h
  obtain ⟨gh, gb, gc, gn⟩ := g
  exact ⟨fun a => (gh a).trans (hh a), fun a => (gb a).trans (hb a),
    fun e a => ⟨(gc e a).1.trans (hc e a).1, (gc e a).2.trans (hc e a).2⟩,
    fun e a => ⟨(gn e a).1.trans (hn e a).1, (gn e a).2.trans (hn e a).2⟩⟩

/-- A core has the local stores and the L1 of another. -/
def Core.storesAs (k k' : Core) : Prop := k'.scratch = k.scratch ∧ k'.opmem = k.opmem ∧ k'.l1 = k.l1 ∧ k'.fused = k.fused

/-- A change of one core that leaves its stores alone touches no memory. -/
theorem bytesKept_modCore (s : State) (c : Nat) (f : Core → Core) (h : (s.core c).storesAs (f (s.core c))) : bytesKept s (s.modCore c f) :=
  modCore_bytes s c f h.1 h.2.1 h.2.2.1 h.2.2.2

/-- A change of the fields that hold no memory touches none. -/
theorem bytesKept_of_parts (s u : State) (hb : u.banks = s.banks) (hh : u.homes = s.homes) (hc : u.cores = s.cores) : bytesKept s u :=
  bytesKept_of s u hb hh fun e => by simp [State.core, hc]

theorem bytesKept_modData (s : State) (c : Nat) (f : DataSide → DataSide) : bytesKept s (s.modData c f) :=
  bytesKept_modCore _ _ _ ⟨rfl, rfl, rfl, rfl⟩

/-! What lies outside a core. -/

@[simp] theorem onlyCore_refl (s : State) (c : Nat) : onlyCore s c s := rfl

theorem onlyCore_trans {s u v : State} {c : Nat} (h : onlyCore s c u) (g : onlyCore u c v) : onlyCore s c v := Eq.trans g h

@[simp] theorem onlyCore_modCore (s : State) (c : Nat) (f : Core → Core) : onlyCore s c (s.modCore c f) := by simp [onlyCore]

@[simp] theorem onlyCore_modTask (s : State) (c t : Nat) (f : Task → Task) : onlyCore s c (s.modTask c t f) := onlyCore_modCore ..

@[simp] theorem onlyCore_modData (s : State) (c : Nat) (f : DataSide → DataSide) : onlyCore s c (s.modData c f) := onlyCore_modCore ..

/-- The core's data side after a change of it. -/
@[simp] theorem State.modData_core_same (s : State) (c : Nat) (f : DataSide → DataSide) :
    (s.modData c f).core c = { s.core c with data := f (s.core c).data } := by simp [State.modData]

@[simp] theorem State.modTask_data (s : State) (c t : Nat) (f : Task → Task) : ((s.modTask c t f).core c).data = (s.core c).data := by
  simp

theorem State.modTask_task_other (s : State) (c t u : Nat) (f : Task → Task) (h : u ≠ t) : (s.modTask c t f).task c u = s.task c u := by
  simp [State.modTask_task, h]

/-- A change of a core that leaves its tasks alone. -/
theorem State.task_modCore_of_tasks (s : State) (c e t : Nat) (f : Core → Core) (h : (f (s.core c)).tasks = (s.core c).tasks) :
    (s.modCore c f).task e t = s.task e t := by
  by_cases he : e = c
  · subst he; simp [State.task, Core.task, h]
  · simp [State.task, State.modCore_core_other _ _ _ _ he]

@[simp] theorem State.modData_task (s : State) (c e t : Nat) (f : DataSide → DataSide) : (s.modData c f).task e t = s.task e t :=
  State.task_modCore_of_tasks _ _ _ _ _ rfl

@[simp] theorem State.modData_reg (s : State) (c e t r : Nat) (f : DataSide → DataSide) : (s.modData c f).reg e t r = s.reg e t r := by
  simp [State.reg]

/-! A task that goes on (R45). -/

@[simp] theorem State.goOn_task_same (s : State) (c t len : Nat) : (s.goOn c t len).task c t = (s.task c t).next len := by simp [State.goOn]

theorem State.goOn_task_other (s : State) (c t u len : Nat) (h : u ≠ t) : (s.goOn c t len).task c u = s.task c u :=
  State.modTask_task_other _ _ _ _ _ h

@[simp] theorem State.goOn_reg_same (s : State) (c t r len : Nat) : (s.goOn c t len).reg c t r = s.reg c t r := by simp [State.reg]

theorem State.goOn_core_same (s : State) (c t len : Nat) :
    (s.goOn c t len).core c = (s.core c).setTask t ((s.task c t).next len) := by simp [State.goOn, State.task]

@[simp] theorem State.goOn_data (s : State) (c t len : Nat) : ((s.goOn c t len).core c).data = (s.core c).data := by
  simp [State.goOn_core_same]

theorem State.goOn_core_other (s : State) (c t e len : Nat) (h : e ≠ c) : (s.goOn c t len).core e = s.core e :=
  State.modTask_core_other _ _ _ _ _ h

theorem State.goOn_bytes (s : State) (c t len : Nat) : bytesKept s (s.goOn c t len) := modTask_bytes ..

@[simp] theorem onlyCore_goOn (s : State) (c t len : Nat) : onlyCore s c (s.goOn c t len) := onlyCore_modTask ..

/-! A task that parks (R18). -/

@[simp] theorem State.park_task_same (s : State) (c t : Nat) (w : WaitFor) (i : Instr) (len : Nat) :
    (s.park c t w i len).task c t = { s.task c t with st := .parked, wait := some { what := w, instr := i, len, since := (s.core c).cycle, parkedAt := s.time } } := by
  simp [State.park]

theorem State.park_task_other (s : State) (c t u : Nat) (w : WaitFor) (i : Instr) (len : Nat) (h : u ≠ t) :
    (s.park c t w i len).task c u = s.task c u := State.modTask_task_other _ _ _ _ _ h

@[simp] theorem State.park_reg_same (s : State) (c t r : Nat) (w : WaitFor) (i : Instr) (len : Nat) :
    (s.park c t w i len).reg c t r = s.reg c t r := by simp [State.reg, Task.reg]

@[simp] theorem State.park_data (s : State) (c t : Nat) (w : WaitFor) (i : Instr) (len : Nat) :
    ((s.park c t w i len).core c).data = (s.core c).data := State.modTask_data ..

theorem State.park_bytes (s : State) (c t : Nat) (w : WaitFor) (i : Instr) (len : Nat) : bytesKept s (s.park c t w i len) := modTask_bytes ..

@[simp] theorem onlyCore_park (s : State) (c t : Nat) (w : WaitFor) (i : Instr) (len : Nat) : onlyCore s c (s.park c t w i len) :=
  onlyCore_modTask ..

/-! Folds over the state, and the acquire of R131. -/

/-- What every step of a fold keeps, the fold keeps. -/
theorem foldl_keeps {α β γ : Type} (p : β → γ) (f : β → α → β) (h : ∀ b a, p (f b a) = p b) (l : List α) (b : β) :
    p (l.foldl f b) = p b := by
  induction l generalizing b with
  | nil => rfl
  | cons a l ih => exact (ih _).trans (h b a)

/-- A state without its cores. -/
def State.outer (s : State) : State := { s with cores := [] }

/-- A core without its L1. -/
def Core.sansL1 (k : Core) : Core := { k with l1 := [] }

/-- An acquire changes nothing but cores. -/
theorem State.acquire_outer (s : State) (c scope : Nat) : (s.acquire c scope).outer = s.outer := by
  unfold State.acquire
  refine foldl_keeps State.outer _ (fun _ _ => ?_) _ s
  rfl

/-- An acquire changes nothing of a core but its L1. -/
theorem State.acquire_core (s : State) (c scope e : Nat) : ((s.acquire c scope).core e).sansL1 = (s.core e).sansL1 := by
  unfold State.acquire
  refine foldl_keeps (fun u : State => (u.core e).sansL1) _ (fun u h => ?_) _ s
  by_cases he : e = h
  · subst he; simp [Core.sansL1]
  · simp only [State.modCore_core_other _ _ _ _ he]

@[simp] theorem State.acquire_task (s : State) (c scope e t : Nat) : (s.acquire c scope).task e t = s.task e t := by
  have h := congrArg (fun k : Core => k.task t) (State.acquire_core s c scope e)
  exact h

@[simp] theorem State.acquire_events (s : State) (c scope e : Nat) : ((s.acquire c scope).core e).events = (s.core e).events := by
  have h := congrArg Core.events (State.acquire_core s c scope e)
  exact h

@[simp] theorem State.acquire_reg (s : State) (c scope e t r : Nat) : (s.acquire c scope).reg e t r = s.reg e t r := by simp [State.reg]

@[simp] theorem State.acquire_barriers (s : State) (c scope : Nat) : (s.acquire c scope).barriers = s.barriers := by
  have h := congrArg State.barriers (State.acquire_outer s c scope)
  exact h

/-! Traps that are taken (R226). -/

/-- The TCAUSE of a precise trap of a task. -/
theorem causeWord_precise (t code : Nat) (h : code < 256) : causeWord 0 false t code = BitVec.ofNat 64 (2 ^ 8 * (t % 8) + code) := by
  simp [causeWord, word, bit, Nat.mod_eq_of_lt h]

/-- A task that enters its handler. -/
theorem entered_enter (s : State) (c t code : Nat) (tpc tval : Word) (hc : code < 256) :
    entered s c t code tpc tval
      (s.modTask c t fun x => x.enter (s.core c).tvec (causeWord 0 false t code) tpc tval (s.core c).cycle) := by
  refine ⟨?_, ?_, ?_, ?_, ?_, ?_, ?_, fun r => ?_, ?_, ?_, ?_, ⟨onlyCore_modTask .., ?_⟩, modTask_bytes ..⟩
  · simp [Task.enter, causeWord_precise t code hc]
  · simp [Task.enter]
  · simp [Task.enter]
  · simp [Task.enter]
  · simp [Task.enter]
  · simp [Task.enter]
  · simp [Task.enter]
  · simp [State.reg, Task.enter, Task.reg]
  · simp [Task.enter]
  · simp [Task.enter]
  · simp
  · simp

/-- A trap with a handler at hand is taken at once, with TPC as given. -/
theorem trapAt_entered (s : State) (c t code : Nat) (tpc tval at_ : Word) (hc : code < 256) (h : handles s c t) :
    entered s c t code tpc tval (s.trapAt c t code tpc tval at_) := by
  obtain ⟨htv, htin, hdbg⟩ := h
  have htin' : ((s.core c).task t).tin = false := htin
  have hshape : s.trapAt c t code tpc tval at_ =
      s.modTask c t fun x => x.enter (s.core c).tvec (causeWord 0 false t code) tpc tval (s.core c).cycle := by
    simp [State.trapAt, hdbg, State.enterTrap, htv, htin']
  rw [hshape]
  exact entered_enter s c t code tpc tval hc

/-- A precise trap with a handler at hand is taken at once. -/
theorem trap_entered (s : State) (c t code : Nat) (tval : Word) (hc : code < 256) (h : handles s c t) :
    entered s c t code (s.task c t).pc tval (s.trap c t code tval) := trapAt_entered s c t code _ tval _ hc h

/-- An instruction of a task that traps with a handler at hand. -/
theorem answers_trap {i : Instr} {s : State} {c t code : Nat} {tval : Word} (he : exec i s = .next (s.trap c t code tval))
    (hc : code < 256) (h : handles s c t) : answers i s (entered s c t code (s.task c t).pc tval) :=
  ⟨_, he, trap_entered s c t code tval hc h⟩

end Sys2Proof.Machine
end

section
/-! `go` (R14, R21): the held strands start together and a snapshot is kept, or the task traps. -/

namespace Sys2Proof.Machine

open Sys2Proof

/-- A core that takes snapshot m with no completion withheld (R36): entries popped before it are freed, and transfers that issued before its cycle add
theirs when they complete (R238). -/
def Core.snapped (k : Core) (m : Snap) : Core :=
  let old (n : Nat) : Bool := (k.before.map Snap.rewound).isNone || n != k.data.counted
  { k with before := k.before.map Snap.rewound,
           data := { k.data with snap := some m.rewound, vec := k.data.vec.free m.vec.popped, mat := k.data.mat.free m.mat.popped,
                                 cpy := k.data.cpy.free m.cpy.popped, withheld := [],
                                 xfers := k.data.xfers.map fun x => { x with late := x.late && !old x.cycle } } }

theorem State.takeSnap_of_none_withheld (s : State) (c : Nat) (m : Snap) (h : (s.core c).data.withheld = []) :
    s.takeSnap c m = s.modCore c fun k => k.snapped m := by
  simp [State.takeSnap, State.snapPoint, State.modData, Core.snapped, State.modCore, h]

@[simp] theorem Core.snapped_tasks (k : Core) (m : Snap) : (k.snapped m).tasks = k.tasks := rfl

@[simp] theorem Strand.free_pc (x : Strand) (n : Nat) : (x.free n).pc = x.pc := rfl
@[simp] theorem Strand.free_named (x : Strand) (n : Nat) : (x.free n).named = x.named := rfl
@[simp] theorem Strand.free_held (x : Strand) (n : Nat) : (x.free n).held = x.held := rfl
@[simp] theorem Strand.free_base (x : Strand) (n : Nat) : (x.free n).base = x.base := rfl
@[simp] theorem Strand.free_atRegion (x : Strand) (n : Nat) : (x.free n).atRegion = x.atRegion := rfl

/-- What a snapshot leaves of strand e. -/
theorem Core.snapped_strand (k : Core) (m : Snap) (e : Nat) : ∃ n, (k.snapped m).data.strand e = (k.data.strand e).free n := by
  unfold DataSide.strand
  split <;> exact ⟨_, rfl⟩

/-- A core of which `go` releases the strands. -/
def Core.released (k : Core) : Core :=
  { k with before := none, data :=
    { k.data with vec := releaseStrand k.data.counted k.data.vec, mat := releaseStrand k.data.counted k.data.mat,
                  cpy := releaseStrand k.data.counted k.data.cpy, frozen := false, watch := 0, timeoutRaised := false, started := true } }

@[simp] theorem Core.released_tasks (k : Core) : k.released.tasks = k.tasks := rfl

theorem Core.released_strand (k : Core) (e : Nat) : k.released.data.strand e = releaseStrand k.data.counted (k.data.strand e) := by
  unfold DataSide.strand
  split <;> rfl

/-- A `go` with the strands held, the rings in order and no completion withheld. -/
theorem exec_go_of_ready (h : CHdr) (s : State) (c : Nat) (hs : s.cur = .task c 0) (hheld : (s.core c).data.allHeld = true)
    (hring : failingRing (s.core c) = none) (hw : (s.core c).data.withheld = []) :
    exec (.go h) s = .next ((s.modCore c fun k => k.released.snapped k.released.data.image).goOn c 0 (ctlLen h 1)) := by
  simp only [exec_go, execGo, asTask_next _ c 0 _ hs, hheld, hring]
  simp only [ne_eq, not_true_eq_false, Bool.true_eq_false, or_self, if_false]
  rw [State.takeSnap_of_none_withheld _ _ _ (by simpa using hw), State.modCore_modCore, State.modCore_core_same]
  rfl

/-- Settles O11: the cases of `go` are its guards, and a guard that fails is a trap that is taken. -/
theorem goReleasesTheHeldStrandsOrTraps : Obligations.GoReleasesTheHeldStrandsOrTraps := by
  unfold Obligations.GoReleasesTheHeldStrandsOrTraps
  intro h s c t hs
  refine ⟨?_, ?_, ?_⟩
  · rintro rfl hheld hring hw
    refine ⟨_, exec_go_of_ready h s c hs hheld hring hw, ?_⟩
    have strandOf (e : Nat) : ∃ n, ((s.modCore c fun k => k.released.snapped k.released.data.image).goOn c 0 (ctlLen h 1)).strand c e =
        (releaseStrand (s.core c).data.counted (s.strand c e)).free n := by
      obtain ⟨n, hn⟩ := Core.snapped_strand (s.core c).released (s.core c).released.data.image e
      exact ⟨n, by simp [State.strand, State.goOn, hn, Core.released_strand]⟩
    have htask : (s.modCore c fun k => k.released.snapped k.released.data.image).task c 0 = s.task c 0 :=
      State.task_modCore_of_tasks _ _ _ _ _ rfl
    refine ⟨fun e _ _ hn => ?_, fun e _ _ => ?_, ?_, ?_, ?_, ?_, ?_, ?_, fun r => ?_, ?_, ?_⟩
    · obtain ⟨n, he⟩ := strandOf e
      simp [he, releaseStrand, hn]
    · obtain ⟨n, he⟩ := strandOf e
      rw [he]
      unfold releaseStrand
      split <;> simp
    · simp [Core.snapped]
    · simp [Core.snapped, Core.released]
    · simp [Core.snapped, Core.released]
    · simp [Core.snapped, Core.released]
    · simp [Core.snapped, Core.released]
    · simp [htask]
    · simp [State.reg, htask]
    · exact onlyCore_trans (onlyCore_modCore ..) (onlyCore_goOn ..)
    · exact bytesKept_trans (bytesKept_modCore _ _ _ ⟨rfl, rfl, rfl, rfl⟩) (State.goOn_bytes ..)
  · intro hbad hh
    exact answers_trap (by simp [execGo, asTask_next _ c t _ hs, hbad]) (by decide) hh
  · rintro n rfl hheld hring hh
    exact answers_trap (by simp [execGo, asTask_next _ c 0 _ hs, hheld, hring, word]) (by decide) hh

end Sys2Proof.Machine
end

section
/-! `rim`, `jend`, `restart` and the rendezvous they wait for (R15, R16, R35, R36, R214, R220). -/

namespace Sys2Proof.Machine

open Sys2Proof

/-- A strand that has been stopped does not run. -/
theorem stopStrand_not_running (x : Strand) : (stopStrand x).running = false := by
  cases hn : x.named <;> simp [stopStrand, Strand.running, hn]

/-- The data side after its strands have stopped (R69). -/
def DataSide.halted (d : DataSide) : DataSide :=
  { d with vec := stopStrand d.vec, mat := stopStrand d.mat, cpy := stopStrand d.cpy, frozen := false }

theorem DataSide.halted_not_running (d : DataSide) (e : Nat) : (d.halted.strand e).running = false := by
  unfold DataSide.strand
  split <;> exact stopStrand_not_running _

/-- What a `restart` does to the data side: the strands stop where one of them runs (R220). -/
def DataSide.restarted (d : DataSide) : DataSide :=
  if d.vec.running || d.mat.running || d.cpy.running then d.halted else d

theorem DataSide.restarted_not_running (d : DataSide) (e : Nat) : (d.restarted.strand e).running = false := by
  unfold DataSide.restarted
  split
  · exact d.halted_not_running e
  · next h =>
    simp only [Bool.or_eq_true, not_or, Bool.not_eq_true] at h
    unfold DataSide.strand
    split <;> simp [h]

@[simp] theorem DataSide.restarted_snap (d : DataSide) : d.restarted.snap = d.snap := by unfold DataSide.restarted; split <;> rfl
@[simp] theorem DataSide.restarted_v (d : DataSide) : d.restarted.v = d.v := by unfold DataSide.restarted; split <;> rfl

/-- What a task's wait is after a change of it. -/
theorem State.modWait_task_same (s : State) (c t : Nat) (f : Wait → Wait) :
    (s.modWait c t f).task c t = { s.task c t with wait := (s.task c t).wait.map f } := by
  unfold State.modWait
  rw [State.modTask_task_same]
  cases hw : (s.task c t).wait <;> simp
  rw [← hw]

/-- Task t of core c waits for w at its word, in an instruction of len bytes; nothing else differs but core c. -/
def parkedAt (s : State) (c t : Nat) (w : WaitFor) (len : Nat) (u : State) : Prop :=
  (u.task c t).st = .parked ∧ (u.task c t).wait.map (fun x => (x.what, x.len)) = some (w, len) ∧ (u.task c t).pc = (s.task c t).pc ∧
  (∀ r, u.reg c t r = s.reg c t r) ∧ (∀ t', t' ≠ t → u.task c t' = s.task c t') ∧ onlyCore s c u ∧ bytesKept s u

theorem parkedAt_park (s : State) (c t : Nat) (w : WaitFor) (i : Instr) (len : Nat) : parkedAt s c t w len (s.park c t w i len) :=
  ⟨by simp, by simp, by simp, fun r => by simp, fun t' h => State.park_task_other _ _ _ _ _ _ _ h, by simp, State.park_bytes ..⟩

/-- The wait of a parked task may change in what else it holds. -/
theorem parkedAt_modWait {s u : State} {c t len : Nat} {w : WaitFor} (f : Wait → Wait) (hf : ∀ x, (f x).what = x.what ∧ (f x).len = x.len)
    (h : parkedAt s c t w len u) : parkedAt s c t w len (u.modWait c t f) := by
  obtain ⟨hst, hwait, hpc, hreg, hother, honly, hbytes⟩ := h
  refine ⟨?_, ?_, ?_, fun r => ?_, fun t' ht => ?_, onlyCore_trans honly (onlyCore_modTask ..), bytesKept_trans hbytes (modTask_bytes ..)⟩
  · simpa [State.modWait_task_same] using hst
  · simpa [State.modWait_task_same, Function.comp_def, hf] using hwait
  · simpa [State.modWait_task_same] using hpc
  · rw [← hreg r]; simp [State.reg, State.modWait_task_same, Task.reg]
  · rw [← hother t' ht]; exact State.modTask_task_other _ _ _ _ _ ht

/-- A task may park after a change of its core that leaves the tasks and memory alone. -/
theorem parkedAt_of_tasks {s v u : State} {c t len : Nat} {w : WaitFor} (ht : ∀ t, v.task c t = s.task c t) (ho : onlyCore s c v)
    (hb : bytesKept s v) (h : parkedAt v c t w len u) : parkedAt s c t w len u := by
  obtain ⟨hst, hwait, hpc, hreg, hother, honly, hbytes⟩ := h
  exact ⟨hst, hwait, by rw [hpc, ht], fun r => by rw [hreg, State.reg, ht, State.reg], fun t' h => by rw [hother t' h, ht],
    onlyCore_trans ho honly, bytesKept_trans hb hbytes⟩

/-- A `restart` of task 0 after the first `go`. -/
theorem exec_restart_of_snap (h : CHdr) (s : State) (c : Nat) (hs : s.cur = .task c 0) (hsnap : (s.core c).data.snap.isSome = true) :
    answers (.restart h) s fun u => parkedAt s c 0 .restart (ctlLen h 1) u ∧ (u.core c).data = (s.core c).data.restarted := by
  obtain ⟨m, hm⟩ := Option.isSome_iff_exists.mp hsnap
  let d := (s.core c).data
  let v := if d.vec.running || d.mat.running || d.cpy.running then s.stopData c else s
  have hv : (∀ t, v.task c t = s.task c t) ∧ onlyCore s c v ∧ bytesKept s v ∧ (v.core c).data = d.restarted := by
    unfold v DataSide.restarted
    split
    · exact ⟨fun t => State.modData_task .., onlyCore_modData .., bytesKept_modData .., by simp [State.stopData, DataSide.halted, d]⟩
    · exact ⟨fun _ => rfl, rfl, bytesKept_refl s, rfl⟩
  obtain ⟨htask, honly, hbytes, hdata⟩ := hv
  refine ⟨(v.park c 0 .restart (.restart h) (ctlLen h 1)).modWait c 0 fun w => { w with acted := true }, ?_,
    parkedAt_of_tasks htask honly hbytes (parkedAt_modWait _ (fun _ => ⟨rfl, rfl⟩) (parkedAt_park ..)), ?_⟩
  · simp [execRestart, asTask_next _ c 0 _ hs, hm, v, d]
  · simpa [State.modWait] using hdata

/-- A core of which every strand begins mode m (R35). -/
def Core.crossed (k : Core) (m : Bool) : Core :=
  { k with before := none, data :=
    { k.data with timed := m, vec := crossStrand k.data.counted k.data.vec, mat := crossStrand k.data.counted k.data.mat,
                  cpy := crossStrand k.data.counted k.data.cpy } }

theorem Core.crossed_strand (k : Core) (m : Bool) (e : Nat) : (k.crossed m).data.strand e = crossStrand k.data.counted (k.data.strand e) := by
  unfold DataSide.strand
  split <;> rfl

/-- A region crossing that can complete, with no completion withheld. -/
theorem exec_crossing_of_ready (s : State) (c : Nat) (m : Bool) (hc : (s.core c).data.crossing = some m) (hd : s.dataDrained c = true)
    (hf : s.isFrozen c = false) (hst : s.stopped c = false) (hdf : (s.core c).data.frozen = false) (hw : (s.core c).data.withheld = []) :
    exec (.regionCrossingComplete c) s = .next (s.modCore c fun k => (k.crossed m).snapped (k.crossed m).data.image) := by
  simp only [exec_regionCrossingComplete, execRegionCrossingComplete, hc, hd, hf, hst, hdf, Bool.not_false, Bool.and_self, if_true]
  rw [State.takeSnap_of_none_withheld _ _ _ (by simpa using hw), State.modCore_modCore, State.modCore_core_same]
  rfl

/-- Settles O12: task 0 parks where its guard holds and traps where it does not; the events that end the waits are their own guards. -/
theorem jobsWaitAtTheirRendezvous : Obligations.JobsWaitAtTheirRendezvous := by
  unfold Obligations.JobsWaitAtTheirRendezvous
  refine ⟨fun h s c t hs => ⟨?_, ?_, ?_, fun hh => ⟨fun ht => ⟨?_, ?_, ?_⟩, ?_, ?_⟩⟩, ?_, ?_⟩
  · rintro rfl
    exact ⟨_, by simp [execRim, asTask_next _ c 0 _ hs]; rfl, parkedAt_park .., State.park_data ..⟩
  · rintro rfl hheld
    exact ⟨_, by simp [execJend, asTask_next _ c 0 _ hs, hheld]; rfl, parkedAt_park .., State.park_data ..⟩
  · rintro rfl hsnap
    obtain ⟨u, he, hwaits, hdata⟩ := exec_restart_of_snap h s c hs hsnap
    refine ⟨u, he, hwaits, fun e _ _ => ?_, by simp [hdata], by simp [hdata]⟩
    rw [State.strand, hdata]
    exact DataSide.restarted_not_running ..
  · exact answers_trap (by simp [execRim, asTask_next _ c t _ hs, ht]) (by decide) hh
  · exact answers_trap (by simp [execJend, asTask_next _ c t _ hs, ht]) (by decide) hh
  · exact answers_trap (by simp [execRestart, asTask_next _ c t _ hs, ht]) (by decide) hh
  · rintro rfl hheld
    exact answers_trap (by simp [execJend, asTask_next _ c 0 _ hs, hheld]) (by decide) hh
  · rintro rfl hsnap
    exact answers_trap (by simp [execRestart, asTask_next _ c 0 _ hs, hsnap]) (by decide) hh
  · intro s c w hst hw hwhat hheld hdr hfr
    refine ⟨_, ?_, rfl, ?_, ?_⟩
    · simp [execRimRendezvous, State.waitOf, hst, hw, hwhat, hheld, hdr, hfr]
    · simp [State.wake, Task.wake, hw]
    · simp [State.wake, Task.wake, hw]
  · intro s c m hc hd hf hst hdf hw
    refine ⟨_, exec_crossing_of_ready s c m hc hd hf hst hdf hw, ?_⟩
    have strandOf (e : Nat) : ∃ n, ((s.modCore c fun k => (k.crossed m).snapped (k.crossed m).data.image).strand c e) =
        (crossStrand (s.core c).data.counted (s.strand c e)).free n := by
      obtain ⟨n, hn⟩ := Core.snapped_strand ((s.core c).crossed m) ((s.core c).crossed m).data.image e
      exact ⟨n, by simp [State.strand, hn, Core.crossed_strand]⟩
    refine ⟨by simp [Core.snapped, Core.crossed], fun e _ _ => ?_, by simp [Core.snapped], fun e _ _ => ?_, onlyCore_modCore ..,
      bytesKept_modCore _ _ _ ⟨rfl, rfl, rfl, rfl⟩⟩
    · obtain ⟨n, he⟩ := strandOf e
      simp [he, crossStrand]
    · obtain ⟨n, he⟩ := strandOf e
      simp [he, crossStrand]

end Sys2Proof.Machine
end

section
/-! SUPPORT. The lists and fields of the model in the terms of the library: first elements, spans, sign extension. -/

namespace Sys2Proof.Machine

open Sys2Proof

theorem firstWhere_eq_find? {α : Type} (p : α → Bool) (l : List α) : firstWhere p l = l.find? p := by
  induction l with
  | nil => rfl
  | cons a l ih => cases h : p a <;> simp [firstWhere, h, ih]

theorem span_eq_range' (lo n : Nat) : span lo n = List.range' lo n := by
  induction n generalizing lo with
  | zero => rfl
  | succ n ih => simp [span, ih, List.range'_succ]

@[simp] theorem mem_span (lo n x : Nat) : x ∈ span lo n ↔ lo ≤ x ∧ x < lo + n := by simp [span_eq_range', List.mem_range'_1]

/-- Nothing has the property. -/
theorem firstWhere_eq_none {α : Type} (p : α → Bool) (l : List α) : firstWhere p l = none ↔ ∀ a ∈ l, p a = false := by
  simp [firstWhere_eq_find?]

/-- The lowest number below n with the property. -/
theorem firstWhere_span_eq_some (p : Nat → Bool) (n i : Nat) : firstWhere p (span 0 n) = some i ↔ i < n ∧ p i = true ∧ ∀ j, j < i → p j = false := by
  simp only [firstWhere_eq_find?, span_eq_range', List.find?_range'_eq_some, List.mem_range'_1]
  constructor
  · rintro ⟨hp, hi, hj⟩
    exact ⟨by omega, hp, fun j h => by simpa using hj j (Nat.zero_le j) h⟩
  · rintro ⟨hi, hp, hj⟩
    exact ⟨hp, by omega, fun j _ h => by simp [hj j h]⟩

/-- The model's sign extension of a field is the library's. -/
theorem sext64_eq_signExtend (w n : Nat) (hw : 0 < w) (hn : n < 2 ^ w) : sext64 w n = (BitVec.ofNat w n).signExtend 64 := by
  have hhalf : 2 ^ w = 2 * 2 ^ (w - 1) := by rw [← pow_succ', Nat.sub_add_cancel hw]
  have hlt : n % 2 ^ w = n := Nat.mod_eq_of_lt hn
  rw [sext64, BitVec.signExtend, BitVec.toInt_eq_toNat_cond, BitVec.toNat_ofNat, hlt]
  by_cases h : n < 2 ^ (w - 1)
  · rw [if_pos h, if_pos (by omega)]
  · rw [if_neg h, if_neg (by omega)]
    push_cast
    rfl

/-- A one-bit field is the bit. -/
theorem fld_one_eq_one (w lo : Nat) : fld w lo 1 = 1 ↔ w.testBit lo = true := by
  simp [fld, Nat.testBit_eq_decide_div_mod_eq]

end Sys2Proof.Machine
end

section
/-! Tasks are started and end (R17, R215, R216). -/

namespace Sys2Proof.Machine

open Sys2Proof

/-! Transfers (R45, R49). -/

/-- A transfer that can happen does. -/
theorem transfer_of_landable {s : State} {c : Nat} {target : Word} (t : Nat) (ok : State) (h : landable s c target) : transfer s c t target ok = ok := by
  obtain ⟨halign, pa, nc, htr, hbit⟩ := h
  simp [transfer, halign, htr, (fld_one_eq_one _ _).mpr hbit]

/-- A transfer that cannot happen is a trap of its cause, where no context error comes first. -/
theorem transfer_of_noLanding {s : State} {c : Nat} {target : Word} {code : Nat} (t : Nat) (ok : State) (h : noLanding s c target code) :
    transfer s c t target ok = s.trap c t code target ∧ code < 256 := by
  obtain ⟨halign, rfl⟩ | ⟨halign, rfl, pa, nc, htr, hbit⟩ := h
  · exact ⟨by simp [transfer, halign], by decide⟩
  · exact ⟨by simp [transfer, halign, htr, fld_one_eq_one, hbit], by decide⟩

/-! Free contexts (R17). -/

theorem Core.freeTask_eq_none (k : Core) : k.freeTask = none ↔ ∀ n, n < 8 → (k.task n).st ≠ .free := by
  simp [Core.freeTask, firstWhere_eq_none]

theorem Core.freeTask_eq_some (k : Core) (n : Nat) :
    k.freeTask = some n ↔ n < 8 ∧ (k.task n).st = .free ∧ ∀ m, m < n → (k.task m).st ≠ .free := by
  simp [Core.freeTask, firstWhere_span_eq_some]

/-! What a result leaves of the other tasks and of memory. -/

theorem State.result_bytes (s : State) (c t r : Nat) (v : Word) (lat len : Nat) : bytesKept s (s.result c t r v lat len) := modTask_bytes ..

@[simp] theorem onlyCore_result (s : State) (c t r : Nat) (v : Word) (lat len : Nat) : onlyCore s c (s.result c t r v lat len) := onlyCore_modTask ..

/-- The context that `tspawn` starts (R187, R215). -/
def State.spawned (s : State) (c t a : Nat) (target : Word) : Task :=
  { st := .ready, regs := [(1, s.reg c t a)], pc := target, fpm := (s.task c t).fpm, notBefore := (s.core c).cycle + 2, uid := s.nextId }

theorem State.spawned_reg (s : State) (c t a r : Nat) (target : Word) :
    (s.spawned c t a target).reg r = if r = 1 then s.reg c t a else 0#64 := by
  by_cases h0 : r = 0
  · subst h0; simp
  · simp only [Task.reg, h0, if_false, State.spawned, tget, tfind]
    by_cases h1 : r = 1
    · simp [h1]
    · simp [h1, Ne.symm h1]

/-- The state with a new task in context n, before the spawner gets its number. -/
def State.spawn (s : State) (c t a n : Nat) (target : Word) : State := s.fresh.modCore c fun k => k.setTask n (s.spawned c t a target)

theorem State.fresh_core (s : State) (c : Nat) : s.fresh.core c = s.core c := rfl

theorem State.spawn_task (s : State) (c t a n m : Nat) (target : Word) :
    (s.spawn c t a n target).task c m = if m = n then s.spawned c t a target else s.task c m := by
  simp [State.spawn, State.task, Core.setTask_task, State.fresh_core]

theorem State.spawn_bytes (s : State) (c t a n : Nat) (target : Word) : bytesKept s (s.spawn c t a n target) :=
  bytesKept_trans (bytesKept_of_parts s s.fresh rfl rfl rfl) (bytesKept_modCore _ _ _ ⟨rfl, rfl, rfl, rfl⟩)

/-- A `tspawn` whose start address a transfer reaches, with no context free. -/
theorem exec_tspawn_none_free {h : CHdr} {d a off c t : Nat} {s : State} (hoff : off < 2 ^ 32) (hs : s.cur = .task c t)
    (hl : landable s c (wordAt h (s.task c t).pc + 4#64 * (BitVec.ofNat 32 off).signExtend 64)) (hf : ∀ n, n < 8 → (s.task c n).st ≠ .free) :
    exec (.tspawn h d a off) s = .next (s.result c t d (BitVec.allOnes 64) 1 (ctlLen h 2)) := by
  rw [exec_tspawn, execTspawn, asTask_next _ c t _ hs, sext64_eq_signExtend 32 off (by decide) hoff]
  dsimp only
  rw [transfer_of_landable t _ hl, (Core.freeTask_eq_none _).mpr hf]

/-- A `tspawn` whose start address a transfer reaches, with n the lowest context that is free. -/
theorem exec_tspawn_free {h : CHdr} {d a off c t n : Nat} {s : State} (hoff : off < 2 ^ 32) (hs : s.cur = .task c t) (hn : n < 8)
    (hl : landable s c (wordAt h (s.task c t).pc + 4#64 * (BitVec.ofNat 32 off).signExtend 64)) (hf : (s.task c n).st = .free)
    (hlow : ∀ m, m < n → (s.task c m).st ≠ .free) :
    exec (.tspawn h d a off) s = .next ((s.spawn c t a n (wordAt h (s.task c t).pc + 4#64 * (BitVec.ofNat 32 off).signExtend 64)).result c t d
      (word n) 1 (ctlLen h 2)) := by
  rw [exec_tspawn, execTspawn, asTask_next _ c t _ hs, sext64_eq_signExtend 32 off (by decide) hoff]
  dsimp only
  rw [transfer_of_landable t _ hl, (Core.freeTask_eq_some _ n).mpr ⟨hn, hf, hlow⟩]
  rfl

/-- A `tspawn` whose start address a transfer does not reach. -/
theorem exec_tspawn_noLanding {h : CHdr} {d a off c t code : Nat} {s : State} (hoff : off < 2 ^ 32) (hs : s.cur = .task c t)
    (hl : noLanding s c (wordAt h (s.task c t).pc + 4#64 * (BitVec.ofNat 32 off).signExtend 64) code) :
    exec (.tspawn h d a off) s = .next (s.trap c t code (wordAt h (s.task c t).pc + 4#64 * (BitVec.ofNat 32 off).signExtend 64)) := by
  rw [exec_tspawn, execTspawn, asTask_next _ c t _ hs, sext64_eq_signExtend 32 off (by decide) hoff]
  dsimp only
  rw [(transfer_of_noLanding t _ hl).1]

/-- A `texit` of a task other than 0. -/
theorem exec_texit_of_ne (h : CHdr) {s : State} {c t : Nat} (hs : s.cur = .task c t) (ht : t ≠ 0) :
    exec (.texit h) s = .next (s.modCore c fun k =>
      { k.setTask t {} with accs := k.accs.map fun a => if a.party == t then { a with dest := .none, orphan := true } else a }) := by
  simp [execTexit, asTask_next _ c t _ hs, ht]

/-- Settles O13: a start address that can be reached gives a task or −1, one that cannot is a trap; `texit` frees its own context. -/
theorem tasksAreSpawnedAndExit : Obligations.TasksAreSpawnedAndExit := by
  unfold Obligations.TasksAreSpawnedAndExit
  intro h d a off s c t hoff hs hready ht
  refine ⟨?_, ?_, ?_, ?_, ?_⟩
  · intro hl hf
    refine ⟨_, exec_tspawn_none_free hoff hs hl hf, ⟨?_, ?_, ?_, ?_⟩, ?_⟩
    · exact State.result_reg_same ..
    · exact fun r hr => State.result_reg_other _ _ _ _ _ _ _ _ hr
    · exact State.result_pc ..
    · exact State.result_bytes ..
    · exact fun t' h' => State.result_task_other _ _ _ _ _ _ _ _ _ (fun h => h' h.2)
  · intro n hl hn hf hlow
    have hnt : n ≠ t := fun e => by rw [e, hready] at hf; cases hf
    refine ⟨_, exec_tspawn_free hoff hs hn hl hf hlow, ?_⟩
    generalize wordAt h (s.task c t).pc + 4#64 * (BitVec.ofNat 32 off).signExtend 64 = target
    have hother (m : Nat) (hm : m ≠ t) : ((s.spawn c t a n target).result c t d (word n) 1 (ctlLen h 2)).task c m =
        if m = n then s.spawned c t a target else s.task c m := by
      rw [State.result_task_other _ _ _ _ _ _ _ _ _ (fun h => hm h.2), State.spawn_task]
    have hnew := hother n hnt
    rw [if_pos rfl] at hnew
    refine ⟨⟨?_, ?_, ?_, ?_⟩, ?_, ?_, ?_, ?_, ?_, ?_, ?_, ?_, ?_⟩
    · exact State.result_reg_same ..
    · intro r hr
      rw [State.result_reg_other _ _ _ _ _ _ _ _ hr, State.reg, State.spawn_task, if_neg hnt.symm, State.reg]
    · rw [State.result_pc, State.spawn_task, if_neg hnt.symm]
    · exact bytesKept_trans (State.spawn_bytes ..) (State.result_bytes ..)
    · rw [hnew]; rfl
    · rw [hnew]; rfl
    · rw [State.reg, hnew, State.spawned_reg, if_pos rfl]
    · intro r hr
      rw [State.reg, hnew, State.spawned_reg, if_neg hr]
    · rw [hnew]; rfl
    · rw [hnew]; rfl
    · rw [hnew]; rfl
    · rw [hnew]; rfl
    · intro t' h' hn'
      rw [hother t' h', if_neg hn']
  · intro hh code hl
    exact answers_trap (exec_tspawn_noLanding hoff hs hl) (transfer_of_noLanding t s hl).2 hh
  · intro ht0
    refine ⟨_, exec_texit_of_ne h hs ht0, ?_, ?_, onlyCore_modCore .., bytesKept_modCore _ _ _ ⟨rfl, rfl, rfl, rfl⟩⟩
    · simp [State.task, Core.task, Core.setTask]
    · intro t' h'
      simp [State.task, Core.task, Core.setTask, tget_tput_other _ _ _ _ _ h']
  · rintro rfl hh
    exact answers_trap (by simp [execTexit, asTask_next _ c 0 _ hs]) (by decide) hh

end Sys2Proof.Machine
end

section
/-! Barriers and event slots (R40, R42, R44, R143, R217, R218). -/

namespace Sys2Proof.Machine

open Sys2Proof

/-! Barriers named by an address (R217). -/

/-- The address in register a is that of barrier x, and the barrier is allocated to the weave. -/
theorem withBarrier_of_allocated {s : State} {c t a pa w : Nat} {nc : Bool} {x : BarId} (needConfig : Bool) (ok : BarId → State)
    (halign : (s.reg c t a).toNat % 16 = 0) (htr : translate (s.core c).seg .rd (s.reg c t a).toNat = .ok pa nc) (hbar : barAt pa = some (x, w))
    (hall : s.barAllocated c x = true) :
    withBarrier s c t a needConfig ok = if (needConfig && (s.barrier x).unset) = true then s.trap c t 14 (s.reg c t a) else ok x := by
  simp [withBarrier, halign, htr, hbar, hall]

theorem withBarrier_of_misaligned {s : State} {c t a : Nat} (needConfig : Bool) (ok : BarId → State) (h : (s.reg c t a).toNat % 16 ≠ 0) :
    withBarrier s c t a needConfig ok = s.trap c t 6 (s.reg c t a) := by
  simp [withBarrier, h]

theorem withBarrier_of_no_barrier {s : State} {c t a pa : Nat} {nc : Bool} (needConfig : Bool) (ok : BarId → State)
    (halign : (s.reg c t a).toNat % 16 = 0) (htr : translate (s.core c).seg .rd (s.reg c t a).toNat = .ok pa nc) (hbar : barAt pa = none) :
    withBarrier s c t a needConfig ok = s.trap c t 8 (s.reg c t a) := by
  simp [withBarrier, halign, htr, hbar]

theorem withBarrier_of_not_allocated {s : State} {c t a pa w : Nat} {nc : Bool} {x : BarId} (needConfig : Bool) (ok : BarId → State)
    (halign : (s.reg c t a).toNat % 16 = 0) (htr : translate (s.core c).seg .rd (s.reg c t a).toNat = .ok pa nc) (hbar : barAt pa = some (x, w))
    (hall : s.barAllocated c x = false) : withBarrier s c t a needConfig ok = s.trap c t 13 (s.reg c t a) := by
  simp [withBarrier, halign, htr, hbar, hall]

/-- A check of the barrier's address that fails traps a `bara` and a `barw` alike. -/
theorem barrier_traps {s : State} {c t a code : Nat} (hs : s.cur = .task c t) (hh : handles s c t) (hc : code < 256)
    (h : ∀ n ok, withBarrier s c t a n ok = s.trap c t code (s.reg c t a)) (hd : CHdr) (d b : Nat) :
    answers (.bara hd d a) s (entered s c t code (s.task c t).pc (s.reg c t a)) ∧
      answers (.barw hd a b) s (entered s c t code (s.task c t).pc (s.reg c t a)) :=
  ⟨answers_trap (by rw [exec_bara, execBara, asTask_next _ c t _ hs, h]) hc hh,
    answers_trap (by rw [exec_barw, execBarw, asTask_next _ c t _ hs, h]) hc hh⟩

/-- The phase that a task names is the lowest bit of its register. -/
theorem bits_one_eq_getLsbD (v : Word) : (bits v 0 1 == 1) = v.getLsbD 0 := by
  simp [bits, fld, BitVec.getLsbD, Nat.testBit_eq_decide_div_mod_eq, Bool.beq_eq_decide_eq]

/-! Accesses that enter the queues. -/

/-- An access of task t as it stands in its queue: with its number, its party and its instruction. -/
def State.numbered (s : State) (c t : Nat) (a : Access) : Access :=
  { a with id := s.nextId, party := t, word := (s.task c t).pc.toNat, icount := (s.task c t).icount }

/-- A core with one more access in its queues. -/
def Core.queue (k : Core) (a : Access) : Core := { k with accs := k.accs ++ [a] }

/-- The access of a task is the last of its core. -/
theorem State.taskAccess_eq (s : State) (c t : Nat) (a : Access) :
    s.taskAccess c t a = (s.modCore c fun k => k.queue (s.numbered c t a)).fresh := rfl

theorem State.taskAccess_accs (s : State) (c t : Nat) (a : Access) :
    ((s.taskAccess c t a).core c).accs = (s.core c).accs ++ [s.numbered c t a] := by
  rw [State.taskAccess_eq, State.fresh_core, State.modCore_core_same]
  rfl

theorem State.taskAccess_task (s : State) (c t e u : Nat) (a : Access) : (s.taskAccess c t a).task e u = s.task e u :=
  State.task_modCore_of_tasks s c e u (fun k => k.queue (s.numbered c t a)) rfl

theorem State.taskAccess_bytes (s : State) (c t : Nat) (a : Access) : bytesKept s (s.taskAccess c t a) :=
  bytesKept_trans (bytesKept_modCore s c (fun k => k.queue (s.numbered c t a)) ⟨rfl, rfl, rfl, rfl⟩) (bytesKept_of_parts _ _ rfl rfl rfl)

/-! Flips (R40, R44). -/

@[simp] theorem State.flipped_barriers (s : State) (b : BarId) : (s.flipped b).barriers = s.barriers := by
  unfold State.flipped
  exact foldl_keeps State.barriers _ (fun u _ => State.acquire_barriers u _ _) _ _

theorem Barrier.due_iff (b : Barrier) : b.due = true ↔ (b.parties ≠ 0 ∨ b.bytes ≠ 0) ∧ b.parties ≤ b.arrived ∧ b.bytes ≤ b.counted := by
  simp only [Barrier.due, Barrier.unset, Bool.and_eq_true, Bool.not_eq_true', Bool.and_eq_false_iff, beq_eq_false_iff_ne, decide_eq_true_eq, and_assoc]

theorem State.flippedNow_iff (s : State) (x : BarId) :
    s.flippedNow x = true ↔ (s.barrier x).flippedAt ≠ none ∧ (s.barrier x).flippedAt = s.barClock x := by
  simp [State.flippedNow, Option.isSome_iff_ne_none]

theorem State.flipDue_iff (s : State) (x : BarId) :
    s.flipDue x = true ↔ (s.barrier x).due = true ∧ ¬ s.flippedNow x = true ∧ ¬ ((s.barrier x).outside = false ∧ s.barFrozen x = true) := by
  cases ho : (s.barrier x).outside <;> simp [State.flipDue, ho, and_assoc]

/-! Event slots (R42). -/

/-- An `evs` whose register names a slot. -/
theorem exec_evs_of_slot (h : CHdr) (a : Nat) {s : State} {c t : Nat} (hs : s.cur = .task c t) (hv : (s.reg c t a).toNat < 2 ^ 18) :
    exec (.evs h a) s = .next ((s.post ((s.reg c t a).toNat / 2 ^ 5) ((s.reg c t a).toNat % 2 ^ 5) ((s.weaveOf c).map fun w => w.id)
      (s.core c).ctxno none).goOn c t (ctlLen h 1)) := by
  have hz : (s.reg c t a).toNat / 2 ^ 18 = 0 := Nat.div_eq_of_lt hv
  have hcore : (evTarget (s.reg c t a).toNat).1 = (s.reg c t a).toNat / 2 ^ 5 := by
    simp only [evTarget, fld]; omega
  have hslot : (evTarget (s.reg c t a).toNat).2 = (s.reg c t a).toNat % 2 ^ 5 := by
    simp only [evTarget, fld]; omega
  simp only [exec_evs, execEvs, asTask_next _ c t _ hs, hz, hcore, hslot, ne_eq, not_true_eq_false, if_false]

/-- A `goOn` is where a task went on. -/
theorem wentOn_goOn (s : State) (c t len : Nat) : wentOn s c t len (s.goOn c t len) := by
  refine ⟨by simp, by simp, fun r => ?_, by simp, by simp, by simp [State.goOn_core_same], by simp [taskKept, Task.next],
    ⟨by simp, by simp [State.goOn_core_same]⟩, State.goOn_bytes ..⟩
  split
  · next h => simp [h]
  · simp

theorem exec_evw_of_empty (h : CHdr) (a : Nat) {s : State} {c t : Nat} (hs : s.cur = .task c t) (hv : (s.reg c t a).toNat < 2 ^ 5)
    (hc : (tget {} (s.core c).events (s.reg c t a).toNat).count = 0) :
    exec (.evw h a) s = .next (s.park c t (.event (s.reg c t a).toNat) (.evw h a) (ctlLen h 1)) := by
  have hz : (s.reg c t a).toNat / 2 ^ 5 = 0 := Nat.div_eq_of_lt hv
  have hm : (s.reg c t a).toNat % 32 = (s.reg c t a).toNat := Nat.mod_eq_of_lt hv
  simp only [exec_evw, execEvw, asTask_next _ c t _ hs, hz, hm, hc, ne_eq, not_true_eq_false, if_false, if_true]

theorem exec_evw_of_count (h : CHdr) (a : Nat) {s : State} {c t : Nat} (hs : s.cur = .task c t) (hv : (s.reg c t a).toNat < 2 ^ 5)
    (hc : (tget {} (s.core c).events (s.reg c t a).toNat).count ≠ 0) :
    exec (.evw h a) s = .next (((s.modCore c fun k => k.takeSignal (s.reg c t a).toNat).acquire c
      (tget 0 (s.core c).evAcq (s.reg c t a).toNat)).goOn c t (ctlLen h 1)) := by
  have hz : (s.reg c t a).toNat / 2 ^ 5 = 0 := Nat.div_eq_of_lt hv
  have hm : (s.reg c t a).toNat % 32 = (s.reg c t a).toNat := Nat.mod_eq_of_lt hv
  simp only [exec_evw, execEvw, asTask_next _ c t _ hs, hz, hm, hc, ne_eq, not_true_eq_false, if_false]

/-- The first signal under way arrives for the weave on its core, and no task waits for its slot. -/
theorem exec_arrival_of_no_waiter {s : State} {g : Signal} {rest : List Signal} {w : Weave} (hg : s.signals = g :: rest)
    (hw : s.weaveOf g.core = some w) (hr : g.reaches w = true) (ha : g.acq = none) (hh : g.held = none)
    (hn : (s.core g.core).eventWaiter g.slot = none) :
    exec (.eventSignalArrival g.id) s =
      .next (({ s with signals := rest } : State).modCore g.core fun k => { k with events := tmod {} k.events g.slot EvSlot.add }) := by
  have hw' : ({ s with signals := rest } : State).weaveOf g.core = some w := hw
  have hn' : (({ s with signals := rest } : State).core g.core).eventWaiter g.slot = none := hn
  simp only [exec_eventSignalArrival, execEventSignalArrival, hg, firstWhere, dropFirst, beq_self_eq_true, if_true, hh, Option.isSome_none,
    Bool.false_eq_true, if_false, State.signal, hw', hr, hn', Bool.false_and, ha, Core.markAcq]
  simp only [State.modCore, Core.signal, hn']

/-- Settles O14: the checks of a barrier's address decide between its wait and its traps; a due flip, a signal sent, taken or counted are one
change each. -/
theorem barriersFlipAndEventsWake : Obligations.BarriersFlipAndEventsWake := by
  unfold Obligations.BarriersFlipAndEventsWake
  refine ⟨?_, ⟨?_, ?_, ?_⟩, ⟨?_, ?_⟩⟩
  · intro b n m hn hm
    have h1 : satAdd (2 ^ 20 - 1) b.arrived n = b.arrived + n := by simp only [satAdd]; omega
    have h2 : satAdd (2 ^ 43 - 1) b.counted m = b.counted + m := by simp only [satAdd]; omega
    rw [Barrier.apply, h1, h2]
  · intro h d a b s c t pa nc x w hs va ph halign htr hbar hall
    have hok (n : Bool) (ok : BarId → State) := withBarrier_of_allocated (t := t) n ok halign htr hbar hall
    have hph : (bits (s.reg c t b) 0 1 == 1) = ph := bits_one_eq_getLsbD _
    refine ⟨⟨_, by rw [exec_bara, execBara, asTask_next _ c t _ hs, hok, Bool.false_and, if_neg Bool.false_ne_true], ?_⟩, ?_, ?_⟩
    · refine ⟨by simp, by simp [State.taskAccess_task], ⟨_, by simp [State.park, State.modTask, State.taskAccess_accs]; rfl,
        rfl, rfl, rfl, rfl, rfl, rfl⟩, rfl, ?_⟩
      exact bytesKept_trans (State.taskAccess_bytes ..) (State.park_bytes ..)
    · intro hun hphase
      simp only [exec_barw, execBarw, asTask_next _ c t _ hs, hok, hun, hph, hphase]
      simp
    · intro hun hphase
      refine ⟨s.park c t (.flip x ph) (.barw h a b) (ctlLen h 1), ?_, by simp, by simp, by simp, rfl, State.park_bytes ..⟩
      simp only [exec_barw, execBarw, asTask_next _ c t _ hs, hok, hun, hph, hphase]
      simp
  · intro h d a b s c t hs hh va traps
    refine ⟨fun hal => barrier_traps hs hh (by decide) (fun n ok => withBarrier_of_misaligned n ok hal) h d b, fun pa nc hal htr => ⟨fun hb => ?_,
      fun x w hb => ⟨fun hall => ?_, fun hall hun => ?_⟩⟩⟩
    · exact barrier_traps hs hh (by decide) (fun n ok => withBarrier_of_no_barrier n ok hal htr hb) h d b
    · exact barrier_traps hs hh (by decide) (fun n ok => withBarrier_of_not_allocated n ok hal htr hb hall) h d b
    · refine answers_trap ?_ (by decide) hh
      rw [exec_barw, execBarw, asTask_next _ c t _ hs, withBarrier_of_allocated true _ hal htr hb hall, hun]
      rfl
  · intro s x b meets flippedNow held
    constructor
    · intro hm hf hh
      have hdue : s.flipDue x = true := (s.flipDue_iff x).mpr ⟨b.due_iff.mpr hm, fun h => hf ((s.flippedNow_iff x).mp h), hh⟩
      refine ⟨_, by rw [exec_barrierCarryFlip, execBarrierCarryFlip, if_pos hdue], ?_, fun y hy => ?_⟩
      · simp [State.barrier, Barrier.flipped, Barrier.flip, b]
      · simp [State.barrier, tget_tput_other _ _ _ _ _ hy]
    · intro h
      have hdue : ¬ s.flipDue x = true := fun hd => by
        obtain ⟨h1, h2, h3⟩ := (s.flipDue_iff x).mp hd
        rcases h with h | h | h
        · exact h (b.due_iff.mp h1)
        · exact h2 ((s.flippedNow_iff x).mpr h)
        · exact h3 h
      rw [exec_barrierCarryFlip, execBarrierCarryFlip, if_neg hdue]
  · intro h a s c t hs v
    refine ⟨fun hv => ?_, fun hv hc => ?_, fun hv hc => ?_, fun hh => ⟨fun hv => ?_, fun hv => ?_⟩⟩
    · exact ⟨_, exec_evs_of_slot h a hs hv, rfl, wentOn_goOn ..⟩
    · exact ⟨_, exec_evw_of_empty h a hs hv hc, by simp, by simp, by simp [v], by simp [State.park, State.modTask, Core.setTask], State.park_bytes ..⟩
    · refine ⟨_, exec_evw_of_count h a hs hv hc, ?_⟩
      have hev : ((((s.modCore c fun k => k.takeSignal v.toNat).acquire c (tget 0 (s.core c).evAcq v.toNat)).goOn c t (ctlLen h 1)).core
          c).events = tmod {} (s.core c).events v.toNat EvSlot.take := by
        simp [State.goOn_core_same, Core.setTask, Core.takeSignal]
      have htask (n : Nat) : (s.modCore c fun k => k.takeSignal n).task c t = s.task c t := State.task_modCore_of_tasks _ _ _ _ _ rfl
      refine ⟨?_, fun n hn => ?_, by simp [htask], fun r => by simp [State.reg, htask]⟩
      · rw [hev, tget_tmod_same]
        exact Nat.sub_add_cancel (Nat.pos_of_ne_zero hc)
      · rw [hev, tget_tmod_other _ _ _ _ _ hn]
    · refine answers_trap ?_ (by decide) hh
      have hz : (s.reg c t a).toNat / 2 ^ 18 ≠ 0 := (Nat.div_pos hv (by decide)).ne'
      simp only [exec_evs, execEvs, asTask_next _ c t _ hs, hz, ne_eq, not_false_eq_true, if_true, v]
    · refine answers_trap ?_ (by decide) hh
      have hz : (s.reg c t a).toNat / 2 ^ 5 ≠ 0 := (Nat.div_pos hv (by decide)).ne'
      simp only [exec_evw, execEvw, asTask_next _ c t _ hs, hz, ne_eq, not_false_eq_true, if_true, v]
  · intro s g rest w hg hw hr ha hh hn
    refine ⟨_, exec_arrival_of_no_waiter hg hw hr ha hh hn, rfl, fun n hne => ?_, ?_, ?_, onlyCore_modCore .., ?_⟩
    · rw [State.modCore_core_same]
      exact tget_tmod_other _ _ _ _ _ hne
    · rw [State.modCore_core_same]
      exact tget_tmod_same ..
    · rw [State.modCore_core_same]
      rfl
    · exact bytesKept_trans (bytesKept_of_parts s _ rfl rfl rfl) (bytesKept_modCore _ _ _ ⟨rfl, rfl, rfl, rfl⟩)

end Sys2Proof.Machine
end

section
/-! SUPPORT. The data strands of a core: a strand after a change of it, what such a change leaves of the core, and faults that stop the strands. -/

namespace Sys2Proof.Machine

open Sys2Proof

/-! Strands. -/

theorem DataSide.strand_modStrand_same (d : DataSide) (e : Nat) (f : Strand → Strand) : (d.modStrand e f).strand e = f (d.strand e) := by
  rcases e with _ | _ | _ | e <;> rfl

@[simp] theorem DataSide.modStrand_counted (d : DataSide) (e : Nat) (f : Strand → Strand) : (d.modStrand e f).counted = d.counted := by
  unfold DataSide.modStrand DataSide.setStrand; split <;> rfl
@[simp] theorem DataSide.modStrand_withheld (d : DataSide) (e : Nat) (f : Strand → Strand) : (d.modStrand e f).withheld = d.withheld := by
  unfold DataSide.modStrand DataSide.setStrand; split <;> rfl
@[simp] theorem DataSide.modStrand_k (d : DataSide) (e : Nat) (f : Strand → Strand) : (d.modStrand e f).k = d.k := by
  unfold DataSide.modStrand DataSide.setStrand; split <;> rfl
@[simp] theorem DataSide.modStrand_vres (d : DataSide) (e : Nat) (f : Strand → Strand) : (d.modStrand e f).vres = d.vres := by
  unfold DataSide.modStrand DataSide.setStrand; split <;> rfl

/-- A change of strand e of core c that may look at the data side. -/
theorem State.strand_modData_modStrand (s : State) (c e : Nat) (f : DataSide → Strand → Strand) :
    (s.modData c fun d => d.modStrand e (f d)).strand c e = f (s.core c).data (s.strand c e) := by
  simp [State.strand, DataSide.strand_modStrand_same]

@[simp] theorem State.modStrand_strand (s : State) (c e : Nat) (f : Strand → Strand) : (s.modStrand c e f).strand c e = f (s.strand c e) :=
  s.strand_modData_modStrand c e fun _ => f

@[simp] theorem State.modStrand_counted (s : State) (c e : Nat) (f : Strand → Strand) :
    ((s.modStrand c e f).core c).data.counted = (s.core c).data.counted := by simp [State.modStrand]

@[simp] theorem State.modStrand_withheld (s : State) (c e : Nat) (f : Strand → Strand) :
    ((s.modStrand c e f).core c).data.withheld = (s.core c).data.withheld := by simp [State.modStrand]

@[simp] theorem State.stepStrand_strand (s : State) (c e : Nat) : (s.stepStrand c e).strand c e = (s.strand c e).step (s.core c).data.counted :=
  s.strand_modData_modStrand c e fun d x => x.step d.counted

@[simp] theorem State.stepStrand_withheld (s : State) (c e : Nat) : ((s.stepStrand c e).core c).data.withheld = (s.core c).data.withheld := by
  simp [State.stepStrand]

/-! What a data word leaves of its core. -/

/-- Between s and u the tasks of core c, every other core and every byte of memory are the same. -/
def tasksKept (s : State) (c : Nat) (u : State) : Prop := (u.core c).tasks = (s.core c).tasks ∧ onlyCore s c u ∧ bytesKept s u

theorem tasksKept_trans {s u v : State} {c : Nat} (h : tasksKept s c u) (g : tasksKept u c v) : tasksKept s c v :=
  ⟨g.1.trans h.1, onlyCore_trans h.2.1 g.2.1, bytesKept_trans h.2.2 g.2.2⟩

theorem tasksKept_refl (s : State) (c : Nat) : tasksKept s c s := ⟨rfl, rfl, bytesKept_refl s⟩

theorem tasksKept_modCore (s : State) (c : Nat) (f : Core → Core) (ht : (f (s.core c)).tasks = (s.core c).tasks)
    (hs : (s.core c).storesAs (f (s.core c))) : tasksKept s c (s.modCore c f) :=
  ⟨by simpa using ht, onlyCore_modCore .., bytesKept_modCore _ _ _ hs⟩

theorem tasksKept_modData (s : State) (c : Nat) (f : DataSide → DataSide) : tasksKept s c (s.modData c f) :=
  tasksKept_modCore _ _ _ rfl ⟨rfl, rfl, rfl, rfl⟩

theorem tasksKept_modStrand (s : State) (c e : Nat) (f : Strand → Strand) : tasksKept s c (s.modStrand c e f) := tasksKept_modData ..

theorem tasksKept_stepStrand (s : State) (c e : Nat) : tasksKept s c (s.stepStrand c e) := tasksKept_modData ..

/-! The first issue of a cycle (R36). -/

/-- A core whose data side is kept as it stands before the first issue of the cycle. -/
def Core.marked (k : Core) : Core :=
  match k.before with
  | some _ => k
  | none => { k with before := some k.data.image }

@[simp] theorem Core.marked_data (k : Core) : k.marked.data = k.data := by unfold Core.marked; split <;> rfl
@[simp] theorem Core.marked_tasks (k : Core) : k.marked.tasks = k.tasks := by unfold Core.marked; split <;> rfl
@[simp] theorem Core.marked_job (k : Core) : k.marked.job = k.job := by unfold Core.marked; split <;> rfl
@[simp] theorem Core.marked_dfault (k : Core) : k.marked.dfault = k.dfault := by unfold Core.marked; split <;> rfl
@[simp] theorem Core.marked_dmet (k : Core) : k.marked.dmet = k.dmet := by unfold Core.marked; split <;> rfl

/-- A word with K = 0 takes no snapshot. -/
theorem State.issueWord_of_no_k (s : State) (c : Nat) (h : DHdr) (hk : h.k = false) : s.issueWord c h = s.modCore c Core.marked := by
  simp only [State.issueWord, hk, Bool.false_eq_true, if_false]
  rfl

theorem tasksKept_marked (s : State) (c : Nat) : tasksKept s c (s.modCore c Core.marked) :=
  tasksKept_modCore _ _ _ (Core.marked_tasks _) (by unfold Core.storesAs Core.marked; split <;> exact ⟨rfl, rfl, rfl, rfl⟩)

@[simp] theorem State.marked_data (s : State) (c : Nat) : ((s.modCore c Core.marked).core c).data = (s.core c).data := by simp

@[simp] theorem State.marked_strand (s : State) (c e : Nat) : (s.modCore c Core.marked).strand c e = s.strand c e := by simp [State.strand]

/-! Stopped strands and faults (R69, R225). -/

/-- Debug is a matter of the core's job and of the weaves. -/
theorem State.debugOn_modCore (s : State) (c : Nat) (f : Core → Core) (h : (f (s.core c)).job = (s.core c).job) :
    (s.modCore c f).debugOn c = s.debugOn c := by
  simp [State.debugOn, State.slotOf, State.weaveOf, h]

@[simp] theorem State.debugOn_modData (s : State) (c : Nat) (f : DataSide → DataSide) : (s.modData c f).debugOn c = s.debugOn c :=
  State.debugOn_modCore _ _ _ rfl

/-- Core c stands ready to meet a first data-strand fault, without debug. -/
def faultFree (s : State) (c : Nat) : Prop := s.debugOn c = false ∧ (s.core c).dfault = none ∧ (s.core c).dmet = false

theorem faultFree_modCore {s : State} {c : Nat} (f : Core → Core) (hj : (f (s.core c)).job = (s.core c).job)
    (hd : (f (s.core c)).dfault = (s.core c).dfault) (hm : (f (s.core c)).dmet = (s.core c).dmet) (h : faultFree s c) :
    faultFree (s.modCore c f) c := by
  obtain ⟨hdbg, hdf, hdm⟩ := h
  exact ⟨by rw [State.debugOn_modCore _ _ _ hj, hdbg], by simp [hd, hdf], by simp [hm, hdm]⟩

theorem faultFree_modData {s : State} {c : Nat} (f : DataSide → DataSide) (h : faultFree s c) : faultFree (s.modData c f) c :=
  faultFree_modCore _ rfl rfl rfl h

theorem faultFree_modStrand {s : State} {c : Nat} (e : Nat) (f : Strand → Strand) (h : faultFree s c) : faultFree (s.modStrand c e f) c :=
  faultFree_modData _ h

theorem faultFree_marked {s : State} {c : Nat} (h : faultFree s c) : faultFree (s.modCore c Core.marked) c :=
  faultFree_modCore _ (Core.marked_job _) (Core.marked_dfault _) (Core.marked_dmet _) h

/-- A first fault of strand e stops every strand of core c and is kept with its code and address (R69, R225). -/
def strandFaulted (s : State) (c e code : Nat) (tval : Word) (u : State) : Prop :=
  (∀ e', 1 ≤ e' → e' ≤ 3 → (u.strand c e').running = false) ∧
  (u.core c).dfault.map (fun f => (f.strand, f.code, f.tval)) = some (e, code, tval) ∧ onlyCore s c u ∧ bytesKept s u

theorem strandFault_strandFaulted {s : State} {c : Nat} (e code : Nat) (tval : Word) (va : Nat) (h : faultFree s c) :
    strandFaulted s c e code tval (s.strandFault c e code tval va) := by
  have hstop : s.stopData c = s.modData c DataSide.halted := rfl
  have hff : faultFree (s.modData c DataSide.halted) c := faultFree_modData _ h
  obtain ⟨hdbg, hdf, hdm⟩ := hff
  have hkeep : ((s.modData c DataSide.halted).core c).keepsFault e = true := by rw [Core.keepsFault, hdf, hdm]; rfl
  have hshape : s.strandFault c e code tval va = (s.modData c DataSide.halted).modCore c fun k =>
      { k with dfault := some { strand := e, code, tval, cycle := k.cycle, word := tval.toNat, va }, dmet := true } := by
    rw [State.strandFault, hstop, State.dataFault, hkeep, hdbg]
    simp
  rw [hshape]
  refine ⟨fun e' _ _ => ?_, by simp, onlyCore_trans (onlyCore_modData ..) (onlyCore_modCore ..),
    bytesKept_trans (bytesKept_modData ..) (bytesKept_modCore _ _ _ ⟨rfl, rfl, rfl, rfl⟩)⟩
  simp [State.strand, DataSide.halted_not_running]

theorem strandFaulted_of_kept {s v u : State} {c e code : Nat} {tval : Word} (h : tasksKept s c v) (g : strandFaulted v c e code tval u) :
    strandFaulted s c e code tval u :=
  ⟨g.1, g.2.1, onlyCore_trans h.2.1 g.2.2.1, bytesKept_trans h.2.2 g.2.2.2⟩

end Sys2Proof.Machine
end

section
/-! The next word of a strand, and the shared words that need no entry (R30, R62). -/

namespace Sys2Proof.Machine

open Sys2Proof

/-! Blocks that close (R62). -/

/-- A strand that goes to pc in cycle now, before any block closes. -/
def Strand.at_ (x : Strand) (pc now : Nat) : Strand := { x with pc, base := now + 1, exempt := false }

theorem Strand.step_eq (x : Strand) (now : Nat) : x.step now = closeBlocks (x.at_ (x.pc + 8) now) (x.blocks.length + 1) := rfl

theorem closeBlocks_of_no_block (x : Strand) (n : Nat) (h : x.blocks = []) : closeBlocks x n = x := by
  cases n <;> simp [closeBlocks, h]

theorem closeBlocks_of_inside (x : Strand) (n : Nat) (b : Block) (outer : List Block) (h : x.blocks = b :: outer) (hpc : x.pc ≠ b.last) :
    closeBlocks x (n + 1) = x := by
  simp [closeBlocks, h, hpc]

theorem closeBlocks_of_repeat (x : Strand) (n : Nat) (b : Block) (outer : List Block) (h : x.blocks = b :: outer) (hpc : x.pc = b.last)
    (hk : b.kind = .loop) (hr : 1 < b.remain) :
    closeBlocks x (n + 1) = { x with pc := b.first, blocks := { b with remain := b.remain - 1 } :: outer } := by
  simp [closeBlocks, h, hpc, hk, hr]

theorem closeBlocks_of_while (x : Strand) (n : Nat) (b : Block) (outer : List Block) (h : x.blocks = b :: outer) (hpc : x.pc = b.last)
    (hk : b.kind = .whileLoop) : closeBlocks x (n + 1) = { x with pc := b.head } := by
  simp [closeBlocks, h, hpc, hk]

theorem closeBlocks_of_left (x : Strand) (n : Nat) (b : Block) (outer : List Block) (h : x.blocks = b :: outer) (hpc : x.pc = b.last)
    (hk : b.kind = .cond ∨ b.kind = .skip ∨ (b.kind = .loop ∧ b.remain ≤ 1)) :
    closeBlocks x (n + 1) = closeBlocks { x with blocks := outer } n := by
  obtain hk | hk | ⟨hk, hr⟩ := hk
  · simp [closeBlocks, h, hpc, hk]
  · simp [closeBlocks, h, hpc, hk]
  · simp [closeBlocks, h, hpc, hk, Nat.not_lt.mpr hr]

/-! The shared words. -/

/-- An address register of a strand written, and the strand goes on. -/
theorem exec_xset_eq (h : DHdr) (xd val : Nat) (src : Nat) (s : State) (i : Instr) (hi : i ∈ [Instr.vxset h xd src val, .mxset h xd src val, .cpXset h xd src val]) :
    exec i s = xsetWord h xd src val s := by
  simp only [List.mem_cons, List.not_mem_nil, or_false] at hi
  rcases hi with rfl | rfl | rfl <;> rfl

theorem exec_xadd_eq (h : DHdr) (xa xd val : Nat) (s : State) (i : Instr) (hi : i ∈ [Instr.vxadd h xa xd val, .mxadd h xa xd val, .cpXadd h xa xd val]) :
    exec i s = xaddWord h xa xd val s := by
  simp only [List.mem_cons, List.not_mem_nil, or_false] at hi
  rcases hi with rfl | rfl | rfl <;> rfl

/-- A level's field, or 0 where the level is not valid (R11). -/
theorem word_level (b : Bool) (n : Nat) : word (if b then n else 0) = if b then BitVec.ofNat 64 n else 0#64 := by cases b <;> rfl

theorem asAnyStrand_next {s : State} {c e : Nat} (f : Nat → Nat → State) (hs : s.cur = .strand c e) : asAnyStrand s f = .next (f c e) := by
  simp [asAnyStrand, hs]

/-- Settles O18: closing blocks follows the innermost block's kind; the shared words are one change of the strand's address registers. -/
theorem sharedWordsAndBlocks : Obligations.SharedWordsAndBlocks := by
  unfold Obligations.SharedWordsAndBlocks
  refine ⟨⟨fun x now h => ?_, fun x now b outer h => ⟨fun he => ?_, fun he hk hr => ?_, fun he hk => ?_, fun he hk => ?_⟩⟩, ?_⟩
  · rw [Strand.step_eq, closeBlocks_of_no_block (x.at_ (x.pc + 8) now) _ h]
    exact ⟨rfl, rfl, h, rfl, rfl⟩
  · rw [Strand.step_eq, closeBlocks_of_inside (x.at_ (x.pc + 8) now) _ b outer h he, ← h]
    rfl
  · rw [Strand.step_eq, closeBlocks_of_repeat (x.at_ (x.pc + 8) now) _ b outer h he hk hr]
    rfl
  · rw [Strand.step_eq, closeBlocks_of_while (x.at_ (x.pc + 8) now) _ b outer h he hk, ← h]
    rfl
  · rw [Strand.step_eq, closeBlocks_of_left (x.at_ (x.pc + 8) now) _ b outer h he hk, h]
    rfl
  · intro h xa xd val s c e hs hval _
    refine ⟨?_, fun i hi hv => ?_, fun i hi => ?_, fun i hi => ?_, fun i hi => ?_⟩
    · simp only [exec_dataNop, execDataNop, sharedNop, asAnyStrand_next _ hs]
    · rw [exec_xset_eq _ _ _ _ _ _ hi, xsetWord, asAnyStrand_next _ hs, ← sext64_eq_signExtend 25 val (by decide) hv]
      rfl
    · rw [exec_xset_eq _ _ _ _ _ _ hi, xsetWord, asAnyStrand_next _ hs, ← word_level]
      rfl
    · rw [exec_xset_eq _ _ _ _ _ _ hi, xsetWord, asAnyStrand_next _ hs, ← word_level]
      rfl
    · rw [exec_xadd_eq _ _ _ _ _ _ hi, xaddWord, asAnyStrand_next _ hs, ← sext64_eq_signExtend 28 val (by decide) hval]
      rfl

end Sys2Proof.Machine
end

section
/-! Queue-driven words (R24 to R28, R35, R62, R63): the entry they take, the STOP, and the entry of another type. -/

namespace Sys2Proof.Machine

open Sys2Proof

/-- A strand whose head entry has been popped (R26). -/
def Strand.popped (x : Strand) : Strand := { x with cq := { x.cq with popped := x.cq.popped + 1 } }

/-- In u strand e of core c is z; the tasks of the core, every other core and memory are as in s. -/
def strandGoes (s : State) (c e : Nat) (z : Strand) (u : State) : Prop :=
  u.strand c e = z ∧ (u.core c).tasks = (s.core c).tasks ∧ onlyCore s c u ∧ bytesKept s u

theorem strandGoes_of_kept {s u : State} {c e : Nat} {z : Strand} (hz : u.strand c e = z) (h : tasksKept s c u) : strandGoes s c e z u := ⟨hz, h⟩

/-- The state after the head entry of strand e has been popped, in a word with K = 0. -/
def State.popState (s : State) (c e : Nat) : State := (s.modCore c Core.marked).modStrand c e Strand.popped

@[simp] theorem State.popState_strand (s : State) (c e : Nat) : (s.popState c e).strand c e = (s.strand c e).popped := by simp [State.popState]

@[simp] theorem State.popState_counted (s : State) (c e : Nat) : ((s.popState c e).core c).data.counted = (s.core c).data.counted := by
  simp [State.popState]

@[simp] theorem State.popState_withheld (s : State) (c e : Nat) : ((s.popState c e).core c).data.withheld = (s.core c).data.withheld := by
  simp [State.popState]

theorem tasksKept_popState (s : State) (c e : Nat) : tasksKept s c (s.popState c e) :=
  tasksKept_trans (tasksKept_marked s c) (tasksKept_modStrand ..)

theorem faultFree_popState {s : State} {c : Nat} (e : Nat) (h : faultFree s c) : faultFree (s.popState c e) c :=
  faultFree_modStrand e _ (faultFree_marked h)

/-! The pops. -/

section pops

variable {s : State} {c e : Nat} {ent : CqEnt} (hent : (s.strand c e).cq.ents[(s.strand c e).cq.popped]? = some ent)

include hent

/-- A pop of an entry of a type that the word takes. -/
theorem pop_of_type (types : List Nat) (ok : State → CqEnt → State) (none_ : State → State) (h6 : ent.ty ≠ 6) (ht : ent.ty ∈ types) :
    (s.modCore c Core.marked).pop c e types ok none_ = ok (s.popState c e) ent := by
  have hhead : (s.strand c e).cq.head = some ent := hent
  simp only [State.pop, State.marked_strand, hhead, h6, if_false, List.contains_iff_mem.mpr ht, if_true]
  rfl

/-- A pop of an entry of another type is CQ_TYPE. -/
theorem pop_of_wrong_type (types : List Nat) (ok : State → CqEnt → State) (none_ : State → State) (h6 : ent.ty ≠ 6) (ht : ent.ty ∉ types) :
    (s.modCore c Core.marked).pop c e types ok none_ = (s.popState c e).strandFault c e 26 (BitVec.ofNat 64 (s.strand c e).pc) := by
  have hhead : (s.strand c e).cq.head = some ent := hent
  simp only [State.pop, State.marked_strand, hhead, h6, if_false, List.contains_eq_mem, ht, decide_false, Bool.false_eq_true]
  rfl

/-- A STOP leaves the innermost loop around the word. -/
theorem pop_of_stop_in_loop (types : List Nat) (ok : State → CqEnt → State) (none_ : State → State) (h6 : ent.ty = 6) {pc : Nat} {outer : List Block}
    (hl : leaveLoop (s.strand c e).blocks = some (pc, outer)) :
    (s.modCore c Core.marked).pop c e types ok none_ =
      (s.popState c e).modData c fun d => d.modStrand e fun x => ({ x with blocks := outer } : Strand).goTo pc d.counted := by
  have hhead : (s.strand c e).cq.head = some ent := hent
  simp only [State.pop, State.marked_strand, hhead, h6, if_true, hl]
  rfl

/-- Outside any loop a STOP is the word's own matter. -/
theorem pop_of_stop_outside (types : List Nat) (ok : State → CqEnt → State) (none_ : State → State) (h6 : ent.ty = 6)
    (hl : leaveLoop (s.strand c e).blocks = none) :
    (s.modCore c Core.marked).pop c e types ok none_ = none_ (s.popState c e) := by
  have hhead : (s.strand c e).cq.head = some ent := hent
  simp only [State.pop, State.marked_strand, hhead, h6, if_true, hl]
  rfl

end pops

section popLoops

variable {v : State} {c e : Nat} {ent : CqEnt} (hent : (v.strand c e).cq.ents[(v.strand c e).cq.popped]? = some ent)

include hent

/-- A loop word's pop of an entry of its type. -/
theorem popLoop_of_type (ty len : Nat) (ok : State → CqEnt → State) (h6 : ent.ty ≠ 6) (ht : ent.ty = ty) :
    v.popLoop c e ty len ok = ok (v.modStrand c e Strand.popped) ent := by
  have hhead : (v.strand c e).cq.head = some ent := hent
  subst ht
  simp only [State.popLoop, hhead, h6, if_false, if_true]
  rfl

theorem popLoop_of_wrong_type (ty len : Nat) (ok : State → CqEnt → State) (h6 : ent.ty ≠ 6) (ht : ent.ty ≠ ty) :
    v.popLoop c e ty len ok = (v.modStrand c e Strand.popped).strandFault c e 26 (BitVec.ofNat 64 (v.strand c e).pc) := by
  have hhead : (v.strand c e).cq.head = some ent := hent
  simp only [State.popLoop, hhead, h6, if_false, ht]
  rfl

/-- A STOP leaves the loop word's own loop (R28). -/
theorem popLoop_of_stop (ty len : Nat) (ok : State → CqEnt → State) (h6 : ent.ty = 6) :
    v.popLoop c e ty len ok =
      (v.modStrand c e Strand.popped).modData c fun d => d.modStrand e fun x => x.goTo (x.pc + 8 + 8 * len) d.counted := by
  have hhead : (v.strand c e).cq.head = some ent := hent
  simp only [State.popLoop, hhead, h6, if_true]
  rfl

end popLoops

/-! Loops around a word (R28). -/

/-- A block of a loop. -/
def Block.isLoop (b : Block) : Prop := b.kind = .loop ∨ b.kind = .whileLoop

theorem leaveLoop_eq_none (bs : List Block) (h : ∀ b ∈ bs, ¬ b.isLoop) : leaveLoop bs = none := by
  induction bs with
  | nil => rfl
  | cons b bs ih =>
    have hb : ¬ b.isLoop := h b List.mem_cons_self
    simp only [Block.isLoop, not_or] at hb
    simp [leaveLoop, hb, ih fun a ha => h a (List.mem_cons_of_mem _ ha)]

theorem leaveLoop_of_inner (inner outer : List Block) (l : Block) (h : ∀ b ∈ inner, ¬ b.isLoop) (hl : l.isLoop) :
    leaveLoop (inner ++ l :: outer) = some (l.last, outer) := by
  induction inner with
  | nil =>
    have hk : (l.kind == .loop || l.kind == .whileLoop) = true := by simpa [Block.isLoop] using hl
    simp [leaveLoop, hk]
  | cons b inner ih =>
    have hb : ¬ b.isLoop := h b List.mem_cons_self
    simp only [Block.isLoop, not_or] at hb
    simp [leaveLoop, hb, ih fun a ha => h a (List.mem_cons_of_mem _ ha)]

/-! The guards of the constructs (R63). -/

/-- The block of len words after the strand's next word ends inside the block around it. -/
def Strand.fits (x : Strand) (len : Nat) : Prop := ∀ b ∈ x.blocks.head?, x.pc + 8 + 8 * len ≤ b.last

/-- The next word is a while word that issues again after its block. -/
def Strand.again (x : Strand) : Prop := ∃ b ∈ x.blocks.head?, b.kind = .whileLoop ∧ b.head = x.pc

theorem overruns_eq_false (x : Strand) (len : Nat) : overruns x len = false ↔ x.fits len := by
  unfold overruns Strand.fits
  cases x.blocks <;> simp

theorem reissue_eq_true (x : Strand) : reissue x = true ↔ x.again := by
  unfold reissue Strand.again
  cases x.blocks <;> simp



/-! The words as the strands share them. -/

theorem exec_loop_eq (h : DHdr) (len : Nat) (s : State) (i : Instr) (hi : i ∈ [Instr.vloopQ h len, .mloopQ h len, .cpLoopQ h len]) :
    exec i s = loopWord h len s := by
  simp only [List.mem_cons, List.not_mem_nil, or_false] at hi
  rcases hi with rfl | rfl | rfl <;> rfl

theorem exec_while_eq (h : DHdr) (len : Nat) (s : State) (i : Instr) (hi : i ∈ [Instr.vwhileQ h len, .mwhileQ h len, .cpWhileQ h len]) :
    exec i s = whileWord h len s := by
  simp only [List.mem_cons, List.not_mem_nil, or_false] at hi
  rcases hi with rfl | rfl | rfl <;> rfl

theorem exec_if_eq (h : DHdr) (len : Nat) (s : State) (i : Instr) (hi : i ∈ [Instr.vifQ h len, .mifQ h len, .cpIfQ h len]) :
    exec i s = ifWord h len s := by
  simp only [List.mem_cons, List.not_mem_nil, or_false] at hi
  rcases hi with rfl | rfl | rfl <;> rfl

theorem exec_val_eq (h : DHdr) (xd : Nat) (s : State) (i : Instr) (hi : i ∈ [Instr.vvalQ h xd, .mvalQ h xd, .cpValQ h xd]) :
    exec i s = valWord h xd s := by
  simp only [List.mem_cons, List.not_mem_nil, or_false] at hi
  rcases hi with rfl | rfl | rfl <;> rfl

/-! What a word does with its entry. -/

/-- A change of strand e after changes that kept the tasks. -/
theorem strandGoes_change {s v : State} {c e : Nat} {y : Strand} (f : Nat → Strand → Strand) (hk : tasksKept s c v) (hy : v.strand c e = y)
    (hn : (v.core c).data.counted = (s.core c).data.counted) :
    strandGoes s c e (f (s.core c).data.counted y) (v.modData c fun d => d.modStrand e (f d.counted)) :=
  strandGoes_of_kept (by rw [State.strand_modData_modStrand, hy, hn]) (tasksKept_trans hk (tasksKept_modData ..))

theorem strandGoes_popState (s : State) (c e : Nat) (f : Nat → Strand → Strand) :
    strandGoes s c e (f (s.core c).data.counted (s.strand c e).popped) ((s.popState c e).modData c fun d => d.modStrand e (f d.counted)) :=
  strandGoes_change f (tasksKept_popState s c e) (State.popState_strand ..) (State.popState_counted ..)

/-- A release point with nothing withheld leaves the strands alone (R238). -/
theorem releasePoint_of_none_withheld {s : State} {c : Nat} (h : (s.core c).data.withheld = []) (e : Nat) :
    tasksKept s c (s.releasePoint c) ∧ (s.releasePoint c).strand c e = s.strand c e := by
  have hshape : s.releasePoint c = s.modData c fun d => { d with withheld := [], xfers := d.xfers.map fun x => { x with late := false } } := by
    simp [State.releasePoint, h]
  rw [hshape]
  refine ⟨tasksKept_modData .., ?_⟩
  simp only [State.strand, State.modData_core_same]
  rfl

/-- A word of strand e that is a release point of the copy strand. -/
def State.releaseOf (s : State) (c e : Nat) : State := if e = 3 then s.releasePoint c else s

theorem releaseOf_kept {s : State} {c e : Nat} (h : e ≠ 3 ∨ (s.core c).data.withheld = []) :
    tasksKept s c (s.releaseOf c e) ∧ (s.releaseOf c e).strand c e = s.strand c e := by
  unfold State.releaseOf
  split
  · next he => exact releasePoint_of_none_withheld (h.resolve_left fun hne => hne he) e
  · exact ⟨tasksKept_refl s c, rfl⟩

/-- A word that goes on, at a release point of the copy strand. -/
theorem strandGoes_release {s v : State} {c e : Nat} (hk : tasksKept s c v) (hn : (v.core c).data.counted = (s.core c).data.counted)
    (hw : (v.core c).data.withheld = (s.core c).data.withheld) (h : e ≠ 3 ∨ (s.core c).data.withheld = []) :
    strandGoes s c e ((v.strand c e).step (s.core c).data.counted) ((v.stepStrand c e).releaseOf c e) := by
  obtain ⟨hrel, hstrand⟩ := releaseOf_kept (s := v.stepStrand c e) (c := c) (e := e) (by rw [State.stepStrand_withheld, hw]; exact h)
  refine strandGoes_of_kept ?_ (tasksKept_trans hk (tasksKept_trans (tasksKept_stepStrand ..) hrel))
  rw [hstrand, State.stepStrand_strand, hn]

/-- A further change of the strand. -/
theorem strandGoes_modStrand {s v : State} {c e : Nat} {z : Strand} (g : Strand → Strand) (h : strandGoes s c e z v) :
    strandGoes s c e (g z) (v.modStrand c e g) := by
  obtain ⟨hz, hkept⟩ := h
  exact strandGoes_of_kept (by rw [State.modStrand_strand, hz]) (tasksKept_trans hkept (tasksKept_modStrand ..))

/-- A loop word takes a count: it enters its block, or skips it (R62). -/
def loopTaken (c e len : Nat) (s : State) (ent : CqEnt) : State :=
  s.modData c fun d => d.modStrand e fun x =>
    if ent.payload % 2 ^ 32 = 0 then x.skip len d.counted else x.enter .loop len (ent.payload % 2 ^ 32) d.counted

/-- A while word takes an outcome (R62); again says that it issues again after its block. -/
def whileTaken (c e len : Nat) (again : Bool) (s : State) (ent : CqEnt) : State :=
  s.modData c fun d => d.modStrand e fun x =>
    if ent.payload % 2 = 1 then x.enter .whileLoop len 0 d.counted
    else if again then x.goTo (x.pc + 8 + 8 * len) d.counted
    else x.skip len d.counted

/-- An if word takes an outcome (R62). -/
def ifTaken (c e len : Nat) (s : State) (ent : CqEnt) : State :=
  s.modData c fun d => d.modStrand e fun x => if ent.payload % 2 = 1 then x.enter .cond len 0 d.counted else x.skip len d.counted

/-- A region word takes an entry: of its own mode it waits for the crossing, of the other it is CQ_TYPE (R35). -/
def regionTaken (c e mode : Nat) (s : State) (ent : CqEnt) : State :=
  if ent.payload % 2 = mode then ((s.stepStrand c e).releaseOf c e).modStrand c e fun x => { x with atRegion := some (mode == 0) }
  else s.strandFault c e 26 (word (s.strand c e).pc)

section words

variable {s : State} {c e : Nat} {h : DHdr} (hs : s.cur = .strand c e) (hk : h.k = false)

include hs

theorem loopWord_undefined {len : Nat} (hbad : ¬ (s.strand c e).fits len ∨ 2 ≤ loopLevels (s.strand c e).blocks) :
    loopWord h len s = .next (s.undefinedWord c e) := by
  have hg : (overruns (s.strand c e) len || decide (2 ≤ loopLevels (s.strand c e).blocks)) = true := by
    rw [← overruns_eq_false, Bool.not_eq_false] at hbad
    simpa using hbad
  simp only [loopWord, asAnyStrand_next _ hs, hg, if_true]

theorem whileWord_undefined {len : Nat} (hag : ¬ (s.strand c e).again)
    (hbad : ¬ (s.strand c e).fits len ∨ 2 ≤ loopLevels (s.strand c e).blocks) : whileWord h len s = .next (s.undefinedWord c e) := by
  have hg : (overruns (s.strand c e) len || decide (2 ≤ loopLevels (s.strand c e).blocks)) = true := by
    rw [← overruns_eq_false, Bool.not_eq_false] at hbad
    simpa using hbad
  rw [← reissue_eq_true, Bool.not_eq_true] at hag
  simp only [whileWord, asAnyStrand_next _ hs, hag, hg, Bool.not_false, Bool.and_self, if_true]

theorem ifWord_undefined {len : Nat} (hbad : ¬ (s.strand c e).fits len ∨ 2 ≤ condLevels (s.strand c e).blocks) :
    ifWord h len s = .next (s.undefinedWord c e) := by
  have hg : (overruns (s.strand c e) len || decide (2 ≤ condLevels (s.strand c e).blocks)) = true := by
    rw [← overruns_eq_false, Bool.not_eq_false] at hbad
    simpa using hbad
  simp only [ifWord, asAnyStrand_next _ hs, hg, if_true]

theorem rim_undefined (hb : (s.strand c e).blocks ≠ []) : exec (.dataRim h) s = .next (s.undefinedWord c e) := by
  simp [execDataRim, asAnyStrand_next _ hs, hb]

theorem region_undefined (mode : Nat) (hb : (s.strand c e).blocks ≠ []) : exec (.dataRegion h mode) s = .next (s.undefinedWord c e) := by
  simp [execDataRegion, asAnyStrand_next _ hs, hb]

include hk

theorem loopWord_pops {len : Nat} (hf : (s.strand c e).fits len) (hl : loopLevels (s.strand c e).blocks < 2) :
    loopWord h len s = .next ((s.modCore c Core.marked).popLoop c e 0 len (loopTaken c e len)) := by
  simp only [loopWord, asAnyStrand_next _ hs, (overruns_eq_false _ _).mpr hf, Nat.not_le.mpr hl, decide_false, Bool.or_self, Bool.false_eq_true,
    if_false, State.issueWord_of_no_k _ _ _ hk]
  rfl

theorem whileWord_pops {len : Nat} (hag : ¬ (s.strand c e).again) (hf : (s.strand c e).fits len) (hl : loopLevels (s.strand c e).blocks < 2) :
    whileWord h len s = .next ((s.modCore c Core.marked).popLoop c e 1 len (whileTaken c e len false)) := by
  rw [← reissue_eq_true, Bool.not_eq_true] at hag
  simp only [whileWord, asAnyStrand_next _ hs, (overruns_eq_false _ _).mpr hf, Nat.not_le.mpr hl, decide_false, Bool.or_self, Bool.false_eq_true,
    if_false, State.issueWord_of_no_k _ _ _ hk, hag, Bool.and_false]
  rfl

/-- A while word that issues again leaves its block first. -/
theorem whileWord_pops_again {len : Nat} (hag : (s.strand c e).again) :
    whileWord h len s = .next (((s.modCore c Core.marked).modStrand c e fun x => { x with blocks := x.blocks.drop 1 }).popLoop c e 1 len
      (whileTaken c e len true)) := by
  rw [← reissue_eq_true] at hag
  simp only [whileWord, asAnyStrand_next _ hs, hag, Bool.not_true, Bool.false_and, Bool.false_eq_true, if_false, if_true,
    State.issueWord_of_no_k _ _ _ hk]
  rfl

theorem ifWord_pops {len : Nat} (hf : (s.strand c e).fits len) (hl : condLevels (s.strand c e).blocks < 2) :
    ifWord h len s = .next ((s.modCore c Core.marked).pop c e [1] (ifTaken c e len) fun s =>
      s.modData c fun d => d.modStrand e fun x => x.skip len d.counted) := by
  simp only [ifWord, asAnyStrand_next _ hs, (overruns_eq_false _ _).mpr hf, Nat.not_le.mpr hl, decide_false, Bool.or_self, Bool.false_eq_true,
    if_false, State.issueWord_of_no_k _ _ _ hk]
  rfl

theorem valWord_pops (xd : Nat) :
    valWord h xd s = .next ((s.modCore c Core.marked).pop c e [4]
      (fun s ent => (s.modStrand c e fun x => x.setX xd (word (ent.payload % 2 ^ 64))).stepStrand c e) fun s => s.stepStrand c e) := by
  simp only [valWord, asAnyStrand_next _ hs, State.issueWord_of_no_k _ _ _ hk]

theorem region_pops (mode : Nat) (hb : (s.strand c e).blocks = []) :
    exec (.dataRegion h mode) s = .next ((s.modCore c Core.marked).pop c e [5] (regionTaken c e mode) fun s =>
      (s.stepStrand c e).releaseOf c e) := by
  simp only [exec_dataRegion, execDataRegion, asAnyStrand_next _ hs, hb, List.isEmpty_nil, Bool.not_true, Bool.false_eq_true, if_false,
    State.issueWord_of_no_k _ _ _ hk]
  rfl

theorem rim_holds (hb : (s.strand c e).blocks = []) :
    exec (.dataRim h) s =
      .next ((((s.modCore c Core.marked).stepStrand c e).releaseOf c e).modStrand c e fun x => { x with held := true }) := by
  simp only [exec_dataRim, execDataRim, asAnyStrand_next _ hs, hb, List.isEmpty_nil, Bool.not_true, Bool.false_eq_true, if_false,
    State.issueWord_of_no_k _ _ _ hk]
  rfl

end words

/-- The mask of an entry as a result of the next cycle (R25, R268). -/
def DataSide.maskResult (d : DataSide) (kd : Nat) (ent : CqEnt) : VResult :=
  { due := d.counted + 1, seq := d.seq, target := .mreg kd, mask := allCells, val := maskOf ent }

/-- A data side with that result on its way. -/
def DataSide.withMask (d : DataSide) (kd : Nat) (ent : CqEnt) : DataSide := { d with seq := d.seq + 1, vres := d.vres ++ [d.maskResult kd ent] }

/-- A mask word of the vector strand takes an entry. -/
def maskTaken (c kd : Nat) (s : State) (ent : CqEnt) : State := (s.modData c fun d => d.withMask kd ent).stepStrand c 1

theorem maskTaken_strand (c kd : Nat) (s : State) (ent : CqEnt) :
    (maskTaken c kd s ent).strand c 1 = (s.strand c 1).step (s.core c).data.counted := by
  rw [maskTaken, State.stepStrand_strand, State.strand, State.modData_core_same]
  rfl

theorem maskWord_pops {s : State} {c : Nat} {h : DHdr} (hs : s.cur = .strand c 1) (hk : h.k = false) (kd : Nat) :
    exec (.vmaskQ h kd) s = .next ((s.modCore c Core.marked).pop c 1 [2, 3] (maskTaken c kd) fun s => s.stepStrand c 1) := by
  simp only [exec_vmaskQ, execVmaskQ, asStrand, hs, if_true, State.issueWord_of_no_k _ _ _ hk]
  rfl

/-! The states that the words reach. -/

section reached

variable {s : State} {c e : Nat} {ent : CqEnt} (hent : (s.strand c e).cq.ents[(s.strand c e).cq.popped]? = some ent)

/-- An address register takes a value entry. -/
theorem strandGoes_val (xd : Nat) : strandGoes s c e
    (({ (s.strand c e).popped with x := tput (s.strand c e).x xd (BitVec.ofNat 64 ent.payload) } : Strand).step (s.core c).data.counted)
    (((s.popState c e).modStrand c e fun x => x.setX xd (word (ent.payload % 2 ^ 64))).stepStrand c e) := by
  have hw : word (ent.payload % 2 ^ 64) = BitVec.ofNat 64 ent.payload := BitVec.eq_of_toNat_eq (by simp [word])
  refine strandGoes_of_kept ?_ (tasksKept_trans (tasksKept_popState s c e) (tasksKept_trans (tasksKept_modStrand ..) (tasksKept_stepStrand ..)))
  rw [State.stepStrand_strand, State.modStrand_strand, State.modStrand_counted, State.popState_strand, State.popState_counted, hw]
  rfl

/-- The strand goes on after its pop. -/
theorem strandGoes_step : strandGoes s c e ((s.strand c e).popped.step (s.core c).data.counted) ((s.popState c e).stepStrand c e) :=
  strandGoes_popState s c e fun n x => x.step n

/-- A STOP that leaves the loop whose body ends before pc. -/
theorem strandGoes_leave (pc : Nat) (outer : List Block) : strandGoes s c e
    (({ (s.strand c e).popped with blocks := outer } : Strand).goTo pc (s.core c).data.counted)
    ((s.popState c e).modData c fun d => d.modStrand e fun x => ({ x with blocks := outer } : Strand).goTo pc d.counted) :=
  strandGoes_popState s c e fun n x => ({ x with blocks := outer } : Strand).goTo pc n

/-- The fault of a popped word. -/
theorem strandFaulted_popState (code : Nat) (tval : Word) (h : faultFree s c) :
    strandFaulted s c e code tval ((s.popState c e).strandFault c e code tval) :=
  strandFaulted_of_kept (tasksKept_popState s c e) (strandFault_strandFaulted _ _ _ _ (faultFree_popState e h))

/-- An undefined word (R69). -/
theorem strandFaulted_undefined (h : faultFree s c) :
    strandFaulted s c e 27 (BitVec.ofNat 64 (s.strand c e).pc) (s.undefinedWord c e) := strandFault_strandFaulted _ _ _ _ h

/-- The state in which a while word that issues again has left its block and popped its entry. -/
def State.popAgain (s : State) (c e : Nat) : State :=
  ((s.modCore c Core.marked).modStrand c e fun x => { x with blocks := x.blocks.drop 1 }).modStrand c e Strand.popped

theorem tasksKept_popAgain (s : State) (c e : Nat) : tasksKept s c (s.popAgain c e) :=
  tasksKept_trans (tasksKept_marked s c) (tasksKept_trans (tasksKept_modStrand ..) (tasksKept_modStrand ..))

theorem strandGoes_popAgain (f : Nat → Strand → Strand) : strandGoes s c e
    (f (s.core c).data.counted { (s.strand c e).popped with blocks := (s.strand c e).blocks.drop 1 })
    ((s.popAgain c e).modData c fun d => d.modStrand e (f d.counted)) :=
  strandGoes_change f (tasksKept_popAgain s c e) (by simp [State.popAgain, Strand.popped]) (by simp [State.popAgain])

theorem strandFaulted_popAgain (code : Nat) (tval : Word) (h : faultFree s c) :
    strandFaulted s c e code tval ((s.popAgain c e).strandFault c e code tval) :=
  strandFaulted_of_kept (tasksKept_popAgain s c e)
    (strandFault_strandFaulted _ _ _ _ (faultFree_modStrand e _ (faultFree_modStrand e _ (faultFree_marked h))))

include hent

theorem head_marked : ((s.modCore c Core.marked).strand c e).cq.ents[((s.modCore c Core.marked).strand c e).cq.popped]? = some ent := by
  rw [State.marked_strand]; exact hent

theorem head_again : (((s.modCore c Core.marked).modStrand c e fun x => { x with blocks := x.blocks.drop 1 }).strand c e).cq.ents[(((s.modCore c
    Core.marked).modStrand c e fun x => { x with blocks := x.blocks.drop 1 }).strand c e).cq.popped]? = some ent := by
  rw [State.modStrand_strand, State.marked_strand]; exact hent

end reached

/-- The words that pop an entry of their own type (R26, R62). -/
theorem queueWords_take (h : DHdr) (len xd : Nat) (s : State) (c e : Nat) (ent : CqEnt) (hs : s.cur = .strand c e) (hk : h.k = false)
    (hent : (s.strand c e).cq.ents[(s.strand c e).cq.popped]? = some ent) :
    let x := s.strand c e
    let now := (s.core c).data.counted
    let y := x.popped
    let z : Strand := { y with blocks := x.blocks.drop 1 }
    (∀ i ∈ [Instr.vloopQ h len, .mloopQ h len, .cpLoopQ h len], x.fits len → loopLevels x.blocks < 2 → ent.ty = 0 →
      answers i s (strandGoes s c e (if ent.payload % 2 ^ 32 = 0 then y.skip len now else y.enter .loop len (ent.payload % 2 ^ 32) now))) ∧
    (∀ i ∈ [Instr.vwhileQ h len, .mwhileQ h len, .cpWhileQ h len], x.fits len → loopLevels x.blocks < 2 → ¬ x.again → ent.ty = 1 →
      answers i s (strandGoes s c e (if ent.payload % 2 = 1 then y.enter .whileLoop len 0 now else y.skip len now))) ∧
    (∀ i ∈ [Instr.vwhileQ h len, .mwhileQ h len, .cpWhileQ h len], x.again → ent.ty = 1 →
      answers i s (strandGoes s c e (if ent.payload % 2 = 1 then z.enter .whileLoop len 0 now else z.goTo (x.pc + 8 + 8 * len) now))) ∧
    (∀ i ∈ [Instr.vifQ h len, .mifQ h len, .cpIfQ h len], x.fits len → condLevels x.blocks < 2 → ent.ty = 1 →
      answers i s (strandGoes s c e (if ent.payload % 2 = 1 then y.enter .cond len 0 now else y.skip len now))) ∧
    (∀ i ∈ [Instr.vvalQ h xd, .mvalQ h xd, .cpValQ h xd], ent.ty = 4 →
      answers i s (strandGoes s c e (({ y with x := tput y.x xd (BitVec.ofNat 64 ent.payload) } : Strand).step now))) := by
  refine ⟨fun i hi hf hl ht => ?_, fun i hi hf hl hag ht => ?_, fun i hi hag ht => ?_, fun i hi hf hl ht => ?_, fun i hi ht => ?_⟩
  · refine ⟨_, ?_, strandGoes_popState s c e fun n x =>
      if ent.payload % 2 ^ 32 = 0 then x.skip len n else x.enter .loop len (ent.payload % 2 ^ 32) n⟩
    rw [exec_loop_eq h len s i hi, loopWord_pops hs hk hf hl, popLoop_of_type (head_marked hent) _ _ _ (by omega) ht]
    rfl
  · refine ⟨_, ?_, strandGoes_popState s c e fun n x => if ent.payload % 2 = 1 then x.enter .whileLoop len 0 n else x.skip len n⟩
    rw [exec_while_eq h len s i hi, whileWord_pops hs hk hag hf hl, popLoop_of_type (head_marked hent) _ _ _ (by omega) ht]
    rfl
  · refine ⟨_, ?_, strandGoes_popAgain fun n x => if ent.payload % 2 = 1 then x.enter .whileLoop len 0 n else x.goTo (x.pc + 8 + 8 * len) n⟩
    rw [exec_while_eq h len s i hi, whileWord_pops_again hs hk hag, popLoop_of_type (head_again hent) _ _ _ (by omega) ht]
    rfl
  · refine ⟨_, ?_, strandGoes_popState s c e fun n x => if ent.payload % 2 = 1 then x.enter .cond len 0 n else x.skip len n⟩
    rw [exec_if_eq h len s i hi, ifWord_pops hs hk hf hl, pop_of_type hent _ _ _ (by omega) (by simp [ht])]
    rfl
  · refine ⟨_, ?_, strandGoes_val xd⟩
    rw [exec_val_eq h xd s i hi, valWord_pops hs hk, pop_of_type hent _ _ _ (by omega) (by simp [ht])]

/-- The words outside blocks and the mask word take their entry or hold (R15, R25, R35). -/
theorem outerWords_take (h : DHdr) (xd : Nat) (s : State) (c e : Nat) (ent : CqEnt) (hs : s.cur = .strand c e) (hk : h.k = false)
    (hent : (s.strand c e).cq.ents[(s.strand c e).cq.popped]? = some ent) :
    let x := s.strand c e
    let now := (s.core c).data.counted
    let free : Prop := e ≠ 3 ∨ ((s.core c).data.withheld = [] ∧ (s.core c).data.xfers = [])
    (∀ mode, mode < 2 → x.blocks = [] → ent.ty = 5 → ent.payload % 2 = mode → free →
      answers (.dataRegion h mode) s (strandGoes s c e { x.popped.step now with atRegion := some (mode == 0) })) ∧
    (e = 1 → (ent.ty = 2 ∨ ent.ty = 3) →
      answers (.vmaskQ h xd) s fun u => strandGoes s c e (x.popped.step now) u ∧ (u.core c).data.k = (s.core c).data.k ∧
        ∃ r, (u.core c).data.vres = (s.core c).data.vres ++ [r] ∧ r.due = now + 1 ∧ r.target = .mreg xd ∧ r.mask = allCells ∧ r.val = maskOf ent) ∧
    (x.blocks = [] → free → answers (.dataRim h) s (strandGoes s c e { x.step now with held := true })) := by
  refine ⟨fun mode _ hb ht hm hfree => ?_, ?_, fun hb hfree => ?_⟩
  · have hgo := strandGoes_release (tasksKept_popState s c e) (State.popState_counted ..) (State.popState_withheld ..) (hfree.imp_right And.left)
    rw [State.popState_strand] at hgo
    refine ⟨_, ?_, strandGoes_modStrand (fun x => { x with atRegion := some (mode == 0) }) hgo⟩
    rw [region_pops hs hk mode hb, pop_of_type hent _ _ _ (by omega) (by simp [ht]), regionTaken, if_pos hm]
  · rintro rfl ht
    have h6 : ent.ty ≠ 6 := by omega
    refine ⟨_, by rw [maskWord_pops hs hk, pop_of_type hent _ _ _ h6 (by simpa using ht)], strandGoes_of_kept ?_ ?_, ?_,
      ((s.popState c 1).core c).data.maskResult xd ent, ?_, ?_⟩
    · rw [maskTaken_strand, State.popState_strand, State.popState_counted]
    · exact tasksKept_trans (tasksKept_popState ..) (tasksKept_trans (tasksKept_modData ..) (tasksKept_stepStrand ..))
    · simp [maskTaken, State.stepStrand, DataSide.withMask, State.popState, State.modStrand]
    · simp [maskTaken, State.stepStrand, DataSide.withMask, State.popState, State.modStrand]
    · exact ⟨by simp [DataSide.maskResult], rfl, rfl, rfl⟩
  · have hgo := strandGoes_release (tasksKept_marked s c) (by simp) (by simp) (hfree.imp_right And.left)
    rw [State.marked_strand] at hgo
    exact ⟨_, rim_holds hs hk hb, strandGoes_modStrand (fun x => { x with held := true }) hgo⟩

/-- An entry of another type is CQ_TYPE (R27, R69). -/
theorem queueWords_wrong_entry (h : DHdr) (len xd : Nat) (s : State) (c e : Nat) (ent : CqEnt) (hs : s.cur = .strand c e) (hk : h.k = false)
    (hff : faultFree s c) (hent : (s.strand c e).cq.ents[(s.strand c e).cq.popped]? = some ent) :
    let x := s.strand c e
    let wrong := strandFaulted s c e 26 (BitVec.ofNat 64 x.pc)
    (x.fits len → loopLevels x.blocks < 2 →
      (∀ i ∈ [Instr.vloopQ h len, .mloopQ h len, .cpLoopQ h len], ent.ty ≠ 0 → ent.ty ≠ 6 → answers i s wrong) ∧
      ∀ i ∈ [Instr.vwhileQ h len, .mwhileQ h len, .cpWhileQ h len], ent.ty ≠ 1 → ent.ty ≠ 6 → answers i s wrong) ∧
    (x.fits len → condLevels x.blocks < 2 → ∀ i ∈ [Instr.vifQ h len, .mifQ h len, .cpIfQ h len], ent.ty ≠ 1 → ent.ty ≠ 6 → answers i s wrong) ∧
    (∀ i ∈ [Instr.vvalQ h xd, .mvalQ h xd, .cpValQ h xd], ent.ty ≠ 4 → ent.ty ≠ 6 → answers i s wrong) ∧
    (e = 1 → ent.ty ≠ 2 → ent.ty ≠ 3 → ent.ty ≠ 6 → answers (.vmaskQ h xd) s wrong) ∧
    (∀ mode, x.blocks = [] → (ent.ty ≠ 5 ∨ ent.payload % 2 ≠ mode) → ent.ty ≠ 6 → answers (.dataRegion h mode) s wrong) := by
  have hwrong : strandFaulted s c e 26 (BitVec.ofNat 64 (s.strand c e).pc)
      ((s.popState c e).strandFault c e 26 (BitVec.ofNat 64 (s.strand c e).pc)) := strandFaulted_popState 26 _ hff
  refine ⟨fun hf hl => ⟨fun i hi ht h6 => ?_, fun i hi ht h6 => ?_⟩, fun hf hl i hi ht h6 => ?_, fun i hi ht h6 => ?_, ?_, fun mode hb ht h6 => ?_⟩
  · refine ⟨_, ?_, hwrong⟩
    rw [exec_loop_eq h len s i hi, loopWord_pops hs hk hf hl, popLoop_of_wrong_type (head_marked hent) _ _ _ h6 ht, State.marked_strand]
    rfl
  · by_cases hag : (s.strand c e).again
    · refine ⟨_, ?_, strandFaulted_popAgain 26 _ hff⟩
      rw [exec_while_eq h len s i hi, whileWord_pops_again hs hk hag, popLoop_of_wrong_type (head_again hent) _ _ _ h6 ht, State.modStrand_strand,
        State.marked_strand]
      rfl
    · refine ⟨_, ?_, hwrong⟩
      rw [exec_while_eq h len s i hi, whileWord_pops hs hk hag hf hl, popLoop_of_wrong_type (head_marked hent) _ _ _ h6 ht, State.marked_strand]
      rfl
  · refine ⟨_, ?_, hwrong⟩
    rw [exec_if_eq h len s i hi, ifWord_pops hs hk hf hl, pop_of_wrong_type hent _ _ _ h6 (by simpa using ht)]
  · refine ⟨_, ?_, hwrong⟩
    rw [exec_val_eq h xd s i hi, valWord_pops hs hk, pop_of_wrong_type hent _ _ _ h6 (by simpa using ht)]
  · rintro rfl h2 h3 h6
    refine ⟨_, ?_, hwrong⟩
    rw [maskWord_pops hs hk, pop_of_wrong_type hent _ _ _ h6 (by simp [h2, h3])]
  · refine ⟨_, ?_, hwrong⟩
    rw [region_pops hs hk mode hb]
    by_cases h5 : ent.ty = 5
    · have hm : ent.payload % 2 ≠ mode := ht.resolve_left (not_not_intro h5)
      rw [pop_of_type hent _ _ _ h6 (by simp [h5]), regionTaken, if_neg hm, State.popState_strand]
      rfl
    · rw [pop_of_wrong_type hent _ _ _ h6 (by simpa using h5)]

/-- A STOP (R28): outside any loop a word passes or skips its block; inside one the innermost is left; a loop word leaves its own. -/
theorem queueWords_stop (h : DHdr) (len xd : Nat) (s : State) (c e : Nat) (ent : CqEnt) (hs : s.cur = .strand c e) (hk : h.k = false)
    (hent : (s.strand c e).cq.ents[(s.strand c e).cq.popped]? = some ent) (h6 : ent.ty = 6) :
    let x := s.strand c e
    let now := (s.core c).data.counted
    let y := x.popped
    let vals := [Instr.vvalQ h xd, .mvalQ h xd, .cpValQ h xd]
    let ifs := [Instr.vifQ h len, .mifQ h len, .cpIfQ h len]
    let whiles := [Instr.vwhileQ h len, .mwhileQ h len, .cpWhileQ h len]
    let goes (i : Instr) (z : Strand) : Prop := answers i s (strandGoes s c e z)
    ((∀ b ∈ x.blocks, ¬ b.isLoop) → (∀ i ∈ vals, goes i (y.step now)) ∧ (e = 1 → goes (.vmaskQ h xd) (y.step now)) ∧
      (x.fits len → condLevels x.blocks < 2 → ∀ i ∈ ifs, goes i (y.skip len now))) ∧
    (∀ inner l outer, x.blocks = inner ++ l :: outer → (∀ b ∈ inner, ¬ b.isLoop) → l.isLoop →
      let z : Strand := ({ y with blocks := outer } : Strand).goTo l.last now
      (∀ i ∈ vals, goes i z) ∧ (e = 1 → goes (.vmaskQ h xd) z) ∧ (x.fits len → condLevels x.blocks < 2 → ∀ i ∈ ifs, goes i z)) ∧
    (x.fits len → loopLevels x.blocks < 2 →
      (∀ i ∈ [Instr.vloopQ h len, .mloopQ h len, .cpLoopQ h len], goes i (y.goTo (x.pc + 8 + 8 * len) now)) ∧
      ∀ i ∈ whiles, ¬ x.again → goes i (y.goTo (x.pc + 8 + 8 * len) now)) ∧
    ∀ i ∈ whiles, x.again → goes i (({ y with blocks := x.blocks.drop 1 } : Strand).goTo (x.pc + 8 + 8 * len) now) := by
  refine ⟨fun hno => ⟨fun i hi => ?_, ?_, fun hf hl i hi => ?_⟩, fun inner l outer hb hin hl => ⟨fun i hi => ?_, ?_, fun hf hc i hi => ?_⟩,
    fun hf hl => ⟨fun i hi => ?_, fun i hi hag => ?_⟩, fun i hi hag => ?_⟩
  · exact ⟨_, by rw [exec_val_eq h xd s i hi, valWord_pops hs hk, pop_of_stop_outside hent _ _ _ h6 (leaveLoop_eq_none _ hno)], strandGoes_step⟩
  · rintro rfl
    exact ⟨_, by rw [maskWord_pops hs hk, pop_of_stop_outside hent _ _ _ h6 (leaveLoop_eq_none _ hno)], strandGoes_step⟩
  · refine ⟨_, ?_, strandGoes_popState s c e fun n x => x.skip len n⟩
    rw [exec_if_eq h len s i hi, ifWord_pops hs hk hf hl, pop_of_stop_outside hent _ _ _ h6 (leaveLoop_eq_none _ hno)]
  · have hleave : leaveLoop (s.strand c e).blocks = some (l.last, outer) := by rw [hb]; exact leaveLoop_of_inner inner outer l hin hl
    exact ⟨_, by rw [exec_val_eq h xd s i hi, valWord_pops hs hk, pop_of_stop_in_loop hent _ _ _ h6 hleave], strandGoes_leave ..⟩
  · rintro rfl
    have hleave : leaveLoop (s.strand c 1).blocks = some (l.last, outer) := by rw [hb]; exact leaveLoop_of_inner inner outer l hin hl
    exact ⟨_, by rw [maskWord_pops hs hk, pop_of_stop_in_loop hent _ _ _ h6 hleave], strandGoes_leave ..⟩
  · have hleave : leaveLoop (s.strand c e).blocks = some (l.last, outer) := by rw [hb]; exact leaveLoop_of_inner inner outer l hin hl
    exact ⟨_, by rw [exec_if_eq h len s i hi, ifWord_pops hs hk hf hc, pop_of_stop_in_loop hent _ _ _ h6 hleave], strandGoes_leave ..⟩
  · refine ⟨_, ?_, strandGoes_popState s c e fun n x => x.goTo (x.pc + 8 + 8 * len) n⟩
    rw [exec_loop_eq h len s i hi, loopWord_pops hs hk hf hl, popLoop_of_stop (head_marked hent) _ _ _ h6]
    rfl
  · refine ⟨_, ?_, strandGoes_popState s c e fun n x => x.goTo (x.pc + 8 + 8 * len) n⟩
    rw [exec_while_eq h len s i hi, whileWord_pops hs hk hag hf hl, popLoop_of_stop (head_marked hent) _ _ _ h6]
    rfl
  · refine ⟨_, ?_, strandGoes_popAgain fun n x => x.goTo (x.pc + 8 + 8 * len) n⟩
    rw [exec_while_eq h len s i hi, whileWord_pops_again hs hk hag, popLoop_of_stop (head_again hent) _ _ _ h6]
    rfl

/-- A construct whose guard of R63 fails is an undefined word. -/
theorem constructs_undefined (h : DHdr) (len : Nat) (s : State) (c e : Nat) (hs : s.cur = .strand c e) (hff : faultFree s c) :
    let x := s.strand c e
    let undefined := strandFaulted s c e 27 (BitVec.ofNat 64 x.pc)
    (¬ x.fits len ∨ 2 ≤ loopLevels x.blocks →
      (∀ i ∈ [Instr.vloopQ h len, .mloopQ h len, .cpLoopQ h len], answers i s undefined) ∧
      ∀ i ∈ [Instr.vwhileQ h len, .mwhileQ h len, .cpWhileQ h len], ¬ x.again → answers i s undefined) ∧
    (¬ x.fits len ∨ 2 ≤ condLevels x.blocks → ∀ i ∈ [Instr.vifQ h len, .mifQ h len, .cpIfQ h len], answers i s undefined) ∧
    (x.blocks ≠ [] → answers (.dataRim h) s undefined ∧ ∀ mode, answers (.dataRegion h mode) s undefined) := by
  have hund := strandFaulted_undefined (e := e) hff
  exact ⟨fun hbad => ⟨fun i hi => ⟨_, by rw [exec_loop_eq h len s i hi, loopWord_undefined hs hbad], hund⟩,
      fun i hi hag => ⟨_, by rw [exec_while_eq h len s i hi, whileWord_undefined hs hag hbad], hund⟩⟩,
    fun hbad i hi => ⟨_, by rw [exec_if_eq h len s i hi, ifWord_undefined hs hbad], hund⟩,
    fun hb => ⟨⟨_, rim_undefined hs hb, hund⟩, fun mode => ⟨_, region_undefined hs mode hb, hund⟩⟩⟩

/-- Settles O19, by the type of the head entry: the word's own, another, or a STOP; and by the guards of R63. -/
theorem queueDrivenWordsTakeOrRefuseTheirEntry : Obligations.QueueDrivenWordsTakeOrRefuseTheirEntry := by
  unfold Obligations.QueueDrivenWordsTakeOrRefuseTheirEntry
  constructor
  · intro h len xd s c e ent hs _ hk hent
    obtain ⟨hloop, hwhile, hagain, hif, hval⟩ := queueWords_take h len xd s c e ent hs hk hent
    obtain ⟨hregion, hmask, hrim⟩ := outerWords_take h xd s c e ent hs hk hent
    exact ⟨hloop, hwhile, hagain, hif, hval, hregion, hmask, hrim⟩
  · intro h len xd s c e ent hs _ hk hdbg hdf hdm hent
    have hff : faultFree s c := ⟨hdbg, hdf, hdm⟩
    obtain ⟨wloop, wif, wval, wmask, wregion⟩ := queueWords_wrong_entry h len xd s c e ent hs hk hff hent
    obtain ⟨hloops, hifs, hwords⟩ := constructs_undefined h len s c e hs hff
    refine ⟨wloop, wif, wval, wmask, wregion, fun mode hb h6 hfree => ?_, fun h6 => queueWords_stop h len xd s c e ent hs hk hent h6,
      fun hf => ⟨fun i hi => ?_, (hloops (.inl hf)).2⟩, fun hl => hloops (.inr hl), fun hl => hifs (.inr hl), hwords⟩
    · have hgo := strandGoes_release (tasksKept_popState s c e) (State.popState_counted ..) (State.popState_withheld ..)
        (hfree.imp_right And.left)
      rw [State.popState_strand] at hgo
      exact ⟨_, by rw [region_pops hs hk mode hb, pop_of_stop_outside hent _ _ _ h6 (leaveLoop_eq_none _ (by rw [hb]; simp))], hgo⟩
    · rcases List.mem_append.mp hi with hi | hi
      · exact (hloops (.inl hf)).1 i hi
      · exact hifs (.inl hf) i hi

end Sys2Proof.Machine
end

section
/-! SUPPORT. What the fetch reads of an instruction's words: which of them a decoded instruction rests on, and whether a word of R50 stands before it. -/

namespace Sys2Proof.Machine

open Sys2Proof

/-! The word of R50 before a parsed instruction: the first of its words says whether there is one. -/

@[simp] theorem wR_mod_eight (op fn rb ra rd : Nat) : wR op fn rb ra rd % 8 = 0 := by simp only [wR]; omega
@[simp] theorem wI_mod_eight (op imm ra rd : Nat) : wI op imm ra rd % 8 = 0 := by simp only [wI]; omega
@[simp] theorem wJ_mod_eight (op off : Nat) : wJ op off % 8 = 0 := by simp only [wJ]; omega

theorem bit_le_one (b : Bool) : bit b ≤ 1 := by cases b <;> decide

theorem hasPfx_of_ctl {i : Instr} {h : CHdr} {w : Nat} (e : encode i = ctl h w) (hw : w % 8 = 0) : hasPfx i = h.pfx.isSome := by
  have hl := bit_le_one h.l
  cases hp : h.pfx with
  | none => simp [hasPfx, e, ctl, wPair, hp, fld]; omega
  | some p => simp [hasPfx, e, ctl, wPair, hp, fld, wPfx]; omega

theorem hasPfx_of_ctlW {i : Instr} {h : CHdr} {w imm : Nat} (e : encode i = ctlW h w imm) (hw : w % 8 = 0) : hasPfx i = h.pfx.isSome := by
  have hl := bit_le_one h.l
  cases hp : h.pfx with
  | none => simp [hasPfx, e, ctlW, wPair, hp, fld]; omega
  | some p => simp [hasPfx, e, ctlW, wPair, hp, fld, wPfx]; omega

/-- Every instruction that a parse can give has a word of R50 before it just where the header has one. -/
def pfxIs (h : CHdr) (o : Option Instr) : Prop := ∀ i, o = some i → hasPfx i = h.pfx.isSome

theorem pfxIs_none (h : CHdr) : pfxIs h none := fun _ e => nomatch e

theorem pfxIs_some {h : CHdr} {i : Instr} (e : hasPfx i = h.pfx.isSome) : pfxIs h (some i) := fun _ e' => by cases e'; exact e

theorem pfxIs_ite {h : CHdr} {p : Prop} [Decidable p] {a b : Option Instr} (ha : pfxIs h a) (hb : pfxIs h b) : pfxIs h (if p then a else b) := by
  split <;> assumption

theorem pfxIs_zeros {h : CHdr} {p : Bool} {i : Instr} (hi : pfxIs h (some i)) : pfxIs h (zeros p i) := pfxIs_ite hi (pfxIs_none h)

theorem parseControl64_pfxIs (h : CHdr) (w imm : Nat) : pfxIs h (parseControl64 h w imm) := by
  unfold parseControl64
  dsimp only
  split
  all_goals
    repeat' first | with_reducible apply pfxIs_zeros | with_reducible exact pfxIs_none _ | refine pfxIs_some (hasPfx_of_ctlW rfl ?_)
  all_goals simp only [wR_mod_eight]

theorem parseControl32_pfxIs (h : CHdr) (w : Nat) : pfxIs h (parseControl32 h w) := by
  unfold parseControl32
  dsimp only
  split
  all_goals
    repeat' first | with_reducible apply pfxIs_ite | with_reducible apply pfxIs_zeros | with_reducible exact pfxIs_none _ | refine pfxIs_some (hasPfx_of_ctl rfl ?_)
  all_goals simp only [wR_mod_eight, wI_mod_eight, wJ_mod_eight]

/-! The upper half of an instruction of format C-W (R55, R204). -/

/-- A parse gives an instruction. -/
def gives (o : Option Instr) : Bool := (keepWellFormed o).isSome

@[simp] theorem gives_none : gives none = false := rfl

@[simp] theorem gives_some (i : Instr) : gives (some i) = wellFormed i := by
  unfold gives keepWellFormed; cases h : wellFormed i <;> simp [h]

@[simp] theorem gives_zeros (c : Bool) (i : Instr) : gives (zeros c i) = (c && wellFormed i) := by
  cases c <;> simp [zeros]

theorem gives_iff (o : Option Instr) : gives o = true ↔ ∃ i, keepWellFormed o = some i := Option.isSome_iff_exists

theorem keepWellFormed_eq_none (o : Option Instr) : keepWellFormed o = none ↔ gives o = false := by simp [gives]

/-- The words of format C-W whose second word names a size (R204). -/
def sizedOp (w : Nat) : Bool := fld w 3 7 == 0x1D || fld w 3 7 == 0x5A

/-- What a second word makes an instruction, the second word 0 makes one as well, where it names no size. -/
theorem gives_zero_half {h : CHdr} {w imm : Nat} (hs : sizedOp w = false) (hg : gives (parseControl64 h w imm) = true) :
    gives (parseControl64 h w 0) = true := by
  unfold parseControl64 at hg ⊢
  dsimp only at hg ⊢
  split at hg
  all_goals simp_all [wellFormed, sizedOp, g6]

/-- The second word 0 names no size. -/
theorem not_gives_zero_size {h : CHdr} {w : Nat} (hs : sizedOp w = true) : gives (parseControl64 h w 0) = false := by
  simp only [sizedOp, Bool.or_eq_true, beq_iff_eq] at hs
  obtain hs | hs := hs <;> simp [parseControl64, hs, wellFormed]

/-- Where the second word names a size, 4 bytes is one that the instruction has. -/
theorem gives_word_size {h : CHdr} {w imm : Nat} (hs : sizedOp w = true) (hg : gives (parseControl64 h w imm) = true) :
    gives (parseControl64 h w 2) = true := by
  simp only [sizedOp, Bool.or_eq_true, beq_iff_eq] at hs
  obtain hs | hs := hs <;> simp_all [parseControl64, wellFormed]

/-- A word that starts no instruction of format C-W makes the same of every second word. -/
theorem keep_parseControl_of_narrow (h : CHdr) {w : Nat} (hw : wideWord w = false) (imm imm' : Nat) :
    keepWellFormed (parseControl h w imm) = keepWellFormed (parseControl h w imm') := by
  unfold parseControl
  split
  next => rfl
  next hl =>
    unfold parseControl64
    dsimp only
    split <;> simp_all [wideWord]
  next => rfl

theorem parseControl_of_wide (h : CHdr) {w : Nat} (hw : wideWord w = true) (imm : Nat) : parseControl h w imm = parseControl64 h w imm := by
  simp only [wideWord, Bool.and_eq_true, beq_iff_eq] at hw
  simp [parseControl, hw.1]

theorem parseControl_pfxIs (h : CHdr) (w imm : Nat) : pfxIs h (parseControl h w imm) := by
  unfold parseControl
  split
  · exact parseControl32_pfxIs h w
  · exact parseControl64_pfxIs h w imm
  · exact pfxIs_none h

theorem keep_pfxIs {h : CHdr} {o : Option Instr} (ho : pfxIs h o) : pfxIs h (keepWellFormed o) := by
  unfold keepWellFormed
  split
  · exact pfxIs_ite ho (pfxIs_none h)
  · exact pfxIs_none h

/-! The fate of words that are an instruction (R53). -/

theorem controlFate_prefixed {pc w0 w1 w2 n : Nat} {i : Instr} (hp : fld w0 0 2 = 2) :
    controlFate pc w0 w1 w2 = .ins i n ↔ ∃ p, parsePfx w0 = some p ∧ fld w1 2 1 ≠ 1 ∧ fld w1 0 2 ≠ 2 ∧
      gives (parseControl ⟨false, none⟩ w1 w2) = true ∧ keepWellFormed (parseControl ⟨false, some p⟩ w1 w2) = some i ∧ 1 + controlWords w1 = n := by
  unfold controlFate
  rw [if_pos (by simp [hp])]
  cases hq : parsePfx w0 with
  | none => simp
  | some p =>
    by_cases hl : fld w1 2 1 = 1
    · simp [hl]
    by_cases hpp : fld w1 0 2 = 2
    · simp [hl, hpp]
    simp only [hl, hpp, beq_iff_eq, if_false, gives]
    cases h1 : keepWellFormed (parseControl ⟨false, none⟩ w1 w2) with
    | none => simp
    | some j =>
      cases h2 : keepWellFormed (parseControl ⟨false, some p⟩ w1 w2) with
      | none => simp [h2]
      | some k => simp [h2, hl, hpp]

theorem controlFate_plain {pc w0 w1 w2 n : Nat} {i : Instr} (hp : fld w0 0 2 ≠ 2) :
    controlFate pc w0 w1 w2 = .ins i n ↔ keepWellFormed (parseControl ⟨fld w0 2 1 == 1, none⟩ w0 w1) = some i ∧ controlWords w0 = n := by
  unfold controlFate
  rw [if_neg (by simp [hp])]
  cases h : keepWellFormed (parseControl ⟨fld w0 2 1 == 1, none⟩ w0 w1) <;> simp

theorem controlWords_pos (w : Nat) : controlWords w ≠ 0 := by unfold controlWords; split <;> decide

/-- An instruction is a word or more long, and its first word says whether a word of R50 stands before it. -/
theorem controlFate_ins {pc w0 w1 w2 n : Nat} {i : Instr} (h : controlFate pc w0 w1 w2 = .ins i n) : hasPfx i = decide (w0 % 4 = 2) ∧ n ≠ 0 := by
  have hf : fld w0 0 2 = w0 % 4 := by simp [fld]
  by_cases hp : fld w0 0 2 = 2
  · obtain ⟨p, _, _, _, _, hk, hn⟩ := (controlFate_prefixed hp).1 h
    exact ⟨by simpa [← hf, hp] using keep_pfxIs (parseControl_pfxIs _ _ _) i hk, by omega⟩
  · obtain ⟨hk, hn⟩ := (controlFate_plain hp).1 h
    exact ⟨by simpa [← hf, hp] using keep_pfxIs (parseControl_pfxIs _ _ _) i hk, hn ▸ controlWords_pos w0⟩

/-! The fetch of an instruction whose words are held. -/

/-- An instruction may come of the words before and some half. -/
def halfOpen (fate : Nat → Fate) : Prop := (∃ i n, fate 0 = .ins i n) ∨ ((∃ v, fate 0 = .bad 1 v) ∧ ∃ i n, fate 2 = .ins i n)

theorem Fetch.upper_of_halfOpen {fate : Nat → Fate} (h : halfOpen fate) (w : Nat) : (Fetch.word w).upper fate = .fate (fate w) := by
  unfold Fetch.upper
  obtain ⟨i, n, h0⟩ | ⟨⟨v, h0⟩, i, n, h2⟩ := h
  · simp [h0, Fetch.next]
  · simp [h0, h2, Fetch.next]

theorem halfOpen_plain {pc w0 w1 n : Nat} {i : Instr} (hw : wideWord w0 = true) (h : controlFate pc w0 w1 0 = .ins i n) :
    halfOpen fun w => controlFate pc w0 w 0 := by
  have hp : fld w0 0 2 ≠ 2 := by
    simp only [wideWord, Bool.and_eq_true, beq_iff_eq] at hw
    omega
  have hg : gives (parseControl64 ⟨fld w0 2 1 == 1, none⟩ w0 w1) = true := by
    rw [← parseControl_of_wide _ hw]
    exact (gives_iff _).2 ⟨i, ((controlFate_plain hp).1 h).1⟩
  have hins (m : Nat) (hm : gives (parseControl64 ⟨fld w0 2 1 == 1, none⟩ w0 m) = true) : ∃ j k, controlFate pc w0 m 0 = .ins j k := by
    obtain ⟨j, hj⟩ := (gives_iff _).1 hm
    exact ⟨j, _, (controlFate_plain hp).2 ⟨by rw [parseControl_of_wide _ hw, hj], rfl⟩⟩
  cases hs : sizedOp w0 with
  | false => exact .inl (hins 0 (gives_zero_half hs hg))
  | true =>
    refine .inr ⟨⟨w0, ?_⟩, hins 2 (gives_word_size hs hg)⟩
    have hn := (keepWellFormed_eq_none _).2 (not_gives_zero_size (h := ⟨fld w0 2 1 == 1, none⟩) hs)
    simp [controlFate, hp, parseControl_of_wide _ hw, hn]

theorem halfOpen_prefixed {pc w0 w1 w2 n : Nat} {i : Instr} (hp : fld w0 0 2 = 2) (hw : wideWord w1 = true)
    (h : controlFate pc w0 w1 w2 = .ins i n) : halfOpen (controlFate pc w0 w1) := by
  obtain ⟨p, hq, hl, hpp, hg, hk, -⟩ := (controlFate_prefixed hp).1 h
  rw [parseControl_of_wide _ hw] at hg hk
  have hgp : gives (parseControl64 ⟨false, some p⟩ w1 w2) = true := (gives_iff _).2 ⟨i, hk⟩
  have hins (m : Nat) (hm : gives (parseControl64 ⟨false, none⟩ w1 m) = true) (hm' : gives (parseControl64 ⟨false, some p⟩ w1 m) = true) :
      ∃ j k, controlFate pc w0 w1 m = .ins j k := by
    obtain ⟨j, hj⟩ := (gives_iff _).1 hm'
    exact ⟨j, _, (controlFate_prefixed hp).2 ⟨p, hq, hl, hpp, by rwa [parseControl_of_wide _ hw], by rw [parseControl_of_wide _ hw, hj], rfl⟩⟩
  cases hs : sizedOp w1 with
  | false => exact .inl (hins 0 (gives_zero_half hs hg) (gives_zero_half hs hgp))
  | true =>
    refine .inr ⟨⟨w1, ?_⟩, hins 2 (gives_word_size hs hg) (gives_word_size hs hgp)⟩
    have hn := (keepWellFormed_eq_none _).2 (not_gives_zero_size (h := ⟨false, none⟩) hs)
    simp [controlFate, hp, hq, hl, hpp, parseControl_of_wide _ hw, hn]

theorem controlFate_ignores_third {pc w0 : Nat} (hp : fld w0 0 2 ≠ 2) (w1 w2 w2' : Nat) : controlFate pc w0 w1 w2 = controlFate pc w0 w1 w2' := by
  simp [controlFate, hp]

/-- The fetch finds the instruction that the three words from its address on decode to. -/
theorem State.fetchIns_of_words {s : State} {c pc w0 w1 w2 n : Nat} {i : Instr} (hpc : pc < 2 ^ 64)
    (h0 : s.fetch c pc = .word w0) (h1 : s.fetch c ((pc + 4) % 2 ^ 64) = .word w1) (h2 : s.fetch c ((pc + 8) % 2 ^ 64) = .word w2)
    (h : controlFate pc w0 w1 w2 = .ins i n) : s.fetchIns c pc = .fate (.ins i n) := by
  unfold State.fetchIns
  simp only [Nat.mul_zero, Nat.add_zero, Nat.mod_eq_of_lt hpc, h0, Nat.mul_one, h1, Nat.reduceMul, h2, Fetch.next]
  by_cases hp : fld w0 0 2 = 2
  · obtain ⟨p, hq, hl, hpp, hg, hk, hn⟩ := (controlFate_prefixed hp).1 h
    simp only [hp, hq, Option.isSome_some, beq_self_eq_true, Bool.and_self, if_true]
    cases hw : wideWord w1 with
    | true => simp [Fetch.upper_of_halfOpen (halfOpen_prefixed hp hw h), h]
    | false =>
      simp only [Bool.false_eq_true, if_false]
      congr 1
      rw [controlFate_prefixed hp]
      refine ⟨p, hq, hl, hpp, ?_, ?_, hn⟩
      · rwa [gives, keep_parseControl_of_narrow _ hw 0 w2]
      · rwa [keep_parseControl_of_narrow _ hw 0 w2]
  · simp only [beq_eq_false_iff_ne.2 hp, Bool.false_and, Bool.false_eq_true, if_false]
    rw [controlFate_ignores_third hp w1 w2 0] at h
    cases hw : wideWord w0 with
    | true => simp [Fetch.upper_of_halfOpen (halfOpen_plain hw h), h]
    | false =>
      obtain ⟨hk, hn⟩ := (controlFate_plain hp).1 h
      simp only [Bool.false_eq_true, if_false]
      congr 1
      exact (controlFate_plain hp).2 ⟨by rwa [keep_parseControl_of_narrow _ hw 0 w1], hn⟩

end Sys2Proof.Machine
end

section
/-! PROOF. A step runs the decoded instruction: the turns of the units, and the room of a slice of the L2. -/

namespace Sys2Proof.Machine

open Sys2Proof

/-! The step (R107; assumption 76). -/

/-- A step with a turn at hand carries it out at the state without it. -/
theorem step_of_turns {s : State} {x : Turn} {l : List Turn} (h : s.turns = x :: l) :
    step s = State.bounded { s with turns := l } (State.turn { s with turns := l } x) := by
  simp [step, State.nextTurn, h]

/-- A state whose homes are as they were has the room that it had. -/
theorem State.bounded_of_homes {s u : State} (h : u.homes = s.homes) : s.bounded (.next u) = .next u := by
  have ho : u.overfull = s.overfull := by simp [State.overfull, State.sliceLines, h]
  simp [State.bounded, ho]

/-! The control slice (R19). -/

theorem Core.mem_rotation {k : Core} {t : Nat} : t ∈ k.rotation ↔ t < 8 := by
  simp only [Core.rotation, List.mem_map, mem_span]
  constructor
  · rintro ⟨i, _, rfl⟩; omega
  · intro ht
    refine ⟨(t + 7 - k.rot % 8) % 8 + 1, by omega, by omega⟩

/-- A task that is not ready is passed over. -/
theorem State.ctlChoice_of_not_ready {s : State} {c t : Nat} (h : (s.task c t).st ≠ .ready) : s.ctlChoice c t = .stall := by
  have h' : ((s.core c).task t).st ≠ .ready := h
  simp [State.ctlChoice, h']

/-- A ready task whose next instruction is fetched and may issue issues it. -/
theorem State.ctlChoice_issue {s : State} {c t n : Nat} {i : Instr} (hst : (s.task c t).st = .ready) (hnb : (s.task c t).notBefore ≤ (s.core c).cycle)
    (hfd : t = 0 → (s.core c).faultDue = false) (hbp : (s.core c).bps = []) (hf : s.fetchIns c (s.task c t).pc.toNat = .fate (.ins i n))
    (hr : s.ctlReady c t i = true) : s.ctlChoice c t = .issue i n := by
  have hfree : (t == 0 && (s.core c).faultDue) = false := by
    by_cases ht : t = 0
    · simp [hfd ht]
    · simp [ht]
  have hst' : ((s.core c).task t).st = .ready := hst
  have hnb' : ((s.core c).task t).notBefore ≤ (s.core c).cycle := hnb
  have hf' : s.fetchIns c ((s.core c).task t).pc.toNat = .fate (.ins i n) := hf
  simp [State.ctlChoice, hst', hnb', hfree, hf', hr, Core.breakpoint, hbp, firstWhere]

/-- The one task that can go on is selected. -/
theorem State.selectTask_eq {s : State} {c t : Nat} (ht : t < 8) (hruns : s.ctlRuns c = true) (hiss : (s.core c).issued = false)
    (hot : ∀ u, u < 8 → u ≠ t → (s.task c u).st ≠ .ready) (hgo : (s.ctlChoice c t).goes = true) : s.selectTask c = some t := by
  have honly : ∀ u ∈ (s.core c).rotation, (s.ctlChoice c u).goes = true → u = t := fun u hu hg => by
    by_contra hne
    rw [State.ctlChoice_of_not_ready (hot u (Core.mem_rotation.1 hu) hne)] at hg
    cases hg
  simp only [State.selectTask, hruns, hiss, Bool.not_true, Bool.or_self, Bool.false_eq_true, if_false, firstWhere_eq_find?]
  cases hfound : (s.core c).rotation.find? fun u => (s.ctlChoice c u).goes with
  | none => exact absurd hgo (List.find?_eq_none.1 hfound t (Core.mem_rotation.2 ht))
  | some u =>
    have hu : (s.ctlChoice c u).goes = true := List.find?_some (p := fun u => (s.ctlChoice c u).goes) hfound
    rw [honly u (List.mem_of_find?_eq_some hfound) hu]

/-- The turn of a core that is not frozen is its selected task's. -/
theorem State.ctlTurn_of_selected {s : State} {c t : Nat} (hruns : s.ctlRuns c = true) (hsel : s.selectTask c = some t) :
    s.ctlTurn c = s.takeTurn c t (s.ctlChoice c t) := by
  have hfz : s.isFrozen c = false := by
    simp only [State.ctlRuns, Bool.and_eq_true, Bool.not_eq_true'] at hruns
    exact hruns.2
  simp [State.ctlTurn, hfz, hsel]

theorem bytesKept_beginIssue (s : State) (c t n : Nat) : bytesKept s (s.beginIssue c t n) :=
  bytesKept_trans (bytesKept_of_parts _ _ rfl rfl rfl) (bytesKept_modCore _ _ _ ⟨rfl, rfl, rfl, rfl⟩)

/-! The data strands (R30), NMUs and samplers (R332, R445). -/

/-- A word that the buffer holds and that may issue issues, outside any block. -/
theorem State.dataChoice_issue {s : State} {c e w : Nat} {i : Instr} (hgo : s.dataGoes c e = true) (hbl : (s.strand c e).blocks = [])
    (hbp : (s.core c).bps = []) (hw : s.dataWord c e = .word w true) (hd : decodeData e w = some i) : s.dataChoice c e = .issue i := by
  have hskip : ((s.core c).data.strand e).skipping = false := by
    have hbl' : ((s.core c).data.strand e).blocks = [] := hbl
    simp [Strand.skipping, hbl']
  have hshape : s.dataChoice c e =
      if (s.core c).cycleOpen || (dataReady (s.core c) e i && ((s.core c).data.timed || dataClear (s.core c).data e i)) then .issue i else .stall := by
    simp [State.dataChoice, hskip, hw, hd, Core.breakpoint, hbp, firstWhere]
  by_cases h : ((s.core c).cycleOpen || (dataReady (s.core c) e i && ((s.core c).data.timed || dataClear (s.core c).data e i))) = true
  · rw [hshape, if_pos h]
  · rw [State.dataGoes, hshape, if_neg h] at hgo
    cases hgo

/-- An NMU counts its turn as a cycle, and runs the word at its command's pc. -/
theorem State.nmuTurn_issue {s y : State} {n w : Nat} {r : NRun} {i : Instr} (hy : (s.modNmu n fun u => { u with clk := u.clk + 1 }) = y)
    (hrun : (y.nmu n).run = some r) (hmay : y.nmuMayIssue n r = true) (hword : r.cmd.words[r.st.pc]? = some w) (hd : decodeNmu w = some i) :
    s.nmuTurn n = exec i { y with cur := .nmu n } := by
  subst hy
  have hfetched : r.fetched = i := by simp [NRun.fetched, hword, hd]
  simp only [State.nmuTurn, hrun, hmay, hfetched, if_true]

/-- A sampler word runs as its instruction. -/
theorem runSmOp_eq_exec (o : SmOp) (s : State) : runSmOp o s = exec o.instr s := by cases o <;> rfl

/-- A run that goes on runs the word at its PC, and counts it. -/
theorem State.runTurn_issue {s : State} {d h w : Nat} {x : SmCtx} {i : Instr} (hctx : s.smCtx d h = some x) (hgo : s.runGoes x = true)
    (hcancel : x.cancelDue = false) (hlim : x.issued < x.stepmax) (hword : x.prog[x.pc]? = some w) (hdec : decodeSampler w = some i) :
    s.runTurn d h = exec i { (s.modCtx d h fun x => { x with issued := x.issued + 1 }).modSmp d (fun y => { y with stat := smWords y.stat }) with
      cur := .run d h } := by
  obtain ⟨o, ho, rfl⟩ := Option.map_eq_some_iff.1 hdec
  have hfetched : x.fetched = some o := by simp [SmCtx.fetched, hword, ho]
  simp only [State.runTurn, hctx, hgo, hcancel, Nat.not_le.2 hlim, hfetched, ← runSmOp_eq_exec, decide_false, Bool.not_true, Bool.or_self,
    Bool.false_eq_true, if_false]

/-! The turns of the units, at the state without the schedule's turn. -/

theorem State.turn_issueCtl {s : State} {c : Nat} (hc : c < 8192) : s.turn (.issueCtl c) = s.ctlTurn c := by
  simp [State.turn, Turn.absent, Nat.not_le.2 hc]

theorem State.turn_issueData {s : State} {c e : Nat} (hc : c < 8192) (he : 1 ≤ e) (he3 : e ≤ 3) : s.turn (.issueData c e) = s.dataTurn c e := by
  have habs : Turn.absent (.issueData c e) = none := by
    simp only [Turn.absent]
    rw [if_neg (by omega), if_neg (by omega)]
  simp [State.turn, habs]

theorem State.turn_issueNmu {s : State} {n : Nat} (hn : n < 32768) : s.turn (.issueNmu n) = s.nmuTurn n := by
  simp [State.turn, Turn.absent, Nat.not_le.2 hn]

theorem State.turn_issueRun {s : State} {d h : Nat} (hd : d < 128) : s.turn (.issueRun d h) = s.runTurn d h := by
  simp [State.turn, Turn.absent, Nat.not_le.2 hd]

theorem State.turn_event (s : State) (i : Instr) : s.turn (.event i) = exec i { s with cur := .none } := rfl

/-- Settles O57: the unit's next words are fetched and decoded, and the turn runs exec of what they decode to. -/
theorem aStepRunsTheDecodedInstruction : Obligations.AStepRunsTheDecodedInstruction := by
  intro s l i v
  refine ⟨?_, ?_, ?_, ?_, ?_, ?_⟩
  · intro c t w0 w1 w2 n hs hc ht hruns hiss hot hst hnb hfd hbp pc h0 h1 h2 hfate hready
    have hfetch : v.fetchIns c pc = .fate (.ins i n) := State.fetchIns_of_words (BitVec.isLt _) h0 h1 h2 hfate
    have hchoice : v.ctlChoice c t = .issue i n := State.ctlChoice_issue hst hnb hfd hbp hfetch hready
    have hsel : v.selectTask c = some t := State.selectTask_eq ht hruns hiss hot (by rw [hchoice]; rfl)
    have hstep : step s = v.bounded (v.takeTurn c t (.issue i n)) := by
      rw [step_of_turns hs, State.turn_issueCtl hc, State.ctlTurn_of_selected hruns hsel, hchoice]
    obtain ⟨hpfx, hn⟩ := controlFate_ins hfate
    refine ⟨fun hpop => ?_, fun hpop hload => ?_, fun hpop hload => ?_⟩
    · rw [hstep, State.takeTurn, if_pos hpop, State.bounded_of_homes rfl]
    · have hpark : v.takeTurn c t (.issue i n) = .next ((v.beginIssue c t (if hasPfx i then 2 else 1)).park c t .loads i (4 * n)) := by
        rw [State.takeTurn, if_neg (by simp [hpop]), if_pos hload]
      refine ⟨_, (hstep.trans (congrArg v.bounded hpark)).trans (State.bounded_of_homes rfl), by rw [State.park_task_same], ?_⟩
      exact bytesKept_trans (bytesKept_of_parts s v rfl rfl rfl) (bytesKept_trans (bytesKept_beginIssue ..) (State.park_bytes ..))
    · rw [hstep, State.takeTurn, if_neg (by simp [hpop]), if_neg (by simp [hload])]
      simp only [State.carryOut, hpfx, hn, if_false, decide_eq_true_eq]
  · intro c e w hs hc he he3 hsave hgo hbl hbp hw hd
    have hgoes : v.dataGoes c e = true := by
      simp only [State.dataIssues, Bool.and_eq_true] at hgo
      exact hgo.1.2
    rw [step_of_turns hs, State.turn_issueData hc he he3]
    change v.bounded (v.dataTurn c e) = _
    rw [State.dataTurn, hsave, hgo, State.dataChoice_issue hgoes hbl hbp hw hd]
    rfl
  · intro n r w hs hn y hrun hmay hword hd
    rw [step_of_turns hs, State.turn_issueNmu hn]
    exact congrArg v.bounded (State.nmuTurn_issue rfl hrun hmay hword hd)
  · intro d h x w hs hd hctx hgo hcancel hlim hword hdec
    rw [step_of_turns hs, State.turn_issueRun hd]
    exact congrArg v.bounded (State.runTurn_issue hctx hgo hcancel hlim hword hdec)
  · intro hs
    rw [step_of_turns hs, State.turn_event]
  · intro x t hs ht
    have hstep : step s = v.bounded (.next t) := by
      rw [step_of_turns hs]
      change v.bounded (v.turn x) = _
      rw [ht]
    refine ⟨fun h => ?_, fun h h' => ?_⟩
    · simp [hstep, State.bounded, h]
    · simp [hstep, State.bounded, h, h']

end Sys2Proof.Machine
end

section
/-! PROOF. Transfers that complete, and trackers that are armed. -/

namespace Sys2Proof.Machine

open Sys2Proof

/-! Slots (R23). -/

theorem tget_foldl_tput {α : Type} (d x : α) (keys : List Nat) (t : Tbl α) (q : Nat) :
    tget d (keys.foldl (fun t k => tput t k x) t) q = if q ∈ keys then x else tget d t q := by
  induction keys generalizing t with
  | nil => simp
  | cons k keys ih =>
    rw [List.foldl_cons, ih, tget_tput]
    by_cases hq : q ∈ keys <;> by_cases hk : q = k <;> simp [hq, hk]

theorem DataSide.slot_setSlots (d : DataSide) (keys : List Nat) (x : SlotSt) (q : Nat) :
    (d.setSlots keys x).slot q = if q ∈ keys then x else d.slot q := tget_foldl_tput ..

/-! Additions to a barrier (R40, R44). -/

/-- A barrier after arrivals and bytes; what came from outside a halted weave is marked (R44). -/
def State.barAfter (s : State) (b : BarId) (n : Nat) : Barrier :=
  let y := (s.barrier b).apply 0 n
  { y with outside := y.outside || (y.due && s.barFrozen b) }

/-- The state with barrier b as y. -/
def State.putBarrier (s : State) (b : BarId) (y : Barrier) : State := { s with barriers := tput s.barriers (barKey b) y }

@[simp] theorem State.putBarrier_core (s : State) (b : BarId) (y : Barrier) (c : Nat) : (s.putBarrier b y).core c = s.core c := rfl
@[simp] theorem State.putBarrier_trkUnit (s : State) (b : BarId) (y : Barrier) (n : Nat) : (s.putBarrier b y).trkUnit n = s.trkUnit n := rfl
@[simp] theorem State.putBarrier_barrier (s : State) (b : BarId) (y : Barrier) : (s.putBarrier b y).barrier b = y := by
  simp [State.putBarrier, State.barrier]

theorem State.barAdd_of_set {s : State} {b : BarId} (n : Nat) (h : (s.barrier b).unset = false) :
    s.barAdd b 0 n = some (s.putBarrier b (s.barAfter b n)) := by
  simp [State.barAdd, h, State.barAfter, State.putBarrier]

theorem State.barAdd_of_unset {s : State} {b : BarId} (n : Nat) (h : (s.barrier b).unset = true) : s.barAdd b 0 n = none := by
  simp [State.barAdd, h]

theorem State.isFrozen_modData (s : State) (c e : Nat) (f : DataSide → DataSide) : (s.modData c f).isFrozen e = s.isFrozen e := by
  by_cases he : e = c
  · subst he; simp [State.isFrozen]
  · simp [State.isFrozen, State.modData, State.modCore_core_other _ _ _ _ he]

theorem State.job_modData (s : State) (c e : Nat) (f : DataSide → DataSide) : ((s.modData c f).core e).job = (s.core e).job := by
  by_cases he : e = c
  · subst he; simp
  · simp [State.modData, State.modCore_core_other _ _ _ _ he]

/-- A change of the data engines of a core leaves the halt of barriers as it is. -/
theorem State.barFrozen_modData (s : State) (c : Nat) (f : DataSide → DataSide) (b : BarId) : (s.modData c f).barFrozen b = s.barFrozen b := by
  cases b <;> simp only [State.barFrozen, State.isFrozen_modData, State.job_modData] <;> rfl

theorem State.barAfter_modData (s : State) (c : Nat) (f : DataSide → DataSide) (b : BarId) (n : Nat) :
    (s.modData c f).barAfter b n = s.barAfter b n := by
  simp [State.barAfter, State.barFrozen_modData, State.barrier]

/-! A transfer that completes (R23, R238). -/

/-- The data side with transfer x over: it has left the list, its slots change hands. -/
def DataSide.completed (d : DataSide) (x : Xfer) (id : Nat) : DataSide :=
  ({ d with xfers := d.xfers.filter fun y => y.id != id }.setSlots x.inSlots .empty).setSlots x.outSlots .ready

theorem DataSide.completed_slot (d : DataSide) (x : Xfer) (id q : Nat) :
    (d.completed x id).slot q = if q ∈ x.outSlots then .ready else if q ∈ x.inSlots then .empty else d.slot q := by
  rw [DataSide.completed, DataSide.slot_setSlots, DataSide.slot_setSlots]
  rfl

@[simp] theorem DataSide.completed_xfers (d : DataSide) (x : Xfer) (id : Nat) :
    (d.completed x id).xfers = d.xfers.filter fun y => y.id != id := rfl
@[simp] theorem DataSide.completed_withheld (d : DataSide) (x : Xfer) (id : Nat) : (d.completed x id).withheld = d.withheld := rfl
@[simp] theorem DataSide.halted_xfers (d : DataSide) : d.halted.xfers = d.xfers := rfl
@[simp] theorem DataSide.halted_slot (d : DataSide) (q : Nat) : d.halted.slot q = d.slot q := rfl

/-- The completion of transfer x, as an entry of the withheld ones. -/
def Xfer.completion (x : Xfer) (b : BarId) : Withheld := { bar := b, amount := x.moved, word := x.pc, cycle := x.cycle }

/-- A transfer whose bytes are all performed is over. -/
theorem exec_copyTransferComplete_over {s : State} {c id : Nat} {x : Xfer}
    (hx : firstWhere (fun y => y.id == id) (s.core c).data.xfers = some x) (hfz : s.isFrozen c = false) (hsecs : ∀ q ∈ x.secs, q.st = .writing)
    (hacc : ∀ a ∈ (s.core c).accs, a.xfer ≠ id) (hflip : ∀ b va, x.bar = some (b, va) → s.flippedNow b = false) :
    exec (.copyTransferComplete c id) s =
      match x.bar with
      | none => .next (s.modData c fun d => d.completed x id)
      | some (b, _) =>
        if x.late then .next ((s.modData c fun d => d.completed x id).modData c fun d => { d with withheld := d.withheld ++ [x.completion b] })
        else .next ((s.modData c fun d => d.completed x id).addWithheld c (x.completion b)) := by
  have hall : (x.secs.all fun q => q.st == .writing) = true := by simpa using hsecs
  have hany : (s.core c).accs.any (fun a => a.xfer == id) = false := by simpa using hacc
  rw [exec_copyTransferComplete, execCopyTransferComplete]
  cases hb : x.bar with
  | none => simp [hx, hfz, hall, hany, hb]; rfl
  | some p =>
    obtain ⟨b, va⟩ := p
    simp [hx, hfz, hall, hany, hb, hflip b va hb]
    rfl

/-- A transfer with a byte still to come, or whose barrier has flipped in this cycle, is not over. -/
theorem exec_copyTransferComplete_waits {s : State} {c id : Nat} {x : Xfer}
    (hx : firstWhere (fun y => y.id == id) (s.core c).data.xfers = some x)
    (h : (∃ b va, x.bar = some (b, va) ∧ s.flippedNow b = true) ∨ ∃ q ∈ x.secs, q.st ≠ .writing) :
    exec (.copyTransferComplete c id) s = .next s := by
  rw [exec_copyTransferComplete, execCopyTransferComplete]
  obtain ⟨b, va, hb, hf⟩ | ⟨q, hq, hst⟩ := h
  · simp [hx, hb, hf]
  · have hall : (x.secs.all fun q => q.st == .writing) = false := by
      simp only [List.all_eq_false]
      exact ⟨q, hq, by simpa using hst⟩
    simp [hx, hall]

/-- A completion at a barrier that is configured adds its bytes. -/
theorem State.addWithheld_of_set {s : State} {w : Withheld} (c : Nat) (h : (s.barrier w.bar).unset = false) :
    s.addWithheld c w = s.putBarrier w.bar (s.barAfter w.bar w.amount) := by
  simp [State.addWithheld, State.barAdd_of_set _ h]

/-- What a first strand fault leaves of the data side: transfers and slots. -/
theorem strandFault_data {s : State} {c : Nat} (e code : Nat) (tval : Word) (va : Nat) (hf : faultFree s c) :
    ((s.strandFault c e code tval va).core c).data = (s.core c).data.halted ∧ (s.strandFault c e code tval va).barriers = s.barriers := by
  have hff : faultFree (s.modData c DataSide.halted) c := faultFree_modData _ hf
  obtain ⟨hdbg, hdf, hdm⟩ := hff
  have hkeep : ((s.modData c DataSide.halted).core c).keepsFault e = true := by rw [Core.keepsFault, hdf, hdm]; rfl
  have hshape : s.strandFault c e code tval va = (s.modData c DataSide.halted).modCore c fun k =>
      { k with dfault := some { strand := e, code, tval, cycle := k.cycle, word := tval.toNat, va }, dmet := true } := by
    rw [State.strandFault, show s.stopData c = s.modData c DataSide.halted from rfl, State.dataFault, hkeep, hdbg]
    simp
  rw [hshape]
  exact ⟨by simp, by simp⟩

/-! Stored transfers (R258, R260, R261). -/

/-- The stored transfer at the head of die n's queue is gone. -/
def State.storedOver (s : State) (n : Nat) : State := { s with trk := tmod {} s.trk n fun u => { u with queue := u.queue.drop 1 } }

theorem State.storedOver_queue {s : State} {n : Nat} {y : Stored} {rest : List Stored} (h : (s.trkUnit n).queue = y :: rest) :
    ((s.storedOver n).trkUnit n).queue = rest := by
  have h' : (tget ({} : TrkUnit) s.trk n).queue = y :: rest := h
  simp [State.storedOver, State.trkUnit, tget_tmod_same, h']

/-- A stored transfer that has moved its bytes adds them to its barrier, where its weave still stands. -/
theorem exec_storedTransferComplete_moved {s : State} {n : Nat} {x : Xfer} {y : Stored} {rest : List Stored}
    (hq : (s.trkUnit n).queue = y :: rest) (hh : s.weaveHalted y.tracker.weave = false) (hfail : y.failed = false)
    (hx : y.tracker.xfer = some x) (hsecs : ∀ q ∈ x.secs, q.st = .writing) :
    exec (.storedTransferComplete n) s =
      match x.bar with
      | none => .next (s.storedOver n)
      | some (b, _) => if s.weaveGone y.tracker.weave then .next (s.storedOver n)
        else .next (((s.storedOver n).barAddOf y.tracker.weave b x.moved).getD ((s.storedOver n).storedFault n y.tracker 14 y.tracker.barVa)) := by
  have hall : (x.secs.all fun q => q.st == .writing) = true := by simpa using hsecs
  rw [exec_storedTransferComplete, execStoredTransferComplete]
  simp only [hq, hh, hfail, hx, hall]
  cases x.bar <;> rfl

/-- A failed stored transfer is TRACKER_FAULT of the arming job (R258, R261). -/
theorem exec_storedTransferComplete_failed {s : State} {n : Nat} {y : Stored} {rest : List Stored}
    (hq : (s.trkUnit n).queue = y :: rest) (hh : s.weaveHalted y.tracker.weave = false) (hfail : y.failed = true) :
    exec (.storedTransferComplete n) s = .next ((s.storedOver n).storedFault n y.tracker 33 y.tracker.recVa) := by
  rw [exec_storedTransferComplete, execStoredTransferComplete]
  simp only [hq, hh, hfail]
  rfl

/-- The fault goes to the job that is on the core. -/
theorem State.storedFault_of_job {s : State} {n j : Nat} {t : Tracker} (code va : Nat) (hj : (s.core t.core).job = some (t.weave, j))
    (hw : ∃ v, tfind s.weaves t.weave = some v ∧ v.torn = false) : s.storedFault n t code va = s.asyncFault t.core code 0 (word va) := by
  obtain ⟨v, hv, htorn⟩ := hw
  simp [State.storedFault, State.jobFault, hj, hv, htorn]

/-! Additions to a barrier of a saved job (R180, R260). -/

/-- The images of a weave with bytes added to barrier b of core e. -/
def Weave.imagesAdded (v : Weave) (e : Nat) (b : BarId) (n : Nat) : Weave :=
  { v with images := v.images.map fun i => if i.2.core == e then (i.1, { i.2 with bars := tmod {} i.2.bars (barKey b) fun x => x.apply 0 n }) else i }

theorem State.barAddOf_saved {s : State} {w e m n : Nat} {v : Weave} (hv : tfind s.weaves w = some v) (hold : v.holds (.core e m) = true)
    (him : ∃ i ∈ v.images, i.2.core = e) (hset : ∀ i ∈ v.images, i.2.core = e → (tget {} i.2.bars (barKey (.core e m)) : Barrier).unset = false) :
    s.barAddOf w (.core e m) n = some (s.modWeave w fun x => x.imagesAdded e (.core e m) n) := by
  have hsaved : s.barSaved w (.core e m) = true := by
    obtain ⟨i, hi, hc⟩ := him
    simp only [State.barSaved, hv, List.any_eq_true]
    exact ⟨i, hi, by simp [hc]⟩
  have hall : (v.images.any fun i => i.2.core == e && (tget {} i.2.bars (barKey (.core e m)) : Barrier).unset) = false := by
    simp only [List.any_eq_false, Bool.and_eq_true, beq_iff_eq, not_and, Bool.not_eq_true]
    exact fun i hi hc => hset i hi hc
  simp only [State.barAddOf, hv, Option.any_some, hold, Bool.not_true, hsaved, hall, Bool.false_eq_true, if_false]
  rfl

theorem State.modWeave_weave {s : State} {w : Nat} {v : Weave} (f : Weave → Weave) (hv : tfind s.weaves w = some v) :
    s.modWeave w f = { s with weaves := tput s.weaves w (f v) } := by simp [State.modWeave, hv]

theorem Weave.mem_imagesAdded {v : Weave} {e n : Nat} {b : BarId} {i : Nat × Image} (hi : i ∈ v.images) (hc : i.2.core = e) :
    ∃ j ∈ (v.imagesAdded e b n).images, j.1 = i.1 ∧ (tget {} j.2.bars (barKey b) : Barrier) = (tget {} i.2.bars (barKey b) : Barrier).apply 0 n := by
  refine ⟨(i.1, { i.2 with bars := tmod {} i.2.bars (barKey b) fun x => x.apply 0 n }), ?_, rfl, by simp [tget_tmod_same]⟩
  exact List.mem_map.2 ⟨i, hi, by simp [hc]⟩

/-! Arming (R254, R255). -/

theorem numOfBytes_lt (n : Nat) (bs : List Byte) : numOfBytes n bs < 256 ^ n := by
  induction n generalizing bs with
  | zero => simp [numOfBytes]
  | succ n ih =>
    cases bs with
    | nil => simp [numOfBytes]
    | cons b bs =>
      have hb : b.toNat < 256 := b.isLt
      have hr := ih bs
      rw [numOfBytes, pow_succ]
      omega

theorem blockWord_lt (bs : List Byte) (i : Nat) : blockWord bs i < 2 ^ 64 := by
  have hlen : ((bs.drop (8 * i)).take 8).length ≤ 8 := by simp
  calc blockWord bs i < 256 ^ ((bs.drop (8 * i)).take 8).length := numOfBytes_lt ..
    _ ≤ 256 ^ 8 := Nat.pow_le_pow_right (by decide) hlen
    _ = 2 ^ 64 := by decide

/-- The fields of an arm record that R254 asks for. -/
def armFields (bs : List Byte) : Prop :=
  blockWord bs 0 % 32 = 0 ∧ blockWord bs 1 % 2 ^ 32 % 32 = 0 ∧ 32 ≤ blockWord bs 1 % 2 ^ 32 ∧ blockWord bs 1 % 2 ^ 32 ≤ 2 ^ 30 ∧
    1 ≤ blockWord bs 1 / 2 ^ 32 ∧ blockWord bs 2 / 2 ^ 18 % 2 ^ 45 = 0 ∧ ∀ i, 12 ≤ i → i < 16 → blockWord bs i = 0

theorem armExpect_eq (bs : List Byte) : armExpect bs = blockWord bs 1 / 2 ^ 32 := by
  have h := blockWord_lt bs 1
  simp only [armExpect, fld]
  omega

theorem armFieldsOk_iff (bs : List Byte) : armFieldsOk bs = true ↔ armFields bs := by
  simp only [armFieldsOk, armExpect_eq, armBase, armLen, armEvt, fld, pow_zero, Nat.div_one, Bool.and_eq_true, beq_iff_eq, decide_eq_true_eq,
    List.all_eq_true, mem_span, armFields, and_imp, and_assoc]

theorem onlyTask_modTask (s : State) (c t : Nat) (f : Task → Task) : onlyTask s c t (s.modTask c t f) := ⟨onlyCore_modTask .., by simp⟩

/-- Task t of core c has its answer v in register d, and goes on len bytes further. -/
def taskAnswered (s : State) (c t d len v : Nat) (u : State) : Prop :=
  u.reg c t d = (if d = 0 then 0#64 else BitVec.ofNat 64 v) ∧ (∀ r, r ≠ d → u.reg c t r = s.reg c t r) ∧
    (u.task c t).st = .ready ∧ (u.task c t).pc = (s.task c t).pc + BitVec.ofNat 64 len ∧ bytesKept s u

theorem State.waitOf_eq_some {s : State} {c t : Nat} {w : Wait} : s.waitOf c t = some w ↔ (s.task c t).st = .parked ∧ (s.task c t).wait = some w := by
  simp [State.waitOf]

theorem Task.wake_of_wait {x : Task} {w : Wait} (h : x.wait = some w) : x.wake = { x.next w.len with st := .ready, wait := none } := by
  simp [Task.wake, h]

/-- A parked task that wakes with a value. -/
theorem State.wakeWith_answered {s u : State} {c t d v : Nat} {w : Wait} (hw : s.waitOf c t = some w) (hc : u.cores = s.cores)
    (hb : bytesKept s u) : taskAnswered s c t d w.len v (u.wakeWith c t d (word v)) := by
  have htask : u.task c t = s.task c t := by simp [State.task, State.core, hc]
  have hwait : ((s.task c t).setReg d (word v)).wait = some w := by rw [Task.setReg_wait, (State.waitOf_eq_some.1 hw).2]
  have hreg (r : Nat) : (u.wakeWith c t d (word v)).reg c t r = ((s.task c t).setReg d (word v)).reg r := by
    simp only [State.reg, State.wakeWith, State.modTask_task_same, htask, Task.wake_of_wait hwait]
    rfl
  refine ⟨?_, fun r hr => ?_, ?_, ?_, bytesKept_trans hb (modTask_bytes ..)⟩
  · rw [hreg, Task.setReg_reg_same]; rfl
  · rw [hreg, Task.setReg_reg_other _ _ _ _ hr]; rfl
  · simp [State.wakeWith, htask, Task.wake_of_wait hwait]
  · simp [State.wakeWith, htask, Task.wake_of_wait hwait]

/-- The state with tracker n of die d armed as t. -/
def State.armed (s : State) (d n : Nat) (t : Tracker) : State :=
  { s with trk := tmod {} s.trk d fun u => { u with armed := tput u.armed n t } }

/-- The state with a refused arm counted at die d. -/
def State.armRefused (s : State) (d : Nat) : State := { s with trk := tmod {} s.trk d fun u => { u with stat := countUp u.stat 16 16 1 } }

theorem State.armed_armed (s : State) (d n : Nat) (t : Tracker) : tfind ((s.armed d n t).trkUnit d).armed n = some t := by
  simp [State.armed, State.trkUnit, tget_tmod_same]

theorem State.armRefused_armed (s : State) (d : Nat) : ((s.armRefused d).trkUnit d).armed = (s.trkUnit d).armed := by
  simp [State.armRefused, State.trkUnit, tget_tmod_same]

/-- The record's stored transfer. -/
def State.armXfer (s : State) (c : Nat) (bs : List Byte) : Option Xfer := if armWord bs = 0 then none else s.storedXfer c bs

/-- The tracker that a record arms. -/
def State.newTracker (s : State) (c va : Nat) (bs : List Byte) (ps : List (Nat × Nat)) : Tracker :=
  { ctx := (s.core c).ctxno, weave := s.weaveNo c, core := c, pieces := ps, expect := armExpect bs, evt := armEvt bs, xword := armWord bs,
    xfer := s.armXfer c bs, barVa := match s.armXfer c bs with | some y => (y.bar.map Prod.snd).getD 0 | none => 0, recVa := va }

section
variable {s : State} {c va pa n : Nat} {bs : List Byte} {ps : List (Nat × Nat)}

theorem State.armTracker_badWord (hw : armWord bs ≠ 0) (hx : s.storedXfer c bs = none) : s.armTracker c va bs ps = (3#64, s) := by
  simp [State.armTracker, hw, hx]

theorem State.armTracker_busy (hps : ps = (pa, n) :: ps.drop 1) (hx : armWord bs = 0 ∨ s.storedXfer c bs ≠ none)
    (hbusy : ∀ i, i < 16 → tfind (s.trkUnit (paDie pa)).armed (16 * fld pa 7 7 + i) ≠ none) :
    s.armTracker c va bs ps = (1#64, s.armRefused (paDie pa)) := by
  have hnone : firstWhere (fun i => (tfind (s.trkUnit (paDie pa)).armed (16 * fld pa 7 7 + i)).isNone) (span 0 16) = none := by
    rw [firstWhere_eq_none]
    intro i hi
    simpa [Option.isSome_iff_ne_none] using hbusy i (by simpa using hi)
  rw [hps]
  simp only [State.armTracker, hnone]
  rw [if_neg (by rintro ⟨h, h'⟩; simp [h] at h'; exact hx.elim h fun g => g h')]
  rfl

theorem State.armTracker_free {i : Nat} (hps : ps = (pa, n) :: ps.drop 1) (hx : armWord bs = 0 ∨ s.storedXfer c bs ≠ none) (hi : i < 16)
    (hfree : tfind (s.trkUnit (paDie pa)).armed (16 * fld pa 7 7 + i) = none)
    (hlow : ∀ j, j < i → tfind (s.trkUnit (paDie pa)).armed (16 * fld pa 7 7 + j) ≠ none) :
    s.armTracker c va bs ps = (word (2 ^ 8 * i + 2 ^ 12 * fld pa 7 7 + 2 ^ 19 * paDie pa),
      s.armed (paDie pa) (16 * fld pa 7 7 + i) (s.newTracker c va bs ps)) := by
  have hsome : firstWhere (fun i => (tfind (s.trkUnit (paDie pa)).armed (16 * fld pa 7 7 + i)).isNone) (span 0 16) = some i := by
    rw [firstWhere_span_eq_some]
    exact ⟨hi, by simp [hfree], fun j hj => by simpa [Option.isSome_iff_ne_none] using hlow j hj⟩
  rw [hps]
  simp only [State.armTracker, hsome]
  rw [if_neg (by rintro ⟨h, h'⟩; simp [h] at h'; exact hx.elim h fun g => g h')]
  rfl

end

/-- The home slice looks at the record, and answers. -/
theorem exec_trkArmAnswer_record {s : State} {c t d a : Nat} {h : CHdr} {w : Wait} {bs : List Byte} (hw : s.waitOf c t = some w)
    (hwhat : w.what = .answer) (hins : w.instr = .trkArm h d a) (hfz : s.isFrozen c = false)
    (hacc : ∀ x ∈ (s.core c).accs, x.party = t → x.storeLike = false ∧ x.space ≠ .device)
    (hblock : s.readBlock c t (s.reg c t a).toNat 128 = .ok bs) :
    exec (.trkArmAnswer c t) s = .next (if !armFieldsOk bs then s.wakeWith c t d (word 2)
      else match rangeCheck (s.core c) c bs with
        | .miss x => s.fatal c t 0 7 (s.task c t).pc (word x)
        | .bad => s.wakeWith c t d (word 2)
        | .ok ps => (s.armTracker c (s.reg c t a).toNat bs ps).2.wakeWith c t d (s.armTracker c (s.reg c t a).toNat bs ps).1) := by
  have hready : (s.core c).armReady t = true := by
    simp only [Core.armReady, Core.pending, List.all_eq_true, List.mem_filter, Bool.and_eq_true, beq_iff_eq]
    rintro x ⟨hx, hp, -⟩
    obtain ⟨h1, h2⟩ := hacc x hx hp
    simp [h1, h2]
  rw [exec_trkArmAnswer, execTrkArmAnswer]
  simp only [hw, hwhat, hins, hfz, hready, withBlock, hblock]
  rfl

/-- Settles O28: what each completion and each answer leaves, one case of the model at a time. -/
theorem transfersCompleteAndTrackersAreArmed : Obligations.TransfersCompleteAndTrackersAreArmed := by
  refine ⟨fun s c id n x => ⟨?_, ?_, ?_, ?_⟩, fun h d a s c t => ⟨?_, ?_, ?_⟩⟩
  · intro hx hfz hsecs hacc hflip
    have hover := exec_copyTransferComplete_over hx hfz hsecs hacc hflip
    refine ⟨fun hb => ?_, fun b va hb hlate => ?_, fun b va hb hlate hset => ?_, fun b va hb hlate hunset hdbg hdf hdm => ?_⟩
    · rw [hb] at hover
      exact ⟨_, hover, ⟨by simp, fun q => by simp [DataSide.completed_slot]⟩, by simp, by simp⟩
    · simp only [hb, hlate, if_true] at hover
      refine ⟨_, hover, ⟨by simp, fun q => ?_⟩, by simp, by simp [Xfer.completion]⟩
      simpa [DataSide.slot] using DataSide.completed_slot (s.core c).data x id q
    · simp only [hb, hlate, Bool.false_eq_true, if_false] at hover
      rw [State.addWithheld_of_set c (by simpa [State.barrier, Xfer.completion] using hset)] at hover
      refine ⟨_, hover, ?_, by simp, by simp⟩
      rw [Xfer.completion, State.putBarrier_barrier, State.barAfter_modData]
      rfl
    · simp only [hb, hlate, Bool.false_eq_true, if_false] at hover
      have hff : faultFree (s.modData c fun d => d.completed x id) c := faultFree_modData _ ⟨hdbg, hdf, hdm⟩
      have hadd : (s.modData c fun d => d.completed x id).addWithheld c (x.completion b) =
          (s.modData c fun d => d.completed x id).strandFault c 3 14 (word x.pc) := by
        have hun : ((s.modData c fun d => d.completed x id).barrier b).unset = true := by simpa [State.barrier] using hunset
        simp [State.addWithheld, Xfer.completion, State.barAdd_of_unset _ hun]
      obtain ⟨hdata, hbars⟩ := strandFault_data 3 14 (word x.pc) 0 hff
      obtain ⟨-, hfault, -, -⟩ := strandFault_strandFaulted 3 14 (word x.pc) 0 hff
      rw [hadd] at hover
      exact ⟨_, hover, ⟨by simp [hdata], fun q => by simp [hdata, DataSide.completed_slot]⟩, by simp [hbars], hfault⟩
  · intro hx hb
    exact exec_copyTransferComplete_waits hx (.inl hb)
  · intro hx hq
    exact exec_copyTransferComplete_waits hx (.inr hq)
  · intro y rest hq hh
    refine ⟨fun hfail hx hsecs => ⟨fun hb => ?_, fun b va hb hgone hold => ⟨fun hsaved hset => ?_, fun e m v hbe hv him hset => ?_⟩⟩, fun j hfail hj hw hdbg => ?_⟩
    · have hover := exec_storedTransferComplete_moved hq hh hfail hx hsecs
      rw [hb] at hover
      exact ⟨_, hover, State.storedOver_queue hq, rfl, rfl⟩
    · have hover := exec_storedTransferComplete_moved hq hh hfail hx hsecs
      have hnot : ((tfind s.weaves y.tracker.weave).any fun v => !v.holds b) = false := by
        cases hv : tfind s.weaves y.tracker.weave with
        | none => rfl
        | some v => simp [hold v hv]
      have hadd : (s.storedOver n).barAddOf y.tracker.weave b x.moved = some ((s.storedOver n).putBarrier b (s.barAfter b x.moved)) := by
        change (if ((tfind s.weaves y.tracker.weave).any fun v => !v.holds b) then _ else if !s.barSaved y.tracker.weave b then _ else _) = _
        rw [hnot, hsaved]
        exact State.barAdd_of_set (s := s.storedOver n) _ hset
      simp only [hb, hgone, hadd, Bool.false_eq_true, if_false, Option.getD_some] at hover
      exact ⟨_, hover, by rw [State.putBarrier_trkUnit, State.storedOver_queue hq], by rw [State.putBarrier_barrier]; rfl⟩
    · subst hbe
      have hover := exec_storedTransferComplete_moved hq hh hfail hx hsecs
      have hv' : tfind (s.storedOver n).weaves y.tracker.weave = some v := hv
      have hadd := State.barAddOf_saved (n := x.moved) hv' (hold v hv) him hset
      simp only [hb, hgone, hadd, Bool.false_eq_true, if_false, Option.getD_some, State.modWeave_weave _ hv'] at hover
      exact ⟨_, hover, State.storedOver_queue hq, rfl, _, tfind_tput_same .., fun i hi hc => Weave.mem_imagesAdded hi hc⟩
    · have hover := exec_storedTransferComplete_failed hq hh hfail
      rw [State.storedFault_of_job (s := s.storedOver n) 33 y.tracker.recVa hj hw] at hover
      have hdbg' : ((s.storedOver n).debugOn y.tracker.core) = false := hdbg
      have hshape : (s.storedOver n).asyncFault y.tracker.core 33 0 (word y.tracker.recVa) =
          (s.storedOver n).modCore y.tracker.core fun k => { k with afaults := k.afaults ++
            [{ strand := 0, code := 33, task := 0, tval := word y.tracker.recVa, cycle := k.cycle }] } := by
        simp [State.asyncFault, hdbg']
      rw [hshape] at hover
      exact ⟨_, hover, State.storedOver_queue hq, rfl, by rw [State.modCore_core_same]; rfl⟩
  · intro hs hh hmis
    refine answers_trap ?_ (by decide) hh
    rw [exec_trkArm, execTrkArm, asTask_next _ c t _ hs, if_pos hmis]
  · intro hs hal
    refine ⟨s.park c t .answer (.trkArm h d a) (ctlLen h 2), ?_, ?_, fun r => by simp, ?_, State.park_bytes .., ?_⟩
    · rw [exec_trkArm, execTrkArm, asTask_next _ c t _ hs, if_neg (by simpa using hal)]
    · simp
    · exact onlyTask_modTask ..
    · exact ⟨_, by rw [State.park_task_same], rfl, rfl, rfl⟩
  · intro w bs hw hwhat hins hlen hfz hacc hblock wd len expect fields answered hbl
    have hrec := exec_trkArmAnswer_record hw hwhat hins hfz hacc hblock
    have hok : armFieldsOk bs = true ↔ fields := armFieldsOk_iff bs
    have hwake (v : Nat) (u : State) (hc : u.cores = s.cores) (hb : bytesKept s u) : answered v (u.wakeWith c t d (word v)) := by
      have hans := State.wakeWith_answered (d := d) (v := v) hw hc hb
      rwa [hlen] at hans
    refine ⟨fun hbad => ?_, fun ps pa n hf hrange hps => ⟨fun hword hx => ?_, fun hx hbusy => ?_, fun i hx hi hfree hlow => ?_⟩⟩
    · rw [Bool.eq_false_iff.2 fun hb => hbad (hok.1 hb), Bool.not_false, if_pos rfl] at hrec
      exact ⟨_, hrec, hwake 2 s rfl (bytesKept_refl s), rfl⟩
    · rw [hok.2 hf, hrange] at hrec
      simp only [State.armTracker_badWord hword hx, Bool.not_true, Bool.false_eq_true, if_false] at hrec
      exact ⟨_, hrec, hwake 3 s rfl (bytesKept_refl s), rfl⟩
    · rw [hok.2 hf, hrange] at hrec
      simp only [State.armTracker_busy hps hx hbusy, Bool.not_true, Bool.false_eq_true, if_false] at hrec
      refine ⟨_, hrec, hwake 1 _ rfl (bytesKept_of_parts _ _ rfl rfl rfl), ?_⟩
      exact State.armRefused_armed s (paDie pa)
    · rw [hok.2 hf, hrange] at hrec
      simp only [State.armTracker_free hps hx hi hfree hlow, Bool.not_true, Bool.false_eq_true, if_false] at hrec
      refine ⟨_, hrec, hwake _ _ rfl (bytesKept_of_parts _ _ rfl rfl rfl), s.newTracker c (s.reg c t a).toNat bs ps, ?_, rfl, armExpect_eq bs, rfl,
        rfl, rfl, rfl, rfl⟩
      exact State.armed_armed s (paDie pa) _ _

end Sys2Proof.Machine
end

section
/-! SUPPORT. Writes at the homes and write-backs of an L1: what they leave as it is. -/

namespace Sys2Proof.Machine

open Sys2Proof

/-- A state without its cores and without what a write at a home can change: the homes, the tracked lines, the trackers, the signals under way. -/
def State.sansHomes (s : State) : State := { s with cores := [], homes := [], tracked := [], trk := [], signals := [], nextId := 0 }

/-- Between s and u only homes, trackers, signals and lines of the L1s differ, and no L1 that was empty holds a line. -/
def writeKeeps (s u : State) : Prop :=
  u.sansHomes = s.sansHomes ∧ (∀ e, (u.core e).sansL1 = (s.core e).sansL1) ∧ ∀ e, (s.core e).l1 = [] → (u.core e).l1 = []

theorem writeKeeps_refl (s : State) : writeKeeps s s := ⟨rfl, fun _ => rfl, fun _ h => h⟩

theorem writeKeeps_trans {s u v : State} (h : writeKeeps s u) (g : writeKeeps u v) : writeKeeps s v := by
  obtain ⟨ho, hc, hl⟩ := h
  obtain ⟨go, gc, gl⟩ := g
  exact ⟨go.trans ho, fun e => (gc e).trans (hc e), fun e he => gl e (hl e he)⟩

/-- A change outside the cores, of what a write at a home can change. -/
theorem writeKeeps_of_cores {s u : State} (hc : u.cores = s.cores) (ho : u.sansHomes = s.sansHomes) : writeKeeps s u :=
  ⟨ho, fun e => by simp [State.core, hc], fun e he => by simpa [State.core, hc] using he⟩

/-- A change of lines of one L1 that adds none to an empty one. -/
theorem writeKeeps_l1 (s : State) (c : Nat) (f : Core → Core) (hf : (f (s.core c)).sansL1 = (s.core c).sansL1)
    (hl : (s.core c).l1 = [] → (f (s.core c)).l1 = []) : writeKeeps s (s.modCore c f) := by
  refine ⟨rfl, fun e => ?_, fun e he => ?_⟩
  · by_cases hec : e = c
    · subst hec; simpa using hf
    · rw [State.modCore_core_other _ _ _ _ hec]
  · by_cases hec : e = c
    · subst hec; simpa using hl he
    · rwa [State.modCore_core_other _ _ _ _ hec]

theorem writeKeeps_foldl {α : Type} (f : State → α → State) (h : ∀ s a, writeKeeps s (f s a)) (l : List α) (s : State) : writeKeeps s (l.foldl f s) := by
  induction l generalizing s with
  | nil => exact writeKeeps_refl s
  | cons a l ih => exact writeKeeps_trans (h s a) (ih _)

theorem writeKeeps_homePut (s : State) (a : Nat) (b : Byte) : writeKeeps s (s.homePut a b) := by
  refine writeKeeps_of_cores ?_ ?_ <;> unfold State.homePut State.homeFetch <;> split <;> rfl

theorem writeKeeps_homePutAll (cells : List Host.Cell) (s : State) : writeKeeps s (s.homePutAll cells) := by
  induction cells generalizing s with
  | nil => exact writeKeeps_refl s
  | cons x cells ih => exact writeKeeps_trans (writeKeeps_homePut s x.1 x.2) (ih _)

theorem writeKeeps_untrack (s : State) (holder line : Nat) : writeKeeps s (s.untrack holder line) := by
  refine writeKeeps_l1 _ _ _ ?_ fun he => ?_
  · split <;> rfl
  · simp [he, tfind]

theorem writeKeeps_removeTracked (s : State) (line : Nat) (writer : Option Nat) : writeKeeps s (s.removeTracked line writer) :=
  writeKeeps_trans (writeKeeps_foldl _ (fun s h => writeKeeps_untrack s h line) _ s) (writeKeeps_of_cores rfl rfl)

theorem writeKeeps_fire (s : State) (d n : Nat) (t : Tracker) : writeKeeps s (s.fire d n t) := by
  refine writeKeeps_of_cores ?_ ?_ <;> unfold State.fire <;> dsimp only <;> split <;> rfl

theorem writeKeeps_countWrite (s : State) (d : Nat) (cells : List Host.Cell) : writeKeeps s (s.countWrite d cells) := by
  refine writeKeeps_foldl _ (fun s e => ?_) _ s
  dsimp only
  split
  · exact writeKeeps_refl s
  · split
    · exact writeKeeps_fire ..
    · exact writeKeeps_of_cores rfl rfl

theorem writeKeeps_homeWrite (s : State) (writer : Option Nat) (cells : List Host.Cell) : writeKeeps s (s.homeWrite writer cells) := by
  unfold State.homeWrite
  split
  · exact writeKeeps_refl s
  · exact writeKeeps_trans (writeKeeps_homePutAll _ s)
      (writeKeeps_trans (writeKeeps_foldl _ (fun s l => writeKeeps_removeTracked s l _) _ _) (writeKeeps_countWrite ..))

theorem writeKeeps_writeBack (s : State) (holder line : Nat) : writeKeeps s (s.writeBack holder line) := by
  unfold State.writeBack
  split
  next x hx =>
    split
    · exact writeKeeps_refl s
    · refine writeKeeps_trans (writeKeeps_l1 _ _ _ rfl fun he => ?_) (writeKeeps_homeWrite ..)
      simp [he, tfind] at hx
  next => exact writeKeeps_refl s

theorem writeKeeps_release (s : State) (c scope : Nat) : writeKeeps s (s.release c scope) :=
  writeKeeps_foldl _ (fun s h => writeKeeps_foldl _ (fun s l => writeKeeps_writeBack s h l) _ s) _ s

theorem writeKeeps_flushL1 (s : State) (c : Nat) : writeKeeps s (s.flushL1 c) :=
  writeKeeps_trans (writeKeeps_foldl _ (fun s l => writeKeeps_writeBack s c l) _ s) (writeKeeps_l1 _ _ _ rfl fun _ => rfl)

@[simp] theorem State.flushL1_l1 (s : State) (c : Nat) : ((s.flushL1 c).core c).l1 = [] := by simp [State.flushL1]

/-- What a write at the homes leaves: the projections that later proofs read. -/
theorem writeKeeps_weaves {s u : State} (h : writeKeeps s u) : u.weaves = s.weaves := (congrArg State.weaves h.1 : u.sansHomes.weaves = s.sansHomes.weaves)
theorem writeKeeps_disps {s u : State} (h : writeKeeps s u) : u.disps = s.disps := (congrArg State.disps h.1 : u.sansHomes.disps = s.sansHomes.disps)
theorem writeKeeps_hslots {s u : State} (h : writeKeeps s u) : u.hslots = s.hslots := (congrArg State.hslots h.1 : u.sansHomes.hslots = s.sansHomes.hslots)

end Sys2Proof.Machine
end

section
/-! PROOF. Weaves are checked once and placed all at once. -/

namespace Sys2Proof.Machine

open Sys2Proof

/-! Packets that complete (R160). -/

theorem firstWhere_modFirst {α : Type} {p : α → Bool} {f : α → α} {l : List α} {a : α} (h : firstWhere p l = some a) (hf : p (f a) = true) :
    firstWhere p (modFirst p f l) = some (f a) := by
  induction l with
  | nil => cases h
  | cons b l ih =>
    cases hb : p b with
    | true =>
      rw [firstWhere, hb] at h
      cases h
      simp [modFirst, hb, firstWhere, hf]
    | false =>
      rw [firstWhere, hb] at h
      simp [modFirst, hb, firstWhere, ih h]

@[simp] theorem State.disp_modDisp_same (s : State) (d : Nat) (f : Disp → Disp) : (s.modDisp d f).disp d = f (s.disp d) := tget_tmod_same ..

theorem State.finishPkt_pkt {s : State} {d id : Nat} {p : DPkt} (status detail : Nat) (h : s.pkt d id = some p) :
    (s.finishPkt d id status detail).pkt d id = some { p with st := .completed, status, detail } := by
  have hid : (p.id == id) = true := by
    rw [State.pkt, firstWhere_eq_find?] at h
    exact List.find?_some (p := fun p : DPkt => p.id == id) h
  simp only [State.finishPkt, State.modPkt, State.pkt, State.disp_modDisp_same]
  exact firstWhere_modFirst (f := fun p : DPkt => { p with st := .completed, status, detail }) h hid

/-! The record (R163). -/

/-- The record and its place pass the first check of R163. -/
def recordSound (bs : List Byte) (r : LaunchRec) : Prop :=
  recNum bs 0 1 = 1 ∧ r.reserved = false ∧ 1 ≤ recNum bs 2 1 ∧ recNum bs 2 1 ≤ 8 ∧ recNum bs 3 1 % 8 ≤ 4 ∧ r.mapimg % 4096 = 0 ∧
    (r.modes = 0 ∨ r.modes = r.strands) ∧
    ∀ e, 1 ≤ e → e ≤ 3 → r.strands.testBit (e - 1) = false → [0, r.vstart, r.mstart, r.pstart].getD e 0 = 0 ∧ r.modes.testBit (e - 1) = false

theorem LaunchRec.start_eq (r : LaunchRec) {e : Nat} (h1 : 1 ≤ e) (h3 : e ≤ 3) : r.start e = [0, r.vstart, r.mstart, r.pstart].getD e 0 := by
  obtain rfl | rfl | rfl : e = 1 ∨ e = 2 ∨ e = 3 := by omega
  all_goals rfl

theorem LaunchRec.invalid_eq_false (r : LaunchRec) : r.invalid = false ↔
    r.version = 1 ∧ r.reserved = false ∧ 1 ≤ r.nlev ∧ r.nlev ≤ 8 ∧ r.share ≤ 4 ∧ r.mapimg % 4096 = 0 ∧ (r.modes = 0 ∨ r.modes = r.strands) ∧
    ∀ e, 1 ≤ e → e ≤ 3 → r.strands.testBit (e - 1) = false → r.start e = 0 ∧ r.modes.testBit (e - 1) = false := by
  have hstrands : ([1, 2, 3].any fun e => !r.names e && (r.start e != 0 || r.modes.testBit (e - 1))) = false ↔
      ∀ e, 1 ≤ e → e ≤ 3 → r.strands.testBit (e - 1) = false → r.start e = 0 ∧ r.modes.testBit (e - 1) = false := by
    simp only [List.any_eq_false, LaunchRec.names, Bool.and_eq_true, Bool.not_eq_true', Bool.or_eq_true, bne_iff_ne, not_and, not_or, not_not,
      Bool.not_eq_true]
    constructor
    · intro h e h1 h3 hn
      exact h e (by have : e = 1 ∨ e = 2 ∨ e = 3 := by omega
                    simpa using this) hn
    · intro h e he hn
      have he' : e = 1 ∨ e = 2 ∨ e = 3 := by simpa using he
      exact h e (by omega) (by omega) hn
  have hmodes : (r.modes != 0 && r.modes != r.strands) = false ↔ r.modes = 0 ∨ r.modes = r.strands := by
    by_cases h0 : r.modes = 0 <;> simp [h0]
  simp only [LaunchRec.invalid, Bool.or_eq_false_iff, hstrands, hmodes, bne_eq_false_iff_eq, beq_eq_false_iff_ne, decide_eq_false_iff_not,
    Nat.not_lt, ne_eq, Nat.one_le_iff_ne_zero]
  tauto

theorem recordOf_sound (bs : List Byte) : (recordOf bs).invalid = false ↔ recordSound bs (recordOf bs) := by
  rw [LaunchRec.invalid_eq_false, recordSound]
  have hshare : (recordOf bs).share = recNum bs 3 1 % 8 := by simp [recordOf, fld]
  rw [hshare]
  have hstart : (∀ e, 1 ≤ e → e ≤ 3 → (recordOf bs).strands.testBit (e - 1) = false →
      (recordOf bs).start e = 0 ∧ (recordOf bs).modes.testBit (e - 1) = false) ↔
      ∀ e, 1 ≤ e → e ≤ 3 → (recordOf bs).strands.testBit (e - 1) = false →
        [0, (recordOf bs).vstart, (recordOf bs).mstart, (recordOf bs).pstart].getD e 0 = 0 ∧ (recordOf bs).modes.testBit (e - 1) = false :=
    ⟨fun h e h1 h3 hn => LaunchRec.start_eq _ h1 h3 ▸ h e h1 h3 hn, fun h e h1 h3 hn => (LaunchRec.start_eq _ h1 h3).symm ▸ h e h1 h3 hn⟩
  rw [hstart]
  rfl

/-- The record stands where it may (assumption 24). -/
def recordPlaced (x : Weave) : Prop := x.recAddr % 256 = 0 ∧ inHbm x.recAddr = true

/-- One of the k lines from address a on stands in the error-address table. -/
def State.linesLost (s : State) (a k : Nat) : Prop := ∃ l, a / 128 ≤ l ∧ l < a / 128 + k ∧ s.errorLine l = true

theorem State.linesLost_iff (s : State) (a k : Nat) : (span (a / 128) k).any s.errorLine = true ↔ s.linesLost a k := by
  simp only [List.any_eq_true, mem_span, State.linesLost, and_assoc]

/-- Weave x with its record and its map image read. -/
def State.withRecord (s : State) (x : Weave) : Weave :=
  let r := recordOf (s.homeBytes x.recAddr 256)
  { x with lrec := r, checked := true, map := (imageRecords (s.homeBytes r.mapimg 4096)).map fun e => (e.1, segOfNum e.2) }

section
variable {s : State} {x : Weave}

theorem State.readRecord_unplaced (h : ¬ recordPlaced x) : (s.readRecord x).1 = 1 := by
  have h' : x.recAddr % 256 ≠ 0 ∨ inHbm x.recAddr = false := by
    rw [← Bool.not_eq_true]
    exact Classical.not_and_iff_not_or_not.1 h
  rw [State.readRecord, if_pos h']

theorem State.readRecord_placed (h : recordPlaced x) : s.readRecord x =
    (if (span (x.recAddr / 128) 2).any s.errorLine then 11 else match s.checkRecord x.die (recordOf (s.homeBytes x.recAddr 256)) with
      | 4 => if (span ((recordOf (s.homeBytes x.recAddr 256)).mapimg / 128) 32).any s.errorLine then 11 else 4
      | 0 => if (span ((recordOf (s.homeBytes x.recAddr 256)).mapimg / 128) 32).any s.errorLine then 11 else 0
      | n => n, s.withRecord x) := by
  obtain ⟨h1, h2⟩ := h
  rw [State.readRecord, if_neg (by simp [h1, h2])]
  rfl

theorem State.readRecord_lost (h : recordPlaced x) (hl : s.linesLost x.recAddr 2) : (s.readRecord x).1 = 11 := by
  rw [State.readRecord_placed h, if_pos ((State.linesLost_iff ..).2 hl)]

/-- A status of the checks that the lines of the map image have no part in. -/
theorem State.readRecord_refused {n : Nat} (h : recordPlaced x) (hl : ¬ s.linesLost x.recAddr 2)
    (hn : s.checkRecord x.die (recordOf (s.homeBytes x.recAddr 256)) = n) (h0 : n ≠ 0) (h4 : n ≠ 4) : (s.readRecord x).1 = n := by
  rw [State.readRecord_placed h, if_neg (by rwa [State.linesLost_iff]), hn]
  split
  next h => exact absurd rfl h4
  next h => exact absurd rfl h0
  next => rfl

theorem State.readRecord_image (h : recordPlaced x) (hl : ¬ s.linesLost x.recAddr 2)
    (hn : s.checkRecord x.die (recordOf (s.homeBytes x.recAddr 256)) =
      if imageOk (imageRecords (s.homeBytes (recordOf (s.homeBytes x.recAddr 256)).mapimg 4096)) then 0 else 4) :
    (s.linesLost (recordOf (s.homeBytes x.recAddr 256)).mapimg 32 → (s.readRecord x).1 = 11) ∧
    (¬ s.linesLost (recordOf (s.homeBytes x.recAddr 256)).mapimg 32 → (s.readRecord x).1 =
      if imageOk (imageRecords (s.homeBytes (recordOf (s.homeBytes x.recAddr 256)).mapimg 4096)) then 0 else 4) := by
  rw [State.readRecord_placed h, if_neg (by rwa [State.linesLost_iff]), hn, ← State.linesLost_iff]
  split <;> simp_all

/-- The weave is gone, and its packet ends with the status. -/
def refusedWith (s : State) (w : Nat) (x : Weave) (p : DPkt) (n : Nat) (u : State) : Prop :=
  u.pkt x.die p.id = some { p with st := .completed, status := n, detail := 0 } ∧ u.weaves = tdel s.weaves w ∧ u.cores = s.cores ∧ bytesKept s u

theorem State.refuseWeave_refused {w : Nat} {p : DPkt} (n : Nat) (hid : x.id = w) (ho : x.origin = .packet p.id) (hp : s.pkt x.die p.id = some p) :
    refusedWith s w x p n (s.refuseWeave x n) := by
  subst hid
  have hshape : s.refuseWeave x n = ({ s with weaves := tdel s.weaves x.id } : State).finishPkt x.die p.id n 0 := by
    simp [State.refuseWeave, State.originDone, ho]
  rw [hshape]
  exact ⟨State.finishPkt_pkt n 0 (s := { s with weaves := tdel s.weaves x.id }) hp, rfl, rfl, bytesKept_of_parts _ _ rfl rfl rfl⟩

/-- Weave x waits, and its turn may look at it. -/
def triable (s : State) (w : Nat) (x : Weave) : Prop :=
  tfind s.weaves w = some x ∧ x.id = w ∧ x.st = .waiting ∧ x.torn = false ∧ x.asked = [] ∧ s.pkgUp (x.die / 2) = true

theorem exec_weavePlacement_unread {w : Nat} (h : triable s w x) (hc : x.checked = false) :
    exec (.weavePlacement w) s = if (s.readRecord x).1 ≠ 0 then .next (s.refuseWeave x (s.readRecord x).1)
      else .next (({ s with weaves := tput s.weaves w (s.readRecord x).2 } : State).tryPlace (s.readRecord x).2) := by
  obtain ⟨hf, -, hst, htorn, hask, hup⟩ := h
  simp [execWeavePlacement, hf, hst, htorn, hask, hup, hc]

theorem exec_weavePlacement_checked {w : Nat} (h : triable s w x) (hc : x.checked = true) :
    exec (.weavePlacement w) s = .next (s.tryPlace x) := by
  obtain ⟨hf, -, hst, htorn, hask, hup⟩ := h
  simp [execWeavePlacement, hf, hst, htorn, hask, hup, hc]

/-- A record that passes is kept with its weave, and the placement goes on from there. -/
theorem exec_weavePlacement_passed {w : Nat} (h : triable s w x) (hc : x.checked = false) (hpl : recordPlaced x) (h0 : (s.readRecord x).1 = 0) :
    exec (.weavePlacement w) s = exec (.weavePlacement w) { s with weaves := tput s.weaves w (s.withRecord x) } := by
  have h2 : (s.readRecord x).2 = s.withRecord x := by rw [State.readRecord_placed hpl]
  obtain ⟨hf, hid, hst, htorn, hask, hup⟩ := h
  have ht : triable { s with weaves := tput s.weaves w (s.withRecord x) } w (s.withRecord x) :=
    ⟨tfind_tput_same .., hid, hst, htorn, hask, hup⟩
  rw [exec_weavePlacement_unread ⟨hf, hid, hst, htorn, hask, hup⟩ hc, if_neg (by simp [h0]), h2, exec_weavePlacement_checked ht rfl]

end

/-! Selection (R166, R168). -/

/-- Weave y asks die n, which could reserve its share now. -/
def State.asksNow (s : State) (y : Weave) (n : Nat) : Prop := n ∈ y.asked ∧ n ∉ y.granted ∧ y.declined = false ∧ s.shareFree n y = true

theorem State.higherWaits_iff (s : State) (d : Nat) (x : Weave) : s.higherWaits d x = true ↔
    ∃ e ∈ s.weaves, e.1 ≠ x.id ∧ x.prio < e.2.prio ∧ ((e.2.die = d ∧ s.placeable e.2 = true) ∨ s.asksNow e.2 d) := by
  simp only [State.higherWaits, Weave.asks, State.asksNow, List.any_eq_true, Bool.and_eq_true, Bool.or_eq_true, bne_iff_ne, beq_iff_eq,
    decide_eq_true_eq, List.contains_iff_mem, Bool.not_eq_true', and_assoc, ← Bool.not_eq_true]

theorem State.mayGo_iff (s : State) (x : Weave) : s.mayGo x = true ↔
    (∀ e ∈ s.weaves, e.2.die = x.die → e.1 ≠ x.id → s.servedBefore e.2 x = true → s.placeable e.2 = false) ∧ s.higherWaits x.die x = false ∧
      (x.lane = true ∨ x.st = .saved ∨ s.laneReady x.die x.slot = false) := by
  simp only [State.mayGo, Bool.and_eq_true, List.all_eq_true, Bool.not_eq_true', Bool.or_eq_true, beq_iff_eq, Bool.and_eq_false_imp, bne_iff_ne,
    and_imp, and_assoc, or_assoc]

/-- Nothing of its die comes before the weave. -/
theorem State.mayGo_of_first {s : State} {x : Weave} (hdie : ∀ e ∈ s.weaves, e.1 ≠ x.id → e.2.die = x.die → s.placeable e.2 = false)
    (hask : ∀ e ∈ s.weaves, e.1 ≠ x.id → x.prio < e.2.prio → ¬ s.asksNow e.2 x.die)
    (hlane : x.lane = true ∨ x.st = .saved ∨ s.laneReady x.die x.slot = false) : s.mayGo x = true := by
  refine (State.mayGo_iff ..).2 ⟨fun e he hd hn _ => hdie e he hn hd, ?_, hlane⟩
  rw [← Bool.not_eq_true, State.higherWaits_iff]
  rintro ⟨e, he, hn, hp, ⟨hd, hpl⟩ | ha⟩
  · simp [hdie e he hn hd] at hpl
  · exact hask e he hn hp ha

theorem State.tryPlace_of_plan {s : State} {x : Weave} {plan : List (Nat × List Nat)} (hplan : s.planOf x = some plan)
    (hfuse : x.lrec.fuse = true → clustersFull plan = true) : s.tryPlace x = if s.mayGo x then s.takePlan x plan else s := by
  have hf : (x.lrec.fuse && !clustersFull plan) = false := by
    cases hx : x.lrec.fuse with
    | true => simp [hfuse hx]
    | false => rfl
  simp [State.tryPlace, hplan, hf]

theorem State.tryPlace_of_none {s : State} {x : Weave} (h : s.planOf x = none) :
    s.tryPlace x = if s.mayGo x then { s with weaves := tput s.weaves x.id { x with passed := true } } else s := by
  simp [State.tryPlace, h]

/-- A plan that is found leaves a weave with DEBUG a halt slot (R474). -/
theorem State.freeHaltSlot_of_plan {s : State} {x : Weave} {plan : List (Nat × List Nat)} (h : s.planOf x = some plan) (hd : x.lrec.debug = true) :
    s.freeHaltSlot ≠ none := by
  simp only [State.planOf, State.planWith] at h
  split at h
  · cases h
  · split at h
    next hc =>
      simp only [hd, Bool.not_true, Bool.false_or, Bool.and_eq_true] at hc
      exact Option.isSome_iff_ne_none.1 hc.2
    next => cases h

theorem mem_planDies (plan : List (Nat × List Nat)) (n : Nat) : n ∈ planDies plan ↔ ∃ e ∈ plan, dieOf e.1 = n := by
  simp [planDies, List.mem_eraseDups]

theorem State.takePlan_local {s : State} {x : Weave} {plan : List (Nat × List Nat)} (h : ∀ e ∈ plan, dieOf e.1 = x.die) :
    s.takePlan x plan = (s.placeWeave x plan).countRound x := by
  have hall : ((planDies plan).all fun d => d == x.die) = true := by
    simp only [List.all_eq_true, beq_iff_eq]
    intro d hd
    obtain ⟨e, he, rfl⟩ := (mem_planDies ..).1 hd
    exact h e he
  rw [State.takePlan, if_pos hall]

/-- Weave x with its requests to the other dies of a plan. -/
def State.asking (s : State) (x : Weave) (plan : List (Nat × List Nat)) : Weave :=
  { x with plan, asked := (planDies plan).filter fun d => d != x.die, askedAt := s.time, granted := [x.die], declined := false }

theorem State.takePlan_beyond {s : State} {x : Weave} {plan : List (Nat × List Nat)} (h : ∃ e ∈ plan, dieOf e.1 ≠ x.die) :
    s.takePlan x plan = { s with weaves := tput s.weaves x.id (s.asking x plan) } := by
  have hall : ((planDies plan).all fun d => d == x.die) = false := by
    obtain ⟨e, he, hd⟩ := h
    simp only [List.all_eq_false, beq_iff_eq]
    exact ⟨dieOf e.1, (mem_planDies ..).2 ⟨e, he, rfl⟩, hd⟩
  rw [State.takePlan, hall]
  rfl

/-! The start of the jobs (R12, R167). -/

theorem startCore_sansL1 (w : Weave) (j c : Nat) (ix : List Nat) (bps : Tbl (Nat × Nat)) (k : Core) :
    startCore w j c ix bps k.sansL1 = startCore w j c ix bps k := rfl

theorem Core.eq_of_sansL1 {k k' : Core} (h : k.sansL1 = k'.sansL1) (hl : k.l1 = k'.l1) : k = k' := by
  cases k; cases k'
  simp only [Core.sansL1, Core.mk.injEq] at h ⊢
  simp only at hl
  simp [h, hl]

theorem State.startJob_core (s : State) (w : Weave) (j c : Nat) (ix : List Nat) :
    (s.startJob w j c ix).core c = startCore w j c ix (s.slotBps w.hslot) (s.core c) := by
  have hk := writeKeeps_flushL1 s c
  have hb : ((s.flushL1 c).clearBarriers (coreBarKeys w.lrec c)).slotBps w.hslot = s.slotBps w.hslot := by
    have hh : ((s.flushL1 c).clearBarriers (coreBarKeys w.lrec c)).hslots = s.hslots :=
      Eq.trans (b := (s.flushL1 c).hslots) rfl (writeKeeps_hslots hk)
    simp only [State.slotBps, hh]
  simp only [State.startJob, State.modCore_core_same, hb]
  rw [← startCore_sansL1, ← startCore_sansL1 _ _ _ _ _ (s.core c)]
  exact congrArg _ (hk.2.1 c)

/-- The start of a job on core c leaves another core e but for its L1, to which it adds nothing. -/
theorem State.startJob_core_other (s : State) (w : Weave) (j : Nat) {c e : Nat} (ix : List Nat) (h : e ≠ c) :
    ((s.startJob w j c ix).core e).sansL1 = (s.core e).sansL1 ∧ ((s.core e).l1 = [] → ((s.startJob w j c ix).core e).l1 = []) := by
  have hk := writeKeeps_flushL1 s c
  have hc : (s.startJob w j c ix).core e = (s.flushL1 c).core e := State.modCore_core_other _ _ _ _ h
  rw [hc]
  exact ⟨hk.2.1 e, hk.2.2 e⟩

theorem State.startJob_hslots (s : State) (w : Weave) (j c : Nat) (ix : List Nat) : (s.startJob w j c ix).hslots = s.hslots :=
  Eq.trans (b := (s.flushL1 c).hslots) rfl (writeKeeps_hslots (writeKeeps_flushL1 s c))

theorem State.startJob_weaves (s : State) (w : Weave) (j c : Nat) (ix : List Nat) : (s.startJob w j c ix).weaves = s.weaves :=
  Eq.trans (b := (s.flushL1 c).weaves) rfl (writeKeeps_weaves (writeKeeps_flushL1 s c))

theorem State.startJobs_weaves (s : State) (w : Weave) (j : Nat) (plan : List (Nat × List Nat)) : (s.startJobs w j plan).weaves = s.weaves := by
  induction plan generalizing s j with
  | nil => rfl
  | cons a plan ih => exact (ih _ _).trans (s.startJob_weaves w j a.1 a.2)

theorem State.startJobs_core_other (s : State) (w : Weave) (j : Nat) {plan : List (Nat × List Nat)} {e : Nat} (h : ∀ a ∈ plan, a.1 ≠ e) :
    ((s.startJobs w j plan).core e).sansL1 = (s.core e).sansL1 ∧ ((s.core e).l1 = [] → ((s.startJobs w j plan).core e).l1 = []) := by
  induction plan generalizing s j with
  | nil => exact ⟨rfl, fun h => h⟩
  | cons a plan ih =>
    obtain ⟨h1, l1⟩ := s.startJob_core_other w j a.2 (Ne.symm (h a (List.mem_cons_self ..)))
    obtain ⟨h2, l2⟩ := ih (s.startJob w j a.1 a.2) (j + 1) fun b hb => h b (List.mem_cons_of_mem _ hb)
    exact ⟨h2.trans h1, fun hl => l2 (l1 hl)⟩

/-- Each core of a plan begins its job. -/
theorem State.startJobs_core (s : State) (w : Weave) (j0 : Nat) {plan : List (Nat × List Nat)} (hnd : (plan.map fun a => a.1).Nodup) {j c : Nat}
    {ix : List Nat} (hj : plan[j]? = some (c, ix)) :
    (s.startJobs w j0 plan).core c = startCore w (j0 + j) c ix (s.slotBps w.hslot) (s.core c) := by
  induction plan generalizing s j0 j with
  | nil => simp at hj
  | cons a plan ih =>
    obtain ⟨hnot, hnd'⟩ := List.nodup_cons.1 hnd
    have hne : ∀ b ∈ plan, b.1 ≠ a.1 := fun b hb he => hnot (List.mem_map.2 ⟨b, hb, he⟩)
    cases j with
    | zero =>
      obtain rfl : a = (c, ix) := by simpa using hj
      obtain ⟨h1, l1⟩ := (s.startJob w j0 c ix).startJobs_core_other w (j0 + 1) hne
      have hcore := s.startJob_core w j0 c ix
      rw [hcore] at h1 l1
      exact Core.eq_of_sansL1 h1 (l1 rfl)
    | succ j =>
      have hj' : plan[j]? = some (c, ix) := by simpa using hj
      have hca : c ≠ a.1 := hne _ (List.mem_of_getElem? hj')
      have hb : (s.startJob w j0 a.1 a.2).slotBps w.hslot = s.slotBps w.hslot := by simp only [State.slotBps, State.startJob_hslots]
      have hrec := ih (s.startJob w j0 a.1 a.2) (j0 + 1) hnd' hj'
      rw [hb, ← startCore_sansL1, (s.startJob_core_other w j0 a.2 hca).1, startCore_sansL1] at hrec
      rw [State.startJobs, hrec, Nat.add_right_comm, Nat.add_assoc]

/-- Weave x as it stands once it is placed on a plan. -/
def State.placed (s : State) (x : Weave) (plan : List (Nat × List Nat)) : Weave :=
  { x with st := .resident, jobs := plan, hslot := (s.takeHaltSlot x).1, placedSeq := (s.takeHaltSlot x).2.nextId, quantum := 0, plan := [], asked := [],
           granted := [], declined := false, passed := false, first := false }

theorem State.takeHaltSlot_core (s : State) (x : Weave) (c : Nat) : (s.takeHaltSlot x).2.core c = s.core c := by
  unfold State.takeHaltSlot; split <;> [split; skip] <;> rfl

theorem State.takeHaltSlot_some {s : State} {x : Weave} (hd : x.lrec.debug = true) (h : s.freeHaltSlot ≠ none) : (s.takeHaltSlot x).1 ≠ none := by
  obtain ⟨n, hn⟩ := Option.ne_none_iff_exists'.1 h
  simp [State.takeHaltSlot, hd, hn]

/-- The state in which the jobs of a placed weave start. -/
def State.placing (s : State) (x : Weave) (plan : List (Nat × List Nat)) : State :=
  { (s.takeHaltSlot x).2.fresh with weaves := tput (yielded (s.takeHaltSlot x).2.weaves x.id) x.id (s.placed x plan) }.clearBarriers
    (wideBarKeys x.lrec (plan.map fun j : Nat × List Nat => j.1))

theorem State.placing_core (s : State) (x : Weave) (plan : List (Nat × List Nat)) (c : Nat) : (s.placing x plan).core c = s.core c :=
  s.takeHaltSlot_core x c

theorem State.startPacket_core (s : State) (o : Origin) (d c : Nat) : (s.startPacket o d).core c = s.core c := by unfold State.startPacket; split <;> rfl

theorem State.startPacket_weaves (s : State) (o : Origin) (d : Nat) : (s.startPacket o d).weaves = s.weaves := by unfold State.startPacket; split <;> rfl

theorem State.placeWeave_eq (s : State) (x : Weave) (plan : List (Nat × List Nat)) :
    s.placeWeave x plan = ((s.placing x plan).startJobs (s.placed x plan) 0 plan).startPacket x.origin x.die := rfl

/-- Each core of the plan begins its job. -/
theorem State.placeWeave_core (s : State) (x : Weave) {plan : List (Nat × List Nat)} (hnd : (plan.map fun a => a.1).Nodup) {j c : Nat} {ix : List Nat}
    (hj : plan[j]? = some (c, ix)) : ∃ bps, (s.placeWeave x plan).core c = startCore x j c ix bps (s.core c) := by
  refine ⟨(s.placing x plan).slotBps (s.placed x plan).hslot, ?_⟩
  rw [State.placeWeave_eq, State.startPacket_core, State.startJobs_core _ _ 0 hnd hj, State.placing_core, Nat.zero_add]
  rfl

/-- A core that is not of the plan keeps all but lines of its L1. -/
theorem State.placeWeave_core_other (s : State) (x : Weave) {plan : List (Nat × List Nat)} {c : Nat} (h : ∀ a ∈ plan, a.1 ≠ c) :
    ((s.placeWeave x plan).core c).sansL1 = (s.core c).sansL1 := by
  rw [State.placeWeave_eq, State.startPacket_core, (State.startJobs_core_other _ _ 0 h).1, State.placing_core]

theorem State.placeWeave_weave (s : State) (x : Weave) (plan : List (Nat × List Nat)) :
    tfind (s.placeWeave x plan).weaves x.id = some (s.placed x plan) := by
  rw [State.placeWeave_eq, State.startPacket_weaves, State.startJobs_weaves]
  exact tfind_tput_same ..

/-! The rounds of a priority (R168). -/

theorem tfind_map_if {α : Type} (p : α → Bool) (f : α → α) (t : Tbl α) (n : Nat) :
    tfind (t.map fun e => if p e.2 then (e.1, f e.2) else e) n = (tfind t n).map fun v => if p v then f v else v := by
  induction t with
  | nil => rfl
  | cons e t ih =>
    by_cases hp : p e.2 <;> by_cases hn : e.1 = n <;> simp_all [tfind]

theorem State.newRound_weave {s : State} {d prio n : Nat} {v : Weave} (h : tfind s.weaves n = some v) :
    ∃ f q, tfind (s.newRound d prio).weaves n = some { v with first := f, passed := q } := by
  have hmap : tfind (s.newRound d prio).weaves n = _ :=
    tfind_map_if (fun v : Weave => v.die == d && v.prio == prio) (fun v => { v with first := v.first || v.passed, passed := false }) s.weaves n
  rw [hmap, h]
  by_cases hp : (v.die == d && v.prio == prio) = true
  · exact ⟨v.first || v.passed, false, by simp only [Option.map_some, hp, if_true]⟩
  · exact ⟨v.first, v.passed, by simp only [Option.map_some, if_neg hp]⟩

theorem State.countRound_core (s : State) (w : Weave) (c : Nat) : (s.countRound w).core c = s.core c := by
  unfold State.countRound
  dsimp only
  split <;> split <;> split <;> rfl

theorem State.countRound_weaves (s : State) (w : Weave) :
    (s.countRound w).weaves = (if s.inRound w then s else s.newRound w.die w.prio).weaves := by
  unfold State.countRound
  dsimp only
  split <;> split <;> split <;> rfl

theorem State.countRound_weave {s : State} {w v : Weave} {n : Nat} (h : tfind s.weaves n = some v) :
    ∃ f q, tfind (s.countRound w).weaves n = some { v with first := f, passed := q } := by
  rw [State.countRound_weaves]
  split
  · exact ⟨v.first, v.passed, h⟩
  · exact State.newRound_weave h

/-! The jobs that have started. -/

theorem tfind_lvidOf {m n i : Nat} {levels : List (Nat × Nat × Nat)} {ix : List Nat} {l : Nat × Nat × Nat} (hl : levels[n]? = some l)
    (hi : ix[n]? = some i) :
    tfind (lvidOf m levels ix) (m + n) = some { scope := l.2.2, valid := true, domain := l.2.1, count := l.1, index := i } := by
  induction n generalizing m levels ix with
  | zero =>
    cases levels with
    | nil => cases hl
    | cons a levels =>
      cases ix with
      | nil => cases hi
      | cons b ix =>
        cases hl; cases hi
        simp [lvidOf, tfind]
  | succ n ih =>
    cases levels with
    | nil => cases hl
    | cons a levels =>
      cases ix with
      | nil => cases hi
      | cons b ix =>
        simp only [List.getElem?_cons_succ] at hl hi
        have hrec := ih (m := m + 1) hl hi
        rw [Nat.add_assoc, Nat.add_comm 1 n] at hrec
        simpa [lvidOf, tfind] using hrec

/-- Core k runs job j of weave x, which has begun on core c with the indices ix, where k0 stood before (R167). -/
def jobStarted (x : Weave) (w j c : Nat) (ix : List Nat) (k0 k : Core) : Prop :=
  k.job = some (w, j) ∧ k.ctxno = x.ctx ∧ (k.task 0).st = .ready ∧ (k.task 0).pc = BitVec.ofNat 64 x.lrec.cstart ∧
  (∀ g, (k.task 0).reg g = if g = 1 then BitVec.ofNat 64 x.lrec.arg else 0#64) ∧ (∀ t, t ≠ 0 → (k.task t).st = .free) ∧
  (k.task 0).fpm = ({} : Task).fpm ∧ k.srkey = BitVec.ofNat 64 (x.lrec.srseed ^^^ c) ∧ k.share = x.lrec.share ∧ k.fused = x.lrec.fuse ∧ k.seg = x.map ∧
  k.events = [] ∧ k.l1 = [] ∧ k.accs = [] ∧ k.data.timed = (x.lrec.modes == 0) ∧
  (∀ n l i, x.lrec.levels[n]? = some l → ix[n]? = some i → ix.length = x.lrec.levels.length →
    tfind k.lvid n = some { scope := l.2.2, valid := true, domain := l.2.1, count := l.1, index := i }) ∧
  (∀ e, 1 ≤ e → e ≤ 3 → let y := k.data.strand e
    y.named = x.lrec.strands.testBit (e - 1) ∧ y.held = x.lrec.strands.testBit (e - 1) ∧
      y.pc = [0, x.lrec.vstart, x.lrec.mstart, x.lrec.pstart].getD e 0 ∧ y.cq = {}) ∧
  (k0.ctxno ≠ x.ctx → k.scratch = [] ∧ k.opmem = [] ∧ k.data.v = [] ∧ k.data.acc = []) ∧
  (k0.ctxno = x.ctx → k.scratch = k0.scratch ∧ k.data.v = k0.data.v)

theorem startTask_reg (r : LaunchRec) (g : Nat) : (startTask r).reg g = if g = 1 then BitVec.ofNat 64 r.arg else 0#64 := by
  by_cases h0 : g = 0
  · simp [Task.reg, h0]
  · by_cases ha : r.arg = 0 <;> by_cases h1 : g = 1 <;> simp [Task.reg, startTask, tget, tfind, word, h0, ha, h1, eq_comm (a := 1)]

theorem startData_strand (r : LaunchRec) (wipe : Bool) (d : DataSide) {e : Nat} (h1 : 1 ≤ e) (h3 : e ≤ 3) :
    (startData r wipe d).strand e = startStrand r e := by
  obtain rfl | rfl | rfl : e = 1 ∨ e = 2 ∨ e = 3 := by omega
  all_goals rfl

theorem startCore_started (x : Weave) (j c : Nat) (ix : List Nat) (bps : Tbl (Nat × Nat)) (k : Core) :
    jobStarted x x.id j c ix k (startCore x j c ix bps k) := by
  have htask : (startCore x j c ix bps k).task 0 = startTask x.lrec := rfl
  have hother : ∀ t, t ≠ 0 → ((startCore x j c ix bps k).task t).st = .free := fun t ht => by
    simp [Core.task, startCore, tget, tfind, Ne.symm ht]
  refine ⟨rfl, rfl, rfl, rfl, fun g => htask ▸ startTask_reg x.lrec g, hother, rfl, rfl, rfl, rfl, rfl, rfl, rfl, rfl, rfl, ?_, ?_, ?_, ?_⟩
  · intro n l i hl hi _
    have h := tfind_lvidOf (m := 0) hl hi
    rwa [Nat.zero_add] at h
  · intro e h1 h3
    have hs : (startCore x j c ix bps k).data.strand e = startStrand x.lrec e := startData_strand _ _ _ h1 h3
    simp only [hs]
    exact ⟨rfl, rfl, LaunchRec.start_eq _ h1 h3, rfl⟩
  · intro hc
    simp [startCore, startData, hc]
  · intro hc
    simp [startCore, startData, hc]

/-- The jobs of weave x have all started on the cores of the plan, and no other core has changed its job (R12, R166, R167). -/
def weaveStarted (s : State) (w : Nat) (x : Weave) (plan : List (Nat × List Nat)) (u : State) : Prop :=
  (∃ y, tfind u.weaves w = some y ∧ y.st = .resident ∧ y.jobs = plan ∧ y.asked = [] ∧ y.granted = [] ∧ (x.lrec.debug = true → y.hslot ≠ none)) ∧
  (∀ j c ix, plan[j]? = some (c, ix) → jobStarted x w j c ix (s.core c) (u.core c)) ∧
  ∀ c, (∀ e ∈ plan, e.1 ≠ c) → (u.core c).tasks = (s.core c).tasks ∧ (u.core c).job = (s.core c).job

theorem State.placeWeave_started {s : State} {w : Nat} {x : Weave} {plan : List (Nat × List Nat)} (hid : x.id = w)
    (hnd : (plan.map fun j => j.1).Nodup) (hdebug : x.lrec.debug = true → s.freeHaltSlot ≠ none) :
    weaveStarted s w x plan ((s.placeWeave x plan).countRound x) := by
  subst hid
  refine ⟨?_, fun j c ix hj => ?_, fun c hc => ?_⟩
  · obtain ⟨f, q, hw⟩ := State.countRound_weave (w := x) (s.placeWeave_weave x plan)
    exact ⟨_, hw, rfl, rfl, rfl, rfl, fun hd => State.takeHaltSlot_some hd (hdebug hd)⟩
  · obtain ⟨bps, hcore⟩ := s.placeWeave_core x hnd hj
    rw [State.countRound_core, hcore]
    exact startCore_started ..
  · rw [State.countRound_core]
    have hs := s.placeWeave_core_other x hc
    have ht := congrArg Core.tasks hs
    have hj := congrArg Core.job hs
    exact ⟨ht, hj⟩

/-! The agreement of several dies (R166). -/

theorem State.shareFree_iff (s : State) (d : Nat) (x : Weave) : s.shareFree d x = true ↔
    (∀ e ∈ x.plan, dieOf e.1 = d → s.coreFree x.id e.1 = true) ∧ s.barsFree x (planOn x.plan d) = true := by
  simp [State.shareFree, planOn, imp_iff_not_or]

theorem State.canReserve_iff (s : State) (d : Nat) (x : Weave) : s.canReserve d x = true ↔ s.shareFree d x = true ∧ s.higherWaits d x = false := by
  simp [State.canReserve]

theorem State.canReserve_of_first {s : State} {d : Nat} {x : Weave} (hfree : ∀ e ∈ x.plan, dieOf e.1 = d → s.coreFree x.id e.1 = true)
    (hbars : s.barsFree x (planOn x.plan d) = true)
    (hfirst : ∀ e ∈ s.weaves, e.1 ≠ x.id → x.prio < e.2.prio → (e.2.die = d → s.placeable e.2 = false) ∧ ¬ s.asksNow e.2 d) :
    s.canReserve d x = true := by
  refine (State.canReserve_iff ..).2 ⟨(State.shareFree_iff ..).2 ⟨hfree, hbars⟩, ?_⟩
  rw [← Bool.not_eq_true, State.higherWaits_iff]
  rintro ⟨e, he, hn, hp, ⟨hed, hpl⟩ | hq⟩
  · simp [(hfirst e he hn hp).1 hed] at hpl
  · exact (hfirst e he hn hp).2 hq

theorem State.canReserve_refused {s : State} {d : Nat} {x : Weave} (h : (∃ e ∈ x.plan, dieOf e.1 = d ∧ s.coreFree x.id e.1 = false) ∨
    ∃ e ∈ s.weaves, e.1 ≠ x.id ∧ x.prio < e.2.prio ∧ s.asksNow e.2 d) : s.canReserve d x = false := by
  rw [← Bool.not_eq_true, State.canReserve_iff]
  rintro ⟨hs, hh⟩
  obtain ⟨e, he, hed, hfree⟩ | ⟨e, he, hn, hp, hq⟩ := h
  · have := ((State.shareFree_iff ..).1 hs).1 e he hed
    simp [hfree] at this
  · exact Bool.false_ne_true (hh.symm.trans ((State.higherWaits_iff ..).2 ⟨e, he, hn, hp, Or.inr hq⟩))

theorem exec_reservationRequest_asked {s : State} {w d : Nat} {x : Weave} (hf : tfind s.weaves w = some x) (ha : d ∈ x.asked) (hg : d ∉ x.granted)
    (hd : x.declined = false) :
    exec (.reservationRequest d w) s = .next { s with weaves := tput s.weaves w (if s.canReserve d x then { x with granted := x.granted ++ [d] }
                                                                                 else { x with declined := true }) } := by
  cases hc : s.canReserve d x <;> simp [execReservationRequest, hf, ha, hg, hd, hc, State.modWeave]

section
variable {s : State} {w : Nat} {x : Weave} (hf : tfind s.weaves w = some x) (hask : x.asked ≠ [])
include hf hask

theorem exec_reservationReply_released (h : x.declined = true) :
    exec (.reservationReply w) s = .next { s with weaves := tput s.weaves w x.release } := by
  simp [execReservationReply, hf, hask, h, State.modWeave]

theorem exec_reservationReply_answered (hd : x.declined = false) (hs : x.lrec.debug = true → s.freeHaltSlot ≠ none) :
    exec (.reservationReply w) s =
      .next (if x.asked.all fun d => x.granted.contains d then (s.placeWeave x x.plan).countRound x else s) := by
  have hslot : (x.lrec.debug && s.freeHaltSlot.isNone) = false := by
    cases hx : x.lrec.debug with
    | false => rfl
    | true => simpa [Option.isSome_iff_ne_none] using hs hx
  simp only [exec_reservationReply, execReservationReply, hf, hd, hslot, List.isEmpty_iff, if_neg hask, Bool.or_self, Bool.false_eq_true, if_false]
  split <;> rfl

end

/-! The statuses of the checks (R163). -/

section
variable {s : State} {d : Nat} {r : LaunchRec}

/-- The starts are aligned. -/
def startsEven (r : LaunchRec) : Prop := r.cstart % 4 = 0 ∧ r.vstart % 8 = 0 ∧ r.mstart % 8 = 0 ∧ r.pstart % 8 = 0

/-- Every cluster is full in the plan for an empty panel (assumption 23). -/
def emptyPlanFull (d : Nat) (r : LaunchRec) : Prop := ∀ q, planFor (fun _ => true) d r.levels = some q → clustersFull q = true

theorem State.checkRecord_invalid (h : r.invalid = true) : s.checkRecord d r = 1 := by rw [State.checkRecord, if_pos h]

variable (h1 : r.invalid = false)
include h1

theorem State.checkRecord_tree (h : treeOk r.levels = false) : s.checkRecord d r = 2 := by simp [State.checkRecord, h1, h]

variable (h2 : treeOk r.levels = true)
include h2

theorem State.checkRecord_start (h : ¬ startsEven r) : s.checkRecord d r = 3 := by
  rw [State.checkRecord, if_neg (by simp [h1]), if_neg (by simp [h2]), if_pos (by unfold startsEven at h; tauto)]

variable (h3 : startsEven r)
include h3

theorem State.checkRecord_bars (h : r.barsBad = true) : s.checkRecord d r = 6 := by
  obtain ⟨e1, e2, e3, e4⟩ := h3
  rw [State.checkRecord, if_neg (by simp [h1]), if_neg (by simp [h2]), if_neg (by simp [e1, e2, e3, e4]), if_pos h]

variable (h4 : r.barsBad = false)
include h4

theorem State.checkRecord_fuse (hf : r.fuse = true) (h : ¬ emptyPlanFull d r) : s.checkRecord d r = 5 := by
  simp only [emptyPlanFull, not_forall] at h
  obtain ⟨q, hq, hfull⟩ := h
  obtain ⟨e1, e2, e3, e4⟩ := h3
  rw [State.checkRecord, if_neg (by simp [h1]), if_neg (by simp [h2]), if_neg (by simp [e1, e2, e3, e4]), if_neg (by simp [h4]), hq,
    if_pos (by simp [hf, hfull])]

theorem State.checkRecord_image (h : r.fuse = true → planFor (fun _ => true) d r.levels ≠ none ∧ emptyPlanFull d r) :
    s.checkRecord d r = if imageOk (imageRecords (s.homeBytes r.mapimg 4096)) then 0 else 4 := by
  obtain ⟨e1, e2, e3, e4⟩ := h3
  rw [State.checkRecord, if_neg (by simp [h1]), if_neg (by simp [h2]), if_neg (by simp [e1, e2, e3, e4]), if_neg (by simp [h4])]
  cases hf : r.fuse with
  | false => cases imageOk (imageRecords (s.homeBytes r.mapimg 4096)) <;> simp
  | true =>
    obtain ⟨hne, hfull⟩ := h hf
    obtain ⟨q, hq⟩ := Option.ne_none_iff_exists'.1 hne
    cases imageOk (imageRecords (s.homeBytes r.mapimg 4096)) <;> simp [hq, hfull q hq]

end

/-- A weave whose record gets a status of R163 is refused with it. -/
theorem exec_weavePlacement_refused {s : State} {w n : Nat} {x : Weave} {p : DPkt} (h : triable s w x) (hc : x.checked = false)
    (ho : x.origin = .packet p.id) (hp : s.pkt x.die p.id = some p) (hn : (s.readRecord x).1 = n) (h0 : n ≠ 0) :
    answers (.weavePlacement w) s (refusedWith s w x p n) := by
  obtain ⟨hf, hid, hrest⟩ := h
  refine ⟨s.refuseWeave x n, ?_, State.refuseWeave_refused n hid ho hp⟩
  rw [exec_weavePlacement_unread ⟨hf, hid, hrest⟩ hc, hn, if_pos h0]

section
variable {s : State} {w : Nat} {x : Weave} {plan : List (Nat × List Nat)} (h : triable s w x) (hc : x.checked = true)
include h hc

theorem exec_weavePlacement_waits (hplan : s.planOf x = none) : answers (.weavePlacement w) s fun u =>
    u.cores = s.cores ∧ bytesKept s u ∧ u.barriers = s.barriers ∧ ∃ y, tfind u.weaves w = some y ∧ y.st = .waiting ∧ y.lrec = x.lrec := by
  refine ⟨_, exec_weavePlacement_checked h hc, ?_⟩
  obtain ⟨hf, hid, hst, -⟩ := h
  subst hid
  rw [State.tryPlace_of_none hplan]
  split
  · exact ⟨rfl, bytesKept_of_parts _ _ rfl rfl rfl, rfl, _, tfind_tput_same .., hst, rfl⟩
  · exact ⟨rfl, bytesKept_of_parts _ _ rfl rfl rfl, rfl, _, hf, hst, rfl⟩

variable (hplan : s.planOf x = some plan) (hfuse : x.lrec.fuse = true → clustersFull plan = true)
include hplan hfuse

theorem exec_weavePlacement_passedOver (hgo : s.mayGo x = false) : exec (.weavePlacement w) s = .next s := by
  rw [exec_weavePlacement_checked h hc, State.tryPlace_of_plan hplan hfuse, hgo, if_neg Bool.false_ne_true]

theorem exec_weavePlacement_goes (hgo : s.mayGo x = true) : exec (.weavePlacement w) s = .next (s.takePlan x plan) := by
  rw [exec_weavePlacement_checked h hc, State.tryPlace_of_plan hplan hfuse, hgo, if_pos rfl]

end

theorem State.mayGo_of_higher {s : State} {x : Weave} (h : s.higherWaits x.die x = true) : s.mayGo x = false := by simp [State.mayGo, h]

theorem State.mayGo_of_lane {s : State} {x : Weave} (hlane : x.lane = false) (hst : x.st = .waiting) (h : s.laneReady x.die x.slot = true) :
    s.mayGo x = false := by
  simp [State.mayGo, hlane, hst, h]

theorem asking_asked (s : State) (x : Weave) (plan : List (Nat × List Nat)) (n : Nat) :
    n ∈ (s.asking x plan).asked ↔ n ≠ x.die ∧ ∃ e ∈ plan, dieOf e.1 = n := by
  simp only [State.asking, List.mem_filter, mem_planDies, bne_iff_ne, and_comm]

/-- Settles O50. The record's checks are those of `readRecord`, one status at a time; the placement is `tryPlace`, which a plan sends to the jobs
of the die or to the agreement, and the jobs that start are those of `placeWeave`. -/
theorem weavesArePlacedAllAtOnce : Obligations.WeavesArePlacedAllAtOnce := by
  unfold Obligations.WeavesArePlacedAllAtOnce
  intro s w d x hf hid hst htorn
  refine ⟨?_, ?_, ?_, ?_⟩
  · rintro p hc hask hup ⟨id, ho, hp, rfl⟩
    have ht : triable s w x := ⟨hf, hid, hst, htorn, hask, hup⟩
    have hend : ∀ n, (s.readRecord x).1 = n → n ≠ 0 → answers (.weavePlacement w) s (refusedWith s w x p n) :=
      fun n hn h0 => exec_weavePlacement_refused ht hc ho hp hn h0
    refine ⟨fun hpl => hend 1 (State.readRecord_unplaced hpl) (by decide), fun hpl hl => hend 11 (State.readRecord_lost hpl hl) (by decide),
      fun hl => ?_⟩
    have hplaced : ∀ {P : Prop}, recordPlaced x ∧ P → recordPlaced x := And.left
    have hvalid : ∀ {P : Prop}, P ∧ recordSound _ (recordOf (s.homeBytes x.recAddr 256)) →
        (recordOf (s.homeBytes x.recAddr 256)).invalid = false := fun h => (recordOf_sound _).2 h.2
    refine ⟨fun hv => ?_, fun hv h2 => ?_, fun hv h2 h3 => ?_, fun hv h2 h3 h4 => ?_, fun hv h2 h3 h4 hfu h5 => ?_, fun hv h2 h3 h4 h5 => ?_⟩
    · by_cases hpl : recordPlaced x
      · have hbad : (recordOf (s.homeBytes x.recAddr 256)).invalid = true :=
          Bool.eq_true_of_not_eq_false fun hi => hv ⟨hpl, (recordOf_sound _).1 hi⟩
        exact hend 1 (State.readRecord_refused hpl hl (State.checkRecord_invalid hbad) (by decide) (by decide)) (by decide)
      · exact hend 1 (State.readRecord_unplaced hpl) (by decide)
    · exact hend 2 (State.readRecord_refused (hplaced hv) hl (State.checkRecord_tree (hvalid hv) h2) (by decide) (by decide)) (by decide)
    · exact hend 3 (State.readRecord_refused (hplaced hv) hl (State.checkRecord_start (hvalid hv) h2 h3) (by decide) (by decide)) (by decide)
    · exact hend 6 (State.readRecord_refused (hplaced hv) hl (State.checkRecord_bars (hvalid hv) h2 h3 h4) (by decide) (by decide)) (by decide)
    · exact hend 5 (State.readRecord_refused (hplaced hv) hl (State.checkRecord_fuse (hvalid hv) h2 h3 h4 hfu h5) (by decide) (by decide)) (by decide)
    · obtain ⟨hlost, hkept⟩ := State.readRecord_image (hplaced hv) hl (State.checkRecord_image (hvalid hv) h2 h3 h4 h5)
      refine ⟨fun hm => hend 11 (hlost hm) (by decide), fun hm => ⟨fun him => ?_, fun him => ?_⟩⟩
      · exact hend 4 (by rw [hkept hm, him]; rfl) (by decide)
      · exact exec_weavePlacement_passed ht hc (hplaced hv) (by rw [hkept hm, him]; rfl)
  · intro hc hask hup
    have ht : triable s w x := ⟨hf, hid, hst, htorn, hask, hup⟩
    refine ⟨exec_weavePlacement_waits ht hc, fun plan hplan hfuse hnd => ⟨?_, ?_, ?_, ?_⟩⟩
    · intro e he hn hp hq
      exact exec_weavePlacement_passedOver ht hc hplan hfuse (State.mayGo_of_higher ((State.higherWaits_iff ..).2 ⟨e, he, hid ▸ hn, hp, hq⟩))
    · exact fun hl hr => exec_weavePlacement_passedOver ht hc hplan hfuse (State.mayGo_of_lane hl hst hr)
    · rintro ⟨h1, h2, h3⟩ hlocal
      have hgo := State.mayGo_of_first (hid ▸ h1) (hid ▸ h2) (h3.imp_right Or.inr)
      have hexec := exec_weavePlacement_goes ht hc hplan hfuse hgo
      rw [State.takePlan_local hlocal] at hexec
      refine ⟨_, hexec, ?_⟩
      exact State.placeWeave_started hid hnd fun hd => State.freeHaltSlot_of_plan hplan hd
    · rintro ⟨h1, h2, h3⟩ hbeyond
      have hgo := State.mayGo_of_first (hid ▸ h1) (hid ▸ h2) (h3.imp_right Or.inr)
      have hexec := exec_weavePlacement_goes ht hc hplan hfuse hgo
      rw [State.takePlan_beyond hbeyond] at hexec
      refine ⟨_, hexec, rfl, s.asking x plan, ?_, hst, rfl, rfl, asking_asked s x plan, rfl⟩
      exact hid ▸ tfind_tput_same ..
  · intro ha hg hd
    have hreq := exec_reservationRequest_asked hf ha hg hd
    constructor
    · intro hfree hbars hfirst
      have hcan := State.canReserve_of_first (hid.symm ▸ hfree) hbars (hid.symm ▸ hfirst)
      exact ⟨_, hreq, by rw [hcan]; rfl⟩
    · intro hno
      have hcan := State.canReserve_refused (hid.symm ▸ hno)
      exact ⟨_, hreq, by rw [hcan]; rfl⟩
  · intro hask
    refine ⟨fun hd => ?_, fun hd hall hs hnd => ?_, fun hd hs hsome => ?_⟩
    · exact ⟨_, exec_reservationReply_released hf hask hd, rfl, x.release, tfind_tput_same .., hst, rfl, rfl, rfl⟩
    · have hg : (x.asked.all fun d => x.granted.contains d) = true := by simpa using hall
      have hexec := exec_reservationReply_answered hf hask hd hs
      rw [if_pos hg] at hexec
      refine ⟨_, hexec, ?_⟩
      exact State.placeWeave_started hid hnd hs
    · have hg : ¬ (x.asked.all fun d => x.granted.contains d) = true := by simpa using hsome
      rw [exec_reservationReply_answered hf hask hd hs, if_neg hg]

end Sys2Proof.Machine
end

section
/-! SUPPORT. Tables with rising keys; cells written one after the other; little-endian numbers. -/

namespace Sys2Proof.Machine

open Sys2Proof

/-! Tables. -/

section
variable {α : Type}

theorem tfind_eq_none_iff (t : Tbl α) (n : Nat) : tfind t n = none ↔ ∀ e ∈ t, e.1 ≠ n := by
  induction t with
  | nil => simp [tfind]
  | cons e t ih => by_cases h : e.1 = n <;> simp [tfind, h, ih]

theorem mem_of_tfind {t : Tbl α} {n : Nat} {v : α} (h : tfind t n = some v) : (n, v) ∈ t := by
  induction t with
  | nil => cases h
  | cons e t ih =>
    by_cases hn : e.1 = n
    · simp only [tfind, hn, if_true, Option.some.injEq] at h
      exact List.mem_cons.2 (Or.inl (by rw [← hn, ← h]))
    · simp only [tfind, if_neg hn] at h
      exact List.mem_cons_of_mem _ (ih h)

theorem tfind_of_mem {t : Tbl α} {n : Nat} {v : α} (hnd : (t.map Prod.fst).Nodup) (h : (n, v) ∈ t) : tfind t n = some v := by
  induction t with
  | nil => cases h
  | cons e t ih =>
    obtain ⟨hnot, hnd'⟩ := List.nodup_cons.1 hnd
    rcases List.mem_cons.1 h with rfl | h'
    · simp [tfind]
    · have hne : e.1 ≠ n := fun he => hnot (List.mem_map.2 ⟨(n, v), h', he.symm⟩)
      simp only [tfind, if_neg hne, ih hnd' h']

theorem keys_nodup {t : Tbl α} (h : t.Pairwise fun e f => e.1 < f.1) : (t.map Prod.fst).Nodup :=
  List.pairwise_map.2 (h.imp fun hlt => Nat.ne_of_lt hlt)

theorem tfind_append (t u : Tbl α) (n : Nat) : tfind (t ++ u) n = (tfind t n).or (tfind u n) := by
  induction t with
  | nil => simp [tfind]
  | cons e t ih => by_cases h : e.1 = n <;> simp [tfind, h, ih]

theorem tfind_filter_key (p : Nat → Bool) (t : Tbl α) (n : Nat) : tfind (t.filter fun e => p e.1) n = if p n then tfind t n else none := by
  induction t with
  | nil => simp [tfind]
  | cons e t ih =>
    by_cases hn : e.1 = n
    · subst hn
      by_cases hp : p e.1 = true <;> simp [hp, tfind, ih]
    · by_cases hp : p e.1 = true <;> simp [hp, tfind, hn, ih]

theorem mem_tput {t : Tbl α} {n : Nat} {v : α} {e : Nat × α} (h : e ∈ tput t n v) : e = (n, v) ∨ e ∈ t := by
  induction t with
  | nil => simpa [tput] using h
  | cons a t ih =>
    rw [tput] at h
    split at h
    · exact List.mem_cons.1 h
    · split at h
      · rcases List.mem_cons.1 h with h | h
        · exact Or.inl h
        · exact Or.inr (List.mem_cons_of_mem _ h)
      · rcases List.mem_cons.1 h with h | h
        · exact Or.inr (List.mem_cons.2 (Or.inl h))
        · exact (ih h).imp_right (List.mem_cons_of_mem _)

theorem mem_tput_of_ne {t : Tbl α} {n : Nat} (v : α) {e : Nat × α} (h : e ∈ t) (hn : e.1 ≠ n) : e ∈ tput t n v := by
  induction t with
  | nil => cases h
  | cons a t ih =>
    rw [tput]
    split
    · exact List.mem_cons_of_mem _ h
    · split
      next ha =>
        rcases List.mem_cons.1 h with rfl | h
        · exact absurd ha.symm hn
        · exact List.mem_cons_of_mem _ h
      next =>
        rcases List.mem_cons.1 h with rfl | h
        · exact List.mem_cons_self ..
        · exact List.mem_cons_of_mem _ (ih h)

theorem tput_pairwise {t : Tbl α} (n : Nat) (v : α) (h : t.Pairwise fun e f => e.1 < f.1) : (tput t n v).Pairwise fun e f => e.1 < f.1 := by
  induction t with
  | nil => simp [tput]
  | cons a t ih =>
    obtain ⟨ha, ht⟩ := List.pairwise_cons.1 h
    rw [tput]
    split
    next hn => exact List.pairwise_cons.2 ⟨fun e he => (List.mem_cons.1 he).elim (fun h => h ▸ hn) fun he => Nat.lt_trans hn (ha e he), h⟩
    next hn =>
      split
      next heq => exact List.pairwise_cons.2 ⟨fun e he => heq ▸ ha e he, ht⟩
      next hne =>
        refine List.pairwise_cons.2 ⟨fun e he => ?_, ih ht⟩
        rcases mem_tput he with rfl | he
        · exact (by omega : a.1 < n)
        · exact ha e he

theorem mem_tdel_of_ne {t : Tbl α} {n : Nat} {e : Nat × α} (h : e ∈ t) (hn : e.1 ≠ n) : e ∈ tdel t n := by
  induction t with
  | nil => cases h
  | cons a t ih =>
    rw [tdel]
    split
    next ha =>
      rcases List.mem_cons.1 h with rfl | h
      · exact absurd ha hn
      · exact h
    next =>
      rcases List.mem_cons.1 h with rfl | h
      · exact List.mem_cons_self ..
      · exact List.mem_cons_of_mem _ (ih h)

theorem tfind_tdel_self {t : Tbl α} (n : Nat) (h : t.Pairwise fun e f => e.1 < f.1) : tfind (tdel t n) n = none := by
  induction t with
  | nil => rfl
  | cons a t ih =>
    obtain ⟨ha, ht⟩ := List.pairwise_cons.1 h
    rw [tdel]
    split
    next heq => exact (tfind_eq_none_iff ..).2 fun e he => Nat.ne_of_gt (heq ▸ ha e he)
    next hne => rw [tfind, if_neg hne, ih ht]

end

/-! Cells. -/

theorem setCells_append (m : Bytes) (xs ys : List Host.Cell) : setCells m (xs ++ ys) = setCells (setCells m xs) ys := by
  induction xs generalizing m with
  | nil => rfl
  | cons x xs ih => exact ih _

theorem byteAt_setCells {xs : List Host.Cell} {m : Bytes} (hm : Memory.wf m = true) (hnd : (xs.map Prod.fst).Nodup) (a : Nat) :
    byteAt (setCells m xs) a = (tfind xs a).getD (byteAt m a) := by
  induction xs generalizing m with
  | nil => rfl
  | cons x xs ih =>
    obtain ⟨hnot, hnd'⟩ := List.nodup_cons.1 hnd
    rw [setCells, ih (setByte_wf _ _ _ hm) hnd']
    by_cases hx : x.1 = a
    · have hnone : tfind xs a = none := (tfind_eq_none_iff ..).2 fun e he h => hnot (List.mem_map.2 ⟨e, he, h.trans hx.symm⟩)
      subst hx
      simp [tfind, hnone, byteAt_setByte_same _ _ _ hm]
    · simp [tfind, hx, byteAt_setByte_other _ _ _ _ (Ne.symm hx)]

theorem mem_cellsFrom {a : Nat} {bs : List Byte} {x : Host.Cell} (h : x ∈ cellsFrom a bs) : a ≤ x.1 ∧ x.1 < a + bs.length := by
  induction bs generalizing a with
  | nil => cases h
  | cons b bs ih =>
    rw [List.length_cons]
    rcases List.mem_cons.1 h with rfl | h
    · exact ⟨Nat.le_refl a, by simp⟩
    · have := ih h
      omega

theorem cellsFrom_pairwise (a : Nat) (bs : List Byte) : (cellsFrom a bs).Pairwise fun e f => e.1 < f.1 := by
  induction bs generalizing a with
  | nil => exact List.Pairwise.nil
  | cons b bs ih => exact List.pairwise_cons.2 ⟨fun e he => (mem_cellsFrom he).1, ih _⟩

theorem tfind_cellsFrom {a i : Nat} {bs : List Byte} {b : Byte} (h : bs[i]? = some b) : tfind (cellsFrom a bs) (a + i) = some b := by
  induction bs generalizing a i with
  | nil => cases h
  | cons c bs ih =>
    cases i with
    | zero => simpa [cellsFrom, tfind] using h
    | succ i =>
      have hrec := ih (a := a + 1) h
      rw [Nat.add_assoc, Nat.add_comm 1 i] at hrec
      simpa [cellsFrom, tfind] using hrec

/-! Little-endian numbers. -/

theorem length_bytesOfNum (n v : Nat) : (bytesOfNum n v).length = n := by
  induction n generalizing v with
  | zero => rfl
  | succ n ih => simp [bytesOfNum, ih]

theorem getElem?_bytesOfNum {n i : Nat} (v : Nat) (h : i < n) : (bytesOfNum n v)[i]? = some (BitVec.ofNat 8 (v / 256 ^ i)) := by
  induction n generalizing v i with
  | zero => cases h
  | succ n ih =>
    cases i with
    | zero => simp [bytesOfNum]
    | succ i => simp [bytesOfNum, ih (v / 256) (Nat.lt_of_succ_lt_succ h), Nat.div_div_eq_div_mul, Nat.pow_succ']

theorem numBytes_cons (b : Byte) (bs : List Byte) : numBytes (b :: bs) = b.toNat + 256 * numBytes bs := rfl

theorem numBytes_bytesOfNum (n v : Nat) : numBytes (bytesOfNum n v) = v % 256 ^ n := by
  induction n generalizing v with
  | zero => simp [bytesOfNum, numBytes, numOfBytes, Nat.mod_one]
  | succ n ih =>
    have hp : 256 ^ (n + 1) = 256 * 256 ^ n := Nat.pow_succ'
    rw [bytesOfNum, numBytes_cons, ih, BitVec.toNat_ofNat, hp]
    exact (Nat.mod_mul (x := v) (a := 256)).symm

theorem bytesAt_eq_bytesOfNum {m : Bytes} {a n v : Nat} (h : ∀ j, j < n → byteAt m (a + j) = BitVec.ofNat 8 (v / 256 ^ j)) :
    bytesAt m a n = bytesOfNum n v := by
  induction n generalizing a v with
  | zero => rfl
  | succ n ih =>
    have h0 : byteAt m a = BitVec.ofNat 8 v := by simpa using h 0 (Nat.zero_lt_succ n)
    rw [bytesAt, bytesOfNum, h0, ih fun j hj => ?_]
    have := h (j + 1) (Nat.succ_lt_succ hj)
    rwa [Nat.pow_succ', ← Nat.div_div_eq_div_mul, Nat.add_comm j 1, ← Nat.add_assoc] at this

theorem State.numBytes_homeBytes (s : State) (a n : Nat) :
    numBytes (s.homeBytes a n) = ∑ i ∈ Finset.range n, (s.homeByte (a + i)).toNat * 256 ^ i := by
  induction n generalizing a with
  | zero => rfl
  | succ n ih =>
    rw [State.homeBytes, numBytes_cons, ih, Finset.sum_range_succ', Finset.mul_sum, Nat.add_comm, Nat.add_zero, Nat.pow_zero, Nat.mul_one]
    congr 1
    refine Finset.sum_congr rfl fun i _ => ?_
    rw [Nat.pow_succ, Nat.add_right_comm, Nat.add_assoc a]
    ring

theorem State.length_homeBytes (s : State) (a n : Nat) : (s.homeBytes a n).length = n := by
  induction n generalizing a with
  | zero => rfl
  | succ n ih => simp [State.homeBytes, ih]

end Sys2Proof.Machine
end

section
/-! SUPPORT. What the homes read after writes of cells. -/

namespace Sys2Proof.Machine

open Sys2Proof

theorem State.homeByte_congr {s u : State} (hh : u.homes = s.homes) (hb : u.banks = s.banks) (a : Nat) : u.homeByte a = s.homeByte a := by
  simp only [State.homeByte, hh, hb]

theorem writeKeeps_banks {s u : State} (h : writeKeeps s u) : u.banks = s.banks := (congrArg State.banks h.1 : u.sansHomes.banks = s.sansHomes.banks)

theorem length_bytesAt (m : Bytes) (a n : Nat) : (bytesAt m a n).length = n := by
  induction n generalizing a with
  | zero => rfl
  | succ n ih => simp [bytesAt, ih]

theorem getD_bytesAt {n i : Nat} (m : Bytes) (a : Nat) (d : Byte) (h : i < n) : (bytesAt m a n).getD i d = byteAt m (a + i) := by
  induction n generalizing a i with
  | zero => cases h
  | succ n ih =>
    cases i with
    | zero => rfl
    | succ i =>
      have hrec := ih (a + 1) (Nat.lt_of_succ_lt_succ h)
      rw [Nat.add_assoc, Nat.add_comm 1 i] at hrec
      simpa [bytesAt] using hrec

theorem listSet_eq_set {α : Type} (l : List α) (i : Nat) (v : α) : listSet l i v = l.set i v := by
  induction l generalizing i with
  | nil => rfl
  | cons a l ih => cases i <;> simp [listSet, ih]

/-- A home's copy of a sector is there after the fetch, with the bytes of the sector. -/
theorem State.homeFetch_copy {s : State} (hok : homesOk s) (k : Nat) :
    ∃ h, tfind (s.homeFetch k).homes k = some h ∧ h.bytes.length = 32 ∧ ∀ i, i < 32 → h.bytes.getD i emptyByte = s.homeByte (32 * k + i) := by
  have hk : ∀ i, i < 32 → (32 * k + i) / 32 = k ∧ (32 * k + i) % 32 = i := fun i hi => by omega
  cases hf : tfind s.homes k with
  | some h =>
    refine ⟨h, by simp [State.homeFetch, hf], hok.2 _ (mem_of_tfind hf), fun i hi => ?_⟩
    simp [State.homeByte, hk i hi, hf]
  | none =>
    refine ⟨{ bytes := bytesAt s.banks (32 * k) 32 }, by simp [State.homeFetch, hf], length_bytesAt .., fun i hi => ?_⟩
    simp only [State.homeByte, (hk i hi).1, hf, getD_bytesAt _ _ _ hi]

theorem State.homeFetch_other (s : State) {k n : Nat} (h : n ≠ k) : tfind (s.homeFetch k).homes n = tfind s.homes n := by
  unfold State.homeFetch
  split
  · rfl
  · exact tfind_tput_other _ _ _ _ h

theorem State.homeFetch_homesOk {s : State} (hok : homesOk s) (k : Nat) : homesOk (s.homeFetch k) := by
  obtain ⟨hsort, hlen⟩ := hok
  unfold State.homeFetch
  split
  · exact ⟨hsort, hlen⟩
  · refine ⟨tput_pairwise _ _ hsort, fun e he => ?_⟩
    rcases mem_tput he with rfl | he
    · exact length_bytesAt ..
    · exact hlen e he

/-- The homes after one byte has been put. -/
theorem State.homePut_homes {s : State} {a : Nat} {h : HomeSec} (b : Byte) (hf : tfind (s.homeFetch (a / 32)).homes (a / 32) = some h) :
    (s.homePut a b).homes = tput (s.homeFetch (a / 32)).homes (a / 32) { dirty := true, bytes := h.bytes.set (a % 32) b } := by
  simp [State.homePut, tmod, tget, hf, listSet_eq_set]

theorem State.homePut_homesOk {s : State} (hok : homesOk s) (a : Nat) (b : Byte) : homesOk (s.homePut a b) := by
  obtain ⟨h, hf, hlen, -⟩ := State.homeFetch_copy hok (a / 32)
  obtain ⟨hsort, hall⟩ := State.homeFetch_homesOk hok (a / 32)
  rw [homesOk, State.homePut_homes b hf]
  refine ⟨tput_pairwise _ _ hsort, fun e he => ?_⟩
  rcases mem_tput he with rfl | he
  · simpa using hlen
  · exact hall e he

theorem State.homeByte_homePut {s : State} (hok : homesOk s) (a x : Nat) (b : Byte) :
    (s.homePut a b).homeByte x = if x = a then b else s.homeByte x := by
  obtain ⟨h, hf, hlen, hbytes⟩ := State.homeFetch_copy hok (a / 32)
  have hbanks := writeKeeps_banks (writeKeeps_homePut s a b)
  by_cases hs : x / 32 = a / 32
  · have hx : 32 * (a / 32) + x % 32 = x := by omega
    have hread : (s.homePut a b).homeByte x = (h.bytes.set (a % 32) b).getD (x % 32) emptyByte := by
      simp [State.homeByte, State.homePut_homes b hf, hs]
    have hlt : x % 32 < h.bytes.length := by omega
    rw [hread]
    by_cases hxa : x = a
    · simp [hxa, hlen, Nat.mod_lt]
    · have hne : a % 32 ≠ x % 32 := by omega
      have hold := hbytes (x % 32) (by omega)
      rw [hx] at hold
      rw [if_neg hxa, ← hold, List.getD_eq_getElem?_getD, List.getD_eq_getElem?_getD, List.getElem?_set_ne hne]
  · have hxa : x ≠ a := fun h => hs (by rw [h])
    simp only [State.homeByte, State.homePut_homes b hf, tfind_tput_other _ _ _ _ hs, State.homeFetch_other _ hs, hbanks, if_neg hxa]

theorem State.homeByte_homePutAll {s : State} (hok : homesOk s) {cells : List Host.Cell} (hnd : (cells.map Prod.fst).Nodup) (x : Nat) :
    (s.homePutAll cells).homeByte x = (tfind cells x).getD (s.homeByte x) := by
  induction cells generalizing s with
  | nil => rfl
  | cons c cells ih =>
    obtain ⟨hnot, hnd'⟩ := List.nodup_cons.1 hnd
    rw [State.homePutAll, ih (State.homePut_homesOk hok c.1 c.2) hnd', State.homeByte_homePut hok]
    by_cases hx : c.1 = x
    · have hnone : tfind cells x = none := (tfind_eq_none_iff ..).2 fun e he h => hnot (List.mem_map.2 ⟨e, he, h.trans hx.symm⟩)
      simp [tfind, hx, hnone]
    · simp [tfind, hx, Ne.symm hx]

theorem State.untrack_homes (s : State) (holder line : Nat) : (s.untrack holder line).homes = s.homes := rfl

theorem foldl_homes {β : Type} {f : State → β → State} (h : ∀ s b, (f s b).homes = s.homes) (l : List β) (s : State) : (l.foldl f s).homes = s.homes := by
  induction l generalizing s with
  | nil => rfl
  | cons b l ih => exact (ih _).trans (h s b)

theorem State.removeTracked_homes (s : State) (line : Nat) (writer : Option Nat) : (s.removeTracked line writer).homes = s.homes :=
  Eq.trans rfl (foldl_homes (fun s h => s.untrack_homes h line) _ s)

theorem State.countWrite_homes (s : State) (d : Nat) (cells : List Host.Cell) : (s.countWrite d cells).homes = s.homes := by
  refine foldl_homes (fun s e => ?_) _ s
  dsimp only
  split
  · rfl
  · split
    · unfold State.fire
      dsimp only
      split <;> rfl
    · rfl

theorem State.homeByte_homeWrite {s : State} (hok : homesOk s) (writer : Option Nat) {cells : List Host.Cell} (hnd : (cells.map Prod.fst).Nodup) (x : Nat) :
    (s.homeWrite writer cells).homeByte x = (tfind cells x).getD (s.homeByte x) := by
  have hput := State.homeByte_homePutAll hok hnd x
  have hbanks : (s.homeWrite writer cells).banks = (s.homePutAll cells).banks :=
    (writeKeeps_banks (writeKeeps_homeWrite s writer cells)).trans (writeKeeps_banks (writeKeeps_homePutAll cells s)).symm
  have hhomes : (s.homeWrite writer cells).homes = (s.homePutAll cells).homes := by
    cases cells with
    | nil => rfl
    | cons c cells => exact (State.countWrite_homes ..).trans (foldl_homes (fun s l => State.removeTracked_homes ..) _ _)
  rw [State.homeByte_congr hhomes hbanks, hput]

/-! Records of several fields. -/

/-- The homes hold the bytes from address a up. -/
def State.holdsAt (s : State) (a : Nat) (bs : List Byte) : Prop := s.homeBytes a bs.length = bs

theorem State.homeBytes_add (s : State) (a m n : Nat) : s.homeBytes a (m + n) = s.homeBytes a m ++ s.homeBytes (a + m) n := by
  induction m generalizing a with
  | zero => simp [State.homeBytes]
  | succ m ih => rw [Nat.add_right_comm, State.homeBytes, ih (a + 1), State.homeBytes, List.cons_append, Nat.add_assoc, Nat.add_comm 1 m]

theorem State.holdsAt_append (s : State) (a : Nat) (xs ys : List Byte) :
    s.holdsAt a (xs ++ ys) ↔ s.holdsAt a xs ∧ s.holdsAt (a + xs.length) ys := by
  simp only [State.holdsAt, List.length_append, State.homeBytes_add]
  constructor
  · exact fun h => List.append_inj h (State.length_homeBytes ..)
  · rintro ⟨h1, h2⟩
    rw [h1, h2]

theorem State.homeNum_of_holdsAt {s : State} {a n v : Nat} (h : s.holdsAt a (bytesOfNum n v)) : s.homeNum a n = v % 256 ^ n := by
  rw [State.holdsAt, length_bytesOfNum] at h
  rw [State.homeNum, h, numBytes_bytesOfNum]

theorem State.holdsAt_of_bytes {s : State} {a : Nat} {bs : List Byte} (h : ∀ i b, bs[i]? = some b → s.homeByte (a + i) = b) : s.holdsAt a bs := by
  unfold State.holdsAt
  induction bs generalizing a with
  | nil => rfl
  | cons b bs ih =>
    have h0 : s.homeByte a = b := h 0 b rfl
    rw [List.length_cons, State.homeBytes, h0, ih fun i c hc => ?_]
    rw [Nat.add_assoc, Nat.add_comm 1 i]
    exact h (i + 1) c hc

theorem State.holdsAt_homeWrite {s : State} (hok : homesOk s) (writer : Option Nat) (a : Nat) (bs : List Byte) :
    (s.homeWrite writer (cellsFrom a bs)).holdsAt a bs := by
  refine State.holdsAt_of_bytes fun i b hb => ?_
  rw [State.homeByte_homeWrite hok writer (keys_nodup (cellsFrom_pairwise a bs)), tfind_cellsFrom hb]
  rfl

end Sys2Proof.Machine
end

section
/-! PROOF. Weaves that complete or are torn down. -/

namespace Sys2Proof.Machine

open Sys2Proof

/-! What the end of a weave frees (R10, R160, R179). -/

theorem State.disp_modDisp_other (s : State) {d e : Nat} (f : Disp → Disp) (h : e ≠ d) : (s.modDisp d f).disp e = s.disp e :=
  tget_tmod_other _ _ _ _ _ h

theorem State.freeImages_eq (s : State) (x : Weave) :
    ∃ ds, s.freeImages x = { s with disps := ds } ∧ ∀ d, (tget {} ds d : Disp).pkts = (s.disp d).pkts := by
  unfold State.freeImages
  generalize x.images = l
  induction l generalizing s with
  | nil => exact ⟨s.disps, rfl, fun _ => rfl⟩
  | cons i l ih =>
    obtain ⟨ds, heq, hp⟩ := ih (s.modDisp i.2.die fun d => { d with images := d.images.filter fun n => n != i.2.slot })
    refine ⟨ds, heq, fun d => (hp d).trans ?_⟩
    by_cases hd : d = i.2.die
    · rw [hd, State.disp_modDisp_same]
    · rw [State.disp_modDisp_other _ _ hd]

theorem State.rereadAll_pkt {s : State} {d id : Nat} {p : DPkt} (h : s.pkt d id = some p) :
    (s.rereadAll d).pkt d id = some { p with readBy := s.time } := by
  simp only [State.pkt, State.rereadAll, State.disp_modDisp_same, firstWhere_eq_find?, List.find?_map] at h ⊢
  exact congrArg (Option.map fun p : DPkt => { p with readBy := s.time }) h

section
variable {s : State} {x : Weave} {w id : Nat} {p : DPkt}

/-- A weave of a packet has ended: it is gone with what it held, and its packet has completed. -/
def weaveEnded (s : State) (w id : Nat) (x : Weave) (p : DPkt) (status detail : Nat) (u : State) : Prop :=
  tfind u.weaves w = none ∧ (∀ e ∈ s.weaves, e.1 ≠ w → e ∈ u.weaves) ∧
  u.pkt x.die id = some { p with st := .completed, status, detail, readBy := s.time } ∧
  (∀ h, x.hslot = some h → tfind u.hslots h = some {}) ∧ ∀ e ∈ u.groups, e.2.weave ≠ w

/-- The end of a weave leaves the cores and the memory. -/
theorem State.endWeave_kept (s : State) (status detail : Nat) (ho : x.origin = .packet id) :
    (s.endWeave x status detail).cores = s.cores ∧ (s.endWeave x status detail).homes = s.homes ∧ (s.endWeave x status detail).banks = s.banks := by
  obtain ⟨ds, heq, -⟩ := s.freeImages_eq x
  unfold State.endWeave State.originDone
  simp only [heq, ho]
  cases x.hslot <;> exact ⟨rfl, rfl, rfl⟩

theorem State.endWeave_ended (status detail : Nat) (hid : x.id = w) (ho : x.origin = .packet id) (hp : s.pkt x.die id = some p)
    (hsort : s.weaves.Pairwise fun e f => e.1 < f.1) : weaveEnded s w id x p status detail (s.endWeave x status detail) := by
  subst hid
  obtain ⟨ds, heq, hds⟩ := s.freeImages_eq x
  have hp' : firstWhere (fun q => q.id == id) (tget {} ds x.die : Disp).pkts = some p := (hds x.die).symm ▸ hp
  have hweaves : (s.endWeave x status detail).weaves = tdel s.weaves x.id := by
    unfold State.endWeave State.originDone
    simp only [heq, ho]
    cases x.hslot <;> rfl
  have hgroups : (s.endWeave x status detail).groups = s.groups.filter fun e => e.2.weave != x.id := by
    unfold State.endWeave State.originDone
    simp only [heq, ho]
    cases x.hslot <;> rfl
  refine ⟨?_, ?_, ?_, ?_, ?_⟩
  · rw [hweaves, tfind_tdel_self _ hsort]
  · rw [hweaves]
    exact fun e he hn => mem_tdel_of_ne he hn
  · unfold State.endWeave State.originDone
    simp only [heq, ho]
    refine State.finishPkt_pkt (p := { p with readBy := s.time }) status detail ?_
    cases x.hslot <;> exact State.rereadAll_pkt hp'
  · intro h hh
    unfold State.endWeave State.originDone
    simp only [heq, ho, hh]
    exact tfind_tput_same ..
  · rw [hgroups]
    intro e he
    simpa using (List.mem_filter.1 he).2

/-! Completion (R10). -/

theorem writeKeeps_releases (x : Weave) (l : List (Nat × List Nat)) (s : State) : writeKeeps s (l.foldl (fun v j => v.release j.1 x.rootScope) s) :=
  writeKeeps_foldl _ (fun s j => writeKeeps_release s j.1 x.rootScope) l s

theorem writeKeeps_pkt {s u : State} (h : writeKeeps s u) (d id : Nat) : u.pkt d id = s.pkt d id := by
  simp only [State.pkt, State.disp, writeKeeps_disps h]

theorem writeKeeps_time {s u : State} (h : writeKeeps s u) : u.time = s.time := (congrArg State.time h.1 : u.sansHomes.time = s.sansHomes.time)

/-- Something keeps the weave from its completion. -/
def State.mayNotComplete (s : State) (w : Nat) (x : Weave) : Prop :=
  x.st = .waiting ∨ x.torn = true ∨ x.live ≠ [] ∨ s.weaveOwes x = true ∨ s.weaveHalted w = true

theorem State.mayNotComplete_iff (s : State) (w : Nat) (x : Weave) :
    (x.st == .waiting || x.torn || !x.live.isEmpty || s.weaveOwes x || s.weaveHalted w) = true ↔ s.mayNotComplete w x := by
  simp only [State.mayNotComplete, Bool.or_eq_true, beq_iff_eq, Bool.not_eq_true', ← Bool.not_eq_true, List.isEmpty_iff, or_assoc, ne_eq]

theorem exec_weaveComplete_waits (hf : tfind s.weaves w = some x) (h : s.mayNotComplete w x) : exec (.weaveComplete w) s = .next s := by
  simp only [exec_weaveComplete, execWeaveComplete, hf, if_pos ((State.mayNotComplete_iff s w x).2 h)]

theorem exec_weaveComplete_ends (hf : tfind s.weaves w = some x) (h : ¬ s.mayNotComplete w x) :
    exec (.weaveComplete w) s = .next ((x.jobs.foldl (fun v j => v.release j.1 x.rootScope) s).endWeave x 0 0) := by
  simp only [exec_weaveComplete, execWeaveComplete, hf, if_neg (mt (State.mayNotComplete_iff s w x).1 h)]

theorem weaveComplete_ended (hid : x.id = w) (ho : x.origin = .packet id) (hp : s.pkt x.die id = some p)
    (hsort : s.weaves.Pairwise fun e f => e.1 < f.1) :
    weaveEnded s w id x p 0 0 ((x.jobs.foldl (fun v j => v.release j.1 x.rootScope) s).endWeave x 0 0) := by
  have hk := writeKeeps_releases x x.jobs s
  have hended := State.endWeave_ended 0 0 hid ho ((writeKeeps_pkt hk x.die id).trans hp) (writeKeeps_weaves hk ▸ hsort)
  rwa [weaveEnded, writeKeeps_weaves hk, writeKeeps_time hk] at hended

/-! Teardown (R176). -/

/-- The job of weave w on core c has no request outstanding. -/
def State.settledAt (s : State) (w c : Nat) : Bool := s.jobHere w c && (s.core c).accs.isEmpty

theorem State.settledAt_congr {s u : State} {c : Nat} (w : Nat) (h : u.core c = s.core c) : u.settledAt w c = s.settledAt w c := by
  simp only [State.settledAt, State.jobHere, h]

/-- A state without its cores, its weaves and its page-walk queues. -/
def State.sansJobs (s : State) : State := { s with cores := [], weaves := [], walkQ := [] }

/-- The jobs of a list, settled in state s, count their dropped launches. -/
def State.launchesOf (s : State) (w : Nat) (l : List (Nat × Nat)) : Nat := ((l.filter fun j => s.settledAt w j.2).map fun j => (s.core j.2).launches).sum

/-- The settled jobs of a list have been freed between s and u. -/
structure settledFreed (s : State) (w : Nat) (x : Weave) (l : List (Nat × Nat)) (u : State) : Prop where
  rest : u.sansJobs = s.sansJobs
  freed : ∀ j ∈ l, s.settledAt w j.2 = true → u.core j.2 = (s.core j.2).vacate
  kept : ∀ c, (∀ j ∈ l, j.2 = c → s.settledAt w c = false) → u.core c = s.core c
  weave : tfind u.weaves w = some { x with done := x.done ++ (l.filter fun j => s.settledAt w j.2).map fun j => j.1, dropped := x.dropped + s.launchesOf w l }
  others : ∀ e ∈ s.weaves, e.1 ≠ w → e ∈ u.weaves
  sorted : (s.weaves.Pairwise fun e f => e.1 < f.1) → u.weaves.Pairwise fun e f => e.1 < f.1

/-- Job j of weave x, settled on core c, is freed. -/
def State.oneFreed (s : State) (w : Nat) (x : Weave) (j c : Nat) : State :=
  { (s.modCore c Core.vacate) with
    walkQ := (s.dropWalk c).walkQ, weaves := tput s.weaves w { x with done := x.done ++ [j], dropped := x.dropped + (s.core c).launches } }

theorem State.freeTorn_eq (s : State) (j c : Nat) (hf : tfind s.weaves w = some x) : (s.dropWalk c).freeTorn w j c = s.oneFreed w x j c := by
  have hw : tfind ((s.dropWalk c).modCore c Core.vacate).weaves w = some x := hf
  simp only [State.freeTorn, State.modWeave, hw]
  rfl

theorem State.freeSettled_freed {l : List (Nat × Nat)} (hnd : (l.map fun j : Nat × Nat => j.2).Nodup) {s : State} {x : Weave} (hf : tfind s.weaves w = some x) :
    settledFreed s w x l (s.freeSettled w l) := by
  induction l generalizing s x with
  | nil => exact ⟨rfl, by simp, fun _ _ => rfl, by simpa [State.launchesOf, State.freeSettled] using hf, fun _ he _ => he, fun h => h⟩
  | cons a l ih =>
    obtain ⟨hnot, hnd'⟩ := List.nodup_cons.1 hnd
    have hne : ∀ j ∈ l, j.2 ≠ a.2 := fun j hj he => hnot (List.mem_map.2 ⟨j, hj, he⟩)
    cases ha : s.settledAt w a.2 with
    | false =>
      have hstep : s.freeSettled w (a :: l) = s.freeSettled w l := by
        have : (s.jobHere w a.2 && (s.core a.2).accs.isEmpty) = false := ha
        simp only [State.freeSettled, List.foldl_cons, this, Bool.false_eq_true, if_false]
      obtain ⟨rest, freed, kept, weave, others, sorted⟩ := ih hnd' hf
      rw [hstep]
      refine ⟨rest, fun j hj hs => ?_, fun c hc => kept c fun j hj => hc j (List.mem_cons_of_mem _ hj), ?_, others, sorted⟩
      · rcases List.mem_cons.1 hj with rfl | hj
        · rw [ha] at hs; cases hs
        · exact freed j hj hs
      · simpa [List.filter_cons, ha, State.launchesOf] using weave
    | true =>
      have hstep : s.freeSettled w (a :: l) = ((s.dropWalk a.2).freeTorn w a.1 a.2).freeSettled w l := by
        have : (s.jobHere w a.2 && (s.core a.2).accs.isEmpty) = true := ha
        simp only [State.freeSettled, List.foldl_cons, this, if_true]
      rw [hstep, State.freeTorn_eq s a.1 a.2 hf]
      set u := s.oneFreed w x a.1 a.2
      have hsame : u.core a.2 = (s.core a.2).vacate := State.modCore_core_same ..
      have hother : ∀ c, c ≠ a.2 → u.core c = s.core c := fun c hc => State.modCore_core_other _ _ _ _ hc
      have hrest : u.sansJobs = s.sansJobs := rfl
      have hweaves : u.weaves = tput s.weaves w { x with done := x.done ++ [a.1], dropped := x.dropped + (s.core a.2).launches } := rfl
      have hset : ∀ j ∈ l, u.settledAt w j.2 = s.settledAt w j.2 := fun j hj => State.settledAt_congr w (hother _ (hne j hj))
      have hfilter : (l.filter fun j => u.settledAt w j.2) = l.filter fun j => s.settledAt w j.2 := List.filter_congr hset
      have hlaunch : u.launchesOf w l = s.launchesOf w l := by
        unfold State.launchesOf
        rw [hfilter]
        exact congrArg List.sum (List.map_congr_left fun j hj => by rw [hother _ (hne j (List.mem_filter.1 hj).1)])
      obtain ⟨rest, freed, kept, weave, others, sorted⟩ := ih hnd' (by rw [hweaves]; exact tfind_tput_same ..)
      refine ⟨rest.trans hrest, fun j hj hs => ?_, fun c hc => ?_, ?_, fun e he hn => others e (hweaves ▸ mem_tput_of_ne _ he hn) hn,
        fun h => sorted (hweaves ▸ tput_pairwise _ _ h)⟩
      · rcases List.mem_cons.1 hj with rfl | hj
        · exact (kept _ fun i hi he => absurd he (hne i hi)).trans hsame
        · exact (freed j hj ((hset j hj).trans hs)).trans (by rw [hother _ (hne j hj)])
      · have hca : c ≠ a.2 := fun he => by
          have := hc a (List.mem_cons_self ..) he.symm
          rw [he, ha] at this
          cases this
        refine (kept c fun j hj he => ?_).trans (hother c hca)
        exact (State.settledAt_congr w (hother c hca)).trans (hc j (List.mem_cons_of_mem _ hj) he)
      · rw [weave, hfilter, hlaunch]
        simp [ha, State.launchesOf, Nat.add_assoc]

/-- The weave as it stands once its settled jobs are freed. -/
def State.settledWeave (s : State) (w : Nat) (x : Weave) : Weave :=
  { x with done := x.done ++ (x.live.filter fun j => s.settledAt w j.2).map fun j => j.1, dropped := x.dropped + s.launchesOf w x.live }

/-- The weave as its report gives it. -/
def State.reportedWeave (s : State) (w : Nat) (x : Weave) : Weave := (s.settledWeave w x).countParked

/-- Something keeps a torn-down weave from its end: a request of a job of it, or a store of a run. -/
def State.tornHeld (s : State) (w : Nat) (x : Weave) : Prop :=
  (∃ j ∈ x.live, s.jobHere w j.2 = true ∧ (s.core j.2).accs ≠ []) ∨ s.runsOwed w = true

theorem Weave.mem_live (x : Weave) (j : Nat × Nat) : j ∈ x.live ↔ (x.jobs.map fun e => e.1)[j.1]? = some j.2 ∧ j.1 ∉ x.done := by
  have hzip : j ∈ (span 0 x.jobs.length).zip (x.jobs.map fun e => e.1) ↔ (x.jobs.map fun e => e.1)[j.1]? = some j.2 := by
    simp only [List.mem_iff_getElem?, List.getElem?_zip_eq_some, span_eq_range']
    constructor
    · rintro ⟨i, h1, h2⟩
      have hi : i = j.1 := by
        obtain ⟨hlt, hi⟩ := List.getElem?_eq_some_iff.1 h1
        simpa [List.getElem_range'] using hi
      rwa [← hi]
    · intro h
      have hlt : j.1 < x.jobs.length := by simpa using (List.getElem?_eq_some_iff.1 h).1
      exact ⟨j.1, by simp [List.getElem?_range' hlt], h⟩
  simp only [Weave.live, List.mem_filter, hzip, Bool.not_eq_true', List.contains_eq_mem, decide_eq_false_iff_not]

theorem mem_settledWeave_live (s : State) (w : Nat) (x : Weave) (j : Nat × Nat) :
    j ∈ (s.settledWeave w x).live ↔ j ∈ x.live ∧ s.settledAt w j.2 = false := by
  have hdone : j ∈ x.live → (j.1 ∈ (x.live.filter fun j => s.settledAt w j.2).map (fun j => j.1) ↔ s.settledAt w j.2 = true) := by
    intro hj
    simp only [List.mem_map, List.mem_filter]
    constructor
    · rintro ⟨i, ⟨hi, hs⟩, he⟩
      have hcore : some i.2 = some j.2 := by rw [← ((Weave.mem_live ..).1 hi).1, ← ((Weave.mem_live ..).1 hj).1, he]
      rwa [← Option.some.inj hcore]
    · exact fun hs => ⟨j, ⟨hj, hs⟩, rfl⟩
  rw [Weave.mem_live]
  simp only [State.settledWeave, List.mem_append, not_or]
  rw [← and_assoc, ← Weave.mem_live]
  exact and_congr_right fun hj => by rw [hdone hj, Bool.not_eq_true]

theorem State.runsOwed_congr {s u : State} (w : Nat) (h : u.smps = s.smps) (hw : u.weaveGone w = s.weaveGone w) : u.runsOwed w = s.runsOwed w := by
  simp only [State.runsOwed, h, hw]

section
variable {s u : State} {x : Weave} (h : settledFreed s w x x.live u)
include h

theorem settledFreed.gone : ∀ j ∈ x.live, s.jobHere w j.2 = true → (s.core j.2).accs = [] → (u.core j.2).job = none ∧ (u.core j.2).tasks = [] := by
  intro j hj hj' ha
  rw [h.freed j hj (by simp [State.settledAt, hj', ha])]
  exact ⟨rfl, rfl⟩

theorem settledFreed.left : ∀ c, (∀ j ∈ x.live, j.2 ≠ c ∨ s.jobHere w c = false ∨ (s.core c).accs ≠ []) → u.core c = s.core c := by
  intro c hc
  refine h.kept c fun j hj he => ?_
  rcases hc j hj with hne | hne | hne
  · exact absurd he hne
  · simp [State.settledAt, hne]
  · simp [State.settledAt, hne]

theorem settledFreed.jobHere_iff : ((s.settledWeave w x).live.any fun j => u.jobHere w j.2) = true ↔
    ∃ j ∈ x.live, s.jobHere w j.2 = true ∧ (s.core j.2).accs ≠ [] := by
  have hsame : ∀ j, j ∈ x.live → s.settledAt w j.2 = false → u.jobHere w j.2 = s.jobHere w j.2 := fun j hj hs => by
    simp only [State.jobHere, h.kept j.2 fun i _ he => hs]
  simp only [List.any_eq_true, mem_settledWeave_live]
  constructor
  · rintro ⟨j, ⟨hj, hs⟩, hh⟩
    rw [hsame j hj hs] at hh
    exact ⟨j, hj, hh, by simpa [State.settledAt, hh] using hs⟩
  · rintro ⟨j, hj, hh, ha⟩
    have hs : s.settledAt w j.2 = false := by simp [State.settledAt, ha]
    exact ⟨j, ⟨hj, hs⟩, (hsame j hj hs).trans hh⟩

theorem settledFreed.runsOwed (hf : tfind s.weaves w = some x) (ht : x.torn = true) : u.runsOwed w = s.runsOwed w := by
  refine State.runsOwed_congr w (congrArg State.smps h.rest : u.sansJobs.smps = s.sansJobs.smps) ?_
  simp [State.weaveGone, h.weave, hf, ht]

theorem settledFreed.held_iff (hf : tfind s.weaves w = some x) (ht : x.torn = true) :
    (((s.settledWeave w x).live.any fun j => u.jobHere w j.2) || u.runsOwed w) = true ↔ s.tornHeld w x := by
  rw [Bool.or_eq_true, h.jobHere_iff, h.runsOwed hf ht, State.tornHeld]

/-- The freeing of jobs leaves memory as it is. -/
theorem settledFreed.bytesKept : bytesKept s u := by
  have hcore : ∀ c, s.core c |>.storesAs (u.core c) := fun c => by
    by_cases hc : ∃ j ∈ x.live, j.2 = c ∧ s.settledAt w c = true
    · obtain ⟨j, hj, rfl, hs⟩ := hc
      rw [h.freed j hj hs]
      exact ⟨rfl, rfl, rfl, rfl⟩
    · rw [h.kept c fun j hj he => Bool.eq_false_iff.2 fun hs => hc ⟨j, hj, he, hs⟩]
      exact ⟨rfl, rfl, rfl, rfl⟩
  exact bytesKept_of s u (congrArg State.banks h.rest : u.sansJobs.banks = s.sansJobs.banks)
    (congrArg State.homes h.rest : u.sansJobs.homes = s.sansJobs.homes) hcore

end

theorem exec_weaveTeardown_whole {s : State} {x : Weave} (hf : tfind s.weaves w = some x) (ht : x.torn = false) : exec (.weaveTeardown w) s = .next s := by
  simp [execWeaveTeardown, hf, ht]

section
variable {s : State} {x : Weave} (hf : tfind s.weaves w = some x) (ht : x.torn = true) (hnd : (x.live.map fun j : Nat × Nat => j.2).Nodup)
include hf ht hnd

theorem exec_weaveTeardown_held (hh : s.tornHeld w x) : exec (.weaveTeardown w) s = .next (s.freeSettled w x.live) := by
  have hs := State.freeSettled_freed hnd hf
  have hw : tfind (s.freeSettled w x.live).weaves w = some (s.settledWeave w x) := hs.weave
  have hheld := (hs.held_iff hf ht).2 hh
  simp only [exec_weaveTeardown, execWeaveTeardown, hf, ht, hw, hheld, Bool.not_true, Bool.false_eq_true, if_false, if_true]

theorem exec_weaveTeardown_ends (hh : ¬ s.tornHeld w x) : exec (.weaveTeardown w) s =
    .next (((s.freeSettled w x.live).writeReport (s.reportedWeave w x)).endWeave (s.reportedWeave w x) x.status
      (if 7 ≤ x.status ∧ x.status ≤ 12 then (s.reportedWeave w x).dropped else 0)) := by
  have hs := State.freeSettled_freed hnd hf
  have hw : tfind (s.freeSettled w x.live).weaves w = some (s.settledWeave w x) := hs.weave
  have hheld := Bool.eq_false_iff.2 (mt (hs.held_iff hf ht).1 hh)
  simp only [exec_weaveTeardown, execWeaveTeardown, hf, ht, hw, hheld, Bool.not_true, Bool.false_eq_true, if_false]
  rfl

end

theorem Weave.countParked_dropped (x : Weave) : x.countParked.dropped = x.dropped + (x.images.map fun i => i.2.state.launches).sum := by
  have h : ∀ (l : List (Nat × Image)) (n : Nat), l.foldl (fun n i => n + i.2.state.launches) n = n + (l.map fun i => i.2.state.launches).sum := by
    intro l
    induction l with
    | nil => simp
    | cons i l ih => intro n; simp [ih, Nat.add_assoc]
  exact h x.images x.dropped

/-- The launches that a teardown drops where nothing keeps the weave. -/
theorem State.reportedWeave_dropped {s : State} {x : Weave} (hh : ¬ s.tornHeld w x) : (s.reportedWeave w x).dropped =
    x.dropped + ((x.live.filter fun j => s.jobHere w j.2).map fun j => (s.core j.2).launches).sum + (x.images.map fun i => i.2.state.launches).sum := by
  have hfilter : (x.live.filter fun j => s.settledAt w j.2) = x.live.filter fun j => s.jobHere w j.2 := by
    refine List.filter_congr fun j hj => ?_
    cases hj' : s.jobHere w j.2 with
    | false => simp [State.settledAt, hj']
    | true =>
      have ha : (s.core j.2).accs = [] := by_contra fun ha => hh (Or.inl ⟨j, hj, hj', ha⟩)
      simp [State.settledAt, hj', ha]
  rw [State.reportedWeave, Weave.countParked_dropped, ← hfilter]
  rfl

/-- The 64 bytes of the teardown report (R176). -/
def reportHeld (u : State) (a n : Nat) (x : Weave) : Prop :=
  u.homeNum a 8 = (2 ^ 16 * n + x.status) % 2 ^ 64 ∧ u.homeNum (a + 8) 2 = x.report.wherev % 2 ^ 16 ∧ u.homeNum (a + 10) 1 = x.report.strand % 2 ^ 8 ∧
  u.homeNum (a + 11) 1 = x.report.task % 2 ^ 8 ∧ u.homeNum (a + 12) 4 = n % 2 ^ 32 ∧ u.homeNum (a + 16) 8 = x.report.word % 2 ^ 64 ∧
  u.homeNum (a + 24) 8 = x.report.vaddr % 2 ^ 64 ∧ u.homeNum (a + 32) 4 = x.idx % 2 ^ 32 ∧ u.homeNum (a + 36) 28 = 0

theorem reportHeld_of_holdsAt {u : State} {a : Nat} {x : Weave} (h : u.holdsAt a (reportBytes x x.dropped)) : reportHeld u a x.dropped x := by
  simp only [reportBytes, State.holdsAt_append, List.length_append, length_bytesOfNum] at h
  obtain ⟨⟨⟨⟨⟨⟨⟨⟨h0, h1⟩, h2⟩, h3⟩, h4⟩, h5⟩, h6⟩, h7⟩, h8⟩ := h
  exact ⟨State.homeNum_of_holdsAt h0, State.homeNum_of_holdsAt h1, State.homeNum_of_holdsAt h2, State.homeNum_of_holdsAt h3,
    State.homeNum_of_holdsAt h4, State.homeNum_of_holdsAt h5, State.homeNum_of_holdsAt h6, State.homeNum_of_holdsAt h7,
    (State.homeNum_of_holdsAt h8).trans (Nat.zero_mod _)⟩

theorem writeKeeps_writeReport (s : State) (x : Weave) : writeKeeps s (s.writeReport x) := by
  unfold State.writeReport
  split
  · exact writeKeeps_refl s
  · exact writeKeeps_homeWrite ..

theorem State.holdsAt_congr {s u : State} (hh : u.homes = s.homes) (hb : u.banks = s.banks) {a : Nat} {bs : List Byte} (h : s.holdsAt a bs) :
    u.holdsAt a bs := by
  have hbytes : ∀ n a, u.homeBytes a n = s.homeBytes a n := by
    intro n
    induction n with
    | zero => exact fun _ => rfl
    | succ n ih => exact fun a => by rw [State.homeBytes, State.homeBytes, ih, State.homeByte_congr hh hb]
  exact (hbytes _ a).trans h

/-- The last step of a teardown, from the state v in which the settled jobs are freed. -/
theorem weaveTeardown_ended {s v : State} {x : Weave} (hs : settledFreed s w x x.live v) (hid : x.id = w) (ho : x.origin = .packet id)
    (hp : s.pkt x.die id = some p) (hsort : s.weaves.Pairwise fun e f => e.1 < f.1) (hh : ¬ s.tornHeld w x) (hok : memoryOk s) (status detail : Nat) :
    let z := s.reportedWeave w x
    let u := (v.writeReport z).endWeave z status detail
    weaveEnded s w id x p status detail u ∧ (∀ j ∈ x.live, s.jobHere w j.2 = true → (u.core j.2).job = none ∧ (u.core j.2).tasks = []) ∧
    (x.tdaddr = 0 → ∀ a, u.homeByte a = s.homeByte a) ∧ (x.tdaddr ≠ 0 → reportHeld u x.tdaddr z.dropped x) := by
  intro z u
  have hk := writeKeeps_writeReport v z
  have hpkt : v.pkt x.die id = some p := by
    have hd : v.disps = s.disps := (congrArg State.disps hs.rest : v.sansJobs.disps = s.sansJobs.disps)
    rwa [State.pkt, State.disp, hd]
  have htime : v.time = s.time := (congrArg State.time hs.rest : v.sansJobs.time = s.sansJobs.time)
  obtain ⟨hgone, hothers, hpk, hslot, hgroups⟩ := State.endWeave_ended (x := z) status detail hid ho
    ((writeKeeps_pkt hk x.die id).trans hpkt) (writeKeeps_weaves hk ▸ hs.sorted hsort)
  obtain ⟨hcores, hhomes, hbanks⟩ := State.endWeave_kept (x := z) (v.writeReport z) status detail ho
  rw [writeKeeps_time hk, htime] at hpk
  refine ⟨⟨hgone, fun e he hne => hothers e (writeKeeps_weaves hk ▸ hs.others e he hne) hne, hpk, hslot, hgroups⟩, fun j hj hj' => ?_, fun h0 a => ?_,
    fun h0 => ?_⟩
  · have hset : s.settledAt w j.2 = true := by
      have ha : (s.core j.2).accs = [] := by_contra fun ha => hh (Or.inl ⟨j, hj, hj', ha⟩)
      simp [State.settledAt, hj', ha]
    have hcore : u.core j.2 = (v.writeReport z).core j.2 := by simp only [State.core, u, hcores]
    have hl1 := (hk.2.1 j.2).trans (congrArg Core.sansL1 (hs.freed j hj hset))
    rw [← hcore] at hl1
    have hjob := congrArg Core.job hl1
    have htasks := congrArg Core.tasks hl1
    exact ⟨hjob, htasks⟩
  · have hrep : v.writeReport z = v := if_pos h0
    have hv : (v.writeReport z).homeByte a = s.homeByte a := by rw [hrep]; exact hs.bytesKept.1 a
    exact (State.homeByte_congr hhomes hbanks a).trans hv
  · have hok' : homesOk v := by
      have hhs : v.homes = s.homes := (congrArg State.homes hs.rest : v.sansJobs.homes = s.sansJobs.homes)
      rw [homesOk, hhs]
      exact hok.2
    have hheld : (v.writeReport z).holdsAt x.tdaddr (reportBytes z z.dropped) := by
      have hrep : v.writeReport z = v.homeWrite none (cellsFrom x.tdaddr (reportBytes z z.dropped)) := if_neg h0
      rw [hrep]
      exact State.holdsAt_homeWrite hok' none ..
    exact reportHeld_of_holdsAt (State.holdsAt_congr hhomes hbanks hheld)

end

end Sys2Proof.Machine
end

section
/-! PROOF. Weaves that are pre-empted, at a decision or at the end of their quantum (R169, R177, R178). -/

namespace Sys2Proof.Machine

open Sys2Proof

/-! The victims (R169). -/

theorem mem_insertVictim (x v : Weave) (l : List Weave) : v ∈ insertVictim x l ↔ v = x ∨ v ∈ l := by
  induction l with
  | nil => simp [insertVictim]
  | cons y l ih =>
    rw [insertVictim]
    split
    · exact List.mem_cons
    · rw [List.mem_cons, ih, List.mem_cons]
      tauto

theorem mem_foldr_insertVictim (v : Weave) (l : List Weave) : v ∈ l.foldr insertVictim [] ↔ v ∈ l := by
  induction l with
  | nil => exact Iff.rfl
  | cons x l ih => rw [List.foldr_cons, mem_insertVictim, ih, List.mem_cons]

theorem State.victim_of_mem {s : State} {y v : Weave} (h : v ∈ s.victims y) : v.st = .resident ∧ v.prio < y.prio := by
  rw [State.victims, mem_foldr_insertVictim] at h
  obtain ⟨e, he, rfl⟩ := List.mem_map.1 h
  have hc := (List.mem_filter.1 he).2
  simp only [Bool.and_eq_true, beq_iff_eq, decide_eq_true_eq] at hc
  obtain ⟨⟨⟨hst, -⟩, -⟩, hp⟩ := hc
  exact ⟨hst, hp⟩

theorem State.chosen_are_victims {s : State} {y v : Weave} {vs : List Weave} (h : s.chooseVictims y = some vs) (hv : v ∈ vs) : v ∈ s.victims y := by
  obtain ⟨n, -, rfl⟩ := Option.map_eq_some_iff.1 h
  exact List.mem_of_mem_take hv

theorem bits_zero_ten (v : Word) : bits v 0 10 = v.toNat % 2 ^ 10 := by simp [bits, fld]

/-! The decision (R169, R177). -/

section
variable {s : State} {w w' : Nat} {x y : Weave}

/-- Weave x has begun to stop. -/
def weaveStops (s : State) (w : Nat) (x : Weave) (u : State) : Prop :=
  u.cores = s.cores ∧ bytesKept s u ∧ ∃ y, u = { s with weaves := tput s.weaves w y } ∧ y = { x with st := .stopping, stopTime := 0, commonSpc := y.commonSpc }

theorem State.preempt_stops (s : State) (hid : x.id = w) : weaveStops s w x (s.preempt x) := by
  subst hid
  exact ⟨rfl, bytesKept_of_parts _ _ rfl rfl rfl, _, rfl, rfl⟩

section
variable (hx : tfind s.weaves w = some x) (hy : tfind s.weaves w' = some y) (hst : y.st = .waiting ∨ y.st = .saved) (ht : y.torn = false)
  (hp : s.placeable y = false)
include hx hy

theorem exec_preemptDecision_pool (h : (s.disp y.die).savecnt.toNat % 2 ^ 10 = 0) : exec (.preemptDecision w w') s = .next s := by
  have h' : bits (s.disp y.die).savecnt 0 10 = 0 := (bits_zero_ten _).trans h
  simp [execPreemptDecision, hx, hy, h']

include hst ht hp

theorem exec_preemptDecision_victims {vs : List Weave} (h : (s.disp y.die).savecnt.toNat % 2 ^ 10 ≠ 0) (hvs : s.chooseVictims y = some vs) :
    exec (.preemptDecision w w') s = .next (if (vs.any fun v => v.id == w) && s.roomFor vs then s.preempt x else s) := by
  have hw : (y.st != .waiting && y.st != .saved) = false := by rcases hst with h | h <;> simp [h]
  have h' : ¬ bits (s.disp y.die).savecnt 0 10 = 0 := fun h0 => h ((bits_zero_ten _).symm.trans h0)
  simp only [exec_preemptDecision, execPreemptDecision, hx, hy, hw, ht, hp, hvs, decide_eq_false h', Bool.or_self, Bool.false_eq_true, if_false]

theorem exec_preemptDecision_stops {vs : List Weave} (hid : x.id = w) (h : (s.disp y.die).savecnt.toNat % 2 ^ 10 ≠ 0) (hvs : s.chooseVictims y = some vs)
    (hroom : s.roomFor vs = true) (hv : ∃ v ∈ vs, v.id = w) : answers (.preemptDecision w w') s (weaveStops s w x) := by
  have hany : ((vs.any fun v => v.id == w) && s.roomFor vs) = true := by simpa [hroom] using hv
  have hexec := exec_preemptDecision_victims hx hy hst ht hp h hvs
  rw [if_pos hany] at hexec
  exact ⟨_, hexec, State.preempt_stops s hid⟩

theorem exec_preemptDecision_spared {vs : List Weave} (h : (s.disp y.die).savecnt.toNat % 2 ^ 10 ≠ 0) (hvs : s.chooseVictims y = some vs)
    (hno : s.roomFor vs = false ∨ ∀ v ∈ vs, v.id ≠ w) : exec (.preemptDecision w w') s = .next s := by
  have hany : ¬ ((vs.any fun v => v.id == w) && s.roomFor vs) = true := by
    rcases hno with h | h
    · simp [h]
    · simp only [Bool.and_eq_true, List.any_eq_true, beq_iff_eq]
      rintro ⟨⟨v, hv, hvw⟩, -⟩
      exact h v hv hvw
  rw [exec_preemptDecision_victims hx hy hst ht hp h hvs, if_neg hany]

end

/-! The end of a quantum (R169, R43). -/

/-- Nobody takes over at the end of the quantum of weave x. -/
def State.quantumAlone (s : State) (x : Weave) : Prop :=
  (s.disp x.die).savecnt.toNat % 2 ^ 10 = 0 ∨ s.roomFor [x] = false ∨ ∀ e ∈ s.weaves, s.waitsFor e.2 x = false

theorem State.quantumAlone_iff (s : State) (x : Weave) :
    (bits (s.disp x.die).savecnt 0 10 == 0 || !s.roomFor [x] || !s.weaves.any (fun e => s.waitsFor e.2 x)) = true ↔ s.quantumAlone x := by
  simp only [State.quantumAlone, bits_zero_ten, Bool.or_eq_true, beq_iff_eq, Bool.not_eq_true', List.any_eq_false, or_assoc, Bool.not_eq_true]

section
variable (hx : tfind s.weaves w = some x) (hst : x.st = .resident) (ht : x.torn = false) (hh : s.weaveHalted w = false)
include hx hst ht hh

theorem exec_quantumExpiry_early (hq : x.quantum < 2000000) : exec (.quantumExpiry w w') s = .next s := by
  simp [execQuantumExpiry, hx, hst, ht, hh, hq]

variable (hq : 2000000 ≤ x.quantum)
include hq

theorem exec_quantumExpiry_alone (h : s.quantumAlone x) : exec (.quantumExpiry w w') s = .next { s with weaves := tput s.weaves w { x with quantum := 0 } } := by
  simp only [exec_quantumExpiry, execQuantumExpiry, hx, hst, ht, hh, decide_eq_false (Nat.not_lt.2 hq), bne_self_eq_false, Bool.or_self,
    Bool.false_eq_true, if_false, if_pos ((State.quantumAlone_iff ..).2 h)]

theorem exec_quantumExpiry_nobody (h : ¬ s.quantumAlone x) (hy : tfind s.weaves w' = none) : exec (.quantumExpiry w w') s = .next s := by
  simp only [exec_quantumExpiry, execQuantumExpiry, hx, hy, hst, ht, hh, decide_eq_false (Nat.not_lt.2 hq), bne_self_eq_false, Bool.or_self,
    Bool.false_eq_true, if_false, if_neg (mt (State.quantumAlone_iff ..).1 h)]

theorem exec_quantumExpiry_yields (h : ¬ s.quantumAlone x) (hy : tfind s.weaves w' = some y) (hw : s.waitsFor y x = true) :
    exec (.quantumExpiry w w') s = .next (s.fresh.preempt { x with arrival := s.nextId, yields := some w' }) := by
  simp only [exec_quantumExpiry, execQuantumExpiry, hx, hy, hw, hst, ht, hh, decide_eq_false (Nat.not_lt.2 hq), bne_self_eq_false, Bool.or_self,
    Bool.false_eq_true, if_false, if_true, if_neg (mt (State.quantumAlone_iff ..).1 h)]

end

/-- A weave that waits for a core of weave x of its priority. -/
theorem State.waitsFor_of_fits (hst : y.st = .waiting ∨ y.st = .saved) (ht : y.torn = false) (hp : s.placeable y = false) (hprio : y.prio = x.prio)
    (h : s.fitsWithout y (x :: s.stoppingWeaves) = true ∨ (y.st = .saved ∧ ∃ j ∈ y.live, s.jobHere x.id j.2 = true)) : s.waitsFor y x = true := by
  have hw : (y.st == .waiting || y.st == .saved) = true := by rcases hst with h | h <;> simp [h]
  rcases h with h | ⟨hs, h⟩
  · simp [State.waitsFor, hw, ht, hprio, hp, h]
  · have hany : (y.live.any fun j => s.jobHere x.id j.2) = true := by simpa using h
    simp [State.waitsFor, ht, hprio, hp, hs, hany]

theorem State.not_quantumAlone {n : Nat} (hy : tfind s.weaves n = some y) (hw : s.waitsFor y x = true) (hcount : (s.disp x.die).savecnt.toNat % 2 ^ 10 ≠ 0)
    (hroom : s.roomFor [x] = true) : ¬ s.quantumAlone x := by
  rintro (h | h | h)
  · exact hcount h
  · exact Bool.false_ne_true (h.symm.trans hroom)
  · exact Bool.false_ne_true ((h _ (mem_of_tfind hy)).symm.trans hw)

theorem quantumExpiry_yielded (s : State) (w' : Nat) (hid : x.id = w) :
    let u := s.fresh.preempt { x with arrival := s.nextId, yields := some w' }
    u.cores = s.cores ∧ bytesKept s u ∧ (∀ v, v ≠ w → tfind u.weaves v = tfind s.weaves v) ∧
      ∃ z, tfind u.weaves w = some z ∧ z = { x with st := .stopping, stopTime := 0, commonSpc := z.commonSpc, arrival := s.nextId, yields := some w' } := by
  subst hid
  exact ⟨rfl, bytesKept_of_parts _ _ rfl rfl rfl, fun v hv => tfind_tput_other _ _ _ _ hv, _, tfind_tput_same .., rfl⟩

/-! Overdue stops (R178). -/

theorem State.allStopped_iff (s : State) (x : Weave) : s.allStopped x = true ↔ ∀ j ∈ x.live, s.jobHere x.id j.2 = true → s.jobStopped j.2 = true := by
  simp only [State.allStopped, List.all_eq_true, Bool.or_eq_true, Bool.not_eq_true', ← Bool.not_eq_true, imp_iff_not_or]

theorem exec_preemptOverdue_waits (hx : tfind s.weaves w = some x) (h : x.stopTime < 200000 ∨ s.weaveHalted w = true ∨ s.allStopped x = true) :
    exec (.preemptOverdue w) s = .next s := by
  rcases h with h | h | h <;> simp [execPreemptOverdue, hx, h]

theorem exec_preemptOverdue_torn (hx : tfind s.weaves w = some x) (hst : x.st = .stopping) (ht : x.torn = false) (h1 : 200000 ≤ x.stopTime)
    (h2 : s.weaveHalted w = false) (h3 : s.allStopped x = false) : answers (.preemptOverdue w) s fun u =>
      u.cores = s.cores ∧ bytesKept s u ∧ ∃ y, tfind u.weaves w = some y ∧ y.torn = true ∧ y.status = 10 := by
  have hm : s.modWeave w (fun x => if x.torn then x else { x with torn := true, status := 10, report := {} }) =
      { s with weaves := tput s.weaves w { x with torn := true, status := 10, report := {} } } := by simp [State.modWeave, hx, ht]
  refine ⟨s.tearDown w 10 {}, by simp [execPreemptOverdue, hx, hst, h2, h3, h1], ?_⟩
  unfold State.tearDown
  rw [hm]
  exact ⟨rfl, bytesKept_of_parts _ _ rfl rfl rfl, _, tfind_tput_same .., rfl, rfl⟩

end

end Sys2Proof.Machine
end

section
/-! PROOF. A job that is saved: what its image holds (R177, R179). -/

namespace Sys2Proof.Machine

open Sys2Proof

/-! The cells of an image. -/

theorem mem_numCells {a n v : Nat} {x : Host.Cell} (h : x ∈ numCells a n v) : a ≤ x.1 ∧ x.1 < a + n := by
  have hx := mem_cellsFrom (List.mem_filter.1 h).1
  rwa [length_bytesOfNum] at hx

theorem mem_tableCells {a n limit : Nat} {t : Tbl Nat} {x : Host.Cell} (h : x ∈ tableCells a n limit t) :
    ∃ e ∈ t, e.1 < limit ∧ a + n * e.1 ≤ x.1 ∧ x.1 < a + n * e.1 + n := by
  obtain ⟨e, he, hx⟩ := List.mem_flatMap.1 h
  split at hx
  next hlt => exact ⟨e, he, hlt, mem_numCells hx⟩
  next => cases hx

theorem tableCells_range {a n limit : Nat} {t : Tbl Nat} {x : Host.Cell} (h : x ∈ tableCells a n limit t) : a ≤ x.1 ∧ x.1 < a + n * limit := by
  obtain ⟨e, -, hlt, h1, h2⟩ := mem_tableCells h
  have := Nat.mul_le_mul_left n hlt
  rw [Nat.mul_succ] at this
  omega

theorem mem_freeCells {s : State} {a n : Nat} {x : Host.Cell} (h : x ∈ freeCells s a n) : a ≤ x.1 ∧ x.1 < a + n := by
  obtain ⟨i, hi, rfl⟩ := List.mem_map.1 h
  have := (mem_span ..).1 hi
  exact ⟨Nat.le_add_right .., by dsimp only; omega⟩

theorem mem_shiftCells {a n : Nat} {m : Bytes} {x : Host.Cell} (h : x ∈ shiftCells a n m) : a ≤ x.1 ∧ x.1 < a + n := by
  obtain ⟨e, he, rfl⟩ := List.mem_map.1 h
  have := of_decide_eq_true (List.mem_filter.1 he).2
  exact ⟨Nat.le_add_right .., by dsimp only; omega⟩

/-- Cells behind or before an address leave its byte. -/
theorem byteAt_setCells_append {m : Bytes} {xs ys : List Host.Cell} {a : Nat} (h : ∀ y ∈ ys, y.1 ≠ a) :
    byteAt (setCells m (xs ++ ys)) a = byteAt (setCells m xs) a := by
  rw [setCells_append, byteAt_setCells_other _ _ _ h]

theorem byteAt_setCells_numCells {m : Bytes} {a n v j : Nat} (hm : Memory.wf m = true) (h0 : byteAt m (a + j) = emptyByte) (hj : j < n) :
    byteAt (setCells m (numCells a n v)) (a + j) = BitVec.ofNat 8 (v / 256 ^ j) := by
  have hnd := keys_nodup ((cellsFrom_pairwise a (bytesOfNum n v)).filter fun e => e.2 != emptyByte)
  have hfind : tfind (cellsFrom a (bytesOfNum n v)) (a + j) = some (BitVec.ofNat 8 (v / 256 ^ j)) := tfind_cellsFrom (getElem?_bytesOfNum v hj)
  rw [numCells, byteAt_setCells hm hnd, h0]
  by_cases hb : BitVec.ofNat 8 (v / 256 ^ j) = emptyByte
  · have hnone : tfind ((cellsFrom a (bytesOfNum n v)).filter fun e => e.2 != emptyByte) (a + j) = none := by
      refine (tfind_eq_none_iff ..).2 fun e he hk => ?_
      obtain ⟨hmem, hne⟩ := List.mem_filter.1 he
      have hval := tfind_of_mem (keys_nodup (cellsFrom_pairwise a (bytesOfNum n v))) hmem
      rw [hk, hfind, hb] at hval
      simp [← Option.some.inj hval] at hne
    rw [hnone, hb]
    rfl
  · rw [tfind_of_mem hnd (List.mem_filter.2 ⟨mem_of_tfind hfind, by simpa using hb⟩)]
    rfl

/-- What a block of a table's cells holds: the bytes of its entry. -/
theorem byteAt_setCells_tableCells {m : Bytes} {a n limit r j : Nat} {t : Tbl Nat} (hm : Memory.wf m = true) (ht : (t.map Prod.fst).Nodup)
    (h0 : byteAt m (a + n * r + j) = emptyByte) (hr : r < limit) (hj : j < n) :
    byteAt (setCells m (tableCells a n limit t)) (a + n * r + j) = BitVec.ofNat 8 (tget 0 t r / 256 ^ j) := by
  have hoff : ∀ k, k ≠ r → ∀ b, a + n * k ≤ b → b < a + n * k + n → b ≠ a + n * r + j := by
    intro k hk b h1 h2 hb
    rcases Nat.lt_or_gt_of_ne hk with hlt | hlt
    · have := Nat.mul_le_mul_left n hlt
      rw [Nat.mul_succ] at this
      omega
    · have := Nat.mul_le_mul_left n hlt
      rw [Nat.mul_succ] at this
      omega
  induction t generalizing m with
  | nil => simpa [tableCells, setCells, emptyByte] using h0
  | cons e t ih =>
    obtain ⟨hnot, ht'⟩ := List.nodup_cons.1 ht
    have hcons : tableCells a n limit (e :: t) = (if e.1 < limit then numCells (a + n * e.1) n e.2 else []) ++ tableCells a n limit t := rfl
    by_cases hk : e.1 = r
    · have htail : ∀ y ∈ tableCells a n limit t, y.1 ≠ a + n * r + j := fun y hy => by
        obtain ⟨f, hf, -, h1, h2⟩ := mem_tableCells hy
        exact hoff f.1 (fun hfr => hnot (List.mem_map.2 ⟨f, hf, hfr.trans hk.symm⟩)) _ h1 h2
      rw [hcons, byteAt_setCells_append htail, hk, if_pos hr, byteAt_setCells_numCells hm h0 hj]
      simp [tget, tfind, hk]
    · have hhead : ∀ y ∈ (if e.1 < limit then numCells (a + n * e.1) n e.2 else []), y.1 ≠ a + n * r + j := fun y hy => by
        split at hy
        · exact hoff e.1 hk _ (mem_numCells hy).1 (mem_numCells hy).2
        · cases hy
      rw [hcons, setCells_append, ih (setCells_wf _ _ hm) ht' ((byteAt_setCells_other _ _ _ hhead).trans h0)]
      simp [tget, tfind, hk]

theorem numBytes_bytesOfNum_two (n v : Nat) : numBytes (bytesOfNum n v) = v % 2 ^ (8 * n) := by rw [numBytes_bytesOfNum, Nat.pow_mul]

theorem wf_pairwise {m : Bytes} (h : Memory.wf m = true) : m.Pairwise fun e f => e.1 < f.1 := by
  have hgen : ∀ (m : Bytes) (lo : Nat), canonicalAbove lo m = true → (∀ e ∈ m, lo ≤ e.1) ∧ m.Pairwise fun e f => e.1 < f.1 := by
    intro m
    induction m with
    | nil => exact fun _ _ => ⟨by simp, List.Pairwise.nil⟩
    | cons e m ih =>
      intro lo h
      simp only [canonicalAbove, Bool.and_eq_true, decide_eq_true_eq] at h
      obtain ⟨⟨hlo, -⟩, hm⟩ := h
      obtain ⟨hall, hp⟩ := ih _ hm
      refine ⟨fun f hf => ?_, List.pairwise_cons.2 ⟨hall, hp⟩⟩
      rcases List.mem_cons.1 hf with rfl | hf
      · exact hlo
      · exact Nat.le_trans hlo (Nat.le_of_succ_le (hall f hf))
  exact (hgen m 0 h).2

theorem tfind_shift {α : Type} (a : Nat) (t : Tbl α) (o : Nat) : tfind (t.map fun e => (a + e.1, e.2)) (a + o) = tfind t o := by
  induction t with
  | nil => rfl
  | cons e t ih => simp [tfind, ih]

/-- What the cells of a store hold. -/
theorem byteAt_setCells_shiftCells {m mem : Bytes} {a n o : Nat} (hm : Memory.wf m = true) (hmem : Memory.wf mem = true)
    (h0 : byteAt m (a + o) = emptyByte) : byteAt (setCells m (shiftCells a n mem)) (a + o) = if o < n then byteAt mem o else emptyByte := by
  have hp : (shiftCells a n mem).Pairwise fun e f => e.1 < f.1 :=
    List.pairwise_map.2 (((wf_pairwise hmem).filter _).imp fun h => Nat.add_lt_add_left h a)
  have hfind : tfind (shiftCells a n mem) (a + o) = if o < n then tfind mem o else none := by
    rw [shiftCells, tfind_shift, tfind_filter_key (fun k => decide (k < n))]
    simp only [decide_eq_true_eq]
  rw [byteAt_setCells hm (keys_nodup hp), hfind, h0]
  split <;> rfl

/-- The regions of an image between the vector registers and the operand memory: masks, address registers, the open rest, accumulators. -/
def imageRegs (s : State) (a : Nat) (k : Core) : List Host.Cell :=
  let xs (e : Nat) : List Host.Cell := tableCells (a + imgX e) 8 32 ((k.data.strand e).x.map fun r => (r.1, r.2.toNat))
  tableCells (a + imgK) 128 16 k.data.k ++ xs 1 ++ xs 2 ++ xs 3 ++ freeCells { s with freeCtr := s.freeCtr + imgV } (a + 0x210B00) 0x3500
    ++ tableCells (a + imgAcc) 5 65536 (accTable k.data.acc)

theorem imageCells_eq (s : State) (a : Nat) (k : Core) : imageCells s a k =
    freeCells s a imgV ++ tableCells (a + imgV) 4096 512 k.data.v ++ imageRegs s a k ++ shiftCells (a + imgOp) 0x100000 k.opmem
      ++ shiftCells (a + imgScratch) k.scratchTop k.scratch := by
  simp only [imageCells, imageRegs, List.append_assoc]

theorem imageRegs_range {s : State} {a : Nat} {k : Core} {x : Host.Cell} (h : x ∈ imageRegs s a k) : a + imgK ≤ x.1 ∧ x.1 < a + imgOp := by
  have hx : ∀ e, 1 ≤ e → e ≤ 3 → x ∈ tableCells (a + imgX e) 8 32 ((k.data.strand e).x.map fun r => (r.1, r.2.toNat)) →
      a + imgK ≤ x.1 ∧ x.1 < a + imgOp := fun e h1 h3 hx => by
    have := tableCells_range hx
    simp only [imgX, imgK, imgOp] at this ⊢
    omega
  simp only [imageRegs, List.mem_append] at h
  rcases h with ((((h | h) | h) | h) | h) | h
  · have := tableCells_range h
    simp only [imgK, imgOp] at this ⊢
    omega
  · exact hx 1 (by decide) (by decide) h
  · exact hx 2 (by decide) (by decide) h
  · exact hx 3 (by decide) (by decide) h
  · have := mem_freeCells h
    simp only [imgK, imgOp] at this ⊢
    omega
  · have := tableCells_range h
    simp only [imgAcc, imgK, imgOp] at this ⊢
    omega

section
variable {s : State} {m : Bytes} {a : Nat} {k : Core} (hm : Memory.wf m = true) (h0 : ∀ i, i < 0x764000 → byteAt m (a + i) = emptyByte)
include hm h0

theorem byteAt_image_v (hv : (k.data.v.map Prod.fst).Nodup) {r j : Nat} (hr : r < 512) (hj : j < 4096) :
    byteAt (setCells m (imageCells s a k)) (a + imgV + 4096 * r + j) = BitVec.ofNat 8 (tget 0 k.data.v r / 256 ^ j) := by
  have hlt : a + imgV + 4096 * r + j < a + imgK := by simp only [imgV, imgK]; omega
  have hfree : ∀ y ∈ freeCells s a imgV, y.1 ≠ a + imgV + 4096 * r + j := fun y hy => by have := mem_freeCells hy; omega
  have hempty : byteAt (setCells m (freeCells s a imgV)) (a + imgV + 4096 * r + j) = emptyByte := by
    rw [byteAt_setCells_other _ _ _ hfree, Nat.add_assoc, Nat.add_assoc]
    exact h0 _ (by simp only [imgV]; omega)
  rw [imageCells_eq, byteAt_setCells_append fun y hy => ?_, byteAt_setCells_append fun y hy => ?_, byteAt_setCells_append fun y hy => ?_,
    setCells_append, byteAt_setCells_tableCells (setCells_wf _ _ hm) hv hempty hr hj]
  · have := imageRegs_range hy
    omega
  · have := mem_shiftCells hy
    simp only [imgOp, imgK] at this hlt
    omega
  · have := mem_shiftCells hy
    simp only [imgScratch, imgK] at this hlt
    omega

omit hm in
/-- No cell before the operand memory's lies in a store's region. -/
theorem byteAt_image_below {o : Nat} (ho : imgOp ≤ o) (hlt : o < 0x764000) :
    byteAt (setCells m (freeCells s a imgV ++ tableCells (a + imgV) 4096 512 k.data.v ++ imageRegs s a k)) (a + o) = emptyByte := by
  rw [byteAt_setCells_other _ _ _ fun y hy => ?_, h0 o hlt]
  simp only [imgOp] at ho
  rcases List.mem_append.1 hy with hy | hy
  · rcases List.mem_append.1 hy with hy | hy
    · have := mem_freeCells hy
      simp only [imgV] at this
      omega
    · have := tableCells_range hy
      simp only [imgV] at this
      omega
  · have := imageRegs_range hy
    simp only [imgOp] at this
    omega

theorem byteAt_image_opmem (hop : Memory.wf k.opmem = true) {o : Nat} (ho : o < 0x100000) :
    byteAt (setCells m (imageCells s a k)) (a + imgOp + o) = byteAt k.opmem o := by
  have hempty := byteAt_image_below (s := s) (k := k) h0 (o := imgOp + o) (Nat.le_add_right ..) (by simp only [imgOp]; omega)
  rw [← Nat.add_assoc] at hempty
  rw [imageCells_eq, byteAt_setCells_append fun y hy => ?_, setCells_append, byteAt_setCells_shiftCells (setCells_wf _ _ hm) hop hempty, if_pos ho]
  have := mem_shiftCells hy
  simp only [imgScratch, imgOp] at this ⊢
  omega

theorem byteAt_image_scratch (hsc : Memory.wf k.scratch = true) {o : Nat} (ho : o < 0x400000) :
    byteAt (setCells m (imageCells s a k)) (a + imgScratch + o) = if o < k.scratchTop then byteAt k.scratch o else emptyByte := by
  have hbelow := byteAt_image_below (s := s) (k := k) h0 (o := imgScratch + o) (by simp only [imgOp, imgScratch]; omega)
    (by simp only [imgScratch]; omega)
  rw [← Nat.add_assoc] at hbelow
  have hempty := (byteAt_setCells_append (ys := shiftCells (a + imgOp) 0x100000 k.opmem) fun y hy => by
    have := mem_shiftCells hy
    simp only [imgScratch, imgOp] at this ⊢
    omega).trans hbelow
  rw [imageCells_eq, setCells_append, byteAt_setCells_shiftCells (setCells_wf _ _ hm) hsc hempty]

end

/-! The save (R177, R179). -/

/-- Cores that differ in their L1s only agree on what does not turn on it. -/
theorem Core.sansL1_congr {α : Type} {k k' : Core} (f : Core → α) (hf : ∀ k : Core, f k.sansL1 = f k) (h : k.sansL1 = k'.sansL1) : f k = f k' := by
  rw [← hf k, h, hf]

theorem writeKeeps_untrackRange (s : State) (ps : List (Nat × Nat)) : writeKeeps s (s.untrackRange ps) :=
  writeKeeps_foldl _ (fun s l => writeKeeps_removeTracked s l none) _ s

/-- The bytes outside an image. -/
def outsideImage (m : Bytes) (a : Nat) : Bytes := m.filter fun e => !(decide (a ≤ e.1) && decide (e.1 < a + 0x764000))

theorem byteAt_outsideImage (m : Bytes) (a : Nat) {i : Nat} (h : i < 0x764000) : byteAt (outsideImage m a) (a + i) = emptyByte := by
  have hf := tfind_filter_key (fun n => !(decide (a ≤ n) && decide (n < a + 0x764000))) m (a + i)
  rw [byteAt, tget, outsideImage, hf, if_neg (by simp [h])]
  rfl

section
variable (s : State) (a : Nat) (k : Core)

theorem State.writeImage_banks : (s.writeImage a k).banks = setCells (outsideImage s.banks a) (imageCells s a k) := by
  have h : (s.untrackRange [(a, 0x764000)]).banks = s.banks := writeKeeps_banks (writeKeeps_untrackRange ..)
  simp only [State.writeImage, outsideImage, h]

theorem State.writeImage_cores : (s.writeImage a k).cores = (s.untrackRange [(a, 0x764000)]).cores := by rw [State.writeImage]

theorem State.writeImage_core (e : Nat) : ((s.writeImage a k).core e).sansL1 = (s.core e).sansL1 := by
  have h := (writeKeeps_untrackRange s [(a, 0x764000)]).2.1 e
  rwa [State.core, ← State.writeImage_cores s a k] at h

theorem State.writeImage_disps : (s.writeImage a k).disps = s.disps := by
  have h : (s.writeImage a k).disps = (s.untrackRange [(a, 0x764000)]).disps := by rw [State.writeImage]
  rw [h, writeKeeps_disps (writeKeeps_untrackRange ..)]

theorem State.writeImage_weaves : (s.writeImage a k).weaves = s.weaves := by
  have h : (s.writeImage a k).weaves = (s.untrackRange [(a, 0x764000)]).weaves := by rw [State.writeImage]
  rw [h, writeKeeps_weaves (writeKeeps_untrackRange ..)]

end

/-- The image i of core c. -/
def State.imageOf (s : State) (c i : Nat) : Image :=
  let v := s.flushL1 c
  { slot := i, die := dieOf c, core := c, addr := (v.disp (dieOf c)).savepool.toNat + i * 2 ^ 23, state := v.core c, bars := v.coreBars c }

/-- The state in which the image of core c is written. -/
def State.imageWritten (s : State) (c i : Nat) : State := (s.flushL1 c).writeImage (s.imageOf c i).addr (s.imageOf c i).state

section
variable (s : State) (c i : Nat)

theorem State.imageWritten_banks : (s.imageWritten c i).banks =
    setCells (outsideImage s.banks (s.imageOf c i).addr) (imageCells (s.flushL1 c) (s.imageOf c i).addr (s.imageOf c i).state) := by
  rw [State.imageWritten, State.writeImage_banks, writeKeeps_banks (writeKeeps_flushL1 s c)]

theorem State.imageWritten_core (e : Nat) : ((s.imageWritten c i).core e).sansL1 = (s.core e).sansL1 :=
  (State.writeImage_core ..).trans ((writeKeeps_flushL1 s c).2.1 e)

theorem State.imageWritten_disps : (s.imageWritten c i).disps = s.disps :=
  (State.writeImage_disps ..).trans (writeKeeps_disps (writeKeeps_flushL1 s c))

theorem State.imageWritten_weaves : (s.imageWritten c i).weaves = s.weaves :=
  (State.writeImage_weaves ..).trans (writeKeeps_weaves (writeKeeps_flushL1 s c))

theorem State.imageOf_addr : (s.imageOf c i).addr = (s.disp (dieOf c)).savepool.toNat + 2 ^ 23 * i := by
  simp only [State.imageOf, State.disp, writeKeeps_disps (writeKeeps_flushL1 s c), Nat.mul_comm i]

theorem State.imageOf_state : (s.imageOf c i).state.sansL1 = (s.core c).sansL1 := (writeKeeps_flushL1 s c).2.1 c

theorem State.imageOf_l1 : (s.imageOf c i).state.l1 = [] := State.flushL1_l1 s c

end

section
variable {s : State} {w c i j : Nat} {x : Weave}

/-- The state in which the job of core c has left it, and its weave has yet to take the image. -/
def State.jobLeft (s : State) (c i : Nat) : State :=
  ((s.imageWritten c i).modDisp (dieOf c) fun x => { x with images := x.images ++ [i], dstat := countUp x.dstat 32 16 1 }).modCore c Core.vacate

theorem State.jobLeft_weaves (s : State) (c i : Nat) : (s.jobLeft c i).weaves = s.weaves := by
  rw [State.jobLeft, State.modCore_weaves, State.modDisp_weaves, State.imageWritten_weaves]

theorem State.jobLeft_banks (s : State) (c i : Nat) : (s.jobLeft c i).banks = (s.imageWritten c i).banks := by
  rw [State.jobLeft, State.modCore_banks, State.modDisp_banks]

theorem State.saveJob_eq (hj : (s.core c).job = some (w, j)) :
    s.saveJob w c i = (s.jobLeft c i).modWeave w fun x => { x with images := tput x.images j (s.imageOf c i) } := by
  have hjob : ((s.flushL1 c).core c).job = some (w, j) := by
    exact (Core.sansL1_congr Core.job (fun _ => rfl) ((writeKeeps_flushL1 s c).2.1 c)).trans hj
  simp only [State.saveJob, State.jobLeft, State.imageWritten, State.imageOf, hjob]

/-- A change of a weave leaves the cores, the dispatchers and the banks. -/
theorem State.modWeave_kept (s : State) (w : Nat) (f : Weave → Weave) :
    (s.modWeave w f).cores = s.cores ∧ (s.modWeave w f).disps = s.disps ∧ (s.modWeave w f).banks = s.banks := by
  unfold State.modWeave
  split <;> exact ⟨rfl, rfl, rfl⟩

theorem State.tfind_modWeave {s : State} {w : Nat} {x : Weave} (f : Weave → Weave) (hf : tfind s.weaves w = some x) :
    tfind (s.modWeave w f).weaves w = some (f x) := by
  rw [State.modWeave_weave _ hf]
  exact tfind_tput_same ..

theorem State.settleSave_kept (s : State) (w : Nat) :
    (s.settleSave w).cores = s.cores ∧ (s.settleSave w).disps = s.disps ∧ (s.settleSave w).banks = s.banks := State.modWeave_kept ..

theorem State.settleSave_weave {s : State} {w : Nat} {x : Weave} (hf : tfind s.weaves w = some x) (hst : x.st = .stopping) :
    ∃ y, tfind (s.settleSave w).weaves w = some y ∧ (y.st = .stopping ∨ y.st = .saved) ∧ y.images = x.images := by
  rw [State.settleSave]
  refine ⟨_, State.tfind_modWeave _ hf, ?_⟩
  split
  · exact ⟨Or.inr rfl, rfl⟩
  · exact ⟨Or.inl hst, rfl⟩

/-- Something keeps the job on core c from its save. -/
def State.saveWaits (s : State) (w c : Nat) (x : Weave) : Prop :=
  s.isFrozen c = true ∨ s.allStopped x = false ∨ s.weaveHalted w = true ∨ s.walksEnding c = true ∨ (s.core c).accs ≠ []

section
variable (hf : tfind s.weaves w = some x) (hid : x.id = w) (hj : (s.core c).job = some (w, j)) (hst : x.st = .stopping) (ht : x.torn = false)
include hf hid hj hst ht

omit hst ht in
theorem exec_jobSaveComplete_waits (h : s.saveWaits w c x ∨ s.nextImage (dieOf c) = none) : exec (.jobSaveComplete c) s = .next s := by
  have hw : s.weaveOf c = some x := by simp only [State.weaveOf, hj, hf]
  subst hid
  rw [exec_jobSaveComplete, execJobSaveComplete, hw]
  rcases h with h | h
  · rcases h with h | h | h | h | h <;> simp [h]
  · simp only [h]
    split <;> rfl

theorem exec_jobSaveComplete_saves (h : ¬ s.saveWaits w c x) (hi : s.nextImage (dieOf c) = some i) :
    exec (.jobSaveComplete c) s = .next ((s.saveJob w c i).settleSave w) := by
  have hw : s.weaveOf c = some x := by simp only [State.weaveOf, hj, hf]
  subst hid
  simp only [State.saveWaits, not_or, Bool.not_eq_true, Bool.not_eq_false, not_not] at h
  obtain ⟨h1, h2, h3, h4, h5⟩ := h
  simp [execJobSaveComplete, hw, hst, ht, h1, h2, h3, h4, h5, hi]

end

/-- Core c's job has left it for the image i, of which img is what its weave keeps. -/
def jobSaved (s : State) (w c j i : Nat) (u : State) : Prop :=
  (u.core c).job = none ∧ (u.core c).tasks = [] ∧ (u.disp (dieOf c)).images = (s.disp (dieOf c)).images ++ [i] ∧
  (∀ e, e ≠ c → (u.core e).tasks = (s.core e).tasks ∧ (u.core e).job = (s.core e).job) ∧
  ∃ y, tfind u.weaves w = some y ∧ (y.st = .stopping ∨ y.st = .saved) ∧ tfind y.images j = some (s.imageOf c i) ∧ u.banks = (s.imageWritten c i).banks

theorem State.jobLeft_core (s : State) (c i : Nat) : (s.jobLeft c i).core c = ((s.imageWritten c i).core c).vacate := by
  rw [State.jobLeft, State.modCore_core_same, State.core, State.modDisp_cores, State.core]

theorem State.jobLeft_core_other (s : State) {c e : Nat} (i : Nat) (he : e ≠ c) : ((s.jobLeft c i).core e).sansL1 = (s.core e).sansL1 := by
  rw [State.jobLeft, State.modCore_core_other _ _ _ _ he, ← s.imageWritten_core c i e, State.core, State.modDisp_cores, State.core]

theorem State.jobLeft_images (s : State) (c i : Nat) : ((s.jobLeft c i).disp (dieOf c)).images = (s.disp (dieOf c)).images ++ [i] := by
  have hd : (s.imageWritten c i).disp (dieOf c) = s.disp (dieOf c) := by rw [State.disp, State.imageWritten_disps, State.disp]
  rw [State.jobLeft, State.disp, State.modCore_disps, ← State.disp, State.disp_modDisp_same, hd]

theorem State.saveJob_saved (hf : tfind s.weaves w = some x) (hst : x.st = .stopping) (hj : (s.core c).job = some (w, j)) :
    jobSaved s w c j i ((s.saveJob w c i).settleSave w) := by
  obtain ⟨hc1, hd1, hb1⟩ := State.settleSave_kept (s.saveJob w c i) w
  rw [State.saveJob_eq hj] at *
  obtain ⟨hc2, hd2, hb2⟩ := State.modWeave_kept (s.jobLeft c i) w fun x => { x with images := tput x.images j (s.imageOf c i) }
  have hw := State.tfind_modWeave (fun x => { x with images := tput x.images j (s.imageOf c i) }) ((s.jobLeft_weaves c i).symm ▸ hf)
  obtain ⟨y, hy, hyst, hyi⟩ := State.settleSave_weave hw hst
  have hcore : ∀ e, (((s.jobLeft c i).modWeave w fun x => { x with images := tput x.images j (s.imageOf c i) }).settleSave w).core e =
      (s.jobLeft c i).core e := fun e => by rw [State.core, hc1, hc2, State.core]
  have hdisp : (((s.jobLeft c i).modWeave w fun x => { x with images := tput x.images j (s.imageOf c i) }).settleSave w).disp (dieOf c) =
      (s.jobLeft c i).disp (dieOf c) := by rw [State.disp, hd1, hd2, State.disp]
  refine ⟨?_, ?_, ?_, fun e he => ?_, y, hy, hyst, ?_, (hb1.trans hb2).trans (s.jobLeft_banks c i)⟩
  · rw [hcore, State.jobLeft_core]
    rfl
  · rw [hcore, State.jobLeft_core]
    rfl
  · rw [hdisp, State.jobLeft_images]
  · have h := s.jobLeft_core_other i he
    rw [← hcore e] at h
    exact ⟨Core.sansL1_congr Core.tasks (fun _ => rfl) h, Core.sansL1_congr Core.job (fun _ => rfl) h⟩
  · rw [hyi]
    exact tfind_tput_same ..

/-- What memory holds of the image img of core k (R179). -/
def imageHeld (m : Bytes) (k : Core) (img : Image) : Prop :=
  (k.data.v.Pairwise (fun e f => e.1 < f.1) → ∀ r, r < 512 → numBytes (bytesAt m (img.addr + 0x10000 + 4096 * r) 4096) = tget 0 k.data.v r % 2 ^ 32768) ∧
  (Memory.wf k.opmem = true → ∀ o, o < 0x100000 → byteAt m (img.addr + 0x264000 + o) = byteAt k.opmem o) ∧
  (Memory.wf k.scratch = true → ∀ o, o < 0x400000 → byteAt m (img.addr + 0x364000 + o) = if o < k.scratchTop then byteAt k.scratch o else 0#8)

theorem State.imageOf_held (hok : memoryOk s) : imageHeld (s.imageWritten c i).banks (s.core c) (s.imageOf c i) := by
  set k := s.core c
  set img := s.imageOf c i
  set m := (s.imageWritten c i).banks
  have hm : m = setCells (outsideImage s.banks img.addr) (imageCells (s.flushL1 c) img.addr img.state) := s.imageWritten_banks c i
  have hwf : Memory.wf (outsideImage s.banks img.addr) = true := filter_wf _ _ hok.1
  have h0 : ∀ n, n < 0x764000 → byteAt (outsideImage s.banks img.addr) (img.addr + n) = emptyByte := fun n hn => byteAt_outsideImage _ _ hn
  have hstate := s.imageOf_state c i
  have hv : img.state.data.v = k.data.v := Core.sansL1_congr (fun k : Core => k.data.v) (fun _ => rfl) hstate
  have hop : img.state.opmem = k.opmem := Core.sansL1_congr Core.opmem (fun _ => rfl) hstate
  have hsc : img.state.scratch = k.scratch := Core.sansL1_congr Core.scratch (fun _ => rfl) hstate
  have htop : img.state.scratchTop = k.scratchTop := Core.sansL1_congr Core.scratchTop (fun _ => rfl) hstate
  rw [hm]
  refine ⟨fun hp r hr => ?_, fun hw o ho => ?_, fun hw o ho => ?_⟩
  · have hbytes : bytesAt (setCells (outsideImage s.banks img.addr) (imageCells (s.flushL1 c) img.addr img.state)) (img.addr + imgV + 4096 * r) 4096 =
        bytesOfNum 4096 (tget 0 img.state.data.v r) :=
      bytesAt_eq_bytesOfNum fun j hj => byteAt_image_v hwf h0 (keys_nodup (hv ▸ hp)) hr hj
    rw [← hv]
    exact ((congrArg numBytes hbytes).trans (numBytes_bytesOfNum_two 4096 _)).trans (congrArg (tget 0 img.state.data.v r % 2 ^ ·) (show 8 * 4096 = 32768 from rfl))
  · rw [← hop]
    exact byteAt_image_opmem hwf h0 (hop ▸ hw) ho
  · rw [← hsc, ← htop]
    exact byteAt_image_scratch hwf h0 (hsc ▸ hw) ho

/-- Job j of weave w has left core c, and is saved in image i of its die (R177, R179). -/
def jobInImage (s : State) (w c j i : Nat) (u : State) : Prop :=
  (u.core c).job = none ∧ (u.core c).tasks = [] ∧ (u.disp (dieOf c)).images = (s.disp (dieOf c)).images ++ [i] ∧
  (∀ e, e ≠ c → (u.core e).tasks = (s.core e).tasks ∧ (u.core e).job = (s.core e).job) ∧
  ∃ y img, tfind u.weaves w = some y ∧ (y.st = .stopping ∨ y.st = .saved) ∧ tfind y.images j = some img ∧ img.slot = i ∧ img.core = c ∧
    img.state.tasks = (s.core c).tasks ∧ img.state.data.v = (s.core c).data.v ∧ img.state.events = (s.core c).events ∧
    img.state.data.timed = (s.core c).data.timed ∧ (∀ e ∈ img.state.l1, e.2.dirty = 0) ∧
    img.addr = (s.disp (dieOf c)).savepool.toNat + 2 ^ 23 * i ∧ (memoryOk s → imageHeld u.banks (s.core c) img)

theorem State.saveJob_inImage (hf : tfind s.weaves w = some x) (hst : x.st = .stopping) (hj : (s.core c).job = some (w, j)) :
    jobInImage s w c j i ((s.saveJob w c i).settleSave w) := by
  obtain ⟨hjob, htasks, himages, hothers, y, hy, hyst, himg, hbanks⟩ := State.saveJob_saved (i := i) hf hst hj
  have hstate := s.imageOf_state c i
  refine ⟨hjob, htasks, himages, hothers, y, _, hy, hyst, himg, rfl, rfl, Core.sansL1_congr Core.tasks (fun _ => rfl) hstate,
    Core.sansL1_congr (fun k => k.data.v) (fun _ => rfl) hstate, Core.sansL1_congr Core.events (fun _ => rfl) hstate,
    Core.sansL1_congr (fun k => k.data.timed) (fun _ => rfl) hstate, by simp [State.imageOf_l1], s.imageOf_addr c i, fun hok => ?_⟩
  rw [hbanks]
  exact State.imageOf_held hok

end

end Sys2Proof.Machine
end

section
/-! SUPPORT. What an image gives back: the cells of a range of memory, and the tables and stores made of them (R179, R181). -/

namespace Sys2Proof.Machine

open Sys2Proof

/-! Tables made of cells. -/

theorem tget_cons (e : Host.Cell) (xs : List Host.Cell) (n : Nat) : tget emptyByte (e :: xs) n = if e.1 = n then e.2 else tget emptyByte xs n := by
  simp only [tget, tfind]
  split <;> rfl

/-- What one cell adds to entry r of a table of entries of n bytes from address a up. -/
def cellShare (a n r : Nat) (x : Host.Cell) : Nat := if (x.1 - a) / n = r then x.2.toNat * 256 ^ ((x.1 - a) % n) else 0

theorem tget_cellsTable (a n r : Nat) (xs : List Host.Cell) : tget 0 (cellsTable a n xs) r = (xs.map (cellShare a n r)).sum := by
  have hgen : ∀ t : Tbl Nat, tget 0 (xs.foldl (fun t x => tmod 0 t ((x.1 - a) / n) fun v => v + x.2.toNat * 256 ^ ((x.1 - a) % n)) t) r =
      tget 0 t r + (xs.map (cellShare a n r)).sum := by
    induction xs with
    | nil => simp
    | cons x xs ih =>
      intro t
      rw [List.foldl_cons, ih, List.map_cons, List.sum_cons, ← Nat.add_assoc]
      congr 1
      by_cases hr : (x.1 - a) / n = r
      · rw [hr, tget_tmod_same, cellShare, if_pos hr]
      · rw [tget_tmod_other _ _ _ _ _ (Ne.symm hr), cellShare, if_neg hr, Nat.add_zero]
  simpa [cellsTable] using hgen []

theorem sum_cellShare {a n : Nat} (hn : 0 < n) (r : Nat) {xs : List Host.Cell} (hnd : (xs.map Prod.fst).Nodup) (ha : ∀ x ∈ xs, a ≤ x.1) :
    (xs.map (cellShare a n r)).sum = ∑ i ∈ Finset.range n, (tget emptyByte xs (a + n * r + i)).toNat * 256 ^ i := by
  induction xs with
  | nil => simp [emptyByte]
  | cons x xs ih =>
    obtain ⟨hnot, hnd'⟩ := List.nodup_cons.1 hnd
    have hx : a ≤ x.1 := ha x (List.mem_cons_self ..)
    have hnone : tget emptyByte xs x.1 = emptyByte := by
      rw [tget, (tfind_eq_none_iff ..).2 fun e he h => hnot (List.mem_map.2 ⟨e, he, h⟩)]
      rfl
    have hkey : ∀ i, i < n → (x.1 = a + n * r + i ↔ (x.1 - a) / n = r ∧ i = (x.1 - a) % n) := by
      intro i hi
      have hdiv := Nat.div_add_mod (x.1 - a) n
      constructor
      · intro h
        have he : x.1 - a = i + n * r := by omega
        rw [he, Nat.add_mul_div_left _ _ hn, Nat.div_eq_of_lt hi, Nat.zero_add, Nat.add_mul_mod_self_left, Nat.mod_eq_of_lt hi]
        exact ⟨rfl, rfl⟩
      · rintro ⟨h1, h2⟩
        rw [h1, ← h2] at hdiv
        omega
    have hterm : ∀ i ∈ Finset.range n, (tget emptyByte (x :: xs) (a + n * r + i)).toNat * 256 ^ i =
        (if i = (x.1 - a) % n then cellShare a n r x else 0) + (tget emptyByte xs (a + n * r + i)).toNat * 256 ^ i := by
      intro i hi
      have hk := hkey i (Finset.mem_range.1 hi)
      rw [tget_cons, cellShare]
      by_cases hr : (x.1 - a) / n = r
      · by_cases hm : i = (x.1 - a) % n
        · have he := hk.2 ⟨hr, hm⟩
          rw [if_pos he, if_pos hm, if_pos hr, ← he, hnone, ← hm]
          simp [emptyByte]
        · rw [if_neg (fun h => hm (hk.1 h).2), if_neg hm, Nat.zero_add]
      · rw [if_neg (fun h => hr (hk.1 h).1), if_neg hr, ite_self, Nat.zero_add]
    rw [List.map_cons, List.sum_cons, ih hnd' fun y hy => ha y (List.mem_cons_of_mem _ hy), Finset.sum_congr rfl hterm, Finset.sum_add_distrib,
      Finset.sum_ite_eq' (Finset.range n), if_pos (Finset.mem_range.2 (Nat.mod_lt _ hn))]

theorem tfind_unshift {α : Type} {a : Nat} {t : Tbl α} (h : ∀ e ∈ t, a ≤ e.1) (o : Nat) : tfind (t.map fun e => (e.1 - a, e.2)) o = tfind t (a + o) := by
  induction t with
  | nil => rfl
  | cons e t ih =>
    have he := h e (List.mem_cons_self ..)
    have hiff : e.1 - a = o ↔ e.1 = a + o := by omega
    simp only [List.map_cons, tfind, hiff, ih fun f hf => h f (List.mem_cons_of_mem _ hf)]

theorem byteAt_store {a : Nat} {xs : List Host.Cell} (hnd : (xs.map Prod.fst).Nodup) (ha : ∀ x ∈ xs, a ≤ x.1) (o : Nat) :
    byteAt (setCells [] (xs.map fun x => (x.1 - a, x.2))) o = tget emptyByte xs (a + o) := by
  have hkeys : ((xs.map fun x => (x.1 - a, x.2)).map Prod.fst).Nodup := by
    rw [List.map_map]
    refine (List.nodup_map_iff_inj_on (List.Nodup.of_map _ hnd)).2 fun x hx y hy h => ?_
    have hxy : x.1 = y.1 := by
      have h1 := ha x hx
      have h2 := ha y hy
      have h3 : x.1 - a = y.1 - a := h
      omega
    exact List.inj_on_of_nodup_map hnd hx hy hxy
  rw [byteAt_setCells rfl hkeys, tfind_unshift ha]
  rfl

/-! A range of memory. -/

/-- The bytes other than 0 of the homes' sectors. -/
def sectorCells (hs : Tbl HomeSec) : List Host.Cell := hs.flatMap fun e => (cellsFrom (32 * e.1) e.2.bytes).filter fun x => x.2 != emptyByte

section
variable {hs : Tbl HomeSec} (hsort : hs.Pairwise fun e f => e.1 < f.1) (hlen : ∀ e ∈ hs, e.2.bytes.length = 32)

theorem mem_sectorCells {x : Host.Cell} (hlen : ∀ e ∈ hs, e.2.bytes.length = 32) (h : x ∈ sectorCells hs) : ∃ e ∈ hs, x.1 / 32 = e.1 ∧ x ∈ cellsFrom (32 * e.1) e.2.bytes := by
  obtain ⟨e, he, hx⟩ := List.mem_flatMap.1 h
  have hmem := (List.mem_filter.1 hx).1
  have hr := mem_cellsFrom hmem
  rw [hlen e he] at hr
  exact ⟨e, he, by omega, hmem⟩

include hsort hlen

theorem sectorCells_pairwise : (sectorCells hs).Pairwise fun e f => e.1 < f.1 := by
  refine List.pairwise_flatMap.2 ⟨fun e _ => (cellsFrom_pairwise ..).filter _, ?_⟩
  refine hsort.imp_of_mem fun {e f} he hf hlt x hx y hy => ?_
  have h1 := mem_cellsFrom (List.mem_filter.1 hx).1
  have h2 := mem_cellsFrom (List.mem_filter.1 hy).1
  rw [hlen e he] at h1
  omega

theorem tget_sectorCells (x : Nat) : tget emptyByte (sectorCells hs) x =
    match tfind hs (x / 32) with
    | some h => h.bytes.getD (x % 32) emptyByte
    | none => emptyByte := by
  have hnd := keys_nodup (sectorCells_pairwise hsort hlen)
  cases hf : tfind hs (x / 32) with
  | none =>
    have hnone : tfind (sectorCells hs) x = none := (tfind_eq_none_iff ..).2 fun c hc hcx => by
      obtain ⟨e, he, hk, -⟩ := mem_sectorCells hlen hc
      exact (tfind_eq_none_iff ..).1 hf e he (by rw [← hk, hcx])
    rw [tget, hnone]
    rfl
  | some h =>
    have hmem := mem_of_tfind hf
    have hlt : x % 32 < h.bytes.length := by
      have := hlen _ hmem
      dsimp only at this
      omega
    have hx : 32 * (x / 32) + x % 32 = x := by omega
    have hcell : tfind (cellsFrom (32 * (x / 32)) h.bytes) x = some (h.bytes.getD (x % 32) emptyByte) := by
      have := tfind_cellsFrom (a := 32 * (x / 32)) (List.getElem?_eq_getElem hlt)
      rw [hx] at this
      rw [this, List.getD_eq_getElem _ _ hlt]
    have hcellmem := mem_of_tfind hcell
    by_cases hb : h.bytes.getD (x % 32) emptyByte = emptyByte
    · have hnone : tfind (sectorCells hs) x = none := (tfind_eq_none_iff ..).2 fun c hc hcx => by
        obtain ⟨e, he, hm⟩ := List.mem_flatMap.1 hc
        obtain ⟨hm, hne⟩ := List.mem_filter.1 hm
        have hr := mem_cellsFrom hm
        rw [hlen e he] at hr
        have hek : e.1 = x / 32 := by omega
        have heh : e.2 = h := by
          have := tfind_of_mem (keys_nodup hsort) (n := e.1) (v := e.2) he
          rw [hek, hf] at this
          exact (Option.some.inj this).symm
        rw [hek, heh] at hm
        have hval := tfind_of_mem (keys_nodup (cellsFrom_pairwise ..)) (n := c.1) (v := c.2) hm
        rw [hcx, hcell, hb] at hval
        simp [← Option.some.inj hval] at hne
      rw [tget, hnone]
      exact hb.symm
    · have hin : (x, h.bytes.getD (x % 32) emptyByte) ∈ sectorCells hs :=
        List.mem_flatMap.2 ⟨_, hmem, List.mem_filter.2 ⟨hcellmem, by simpa using hb⟩⟩
      rw [tget, tfind_of_mem hnd hin]
      rfl

end

section
variable {s : State} (hok : memoryOk s) {a n : Nat} (ha : a % 32 = 0) (hn : n % 32 = 0)

/-- The sectors of a range that the homes hold. -/
def State.rangeSectors (s : State) (a n : Nat) : Tbl HomeSec := s.homes.filter fun e => decide (a ≤ 32 * e.1) && decide (32 * e.1 < a + n)

/-- The bytes of a range that only the banks hold. -/
def State.rangeBanks (s : State) (a n : Nat) : Bytes :=
  s.banks.filter fun e => decide (a ≤ e.1) && decide (e.1 < a + n) && (tfind s.homes (e.1 / 32)).isNone

theorem State.rangeCells_eq (s : State) (a n : Nat) : s.rangeCells a n = s.rangeBanks a n ++ sectorCells (s.rangeSectors a n) := rfl

include hok

theorem State.rangeSectors_ok : (s.rangeSectors a n).Pairwise (fun e f => e.1 < f.1) ∧ ∀ e ∈ s.rangeSectors a n, e.2.bytes.length = 32 := by
  obtain ⟨-, hsort, hlen⟩ := hok
  exact ⟨hsort.filter _, fun e he => hlen e (List.mem_filter.1 he).1⟩

theorem State.rangeCells_nodup : ((s.rangeCells a n).map Prod.fst).Nodup := by
  obtain ⟨hsort, hlen⟩ := State.rangeSectors_ok (a := a) (n := n) hok
  rw [State.rangeCells_eq, List.map_append]
  refine List.Nodup.append (keys_nodup ((wf_pairwise hok.1).filter _)) (keys_nodup (sectorCells_pairwise hsort hlen)) ?_
  intro k h1 h2
  obtain ⟨c, hc, rfl⟩ := List.mem_map.1 h1
  obtain ⟨d, hd, hdk⟩ := List.mem_map.1 h2
  obtain ⟨e, he, hk, -⟩ := mem_sectorCells hlen hd
  have hnone := (Bool.and_eq_true_iff.1 (List.mem_filter.1 hc).2).2
  rw [Option.isNone_iff_eq_none, tfind_eq_none_iff] at hnone
  exact hnone e (List.mem_filter.1 he).1 (by rw [← hk, hdk])

include ha

theorem State.rangeCells_from {x : Host.Cell} (hx : x ∈ s.rangeCells a n) : a ≤ x.1 := by
  rw [State.rangeCells_eq] at hx
  rcases List.mem_append.1 hx with hx | hx
  · have := (List.mem_filter.1 hx).2
    simp only [Bool.and_eq_true, decide_eq_true_eq] at this
    exact this.1.1
  · obtain ⟨e, he, hk, -⟩ := mem_sectorCells (State.rangeSectors_ok hok).2 hx
    have := (List.mem_filter.1 he).2
    simp only [Bool.and_eq_true, decide_eq_true_eq] at this
    omega

include hn

/-- The cells of a range hold what the homes read there. -/
theorem State.tget_rangeCells {x : Nat} (h1 : a ≤ x) (h2 : x < a + n) : tget emptyByte (s.rangeCells a n) x = s.homeByte x := by
  obtain ⟨hsort, hlen⟩ := State.rangeSectors_ok (a := a) (n := n) hok
  have hin : a ≤ 32 * (x / 32) ∧ 32 * (x / 32) < a + n := by omega
  have hsec := tget_sectorCells hsort hlen x
  have hfs : tfind (s.rangeSectors a n) (x / 32) = tfind s.homes (x / 32) := by
    have := tfind_filter_key (fun k => decide (a ≤ 32 * k) && decide (32 * k < a + n)) s.homes (x / 32)
    rw [State.rangeSectors, this, if_pos (by simp [hin.1, hin.2])]
  have hfb : tfind (s.rangeBanks a n) x = if (tfind s.homes (x / 32)).isNone then tfind s.banks x else none := by
    have := tfind_filter_key (fun k => decide (a ≤ k) && decide (k < a + n) && (tfind s.homes (k / 32)).isNone) s.banks x
    rw [State.rangeBanks, this]
    simp only [h1, h2, decide_true, Bool.true_and]
  rw [hfs] at hsec
  rw [State.rangeCells_eq, tget, tfind_append, hfb]
  cases hh : tfind s.homes (x / 32) with
  | none =>
    rw [hh] at hsec
    have hsec' : (tfind (sectorCells (s.rangeSectors a n)) x).getD emptyByte = emptyByte := hsec
    simp only [State.homeByte, hh, Option.isNone_none, if_true, byteAt, tget]
    cases tfind s.banks x with
    | none => simpa using hsec'
    | some b => rfl
  | some h =>
    rw [hh] at hsec
    simp only [State.homeByte, hh, Option.isNone_some, Bool.false_eq_true, if_false]
    exact hsec

/-- A store out of a range of memory. -/
theorem State.byteAt_rangeStore {o : Nat} (ho : o < n) :
    byteAt (setCells [] ((s.rangeCells a n).map fun x => (x.1 - a, x.2))) o = s.homeByte (a + o) := by
  rw [byteAt_store (State.rangeCells_nodup hok) (fun x hx => State.rangeCells_from hok ha hx), State.tget_rangeCells hok ha hn (Nat.le_add_right ..)
    (Nat.add_lt_add_left ho a)]

/-- A table out of a range of memory. -/
theorem State.tget_rangeTable {k r : Nat} (hk : 0 < k) (hr : k * r + k ≤ n) :
    tget 0 (cellsTable a k (s.rangeCells a n)) r = numBytes (s.homeBytes (a + k * r) k) := by
  rw [tget_cellsTable, sum_cellShare hk r (State.rangeCells_nodup hok) fun x hx => State.rangeCells_from hok ha hx, State.numBytes_homeBytes]
  refine Finset.sum_congr rfl fun i hi => ?_
  have := Finset.mem_range.1 hi
  rw [State.tget_rangeCells hok ha hn (by omega) (by omega)]

end

end Sys2Proof.Machine
end

section
/-! SUPPORT. The signals that the waiting tasks of a resumed job take (R42, R180, R181). -/

namespace Sys2Proof.Machine

open Sys2Proof

/-- A task is parked for a signal of a slot. -/
def Task.awaitsEvent (x : Task) (n : Nat) : Prop := x.st = .parked ∧ ∃ wt, x.wait = some wt ∧ wt.what = .event n

/-- The earlier of the waiter found so far and an entry that waits for slot n (R42). -/
def eventPick (n : Nat) (b : Option (Nat × Nat)) (e : Nat × Task) : Option (Nat × Nat) :=
  match e.2.wait with
  | some w =>
    if e.2.st == .parked && w.what == .event n then
      match b with
      | some (m, _) => if w.since < m then some (w.since, e.1) else b
      | none => some (w.since, e.1)
    else b
  | none => b

theorem Core.eventWaiter_eq (k : Core) (n : Nat) : k.eventWaiter n = (k.tasks.foldl (eventPick n) none).map Prod.snd := by
  have h : k.eventWaiter n = match k.tasks.foldl (eventPick n) none with
    | some (_, t) => some t
    | none => none := rfl
  rw [h]
  cases k.tasks.foldl (eventPick n) none <;> rfl

theorem eventPick_skip {n : Nat} {e : Nat × Task} (h : ¬ e.2.awaitsEvent n) (b : Option (Nat × Nat)) : eventPick n b e = b := by
  unfold eventPick
  split
  next w hw =>
    refine if_neg fun hc => h ?_
    rw [Bool.and_eq_true, beq_iff_eq, beq_iff_eq] at hc
    exact ⟨hc.1, w, hw, hc.2⟩
  next => rfl

theorem eventPick_cases {n m t : Nat} {b : Option (Nat × Nat)} {e : Nat × Task} (h : eventPick n b e = some (m, t)) :
    b = some (m, t) ∨ (e.1 = t ∧ e.2.awaitsEvent n) := by
  by_cases hw : e.2.awaitsEvent n
  · unfold eventPick at h
    split at h
    next w _ =>
      split at h
      next =>
        split at h
        next =>
          split at h
          · exact Or.inr ⟨congrArg Prod.snd (Option.some.inj h), hw⟩
          · exact Or.inl h
        next => exact Or.inr ⟨congrArg Prod.snd (Option.some.inj h), hw⟩
      next => exact Or.inl h
    next => exact Or.inl h
  · rw [eventPick_skip hw] at h
    exact Or.inl h

theorem foldl_eventPick_mem {n m t : Nat} {b : Option (Nat × Nat)} {l : Tbl Task} (h : l.foldl (eventPick n) b = some (m, t)) :
    b = some (m, t) ∨ ∃ x, (t, x) ∈ l ∧ x.awaitsEvent n := by
  induction l generalizing b with
  | nil => exact Or.inl h
  | cons e l ih =>
    rcases ih h with hb | ⟨x, hx, hw⟩
    · rcases eventPick_cases hb with hb | ⟨rfl, hw⟩
      · exact Or.inl hb
      · exact Or.inr ⟨e.2, List.mem_cons_self .., hw⟩
    · exact Or.inr ⟨x, List.mem_cons_of_mem _ hx, hw⟩

/-- The waiter of a slot is a task that waits for it. -/
theorem Core.eventWaiter_waits {k : Core} {n t : Nat} (hsort : k.tasks.Pairwise fun e f => e.1 < f.1) (h : k.eventWaiter n = some t) :
    tfind k.tasks t = some (k.task t) ∧ (k.task t).awaitsEvent n := by
  rw [Core.eventWaiter_eq] at h
  obtain ⟨⟨m, t'⟩, hf, rfl⟩ := Option.map_eq_some_iff.1 h
  rcases foldl_eventPick_mem hf with hb | ⟨x, hx, hw⟩
  · cases hb
  · have hfind := tfind_of_mem (keys_nodup hsort) hx
    have htask : k.task t' = x := by simp only [Core.task, tget, hfind, Option.getD_some]
    exact ⟨by rw [htask]; exact hfind, by rw [htask]; exact hw⟩

/-- A change of a task that does not wait for slot n, before or after, leaves the choice of its waiter. -/
theorem foldl_eventPick_tput {n t : Nat} {x v : Task} {l : Tbl Task} (hsort : l.Pairwise fun e f => e.1 < f.1) (hx : tfind l t = some x)
    (hnx : ¬ x.awaitsEvent n) (hnv : ¬ v.awaitsEvent n) (b : Option (Nat × Nat)) :
    (tput l t v).foldl (eventPick n) b = l.foldl (eventPick n) b := by
  induction l generalizing b with
  | nil => cases hx
  | cons e l ih =>
    obtain ⟨he, hl⟩ := List.pairwise_cons.1 hsort
    by_cases heq : e.1 = t
    · have hex : e.2 = x := by simpa [tfind, heq] using hx
      rw [tput, if_neg (by omega), if_pos heq.symm, List.foldl_cons, List.foldl_cons, eventPick_skip hnv, eventPick_skip (hex ▸ hnx)]
    · have hx' : tfind l t = some x := by simpa [tfind, heq] using hx
      have hlt : e.1 < t := he _ (mem_of_tfind hx')
      rw [tput, if_neg (by omega), if_neg (by omega), List.foldl_cons, List.foldl_cons, ih hl hx']

/-! A task that takes a signal. -/

/-- Task t takes a signal of slot n. -/
def Core.taken (k : Core) (n t : Nat) : Core := (k.takeSignal n).setTask t (k.task t).wake

theorem Task.wake_ready {x : Task} (h : x.st = .ready ∨ x.wait ≠ none) : x.wake.st = .ready := by
  unfold Task.wake
  split
  · rfl
  next hw => exact h.resolve_right fun hne => hne hw

theorem Core.taken_task (k : Core) (n t u : Nat) : (k.taken n t).task u = if u = t then (k.task t).wake else k.task u := tget_tput ..

theorem Core.taken_sorted {k : Core} (n t : Nat) (h : k.tasks.Pairwise fun e f => e.1 < f.1) : (k.taken n t).tasks.Pairwise fun e f => e.1 < f.1 :=
  tput_pairwise _ _ h

/-- A task that takes a signal of another slot leaves slot n and its waiter. -/
theorem Core.taken_other {k : Core} {n m t : Nat} (hsort : k.tasks.Pairwise fun e f => e.1 < f.1) (hm : m ≠ n) (ht : k.eventWaiter m = some t) :
    (k.taken m t).eventWaiter n = k.eventWaiter n ∧ (tget {} (k.taken m t).events n : EvSlot) = tget {} k.events n := by
  obtain ⟨hfind, hpark, wt, hwt, hwhat⟩ := Core.eventWaiter_waits hsort ht
  have hne : ¬ (k.task t).awaitsEvent n := by
    rintro ⟨-, wt', hwt', hwhat'⟩
    rw [hwt] at hwt'
    rw [← Option.some.inj hwt', hwhat] at hwhat'
    exact hm (by simpa using hwhat')
  have hwake : ¬ (k.task t).wake.awaitsEvent n := by
    rintro ⟨hp, -⟩
    rw [Task.wake_ready (Or.inr (by simp [hwt]))] at hp
    cases hp
  refine ⟨?_, tget_tmod_other _ _ _ _ _ (Ne.symm hm)⟩
  rw [Core.eventWaiter_eq, Core.eventWaiter_eq]
  exact congrArg (Option.map Prod.snd) (foldl_eventPick_tput hsort hfind hne hwake none)

/-- What every taking of a signal keeps, a slot's drain keeps. -/
theorem Core.drainSlot_keeps {P : Core → Prop} {m : Nat} (h : ∀ k t, k.eventWaiter m = some t → P k → P (k.taken m t)) (n : Nat) {k : Core} (hk : P k) :
    P (k.drainSlot m n) := by
  induction n generalizing k with
  | zero => exact hk
  | succ n ih =>
    rw [Core.drainSlot]
    split
    next t ht =>
      split
      · exact hk
      · exact ih (h k t ht hk)
    next => exact hk

/-- Task t is ready. -/
def Core.readyTask (t : Nat) (k : Core) : Prop := (k.task t).st = .ready

theorem Core.taken_ready {k : Core} {m u t : Nat} (h : k.readyTask t) : (k.taken m u).readyTask t := by
  unfold Core.readyTask at h ⊢
  rw [Core.taken_task]
  split
  next hu => exact Task.wake_ready (Or.inl (hu ▸ h))
  next => exact h

/-- Task t is the one that takes a signal of slot n, which has some. -/
def Core.takesNext (n t : Nat) (k : Core) : Prop :=
  (k.tasks.Pairwise fun e f => e.1 < f.1) ∧ k.eventWaiter n = some t ∧ 0 < (tget {} k.events n : EvSlot).count

theorem Core.drainSlot_takesNext {k : Core} {m n t : Nat} (hm : m ≠ n) (h : k.takesNext n t) : (k.drainSlot m 8).takesNext n t := by
  refine Core.drainSlot_keeps (fun k u hu hk => ?_) 8 h
  obtain ⟨hsort, hw, hc⟩ := hk
  obtain ⟨hw', hc'⟩ := Core.taken_other hsort hm hu
  exact ⟨Core.taken_sorted m u hsort, hw'.trans hw, hc'.symm ▸ hc⟩

/-- The first task that waits for a slot with a signal goes on. -/
theorem Core.drainSlot_readyTask {k : Core} {n t : Nat} (h : k.takesNext n t) : (k.drainSlot n 8).readyTask t := by
  obtain ⟨hsort, hw, hc⟩ := h
  obtain ⟨-, -, wt, hwt, -⟩ := Core.eventWaiter_waits hsort hw
  have hstep : k.drainSlot n 8 = (k.taken n t).drainSlot n 7 := by
    rw [Core.drainSlot, hw]
    exact if_neg (Nat.ne_of_gt hc)
  rw [hstep]
  refine Core.drainSlot_keeps (fun _ _ _ hk => Core.taken_ready hk) 7 ?_
  rw [Core.readyTask, Core.taken_task, if_pos rfl]
  exact Task.wake_ready (Or.inr (by simp [hwt]))

theorem foldl_drainSlot_keeps {P : Core → Prop} (h : ∀ k m t, k.eventWaiter m = some t → P k → P (k.taken m t)) (l : List Nat) {k : Core} (hk : P k) :
    P (l.foldl (fun k n => k.drainSlot n 8) k) := by
  induction l generalizing k with
  | nil => exact hk
  | cons m l ih => exact ih (Core.drainSlot_keeps (h := fun k t => h k m t) 8 hk)

theorem foldl_drainSlot_readyTask {n t : Nat} {l : List Nat} (hn : n ∈ l) {k : Core} (h : k.takesNext n t) :
    (l.foldl (fun k n => k.drainSlot n 8) k).readyTask t := by
  induction l generalizing k with
  | nil => cases hn
  | cons m l ih =>
    by_cases hm : m = n
    · subst hm
      exact foldl_drainSlot_keeps (fun _ _ _ _ hk => Core.taken_ready hk) l (Core.drainSlot_readyTask h)
    · exact ih ((List.mem_cons.1 hn).resolve_left (Ne.symm hm)) (Core.drainSlot_takesNext hm h)

/-! The drain of a core. -/

/-- Core k with its waiting tasks' signals taken. -/
def Core.drainedCore (k : Core) : Core := k.drained.foldl (fun k n => k.drainSlot n 8) k

/-- A core without its tasks and its event slots. -/
def Core.sansWaits (k : Core) : Core := { k with tasks := [], events := [] }

theorem Core.drainedCore_sansWaits (k : Core) : k.drainedCore.sansWaits = k.sansWaits :=
  foldl_drainSlot_keeps (P := fun u => u.sansWaits = k.sansWaits) (fun _ _ _ _ hk => hk) _ rfl

theorem Core.drainedCore_none {k : Core} (h : k.drained = []) : k.drainedCore = k := by rw [Core.drainedCore, h]; rfl

theorem Core.drainedCore_ready {k : Core} {n t : Nat} (hn : n < 32) (h : k.takesNext n t) : k.drainedCore.readyTask t := by
  refine foldl_drainSlot_readyTask ?_ h
  obtain ⟨-, hw, hc⟩ := h
  simp [Core.drained, hn, hw, hc]

end Sys2Proof.Machine
end

section
/-! PROOF. A saved weave that resumes (R180, R181). -/

namespace Sys2Proof.Machine

open Sys2Proof

theorem writeKeeps_acquire (s : State) (c scope : Nat) : writeKeeps s (s.acquire c scope) :=
  writeKeeps_foldl _ (fun s h => writeKeeps_l1 s h _ rfl fun he => by simp [he]) _ s

theorem State.acquire_homes (s : State) (c scope : Nat) : (s.acquire c scope).homes = s.homes :=
  foldl_homes (fun s h => State.modCore_homes s h _) _ s

theorem State.flushL1_homes {s : State} {c : Nat} (h : (s.core c).l1 = []) : (s.flushL1 c).homes = s.homes := by
  rw [State.flushL1, h]
  rfl

theorem State.drainSignals_keeps (s : State) (c : Nat) :
    writeKeeps (s.modCore c Core.drainedCore) (s.drainSignals c) ∧ (s.drainSignals c).homes = s.homes :=
  ⟨writeKeeps_foldl _ (fun v _ => writeKeeps_acquire v c _) _ (s.modCore c Core.drainedCore),
    foldl_homes (fun v _ => State.acquire_homes v c _) _ (s.modCore c Core.drainedCore)⟩

/-! One job. -/

section
variable (s : State) (h : Option Nat) (i : Image)

/-- The state from which the job of an image takes up its core: the L1 written back, the barriers of the image in place. -/
def State.resuming (s : State) (i : Image) : State :=
  let v := s.flushL1 i.core
  { v with barriers := i.bars.foldl (fun t e => tput t e.1 e.2) (v.barriers.filter fun e => !(v.coreBars i.core).any fun x => x.1 == e.1) }

/-- The core of an image as its job goes on, before its waiting tasks take their signals. -/
def State.resumedCore (s : State) (h : Option Nat) (i : Image) : Core :=
  Image.onto ((s.resuming i).loadImage i.addr i.state) ((s.resuming i).slotBps h) ((s.resuming i).core i.core)

theorem State.resuming_core (e : Nat) :
    ((s.resuming i).core e).sansL1 = (s.core e).sansL1 ∧ ((s.core e).l1 = [] → ((s.resuming i).core e).l1 = []) := by
  have hk := writeKeeps_flushL1 s i.core
  exact ⟨hk.2.1 e, hk.2.2 e⟩

theorem State.resumedCore_drained_l1 : (s.resumedCore h i).drainedCore.l1 = [] := by
  have hl := congrArg Core.l1 (Core.drainedCore_sansWaits (s.resumedCore h i))
  exact hl

theorem State.resumeJob_core : (s.resumeJob h i).core i.core = (s.resumedCore h i).drainedCore := by
  obtain ⟨⟨-, hs, hl⟩, -⟩ := State.drainSignals_keeps
    ((s.resuming i).modCore i.core (Image.onto ((s.resuming i).loadImage i.addr i.state) ((s.resuming i).slotBps h))) i.core
  have hs := hs i.core
  have hl := hl i.core
  rw [State.modCore_core_same, State.modCore_core_same] at hs hl
  have hnil := State.resumedCore_drained_l1 s h i
  exact Core.eq_of_sansL1 hs ((hl hnil).trans hnil.symm)

theorem State.resumeJob_core_other {e : Nat} (he : e ≠ i.core) :
    ((s.resumeJob h i).core e).sansL1 = (s.core e).sansL1 ∧ ((s.core e).l1 = [] → ((s.resumeJob h i).core e).l1 = []) := by
  obtain ⟨⟨-, hs, hl⟩, -⟩ := State.drainSignals_keeps
    ((s.resuming i).modCore i.core (Image.onto ((s.resuming i).loadImage i.addr i.state) ((s.resuming i).slotBps h))) i.core
  have hs := hs e
  have hl := hl e
  rw [State.modCore_core_other _ _ _ _ he, State.modCore_core_other _ _ _ _ he] at hs hl
  obtain ⟨hs', hl'⟩ := s.resuming_core i e
  exact ⟨hs.trans hs', fun hn => hl (hl' hn)⟩

theorem State.resuming_banks : (s.resuming i).banks = s.banks :=
  Eq.trans (b := (s.flushL1 i.core).banks) rfl (writeKeeps_banks (writeKeeps_flushL1 s i.core))

theorem State.resuming_homes (hl : (s.core i.core).l1 = []) : (s.resuming i).homes = s.homes :=
  Eq.trans (b := (s.flushL1 i.core).homes) rfl (State.flushL1_homes hl)

theorem State.resumeJob_banks : (s.resumeJob h i).banks = s.banks := by
  obtain ⟨hk, -⟩ := State.drainSignals_keeps
    ((s.resuming i).modCore i.core (Image.onto ((s.resuming i).loadImage i.addr i.state) ((s.resuming i).slotBps h))) i.core
  exact (writeKeeps_banks hk).trans (s.resuming_banks i)

theorem State.resumeJob_homes (hl : (s.core i.core).l1 = []) : (s.resumeJob h i).homes = s.homes := by
  obtain ⟨-, hh⟩ := State.drainSignals_keeps
    ((s.resuming i).modCore i.core (Image.onto ((s.resuming i).loadImage i.addr i.state) ((s.resuming i).slotBps h))) i.core
  exact hh.trans (s.resuming_homes i hl)

end

/-! All jobs of the weave. -/

/-- The jobs of a list of images resume, one after the other. -/
def State.resumeJobs (s : State) (h : Option Nat) (l : Tbl Image) : State := l.foldl (fun s i => s.resumeJob h i.2) s

theorem State.resumeJobs_core_other (h : Option Nat) {l : Tbl Image} {e : Nat} (he : ∀ i ∈ l, i.2.core ≠ e) (s : State) :
    ((s.resumeJobs h l).core e).sansL1 = (s.core e).sansL1 ∧ ((s.core e).l1 = [] → ((s.resumeJobs h l).core e).l1 = []) := by
  induction l generalizing s with
  | nil => exact ⟨rfl, fun hl => hl⟩
  | cons i l ih =>
    obtain ⟨h1, l1⟩ := s.resumeJob_core_other h i.2 (Ne.symm (he i (List.mem_cons_self ..)))
    obtain ⟨h2, l2⟩ := ih (fun j hj => he j (List.mem_cons_of_mem _ hj)) (s.resumeJob h i.2)
    exact ⟨h2.trans h1, fun hl => l2 (l1 hl)⟩

/-- The core of each image takes it up, from memory as it was where the L1s of the images' cores are empty. -/
theorem State.resumeJobs_core (h : Option Nat) {l : Tbl Image} (hnd : (l.map fun i => i.2.core).Nodup) (s : State) {i : Nat × Image} (hi : i ∈ l) :
    ∃ v : State, (s.resumeJobs h l).core i.2.core = (v.resumedCore h i.2).drainedCore ∧
      ((∀ j ∈ l, (s.core j.2.core).l1 = []) → (v.resuming i.2).homes = s.homes ∧ (v.resuming i.2).banks = s.banks) := by
  induction l generalizing s with
  | nil => cases hi
  | cons a l ih =>
    obtain ⟨hnot, hnd'⟩ := List.nodup_cons.1 hnd
    have hne : ∀ j ∈ l, j.2.core ≠ a.2.core := fun j hj he => hnot (List.mem_map.2 ⟨j, hj, he⟩)
    rcases List.mem_cons.1 hi with rfl | hi
    · refine ⟨s, ?_, fun hl => ⟨s.resuming_homes i.2 (hl i (List.mem_cons_self ..)), s.resuming_banks i.2⟩⟩
      obtain ⟨hs, hl⟩ := State.resumeJobs_core_other h hne (s.resumeJob h i.2)
      rw [State.resumeJob_core] at hs hl
      have hnil := State.resumedCore_drained_l1 s h i.2
      exact Core.eq_of_sansL1 hs ((hl hnil).trans hnil.symm)
    · obtain ⟨v, hcore, hmem⟩ := ih hnd' (s.resumeJob h a.2) hi
      refine ⟨v, hcore, fun hl => ?_⟩
      obtain ⟨hh, hb⟩ := hmem fun j hj => (s.resumeJob_core_other h a.2 (hne j hj)).2 (hl j (List.mem_cons_of_mem _ hj))
      exact ⟨hh.trans (s.resumeJob_homes h a.2 (hl a (List.mem_cons_self ..))), hb.trans (s.resumeJob_banks h a.2)⟩

/-! What a resumed core holds. -/

section
variable (v : State) (h : Option Nat) (i : Image)

/-- A resumed core but for its tasks and its event slots. -/
theorem State.resumed_field {α : Type} (f : Core → α) (hf : ∀ k : Core, f k.sansWaits = f k) :
    f (v.resumedCore h i).drainedCore = f (v.resumedCore h i) := by
  rw [← hf, Core.drainedCore_sansWaits, hf]

theorem State.resumedCore_drained : (v.resumedCore h i).drained = i.state.drained := rfl

theorem State.resumedCore_takesNext {n t : Nat} (hsort : i.state.tasks.Pairwise fun e f => e.1 < f.1) (hw : i.state.eventWaiter n = some t)
    (hc : 0 < (tget {} i.state.events n : EvSlot).count) : (v.resumedCore h i).takesNext n t := ⟨hsort, hw, hc⟩

theorem State.resumedCore_running (hs : i.state.data.saveStop = false) :
    (v.resumedCore h i).data.counted = i.state.data.counted ∧ (v.resumedCore h i).data.vec.pc = i.state.data.vec.pc ∧
      (v.resumedCore h i).data.timed = i.state.data.timed := by
  have hl : ((v.resuming i).loadImage i.addr i.state).data.saveStop = false := hs
  simp only [State.resumedCore, Image.onto, hl]
  exact ⟨rfl, rfl, rfl⟩

theorem State.resumedCore_snapped {m : Snap} (hs : i.state.data.saveStop = true) (hm : i.state.data.snap = some m) :
    (v.resumedCore h i).data.counted = m.counted ∧ (v.resumedCore h i).data.vec.pc = m.vec.pc := by
  have hl : ((v.resuming i).loadImage i.addr i.state).data.saveStop = true := hs
  have hl' : ((v.resuming i).loadImage i.addr i.state).data.snap = some m := hm
  simp only [State.resumedCore, Image.onto, hl, hl']
  exact ⟨rfl, rfl⟩

theorem State.resumedCore_v : (v.resumedCore h i).data.v = cellsTable (i.addr + imgV) 4096 ((v.resuming i).rangeCells (i.addr + imgV) 0x200000) := by
  unfold State.resumedCore Image.onto
  dsimp only
  split <;> rfl

theorem State.rangeCells_congr {s u : State} (hh : u.homes = s.homes) (hb : u.banks = s.banks) (a n : Nat) : u.rangeCells a n = s.rangeCells a n := by
  simp only [State.rangeCells, hh, hb]

/-- The stores of a resumed job are those that memory holds in its image (R179). -/
theorem State.resumedCore_regions {s : State} (hh : (v.resuming i).homes = s.homes) (hb : (v.resuming i).banks = s.banks) (hok : memoryOk s)
    (ha : i.addr % 32 = 0) :
    (∀ r, r < 512 → tget 0 (v.resumedCore h i).data.v r = numBytes (s.homeBytes (i.addr + (0x10000 + 4096 * r)) 4096)) ∧
    (∀ o, o < 0x100000 → byteAt (v.resumedCore h i).opmem o = s.homeByte (i.addr + (0x264000 + o))) ∧
    ∀ o, o < 0x400000 → byteAt (v.resumedCore h i).scratch o = s.homeByte (i.addr + (0x364000 + o)) := by
  refine ⟨fun r hr => ?_, fun o ho => ?_, fun o ho => ?_⟩
  · rw [State.resumedCore_v, State.rangeCells_congr hh hb, State.tget_rangeTable hok (by simp only [imgV]; omega) (by decide) (by decide) (by omega),
      Nat.add_assoc]
    rfl
  · have hop : (v.resumedCore h i).opmem =
        setCells [] (((v.resuming i).rangeCells (i.addr + imgOp) 0x100000).map fun x => (x.1 - (i.addr + imgOp), x.2)) := rfl
    rw [hop, State.rangeCells_congr hh hb, State.byteAt_rangeStore hok (by simp only [imgOp]; omega) (by decide) ho, Nat.add_assoc]
    rfl
  · have hsc : (v.resumedCore h i).scratch =
        setCells [] (((v.resuming i).rangeCells (i.addr + imgScratch) 0x400000).map fun x => (x.1 - (i.addr + imgScratch), x.2)) := rfl
    rw [hsc, State.rangeCells_congr hh hb, State.byteAt_rangeStore hok (by simp only [imgScratch]; omega) (by decide) ho, Nat.add_assoc]
    rfl

end

/-! WEAVE_RESUME. -/

/-- Weave x as it goes on in state v. -/
def State.goingOn (v : State) (x : Weave) : Weave :=
  { x with st := .resident, images := [], quantum := 0, placedSeq := v.nextId, commonSpc := none, passed := false, first := false, yields := none }

/-- The jobs of weave x have gone on. -/
def State.jobsResumed (s : State) (w : Nat) (x : Weave) : State :=
  let v := (s.freeImages x).resumeJobs x.hslot x.images
  { v.fresh with weaves := tput (yielded v.weaves w) w (v.goingOn x) }

/-- The weave has gone on with all its jobs. -/
def State.resumed (s : State) (w : Nat) (x : Weave) : State := (s.jobsResumed w x).countRound x

section
variable {s : State} {w : Nat} {x : Weave} (hf : tfind s.weaves w = some x) (hst : x.st = .saved)
include hf hst

theorem exec_weaveResume_waits (hy : s.yieldsStill x = true) : answers (.weaveResume w) s fun u =>
    u.cores = s.cores ∧ bytesKept s u ∧ ∃ y, tfind u.weaves w = some y ∧ y.st = .saved ∧ y.images = x.images := by
  have hm : s.mayResume x = false := by simp [State.mayResume, hy]
  refine ⟨if s.mayGo x then { s with weaves := tput s.weaves w { x with passed := true } } else s, ?_, ?_⟩
  · simp [execWeaveResume, hf, hst, hm]
  · split
    · exact ⟨rfl, bytesKept_of_parts _ _ rfl rfl rfl, _, tfind_tput_same .., hst, rfl⟩
    · exact ⟨rfl, bytesKept_refl s, x, hf, hst, rfl⟩

theorem exec_weaveResume_goes (hm : s.mayResume x = true) (hg : s.mayGo x = true) : exec (.weaveResume w) s = .next (s.resumed w x) := by
  simp only [exec_weaveResume, execWeaveResume, hf, hst, hm, hg]
  rfl

end

theorem State.resumed_weave (s : State) (w : Nat) (x : Weave) :
    ∃ y, tfind (s.resumed w x).weaves w = some y ∧ y.st = .resident ∧ y.images = [] ∧ y.quantum = 0 := by
  have hw : tfind (s.jobsResumed w x).weaves w = some (((s.freeImages x).resumeJobs x.hslot x.images).goingOn x) := tfind_tput_same ..
  obtain ⟨f, q, h⟩ := State.countRound_weave (w := x) hw
  exact ⟨_, h, rfl, rfl, rfl⟩

/-- Each image's core runs its job again. -/
theorem State.resumed_core {s : State} {w : Nat} {x : Weave} (hnd : (x.images.map fun i => i.2.core).Nodup) {i : Nat × Image} (hi : i ∈ x.images) :
    ∃ v : State, (s.resumed w x).core i.2.core = (v.resumedCore x.hslot i.2).drainedCore ∧
      ((∀ j ∈ x.images, (s.core j.2.core).l1 = []) → (v.resuming i.2).homes = s.homes ∧ (v.resuming i.2).banks = s.banks) := by
  obtain ⟨ds, heq, -⟩ := s.freeImages_eq x
  obtain ⟨v, hcore, hmem⟩ := State.resumeJobs_core x.hslot hnd (s.freeImages x) hi
  rw [heq] at hmem
  exact ⟨v, (State.countRound_core _ x _).trans hcore, hmem⟩

theorem State.mayResume_of {s : State} {x : Weave} (hst : x.st = .saved) (ht : x.torn = false) (hh : s.weaveHalted x.id = false) (hy : s.yieldsStill x = false)
    (hfree : ∀ j ∈ x.live, s.coreFree x.id j.2 = true) : s.mayResume x = true := by
  have hall : (x.live.all fun j => s.coreFree x.id j.2) = true := by simpa using hfree
  simp [State.mayResume, hst, ht, hh, hy, hall]

end Sys2Proof.Machine
end

section
/-! PROOF. Weaves complete, are torn down, are pre-empted and resume. -/

namespace Sys2Proof.Machine

open Sys2Proof

/-- What a resumed core holds of its image (R180, R181). -/
def coreResumed (s : State) (x : Weave) (i : Nat × Image) (k : Core) : Prop :=
  k.job = i.2.state.job ∧ k.srkey = i.2.state.srkey ∧ k.l1 = [] ∧ k.seg = i.2.state.seg ∧
  (i.2.state.drained = [] → k.tasks = i.2.state.tasks ∧ k.events = i.2.state.events) ∧
  (∀ n t, n < 32 → t < 8 → i.2.state.tasks.Pairwise (fun e f => e.1 < f.1) → i.2.state.eventWaiter n = some t →
    0 < (tget {} i.2.state.events n).count → (k.task t).st = .ready) ∧
  (i.2.state.data.saveStop = false → k.data.counted = i.2.state.data.counted ∧ k.data.vec.pc = i.2.state.data.vec.pc ∧
    k.data.timed = i.2.state.data.timed) ∧
  (∀ m, i.2.state.data.saveStop = true → i.2.state.data.snap = some m → k.data.counted = m.counted ∧ k.data.vec.pc = m.vec.pc) ∧
  (memoryOk s → (∀ j ∈ x.images, (s.core j.2.core).l1 = []) → i.2.addr % 32 = 0 →
    (∀ r, r < 512 → tget 0 k.data.v r = numBytes (s.homeBytes (i.2.addr + (0x10000 + 4096 * r)) 4096)) ∧
    (∀ o, o < 0x100000 → byteAt k.opmem o = s.homeByte (i.2.addr + (0x264000 + o))) ∧
    ∀ o, o < 0x400000 → byteAt k.scratch o = s.homeByte (i.2.addr + (0x364000 + o)))

theorem State.resumed_coreResumed {s : State} {w : Nat} {x : Weave} (hnd : (x.images.map fun i => i.2.core).Nodup) {i : Nat × Image}
    (hi : i ∈ x.images) : coreResumed s x i ((s.resumed w x).core i.2.core) := by
  obtain ⟨v, hcore, hmem⟩ := State.resumed_core (s := s) (w := w) hnd hi
  have hdata : (v.resumedCore x.hslot i.2).drainedCore.data = (v.resumedCore x.hslot i.2).data := v.resumed_field x.hslot i.2 Core.data fun _ => rfl
  rw [hcore]
  refine ⟨v.resumed_field x.hslot i.2 Core.job fun _ => rfl, v.resumed_field x.hslot i.2 Core.srkey fun _ => rfl,
    v.resumed_field x.hslot i.2 Core.l1 fun _ => rfl, v.resumed_field x.hslot i.2 Core.seg fun _ => rfl, fun hd => ?_, fun n t hn _ hsort hw hc => ?_,
    fun hs => ?_, fun m hs hm => ?_, fun hok hl ha => ?_⟩
  · rw [Core.drainedCore_none ((v.resumedCore_drained x.hslot i.2).trans hd)]
    exact ⟨rfl, rfl⟩
  · exact Core.drainedCore_ready hn (v.resumedCore_takesNext x.hslot i.2 hsort hw hc)
  · rw [hdata]
    exact v.resumedCore_running x.hslot i.2 hs
  · rw [hdata]
    exact v.resumedCore_snapped x.hslot i.2 hs hm
  · obtain ⟨hh, hb⟩ := hmem hl
    rw [hdata, v.resumed_field x.hslot i.2 Core.opmem fun _ => rfl, v.resumed_field x.hslot i.2 Core.scratch fun _ => rfl]
    exact v.resumedCore_regions x.hslot i.2 hh hb hok ha

/-- Settles O51. An end is `endWeave`, before it the releases or the freeing of the settled jobs with the report; a decision or an expiry is
`preempt`; a save is `saveJob`, whose image's regions are read back cell by cell; a resumption is `resumeJobs`, core by core. -/
theorem weavesEndArePreemptedAndResume : Obligations.WeavesEndArePreemptedAndResume := by
  unfold Obligations.WeavesEndArePreemptedAndResume
  refine ⟨fun s w id x p hf hid ho hp hsort => ⟨?_, ?_, ?_, ?_⟩, fun s w w' x hf hid => ⟨?_, ?_, ?_, ?_, ?_⟩⟩
  · intro hst ht hl howes hh
    have hno : ¬ s.mayNotComplete w x := by simp [State.mayNotComplete, hst, ht, hl, howes, hh]
    obtain ⟨-, hhomes, hbanks⟩ := State.endWeave_kept (x := x) (x.jobs.foldl (fun v j => v.release j.1 x.rootScope) s) 0 0 ho
    exact ⟨_, exec_weaveComplete_ends hf hno, weaveComplete_ended hid ho hp hsort, State.homeByte_congr hhomes hbanks⟩
  · exact fun h => exec_weaveComplete_waits hf h
  · exact fun ht => exec_weaveTeardown_whole hf ht
  · intro ht hnd
    have hs := State.freeSettled_freed hnd hf
    refine ⟨fun hh => ⟨_, exec_weaveTeardown_held hf ht hnd hh, ⟨hs.gone, hs.left⟩, hs.bytesKept, _, hs.weave, ht, rfl, rfl⟩, fun hh hok _ => ?_⟩
    · obtain ⟨hends, hfreed, hnone, hreport⟩ := weaveTeardown_ended hs hid ho hp hsort hh hok x.status
        (if 7 ≤ x.status ∧ x.status ≤ 12 then (s.reportedWeave w x).dropped else 0)
      have hexec := exec_weaveTeardown_ends hf ht hnd hh
      have hn := State.reportedWeave_dropped hh
      rw [hn] at hexec hends hfreed hnone hreport
      exact ⟨_, hexec, hends, hfreed, hnone, hreport⟩
  · intro y hy hyid hne hyst hyt hyp
    refine ⟨exec_preemptDecision_pool hf hy, fun vs h0 hvs => ⟨exec_preemptDecision_stops hf hy hyst hyt hyp hid h0 hvs,
      exec_preemptDecision_spared hf hy hyst hyt hyp h0 hvs⟩, fun vs hvs v hv => State.victim_of_mem (State.chosen_are_victims hvs hv),
      fun hst ht hh hprio hfits hcount hroom hq => ?_⟩
    have hwaits := State.waitsFor_of_fits hyst hyt hyp hprio (hid.symm ▸ hfits)
    exact ⟨_, exec_quantumExpiry_yields hf hst ht hh hq (State.not_quantumAlone hy hwaits hcount hroom) hy hwaits, quantumExpiry_yielded s w' hid⟩
  · intro hst ht hh
    exact ⟨exec_quantumExpiry_early hf hst ht hh, fun hq => ⟨exec_quantumExpiry_alone hf hst ht hh hq, exec_quantumExpiry_nobody hf hst ht hh hq⟩⟩
  · intro hst ht
    have hstopped : (∀ j ∈ x.live, s.jobHere w j.2 = true → s.jobStopped j.2 = true) ↔ s.allStopped x = true := by rw [State.allStopped_iff, hid]
    refine ⟨fun c j i hj hfz hh hall ha hwk hi => ?_, fun c j hj hno => ?_, fun htime hh hsome => ?_, fun hno => ?_⟩
    · have hgo : ¬ s.saveWaits w c x := by simp [State.saveWaits, State.isFrozen, hfz, hh, ha, hwk, hstopped.1 hall]
      exact ⟨_, exec_jobSaveComplete_saves hf hid hj hst ht hgo hi, State.saveJob_inImage hf hst hj⟩
    · refine exec_jobSaveComplete_waits hf hid hj ?_
      rcases hno with h | h | h | h | h
      · exact Or.inl (Or.inr (Or.inl (Bool.eq_false_iff.2 (mt hstopped.2 h))))
      · exact Or.inl (Or.inr (Or.inr (Or.inl h)))
      · exact Or.inl (Or.inr (Or.inr (Or.inr (Or.inl h))))
      · exact Or.inl (Or.inr (Or.inr (Or.inr (Or.inr h))))
      · exact Or.inr h
    · refine exec_preemptOverdue_torn hf hst ht htime hh (Bool.eq_false_iff.2 fun hall => ?_)
      obtain ⟨j, hj, hj', hrun⟩ := hsome
      have := hstopped.2 hall j hj hj'
      rw [hrun] at this
      cases this
    · exact exec_preemptOverdue_waits hf (hno.imp_right (Or.imp_right hstopped.1))
  · exact fun hst _ hy => exec_weaveResume_waits hf hst hy
  · intro hst ht hh hy hfree hfirst hask hnd
    have hm := State.mayResume_of hst ht (hid.symm ▸ hh) hy (hid.symm ▸ hfree)
    have hg : s.mayGo x = true := State.mayGo_of_first (fun e he hn => hfirst e he (hid ▸ hn))
      (fun e he hn hp => fun ⟨h1, h2, h3, h4⟩ => by rw [hask e he (hid ▸ hn) hp h1 h2 h3] at h4; cases h4) (Or.inr (Or.inl hst))
    exact ⟨_, exec_weaveResume_goes hf hst hm hg, s.resumed_weave w x, fun i hi => State.resumed_coreResumed hnd hi⟩

end Sys2Proof.Machine
end

section
/-! SUPPORT. The layouts of the words: the fields of a word, and the word of its fields (R46, R50, R57 to R60, R65). -/

namespace Sys2Proof.Machine

open Sys2Proof

/-! Bits and fields. -/

theorem fld_lt (w lo n : Nat) : fld w lo n < 2 ^ n := Nat.mod_lt _ (Nat.two_pow_pos n)

theorem bit_beq_one {n : Nat} (h : n < 2) : bit (n == 1) = n := by
  obtain rfl | rfl : n = 0 ∨ n = 1 := by omega
  all_goals rfl

theorem bit_fld_one (w lo : Nat) : bit (fld w lo 1 == 1) = fld w lo 1 := bit_beq_one (fld_lt w lo 1)

theorem beq_one_of_eq_bit {n : Nat} {b : Bool} (h : n = bit b) : (n == 1) = b := by
  subst h
  cases b <;> rfl

/-! The word of the fields that were cut out of a word. -/

/-- The fields of a control word in format C-R (R46). -/
structure FieldsR (w op fn rb ra rd : Nat) : Prop where
  op : fld w 3 7 = op
  fn : fld w 28 4 = fn
  rb : fld w 22 6 = rb
  ra : fld w 16 6 = ra
  rd : fld w 10 6 = rd

/-- The fields of a control word in formats C-I and C-B (R46). -/
structure FieldsI (w op imm ra rd : Nat) : Prop where
  op : fld w 3 7 = op
  imm : fld w 22 10 = imm
  ra : fld w 16 6 = ra
  rd : fld w 10 6 = rd

/-- The fields of a control word in format C-J (R46). -/
structure FieldsJ (w op off : Nat) : Prop where
  op : fld w 3 7 = op
  off : fld w 10 22 = off

theorem wR_of_fieldsR {w op fn rb ra rd : Nat} (hw : w < 2 ^ 32) (h : FieldsR w op fn rb ra rd) : wR op fn rb ra rd + (4 * fld w 2 1 + fld w 0 2) = w := by
  obtain ⟨rfl, rfl, rfl, rfl, rfl⟩ := h
  simp only [wR, fld]
  omega

theorem wI_of_fieldsI {w op imm ra rd : Nat} (hw : w < 2 ^ 32) (h : FieldsI w op imm ra rd) : wI op imm ra rd + (4 * fld w 2 1 + fld w 0 2) = w := by
  obtain ⟨rfl, rfl, rfl, rfl⟩ := h
  simp only [wI, fld]
  omega

theorem wJ_of_fieldsJ {w op off : Nat} (hw : w < 2 ^ 32) (h : FieldsJ w op off) : wJ op off + (4 * fld w 2 1 + fld w 0 2) = w := by
  obtain ⟨rfl, rfl⟩ := h
  simp only [wJ, fld]
  omega

theorem wPfx_of_parsePfx {w : Nat} {p : Pfx} (hw : w < 2 ^ 32) (hlen : fld w 0 2 = 2) (h : parsePfx w = some p) : wPfx p = w := by
  unfold parsePfx at h
  split at h
  next hz =>
    cases h
    simp only [wPfx, bit_fld_one]
    simp only [fld, beq_iff_eq] at *
    omega
  next => cases h

/-- The two halves of a data word, the low one first. -/
def halves (w : Nat) : List Nat := [w % 2 ^ 32, w / 2 ^ 32]

/-- A data word is its header, its opcode and its other fields (R57). -/
theorem dw_of_fields {w op fields : Nat} (h11 : fld w 11 1 ≠ 1) (hop : fld w 12 6 = op) (hf : fields = 2 ^ 18 * (w / 2 ^ 18)) :
    dw (parseDHdr w) op fields = halves w := by
  have hw : fld w 0 10 + 2 ^ 10 * fld w 10 1 + 2 ^ 12 * op + fields = w := by
    subst hop hf
    simp only [fld] at *
    omega
  simp only [dw, parseDHdr, bit_fld_one, hw, halves]

theorem wDR_parseDR {w fn : Nat} (hw : w < 2 ^ 64) (hfn : fld w 59 5 = fn) : wDR fn (parseDR w) = 2 ^ 18 * (w / 2 ^ 18) := by
  subst hfn
  simp only [wDR, parseDR, bit_fld_one]
  simp only [fld]
  omega

theorem wDM_parseDM {w : Nat} (hw : w < 2 ^ 64) : wDM (parseDM w) = 2 ^ 18 * (w / 2 ^ 18) := by
  simp only [wDM, parseDM, bit_fld_one]
  simp only [fld]
  omega

theorem wDG_parseDG {w fn : Nat} (hw : w < 2 ^ 64) (hfn : fld w 53 11 = fn) : wDG fn (parseDG w) = 2 ^ 18 * (w / 2 ^ 18) := by
  subst hfn
  simp only [wDG, parseDG, bit_fld_one]
  simp only [fld]
  omega

theorem wDX_parseDX {w : Nat} (hw : w / 2 ^ 62 = 0) : wDX (parseDX w) = 2 ^ 18 * (w / 2 ^ 18) := by
  simp only [wDX, parseDX, bit_fld_one]
  simp only [fld]
  omega

theorem wMma_parseMma {w : Nat} (hw : w < 2 ^ 64) : wMma (parseMma w) = 2 ^ 18 * (w / 2 ^ 18) := by
  simp only [wMma, parseMma, bit_fld_one]
  simp only [fld]
  omega

theorem wNAr_parseNAr (i : Nat) : wNAr (parseNAr i) = i % 128 := by
  have h1 : bit (i / 32 % 2 == 1) = i / 32 % 2 := bit_beq_one (by omega)
  have h2 : bit (i / 64 % 2 == 1) = i / 64 % 2 := bit_beq_one (by omega)
  simp only [wNAr, parseNAr, h1, h2]
  omega

theorem nw_of_fields {w op d a b i : Nat} (hw : w < 2 ^ 32) (hop : fld w 26 6 = op) (hd : fld w 21 5 = d) (ha : fld w 16 5 = a)
    (hb : fld w 11 5 = b) (hi : fld w 0 11 = i) : nw op d a b i = [w] := by
  subst hop hd ha hb hi
  simp only [nw, fld, List.cons.injEq, and_true]
  omega

end Sys2Proof.Machine
end

section
/-! PROOF. What is decoded encodes back to the words that were read (R45 to R68). -/

namespace Sys2Proof.Machine

open Sys2Proof

/-- What a parse can give has the property p. -/
def yields {α : Type} (o : Option α) (p : α → Prop) : Prop := ∀ i, o = some i → p i

theorem yields_none {α : Type} (p : α → Prop) : yields none p := fun _ e => nomatch e

theorem yields_some {α : Type} {p : α → Prop} {i : α} (h : p i) : yields (some i) p := fun _ e => by cases e; exact h

theorem yields_ite {α : Type} {p : α → Prop} {c : Bool} {a b : Option α} (ha : c = true → yields a p) (hb : yields b p) :
    yields (if c = true then a else b) p := by
  cases c with
  | true => exact ha rfl
  | false => exact hb

theorem yields_zeros {p : Instr → Prop} {c : Bool} {i : Instr} (h : c = true → p i) : yields (zeros c i) p := by
  cases c with
  | true => exact yields_some (h rfl)
  | false => exact yields_none p

theorem yields_whenSm {p : SmOp → Prop} {c : Bool} {o : SmOp} (h : c = true → p o) : yields (whenSm c o) p := by
  cases c with
  | true => exact yields_some (h rfl)
  | false => exact yields_none p

/-- What is kept of a parse is well formed. -/
theorem yields_keep {p : Instr → Prop} {o : Option Instr} (ho : yields o p) : yields (keepWellFormed o) fun i => wellFormed i = true ∧ p i := by
  intro i h
  unfold keepWellFormed at h
  split at h
  next j =>
    split at h
    next hwf => cases h; exact ⟨hwf, ho _ rfl⟩
    next => cases h
  next => cases h

/-! Control words. -/

/-- The word w of format C-R, C-I, C-B or C-J, with the L bit of the header h. -/
structure NarrowWord (h : CHdr) (w : Nat) : Prop where
  lt : w < 2 ^ 32
  len : fld w 0 2 = 0
  l : fld w 2 1 = bit h.l

theorem ctl_of_fieldsR {h : CHdr} {w op fn rb ra rd : Nat} (hw : NarrowWord h w) (hf : FieldsR w op fn rb ra rd) :
    ctl h (wR op fn rb ra rd) = wPair h [w] := by
  have h1 := wR_of_fieldsR hw.lt hf
  rw [hw.len, hw.l, Nat.add_zero] at h1
  rw [ctl, h1]

theorem ctl_of_fieldsI {h : CHdr} {w op imm ra rd : Nat} (hw : NarrowWord h w) (hf : FieldsI w op imm ra rd) :
    ctl h (wI op imm ra rd) = wPair h [w] := by
  have h1 := wI_of_fieldsI hw.lt hf
  rw [hw.len, hw.l, Nat.add_zero] at h1
  rw [ctl, h1]

theorem ctl_of_fieldsJ {h : CHdr} {w op off : Nat} (hw : NarrowWord h w) (hf : FieldsJ w op off) : ctl h (wJ op off) = wPair h [w] := by
  have h1 := wJ_of_fieldsJ hw.lt hf
  rw [hw.len, hw.l, Nat.add_zero] at h1
  rw [ctl, h1]

theorem ctlW_of_fieldsR {h : CHdr} {w imm op fn rb ra rd up : Nat} (hw : w < 2 ^ 32) (hlen : fld w 0 2 = 1) (hl : fld w 2 1 = bit h.l)
    (hf : FieldsR w op fn rb ra rd) (hi : up = imm) : ctlW h (wR op fn rb ra rd) up = wPair h [w, imm] := by
  have h1 := wR_of_fieldsR hw hf
  rw [hlen, hl, ← Nat.add_assoc] at h1
  rw [ctlW, h1, hi]

theorem parseControl32_encodes {h : CHdr} {w : Nat} (hw : NarrowWord h w) : yields (parseControl32 h w) (encode · = wPair h [w]) := by
  unfold parseControl32
  dsimp only
  split
  all_goals
    repeat' first
      | with_reducible exact yields_none _
      | (with_reducible refine yields_ite (fun hz => ?_) ?_); on_goal 1 => simp only [beq_iff_eq] at hz
      | (with_reducible refine yields_zeros fun hz => ?_); simp only [Bool.and_eq_true, beq_iff_eq] at hz
      | with_reducible refine yields_some ?_
  all_goals
    dsimp only [encode]
    first
      | with_reducible refine ctl_of_fieldsR hw ⟨?_, ?_, ?_, ?_, ?_⟩
      | with_reducible refine ctl_of_fieldsI hw ⟨?_, ?_, ?_, ?_⟩
      | with_reducible refine ctl_of_fieldsJ hw ⟨?_, ?_⟩
  all_goals omega

theorem parseControl64_encodes {h : CHdr} {w imm : Nat} (hw : w < 2 ^ 32) (hi : imm < 2 ^ 32) (hlen : fld w 0 2 = 1) (hl : fld w 2 1 = bit h.l) :
    yields (parseControl64 h w imm) (encode · = wPair h [w, imm]) := by
  have hfn := fld_lt w 28 4
  have hbit : bit (fld w 28 4 / 8 == 1) = fld w 28 4 / 8 := bit_beq_one (by omega)
  have hbit31 : bit (imm / 2 ^ 31 == 1) = imm / 2 ^ 31 := bit_beq_one (by omega)
  have hbit5 : imm / 64 = 0 → bit (imm / 32 == 1) = imm / 32 := fun _ => bit_beq_one (by omega)
  unfold parseControl64
  dsimp only
  split
  all_goals
    repeat' first
      | with_reducible exact yields_none _
      | (with_reducible refine yields_zeros fun hz => ?_); simp only [Bool.and_eq_true, beq_iff_eq] at hz
      | with_reducible refine yields_some ?_
  all_goals
    dsimp only [encode]
    refine ctlW_of_fieldsR hw hlen hl ⟨?_, ?_, ?_, ?_, ?_⟩ ?_ <;> omega

theorem parseControl_encodes {h : CHdr} {w imm : Nat} (hw : w < 2 ^ 32) (hi : imm < 2 ^ 32) (hl : fld w 2 1 = bit h.l) :
    yields (parseControl h w imm) (encode · = wPair h ([w, imm].take (controlWords w))) := by
  unfold parseControl controlWords
  split
  next h0 => rw [h0]; exact parseControl32_encodes ⟨hw, h0, hl⟩
  next h1 => rw [h1]; exact parseControl64_encodes hw hi h1 hl
  next => exact yields_none _

/-- What the words of a control slice decode to is well formed and encodes to the words that it takes. -/
theorem controlFate_encodes {pc w0 w1 w2 n : Nat} {i : Instr} (h0 : w0 < 2 ^ 32) (h1 : w1 < 2 ^ 32) (h2 : w2 < 2 ^ 32)
    (h : controlFate pc w0 w1 w2 = .ins i n) : wellFormed i = true ∧ n ≤ 3 ∧ encode i = [w0, w1, w2].take n := by
  have hbit (w : Nat) : fld w 2 1 < 2 := fld_lt w 2 1
  have hwords (w : Nat) : controlWords w ≤ 2 := by unfold controlWords; split <;> decide
  by_cases hp : fld w0 0 2 = 2
  · obtain ⟨p, hq, hl, -, -, hk, rfl⟩ := (controlFate_prefixed hp).1 h
    have hl0 : fld w1 2 1 = bit false := by have := hbit w1; show fld w1 2 1 = 0; omega
    obtain ⟨hwf, he⟩ := yields_keep (parseControl_encodes h1 h2 hl0) i hk
    have hw := hwords w1
    refine ⟨hwf, by omega, ?_⟩
    rw [he, Nat.add_comm 1, List.take_succ_cons, ← wPfx_of_parsePfx h0 hp hq]
    rfl
  · obtain ⟨hk, rfl⟩ := (controlFate_plain hp).1 h
    obtain ⟨hwf, he⟩ := yields_keep (parseControl_encodes (h := ⟨fld w0 2 1 == 1, none⟩) h0 h1 (bit_fld_one w0 2).symm) i hk
    have hw := hwords w0
    refine ⟨hwf, by omega, ?_⟩
    obtain hn | hn : controlWords w0 = 1 ∨ controlWords w0 = 2 := by have := controlWords_pos w0; omega
    all_goals rw [he, hn]; rfl

/-! Words of the data strands. -/

/-- The words of the three data strands: each has the header and the opcode of R57, and one of the layouts after them. -/
theorem parseData_encodes {w : Nat} (hw : w < 2 ^ 64) : yields (parseVector w) (encode · = halves w) ∧ yields (parseMatrix w) (encode · = halves w) ∧
    yields (parseCopy w) (encode · = halves w) := by
  have h31 := bit_fld_one w 31
  have h56 := bit_fld_one w 56
  have h57 := bit_fld_one w 57
  have hfalse : bit false = 0 := rfl
  have htrue : bit true = 1 := rfl
  unfold parseVector parseMatrix parseCopy
  dsimp only
  by_cases h11 : fld w 11 1 = 1
  · simp only [h11, beq_self_eq_true, if_true]
    exact ⟨yields_none _, yields_none _, yields_none _⟩
  simp only [beq_eq_false_iff_ne.2 h11, Bool.false_eq_true, if_false]
  refine ⟨?_, ?_, ?_⟩
  all_goals split
  all_goals
    repeat' first
      | with_reducible exact yields_none _
      | (with_reducible refine yields_ite (fun hz => ?_) ?_); on_goal 1 => simp only [Bool.and_eq_true, beq_iff_eq] at hz
      | (with_reducible refine yields_zeros fun hz => ?_); simp only [Bool.and_eq_true, beq_iff_eq] at hz
      | with_reducible refine yields_some ?_
      | split
  all_goals
    dsimp only [encode]
    refine dw_of_fields h11 ‹_› ?_
  all_goals
    first
      | with_reducible exact wDR_parseDR hw rfl
      | with_reducible exact wDR_parseDR hw ‹_›
      | with_reducible exact wDM_parseDM hw
      | with_reducible exact wMma_parseMma hw
      | with_reducible exact wDX_parseDX ‹_›
      | with_reducible exact wDG_parseDG hw ‹_›
      | with_reducible rfl
      | with_reducible refine wDG_parseDG hw ?_
      | skip
  all_goals
    simp only [fld] at *
    omega

/-! Words of the near-memory units and of the samplers. -/

theorem parseNmu_encodes {w : Nat} (hw : w < 2 ^ 32) : yields (parseNmu w) (encode · = [w]) := by
  have hi := fld_lt w 0 11
  have h5 : bit (fld w 0 11 / 32 % 2 == 1) = fld w 0 11 / 32 % 2 := bit_beq_one (by omega)
  have h6 : bit (fld w 0 11 / 64 % 2 == 1) = fld w 0 11 / 64 % 2 := bit_beq_one (by omega)
  have h10 : bit (fld w 0 11 / 1024 == 1) = fld w 0 11 / 1024 := bit_beq_one (by omega)
  have hsp : fld w 16 5 / 2 = 0 → bit (fld w 16 5 == 1) = fld w 16 5 := fun _ => bit_beq_one (by omega)
  have har := wNAr_parseNAr (fld w 0 11)
  unfold parseNmu
  dsimp only
  split
  all_goals
    repeat' first
      | with_reducible exact yields_none _
      | (with_reducible refine yields_zeros fun hz => ?_); simp only [Bool.and_eq_true, beq_iff_eq] at hz
  all_goals
    dsimp only [encode]
    refine nw_of_fields hw ?_ ?_ ?_ ?_ ?_ <;> omega

theorem parseSampler_encodes {w : Nat} (hw : w < 2 ^ 32) : yields (parseSampler w) (encode ·.instr = [w]) := by
  have hi := fld_lt w 0 11
  have h0 : bit (fld w 0 11 % 2 == 1) = fld w 0 11 % 2 := bit_beq_one (by omega)
  have h1 : fld w 0 11 / 2 = 0 → bit (fld w 0 11 == 1) = fld w 0 11 := fun _ => bit_beq_one (by omega)
  have h4 : fld w 0 11 / 32 = 0 → bit (fld w 0 11 / 16 == 1) = fld w 0 11 / 16 := fun _ => bit_beq_one (by omega)
  have h10 : bit (fld w 0 11 / 1024 == 1) = fld w 0 11 / 1024 := bit_beq_one (by omega)
  have h20 := bit_fld_one w 20
  unfold parseSampler
  dsimp only
  split
  all_goals
    repeat' first
      | with_reducible exact yields_none _
      | (with_reducible refine yields_whenSm fun hz => ?_); simp only [Bool.and_eq_true, beq_iff_eq] at hz
      | with_reducible refine yields_some ?_
  all_goals
    dsimp only [SmOp.instr, encode]
    first
      | refine nw_of_fields hw ?_ ?_ ?_ ?_ ?_ <;> omega
      | refine congrArg (· :: []) ?_; simp only [fld] at *; omega

theorem wellFormed_instr (o : SmOp) : wellFormed o.instr = o.ok := by cases o <;> rfl

theorem decodeSampler_iff {w : Nat} {i : Instr} : decodeSampler w = some i ↔ ∃ o, parseSampler w = some o ∧ o.ok = true ∧ o.instr = i := by
  unfold decodeSampler decodeSmOp
  cases parseSampler w with
  | none => simp
  | some o => cases h : o.ok <;> simp [h]

/-- Settles O55: each decoder's parse gives an instruction whose encoding is put together from the fields that were cut out of the words. -/
theorem encodingInvertsDecoding : Obligations.EncodingInvertsDecoding := by
  unfold Obligations.EncodingInvertsDecoding
  refine ⟨fun pc w0 w1 w2 i n h0 h1 h2 h => controlFate_encodes h0 h1 h2 h, fun e w i he1 he3 hw h => ?_, fun w i hw h => ?_, fun w i hw h => ?_⟩
  · obtain ⟨hv, hm, hc⟩ := parseData_encodes hw
    have hhalf : halves w = [w % 2 ^ 32, w / 2 ^ 32] := rfl
    rw [← hhalf]
    obtain rfl | rfl | rfl : e = 1 ∨ e = 2 ∨ e = 3 := by omega
    · exact yields_keep hv i h
    · exact yields_keep hm i h
    · exact yields_keep hc i h
  · exact yields_keep (parseNmu_encodes hw) i h
  · obtain ⟨o, hp, hok, rfl⟩ := decodeSampler_iff.1 h
    exact ⟨(wellFormed_instr o).trans hok, parseSampler_encodes hw o hp⟩

end Sys2Proof.Machine
end

section
/-! SUPPORT. Words that are put together from their fields: the fields read back, and the bytes of the words (R45 to R60, R65). -/

namespace Sys2Proof.Machine

open Sys2Proof

/-! The bytes of words. -/

theorem numOfBytes_bytesOfNum_append (n v : Nat) (bs : List Byte) : numOfBytes n (bytesOfNum n v ++ bs) = v % 256 ^ n := by
  induction n generalizing v with
  | zero => simp [numOfBytes, Nat.mod_one]
  | succ n ih =>
    rw [pow_succ', Nat.mod_mul, bytesOfNum, List.cons_append, numOfBytes, ih]
    rfl

theorem numOfBytes_word {w : Nat} (hw : w < 2 ^ 32) (bs : List Byte) : numOfBytes 4 (bytesOfNum 4 w ++ bs) = w :=
  (numOfBytes_bytesOfNum_append 4 w bs).trans (Nat.mod_eq_of_lt hw)

theorem drop_bytesOfNum_append (k n v : Nat) (bs : List Byte) : (bytesOfNum n v ++ bs).drop (n + k) = bs.drop k := by
  rw [List.drop_append, length_bytesOfNum, List.drop_of_length_le (by rw [length_bytesOfNum]; omega), Nat.add_sub_cancel_left]
  rfl

/-- The three words at the head of a list of words that go on with 0 are the words that are decoded. -/
theorem decodeBytes_words {ws : List Nat} (hlt : ∀ w ∈ ws, w < 2 ^ 32) :
    decodeBytes (ws.flatMap (bytesOfNum 4)) = decodeControl (ws.getD 0 0) (ws.getD 1 0) (ws.getD 2 0) := by
  match ws with
  | [] => rfl
  | w0 :: ws1 =>
    have h0 : numOfBytes 4 ((w0 :: ws1).flatMap (bytesOfNum 4)) = w0 := numOfBytes_word (hlt w0 (by simp)) _
    have d0 : ((w0 :: ws1).flatMap (bytesOfNum 4)).drop 4 = ws1.flatMap (bytesOfNum 4) := drop_bytesOfNum_append 0 4 w0 _
    have d1 : ((w0 :: ws1).flatMap (bytesOfNum 4)).drop 8 = (ws1.flatMap (bytesOfNum 4)).drop 4 := drop_bytesOfNum_append 4 4 w0 _
    rw [decodeBytes, h0, d0, d1]
    match ws1 with
    | [] => rfl
    | w1 :: ws2 =>
      have h1 : numOfBytes 4 ((w1 :: ws2).flatMap (bytesOfNum 4)) = w1 := numOfBytes_word (hlt w1 (by simp)) _
      have d2 : ((w1 :: ws2).flatMap (bytesOfNum 4)).drop 4 = ws2.flatMap (bytesOfNum 4) := drop_bytesOfNum_append 0 4 w1 _
      rw [h1, d2]
      match ws2 with
      | [] => rfl
      | w2 :: ws3 =>
        have h2 : numOfBytes 4 ((w2 :: ws3).flatMap (bytesOfNum 4)) = w2 := numOfBytes_word (hlt w2 (by simp)) _
        rw [h2]
        rfl

/-- The 64 bits of a data word from its bytes. -/
theorem numOfBytes_halves {w : Nat} (hw : w < 2 ^ 64) : numOfBytes 8 ((halves w).flatMap (bytesOfNum 4)) = w := by
  have h : (halves w).flatMap (bytesOfNum 4) = bytesOfNum 8 w ++ [] := by
    simp only [halves, List.flatMap_cons, List.flatMap_nil, bytesOfNum, List.cons_append, List.nil_append, List.cons.injEq, and_true]
    refine ⟨?_, ?_, ?_, ?_, ?_, ?_, ?_, ?_⟩ <;> apply BitVec.eq_of_toNat_eq <;> simp only [BitVec.toNat_ofNat] <;> omega
  rw [h, numOfBytes_bytesOfNum_append]
  exact Nat.mod_eq_of_lt hw

/-! Control words. -/

theorem fieldsR_of_wR {op fn rb ra rd x : Nat} (hop : op < 128) (hfn : fn < 16) (hrb : rb < 64) (hra : ra < 64) (hrd : rd < 64) (hx : x < 8) :
    FieldsR (wR op fn rb ra rd + x) op fn rb ra rd := by
  constructor <;> simp only [fld, wR] <;> omega

theorem fieldsI_of_wI {op imm ra rd x : Nat} (hop : op < 128) (himm : imm < 1024) (hra : ra < 64) (hrd : rd < 64) (hx : x < 8) :
    FieldsI (wI op imm ra rd + x) op imm ra rd := by
  constructor <;> simp only [fld, wI] <;> omega

theorem fieldsJ_of_wJ {op off x : Nat} (hop : op < 128) (hoff : off < 2 ^ 22) (hx : x < 8) : FieldsJ (wJ op off + x) op off := by
  constructor <;> simp only [fld, wJ] <;> omega

theorem wR_lt {op fn rb ra rd : Nat} (hop : op < 128) (hfn : fn < 16) (hrb : rb < 64) (hra : ra < 64) (hrd : rd < 64) :
    wR op fn rb ra rd < 2 ^ 32 - 7 := by simp only [wR]; omega

theorem wI_lt {op imm ra rd : Nat} (hop : op < 128) (himm : imm < 1024) (hra : ra < 64) (hrd : rd < 64) : wI op imm ra rd < 2 ^ 32 - 7 := by
  simp only [wI]; omega

theorem wJ_lt {op off : Nat} (hop : op < 128) (hoff : off < 2 ^ 22) : wJ op off < 2 ^ 32 - 7 := by simp only [wJ]; omega

/-- A word of R50 whose fields fit is read back. -/
theorem parsePfx_wPfx {p : Pfx} (hp : p.fits = true) : parsePfx (wPfx p) = some p ∧ fld (wPfx p) 0 2 = 2 ∧ wPfx p < 2 ^ 32 := by
  obtain ⟨l, rmv, rm, satv, sat, ftzv, ftz, scv, scope, ord⟩ := p
  simp only [Pfx.fits, Bool.and_eq_true, decide_eq_true_eq] at hp
  have := bit_le_one l
  have := bit_le_one rmv
  have := bit_le_one satv
  have := bit_le_one sat
  have := bit_le_one ftzv
  have := bit_le_one ftz
  have := bit_le_one scv
  refine ⟨?_, ?_, ?_⟩
  · have hz : fld (wPfx ⟨l, rmv, rm, satv, sat, ftzv, ftz, scv, scope, ord⟩) 17 15 = 0 := by simp only [wPfx, fld]; omega
    rw [parsePfx, hz]
    simp only [beq_self_eq_true, if_true, Option.some.injEq, Pfx.mk.injEq]
    refine ⟨beq_one_of_eq_bit ?_, beq_one_of_eq_bit ?_, ?_, beq_one_of_eq_bit ?_, beq_one_of_eq_bit ?_, beq_one_of_eq_bit ?_, beq_one_of_eq_bit ?_,
      beq_one_of_eq_bit ?_, ?_, ?_⟩ <;> simp only [wPfx, fld] <;> omega
  · simp only [wPfx, fld]; omega
  · simp only [wPfx]; omega

end Sys2Proof.Machine
end

section
/-! PROOF. A control word is decoded from its own encoding (R45 to R56). -/

namespace Sys2Proof.Machine

open Sys2Proof

/-! A word of R50 never makes an instruction of what is none without it (R53). -/

/-- What R50 and R53 ask of a header whatever the instruction: behind a word of R50 the word itself has L = 0, and the fields of the word of R50 fit. -/
def hdrSound (h : CHdr) : Prop := ∀ p, h.pfx = some p → h.l = false ∧ p.fits = true

/-- The check c of the header h makes it sound, and c' is the same check of a header without a word of R50. -/
def bareCheck (h : CHdr) (c c' : Bool) : Prop := c = true → hdrSound h ∧ c' = true

/-- Each row of R51 is passed without a word of R50. -/
theorem bareCheck_accepts {h : CHdr} {l rm sat ftz sc acq rel ar : Bool} :
    bareCheck h (h.accepts rm sat ftz sc acq rel ar) (CHdr.accepts ⟨l, none⟩ rm sat ftz sc acq rel ar) := by
  intro ha
  refine ⟨fun p hp => ?_, rfl⟩
  simp only [CHdr.accepts, hp, Bool.and_eq_true, Bool.not_eq_true'] at ha
  exact ha.1

theorem bareCheck_and {h : CHdr} {c c' : Bool} (r : Bool) (hc : bareCheck h c c') : bareCheck h (c && r) (c' && r) := by
  cases r with
  | true => simpa using hc
  | false => simp [bareCheck]

/-- What the header h makes an instruction is one without a word of R50 as well, and h is sound. -/
def bareToo (h : CHdr) (o o' : Option Instr) : Prop := bareCheck h (gives o) (gives o')

theorem bareToo_none (h : CHdr) (o' : Option Instr) : bareToo h none o' := fun e => nomatch e

theorem bareToo_ite {h : CHdr} {c : Bool} {a b a' b' : Option Instr} (ha : bareToo h a a') (hb : bareToo h b b') :
    bareToo h (if c = true then a else b) (if c = true then a' else b') := by
  cases c with
  | true => exact ha
  | false => exact hb

theorem bareToo_some {h : CHdr} {i i' : Instr} (hw : bareCheck h (wellFormed i) (wellFormed i')) : bareToo h (some i) (some i') := by
  simpa only [bareToo, gives_some] using hw

theorem bareToo_zeros {h : CHdr} {c : Bool} {i i' : Instr} (hi : bareToo h (some i) (some i')) : bareToo h (zeros c i) (zeros c i') := by
  cases c with
  | true => exact hi
  | false => exact bareToo_none h none

theorem parseControl32_bareToo (h : CHdr) (l : Bool) (w : Nat) : bareToo h (parseControl32 h w) (parseControl32 ⟨l, none⟩ w) := by
  unfold parseControl32
  dsimp only
  split
  all_goals
    repeat' first
      | with_reducible exact bareToo_none _ _
      | with_reducible apply bareToo_ite
      | with_reducible apply bareToo_zeros
      | with_reducible apply bareToo_some
  all_goals
    dsimp only [wellFormed]
    repeat with_reducible apply bareCheck_and
    first
      | exact bareCheck_accepts
      | split <;> exact bareCheck_accepts

theorem parseControl64_bareToo (h : CHdr) (l : Bool) (w imm : Nat) : bareToo h (parseControl64 h w imm) (parseControl64 ⟨l, none⟩ w imm) := by
  unfold parseControl64
  dsimp only
  split
  all_goals
    repeat' first
      | with_reducible exact bareToo_none _ _
      | with_reducible apply bareToo_zeros
      | with_reducible apply bareToo_some
  all_goals
    dsimp only [wellFormed]
    repeat with_reducible apply bareCheck_and
    exact bareCheck_accepts

theorem parseControl_bareToo (h : CHdr) (l : Bool) (w imm : Nat) : bareToo h (parseControl h w imm) (parseControl ⟨l, none⟩ w imm) := by
  unfold parseControl
  split
  · exact parseControl32_bareToo h l w
  · exact parseControl64_bareToo h l w imm
  · exact bareToo_none h none

theorem decodeControl_of_fate {w0 w1 w2 n : Nat} {i : Instr} (h : controlFate 0 w0 w1 w2 = .ins i n) : decodeControl w0 w1 w2 = some i := by
  rw [decodeControl, h]

/-- Where the words of a control word end, 0 is read, as where its second word is 0. -/
theorem getD_take_words {w imm : Nat} (hone : controlWords w = 1 → imm = 0) (k : Nat) :
    ([w, imm].take (controlWords w)).getD k 0 = [w, imm].getD k 0 := by
  unfold controlWords at hone ⊢
  split at hone
  next hc => rw [if_pos hc]; rfl
  next hc =>
    rw [if_neg hc, hone rfl]
    match k with
    | 0 => rfl
    | 1 => rfl
    | k + 2 => rfl

/-- A control word, behind its word of R50 where it has one, decodes to what it parses to, where that is well formed. -/
theorem decodeBytes_of_parse {i : Instr} {h : CHdr} {w imm : Nat} (hwf : wellFormed i = true) (he : encode i = wPair h ([w, imm].take (controlWords w)))
    (hw : w < 2 ^ 32) (hi : imm < 2 ^ 32) (hone : controlWords w = 1 → imm = 0) (hl : fld w 2 1 = bit h.l) (hlen : fld w 0 2 ≠ 2)
    (hp : parseControl h w imm = some i) : decodeBytes (encodeBytes i) = some i := by
  have hk : keepWellFormed (parseControl h w imm) = some i := by simp [keepWellFormed, hp, hwf]
  have hbare := parseControl_bareToo h h.l w imm ((gives_iff _).2 ⟨i, hk⟩)
  have hword : ∀ v ∈ [w, imm].take (controlWords w), v < 2 ^ 32 := fun v hv => by
    have := List.mem_of_mem_take hv
    simp only [List.mem_cons, List.not_mem_nil, or_false] at this
    obtain rfl | rfl := this <;> assumption
  have hget := getD_take_words hone
  rw [encodeBytes, he]
  obtain ⟨l, pfx⟩ := h
  cases pfx with
  | none =>
    dsimp only [wPair]
    rw [decodeBytes_words hword, hget, hget, hget]
    refine decodeControl_of_fate ((controlFate_plain hlen).2 ⟨?_, rfl⟩)
    have hl' : (fld w 2 1 == 1) = l := beq_one_of_eq_bit hl
    rw [← hl'] at hk
    exact hk
  | some p =>
    obtain ⟨rfl, hfits⟩ := hbare.1 p rfl
    obtain ⟨hparse, hpl, hplt⟩ := parsePfx_wPfx hfits
    dsimp only [wPair]
    rw [decodeBytes_words (List.forall_mem_cons.2 ⟨hplt, hword⟩), List.getD_cons_zero, List.getD_cons_succ, List.getD_cons_succ, hget, hget]
    exact decodeControl_of_fate ((controlFate_prefixed hpl).2 ⟨p, hparse, by rw [List.getD_cons_zero, hl]; exact Nat.zero_ne_one, hlen, hbare.2, hk, rfl⟩)

theorem decodeBytes_ctl {i : Instr} {h : CHdr} {w : Nat} (hwf : wellFormed i = true) (he : encode i = ctl h w) (hw8 : w % 8 = 0)
    (hw : w < 2 ^ 32 - 7) (hp : parseControl32 h (w + 4 * bit h.l) = some i) : decodeBytes (encodeBytes i) = some i := by
  have hb := bit_le_one h.l
  have hlen : fld (w + 4 * bit h.l) 0 2 = 0 := by simp only [fld]; omega
  have hone : controlWords (w + 4 * bit h.l) = 1 := by simp [controlWords, hlen]
  exact decodeBytes_of_parse (imm := 0) hwf (by rw [he, hone]; rfl) (by omega) (by decide) (fun _ => rfl) (by simp only [fld]; omega)
    (by omega) (by rw [parseControl, hlen]; exact hp)

theorem decodeBytes_ctlW {i : Instr} {h : CHdr} {w imm : Nat} (hwf : wellFormed i = true) (he : encode i = ctlW h w imm) (hw8 : w % 8 = 0)
    (hw : w < 2 ^ 32 - 7) (hi : imm < 2 ^ 32) (hp : parseControl64 h (w + (4 * bit h.l + 1)) imm = some i) : decodeBytes (encodeBytes i) = some i := by
  have hb := bit_le_one h.l
  have hlen : fld (w + (4 * bit h.l + 1)) 0 2 = 1 := by simp only [fld]; omega
  have htwo : controlWords (w + (4 * bit h.l + 1)) = 2 := by simp [controlWords, hlen]
  exact decodeBytes_of_parse (imm := imm) hwf (by rw [he, htwo]; rfl) (by omega) hi (by omega) (by simp only [fld]; omega)
    (by omega) (by rw [parseControl, hlen]; exact hp)

/-! The formats. -/

/-- The formats of the words: C-R, C-I with C-B, C-J and C-W of the control slice (R46); D-R, D-M, D-G (R58 to R60) and the copy engine's D-X
(R231) of the data strands, the words that every strand has (R61, R62) and those of an engine's own layout; the words of the near-memory
units and of the samplers (R65). -/
inductive WordFormat where
  | cR | cI | cJ | cW | dR | dM | dG | dX | dShared | dOther | nmu | sampler | none

/-- The format of an instruction's word. -/
def wordFormat (i : Instr) : WordFormat :=
  match i with
  | .add .. | .sub .. | .and .. | .or .. | .xor .. | .shl .. | .shr .. | .sra .. | .slt .. | .sltu .. | .min .. | .max .. | .minu .. | .maxu .. | .mul
    .. | .mulh .. | .mulhu .. | .div .. | .divu .. | .rem .. | .remu .. | .fadd .. | .fsub .. | .fmul .. | .fmin .. | .fmax .. | .fdiv .. | .fsqrt ..
    | .feq .. | .flt .. | .fle .. | .fcvt .. | .jr .. | .callr .. | .ret .. | .fence .. | .fenceSc .. | .qmark .. | .cleanR .. | .invR .. | .cleaninvR
    .. | .probe .. | .cqCount .. | .cqOut .. | .cqVal .. | .cqMrow .. | .cqMbits .. | .cqRegion .. | .cqSquash .. | .go .. | .rim .. | .jend .. |
    .texit .. | .barw .. | .bara .. | .evs .. | .evw .. | .restart .. | .sysr .. | .sysw .. | .trap .. | .brk .. | .tret .. | .ctlNop .. | .nfence ..
    | .nstat .. | .twWait .. | .twWaitTry .. | .mgRd .. | .gnfy .. | .neQpOpen .. | .neQpClose .. | .neQpRd .. | .nePost .. | .nePostRx .. | .neArm ..
    | .neCtrRd .. | .neCtrSet .. | .neCtrAdd .. | .neCwait .. | .nePoll .. | .smCtxOpen .. | .smCtxClose .. | .smCtxReset .. | .smCtxRd .. | .smProg
    .. | .smStart .. | .smCancel .. | .smWait .. | .smWaitTry .. | .dbgHalt .. | .dbgStep .. | .dbgResume .. | .dbgRdc .. | .dbgBp .. | .dbgClr .. |
    .qmap .. | .qunmap .. | .qstat .. | .mgCfgOpen .. | .mgCfgFree .. => .cR
  | .addi .. | .andi .. | .ori .. | .xori .. | .slti .. | .shli .. | .shri .. | .srai .. | .phase .. | .beq .. | .bne .. | .blt .. | .bge .. | .bltu
    .. | .bgeu .. => .cI
  | .j .. | .call .. => .cJ
  | .li .. | .lih .. | .ffma .. | .ld .. | .st .. | .atom .. | .cas .. | .tspawn .. | .trkArm .. | .ncmd .. | .twList .. | .twHash .. | .twKvb .. |
    .twTree .. | .twRwalk .. | .gld .. | .gst .. | .gatom .. | .qcast .. | .rstAdd .. | .rstMax .. | .launch .. => .cW
  | .vadd .. | .vsub .. | .vmul .. | .vfma .. | .vmin .. | .vmax .. | .vand .. | .vor .. | .vxor .. | .vnot .. | .vshl .. | .vshr .. | .vsra .. |
    .vcmp .. | .vsel .. | .vcvt .. | .vexp2 .. | .vlog2 .. | .vrcp .. | .vrsq .. | .vrotr .. | .vrotc .. | .vbcr .. | .vbcc .. | .vredr .. | .vredc ..
    | .acvt .. | .vkmovToMask .. | .vkmovToVector .. => .dR
  | .vld .. | .vst .. => .dM
  | .vldr .. | .vstr .. | .vchain .. | .mfill .. | .mdrain .. | .cpFill .. | .cpDrain .. | .cpTr .. => .dG
  | .cpLin .. | .cp2d .. | .cpGth .. | .cpSct .. | .cpSet .. | .cpRcopy .. => .dX
  | .dataNop .. | .dataRim .. | .dataRegion .. | .vloopQ .. | .vwhileQ .. | .vifQ .. | .vvalQ .. | .vmaskQ .. | .vxset .. | .vxadd .. | .mloopQ .. |
    .mwhileQ .. | .mifQ .. | .mvalQ .. | .mxset .. | .mxadd .. | .cpLoopQ .. | .cpWhileQ .. | .cpIfQ .. | .cpValQ .. | .cpXset .. | .cpXadd .. =>
    .dShared
  | .vmovi .. | .vkopAnd .. | .vkopOr .. | .vkopXor .. | .vkopAndn .. | .vkopNot .. | .vkopSet .. | .vkopClr .. | .mma .. | .mclaim .. | .mrelease ..
    | .mzero .. => .dOther
  | .nld .. | .nst .. | .nadd .. | .nsub .. | .nmul .. | .nfma .. | .nmax .. | .nmin .. | .ncmp .. | .nsel .. | .nexp2 .. | .ncvt .. | .nmov .. |
    .nbcst .. | .nredmax .. | .nredsum .. | .nlogic .. | .nset .. | .nloop .. | .nloop2 .. | .nemit .. | .nend .. | .naddr .. => .nmu
  | .smLd .. | .smSt .. | .smLi .. | .smMov .. | .smAdd .. | .smSub .. | .smCmp .. | .smMax .. | .smDiv .. | .smExp .. | .smSum .. | .smTopk .. |
    .smTopp .. | .smTemp .. | .smRng .. | .smDraw .. | .smTree .. | .smAcc .. | .smEmit .. | .smBr .. | .smBz .. | .smEnd .. => .sampler
  | _ => .none

/-- A word of format C-R decodes to what its fields parse to. -/
theorem decodeBytes_wR {i : Instr} {h : CHdr} {op fn rb ra rd : Nat} (hwf : wellFormed i = true) (he : encode i = ctl h (wR op fn rb ra rd))
    (hb : op < 128 ∧ fn < 16 ∧ rb < 64 ∧ ra < 64 ∧ rd < 64) (hp : ∀ w, FieldsR w op fn rb ra rd → parseControl32 h w = some i) :
    decodeBytes (encodeBytes i) = some i := by
  obtain ⟨hop, hfn, hrb, hra, hrd⟩ := hb
  have := bit_le_one h.l
  exact decodeBytes_ctl hwf he (wR_mod_eight ..) (wR_lt hop hfn hrb hra hrd) (hp _ (fieldsR_of_wR hop hfn hrb hra hrd (by omega)))

/-- A word of format C-I or C-B decodes to what its fields parse to. -/
theorem decodeBytes_wI {i : Instr} {h : CHdr} {op imm ra rd : Nat} (hwf : wellFormed i = true) (he : encode i = ctl h (wI op imm ra rd))
    (hb : op < 128 ∧ imm < 1024 ∧ ra < 64 ∧ rd < 64) (hp : ∀ w, FieldsI w op imm ra rd → parseControl32 h w = some i) :
    decodeBytes (encodeBytes i) = some i := by
  obtain ⟨hop, himm, hra, hrd⟩ := hb
  have := bit_le_one h.l
  exact decodeBytes_ctl hwf he (wI_mod_eight ..) (wI_lt hop himm hra hrd) (hp _ (fieldsI_of_wI hop himm hra hrd (by omega)))

/-- A word of format C-J decodes to what its fields parse to. -/
theorem decodeBytes_wJ {i : Instr} {h : CHdr} {op off : Nat} (hwf : wellFormed i = true) (he : encode i = ctl h (wJ op off))
    (hb : op < 128 ∧ off < 2 ^ 22) (hp : ∀ w, FieldsJ w op off → parseControl32 h w = some i) : decodeBytes (encodeBytes i) = some i := by
  obtain ⟨hop, hoff⟩ := hb
  have := bit_le_one h.l
  exact decodeBytes_ctl hwf he (wJ_mod_eight ..) (wJ_lt hop hoff) (hp _ (fieldsJ_of_wJ hop hoff (by omega)))

/-- A word of format C-W decodes to what its fields and its second word parse to. -/
theorem decodeBytes_wW {i : Instr} {h : CHdr} {op fn rb ra rd imm : Nat} (hwf : wellFormed i = true) (he : encode i = ctlW h (wR op fn rb ra rd) imm)
    (hb : op < 128 ∧ fn < 16 ∧ rb < 64 ∧ ra < 64 ∧ rd < 64 ∧ imm < 2 ^ 32)
    (hp : ∀ w, FieldsR w op fn rb ra rd → parseControl64 h w imm = some i) :
    decodeBytes (encodeBytes i) = some i := by
  obtain ⟨hop, hfn, hrb, hra, hrd, himm⟩ := hb
  have := bit_le_one h.l
  exact decodeBytes_ctlW hwf he (wR_mod_eight ..) (wR_lt hop hfn hrb hra hrd) himm (hp _ (fieldsR_of_wR hop hfn hrb hra hrd (by omega)))

/-! Fields that share a place of a word (R201, R204, R354). -/

theorem sizeField {sx : Bool} {size : Nat} (h : size < 8) :
    ((8 * bit sx + size) / 8 == 1) = sx ∧ (8 * bit sx + size) % 8 = size ∧ 8 * bit sx + size < 16 := by
  have := bit_le_one sx
  exact ⟨beq_one_of_eq_bit (by omega), by omega, by omega⟩

theorem offsetField {cs : Bool} {swz off : Nat} (hs : swz < 8) (ho : off < 2 ^ 28) :
    ((2 ^ 31 * bit cs + 2 ^ 28 * swz + off) / 2 ^ 31 == 1) = cs ∧ (2 ^ 31 * bit cs + 2 ^ 28 * swz + off) / 2 ^ 28 % 8 = swz ∧
    (2 ^ 31 * bit cs + 2 ^ 28 * swz + off) % 2 ^ 28 = off ∧ 2 ^ 31 * bit cs + 2 ^ 28 * swz + off < 2 ^ 32 := by
  have := bit_le_one cs
  exact ⟨beq_one_of_eq_bit (by omega), by omega, by omega, by omega⟩

theorem shiftField {imm m sh : Nat} (himm : imm = m + sh) (hm : m % 256 = 0) (h : sh < 64) : imm / 256 = m / 256 ∧ imm / 64 % 4 = 0 ∧ imm % 64 = sh := by
  omega

theorem slotField {mem : Bool} {slot : Nat} (h : slot < 32) :
    (32 * bit mem + slot) / 64 = 0 ∧ ((32 * bit mem + slot) / 32 == 1) = mem ∧ (32 * bit mem + slot) % 32 = slot ∧ 32 * bit mem + slot < 2 ^ 32 := by
  have := bit_le_one mem
  exact ⟨by omega, beq_one_of_eq_bit (by omega), by omega, by omega⟩

/-! One theorem a format: the hypothesis on the format closes the constructors of the others. -/

theorem decodeBytes_of_cR {i : Instr} (hf : wordFormat i = .cR) (hwf : wellFormed i = true) : decodeBytes (encodeBytes i) = some i := by
  have hb := hwf
  cases i
  all_goals try (cases hf; done)
  all_goals simp only [wellFormed, g6, Bool.and_eq_true, decide_eq_true_eq, bne_iff_ne] at hb
  case fadd h f d a b | fsub h f d a b | fmul h f d a b | fmin h f d a b | fmax h f d a b | fdiv h f d a b | feq h f d a b | flt h f d a b | fle h f d a b |
      fsqrt h f d a =>
    obtain rfl | rfl | rfl : f = 0 ∨ f = 1 ∨ f = 2 := by omega
    all_goals
      refine decodeBytes_wR hwf rfl (by omega) fun w ⟨hop, hfn, hrb, hra, hrd⟩ => ?_
      unfold parseControl32
      rw [hop, hfn, hrb, hra, hrd]
      rfl
  case mgCfgOpen h d a =>
    refine decodeBytes_wR hwf rfl (by omega) fun w ⟨hop, hfn, hrb, hra, hrd⟩ => ?_
    simp only [parseControl32, hop, hfn, hrb, hra, hrd, beq_self_eq_true, if_true, zeros, beq_iff_eq, hb.2, if_false]
  all_goals
    refine decodeBytes_wR hwf rfl (by omega) fun w ⟨hop, hfn, hrb, hra, hrd⟩ => ?_
    unfold parseControl32
    rw [hop, hfn, hrb, hra, hrd]
    rfl

theorem decodeBytes_of_cI {i : Instr} (hf : wordFormat i = .cI) (hwf : wellFormed i = true) : decodeBytes (encodeBytes i) = some i := by
  have hb := hwf
  cases i
  all_goals try (cases hf; done)
  all_goals simp only [wellFormed, g6, Bool.and_eq_true, decide_eq_true_eq] at hb
  case shli h d a sh | shri h d a sh | srai h d a sh =>
    refine decodeBytes_wI hwf rfl (by omega) fun w ⟨hop, himm, hra, hrd⟩ => ?_
    obtain ⟨hkind, hzero, hsh⟩ := shiftField himm rfl (by omega)
    simp only [parseControl32, hop, hra, hrd, hkind, hzero, hsh]
    rfl
  all_goals
    refine decodeBytes_wI hwf rfl (by omega) fun w ⟨hop, himm, hra, hrd⟩ => ?_
    unfold parseControl32
    rw [hop, himm, hra, hrd]
    rfl

theorem decodeBytes_of_cJ {i : Instr} (hf : wordFormat i = .cJ) (hwf : wellFormed i = true) : decodeBytes (encodeBytes i) = some i := by
  have hb := hwf
  cases i
  all_goals try (cases hf; done)
  all_goals
    simp only [wellFormed, Bool.and_eq_true, decide_eq_true_eq] at hb
    refine decodeBytes_wJ hwf rfl (by omega) fun w ⟨hop, hoff⟩ => ?_
    unfold parseControl32
    rw [hop, hoff]
    rfl

theorem decodeBytes_of_cW {i : Instr} (hf : wordFormat i = .cW) (hwf : wellFormed i = true) : decodeBytes (encodeBytes i) = some i := by
  have hb := hwf
  cases i
  all_goals try (cases hf; done)
  all_goals simp only [wellFormed, g6, Bool.and_eq_true, decide_eq_true_eq, Bool.or_eq_true, beq_iff_eq] at hb
  case ld h sx size d a cs swz off =>
    obtain ⟨hsx, hsize, hfnlt⟩ := sizeField (sx := sx) (size := size) (by omega)
    obtain ⟨hcs, hswz, hoff, hlt⟩ := offsetField (cs := cs) (swz := swz) (off := off) (by omega) (by omega)
    refine decodeBytes_wW hwf rfl (by omega) fun w ⟨hop, hfn, hrb, hra, hrd⟩ => ?_
    simp only [parseControl64, hop, hfn, hrb, hra, hrd, hsx, hsize, hcs, hswz, hoff]
    rfl
  case st h size a b cs swz off =>
    obtain ⟨hcs, hswz, hoff, hlt⟩ := offsetField (cs := cs) (swz := swz) (off := off) (by omega) (by omega)
    refine decodeBytes_wW hwf rfl (by omega) fun w ⟨hop, hfn, hrb, hra, hrd⟩ => ?_
    simp only [parseControl64, hop, hfn, hrb, hra, hrd, hcs, hswz, hoff]
    rfl
  case gld h sx size d a off =>
    obtain ⟨hsx, hsize, hfnlt⟩ := sizeField (sx := sx) (size := size) (by omega)
    refine decodeBytes_wW hwf rfl (by omega) fun w ⟨hop, hfn, hrb, hra, hrd⟩ => ?_
    simp only [parseControl64, hop, hfn, hrb, hra, hrd, hsx, hsize]
    rfl
  case twList h fn a b mem slot | twHash h fn a b mem slot | twKvb h fn a b mem slot | twTree h fn a b mem slot | twRwalk h fn a b mem slot =>
    obtain ⟨hzero, hmem, hslot, hlt⟩ := slotField (mem := mem) (slot := slot) (by omega)
    refine decodeBytes_wW hwf rfl (by omega) fun w ⟨hop, hfn, hrb, hra, hrd⟩ => ?_
    simp only [parseControl64, hop, hfn, hrb, hra, hrd, hzero, hmem, hslot]
    rfl
  all_goals
    refine decodeBytes_wW hwf rfl (by omega) fun w ⟨hop, hfn, hrb, hra, hrd⟩ => ?_
    unfold parseControl64
    rw [hop, hfn, hrb, hra, hrd]
    rfl

end Sys2Proof.Machine
end

section
/-! PROOF. A data word is decoded from its own encoding (R57 to R64). -/

namespace Sys2Proof.Machine

open Sys2Proof

/-! The header and the fields of a data word. -/

/-- The fields of a layout stand in bits 18 to 63 of a data word, and p holds of every word that has them there. -/
def layoutHas (fields : Nat) (p : Nat → Prop) : Prop := fields % 2 ^ 18 = 0 ∧ fields < 2 ^ 64 ∧ ∀ w, w / 2 ^ 18 = fields / 2 ^ 18 → p w

theorem dataWord_of_dw {h : DHdr} {op fields : Nat} (hh : h.fits = true) (hop : op < 64) (hf : fields % 2 ^ 18 = 0) (hlt : fields < 2 ^ 64) :
    ∃ w, w < 2 ^ 64 ∧ dw h op fields = halves w ∧ parseDHdr w = h ∧ fld w 11 1 = 0 ∧ fld w 12 6 = op ∧ w / 2 ^ 18 = fields / 2 ^ 18 := by
  obtain ⟨k, idle⟩ := h
  have hidle : idle < 1024 := of_decide_eq_true hh
  have hk := bit_le_one k
  refine ⟨idle + 2 ^ 10 * bit k + 2 ^ 12 * op + fields, by omega, rfl, ?_, ?_, ?_, ?_⟩
  · simp only [parseDHdr, DHdr.mk.injEq]
    refine ⟨beq_one_of_eq_bit ?_, ?_⟩ <;> simp only [fld] <;> omega
  · simp only [fld]; omega
  · simp only [fld]; omega
  · omega

/-- A data word decodes, in strand e, to what its header, opcode and fields decode to. -/
theorem decodeData_of_fields {e : Nat} {i : Instr} {h : DHdr} {op fields : Nat} (he : encode i = dw h op fields) (hh : h.fits = true) (hop : op < 64)
    {p : Nat → Prop} (hf : layoutHas fields p)
    (hp : ∀ w, parseDHdr w = h → fld w 11 1 = 0 → fld w 12 6 = op → p w → decodeData e w = some i) :
    decodeData e (numOfBytes 8 (encodeBytes i)) = some i := by
  obtain ⟨hmod, hlt, hread⟩ := hf
  obtain ⟨w, hw, hdw, hhdr, hres, hop, hrest⟩ := dataWord_of_dw hh hop hmod hlt
  rw [encodeBytes, he, hdw, numOfBytes_halves hw]
  exact hp w hhdr hres hop (hread w hrest)

theorem keepWellFormed_some {o : Option Instr} {i : Instr} (ho : o = some i) (hwf : wellFormed i = true) : keepWellFormed o = some i := by
  simp [keepWellFormed, ho, hwf]

theorem decodeData_vector {w : Nat} {i : Instr} (hp : parseVector w = some i) (hwf : wellFormed i = true) : decodeData 1 w = some i :=
  keepWellFormed_some hp hwf

theorem decodeData_matrix {w : Nat} {i : Instr} (hp : parseMatrix w = some i) (hwf : wellFormed i = true) : decodeData 2 w = some i :=
  keepWellFormed_some hp hwf

theorem decodeData_copy {w : Nat} {i : Instr} (hp : parseCopy w = some i) (hwf : wellFormed i = true) : decodeData 3 w = some i :=
  keepWellFormed_some hp hwf

/-! The layouts of the fields, read back (R58 to R60, R231, R301). -/

theorem layout_DR {fn : Nat} {r : DR} (hr : r.fits = true) (hfn : fn < 32) : layoutHas (wDR fn r) fun w => parseDR w = r ∧ fld w 59 5 = fn := by
  obtain ⟨ftz, sat, view, rm, men, km, vb, va, vd⟩ := r
  simp only [DR.fits, maskFits, Bool.and_eq_true, decide_eq_true_eq] at hr
  have := bit_le_one ftz
  have := bit_le_one sat
  have := bit_le_one men
  simp only [layoutHas, wDR]
  refine ⟨by omega, by omega, fun w h => ⟨?_, by simp only [fld]; omega⟩⟩
  simp only [parseDR, DR.mk.injEq]
  refine ⟨beq_one_of_eq_bit ?_, beq_one_of_eq_bit ?_, ?_, ?_, beq_one_of_eq_bit ?_, ?_, ?_, ?_, ?_⟩ <;> simp only [fld] <;> omega

theorem layout_DM {n : Nat} {m : DM} (hm : m.fits n = true) (hn : n ≤ 16) : layoutHas (wDM m) fun w => parseDM w = m := by
  obtain ⟨fn, off, men, km, lat, pi, lc, swz, xa, reg⟩ := m
  simp only [DM.fits, maskFits, x5, Bool.and_eq_true, decide_eq_true_eq] at hm
  have := bit_le_one men
  have := bit_le_one pi
  simp only [layoutHas, wDM]
  refine ⟨by omega, by omega, fun w h => ?_⟩
  simp only [parseDM, DM.mk.injEq]
  refine ⟨?_, ?_, beq_one_of_eq_bit ?_, ?_, ?_, beq_one_of_eq_bit ?_, ?_, ?_, ?_, ?_⟩ <;> simp only [fld] <;> omega

theorem layout_DG {fn : Nat} {g : DG} (hg : g.fits = true) (hfn : fn < 2 ^ 11) : layoutHas (wDG fn g) fun w => parseDG w = g ∧ w / 2 ^ 53 = fn := by
  obtain ⟨swz, men, km, cnt, ring, reg⟩ := g
  simp only [DG.fits, maskFits, x5, Bool.and_eq_true, decide_eq_true_eq] at hg
  have := bit_le_one men
  simp only [layoutHas, wDG]
  refine ⟨by omega, by omega, fun w h => ⟨?_, by omega⟩⟩
  simp only [parseDG, DG.mk.injEq]
  refine ⟨?_, beq_one_of_eq_bit ?_, ?_, ?_, ?_, ?_⟩ <;> simp only [fld] <;> omega

theorem layout_DX {x : DX} (hx : x.fits = true) : layoutHas (wDX x) fun w => parseDX w = x ∧ w / 2 ^ 62 = 0 := by
  obtain ⟨cen, scope, dsp, ssp, xb, xn, xs, xd⟩ := x
  simp only [DX.fits, x5, Bool.and_eq_true, decide_eq_true_eq] at hx
  have := bit_le_one cen
  simp only [layoutHas, wDX]
  refine ⟨by omega, by omega, fun w h => ⟨?_, by omega⟩⟩
  simp only [parseDX, DX.mk.injEq]
  refine ⟨beq_one_of_eq_bit ?_, ?_, ?_, ?_, ?_, ?_, ?_, ?_⟩ <;> simp only [fld] <;> omega

theorem layout_mma {m : DMma} (hm : m.fits = true) : layoutHas (wMma m) fun w => parseMma w = m := by
  obtain ⟨fus, fmt, zc, aq, scb, bc, bof, ac, aof, rb, ra, ad⟩ := m
  simp only [DMma.fits, x5, Bool.and_eq_true, decide_eq_true_eq] at hm
  have := bit_le_one zc
  have := bit_le_one bc
  have := bit_le_one ac
  simp only [layoutHas, wMma]
  refine ⟨by omega, by omega, fun w h => ?_⟩
  simp only [parseMma, DMma.mk.injEq]
  refine ⟨?_, ?_, beq_one_of_eq_bit ?_, ?_, ?_, beq_one_of_eq_bit ?_, ?_, beq_one_of_eq_bit ?_, ?_, ?_, ?_, ?_⟩ <;> simp only [fld] <;> omega

/-- A strand that has the word (R61, R64): 1 vector, 2 matrix, 3 copy; of a word that every strand has, the first. -/
def strandOf (i : Instr) : Nat :=
  match i with
  | .mloopQ .. | .mwhileQ .. | .mifQ .. | .mvalQ .. | .mxset .. | .mxadd .. | .mma .. | .mclaim .. | .mrelease .. | .mzero .. | .mfill .. | .mdrain .. => 2
  | .cpLoopQ .. | .cpWhileQ .. | .cpIfQ .. | .cpValQ .. | .cpXset .. | .cpXadd .. | .cpLin .. | .cp2d .. | .cpGth .. | .cpSct .. | .cpSet ..
  | .cpRcopy .. | .cpFill .. | .cpDrain .. | .cpTr .. => 3
  | _ => 1

/-- A data word is decoded from its encoding by a strand that has it. -/
def dataDecodes (i : Instr) : Prop := decodeData (strandOf i) (numOfBytes 8 (encodeBytes i)) = some i

theorem dataDecodes_of_dR {i : Instr} (hf : wordFormat i = .dR) (hwf : wellFormed i = true) : dataDecodes i := by
  have hb := hwf
  cases i
  all_goals try (cases hf; done)
  all_goals
    simp only [wellFormed, DR.arith, DR.raw, DR.special, Bool.and_eq_true, decide_eq_true_eq] at hb
    refine decodeData_of_fields rfl (by simp only [hb]) (by decide) (layout_DR (by simp only [hb]) (by omega)) fun w hhdr hres hop ⟨hdr, hfn⟩ =>
      decodeData_vector ?_ hwf
    unfold parseVector
    rw [hhdr, hres, hop, hdr, hfn]
    rfl

theorem dataDecodes_of_dM {i : Instr} (hf : wordFormat i = .dM) (hwf : wellFormed i = true) : dataDecodes i := by
  have hb := hwf
  cases i
  all_goals try (cases hf; done)
  all_goals
    simp only [wellFormed, Bool.and_eq_true] at hb
    refine decodeData_of_fields rfl hb.1 (by decide) (layout_DM hb.2 (by decide)) fun w hhdr hres hop hdm => decodeData_vector ?_ hwf
    unfold parseVector
    rw [hhdr, hres, hop, hdm]
    rfl

theorem dataDecodes_of_dX {i : Instr} (hf : wordFormat i = .dX) (hwf : wellFormed i = true) : dataDecodes i := by
  have hb := hwf
  cases i
  all_goals try (cases hf; done)
  all_goals
    simp only [wellFormed, DX.localSides, Bool.and_eq_true] at hb
    refine decodeData_of_fields rfl (by simp only [hb]) (by decide) (layout_DX (by simp only [hb])) fun w hhdr hres hop ⟨hdx, hzero⟩ =>
      decodeData_copy ?_ hwf
    unfold parseCopy
    rw [hhdr, hres, hop, hdx, hzero]
    rfl

/-! The words that every strand has (R61, R62). -/

theorem layout_len {n : Nat} (hn : n < 2 ^ 46) : layoutHas (2 ^ 18 * n) fun w => w / 2 ^ 18 = n :=
  ⟨by omega, by omega, fun w h => by omega⟩

theorem layout_reg {x : Nat} (hx : x < 2 ^ 37) : layoutHas (2 ^ 27 * x) fun w => fld w 18 9 = 0 ∧ w / 2 ^ 27 = x :=
  ⟨by omega, by omega, fun w h => by simp only [fld]; omega⟩

theorem layout_xset {xd src val : Nat} (hxd : xd < 512) (hsrc : src < 8) (hval : val < 2 ^ 25) : layoutHas (2 ^ 27 * xd + 2 ^ 36 * src + 2 ^ 39 * val)
    fun w => fld w 18 9 = 0 ∧ fld w 27 9 = xd ∧ fld w 36 3 = src ∧ w / 2 ^ 39 = val :=
  ⟨by omega, by omega, fun w h => by simp only [fld]; omega⟩

theorem layout_xadd {xa xd imm : Nat} (hxa : xa < 512) (hxd : xd < 512) (himm : imm < 2 ^ 28) : layoutHas (2 ^ 18 * xa + 2 ^ 27 * xd + 2 ^ 36 * imm)
    fun w => fld w 18 9 = xa ∧ fld w 27 9 = xd ∧ w / 2 ^ 36 = imm :=
  ⟨by omega, by omega, fun w h => by simp only [fld]; omega⟩

theorem dataDecodes_of_dShared {i : Instr} (hf : wordFormat i = .dShared) (hwf : wellFormed i = true) : dataDecodes i := by
  have hb := hwf
  cases i
  all_goals try (cases hf; done)
  all_goals simp only [wellFormed, x5, Bool.and_eq_true, decide_eq_true_eq, beq_iff_eq] at hb
  case dataNop | dataRim =>
    refine decodeData_of_fields rfl hb (by decide) (layout_len (n := 0) (by decide)) fun w hhdr hres hop hlen => decodeData_vector ?_ hwf
    unfold parseVector
    rw [hhdr, hres, hop, hlen]
    rfl
  case dataRegion | vloopQ | vwhileQ | vifQ | mloopQ | mwhileQ | mifQ | cpLoopQ | cpWhileQ | cpIfQ =>
    refine decodeData_of_fields rfl (by simp only [hb]) (by decide) (layout_len (by omega)) fun w hhdr hres hop hlen => ?_
    first
      | refine decodeData_vector ?_ hwf; unfold parseVector
      | refine decodeData_matrix ?_ hwf; unfold parseMatrix
      | refine decodeData_copy ?_ hwf; unfold parseCopy
    rw [hhdr, hres, hop, hlen]
    rfl
  case vvalQ | vmaskQ | mvalQ | cpValQ =>
    refine decodeData_of_fields rfl hb.1 (by decide) (layout_reg (by omega)) fun w hhdr hres hop ⟨hzero, hreg⟩ => ?_
    first
      | refine decodeData_vector ?_ hwf; unfold parseVector
      | refine decodeData_matrix ?_ hwf; unfold parseMatrix
      | refine decodeData_copy ?_ hwf; unfold parseCopy
    rw [hhdr, hres, hop, hzero, hreg]
    rfl
  case vxset h xd src val | mxset h xd src val | cpXset h xd src val =>
    have hval : val < 2 ^ 25 := by
      obtain ⟨-, hv⟩ := hb
      split at hv
      · exact of_decide_eq_true hv
      · have := of_decide_eq_true hv; omega
    refine decodeData_of_fields rfl (by simp only [hb]) (by decide) (layout_xset (by omega) (by omega) hval)
      fun w hhdr hres hop ⟨hzero, hxd, hsrc, hval⟩ => ?_
    first
      | refine decodeData_vector ?_ hwf; unfold parseVector
      | refine decodeData_matrix ?_ hwf; unfold parseMatrix
      | refine decodeData_copy ?_ hwf; unfold parseCopy
    rw [hhdr, hres, hop, hzero, hxd, hsrc, hval]
    rfl
  case vxadd | mxadd | cpXadd =>
    refine decodeData_of_fields rfl (by simp only [hb]) (by decide) (layout_xadd (by omega) (by omega) (by omega))
      fun w hhdr hres hop ⟨hxa, hxd, himm⟩ => ?_
    first
      | refine decodeData_vector ?_ hwf; unfold parseVector
      | refine decodeData_matrix ?_ hwf; unfold parseMatrix
      | refine decodeData_copy ?_ hwf; unfold parseCopy
    rw [hhdr, hres, hop, hxa, hxd, himm]
    rfl

/-! The words with fields in front of format D-G (R60, R239, R304, R307). -/

theorem dataDecodes_of_dG {i : Instr} (hf : wordFormat i = .dG) (hwf : wellFormed i = true) : dataDecodes i := by
  have hb := hwf
  cases i
  all_goals try (cases hf; done)
  all_goals simp only [wellFormed, DG.unmasked, fmtPair, Bool.and_eq_true, decide_eq_true_eq] at hb
  case vldr | vstr =>
    refine decodeData_of_fields rfl hb.1 (by decide) (layout_DG hb.2 (by decide)) fun w hhdr hres hop ⟨hdg, hfn⟩ => decodeData_vector ?_ hwf
    have hfn : fld w 53 11 = 0 := by simp only [fld]; omega
    unfold parseVector
    rw [hhdr, hres, hop, hdg, hfn]
    rfl
  case vchain h vp g =>
    refine decodeData_of_fields rfl (by simp only [hb]) (by decide) (layout_DG (by simp only [hb]) (by omega)) fun w hhdr hres hop ⟨hdg, hfn⟩ =>
      decodeData_vector ?_ hwf
    have hzero : fld w 53 2 = 0 := by simp only [fld]; omega
    have hvp : fld w 55 9 = vp := by simp only [fld]; omega
    unfold parseVector
    rw [hhdr, hres, hop, hdg, hzero, hvp]
    rfl
  case mfill h sf g =>
    refine decodeData_of_fields rfl (by simp only [hb]) (by decide) (layout_DG (by simp only [hb]) (by omega)) fun w hhdr hres hop ⟨hdg, hfn⟩ =>
      decodeData_matrix ?_ hwf
    have hzero : fld w 53 8 = 0 := by simp only [fld]; omega
    have hsf : fld w 61 3 = sf := by simp only [fld]; omega
    unfold parseMatrix
    rw [hhdr, hres, hop, hdg, hzero, hsf]
    rfl
  case mdrain h df rm clr sat g =>
    have := bit_le_one clr
    have := bit_le_one sat
    refine decodeData_of_fields rfl (by simp only [hb]) (by decide) (layout_DG (by simp only [hb]) (by omega)) fun w hhdr hres hop ⟨hdg, hfn⟩ =>
      decodeData_matrix ?_ hwf
    have hzero : fld w 53 3 = 0 := by simp only [fld]; omega
    have hdf : fld w 61 3 = df := by simp only [fld]; omega
    have hrm : fld w 58 3 = rm := by simp only [fld]; omega
    have hclr : (fld w 57 1 == 1) = clr := beq_one_of_eq_bit (by simp only [fld]; omega)
    have hsat : (fld w 56 1 == 1) = sat := beq_one_of_eq_bit (by simp only [fld]; omega)
    unfold parseMatrix
    rw [hhdr, hres, hop, hdg, hzero, hdf, hrm, hclr, hsat]
    rfl
  case cpFill h sf df rl lc g | cpDrain h sf df rl lc g =>
    refine decodeData_of_fields rfl (by simp only [hb]) (by decide) (layout_DG (by simp only [hb]) (by omega)) fun w hhdr hres hop ⟨hdg, hfn⟩ =>
      decodeData_copy ?_ hwf
    have hsf : fld w 61 3 = sf := by simp only [fld]; omega
    have hdf : fld w 58 3 = df := by simp only [fld]; omega
    have hrl : fld w 55 3 = rl := by simp only [fld]; omega
    have hlc : fld w 53 2 = lc := by simp only [fld]; omega
    unfold parseCopy
    rw [hhdr, hres, hop, hdg, hsf, hdf, hrl, hlc]
    rfl
  case cpTr h ew g =>
    refine decodeData_of_fields rfl (by simp only [hb]) (by decide) (layout_DG (by simp only [hb]) (by omega)) fun w hhdr hres hop ⟨hdg, hfn⟩ =>
      decodeData_copy ?_ hwf
    have hzero : fld w 53 8 = 0 := by simp only [fld]; omega
    have hew : fld w 61 3 = ew := by simp only [fld]; omega
    unfold parseCopy
    rw [hhdr, hres, hop, hdg, hzero, hew]
    rfl

/-! The layouts of single engines: masks (R290), an immediate (R276), and the matrix words (R301 to R306). -/

theorem layout_movi {imm km vd : Nat} {men : Bool} (himm : imm < 2 ^ 32) (hkm : km < 16) (hvd : vd < 512) :
    layoutHas (2 ^ 18 * vd + 2 ^ 27 * km + 2 ^ 31 * bit men + 2 ^ 32 * imm)
      fun w => fld w 32 32 = imm ∧ (fld w 31 1 == 1) = men ∧ fld w 27 4 = km ∧ fld w 18 9 = vd := by
  have := bit_le_one men
  refine ⟨by omega, by omega, fun w h => ⟨?_, beq_one_of_eq_bit ?_, ?_, ?_⟩⟩ <;> simp only [fld] <;> omega

/-- Three register fields, the bits [58:45] zero, and FN. -/
theorem layout_three {fields fn d a b : Nat} (hfn : fn < 32) (hd : d < 512) (ha : a < 512) (hb : b < 512)
    (he : fields = 2 ^ 18 * d + 2 ^ 27 * a + 2 ^ 36 * b + 2 ^ 59 * fn) :
    layoutHas fields fun w => fld w 18 9 = d ∧ fld w 27 9 = a ∧ fld w 36 9 = b ∧ fld w 45 14 = 0 ∧ fld w 59 5 = fn := by
  subst he
  exact ⟨by omega, by omega, fun w h => by simp only [fld]; omega⟩

/-- One register field and FN. -/
theorem layout_one {fn d : Nat} (hfn : fn < 32) (hd : d < 512) :
    layoutHas (2 ^ 18 * d + 2 ^ 59 * fn) fun w => fld w 18 9 = d ∧ fld w 27 9 = 0 ∧ fld w 36 9 = 0 ∧ fld w 45 14 = 0 ∧ fld w 59 5 = fn :=
  layout_three hfn hd (by decide) (by decide) (by omega)

theorem dataDecodes_of_dOther {i : Instr} (hf : wordFormat i = .dOther) (hwf : wellFormed i = true) : dataDecodes i := by
  have hb := hwf
  cases i
  all_goals try (cases hf; done)
  all_goals simp only [wellFormed, x5, maskFits, Bool.and_eq_true, decide_eq_true_eq] at hb
  case vmovi =>
    refine decodeData_of_fields rfl (by simp only [hb]) (by decide) (layout_movi (by omega) (by omega) (by omega))
      fun w hhdr hres hop ⟨himm, hmen, hkm, hvd⟩ => decodeData_vector ?_ hwf
    unfold parseVector
    rw [hhdr, hres, hop, himm, hmen, hkm, hvd]
    rfl
  case mma =>
    refine decodeData_of_fields rfl hb.1 (by decide) (layout_mma hb.2) fun w hhdr hres hop hmma => decodeData_matrix ?_ hwf
    unfold parseMatrix
    rw [hhdr, hres, hop, hmma]
    rfl
  case mclaim h ring cnt | mrelease h ring cnt =>
    refine decodeData_of_fields rfl (by simp only [hb]) (by decide) (layout_three (fn := 0) (d := 0) (a := ring) (b := cnt) (by omega) (by omega) (by omega)
      (by omega) (by omega)) fun w hhdr hres hop ⟨hzero, hring, hcnt, hrest, hfn⟩ => decodeData_matrix ?_ hwf
    have hrest : fld w 45 19 = 0 := by simp only [fld] at *; omega
    unfold parseMatrix
    rw [hhdr, hres, hop, hzero, hring, hcnt, hrest]
    rfl
  case mzero h int vd n =>
    have := bit_le_one int
    refine decodeData_of_fields rfl (by simp only [hb]) (by decide) (layout_three (fn := bit int) (d := vd) (a := 0) (b := n) (by omega) (by omega)
      (by omega) (by omega) (by omega)) fun w hhdr hres hop ⟨hvd, hzero, hn, hrest, hfn⟩ => decodeData_matrix ?_ hwf
    have hn : fld w 36 7 = n := by simp only [fld] at *; omega
    have hrest : fld w 43 16 = 0 := by simp only [fld] at *; omega
    unfold parseMatrix
    rw [hhdr, hres, hop, hvd, hzero, hn, hrest, hfn]
    cases int <;> rfl
  case vkopAnd h kd ka kb =>
    refine decodeData_of_fields rfl (by simp only [hb]) (by decide) (layout_three (fn := 0) (d := kd) (a := ka) (b := kb) (by omega) (by omega)
      (by omega) (by omega) (by omega))
      fun w hhdr hres hop ⟨hd, ha, hb, hzero, hfn⟩ => decodeData_vector ?_ hwf
    unfold parseVector
    rw [hhdr, hres, hop, hd, ha, hb, hzero, hfn]
    rfl
  case vkopOr | vkopXor | vkopAndn =>
    refine decodeData_of_fields rfl (by simp only [hb]) (by decide) (layout_three (by omega) (by omega) (by omega) (by omega) rfl)
      fun w hhdr hres hop ⟨hd, ha, hb, hzero, hfn⟩ => decodeData_vector ?_ hwf
    unfold parseVector
    rw [hhdr, hres, hop, hd, ha, hb, hzero, hfn]
    rfl
  case vkopNot h kd ka =>
    refine decodeData_of_fields rfl (by simp only [hb]) (by decide) (layout_three (fn := 4) (d := kd) (a := ka) (b := 0) (by omega) (by omega)
      (by omega) (by omega) (by omega))
      fun w hhdr hres hop ⟨hd, ha, hb, hzero, hfn⟩ => decodeData_vector ?_ hwf
    unfold parseVector
    rw [hhdr, hres, hop, hd, ha, hb, hzero, hfn]
    rfl
  case vkopSet | vkopClr =>
    refine decodeData_of_fields rfl hb.1 (by decide) (layout_one (by omega) (by omega)) fun w hhdr hres hop ⟨hd, ha, hb, hzero, hfn⟩ =>
      decodeData_vector ?_ hwf
    unfold parseVector
    rw [hhdr, hres, hop, hd, ha, hb, hzero, hfn]
    rfl

end Sys2Proof.Machine
end

section
/-! PROOF. A word of a near-memory unit or of a sampler is decoded from its own encoding (R65 to R67). -/

namespace Sys2Proof.Machine

open Sys2Proof

/-- The fields of a word of a near-memory unit or of a sampler (R65). -/
structure FieldsN (w op d a b n : Nat) : Prop where
  op : fld w 26 6 = op
  d : fld w 21 5 = d
  a : fld w 16 5 = a
  b : fld w 11 5 = b
  n : fld w 0 11 = n

theorem fieldsN_of_nw {op d a b n : Nat} (hb : op < 64 ∧ d < 32 ∧ a < 32 ∧ b < 32 ∧ n < 2 ^ 11) :
    ∃ w, w < 2 ^ 32 ∧ nw op d a b n = [w] ∧ FieldsN w op d a b n := by
  refine ⟨_, ?_, rfl, ?_, ?_, ?_, ?_, ?_⟩
  · omega
  all_goals simp only [fld]; omega

theorem numOfBytes_encodeBytes {i : Instr} {w : Nat} (he : encode i = [w]) (hw : w < 2 ^ 32) : numOfBytes 4 (encodeBytes i) = w := by
  rw [encodeBytes, he]
  exact numOfBytes_word hw []

theorem decodeNmu_of_fields {i : Instr} {op d a b n : Nat} (he : encode i = nw op d a b n) (hwf : wellFormed i = true)
    (hb : op < 64 ∧ d < 32 ∧ a < 32 ∧ b < 32 ∧ n < 2 ^ 11) (hp : ∀ w, FieldsN w op d a b n → parseNmu w = some i) :
    decodeNmu (numOfBytes 4 (encodeBytes i)) = some i := by
  obtain ⟨w, hw, hnw, hf⟩ := fieldsN_of_nw hb
  rw [numOfBytes_encodeBytes (he.trans hnw) hw]
  exact keepWellFormed_some (hp w hf) hwf

theorem wNAr_lt {f : NAr} (hfmt : f.fmt < 4) (hrm : f.rm < 5) : wNAr f < 128 := by
  have := bit_le_one f.ftz
  have := bit_le_one f.sat
  simp only [wNAr]
  omega

theorem parseNAr_of_wNAr {n : Nat} {f : NAr} (hfmt : f.fmt < 4) (hrm : f.rm < 5) (h : n % 128 = wNAr f) : parseNAr n = f := by
  obtain ⟨sat, ftz, rm, fmt⟩ := f
  have := bit_le_one ftz
  have := bit_le_one sat
  simp only [wNAr] at h hfmt hrm
  simp only [parseNAr, NAr.mk.injEq]
  exact ⟨beq_one_of_eq_bit (by omega), beq_one_of_eq_bit (by omega), by omega, by omega⟩

theorem decodeNmu_of_nmu {i : Instr} (hf : wordFormat i = .nmu) (hwf : wellFormed i = true) : decodeNmu (numOfBytes 4 (encodeBytes i)) = some i := by
  have hb := hwf
  cases i
  all_goals try (cases hf; done)
  all_goals simp only [wellFormed, n24, NAr.fits, Bool.and_eq_true, decide_eq_true_eq] at hb
  case nld pi off d a | nst pi off d a =>
    have := bit_le_one pi
    refine decodeNmu_of_fields rfl hwf (by omega) fun w ⟨hop, hd, ha, hb, hn⟩ => ?_
    have hpi : (fld w 0 11 / 1024 == 1) = pi := beq_one_of_eq_bit (by omega)
    have hoff : fld w 0 11 % 1024 = off := by omega
    simp only [parseNmu, hop, hd, ha, hb, hpi, hoff]
    rfl
  case nadd f d a b | nsub f d a b | nmul f d a b | nfma f d a b | nredsum f d a =>
    have har := wNAr_lt (f := f) (by omega) (by omega)
    refine decodeNmu_of_fields rfl hwf (by omega) fun w ⟨hop, hd, ha, hb, hn⟩ => ?_
    have hzero : fld w 0 11 / 128 = 0 := by omega
    have hf : parseNAr (fld w 0 11) = f := parseNAr_of_wNAr (by omega) (by omega) (by omega)
    simp only [parseNmu, hop, hd, ha, hb, hzero, hf]
    rfl
  case nmax ftz fmt d a b | nmin ftz fmt d a b | nexp2 ftz fmt d a =>
    have := bit_le_one ftz
    refine decodeNmu_of_fields rfl hwf (by omega) fun w ⟨hop, hd, ha, hb, hn⟩ => ?_
    have hzero : fld w 0 11 / 64 = 0 := by omega
    have hrm : fld w 0 11 / 4 % 8 = 0 := by omega
    have hftz : (fld w 0 11 / 32 % 2 == 1) = ftz := beq_one_of_eq_bit (by omega)
    have hfmt : fld w 0 11 % 4 = fmt := by omega
    simp only [parseNmu, hop, hd, ha, hb, hzero, hrm, hftz, hfmt]
    rfl
  case ncmp rel ftz fmt d a b =>
    have := bit_le_one ftz
    refine decodeNmu_of_fields rfl hwf (by omega) fun w ⟨hop, hd, ha, hb, hn⟩ => ?_
    have hzero : fld w 0 11 / 1024 = 0 := by omega
    have hsat : fld w 0 11 / 64 % 2 = 0 := by omega
    have hrm : fld w 0 11 / 4 % 8 = 0 := by omega
    have hrel : fld w 0 11 / 128 % 8 = rel := by omega
    have hftz : (fld w 0 11 / 32 % 2 == 1) = ftz := beq_one_of_eq_bit (by omega)
    have hfmt : fld w 0 11 % 4 = fmt := by omega
    simp only [parseNmu, hop, hd, ha, hb, hzero, hsat, hrm, hrel, hftz, hfmt]
    rfl
  case ncvt half dst f d a =>
    have har := wNAr_lt (f := f) (by omega) (by omega)
    have hhalf : half < 2 := by
      obtain ⟨⟨⟨-, h⟩, -⟩, -⟩ := hb
      split at h
      · rw [beq_iff_eq.1 h]; decide
      · exact of_decide_eq_true h
    refine decodeNmu_of_fields rfl hwf (by omega) fun w ⟨hop, hd, ha, hb, hn⟩ => ?_
    have hzero : fld w 0 11 / 1024 = 0 := by omega
    have hhalf : fld w 0 11 / 512 = half := by omega
    have hdst : fld w 0 11 / 128 % 4 = dst := by omega
    have hf : parseNAr (fld w 0 11) = f := parseNAr_of_wNAr (by omega) (by omega) (by omega)
    simp only [parseNmu, hop, hd, ha, hb, hzero, hhalf, hdst, hf]
    rfl
  case nbcst fmt e d a =>
    have he : e < 64 := by
      obtain ⟨⟨⟨-, he⟩, -⟩, -⟩ := hb
      unfold nmuWidth at he
      split at he <;> omega
    refine decodeNmu_of_fields rfl hwf (by omega) fun w ⟨hop, hd, ha, hb, hn⟩ => ?_
    have hzero : fld w 0 11 / 256 = 0 := by omega
    have hfmt : fld w 0 11 % 4 = fmt := by omega
    have he : fld w 0 11 / 4 = e := by omega
    simp only [parseNmu, hop, hd, ha, hb, hzero, hfmt, he]
    rfl
  case nredmax sat ftz fmt d a =>
    have := bit_le_one sat
    have := bit_le_one ftz
    refine decodeNmu_of_fields rfl hwf (by omega) fun w ⟨hop, hd, ha, hb, hn⟩ => ?_
    have hzero : fld w 0 11 / 128 = 0 := by omega
    have hrm : fld w 0 11 / 4 % 8 = 0 := by omega
    have hsat : (fld w 0 11 / 64 % 2 == 1) = sat := beq_one_of_eq_bit (by omega)
    have hftz : (fld w 0 11 / 32 % 2 == 1) = ftz := beq_one_of_eq_bit (by omega)
    have hfmt : fld w 0 11 % 4 = fmt := by omega
    simp only [parseNmu, hop, hd, ha, hb, hzero, hrm, hsat, hftz, hfmt]
    rfl
  case nlogic fn d a b =>
    refine decodeNmu_of_fields rfl hwf (by omega) fun w ⟨hop, hd, ha, hb, hn⟩ => ?_
    have hzero : fld w 0 11 / 1024 = 0 := by omega
    have hlow : fld w 0 11 % 128 = 0 := by omega
    have hfn : fld w 0 11 / 128 = fn := by omega
    simp only [parseNmu, hop, hd, ha, hb, hzero, hlow, hfn]
    rfl
  case nset kind v d =>
    refine decodeNmu_of_fields rfl hwf (by omega) fun w ⟨hop, hd, ha, hb, hn⟩ => ?_
    have hkind : fld w 0 11 / 512 = kind := by omega
    have hv : fld w 0 11 % 512 = v := by omega
    simp only [parseNmu, hop, hd, ha, hb, hkind, hv]
    rfl
  case nloop sp len cnt | nloop2 sp len cnt =>
    have := bit_le_one sp
    refine decodeNmu_of_fields rfl hwf (by omega) fun w ⟨hop, hd, ha, hb, hn⟩ => ?_
    simp only [parseNmu, hop, hd, ha, hb, hn]
    cases sp <;> rfl
  case nemit cnt d a b =>
    refine decodeNmu_of_fields rfl hwf (by omega) fun w ⟨hop, hd, ha, hb, hn⟩ => ?_
    have hzero : cnt / 16 = 0 := by omega
    simp only [parseNmu, hop, hd, ha, hb, hn, hzero]
    rfl
  all_goals
    refine decodeNmu_of_fields rfl hwf (by omega) fun w ⟨hop, hd, ha, hb, hn⟩ => ?_
    simp only [parseNmu, hop, hd, ha, hb, hn]
    rfl

theorem decodeSampler_of_fields {o : SmOp} {op d a b n : Nat} (he : encode o.instr = nw op d a b n) (hok : o.ok = true)
    (hb : op < 64 ∧ d < 32 ∧ a < 32 ∧ b < 32 ∧ n < 2 ^ 11) (hp : ∀ w, FieldsN w op d a b n → parseSampler w = some o) :
    decodeSampler (numOfBytes 4 (encodeBytes o.instr)) = some o.instr := by
  obtain ⟨w, hw, hnw, hf⟩ := fieldsN_of_nw hb
  rw [numOfBytes_encodeBytes (he.trans hnw) hw]
  exact decodeSampler_iff.2 ⟨o, hp w hf, hok, rfl⟩

theorem decodeSampler_instr {o : SmOp} (hok : o.ok = true) : decodeSampler (numOfBytes 4 (encodeBytes o.instr)) = some o.instr := by
  have hb := hok
  cases o
  all_goals simp only [SmOp.ok, sD, s5, Bool.and_eq_true, decide_eq_true_eq] at hb
  case ld c off d a | st c off a b =>
    have := bit_le_one c
    refine decodeSampler_of_fields rfl hok (by omega) fun w ⟨hop, hd, ha, hb, hn⟩ => ?_
    have hc : (fld w 0 11 / 1024 == 1) = c := beq_one_of_eq_bit (by omega)
    have hoff : fld w 0 11 % 1024 = off := by omega
    simp only [parseSampler, hop, hd, ha, hb, hc, hoff]
    rfl
  case li f val d =>
    have := bit_le_one f
    have hw : 2 ^ 26 * 0x03 + 2 ^ 21 * d + 2 ^ 20 * bit f + val < 2 ^ 32 := by omega
    rw [numOfBytes_encodeBytes rfl hw]
    generalize hv : 2 ^ 26 * 0x03 + 2 ^ 21 * d + 2 ^ 20 * bit f + val = w
    refine decodeSampler_iff.2 ⟨.li f val d, ?_, hok, rfl⟩
    have hop : fld w 26 6 = 3 := by simp only [fld]; omega
    have hd : fld w 21 5 = d := by simp only [fld]; omega
    have hf : (fld w 20 1 == 1) = f := beq_one_of_eq_bit (by simp only [fld]; omega)
    have hval : fld w 0 20 = val := by simp only [fld]; omega
    simp only [parseSampler, hop, hd, hf, hval]
  case add f imm d a b | sub f imm d a b =>
    have := bit_le_one f
    refine decodeSampler_of_fields rfl hok (by omega) fun w ⟨hop, hd, ha, hb, hn⟩ => ?_
    have hf : (fld w 0 11 % 2 == 1) = f := beq_one_of_eq_bit (by omega)
    have himm : fld w 0 11 / 2 = imm := by omega
    simp only [parseSampler, hop, hd, ha, hb, hf, himm]
  case cmp u rel f d a b =>
    have := bit_le_one u
    have := bit_le_one f
    refine decodeSampler_of_fields rfl hok (by omega) fun w ⟨hop, hd, ha, hb, hn⟩ => ?_
    have hzero : fld w 0 11 / 32 = 0 := by omega
    have hu : (fld w 0 11 / 16 == 1) = u := beq_one_of_eq_bit (by omega)
    have hrel : fld w 0 11 / 2 % 8 = rel := by omega
    have hf : (fld w 0 11 % 2 == 1) = f := beq_one_of_eq_bit (by omega)
    simp only [parseSampler, hop, hd, ha, hb, hzero, hu, hrel, hf]
    rfl
  case max f d a b | acc f d a b | rng f d =>
    have := bit_le_one f
    refine decodeSampler_of_fields rfl hok (by omega) fun w ⟨hop, hd, ha, hb, hn⟩ => ?_
    simp only [parseSampler, hop, hd, ha, hb, hn]
    cases f <;> rfl
  case br off =>
    have hw : 2 ^ 26 * 0x14 + off < 2 ^ 32 := by omega
    rw [numOfBytes_encodeBytes rfl hw]
    generalize hv : 2 ^ 26 * 0x14 + off = w
    refine decodeSampler_iff.2 ⟨.br off, ?_, hok, rfl⟩
    have hop : fld w 26 6 = 0x14 := by simp only [fld]; omega
    have hd : fld w 21 5 = 0 := by simp only [fld]; omega
    have hoff : fld w 0 21 = off := by simp only [fld]; omega
    simp only [parseSampler, hop, hd, hoff]
    rfl
  case topk k d a b =>
    refine decodeSampler_of_fields rfl hok (by omega) fun w ⟨hop, hd, ha, hb, hn⟩ => ?_
    simp only [parseSampler, hop, hd, ha, hb, hn]
  all_goals
    refine decodeSampler_of_fields rfl hok (by omega) fun w ⟨hop, hd, ha, hb, hn⟩ => ?_
    simp only [parseSampler, hop, hd, ha, hb, hn]
    rfl

theorem decodeSampler_of_sampler {i : Instr} (hf : wordFormat i = .sampler) (hwf : wellFormed i = true) :
    decodeSampler (numOfBytes 4 (encodeBytes i)) = some i := by
  have hsome : ∃ o : SmOp, o.instr = i := by
    cases i
    all_goals try (cases hf; done)
    case smLd c off d a => exact ⟨.ld c off d a, rfl⟩
    case smSt c off a b => exact ⟨.st c off a b, rfl⟩
    case smLi f val d => exact ⟨.li f val d, rfl⟩
    case smMov d a => exact ⟨.mov d a, rfl⟩
    case smAdd f imm d a b => exact ⟨.add f imm d a b, rfl⟩
    case smSub f imm d a b => exact ⟨.sub f imm d a b, rfl⟩
    case smCmp u rel f d a b => exact ⟨.cmp u rel f d a b, rfl⟩
    case smMax f d a b => exact ⟨.max f d a b, rfl⟩
    case smDiv d a b => exact ⟨.div d a b, rfl⟩
    case smExp d a => exact ⟨.exp d a, rfl⟩
    case smSum kind d => exact ⟨.sum kind d, rfl⟩
    case smTopk k d a b => exact ⟨.topk k d a b, rfl⟩
    case smTopp d a => exact ⟨.topp d a, rfl⟩
    case smTemp d a => exact ⟨.temp d a, rfl⟩
    case smRng u d => exact ⟨.rng u d, rfl⟩
    case smDraw d a => exact ⟨.draw d a, rfl⟩
    case smTree d a => exact ⟨.tree d a, rfl⟩
    case smAcc excl d a b => exact ⟨.acc excl d a b, rfl⟩
    case smEmit a => exact ⟨.emit a, rfl⟩
    case smBr off => exact ⟨.br off, rfl⟩
    case smBz a off => exact ⟨.bz a off, rfl⟩
    case smEnd a => exact ⟨.end_ a, rfl⟩
  obtain ⟨o, rfl⟩ := hsome
  exact decodeSampler_instr ((wellFormed_instr o).symm.trans hwf)

end Sys2Proof.Machine
end

section
/-! PROOF. Every well-formed instruction is decoded from its own encoding (R45 to R68). -/

namespace Sys2Proof.Machine

open Sys2Proof

theorem strandOf_range (i : Instr) : 1 ≤ strandOf i ∧ strandOf i ≤ 3 := by
  unfold strandOf
  split <;> decide

/-- What has no format is an event, which has no words, or a word that is no instruction. -/
theorem encode_of_no_format {i : Instr} (hf : wordFormat i = .none) (hi : ∀ raw, i ≠ .illegalInstruction raw) : encode i = [] := by
  cases i
  case illegalInstruction raw => exact absurd rfl (hi raw)
  all_goals first | rfl | cases hf

/-- Settles O54, format by format: the fields of an encoding are read back, and the parse of the format's word puts them together again. -/
theorem decodingInvertsEncoding : Obligations.DecodingInvertsEncoding := by
  unfold Obligations.DecodingInvertsEncoding
  intro i hwf henc hraw
  have hdata (h : dataDecodes i) : ∃ e, 1 ≤ e ∧ e ≤ 3 ∧ decodeData e (numOfBytes 8 (encodeBytes i)) = some i :=
    ⟨strandOf i, (strandOf_range i).1, (strandOf_range i).2, h⟩
  cases hf : wordFormat i with
  | cR => exact .inl (decodeBytes_of_cR hf hwf)
  | cI => exact .inl (decodeBytes_of_cI hf hwf)
  | cJ => exact .inl (decodeBytes_of_cJ hf hwf)
  | cW => exact .inl (decodeBytes_of_cW hf hwf)
  | dR => exact .inr (.inl (hdata (dataDecodes_of_dR hf hwf)))
  | dM => exact .inr (.inl (hdata (dataDecodes_of_dM hf hwf)))
  | dG => exact .inr (.inl (hdata (dataDecodes_of_dG hf hwf)))
  | dX => exact .inr (.inl (hdata (dataDecodes_of_dX hf hwf)))
  | dShared => exact .inr (.inl (hdata (dataDecodes_of_dShared hf hwf)))
  | dOther => exact .inr (.inl (hdata (dataDecodes_of_dOther hf hwf)))
  | nmu => exact .inr (.inr (.inl (decodeNmu_of_nmu hf hwf)))
  | sampler => exact .inr (.inr (.inr (decodeSampler_of_sampler hf hwf)))
  | none => exact absurd (encode_of_no_format hf hraw) henc

end Sys2Proof.Machine
end

section
/-! PROOF. The sampler opcodes (R67), and the words that the spec prints. -/

namespace Sys2Proof.Machine

open Sys2Proof

/-- Instruction i is the one that R67 names at place n of its list of mnemonics. -/
def samplerPlace (n : Nat) (i : Instr) : Prop :=
  let at_ (k : Nat) (p : Prop) : Prop := n = k ∧ p
  at_ 0x01 (∃ c off d a, i = .smLd c off d a) ∨ at_ 0x02 (∃ c off a b, i = .smSt c off a b) ∨ at_ 0x03 (∃ f v d, i = .smLi f v d) ∨
  at_ 0x04 (∃ d a, i = .smMov d a) ∨ at_ 0x05 (∃ f m d a b, i = .smAdd f m d a b) ∨ at_ 0x06 (∃ f m d a b, i = .smSub f m d a b) ∨
  at_ 0x07 (∃ u r f d a b, i = .smCmp u r f d a b) ∨ at_ 0x08 (∃ f d a b, i = .smMax f d a b) ∨ at_ 0x09 (∃ d a b, i = .smDiv d a b) ∨
  at_ 0x0A (∃ d a, i = .smExp d a) ∨ at_ 0x0B (∃ k d, i = .smSum k d) ∨ at_ 0x0C (∃ k d a b, i = .smTopk k d a b) ∨ at_ 0x0D (∃ d a, i = .smTopp d a) ∨
  at_ 0x0E (∃ d a, i = .smTemp d a) ∨ at_ 0x0F (∃ u d, i = .smRng u d) ∨ at_ 0x10 (∃ d a, i = .smDraw d a) ∨ at_ 0x11 (∃ d a, i = .smTree d a) ∨
  at_ 0x12 (∃ x d a b, i = .smAcc x d a b) ∨ at_ 0x13 (∃ a, i = .smEmit a) ∨ at_ 0x14 (∃ o, i = .smBr o) ∨ at_ 0x15 (∃ a o, i = .smBz a o) ∨
  at_ 0x16 (∃ a, i = .smEnd a)

theorem parseSampler_place (w : Nat) : yields (parseSampler w) (samplerPlace (fld w 26 6) ·.instr) := by
  unfold parseSampler
  dsimp only
  split
  all_goals
    repeat' first
      | with_reducible exact yields_none _
      | with_reducible refine yields_whenSm fun _ => ?_
      | with_reducible refine yields_some ?_
  all_goals simp [samplerPlace, SmOp.instr, *]

/-- A word of each opcode: `sm.topk` asks for K and `sm.tree` for D between their bounds, the others for no field. -/
def samplerWord (n : Nat) : Nat := 2 ^ 26 * n + (if n = 0x0C then 1 else 0) + if n = 0x11 then 2 ^ 21 else 0

theorem samplerWord_op {n : Nat} (hn : n ≤ 0x16) : samplerWord n < 2 ^ 32 ∧ samplerWord n / 2 ^ 26 = n := by
  unfold samplerWord
  split <;> split <;> omega

theorem decodeSmOp_samplerWord {n : Nat} (h1 : 1 ≤ n) (hn : n ≤ 0x16) : (decodeSmOp (samplerWord n)).isSome = true := by
  interval_cases n <;> decide

/-- Settles O43: a word's opcode is the place of what it parses to, and a word of each opcode decodes. -/
theorem samplerOpcodesAreAssignedInOrder : Obligations.SamplerOpcodesAreAssignedInOrder := by
  unfold Obligations.SamplerOpcodesAreAssignedInOrder
  refine ⟨fun w i hw h => ?_, fun n h1 hn => ⟨samplerWord n, (samplerWord_op hn).1, (samplerWord_op hn).2, fun hnone => ?_⟩⟩
  · obtain ⟨o, hp, -, rfl⟩ := decodeSampler_iff.1 h
    have hop : fld w 26 6 = w / 2 ^ 26 := by simp only [fld]; omega
    exact hop ▸ parseSampler_place w o hp
  · have hsome := decodeSmOp_samplerWord h1 hn
    rw [decodeSampler, Option.map_eq_none_iff] at hnone
    rw [hnone] at hsome
    cases hsome

/-- Settles O56: each word is evaluated. -/
theorem printedWordsDecode : Obligations.PrintedWordsDecode := by
  unfold Obligations.PrintedWordsDecode
  decide

end Sys2Proof.Machine
end

section
/-! PROOF. A word that issues, and the ends of a freeze (R32 to R36, R190, R225). -/

namespace Sys2Proof.Machine

open Sys2Proof

/-! The snapshot of a word that issues (R36). -/

/-- The data side before the first issue of the cycle. -/
def Core.imageBefore (k : Core) : Snap := k.before.getD k.data.image

theorem Core.marked_before (k : Core) : k.marked.before = some k.imageBefore := by
  unfold Core.marked Core.imageBefore
  cases h : k.before with
  | none => rfl
  | some m => exact h

theorem Core.marked_storesAs (k : Core) : k.storesAs k.marked := by
  unfold Core.storesAs Core.marked
  split <;> exact ⟨rfl, rfl, rfl, rfl⟩

/-- A word with K = 1 takes the snapshot of its cycle. -/
theorem State.issueWord_of_k (s : State) (c : Nat) (h : DHdr) (hk : h.k = true) (hw : (s.core c).data.withheld = []) :
    s.issueWord c h = s.modCore c fun k => k.marked.snapped (s.core c).imageBefore := by
  have hmark : s.markCycle c = s.modCore c Core.marked := rfl
  have hbefore : ((s.modCore c Core.marked).core c).before = some (s.core c).imageBefore := by simp [Core.marked_before]
  simp only [State.issueWord, hk, if_true, hmark, hbefore]
  rw [State.takeSnap_of_none_withheld _ _ _ (by simpa using hw), State.modCore_modCore]

theorem tasksKept_snapped (s : State) (c : Nat) (m : Snap) : tasksKept s c (s.modCore c fun k => k.marked.snapped m) :=
  tasksKept_modCore _ _ _ (Core.marked_tasks _) (s.core c).marked_storesAs

/-! Data faults that stop no strand (R225). -/

/-- A first fault of a data strand, without debug, is kept. -/
theorem State.dataFault_of_faultFree {s : State} {c : Nat} (e code : Nat) (tval : Word) (va : Nat) (h : faultFree s c) :
    s.dataFault c e code tval va = s.modCore c fun k =>
      { k with dfault := some { strand := e, code, tval, cycle := k.cycle, word := tval.toNat, va }, dmet := true } := by
  obtain ⟨hdbg, hdf, hdm⟩ := h
  have hkeep : (s.core c).keepsFault e = true := by rw [Core.keepsFault, hdf, hdm]; rfl
  simp [State.dataFault, hkeep, hdbg]

/-- A fault of a strand that stops the data engines ends their freeze. -/
theorem strandFault_not_frozen {s : State} {c : Nat} (e code : Nat) (tval : Word) (va : Nat) (h : faultFree s c) :
    ((s.strandFault c e code tval va).core c).data.frozen = false := by
  have hstop : s.strandFault c e code tval va = (s.modData c DataSide.halted).dataFault c e code tval va := rfl
  rw [hstop, State.dataFault_of_faultFree e code tval va (faultFree_modData _ h)]
  simp [DataSide.halted]

/-! The ends of a freeze (R32 to R34). -/

theorem exec_dataFreezeEnd_ends {s : State} {c : Nat} (hf : (s.core c).data.frozen = true) (hm : s.freezeMet c = false) (hh : s.dataHeld c = false)
    (hs : (s.core c).settledNow = true) (ht : (s.core c).data.timeoutRaised = false) (hw : (s.core c).data.watch < 65536) :
    exec (.dataFreezeEnd c) s = .next (s.modData c fun d => { d with frozen := false, watch := 0 }) := by
  simp [execDataFreezeEnd, hf, hm, hh, hs, ht, hw]

theorem exec_dataFreezeEnd_late {s : State} {c : Nat} (hw : 65536 ≤ (s.core c).data.watch) : exec (.dataFreezeEnd c) s = .next s := by
  simp [execDataFreezeEnd, Nat.not_lt.mpr hw]

theorem exec_freezeTimeout_raises {s : State} {c : Nat} (hf : (s.core c).data.frozen = true) (hw : 65536 ≤ (s.core c).data.watch)
    (ht : (s.core c).data.timeoutRaised = false) (hl : (s.core c).data.late3 = none) (hz : s.isFrozen c = false) :
    exec (.freezeTimeout c) s = .next ((s.modData c fun d => { d with timeoutRaised := true }).dataFault c (s.core c).data.frozenPc.1 28
      (word (s.core c).data.frozenPc.2)) := by
  simp [execFreezeTimeout, hf, hw, ht, hl, hz]

theorem exec_timingTrap_traps {s : State} {c : Nat} {v : VLoad} (hv : (s.core c).data.late3 = some v) (hh : s.dataHeld c = false)
    (hj : (s.core c).job.isSome = true) : exec (.timingTrap c) s = .next (s.strandFault c 1 29 (word v.word)) := by
  have hjob : (s.core c).job.isNone = false := by rw [Option.isNone_eq_false_iff]; exact hj
  simp [execTimingTrap, hv, hh, hjob]

/-! A fill of the instruction buffer (R190). -/

/-- A core whose instruction buffer has taken the words n and n + 1. -/
def Core.filled (k : Core) (n lo hi : Nat) : Core := { k with ibuf := putPair k.loopCode k.ibuf n lo hi }

theorem tfind_putPair_low (kept : List (Nat × Nat)) (m : Tbl Nat) (n lo hi : Nat) : tfind (putPair kept m n lo hi) n = some lo := by
  rw [putPair, tfind_tput_other _ _ _ _ (by omega), tfind_tput_same]

theorem tfind_putPair_high (kept : List (Nat × Nat)) (m : Tbl Nat) (n lo hi : Nat) : tfind (putPair kept m n lo hi) (n + 1) = some hi := by
  rw [putPair, tfind_tput_same]

theorem exec_ibufFill_fills {s : State} {c va pa : Nat} {nc : Bool} (htr : translate (s.core c).seg .x va = .ok pa nc)
    (hj : (s.core c).job.isSome = true) (hp : (s.core c).probe = none) (hph : (s.core c).phase = none)
    (ho : (s.core c).data.timed = false ∨ (s.core c).before = none) (he : s.errorLine (pa / 128) = false)
    (hhome : (tfind s.homes (pa / 32)).isSome = true) :
    exec (.ibufFill c va) s = .next (s.modCore c fun k => k.filled (pa / 8 * 2) (s.homeNum (pa / 8 * 8) 4) (s.homeNum (pa / 8 * 8 + 4) 4)) := by
  have hjob : (s.core c).job.isNone = false := by rw [Option.isNone_eq_false_iff]; exact hj
  have hopen : (s.core c).cycleOpen = false := by
    obtain h | h := ho <;> simp [Core.cycleOpen, h]
  have hfetch : s.homeFetch (pa / 32) = s := by
    obtain ⟨x, hx⟩ := Option.isSome_iff_exists.1 hhome
    simp [State.homeFetch, hx]
  simp [execIbufFill, htr, hjob, hp, hph, hopen, he, hfetch, Core.filled]

/-- Settles O17: the snapshot is the image of the first issue of the cycle; each event of a freeze, and a fill, is its own guard and change. -/
theorem wordsIssueAndFreezesEnd : Obligations.WordsIssueAndFreezesEnd := by
  unfold Obligations.WordsIssueAndFreezesEnd
  refine ⟨fun s c h => ⟨fun hk => ?_, fun hk hw => ?_⟩, fun s c hf hm hh hs => ⟨fun ht hw => ?_, fun hw => exec_dataFreezeEnd_late hw⟩,
    fun s c hf hw ht hl hz hdbg hdf hdm => ?_, fun s c v hv hh hj hdbg hdf hdm => ?_, fun s c va pa nc htr hj hp hph ho he hhome => ?_⟩
  · rw [State.issueWord_of_no_k s c h hk]
    exact ⟨State.marked_data s c, by rw [State.modCore_core_same]; exact Core.marked_before _, tasksKept_marked s c⟩
  · rw [State.issueWord_of_k s c h hk hw]
    refine ⟨⟨(s.core c).imageBefore.rewound, by simp [Core.snapped], rfl, rfl, rfl, rfl, rfl, rfl, rfl, rfl, rfl, rfl, rfl, rfl, rfl, rfl, rfl, rfl, rfl⟩,
      ?_, ?_, ?_, tasksKept_snapped s c _⟩
    · simp [State.strand, DataSide.strand, Core.snapped, Strand.free, Core.imageBefore]
    · simp [Core.snapped]
    · simp [Core.snapped]
  · obtain ⟨htasks, hcore, hbytes⟩ := tasksKept_modData s c fun d => { d with frozen := false, watch := 0 }
    exact ⟨_, exec_dataFreezeEnd_ends hf hm hh hs ht hw, by simp, by simp, by simp, htasks, hcore, hbytes⟩
  · have hfree : faultFree (s.modData c fun d => { d with timeoutRaised := true }) c := faultFree_modData _ ⟨hdbg, hdf, hdm⟩
    refine ⟨_, exec_freezeTimeout_raises hf hw ht hl hz, ?_⟩
    rw [State.dataFault_of_faultFree _ _ _ _ hfree]
    exact ⟨by simp [hf], by simp, tasksKept_trans (tasksKept_modData ..) (tasksKept_modCore _ _ _ rfl ⟨rfl, rfl, rfl, rfl⟩)⟩
  · obtain ⟨hstop, hfault, hcore, hbytes⟩ := strandFault_strandFaulted 1 29 (word v.word) 0 (⟨hdbg, hdf, hdm⟩ : faultFree s c)
    refine ⟨_, exec_timingTrap_traps hv hh hj, hstop, strandFault_not_frozen 1 29 _ 0 ⟨hdbg, hdf, hdm⟩, ?_, hcore, hbytes⟩
    obtain ⟨f, hf, heq⟩ := Option.map_eq_some_iff.1 hfault
    rw [hf]
    simp only [Prod.mk.injEq] at heq
    obtain ⟨hstrand, hcode, htval⟩ := heq
    simp [hstrand, hcode, htval, word]
  · obtain ⟨htasks, hcore, hbytes⟩ := tasksKept_modCore s c
      (fun k => k.filled (pa / 8 * 2) (s.homeNum (pa / 8 * 8) 4) (s.homeNum (pa / 8 * 8 + 4) 4)) rfl ⟨rfl, rfl, rfl, rfl⟩
    refine ⟨_, exec_ibufFill_fills htr hj hp hph ho he hhome, ?_, ?_, htasks, by simp [Core.filled], hcore, hbytes⟩
    · simp [Core.filled, tfind_putPair_low]
    · simp [Core.filled, tfind_putPair_high]

end Sys2Proof.Machine
end

section
/-! PROOF. What the registers and the units hold at reset (R91, R106, R149, R185 to R188, R229, R505, R511 to R513). -/

namespace Sys2Proof.Machine

open Sys2Proof

/-! The tables of the reset state list nothing, so every unit reads as its default. -/

@[simp] theorem State.reset_core (c : Nat) : State.reset.core c = {} := tget_nil _ c
@[simp] theorem State.reset_disp (d : Nat) : State.reset.disp d = {} := tget_nil _ d
@[simp] theorem State.reset_serv (d : Nat) : State.reset.serv d = {} := tget_nil _ d
@[simp] theorem State.reset_pkg (p : Nat) : State.reset.pkg p = {} := tget_nil _ p
@[simp] theorem State.reset_qslot (d n : Nat) : State.reset.qslot d n = {} := by
  rw [State.qslot, State.reset_disp]
  exact tget_nil _ n

@[simp] theorem Core.default_task (t : Nat) : ({} : Core).task t = {} := tget_nil _ t

/-! The words that are put together from the state. -/

theorem Core.tstat_eq_zero {k : Core} {t : Nat} (htin : (k.task t).tin = false) (hfault : k.dfault = none) (hlist : k.afaults = []) :
    k.tstat t = 0#64 := by
  simp [Core.tstat, htin, hfault, hlist, bit, word]

theorem State.slotWord_eq_zero {s : State} {d n : Nat} (hfree : (s.qslot d n).st = .free) (hidle : s.activeOf d n = 0) :
    s.slotWord d n = 0#64 := by
  simp [State.slotWord, hfree, hidle, word]

/-- The system registers that hold 0: FPM, NUMCHK, TVEC, TCAUSE, TSTAT and ISTAT, by the numbers of R188. -/
theorem sysRead_reset_zero (c t : Nat) {n : Nat} (hn : n ∈ [0x00, 0x02, 0x08, 0x09, 0x0C, 0x0F]) : sysRead State.reset c t n = some 0#64 := by
  have htstat : ({} : Core).tstat t = 0#64 := Core.tstat_eq_zero (by rw [Core.default_task]) rfl rfl
  simp only [List.mem_cons, List.not_mem_nil, or_false] at hn
  obtain rfl | rfl | rfl | rfl | rfl | rfl := hn <;> simp [sysRead, htstat]

/-- Settles O60: the reset state lists no unit, and the default of each unit holds the stated values. -/
theorem resetLeavesTheStatedValues : Obligations.ResetLeavesTheStatedValues := by
  unfold Obligations.ResetLeavesTheStatedValues
  refine ⟨fun c t _ _ => ⟨fun n hn => sysRead_reset_zero c t hn, ?_, rfl, rfl, ?_⟩, fun d n _ _ => ⟨?_, ?_, ?_, ?_⟩,
    fun d _ => ?_, fun p _ => ?_, fun k _ => tget_nil _ k⟩
  · simp [sysRead]
  · rw [State.reset_core]
  · rw [State.reset_disp]
  · rw [State.reset_disp]
  · rw [State.reset_disp]
  · exact State.slotWord_eq_zero (by rw [State.reset_qslot]) rfl
  · simp
  · rw [State.reset_pkg]
    exact ⟨rfl, rfl, rfl, rfl, rfl, Nat.zero_testBit p⟩

end Sys2Proof.Machine
end

section
/-! SUPPORT. The form of memory: what a claim about it needs of a state, and how it passes through branches, answers and folds. -/

namespace Sys2Proof.Machine

open Sys2Proof

/-- The state that an answer leaves, if it leaves one, has memory in its form. -/
def okAfter : Out → Prop
  | .next t => memoryOk t
  | _ => True

/-- The state that may be there has memory in its form. -/
def okSome : Option State → Prop
  | some t => memoryOk t
  | none => True

variable {s u : State}

/-- The form is about the banks and the homes alone: a state that has those of another has its form. -/
theorem memoryOk_same (h : memoryOk s) (hb : u.banks = s.banks) (hh : u.homes = s.homes) : memoryOk u := by
  unfold memoryOk banksOk homesOk
  rw [hb, hh]
  exact h

theorem memoryOk_ite {p : Prop} [Decidable p] (hs : memoryOk s) (hu : memoryOk u) : memoryOk (if p then s else u) := by
  split
  · exact hs
  · exact hu

theorem okAfter_ite {p : Prop} [Decidable p] {r x : Out} (hr : okAfter r) (hx : okAfter x) : okAfter (if p then r else x) := by
  split
  · exact hr
  · exact hx

theorem okSome_ite {p : Prop} [Decidable p] {r x : Option State} (hr : okSome r) (hx : okSome x) : okSome (if p then r else x) := by
  split
  · exact hr
  · exact hx

theorem okSnd_ite {α : Type} {p : Prop} [Decidable p] {r x : α × State} (hr : memoryOk r.2) (hx : memoryOk x.2) : memoryOk (if p then r else x).2 :=
    by
  split
  · exact hr
  · exact hx

theorem okFst_ite {α : Type} {p : Prop} [Decidable p] {r x : State × α} (hr : memoryOk r.1) (hx : memoryOk x.1) : memoryOk (if p then r else x).1 :=
    by
  split
  · exact hr
  · exact hx

theorem okNext_ite {p : Prop} [Decidable p] {r x : DbgAns} (hr : memoryOk r.next) (hx : memoryOk x.next) :
    memoryOk (if p then r else x).next := by
  split
  · exact hr
  · exact hx

theorem of_okAfter {o : Out} (h : okAfter o) (heq : o = .next u) : memoryOk u := by
  subst heq
  exact h

theorem of_okSome {o : Option State} (h : okSome o) (heq : o = some u) : memoryOk u := by
  subst heq
  exact h

theorem of_okSnd {α : Type} {a : α} {p : α × State} (h : memoryOk p.2) (heq : p = (a, u)) : memoryOk u := by
  subst heq
  exact h

theorem of_okFst {α : Type} {a : α} {p : State × α} (h : memoryOk p.1) (heq : p = (u, a)) : memoryOk u := by
  subst heq
  exact h

theorem memoryOk_foldl {α : Type} {f : State → α → State} {l : List α} (hf : ∀ s a, memoryOk s → memoryOk (f s a)) (h : memoryOk s) :
    memoryOk (l.foldl f s) := by
  induction l generalizing s with
  | nil => exact h
  | cons a l ih => exact ih (hf s a h)

theorem memoryOk_getD {o : Option State} (ho : okSome o) (h : memoryOk s) : memoryOk (o.getD s) := by
  cases o with
  | none => exact h
  | some u => exact ho

theorem tdel_sublist {α : Type} (t : Tbl α) (n : Nat) : (tdel t n).Sublist t := by
  induction t with
  | nil => exact List.Sublist.refl _
  | cons e t ih =>
    obtain ⟨k, v⟩ := e
    unfold tdel
    split
    · exact List.sublist_cons_self _ _
    · exact ih.cons_cons _

theorem memoryOk_reset : memoryOk State.reset := by
  refine ⟨rfl, List.Pairwise.nil, fun e he => ?_⟩
  exact absurd he List.not_mem_nil

end Sys2Proof.Machine
end

section
/-! SUPPORT. Memory keeps its form through a core: its tasks, its accesses, the homes, the caches and the control queues (R132, R144). -/

namespace Sys2Proof.Machine

open Sys2Proof

variable {s u : State}

/-! Updates of cores, tasks and data sides. -/

theorem memoryOk_setCore {c : Nat} {k : Core} (h : memoryOk s) : memoryOk (s.setCore c k) := memoryOk_same h rfl rfl

theorem memoryOk_modCore {c : Nat} {f : Core → Core} (h : memoryOk s) : memoryOk (s.modCore c f) := memoryOk_setCore h

theorem memoryOk_modTask {c t : Nat} {f : Machine.Task → Machine.Task} (h : memoryOk s) : memoryOk (s.modTask c t f) := memoryOk_modCore h

theorem memoryOk_modData {c : Nat} {f : DataSide → DataSide} (h : memoryOk s) : memoryOk (s.modData c f) := memoryOk_modCore h

theorem memoryOk_modDisp {d : Nat} {f : Disp → Disp} (h : memoryOk s) : memoryOk (s.modDisp d f) := memoryOk_same h rfl rfl

theorem memoryOk_modWeave {w : Nat} {f : Weave → Weave} (h : memoryOk s) : memoryOk (s.modWeave w f) := by
  unfold State.modWeave
  split
  · exact memoryOk_same h rfl rfl
  · exact h

theorem memoryOk_fresh (h : memoryOk s) : memoryOk s.fresh := memoryOk_same h rfl rfl

theorem memoryOk_open_ (h : memoryOk s) : memoryOk (s.open_).2 := memoryOk_same h rfl rfl

theorem memoryOk_setReg {c t r : Nat} {v : Word} (h : memoryOk s) : memoryOk (s.setReg c t r v) := memoryOk_modTask h

theorem memoryOk_result {c t r : Nat} {v : Word} {lat len : Nat} (h : memoryOk s) : memoryOk (s.result c t r v lat len) := memoryOk_modTask h

theorem memoryOk_goOn {c t len : Nat} (h : memoryOk s) : memoryOk (s.goOn c t len) := memoryOk_modTask h

theorem memoryOk_jumpTo {c t : Nat} {target : Word} (h : memoryOk s) : memoryOk (s.jumpTo c t target) := memoryOk_modTask h

theorem memoryOk_park {c t : Nat} {w : WaitFor} {i : Instr} {len : Nat} (h : memoryOk s) : memoryOk (s.park c t w i len) := memoryOk_modTask h

theorem memoryOk_wake {c t : Nat} (h : memoryOk s) : memoryOk (s.wake c t) := memoryOk_modTask h

theorem memoryOk_wakeWith {c t r : Nat} {v : Word} (h : memoryOk s) : memoryOk (s.wakeWith c t r v) := memoryOk_modTask h

theorem memoryOk_modWait {c t : Nat} {f : Wait → Wait} (h : memoryOk s) : memoryOk (s.modWait c t f) := memoryOk_modTask h

theorem memoryOk_answered {c t : Nat} {u : State} (h : memoryOk s) (hu : memoryOk u) : memoryOk (s.answered c t u) := by
  unfold State.answered
  refine memoryOk_ite ?_ ?_
  · exact hu
  · exact memoryOk_ite (memoryOk_modWait hu) (memoryOk_ite (memoryOk_modTask hu) (memoryOk_modWait h))

theorem memoryOk_freeze {c : Nat} (h : memoryOk s) : memoryOk (s.freeze c) := by
  unfold State.freeze
  refine memoryOk_ite h ?_
  extract_lets s1
  split
  · exact memoryOk_modCore h
  · exact memoryOk_same h rfl rfl

theorem memoryOk_haltSlot {hd d : Nat} {r : HRec} (h : memoryOk s) :
    memoryOk (s.haltSlot hd d r) := memoryOk_ite (memoryOk_same h rfl rfl) (memoryOk_same h rfl rfl)

theorem memoryOk_freezeDie {w d : Nat} (h : memoryOk s) : memoryOk (s.freezeDie w d) := by
  unfold State.freezeDie
  split
  · exact h
  · exact memoryOk_foldl (fun _ _ hu => memoryOk_freeze hu) h

theorem memoryOk_haltCore {c t strand src code : Nat} {pc val : Word} (h : memoryOk s) : memoryOk (s.haltCore c t strand src code pc val) := by
  unfold State.haltCore
  split
  · exact h
  · exact memoryOk_freeze (memoryOk_haltSlot h)

theorem memoryOk_freeGroups {w : Nat} (h : memoryOk s) : memoryOk (s.freeGroups w) := memoryOk_same h rfl rfl

theorem memoryOk_freeNet {w : Nat} (h : memoryOk s) : memoryOk (s.freeNet w) := memoryOk_same h rfl rfl

theorem memoryOk_freeNmus {w : Nat} (h : memoryOk s) : memoryOk (s.freeNmus w) := memoryOk_same h rfl rfl

theorem memoryOk_freeTrackers {w : Nat} (h : memoryOk s) : memoryOk (s.freeTrackers w) := memoryOk_same h rfl rfl

theorem memoryOk_tearDown {w status : Nat} {r : Report} (h : memoryOk s) :
    memoryOk (s.tearDown w status r) := memoryOk_freeNmus (memoryOk_freeNet (memoryOk_freeTrackers (memoryOk_freeGroups (memoryOk_modWeave h))))

theorem memoryOk_fatal {c t strand status : Nat} {pc va : Word} (h : memoryOk s) : memoryOk (s.fatal c t strand status pc va) := by
  unfold State.fatal
  split
  · exact h
  · extract_lets rep
    split
    · exact memoryOk_tearDown h
    · exact memoryOk_same (memoryOk_haltCore h) rfl rfl

theorem memoryOk_enterTrap {c t strand : Nat} {async : Bool} {task code : Nat} {tpc tval at_ : Word} {va : Nat} (h : memoryOk s) :
    memoryOk (s.enterTrap c t strand async task code tpc tval at_ va) := by
  unfold State.enterTrap
  extract_lets k
  refine memoryOk_ite ?_ (memoryOk_modTask h)
  split
  · exact memoryOk_tearDown h
  · exact h

theorem memoryOk_trapAt {c t code : Nat} {tpc tval at_ : Word} (h : memoryOk s) :
    memoryOk (s.trapAt c t code tpc tval at_) := memoryOk_ite (memoryOk_haltCore (memoryOk_modTask h)) (memoryOk_enterTrap h)

theorem memoryOk_trap {c t code : Nat} {tval : Word} (h : memoryOk s) : memoryOk (s.trap c t code tval) := memoryOk_trapAt h

theorem memoryOk_dataFault {c strand code : Nat} {tval : Word} {va : Nat} (h : memoryOk s) :
    memoryOk (s.dataFault c strand code tval va) := memoryOk_ite h (memoryOk_ite (memoryOk_haltCore (memoryOk_modCore h)) (memoryOk_modCore h))

theorem memoryOk_asyncFault {c code task : Nat} {tval : Word} {at_ : Nat} (h : memoryOk s) :
    memoryOk (s.asyncFault c code task tval at_) := memoryOk_ite (memoryOk_haltCore (memoryOk_modCore h)) (memoryOk_modCore h)

/-! The caches and the homes. -/

theorem memoryOk_homeFetch {k : Nat} (h : memoryOk s) : memoryOk (s.homeFetch k) := by
  refine ⟨?_, State.homeFetch_homesOk h.2 k⟩
  unfold banksOk State.homeFetch
  split <;> exact h.1

theorem memoryOk_homePut {a : Nat} {b : Byte} (h : memoryOk s) : memoryOk (s.homePut a b) :=
  ⟨(memoryOk_homeFetch h).1, State.homePut_homesOk h.2 a b⟩

theorem memoryOk_homePutAll {cells : List Host.Cell} (h : memoryOk s) : memoryOk (s.homePutAll cells) := by
  induction cells generalizing s with
  | nil => exact h
  | cons x cells ih => exact ih (memoryOk_homePut h)

theorem memoryOk_homeClean {k : Nat} (h : memoryOk s) : memoryOk (s.homeClean k) := by
  unfold State.homeClean
  split
  next x hx =>
    refine memoryOk_ite ?_ h
    obtain ⟨hb, hsort, hlen⟩ := h
    refine ⟨setBytes_wf _ _ _ hb, tput_pairwise k _ hsort, fun e he => ?_⟩
    obtain he | he := mem_tput he
    · rw [he]
      exact hlen (k, x) (mem_of_tfind hx)
    · exact hlen e he
  · exact h

theorem memoryOk_homeDrop {k : Nat} (h : memoryOk s) : memoryOk (s.homeDrop k) := by
  obtain ⟨hb, hsort, hlen⟩ := h
  exact ⟨hb, hsort.sublist (tdel_sublist s.homes k), fun e he => hlen e ((tdel_sublist s.homes k).subset he)⟩

theorem memoryOk_homeEvict {k : Nat} (h : memoryOk s) : memoryOk (s.homeEvict k) := memoryOk_homeDrop (memoryOk_homeClean h)

theorem memoryOk_setL1 {c line : Nat} {x : L1Line} (h : memoryOk s) : memoryOk (s.setL1 c line x) := memoryOk_modCore h

theorem memoryOk_dropL1 {c line : Nat} (h : memoryOk s) : memoryOk (s.dropL1 c line) := memoryOk_modCore h

theorem memoryOk_fillL1 {c k scope : Nat} {trk : Bool} (h : memoryOk s) : memoryOk (s.fillL1 c k scope trk) := memoryOk_setL1 (memoryOk_homeFetch h)

theorem memoryOk_untrack {holder line : Nat} (h : memoryOk s) : memoryOk (s.untrack holder line) := memoryOk_modCore h

theorem memoryOk_removeTracked {line : Nat} {writer : Option Nat} (h : memoryOk s) :
    memoryOk (s.removeTracked line writer) := memoryOk_same (memoryOk_foldl (fun _ _ hu => memoryOk_untrack hu) h) rfl rfl

theorem memoryOk_track {holder line : Nat} (h : memoryOk s) : memoryOk (s.track holder line) := by
  unfold State.track
  dsimp only
  refine memoryOk_ite (memoryOk_same h rfl rfl) ?_
  refine memoryOk_ite (memoryOk_same h rfl rfl) ?_
  split
  · exact memoryOk_same (memoryOk_foldl (fun _ _ hu => memoryOk_untrack hu) h) rfl rfl
  · exact h

theorem memoryOk_l1Put {c scope : Nat} {writeBack : Bool} {a : Nat} {b : Byte} (h : memoryOk s) : memoryOk (s.l1Put c scope writeBack a b) := by
  unfold State.l1Put
  extract_lets line off
  split
  · exact memoryOk_setL1 h
  · exact memoryOk_setL1 h
  · exact memoryOk_setL1 h
  · exact h

theorem memoryOk_l1PutAll {c scope : Nat} {writeBack : Bool} {cells : List Host.Cell} (h : memoryOk s) :
    memoryOk (s.l1PutAll c scope writeBack cells) := by
  induction cells generalizing s with
  | nil => exact h
  | cons x cells ih => exact ih (memoryOk_l1Put h)

theorem memoryOk_acquire {c scope : Nat} (h : memoryOk s) : memoryOk (s.acquire c scope) := memoryOk_foldl (fun _ _ hu => memoryOk_modCore hu) h

theorem memoryOk_acquireLines {c scope : Nat} {ps : List (Nat × Nat)} (h : memoryOk s) :
    memoryOk (s.acquireLines c scope ps) := memoryOk_foldl (fun _ _ hu => memoryOk_modCore hu) h

/-! Signals, barriers and events. -/

theorem memoryOk_signalSaved {c slot : Nat} {who : Weave → Bool} {acq : Option Nat} (h : memoryOk s) : memoryOk (s.signalSaved c slot who acq) := by
  unfold State.signalSaved
  split
  · exact memoryOk_modWeave h
  · exact memoryOk_modDisp h

theorem memoryOk_drainSignals {c : Nat} (h : memoryOk s) :
    memoryOk (s.drainSignals c) := memoryOk_foldl (fun _ _ hu => memoryOk_acquire hu) (memoryOk_modCore h)

theorem memoryOk_signal {c slot : Nat} {who : Weave → Bool} {acq : Option Nat} (h : memoryOk s) : memoryOk (s.signal c slot who acq) := by
  unfold State.signal
  split
  · refine memoryOk_ite ?_ ?_
    · exact memoryOk_ite (memoryOk_acquire (memoryOk_modCore h)) (memoryOk_modCore h)
    · exact memoryOk_signalSaved h
  · exact memoryOk_signalSaved h

theorem memoryOk_post {core slot : Nat} {weave : Option Nat} {ctx : Nat} {acq : Option Nat} (h : memoryOk s) :
    memoryOk (s.post core slot weave ctx acq) := memoryOk_same h rfl rfl

theorem memoryOk_freeSignals {c : Nat} (h : memoryOk s) : memoryOk (s.freeSignals c) := memoryOk_same h rfl rfl

theorem okAfter_execEventSignalArrival {id : Nat} (h : memoryOk s) : okAfter (execEventSignalArrival id s) := by
  unfold execEventSignalArrival
  split
  · exact okAfter_ite h (memoryOk_signal (memoryOk_same h rfl rfl))
  · exact h

theorem memoryOk_flipped {b : BarId} (h : memoryOk s) :
    memoryOk (s.flipped b) := memoryOk_foldl (fun _ _ hu => memoryOk_acquire hu) (memoryOk_same h rfl rfl)

theorem okSome_barAdd {b : BarId} {arrivals bytes : Nat} (h : memoryOk s) :
    okSome (s.barAdd b arrivals bytes) := okSome_ite trivial (memoryOk_same h rfl rfl)

theorem okSome_barAddOf {w : Nat} {b : BarId} {bytes : Nat} (h : memoryOk s) : okSome (s.barAddOf w b bytes) := by
  unfold State.barAddOf
  refine okSome_ite trivial ?_
  refine okSome_ite (okSome_barAdd h) ?_
  extract_lets put c
  split
  · exact okSome_ite trivial (memoryOk_modWeave h)
  · exact trivial

/-! Writes at the homes, and errors. -/

theorem memoryOk_fire {d n : Nat} {t : Tracker} (h : memoryOk s) :
    memoryOk (s.fire d n t) := memoryOk_ite (memoryOk_post (memoryOk_same h rfl rfl)) (memoryOk_same h rfl rfl)

theorem memoryOk_countWrite {d : Nat} {cells : List Host.Cell} (h : memoryOk s) :
    memoryOk (s.countWrite d cells) := memoryOk_foldl (fun _ _ hu => memoryOk_ite hu (memoryOk_ite (memoryOk_fire hu) (memoryOk_same hu rfl rfl))) h

theorem memoryOk_homeWrite {writer : Option Nat} {cells : List Host.Cell} (h : memoryOk s) : memoryOk (s.homeWrite writer cells) := by
  unfold State.homeWrite
  split
  · exact h
  · exact memoryOk_countWrite (memoryOk_foldl (fun _ _ hu => memoryOk_removeTracked hu) (memoryOk_homePutAll h))

theorem memoryOk_writeBack {holder line : Nat} (h : memoryOk s) : memoryOk (s.writeBack holder line) := by
  unfold State.writeBack
  split
  · exact memoryOk_ite h (memoryOk_homeWrite (memoryOk_modCore h))
  · exact h

theorem memoryOk_writeBackAll {c : Nat} {p : Nat → L1Line → Bool} (h : memoryOk s) :
    memoryOk (s.writeBackAll c p) := memoryOk_foldl (fun _ _ hu => memoryOk_foldl (fun _ _ hu => memoryOk_writeBack hu) hu) h

theorem memoryOk_release {c scope : Nat} (h : memoryOk s) : memoryOk (s.release c scope) := memoryOk_writeBackAll h

theorem memoryOk_yieldLine {c line : Nat} (h : memoryOk s) : memoryOk (s.yieldLine c line) := memoryOk_dropL1 (memoryOk_writeBack h)

theorem memoryOk_cleanRange {c scope : Nat} {ps : List (Nat × Nat)} (h : memoryOk s) :
    memoryOk (s.cleanRange c scope ps) :=
  memoryOk_ite (memoryOk_writeBackAll h) (memoryOk_foldl (fun _ _ hu => memoryOk_homeClean hu) (memoryOk_writeBackAll h))

theorem memoryOk_dropLines {c : Nat} {ps : List (Nat × Nat)} (h : memoryOk s) :
    memoryOk (s.dropLines c ps) := memoryOk_foldl (fun _ _ hu => memoryOk_modCore hu) h

theorem memoryOk_untrackRange {ps : List (Nat × Nat)} (h : memoryOk s) :
    memoryOk (s.untrackRange ps) := memoryOk_foldl (fun _ _ hu => memoryOk_removeTracked hu) h

theorem memoryOk_dropWords {c : Nat} {ps : List (Nat × Nat)} (h : memoryOk s) : memoryOk (s.dropWords c ps) := memoryOk_modCore h

theorem memoryOk_invRange {c scope : Nat} {ps : List (Nat × Nat)} (h : memoryOk s) :
    memoryOk (s.invRange c scope ps) :=
  memoryOk_ite (memoryOk_dropWords (memoryOk_dropLines h)) (memoryOk_untrackRange
      (memoryOk_foldl (fun _ _ hu => memoryOk_homeDrop hu) (memoryOk_dropWords (memoryOk_dropLines h))))

theorem memoryOk_cleanInvRange {c scope : Nat} {ps : List (Nat × Nat)} (h : memoryOk s) :
    memoryOk (s.cleanInvRange c scope ps) := memoryOk_invRange (memoryOk_cleanRange h)

theorem memoryOk_homeAtomic {writer : Option Nat} {a n op operand : Nat} {cmp : Option Nat} (h : memoryOk s) :
    memoryOk (s.homeAtomic writer a n op operand cmp).2 := by
  unfold State.homeAtomic
  extract_lets old put
  have hput : ∀ v, memoryOk (put v) := fun _ => memoryOk_homeWrite h
  split
  · exact memoryOk_ite (hput _) (memoryOk_removeTracked h)
  · exact hput _

theorem memoryOk_countError {d ecc : Nat} (h : memoryOk s) : memoryOk (s.countError d ecc) := memoryOk_same h rfl rfl

theorem memoryOk_enterError {line : Nat} (h : memoryOk s) : memoryOk (s.enterError line) := by
  unfold State.enterError
  extract_lets d m
  split
  · exact memoryOk_same h rfl rfl
  · exact h

theorem memoryOk_homeEvictBad {k : Nat} (h : memoryOk s) : memoryOk (s.homeEvictBad k) := by
  unfold State.homeEvictBad
  split
  · refine memoryOk_ite ?_ ?_
    · exact memoryOk_enterError (memoryOk_countError (memoryOk_homeDrop h))
    · exact memoryOk_countError (memoryOk_homeDrop h)
  · exact h

theorem memoryOk_l1EvictBad {c line : Nat} (h : memoryOk s) : memoryOk (s.l1EvictBad c line) := by
  unfold State.l1EvictBad
  extract_lets s1
  split
  · exact memoryOk_ite (memoryOk_countError (memoryOk_modCore h)) (memoryOk_enterError (memoryOk_countError (memoryOk_modCore h)))
  · exact h

theorem okAfter_execCacheEviction {home : Bool} {c n : Nat} {err : Bool} (h : memoryOk s) : okAfter (execCacheEviction home c n err s) := by
  unfold execCacheEviction
  split
  · exact memoryOk_homeEvict h
  · exact memoryOk_homeEvictBad h
  · exact memoryOk_modCore (memoryOk_writeBack h)
  · exact memoryOk_l1EvictBad h

theorem memoryOk_imageFault {w c code : Nat} {tval : Word} (h : memoryOk s) : memoryOk (State.jobFault.imageFault s w c code tval).1 := by
  unfold State.jobFault.imageFault
  split
  · exact okFst_ite (memoryOk_modWeave h) h
  · exact h

theorem memoryOk_jobFault {w c code : Nat} {tval : Word} (h : memoryOk s) : memoryOk (s.jobFault w c code tval).1 := by
  unfold State.jobFault
  split
  · exact okFst_ite (memoryOk_asyncFault h) (memoryOk_imageFault h)
  · exact memoryOk_imageFault h
  · exact h

/-! Accesses of a core. -/

theorem memoryOk_modAccess {c id : Nat} {f : Access → Access} (h : memoryOk s) : memoryOk (s.modAccess c id f) := memoryOk_modCore h

theorem memoryOk_endAccess {c id : Nat} (h : memoryOk s) : memoryOk (s.endAccess c id) := memoryOk_modCore h

theorem memoryOk_enqueue {c : Nat} {a : Access} (h : memoryOk s) : memoryOk (s.enqueue c a) := memoryOk_fresh (memoryOk_modCore h)

theorem memoryOk_fix {c : Nat} {a : Access} {bs : List Byte} (h : memoryOk s) : memoryOk (s.fix c a bs) := memoryOk_modAccess h

theorem memoryOk_later {c id n : Nat} (h : memoryOk s) : memoryOk (s.later c id n) := memoryOk_modAccess h

theorem memoryOk_before_ {c : Nat} {a : Access} (h : memoryOk s) : memoryOk (s.before_ c a) := memoryOk_ite (memoryOk_release h) h

theorem memoryOk_after_ {c : Nat} {a : Access} (h : memoryOk s) : memoryOk (s.after_ c a) := memoryOk_ite (memoryOk_acquire h) h

theorem memoryOk_stopData {c : Nat} (h : memoryOk s) : memoryOk (s.stopData c) := memoryOk_modData h

theorem memoryOk_strandFault {c strand code : Nat} {tval : Word} {va : Nat} (h : memoryOk s) :
    memoryOk (s.strandFault c strand code tval va) := memoryOk_dataFault (memoryOk_stopData h)

theorem memoryOk_endXfer {c id : Nat} (h : memoryOk s) : memoryOk (s.endXfer c id) := memoryOk_modCore h

theorem memoryOk_accessFault {c : Nat} {a : Access} {code : Nat} (h : memoryOk s) : memoryOk (s.accessFault c a code) := by
  unfold State.accessFault
  extract_lets s1 s2
  have hs1 : memoryOk s1 := memoryOk_ite (memoryOk_endAccess h) (memoryOk_endXfer h)
  have hs2 : memoryOk s2 := by
    unfold s2
    split
    · exact memoryOk_modCore hs1
    · exact hs1
  exact memoryOk_ite (memoryOk_trapAt hs2) (memoryOk_strandFault hs2)

theorem memoryOk_markStrong {c : Nat} {a : Access} (h : memoryOk s) : memoryOk (s.markStrong c a) := memoryOk_ite (memoryOk_same h rfl rfl) h

theorem memoryOk_performCore {c : Nat} {a : Access} (h : memoryOk s) : memoryOk (s.performCore c a) := by
  unfold State.performCore
  extract_lets s1
  split
  · exact memoryOk_after_ (memoryOk_endAccess (memoryOk_modCore (memoryOk_before_ h)))
  · exact memoryOk_after_ (memoryOk_fix (memoryOk_before_ h))

theorem memoryOk_performL1 {c : Nat} {a : Access} (h : memoryOk s) : memoryOk (s.performL1 c a) := by
  unfold State.performL1
  extract_lets s1
  split
  · exact memoryOk_after_ (memoryOk_endAccess (memoryOk_l1PutAll (memoryOk_before_ h)))
  · exact memoryOk_after_ (memoryOk_fix (memoryOk_later (memoryOk_before_ h)))

theorem memoryOk_performArrival {c : Nat} {a : Access} {b : BarId} (h : memoryOk s) : memoryOk (s.performArrival c a b) := by
  unfold State.performArrival
  extract_lets s1 p
  have hs1 : memoryOk s1 := memoryOk_endAccess (memoryOk_release h)
  split
  · exact memoryOk_trapAt hs1
  next s2 heq =>
    split
    · exact memoryOk_wakeWith (of_okSome (okSome_barAdd hs1) heq)
    · exact memoryOk_wake (of_okSome (okSome_barAdd hs1) heq)

theorem memoryOk_performNear {c : Nat} {a : Access} (h : memoryOk s) : memoryOk (s.performNear c a) := by
  unfold State.performNear
  split
  · exact memoryOk_after_ (memoryOk_endAccess (memoryOk_before_ h))
  · exact memoryOk_endAccess h
  · exact memoryOk_endAccess (memoryOk_cleanRange h)
  · exact memoryOk_endAccess (memoryOk_invRange h)
  · exact memoryOk_endAccess (memoryOk_cleanInvRange h)
  · exact memoryOk_performArrival h
  · exact memoryOk_performCore h
  · exact memoryOk_performCore h
  · exact memoryOk_performL1 h

theorem memoryOk_fillFor {c : Nat} {a : Access} (h : memoryOk s) : memoryOk (s.fillFor c a) := by
  unfold State.fillFor
  refine memoryOk_ite ?_ ?_
  · exact memoryOk_foldl (fun _ _ hu => memoryOk_homeFetch hu) h
  · exact memoryOk_foldl (fun _ _ hu => memoryOk_ite (memoryOk_track (memoryOk_fillL1 hu)) (memoryOk_fillL1 hu)) h

theorem memoryOk_yieldLines {c : Nat} {a : Access} (h : memoryOk s) :
    memoryOk (s.yieldLines c a) := memoryOk_foldl (fun _ _ hu => memoryOk_yieldLine hu) h

theorem memoryOk_performHome {c : Nat} {a : Access} (h : memoryOk s) : memoryOk (s.performHome c a) := by
  unfold State.performHome
  extract_lets s1
  split
  · exact memoryOk_after_ (memoryOk_endAccess (memoryOk_homeWrite (memoryOk_l1PutAll (memoryOk_before_ h))))
  · exact memoryOk_after_ (memoryOk_fix (memoryOk_later (memoryOk_homeAtomic (memoryOk_yieldLines (memoryOk_before_ h)))))
  · exact memoryOk_after_ (memoryOk_fix (memoryOk_later (memoryOk_fillFor
      (memoryOk_ite (memoryOk_yieldLines (memoryOk_before_ h)) (memoryOk_before_ h)))))

theorem memoryOk_strandError {c : Nat} {a : Access} (h : memoryOk s) : memoryOk (s.strandError c a) := by
  unfold State.strandError
  split
  · exact memoryOk_modAccess (memoryOk_later h)
  · exact memoryOk_accessFault h

theorem okAfter_execHomeRequest {c id ecc : Nat} (h : memoryOk s) : okAfter (execHomeRequest c id ecc s) := by
  unfold execHomeRequest
  extract_lets k
  split
  · exact h
  · refine okAfter_ite h ?_
    refine okAfter_ite (memoryOk_strandError h) ?_
    refine okAfter_ite (memoryOk_performHome (memoryOk_countError (memoryOk_homeDrop h))) ?_
    refine okAfter_ite ?_ ?_
    · exact okAfter_ite (memoryOk_strandError (memoryOk_countError h)) h
    · exact okAfter_ite (memoryOk_performHome h) (memoryOk_performHome (memoryOk_countError h))

theorem memoryOk_writeLoad {c t rd : Nat} {sx : Bool} {bs : List Byte} (h : memoryOk s) :
    memoryOk (s.writeLoad c t rd sx bs) := memoryOk_ite (memoryOk_setReg (memoryOk_setReg h)) (memoryOk_setReg h)

theorem memoryOk_deliver {c : Nat} {a : Access} (h : memoryOk s) : memoryOk (s.deliver c a) := by
  unfold State.deliver
  extract_lets s1 s2
  have hs2 : memoryOk s2 := by
    unfold s2
    split
    · exact memoryOk_endAccess h
    · exact memoryOk_writeLoad (memoryOk_endAccess h)
    · exact memoryOk_modData (memoryOk_endAccess h)
    · exact memoryOk_modData (memoryOk_endAccess h)
  split
  · exact memoryOk_ite (memoryOk_wake hs2) hs2
  · exact hs2

theorem okAfter_execMemoryReadReturn {c id ecc : Nat} (h : memoryOk s) : okAfter (execMemoryReadReturn c id ecc s) := by
  unfold execMemoryReadReturn
  extract_lets k
  split
  · exact h
  · refine okAfter_ite h ?_
    refine okAfter_ite (memoryOk_accessFault h) ?_
    refine okAfter_ite (memoryOk_deliver h) ?_
    refine okAfter_ite (memoryOk_deliver (memoryOk_countError h)) ?_
    refine okAfter_ite ?_ ?_
    · exact memoryOk_modAccess (memoryOk_untrack (memoryOk_countError h))
    · exact okAfter_ite (memoryOk_accessFault (memoryOk_countError h)) h

theorem memoryOk_taskAccess {c t : Nat} {a : Access} (h : memoryOk s) : memoryOk (s.taskAccess c t a) := memoryOk_enqueue h

/-! Status flags. -/

theorem memoryOk_note {c : Nat} {r : NumRes} (h : memoryOk s) : memoryOk (s.note c r) := memoryOk_modCore h

/-! Integer words. -/

theorem okAfter_asTask {f : Nat → Nat → State} (h : memoryOk s) (hf : ∀ c t, memoryOk (f c t)) : okAfter (asTask s f) := by
  unfold asTask
  split
  · exact hf _ _
  · exact h

theorem okAfter_alu {hd : CHdr} {d a b lat : Nat} {f : Word → Word → Word} (h : memoryOk s) :
    okAfter (alu hd d a b lat f s) := okAfter_asTask h (fun _ _ => memoryOk_result h)

theorem okAfter_aluI {hd : CHdr} {d a : Nat} {imm : Word} {f : Word → Word → Word} (h : memoryOk s) :
    okAfter (aluI hd d a imm f s) := okAfter_asTask h (fun _ _ => memoryOk_result h)

theorem okAfter_exactOp {hd : CHdr} {d lat : Nat} {x : Nat → Nat → Int} (h : memoryOk s) :
    okAfter (exactOp hd d lat s x) := okAfter_asTask h (fun _ _ => memoryOk_result (memoryOk_note h))

theorem okAfter_divide {hd : CHdr} {d a b : Nat} {sg : Bool} {f zero : Word → Word → Word} (h : memoryOk s) :
    okAfter (divide hd d a b sg f zero s) := okAfter_asTask h (fun _ _ => memoryOk_result h)

/-! Floating-point words. -/

theorem memoryOk_scalarResult {hd : CHdr} {c t d : Nat} {r : NumRes} {rounds : Bool} {lat words : Nat} (h : memoryOk s) :
    memoryOk (scalarResult hd s c t d r rounds lat words) := memoryOk_result (memoryOk_modTask (memoryOk_note h))

theorem okAfter_scalarOp {op : ArOp} {rounds : Bool} {hd : CHdr} {fmt d a b : Nat} (h : memoryOk s) :
    okAfter (scalarOp op rounds hd fmt d a b s) := okAfter_asTask h (fun _ _ => memoryOk_scalarResult h)

theorem okAfter_scalarCmp {rel : Nat} {hd : CHdr} {fmt d a b : Nat} (h : memoryOk s) :
    okAfter (scalarCmp rel hd fmt d a b s) := okAfter_asTask h (fun _ _ => memoryOk_result h)

/-! Transfers. -/

theorem memoryOk_transfer {c t : Nat} {target : Word} {ok : State} (h : memoryOk s) (hok : memoryOk ok) : memoryOk (transfer s c t target ok) := by
  unfold transfer
  refine memoryOk_ite (memoryOk_trap h) ?_
  split
  · exact memoryOk_fatal h
  · exact memoryOk_ite hok (memoryOk_trap h)

theorem okAfter_branch {rel : Word → Word → Bool} {hd : CHdr} {a b off : Nat} (h : memoryOk s) :
    okAfter (branch rel hd a b off s) := okAfter_asTask h (fun _ _ => memoryOk_ite (memoryOk_transfer h (memoryOk_jumpTo h)) (memoryOk_goOn h))

theorem okAfter_goTo {hd : CHdr} {link : Bool} {target : Nat → Nat → Word} (h : memoryOk s) :
    okAfter (goTo hd link target s) := okAfter_asTask h (fun _ _ => memoryOk_transfer h (memoryOk_jumpTo (memoryOk_ite (memoryOk_setReg h) h)))

/-! Loads, stores and atomics. -/

theorem memoryOk_memoryAccess {c t len : Nat} {a : Access} (h : memoryOk s) : memoryOk (s.memoryAccess c t len a) := by
  unfold State.memoryAccess
  split
  · exact memoryOk_trap h
  · exact memoryOk_goOn (memoryOk_taskAccess (memoryOk_markStrong h))

theorem memoryOk_lsAccess {hd : CHdr} {cs : Bool} {swz n : Nat} {p : Perm} {ea : Word} {x : Nat → Access} {c t : Nat} (h : memoryOk s) :
    memoryOk (lsAccess hd cs swz n p ea x s c t) := by
  unfold lsAccess
  extract_lets k
  refine memoryOk_ite (memoryOk_trap h) ?_
  refine memoryOk_ite (memoryOk_ite (memoryOk_trap h) (memoryOk_goOn (memoryOk_taskAccess h))) ?_
  split
  · exact memoryOk_fatal h
  · refine memoryOk_ite ?_ ?_
    · exact memoryOk_ite (memoryOk_trap h) (memoryOk_ite (memoryOk_trap h) (memoryOk_goOn (memoryOk_taskAccess h)))
    · exact memoryOk_memoryAccess h

theorem memoryOk_atomAccess {hd : CHdr} {n a d op operand : Nat} {cmp : Option Nat} {c t : Nat} (h : memoryOk s) :
    memoryOk (atomAccess hd n a d op operand cmp s c t) := by
  unfold atomAccess
  extract_lets ea
  refine memoryOk_ite (memoryOk_trap h) ?_
  split
  · exact memoryOk_fatal h
  · exact memoryOk_ite (memoryOk_trap h) (memoryOk_memoryAccess h)

theorem okAfter_queueOnly {kind : AKind} {hd : CHdr} {acq rel : Bool} (h : memoryOk s) :
    okAfter (queueOnly kind hd acq rel s) := okAfter_asTask h (fun _ _ => memoryOk_goOn (memoryOk_taskAccess h))

theorem okAfter_maintain {kind : AKind} {hd : CHdr} {a b : Nat} (h : memoryOk s) : okAfter (maintain kind hd a b s) := by
  unfold maintain
  refine okAfter_asTask h (fun c t => ?_)
  extract_lets lo n first last ps
  split
  · exact memoryOk_fatal h
  · exact memoryOk_goOn (memoryOk_taskAccess h)

/-! Walk routines. -/

theorem memoryOk_rvStep {strict : Bool} {i : RvInstr} {len : Nat} {m : Rv} {r : Rv × State} (h : memoryOk s)
    (heq : rvStep strict i len m s = some r) : memoryOk r.2 := by
  cases i with
  | load f rd rs off =>
    obtain ⟨-, heq⟩ := Option.ite_none_left_eq_some.1 heq
    cases heq
    exact h
  | store f rs rt off =>
    obtain ⟨-, heq⟩ := Option.ite_none_left_eq_some.1 heq
    cases heq
    exact memoryOk_homeWrite h
  | _ =>
    cases heq
    exact h

theorem memoryOk_rvRun {store : Bytes} {strict : Bool} {back : Word} {fuel : Nat} {m : Rv} (h : memoryOk s) :
    memoryOk (rvRun store strict back fuel m s).2 := by
  induction fuel generalizing m s with
  | zero => exact h
  | succ fuel ih =>
    unfold rvRun
    refine okSnd_ite h ?_
    split
    · exact h
    next r heq =>
      obtain ⟨i, -, hi⟩ := Option.bind_eq_some_iff.1 heq
      exact ih (memoryOk_rvStep h hi)

theorem memoryOk_walkRoutine {store : Bytes} {fmt tbase a kind : Nat} (h : memoryOk s) : memoryOk (s.walkRoutine store fmt tbase a kind).2 := by
  unfold State.walkRoutine
  extract_lets entry open_ back
  exact okSnd_ite h (memoryOk_rvRun (memoryOk_same h rfl rfl))

/-! Probes, walks and phases. -/

theorem memoryOk_walk {c kind a : Nat} (h : memoryOk s) : memoryOk (s.walk c kind a).2 := by
  unfold State.walk
  split
  · exact h
  · exact okSnd_ite h (memoryOk_walkRoutine h)

theorem okAfter_execProbe {hd : CHdr} {kind d a b : Nat} (h : memoryOk s) : okAfter (execProbe hd kind d a b s) := by
  unfold execProbe
  refine okAfter_asTask h (fun c t => ?_)
  extract_lets k va n
  split
  · exact memoryOk_result h
  · exact memoryOk_ite (memoryOk_same h rfl rfl) (memoryOk_trap h)

theorem memoryOk_dropProbe {c : Nat} (h : memoryOk s) : memoryOk (s.dropProbe c) := memoryOk_same h rfl rfl

theorem memoryOk_endProbe {c : Nat} {p : Probe} {st : Nat} (h : memoryOk s) : memoryOk (s.endProbe c p st) := memoryOk_wakeWith (memoryOk_dropProbe h)

theorem memoryOk_installWalk {c : Nat} {p : Probe} {a : Nat} (h : memoryOk s) : memoryOk (s.installWalk c p a) := by
  unfold State.installWalk
  extract_lets r s1 k
  split
  · exact memoryOk_endProbe (memoryOk_walk h)
  · extract_lets e
    refine memoryOk_ite (memoryOk_endProbe (memoryOk_walk h)) ?_
    split
    · exact memoryOk_endProbe (memoryOk_walk h)
    · refine memoryOk_ite (memoryOk_endProbe (memoryOk_walk h)) ?_
      extract_lets p1 s2
      split
      · exact memoryOk_endProbe (memoryOk_modCore (memoryOk_walk h))
      · exact memoryOk_modCore (memoryOk_walk h)

theorem memoryOk_walkStep {d : Nat} {err : Bool} (h : memoryOk s) : memoryOk (s.walkStep d err) := by
  unfold State.walkStep
  split
  · exact h
  · split
    · exact memoryOk_same h rfl rfl
    · refine memoryOk_ite h ?_
      split
      · exact memoryOk_endProbe h
      · extract_lets s0
        have hs0 : memoryOk s0 := memoryOk_ite (memoryOk_countError h) h
        refine memoryOk_ite (memoryOk_endProbe h) ?_
        refine memoryOk_ite ?_ ?_
        · exact memoryOk_trap (memoryOk_dropProbe hs0)
        · exact memoryOk_ite (memoryOk_endProbe hs0) (memoryOk_installWalk h)

theorem okAfter_execPhase {hd : CHdr} {code : Nat} (h : memoryOk s) : okAfter (execPhase hd code s) := by
  unfold execPhase
  refine okAfter_asTask h (fun c t => ?_)
  extract_lets k old new
  refine memoryOk_ite (memoryOk_trap h) ?_
  split
  · exact memoryOk_trap h
  · exact memoryOk_park (memoryOk_modCore h)

theorem okAfter_execPhaseComplete {c : Nat} (h : memoryOk s) : okAfter (execPhaseComplete c s) := by
  unfold execPhaseComplete
  extract_lets k
  split
  · exact h
  · refine okAfter_ite ?_ ?_
    · exact h
    · exact memoryOk_wake (memoryOk_modCore (memoryOk_ite (memoryOk_modCore (memoryOk_writeBackAll h)) h))

/-! Strands. -/

theorem memoryOk_modStrand {c e : Nat} {f : Strand → Strand} (h : memoryOk s) : memoryOk (s.modStrand c e f) := memoryOk_modData h

theorem memoryOk_addWithheld {c : Nat} {w : Withheld} (h : memoryOk s) : memoryOk (s.addWithheld c w) := by
  unfold State.addWithheld
  split
  next s1 heq => exact of_okSome (okSome_barAdd h) heq
  · exact memoryOk_strandFault h

theorem memoryOk_releasePoint {c : Nat} (h : memoryOk s) :
    memoryOk (s.releasePoint c) := memoryOk_foldl (fun _ _ hu => memoryOk_addWithheld hu) (memoryOk_modData h)

theorem memoryOk_snapPoint {c : Nat} (h : memoryOk s) :
    memoryOk (s.snapPoint c) := memoryOk_foldl (fun _ _ hu => memoryOk_addWithheld hu) (memoryOk_modData h)

theorem memoryOk_takeSnap {c : Nat} {m : Snap} (h : memoryOk s) : memoryOk (s.takeSnap c m) := memoryOk_snapPoint (memoryOk_modCore h)

theorem memoryOk_markCycle {c : Nat} (h : memoryOk s) : memoryOk (s.markCycle c) := memoryOk_modCore h

theorem okAfter_asStrand {e : Nat} {f : Nat → State} (h : memoryOk s) (hf : ∀ x0, memoryOk (f x0)) : okAfter (asStrand s e f) := by
  unfold asStrand
  split
  · exact okAfter_ite (hf _) h
  · exact h

theorem okAfter_asAnyStrand {f : Nat → Nat → State} (h : memoryOk s) (hf : ∀ x0 x1, memoryOk (f x0 x1)) : okAfter (asAnyStrand s f) := by
  unfold asAnyStrand
  split
  · exact hf _ _
  · exact h

theorem memoryOk_issueWord {c : Nat} {hd : DHdr} (h : memoryOk s) : memoryOk (s.issueWord c hd) := by
  unfold State.issueWord
  extract_lets s1
  refine memoryOk_ite ?_ (memoryOk_markCycle h)
  split
  · exact memoryOk_takeSnap (memoryOk_markCycle h)
  · exact memoryOk_markCycle h

theorem memoryOk_undefinedWord {c e : Nat} (h : memoryOk s) : memoryOk (s.undefinedWord c e) := memoryOk_strandFault h

theorem memoryOk_stepStrand {c e : Nat} (h : memoryOk s) : memoryOk (s.stepStrand c e) := memoryOk_modData h

theorem memoryOk_pop {c e : Nat} {types : List Nat} {ok : State → CqEnt → State} {none_ : State → State} (h : memoryOk s)
    (hok : ∀ u x, memoryOk u → memoryOk (ok u x)) (hnone : ∀ u, memoryOk u → memoryOk (none_ u)) : memoryOk (s.pop c e types ok none_) := by
  unfold State.pop
  split
  · exact h
  · extract_lets s1
    refine memoryOk_ite ?_ (memoryOk_ite (hok _ _ (memoryOk_modStrand h)) (memoryOk_strandFault (memoryOk_modStrand h)))
    split
    · exact memoryOk_modData (memoryOk_modStrand h)
    · exact hnone _ (memoryOk_modStrand h)

theorem memoryOk_popLoop {c e ty len : Nat} {ok : State → CqEnt → State} (h : memoryOk s) (hok : ∀ u x, memoryOk u → memoryOk (ok u x)) :
    memoryOk (s.popLoop c e ty len ok) := by
  unfold State.popLoop
  split
  · exact h
  · exact memoryOk_ite (memoryOk_modData (memoryOk_modStrand h))
      (memoryOk_ite (hok _ _ (memoryOk_modStrand h)) (memoryOk_strandFault (memoryOk_modStrand h)))

theorem okAfter_sharedNop {hd : DHdr} (h : memoryOk s) :
    okAfter (sharedNop hd s) := okAfter_asAnyStrand h (fun _ _ => memoryOk_stepStrand (memoryOk_issueWord h))

theorem okAfter_execDataRim {hd : DHdr} (h : memoryOk s) : okAfter (execDataRim hd s) := by
  unfold execDataRim
  refine okAfter_asAnyStrand h (fun c e => ?_)
  refine memoryOk_ite ?_ ?_
  · exact memoryOk_undefinedWord h
  · exact memoryOk_modStrand (memoryOk_ite (memoryOk_releasePoint (memoryOk_stepStrand (memoryOk_issueWord h)))
      (memoryOk_stepStrand (memoryOk_issueWord h)))

theorem okAfter_execDataRegion {hd : DHdr} {mode : Nat} (h : memoryOk s) : okAfter (execDataRegion hd mode s) := by
  unfold execDataRegion
  refine okAfter_asAnyStrand h (fun c e => ?_)
  refine memoryOk_ite (memoryOk_undefinedWord h) ?_
  refine memoryOk_pop (memoryOk_issueWord h) (fun s ent hs => ?_)
      (fun s hs => memoryOk_ite (memoryOk_releasePoint (memoryOk_stepStrand hs)) (memoryOk_stepStrand hs))
  refine memoryOk_ite ?_ ?_
  · exact memoryOk_modStrand (memoryOk_ite (memoryOk_releasePoint (memoryOk_stepStrand hs)) (memoryOk_stepStrand hs))
  · exact memoryOk_strandFault hs

theorem okAfter_loopWord {hd : DHdr} {len : Nat} (h : memoryOk s) : okAfter (loopWord hd len s) := by
  unfold loopWord
  refine okAfter_asAnyStrand h (fun c e => ?_)
  extract_lets x
  refine memoryOk_ite ?_ ?_
  · exact memoryOk_undefinedWord h
  · exact memoryOk_popLoop (memoryOk_issueWord h) (fun s ent hs => memoryOk_modData hs)

theorem okAfter_whileWord {hd : DHdr} {len : Nat} (h : memoryOk s) : okAfter (whileWord hd len s) := by
  unfold whileWord
  refine okAfter_asAnyStrand h (fun c e => ?_)
  extract_lets x again
  refine memoryOk_ite ?_ ?_
  · exact memoryOk_undefinedWord h
  · exact memoryOk_popLoop (memoryOk_ite (memoryOk_modStrand (memoryOk_issueWord h)) (memoryOk_issueWord h)) (fun s ent hs => memoryOk_modData hs)

theorem okAfter_ifWord {hd : DHdr} {len : Nat} (h : memoryOk s) : okAfter (ifWord hd len s) := by
  unfold ifWord
  refine okAfter_asAnyStrand h (fun c e => ?_)
  extract_lets x
  refine memoryOk_ite ?_ ?_
  · exact memoryOk_undefinedWord h
  · exact memoryOk_pop (memoryOk_issueWord h) (fun s ent hs => memoryOk_modData hs) (fun s hs => memoryOk_modData hs)

theorem okAfter_valWord {hd : DHdr} {xd : Nat} (h : memoryOk s) :
    okAfter (valWord hd xd s) :=
  okAfter_asAnyStrand h (fun _ _ => memoryOk_pop (memoryOk_issueWord h) (fun _ _ hs => memoryOk_stepStrand (memoryOk_modStrand hs))
      (fun _ hs => memoryOk_stepStrand hs))

theorem okAfter_xsetWord {hd : DHdr} {xd src val : Nat} (h : memoryOk s) :
    okAfter (xsetWord hd xd src val s) := okAfter_asAnyStrand h (fun _ _ => memoryOk_stepStrand (memoryOk_modStrand (memoryOk_issueWord h)))

theorem okAfter_xaddWord {hd : DHdr} {xa xd imm : Nat} (h : memoryOk s) :
    okAfter (xaddWord hd xa xd imm s) := okAfter_asAnyStrand h (fun _ _ => memoryOk_stepStrand (memoryOk_modStrand (memoryOk_issueWord h)))

theorem memoryOk_skipWord {c e : Nat} (h : memoryOk s) : memoryOk (s.skipWord c e) := memoryOk_stepStrand (memoryOk_markCycle h)

/-! Jobs and control queues. -/

theorem memoryOk_strandAbsent {hd : CHdr} {c t : Nat} (h : memoryOk s) :
    memoryOk (strandAbsent hd s c t) := memoryOk_ite (memoryOk_trap h) (memoryOk_goOn (memoryOk_asyncFault h))

theorem okAfter_send {hd : CHdr} {eng tag ty : Nat} {payload : Nat → Nat → Nat} (h : memoryOk s) :
    okAfter (send hd eng tag ty payload s) :=
  okAfter_asTask h (fun _ _ => memoryOk_ite (memoryOk_strandAbsent h) (memoryOk_ite h (memoryOk_goOn (memoryOk_modStrand h))))

theorem okSome_sysWrite {c t n : Nat} {v : Word} (h : memoryOk s) : okSome (sysWrite s c t n v) := by
  unfold sysWrite
  split
  · exact okSome_ite trivial (memoryOk_modTask h)
  · exact memoryOk_modCore h
  · exact memoryOk_modCore h
  · exact memoryOk_modCore h
  · exact okSome_ite trivial (memoryOk_modCore h)
  · exact memoryOk_modTask h
  · exact okSome_ite trivial (memoryOk_modTask h)
  · exact memoryOk_modTask h
  · exact memoryOk_modTask h
  · exact memoryOk_modCore h
  · exact trivial

theorem okAfter_execSysr {hd : CHdr} {d n : Nat} (h : memoryOk s) : okAfter (execSysr hd d n s) := by
  unfold execSysr
  refine okAfter_asTask h (fun c t => ?_)
  split
  · exact memoryOk_result h
  · exact memoryOk_trap h

theorem okAfter_execSysw {hd : CHdr} {n a : Nat} (h : memoryOk s) : okAfter (execSysw hd n a s) := by
  unfold execSysw
  refine okAfter_asTask h (fun c t => ?_)
  split
  next s1 heq => exact memoryOk_goOn (of_okSome (okSome_sysWrite h) heq)
  · exact memoryOk_trap h

theorem okAfter_execGo {hd : CHdr} (h : memoryOk s) : okAfter (execGo hd s) := by
  unfold execGo
  refine okAfter_asTask h (fun c t => ?_)
  extract_lets k
  refine memoryOk_ite (memoryOk_trap h) ?_
  split
  · exact memoryOk_trap h
  · exact memoryOk_goOn (memoryOk_takeSnap (memoryOk_modCore h))

theorem okAfter_execRimRendezvous {c : Nat} (h : memoryOk s) : okAfter (execRimRendezvous c s) := by
  unfold execRimRendezvous
  split
  · exact okAfter_ite (memoryOk_wake (memoryOk_acquire h)) h
  · exact h

theorem okAfter_execTspawn {hd : CHdr} {d a off : Nat} (h : memoryOk s) : okAfter (execTspawn hd d a off s) := by
  unfold execTspawn
  refine okAfter_asTask h (fun c t => ?_)
  extract_lets target x u
  have hu : memoryOk u := by
    unfold u
    split
    · exact memoryOk_result h
    · exact memoryOk_result (memoryOk_modCore (memoryOk_fresh h))
  exact memoryOk_transfer h hu

theorem memoryOk_withBarrier {c t a : Nat} {needConfig : Bool} {ok : BarId → State} (h : memoryOk s) (hok : ∀ x0, memoryOk (ok x0)) :
    memoryOk (withBarrier s c t a needConfig ok) := by
  unfold withBarrier
  extract_lets va
  refine memoryOk_ite (memoryOk_trap h) ?_
  split
  · exact memoryOk_fatal h
  · split
    · exact memoryOk_trap h
    · exact memoryOk_ite (memoryOk_trap h) (memoryOk_ite (memoryOk_trap h) (hok _))

theorem okAfter_execEvw {hd : CHdr} {a : Nat} (h : memoryOk s) : okAfter (execEvw hd a s) := by
  unfold execEvw
  refine okAfter_asTask h (fun c t => ?_)
  extract_lets v slot
  refine memoryOk_ite ?_ ?_
  · exact memoryOk_trap h
  · exact memoryOk_ite (memoryOk_park h) (memoryOk_goOn (memoryOk_acquire (memoryOk_modCore h)))

theorem okAfter_execRestart {hd : CHdr} (h : memoryOk s) : okAfter (execRestart hd s) := by
  unfold execRestart
  refine okAfter_asTask h (fun c t => ?_)
  extract_lets d
  refine memoryOk_ite (memoryOk_trap h) ?_
  split
  · exact memoryOk_trap h
  · exact memoryOk_modWait (memoryOk_park (memoryOk_ite (memoryOk_stopData h) h))

theorem memoryOk_finishRestart {c : Nat} (h : memoryOk s) : memoryOk (s.finishRestart c) := by
  unfold State.finishRestart
  split
  · exact h
  · exact memoryOk_ite (memoryOk_wake (memoryOk_modCore h)) h

theorem okAfter_execRegionCrossingComplete {c : Nat} (h : memoryOk s) : okAfter (execRegionCrossingComplete c s) := by
  unfold execRegionCrossingComplete
  extract_lets d
  split
  · exact h
  · exact okAfter_ite (memoryOk_takeSnap (memoryOk_modCore h)) h

end Sys2Proof.Machine
end

section
/-! SUPPORT. Memory keeps its form through the data engines, the fabric, the near-memory units, the groups and the walks (R132, R144). -/

namespace Sys2Proof.Machine

open Sys2Proof

variable {s u : State}

/-! The copy engine. -/

theorem memoryOk_copyFault {c code va : Nat} (h : memoryOk s) : memoryOk (copyFault s c code va) := memoryOk_strandFault h

theorem memoryOk_startXfer {c : Nat} {hd : DHdr} {x : Xfer} (h : memoryOk s) :
    memoryOk (s.startXfer c hd x) := memoryOk_stepStrand (memoryOk_fresh (memoryOk_modData (memoryOk_issueWord h)))

theorem okAfter_transferWord {hd : DHdr} {x : DX} {fixed : Bool} {shape : Nat → Option Shape} (h : memoryOk s) :
    okAfter (transferWord hd x fixed shape s) := by
  unfold transferWord
  refine okAfter_asStrand h (fun c => ?_)
  extract_lets k
  split
  · exact memoryOk_copyFault h
  · extract_lets y
    refine memoryOk_ite (memoryOk_copyFault h) ?_
    refine memoryOk_ite (memoryOk_copyFault h) ?_
    refine memoryOk_ite ?_ (memoryOk_startXfer h)
    extract_lets va
    split
    · exact memoryOk_copyFault h
    · exact memoryOk_fatal h
    · exact memoryOk_startXfer h

theorem okAfter_fireWord {fill : Bool} {hd : DHdr} {sfmt dfmt rl lc : Nat} {g : DG} (h : memoryOk s) :
    okAfter (fireWord fill hd sfmt dfmt rl lc g s) := by
  unfold fireWord
  refine okAfter_asStrand h (fun c => ?_)
  extract_lets k d w lay base srow se me rows rm pitch su mu memSpace scope
  refine memoryOk_ite (memoryOk_undefinedWord h) ?_
  refine memoryOk_ite (memoryOk_copyFault h) ?_
  refine memoryOk_ite ?_ ?_
  · exact memoryOk_copyFault h
  · exact memoryOk_ite (memoryOk_copyFault h) (memoryOk_modData (memoryOk_startXfer h))

theorem okAfter_execCpTr {hd : DHdr} {ew : Nat} {g : DG} (h : memoryOk s) : okAfter (execCpTr hd ew g s) := by
  unfold execCpTr
  refine okAfter_asStrand h (fun c => ?_)
  extract_lets k d w wi wo
  refine memoryOk_ite ?_ ?_
  · exact memoryOk_undefinedWord h
  · exact memoryOk_ite (memoryOk_copyFault h) (memoryOk_modData (memoryOk_startXfer h))

theorem memoryOk_sendParts {c : Nat} {x : Xfer} {sp swz base : Nat} {p : Perm} {mk : Nat → Access} {offs : List Nat} (h : memoryOk s) :
    memoryOk (s.sendParts c x sp swz base p mk offs) := by
  induction offs generalizing s with
  | nil => exact h
  | cons off offs ih =>
    unfold State.sendParts
    split
    · exact memoryOk_strandFault (memoryOk_endXfer h)
    · exact memoryOk_fatal h
    · exact ih (memoryOk_enqueue h)

theorem memoryOk_modUnit {c id no : Nat} {f : Sector → Sector} (h : memoryOk s) : memoryOk (s.modUnit c id no f) := memoryOk_modData h

theorem memoryOk_moveUnit {c id no : Nat} (h : memoryOk s) : memoryOk (s.moveUnit c id no) := by
  unfold State.moveUnit
  extract_lets k
  split
  · exact h
  · split
    · exact h
    · refine memoryOk_ite h ?_
      split
      · exact memoryOk_ite (memoryOk_sendParts (memoryOk_modUnit h)) h
      · exact memoryOk_ite (memoryOk_sendParts (memoryOk_modUnit (memoryOk_modCore h))) h
      · exact h

theorem okAfter_execCopyTransferComplete {c id : Nat} (h : memoryOk s) : okAfter (execCopyTransferComplete c id s) := by
  unfold execCopyTransferComplete
  extract_lets k
  split
  · exact h
  · extract_lets late
    refine okAfter_ite h ?_
    extract_lets s1
    split
    · exact memoryOk_modData h
    · exact okAfter_ite (memoryOk_modData (memoryOk_modData h)) (memoryOk_addWithheld (memoryOk_modData h))

/-! The vector engine. -/

theorem memoryOk_arrayIssue {i : Instr} {hd : DHdr} {f : AWord → AWord} {after : DataSide → DataSide} {c : Nat} (h : memoryOk s) :
    memoryOk (arrayIssue i hd f after s c) := memoryOk_ite (memoryOk_strandFault h) (memoryOk_stepStrand (memoryOk_modData (memoryOk_issueWord h)))

theorem okAfter_arrayWord {i : Instr} {hd : DHdr} (h : memoryOk s) : okAfter (arrayWord i hd s) := okAfter_asStrand h (fun _ => memoryOk_arrayIssue h)

theorem memoryOk_vecAccesses {c : Nat} {m : DM} {mk : VUnit → Access} {us : List VUnit} (h : memoryOk s) :
    memoryOk (s.vecAccesses c m mk us) := memoryOk_foldl (fun _ _ hu => memoryOk_enqueue hu) h

theorem okAfter_vecMemory {hd : DHdr} {m : DM} {p : Perm} {ok : State → Nat → List VUnit → Nat → State} (h : memoryOk s)
    (hok : ∀ u c us row, memoryOk u → memoryOk (ok u c us row)) : okAfter (vecMemory hd m p s ok) := by
  unfold vecMemory
  refine okAfter_asStrand h (fun c => ?_)
  extract_lets k row act b us
  split
  · exact memoryOk_strandFault h
  · exact memoryOk_fatal h
  · exact memoryOk_stepStrand (memoryOk_modStrand (hok _ _ _ _ (memoryOk_issueWord h)))

theorem okAfter_execVstr {hd : DHdr} {g : DG} (h : memoryOk s) : okAfter (execVstr hd g s) := by
  unfold execVstr
  refine okAfter_asStrand h (fun c => ?_)
  extract_lets k d
  refine memoryOk_ite ?_ ?_
  · exact memoryOk_undefinedWord h
  · exact memoryOk_stepStrand (memoryOk_modData (memoryOk_foldl (fun _ _ hu => memoryOk_enqueue hu) (memoryOk_fresh (memoryOk_issueWord h))))

theorem okAfter_kopWord {hd : DHdr} {kd : Nat} {f : DataSide → Nat} (h : memoryOk s) :
    okAfter (kopWord hd kd f s) := okAfter_asStrand h (fun _ => memoryOk_stepStrand (memoryOk_modData (memoryOk_issueWord h)))

theorem okAfter_execResultDue {c : Nat} (h : memoryOk s) : okAfter (execResultDue c s) := okAfter_ite h (memoryOk_modCore h)

theorem memoryOk_startChain {c : Nat} {w : AWord} {vp : Nat} {g : DG} (h : memoryOk s) :
    memoryOk (s.startChain c w vp g) := memoryOk_ite (memoryOk_strandFault h) (memoryOk_modCore h)

theorem memoryOk_countWait {c : Nat} {waited : Bool} (h : memoryOk s) : memoryOk (s.countWait c waited) := memoryOk_ite (memoryOk_modCore h) h

theorem okAfter_execArrayWordStart {c : Nat} (h : memoryOk s) : okAfter (execArrayWordStart c s) := by
  unfold execArrayWordStart
  extract_lets d
  split
  · exact h
  · refine okAfter_ite h ?_
    extract_lets blocks s0 s1
    have hs0 : memoryOk s0 := memoryOk_modCore (memoryOk_modData h)
    split
    · exact memoryOk_startChain (memoryOk_countWait hs0)
    · split
      · exact memoryOk_countWait hs0
      · exact memoryOk_modCore (memoryOk_countWait hs0)

/-! The matrix engine. -/

theorem memoryOk_queueWord {i : Instr} {hd : DHdr} {slots slotsB : List Nat} {fire : DataSide → DataSide} {c : Nat} (h : memoryOk s) :
    memoryOk (queueWord i hd slots slotsB fire s c) :=
  memoryOk_ite (memoryOk_strandFault h) (memoryOk_stepStrand (memoryOk_modData (memoryOk_issueWord h)))

theorem okAfter_execMreleaseSlotsEmpty {c : Nat} (h : memoryOk s) : okAfter (execMreleaseSlotsEmpty c s) := okAfter_ite h (memoryOk_modData h)

theorem okAfter_execMatrixQueueStart {c : Nat} (h : memoryOk s) : okAfter (execMatrixQueueStart c s) := by
  unfold execMatrixQueueStart
  extract_lets k d
  split
  · exact h
  · exact okAfter_ite h (okAfter_ite (memoryOk_modCore h) (memoryOk_modData (memoryOk_modCore h)))

theorem memoryOk_mmaDue {m : DMma} {w : MWord} {c : Nat} (h : memoryOk s) :
    memoryOk (mmaDue m w s c) := memoryOk_ite (memoryOk_strandFault h) (memoryOk_modCore h)

theorem memoryOk_fillDue {sf : Nat} {g : DG} {w : MWord} {c : Nat} (h : memoryOk s) : memoryOk (fillDue sf g w s c) := memoryOk_modCore h

theorem memoryOk_drainDue {df rm : Nat} {clr sat : Bool} {g : DG} {w : MWord} {c : Nat} (h : memoryOk s) :
    memoryOk (drainDue df rm clr sat g w s c) := memoryOk_modCore h

theorem okAfter_execMatrixQueueW {c : Nat} (h : memoryOk s) : okAfter (execMatrixQueueW c s) := by
  unfold execMatrixQueueW
  split
  · exact h
  · refine okAfter_ite h ?_
    extract_lets s1
    split
    · exact memoryOk_mmaDue (memoryOk_modCore (memoryOk_modData h))
    · exact memoryOk_modData (memoryOk_modData h)
    · exact memoryOk_fillDue (memoryOk_modData h)
    · exact memoryOk_drainDue (memoryOk_modData h)
    · exact memoryOk_modData h

/-! The fabric. -/

theorem memoryOk_fabricAccess {n : Nat} {p : Perm} {ea : Word} {c t : Nat} {go : Nat → Bool → State} (h : memoryOk s)
    (hgo : ∀ x0 x1, memoryOk (go x0 x1)) :
    memoryOk (fabricAccess n p ea s c t go) := by
  unfold fabricAccess
  refine memoryOk_ite (memoryOk_trap h) ?_
  split
  · exact memoryOk_fatal h
  · exact memoryOk_ite (memoryOk_trap h) (memoryOk_ite (memoryOk_trap h) (hgo _ _))

theorem okAfter_execGnfy {hd : CHdr} {a : Nat} (h : memoryOk s) : okAfter (execGnfy hd a s) := by
  unfold execGnfy
  refine okAfter_asTask h (fun c t => ?_)
  extract_lets v
  refine memoryOk_ite ?_ ?_
  · exact memoryOk_trap h
  · exact memoryOk_ite (memoryOk_goOn (memoryOk_taskAccess h)) (memoryOk_goOn (memoryOk_post h))

theorem memoryOk_sendNow {c id : Nat} (h : memoryOk s) : memoryOk (s.sendNow c id) := memoryOk_fresh (memoryOk_modAccess h)

theorem memoryOk_sendFabric {c : Nat} {a : Access} (h : memoryOk s) : memoryOk (s.sendFabric c a) := by
  unfold State.sendFabric
  refine memoryOk_ite h ?_
  extract_lets s1
  split
  · exact memoryOk_post (memoryOk_endAccess (memoryOk_before_ h))
  · exact memoryOk_sendNow (memoryOk_before_ h)

theorem memoryOk_modPkg {p : Nat} {f : Pkg → Pkg} (h : memoryOk s) : memoryOk (s.modPkg p f) := memoryOk_same h rfl rfl

theorem memoryOk_attention {p bit_ : Nat} (h : memoryOk s) : memoryOk (s.attention p bit_) := memoryOk_same h rfl rfl

theorem memoryOk_logPart {c cause : Nat} {a : Access} (h : memoryOk s) : memoryOk (s.logPart c cause a) := by
  unfold State.logPart
  extract_lets p l seq s1 s2
  have hs1 : memoryOk s1 := memoryOk_homeWrite h
  have hs2 : memoryOk s2 := memoryOk_attention (memoryOk_same hs1 rfl rfl)
  exact memoryOk_modCore hs2

theorem memoryOk_logStore {c : Nat} {a : Access} {cause : Nat} (h : memoryOk s) :
    memoryOk (s.logStore c a cause) := memoryOk_modAccess (memoryOk_foldl (fun _ _ hu => memoryOk_logPart hu) h)

theorem memoryOk_queueMiss {ctx pa n : Nat} (h : memoryOk s) : memoryOk (s.queueMiss ctx pa n) := memoryOk_same h rfl rfl

theorem memoryOk_refuse {c : Nat} {a : Access} (h : memoryOk s) : memoryOk (s.refuse c a) := memoryOk_modAccess (memoryOk_queueMiss h)

theorem memoryOk_failReply {c id code : Nat} (h : memoryOk s) : memoryOk (s.failReply c id code) := memoryOk_modAccess h

theorem memoryOk_performFabric {c : Nat} {a : Access} {ecc : Nat} (h : memoryOk s) : memoryOk (s.performFabric c a ecc) := by
  unfold State.performFabric
  extract_lets reads s0 s1
  have hs0 : memoryOk s0 := memoryOk_ite h (memoryOk_ite (memoryOk_countError (memoryOk_homeDrop h)) (memoryOk_countError h))
  have hs1 : memoryOk s1 := memoryOk_markStrong (memoryOk_yieldLines hs0)
  refine memoryOk_ite (memoryOk_failReply h) ?_
  refine memoryOk_ite (memoryOk_failReply h) ?_
  refine memoryOk_ite (memoryOk_failReply (memoryOk_countError h)) ?_
  split
  · exact memoryOk_fix (memoryOk_homeWrite hs1)
  · exact memoryOk_fix (memoryOk_homeAtomic hs1)
  · exact memoryOk_fix (memoryOk_foldl (fun _ _ hu => memoryOk_homeFetch hu) hs1)

theorem memoryOk_holdReply {c id : Nat} (h : memoryOk s) : memoryOk (s.holdReply c id) := memoryOk_modCore h

theorem memoryOk_unholdReply {c id : Nat} (h : memoryOk s) : memoryOk (s.unholdReply c id) := memoryOk_modCore h

theorem memoryOk_remoteFault {c : Nat} {a : Access} (h : memoryOk s) : memoryOk (s.remoteFault c a) := by
  unfold State.remoteFault
  refine memoryOk_ite ?_ ?_
  · exact memoryOk_endAccess h
  · exact memoryOk_ite (memoryOk_asyncFault (memoryOk_endAccess h)) (memoryOk_accessFault h)

theorem okAfter_execFabricRefusal {c id : Nat} (h : memoryOk s) : okAfter (execFabricRefusal c id s) := by
  unfold execFabricRefusal
  extract_lets k
  split
  · exact h
  · refine okAfter_ite h ?_
    refine okAfter_ite ?_ ?_
    · exact memoryOk_holdReply h
    · exact okAfter_ite (memoryOk_modAccess (memoryOk_unholdReply h)) (memoryOk_remoteFault (memoryOk_unholdReply h))

theorem okAfter_execFabricRetryResend {c id : Nat} (h : memoryOk s) : okAfter (execFabricRetryResend c id s) := by
  unfold execFabricRetryResend
  split
  · exact h
  · exact okAfter_ite h (memoryOk_sendNow h)

theorem okAfter_execFabricReply {c id : Nat} (h : memoryOk s) : okAfter (execFabricReply c id s) := by
  unfold execFabricReply
  extract_lets k
  split
  · exact h
  · refine okAfter_ite h ?_
    refine okAfter_ite (memoryOk_holdReply h) ?_
    extract_lets s1
    split
    · exact memoryOk_after_ (memoryOk_deliver (memoryOk_unholdReply h))
    · exact memoryOk_asyncFault (memoryOk_endAccess (memoryOk_unholdReply h))
    · exact memoryOk_ite (memoryOk_endAccess (memoryOk_unholdReply h)) (memoryOk_accessFault (memoryOk_unholdReply h))

theorem memoryOk_acknowledge {p : Nat} {v : Word} {fault : Nat} (h : memoryOk s) : memoryOk (s.acknowledge p v fault) := memoryOk_modCore h

/-! Command blocks. -/

theorem memoryOk_withBlock {c t va n : Nat} {go : List Byte → State} (h : memoryOk s) (hgo : ∀ x0, memoryOk (go x0)) :
    memoryOk (withBlock s c t va n go) := by
  unfold withBlock
  split
  · exact hgo _
  · exact memoryOk_trap h
  · exact memoryOk_fatal h

/-! The near-memory units. -/

theorem memoryOk_modNmu {n : Nat} {f : Nmu → Nmu} (h : memoryOk s) : memoryOk (s.modNmu n f) := memoryOk_same h rfl rfl

theorem memoryOk_sendPartial {emit : Nat} {kind : PKind} {p : NPart} (h : memoryOk s) :
    memoryOk (s.sendPartial emit kind p) := memoryOk_same h rfl rfl

theorem memoryOk_putLines {n : Nat} {ls : List (Nat × Nat)} (h : memoryOk s) : memoryOk (s.putLines n ls) := by
  obtain ⟨hb, hh⟩ := h
  refine ⟨?_, hh⟩
  change Memory.wf (ls.foldl _ s.banks) = true
  induction ls generalizing s with
  | nil => exact hb
  | cons l ls ih => exact ih (s := { s with banks := setBytes s.banks (linePa n l.1) (bytesOfNum 128 l.2) }) (setBytes_wf _ _ _ hb) hh

theorem memoryOk_sendPartials {emit : Nat} {ps : List NPart} (h : memoryOk s) :
    memoryOk (s.sendPartials emit ps) := memoryOk_foldl (fun _ _ hu => memoryOk_sendPartial hu) h

theorem memoryOk_nmuCommit {n : Nat} {r : NRun} (h : memoryOk s) :
    memoryOk (s.nmuCommit n r) := memoryOk_ite (memoryOk_putLines h) (memoryOk_sendPartials (memoryOk_putLines h))

theorem memoryOk_nmuBoundary {n : Nat} {r : NRun} {sp : Bool} (h : memoryOk s) :
    memoryOk (s.nmuBoundary n r sp).1 := (memoryOk_ite (memoryOk_modNmu (memoryOk_nmuCommit h)) (memoryOk_nmuCommit h))

theorem memoryOk_setRun {n : Nat} {r : NRun} (h : memoryOk s) : memoryOk (s.setRun n r) := memoryOk_modNmu h

theorem memoryOk_nmuClose {n f : Nat} {x : State × NRun} (h : memoryOk x.1) : memoryOk (nmuClose n f x).1 := by
  induction f generalizing x with
  | zero => exact h
  | succ f ih =>
    unfold nmuClose
    split
    · exact h
    · exact okFst_ite h (okFst_ite (memoryOk_nmuBoundary h) (ih (memoryOk_nmuBoundary h)))

theorem memoryOk_nmuStep {n : Nat} {r : NRun} (h : memoryOk s) : memoryOk (s.nmuStep n r) := memoryOk_setRun (memoryOk_nmuClose h)

theorem memoryOk_raiseAbort {n : Nat} {c : NCmd} {st : Nat} (h : memoryOk s) :
    memoryOk (s.raiseAbort n c st) := memoryOk_ite h (memoryOk_jobFault (memoryOk_same h rfl rfl))

theorem memoryOk_abortEffects {n : Nat} {c : NCmd} {st : Nat} (h : memoryOk s) :
    memoryOk (s.abortEffects n c st) :=
  memoryOk_ite (memoryOk_sendPartial (memoryOk_ite (memoryOk_raiseAbort h) h)) (memoryOk_ite (memoryOk_raiseAbort h) h)

theorem memoryOk_nmuEnd {n : Nat} {r : NRun} {st : Nat} (h : memoryOk s) : memoryOk (s.nmuEnd n r st) := by
  unfold State.nmuEnd
  extract_lets s0 s1 s2
  have hs0 : memoryOk s0 := memoryOk_ite (memoryOk_countError h) h
  split
  · split
    next s3 heq => exact of_okSome (okSome_barAddOf (memoryOk_abortEffects (memoryOk_modNmu hs0))) heq
    · exact memoryOk_jobFault (memoryOk_abortEffects (memoryOk_modNmu hs0))
  · exact memoryOk_abortEffects (memoryOk_modNmu hs0)

theorem okAfter_asNmu {f : Nat → NRun → State} (h : memoryOk s) (hf : ∀ x0 x1, memoryOk (f x0 x1)) : okAfter (asNmu s f) := by
  unfold asNmu
  split
  · split
    · exact hf _ _
    · exact h
  · exact h

theorem okAfter_regWord {d : Nat} {v : NPoint → Nat} (h : memoryOk s) : okAfter (regWord d v s) := okAfter_asNmu h (fun _ _ => memoryOk_nmuStep h)

theorem okAfter_elemWord {fmt d a b : Nat} {f : Nat → Nat → Nat → Nat} (h : memoryOk s) : okAfter (elemWord fmt d a b f s) := okAfter_regWord h

theorem okAfter_arWord {op : ArOp} {f : NAr} {d a b : Nat} (h : memoryOk s) : okAfter (arWord op f d a b s) := okAfter_elemWord h

theorem okAfter_nloopWord {inner sp : Bool} {len cnt : Nat} (h : memoryOk s) : okAfter (nloopWord inner sp len cnt s) := by
  unfold nloopWord
  refine okAfter_asNmu h (fun n r => ?_)
  extract_lets first last nested past count
  refine memoryOk_ite (memoryOk_nmuEnd h) ?_
  extract_lets b
  refine memoryOk_ite ?_ ?_
  · exact memoryOk_setRun (memoryOk_nmuClose (memoryOk_nmuBoundary h))
  · exact memoryOk_setRun (memoryOk_nmuBoundary h)

theorem okSome_tryAccept {ns : List Nat} {x : NCmd} (h : memoryOk s) :
    okSome (s.tryAccept ns x) := okSome_ite (memoryOk_foldl (fun _ _ hu => memoryOk_modNmu hu) h) trivial

theorem okAfter_execNcmd {hd : CHdr} {a b stack : Nat} (h : memoryOk s) : okAfter (execNcmd hd a b stack s) := by
  unfold execNcmd
  refine okAfter_asTask h (fun c t => ?_)
  extract_lets va mask bad at_
  refine memoryOk_ite (memoryOk_trap h) ?_
  refine memoryOk_withBlock h (fun bs => ?_)
  extract_lets w d
  refine memoryOk_ite (memoryOk_trap h) ?_
  refine memoryOk_withBlock h (fun prog => ?_)
  split
  · exact memoryOk_trap h
  · exact memoryOk_fatal h
  · exact memoryOk_trap h
  · exact memoryOk_fatal h
  · extract_lets x ns
    split
    next s1 heq => exact memoryOk_goOn (of_okSome (okSome_tryAccept (memoryOk_fresh h)) heq)
    · exact memoryOk_park (memoryOk_modCore (memoryOk_fresh h))

theorem memoryOk_retryNcmd {c t : Nat} (h : memoryOk s) : memoryOk (s.retryNcmd c t) := by
  unfold State.retryNcmd
  split
  · exact h
  · split
    next s1 heq => exact memoryOk_wake (memoryOk_modCore (of_okSome (okSome_tryAccept h) heq))
    · exact h

theorem okAfter_execNstatAnswer {c t : Nat} (h : memoryOk s) : okAfter (execNstatAnswer c t s) := by
  unfold execNstatAnswer
  split
  · split
    · exact memoryOk_wakeWith h
    · exact h
  · exact h

theorem okAfter_execNmuCommandStart {n : Nat} (h : memoryOk s) : okAfter (execNmuCommandStart n s) := by
  unfold execNmuCommandStart
  extract_lets u ok
  split
  · exact memoryOk_modNmu h
  · exact h

theorem memoryOk_writeSlot {n : Nat} {r : NRun} (h : memoryOk s) : memoryOk (s.writeSlot n r) := memoryOk_putLines h

theorem okAfter_execNmuPreemptStop {n : Nat} (h : memoryOk s) : okAfter (execNmuPreemptStop n s) := by
  unfold execNmuPreemptStop
  extract_lets u
  split
  · exact okAfter_ite (memoryOk_modNmu (memoryOk_writeSlot h)) h
  · exact h

theorem okAfter_execNmuRestWatchdog {w : Nat} (h : memoryOk s) : okAfter (execNmuRestWatchdog w s) := by
  unfold execNmuRestWatchdog
  split
  · exact h
  · refine okAfter_ite h ?_
    refine memoryOk_foldl (fun u e hu => ?_) h
    refine memoryOk_ite hu ?_
    extract_lets s1
    have hs1 : memoryOk s1 := by
      unfold s1
      split
      · exact memoryOk_ite (memoryOk_modNmu (memoryOk_nmuEnd hu)) (memoryOk_modNmu hu)
      · exact memoryOk_modNmu hu
    exact memoryOk_modNmu hs1

theorem okAfter_execNmuResume {n : Nat} (h : memoryOk s) : okAfter (execNmuResume n s) := by
  unfold execNmuResume
  extract_lets u ok
  split
  · exact memoryOk_modNmu h
  · exact h

theorem memoryOk_resumeNmus {w : Nat} (h : memoryOk s) : memoryOk (s.resumeNmus w) := by
  unfold State.resumeNmus
  extract_lets mine out clear s1
  have hs1 : memoryOk s1 := by
    unfold s1
    refine memoryOk_foldl (fun u e hu => memoryOk_foldl (fun v r hv => ?_) hu) h
    exact memoryOk_ite (memoryOk_sendPartials hv) hv
  exact memoryOk_same hs1 rfl rfl

theorem memoryOk_nmuErrorMet {n kind : Nat} (h : memoryOk s) : memoryOk (s.nmuErrorMet n kind) := by
  unfold State.nmuErrorMet
  split
  · exact h
  · split
    · exact memoryOk_countError h
    · exact memoryOk_ite (memoryOk_nmuEnd (memoryOk_countError h)) (memoryOk_modNmu h)
    · exact memoryOk_nmuEnd (memoryOk_countError h)
    · exact memoryOk_countError h
    · exact memoryOk_nmuEnd (memoryOk_countError h)

/-! Merge and reduce groups. -/

theorem memoryOk_setGroup {hd : Nat} {g : Grp} (h : memoryOk s) : memoryOk (s.setGroup hd g) := memoryOk_same h rfl rfl

theorem memoryOk_countFab {hd lo : Nat} (h : memoryOk s) : memoryOk (s.countFab hd lo) := memoryOk_same h rfl rfl

theorem memoryOk_writePieces {ps : List (Nat × Nat)} {bs : List Byte} (h : memoryOk s) : memoryOk (s.writePieces ps bs) := by
  induction ps generalizing s bs with
  | nil => exact h
  | cons x ps ih => exact ih (memoryOk_homeWrite h)

theorem okAfter_execMgCfgOpen {hd : CHdr} {d a : Nat} (h : memoryOk s) : okAfter (execMgCfgOpen hd d a s) := by
  unfold execMgCfgOpen
  refine okAfter_asTask h (fun c t => memoryOk_ite (memoryOk_trap h) (memoryOk_withBlock h (fun bs => ?_)))
  extract_lets w go
  have hgo : ∀ n, memoryOk (go n) := fun n => memoryOk_modWait (memoryOk_park h)
  refine memoryOk_ite (hgo 0) ?_
  split
  · exact memoryOk_fatal h
  · exact memoryOk_trap h
  · extract_lets held
    have hheld : ∀ n b, memoryOk (held n b) := fun n b => memoryOk_modWait (hgo n)
    split
    · exact hheld 0 none
    · exact hheld 1 none
    · exact memoryOk_fatal h
    · exact hheld 2 _

theorem okAfter_execMgCfgFree {hd : CHdr} {d b : Nat} (h : memoryOk s) : okAfter (execMgCfgFree hd d b s) := by
  unfold execMgCfgFree
  refine okAfter_asTask h (fun c t => ?_)
  split
  · exact memoryOk_trap h
  · exact memoryOk_modWait (memoryOk_park h)

theorem okAfter_execMgRd {hd : CHdr} {d b : Nat} (h : memoryOk s) : okAfter (execMgRd hd d b s) := by
  unfold execMgRd
  refine okAfter_asTask h (fun c t => ?_)
  split
  · exact memoryOk_trap h
  · exact memoryOk_modWait (memoryOk_park h)

theorem memoryOk_endQuery {hd : Nat} {g : Grp} {st : Nat} {nan masked : Bool} (h : memoryOk s) : memoryOk (s.endQuery hd g st nan masked) := by
  unfold State.endQuery
  extract_lets s1
  split
  · exact memoryOk_countFab (memoryOk_setGroup h)
  · exact memoryOk_countFab (memoryOk_setGroup h)
  · exact memoryOk_setGroup h

theorem memoryOk_tryRoot {hd : Nat} {g : Grp} (h : memoryOk s) :
    memoryOk (s.tryRoot hd g) := memoryOk_ite h (memoryOk_endQuery (memoryOk_writePieces h))

theorem memoryOk_takePartial {m : PartMsg} (h : memoryOk s) : memoryOk (s.takePartial m) := by
  unfold State.takePartial
  split
  · exact memoryOk_countFab h
  · refine memoryOk_ite (memoryOk_countFab h) ?_
    refine memoryOk_ite ?_ ?_
    · exact memoryOk_endQuery h
    · exact memoryOk_ite (memoryOk_endQuery h) (memoryOk_tryRoot (memoryOk_setGroup h))

theorem okAfter_execPartialArrival {id : Nat} (h : memoryOk s) : okAfter (execPartialArrival id s) := by
  unfold execPartialArrival
  split
  · exact memoryOk_takePartial (memoryOk_same h rfl rfl)
  · exact h

theorem okAfter_execMergeTimeout {i : GrpId} (h : memoryOk s) : okAfter (execMergeTimeout i s) := by
  unfold execMergeTimeout
  extract_lets n
  split
  · exact okAfter_ite (memoryOk_endQuery h) h
  · exact h

theorem okAfter_execQueryCompletionDone {i : GrpId} (h : memoryOk s) : okAfter (execQueryCompletionDone i s) := by
  unfold execQueryCompletionDone
  extract_lets n
  split
  · exact h
  · extract_lets st s1 s2 s3
    have hs1 : memoryOk s1 := memoryOk_writePieces h
    have hs2 : memoryOk s2 := memoryOk_ite (memoryOk_same hs1 rfl rfl) (memoryOk_setGroup hs1)
    have hs3 : memoryOk s3 := by
      unfold s3
      split
      · exact hs2
      · exact memoryOk_getD (okSome_barAddOf hs2) (memoryOk_countFab hs2)
    exact okAfter_ite h (memoryOk_ite (memoryOk_post hs3) hs3)

theorem memoryOk_writeSector {hd : Nat} {g : Grp} {bs : List Byte} {base : Nat} (h : memoryOk s) : memoryOk (s.writeSector hd g bs base) := by
  unfold State.writeSector
  extract_lets s1 b
  have hs1 : memoryOk s1 := memoryOk_homeWrite h
  exact memoryOk_ite hs1 (memoryOk_ite (memoryOk_getD (okSome_barAddOf hs1) (memoryOk_countFab hs1)) (memoryOk_countFab hs1))

theorem memoryOk_endReduction {hd : Nat} {g : Grp} {st : Nat} (h : memoryOk s) :
    memoryOk (s.endReduction hd g st) := memoryOk_ite (memoryOk_countFab (memoryOk_setGroup h)) (memoryOk_setGroup h)

theorem memoryOk_trySector {hd k : Nat} (h : memoryOk s) : memoryOk (s.trySector hd k) := by
  unfold State.trySector
  split
  · exact h
  · refine memoryOk_ite ?_ ?_
    · exact h
    · exact memoryOk_ite (memoryOk_endReduction (memoryOk_foldl (fun _ _ hu => memoryOk_writeSector hu) (memoryOk_setGroup h)))
        (memoryOk_foldl (fun _ _ hu => memoryOk_writeSector hu) (memoryOk_setGroup h))

theorem memoryOk_trySectors {hd : Nat} {g : Grp} (h : memoryOk s) :
    memoryOk (s.trySectors hd g) := memoryOk_foldl (fun _ _ hu => memoryOk_trySector hu) h

theorem memoryOk_contribute {c hd idx pa data : Nat} (h : memoryOk s) : memoryOk (s.contribute c hd idx pa data) := by
  unfold State.contribute
  split
  · exact memoryOk_countFab h
  · refine memoryOk_ite ?_ ?_
    · exact memoryOk_countFab h
    · exact memoryOk_ite (memoryOk_endReduction h) (memoryOk_trySector (memoryOk_setGroup h))

theorem okAfter_rstWord {ty : Nat} {hd : CHdr} {d a b : Nat} (h : memoryOk s) : okAfter (rstWord ty hd d a b s) := by
  unfold rstWord
  refine okAfter_asTask h (fun c t => ?_)
  extract_lets hv va n bad
  refine memoryOk_ite (memoryOk_trap h) ?_
  refine memoryOk_ite (memoryOk_trap h) ?_
  split
  · exact memoryOk_trap h
  · refine memoryOk_ite (memoryOk_trap h) ?_
    split
    · exact memoryOk_fatal h
    · exact memoryOk_ite (memoryOk_trap h) (memoryOk_goOn (memoryOk_taskAccess h))

theorem okAfter_execReduceContribution {id : Nat} (h : memoryOk s) : okAfter (execReduceContribution id s) := by
  unfold execReduceContribution
  split
  · exact h
  · split
    · exact okAfter_ite h (memoryOk_contribute (memoryOk_fix h))
    · exact h

theorem okAfter_execReduceTimeout {i : GrpId} (h : memoryOk s) : okAfter (execReduceTimeout i s) := by
  unfold execReduceTimeout
  extract_lets n
  split
  · exact okAfter_ite (memoryOk_endReduction h) h
  · exact h

theorem memoryOk_openGroup {c : Nat} {w : Wait} (h : memoryOk s) : memoryOk (s.openGroup c w).2 := by
  unfold State.openGroup
  extract_lets bs merge ok
  refine okSnd_ite h ?_
  extract_lets g
  split
  · exact h
  · exact memoryOk_setGroup h

theorem memoryOk_freeGroup {hd : Nat} {g : Grp} (h : memoryOk s) : memoryOk (s.freeGroup hd g) := by
  unfold State.freeGroup
  refine memoryOk_ite (memoryOk_same h rfl rfl) ?_
  split
  · exact memoryOk_endQuery h
  · exact memoryOk_setGroup h
  · exact memoryOk_same h rfl rfl

theorem okAfter_execSwitchDieAnswer {c t : Nat} (h : memoryOk s) : okAfter (execSwitchDieAnswer c t s) := by
  unfold execSwitchDieAnswer
  split
  · refine okAfter_ite h ?_
    split
    · exact memoryOk_answered h (memoryOk_wakeWith (memoryOk_openGroup h))
    · split
      · exact memoryOk_answered h (memoryOk_wakeWith (memoryOk_freeGroup h))
      · exact memoryOk_answered h (memoryOk_trap h)
    · split
      · exact memoryOk_answered h (memoryOk_wakeWith h)
      · exact memoryOk_answered h (memoryOk_trap h)
    · exact h
  · exact h

theorem memoryOk_queryRefused {c t hint va : Nat} {got : Tbl (List Byte)} (h : memoryOk s) :
    memoryOk (s.queryRefused c t hint va got) := memoryOk_ite (memoryOk_modWait h) (memoryOk_trap h)

theorem memoryOk_withHomes {c t : Nat} {got : Tbl (List Byte)} {va n : Nat} {go : List Byte → State} (h : memoryOk s) (hgo : ∀ x0, memoryOk (go x0)) :
    memoryOk (withHomes s c t got va n go) := by
  unfold withHomes
  split
  · exact hgo _
  · exact memoryOk_trap h
  · exact memoryOk_fatal h
  · exact memoryOk_queryRefused (memoryOk_queueMiss h)

theorem memoryOk_castStripe {c t hd : Nat} {g : Grp} {hdr : List Byte} {limit : Nat} {q : List Nat} {slot : Nat} {x : Nat × Nat × Nat × Nat}
    (h : memoryOk s) :
    memoryOk (s.castStripe c t hd g hdr limit q slot x) := memoryOk_ite (memoryOk_same h rfl rfl) (memoryOk_same h rfl rfl)

theorem memoryOk_castAll {c t hd : Nat} {g : Grp} {hdr : List Byte} {limit : Nat} {q : List Nat} {xs : List (Nat × Nat × Nat × Nat)}
    (h : memoryOk s) :
    memoryOk (s.castAll c t hd g hdr limit q xs) := memoryOk_foldl (fun _ _ hu => memoryOk_castStripe hu) h

theorem memoryOk_castEntries {c t d hd : Nat} {g : Grp} {ra : Word} {rec_ : List Byte} (h : memoryOk s) :
    memoryOk (s.castEntries c t d hd g ra rec_) := by
  unfold State.castEntries
  extract_lets w e0 ne got
  refine memoryOk_withHomes h (fun hdr => ?_)
  extract_lets s1 got1
  refine memoryOk_withHomes (memoryOk_acquire h) (fun ents => ?_)
  refine memoryOk_withHomes (memoryOk_acquire h) (fun qb => ?_)
  extract_lets es xs
  refine memoryOk_ite ?_ ?_
  · exact memoryOk_trap (memoryOk_acquire h)
  · exact memoryOk_ite (memoryOk_wakeWith (memoryOk_acquire h)) (memoryOk_wakeWith (memoryOk_castAll (memoryOk_setGroup (memoryOk_acquire h))))

theorem okAfter_execQcast {hd : CHdr} {d a b : Nat} (h : memoryOk s) : okAfter (execQcast hd d a b s) := by
  unfold execQcast
  refine okAfter_asTask h (fun c t => ?_)
  refine memoryOk_ite (memoryOk_trap h) ?_
  split
  · exact memoryOk_trap h
  · exact memoryOk_ite (memoryOk_trap h) (memoryOk_park h)

theorem okAfter_execQcastAnswer {c t : Nat} (h : memoryOk s) : okAfter (execQcastAnswer c t s) := by
  unfold execQcastAnswer
  split
  · exact h
  · split
    · extract_lets ra
      refine okAfter_ite h ?_
      refine memoryOk_answered h ?_
      refine memoryOk_withHomes h (fun rec_ => ?_)
      refine memoryOk_ite (memoryOk_trap h) ?_
      split
      · exact memoryOk_trap h
      · refine memoryOk_ite (memoryOk_trap h) ?_
        refine memoryOk_ite ?_ ?_
        · exact memoryOk_castEntries h
        · exact memoryOk_ite (memoryOk_wakeWith h) (memoryOk_wakeWith (memoryOk_setGroup h))
    · exact h

theorem memoryOk_stripePartial {m : StripeMsg} {kind : PKind} (h : memoryOk s) : memoryOk (s.stripePartial m kind) := memoryOk_same h rfl rfl

theorem memoryOk_stripeClean {m : StripeMsg} (h : memoryOk s) :
    memoryOk (s.stripeClean m) := memoryOk_foldl (fun _ _ hu => memoryOk_foldl (fun _ _ hu => memoryOk_homeClean hu) hu) h

theorem okAfter_execStripeMessage {id : Nat} (h : memoryOk s) : okAfter (execStripeMessage id s) := by
  unfold execStripeMessage
  split
  · exact h
  next m _ =>
    have hdrop : memoryOk { s with stripes := dropFirst (fun x => x.id == id) s.stripes } := memoryOk_same h rfl rfl
    have hpart : ∀ k, memoryOk (s.stripePartial m k) := fun _ => memoryOk_stripePartial h
    split
    · exact hdrop
    · split
      · exact hdrop
      split
      · exact hpart _
      split
      · exact hpart _
      extract_lets base bs prog tag s1
      have hs1 : memoryOk s1 := memoryOk_stripeClean h
      clear_value base bs prog tag s1
      refine okAfter_ite (hpart _) (okAfter_ite (hpart _) ?_)
      split
      next heq => exact memoryOk_same (of_okSome (okSome_tryAccept hs1) heq) rfl rfl
      · exact hs1

theorem memoryOk_resumeGroups {w : Nat} (h : memoryOk s) :
    memoryOk (s.resumeGroups w) := memoryOk_foldl (fun _ _ hu => memoryOk_ite (memoryOk_trySectors hu) (memoryOk_tryRoot hu)) h

/-! Tile trackers. -/

theorem memoryOk_armTracker {c va : Nat} {bs : List Byte} {ps : List (Nat × Nat)} (h : memoryOk s) : memoryOk (s.armTracker c va bs ps).2 := by
  unfold State.armTracker
  extract_lets x pa d slice
  refine okSnd_ite h ?_
  split <;> exact memoryOk_same h rfl rfl

theorem okAfter_execTrkArmAnswer {c t : Nat} (h : memoryOk s) : okAfter (execTrkArmAnswer c t s) := by
  unfold execTrkArmAnswer
  split
  · exact h
  · split
    · refine okAfter_ite h ?_
      extract_lets va
      refine memoryOk_withBlock h (fun bs => ?_)
      refine memoryOk_ite (memoryOk_wakeWith h) ?_
      split
      · exact memoryOk_fatal h
      · exact memoryOk_wakeWith h
      · exact memoryOk_wakeWith (memoryOk_armTracker h)
    · exact h

theorem memoryOk_modStored {d : Nat} {f : Stored → Stored} (h : memoryOk s) : memoryOk (s.modStored d f) := memoryOk_same h rfl rfl

theorem memoryOk_storedRetry {d hint key : Nat} {x : Stored} (h : memoryOk s) :
    memoryOk (s.storedRetry d hint key x) := memoryOk_ite (memoryOk_modStored h) (memoryOk_modStored h)

theorem memoryOk_storedRead {d src ecc : Nat} {go : State → State} (h : memoryOk s) (hgo : ∀ u, memoryOk u → memoryOk (go u)) :
    memoryOk (s.storedRead d src ecc go) := by
  unfold State.storedRead
  split
  · exact hgo _ h
  · refine memoryOk_ite ?_ ?_
    · exact hgo _ (memoryOk_countError (memoryOk_homeDrop h))
    · exact memoryOk_modStored (memoryOk_countError h)
  · exact hgo _ (memoryOk_countError h)

theorem memoryOk_moveStoredUnit {d : Nat} {q : Sector} (h : memoryOk s) : memoryOk (s.moveStoredUnit d q) := memoryOk_modStored (memoryOk_homeWrite h)

theorem memoryOk_moveStored {d no ecc : Nat} (h : memoryOk s) : memoryOk (s.moveStored d no ecc) := by
  unfold State.moveStored
  split
  · exact h
  · split
    · exact h
    · split
      · exact h
      · refine memoryOk_ite h ?_
        split
        · exact memoryOk_storedRetry (memoryOk_queueMiss h)
        · exact memoryOk_storedRetry (memoryOk_queueMiss h)
        · exact memoryOk_ite (memoryOk_modStored h) (memoryOk_storedRead h (fun s hs => memoryOk_moveStoredUnit hs))

theorem memoryOk_storedFault {d : Nat} {t : Tracker} {code va : Nat} (h : memoryOk s) :
    memoryOk (s.storedFault d t code va) := memoryOk_ite (memoryOk_jobFault h) (memoryOk_same (memoryOk_jobFault h) rfl rfl)

theorem okAfter_execStoredTransferComplete {d : Nat} (h : memoryOk s) : okAfter (execStoredTransferComplete d s) := by
  unfold execStoredTransferComplete
  split
  · exact h
  · extract_lets fin
    refine okAfter_ite h ?_
    extract_lets s1
    refine okAfter_ite (memoryOk_storedFault (memoryOk_same h rfl rfl)) ?_
    split
    · split
      · refine okAfter_ite (memoryOk_same h rfl rfl) (memoryOk_getD (okSome_barAddOf (memoryOk_same h rfl rfl)) ?_)
        exact memoryOk_storedFault (memoryOk_same h rfl rfl)
      · exact memoryOk_same h rfl rfl
    · exact memoryOk_same h rfl rfl

/-! The table walks. -/

theorem memoryOk_setRet {c n : Nat} {x : RetSlot} (h : memoryOk s) : memoryOk (s.setRet c n x) := memoryOk_modCore h

theorem okAfter_walkCommand {i : Instr} {hd : CHdr} {kind : WKind} {a b : Nat} {mem : Bool} {slot : Nat} (h : memoryOk s) :
    okAfter (walkCommand i hd kind a b mem slot s) := by
  unfold walkCommand
  refine okAfter_asTask h (fun c t => ?_)
  extract_lets va bad
  refine memoryOk_ite (memoryOk_trap h) ?_
  refine memoryOk_withBlock h (fun bs => ?_)
  extract_lets w
  refine memoryOk_ite (memoryOk_trap h) ?_
  split
  · exact memoryOk_trap h
  · exact memoryOk_fatal h
  · exact memoryOk_park (memoryOk_setRet (memoryOk_fresh (memoryOk_same h rfl rfl)))

theorem memoryOk_modWalk {id : Nat} {f : Walk → Walk} (h : memoryOk s) : memoryOk (s.modWalk id f) := memoryOk_same h rfl rfl

theorem okAfter_execWalkAccept {id : Nat} (h : memoryOk s) : okAfter (execWalkAccept id s) := by
  unfold execWalkAccept
  split
  · exact h
  · exact okAfter_ite h (memoryOk_wake (memoryOk_modWalk h))

theorem memoryOk_countWalk {stack lo : Nat} (h : memoryOk s) : memoryOk (s.countWalk stack lo) := memoryOk_same h rfl rfl

theorem okAfter_execWalkSectorReturn {id : Nat} {err : Bool} (h : memoryOk s) : okAfter (execWalkSectorReturn id err s) := by
  unfold execWalkSectorReturn
  split
  · exact h
  · refine okAfter_ite h ?_
    split
    · exact h
    · refine okAfter_ite (memoryOk_countWalk (memoryOk_modWalk h)) ?_
      refine okAfter_ite h ?_
      extract_lets sec s1
      refine okAfter_ite ?_ ?_
      · exact memoryOk_modWalk (memoryOk_countWalk h)
      · exact okAfter_ite (memoryOk_countError (memoryOk_modWalk (memoryOk_countWalk h))) (memoryOk_modWalk (memoryOk_countWalk h))

theorem memoryOk_walkErrorMet {id : Nat} (h : memoryOk s) : memoryOk (s.walkErrorMet id) := by
  unfold State.walkErrorMet
  split
  · exact h
  · exact memoryOk_ite h (memoryOk_countError (memoryOk_modWalk h))

theorem okAfter_execWalkStepLimit {id : Nat} (h : memoryOk s) : okAfter (execWalkStepLimit id s) := by
  unfold execWalkStepLimit
  split
  · exact h
  · exact okAfter_ite h (memoryOk_countWalk (memoryOk_modWalk h))

theorem okAfter_execWalkSlotFull {id : Nat} (h : memoryOk s) : okAfter (execWalkSlotFull id s) := by
  unfold execWalkSlotFull
  split
  · exact h
  · split
    · obtain ⟨hb, hh⟩ := h
      exact okAfter_ite ⟨hb, hh⟩ ⟨setBytes_wf _ _ _ hb, hh⟩
    · exact h

theorem memoryOk_takeSlot {c t d n : Nat} (h : memoryOk s) :
    memoryOk (s.takeSlot c t d n) := memoryOk_setReg (memoryOk_setReg (memoryOk_setRet (memoryOk_ite h (memoryOk_acquireLines h))))

theorem okAfter_execTwWait {hd : CHdr} {d a : Nat} (h : memoryOk s) : okAfter (execTwWait hd d a s) := by
  unfold execTwWait
  refine okAfter_asTask h (fun c t => ?_)
  extract_lets v
  refine memoryOk_ite (memoryOk_trap h) ?_
  split
  · exact memoryOk_goOn (memoryOk_takeSlot h)
  · exact memoryOk_park h
  · exact memoryOk_trap h

theorem okAfter_execTwWaitTry {hd : CHdr} {d a : Nat} (h : memoryOk s) : okAfter (execTwWaitTry hd d a s) := by
  unfold execTwWaitTry
  refine okAfter_asTask h (fun c t => ?_)
  extract_lets v
  refine memoryOk_ite (memoryOk_trap h) ?_
  split
  · exact memoryOk_goOn (memoryOk_takeSlot h)
  · exact memoryOk_goOn (memoryOk_setReg (memoryOk_setReg h))

theorem memoryOk_retrySlot {c t n : Nat} (h : memoryOk s) : memoryOk (s.retrySlot c t n) := by
  unfold State.retrySlot
  split
  · exact memoryOk_ite (memoryOk_wake (memoryOk_takeSlot h)) h
  · exact h

theorem memoryOk_withdrawWalk {c t : Nat} (h : memoryOk s) : memoryOk (s.withdrawWalk c t) := by
  unfold State.withdrawWalk
  split
  · exact memoryOk_setRet (memoryOk_same h rfl rfl)
  · exact h

theorem memoryOk_freeWalks {w : Nat} (h : memoryOk s) : memoryOk (s.freeWalks w) := memoryOk_same h rfl rfl

end Sys2Proof.Machine
end

section
/-! SUPPORT. Memory keeps its form through the network engines, the samplers, the device registers, the dispatcher and the ends of weaves (R132, R144). -/

namespace Sys2Proof.Machine

open Sys2Proof

variable {s u : State}

/-! The network engines. -/

theorem memoryOk_modNet {d : Nat} {f : NetEng → NetEng} (h : memoryOk s) : memoryOk (s.modNet d f) := memoryOk_same h rfl rfl

theorem memoryOk_modQp {d q : Nat} {f : NeQp → NeQp} (h : memoryOk s) : memoryOk (s.modQp d q f) := memoryOk_modNet h

theorem memoryOk_fireWatches {d : Nat} (h : memoryOk s) :
    memoryOk (s.fireWatches d) := memoryOk_foldl (fun _ _ hu => memoryOk_post hu) (memoryOk_modNet h)

theorem memoryOk_modCtr {d n : Nat} {f : NeCtr → NeCtr} (h : memoryOk s) : memoryOk (s.modCtr d n f) := memoryOk_fireWatches (memoryOk_modNet h)

theorem memoryOk_addCtr {d n v : Nat} (h : memoryOk s) : memoryOk (s.addCtr d n v) := memoryOk_modCtr h

theorem memoryOk_qpError {d q cause : Nat} (h : memoryOk s) : memoryOk (s.qpError d q cause) := by
  unfold State.qpError
  split
  · exact h
  · exact memoryOk_ite (memoryOk_post (memoryOk_foldl (fun _ _ hu => memoryOk_modCtr hu) (memoryOk_modQp h)))
      (memoryOk_foldl (fun _ _ hu => memoryOk_modCtr hu) (memoryOk_modQp h))

theorem memoryOk_netReads {d q : Nat} {ks : List Nat} {err : Bool} {go : State → State} (h : memoryOk s)
    (hgo : ∀ u, memoryOk u → memoryOk (go u)) : memoryOk (s.netReads d q ks err go) := by
  unfold State.netReads
  refine memoryOk_ite (memoryOk_qpError h) (memoryOk_ite (memoryOk_ite ?_ ?_) (hgo _ h))
  · exact hgo _ (memoryOk_countError (memoryOk_foldl (fun _ _ hu => memoryOk_homeDrop hu) h))
  · exact memoryOk_qpError (memoryOk_countError h)

theorem memoryOk_startEntry {d q : Nat} {x : NeQp} {bs : List Byte} (h : memoryOk s) :
    memoryOk (s.startEntry d q x bs) :=
  memoryOk_ite (memoryOk_ite (memoryOk_addCtr (memoryOk_modQp h)) (memoryOk_modQp h)) (memoryOk_modQp (memoryOk_modQp h))

theorem okAfter_execNeEntryStart {d q : Nat} {err : Bool} (h : memoryOk s) : okAfter (execNeEntryStart d q err s) := by
  unfold execNeEntryStart
  split
  · exact h
  · refine okAfter_ite h ?_
    refine memoryOk_netReads h (fun s hs => ?_)
    extract_lets bs ctl c
    refine memoryOk_ite ?_ ?_
    · exact memoryOk_qpError hs
    · exact memoryOk_ite (memoryOk_qpError hs) (memoryOk_ite hs (memoryOk_ite hs (memoryOk_startEntry hs)))

theorem memoryOk_finishEntries {d q : Nat} (h : memoryOk s) : memoryOk (s.finishEntries d q) := by
  unfold State.finishEntries
  split
  · exact h
  · exact memoryOk_foldl (fun _ _ hu => memoryOk_ite (memoryOk_addCtr hu) hu) (memoryOk_modQp h)

theorem memoryOk_transmit {d q psn : Nat} {err : Bool} (h : memoryOk s) : memoryOk (s.transmit d q psn err) := by
  unfold State.transmit
  split
  · exact h
  · split
    · exact h
    · extract_lets planes idx ks
      refine memoryOk_ite ?_ ?_
      · exact h
      · exact memoryOk_netReads h (fun s0 hs0 => memoryOk_finishEntries (memoryOk_modQp (memoryOk_modNet hs0)))

theorem memoryOk_needAgain {d q psn : Nat} (h : memoryOk s) : memoryOk (s.needAgain d q psn) := by
  unfold State.needAgain
  split
  · exact h
  · split
    · exact h
    · exact memoryOk_ite (memoryOk_qpError h) (memoryOk_modQp h)

theorem memoryOk_placeResponse {d q : Nat} {r : Packet} (h : memoryOk s) : memoryOk (s.placeResponse d q r) := by
  unfold State.placeResponse
  split
  · exact h
  · split
    · exact h
    · exact memoryOk_ite (memoryOk_modQp (memoryOk_homeWrite h)) h

theorem okAfter_execNeAckArrival {d q cack bitmap : Nat} {nak : Bool} {resp : Option Packet} (h : memoryOk s) :
    okAfter (execNeAckArrival d q cack bitmap nak resp s) := by
  unfold execNeAckArrival
  extract_lets dropped s1 s2 lost
  have hd : okAfter dropped := memoryOk_modNet h
  have hs1 : memoryOk s1 := memoryOk_modQp h
  have hs2 : memoryOk s2 := by
    unfold s2
    split
    · exact memoryOk_ite (memoryOk_placeResponse hs1) hs1
    · exact hs1
  refine okAfter_ite h ?_
  split
  · exact hd
  · refine okAfter_ite hd (okAfter_ite (memoryOk_qpError (memoryOk_modNet h)) (okAfter_ite h ?_))
    exact memoryOk_finishEntries (memoryOk_foldl (fun _ _ hu => memoryOk_needAgain hu) hs2)

theorem okAfter_execNeRtoExpiry {d q psn : Nat} (h : memoryOk s) : okAfter (execNeRtoExpiry d q psn s) := by
  unfold execNeRtoExpiry
  split
  · exact h
  · split
    · exact h
    · exact okAfter_ite h (memoryOk_needAgain h)

theorem memoryOk_placeReduce {ty a : Nat} {data : List Byte} (h : memoryOk s) :
    memoryOk (s.placeReduce ty a data) := memoryOk_foldl (fun _ _ hu => memoryOk_homeWrite hu) h

theorem memoryOk_placeSend {d q : Nat} {x : NeQp} {p : Packet} (h : memoryOk s) :
    memoryOk (s.placeSend d q x p) :=
  memoryOk_ite (memoryOk_modQp (memoryOk_homeWrite (memoryOk_homeWrite h))) (memoryOk_modQp (memoryOk_homeWrite h))

theorem memoryOk_placePacket {d q : Nat} {x : NeQp} {p : Packet} (h : memoryOk s) : memoryOk (s.placePacket d q x p) := by
  unfold State.placePacket
  split
  · exact memoryOk_homeWrite h
  · exact memoryOk_placeSend h
  · exact memoryOk_placeReduce h
  · exact h

theorem memoryOk_answerPacket {d q : Nat} {nak : Bool} {p : Packet} (h : memoryOk s) : memoryOk (s.answerPacket d q nak p) := by
  unfold State.answerPacket
  split
  · exact h
  · exact memoryOk_ite h (memoryOk_modNet h)

theorem memoryOk_receive {d : Nat} {p : Packet} {err : Bool} (h : memoryOk s) : memoryOk (s.receive d p err) := by
  unfold State.receive
  refine memoryOk_ite h ?_
  split
  · exact memoryOk_modNet h
  · split
    · exact memoryOk_modNet h
    · exact h
    · exact memoryOk_answerPacket (memoryOk_modNet h)
    · exact memoryOk_netReads h (fun s hs => memoryOk_answerPacket hs)
    · exact memoryOk_netReads h (fun s hs => memoryOk_answerPacket
        (memoryOk_ite (memoryOk_addCtr (memoryOk_modQp (memoryOk_placePacket hs))) (memoryOk_modQp (memoryOk_placePacket hs))))

theorem memoryOk_openQp {c : Nat} {bs : List Byte} (h : memoryOk s) : memoryOk (s.openQp c bs).2 := by
  unfold State.openQp
  extract_lets d e
  split
  · refine okSnd_ite h ?_
    extract_lets x taken
    split
    · exact memoryOk_modNet h
    · exact h
  · exact h

theorem okAfter_neCommand {i : Instr} {hd : CHdr} {ok : State → Nat → Nat → Bool} {bad : State → Nat → Nat → Word} (h : memoryOk s) :
    okAfter (neCommand i hd ok bad s) := okAfter_asTask h (fun _ _ => memoryOk_ite (memoryOk_park h) (memoryOk_trap h))

theorem okAfter_execNeQpOpen {hd : CHdr} {d a : Nat} (h : memoryOk s) : okAfter (execNeQpOpen hd d a s) := by
  unfold execNeQpOpen
  refine okAfter_asTask h (fun c t => ?_)
  extract_lets va
  refine memoryOk_ite (memoryOk_trap h) ?_
  refine memoryOk_withBlock h (fun bs => ?_)
  split
  · exact memoryOk_fatal h
  · exact memoryOk_modWait (memoryOk_park h)

theorem okAfter_qpCommand {i : Instr} {hd : CHdr} {a : Nat} (h : memoryOk s) : okAfter (qpCommand i hd a s) := okAfter_neCommand h

theorem okAfter_postCommand {i : Instr} {hd : CHdr} {a b : Nat} (h : memoryOk s) : okAfter (postCommand i hd a b s) := okAfter_neCommand h

theorem okAfter_ctrCommand {i : Instr} {hd : CHdr} {a : Nat} (h : memoryOk s) : okAfter (ctrCommand i hd a s) := okAfter_neCommand h

theorem memoryOk_retryCwait {c t n : Nat} {thr : Word} (h : memoryOk s) : memoryOk (s.retryCwait c t n thr) := by
  unfold State.retryCwait
  split
  · exact memoryOk_ite (memoryOk_wakeWith h) (memoryOk_ite (memoryOk_wakeWith (memoryOk_acquire h)) h)
  · exact h

theorem memoryOk_closeQp {c t rd qn now : Nat} {q : NeQp} (h : memoryOk s) : memoryOk (s.closeQp c t rd qn now q) := by
  unfold State.closeQp
  extract_lets d acted
  have hacted : ∀ u, memoryOk u → memoryOk (acted u) := fun _ hu => memoryOk_modWait hu
  split
  · exact memoryOk_ite (memoryOk_wakeWith (memoryOk_modNet h)) h
  · exact memoryOk_ite (hacted _ h) (memoryOk_wakeWith (memoryOk_modNet h))
  · exact hacted _ (memoryOk_modQp h)

theorem memoryOk_armWatch {c : Nat} {v thr : Word} (h : memoryOk s) : memoryOk (s.armWatch c v thr).2 := by
  unfold State.armWatch
  extract_lets d
  split
  · exact h
  · exact memoryOk_fireWatches (memoryOk_modNet h)

theorem memoryOk_neRelease {c t : Nat} {go : State → State} (h : memoryOk s) (hgo : ∀ u, memoryOk u → memoryOk (go u)) :
    memoryOk (s.neRelease c t go) := memoryOk_ite (hgo _ (memoryOk_release h)) h

theorem okAfter_execNeCommandAnswer {c t : Nat} (h : memoryOk s) : okAfter (execNeCommandAnswer c t s) := by
  unfold execNeCommandAnswer
  split
  · extract_lets d r withQp
    have hqp : ∀ v (go : Nat → NeQp → State), (∀ n q, memoryOk (go n q)) → okAfter (withQp v go) := by
      intro v go hgo
      unfold withQp
      split
      · exact hgo _ _
      · exact memoryOk_trap h
    clear_value withQp r
    refine okAfter_ite h ?_
    split
    · exact memoryOk_wakeWith (memoryOk_openQp h)
    · refine hqp _ _ fun n q => ?_
      exact memoryOk_closeQp h
    · refine hqp _ _ fun n q => ?_
      exact memoryOk_wakeWith h
    · refine hqp _ _ fun n q => ?_
      exact memoryOk_wakeWith h
    · refine hqp _ _ fun n q => memoryOk_neRelease h fun u hu => ?_
      exact memoryOk_wakeWith (memoryOk_modQp hu)
    · refine hqp _ _ fun n q => memoryOk_neRelease h fun u hu => ?_
      exact memoryOk_wakeWith (memoryOk_modQp hu)
    · exact memoryOk_wakeWith (memoryOk_armWatch h)
    · exact memoryOk_wakeWith h
    · exact memoryOk_neRelease h fun u hu => memoryOk_modCtr (memoryOk_wake hu)
    · exact memoryOk_neRelease h fun u hu => memoryOk_addCtr (memoryOk_wake hu)
    · exact h
  · exact h

theorem memoryOk_resumeNet (h : memoryOk s) : memoryOk s.resumeNet := memoryOk_foldl (fun _ _ hu => memoryOk_fireWatches hu) h

theorem memoryOk_ageNets (h : memoryOk s) : memoryOk s.ageNets := memoryOk_same h rfl rfl

/-! The samplers. -/

theorem memoryOk_modSmp {d : Nat} {f : Smp → Smp} (h : memoryOk s) : memoryOk (s.modSmp d f) := memoryOk_same h rfl rfl

theorem memoryOk_modCtx {d hd : Nat} {f : SmCtx → SmCtx} (h : memoryOk s) : memoryOk (s.modCtx d hd f) := memoryOk_modSmp h

theorem memoryOk_endRun {d hd status result : Nat} (h : memoryOk s) :
    memoryOk (s.endRun d hd status result) := memoryOk_ite (memoryOk_modCtx h) (memoryOk_modSmp (memoryOk_modCtx h))

theorem memoryOk_settleRun {d hd : Nat} (h : memoryOk s) : memoryOk (s.settleRun d hd) := by
  unfold State.settleRun
  split
  · refine memoryOk_ite h ?_
    refine memoryOk_ite (memoryOk_modSmp h) ?_
    split
    · exact memoryOk_ite (memoryOk_endRun h) h
    · exact h
  · exact h

theorem memoryOk_dropEmit {d hd id : Nat} (h : memoryOk s) : memoryOk (s.dropEmit d hd id) := memoryOk_settleRun (memoryOk_modCtx h)

theorem memoryOk_emitEnds {d hd status : Nat} {e : SmEmit} (h : memoryOk s) : memoryOk (s.emitEnds d hd status e) := by
  unfold State.emitEnds
  extract_lets s1
  split
  · exact memoryOk_ite (memoryOk_endRun (memoryOk_modCtx h)) (memoryOk_settleRun (memoryOk_modCtx h))
  · exact memoryOk_modCtx h

theorem memoryOk_emitFailed {d hd : Nat} {e : SmEmit} (h : memoryOk s) : memoryOk (s.emitFailed d hd e) := memoryOk_emitEnds h

theorem memoryOk_emitRefused {d hd : Nat} {e : SmEmit} (h : memoryOk s) :
    memoryOk (s.emitRefused d hd e) := memoryOk_ite (memoryOk_modCtx h) (memoryOk_emitFailed h)

theorem memoryOk_emitLogged {d hd : Nat} {x : SmCtx} {e : SmEmit} {cause : Nat} (h : memoryOk s) :
    memoryOk (s.emitLogged d hd x e cause) := memoryOk_modCtx (memoryOk_modCore (memoryOk_attention (memoryOk_same (memoryOk_homeWrite h) rfl rfl)))

theorem memoryOk_emitStore {d hd : Nat} {x : SmCtx} {e : SmEmit} {perform : State → State} (h : memoryOk s)
    (hperform : ∀ u, memoryOk u → memoryOk (perform u)) :
    memoryOk (s.emitStore d hd x e perform) := by
  unfold State.emitStore
  extract_lets dd forced
  split
  · exact hperform _ h
  · exact memoryOk_ite (memoryOk_emitRefused (memoryOk_queueMiss h)) (memoryOk_emitLogged h)

theorem memoryOk_sendEmit {d hd id : Nat} (h : memoryOk s) : memoryOk (s.sendEmit d hd id) := by
  unfold State.sendEmit
  split
  · exact h
  · split
    · exact h
    · refine memoryOk_ite (memoryOk_ite h (memoryOk_ite (memoryOk_emitEnds h) (memoryOk_dropEmit (memoryOk_homeWrite h)))) ?_
      refine memoryOk_ite h ?_
      split
      · exact h
      · exact memoryOk_emitStore h (fun s hs => memoryOk_dropEmit (memoryOk_homeWrite hs))
      · exact memoryOk_ite (memoryOk_dropEmit h) (memoryOk_ite h (memoryOk_dropEmit (memoryOk_post h)))

theorem memoryOk_acknowledgeLog {p : Nat} {v : Word} {fault : Nat} (h : memoryOk s) : memoryOk (s.acknowledgeLog p v fault) := by
  unfold State.acknowledgeLog
  split
  · extract_lets s1
    refine memoryOk_ite (memoryOk_dropEmit h) ?_
    split
    · exact memoryOk_jobFault (memoryOk_dropEmit h)
    · exact memoryOk_dropEmit h
  · exact memoryOk_acknowledge h

theorem okAfter_asRun {f : Nat → Nat → SmCtx → State} (h : memoryOk s) (hf : ∀ x0 x1 x2, memoryOk (f x0 x1 x2)) : okAfter (asRun s f) := by
  unfold asRun
  split
  · split
    · exact hf _ _ _
    · exact h
  · exact h

theorem memoryOk_smApply {d hd : Nat} {r : SmRes} (h : memoryOk s) : memoryOk (s.smApply d hd r) := by
  unfold State.smApply
  split
  · exact memoryOk_modCtx h
  · exact memoryOk_modCtx h
  · exact memoryOk_endRun h

theorem okAfter_smWord {f : SmCtx → SmRes} (h : memoryOk s) : okAfter (smWord f s) := okAfter_asRun h (fun _ _ _ => memoryOk_smApply h)

theorem okAfter_smReg {d : Nat} {v : SmCtx → Word} (h : memoryOk s) : okAfter (smReg d v s) := okAfter_smWord h

theorem okAfter_execSmLd {c : Bool} {off d a : Nat} (h : memoryOk s) : okAfter (execSmLd c off d a s) := by
  unfold execSmLd
  refine okAfter_asRun h (fun dd q u => ?_)
  refine memoryOk_ite ?_ ?_
  · exact memoryOk_smApply h
  · exact memoryOk_ite (memoryOk_smApply h) (memoryOk_ite (memoryOk_smApply h) (memoryOk_smApply h))

theorem okAfter_execSmSt {c : Bool} {off a b : Nat} (h : memoryOk s) : okAfter (execSmSt c off a b s) := by
  unfold execSmSt
  refine okAfter_asRun h (fun dd q u => ?_)
  extract_lets v
  refine memoryOk_ite (memoryOk_smApply h) ?_
  extract_lets o
  refine memoryOk_ite (memoryOk_smApply h) ?_
  refine memoryOk_ite ?_ ?_
  · exact memoryOk_smApply h
  · exact memoryOk_ite (memoryOk_smApply (memoryOk_same h rfl rfl)) (memoryOk_smApply (memoryOk_homeWrite h))

theorem okAfter_execSmLi {f : Bool} {val d : Nat} (h : memoryOk s) : okAfter (execSmLi f val d s) := okAfter_smReg h

theorem okAfter_execSmMov {d a : Nat} (h : memoryOk s) : okAfter (execSmMov d a s) := okAfter_smReg h

theorem okAfter_execSmAdd {f : Bool} {imm d a b : Nat} (h : memoryOk s) : okAfter (execSmAdd f imm d a b s) := okAfter_smReg h

theorem okAfter_execSmSub {f : Bool} {imm d a b : Nat} (h : memoryOk s) : okAfter (execSmSub f imm d a b s) := okAfter_smReg h

theorem okAfter_execSmCmp {u : Bool} {rel : Nat} {f : Bool} {d a b : Nat} (h : memoryOk s) : okAfter (execSmCmp u rel f d a b s) := okAfter_smReg h

theorem okAfter_execSmMax {f : Bool} {d a b : Nat} (h : memoryOk s) : okAfter (execSmMax f d a b s) := okAfter_smReg h

theorem okAfter_execSmDiv {d a b : Nat} (h : memoryOk s) : okAfter (execSmDiv d a b s) := okAfter_smReg h

theorem okAfter_execSmExp {d a : Nat} (h : memoryOk s) : okAfter (execSmExp d a s) := okAfter_smReg h

theorem okAfter_execSmTopk {k d a b : Nat} (h : memoryOk s) : okAfter (execSmTopk k d a b s) := by
  unfold execSmTopk
  refine okAfter_asRun h (fun dd q u => ?_)
  extract_lets ra rb off v bf eb
  refine memoryOk_ite (memoryOk_smApply h) ?_
  refine memoryOk_ite (memoryOk_smApply h) ?_
  refine memoryOk_ite (memoryOk_smApply h) ?_
  split
  · exact memoryOk_smApply h
  · exact memoryOk_smApply (memoryOk_open_ h)

theorem okAfter_execSmTemp {d a : Nat} (h : memoryOk s) : okAfter (execSmTemp d a s) := by
  unfold execSmTemp
  refine okAfter_asRun h (fun dd q u => ?_)
  extract_lets b t o
  refine memoryOk_ite (memoryOk_smApply h) ?_
  refine memoryOk_ite (memoryOk_smApply (memoryOk_open_ h)) ?_
  refine memoryOk_ite ?_ ?_
  · exact memoryOk_smApply h
  · exact memoryOk_ite (memoryOk_smApply (memoryOk_modCtx h)) (memoryOk_smApply (memoryOk_open_ h))

theorem okAfter_execSmTopp {d a : Nat} (h : memoryOk s) : okAfter (execSmTopp d a s) := by
  unfold execSmTopp
  refine okAfter_asRun h (fun dd q u => ?_)
  extract_lets p
  refine memoryOk_ite (memoryOk_smApply h) ?_
  refine memoryOk_ite ?_ ?_
  · exact memoryOk_smApply h
  · exact memoryOk_ite (memoryOk_smApply (memoryOk_modCtx (memoryOk_open_ h))) (memoryOk_smApply (memoryOk_open_ h))

theorem okAfter_execSmSum {kind d : Nat} (h : memoryOk s) : okAfter (execSmSum kind d s) := okAfter_smWord h

theorem okAfter_execSmRng {u : Bool} {d : Nat} (h : memoryOk s) : okAfter (execSmRng u d s) := okAfter_smWord h

theorem okAfter_execSmDraw {d a : Nat} (h : memoryOk s) : okAfter (execSmDraw d a s) := okAfter_smWord h

theorem okAfter_execSmTree {d a : Nat} (h : memoryOk s) : okAfter (execSmTree d a s) := by
  unfold execSmTree
  refine okAfter_asRun h (fun dd q u => ?_)
  extract_lets o y
  refine memoryOk_ite ?_ ?_
  · exact memoryOk_smApply (memoryOk_modCtx h)
  · exact memoryOk_ite (memoryOk_smApply (memoryOk_modCtx (memoryOk_countWalk h))) (memoryOk_smApply (memoryOk_countWalk h))

theorem okAfter_execSmAcc {excl : Bool} {d a b : Nat} (h : memoryOk s) : okAfter (execSmAcc excl d a b s) := okAfter_smWord h

theorem okAfter_execSmEmit {a : Nat} (h : memoryOk s) : okAfter (execSmEmit a s) := by
  unfold execSmEmit
  refine okAfter_asRun h (fun dd q u => ?_)
  split
  · exact memoryOk_smApply h
  · exact memoryOk_smApply (memoryOk_same h rfl rfl)

theorem okAfter_execSmBr {off : Nat} (h : memoryOk s) : okAfter (execSmBr off s) := okAfter_smWord h

theorem okAfter_execSmBz {a off : Nat} (h : memoryOk s) : okAfter (execSmBz a off s) := okAfter_smWord h

theorem okAfter_execSmEnd {a : Nat} (h : memoryOk s) :
    okAfter (execSmEnd a s) := okAfter_asRun h (fun _ _ _ => memoryOk_settleRun (memoryOk_modCtx h))

theorem okAfter_execSmStepLimit {d hd : Nat} (h : memoryOk s) : okAfter (execSmStepLimit d hd s) := by
  unfold execSmStepLimit
  split
  · exact memoryOk_ite (memoryOk_endRun h) h
  · exact h

theorem memoryOk_bumpGen {a : Nat} (h : memoryOk s) : memoryOk (s.bumpGen a) := memoryOk_ite h (memoryOk_homeWrite h)

theorem okAfter_execSmCancelEffect {d hd : Nat} (h : memoryOk s) : okAfter (execSmCancelEffect d hd s) := by
  unfold execSmCancelEffect
  split
  · exact h
  · refine okAfter_ite h ?_
    refine okAfter_ite h ?_
    refine okAfter_ite (memoryOk_modCtx h) ?_
    extract_lets s1
    have hs1 : memoryOk s1 := by
      unfold s1
      split
      · exact memoryOk_bumpGen h
      · exact h
    exact memoryOk_endRun hs1

theorem memoryOk_setCancel {d hd : Nat} (h : memoryOk s) : memoryOk (s.setCancel d hd).2 := by
  unfold State.setCancel
  split
  · exact okSnd_ite (memoryOk_modCtx h) h
  · exact h

theorem memoryOk_writeCancel {d : Nat} {v : Word} (h : memoryOk s) : memoryOk (s.writeCancel d v) := by
  unfold State.writeCancel
  split
  · exact memoryOk_ite (memoryOk_setCancel h) h
  · exact h

theorem memoryOk_regionError {d n : Nat} {x : SmCtx} (h : memoryOk s) : memoryOk (s.regionError d n x) := by
  unfold State.regionError
  exact memoryOk_ite h (memoryOk_ite (memoryOk_countError (memoryOk_foldl (fun _ _ hu => memoryOk_homeDrop hu) h))
    (memoryOk_endRun (memoryOk_countError h)))

theorem memoryOk_runErrorMet {d hd kind : Nat} (h : memoryOk s) : memoryOk (s.runErrorMet d hd kind) := by
  unfold State.runErrorMet
  split
  · refine memoryOk_ite h ?_
    split
    · exact memoryOk_endRun (memoryOk_countError h)
    · exact memoryOk_regionError h
    · exact memoryOk_modSmp (memoryOk_countError h)
  · exact h

theorem okAfter_smCommand {i : Instr} {hd : CHdr} {bad : State → Nat → Nat → Option Word} (h : memoryOk s) : okAfter (smCommand i hd bad s) := by
  unfold smCommand
  refine okAfter_asTask h (fun c t => ?_)
  split
  · exact memoryOk_trap h
  · exact memoryOk_park h

theorem okAfter_execSmCtxOpen {hd : CHdr} {d a : Nat} (h : memoryOk s) : okAfter (execSmCtxOpen hd d a s) := by
  unfold execSmCtxOpen
  refine okAfter_asTask h (fun c t => ?_)
  extract_lets va
  refine memoryOk_ite (memoryOk_trap h) ?_
  refine memoryOk_withBlock h (fun bs => ?_)
  split
  · exact memoryOk_fatal h
  · exact memoryOk_modWait (memoryOk_park h)

theorem memoryOk_openCtx {c : Nat} {bs : List Byte} (h : memoryOk s) : memoryOk (s.openCtx c bs).2 := by
  unfold State.openCtx
  extract_lets d
  split
  · exact h
  · refine okSnd_ite h ?_
    split
    · exact h
    · exact memoryOk_modSmp h

theorem okAfter_execSmProg {hd : CHdr} {d a b : Nat} (h : memoryOk s) : okAfter (execSmProg hd d a b s) := by
  unfold execSmProg
  refine okAfter_asTask h (fun c t => ?_)
  extract_lets va rb n
  refine memoryOk_ite ?_ ?_
  · exact memoryOk_trap h
  · exact memoryOk_ite (memoryOk_trap h) (memoryOk_withBlock h (fun bs => memoryOk_modWait (memoryOk_park h)))

theorem memoryOk_collectRun {c t rd hd : Nat} {e : Nat × Nat × Nat} (h : memoryOk s) :
    memoryOk (s.collectRun c t rd hd e) := memoryOk_wakeWith (memoryOk_acquire (memoryOk_modCtx h))

theorem memoryOk_answerWait {c t rd hd : Nat} {try_ : Bool} {v : Word} (h : memoryOk s) : memoryOk (s.answerWait c t rd hd try_ v) := by
  unfold State.answerWait
  split
  · exact memoryOk_trap h
  · refine memoryOk_ite (memoryOk_ite (memoryOk_wakeWith h) h) ?_
    split
    · exact memoryOk_collectRun h
    · exact memoryOk_trap h

theorem okAfter_execSmWait {hd : CHdr} {d a : Nat} (h : memoryOk s) : okAfter (execSmWait hd d a s) := by
  unfold execSmWait
  refine okAfter_asTask h (fun c t => ?_)
  split
  · exact memoryOk_trap h
  · exact memoryOk_park h

theorem memoryOk_retryRun {c t hd : Nat} (h : memoryOk s) : memoryOk (s.retryRun c t hd) := by
  unfold State.retryRun
  split
  · exact memoryOk_answerWait h
  · exact h

theorem memoryOk_spillCtx {d hd : Nat} {x : SmCtx} (h : memoryOk s) :
    memoryOk (s.spillCtx d hd x) :=
  memoryOk_modSmp (memoryOk_modCtx (memoryOk_homeWrite (memoryOk_homeWrite (memoryOk_homeWrite (memoryOk_open_ h)))))

theorem memoryOk_makeResident {d hd : Nat} (h : memoryOk s) : memoryOk (s.makeResident d hd) := by
  unfold State.makeResident
  split
  · refine memoryOk_ite h ?_
    extract_lets s1
    have hs1 : memoryOk s1 := by
      unfold s1
      refine memoryOk_ite h ?_
      split
      · exact memoryOk_spillCtx h
      · exact h
    exact memoryOk_modCtx hs1
  · exact h

theorem memoryOk_beginRun {d hd c : Nat} {arg : Word} {start : Nat} (h : memoryOk s) :
    memoryOk (s.beginRun d hd c arg start) := memoryOk_modCtx (memoryOk_modSmp (memoryOk_makeResident h))

theorem okAfter_execSmRunBegin {d hd : Nat} (h : memoryOk s) : okAfter (execSmRunBegin d hd s) := by
  unfold execSmRunBegin
  split
  · split
    · refine okAfter_ite h ?_
      split
      · exact memoryOk_wakeWith h
      · exact okAfter_ite h (memoryOk_wakeWith (memoryOk_beginRun h))
    · exact h
  · exact h

theorem memoryOk_closeCtx {d n : Nat} {x : SmCtx} (h : memoryOk s) : memoryOk (s.closeCtx d n x) := by
  unfold State.closeCtx
  extract_lets s1
  have hs1 : memoryOk s1 := memoryOk_modSmp h
  exact memoryOk_ite hs1 (memoryOk_same hs1 rfl rfl)

theorem okAfter_execSamplerAnswer {c t : Nat} (h : memoryOk s) : okAfter (execSamplerAnswer c t s) := by
  unfold execSamplerAnswer
  split
  · extract_lets d r withCtx
    have hctx : ∀ rd v n go, (∀ x, memoryOk (go x).2) → okAfter (withCtx rd v n go) := by
      intro rd v n go hgo
      unfold withCtx
      split
      · exact memoryOk_wakeWith (hgo _)
      · exact memoryOk_trap h
    refine okAfter_ite h ?_
    split
    · exact memoryOk_wakeWith (memoryOk_openCtx h)
    · split
      · exact okAfter_ite (memoryOk_wakeWith h) (memoryOk_wakeWith (memoryOk_closeCtx h))
      · exact memoryOk_trap h
    · exact hctx _ _ _ _ fun x => okSnd_ite h (memoryOk_modCtx h)
    · exact hctx _ _ _ _ fun x => h
    · exact hctx _ _ _ _ fun x => okSnd_ite h (memoryOk_modCtx h)
    · exact hctx _ _ _ _ fun x => memoryOk_setCancel h
    · split
      · exact memoryOk_trap h
      · refine okAfter_ite h ?_
        split
        · exact memoryOk_wakeWith (memoryOk_release h)
        · exact memoryOk_modWait (memoryOk_release h)
    · exact memoryOk_answerWait h
    · exact h
  · exact h

theorem memoryOk_freeRuns {w : Nat} (h : memoryOk s) : memoryOk (s.freeRuns w) := memoryOk_same h rfl rfl

/-! The device registers. -/

theorem memoryOk_modSlot {d n : Nat} {f : QSlot → QSlot} (h : memoryOk s) : memoryOk (s.modSlot d n f) := memoryOk_modDisp h

theorem memoryOk_notify {d slot : Nat} {v : Word} (h : memoryOk s) : memoryOk (s.notify d slot v) := by
  unfold State.notify
  extract_lets q w
  split
  · exact memoryOk_ite (memoryOk_homeWrite h) (memoryOk_modDisp h)
  · exact memoryOk_modDisp h
  · exact memoryOk_modSlot h
  · exact memoryOk_modSlot h

theorem memoryOk_setSavepool {d : Nat} {cnt : Bool} {v : Word} (h : memoryOk s) :
    memoryOk (s.setSavepool d cnt v) := memoryOk_ite h (memoryOk_ite (memoryOk_modDisp h) (memoryOk_modDisp h))

theorem memoryOk_configBarrier {b : BarId} {v : Word} (h : memoryOk s) : memoryOk (s.configBarrier b v) := memoryOk_same h rfl rfl

theorem okAfter_execBarrierConfigWrite {b : BarId} {c t : Nat} {v : Word} (h : memoryOk s) : okAfter (execBarrierConfigWrite b c t v s) := by
  unfold execBarrierConfigWrite
  split
  · refine okAfter_ite h ?_
    refine okAfter_ite ?_ ?_
    · exact memoryOk_accessFault h
    · exact okAfter_ite (memoryOk_accessFault h) (memoryOk_endAccess (memoryOk_configBarrier (memoryOk_before_ h)))
  · exact memoryOk_ite h (memoryOk_configBarrier h)

theorem memoryOk_forgetLine {line : Nat} (h : memoryOk s) :
    memoryOk (s.forgetLine line) := memoryOk_same (memoryOk_foldl (fun _ _ hu => memoryOk_homeDrop hu) (memoryOk_removeTracked h)) rfl rfl

theorem memoryOk_clearEntry {d n : Nat} {v : Word} (h : memoryOk s) : memoryOk (s.clearEntry d n v) := by
  unfold State.clearEntry
  refine memoryOk_ite h ?_
  split
  · exact h
  · exact memoryOk_forgetLine (memoryOk_same h rfl rfl)

theorem memoryOk_writeLog {p w : Nat} {v : Word} (h : memoryOk s) : memoryOk (s.writeLog p w v) := by
  unfold State.writeLog
  split
  · exact memoryOk_same h rfl rfl
  · exact memoryOk_same h rfl rfl
  · exact memoryOk_acknowledgeLog h
  · exact memoryOk_acknowledgeLog h
  · exact memoryOk_same h rfl rfl
  · exact h

theorem memoryOk_after {r : Out} (h : okAfter r) (hs : memoryOk s) : memoryOk (after r s) := by
  cases r with
  | next t => exact h
  | fault f => exact hs
  | refused f => exact hs

theorem memoryOk_devWrite {pa : Nat} {v : Word} (h : memoryOk s) : memoryOk (s.devWrite pa v) := by
  unfold State.devWrite
  split
  · exact h
  · split
    · exact memoryOk_ite (memoryOk_configBarrier h) h
    · exact h
    · exact memoryOk_same h rfl rfl
    · exact memoryOk_writeLog h
    · exact memoryOk_same h rfl rfl
    · exact h
    · exact memoryOk_clearEntry h
    · exact memoryOk_notify h
    · exact h
    · exact memoryOk_setSavepool h
    · exact memoryOk_setSavepool h
    · exact memoryOk_modDisp h
    · exact h
    · exact memoryOk_same h rfl rfl
    · exact memoryOk_modCore h
    · exact memoryOk_modCore h
    · exact memoryOk_modData h
    · exact h
    · exact memoryOk_modNmu h
    · exact memoryOk_same h rfl rfl
    · exact memoryOk_modNet h
    · exact memoryOk_writeCancel h
    · exact memoryOk_modSmp h
    · exact memoryOk_same h rfl rfl

theorem memoryOk_performDevice {c : Nat} {x : Access} (h : memoryOk s) : memoryOk (s.performDevice c x) := by
  unfold State.performDevice
  extract_lets a
  refine memoryOk_ite h ?_
  refine memoryOk_ite (memoryOk_accessFault h) ?_
  refine memoryOk_ite (memoryOk_accessFault h) ?_
  extract_lets s1
  split
  · split
    · exact memoryOk_after (okAfter_execBarrierConfigWrite h) h
    · exact memoryOk_after_ (memoryOk_endAccess (memoryOk_devWrite (memoryOk_before_ h)))
  · refine memoryOk_ite h ?_
    split
    · exact memoryOk_after_ (memoryOk_fix (memoryOk_before_ h))
    · exact memoryOk_accessFault h

theorem okSome_deviceStore {pa : Nat} {v : Word} (h : memoryOk s) : okSome (s.deviceStore pa v) := by
  unfold State.deviceStore
  split
  · exact okSome_ite trivial (memoryOk_configBarrier h)
  · exact memoryOk_devWrite h

theorem memoryOk_sendRunEmit {d n id : Nat} (h : memoryOk s) : memoryOk (s.sendRunEmit d n id) := by
  unfold State.sendRunEmit
  split
  · exact h
  · split
    · exact memoryOk_sendEmit h
    · refine memoryOk_ite h (memoryOk_emitStore h fun u hu => ?_)
      split
      next heq => exact memoryOk_dropEmit (of_okSome (okSome_ite (x := none) (okSome_deviceStore hu) trivial) heq)
      · exact memoryOk_emitFailed hu

theorem memoryOk_performFabricDevice {c : Nat} {a : Access} (h : memoryOk s) : memoryOk (s.performFabricDevice c a) := by
  unfold State.performFabricDevice
  refine memoryOk_ite (memoryOk_failReply h) ?_
  refine memoryOk_ite (memoryOk_failReply h) ?_
  split
  · split
    next s1 heq => exact memoryOk_fix (of_okSome (okSome_deviceStore h) heq)
    · exact memoryOk_failReply h
  · refine memoryOk_ite h ?_
    split
    · exact memoryOk_fix h
    · exact memoryOk_failReply h

theorem okAfter_execFabricRequestArrival {c id ecc : Nat} (h : memoryOk s) : okAfter (execFabricRequestArrival c id ecc s) := by
  unfold execFabricRequestArrival
  extract_lets k
  split
  · exact h
  · refine okAfter_ite h ?_
    split
    · exact memoryOk_refuse h
    · exact memoryOk_logStore h
    · exact memoryOk_ite (memoryOk_performFabricDevice h) (memoryOk_performFabric h)

/-! Launches. -/

theorem memoryOk_flushL1 {c : Nat} (h : memoryOk s) :
    memoryOk (s.flushL1 c) := memoryOk_modCore (memoryOk_foldl (fun _ _ hu => memoryOk_writeBack hu) h)

theorem memoryOk_clearBarriers {keys : List Nat} (h : memoryOk s) : memoryOk (s.clearBarriers keys) := memoryOk_same h rfl rfl

theorem memoryOk_startJob {w : Weave} {j c : Nat} {ix : List Nat} (h : memoryOk s) :
    memoryOk (s.startJob w j c ix) := memoryOk_modCore (memoryOk_clearBarriers (memoryOk_flushL1 h))

theorem memoryOk_startPacket {o : Machine.Origin} {d : Nat} (h : memoryOk s) : memoryOk (s.startPacket o d) := by
  unfold State.startPacket
  split
  · exact memoryOk_modDisp h
  · exact h

theorem memoryOk_takeHaltSlot {w : Weave} (h : memoryOk s) : memoryOk (s.takeHaltSlot w).2 := by
  unfold State.takeHaltSlot
  refine okSnd_ite ?_ h
  split
  · exact memoryOk_same h rfl rfl
  · exact h

theorem memoryOk_startJobs {w : Weave} {j : Nat} {cs : List (Nat × List Nat)} (h : memoryOk s) : memoryOk (s.startJobs w j cs) := by
  induction cs generalizing s j with
  | nil => exact h
  | cons x cs ih => exact ih (memoryOk_startJob h)

theorem memoryOk_placeWeave {w : Weave} {plan : List (Nat × List Nat)} (h : memoryOk s) :
    memoryOk (s.placeWeave w plan) :=
  memoryOk_startPacket (memoryOk_startJobs (memoryOk_clearBarriers (memoryOk_same (memoryOk_takeHaltSlot h) rfl rfl)))

/-! Packets. -/

theorem memoryOk_mapSlot {d n desc : Nat} (h : memoryOk s) :
    memoryOk (s.mapSlot d n desc).2 := okSnd_ite h (okSnd_ite h (okSnd_ite (memoryOk_homeWrite (memoryOk_modSlot h)) (memoryOk_modSlot h)))

theorem memoryOk_unmapSlot {d n : Nat} (h : memoryOk s) : memoryOk (s.unmapSlot d n).2 := by
  unfold State.unmapSlot
  extract_lets q k s1 s2
  have hs1 : memoryOk s1 := memoryOk_homeWrite h
  have hs2 : memoryOk s2 := memoryOk_modDisp hs1
  exact okSnd_ite h (memoryOk_same hs2 rfl rfl)

theorem memoryOk_dispError {a n : Nat} (h : memoryOk s) : memoryOk (s.dispError a n).2 := by
  unfold State.dispError
  exact okSnd_ite (memoryOk_countError (memoryOk_foldl (fun _ _ hu => memoryOk_homeDrop hu) h)) (memoryOk_countError h)

theorem okAfter_takePacket {d slot : Nat} {lane lost : Bool} (h : memoryOk s) : okAfter (s.takePacket d slot lane lost) := by
  unfold State.takePacket
  extract_lets q
  refine okAfter_ite ?_ ?_
  · exact h
  · exact okAfter_ite (memoryOk_modSlot (memoryOk_modDisp (memoryOk_fresh h)))
      (memoryOk_homeWrite (memoryOk_modSlot (memoryOk_modDisp (memoryOk_fresh h))))

theorem okAfter_takeError {d slot : Nat} (h : memoryOk s) : okAfter (s.takeError d slot) := okAfter_ite h (okAfter_takePacket (memoryOk_dispError h))

theorem memoryOk_modPkt {d id : Nat} {f : DPkt → DPkt} (h : memoryOk s) : memoryOk (s.modPkt d id f) := memoryOk_modDisp h

theorem memoryOk_finishPkt {d id status detail : Nat} (h : memoryOk s) : memoryOk (s.finishPkt d id status detail) := memoryOk_modPkt h

theorem memoryOk_startOf {p : DPkt} (h : memoryOk s) : memoryOk (s.startOf p) := by
  unfold State.startOf
  split
  · exact memoryOk_same h rfl rfl
  · exact memoryOk_modPkt (memoryOk_same h rfl rfl)
  · exact memoryOk_finishPkt h

theorem memoryOk_recheckPkt {d id : Nat} {p : DPkt} (h : memoryOk s) : memoryOk (s.recheckPkt d id p) := by
  unfold State.recheckPkt
  split
  · exact memoryOk_finishPkt h
  · exact memoryOk_ite (memoryOk_startOf (memoryOk_modPkt h)) (memoryOk_modPkt h)

theorem okAfter_execDependenceRecheck {d id : Nat} {err : Bool} (h : memoryOk s) : okAfter (execDependenceRecheck d id err s) := by
  unfold execDependenceRecheck
  split
  · exact h
  · refine okAfter_ite h ?_
    split
    · exact memoryOk_ite (memoryOk_recheckPkt (memoryOk_dispError h)) (memoryOk_finishPkt (memoryOk_dispError h))
    · exact memoryOk_recheckPkt h

theorem memoryOk_writeCompletion {p : DPkt} (h : memoryOk s) :
    memoryOk (s.writeCompletion p) := memoryOk_ite h (memoryOk_homeWrite (memoryOk_homeWrite h))

theorem okAfter_execPacketComplete {d id : Nat} (h : memoryOk s) : okAfter (execPacketComplete d id s) := by
  unfold execPacketComplete
  split
  · exact h
  · refine okAfter_ite ?_ ?_
    · exact h
    · exact memoryOk_modDisp (memoryOk_ite (memoryOk_post (memoryOk_writeCompletion h)) (memoryOk_writeCompletion h))

theorem memoryOk_endRunWith {r : GRun} {status detail : Nat} (h : memoryOk s) :
    memoryOk (s.endRunWith r status detail) := memoryOk_finishPkt (memoryOk_same h rfl rfl)

theorem memoryOk_setGraph {r : GRun} (h : memoryOk s) : memoryOk (s.setGraph r) := memoryOk_ite (memoryOk_endRunWith h) (memoryOk_same h rfl rfl)

theorem memoryOk_nodeMiss {d : Nat} (h : memoryOk s) : memoryOk (s.nodeMiss d) := memoryOk_modDisp (memoryOk_open_ h)

theorem okAfter_nodeActs {r : GRun} {i : NodeInst} (h : memoryOk s) : okAfter (s.nodeActs r i) := by
  have hs1 : memoryOk (s.nodeMiss r.die) := memoryOk_nodeMiss h
  unfold State.nodeActs
  dsimp only
  refine okAfter_ite (memoryOk_endRunWith hs1) (okAfter_ite (memoryOk_endRunWith hs1) ?_)
  split
  · exact memoryOk_same hs1 rfl rfl
  · exact okAfter_ite (memoryOk_setGraph hs1) (memoryOk_setGraph hs1)
  · split
    · exact memoryOk_endRunWith hs1
    · exact memoryOk_setGraph hs1

theorem okAfter_execGraphNodeReady {run inst : Nat} {err : Bool} (h : memoryOk s) : okAfter (execGraphNodeReady run inst err s) := by
  unfold execGraphNodeReady
  split
  · exact h
  · split
    · exact h
    · refine okAfter_ite (okAfter_nodeActs h) ?_
      extract_lets at_ p e
      refine okAfter_ite ?_ ?_
      · exact okAfter_nodeActs (memoryOk_dispError h)
      · exact memoryOk_endRunWith (memoryOk_nodeMiss (memoryOk_dispError h))

theorem memoryOk_rereadAll {d : Nat} (h : memoryOk s) : memoryOk (s.rereadAll d) := memoryOk_modDisp h

theorem memoryOk_originDone {w : Weave} {status detail : Nat} (h : memoryOk s) : memoryOk (s.originDone w status detail) := by
  unfold State.originDone
  split
  · exact memoryOk_finishPkt h
  · split
    · exact h
    · refine memoryOk_ite (memoryOk_endRunWith h) ?_
      split
      · exact memoryOk_setGraph h
      · exact h

/-! The ends of weaves, and their images. -/

theorem memoryOk_freeImages {w : Weave} (h : memoryOk s) : memoryOk (s.freeImages w) := memoryOk_foldl (fun _ _ hu => memoryOk_modDisp hu) h

theorem memoryOk_endWeave {w : Weave} {status detail : Nat} (h : memoryOk s) : memoryOk (s.endWeave w status detail) := by
  unfold State.endWeave
  extract_lets s1 s2 src s3 others s4
  have hs1 : memoryOk s1 := memoryOk_freeImages h
  have hs2 : memoryOk s2 := by
    unfold s2
    split
    · exact memoryOk_same hs1 rfl rfl
    · exact hs1
  have hs4 : memoryOk s4 := memoryOk_same hs2 rfl rfl
  exact memoryOk_originDone (memoryOk_rereadAll (memoryOk_freeRuns (memoryOk_freeNet (memoryOk_freeWalks
    (memoryOk_freeTrackers (memoryOk_freeGroups hs4))))))

theorem okAfter_execWeaveComplete {w : Nat} (h : memoryOk s) : okAfter (execWeaveComplete w s) := by
  unfold execWeaveComplete
  split
  · exact h
  · exact okAfter_ite h (memoryOk_endWeave (memoryOk_foldl (fun _ _ hu => memoryOk_release hu) h))

theorem memoryOk_freeTorn {w j c : Nat} (h : memoryOk s) : memoryOk (s.freeTorn w j c) := memoryOk_modWeave (memoryOk_modCore h)

theorem memoryOk_writeReport {w : Weave} (h : memoryOk s) : memoryOk (s.writeReport w) := memoryOk_ite h (memoryOk_homeWrite h)

theorem memoryOk_dropWalk {c : Nat} (h : memoryOk s) : memoryOk (s.dropWalk c) := memoryOk_same h rfl rfl

theorem memoryOk_freeSettled {w : Nat} {live : List (Nat × Nat)} (h : memoryOk s) :
    memoryOk (s.freeSettled w live) := memoryOk_foldl (fun _ _ hu => memoryOk_ite (memoryOk_freeTorn (memoryOk_dropWalk hu)) hu) h

theorem okAfter_execWeaveTeardown {w : Nat} (h : memoryOk s) : okAfter (execWeaveTeardown w s) := by
  unfold execWeaveTeardown
  split
  · exact h
  · refine okAfter_ite h ?_
    extract_lets s1
    split
    · exact memoryOk_freeSettled h
    · exact okAfter_ite (memoryOk_freeSettled h) (memoryOk_endWeave (memoryOk_writeReport (memoryOk_freeSettled h)))

theorem memoryOk_newRound {d prio : Nat} (h : memoryOk s) : memoryOk (s.newRound d prio) := memoryOk_same h rfl rfl

theorem memoryOk_countRound {w : Weave} (h : memoryOk s) :
    memoryOk (s.countRound w) :=
  memoryOk_ite (memoryOk_ite (memoryOk_ite h (memoryOk_newRound h)) (memoryOk_modDisp (memoryOk_ite h (memoryOk_newRound h))))
      (memoryOk_modSlot (memoryOk_ite (memoryOk_ite h (memoryOk_newRound h)) (memoryOk_modDisp (memoryOk_ite h (memoryOk_newRound h)))))

theorem memoryOk_refuseWeave {w : Weave} {status : Nat} (h : memoryOk s) :
    memoryOk (s.refuseWeave w status) := memoryOk_originDone (memoryOk_same h rfl rfl)

theorem memoryOk_takePlan {w : Weave} {plan : List (Nat × List Nat)} (h : memoryOk s) :
    memoryOk (s.takePlan w plan) := memoryOk_ite (memoryOk_countRound (memoryOk_placeWeave h)) (memoryOk_same h rfl rfl)

theorem memoryOk_tryPlace {w : Weave} (h : memoryOk s) : memoryOk (s.tryPlace w) := by
  unfold State.tryPlace
  split
  · exact memoryOk_ite (memoryOk_same h rfl rfl) h
  · exact memoryOk_ite (memoryOk_refuseWeave h) (memoryOk_ite (memoryOk_takePlan h) h)

theorem okAfter_execWeavePlacement {w : Nat} (h : memoryOk s) : okAfter (execWeavePlacement w s) := by
  unfold execWeavePlacement
  split
  · exact h
  · refine okAfter_ite h ?_
    refine okAfter_ite ?_ ?_
    · exact memoryOk_tryPlace h
    · exact okAfter_ite (memoryOk_refuseWeave h) (memoryOk_tryPlace (memoryOk_same h rfl rfl))

theorem okAfter_execReservationRequest {d w : Nat} (h : memoryOk s) : okAfter (execReservationRequest d w s) := by
  unfold execReservationRequest
  split
  · exact h
  · exact okAfter_ite h (okAfter_ite (memoryOk_modWeave h) (memoryOk_modWeave h))

theorem okAfter_execReservationReply {w : Nat} (h : memoryOk s) : okAfter (execReservationReply w s) := by
  unfold execReservationReply
  split
  · exact h
  · refine okAfter_ite ?_ ?_
    · exact h
    · exact okAfter_ite (memoryOk_modWeave h) (okAfter_ite (memoryOk_countRound (memoryOk_placeWeave h)) h)

theorem memoryOk_preempt {w : Weave} (h : memoryOk s) : memoryOk (s.preempt w) := memoryOk_same h rfl rfl

theorem okAfter_execPreemptDecision {w w' : Nat} (h : memoryOk s) : okAfter (execPreemptDecision w w' s) := by
  unfold execPreemptDecision
  split
  · refine okAfter_ite h ?_
    split
    · exact h
    · exact memoryOk_ite (memoryOk_preempt h) h
  · exact h

theorem okAfter_execQuantumExpiry {w w' : Nat} (h : memoryOk s) : okAfter (execQuantumExpiry w w' s) := by
  unfold execQuantumExpiry
  split
  · exact h
  · refine okAfter_ite h ?_
    refine okAfter_ite (memoryOk_same h rfl rfl) ?_
    split
    · exact memoryOk_ite (memoryOk_preempt (memoryOk_fresh h)) h
    · exact h

theorem memoryOk_writeImage {a : Nat} {k : Core} (h : memoryOk s) : memoryOk (s.writeImage a k) := by
  unfold State.writeImage
  extract_lets n s1
  have hs1 : memoryOk s1 := memoryOk_untrackRange h
  clear_value s1 n
  generalize imageCells s a k = cells
  obtain ⟨hb, hsort, hlen⟩ := hs1
  exact ⟨setCells_wf _ _ (filter_wf _ _ hb), hsort.filter _, fun e he => hlen e (List.mem_of_mem_filter he)⟩

theorem memoryOk_saveJob {w c i : Nat} (h : memoryOk s) :
    memoryOk (s.saveJob w c i) := memoryOk_modWeave (memoryOk_modCore (memoryOk_modDisp (memoryOk_writeImage (memoryOk_flushL1 h))))

theorem memoryOk_settleSave {w : Nat} (h : memoryOk s) : memoryOk (s.settleSave w) := memoryOk_modWeave h

theorem okAfter_execJobSaveComplete {c : Nat} (h : memoryOk s) : okAfter (execJobSaveComplete c s) := by
  unfold execJobSaveComplete
  split
  · exact h
  · refine okAfter_ite h ?_
    split
    · exact memoryOk_settleSave (memoryOk_saveJob h)
    · exact h

theorem okAfter_execPreemptOverdue {w : Nat} (h : memoryOk s) : okAfter (execPreemptOverdue w s) := by
  unfold execPreemptOverdue
  split
  · exact h
  · exact okAfter_ite h (memoryOk_tearDown h)

theorem memoryOk_resumeJob {hd : Option Nat} {i : Image} (h : memoryOk s) :
    memoryOk (s.resumeJob hd i) := memoryOk_drainSignals (memoryOk_modCore (memoryOk_same (memoryOk_flushL1 h) rfl rfl))

theorem okAfter_execWeaveResume {w : Nat} (h : memoryOk s) : okAfter (execWeaveResume w s) := by
  unfold execWeaveResume
  split
  · exact h
  · refine okAfter_ite (memoryOk_ite h (memoryOk_settleSave h)) ?_
    refine okAfter_ite ?_ ?_
    · exact memoryOk_countRound (memoryOk_same (memoryOk_foldl (fun _ _ hu => memoryOk_resumeJob hu) (memoryOk_freeImages h)) rfl rfl)
    · exact memoryOk_ite (memoryOk_same h rfl rfl) h

end Sys2Proof.Machine
end

section
/-! SUPPORT. Memory keeps its form through the issue of words, the halt controllers and the panel in service (R132, R144). -/

namespace Sys2Proof.Machine

open Sys2Proof

variable {s u : State}

/-! The issue of words. -/

theorem okAfter_execIbufFill {c va : Nat} (h : memoryOk s) : okAfter (execIbufFill c va s) := by
  unfold execIbufFill
  extract_lets k
  split
  · exact h
  · exact okAfter_ite h (memoryOk_modCore (memoryOk_homeFetch h))

theorem memoryOk_saveStopHere {c : Nat} (h : memoryOk s) : memoryOk (s.saveStopHere c) := memoryOk_modData (memoryOk_takeSnap h)

theorem memoryOk_countCycle {c : Nat} (h : memoryOk s) : memoryOk (s.countCycle c) := memoryOk_modCore h

theorem memoryOk_tick {c : Nat} (h : memoryOk s) : memoryOk (s.tick c) := by
  unfold State.tick
  extract_lets k d
  refine memoryOk_ite (memoryOk_modCore h) ?_
  refine memoryOk_ite ?_ ?_
  · exact memoryOk_ite h (memoryOk_modCore h)
  · exact memoryOk_ite h (memoryOk_ite h (memoryOk_modCore (memoryOk_modCore (memoryOk_countCycle h))))

theorem okAfter_execTimingTrap {c : Nat} (h : memoryOk s) : okAfter (execTimingTrap c s) := by
  unfold execTimingTrap
  extract_lets d
  split
  · exact memoryOk_ite h (memoryOk_strandFault h)
  · exact h

theorem okAfter_execIllegalInstruction {raw : Nat} (h : memoryOk s) : okAfter (execIllegalInstruction raw s) := by
  unfold execIllegalInstruction
  split
  · exact memoryOk_trap h
  · exact memoryOk_undefinedWord h
  · split
    · exact memoryOk_nmuEnd h
    · exact h
  · exact memoryOk_endRun h
  · exact h

theorem memoryOk_abandon {c : Nat} {w : Wait} (h : memoryOk s) : memoryOk (s.abandon c w) := by
  unfold State.abandon
  split
  · split
    · split
      · exact memoryOk_endAccess h
      · exact memoryOk_modAccess h
    · exact h
  · exact memoryOk_endAccess h
  · exact memoryOk_modCore (memoryOk_dropWalk h)
  · exact memoryOk_modCore (memoryOk_withdrawWalk h)
  · exact h

theorem okAfter_execAsyncFaultTake {c : Nat} (h : memoryOk s) : okAfter (execAsyncFaultTake c s) := by
  unfold execAsyncFaultTake
  extract_lets k x
  refine okAfter_ite h ?_
  split
  · exact h
  · extract_lets take
    have htake : ∀ u, memoryOk u → memoryOk (take u) := fun _ hu => memoryOk_enterTrap (memoryOk_modCore hu)
    clear_value take x
    split
    · exact htake _ h
    · exact okAfter_ite h (htake _ (memoryOk_abandon h))
    · exact h

/-! The dispatcher. -/

theorem memoryOk_dispPlaces {c t va n : Nat} {go : List (Nat × Nat) → State} (h : memoryOk s) (hgo : ∀ x0, memoryOk (go x0)) :
    memoryOk (dispPlaces s c t va n go) := by
  unfold dispPlaces
  split
  · exact memoryOk_trap h
  · exact memoryOk_fatal h
  · exact memoryOk_ite (memoryOk_trap h) (hgo _)

theorem memoryOk_dispBlock {c t va n : Nat} {go : State} (h : memoryOk s) (hgo : memoryOk go) :
    memoryOk (dispBlock s c t va n go) := memoryOk_dispPlaces h (fun _ => hgo)

theorem okAfter_execQmap {hd : CHdr} {d a b : Nat} (h : memoryOk s) : okAfter (execQmap hd d a b s) := by
  unfold execQmap
  refine okAfter_asTask h (fun c t => ?_)
  extract_lets v n
  refine memoryOk_ite ?_ ?_
  · exact memoryOk_trap h
  · exact memoryOk_ite (memoryOk_trap h) (memoryOk_ite (memoryOk_trap h) (memoryOk_dispBlock h (memoryOk_park h)))

theorem memoryOk_submit {c slot : Nat} {p : List Byte} (h : memoryOk s) :
    memoryOk (s.submit c slot p).2 := okSnd_ite h (okSnd_ite h (okSnd_ite h (okSnd_ite h (memoryOk_modSlot h))))

theorem memoryOk_dispAnswer {c t : Nat} {i : Instr} (h : memoryOk s) : memoryOk (s.dispAnswer c t i) := by
  unfold State.dispAnswer
  split
  · exact memoryOk_dispPlaces (memoryOk_release h) (fun ps => memoryOk_wakeWith (memoryOk_submit (memoryOk_release h)))
  · exact memoryOk_dispPlaces (memoryOk_release h) (fun ps => memoryOk_wakeWith (memoryOk_mapSlot (memoryOk_release h)))
  · exact memoryOk_wakeWith (memoryOk_acquire (memoryOk_unmapSlot h))
  · exact memoryOk_wakeWith h
  · exact h

theorem okAfter_execDispatcherAnswer {c t : Nat} (h : memoryOk s) : okAfter (execDispatcherAnswer c t s) := by
  unfold execDispatcherAnswer
  split
  · exact memoryOk_ite (memoryOk_dispAnswer h) h
  · exact h

/-! The halt controllers. -/

theorem okAfter_execHaltCause {c t src code : Nat} {pc val : Word} (h : memoryOk s) :
    okAfter (execHaltCause c t src code pc val s) := okAfter_ite (memoryOk_ite (memoryOk_haltCore h) (memoryOk_haltCore h)) h

theorem okAfter_execHaltWaveArrival {c : Nat} (h : memoryOk s) : okAfter (execHaltWaveArrival c s) := by
  unfold execHaltWaveArrival
  split
  · exact memoryOk_ite (memoryOk_freezeDie h) h
  · exact h

theorem okAfter_execHaltSettled {slot : Nat} (h : memoryOk s) : okAfter (execHaltSettled slot s) := by
  unfold execHaltSettled
  extract_lets sl
  split
  · exact h
  · split
    · exact h
    · exact okAfter_ite (memoryOk_same h rfl rfl) h

theorem okAfter_debugWord {op : Nat} {i : Instr} {a : Nat} {arg : Option Nat} (h : memoryOk s) : okAfter (debugWord op i a arg s) := by
  unfold debugWord
  refine okAfter_asTask h (fun c t => ?_)
  extract_lets v x
  refine memoryOk_ite (memoryOk_trap (memoryOk_open_ h)) ?_
  split
  · exact memoryOk_trap h
  · exact memoryOk_park h

theorem memoryOk_modSlotRec {hd : Nat} {f : HSlot → HSlot} (h : memoryOk s) : memoryOk (s.modSlotRec hd f) := memoryOk_same h rfl rfl

theorem memoryOk_dbgHaltOp {n d : Nat} {r : HRec} (h : memoryOk s) : memoryOk (s.dbgHaltOp n d r).next := by
  unfold State.dbgHaltOp
  extract_lets sl
  split
  · exact h
  · exact memoryOk_haltSlot h

theorem memoryOk_stepReply {c : Nat} {a : Access} (h : memoryOk s) : memoryOk (s.stepReply c a) := by
  unfold State.stepReply
  extract_lets s1
  split
  · exact memoryOk_after_ (memoryOk_deliver (memoryOk_unholdReply h))
  · exact memoryOk_asyncFault (memoryOk_endAccess (memoryOk_unholdReply h))
  · exact memoryOk_ite (memoryOk_endAccess (memoryOk_unholdReply h)) (memoryOk_accessFault (memoryOk_unholdReply h))

theorem memoryOk_countStep {n c : Nat} (h : memoryOk s) : memoryOk (s.countStep n c) := memoryOk_same h rfl rfl

theorem memoryOk_settledAhead {c : Nat} (h : memoryOk s) :
    memoryOk (s.settledAhead c) :=
  memoryOk_after (okAfter_execResultDue (memoryOk_after (okAfter_execMreleaseSlotsEmpty
      (memoryOk_foldl (fun _ _ hu => memoryOk_after (okAfter_execMatrixQueueW hu) hu) (memoryOk_modCore h)))
      (memoryOk_foldl (fun _ _ hu => memoryOk_after (okAfter_execMatrixQueueW hu) hu) (memoryOk_modCore h))))
      (memoryOk_after (okAfter_execMreleaseSlotsEmpty (memoryOk_foldl (fun _ _ hu => memoryOk_after (okAfter_execMatrixQueueW hu) hu)
      (memoryOk_modCore h))) (memoryOk_foldl (fun _ _ hu => memoryOk_after (okAfter_execMatrixQueueW hu) hu) (memoryOk_modCore h)))

theorem memoryOk_dbgStepOp {n c : Nat} {arg : Word} (h : memoryOk s) : memoryOk (s.dbgStepOp n c arg).next := by
  unfold State.dbgStepOp
  extract_lets sl k d t owe
  have hc : memoryOk (s.countStep n c) := memoryOk_countStep h
  have howe : ∀ m, memoryOk (owe m).next := fun m => memoryOk_modCore hc
  refine okNext_ite h (okNext_ite h (okNext_ite ?_ (okNext_ite h (okNext_ite h (howe 8)))))
  split
  · exact h
  · exact howe t
  · split
    · exact memoryOk_stepReply hc
    · exact memoryOk_modTask hc
    · exact h

theorem memoryOk_dbgResumeOp {n now : Nat} {arg : Word} (h : memoryOk s) : memoryOk (s.dbgResumeOp n arg now).next := by
  unfold State.dbgResumeOp
  extract_lets sl
  split
  · exact h
  · exact memoryOk_modSlotRec h

theorem memoryOk_dbgRdcOp {n : Nat} {reader : Option Nat} {v arg : Word} (h : memoryOk s) : memoryOk (s.dbgRdcOp n reader v arg).next := by
  unfold State.dbgRdcOp
  extract_lets sl m c read
  have hread : ∀ r b, memoryOk (read r b).next := by
    intro r b
    unfold read
    split
    · exact h
    · dsimp only
      split
      · exact memoryOk_ite (memoryOk_acquire h) h
      · exact h
  split
  · exact h
  · split
    · exact hread _ _
    · exact hread _ _
    · split
      · exact h
      · split <;> exact h

theorem memoryOk_dbgBpOp {n : Nat} {v arg : Word} (h : memoryOk s) : memoryOk (s.dbgBpOp n v arg).next := by
  unfold State.dbgBpOp
  extract_lets bk s1 sl
  have hs1 : memoryOk s1 := memoryOk_modSlotRec h
  change memoryOk (match sl.weave.bind fun w => tfind s1.weaves w with
    | some w => (s1.coresOf w).foldl (fun s c => s.modCore c fun k => { k with bps := sl.bps }) s1
    | none => s1)
  split
  · exact memoryOk_foldl (fun _ _ hu => memoryOk_modCore hu) hs1
  · exact hs1

theorem memoryOk_dbgOp {op : Nat} {slot reader : Option Nat} {v arg : Word} {now : Nat} (h : memoryOk s) :
    memoryOk (s.dbgOp op slot reader v arg now).next := by
  unfold State.dbgOp
  split
  · split <;> exact h
  · split
    · exact memoryOk_dbgStepOp h
    · exact memoryOk_dbgResumeOp h
    · exact memoryOk_dbgRdcOp h
    · exact memoryOk_dbgBpOp h
    · exact memoryOk_modSlotRec h

theorem memoryOk_answerHalt {c t d : Nat} {w : Wait} {v : Word} (h : memoryOk s) : memoryOk (s.answerHalt c t d w v) := by
  unfold State.answerHalt
  extract_lets a
  split
  · exact memoryOk_wakeWith h
  · exact memoryOk_ite (memoryOk_wakeWith h) (memoryOk_ite (memoryOk_haltCore (memoryOk_wakeWith h)) (memoryOk_wakeWith (memoryOk_dbgHaltOp h)))

theorem okAfter_execHaltControllerAnswer {c t : Nat} (h : memoryOk s) : okAfter (execHaltControllerAnswer c t s) := by
  unfold execHaltControllerAnswer
  split
  · refine okAfter_ite h ?_
    split
    · extract_lets v arg slot r
      have hr : memoryOk r.next := memoryOk_dbgOp h
      refine okAfter_ite h (okAfter_ite (memoryOk_answered h (memoryOk_answerHalt h)) ?_)
      exact memoryOk_answered h (memoryOk_ite (memoryOk_wakeWith (memoryOk_setReg hr)) (memoryOk_wakeWith hr))
    · exact h
  · exact h

theorem okAfter_hcmd {op d : Nat} (h : memoryOk s) : okAfter (hcmd op d s) := by
  unfold hcmd
  extract_lets b put slot cause r
  have hput : ∀ v w u, memoryOk u → memoryOk (put v w u) := fun _ _ _ hu => memoryOk_same hu rfl rfl
  refine okAfter_ite h ?_
  split
  · exact hput _ _ _ h
  · refine okAfter_ite h (hput _ _ _ ?_)
    unfold r
    clear_value slot cause
    split
    · cases slot
      case some => exact memoryOk_dbgHaltOp h
      case none => exact h
    · exact memoryOk_dbgOp h

theorem memoryOk_settleCauses {c : Nat} {deliver : Bool} (h : memoryOk s) : memoryOk (s.settleCauses c deliver) := by
  unfold State.settleCauses
  refine memoryOk_foldl (fun u t hu => ?_) h
  extract_lets x
  split
  · exact hu
  · exact memoryOk_ite (memoryOk_modTask hu) (memoryOk_ite (memoryOk_tearDown (memoryOk_modTask hu)) (memoryOk_modTask (memoryOk_modTask hu)))

theorem memoryOk_thaw {deliver : Bool} {c : Nat} (h : memoryOk s) :
    memoryOk (s.thaw deliver c) := memoryOk_settleCauses (memoryOk_drainSignals (memoryOk_freeSignals (memoryOk_modCore h)))

theorem okAfter_execResumeAtT {slot : Nat} (h : memoryOk s) : okAfter (execResumeAtT slot s) := by
  unfold execResumeAtT
  extract_lets sl s1
  split
  · exact h
  · extract_lets s2 s3
    have hs2 : memoryOk s2 := memoryOk_foldl (fun _ _ hu => memoryOk_thaw hu) (memoryOk_modSlotRec h)
    have hs3 : memoryOk s3 := by
      unfold s3
      split
      · exact memoryOk_tearDown hs2
      · exact hs2
    exact okAfter_ite h (memoryOk_resumeNet (memoryOk_resumeGroups (memoryOk_resumeNmus hs3)))

/-! The panel in service. -/

theorem memoryOk_modServ {d : Nat} {f : DieServ → DieServ} (h : memoryOk s) : memoryOk (s.modServ d f) := memoryOk_same h rfl rfl

theorem memoryOk_dropHost {p : Nat} (h : memoryOk s) : memoryOk (s.dropHost p) := memoryOk_modPkg h

theorem memoryOk_attentionAll {b : Nat} (h : memoryOk s) : memoryOk (s.attentionAll b) := memoryOk_foldl (fun _ _ hu => memoryOk_attention hu) h

theorem memoryOk_markLost {p : Nat} (h : memoryOk s) : memoryOk (s.markLost p) := memoryOk_ite h (memoryOk_attentionAll (memoryOk_same h rfl rfl))

theorem okAfter_execHostMemoryAccess {p : Nat} {write : Bool} {off : Nat} {data : List Byte} {err : Bool} (h : memoryOk s) :
    okAfter (execHostMemoryAccess p write off data err s) := by
  unfold execHostMemoryAccess
  extract_lets t at_ as ks s1 reply bytes
  have hreply : ∀ u r, memoryOk u → memoryOk (reply u r) := fun _ _ hu => memoryOk_modPkg hu
  have hs1 : memoryOk s1 := memoryOk_foldl (fun _ _ hu => memoryOk_homeFetch hu) h
  refine okAfter_ite h (okAfter_ite (memoryOk_homeWrite h) ?_)
  refine memoryOk_ite (hreply _ _ h) (memoryOk_ite ?_ (hreply _ _ hs1))
  clear_value ks
  split
  · exact memoryOk_ite (hreply _ _ (memoryOk_homeFetch (memoryOk_countError (memoryOk_homeDrop h)))) (hreply _ _ (memoryOk_countError h))
  · exact h

theorem memoryOk_slow {d : Nat} (h : memoryOk s) : memoryOk (s.slow d) := memoryOk_modServ h

theorem memoryOk_slowPkg {p : Nat} (h : memoryOk s) : memoryOk (s.slowPkg p) := memoryOk_slow (memoryOk_slow h)

theorem memoryOk_resetPkg {p : Nat} (h : memoryOk s) : memoryOk (s.resetPkg p) := by
  refine memoryOk_slowPkg ?_
  obtain ⟨hb, hsort, hlen⟩ := h
  exact ⟨hb, hsort.filter _, fun e he => hlen e (List.mem_of_mem_filter he)⟩

theorem memoryOk_cutPower {p : Nat} (h : memoryOk s) : memoryOk (s.cutPower p) := by
  refine memoryOk_modPkg ?_
  obtain ⟨hb, hh⟩ := memoryOk_resetPkg (p := p) h
  exact ⟨filter_wf _ _ hb, hh⟩

theorem okAfter_execPowerOff {p : Option Nat} (h : memoryOk s) : okAfter (execPowerOff p s) := by
  unfold execPowerOff
  split
  · exact memoryOk_ite (memoryOk_cutPower h) h
  · exact memoryOk_reset

theorem memoryOk_bootFails {p : Nat} (h : memoryOk s) : memoryOk (s.bootFails p) := memoryOk_modPkg (memoryOk_open_ h)

theorem okAfter_execPowerOn {p : Nat} {flowOk linksOk syncOk : Bool} (h : memoryOk s) : okAfter (execPowerOn p flowOk linksOk syncOk s) := by
  unfold execPowerOn
  generalize hto_ : (fun (b : Boot) (code : Nat) => s.modPkg p fun x => { x with boot := b, code }) = to_
  have hto : ∀ b n, memoryOk (to_ b n) := fun _ _ => hto_ ▸ memoryOk_modPkg h
  generalize checkImage p (s.pkg p).flash = code
  refine okAfter_ite h ?_
  split
  · exact memoryOk_slowPkg (memoryOk_modPkg h)
  · exact okAfter_ite h (memoryOk_modPkg h)
  · exact okAfter_ite (hto _ _) (memoryOk_modPkg h)
  · exact memoryOk_ite (hto _ _) (memoryOk_bootFails h)
  · exact memoryOk_ite (hto _ _) (memoryOk_bootFails h)
  all_goals exact h

theorem okAfter_execJoinEnd (h : memoryOk s) : okAfter (execJoinEnd s) := by
  unfold execJoinEnd
  extract_lets some_ all_ s1
  have hs1 : memoryOk s1 := memoryOk_foldl (f := State.markLost) (fun _ _ hu => memoryOk_markLost hu) h
  exact okAfter_ite h (memoryOk_foldl (fun _ _ hu => memoryOk_ite (memoryOk_modPkg hu) hu) hs1)

theorem okAfter_execFwctlCommit {p : Nat} (h : memoryOk s) : okAfter (execFwctlCommit p s) := by
  unfold execFwctlCommit
  refine okAfter_ite ?_ ?_
  · exact h
  · generalize checkImage p (s.pkg p).fwbuf = code
    exact okAfter_ite (memoryOk_modPkg h) (okAfter_ite (memoryOk_modPkg h) (memoryOk_modPkg (memoryOk_resetPkg h)))

theorem okAfter_execAttcmdStart {p : Nat} (h : memoryOk s) : okAfter (execAttcmdStart p s) := memoryOk_ite (memoryOk_modPkg h) h

theorem okAfter_execCoolantFlowChange {flow : Nat} (h : memoryOk s) : okAfter (execCoolantFlowChange flow s) := by
  unfold execCoolantFlowChange
  extract_lets since s1 s2
  have hs2 : memoryOk s2 := memoryOk_ite (memoryOk_attentionAll (memoryOk_same h rfl rfl)) (memoryOk_same h rfl rfl)
  exact memoryOk_ite (memoryOk_foldl (f := State.slow) (fun _ _ hu => memoryOk_slow hu) hs2) hs2

theorem okAfter_execFlowRecoveryTimer (h : memoryOk s) : okAfter (execFlowRecoveryTimer s) := by
  unfold execFlowRecoveryTimer
  split
  · exact memoryOk_ite (memoryOk_same h rfl rfl) h
  · exact h

theorem okAfter_execPcapWrite {p d : Nat} {v : Word} (h : memoryOk s) : okAfter (execPcapWrite p d v s) := memoryOk_ite (memoryOk_modServ h) h

theorem okAfter_execSwcapWrite {p : Nat} {v : Word} (h : memoryOk s) :
    okAfter (execSwcapWrite p v s) := okAfter_ite h (okAfter_ite (memoryOk_modPkg h) (memoryOk_modPkg (memoryOk_open_ h)))

theorem okAfter_execClkforceWrite {p : Nat} {v : Word} (h : memoryOk s) :
    okAfter (execClkforceWrite p v s) := memoryOk_ite (memoryOk_slow (memoryOk_slow (memoryOk_modPkg h))) h

theorem memoryOk_unhalt {w : Weave} (h : memoryOk s) : memoryOk (s.unhalt w) := by
  unfold State.unhalt
  split
  · exact h
  · exact memoryOk_foldl (fun _ _ hu => memoryOk_freeSignals (memoryOk_modCore hu)) (memoryOk_same h rfl rfl)

theorem okAfter_execKillWrite {p : Nat} {v : Word} (h : memoryOk s) : okAfter (execKillWrite p v s) := by
  unfold execKillWrite
  extract_lets ws
  refine okAfter_ite ?_ ?_
  · exact h
  · exact okAfter_ite (memoryOk_modPkg h) (memoryOk_foldl (fun _ _ hu => memoryOk_tearDown (memoryOk_unhalt hu)) h)

theorem okAfter_execLostWrite {p : Nat} {v : Word} (h : memoryOk s) : okAfter (execLostWrite p v s) := memoryOk_ite (memoryOk_markLost h) h

theorem okAfter_execApbaseWrite {p : Nat} {v : Word} (h : memoryOk s) : okAfter (execApbaseWrite p v s) := memoryOk_ite (memoryOk_modPkg h) h

theorem okAfter_execMgmtintWrite {p : Nat} {v : Word} (h : memoryOk s) : okAfter (execMgmtintWrite p v s) := memoryOk_ite (memoryOk_modPkg h) h

theorem okAfter_execNetaddrWrite {p off : Nat} {v : Word} (h : memoryOk s) :
    okAfter (execNetaddrWrite p off v s) := okAfter_ite h (okAfter_ite (memoryOk_dropHost h) (memoryOk_modPkg h))

theorem okAfter_execWalkStoreWrite {d off : Nat} {v : Word} (h : memoryOk s) :
    okAfter (execWalkStoreWrite d off v s) := okAfter_ite h (okAfter_ite (memoryOk_dropHost h) (memoryOk_same h rfl rfl))

theorem okAfter_execEdgectlWrite {sw : Nat} {v : Word} (h : memoryOk s) :
    okAfter (execEdgectlWrite sw v s) := memoryOk_ite (memoryOk_same h rfl rfl) h

theorem memoryOk_hostRegWrite {pa : Nat} {v : Word} (h : memoryOk s) : memoryOk (s.hostRegWrite pa v) := by
  unfold State.hostRegWrite
  split
  · exact h
  · exact memoryOk_ite (memoryOk_devWrite h) h
  · exact memoryOk_dropHost h

theorem memoryOk_blockWrite {p off : Nat} {v : Word} (h : memoryOk s) : memoryOk (s.blockWrite p off v) := by
  unfold State.blockWrite
  split
  · exact memoryOk_ite (memoryOk_after (okAfter_execFwctlCommit h) h) h
  · exact memoryOk_after (okAfter_execMgmtintWrite h) h
  · exact memoryOk_modPkg h
  · exact memoryOk_after (okAfter_execKillWrite h) h
  · exact memoryOk_after (okAfter_execLostWrite h) h
  · exact memoryOk_after (okAfter_execApbaseWrite h) h
  · exact memoryOk_after (okAfter_execPcapWrite h) h
  · exact memoryOk_after (okAfter_execPcapWrite h) h
  · exact memoryOk_after (okAfter_execSwcapWrite h) h
  · exact memoryOk_ite (memoryOk_after (okAfter_execAttcmdStart h) h) (memoryOk_modPkg h)
  · exact memoryOk_modPkg h
  · exact memoryOk_after (okAfter_execClkforceWrite h) h
  · refine memoryOk_ite ?_ ?_
    · exact memoryOk_modPkg h
    · exact memoryOk_ite (memoryOk_after (okAfter_execNetaddrWrite h) h) (memoryOk_ite h (memoryOk_dropHost h))

theorem memoryOk_mgmtWrite {p off : Nat} {v : Word} (h : memoryOk s) : memoryOk (s.mgmtWrite p off v) := by
  unfold State.mgmtWrite
  refine memoryOk_ite (memoryOk_dropHost h) ?_
  refine memoryOk_ite (memoryOk_blockWrite h) ?_
  refine memoryOk_ite (memoryOk_modPkg h) ?_
  refine memoryOk_ite (memoryOk_dropHost h) ?_
  refine memoryOk_ite ?_ ?_
  · extract_lets sw
    refine memoryOk_ite ?_ ?_
    · exact memoryOk_same h rfl rfl
    · exact memoryOk_ite (memoryOk_after (okAfter_execEdgectlWrite h) h) (memoryOk_dropHost h)
  · refine memoryOk_ite (memoryOk_after (okAfter_execWalkStoreWrite h) h) ?_
    split
    · exact memoryOk_hostRegWrite h
    · exact memoryOk_dropHost h

theorem memoryOk_hostLoad {p : Nat} {bar2 : Bool} {off n : Nat} (h : memoryOk s) :
    memoryOk (s.hostLoad p bar2 off n) := memoryOk_ite h (memoryOk_modPkg h)

theorem memoryOk_hostStore {p : Nat} {bar2 : Bool} {off n : Nat} {v : Word} (h : memoryOk s) : memoryOk (s.hostStore p bar2 off n v) := by
  unfold State.hostStore
  refine memoryOk_ite h ?_
  refine memoryOk_ite (memoryOk_dropHost h) ?_
  refine memoryOk_ite ?_ ?_
  · exact memoryOk_mgmtWrite h
  · exact memoryOk_ite (memoryOk_dropHost h) (memoryOk_ite (memoryOk_notify h) h)

/-! Every instruction. -/

theorem okAfter_exec {i : Instr} (h : memoryOk s) : okAfter (exec i s) := by
  cases i with
  | add | sub | addi | mul =>
    simp only [exec_add, exec_sub, exec_addi, exec_mul]
    exact okAfter_exactOp h
  | and | or | xor | shl | shr | sra | slt | sltu | min | max | minu | maxu | mulh | mulhu =>
    simp only [exec_and, exec_or, exec_xor, exec_shl, exec_shr, exec_sra, exec_slt, exec_sltu, exec_min, exec_max, exec_minu, exec_maxu,
      exec_mulh, exec_mulhu]
    exact okAfter_alu h
  | andi | ori | xori | shli | shri | srai | slti =>
    simp only [exec_andi, exec_ori, exec_xori, exec_shli, exec_shri, exec_srai, exec_slti]
    exact okAfter_aluI h
  | div | divu | rem | remu =>
    simp only [exec_div, exec_divu, exec_rem, exec_remu]
    exact okAfter_divide h
  | li | lih =>
    simp only [exec_li, exec_lih]
    exact okAfter_asTask h (fun c t => memoryOk_result h)
  | fadd | fsub | fmul | fmin | fmax =>
    simp only [exec_fadd, exec_fsub, exec_fmul, exec_fmin, exec_fmax]
    exact okAfter_scalarOp h
  | ffma | fdiv | fsqrt | fcvt =>
    simp only [exec_ffma, exec_fdiv, exec_fsqrt, exec_fcvt]
    exact okAfter_asTask h (fun c t => memoryOk_scalarResult h)
  | feq | flt | fle =>
    simp only [exec_feq, exec_flt, exec_fle]
    exact okAfter_scalarCmp h
  | beq | bne | blt | bge | bltu | bgeu =>
    simp only [exec_beq, exec_bne, exec_blt, exec_bge, exec_bltu, exec_bgeu]
    exact okAfter_branch h
  | j | call | jr | callr | ret =>
    simp only [exec_j, exec_call, exec_jr, exec_callr, exec_ret]
    exact okAfter_goTo h
  | ld | st =>
    simp only [exec_ld, exec_st]
    exact okAfter_asTask h (fun c t => memoryOk_lsAccess h)
  | atom | cas =>
    simp only [exec_atom, exec_cas]
    exact okAfter_asTask h (fun c t => memoryOk_atomAccess h)
  | fence | fenceSc | qmark =>
    simp only [exec_fence, exec_fenceSc, exec_qmark]
    exact okAfter_queueOnly h
  | cleanR | invR | cleaninvR =>
    simp only [exec_cleanR, exec_invR, exec_cleaninvR]
    exact okAfter_maintain h
  | probe =>
    rw [exec_probe]
    exact okAfter_execProbe h
  | phase =>
    rw [exec_phase]
    exact okAfter_execPhase h
  | cqCount | cqOut | cqMrow | cqMbits | cqVal =>
    simp only [exec_cqCount, exec_cqOut, exec_cqMrow, exec_cqMbits, exec_cqVal]
    exact okAfter_send h
  | cqRegion =>
    rw [exec_cqRegion]
    exact okAfter_asTask h (fun c t => memoryOk_ite (memoryOk_goOn (memoryOk_modData h)) h)
  | cqSquash =>
    rw [exec_cqSquash]
    exact okAfter_asTask h (fun c t => memoryOk_ite (memoryOk_strandAbsent h) (memoryOk_goOn (memoryOk_modStrand h)))
  | go =>
    rw [exec_go]
    exact okAfter_execGo h
  | rim | trkArm | qstat =>
    simp only [exec_rim, exec_trkArm, exec_qstat]
    exact okAfter_asTask h (fun c t => memoryOk_ite (memoryOk_trap h) (memoryOk_park h))
  | jend | qunmap =>
    simp only [exec_jend, exec_qunmap]
    exact okAfter_asTask h (fun c t => memoryOk_ite (memoryOk_trap h) (memoryOk_ite (memoryOk_trap h) (memoryOk_park h)))
  | tspawn =>
    rw [exec_tspawn]
    exact okAfter_execTspawn h
  | texit =>
    rw [exec_texit]
    exact okAfter_asTask h (fun c t => memoryOk_ite (memoryOk_trap h) (memoryOk_modCore h))
  | barw =>
    rw [exec_barw]
    exact okAfter_asTask h (fun c t => memoryOk_withBarrier h (fun bar => memoryOk_ite (memoryOk_goOn (memoryOk_acquire h)) (memoryOk_park h)))
  | bara =>
    rw [exec_bara]
    exact okAfter_asTask h (fun c t => memoryOk_withBarrier h (fun b => memoryOk_park (memoryOk_taskAccess h)))
  | evs =>
    rw [exec_evs]
    exact okAfter_asTask h (fun c t => memoryOk_ite (memoryOk_trap h) (memoryOk_goOn (memoryOk_post h)))
  | evw =>
    rw [exec_evw]
    exact okAfter_execEvw h
  | restart =>
    rw [exec_restart]
    exact okAfter_execRestart h
  | sysr =>
    rw [exec_sysr]
    exact okAfter_execSysr h
  | sysw =>
    rw [exec_sysw]
    exact okAfter_execSysw h
  | trap | brk =>
    simp only [exec_trap, exec_brk]
    exact okAfter_asTask h (fun c t => memoryOk_trapAt h)
  | tret =>
    rw [exec_tret]
    exact okAfter_asTask h (fun c t => memoryOk_ite (memoryOk_modTask h) (memoryOk_trap h))
  | ctlNop =>
    rw [exec_ctlNop]
    exact okAfter_asTask h (fun c t => memoryOk_goOn h)
  | ncmd =>
    rw [exec_ncmd]
    exact okAfter_execNcmd h
  | nfence =>
    rw [exec_nfence]
    exact okAfter_asTask h (fun c t => memoryOk_ite (memoryOk_park h) (memoryOk_goOn h))
  | nstat =>
    rw [exec_nstat]
    exact okAfter_asTask h (fun c t => memoryOk_ite (memoryOk_trap h) (memoryOk_modWait (memoryOk_park h)))
  | twList | twHash | twKvb | twTree | twRwalk =>
    simp only [exec_twList, exec_twHash, exec_twKvb, exec_twTree, exec_twRwalk]
    exact okAfter_walkCommand h
  | twWait =>
    rw [exec_twWait]
    exact okAfter_execTwWait h
  | twWaitTry =>
    rw [exec_twWaitTry]
    exact okAfter_execTwWaitTry h
  | gld | gatom =>
    simp only [exec_gld, exec_gatom]
    exact okAfter_asTask h (fun c t => memoryOk_fabricAccess h (fun pa nc => memoryOk_park (memoryOk_taskAccess h)))
  | gst =>
    rw [exec_gst]
    exact okAfter_asTask h (fun c t => memoryOk_fabricAccess h (fun pa nc => memoryOk_memoryAccess h))
  | qcast =>
    rw [exec_qcast]
    exact okAfter_execQcast h
  | rstAdd | rstMax =>
    simp only [exec_rstAdd, exec_rstMax]
    exact okAfter_rstWord h
  | mgCfgOpen =>
    rw [exec_mgCfgOpen]
    exact okAfter_execMgCfgOpen h
  | mgCfgFree =>
    rw [exec_mgCfgFree]
    exact okAfter_execMgCfgFree h
  | mgRd =>
    rw [exec_mgRd]
    exact okAfter_execMgRd h
  | gnfy =>
    rw [exec_gnfy]
    exact okAfter_execGnfy h
  | neQpOpen =>
    rw [exec_neQpOpen]
    exact okAfter_execNeQpOpen h
  | neQpClose | neQpRd | nePoll =>
    simp only [exec_neQpClose, exec_neQpRd, exec_nePoll]
    exact okAfter_qpCommand h
  | nePost | nePostRx =>
    simp only [exec_nePost, exec_nePostRx]
    exact okAfter_postCommand h
  | neArm =>
    rw [exec_neArm]
    exact okAfter_neCommand h
  | neCtrRd | neCtrSet | neCtrAdd =>
    simp only [exec_neCtrRd, exec_neCtrSet, exec_neCtrAdd]
    exact okAfter_ctrCommand h
  | neCwait =>
    rw [exec_neCwait]
    exact okAfter_asTask h (fun c t => memoryOk_ite (memoryOk_park h) (memoryOk_trap h))
  | smCtxOpen =>
    rw [exec_smCtxOpen]
    exact okAfter_execSmCtxOpen h
  | smCtxClose | smCtxReset | smCtxRd | smStart | smCancel | smWaitTry =>
    simp only [exec_smCtxClose, exec_smCtxReset, exec_smCtxRd, exec_smStart, exec_smCancel, exec_smWaitTry]
    exact okAfter_smCommand h
  | smProg =>
    rw [exec_smProg]
    exact okAfter_execSmProg h
  | smWait =>
    rw [exec_smWait]
    exact okAfter_execSmWait h
  | dbgHalt | dbgStep | dbgResume | dbgRdc | dbgBp | dbgClr =>
    simp only [exec_dbgHalt, exec_dbgStep, exec_dbgResume, exec_dbgRdc, exec_dbgBp, exec_dbgClr]
    exact okAfter_debugWord h
  | launch =>
    rw [exec_launch]
    exact okAfter_asTask h (fun c t => memoryOk_ite (memoryOk_trap h) (memoryOk_dispBlock h (memoryOk_park h)))
  | qmap =>
    rw [exec_qmap]
    exact okAfter_execQmap h
  | dataNop =>
    rw [exec_dataNop]
    exact okAfter_sharedNop h
  | dataRim =>
    rw [exec_dataRim]
    exact okAfter_execDataRim h
  | dataRegion =>
    rw [exec_dataRegion]
    exact okAfter_execDataRegion h
  | vloopQ | mloopQ | cpLoopQ =>
    simp only [exec_vloopQ, exec_mloopQ, exec_cpLoopQ]
    exact okAfter_loopWord h
  | vwhileQ | mwhileQ | cpWhileQ =>
    simp only [exec_vwhileQ, exec_mwhileQ, exec_cpWhileQ]
    exact okAfter_whileWord h
  | vifQ | mifQ | cpIfQ =>
    simp only [exec_vifQ, exec_mifQ, exec_cpIfQ]
    exact okAfter_ifWord h
  | vvalQ | mvalQ | cpValQ =>
    simp only [exec_vvalQ, exec_mvalQ, exec_cpValQ]
    exact okAfter_valWord h
  | vmaskQ =>
    rw [exec_vmaskQ]
    exact okAfter_asStrand h (fun c => memoryOk_pop (memoryOk_issueWord h) (fun s ent hs => memoryOk_stepStrand (memoryOk_modData hs))
        (fun s hs => memoryOk_stepStrand hs))
  | vxset | mxset | cpXset =>
    simp only [exec_vxset, exec_mxset, exec_cpXset]
    exact okAfter_xsetWord h
  | vxadd | mxadd | cpXadd =>
    simp only [exec_vxadd, exec_mxadd, exec_cpXadd]
    exact okAfter_xaddWord h
  | vadd | vsub | vmul | vfma | vmin | vmax | vand | vor | vxor | vnot | vshl | vshr | vsra | vcmp | vsel | vmovi | vcvt | vexp2 | vlog2 |
    vrcp | vrsq | vrotr | vrotc | vbcr | vbcc | vredr | vredc | acvt | vkmovToMask | vkmovToVector =>
    simp only [exec_vadd, exec_vsub, exec_vmul, exec_vfma, exec_vmin, exec_vmax, exec_vand, exec_vor, exec_vxor, exec_vnot, exec_vshl,
      exec_vshr, exec_vsra, exec_vcmp, exec_vsel, exec_vmovi, exec_vcvt, exec_vexp2, exec_vlog2, exec_vrcp, exec_vrsq, exec_vrotr,
      exec_vrotc, exec_vbcr, exec_vbcc, exec_vredr, exec_vredc, exec_acvt, exec_vkmovToMask, exec_vkmovToVector]
    exact okAfter_arrayWord h
  | vld =>
    rw [exec_vld]
    exact okAfter_vecMemory h (fun s c us act hs => memoryOk_ite hs (memoryOk_vecAccesses (memoryOk_modData (memoryOk_fresh hs))))
  | vst =>
    rw [exec_vst]
    exact okAfter_vecMemory h (fun s c us act hs => memoryOk_vecAccesses (memoryOk_fresh hs))
  | vldr | mclaim | mrelease =>
    simp only [exec_vldr, exec_mclaim, exec_mrelease]
    exact okAfter_asStrand h (fun c => memoryOk_ite (memoryOk_undefinedWord h) (memoryOk_stepStrand (memoryOk_modData (memoryOk_issueWord h))))
  | vstr =>
    rw [exec_vstr]
    exact okAfter_execVstr h
  | vchain =>
    rw [exec_vchain]
    exact okAfter_asStrand h (fun c => memoryOk_ite (memoryOk_undefinedWord h) (memoryOk_arrayIssue h))
  | vkopAnd | vkopOr | vkopXor | vkopAndn | vkopNot | vkopSet | vkopClr =>
    simp only [exec_vkopAnd, exec_vkopOr, exec_vkopXor, exec_vkopAndn, exec_vkopNot, exec_vkopSet, exec_vkopClr]
    exact okAfter_kopWord h
  | mma | mfill | mdrain =>
    simp only [exec_mma, exec_mfill, exec_mdrain]
    exact okAfter_asStrand h (fun c => memoryOk_ite (memoryOk_undefinedWord h) (memoryOk_queueWord h))
  | mzero =>
    rw [exec_mzero]
    exact okAfter_asStrand h (fun c => memoryOk_queueWord h)
  | cpLin | cp2d | cpGth | cpSct | cpSet | cpRcopy =>
    simp only [exec_cpLin, exec_cp2d, exec_cpGth, exec_cpSct, exec_cpSet, exec_cpRcopy]
    exact okAfter_transferWord h
  | cpFill | cpDrain =>
    simp only [exec_cpFill, exec_cpDrain]
    exact okAfter_fireWord h
  | cpTr =>
    rw [exec_cpTr]
    exact okAfter_execCpTr h
  | nld | nst | nemit =>
    simp only [exec_nld, exec_nst, exec_nemit]
    exact okAfter_asNmu h (fun n r => memoryOk_ite (memoryOk_nmuEnd h) (memoryOk_ite (memoryOk_nmuEnd h) (memoryOk_nmuStep h)))
  | nadd | nsub | nmul | nfma =>
    simp only [exec_nadd, exec_nsub, exec_nmul, exec_nfma]
    exact okAfter_arWord h
  | nmax | nmin | ncmp | nexp2 =>
    simp only [exec_nmax, exec_nmin, exec_ncmp, exec_nexp2]
    exact okAfter_elemWord h
  | nsel | ncvt | nmov | nbcst | nredmax | nredsum | nlogic | nset =>
    simp only [exec_nsel, exec_ncvt, exec_nmov, exec_nbcst, exec_nredmax, exec_nredsum, exec_nlogic, exec_nset]
    exact okAfter_regWord h
  | nloop | nloop2 =>
    simp only [exec_nloop, exec_nloop2]
    exact okAfter_nloopWord h
  | nend =>
    rw [exec_nend]
    exact okAfter_asNmu h (fun n r => memoryOk_ite (memoryOk_setRun (memoryOk_nmuBoundary h)) (memoryOk_nmuEnd (memoryOk_nmuBoundary h)))
  | naddr =>
    rw [exec_naddr]
    exact okAfter_asNmu h (fun n r => memoryOk_nmuStep h)
  | illegalInstruction =>
    rw [exec_illegalInstruction]
    exact okAfter_execIllegalInstruction h
  | smLd =>
    rw [exec_smLd]
    exact okAfter_execSmLd h
  | smSt =>
    rw [exec_smSt]
    exact okAfter_execSmSt h
  | smLi =>
    rw [exec_smLi]
    exact okAfter_execSmLi h
  | smMov =>
    rw [exec_smMov]
    exact okAfter_execSmMov h
  | smAdd =>
    rw [exec_smAdd]
    exact okAfter_execSmAdd h
  | smSub =>
    rw [exec_smSub]
    exact okAfter_execSmSub h
  | smCmp =>
    rw [exec_smCmp]
    exact okAfter_execSmCmp h
  | smMax =>
    rw [exec_smMax]
    exact okAfter_execSmMax h
  | smDiv =>
    rw [exec_smDiv]
    exact okAfter_execSmDiv h
  | smExp =>
    rw [exec_smExp]
    exact okAfter_execSmExp h
  | smSum =>
    rw [exec_smSum]
    exact okAfter_execSmSum h
  | smTopk =>
    rw [exec_smTopk]
    exact okAfter_execSmTopk h
  | smTopp =>
    rw [exec_smTopp]
    exact okAfter_execSmTopp h
  | smTemp =>
    rw [exec_smTemp]
    exact okAfter_execSmTemp h
  | smRng =>
    rw [exec_smRng]
    exact okAfter_execSmRng h
  | smDraw =>
    rw [exec_smDraw]
    exact okAfter_execSmDraw h
  | smTree =>
    rw [exec_smTree]
    exact okAfter_execSmTree h
  | smAcc =>
    rw [exec_smAcc]
    exact okAfter_execSmAcc h
  | smEmit =>
    rw [exec_smEmit]
    exact okAfter_execSmEmit h
  | smBr =>
    rw [exec_smBr]
    exact okAfter_execSmBr h
  | smBz =>
    rw [exec_smBz]
    exact okAfter_execSmBz h
  | smEnd =>
    rw [exec_smEnd]
    exact okAfter_execSmEnd h
  | pageWalkComplete =>
    rw [exec_pageWalkComplete]
    exact memoryOk_walkStep h
  | phaseComplete =>
    rw [exec_phaseComplete]
    exact okAfter_execPhaseComplete h
  | rimRendezvous =>
    rw [exec_rimRendezvous]
    exact okAfter_execRimRendezvous h
  | barrierCarryFlip =>
    rw [exec_barrierCarryFlip]
    exact okAfter_ite (memoryOk_flipped (memoryOk_same h rfl rfl)) h
  | eventSignalArrival =>
    rw [exec_eventSignalArrival]
    exact okAfter_execEventSignalArrival h
  | asyncFaultTake =>
    rw [exec_asyncFaultTake]
    exact okAfter_execAsyncFaultTake h
  | dispatcherAnswer =>
    rw [exec_dispatcherAnswer]
    exact okAfter_execDispatcherAnswer h
  | regionCrossingComplete =>
    rw [exec_regionCrossingComplete]
    exact okAfter_execRegionCrossingComplete h
  | dataFreezeEnd | rdescWrite =>
    simp only [exec_dataFreezeEnd, exec_rdescWrite]
    exact memoryOk_ite (memoryOk_modData h) h
  | freezeTimeout =>
    rw [exec_freezeTimeout]
    exact memoryOk_ite (memoryOk_dataFault (memoryOk_modData h)) h
  | timingTrap =>
    rw [exec_timingTrap]
    exact okAfter_execTimingTrap h
  | arrayWordStart =>
    rw [exec_arrayWordStart]
    exact okAfter_execArrayWordStart h
  | resultDue =>
    rw [exec_resultDue]
    exact okAfter_execResultDue h
  | mreleaseSlotsEmpty =>
    rw [exec_mreleaseSlotsEmpty]
    exact okAfter_execMreleaseSlotsEmpty h
  | matrixQueueStart =>
    rw [exec_matrixQueueStart]
    exact okAfter_execMatrixQueueStart h
  | matrixQueueW =>
    rw [exec_matrixQueueW]
    exact okAfter_execMatrixQueueW h
  | copyTransferComplete =>
    rw [exec_copyTransferComplete]
    exact okAfter_execCopyTransferComplete h
  | ibufFill =>
    rw [exec_ibufFill]
    exact okAfter_execIbufFill h
  | homeRequest =>
    rw [exec_homeRequest]
    exact okAfter_execHomeRequest h
  | storedTransferComplete =>
    rw [exec_storedTransferComplete]
    exact okAfter_execStoredTransferComplete h
  | cacheEviction =>
    rw [exec_cacheEviction]
    exact okAfter_execCacheEviction h
  | memoryReadReturn =>
    rw [exec_memoryReadReturn]
    exact okAfter_execMemoryReadReturn h
  | fabricRequestArrival =>
    rw [exec_fabricRequestArrival]
    exact okAfter_execFabricRequestArrival h
  | fabricRefusal =>
    rw [exec_fabricRefusal]
    exact okAfter_execFabricRefusal h
  | fabricRetryResend =>
    rw [exec_fabricRetryResend]
    exact okAfter_execFabricRetryResend h
  | fabricReply =>
    rw [exec_fabricReply]
    exact okAfter_execFabricReply h
  | replayWrite | discardWrite =>
    simp only [exec_replayWrite, exec_discardWrite]
    exact memoryOk_ite (memoryOk_acknowledgeLog h) h
  | errorEntryClear =>
    rw [exec_errorEntryClear]
    exact memoryOk_ite (memoryOk_clearEntry h) h
  | barrierConfigWrite =>
    rw [exec_barrierConfigWrite]
    exact okAfter_execBarrierConfigWrite h
  | deviceRegisterWrite =>
    rw [exec_deviceRegisterWrite]
    exact okAfter_ite (memoryOk_ite (memoryOk_mgmtWrite h) h) (memoryOk_ite (memoryOk_hostRegWrite h) h)
  | notifyWrite =>
    rw [exec_notifyWrite]
    exact memoryOk_ite (memoryOk_notify h) h
  | packetTake =>
    rw [exec_packetTake]
    exact okAfter_takePacket h
  | dependenceRecheck =>
    rw [exec_dependenceRecheck]
    exact okAfter_execDependenceRecheck h
  | packetComplete =>
    rw [exec_packetComplete]
    exact okAfter_execPacketComplete h
  | weavePlacement =>
    rw [exec_weavePlacement]
    exact okAfter_execWeavePlacement h
  | reservationRequest =>
    rw [exec_reservationRequest]
    exact okAfter_execReservationRequest h
  | reservationReply =>
    rw [exec_reservationReply]
    exact okAfter_execReservationReply h
  | quantumExpiry =>
    rw [exec_quantumExpiry]
    exact okAfter_execQuantumExpiry h
  | preemptDecision =>
    rw [exec_preemptDecision]
    exact okAfter_execPreemptDecision h
  | jobSaveComplete =>
    rw [exec_jobSaveComplete]
    exact okAfter_execJobSaveComplete h
  | preemptOverdue =>
    rw [exec_preemptOverdue]
    exact okAfter_execPreemptOverdue h
  | weaveResume =>
    rw [exec_weaveResume]
    exact okAfter_execWeaveResume h
  | weaveComplete =>
    rw [exec_weaveComplete]
    exact okAfter_execWeaveComplete h
  | weaveTeardown =>
    rw [exec_weaveTeardown]
    exact okAfter_execWeaveTeardown h
  | graphNodeReady =>
    rw [exec_graphNodeReady]
    exact okAfter_execGraphNodeReady h
  | savepoolWrite =>
    rw [exec_savepoolWrite]
    exact memoryOk_ite (memoryOk_setSavepool h) h
  | nmuCommandStart =>
    rw [exec_nmuCommandStart]
    exact okAfter_execNmuCommandStart h
  | nmuPreemptStop =>
    rw [exec_nmuPreemptStop]
    exact okAfter_execNmuPreemptStop h
  | nmuRestWatchdog =>
    rw [exec_nmuRestWatchdog]
    exact okAfter_execNmuRestWatchdog h
  | nmuResume =>
    rw [exec_nmuResume]
    exact okAfter_execNmuResume h
  | walkAccept =>
    rw [exec_walkAccept]
    exact okAfter_execWalkAccept h
  | walkSectorReturn =>
    rw [exec_walkSectorReturn]
    exact okAfter_execWalkSectorReturn h
  | walkStepLimit =>
    rw [exec_walkStepLimit]
    exact okAfter_execWalkStepLimit h
  | walkSlotFull =>
    rw [exec_walkSlotFull]
    exact okAfter_execWalkSlotFull h
  | reduceContribution =>
    rw [exec_reduceContribution]
    exact okAfter_execReduceContribution h
  | reduceTimeout =>
    rw [exec_reduceTimeout]
    exact okAfter_execReduceTimeout h
  | stripeMessage =>
    rw [exec_stripeMessage]
    exact okAfter_execStripeMessage h
  | partialArrival =>
    rw [exec_partialArrival]
    exact okAfter_execPartialArrival h
  | mergeTimeout =>
    rw [exec_mergeTimeout]
    exact okAfter_execMergeTimeout h
  | queryCompletionDone =>
    rw [exec_queryCompletionDone]
    exact okAfter_execQueryCompletionDone h
  | switchDieAnswer =>
    rw [exec_switchDieAnswer]
    exact okAfter_execSwitchDieAnswer h
  | neEntryStart =>
    rw [exec_neEntryStart]
    exact okAfter_execNeEntryStart h
  | neAckArrival =>
    rw [exec_neAckArrival]
    exact okAfter_execNeAckArrival h
  | neRtoExpiry =>
    rw [exec_neRtoExpiry]
    exact okAfter_execNeRtoExpiry h
  | nePacketReceive =>
    rw [exec_nePacketReceive]
    exact memoryOk_receive h
  | smRunBegin =>
    rw [exec_smRunBegin]
    exact okAfter_execSmRunBegin h
  | smStepLimit =>
    rw [exec_smStepLimit]
    exact okAfter_execSmStepLimit h
  | smcancelWrite =>
    rw [exec_smcancelWrite]
    exact memoryOk_ite (memoryOk_writeCancel h) h
  | smCancelEffect =>
    rw [exec_smCancelEffect]
    exact okAfter_execSmCancelEffect h
  | haltCause =>
    rw [exec_haltCause]
    exact okAfter_execHaltCause h
  | haltWaveArrival =>
    rw [exec_haltWaveArrival]
    exact okAfter_execHaltWaveArrival h
  | haltSettled =>
    rw [exec_haltSettled]
    exact okAfter_execHaltSettled h
  | haltControllerAnswer =>
    rw [exec_haltControllerAnswer]
    exact okAfter_execHaltControllerAnswer h
  | resumeAtT =>
    rw [exec_resumeAtT]
    exact okAfter_execResumeAtT h
  | hcmdHalt | hcmdStep | hcmdResume | hcmdRdc | hcmdBp | hcmdClr =>
    simp only [exec_hcmdHalt, exec_hcmdStep, exec_hcmdResume, exec_hcmdRdc, exec_hcmdBp, exec_hcmdClr]
    exact okAfter_hcmd h
  | hostMemoryAccess =>
    rw [exec_hostMemoryAccess]
    exact okAfter_execHostMemoryAccess h
  | powerOn =>
    rw [exec_powerOn]
    exact okAfter_execPowerOn h
  | joinEnd =>
    rw [exec_joinEnd]
    exact okAfter_execJoinEnd h
  | fwctlCommit =>
    rw [exec_fwctlCommit]
    exact okAfter_execFwctlCommit h
  | attcmdStart =>
    rw [exec_attcmdStart]
    exact okAfter_execAttcmdStart h
  | attestReportReady =>
    rw [exec_attestReportReady]
    exact okAfter_ite h (memoryOk_modPkg h)
  | coolantFlowChange =>
    rw [exec_coolantFlowChange]
    exact okAfter_execCoolantFlowChange h
  | flowRecoveryTimer =>
    rw [exec_flowRecoveryTimer]
    exact okAfter_execFlowRecoveryTimer h
  | junctionTemperatureChange =>
    rw [exec_junctionTemperatureChange]
    exact okAfter_ite h (memoryOk_slow (memoryOk_modServ h))
  | thermalTrip =>
    rw [exec_thermalTrip]
    exact okAfter_ite h (okAfter_ite (memoryOk_markLost (memoryOk_cutPower h)) h)
  | pcapWrite =>
    rw [exec_pcapWrite]
    exact okAfter_execPcapWrite h
  | clkforceWrite =>
    rw [exec_clkforceWrite]
    exact okAfter_execClkforceWrite h
  | ageSample | clockStepChange =>
    simp only [exec_ageSample, exec_clockStepChange]
    exact okAfter_ite h (memoryOk_ite (memoryOk_attention (memoryOk_modServ h)) (memoryOk_modServ h))
  | killWrite =>
    rw [exec_killWrite]
    exact okAfter_execKillWrite h
  | lostWrite =>
    rw [exec_lostWrite]
    exact okAfter_execLostWrite h
  | apbaseWrite =>
    rw [exec_apbaseWrite]
    exact okAfter_execApbaseWrite h
  | mgmtintWrite =>
    rw [exec_mgmtintWrite]
    exact okAfter_execMgmtintWrite h
  | netaddrWrite =>
    rw [exec_netaddrWrite]
    exact okAfter_execNetaddrWrite h
  | walkStoreWrite =>
    rw [exec_walkStoreWrite]
    exact okAfter_execWalkStoreWrite h
  | edgectlWrite =>
    rw [exec_edgectlWrite]
    exact okAfter_execEdgectlWrite h
  | trkArmAnswer =>
    rw [exec_trkArmAnswer]
    exact okAfter_execTrkArmAnswer h
  | neCommandAnswer =>
    rw [exec_neCommandAnswer]
    exact okAfter_execNeCommandAnswer h
  | samplerAnswer =>
    rw [exec_samplerAnswer]
    exact okAfter_execSamplerAnswer h
  | nstatAnswer =>
    rw [exec_nstatAnswer]
    exact okAfter_execNstatAnswer h
  | qcastAnswer =>
    rw [exec_qcastAnswer]
    exact okAfter_execQcastAnswer h
  | nePacketTransmit =>
    rw [exec_nePacketTransmit]
    exact memoryOk_transmit h
  | powerOff =>
    rw [exec_powerOff]
    exact okAfter_execPowerOff h
  | swcapWrite =>
    rw [exec_swcapWrite]
    exact okAfter_execSwcapWrite h

end Sys2Proof.Machine
end

section
/-! SUPPORT. Memory keeps its form through the turns of a cycle (R132, R144). -/

namespace Sys2Proof.Machine

open Sys2Proof

variable {s u : State}

/-! The turns of the units. -/

theorem memoryOk_beginIssue {c t n : Nat} (h : memoryOk s) : memoryOk (s.beginIssue c t n) := memoryOk_modCore (memoryOk_same h rfl rfl)

theorem okAfter_carryOut {c t : Nat} {x : Choice} (h : memoryOk s) : okAfter (s.carryOut c t x) := by
  unfold State.carryOut
  split
  · exact h
  · exact okAfter_exec (memoryOk_beginIssue h)
  · exact memoryOk_trap (memoryOk_beginIssue h)
  · exact okAfter_execHaltCause h
  · exact memoryOk_fatal h

theorem okAfter_takeTurn {c t : Nat} {x : Choice} (h : memoryOk s) : okAfter (s.takeTurn c t x) := by
  unfold State.takeTurn
  split
  · exact okAfter_ite h (okAfter_ite (memoryOk_park (memoryOk_beginIssue h)) (okAfter_carryOut h))
  · exact okAfter_carryOut h

theorem memoryOk_retryCommand {c t : Nat} {i : Instr} (h : memoryOk s) :
    memoryOk (s.retryCommand c t i) := memoryOk_ite h (memoryOk_after (okAfter_exec (memoryOk_modTask (memoryOk_same h rfl rfl))) h)

theorem memoryOk_fillFor3 {c pc : Nat} (h : memoryOk s) : memoryOk (s.fillFor3 c pc) := by
  unfold State.fillFor3
  refine memoryOk_foldl (fun u va hu => ?_) h
  split
  · exact memoryOk_modCore hu
  · exact hu

theorem memoryOk_stepHeld {c t n : Nat} {x : Choice} (h : memoryOk s) : memoryOk (s.stepHeld c t n x) := memoryOk_modWait (memoryOk_same h rfl rfl)

theorem okAfter_ctlTurn {c : Nat} (h : memoryOk s) : okAfter (s.ctlTurn c) := by
  unfold State.ctlTurn
  split
  · refine okAfter_ite ?_ h
    extract_lets s1
    have hs1 : memoryOk s1 := memoryOk_modCore (memoryOk_fillFor3 h)
    split
    · exact h
    · exact memoryOk_stepHeld (memoryOk_after (okAfter_carryOut hs1) hs1)
  · split
    · exact okAfter_takeTurn h
    · exact h

theorem okAfter_dataTurn {c e : Nat} (h : memoryOk s) : okAfter (s.dataTurn c e) := by
  unfold State.dataTurn
  refine okAfter_ite (memoryOk_saveStopHere h) ?_
  refine okAfter_ite h ?_
  split
  · exact h
  · exact memoryOk_skipWord h
  · exact okAfter_exec (memoryOk_modStrand (memoryOk_same h rfl rfl))
  · exact okAfter_execHaltCause h
  · exact memoryOk_fatal h
  · exact memoryOk_strandFault h

theorem memoryOk_wordError {c party ecc : Nat} (h : memoryOk s) : memoryOk (s.wordError c party ecc) := by
  unfold State.wordError
  split
  · refine memoryOk_ite ?_ ?_
    · exact memoryOk_trap (memoryOk_beginIssue (memoryOk_countError h))
    · exact memoryOk_ite (memoryOk_strandFault (memoryOk_countError h)) h
  · exact memoryOk_countError h

theorem memoryOk_readFails {c t : Nat} (h : memoryOk s) : memoryOk (s.readFails c t) := by
  unfold State.readFails
  split
  · extract_lets fails
    split
    · exact memoryOk_ite (memoryOk_trap (memoryOk_beginIssue (memoryOk_countError h))) h
    · exact h
  · exact h

theorem okAfter_nmuTurn {n : Nat} (h : memoryOk s) : okAfter (s.nmuTurn n) := by
  unfold State.nmuTurn
  extract_lets s1
  have hs1 : memoryOk s1 := memoryOk_modNmu h
  split
  · exact hs1
  · exact okAfter_ite (okAfter_exec (memoryOk_same hs1 rfl rfl)) hs1

theorem okAfter_runSmOp {o : SmOp} (h : memoryOk s) : okAfter (runSmOp o s) := by
  unfold runSmOp
  split
  · exact okAfter_execSmLd h
  · exact okAfter_execSmSt h
  · exact okAfter_execSmLi h
  · exact okAfter_execSmMov h
  · exact okAfter_execSmAdd h
  · exact okAfter_execSmSub h
  · exact okAfter_execSmCmp h
  · exact okAfter_execSmMax h
  · exact okAfter_execSmDiv h
  · exact okAfter_execSmExp h
  · exact okAfter_execSmSum h
  · exact okAfter_execSmTopk h
  · exact okAfter_execSmTopp h
  · exact okAfter_execSmTemp h
  · exact okAfter_execSmRng h
  · exact okAfter_execSmDraw h
  · exact okAfter_execSmTree h
  · exact okAfter_execSmAcc h
  · exact okAfter_execSmEmit h
  · exact okAfter_execSmBr h
  · exact okAfter_execSmBz h
  · exact okAfter_execSmEnd h

theorem okAfter_runTurn {d n : Nat} (h : memoryOk s) : okAfter (s.runTurn d n) := by
  unfold State.runTurn
  split
  · exact h
  · refine okAfter_ite h ?_
    split
    · exact memoryOk_endRun h
    · extract_lets s1
      have hs1 : memoryOk s1 := memoryOk_modSmp (memoryOk_modCtx h)
      exact okAfter_runSmOp (memoryOk_same hs1 rfl rfl)

theorem memoryOk_endJob {c : Nat} (h : memoryOk s) : memoryOk (s.endJob c) := by
  unfold State.endJob
  split
  · exact memoryOk_modWeave (memoryOk_modCore h)
  · exact h

theorem memoryOk_wakeTurn {c t : Nat} (h : memoryOk s) : memoryOk (s.wakeTurn c t) := by
  unfold State.wakeTurn
  split
  · split
    · exact memoryOk_ite (memoryOk_endJob h) h
    · exact memoryOk_finishRestart h
    · exact memoryOk_retryNcmd h
    · exact memoryOk_ite h (memoryOk_wake h)
    · exact memoryOk_retryCwait h
    · exact memoryOk_retrySlot h
    · exact memoryOk_retryRun h
    · exact memoryOk_retryCommand h
    · exact h
  · exact h

theorem memoryOk_accessTurn {c id : Nat} (h : memoryOk s) : memoryOk (s.accessTurn c id) := by
  unfold State.accessTurn
  split
  · exact h
  · split
    · exact memoryOk_performDevice h
    · exact memoryOk_ite (memoryOk_ite (memoryOk_performNear h) h) (memoryOk_sendFabric h)
    · exact memoryOk_ite (memoryOk_performNear h) h

theorem memoryOk_openByte {vs : List Byte} {b : Byte} (h : memoryOk s) : memoryOk (s.openByte vs b).2 := memoryOk_open_ h

theorem memoryOk_openBytes {choose : Nat → List Byte} {cells : List Host.Cell} (h : memoryOk s) : memoryOk (s.openBytes choose cells).2 := by
  induction cells generalizing s with
  | nil => exact h
  | cons x cells ih => exact ih (okSnd_ite h (memoryOk_openByte h))

theorem memoryOk_performAny {c id : Nat} (h : memoryOk s) : memoryOk (s.performAny c id) := by
  unfold State.performAny
  split
  · exact h
  · refine memoryOk_ite ?_ ?_
    · exact memoryOk_after (okAfter_execFabricRequestArrival h) h
    · exact memoryOk_ite h (memoryOk_ite (memoryOk_accessTurn h) (memoryOk_after (okAfter_execHomeRequest h) h))

theorem memoryOk_raceTurn {c id : Nat} (h : memoryOk s) : memoryOk (s.raceTurn c id) := by
  unfold State.raceTurn
  split
  · exact h
  · extract_lets rivals s1
    split
    · exact memoryOk_ite h (memoryOk_modAccess (memoryOk_openBytes (memoryOk_performAny h)))
    · exact h

theorem memoryOk_mixTurn {c id : Nat} (h : memoryOk s) : memoryOk (s.mixTurn c id) := by
  unfold State.mixTurn
  split
  · exact h
  · exact memoryOk_ite h (memoryOk_performAny (memoryOk_modAccess (memoryOk_openBytes h)))

theorem memoryOk_countThrottle (h : memoryOk s) : memoryOk s.countThrottle := memoryOk_ite h (memoryOk_same h rfl rfl)

theorem memoryOk_timeTurn (h : memoryOk s) :
    memoryOk s.timeTurn := memoryOk_ite h (memoryOk_countThrottle (memoryOk_ageNets (memoryOk_same h rfl rfl)))

theorem memoryOk_mapTurn {d slot desc : Nat} (h : memoryOk s) : memoryOk (s.mapTurn d slot desc) := memoryOk_ite (memoryOk_mapSlot h) h

theorem okAfter_turn {x : Turn} (h : memoryOk s) : okAfter (s.turn x) := by
  unfold State.turn
  split
  · exact trivial
  · split
    · exact okAfter_ctlTurn h
    · exact okAfter_dataTurn h
    · exact okAfter_nmuTurn h
    · exact okAfter_runTurn h
    · exact okAfter_exec (memoryOk_same h rfl rfl)
    · exact memoryOk_tick h
    · exact memoryOk_timeTurn h
    · exact memoryOk_accessTurn h
    · exact memoryOk_moveUnit h
    · exact memoryOk_sendRunEmit h
    · exact memoryOk_runErrorMet h
    · exact memoryOk_moveStored h
    · exact memoryOk_nmuErrorMet h
    · exact memoryOk_wakeTurn h
    · exact memoryOk_mapTurn h
    · exact memoryOk_unmapSlot h
    · exact memoryOk_wordError h
    · exact memoryOk_readFails h
    · exact memoryOk_raceTurn h
    · exact memoryOk_mixTurn h
    · exact memoryOk_walkStep h
    · exact memoryOk_transmit h
    · exact memoryOk_hostLoad h
    · exact memoryOk_hostStore h
    · exact memoryOk_modPkg h
    · exact okAfter_takeError h
    · exact memoryOk_receive h
    · exact memoryOk_walkErrorMet h
    · exact memoryOk_countError h

theorem okAfter_bounded {r : Out} (h : memoryOk s) (hr : okAfter r) : okAfter (s.bounded r) := by
  cases r with
  | next t => exact okAfter_ite (r := .next s) h hr
  | fault f => trivial
  | refused f => trivial

theorem memoryOk_nextTurn (h : memoryOk s) : memoryOk (s.nextTurn).2 := by
  unfold State.nextTurn
  split <;> exact memoryOk_same h rfl rfl

end Sys2Proof.Machine
end

section
/-! PROOF. The form of memory at reset and through every step (R132, R144). -/

namespace Sys2Proof.Machine

open Sys2Proof

theorem okAfter_step {s : State} (h : memoryOk s) : okAfter (step s) :=
  okAfter_bounded (memoryOk_nextTurn h) (okAfter_turn (memoryOk_nextTurn h))

/-- Settles O59: at reset the banks and the homes list nothing. -/
theorem resetMemoryIsInItsForm : Obligations.ResetMemoryIsInItsForm := memoryOk_reset

/-- Settles O58: the choice of the next turn writes no memory, every unit's turn keeps the form of memory, and so does the bound on the state. -/
theorem everyStepKeepsMemoryInItsForm : Obligations.EveryStepKeepsMemoryInItsForm := by
  intro s t hok hstep
  have h : okAfter (step s) := okAfter_step hok
  rw [hstep] at h
  exact h

end Sys2Proof.Machine
end

section
/-! SUPPORT. Accesses in the queues of a core: one that is changed or ends, what stands around it, and the bytes a load finds. -/

namespace Sys2Proof.Machine

open Sys2Proof

theorem Core.access_id {k : Core} {id : Nat} {a : Access} (h : k.access id = some a) : a.id = id := by
  have hp := List.find?_some (firstWhere_eq_find? _ k.accs ▸ h : k.accs.find? (fun x => x.id == id) = some a)
  simpa using hp

/-- A changed access that keeps its number stands changed. -/
theorem State.modAccess_access {s : State} {c id : Nat} {f : Access → Access} {a : Access} (h : (s.core c).access id = some a)
    (hf : (f a).id = id) : ((s.modAccess c id f).core c).access id = some (f a) := by
  rw [State.modAccess, State.modCore_core_same]
  exact firstWhere_modFirst h (by simpa using hf)

theorem State.modAccess_core_other (s : State) (c id : Nat) (f : Access → Access) {e : Nat} (h : e ≠ c) : (s.modAccess c id f).core e = s.core e :=
  State.modCore_core_other _ _ _ _ h

theorem State.endAccess_core_other (s : State) (c id : Nat) {e : Nat} (h : e ≠ c) : (s.endAccess c id).core e = s.core e :=
  State.modCore_core_other _ _ _ _ h

@[simp] theorem State.modAccess_core_same (s : State) (c id : Nat) (f : Access → Access) :
    (s.modAccess c id f).core c = { s.core c with accs := modFirst (fun a => a.id == id) f (s.core c).accs } := by simp [State.modAccess]

@[simp] theorem State.endAccess_core_same (s : State) (c id : Nat) :
    (s.endAccess c id).core c = { s.core c with accs := dropFirst (fun a => a.id == id) (s.core c).accs } := by simp [State.endAccess]

@[simp] theorem State.modAccess_task (s : State) (c id e t : Nat) (f : Access → Access) : (s.modAccess c id f).task e t = s.task e t :=
  State.task_modCore_of_tasks _ _ _ _ _ rfl

@[simp] theorem State.endAccess_task (s : State) (c id e t : Nat) : (s.endAccess c id).task e t = s.task e t :=
  State.task_modCore_of_tasks _ _ _ _ _ rfl

@[simp] theorem State.endAccess_reg (s : State) (c id e t r : Nat) : (s.endAccess c id).reg e t r = s.reg e t r := by simp [State.reg]

theorem State.modAccess_bytes (s : State) (c id : Nat) (f : Access → Access) : bytesKept s (s.modAccess c id f) := modCore_bytes _ _ _ rfl rfl rfl rfl

theorem State.endAccess_bytes (s : State) (c id : Nat) : bytesKept s (s.endAccess c id) := modCore_bytes _ _ _ rfl rfl rfl rfl

/-! Order (R131, R141): an access without ORD orders nothing. -/

theorem State.before_of_not_rel (s : State) (c : Nat) {a : Access} (h : a.rel = false) : s.before_ c a = s := by simp [State.before_, h]

theorem State.after_of_not_acq (s : State) (c : Nat) {a : Access} (h : a.acq = false) : s.after_ c a = s := by simp [State.after_, h]

/-! The bytes a load finds (R139). -/

/-- With no earlier store of its party under way, a load finds what memory holds. -/
theorem Core.forwarded_of_no_store {k : Core} {a : Access} (h : (k.earlier a).all (fun e => e.kind != .store) = true) (bs : List Byte) :
    k.forwarded a bs = bs := by
  have hnone : ((k.earlier a).filter fun e => e.kind == .store && sameMemory e.space a.space && e.waiting) = [] := by
    refine List.filter_eq_nil_iff.2 fun e he => ?_
    have hk : (e.kind == .store) = false := by simpa [bne] using List.all_eq_true.1 h e he
    simp [hk]
  rw [Core.forwarded, hnone]
  rfl

end Sys2Proof.Machine
end


section
/-! PROOF. Core-store accesses move exactly their bytes; loaded values reach their registers (R113, R139, R203). -/

namespace Sys2Proof.Machine

open Sys2Proof

/-! An access of the core store has its turn. -/

section
variable {s : State} {c id : Nat} {a : Access}

/-- A load or store of the core store that nothing blocks is performed in its turn. -/
theorem turn_perform_core (hc : c < 8192) (ha : (s.core c).access id = some a) (hsp : a.space = .core) (hst : a.stage = .queued)
    (hk : a.kind = .store ∨ a.kind = .load) (hmay : (s.core c).mayPerform a = true) :
    s.turn (.perform c id) = .next (s.performCore c a) := by
  have hin : (Turn.perform c id).absent = none := by simp [Turn.absent, hc]
  have hturn : s.accessTurn c id = s.performCore c a := by
    rcases hk with hk | hk <;>
      simp [State.accessTurn, ha, hsp, hst, State.isNear, hk, hmay, State.nearNow, State.l1Room, State.performNear]
  simp only [State.turn, hin, hturn]

/-- A store of the core store writes its cells and is over. -/
theorem State.performCore_store (hsp : a.space = .core) (hk : a.kind = .store) (hacq : a.acq = false) (hrel : a.rel = false) :
    s.performCore c a = (s.modCore c fun k => { k with scratch := setCells k.scratch a.data }).endAccess c a.id := by
  have hnot : (Space.core == Space.opmem) = false := rfl
  simp [State.performCore, hk, hsp, hnot, State.before_of_not_rel s c hrel, State.after_of_not_acq _ c hacq]

/-- A load of the core store is fixed to the bytes there. -/
theorem State.performCore_load (hsp : a.space = .core) (hk : a.kind = .load) (hacq : a.acq = false) (hrel : a.rel = false)
    (hfree : ((s.core c).earlier a).all (fun e => e.kind != .store) = true) :
    s.performCore c a = s.fix c a (bytesAt (s.core c).scratch a.pa a.n) := by
  have hnot : (Space.core == Space.opmem) = false := rfl
  simp [State.performCore, hk, hsp, hnot, State.before_of_not_rel s c hrel, State.after_of_not_acq _ c hacq, Core.forwarded_of_no_store hfree]

end

/-- The bytes of a memory after a run of bytes has been written. -/
theorem byteAt_setCells_cellsFrom {m : Bytes} (hm : Memory.wf m = true) (a : Nat) (bs : List Byte) :
    (∀ i, i < bs.length → byteAt (setCells m (cellsFrom a bs)) (a + i) = bs.getD i 0#8) ∧
    ∀ x, x < a ∨ a + bs.length ≤ x → byteAt (setCells m (cellsFrom a bs)) x = byteAt m x := by
  refine ⟨fun i hi => ?_, fun x hx => byteAt_setCells_other _ _ _ fun e he h => ?_⟩
  · have hget : bs[i]? = some bs[i] := List.getElem?_eq_getElem hi
    rw [byteAt_setCells hm (keys_nodup (cellsFrom_pairwise a bs)), tfind_cellsFrom hget]
    simp [List.getD_eq_getElem?_getD, hget]
  · have hin := mem_cellsFrom he
    omega

/-! A value returns (R18, R203). -/

theorem State.waitOf_of_task {s u : State} {c t : Nat} (hst : (u.task c t).st = (s.task c t).st) (hw : (u.task c t).wait = (s.task c t).wait) :
    u.waitOf c t = s.waitOf c t := by simp [State.waitOf, hst, hw]

theorem State.endAccess_waitOf (s : State) (c id t : Nat) : (s.endAccess c id).waitOf c t = s.waitOf c t :=
  State.waitOf_of_task (by simp) (by simp)

theorem State.setReg_waitOf (s : State) (c t d : Nat) (v : Word) : (s.setReg c t d v).waitOf c t = s.waitOf c t :=
  State.waitOf_of_task (by simp [State.setReg]) (by simp [State.setReg])

theorem State.writeLoad_waitOf (s : State) (c t d : Nat) (sx : Bool) (bs : List Byte) : (s.writeLoad c t d sx bs).waitOf c t = s.waitOf c t := by
  unfold State.writeLoad
  dsimp only
  split
  · rw [State.setReg_waitOf, State.setReg_waitOf]
  · exact State.setReg_waitOf ..

/-- A value for a register of a task that waits for nothing is written there, and the access is over. -/
theorem answers_memoryReadReturn {s : State} {c id d : Nat} {sx : Bool} {a : Access} (ha : (s.core c).access id = some a)
    (hst : a.stage = .performed) (hsp : a.space ≠ .fabric) (hat : a.readyAt ≤ (s.core c).cycle) (hfault : a.fault = 0) (hd : a.dest = .reg d sx)
    (hready : (s.task c a.party).st = .ready) :
    exec (.memoryReadReturn c id 0) s = .next ((s.endAccess c id).writeLoad c a.party d sx a.val) := by
  have hlate : ¬ (s.core c).cycle < a.readyAt := Nat.not_lt.2 hat
  have hwait : ((s.endAccess c id).writeLoad c a.party d sx a.val).waitOf c a.party = none := by
    rw [State.writeLoad_waitOf, State.endAccess_waitOf, State.waitOf, hready]
    rfl
  have hdel : s.deliver c a = (s.endAccess c id).writeLoad c a.party d sx a.val := by
    simp only [State.deliver, Core.access_id ha, hd, hwait]
  simp [execMemoryReadReturn, ha, hst, hsp, hlate, hfault, hdel]

/-- The value of 1 to 8 bytes, extended as the load says (R203). -/
theorem writeLoad_short (s : State) (c t d : Nat) (sx : Bool) {bs : List Byte} (hle : bs.length ≤ 8) (hne : bs ≠ []) :
    s.writeLoad c t d sx bs =
      s.setReg c t d (if sx then (BitVec.ofNat (8 * bs.length) (numBytes bs)).signExtend 64 else BitVec.ofNat 64 (numBytes bs)) := by
  have h16 : bs.length ≠ 16 := by omega
  have hpos : 0 < bs.length := List.length_pos_iff.2 hne
  have hlt : numBytes bs < 2 ^ (8 * bs.length) := by
    have hlt256 := numOfBytes_lt bs.length bs
    rwa [show (256 : Nat) = 2 ^ 8 from rfl, ← pow_mul] at hlt256
  simp only [State.writeLoad, h16, if_false, sext64_eq_signExtend _ _ (by omega) hlt, word]

/-- The registers of a task after a write of one. -/
theorem State.setReg_reg (s : State) (c t d r : Nat) (v : Word) :
    (s.setReg c t d v).reg c t r = if r = d then (if d = 0 then 0#64 else v) else s.reg c t r := by
  simp only [State.reg, State.setReg, State.modTask_task_same]
  split
  next h => rw [h, Task.setReg_reg_same]
  next h => exact Task.setReg_reg_other _ _ _ _ h

@[simp] theorem State.setReg_task_pc (s : State) (c t d : Nat) (v : Word) : ((s.setReg c t d v).task c t).pc = (s.task c t).pc := by
  simp [State.setReg]

theorem State.setReg_bytes (s : State) (c t d : Nat) (v : Word) : bytesKept s (s.setReg c t d v) := modTask_bytes ..

/-- Settles O7: a store of the core store leaves its cells, a load is fixed to the bytes there, and a returned value is one or two register writes. -/
theorem coreStoreBytesAndLoadedValues : Obligations.CoreStoreBytesAndLoadedValues := by
  unfold Obligations.CoreStoreBytesAndLoadedValues
  refine ⟨fun s c id a hc ha hsp hst hacq hrel hmay => ⟨fun bs hk hdata hwf => ?_, fun hk hfree => ?_⟩,
    fun s c id d sx a ha hst hsp hat hfault hparty hd hready => ?_⟩
  · obtain ⟨hin, hout⟩ := byteAt_setCells_cellsFrom hwf a.pa bs
    have hcore : ((s.performCore c a).core c).scratch = setCells (s.core c).scratch (cellsFrom a.pa bs) := by
      simp [State.performCore_store hsp hk hacq hrel, hdata]
    refine ⟨_, turn_perform_core hc ha hsp hst (.inl hk) hmay, ?_, ?_, fun e he => ?_, ?_, ?_, ?_, ?_, ?_, ?_⟩
    · rw [hcore]
      exact hin
    · rw [hcore]
      exact hout
    · rw [State.performCore_store hsp hk hacq hrel, State.endAccess_core_other _ _ _ he, State.modCore_core_other _ _ _ _ he]
    · simp [State.performCore_store hsp hk hacq hrel]
    · simp [State.performCore_store hsp hk hacq hrel]
    · simp [State.performCore_store hsp hk hacq hrel]
    · simp [State.performCore_store hsp hk hacq hrel]
    · simp [State.performCore_store hsp hk hacq hrel]
    · rw [hcore]
      exact setCells_wf _ _ hwf
  · refine ⟨_, turn_perform_core hc ha hsp hst (.inr hk) hmay, ?_⟩
    obtain rfl : a.id = id := Core.access_id ha
    rw [State.performCore_load hsp hk hacq hrel hfree, State.fix]
    exact ⟨State.modAccess_access ha rfl, by simp, fun e he => State.modAccess_core_other _ _ _ _ he, State.modAccess_bytes ..⟩
  · intro lo
    have hexec := answers_memoryReadReturn ha hst hsp hat hfault hd hready
    have hend := State.endAccess_bytes s c id
    refine ⟨fun hle hne => ⟨_, hexec, ?_⟩, fun h16 => ⟨_, hexec, ?_⟩⟩
    · have hlo : lo = numBytes a.val := by rw [← List.take_of_length_le hle]
      rw [writeLoad_short _ c a.party d sx hle hne, hlo]
      refine ⟨?_, fun r hr => ?_, by simp, by simp [State.setReg], fun t ht => ?_, bytesKept_trans hend (State.setReg_bytes ..)⟩
      · rw [State.setReg_reg, if_pos rfl]
      · rw [State.setReg_reg, if_neg hr, State.endAccess_reg]
      · rw [State.setReg, State.modTask_task_other _ _ _ _ _ ht, State.endAccess_task]
    · have hpair : (s.endAccess c id).writeLoad c a.party d sx a.val =
          ((s.endAccess c id).setReg c a.party d (BitVec.ofNat 64 lo)).setReg c a.party (d + 1) (BitVec.ofNat 64 (numBytes (a.val.drop 8))) := by
        simp only [State.writeLoad, h16, if_true, word, lo]
      rw [hpair]
      refine ⟨?_, ?_, fun r hr hr' => ?_, by simp, bytesKept_trans hend (bytesKept_trans (State.setReg_bytes ..) (State.setReg_bytes ..))⟩
      · rw [State.setReg_reg, if_neg (Nat.ne_of_lt (Nat.lt_succ_self d)), State.setReg_reg, if_pos rfl]
      · rw [State.setReg_reg, if_pos rfl, if_neg (Nat.succ_ne_zero d)]
      · rw [State.setReg_reg, if_neg hr', State.setReg_reg, if_neg hr, State.endAccess_reg]

end Sys2Proof.Machine
end

section
/-! SUPPORT. The write-back of an L1 that is not fused: what the homes, and a load wider than the L1, read after it (R129, R131). -/

namespace Sys2Proof.Machine

open Sys2Proof

theorem State.l1Line_unfused {s : State} {c : Nat} (h : s.isFused c = false) (line : Nat) : s.l1Line c line = tfind (s.core c).l1 line := by
  simp [State.l1Line, State.l1Core, h]

theorem writeKeeps_fused {s u : State} (h : writeKeeps s u) (e : Nat) : u.isFused e = s.isFused e :=
  (congrArg Core.fused (h.2.1 e) : (u.core e).sansL1.fused = (s.core e).sansL1.fused)

theorem State.core_of_cores {s u : State} (h : u.cores = s.cores) (e : Nat) : u.core e = s.core e := by rw [State.core, h, State.core]

theorem State.homePutAll_cores (cells : List Host.Cell) (s : State) : (s.homePutAll cells).cores = s.cores := by
  induction cells generalizing s with
  | nil => rfl
  | cons x cells ih =>
    refine (ih _).trans ?_
    unfold State.homePut State.homeFetch
    dsimp only
    split <;> rfl

theorem State.fire_cores (s : State) (d n : Nat) (t : Tracker) : (s.fire d n t).cores = s.cores := by
  unfold State.fire
  dsimp only
  split <;> rfl

theorem State.countWrite_cores (s : State) (d : Nat) (cells : List Host.Cell) : (s.countWrite d cells).cores = s.cores := by
  refine foldl_keeps State.cores _ (fun u e => ?_) _ s
  dsimp only
  split
  · rfl
  · split
    · exact State.fire_cores ..
    · rfl

/-- The removal of a tracked line leaves the writer's own core alone. -/
theorem State.removeTracked_core_writer (s : State) (line c : Nat) : (s.removeTracked line (some c)).core c = s.core c := by
  have hothers : ∀ h ∈ (s.holders line).filter fun h => some h != some c, h ≠ c := fun h hh => by simpa using (List.mem_filter.1 hh).2
  have hfold : ∀ (hs : List Nat) (u : State), (∀ h ∈ hs, h ≠ c) → (hs.foldl (fun s h => s.untrack h line) u).core c = u.core c := by
    intro hs
    induction hs with
    | nil => exact fun u _ => rfl
    | cons h hs ih =>
      intro u hne
      have hc : c ≠ h := (hne h List.mem_cons_self).symm
      rw [List.foldl_cons, ih _ fun h' hh => hne h' (List.mem_cons_of_mem _ hh)]
      exact State.modCore_core_other _ _ _ _ hc
  exact hfold _ s hothers

/-- A write at the homes leaves the core of the writer alone, where its L1 is not fused. -/
theorem State.homeWrite_core_writer {s : State} {c : Nat} (hf : s.isFused c = false) (cells : List Host.Cell) :
    (s.homeWrite (some c) cells).core c = s.core c := by
  unfold State.homeWrite
  split
  · rfl
  next a b rest =>
    have hput : (s.homePutAll ((a, b) :: rest)).core c = s.core c := State.core_of_cores (State.homePutAll_cores _ s) c
    have hfold : ∀ (ls : List Nat) (u : State), u.core c = s.core c →
        (ls.foldl (fun v l => v.removeTracked l ((some c).map fun d => v.l1Core d l)) u).core c = s.core c := by
      intro ls
      induction ls with
      | nil => exact fun u hu => hu
      | cons l ls ih =>
        intro u hu
        have hl1 : u.l1Core c l = c := by
          have hfu : u.isFused c = false := by rw [State.isFused, hu]; exact hf
          simp [State.l1Core, hfu]
        refine ih _ ?_
        simp only [Option.map_some, hl1]
        exact (State.removeTracked_core_writer u l c).trans hu
    exact (State.core_of_cores (State.countWrite_cores ..) c).trans (hfold _ _ hput)

/-! The dirty bytes of a line. -/

theorem mem_dirtyCells {x : L1Line} {line : Nat} {e : Host.Cell} :
    e ∈ x.dirtyCells line ↔ e.1 / 128 = line ∧ x.isDirty (e.1 % 128) = true ∧ e.2 = byteAt x.bytes (e.1 % 128) := by
  obtain ⟨a, b⟩ := e
  simp only [L1Line.dirtyCells, List.mem_filterMap, mem_span]
  constructor
  · rintro ⟨i, ⟨-, hi⟩, heq⟩
    split at heq
    next hd =>
      cases heq
      have hdiv : (128 * line + i) / 128 = line := by omega
      have hmod : (128 * line + i) % 128 = i := by omega
      exact ⟨hdiv, hmod.symm ▸ hd, by rw [hmod]⟩
    next => cases heq
  · rintro ⟨hl, hd, hb⟩
    have ha : 128 * line + a % 128 = a := by omega
    refine ⟨a % 128, ⟨Nat.zero_le _, by omega⟩, ?_⟩
    rw [if_pos hd, ha, ← hb]

theorem dirtyCells_nodup (x : L1Line) (line : Nat) : ((x.dirtyCells line).map Prod.fst).Nodup := by
  have hkeys : (x.dirtyCells line).Pairwise fun e f => e.1 < f.1 := by
    rw [L1Line.dirtyCells, List.pairwise_filterMap, span_eq_range']
    refine (List.pairwise_lt_range' (s := 0) (n := 128)).imp fun {i j} hij e he f hf => ?_
    split at he
    · split at hf
      · cases he
        cases hf
        exact Nat.add_lt_add_left hij _
      · cases hf
    · cases he
  exact keys_nodup hkeys

theorem tfind_dirtyCells (x : L1Line) (line a : Nat) :
    tfind (x.dirtyCells line) a = if a / 128 = line ∧ x.isDirty (a % 128) = true then some (byteAt x.bytes (a % 128)) else none := by
  split
  next h => exact tfind_of_mem (dirtyCells_nodup x line) (mem_dirtyCells.2 ⟨h.1, h.2, rfl⟩)
  next h =>
    refine (tfind_eq_none_iff ..).2 fun e he heq => h ?_
    obtain ⟨hl, hd, -⟩ := mem_dirtyCells.1 he
    rw [← heq]
    exact ⟨hl, hd⟩

/-! One line is written back. -/

/-- A line whose dirty bytes have been written back. -/
def L1Line.cleaned (x : L1Line) : L1Line := { x with dirty := 0 }

@[simp] theorem L1Line.cleaned_isDirty (x : L1Line) (i : Nat) : x.cleaned.isDirty i = false := Nat.zero_testBit i

section
variable {s : State} {c : Nat}

/-- The lines of the L1 after the write-back of one. -/
theorem State.writeBack_l1 (hf : s.isFused c = false) (line l : Nat) :
    tfind ((s.writeBack c line).core c).l1 l = if l = line then (tfind (s.core c).l1 l).map L1Line.cleaned else tfind (s.core c).l1 l := by
  unfold State.writeBack
  split
  next x hx =>
    by_cases hd : x.dirty = 0
    · have hclean : x.cleaned = x := by cases x; cases hd; rfl
      rw [if_pos hd]
      split
      next h => rw [h, hx, Option.map_some, hclean]
      next => rfl
    · have hfu : (s.modCore c fun k => { k with l1 := tput k.l1 line { x with dirty := 0 } }).isFused c = false := by
        rw [State.isFused, State.modCore_core_same]
        exact hf
      rw [if_neg hd, State.homeWrite_core_writer hfu, State.modCore_core_same, tfind_tput]
      split
      next h => rw [h, hx]; rfl
      next => rfl
  next hx =>
    split
    next h => rw [h, hx]; rfl
    next => rfl

/-- What the homes hold after the write-back of one line. -/
theorem State.homeByte_writeBack (hok : homesOk s) (line a : Nat) :
    (s.writeBack c line).homeByte a =
      ((tfind (s.core c).l1 line).bind fun x => tfind (x.dirtyCells line) a).getD (s.homeByte a) := by
  unfold State.writeBack
  split
  next x hx =>
    rw [hx, Option.bind_some]
    by_cases hd : x.dirty = 0
    · have hnone : tfind (x.dirtyCells line) a = none := by simp [tfind_dirtyCells, L1Line.isDirty, hd]
      rw [if_pos hd, hnone]
      rfl
    · rw [if_neg hd]
      exact State.homeByte_homeWrite (s := s.modCore c _) hok (some c) (dirtyCells_nodup x line) a
  next hx =>
    rw [hx]
    rfl

/-- A load wider than the L1 finds the same bytes before and after a write-back. -/
theorem State.wideByte_writeBack (hok : homesOk s) (hf : s.isFused c = false) (line a : Nat) :
    (s.writeBack c line).wideByte c a = s.wideByte c a := by
  have hfu : (s.writeBack c line).isFused c = false := (writeKeeps_fused (writeKeeps_writeBack s c line) c).trans hf
  simp only [State.wideByte, State.l1Line_unfused hf, State.l1Line_unfused hfu, State.writeBack_l1 hf, State.homeByte_writeBack hok]
  by_cases hl : a / 128 = line
  · subst hl
    cases hx : tfind (s.core c).l1 (a / 128) with
    | none => simp
    | some x => cases hd : x.isDirty (a % 128) <;> simp [tfind_dirtyCells, hd]
  · have hnone : ((tfind (s.core c).l1 line).bind fun x => tfind (x.dirtyCells line) a) = none := by
      cases tfind (s.core c).l1 line with
      | none => rfl
      | some x => simp [tfind_dirtyCells, hl]
    simp only [if_neg hl, hnone, Option.getD_none]

/-! Every dirty line is written back. -/

/-- Lines written back one after the other: bytes and lines. -/
theorem foldl_writeBack (hok : memoryOk s) (hf : s.isFused c = false) (ls : List Nat) :
    (∀ a, (ls.foldl (fun s l => s.writeBack c l) s).wideByte c a = s.wideByte c a) ∧
    ∀ l, tfind ((ls.foldl (fun s l => s.writeBack c l) s).core c).l1 l =
      if l ∈ ls then (tfind (s.core c).l1 l).map L1Line.cleaned else tfind (s.core c).l1 l := by
  induction ls generalizing s with
  | nil => exact ⟨fun a => rfl, fun l => rfl⟩
  | cons x ls ih =>
    have hfu : (s.writeBack c x).isFused c = false := (writeKeeps_fused (writeKeeps_writeBack s c x) c).trans hf
    obtain ⟨hwide, hline⟩ := ih (memoryOk_writeBack hok) hfu
    refine ⟨fun a => (hwide a).trans (State.wideByte_writeBack hok.2 hf x a), fun l => ?_⟩
    rw [List.foldl_cons, hline, State.writeBack_l1 hf]
    have hclean : ∀ o : Option L1Line, (o.map L1Line.cleaned).map L1Line.cleaned = o.map L1Line.cleaned := fun o => by cases o <;> rfl
    by_cases hx : l = x <;> by_cases hl : l ∈ ls <;> simp [hx, hl, hclean]

theorem State.writeBackAll_unfused (hf : s.isFused c = false) (p : Nat → L1Line → Bool) :
    s.writeBackAll c p = ((s.core c).dirtyLines p).foldl (fun s l => s.writeBack c l) s := by
  simp [State.writeBackAll, State.l1Cores, hf]

theorem writeKeeps_writeBackAll (s : State) (c : Nat) (p : Nat → L1Line → Bool) : writeKeeps s (s.writeBackAll c p) :=
  writeKeeps_foldl _ (fun s h => writeKeeps_foldl _ (fun s l => writeKeeps_writeBack s h l) _ s) _ s

/-- Once every dirty line is written back, the homes hold what a load wider than the L1 found. -/
theorem State.homeByte_writeBackAll (hok : memoryOk s) (hf : s.isFused c = false) (a : Nat) :
    (s.writeBackAll c fun _ _ => true).homeByte a = s.wideByte c a := by
  have hfu : (s.writeBackAll c fun _ _ => true).isFused c = false := (writeKeeps_fused (writeKeeps_writeBackAll s c _) c).trans hf
  obtain ⟨hwide, hline⟩ := foldl_writeBack hok hf ((s.core c).dirtyLines fun _ _ => true)
  rw [← State.writeBackAll_unfused hf] at hwide hline
  rw [← hwide a, State.wideByte, State.l1Line_unfused hfu, hline]
  split
  next x hx =>
    have hclean : x.isDirty (a % 128) = false := by
      split at hx
      · obtain ⟨y, -, rfl⟩ := Option.map_eq_some_iff.1 hx
        simp
      next hnot =>
        have hd : x.dirty = 0 := by
          by_contra hd
          exact hnot (List.mem_filterMap.2 ⟨_, mem_of_tfind hx, by simp [hd]⟩)
        simp [L1Line.isDirty, hd]
    rw [hclean]
    rfl
  next => rfl

end

end Sys2Proof.Machine
end


section
/-! SUPPORT. The walk of a sorted table of format 0: what its search and its scan find (R120, R121). -/

namespace Sys2Proof.Machine

open Sys2Proof

section
variable {s : State} {tbase a : Nat}

theorem walkSearch_of_lt {lo hi : Nat} (fuel : Nat) (h : lo < hi) : s.walkSearch tbase a (fuel + 1) lo hi =
    if (segOfNum (s.walkRecord tbase ((lo + hi) / 2))).vbase ≤ a then s.walkSearch tbase a fuel ((lo + hi) / 2 + 1) hi
    else s.walkSearch tbase a fuel lo ((lo + hi) / 2) := by
  rw [State.walkSearch, if_pos h]

theorem walkSearch_of_le {lo hi : Nat} (fuel : Nat) (h : hi ≤ lo) : s.walkSearch tbase a fuel lo hi = lo := by
  cases fuel with
  | zero => rfl
  | succ fuel => rw [State.walkSearch, if_neg (Nat.not_lt.2 h)]

/-- The search ends at the first record whose VBASE lies above the address. -/
theorem walkSearch_bounds {lim : Nat} (hsort : ∀ j k, j < k → k < lim → (segOfNum (s.walkRecord tbase j)).vbase ≤ (segOfNum (s.walkRecord tbase k)).vbase)
    (fuel lo hi : Nat) (hhi : hi ≤ lim) (hlo : lo ≤ hi) (hlen : hi - lo < 2 ^ fuel)
    (hbelow : ∀ k, k < lo → (segOfNum (s.walkRecord tbase k)).vbase ≤ a)
    (habove : ∀ k, hi ≤ k → k < lim → a < (segOfNum (s.walkRecord tbase k)).vbase) :
    ∀ k, k < lim → (k < s.walkSearch tbase a fuel lo hi ↔ (segOfNum (s.walkRecord tbase k)).vbase ≤ a) := by
  induction fuel generalizing lo hi with
  | zero =>
    have heq : lo = hi := by rw [pow_zero] at hlen; omega
    subst heq
    exact fun k hk => ⟨hbelow k, fun h => Nat.lt_of_not_le fun hle => absurd h (Nat.not_le.2 (habove k hle hk))⟩
  | succ fuel ih =>
    by_cases hlt : lo < hi
    · rw [walkSearch_of_lt fuel hlt]
      have hm : lo ≤ (lo + hi) / 2 ∧ (lo + hi) / 2 < hi := by omega
      rw [pow_succ] at hlen
      split
      next hle =>
        refine ih _ _ hhi (by omega) (by omega) (fun k hk => ?_) habove
        rcases Nat.lt_or_eq_of_le (Nat.le_of_lt_succ hk) with hk | rfl
        · exact (hsort _ _ hk (by omega)).trans hle
        · exact hle
      next hgt =>
        refine ih _ _ (by omega) hm.1 (by omega) hbelow fun k hk hkl => ?_
        rcases Nat.lt_or_eq_of_le hk with hk | rfl
        · exact Nat.lt_of_lt_of_le (Nat.not_le.1 hgt) (hsort _ _ hk hkl)
        · exact Nat.not_le.1 hgt
    · have heq : lo = hi := by omega
      subst heq
      rw [walkSearch_of_le _ (Nat.le_refl lo)]
      exact fun k hk => ⟨hbelow k, fun h => Nat.lt_of_not_le fun hle => absurd h (Nat.not_le.2 (habove k hle hk))⟩

/-- A record of at most 2^40 bytes, aligned to its size, lies at or below each of its addresses, and less than 2^40 below. -/
theorem SegEnt.matches_range {e : SegEnt} (hsize : e.size ≤ 40) (halign : e.vbase % 2 ^ e.size = 0) (h : e.matches a = true) :
    e.vbase ≤ a ∧ a < e.vbase + 2 ^ 40 := by
  obtain ⟨-, hdiv⟩ := Bool.and_eq_true_iff.1 h
  have hdiv : a / 2 ^ e.size = e.vbase / 2 ^ e.size := by simpa using hdiv
  have hbase : 2 ^ e.size * (e.vbase / 2 ^ e.size) = e.vbase := Nat.mul_div_cancel' (Nat.dvd_of_mod_eq_zero halign)
  have hpos : 0 < 2 ^ e.size := Nat.two_pow_pos _
  have hle : 2 ^ e.size ≤ 2 ^ 40 := Nat.pow_le_pow_right (by omega) hsize
  have hlow : 2 ^ e.size * (a / 2 ^ e.size) ≤ a := Nat.mul_div_le ..
  have hhigh : a < 2 ^ e.size * (a / 2 ^ e.size) + 2 ^ e.size := Nat.lt_mul_div_succ a hpos
  rw [hdiv, hbase] at hlow hhigh
  omega

/-- A scan that no record of the table answers keeps what it has. -/
theorem walkScan_of_no_match (n : Nat) (best : Option Nat) (h : ∀ k, k < n → (segOfNum (s.walkRecord tbase k)).matches a = false) :
    s.walkScan tbase a n best = best := by
  induction n generalizing best with
  | zero => rfl
  | succ n ih =>
    rw [State.walkScan, h n (Nat.lt_succ_self n)]
    split
    · exact ih best fun k hk => h k (Nat.lt_succ_of_lt hk)
    · rfl

/-- A scan finds the lowest record that contains the address. -/
theorem walkScan_of_match {n k : Nat} (best : Option Nat) (hk : k < n) (hmatch : (segOfNum (s.walkRecord tbase k)).matches a = true)
    (hlowest : ∀ j, j < k → (segOfNum (s.walkRecord tbase j)).matches a = false)
    (hnear : ∀ j, k ≤ j → j < n → a < (segOfNum (s.walkRecord tbase j)).vbase + 2 ^ 40) :
    s.walkScan tbase a n best = some (s.walkRecord tbase k) := by
  induction n generalizing best with
  | zero => cases hk
  | succ n ih =>
    have hin : k ≤ n := Nat.le_of_lt_succ hk
    rw [State.walkScan, if_pos (hnear n hin (Nat.lt_succ_self n))]
    rcases Nat.lt_or_eq_of_le hin with hlt | rfl
    · exact ih _ hlt fun j hj hjn => hnear j hj (Nat.lt_succ_of_lt hjn)
    · rw [if_pos hmatch, walkScan_of_no_match _ _ hlowest]

theorem homeNum_lt (s : State) (p n : Nat) : s.homeNum p n < 256 ^ n := by
  rw [State.homeNum, numBytes, State.length_homeBytes]
  exact numOfBytes_lt n _

/-- R120, R121: the walk of a sorted table finds the lowest-numbered record that contains the address, if one does. -/
theorem walkTable_lowest (hfit : ∀ k, k < s.homeNum tbase 8 →
      (segOfNum (s.walkRecord tbase k)).size ≤ 40 ∧ (segOfNum (s.walkRecord tbase k)).vbase % 2 ^ (segOfNum (s.walkRecord tbase k)).size = 0)
    (hsort : ∀ j k, j < k → k < s.homeNum tbase 8 →
      (segOfNum (s.walkRecord tbase j)).vbase ≤ (segOfNum (s.walkRecord tbase k)).vbase) :
    (∀ k, k < s.homeNum tbase 8 → (segOfNum (s.walkRecord tbase k)).matches a = true →
      (∀ j, j < k → (segOfNum (s.walkRecord tbase j)).matches a = false) → s.walkTable tbase a = some (s.walkRecord tbase k)) ∧
    ((∀ k, k < s.homeNum tbase 8 → (segOfNum (s.walkRecord tbase k)).matches a = false) → s.walkTable tbase a = none) := by
  have hlen : s.homeNum tbase 8 - 0 < 2 ^ 64 := homeNum_lt s tbase 8
  have hbounds := walkSearch_bounds (a := a) hsort 64 0 (s.homeNum tbase 8) (Nat.le_refl _) (Nat.zero_le _) hlen (fun k hk => absurd hk (Nat.not_lt_zero k))
    fun k hk hkn => absurd hkn (Nat.not_lt.2 hk)
  have hend : ∀ fuel lo hi, lo ≤ hi → s.walkSearch tbase a fuel lo hi ≤ hi := by
    intro fuel
    induction fuel with
    | zero => exact fun lo hi h => h
    | succ fuel ih =>
      intro lo hi h
      by_cases hlt : lo < hi
      · rw [walkSearch_of_lt fuel hlt]
        split
        · exact ih _ _ (by omega)
        · exact (ih _ _ (by omega)).trans (by omega)
      · rw [walkSearch_of_le _ (Nat.not_lt.1 hlt)]
        exact h
  have htop := hend 64 0 (s.homeNum tbase 8) (Nat.zero_le _)
  refine ⟨fun k hk hmatch hlowest => ?_, fun hnone => walkScan_of_no_match _ _ fun k hk => hnone k (Nat.lt_of_lt_of_le hk htop)⟩
  obtain ⟨hle, hlt⟩ := SegEnt.matches_range (hfit k hk).1 (hfit k hk).2 hmatch
  refine walkScan_of_match _ ((hbounds k hk).2 hle) hmatch hlowest fun j hkj hj => ?_
  rcases Nat.lt_or_eq_of_le hkj with hkj | rfl
  · exact Nat.lt_of_lt_of_le hlt (Nat.add_le_add_right (hsort k j hkj (Nat.lt_of_lt_of_le hj htop)) _)
  · exact hlt

end

end Sys2Proof.Machine
end

section
/-! PROOF. Probes and phases begin, and complete with the answer the rules give (R118 to R121, R126, R127, R208, R209). -/

namespace Sys2Proof.Machine

open Sys2Proof

/-! Phases. -/

/-- The lines of the region that changes sides. -/
theorem moved_region (old new : Nat) : (if new < old then old - new else new - old) = max old new - min old new := by
  split <;> omega

theorem exec_phase_begins {h : CHdr} {code : Nat} {s : State} {c t : Nat} (hs : s.cur = .task c t) (hf : (s.core c).fused = false)
    (hring : 0x400000 - shareBytes code < (s.core c).scratchTop → ringInRegion (s.core c) (0x400000 - shareBytes code) (s.core c).scratchTop = none) :
    exec (.phase h code) s = .next ((s.modCore c fun k => { k with phase := some { task := t, code, doneAt := k.cycle + 96 + 2 *
      ((max (s.core c).scratchTop (0x400000 - shareBytes code) - min (s.core c).scratchTop (0x400000 - shareBytes code)) / 128) } }).park c t .phase
        (.phase h code) (ctlLen h 1)) := by
  have hnone : (if 0x400000 - shareBytes code < (s.core c).scratchTop then
      ringInRegion (s.core c) (0x400000 - shareBytes code) (s.core c).scratchTop else none) = none := by
    split
    next hlt => exact hring hlt
    next => rfl
  simp only [exec_phase, execPhase, asTask_next _ _ _ _ hs, hf, hnone, moved_region]
  rfl

/-- What the end of a phase leaves, once the L1 has what the new share allows (R126). -/
def State.phased (s : State) (c code : Nat) : State :=
  s.modCore c fun k => { k with share := code, phase := none, scratch := k.scratch.filter fun e => decide (e.1 < min k.scratchTop (0x400000 - shareBytes code)) }

theorem State.phased_byte (s : State) (c code a : Nat) : byteAt ((s.phased c code).core c).scratch a =
    if a < min (s.core c).scratchTop (0x400000 - shareBytes code) then byteAt (s.core c).scratch a else 0#8 := by
  have hkey := tfind_filter_key (fun n => decide (n < min (s.core c).scratchTop (0x400000 - shareBytes code))) (s.core c).scratch a
  rw [State.phased, State.modCore_core_same, byteAt, tget, hkey]
  by_cases ha : a < min (s.core c).scratchTop (0x400000 - shareBytes code) <;> simp [ha, byteAt, tget, emptyByte]

/-- The task of a phase that is over goes on after the word, on a core that is as the phase leaves it. -/
theorem State.phased_wake {s : State} {c code t : Nat} {w : Wait} (hw : (s.task c t).wait = some w) :
    let u := (s.phased c code).wake c t
    (u.core c).share = code ∧ (u.core c).phase = none ∧ (u.task c t).st = .ready ∧ (u.task c t).pc = (s.task c t).pc + BitVec.ofNat 64 w.len ∧
    (u.core c).l1 = (s.core c).l1 ∧ (u.core c).scratch = ((s.phased c code).core c).scratch ∧ (∀ e, e ≠ c → u.core e = s.core e) ∧
    u.banks = s.banks ∧ u.homes = s.homes := by
  have htask : (s.phased c code).task c t = s.task c t := State.task_modCore_of_tasks _ _ _ _ _ rfl
  have hwake : ((s.phased c code).wake c t).task c t = { (s.task c t).next w.len with st := .ready, wait := none } := by
    rw [State.wake, State.modTask_task_same, htask, Task.wake_of_wait hw]
  refine ⟨?_, ?_, ?_, ?_, ?_, ?_, fun e he => ?_, rfl, rfl⟩
  · simp [State.wake, State.phased]
  · simp [State.wake, State.phased]
  · rw [hwake]
  · rw [hwake]
    rfl
  · simp [State.wake, State.phased]
  · simp [State.wake]
  · rw [State.wake, State.modTask_core_other _ _ _ _ _ he, State.phased, State.modCore_core_other _ _ _ _ he]

section
variable {s : State} {c code done t : Nat}

/-- A phase whose L1 does not shrink. -/
theorem exec_phaseComplete_grows (hp : (s.core c).phase = some { task := t, code, doneAt := done }) (hdone : done ≤ (s.core c).cycle)
    (hfr : s.isFrozen c = false) (hle : shareBytes (s.core c).share ≤ shareBytes code) :
    exec (.phaseComplete c) s = .next ((s.phased c code).wake c t) := by
  have hlate : ¬ (s.core c).cycle < done := Nat.not_lt.2 hdone
  simp only [exec_phaseComplete, execPhaseComplete, hp, hfr, hlate, Nat.not_lt.2 hle, if_false, false_or, Bool.false_eq_true]
  rfl

/-- A phase whose L1 shrinks: its dirty lines are written back, and it is empty. -/
theorem exec_phaseComplete_shrinks (hp : (s.core c).phase = some { task := t, code, doneAt := done }) (hdone : done ≤ (s.core c).cycle)
    (hfr : s.isFrozen c = false) (hlt : shareBytes code < shareBytes (s.core c).share) :
    exec (.phaseComplete c) s =
      .next (((((s.writeBackAll c fun _ _ => true).modCore c fun k => { k with l1 := [] }).phased c code).wake c t)) := by
  have hlate : ¬ (s.core c).cycle < done := Nat.not_lt.2 hdone
  simp only [exec_phaseComplete, execPhaseComplete, hp, hfr, hlate, if_pos hlt, if_false, false_or, Bool.false_eq_true]
  rfl

end

/-! Probes. -/

/-- Task t of core c parks in instruction i for its probe p, and the walk of the probe enters the queue of its die. -/
def State.probing (s : State) (c : Nat) (p : Probe) (i : Instr) (len : Nat) : State :=
  let s1 := (s.modCore c fun k => { k with probe := some p }).park c p.task .walk i len
  { s1 with walkQ := tmod [] s1.walkQ (dieOf c) fun q => q ++ [c] }

theorem State.probing_begins (s : State) (c : Nat) (p : Probe) (i : Instr) (len : Nat) :
    let u := s.probing c p i len
    (u.core c).probe = some p ∧ (u.task c p.task).st = .parked ∧ (u.task c p.task).pc = (s.task c p.task).pc ∧
    (∀ r, u.reg c p.task r = s.reg c p.task r) ∧ tget [] u.walkQ (dieOf c) = tget [] s.walkQ (dieOf c) ++ [c] ∧ (u.core c).seg = (s.core c).seg ∧
    bytesKept s u := by
  have hcores : (s.probing c p i len).cores = ((s.modCore c fun k => { k with probe := some p }).park c p.task .walk i len).cores := rfl
  have htask : (s.modCore c fun k => { k with probe := some p }).task c p.task = s.task c p.task := State.task_modCore_of_tasks _ _ _ _ _ rfl
  have hpark : (s.probing c p i len).task c p.task =
      { s.task c p.task with st := .parked, wait := some { what := .walk, instr := i, len, since := (s.core c).cycle, parkedAt := s.time } } := by
    rw [State.task, State.core_of_cores hcores, ← State.task, State.park_task_same, htask, State.modCore_core_same]
    rfl
  refine ⟨?_, ?_, ?_, fun r => ?_, ?_, ?_, ?_⟩
  · rw [State.core_of_cores hcores, State.park, State.modTask_core_same, State.modCore_core_same]
    rfl
  · rw [hpark]
  · rw [hpark]
  · rw [State.reg, hpark]
    rfl
  · exact tget_tmod_same [] s.walkQ (dieOf c) fun q => q ++ [c]
  · rw [State.core_of_cores hcores, State.park, State.modTask_core_same, State.modCore_core_same]
    rfl
  · exact bytesKept_trans (bytesKept_modCore s c (fun k => { k with probe := some p }) ⟨rfl, rfl, rfl, rfl⟩)
      (bytesKept_trans (State.park_bytes ..) (bytesKept_of_parts _ _ rfl rfl rfl))

theorem exec_probe_walks {h : CHdr} {kind d a b : Nat} {s : State} {c t x : Nat} (hs : s.cur = .task c t) (hn : (s.reg c t b).toNat ≠ 0)
    (hx : firstUncovered (s.core c).seg kind (s.reg c t a).toNat (s.reg c t b).toNat = some x) (hheld : (s.core c).data.allHeld = true) :
    exec (.probe h kind d a b) s = .next (s.probing c { task := t, rd := d, kind, addr := (s.reg c t a).toNat, left := (s.reg c t b).toNat }
      (.probe h kind d a b) (ctlLen h 1)) := by
  simp only [exec_probe, execProbe, asTask_next _ _ _ _ hs, if_neg hn, hx, hheld, if_true]
  rfl

section
variable {s : State} {c d : Nat} {q : List Nat} {p : Probe} {w : Wait}

/-- The probe at the head of die d's queue ends with a status: in u its task goes on with the status in its register, and the segment map is seg. -/
def probeEnds (s : State) (c d : Nat) (q : List Nat) (p : Probe) (w : Wait) (st : Nat) (seg : Tbl SegEnt) (u : State) : Prop :=
  (u.core c).probe = none ∧ tget [] u.walkQ d = q ∧ u.reg c p.task p.rd = (if p.rd = 0 then 0#64 else BitVec.ofNat 64 st) ∧
  (u.task c p.task).st = .ready ∧ (u.task c p.task).pc = (s.task c p.task).pc + BitVec.ofNat 64 w.len ∧
  (u.core c).seg = seg ∧ bytesKept s u

theorem State.endProbe_ends (st : Nat) (hq : tget [] s.walkQ d = c :: q) (hd : dieOf c = d) (hw : (s.task c p.task).wait = some w) :
    probeEnds s c d q p w st (s.core c).seg (s.endProbe c p st) := by
  subst hd
  have htask : (s.dropProbe c).task c p.task = s.task c p.task :=
    State.task_modCore_of_tasks s c c p.task (fun k => { k with probe := none }) rfl
  have hwait : ((s.task c p.task).setReg p.rd (word st)).wait = some w := by rw [Task.setReg_wait, hw]
  have hend : (s.endProbe c p st).task c p.task =
      { ((s.task c p.task).setReg p.rd (word st)).next w.len with st := .ready, wait := none } := by
    rw [State.endProbe, State.wakeWith, State.modTask_task_same, htask, Task.wake_of_wait hwait]
  have hcore : (s.dropProbe c).core c = { s.core c with probe := none } := State.modCore_core_same s c fun k => { k with probe := none }
  refine ⟨?_, ?_, ?_, ?_, ?_, ?_, ?_⟩
  · rw [State.endProbe, State.wakeWith, State.modTask_core_same, hcore]
    rfl
  · have hdrop : tget [] (s.dropProbe c).walkQ (dieOf c) = dropFirst (· == c) (c :: q) := by
      rw [State.dropProbe, tget_tmod_same, hq]
    exact hdrop.trans (by simp [dropFirst])
  · rw [State.reg, hend, ← Task.setReg_reg_same (s.task c p.task) p.rd]
    rfl
  · rw [hend]
  · rw [hend]
    simp
  · rw [State.endProbe, State.wakeWith, State.modTask_core_same, hcore]
    rfl
  · have hdrop : bytesKept s (s.dropProbe c) :=
      bytesKept_trans (bytesKept_modCore s c (fun k => { k with probe := none }) ⟨rfl, rfl, rfl, rfl⟩) (bytesKept_of_parts _ _ rfl rfl rfl)
    exact bytesKept_trans hdrop (modTask_bytes ..)

theorem idleMemory_of_queues (h : ∀ x ∈ (s.core c).accs, x.kind = .qmark ∨ ∃ b, x.kind = .fence b) : s.idleMemory c = true := by
  refine List.all_eq_true.2 fun x hx => ?_
  rcases h x hx with hk | ⟨b, hk⟩ <;> rw [hk]

/-- A walk whose range has been covered meanwhile. -/
theorem walkStep_covered (hq : tget [] s.walkQ d = c :: q) (hp : (s.core c).probe = some p) (hidle : s.idleMemory c = true)
    (hx : firstUncovered (s.core c).seg p.kind p.addr p.left = none) : s.walkStep d false = s.endProbe c p 1 := by
  simp [State.walkStep, hq, hp, hidle, hx]

/-- A walk of a format-0 table that reads no listed line. -/
theorem walkStep_installs {a : Nat} {wv : Weave} (hq : tget [] s.walkQ d = c :: q) (hp : (s.core c).probe = some p) (hidle : s.idleMemory c = true)
    (hx : firstUncovered (s.core c).seg p.kind p.addr p.left = some a) (ha : a < 2 ^ (64 : Nat)) (hwv : s.weaveOf c = some wv)
    (hlost : s.walkLost wv.lrec.tbase a = false) : s.walkStep d false = s.installWalk c p a := by
  have hnot : ¬ 2 ^ (64 : Nat) ≤ a := Nat.not_le.2 ha
  have hfails : s.walkFails c a false = false := by simp [State.walkFails, hwv, hlost]
  simp only [State.walkStep, hq, hp, hidle, hx, if_neg hnot, hfails, Bool.not_true, Bool.false_eq_true, if_false]

theorem State.walk_of_table {kind a : Nat} {wv : Weave} (hwv : s.weaveOf c = some wv) (hfmt : wv.lrec.fmt = 0) :
    s.walk c kind a = (s.walkTable wv.lrec.tbase a, s) := by simp [State.walk, hwv, hfmt]

/-! The elastic entry of a result (R118, R121). -/

theorem elasticSlot_of_free {k : Core} (mine : List Nat) {i : Nat} (hlo : 256 ≤ i) (hhi : i < 288) (hi : i ∉ k.elastic)
    (hfirst : ∀ j, 256 ≤ j → j < i → j ∈ k.elastic) : elasticSlot k mine = some i := by
  have hspan : firstWhere (fun i => !k.elastic.contains i) (span 256 32) = some i := by
    rw [firstWhere_eq_find?, span_eq_range', List.find?_range'_eq_some]
    refine ⟨by simpa using hi, by rw [List.mem_range'_1]; omega, fun j hj hji => ?_⟩
    simpa using hfirst j hj hji
  rw [elasticSlot, hspan]

theorem elasticSlot_of_full {k : Core} (mine : List Nat) (hfull : ∀ j, 256 ≤ j → j < 288 → j ∈ k.elastic) :
    elasticSlot k mine = firstWhere (fun i => !mine.contains i) k.elastic := by
  have hspan : firstWhere (fun i => !k.elastic.contains i) (span 256 32) = none := by
    refine (firstWhere_eq_none ..).2 fun j hj => ?_
    obtain ⟨hlo, hhi⟩ := (mem_span ..).1 hj
    simpa using hfull j hlo hhi
  rw [elasticSlot, hspan]

theorem elasticSlot_of_oldest {k : Core} {mine xs ys : List Nat} {i : Nat} (hfull : ∀ j, 256 ≤ j → j < 288 → j ∈ k.elastic)
    (hk : k.elastic = xs ++ i :: ys) (hi : i ∉ mine) (hxs : ∀ j ∈ xs, j ∈ mine) : elasticSlot k mine = some i := by
  rw [elasticSlot_of_full mine hfull, hk, firstWhere_eq_find?]
  refine List.find?_eq_some_iff_append.2 ⟨by simpa using hi, xs, ys, rfl, fun j hj => ?_⟩
  simpa using hxs j hj

theorem elasticSlot_of_all_mine {k : Core} {mine : List Nat} (hfull : ∀ j, 256 ≤ j → j < 288 → j ∈ k.elastic) (hmine : ∀ j ∈ k.elastic, j ∈ mine) :
    elasticSlot k mine = none := by
  rw [elasticSlot_of_full mine hfull]
  refine (firstWhere_eq_none ..).2 fun j hj => ?_
  simpa using hmine j hj

/-! The result of a walk (R120, R121). -/

/-- A record passes the checks, contains the address and grants the permission of the probe. -/
def recordGood (p : Probe) (a x : Nat) : Prop :=
  segRecordOk x = true ∧ (segOfNum x).matches a = true ∧ (segOfNum x).grants (probePerm p.kind) = true

theorem recordGood_iff {p : Probe} {a x : Nat} :
    (segRecordOk x && (segOfNum x).matches a && (segOfNum x).grants (probePerm p.kind)) = true ↔ recordGood p a x := by
  simp [recordGood, and_assoc]

/-- Core c with a walk's result in elastic entry i, and its probe going on. -/
def State.installed (s : State) (c : Nat) (p : Probe) (i x : Nat) : State :=
  s.modCore c fun k => { k with seg := tput k.seg i (segOfNum x), elastic := k.elastic.filter (· != i) ++ [i], probe := some { p with mine := p.mine ++ [i] } }

theorem installWalk_nomap {a : Nat} {r : Option Nat} (hwalk : s.walk c p.kind a = (r, s)) (hbad : ∀ x, r = some x → ¬ recordGood p a x) :
    s.installWalk c p a = s.endProbe c p 2 := by
  unfold State.installWalk
  simp only [hwalk]
  cases r with
  | none => rfl
  | some x =>
    have hnot := Bool.eq_false_iff.2 fun h => hbad x rfl (recordGood_iff.1 h)
    simp [hnot]

theorem installWalk_full {a x : Nat} (hwalk : s.walk c p.kind a = (some x, s)) (hgood : recordGood p a x) (hslot : elasticSlot (s.core c) p.mine = none) :
    s.installWalk c p a = s.endProbe c p 3 := by
  unfold State.installWalk
  simp [hwalk, recordGood_iff.2 hgood, hslot]

/-- A lower entry hides the address: the result is not installed. -/
theorem installWalk_hidden {a x i : Nat} (hwalk : s.walk c p.kind a = (some x, s)) (hgood : recordGood p a x)
    (hslot : elasticSlot (s.core c) p.mine = some i) (hhid : ∃ y ∈ (s.core c).seg, y.1 < i ∧ y.2.matches a = true) :
    s.installWalk c p a = s.endProbe c p 2 := by
  have hany : (s.core c).seg.any (fun y => decide (y.1 < i) && y.2.matches a) = true := by simpa using hhid
  unfold State.installWalk
  simp only [hwalk, recordGood_iff.2 hgood, hslot, hany, Bool.not_true, Bool.false_eq_true, if_false, if_true]

theorem installWalk_installs {a x i : Nat} (hwalk : s.walk c p.kind a = (some x, s)) (hgood : recordGood p a x)
    (hslot : elasticSlot (s.core c) p.mine = some i) (hhid : ¬ ∃ y ∈ (s.core c).seg, y.1 < i ∧ y.2.matches a = true) :
    s.installWalk c p a = match firstUncovered (tput (s.core c).seg i (segOfNum x)) p.kind p.addr p.left with
      | none => (s.installed c p i x).endProbe c { p with mine := p.mine ++ [i] } 1
      | some _ => s.installed c p i x := by
  have hany : (s.core c).seg.any (fun y => decide (y.1 < i) && y.2.matches a) = false := by
    refine Bool.eq_false_iff.2 fun h => hhid ?_
    simpa using h
  unfold State.installWalk
  simp only [hwalk, recordGood_iff.2 hgood, hslot, hany, Bool.not_true, Bool.false_eq_true, if_false, State.modCore_core_same]
  rfl

theorem State.installed_ends (i x st : Nat) (hq : tget [] s.walkQ d = c :: q) (hd : dieOf c = d) (hw : (s.task c p.task).wait = some w) :
    probeEnds s c d q p w st (tput (s.core c).seg i (segOfNum x)) ((s.installed c p i x).endProbe c { p with mine := p.mine ++ [i] } st) := by
  have htask : (s.installed c p i x).task c p.task = s.task c p.task := State.task_modCore_of_tasks _ _ _ _ _ rfl
  have hends := State.endProbe_ends (s := s.installed c p i x) (p := { p with mine := p.mine ++ [i] }) (w := w) st hq hd (by rw [htask]; exact hw)
  obtain ⟨hprobe, hqueue, hreg, hst, hpc, hseg, hbytes⟩ := hends
  refine ⟨hprobe, hqueue, hreg, hst, ?_, ?_, bytesKept_trans (bytesKept_modCore _ _ _ ⟨rfl, rfl, rfl, rfl⟩) hbytes⟩
  · rw [hpc, htask]
  · rw [hseg, State.installed, State.modCore_core_same]

end

/-- Settles O9: what begins and ends a probe or a phase, from the inversions of the walk, of its table and of the write-back above. -/
theorem probesAndPhasesBeginAndComplete : Obligations.ProbesAndPhasesBeginAndComplete := by
  unfold Obligations.ProbesAndPhasesBeginAndComplete
  refine ⟨fun h kind d a b code s c t hs => ⟨fun hcov => ?_, fun hn hx hheld => ?_, fun hn hx hheld hh => ?_, fun hf hh => ?_, fun hf hring => ?_⟩,
    fun s c code done n w t hp hdone hfr hw hn hle => ?_, fun s c code done n w t hp hdone hfr hw hn hok hf hlt => ?_,
    fun s tbase a => ?_, fun s d c a q p w wv hq hp hd haccs ha hx hw hwv hfmt hlost => ?_, fun s d c q p w hq hp hd haccs hx hw => ?_⟩
  · have hnone : (if (s.reg c t b).toNat = 0 then none else firstUncovered (s.core c).seg kind (s.reg c t a).toNat (s.reg c t b).toNat) = none := by
      split
      next => rfl
      next hn => exact hcov.resolve_left hn
    refine ⟨s.result c t d 0#64 1 (ctlLen h 1), ?_, result_wroteReg ..⟩
    simp only [exec_probe, execProbe, asTask_next _ _ _ _ hs, hnone]
  · obtain ⟨x, hx⟩ := Option.ne_none_iff_exists'.1 hx
    exact ⟨_, exec_probe_walks hs hn hx hheld, State.probing_begins ..⟩
  · obtain ⟨x, hx⟩ := Option.ne_none_iff_exists'.1 hx
    refine answers_trap ?_ (by decide) hh
    simp only [exec_probe, execProbe, asTask_next _ _ _ _ hs, if_neg hn, hx, hheld, Bool.false_eq_true, if_false]
  · refine answers_trap ?_ (by decide) hh
    simp only [exec_phase, execPhase, asTask_next _ _ _ _ hs, hf, if_true]
    rfl
  · refine ⟨_, exec_phase_begins hs hf hring, ?_, ?_, ?_, ?_, ?_⟩
    · simp [State.park]
    · simp
    · rw [State.park_task_same]
      simp [State.task, Core.task]
    · simp [State.park]
    · exact bytesKept_trans (bytesKept_modCore _ _ _ ⟨rfl, rfl, rfl, rfl⟩) (State.park_bytes ..)
  · obtain ⟨hshare, hphase, hst, hpc, hl1, hscratch, hcores, hbanks, hhomes⟩ := State.phased_wake (c := c) (code := code) hw
    have hmin : min (s.core c).scratchTop (0x400000 - shareBytes code) = 0x400000 - shareBytes code :=
      Nat.min_eq_right (Nat.sub_le_sub_left hle _)
    have hbyte := s.phased_byte c code
    rw [hmin] at hbyte
    refine ⟨_, exec_phaseComplete_grows hp hdone hfr hle, hshare, hphase, hst, hn ▸ hpc, hl1, fun a ha => ?_, fun a ha => ?_, hcores, hbanks, hhomes⟩
    · rw [hscratch, hbyte, if_pos ha]
    · rw [hscratch, hbyte, if_neg (Nat.not_lt.2 ha)]
  · have hwb := writeKeeps_writeBackAll s c fun _ _ => true
    have hback := writeKeeps_trans hwb (writeKeeps_l1 _ c (fun k => { k with l1 := [] }) rfl fun _ => rfl)
    have hcore := hback.2.1
    have hread := State.homeByte_writeBackAll hok hf
    generalize hv : ((s.writeBackAll c fun _ _ => true).modCore c fun k => { k with l1 := [] }) = v at hback hcore
    have hempty : (v.core c).l1 = [] := by rw [← hv, State.modCore_core_same]
    have hhome : ∀ a, v.homeByte a = s.wideByte c a := fun a => by rw [← hread a, ← hv]; rfl
    have htasks : ∀ e, (v.core e).tasks = (s.core e).tasks := fun e => (congrArg Core.tasks (hcore e) : (v.core e).sansL1.tasks = _)
    have hscr : ∀ e, (v.core e).scratch = (s.core e).scratch := fun e => (congrArg Core.scratch (hcore e) : (v.core e).sansL1.scratch = _)
    have hshr : (v.core c).share = (s.core c).share := (congrArg Core.share (hcore c) : (v.core c).sansL1.share = _)
    have htop : (v.core c).scratchTop = (s.core c).scratchTop := by rw [Core.scratchTop, hshr, Core.scratchTop]
    have htask : v.task c t = s.task c t := by rw [State.task, Core.task, htasks, ← Core.task, ← State.task]
    obtain ⟨hshare, hphase, hst, hpc, hl1, hscratch, hcores, hbanks, hhomes⟩ := State.phased_wake (s := v) (c := c) (code := code) (htask ▸ hw)
    have hmin : min (v.core c).scratchTop (0x400000 - shareBytes code) = (s.core c).scratchTop := by
      rw [htop]
      exact Nat.min_eq_left (Nat.sub_le_sub_left (Nat.le_of_lt hlt) _)
    have hbyte := v.phased_byte c code
    rw [hmin, hscr] at hbyte
    refine ⟨_, exec_phaseComplete_shrinks hp hdone hfr hlt, ?_⟩
    rw [hv]
    refine ⟨hshare, hphase, hst, ?_, hl1.trans hempty, fun a => ?_, fun a ha => ?_, fun a ha => ?_, fun e he => ?_, ?_⟩
    · rw [hpc, htask, hn]
    · rw [State.homeByte_congr hhomes hbanks, hhome]
    · rw [hscratch, hbyte, if_pos ha]
    · rw [hscratch, hbyte, if_neg (Nat.not_lt.2 ha)]
    · rw [hcores e he]
      exact ⟨htasks e, hscr e⟩
    · rw [hbanks, writeKeeps_banks hback]
  · exact fun hfit hsort => walkTable_lowest hfit hsort
  · have hstep : exec (.pageWalkComplete d) s = .next (s.installWalk c p a) := by
      rw [exec_pageWalkComplete, execPageWalkComplete, walkStep_installs hq hp (idleMemory_of_queues haccs) hx ha hwv hlost]
    have hwalk := State.walk_of_table (c := c) (kind := p.kind) (a := a) hwv hfmt
    have hend : ∀ st, s.installWalk c p a = s.endProbe c p st → answers (.pageWalkComplete d) s (probeEnds s c d q p w st (s.core c).seg) :=
      fun st h => ⟨_, hstep, h ▸ State.endProbe_ends st hq hd hw⟩
    refine ⟨fun hnone => ?_, fun x hx => ⟨fun hbad => ?_, fun hgood hfull hmine => ?_, fun i hgood hslot => ?_⟩⟩
    · exact hend 2 (installWalk_nomap hwalk fun x hx => by rw [hnone] at hx; cases hx)
    · refine hend 2 (installWalk_nomap hwalk fun y hy => ?_)
      rw [hx] at hy
      cases hy
      exact hbad
    · rw [hx] at hwalk
      exact hend 3 (installWalk_full hwalk hgood (elasticSlot_of_all_mine hfull hmine))
    · rw [hx] at hwalk
      have hi : elasticSlot (s.core c) p.mine = some i := by
        rcases hslot with ⟨hlo, hhi, hfree, hfirst⟩ | ⟨hfull, xs, ys, hk, hi, hxs⟩
        · exact elasticSlot_of_free p.mine hlo hhi hfree hfirst
        · exact elasticSlot_of_oldest hfull hk hi hxs
      refine ⟨fun hhid => hend 2 (installWalk_hidden hwalk hgood hi hhid), fun hhid => ⟨fun hcov => ?_, fun hunc => ?_⟩⟩
      · refine ⟨_, hstep, ?_⟩
        rw [installWalk_installs hwalk hgood hi hhid, hcov]
        exact State.installed_ends i x 1 hq hd hw
      · obtain ⟨y, hy⟩ := Option.ne_none_iff_exists'.1 hunc
        refine ⟨_, hstep, ?_⟩
        rw [installWalk_installs hwalk hgood hi hhid, hy]
        refine ⟨?_, ?_, ?_, rfl, ?_, onlyCore_modCore .., bytesKept_modCore _ _ _ ⟨rfl, rfl, rfl, rfl⟩⟩ <;> rw [State.installed, State.modCore_core_same]
  · refine ⟨s.endProbe c p 1, ?_, State.endProbe_ends 1 hq hd hw⟩
    rw [exec_pageWalkComplete, execPageWalkComplete, walkStep_covered hq hp (idleMemory_of_queues haccs) hx]

end Sys2Proof.Machine
end

section
/-! SUPPORT. Requests at their target: the window table, what the target answers, and the entries of the remote-store log (R122 to R125). -/

namespace Sys2Proof.Machine

open Sys2Proof

/-! The window table (R122, R123). -/

/-- The lowest-numbered window entry of die d that holds n bytes at an offset for a context. -/
def State.firstWindow (s : State) (d ctx off n : Nat) (w : Word) : Prop :=
  ∃ pre post, s.windowsOf d = pre ++ w :: post ∧ winMatches w ctx off n = true ∧ ∀ x ∈ pre, winMatches x ctx off n = false

theorem State.firstWindow_iff {s : State} {d ctx off n : Nat} {w : Word} :
    s.firstWindow d ctx off n w ↔ firstWhere (fun w => winMatches w ctx off n) (s.windowsOf d) = some w := by
  rw [firstWhere_eq_find?, List.find?_eq_some_iff_append]
  constructor
  · rintro ⟨pre, post, hws, hw, hpre⟩
    exact ⟨hw, pre, post, hws, fun x hx => by simp [hpre x hx]⟩
  · rintro ⟨hw, pre, post, hws, hpre⟩
    exact ⟨pre, post, hws, hw, fun x hx => by simpa using hpre x hx⟩

section
variable {s : State} {d ctx off n : Nat} {p : Perm}

theorem State.windowCheck_of_none (h : ¬ ∃ w, s.firstWindow d ctx off n w) : s.windowCheck d ctx p off n = some 0 := by
  have hnone : firstWhere (fun w => winMatches w ctx off n) (s.windowsOf d) = none := by
    by_contra hne
    obtain ⟨w, hw⟩ := Option.ne_none_iff_exists'.1 hne
    exact h ⟨w, State.firstWindow_iff.2 hw⟩
  simp [State.windowCheck, hnone]

theorem State.windowCheck_of_some {w : Word} (h : s.firstWindow d ctx off n w) :
    s.windowCheck d ctx p off n = if winGrants w p then none else some 1 := by
  simp [State.windowCheck, State.firstWindow_iff.1 h]

/-- No entry grants the request: it has a cause. -/
theorem State.windowCheck_isSome (h : ¬ ∃ w, s.firstWindow d ctx off n w ∧ winGrants w p = true) : ∃ cause, s.windowCheck d ctx p off n = some cause := by
  by_cases hw : ∃ w, s.firstWindow d ctx off n w
  · obtain ⟨w, hw⟩ := hw
    have hno : winGrants w p = false := Bool.eq_false_iff.2 fun hg => h ⟨w, hw, hg⟩
    exact ⟨1, by rw [State.windowCheck_of_some hw, hno]; rfl⟩
  · exact ⟨0, State.windowCheck_of_none hw⟩

end

/-! What the target answers (R123 to R125). -/

section
variable {s : State} {c id : Nat} {a : Access}

/-- A request that has been sent and may be performed is checked. -/
theorem exec_arrival (ecc : Nat) (ha : (s.core c).access id = some a) (hsp : a.space = .fabric) (hst : a.stage = .sent)
    (hk : a.kind.request = true) (hmay : (s.core c).mayArrive a = true) :
    exec (.fabricRequestArrival c id ecc) s = match s.verdict c a with
      | .refused => .next (s.refuse c a)
      | .logged cause => .next (s.logStore c a cause)
      | .pass => .next (if inDev a.pa then s.performFabricDevice c a else s.performFabric c a ecc) := by
  simp only [exec_fabricRequestArrival, execFabricRequestArrival, ha, hsp, hst, hk, hmay]
  rfl

/-- No window entry grants the request, with the permission of its kind. -/
def State.barred (s : State) (c : Nat) (a : Access) : Prop :=
  ¬ ∃ w, s.firstWindow (paDie a.pa) (s.core c).ctxno (paOff a.pa) a.n w ∧ winGrants w a.perm = true

/-- A load, an atomic, or a write of a copy transfer that no window entry grants. -/
theorem State.verdict_barred (hk : ¬ (a.kind = .store ∧ a.xfer = 0)) (h : s.barred c a) : s.verdict c a = .refused := by
  obtain ⟨cause, hcause⟩ := State.windowCheck_isSome h
  have hnot : (a.kind == .store && a.xfer == 0) = false := by simpa using hk
  simp only [State.verdict, hnot, hcause, Bool.false_eq_true, if_false, Option.isNone_some, ite_self]

/-- A load or atomic of bytes of a logged store. -/
theorem State.verdict_overlaps (hk : a.kind ≠ .store) (h : ∃ e ∈ s.loggedTo c (paDie a.pa), e.1 < a.pa + a.n ∧ a.pa < e.1 + e.2) :
    s.verdict c a = .refused := by
  have hnot : (a.kind == .store) = false := by simpa using hk
  have hany : (s.loggedTo c (paDie a.pa)).any (fun e => decide (e.1 < a.pa + a.n) && decide (a.pa < e.1 + e.2)) = true := by simpa using h
  simp only [State.verdict, hnot, hany, bne, Bool.false_and, Bool.not_false, Bool.true_and, Bool.false_eq_true, if_false, if_true]

/-- The cause for which the log would enter a store of a task: 2 behind a logged store, else that of the window table (R124, R125). -/
def State.logCause (s : State) (c : Nat) (a : Access) : Option Nat :=
  if (s.loggedTo c (paDie a.pa)).isEmpty then s.windowCheck (paDie a.pa) (s.core c).ctxno a.perm (paOff a.pa) a.n else some 2

theorem State.verdict_store {cause : Nat} (hk : a.kind = .store) (hx : a.xfer = 0) (h : s.logCause c a = some cause) :
    s.verdict c a = if (tget {} s.logs (paPkg a.pa) : RemoteLog).lacks (max 1 a.parts.length) then .refused else .logged cause := by
  unfold State.logCause at h
  have hstore : (AKind.store == AKind.store) = true := rfl
  simp only [State.verdict, hk, hx, hstore, beq_self_eq_true, Bool.and_self, if_true, h]

theorem State.logCause_behind (h : s.loggedTo c (paDie a.pa) ≠ []) : s.logCause c a = some 2 := by
  have hne : (s.loggedTo c (paDie a.pa)).isEmpty = false := by simpa using h
  rw [State.logCause, hne]
  rfl

theorem State.logCause_first (h : s.loggedTo c (paDie a.pa) = []) :
    s.logCause c a = s.windowCheck (paDie a.pa) (s.core c).ctxno a.perm (paOff a.pa) a.n := by
  rw [State.logCause, h]
  rfl

/-- A store that the log would enter, where the log is full. -/
theorem State.verdict_full {cause : Nat} (hk : a.kind = .store) (hx : a.xfer = 0) (h : s.logCause c a = some cause)
    (hfull : 65536 ≤ (tget {} s.logs (paPkg a.pa) : RemoteLog).head - (tget {} s.logs (paPkg a.pa) : RemoteLog).tail) : s.verdict c a = .refused := by
  have hone : 1 ≤ max 1 a.parts.length := Nat.le_max_left ..
  rw [State.verdict_store hk hx h, if_pos]
  exact decide_eq_true (by omega)

/-- A store of one entry, where the log has one free. -/
theorem State.verdict_logged {cause : Nat} (hk : a.kind = .store) (hx : a.xfer = 0) (hn : a.n ≤ 16) (h : s.logCause c a = some cause)
    (hfree : (tget {} s.logs (paPkg a.pa) : RemoteLog).head - (tget {} s.logs (paPkg a.pa) : RemoteLog).tail < 65536) :
    s.verdict c a = .logged cause := by
  have hparts : a.parts = [a] := by rw [Access.parts, if_pos hn]
  have hlacks : (tget {} s.logs (paPkg a.pa) : RemoteLog).lacks (max 1 a.parts.length) = false := by
    rw [hparts]
    refine decide_eq_false ?_
    simp only [List.length_singleton, Nat.max_self]
    omega
  rw [State.verdict_store hk hx h, hlacks]
  rfl

theorem State.logCause_isSome (h : s.barred c a ∨ s.loggedTo c (paDie a.pa) ≠ []) : ∃ cause, s.logCause c a = some cause := by
  unfold State.logCause
  split
  next hempty =>
    refine State.windowCheck_isSome (h.resolve_right fun hne => hne ?_)
    simpa using hempty
  next => exact ⟨2, rfl⟩

/-- A refusal marks the request, and touches no memory. -/
theorem State.refuse_marks (ha : (s.core c).access id = some a) :
    ((s.refuse c a).core c).access id = some { a with stage := .refused, hint := s.hintOf (paPkg a.pa), resendAt := 0 } ∧ bytesKept s (s.refuse c a) := by
  obtain rfl : a.id = id := Core.access_id ha
  exact ⟨State.modAccess_access (s := s.queueMiss _ _ _) ha rfl, bytesKept_trans (bytesKept_of_parts _ _ rfl rfl rfl) (State.modAccess_bytes ..)⟩

theorem answers_refused (ecc : Nat) (ha : (s.core c).access id = some a) (hsp : a.space = .fabric) (hst : a.stage = .sent)
    (hk : a.kind.request = true) (hmay : (s.core c).mayArrive a = true) (hv : s.verdict c a = .refused) :
    answers (.fabricRequestArrival c id ecc) s fun u =>
      (u.core c).access id = some { a with stage := .refused, hint := s.hintOf (paPkg a.pa), resendAt := 0 } ∧ bytesKept s u :=
  ⟨_, by rw [exec_arrival ecc ha hsp hst hk hmay, hv], State.refuse_marks ha⟩

end

/-! The remote-store log (R124). -/

theorem State.homeBytes_congr {s u : State} (h : ∀ a, u.homeByte a = s.homeByte a) (a n : Nat) : u.homeBytes a n = s.homeBytes a n := by
  induction n generalizing a with
  | zero => rfl
  | succ n ih => rw [State.homeBytes, State.homeBytes, h, ih]

/-- The place of the next entry of a package's log. -/
def RemoteLog.place (l : RemoteLog) : Nat := l.base + 32 * (l.head % 65536)

/-- The fields of an entry for a store of 8 bytes. -/
theorem logEntry_fields {s : State} {e : Nat} {a : Access} {bs : List Byte} {ctx cause src seq : Nat} (hn : a.n = 8) (hlen : bs.length = 8)
    (hdata : a.data = cellsFrom a.pa bs) (h : s.holdsAt e (logEntry a ctx cause src seq)) :
    s.holdsAt e (bytesOfNum 8 a.pa) ∧ s.holdsAt (e + 8) bs ∧ s.holdsAt (e + 16) (bytesOfNum 8 0) ∧ s.holdsAt (e + 24) (bytesOfNum 2 ctx) ∧
    s.holdsAt (e + 26) (bytesOfNum 1 3) ∧ s.holdsAt (e + 27) (bytesOfNum 1 cause) ∧ s.holdsAt (e + 28) (bytesOfNum 2 src) ∧
    s.holdsAt (e + 30) (bytesOfNum 2 seq) := by
  have hsnd : ∀ (l : List Byte) (p : Nat), (cellsFrom p l).map Prod.snd = l := by
    intro l
    induction l with
    | nil => exact fun p => rfl
    | cons b l ih => exact fun p => by rw [cellsFrom, List.map_cons, ih]
  have hdatalen : a.data.length = 8 := by rw [← List.length_map Prod.snd, hdata, hsnd, hlen]
  have hzero : List.replicate (16 - 8) (0#8 : Byte) = bytesOfNum 8 0 := rfl
  have hsize : sizeCode 8 = 3 := by decide
  rw [logEntry, hn, hdatalen, hzero, hsize, hdata, hsnd] at h
  simp only [State.holdsAt_append, List.length_append, length_bytesOfNum, hlen, and_assoc] at h
  exact h

/-- The log of package p as it is after an entry, its attention bit, and the count of core c. -/
def State.countEntry (v : State) (c p : Nat) (l : RemoteLog) : State :=
  ({ v with logs := tput v.logs p l }.attention p 0).modCore c fun k => { k with logSeq := k.logSeq + 1 }

/-- The state with the bytes of an entry for a store of core c at the place of the head. -/
def State.putEntry (s : State) (c cause : Nat) (a : Access) : State :=
  s.homeWrite none (cellsFrom (tget {} s.logs (paPkg a.pa) : RemoteLog).place (logEntry a (s.core c).ctxno cause c ((s.core c).logSeq % 65536)))

theorem State.logPart_eq (s : State) (c cause : Nat) (a : Access) :
    s.logPart c cause a = (s.putEntry c cause a).countEntry c (paPkg a.pa)
      { (tget {} s.logs (paPkg a.pa) : RemoteLog) with head := (tget {} s.logs (paPkg a.pa) : RemoteLog).head + 1 } := rfl

theorem Nat.testBit_zero_add_one {m : Nat} (h : ¬ m.testBit 0 = true) : (m + 2 ^ 0).testBit 0 = true := by
  simp only [Nat.testBit_zero, decide_eq_true_eq] at h ⊢
  omega

theorem State.attention_testBit (v : State) (p : Nat) : (tget {} (v.attention p 0).pkgs p).mgmtint.testBit 0 = true := by
  rw [State.attention, tget_tmod_same]
  split
  next h => exact h
  next h => exact Nat.testBit_zero_add_one h

section
variable (v : State) (c p : Nat) (l : RemoteLog)

theorem State.countEntry_logs : tget {} (v.countEntry c p l).logs p = l := tget_tput_same ..

theorem State.countEntry_core : (v.countEntry c p l).core c = { v.core c with logSeq := (v.core c).logSeq + 1 } := State.modCore_core_same ..

theorem State.countEntry_testBit : (tget {} (v.countEntry c p l).pkgs p).mgmtint.testBit 0 = true := State.attention_testBit _ p

theorem State.countEntry_homeByte (x : Nat) : (v.countEntry c p l).homeByte x = v.homeByte x := State.homeByte_congr rfl rfl x

end

theorem writeKeeps_accs {s u : State} (h : writeKeeps s u) (e : Nat) : (u.core e).accs = (s.core e).accs :=
  (congrArg Core.accs (h.2.1 e) : (u.core e).sansL1.accs = (s.core e).sansL1.accs)

theorem writeKeeps_logSeq {s u : State} (h : writeKeeps s u) (e : Nat) : (u.core e).logSeq = (s.core e).logSeq :=
  (congrArg Core.logSeq (h.2.1 e) : (u.core e).sansL1.logSeq = (s.core e).sansL1.logSeq)

theorem writeKeeps_putEntry (s : State) (c cause : Nat) (a : Access) : writeKeeps s (s.putEntry c cause a) := writeKeeps_homeWrite ..

theorem State.putEntry_holds {s : State} (hok : homesOk s) (c cause : Nat) (a : Access) : (s.putEntry c cause a).holdsAt
    (tget {} s.logs (paPkg a.pa) : RemoteLog).place (logEntry a (s.core c).ctxno cause c ((s.core c).logSeq % 65536)) :=
  State.holdsAt_homeWrite hok none _ _

/-- Core c's access a stands in its queue as logged, with number seq. -/
def State.markLogged (v : State) (c seq : Nat) (a : Access) : State :=
  v.modAccess c a.id fun x => { x with stage := .logged, seq, also := [] }

theorem State.markLogged_homeByte (v : State) (c seq : Nat) (a : Access) (x : Nat) : (v.markLogged c seq a).homeByte x = v.homeByte x :=
  State.homeByte_congr rfl rfl x

theorem State.logStore_eq {s : State} {a : Access} (c cause : Nat) (hn : a.n ≤ 16) :
    s.logStore c a cause = ((s.putEntry c cause a).countEntry c (paPkg a.pa)
      { (tget {} s.logs (paPkg a.pa) : RemoteLog) with head := (tget {} s.logs (paPkg a.pa) : RemoteLog).head + 1 }).markLogged c
        ((s.core c).logSeq % 65536) a := by
  have hparts : a.parts = [a] := by rw [Access.parts, if_pos hn]
  rw [State.logStore, hparts, List.foldl_cons, List.foldl_nil, State.logPart_eq, State.markLogged]
  rfl

/-- A store of 8 bytes in the log: its entry at the place of the head, byte for byte; the core's count and the log's head count on, the store
stands in its queue as logged, and the package's attention bit LOG is set. -/
theorem State.logStore_entered {s : State} {c id cause : Nat} {a : Access} (hok : homesOk s) (ha : (s.core c).access id = some a) (hn : a.n = 8) :
    let l : RemoteLog := tget {} s.logs (paPkg a.pa)
    let u := s.logStore c a cause
    u.holdsAt l.place (logEntry a (s.core c).ctxno cause c ((s.core c).logSeq % 65536)) ∧
    (u.core c).access id = some { a with stage := .logged, seq := (s.core c).logSeq % 65536, also := [] } ∧
    (u.core c).logSeq = (s.core c).logSeq + 1 ∧ tget {} u.logs (paPkg a.pa) = { l with head := l.head + 1 } ∧
    (tget {} u.pkgs (paPkg a.pa)).mgmtint.testBit 0 = true := by
  have hle : a.n ≤ 16 := hn.trans_le (by decide)
  have hkeep := writeKeeps_putEntry s c cause a
  have hholds := State.putEntry_holds hok c cause a
  have haccs := writeKeeps_accs hkeep c
  have hseq := writeKeeps_logSeq hkeep c
  rw [State.logStore_eq c cause hle]
  generalize s.putEntry c cause a = v at hholds haccs hseq ⊢
  obtain rfl : a.id = id := Core.access_id ha
  refine ⟨?_, ?_, ?_, ?_, ?_⟩
  · rw [State.holdsAt]
    exact (State.homeBytes_congr (fun x => (State.markLogged_homeByte ..).trans (State.countEntry_homeByte ..)) _ _).trans hholds
  · refine State.modAccess_access ?_ rfl
    rw [State.countEntry_core, Core.access, haccs]
    exact ha
  · rw [State.markLogged, State.modAccess_core_same, State.countEntry_core, hseq]
  · exact State.countEntry_logs v c _ _
  · exact State.countEntry_testBit v c _ _

end Sys2Proof.Machine
end

section
/-! PROOF. Requests are checked against the window table at their target (R122 to R125, R374, R376). -/

namespace Sys2Proof.Machine

open Sys2Proof

/-! The halt buffer is empty. -/

/-- With an empty halt buffer, a reply that leaves it changes no core. -/
theorem State.unholdReply_core {s : State} {c id : Nat} (h : (s.core c).haltBuf = []) (e : Nat) : (s.unholdReply c id).core e = s.core e := by
  by_cases he : e = c
  · subst he
    rw [State.unholdReply, State.modCore_core_same, h]
    exact congrArg (fun b => { s.core e with haltBuf := b }) h.symm
  · exact State.modCore_core_other _ _ _ _ he

theorem State.unholdReply_bytes (s : State) (c id : Nat) : bytesKept s (s.unholdReply c id) := modCore_bytes _ _ _ rfl rfl rfl rfl

theorem replyTurn_of_empty {k : Core} (id : Nat) (h : k.haltBuf = []) : k.replyTurn id = true := by simp [Core.replyTurn, h]

/-! Refusals (R123). -/

section
variable {s : State} {c id : Nat} {a : Access}

theorem exec_refusal (ha : (s.core c).access id = some a) (hst : a.stage = .refused) (hre : a.resendAt = 0) (hbuf : (s.core c).haltBuf = [])
    (hfr : s.isFrozen c = false) :
    exec (.fabricRefusal c id) s = .next (if a.hint ≠ 0 ∧ a.tries + 1 < bits (s.core c).rctl 0 16 then
      (s.unholdReply c id).modAccess c id fun x => { x with tries := x.tries + 1, resendAt := s.time + 64 * x.hint }
      else (s.unholdReply c id).remoteFault c a) := by
  rw [apply_ite Host.Outcome.next]
  simp only [exec_fabricRefusal, execFabricRefusal, ha, hst, hre, replyTurn_of_empty id hbuf, hfr]
  rfl

/-- A fault that names no data strand, for a weave without debug, joins the core's list. -/
theorem State.asyncFault_core {v : State} (code task : Nat) (tval : Word) (at_ : Nat) (hd : v.debugOn c = false) :
    v.asyncFault c code task tval at_ = v.modCore c fun k => { k with afaults := k.afaults ++
      [{ strand := 0, code, task, tval, cycle := k.cycle, word := at_, va := if code = 15 ∨ code = 14 then tval.toNat else 0 }] } := by
  simp [State.asyncFault, hd]

theorem State.remoteFault_store (hp : a.party < 8) (hk : a.kind = .store) (v : State) :
    v.remoteFault c a = (v.endAccess c a.id).asyncFault c 15 a.party (word a.va) a.word := by
  have hload : a.loadLike = false := by simp [Access.loadLike, hk]
  simp [State.remoteFault, hload, hp, hk]

/-! Requests that are sent (R374). -/

theorem Access.planeOf_of_request {c : Nat} (h : ∀ g i, a.kind ≠ .contribution g i) : a.planeOf c = fabricPlane c (paDie a.pa) := by
  unfold Access.planeOf
  split
  next g i hk => exact absurd hk (h g i)
  next => rfl

theorem State.sendNow_sent (ha : (s.core c).access id = some a) :
    ((s.sendNow c id).core c).access id = some { a with stage := .sent, resendAt := 0, plane := a.planeOf c, sentNo := s.nextId } := by
  obtain rfl : a.id = id := Core.access_id ha
  exact State.modAccess_access ha rfl

theorem State.sendNow_bytes (s : State) (c id : Nat) : bytesKept s (s.sendNow c id) :=
  bytesKept_trans (State.modAccess_bytes s c id _) (bytesKept_of_parts _ _ rfl rfl rfl)

/-! Replies (R376). -/

theorem exec_reply (ha : (s.core c).access id = some a) (hsp : a.space = .fabric) (hst : a.stage = .performed) (hfault : a.fault = 0)
    (hacq : a.acq = false) (hbuf : (s.core c).haltBuf = []) (hfr : s.isFrozen c = false) :
    exec (.fabricReply c id) s = .next ((s.unholdReply c id).deliver c a) := by
  have hord : a.ordered.acq = false := by
    unfold Access.ordered
    split
    · exact hacq
    · exact hacq
  simp only [exec_fabricReply, execFabricReply, ha, hsp, hst, replyTurn_of_empty id hbuf, hfr, hfault, State.after_of_not_acq _ c hord]
  rfl

/-- A value for a task that waits for it is written, and the task wakes. -/
theorem State.deliver_awaited {v : State} {d : Nat} {sx : Bool} {w : Wait} (hd : a.dest = .reg d sx) (hp : a.party < 8)
    (hw : v.waitOf c a.party = some w) (hwhat : w.what = .reply a.id) :
    v.deliver c a = ((v.endAccess c a.id).writeLoad c a.party d sx a.val).wake c a.party := by
  have hwait : ((v.endAccess c a.id).writeLoad c a.party d sx a.val).waitOf c a.party = some w := by
    rw [State.writeLoad_waitOf, State.endAccess_waitOf, hw]
  simp [State.deliver, hd, hwait, hp, hwhat]

/-- Nothing is due to a task that is ready: the access is over. -/
theorem State.deliver_none {v : State} (hd : a.dest = .none) (hready : (v.task c a.party).st = .ready) : v.deliver c a = v.endAccess c a.id := by
  have hwait : (v.endAccess c a.id).waitOf c a.party = none := by
    rw [State.endAccess_waitOf, State.waitOf, hready]
    rfl
  simp only [State.deliver, hd, hwait]

end

/-- What a task that wakes keeps, and where it stands. -/
theorem State.wake_woken {v : State} {c t : Nat} {w : Wait} (hw : (v.task c t).wait = some w) :
    ((v.wake c t).task c t).st = .ready ∧ ((v.wake c t).task c t).wait = none ∧ ((v.wake c t).task c t).pc = (v.task c t).pc + BitVec.ofNat 64 w.len ∧
    (∀ r, (v.wake c t).reg c t r = v.reg c t r) ∧ ((v.wake c t).core c).accs = (v.core c).accs ∧ bytesKept v (v.wake c t) := by
  have hwake : (v.wake c t).task c t = { (v.task c t).next w.len with st := .ready, wait := none } := by
    rw [State.wake, State.modTask_task_same, Task.wake_of_wait hw]
  refine ⟨?_, ?_, ?_, fun r => ?_, ?_, modTask_bytes ..⟩
  · rw [hwake]
  · rw [hwake]
  · rw [hwake]
    rfl
  · rw [State.reg, hwake]
    rfl
  · simp [State.wake]

theorem State.setReg_core_accs (s : State) (c t d : Nat) (v : Word) : ((s.setReg c t d v).core c).accs = (s.core c).accs := by simp [State.setReg]

theorem State.setReg_task_wait (s : State) (c t d : Nat) (v : Word) : ((s.setReg c t d v).task c t).wait = (s.task c t).wait := by
  simp [State.setReg]

/-- The low and the high half of 16 bytes. -/
theorem numBytes_halves (bs : List Byte) (h : 8 ≤ bs.length) : numBytes bs = numBytes (bs.take 8) + 2 ^ 64 * numBytes (bs.drop 8) := by
  have happ : ∀ xs ys : List Byte, numBytes (xs ++ ys) = numBytes xs + 256 ^ xs.length * numBytes ys := by
    intro xs ys
    induction xs with
    | nil => simp [numBytes, numOfBytes]
    | cons x xs ih =>
      rw [List.cons_append, numBytes_cons, ih, numBytes_cons, List.length_cons, pow_succ]
      ring
  conv_lhs => rw [← List.take_append_drop 8 bs, happ]
  rw [List.length_take, Nat.min_eq_left h]
  rfl

theorem numBytes_take_lt (bs : List Byte) (h : 8 ≤ bs.length) : numBytes (bs.take 8) < 2 ^ 64 := by
  have hlt := numOfBytes_lt (bs.take 8).length (bs.take 8)
  rw [List.length_take, Nat.min_eq_left h] at hlt
  rw [numBytes, List.length_take, Nat.min_eq_left h]
  exact hlt

theorem cellsFrom_snd (a : Nat) (bs : List Byte) : (cellsFrom a bs).map Prod.snd = bs := by
  induction bs generalizing a with
  | nil => rfl
  | cons b bs ih => rw [cellsFrom, List.map_cons, ih]

/-- Settles O35: the window table as the first entry that matches, the answer of the target by the kind of the request, the fields of a log entry as
runs of bytes at its place, and the refusal, the resend and the reply of a request. -/
theorem requestsAreCheckedAtTheirTarget : Obligations.RequestsAreCheckedAtTheirTarget := by
  unfold Obligations.RequestsAreCheckedAtTheirTarget
  intro s c id ecc a ha hsp k die off log perm finds passes kind refused
  have hid : a.id = id := Core.access_id ha
  have hperm : perm = a.perm := by
    unfold perm Access.perm
    cases a.kind <;> rfl
  have hbarred : ¬ passes → s.barred c a := by
    rintro h ⟨w, hw, hg⟩
    exact h ⟨w, hw, by rw [hperm]; exact hg⟩
  have hload : kind True False True → a.kind.request = true ∧ a.kind ≠ .store := by
    unfold kind
    cases a.kind <;> simp [AKind.request]
  have hstore : a.kind = .store → a.kind.request = true := fun h => by rw [h]; rfl
  refine ⟨fun hst hmay hno hk => ?_, fun hst hmay hk hover => ?_, fun hst hmay hno hk hx => ?_, fun hst hmay hno hk hx hfull => ?_,
    fun hst hmay hno hk hx hfree hok hbase hn hdata hpa hc => ?_, fun hst hre hbuf hfr => ?_, fun hkind hst hre hat hfr => ?_, fun hst hat => ?_,
    fun d sx w hst hfault hacq hbuf hfr hd hp hw hwhat hne => ?_, fun hst hfault hacq hbuf hfr hd hp hready => ?_⟩
  · exact answers_refused ecc ha hsp hst (hload hk).1 hmay (State.verdict_barred (fun h => (hload hk).2 h.1) (hbarred hno))
  · exact answers_refused ecc ha hsp hst (hload hk).1 hmay (State.verdict_overlaps (hload hk).2 hover)
  · exact answers_refused ecc ha hsp hst (hstore hk) hmay (State.verdict_barred (fun h => hx h.2) (hbarred hno))
  · obtain ⟨cause, hcause⟩ := State.logCause_isSome (hno.imp_left hbarred)
    exact answers_refused ecc ha hsp hst (hstore hk) hmay (State.verdict_full hk hx hcause hfull)
  · obtain ⟨cause, hcause⟩ := State.logCause_isSome (hno.imp_left hbarred)
    obtain ⟨bs, hlen, hdata⟩ := hdata
    have hv := State.verdict_logged hk hx (hn.trans_le (by decide)) hcause hfree
    obtain ⟨hentry, hacc, hseq, hlogs, hbit⟩ := State.logStore_entered (c := c) (cause := cause) hok.2 ha hn
    obtain ⟨hpaAt, hdataAt, hzeroAt, hctxAt, hsizeAt, hcauseAt, hsrcAt, hseqAt⟩ := logEntry_fields hn hlen hdata hentry
    have hcauseNum := State.homeNum_of_holdsAt hcauseAt
    refine ⟨s.logStore c a cause, by rw [exec_arrival ecc ha hsp hst (hstore hk) hmay, hv], ⟨_, hacc, rfl, rfl⟩, hseq, hlogs, ?_, ?_, ?_, ?_, ?_, ?_, ?_, ?_, ?_, ?_, hbit⟩
    · exact (State.homeNum_of_holdsAt hpaAt).trans (Nat.mod_eq_of_lt (hpa.trans (by norm_num)))
    · rw [hdata, cellsFrom_snd]
      rw [State.holdsAt, hlen] at hdataAt
      exact hdataAt
    · exact State.homeNum_of_holdsAt hzeroAt
    · exact State.homeNum_of_holdsAt hctxAt
    · exact State.homeNum_of_holdsAt hsizeAt
    · intro hne
      obtain rfl : 2 = cause := Option.some.inj ((State.logCause_behind hne).symm.trans hcause)
      exact hcauseNum
    · rintro hnone ⟨w, hw⟩
      have hcheck := (State.logCause_first hnone).symm.trans hcause
      have hfirst : s.firstWindow (paDie a.pa) (s.core c).ctxno (paOff a.pa) a.n w := hw
      rw [State.windowCheck_of_some hfirst] at hcheck
      split at hcheck
      · cases hcheck
      · cases hcheck
        exact hcauseNum
    · intro hnone hno
      obtain rfl : 0 = cause := Option.some.inj ((State.windowCheck_of_none hno).symm.trans ((State.logCause_first hnone).symm.trans hcause))
      exact hcauseNum
    · exact (State.homeNum_of_holdsAt hsrcAt).trans (Nat.mod_eq_of_lt (hc.trans (by norm_num)))
    · exact (State.homeNum_of_holdsAt hseqAt).trans (Nat.mod_eq_of_lt (Nat.mod_lt _ (by norm_num)))
  · have hcore := State.unholdReply_core (id := id) hbuf
    have hexec := exec_refusal ha hst hre hbuf hfr
    have hbits : bits k.rctl 0 16 = k.rctl.toNat % 2 ^ 16 := by rw [bits, fld, pow_zero, Nat.div_one]
    refine ⟨fun hagain => ?_, fun hnot hp hk hd => ?_⟩
    · rw [if_pos (by rw [hbits]; exact hagain)] at hexec
      exact ⟨_, hexec, State.modAccess_access (by rw [hcore]; exact ha) hid, bytesKept_trans (State.unholdReply_bytes ..) (State.modAccess_bytes ..)⟩
    · have hdebug : ((s.unholdReply c id).endAccess c a.id).debugOn c = false :=
        (State.debugOn_modCore _ c _ rfl).trans ((State.debugOn_modCore s c _ rfl).trans hd)
      rw [if_neg (by rw [hbits]; exact hnot), State.remoteFault_store hp hk, State.asyncFault_core _ _ _ _ hdebug, hid] at hexec
      refine ⟨_, hexec, ?_, ?_, ?_⟩
      · rw [State.modCore_core_same, State.endAccess_core_same, hcore]
      · rw [State.modCore_core_same, State.endAccess_core_same, hcore]
        simp [k, word]
      · exact bytesKept_trans (State.unholdReply_bytes ..) (bytesKept_trans (State.endAccess_bytes ..) (modCore_bytes _ _ _ rfl rfl rfl rfl))
  · refine ⟨s.sendNow c id, ?_, ?_, rfl, State.sendNow_bytes ..⟩
    · have hlate : ¬ s.time < a.resendAt := Nat.not_lt.2 hat
      simp only [exec_fabricRetryResend, execFabricRetryResend, ha, hst, hfr, hlate]
      simp [hre]
    · rw [State.sendNow_sent ha, Access.planeOf_of_request hkind]
      rfl
  · simp [execFabricRetryResend, ha, hst, hat]
  · intro lo woken
    have hcore := State.unholdReply_core (id := id) hbuf
    have htask : ∀ t, (s.unholdReply c id).task c t = s.task c t := fun t => congrArg (Core.task · t) (hcore c)
    have hwait : (s.unholdReply c id).waitOf c a.party = some w := (State.waitOf_of_task (by rw [htask]) (by rw [htask])).trans hw
    have hexec := exec_reply ha hsp hst hfault hacq hbuf hfr
    rw [State.deliver_awaited hd hp hwait (hid.symm ▸ hwhat), hid] at hexec
    have hended : bytesKept s ((s.unholdReply c id).endAccess c id) := bytesKept_trans (State.unholdReply_bytes ..) (State.endAccess_bytes ..)
    have hparked := (State.waitOf_eq_some.1 hw).2
    generalize hv : (s.unholdReply c id).endAccess c id = v at hexec hended
    have hvtask : v.task c a.party = s.task c a.party := by rw [← hv, State.endAccess_task, htask]
    have hvreg : ∀ r, v.reg c a.party r = s.reg c a.party r := fun r => by rw [State.reg, hvtask, State.reg]
    have hvaccs : (v.core c).accs = dropFirst (fun x => x.id == id) k.accs := by rw [← hv, State.endAccess_core_same, hcore]
    have hwoken : ∀ x : State, (x.task c a.party).wait = (v.task c a.party).wait → (x.task c a.party).pc = (v.task c a.party).pc →
        (x.core c).accs = (v.core c).accs → bytesKept v x → woken (x.wake c a.party) ∧ ∀ r, (x.wake c a.party).reg c a.party r = x.reg c a.party r := by
      intro x hxw hxpc hxaccs hxbytes
      obtain ⟨hst', hw', hpc', hregs', haccs', hbytes'⟩ := State.wake_woken (v := x) (t := a.party) (w := w) (by rw [hxw, hvtask, hparked])
      exact ⟨⟨hst', hw', by rw [hpc', hxpc, hvtask], by rw [haccs', hxaccs, hvaccs], bytesKept_trans hended (bytesKept_trans hxbytes hbytes')⟩, hregs'⟩
    refine ⟨fun hle => ?_, fun h16 heven hd0 => ?_⟩
    · rw [writeLoad_short _ _ _ _ _ hle hne] at hexec
      obtain ⟨hdone, hregs⟩ := hwoken (v.setReg c a.party d _) (State.setReg_task_wait ..) (State.setReg_task_pc ..) (State.setReg_core_accs ..) (State.setReg_bytes ..)
      refine ⟨_, hexec, ?_, fun r hr => ?_, hdone⟩
      · rw [hregs, State.setReg_reg, if_pos rfl]
      · rw [hregs, State.setReg_reg, if_neg hr, hvreg]
    · have h8 : 8 ≤ a.val.length := by omega
      have hlo : lo = numBytes (a.val.take 8) + 2 ^ 64 * numBytes (a.val.drop 8) := numBytes_halves a.val h8
      have hlow := numBytes_take_lt a.val h8
      have hlowWord : BitVec.ofNat 64 lo = BitVec.ofNat 64 (numBytes (a.val.take 8)) := by
        apply BitVec.eq_of_toNat_eq
        simp only [BitVec.toNat_ofNat]
        omega
      have hhigh : lo / 2 ^ 64 = numBytes (a.val.drop 8) := by omega
      have hpair : v.writeLoad c a.party d sx a.val =
          (v.setReg c a.party d (BitVec.ofNat 64 lo)).setReg c a.party (d + 1) (BitVec.ofNat 64 (lo / 2 ^ 64)) := by
        rw [hlowWord, hhigh]
        simp only [State.writeLoad, h16, if_true, word]
      rw [hpair] at hexec
      obtain ⟨hdone, hregs⟩ := hwoken ((v.setReg c a.party d (BitVec.ofNat 64 lo)).setReg c a.party (d + 1) (BitVec.ofNat 64 (lo / 2 ^ 64)))
        (by rw [State.setReg_task_wait, State.setReg_task_wait]) (by rw [State.setReg_task_pc, State.setReg_task_pc])
        (by rw [State.setReg_core_accs, State.setReg_core_accs]) (bytesKept_trans (State.setReg_bytes ..) (State.setReg_bytes ..))
      refine ⟨_, hexec, ?_, ?_, fun r hr hr' => ?_, hdone⟩
      · rw [hregs, State.setReg_reg, if_neg (Nat.ne_of_lt (Nat.lt_succ_self d)), State.setReg_reg, if_pos rfl, if_neg hd0]
      · rw [hregs, State.setReg_reg, if_pos rfl, if_neg (Nat.succ_ne_zero d)]
      · rw [hregs, State.setReg_reg, if_neg hr', State.setReg_reg, if_neg hr, hvreg]
  · have hcore := State.unholdReply_core (id := id) hbuf
    have hexec := exec_reply ha hsp hst hfault hacq hbuf hfr
    have hready' : ((s.unholdReply c id).task c a.party).st = .ready := by
      rw [State.task, hcore]
      exact hready
    rw [State.deliver_none hd hready', hid] at hexec
    refine ⟨_, hexec, ?_, ?_, bytesKept_trans (State.unholdReply_bytes ..) (State.endAccess_bytes ..)⟩
    · rw [State.endAccess_core_same, hcore]
    · rw [State.endAccess_core_same, hcore]

end Sys2Proof.Machine
end

section
/-! PROOF. Accesses at their home (R130, R132): an access that already carries a fault keeps it. -/

namespace Sys2Proof.Machine

open Sys2Proof

/-- A load of one byte of an NC segment that waits in its queue, and carries a fault already. -/
def faultedLoad : Access := { id := 1, party := 0, kind := .load, space := .virt, va := 0, pa := 0, n := 1, nc := true, fault := 7 }

/-- The panel at reset but for that load in the queue of core 0. -/
def faultedLoadQueued : State := State.reset.setCore 0 { accs := [faultedLoad] }

/-- The home performs the load, and its fault stays. -/
theorem faultedLoad_performed : ∃ u, exec (.homeRequest 0 1 0) faultedLoadQueued = .next u ∧ ((u.core 0).access 1).map Access.fault = some 7 := by
  refine ⟨_, rfl, ?_⟩
  decide

/-- Refutes O36: nothing says that the access carries no fault before it is performed. In `faultedLoadQueued` the load meets every premise, its home
performs it, and its fault is 7 then as before, where the statement asks for 0. That state is one that the premises allow; whether a run reaches one
like it is not said here. -/
theorem not_accessesArePerformedAtTheirHome : ¬ Obligations.AccessesArePerformedAtTheirHome := by
  unfold Obligations.AccessesArePerformedAtTheirHome
  intro h
  have hlines : ∀ l, faultedLoadQueued.l1Line 0 l = none := fun l => rfl
  have hown : faultedLoad.space = .virt ∧ faultedLoad.stage = .queued ∧ faultedLoadQueued.isNear 0 faultedLoad = false ∧
      (faultedLoadQueued.core 0).mayPerform faultedLoad = true ∧ faultedLoadQueued.l1Room 0 faultedLoad = true := by decide
  obtain ⟨hload, -⟩ := h faultedLoadQueued 0 1 faultedLoad memoryOk_reset hlines rfl rfl rfl rfl rfl rfl rfl (.homeRequest 0 1 0) (.inl ⟨rfl, hown⟩)
  obtain ⟨u, hu, ⟨x, hx, -, -, hfault⟩, -⟩ := hload rfl
  obtain ⟨v, hv, hseven⟩ := faultedLoad_performed
  obtain rfl : u = v := by
    rw [hu] at hv
    injection hv
  rw [hx, Option.map_some, hfault] at hseven
  cases hseven

end Sys2Proof.Machine
end

section
/-! PROOF. Device-register events (R132): an eviction of a clean copy that differs from its bank. -/

namespace Sys2Proof.Machine

open Sys2Proof

/-- The panel at reset but for a clean copy of sector 0 at its home, which holds ones where the bank holds zeros. -/
def staleCopyHeld : State := { State.reset with homes := [(0, { dirty := false, bytes := List.replicate 32 1#8 })] }

theorem staleCopyHeld_memoryOk : memoryOk staleCopyHeld :=
  ⟨rfl, List.pairwise_singleton .., fun e he => by rw [List.mem_singleton.1 he]; rfl⟩

/-- The eviction drops the copy, and the byte reads as the bank holds it. -/
theorem staleCopyHeld_evicted : ∃ u, exec (.cacheEviction true 0 0 false) staleCopyHeld = .next u ∧ u.homeByte 0 = 0#8 := ⟨_, rfl, rfl⟩

/-- Refutes O37: its first clause asks that an eviction leaves every byte readable as before in every state whose memory is in its form, and the form
(R132, R144) does not say that a clean copy equals its bank. In `staleCopyHeld` byte 0 reads 1 before the eviction of sector 0 and 0 after it. That state
is one that the premises allow; whether a run reaches one like it is not said here. -/
theorem not_deviceRegistersAreWritten : ¬ Obligations.DeviceRegistersAreWritten := by
  unfold Obligations.DeviceRegistersAreWritten
  intro h
  obtain ⟨hevict, -⟩ := h staleCopyHeld 0 0 0 0 0 0 0#64 (.core 0 0) default
  obtain ⟨u, hu, hbytes, -⟩ := hevict staleCopyHeld_memoryOk
  obtain ⟨v, hv, hzero⟩ := staleCopyHeld_evicted
  obtain rfl : u = v := by
    rw [hu] at hv
    injection hv
  have hone : staleCopyHeld.homeByte 0 = 1#8 := rfl
  have hread := (hbytes 0).symm.trans hzero
  rw [hone] at hread
  exact absurd hread (by decide)

end Sys2Proof.Machine
end

section
/-! SUPPORT. What the operations of service change: a die's step, a bit of MGMTINT, a register of the management block (R509 to R513). -/

namespace Sys2Proof.Machine

open Sys2Proof

/-! What service leaves as it was. -/

/-- The cores, the weaves and every byte of memory are as before. -/
def State.standsAs (s u : State) : Prop := u.cores = s.cores ∧ u.weaves = s.weaves ∧ bytesKept s u

theorem State.standsAs_of_parts {s u : State} (hc : u.cores = s.cores) (hw : u.weaves = s.weaves) (hb : u.banks = s.banks) (hh : u.homes = s.homes) :
    s.standsAs u := ⟨hc, hw, bytesKept_of_parts s u hb hh hc⟩

theorem State.standsAs_refl (s : State) : s.standsAs s := ⟨rfl, rfl, bytesKept_refl s⟩

theorem State.standsAs_trans {s u v : State} (h : s.standsAs u) (g : u.standsAs v) : s.standsAs v :=
  ⟨g.1.trans h.1, g.2.1.trans h.2.1, bytesKept_trans h.2.2 g.2.2⟩

theorem State.standsAs_foldl {α : Type} {f : State → α → State} (hf : ∀ (s : State) (a : α), s.standsAs (f s a)) (l : List α) (s : State) :
    s.standsAs (l.foldl f s) := by
  induction l generalizing s with
  | nil => exact s.standsAs_refl
  | cons a l ih => exact State.standsAs_trans (hf s a) (ih _)

/-- What one element of a fold brings about where I holds, and every other keeps, holds after the fold. -/
theorem foldl_reaches {α β : Type} {I Q : β → Prop} {f : β → α → β} {l : List α} {a : α} (hI : ∀ b x, I b → I (f b x)) (ha : ∀ b, I b → Q (f b a))
    (hQ : ∀ b x, Q b → Q (f b x)) (hmem : a ∈ l) {b : β} (hb : I b) : Q (l.foldl f b) := by
  have hkeep : ∀ (l : List α) (b : β), Q b → Q (l.foldl f b) := by
    intro l
    induction l with
    | nil => exact fun b h => h
    | cons x l ih => exact fun b h => ih _ (hQ b x h)
  induction l generalizing b with
  | nil => cases hmem
  | cons x l ih =>
    rcases List.mem_cons.1 hmem with rfl | hin
    · exact hkeep l _ (ha b hb)
    · exact ih hin (hI b x hb)

/-! The registers of a package and what is watched of a die. -/

section
variable (s : State) (p q d e b : Nat)

theorem State.modPkg_standsAs (f : Pkg → Pkg) : s.standsAs (s.modPkg p f) := State.standsAs_of_parts rfl rfl rfl rfl

theorem State.modPkg_pkg_same (f : Pkg → Pkg) : (s.modPkg p f).pkg p = f (s.pkg p) := tget_tmod_same ..

theorem State.modPkg_pkg_other (f : Pkg → Pkg) (h : q ≠ p) : (s.modPkg p f).pkg q = s.pkg q := tget_tmod_other _ _ _ _ _ h

theorem State.modServ_standsAs (f : DieServ → DieServ) : s.standsAs (s.modServ d f) := State.standsAs_of_parts rfl rfl rfl rfl

theorem State.modServ_serv_same (f : DieServ → DieServ) : (s.modServ d f).serv d = f (s.serv d) := tget_tmod_same ..

theorem State.modServ_serv_other (f : DieServ → DieServ) (h : e ≠ d) : (s.modServ d f).serv e = s.serv e := tget_tmod_other _ _ _ _ _ h

/-! A bit of MGMTINT. -/

theorem State.attention_standsAs : s.standsAs (s.attention p b) := State.standsAs_of_parts rfl rfl rfl rfl

theorem State.attention_serv : (s.attention p b).serv d = s.serv d := rfl

/-- The bit has risen. -/
theorem State.attention_rises : ((s.attention p b).pkg p).mgmtint.testBit b = true := by
  have hpkg := State.modPkg_pkg_same s p fun x => if x.mgmtint.testBit b then x
      else { x with mgmtint := x.mgmtint + 2 ^ b, msix := if x.mgmten.testBit b then x.msix + 1 else x.msix }
  change (State.pkg (s.attention p b) p) = _ at hpkg
  rw [hpkg]
  split
  next h => exact h
  next h => rw [Nat.add_comm, Nat.testBit_two_pow_add_eq, Bool.eq_false_iff.2 h]; rfl

theorem State.attention_pkg_other (h : q ≠ p) : (s.attention p b).pkg q = s.pkg q := s.modPkg_pkg_other p q _ h

/-- A bit that has risen stays. -/
theorem State.attention_keeps_risen (h : (s.pkg q).mgmtint.testBit b = true) : ((s.attention p b).pkg q).mgmtint.testBit b = true := by
  by_cases hq : q = p
  · rw [hq]
    exact s.attention_rises p b
  · rwa [s.attention_pkg_other p q b hq]

theorem State.attentionAll_standsAs : s.standsAs (s.attentionAll b) := State.standsAs_foldl (fun s p => s.attention_standsAs p b) _ s

/-- What a bit of MGMTINT leaves alone, a bit in every package does. -/
theorem State.attentionAll_keeps {γ : Type} (f : State → γ) (h : ∀ s p, f (State.attention s p b) = f s) : f (s.attentionAll b) = f s :=
  foldl_keeps f _ h _ s

/-- The bit rises in every package that has power. -/
theorem State.attentionAll_rises (hp : p < 64) (hon : (s.pkg p).boot ≠ .off) : ((s.attentionAll b).pkg p).mgmtint.testBit b = true := by
  have hmem : p ∈ s.powered := List.mem_filter.2 ⟨by simpa using hp, by simpa using hon⟩
  exact foldl_reaches (f := fun u q => State.attention u q b) (I := fun _ => True) (Q := fun u => (State.pkg u p).mgmtint.testBit b = true)
    (fun _ _ _ => trivial) (fun u _ => u.attention_rises p b) (fun u q h => u.attention_keeps_risen q p b h) hmem trivial

/-! A die's step. -/

theorem State.slow_standsAs : s.standsAs (s.slow d) := s.modServ_standsAs d _

theorem State.slow_serv_same : (s.slow d).serv d = { s.serv d with step := max (s.serv d).step (s.stepFloor d) } := s.modServ_serv_same d _

theorem State.slow_serv_other (h : e ≠ d) : (s.slow d).serv e = s.serv e := s.modServ_serv_other d e _ h

theorem State.slow_step_le : (s.serv e).step ≤ ((s.slow d).serv e).step := by
  by_cases he : e = d
  · rw [he, s.slow_serv_same]
    exact Nat.le_max_left ..
  · rw [s.slow_serv_other d e he]

theorem State.stepFloor_throttled (h : s.throttled d = true) : s.stepFloor d = 5 := by
  rw [State.stepFloor, h]
  rfl

/-- The floor of a die that does not throttle is that of CLKFORCE. -/
theorem State.stepFloor_forced (h : s.throttled d = false) :
    s.stepFloor d = let f := (s.pkg (d / 2)).clkforce; if f / 2 ^ 3 % 2 = 1 then min 5 (f % 2 ^ 3) else 0 := by
  simp [State.stepFloor, h, fld]

/-- A die that throttles runs at step 5 or slower. -/
theorem State.slow_throttled (h : s.throttled d = true) : 5 ≤ ((s.slow d).serv d).step := by
  rw [s.slow_serv_same, s.stepFloor_throttled d h]
  exact Nat.le_max_right ..

end

end Sys2Proof.Machine
end

section
/-! SUPPORT. Bits of numbers, and words as a memory holds them. -/

namespace Sys2Proof.Machine

open Sys2Proof

/-! Numbers and bits. -/

/-- Numbers with no bit in common add without a carry. -/
theorem testBit_add_of_apart {x y : Nat} (h : ∀ i, (x.testBit i && y.testBit i) = false) (b : Nat) : (x + y).testBit b = (x.testBit b || y.testBit b) := by
  induction b generalizing x y with
  | zero =>
    have h0 := h 0
    simp only [Nat.testBit_zero, Bool.and_eq_false_iff, decide_eq_false_iff_not] at h0 ⊢
    rw [← Bool.decide_or]
    exact decide_eq_decide.2 (by omega)
  | succ b ih =>
    have h0 := h 0
    simp only [Nat.testBit_zero, Bool.and_eq_false_iff, decide_eq_false_iff_not] at h0
    have hhalf : (x + y) / 2 = x / 2 + y / 2 := by omega
    rw [Nat.testBit_succ, Nat.testBit_succ, Nat.testBit_succ, hhalf]
    exact ih fun i => by simpa [Nat.testBit_succ] using h (i + 1)

theorem testBit_add_two_pow {m p : Nat} (h : m.testBit p = false) (q : Nat) : (m + 2 ^ p).testBit q = (m.testBit q || decide (q = p)) := by
  rw [testBit_add_of_apart fun i => ?_, Nat.testBit_two_pow]
  · simp only [eq_comm]
  · by_cases hi : p = i
    · rw [← hi, h]; rfl
    · simp [hi]

/-- The bits of n cleared from m. -/
theorem testBit_sub_and (m n b : Nat) : (m - (m &&& n)).testBit b = (m.testBit b && !n.testBit b) := by
  have hbits : ∀ i, (m ^^^ (m &&& n)).testBit i = (m.testBit i && !n.testBit i) := fun i => by
    rw [Nat.testBit_xor, Nat.testBit_and]
    cases m.testBit i <;> cases n.testBit i <;> rfl
  have hsum : (m ^^^ (m &&& n)) + (m &&& n) = m := Nat.eq_of_testBit_eq fun i => by
    rw [testBit_add_of_apart (fun i => ?_), hbits, Nat.testBit_and]
    · cases m.testBit i <;> cases n.testBit i <;> rfl
    · rw [hbits, Nat.testBit_and]
      cases m.testBit i <;> cases n.testBit i <;> rfl
  rw [← hbits b]
  congr 1
  omega

/-- The top bit of a word. -/
theorem testBit_top (v : Word) : v.toNat.testBit 63 = true ↔ 2 ^ 63 ≤ v.toNat := by
  have hv := v.isLt
  rw [Nat.testBit_eq_decide_div_mod_eq, decide_eq_true_eq]
  omega

/-- A run of bytes that has been written reads as it was written. -/
theorem bytesAt_setBytes {m : Bytes} (hm : Memory.wf m = true) (a : Nat) (bs : List Byte) : bytesAt (setBytes m a bs) a bs.length = bs := by
  have hlow : ∀ (bs : List Byte) (m : Bytes) (a x : Nat), x < a → byteAt (setBytes m a bs) x = byteAt m x := by
    intro bs
    induction bs with
    | nil => exact fun m a x h => rfl
    | cons b bs ih => exact fun m a x h => (ih _ _ x (by omega)).trans (byteAt_setByte_other _ _ _ _ (by omega))
  induction bs generalizing m a with
  | nil => rfl
  | cons b bs ih =>
    have hfirst : byteAt (setBytes (setByte m a b) (a + 1) bs) a = b := by
      rw [hlow _ _ _ a (Nat.lt_succ_self a), byteAt_setByte_same _ _ _ hm]
    rw [setBytes, List.length_cons, bytesAt, hfirst, ih (setByte_wf _ _ _ hm)]

/-- A word that has been written reads as it was written. -/
theorem numBytes_setBytes {m : Bytes} (hm : Memory.wf m = true) (a : Nat) (v : Word) :
    numBytes (bytesAt (setBytes m a (bytesOfNum 8 v.toNat)) a 8) = v.toNat := by
  have hbytes := bytesAt_setBytes hm a (bytesOfNum 8 v.toNat)
  rw [length_bytesOfNum] at hbytes
  rw [hbytes, numBytes_bytesOfNum]
  exact Nat.mod_eq_of_lt v.isLt

end Sys2Proof.Machine
end

section
/-! SUPPORT. The management words, flow, temperature and clocks take effect (R504, R505, R509 to R511, R513). -/

namespace Sys2Proof.Machine

open Sys2Proof

/-! The writes of the management words. -/

/-- Package p alone changes, to z: nothing else that the host or a core sees. -/
def State.becomes (s : State) (p : Nat) (z : Pkg) (u : State) : Prop := u.pkg p = z ∧ (∀ m, m ≠ p → u.pkg m = s.pkg m) ∧ s.standsAs u

section
variable {s : State} {p d : Nat}

theorem State.modPkg_becomes (f : Pkg → Pkg) : s.becomes p (f (s.pkg p)) (s.modPkg p f) :=
  ⟨s.modPkg_pkg_same p f, fun m hm => s.modPkg_pkg_other p m f hm, s.modPkg_standsAs p f⟩

theorem State.becomes_slow {z : Pkg} {u : State} (h : s.becomes p z u) (d : Nat) : s.becomes p z (u.slow d) :=
  ⟨h.1, h.2.1, State.standsAs_trans h.2.2 (u.slow_standsAs d)⟩

section
variable {v : Word} (hup : s.mgmtUp p = true)
include hup

theorem answers_pcapWrite {k : Nat} (hk : k < 2) : answers (.pcapWrite p k v) s fun u =>
    s.standsAs u ∧ u.serv (2 * p + k) = { s.serv (2 * p + k) with pcap := max 200 (min 640 (v.toNat % 2 ^ 10)) } := by
  refine ⟨s.modServ (2 * p + k) fun x => { x with pcap := max 200 (min 640 (bits v 0 10)) }, ?_, s.modServ_standsAs _ _, ?_⟩
  · rw [exec_pcapWrite, execPcapWrite, if_pos hup, Nat.mod_eq_of_lt hk]
  · rw [State.modServ_serv_same, bits_zero_ten]

theorem answers_swcapWrite (h1 : 50 ≤ v.toNat % 2 ^ 10) (h2 : v.toNat % 2 ^ 10 ≤ 300) :
    answers (.swcapWrite p v) s (s.becomes p { s.pkg p with swcap := v.toNat % 2 ^ 10 }) := by
  refine ⟨_, ?_, State.modPkg_becomes fun x => { x with swcap := v.toNat % 2 ^ 10 }⟩
  rw [exec_swcapWrite, execSwcapWrite, bits_zero_ten, hup, Bool.not_true, if_neg Bool.false_ne_true, if_pos ⟨h1, h2⟩]

theorem answers_clkforceWrite : answers (.clkforceWrite p v) s (s.becomes p { s.pkg p with clkforce := v.toNat % 2 ^ 4 }) := by
  refine ⟨_, ?_, State.becomes_slow (State.becomes_slow (State.modPkg_becomes fun x => { x with clkforce := v.toNat % 2 ^ 4 }) (2 * p)) (2 * p + 1)⟩
  simp [execClkforceWrite, hup, bits, fld]

theorem answers_apbaseWrite : answers (.apbaseWrite p v) s (s.becomes p { s.pkg p with apbase := v.toNat % 2 ^ 6 }) := by
  refine ⟨_, ?_, State.modPkg_becomes fun x => { x with apbase := v.toNat % 2 ^ 6 }⟩
  simp [execApbaseWrite, hup, bits, fld]

theorem answers_mgmtintWrite : answers (.mgmtintWrite p v) s fun u =>
    s.standsAs u ∧ ∀ b, (u.pkg p).mgmtint.testBit b = ((s.pkg p).mgmtint.testBit b && !v.toNat.testBit b) := by
  refine ⟨s.modPkg p fun x => { x with mgmtint := x.mgmtint - (x.mgmtint &&& v.toNat) }, ?_, s.modPkg_standsAs p _, fun b => ?_⟩
  · rw [exec_mgmtintWrite, execMgmtintWrite, if_pos hup]
  · rw [State.modPkg_pkg_same]
    exact testBit_sub_and ..

omit hup in
theorem State.markLost_standsAs (q : Nat) : s.standsAs (s.markLost q) := by
  unfold State.markLost
  split
  · exact s.standsAs_refl
  · exact State.standsAs_trans (State.standsAs_of_parts rfl rfl rfl rfl) (State.attentionAll_standsAs _ 3)

omit hup in
/-- A package that is marked lost is lost, besides those that were. -/
theorem State.markLost_lost (q r : Nat) : (s.markLost q).lost.testBit r = (s.lost.testBit r || decide (r = q)) := by
  unfold State.markLost
  split
  next h =>
    by_cases hr : r = q
    · simp [hr, h]
    · simp [hr]
  next h =>
    rw [State.attentionAll_keeps _ 3 State.lost fun _ _ => rfl]
    exact testBit_add_two_pow (Bool.eq_false_iff.2 h) r

theorem answers_lostWrite : answers (.lostWrite p v) s fun u => s.standsAs u ∧
    ∀ q, q < 64 → (u.lost.testBit q = true ↔ s.lost.testBit q = true ∨ (2 ^ 63 ≤ v.toNat ∧ q = v.toNat % 2 ^ 6)) := by
  have hstep : exec (.lostWrite p v) s = .next (if v.toNat.testBit 63 then s.markLost (v.toNat % 2 ^ 6) else s) := by
    simp [execLostWrite, hup, bits, fld]
  refine ⟨_, hstep, ?_, fun q _ => ?_⟩
  · split
    · exact State.markLost_standsAs _
    · exact s.standsAs_refl
  · rw [← testBit_top]
    split
    next h => simp [State.markLost_lost, h]
    next h => simp [h]

/-- A word of the network addresses lies in its block. -/
theorem exec_netaddrWrite_at {off : Nat} (h1 : 0x100 ≤ off) (h2 : off < 0x180) (h8 : off % 8 = 0) : exec (.netaddrWrite p off v) s = .next
    (if (s.net (2 * p + (off - 0x100) / 0x40)).qps.isEmpty
      then s.modPkg p fun x => { x with netaddr := setBytes x.netaddr (off - 0x100) (bytesOfNum 8 v.toNat) } else s.dropHost p) := by
  have hlow : ¬ off < 0x100 := by omega
  have hhigh : ¬ 0x180 ≤ off := by omega
  simp only [exec_netaddrWrite, execNetaddrWrite, hup, h8, hlow, hhigh, State.net, decide_false, Bool.not_true, Bool.or_self, bne_self_eq_false,
    Bool.false_eq_true, if_false]
  by_cases hqp : (tget {} s.nets (2 * p + (off - 0x100) / 0x40) : NetEng).qps.isEmpty = true
  · simp only [hqp, Bool.not_true, Bool.false_eq_true, if_true, if_false]
  · simp only [hqp, Bool.not_false, Bool.false_eq_true, if_true, if_false]

theorem answers_netaddrWrite {off : Nat} (h1 : 0x100 ≤ off) (h2 : off < 0x180) (h8 : off % 8 = 0)
    (hqp : (s.net (2 * p + (off - 0x100) / 0x40)).qps = []) (hwf : Memory.wf (s.pkg p).netaddr = true) :
    answers (.netaddrWrite p off v) s fun u => s.standsAs u ∧ numBytes (bytesAt (u.pkg p).netaddr (off - 0x100) 8) = v.toNat := by
  refine ⟨_, exec_netaddrWrite_at hup h1 h2 h8, ?_⟩
  rw [hqp, List.isEmpty_nil, if_pos rfl]
  refine ⟨s.modPkg_standsAs p _, ?_⟩
  rw [State.modPkg_pkg_same]
  exact numBytes_setBytes hwf _ v

theorem answers_netaddrWrite_held {off : Nat} (h1 : 0x100 ≤ off) (h2 : off < 0x180) (h8 : off % 8 = 0)
    (hqp : (s.net (2 * p + (off - 0x100) / 0x40)).qps ≠ []) :
    answers (.netaddrWrite p off v) s (s.becomes p { s.pkg p with mgmtstat := countUp (s.pkg p).mgmtstat 32 32 1 }) := by
  refine ⟨_, exec_netaddrWrite_at hup h1 h2 h8, ?_⟩
  rw [if_neg fun h => hqp (List.isEmpty_iff.1 h)]
  exact State.modPkg_becomes fun x => { x with mgmtstat := countUp x.mgmtstat 32 32 1 }

end

/-! The walk store and the edge ports. -/

theorem exec_walkStoreWrite_at {off : Nat} {v : Word} (hup : s.hostUp (d / 2) = true) (h1 : off < 65536) (h8 : off % 8 = 0) :
    exec (.walkStoreWrite d off v) s = .next (if s.dieBusy d then s.dropHost (d / 2)
      else { s with walkStore := tmod [] s.walkStore d fun m => setBytes m off (bytesOfNum 8 v.toNat) }) := by
  have hhigh : ¬ 65536 ≤ off := by omega
  simp only [exec_walkStoreWrite, execWalkStoreWrite, hup, h8, hhigh, decide_false, Bool.not_true, Bool.or_self, bne_self_eq_false, Bool.false_eq_true,
    if_false]
  cases s.dieBusy d with
  | false => rfl
  | true => rfl

theorem answers_walkStoreWrite {off : Nat} {v : Word} (hup : s.hostUp (d / 2) = true) (h1 : off < 65536) (h8 : off % 8 = 0)
    (hidle : s.dieBusy d = false) (hwf : Memory.wf (tget [] s.walkStore d) = true) : answers (.walkStoreWrite d off v) s fun u =>
      s.standsAs u ∧ numBytes (bytesAt (tget [] u.walkStore d) off 8) = v.toNat := by
  refine ⟨_, exec_walkStoreWrite_at hup h1 h8, ?_⟩
  rw [hidle, if_neg Bool.false_ne_true]
  refine ⟨State.standsAs_of_parts rfl rfl rfl rfl, ?_⟩
  rw [tget_tmod_same]
  exact numBytes_setBytes hwf off v

theorem answers_walkStoreWrite_busy {off : Nat} {v : Word} (hup : s.hostUp (d / 2) = true) (h1 : off < 65536) (h8 : off % 8 = 0)
    (hbusy : s.dieBusy d = true) : answers (.walkStoreWrite d off v) s fun u => s.standsAs u ∧ u.walkStore = s.walkStore ∧
      u.pkg (d / 2) = { s.pkg (d / 2) with mgmtstat := countUp (s.pkg (d / 2)).mgmtstat 32 32 1 } := by
  refine ⟨_, exec_walkStoreWrite_at hup h1 h8, ?_⟩
  rw [if_pos hbusy]
  exact ⟨s.modPkg_standsAs _ _, rfl, s.modPkg_pkg_same _ _⟩

theorem answers_edgectlWrite {k : Nat} {v : Word} (hp : p < 64) (hup : s.hostUp p = true) (hk : k < 16) : answers (.edgectlWrite k v) s fun u =>
    s.standsAs u ∧ tfind u.edge k = some (v.toNat % 2 ^ 8) := by
  have hany : (span 0 64).any s.hostUp = true := List.any_eq_true.2 ⟨p, (mem_span 0 64 p).2 ⟨Nat.zero_le p, by omega⟩, hup⟩
  refine ⟨{ s with edge := tput s.edge k (bits v 0 8) }, ?_, State.standsAs_of_parts rfl rfl rfl rfl, ?_⟩
  · rw [exec_edgectlWrite, execEdgectlWrite, hany, decide_eq_true hk]
    rfl
  · rw [tfind_tput_same]
    simp [bits, fld]

/-! Flow, temperature and clocks. -/

/-- A die of a package that has power is among those that throttle. -/
theorem State.mem_poweredDies (hd : d < 128) (hon : (s.pkg (d / 2)).boot ≠ .off) : d ∈ s.poweredDies := by
  have hp : d / 2 ∈ span 0 64 := (mem_span 0 64 _).2 ⟨Nat.zero_le _, by omega⟩
  refine List.mem_flatMap.2 ⟨d / 2, List.mem_filter.2 ⟨hp, by simpa using hon⟩, ?_⟩
  have hcase : d = 2 * (d / 2) ∨ d = 2 * (d / 2) + 1 := by omega
  simpa using hcase

/-- Every powered die slows down. -/
def State.slowAll (s : State) : State := s.poweredDies.foldl State.slow s

theorem State.slowAll_standsAs : s.standsAs s.slowAll := State.standsAs_foldl (fun s d => s.slow_standsAs d) _ s

theorem State.slowAll_keeps {γ : Type} (f : State → γ) (h : ∀ (s : State) d, f (s.slow d) = f s) : f s.slowAll = f s := foldl_keeps f _ h _ s

theorem State.slowAll_step (hd : d < 128) (hon : (s.pkg (d / 2)).boot ≠ .off) (hflow : s.flowThrottle = true) : 5 ≤ (s.slowAll.serv d).step := by
  refine foldl_reaches (f := State.slow) (I := fun u => State.flowThrottle u = true) (Q := fun u => 5 ≤ (State.serv u d).step) (fun _ _ h => h)
    (fun u h => u.slow_throttled d ?_) (fun u e h => h.trans (u.slow_step_le e d)) (State.mem_poweredDies hd hon) hflow
  rw [State.throttled, h]
  rfl

/-- The flow that is measured, and whether it throttles. -/
def State.withFlow (s : State) (flow : Nat) : State :=
  { s with
    flow, flowThrottle := s.flowThrottle || decide (flow < 120)
    flowSince := if flow < 130 then none else match s.flowSince with
      | some t => some t
      | none => some s.time }

/-- What the flow that is measured does to the panel. -/
def State.onFlow (s : State) (flow : Nat) : State :=
  if flow < 120 then (s.withFlow flow).slowAll else if flow < 160 then (s.withFlow flow).attentionAll 1 else s.withFlow flow

theorem exec_coolantFlowChange_eq (s : State) (flow : Nat) : exec (.coolantFlowChange flow) s = .next (s.onFlow flow) := by
  have hstep : exec (.coolantFlowChange flow) s = .next
      (if flow < 120 then (if 120 ≤ flow ∧ flow < 160 then (s.withFlow flow).attentionAll 1 else s.withFlow flow).slowAll
        else if 120 ≤ flow ∧ flow < 160 then (s.withFlow flow).attentionAll 1 else s.withFlow flow) := rfl
  rw [hstep, State.onFlow]
  by_cases hlow : flow < 120
  · rw [if_pos hlow, if_pos hlow, if_neg (by omega)]
  · rw [if_neg hlow, if_neg hlow]
    simp only [Nat.not_lt.1 hlow, true_and]

theorem State.onFlow_standsAs (flow : Nat) : s.standsAs (s.onFlow flow) := by
  have hset : s.standsAs (s.withFlow flow) := State.standsAs_of_parts rfl rfl rfl rfl
  unfold State.onFlow
  split
  · exact State.standsAs_trans hset State.slowAll_standsAs
  · split
    · exact State.standsAs_trans hset (State.attentionAll_standsAs _ 1)
    · exact hset

/-- What neither a step nor a bit of MGMTINT changes is as the measured flow leaves it. -/
theorem State.onFlow_keeps {γ : Type} (f : State → γ) (flow : Nat) (hslow : ∀ (s : State) d, f (s.slow d) = f s)
    (hbit : ∀ (s : State) q, f (s.attention q 1) = f s) : f (s.onFlow flow) = f (s.withFlow flow) := by
  unfold State.onFlow
  split
  · exact State.slowAll_keeps f hslow
  · split
    · exact State.attentionAll_keeps _ 1 f hbit
    · rfl

theorem answers_coolantFlowChange (flow : Nat) (hp : p < 64) (hd : d < 128) : answers (.coolantFlowChange flow) s fun u =>
    s.standsAs u ∧ u.flow = flow ∧ (u.flowThrottle = true ↔ s.flowThrottle = true ∨ flow < 120) ∧
    (flow < 120 → (s.pkg (d / 2)).boot ≠ .off → 5 ≤ (u.serv d).step) ∧
    (120 ≤ flow → flow < 160 → (s.pkg p).boot ≠ .off → (u.pkg p).mgmtint.testBit 1 = true) := by
  refine ⟨_, exec_coolantFlowChange_eq s flow, State.onFlow_standsAs flow, State.onFlow_keeps State.flow flow (fun _ _ => rfl) fun _ _ => rfl, ?_,
    fun hlow hon => ?_, fun h1 h2 hon => ?_⟩
  · rw [State.onFlow_keeps State.flowThrottle flow (fun _ _ => rfl) fun _ _ => rfl]
    simp [State.withFlow]
  · rw [State.onFlow, if_pos hlow]
    exact State.slowAll_step hd hon (by simp [State.withFlow, hlow])
  · rw [State.onFlow, if_neg (by omega), if_pos h2]
    exact State.attentionAll_rises _ p 1 hp hon

theorem answers_flowRecoveryTimer : answers .flowRecoveryTimer s fun u => s.standsAs u ∧ u = { s with flowThrottle := u.flowThrottle } ∧
    (u.flowThrottle = true ↔ s.flowThrottle = true ∧ ¬ (130 ≤ s.flow ∧ ∃ t, s.flowSince = some t ∧ t + 1000000000 ≤ s.time)) := by
  refine ⟨_, exec_flowRecoveryTimer s, ?_⟩
  split
  next t hsince =>
    split
    next h => exact ⟨State.standsAs_of_parts rfl rfl rfl rfl, rfl, by simp_all⟩
    next h => exact ⟨s.standsAs_refl, rfl, by simp_all⟩
  next hsince => exact ⟨s.standsAs_refl, rfl, by simp [hsince]⟩

theorem answers_junctionTemperatureChange (temp : Nat) (hd : d < 128) : answers (.junctionTemperatureChange d temp) s fun u =>
    s.standsAs u ∧ (u.serv d).temp = temp ∧ (105 ≤ temp → (u.serv d).hot = true ∧ 5 ≤ (u.serv d).step) ∧
    (temp ≤ 100 → (u.serv d).hot = false) ∧ (100 < temp → temp < 105 → (u.serv d).hot = (s.serv d).hot) := by
  have hstep : exec (.junctionTemperatureChange d temp) s = .next ((s.modServ d fun x =>
      { x with temp, hot := if 105 ≤ temp then true else if temp ≤ 100 then false else x.hot }).slow d) := by
    rw [exec_junctionTemperatureChange, execJunctionTemperatureChange, if_neg (by omega)]
  have hserv := s.modServ_serv_same d fun x => { x with temp, hot := if 105 ≤ temp then true else if temp ≤ 100 then false else x.hot }
  have hstands := s.modServ_standsAs d fun x => { x with temp, hot := if 105 ≤ temp then true else if temp ≤ 100 then false else x.hot }
  refine ⟨_, hstep, State.standsAs_trans hstands (State.slow_standsAs _ d), ?_⟩
  generalize s.modServ d _ = v at hserv
  have hhot : ((v.slow d).serv d).hot = (v.serv d).hot := by rw [State.slow_serv_same]
  have htemp : ((v.slow d).serv d).temp = (v.serv d).temp := by rw [State.slow_serv_same]
  rw [hhot, htemp, hserv]
  refine ⟨rfl, fun h => ⟨if_pos h, v.slow_throttled d ?_⟩, fun h => ?_, fun h1 h2 => ?_⟩
  · rw [State.throttled, hserv]
    simp [h]
  · simp [show ¬ 105 ≤ temp by omega, h]
  · simp [show ¬ 105 ≤ temp by omega, show ¬ temp ≤ 100 by omega]

/-- A die's step after it has asked for one. -/
theorem answers_clockStepChange (step : Nat) (hd : d < 128) : answers (.clockStepChange d step) s fun u =>
    s.standsAs u ∧ u.serv d = { s.serv d with step := max (min 5 step) (s.stepFloor d) } ∧
    (5 < step → (u.pkg (d / 2)).mgmtint.testBit 2 = true) := by
  have hserv := s.modServ_serv_same d fun x => { x with step := max (min 5 step) (s.stepFloor d) }
  have hstands := s.modServ_standsAs d fun x => { x with step := max (min 5 step) (s.stepFloor d) }
  have hstep : exec (.clockStepChange d step) s = .next (if 5 < step
      then (s.modServ d fun x => { x with step := max (min 5 step) (s.stepFloor d) }).attention (d / 2) 2
      else s.modServ d fun x => { x with step := max (min 5 step) (s.stepFloor d) }) := by
    rw [exec_clockStepChange, execClockStepChange, if_neg (by omega)]
  refine ⟨_, hstep, ?_⟩
  split
  next h => exact ⟨State.standsAs_trans hstands (State.attention_standsAs _ _ 2), hserv, fun _ => State.attention_rises _ _ 2⟩
  next h => exact ⟨hstands, hserv, fun h' => absurd h' h⟩

end

end Sys2Proof.Machine
end

section
/-! SUPPORT. A kill tears down every weave of its context (R176, R511). -/

namespace Sys2Proof.Machine

open Sys2Proof

theorem bytesKept_foldl {α : Type} {f : State → α → State} (hf : ∀ (s : State) (a : α), bytesKept s (f s a)) (l : List α) (s : State) :
    bytesKept s (l.foldl f s) := by
  induction l generalizing s with
  | nil => exact bytesKept_refl s
  | cons a l ih => exact bytesKept_trans (hf s a) (ih _)

section
variable {s : State}

/-- Core c goes on after a halt. -/
def State.goFree (s : State) (c : Nat) : State := (s.modCore c fun k => { k with frozen := none, stepOwed := none }).freeSignals c

theorem State.goFree_bytes (c : Nat) : bytesKept s (s.goFree c) :=
  bytesKept_trans (bytesKept_modCore s c (fun k => { k with frozen := none, stepOwed := none }) ⟨rfl, rfl, rfl, rfl⟩)
    (bytesKept_of_parts _ _ rfl rfl rfl)

/-- A debug slot after a kill. -/
def HSlot.killed (sl : HSlot) : HSlot := { sl with halting := false, settled := false, resuming := false, teardown := none }

/-- The state with debug slot h as a kill leaves it. -/
def State.dropHalt (s : State) (h : Nat) : State := { s with hslots := tmod {} s.hslots h HSlot.killed }

theorem State.unhalt_eq (w : Weave) : s.unhalt w = match w.hslot with
    | none => s
    | some h => ((s.dropHalt h).coresOf w).foldl State.goFree (s.dropHalt h) := rfl

theorem State.unhalt_kept (w : Weave) : bytesKept s (s.unhalt w) ∧ (s.unhalt w).weaves = s.weaves := by
  rw [State.unhalt_eq]
  cases w.hslot with
  | none => exact ⟨bytesKept_refl s, rfl⟩
  | some h =>
    have hdrop : bytesKept s (s.dropHalt h) := bytesKept_of_parts _ _ rfl rfl rfl
    exact ⟨bytesKept_trans hdrop (bytesKept_foldl (fun s c => State.goFree_bytes c) _ _), foldl_keeps State.weaves State.goFree (fun _ _ => rfl) _ _⟩

/-- What a weave that is torn down holds of groups, trackers, queue pairs and NMUs is freed. -/
def State.freeAll (s : State) (w : Nat) : State := (((s.freeGroups w).freeTrackers w).freeNet w).freeNmus w

theorem State.freeAll_standsAs (w : Nat) : s.standsAs (s.freeAll w) := by
  have hgroups : s.standsAs (s.freeGroups w) := State.standsAs_of_parts rfl rfl rfl rfl
  have htrackers : ∀ u : State, u.standsAs (u.freeTrackers w) := fun u => State.standsAs_of_parts rfl rfl rfl rfl
  have hnet : ∀ u : State, u.standsAs (u.freeNet w) := fun u => State.standsAs_of_parts rfl rfl rfl rfl
  have hnmus : ∀ u : State, u.standsAs (u.freeNmus w) := fun u => State.standsAs_of_parts rfl rfl rfl rfl
  exact State.standsAs_trans (State.standsAs_trans (State.standsAs_trans hgroups (htrackers _)) (hnet _)) (hnmus _)

/-- A weave as its teardown leaves it: the first decides. -/
def Weave.fallen (x : Weave) (status : Nat) (r : Report) : Weave := if x.torn then x else { x with torn := true, status, report := r }

theorem State.tearDown_eq (w status : Nat) (r : Report) : s.tearDown w status r = (s.modWeave w fun x => x.fallen status r).freeAll w := rfl

theorem State.modWeave_bytes (w : Nat) (f : Weave → Weave) : bytesKept s (s.modWeave w f) := by
  unfold State.modWeave
  split
  · exact bytesKept_of_parts _ _ rfl rfl rfl
  · exact bytesKept_refl s

theorem State.modWeave_weave_other {w m : Nat} (f : Weave → Weave) (h : m ≠ w) : tfind (s.modWeave w f).weaves m = tfind s.weaves m := by
  unfold State.modWeave
  split
  · exact tfind_tput_other _ _ _ _ h
  · rfl

theorem State.tearDown_bytes (w status : Nat) (r : Report) : bytesKept s (s.tearDown w status r) := by
  rw [State.tearDown_eq]
  exact bytesKept_trans (State.modWeave_bytes ..) (State.freeAll_standsAs w).2.2

theorem State.tearDown_weaves (w status : Nat) (r : Report) : (s.tearDown w status r).weaves = (s.modWeave w fun x => x.fallen status r).weaves := by
  rw [State.tearDown_eq]
  exact (State.freeAll_standsAs w).2.1

/-- A weave is killed. -/
def State.kill (s : State) (w : Weave) : State := (s.unhalt w).tearDown w.id 12 {}

theorem State.kill_bytes (w : Weave) : bytesKept s (s.kill w) := bytesKept_trans (State.unhalt_kept w).1 (State.tearDown_bytes ..)

/-- Weave w exists, and where it is being torn down it is with KILLED. -/
def State.fellByKill (s : State) (w : Nat) : Prop := ∃ z, tfind s.weaves w = some z ∧ (z.torn = true → z.status = 12)

/-- Weave w is being torn down with KILLED. -/
def State.killed (s : State) (w : Nat) : Prop := ∃ z, tfind s.weaves w = some z ∧ z.torn = true ∧ z.status = 12

theorem State.kill_self {x : Weave} (h : s.fellByKill x.id) : (s.kill x).killed x.id := by
  obtain ⟨z, hz, hstatus⟩ := h
  have hz' : tfind (s.unhalt x).weaves x.id = some z := by rw [(State.unhalt_kept x).2, hz]
  refine ⟨z.fallen 12 {}, ?_, ?_⟩
  · rw [State.kill, State.tearDown_weaves]
    exact State.tfind_modWeave _ hz'
  · unfold Weave.fallen
    split
    next htorn => exact ⟨htorn, hstatus htorn⟩
    next => exact ⟨rfl, rfl⟩

theorem State.kill_other {x : Weave} {w : Nat} (h : w ≠ x.id) : tfind (s.kill x).weaves w = tfind s.weaves w := by
  rw [State.kill, State.tearDown_weaves, State.modWeave_weave_other _ h, (State.unhalt_kept x).2]

theorem State.fellByKill_of_killed {w : Nat} (h : s.killed w) : s.fellByKill w := h.imp fun _ hz => ⟨hz.1, fun _ => hz.2.2⟩

theorem State.kill_keeps_killed {w : Nat} (x : Weave) (h : s.killed w) : (s.kill x).killed w := by
  by_cases hw : w = x.id
  · subst hw
    exact State.kill_self (State.fellByKill_of_killed h)
  · rwa [State.killed, State.kill_other hw]

theorem State.kill_keeps_fellByKill {w : Nat} (x : Weave) (h : s.fellByKill w) : (s.kill x).fellByKill w := by
  by_cases hw : w = x.id
  · subst hw
    exact State.fellByKill_of_killed (State.kill_self h)
  · rwa [State.fellByKill, State.kill_other hw]

/-- The weaves that a kill of context ctx finds. -/
def State.killable (s : State) (ctx : Nat) : List Weave :=
  (s.weaves.filter fun e => e.2.ctx == ctx && !e.2.torn && e.2.st != .ended).map fun e => e.2

theorem exec_killWrite_eq {p : Nat} {v : Word} (hup : s.mgmtUp p = true) : exec (.killWrite p v) s = .next
    (if (s.killable (v.toNat % 2 ^ 16)).isEmpty then s.modPkg p fun x => { x with mgmtstat := countUp x.mgmtstat 16 16 1 }
      else (s.killable (v.toNat % 2 ^ 16)).foldl State.kill s) := by
  have hctx : bits v 0 16 = v.toNat % 2 ^ 16 := by simp [bits, fld]
  rw [exec_killWrite, execKillWrite, hctx, hup, Bool.not_true, if_neg Bool.false_ne_true, apply_ite Host.Outcome.next]
  rfl

/-- A kill that finds no weave counts. -/
theorem answers_killWrite_none {p : Nat} {v : Word} (hup : s.mgmtUp p = true)
    (h : ∀ e ∈ s.weaves, e.2.ctx = v.toNat % 2 ^ 16 → e.2.torn = true ∨ e.2.st = .ended) :
    answers (.killWrite p v) s (s.becomes p { s.pkg p with mgmtstat := countUp (s.pkg p).mgmtstat 16 16 1 }) := by
  have hnone : s.killable (v.toNat % 2 ^ 16) = [] := by
    refine List.map_eq_nil_iff.2 (List.filter_eq_nil_iff.2 fun e he hsel => ?_)
    simp only [Bool.and_eq_true, beq_iff_eq, Bool.not_eq_true', bne_iff_ne] at hsel
    obtain ⟨⟨hctx, htorn⟩, hst⟩ := hsel
    exact (h e he hctx).elim (fun ht => by simp [ht] at htorn) hst
  refine ⟨_, exec_killWrite_eq hup, ?_⟩
  rw [hnone, List.isEmpty_nil, if_pos rfl]
  exact State.modPkg_becomes fun x => { x with mgmtstat := countUp x.mgmtstat 16 16 1 }

/-- A kill tears down each weave of its context. -/
theorem answers_killWrite {p w : Nat} {z : Weave} {v : Word} (hup : s.mgmtUp p = true) (hz : tfind s.weaves w = some z) (hid : z.id = w)
    (hctx : z.ctx = v.toNat % 2 ^ 16) (htorn : z.torn = false) (hst : z.st ≠ .ended) :
    answers (.killWrite p v) s fun u => bytesKept s u ∧ u.killed w := by
  subst hid
  have hmem : z ∈ s.killable (v.toNat % 2 ^ 16) :=
    List.mem_map.2 ⟨(z.id, z), List.mem_filter.2 ⟨mem_of_tfind hz, by simp [hctx, htorn, hst]⟩, rfl⟩
  refine ⟨_, exec_killWrite_eq hup, ?_⟩
  rw [if_neg fun h => List.ne_nil_of_mem hmem (List.isEmpty_iff.1 h)]
  exact ⟨bytesKept_foldl (fun _ x => State.kill_bytes x) _ s, foldl_reaches (f := State.kill) (I := fun u => State.fellByKill u z.id)
    (Q := fun u => State.killed u z.id) (fun _ x h => State.kill_keeps_fellByKill x h) (fun _ h => State.kill_self h)
    (fun _ x h => State.kill_keeps_killed x h) hmem ⟨z, hz, fun h => by rw [htorn] at h; cases h⟩⟩

end

end Sys2Proof.Machine
end

section
/-! SUPPORT. The host's accesses to HBM through BAR4 (R136, R148, R502). -/

namespace Sys2Proof.Machine

open Sys2Proof

/-! The cells of a host write. -/

section
variable {f : Nat → Nat} {data : List Byte} {p : Nat → Bool}

/-- The bytes of data at the addresses that f gives, those that p leaves out excepted. -/
def cellsAt (f : Nat → Nat) (data : List Byte) (p : Nat → Bool) : List Host.Cell :=
  (((span 0 data.length).map f).zip data).filter fun x => p x.1

theorem cellsAt_keys_nodup (hf : ∀ i j, i < data.length → j < data.length → f i = f j → i = j) : ((cellsAt f data p).map Prod.fst).Nodup := by
  have hlen : ((span 0 data.length).map f).length ≤ data.length := by simp [span_eq_range']
  have hkeys : ((((span 0 data.length).map f).zip data).map Prod.fst).Nodup := by
    rw [List.map_fst_zip hlen]
    refine List.Nodup.map_on (fun i hi j hj => hf i j ?_ ?_) ?_
    · simpa using hi
    · simpa using hj
    · rw [span_eq_range']
      exact List.nodup_range'
  exact hkeys.sublist (List.filter_sublist.map Prod.fst)

theorem mem_cellsAt {e : Host.Cell} : e ∈ cellsAt f data p ↔ p e.1 = true ∧ ∃ i, f i = e.1 ∧ data[i]? = some e.2 := by
  rw [cellsAt, List.mem_filter, and_comm]
  refine and_congr_right fun _ => ?_
  rw [List.mem_iff_getElem?]
  refine exists_congr fun i => ?_
  rw [List.getElem?_zip_eq_some, span_eq_range', List.getElem?_map]
  constructor
  · rintro ⟨hkey, hbyte⟩
    obtain ⟨j, hj, hfj⟩ := Option.map_eq_some_iff.1 hkey
    obtain ⟨hi, hij⟩ := List.getElem?_eq_some_iff.1 hj
    rw [List.getElem_range'] at hij
    exact ⟨by rw [← hfj, ← hij]; congr 1; omega, hbyte⟩
  · rintro ⟨hkey, hbyte⟩
    have hi : i < data.length := (List.getElem?_eq_some_iff.1 hbyte).1
    exact ⟨by rw [List.getElem?_eq_getElem (by simpa using hi)]; simp [hkey], hbyte⟩

theorem tfind_cellsAt {i : Nat} {b : Byte} (hf : ∀ i j, i < data.length → j < data.length → f i = f j → i = j) (hb : data[i]? = some b)
    (hp : p (f i) = true) : tfind (cellsAt f data p) (f i) = some b :=
  tfind_of_mem (cellsAt_keys_nodup hf) (mem_cellsAt.2 ⟨hp, i, rfl, hb⟩)

theorem tfind_cellsAt_none {a : Nat} (h : ∀ i, i < data.length → a ≠ f i) : tfind (cellsAt f data p) a = none := by
  refine (tfind_eq_none_iff ..).2 fun e he hea => ?_
  obtain ⟨_, i, hfi, hbyte⟩ := mem_cellsAt.1 he
  exact h i (List.getElem?_eq_some_iff.1 hbyte).1 (hea.symm.trans hfi.symm)

end

/-! The addresses, and what a read leaves. -/

/-- BAR4 reaches each byte of the target's HBM at one offset. -/
theorem bar4Addr_injective {t m n : Nat} (hm : m < 2 ^ 39) (hn : n < 2 ^ 39) (h : bar4Addr t m = bar4Addr t n) : m = n := by
  unfold bar4Addr at h
  omega

theorem bytesKept_of_homeBytes {s u : State} (hc : u.cores = s.cores) (hb : u.banks = s.banks) (hh : ∀ a, u.homeByte a = s.homeByte a) :
    bytesKept s u := by
  have hcore : ∀ e, u.core e = s.core e := fun e => by simp only [State.core, hc]
  have hline : ∀ e line, u.l1Line e line = s.l1Line e line := fun e line => by
    unfold State.l1Line State.l1Core State.isFused State.core
    rw [hc]
  exact ⟨hh, fun a => by rw [hb], fun e a => by rw [hcore]; exact ⟨rfl, rfl⟩,
    fun e a => by simp only [State.nearByte, State.wideByte, hline, hh]; exact ⟨trivial, trivial⟩⟩

/-- A sector that its home fetches reads as in the banks. -/
theorem State.homeFetch_homeByte (s : State) (k a : Nat) : (s.homeFetch k).homeByte a = s.homeByte a := by
  unfold State.homeFetch
  split
  next => rfl
  next hnone =>
    by_cases hk : a / 32 = k
    · have ha : 32 * k + a % 32 = a := by omega
      simp only [State.homeByte, hk, tfind_tput_same, hnone]
      rw [getD_bytesAt _ _ _ (Nat.mod_lt _ (by decide)), ha]
    · simp only [State.homeByte, tfind_tput_other _ _ _ _ hk]

theorem State.homeFetch_bytes (s : State) (k : Nat) : bytesKept s (s.homeFetch k) := by
  refine bytesKept_of_homeBytes ?_ ?_ (s.homeFetch_homeByte k)
  · unfold State.homeFetch; split <;> rfl
  · unfold State.homeFetch; split <;> rfl

/-- A home fetch leaves what is not the homes. -/
theorem State.homeFetch_keeps {γ : Type} (g : State → γ) (h : ∀ (s : State) t, g { s with homes := t } = g s) (s : State) (k : Nat) :
    g (s.homeFetch k) = g s := by
  unfold State.homeFetch
  split
  · rfl
  · exact h ..

/-! The accesses. -/

section
variable {s : State} {p off : Nat} {data : List Byte}

/-- The address of byte i of a host access of package p at an offset. -/
def State.hostAddr (s : State) (p off i : Nat) : Nat := bar4Addr (s.pkg p).apbase (off + i)

/-- A line that the access meets is in the error-address table. -/
def State.hostMeetsError (s : State) (p off n : Nat) : Prop := ∃ i, i < n ∧ s.errorLine (s.hostAddr p off i / 128) = true

/-- The sectors of a host access. -/
def State.hostSectors (s : State) (p off n : Nat) : List Nat := (((span 0 n).map (s.hostAddr p off)).map fun a => a / 32).eraseDups

theorem State.hostSectors_error (n : Nat) : ((s.hostSectors p off n).any fun k => s.errorLine (k / 4)) = true ↔ s.hostMeetsError p off n := by
  have hline : ∀ a, a / 32 / 4 = a / 128 := fun a => Nat.div_div_eq_div_mul a 32 4
  simp [State.hostSectors, State.hostMeetsError, List.any_eq_true, hline]

variable (hup : s.hostUp p = true) (hon : (s.pkg (s.pkg p).apbase).boot ≠ .off) (hoff : off + data.length ≤ 2 ^ 39)
include hup hon hoff

theorem exec_hostWrite : exec (.hostMemoryAccess p true off data false) s =
    .next (s.homeWrite none (cellsAt (s.hostAddr p off) data fun a => !s.errorLine (a / 128))) := by
  have hfits : ¬ 2 ^ 39 < off + data.length := by omega
  have hpow : ((s.pkg (s.pkg p).apbase).boot == .off) = false := beq_eq_false_iff_ne.2 hon
  rw [exec_hostMemoryAccess, execHostMemoryAccess]
  simp only [hup, hpow, hfits, decide_false, Bool.not_true, Bool.or_self, Bool.false_eq_true, if_false, if_true]
  rfl

theorem exec_hostRead : exec (.hostMemoryAccess p false off data false) s =
    .next (if (s.hostSectors p off data.length).any fun k => s.errorLine (k / 4) then s.modPkg p fun x => { x with hostRead := .abort }
      else ((s.hostSectors p off data.length).foldl State.homeFetch s).modPkg p fun x =>
        { x with hostRead := .data (((span 0 data.length).map (s.hostAddr p off)).flatMap fun a => s.homeBytes a 1) }) := by
  have hfits : ¬ 2 ^ 39 < off + data.length := by omega
  have hpow : ((s.pkg (s.pkg p).apbase).boot == .off) = false := beq_eq_false_iff_ne.2 hon
  rw [exec_hostMemoryAccess, execHostMemoryAccess]
  simp only [hup, hpow, hfits, decide_false, Bool.not_true, Bool.or_self, Bool.false_eq_true, if_false]
  rfl

theorem answers_hostWrite (hok : homesOk s) : answers (.hostMemoryAccess p true off data false) s fun u =>
    (∀ i b, data[i]? = some b → s.errorLine (s.hostAddr p off i / 128) = false → u.homeByte (s.hostAddr p off i) = b) ∧
    ∀ a, (∀ i, i < data.length → a ≠ s.hostAddr p off i) → u.homeByte a = s.homeByte a := by
  have hinj : ∀ i j, i < data.length → j < data.length → s.hostAddr p off i = s.hostAddr p off j → i = j := fun i j hi hj h => by
    have := bar4Addr_injective (by omega) (by omega) h
    omega
  refine ⟨_, exec_hostWrite hup hon hoff, fun i b hb hgood => ?_, fun a ha => ?_⟩
  · rw [State.homeByte_homeWrite hok none (cellsAt_keys_nodup hinj), tfind_cellsAt hinj hb (by rw [hgood]; rfl)]
    rfl
  · rw [State.homeByte_homeWrite hok none (cellsAt_keys_nodup hinj), tfind_cellsAt_none ha]
    rfl

theorem answers_hostRead : answers (.hostMemoryAccess p false off data false) s fun u => bytesKept s u ∧ u.cores = s.cores ∧
    (s.hostMeetsError p off data.length → (u.pkg p).hostRead = .abort) ∧
    (¬ s.hostMeetsError p off data.length →
      (u.pkg p).hostRead = .data ((List.range data.length).map fun i => s.homeByte (s.hostAddr p off i))) := by
  refine ⟨_, exec_hostRead hup hon hoff, ?_⟩
  rw [← State.hostSectors_error]
  split
  next h =>
    obtain ⟨hcores, _, hbytes⟩ := s.modPkg_standsAs p fun x => { x with hostRead := .abort }
    exact ⟨hbytes, hcores, fun _ => by rw [State.modPkg_pkg_same], fun hno => absurd h hno⟩
  next h =>
    have hfetch : bytesKept s ((s.hostSectors p off data.length).foldl State.homeFetch s) := bytesKept_foldl State.homeFetch_bytes _ s
    have hcores : ((s.hostSectors p off data.length).foldl State.homeFetch s).cores = s.cores :=
      foldl_keeps State.cores State.homeFetch (State.homeFetch_keeps State.cores fun _ _ => rfl) _ s
    obtain ⟨hcores', _, hbytes⟩ := State.modPkg_standsAs ((s.hostSectors p off data.length).foldl State.homeFetch s) p fun x =>
      { x with hostRead := .data (((span 0 data.length).map (s.hostAddr p off)).flatMap fun a => s.homeBytes a 1) }
    refine ⟨bytesKept_trans hfetch hbytes, hcores'.trans hcores, fun hyes => absurd hyes h, fun _ => ?_⟩
    rw [State.modPkg_pkg_same, span_eq_range', ← List.range_eq_range', List.flatMap_map]
    exact congrArg HostCpl.data List.map_eq_flatMap.symm

end

end Sys2Proof.Machine
end

section
/-! SUPPORT. The hourly sample of a die: the least-squares line through its margins, and the hours it leaves (R512). -/

namespace Sys2Proof.Machine

open Sys2Proof

/-! The sums over the samples. -/

theorem sumsOf_eq (x : Nat) (ms : List Nat) : sumsOf x ms = ((List.range' x ms.length).sum, ((List.range' x ms.length).map fun i => i * i).sum, ms.sum,
    ((ms.zip (List.range' x ms.length)).map fun e => e.1 * e.2).sum) := by
  induction ms generalizing x with
  | nil => rfl
  | cons m ms ih => simp [sumsOf, ih, List.range'_succ, Nat.mul_comm x m]

section
variable (ms : List Nat)

/-- The sums of the line's formula, over the samples numbered from 0. -/
def ageX : Int := ((List.range ms.length).map fun (i : Nat) => (i : Int)).sum
def ageXX : Int := ((List.range ms.length).map fun (i : Nat) => (i : Int) * i).sum
def ageY : Int := (ms.map fun (i : Nat) => (i : Int)).sum
def ageXY : Int := ((ms.zip (List.range ms.length)).map fun (e : Nat × Nat) => (e.1 : Int) * e.2).sum

/-- The line's slope, times its denominator. -/
def ageSlope : Int := ms.length * ageXY ms - ageX ms * ageY ms

/-- The denominator of the line's slope. -/
def ageDen : Int := ms.length * ageXX ms - ageX ms * ageX ms

theorem sumsOf_casts : ((sumsOf 0 ms).1 : Int) = ageX ms ∧ ((sumsOf 0 ms).2.1 : Int) = ageXX ms ∧ ((sumsOf 0 ms).2.2.1 : Int) = ageY ms ∧
    ((sumsOf 0 ms).2.2.2 : Int) = ageXY ms := by
  rw [sumsOf_eq, ← List.range_eq_range']
  simp only [ageX, ageXX, ageY, ageXY, Nat.cast_list_sum, List.map_map, Function.comp_def, Nat.cast_mul, and_self]

theorem two_mul_sum_range (n : Nat) : 2 * ((List.range n).map fun (i : Nat) => (i : Int)).sum = (n : Int) * (n - 1) := by
  induction n with
  | zero => rfl
  | succ n ih =>
    rw [List.range_succ, List.map_append, List.sum_append, mul_add, ih]
    simp only [List.map_cons, List.map_nil, List.sum_cons, List.sum_nil]
    push_cast
    ring

theorem six_mul_sum_squares (n : Nat) : 6 * ((List.range n).map fun (i : Nat) => (i : Int) * i).sum = (n : Int) * (n - 1) * (2 * n - 1) := by
  induction n with
  | zero => rfl
  | succ n ih =>
    rw [List.range_succ, List.map_append, List.sum_append, mul_add, ih]
    simp only [List.map_cons, List.map_nil, List.sum_cons, List.sum_nil]
    push_cast
    ring

/-- The denominator by the number of samples alone. -/
theorem twelve_mul_ageDen : 12 * ageDen ms = (ms.length : Int) ^ 2 * ((ms.length : Int) ^ 2 - 1) := by
  have h1 : 2 * ageX ms = (ms.length : Int) * (ms.length - 1) := two_mul_sum_range _
  have h2 : 6 * ageXX ms = (ms.length : Int) * (ms.length - 1) * (2 * ms.length - 1) := six_mul_sum_squares _
  rw [ageDen]
  linear_combination 2 * (ms.length : Int) * h2 - 3 * (2 * ageX ms + (ms.length : Int) * (ms.length - 1)) * h1

theorem ageDen_pos (h : 2 ≤ ms.length) : 0 < ageDen ms := by
  have hn : (2 : Int) ≤ ms.length := by exact_mod_cast h
  have hsq : (4 : Int) ≤ (ms.length : Int) ^ 2 := by nlinarith
  have hprod : 0 < (ms.length : Int) ^ 2 * ((ms.length : Int) ^ 2 - 1) := mul_pos (by omega) (by omega)
  have hden := twelve_mul_ageDen ms
  omega

variable {ms}

/-- A line through fewer than two samples does not fall. -/
theorem two_le_of_falling (h : ageSlope ms < 0) : 2 ≤ ms.length := by
  match ms, h with
  | [], h => simp [ageSlope, ageX, ageY, ageXY] at h
  | [m], h => simp [ageSlope, ageX, ageY, ageXY] at h
  | _ :: _ :: _, _ => simp

/-- The fall that the model computes, where the line falls. -/
theorem ageFall_eq (h : ageSlope ms < 0) :
    (((sumsOf 0 ms).1 * (sumsOf 0 ms).2.2.1 - ms.length * (sumsOf 0 ms).2.2.2 : Nat) : Int) = -ageSlope ms := by
  obtain ⟨hx, _, hy, hxy⟩ := sumsOf_casts ms
  rw [ageSlope, ← hx, ← hy, ← hxy] at h ⊢
  have hle : ms.length * (sumsOf 0 ms).2.2.2 ≤ (sumsOf 0 ms).1 * (sumsOf 0 ms).2.2.1 := by
    have hlt := sub_neg.1 h
    exact_mod_cast hlt.le
  rw [Nat.cast_sub hle]
  push_cast
  ring

theorem ageFall_zero (h : 0 ≤ ageSlope ms) : (sumsOf 0 ms).1 * (sumsOf 0 ms).2.2.1 - ms.length * (sumsOf 0 ms).2.2.2 = 0 := by
  obtain ⟨hx, _, hy, hxy⟩ := sumsOf_casts ms
  rw [ageSlope, ← hx, ← hy, ← hxy] at h
  have hle := sub_nonneg.1 h
  exact Nat.sub_eq_zero_of_le (by exact_mod_cast hle)

theorem ageDen_eq (h : 0 < ageDen ms) : ((ms.length * (sumsOf 0 ms).2.1 - (sumsOf 0 ms).1 * (sumsOf 0 ms).1 : Nat) : Int) = ageDen ms := by
  obtain ⟨hx, hxx, _, _⟩ := sumsOf_casts ms
  rw [ageDen, ← hx, ← hxx] at h ⊢
  have hle : (sumsOf 0 ms).1 * (sumsOf 0 ms).1 ≤ ms.length * (sumsOf 0 ms).2.1 := by
    have hlt := sub_pos.1 h
    exact_mod_cast hlt.le
  rw [Nat.cast_sub hle]
  push_cast
  ring

/-! The hours that are left. -/

theorem lifeLeft_spent {margin : Nat} (h : margin ≤ 200) : lifeLeft ms margin = 0 := if_pos h

theorem lifeLeft_falling {margin : Nat} (h : 200 < margin) (hfall : ageSlope ms < 0) :
    (lifeLeft ms margin : Int) = min (2 ^ 32 - 1) (((margin : Int) - 200) * ageDen ms / (-ageSlope ms)) := by
  have hden := ageDen_pos ms (two_le_of_falling hfall)
  have heden := ageDen_eq hden
  have hefall := ageFall_eq hfall
  rw [lifeLeft, if_neg (by omega), if_pos (by omega)]
  rw [← heden, ← hefall]
  push_cast [Nat.cast_sub h.le]
  norm_num

theorem lifeLeft_steady {margin : Nat} (h : 200 < margin) (hfall : 0 ≤ ageSlope ms) : lifeLeft ms margin = 2 ^ 32 - 1 := by
  have hzero := ageFall_zero hfall
  rw [lifeLeft, if_neg (by omega), if_neg (by omega)]

end

/-! The sample. -/

/-- What is watched of a die after its sample. -/
def DieServ.aged (y : DieServ) (drift margin time : Nat) : DieServ :=
  { y with
    margins := (y.margins ++ [margin]).drop (y.margins.length - 1023), margin := min 65535 margin, drift := min 65535 (drift / 10)
    eolh := lifeLeft ((y.margins ++ [margin]).drop (y.margins.length - 1023)) margin, sampled := time }

theorem DieServ.aged_fields (y : DieServ) (drift margin time : Nat) : let z := y.aged drift margin time
    z.margins = (y.margins ++ [margin]).drop (y.margins.length - 1023) ∧ z.margin = min 65535 margin ∧ z.drift = min 65535 (drift / 10) ∧
    z.sampled = time ∧ z.eolh = lifeLeft z.margins margin := by
  simp only [DieServ.aged, and_self]

/-- A change of what is watched of a die counts by its outcome. -/
theorem State.modServ_congr {s : State} {d : Nat} {f g : DieServ → DieServ} (h : f (s.serv d) = g (s.serv d)) : s.modServ d f = s.modServ d g :=
  congrArg (fun x => { s with dieServ := tput s.dieServ d x }) h

theorem answers_ageSample {s : State} {d : Nat} (drift margin : Nat) (hd : d < 128) (hdue : (s.serv d).sampled + 3600000000000 ≤ s.time) :
    answers (.ageSample d drift margin) s fun u => s.standsAs u ∧ u.serv d = (s.serv d).aged drift margin s.time ∧
      ((u.serv d).eolh < 8760 ∨ 50000 < drift → (u.pkg (d / 2)).mgmtint.testBit 4 = true) := by
  have hserv := s.modServ_serv_same d fun x => x.aged drift margin s.time
  have hstands := s.modServ_standsAs d fun x => x.aged drift margin s.time
  have hdrop : (s.serv d).margins.length + 1 - 1024 = (s.serv d).margins.length - 1023 := by omega
  have hstep : exec (.ageSample d drift margin) s = .next
      (if ((s.serv d).aged drift margin s.time).eolh < 8760 ∨ 50000 < drift
        then (s.modServ d fun x => x.aged drift margin s.time).attention (d / 2) 4 else s.modServ d fun x => x.aged drift margin s.time) := by
    rw [exec_ageSample, execAgeSample, if_neg (by omega)]
    dsimp only
    rw [hdrop]
    exact congrArg Host.Outcome.next
      (if_congr Iff.rfl (congrArg (fun u => State.attention u (d / 2) 4) (State.modServ_congr rfl)) (State.modServ_congr rfl))
  refine ⟨_, hstep, ?_⟩
  split
  next h => exact ⟨State.standsAs_trans hstands (State.attention_standsAs _ _ 4), hserv, fun _ => State.attention_rises _ _ 4⟩
  next h => exact ⟨hstands, hserv, fun h' => absurd (by rwa [hserv] at h') h⟩

end Sys2Proof.Machine
end

section
/-! Management words, cooling, clocks and ageing (O53). -/

namespace Sys2Proof.Machine

open Sys2Proof

theorem answers_mono {i : Instr} {s : State} {p q : State → Prop} (h : answers i s p) (hpq : ∀ u, p u → q u) : answers i s q :=
  h.imp fun u hu => ⟨hu.1, hpq u hu.2⟩

/-- A read that meets no listed line. -/
theorem State.not_hostMeetsError {s : State} {p off n : Nat} (h : ∀ i, i < n → s.errorLine (s.hostAddr p off i / 128) = false) :
    ¬ s.hostMeetsError p off n := fun ⟨i, hi, he⟩ => Bool.false_ne_true ((h i hi).symm.trans he)

/-- A clock step by the die's throttling. -/
theorem State.stepFloor_le (s : State) (d step : Nat) :
    ((s.flowThrottle = true ∨ (s.serv d).hot = true) → max (min 5 step) (s.stepFloor d) = 5) ∧
    (s.flowThrottle = false → (s.serv d).hot = false → let f := (s.pkg (d / 2)).clkforce
      max (min 5 step) (s.stepFloor d) = max (min 5 step) (if f / 2 ^ 3 % 2 = 1 then min 5 (f % 2 ^ 3) else 0)) := by
  refine ⟨fun h => ?_, fun hflow hhot => ?_⟩
  · rw [s.stepFloor_throttled d (by rw [State.throttled, Bool.or_eq_true]; exact h)]
    exact Nat.max_eq_right (Nat.min_le_left 5 step)
  · rw [s.stepFloor_forced d (by rw [State.throttled, hflow, hhot]; rfl)]

/-- Settles O53: each write and event is one change of a package's registers or of what is watched of a die, and leaves the cores, the weaves and
every byte; a throttle and an attention bit run over the powered packages, a kill over the weaves of its context; the sums of the ageing line are
those of the least-squares formula, whose denominator the number of samples gives. -/
theorem managementWordsAndEventsTakeEffect : Obligations.ManagementWordsAndEventsTakeEffect := by
  intro s p d v hp hd
  refine ⟨fun off data hup hon hoff hok _ => ⟨?_, ?_⟩, fun hup => ⟨?_, ?_, ?_, ?_, ?_, ?_, ?_, ?_, ?_, ?_⟩, fun off hup hoff h8 => ⟨?_, ?_⟩, ?_, ?_,
    ?_, ?_, ?_, ?_⟩
  · exact answers_hostWrite hup hon hoff hok.2
  · refine answers_mono (answers_hostRead hup hon hoff) fun u ⟨hbytes, hcores, herr, hread⟩ => ?_
    exact ⟨hbytes, hcores, herr, fun hgood => hread (State.not_hostMeetsError hgood)⟩
  · exact fun k hk => answers_pcapWrite hup hk
  · exact answers_swcapWrite hup
  · exact answers_clkforceWrite hup
  · exact answers_apbaseWrite hup
  · exact answers_mgmtintWrite hup
  · exact answers_lostWrite hup
  · exact fun off h1 h2 h8 hqp hwf => answers_netaddrWrite hup h1 h2 h8 hqp hwf
  · exact fun off h1 h2 h8 hqp => answers_netaddrWrite_held hup h1 h2 h8 hqp
  · exact answers_killWrite_none hup
  · exact fun w z hz hid hctx htorn hst => answers_killWrite hup hz hid hctx htorn hst
  · exact answers_walkStoreWrite hup hoff h8
  · exact answers_walkStoreWrite_busy hup hoff h8
  · exact fun k hk hup => answers_edgectlWrite hp hup hk
  · exact fun flow => answers_coolantFlowChange flow hp hd
  · exact answers_flowRecoveryTimer
  · exact fun temp => answers_junctionTemperatureChange temp hd
  · refine fun step => answers_mono (answers_clockStepChange step hd) fun u ⟨hstands, hserv, hcap⟩ => ?_
    obtain ⟨hthrottled, hforced⟩ := s.stepFloor_le d step
    exact ⟨hstands, by rw [hserv], fun h => by rw [hserv]; exact hthrottled h, fun hflow hhot => by rw [hserv]; exact hforced hflow hhot, hcap⟩
  · refine fun drift margin hdue => answers_mono (answers_ageSample drift margin hd hdue) fun u ⟨hstands, hserv, hrises⟩ => ⟨hstands, ?_⟩
    obtain ⟨hmargins, hmargin, hdrift, hsampled, hall⟩ := (s.serv d).aged_fields drift margin s.time
    rw [← hserv] at hmargins hmargin hdrift hsampled hall
    refine ⟨hmargins, hmargin, hdrift, hsampled, ?_, ?_, ?_, hrises⟩
    · exact fun h => hall.trans (lifeLeft_spent h)
    · intro h hfall
      have hfalling := lifeLeft_falling (ms := (u.serv d).margins) h hfall
      rwa [← hall] at hfalling
    · intro h hfall
      have hsteady := lifeLeft_steady (ms := (u.serv d).margins) h hfall
      rwa [← hall] at hsteady

end Sys2Proof.Machine
end

section
/-! SUPPORT. The fields of packets, descriptors and nodes, as numbers, and the packets and descriptors that the dispatcher refuses (R158, R183). -/

namespace Sys2Proof.Machine

open Sys2Proof

/-! Fields of a record. -/

theorem recNum_lt (bs : List Byte) (i n : Nat) : recNum bs i n < 256 ^ n :=
  (numOfBytes_lt ..).trans_le (Nat.pow_le_pow_right (by decide) (List.length_take_le ..))

theorem numBytes_append (xs ys : List Byte) : numBytes (xs ++ ys) = numBytes xs + 256 ^ xs.length * numBytes ys := by
  induction xs with
  | nil => simp [numBytes, numOfBytes]
  | cons x xs ih =>
    rw [List.cons_append, numBytes_cons, ih, numBytes_cons, List.length_cons, pow_succ]
    ring

/-- A field is its low bytes and its high bytes. -/
theorem recNum_add (bs : List Byte) (i m n : Nat) : recNum bs i (m + n) = recNum bs i m + 256 ^ m * recNum bs (i + m) n := by
  simp only [recNum, List.take_add, List.drop_drop, numBytes_append]
  by_cases h : m ≤ (bs.drop i).length
  · rw [List.length_take, Nat.min_eq_left h]
  · have hnil : bs.drop (i + m) = [] := List.drop_eq_nil_of_le (by rw [List.length_drop] at h; omega)
    simp [hnil, numBytes, numOfBytes]

theorem fld_zero (w n : Nat) : fld w 0 n = w % 2 ^ n := by simp [fld]

/-- The top field of a number. -/
theorem fld_top {w lo n : Nat} (h : w < 2 ^ (lo + n)) : fld w lo n = w / 2 ^ lo := by
  rw [fld, Nat.mod_eq_of_lt]
  rw [Nat.div_lt_iff_lt_mul (Nat.two_pow_pos lo)]
  rwa [Nat.add_comm, Nat.pow_add] at h

/-- The top field of a word. -/
theorem bits_top {w : Word} {lo n : Nat} (h : lo + n = 64) : bits w lo n = w.toNat / 2 ^ lo :=
  fld_top (lt_of_lt_of_eq w.isLt (congrArg _ h.symm))

theorem testBit_63 {n : Nat} (h : n < 2 ^ 64) : n.testBit 63 = true ↔ 2 ^ 63 ≤ n := by
  rw [Nat.testBit_eq_decide_div_mod_eq, decide_eq_true_eq]
  omega

/-! Packets that are refused (R158). -/

/-- Dependence i of a packet is refused. -/
def depRefused (raw : List Byte) (i : Nat) : Prop :=
  recNum raw (16 + 16 * i) 8 / 2 ^ 60 = 0 ∨ 3 < recNum raw (16 + 16 * i) 8 / 2 ^ 60 ∨ recNum raw (16 + 16 * i) 8 % 8 ≠ 0 ∨
    recNum raw (16 + 16 * i) 8 / 2 ^ 48 % 2 ^ 12 ≠ 0

/-- A packet is refused. -/
def packetRefused (raw : List Byte) : Prop :=
  recNum raw 0 1 = 0 ∨ 3 < recNum raw 0 1 ∨ 2 ≤ recNum raw 1 1 ∨ 4 < recNum raw 2 1 ∨ recNum raw 3 1 ≠ 0 ∨
    (recNum raw 0 1 ≠ 2 ∧ (recNum raw 4 2 ≠ 0 ∨ recNum raw 6 2 ≠ 0)) ∨ (recNum raw 0 1 = 3 ∧ recNum raw 8 8 ≠ 0) ∨
    (∃ i, i < 4 ∧ i < recNum raw 2 1 ∧ depRefused raw i) ∨ recNum raw 88 8 / 2 ^ 18 % 2 ^ 45 ≠ 0 ∨ recNum raw 96 32 ≠ 0 ∨ recNum raw 80 8 % 16 ≠ 0

theorem pktDep_kind (raw : List Byte) (i : Nat) : (pktDep raw i).1 = recNum raw (16 + 16 * i) 8 / 2 ^ 60 := fld_top (recNum_lt ..)

theorem pktDep_addr (raw : List Byte) (i : Nat) : (pktDep raw i).2.1 = recNum raw (16 + 16 * i) 8 % 2 ^ 48 := fld_zero ..

theorem depBad_iff (raw : List Byte) (i : Nat) : depBad raw i = true ↔ depRefused raw i := by
  have haddr : (pktDep raw i).2.1 % 8 = recNum raw (16 + 16 * i) 8 % 8 := by
    rw [pktDep_addr]
    exact Nat.mod_mod_of_dvd _ (by decide)
  simp only [depBad, haddr, pktDep_kind, Bool.or_eq_true, beq_iff_eq, bne_iff_ne, decide_eq_true_eq, or_assoc]
  rfl

/-- FLAGS has a bit other than ORDERED. -/
theorem fld_flags_ne_zero {n : Nat} (h : n < 256) : fld n 1 7 ≠ 0 ↔ 2 ≤ n := by
  rw [fld_top h]
  omega

theorem packetBad_iff (raw : List Byte) : packetBad raw = true ↔ packetRefused raw := by
  have hflags := fld_flags_ne_zero (recNum_lt raw 1 1)
  simp only [packetBad, Bool.or_eq_true, Bool.and_eq_true, bne_iff_ne, beq_iff_eq, decide_eq_true_eq, hflags, List.any_eq_true, mem_span,
    Nat.zero_le, true_and, Nat.zero_add, Nat.lt_min, depBad_iff, or_assoc, and_assoc]
  rfl

theorem packetBad_eq_false (raw : List Byte) : packetBad raw = false ↔ ¬ packetRefused raw := by
  rw [← packetBad_iff, Bool.not_eq_true]

theorem pktOrdered_eq_false (raw : List Byte) : pktOrdered raw = false ↔ recNum raw 1 1 % 2 = 0 := by
  simp only [pktOrdered, fld, beq_eq_false_iff_ne]
  omega

/-! Descriptors that are refused (R183). -/

/-- A descriptor of 64 bytes is refused. -/
def descRefused (bs : List Byte) : Prop :=
  recNum bs 5 1 = 0 ∨ recNum bs 0 8 / 2 ^ 32 % 2 ^ 5 < 4 ∨ 16 < recNum bs 0 8 / 2 ^ 32 % 2 ^ 5 ∨
    recNum bs 8 8 % (128 * 2 ^ (recNum bs 0 8 / 2 ^ 32 % 2 ^ 5)) ≠ 0 ∨ recNum bs 0 4 ≠ 0 ∨ recNum bs 20 4 ≠ 0 ∨
    recNum bs 24 8 / 2 ^ 32 % 2 ^ 31 ≠ 0 ∨ recNum bs 40 24 ≠ 0

/-- The low half of a word of a record. -/
theorem fld_low_half (bs : List Byte) (i : Nat) : fld (recNum bs i 8) 0 32 = recNum bs i 4 := by
  have hlow := recNum_lt bs i 4
  have hsplit : recNum bs i 8 = _ := recNum_add bs i 4 4
  rw [fld_zero]
  omega

/-- The high half of a word of a record. -/
theorem fld_high_half (bs : List Byte) (i : Nat) : fld (recNum bs i 8) 32 32 = recNum bs (i + 4) 4 := by
  have hlow := recNum_lt bs i 4
  have hsplit : recNum bs i 8 = _ := recNum_add bs i 4 4
  rw [fld_top (recNum_lt bs i 8)]
  omega

/-- Byte 5 of a word of a record. -/
theorem fld_byte_five (bs : List Byte) : fld (recNum bs 0 8) 40 8 = recNum bs 5 1 := by
  have hlow := recNum_lt bs 0 5
  have hmid := recNum_lt bs 5 1
  have hsplit := recNum_add bs 0 5 3
  have hhigh := recNum_add bs 5 1 2
  simp only [Nat.zero_add, Nat.reduceAdd] at hsplit hhigh
  rw [fld]
  omega

theorem descBad_iff (bs : List Byte) : descBad bs = true ↔ descRefused bs := by
  simp only [descBad, fld_byte_five, fld_low_half, fld_high_half, Bool.or_eq_true, bne_iff_ne, beq_iff_eq, decide_eq_true_eq, or_assoc]
  rfl

theorem descBad_eq_false (bs : List Byte) : descBad bs = false ↔ ¬ descRefused bs := by
  rw [← descBad_iff, Bool.not_eq_true]

end Sys2Proof.Machine
end

section
/-! PROOF. `launch`, `qmap`, `qunmap` and `qstat` park their task for the dispatcher, or trap (R182, R183). -/

namespace Sys2Proof.Machine

open Sys2Proof

/-- A block of n bytes at va that the dispatcher can read for a command of core c. -/
def State.dispReadable (s : State) (c va n : Nat) : Prop := ∃ ps, s.blockPlace c va n .rd = .ok ps ∧ ∀ p ∈ ps, s.errorLine (p.1 / 128) = false

theorem dispPlaces_ok {s : State} {c va n : Nat} {ps : List (Nat × Nat)} (t : Nat) (go : List (Nat × Nat) → State)
    (hps : s.blockPlace c va n .rd = .ok ps) (hlines : ∀ p ∈ ps, s.errorLine (p.1 / 128) = false) : dispPlaces s c t va n go = go ps := by
  have hany : (ps.any fun p => s.errorLine (p.1 / 128)) = false := by simpa using hlines
  simp only [dispPlaces, hps, hany, Bool.false_eq_true, if_false]

theorem dispBlock_readable {s : State} {c va n : Nat} (t : Nat) (go : State) (h : s.dispReadable c va n) : dispBlock s c t va n go = go := by
  obtain ⟨ps, hps, hlines⟩ := h
  exact dispPlaces_ok t _ hps hlines

theorem State.sysWeave_iff (s : State) (c : Nat) : s.sysWeave c = true ↔ ∃ w, s.weaveOf c = some w ∧ w.sys = true := by
  unfold State.sysWeave
  split <;> simp_all

/-- Task t of core c is parked for the dispatcher's answer to instruction i of len bytes, and nothing else differs. -/
def parkedForAnswer (s : State) (c t : Nat) (i : Instr) (len : Nat) (u : State) : Prop :=
  (u.task c t).st = .parked ∧ (u.task c t).pc = (s.task c t).pc ∧ (∀ r, u.reg c t r = s.reg c t r) ∧ onlyTask s c t u ∧ bytesKept s u ∧
    ∃ w, (u.task c t).wait = some w ∧ w.what = .answer ∧ w.instr = i ∧ w.len = len

theorem State.park_answer (s : State) (c t : Nat) (i : Instr) (len : Nat) : parkedForAnswer s c t i len (s.park c t .answer i len) :=
  ⟨by simp, by simp, fun r => State.park_reg_same .., onlyTask_modTask .., State.park_bytes .., _, by rw [State.park_task_same], rfl, rfl, rfl⟩

section
variable {s : State} {c t : Nat} (hs : s.cur = .task c t)
include hs

/-! Each command by its operands. -/

theorem exec_launch_aligned (h : CHdr) (d slot : Nat) {a : Nat} (ha : (s.reg c t a).toNat % 128 = 0) (hr : s.dispReadable c (s.reg c t a).toNat 128) :
    exec (.launch h d a slot) s = .next (s.park c t .answer (.launch h d a slot) (ctlLen h 2)) := by
  simp only [exec_launch, execLaunch, asTask_next _ _ _ _ hs, ha, ne_eq, not_true_eq_false, if_false, dispBlock_readable t _ hr]

theorem exec_launch_misaligned (h : CHdr) (d slot : Nat) {a : Nat} (ha : (s.reg c t a).toNat % 128 ≠ 0) :
    exec (.launch h d a slot) s = .next (s.trap c t 20 (s.reg c t a)) := by
  simp only [exec_launch, execLaunch, asTask_next _ _ _ _ hs, if_pos ha]

theorem exec_qmap_user (h : CHdr) (d a b : Nat) (hsys : s.sysWeave c = false) : exec (.qmap h d a b) s = .next (s.trap c t 21 0#64) := by
  simp only [exec_qmap, execQmap, asTask_next _ _ _ _ hs, hsys, Bool.not_false, if_true]

theorem exec_qunmap_user (h : CHdr) (d b : Nat) (hsys : s.sysWeave c = false) : exec (.qunmap h d b) s = .next (s.trap c t 21 0#64) := by
  simp only [exec_qunmap, execQunmap, asTask_next _ _ _ _ hs, hsys, Bool.not_false, if_true]

theorem exec_qmap_noSlot (h : CHdr) (d a : Nat) {b : Nat} (hsys : s.sysWeave c = true) (hn : 64 ≤ (s.reg c t b).toNat) :
    exec (.qmap h d a b) s = .next (s.trap c t 20 (s.reg c t b)) := by
  simp only [exec_qmap, execQmap, asTask_next _ _ _ _ hs, hsys, Bool.not_true, Bool.false_eq_true, if_false, if_pos hn]

theorem exec_qunmap_noSlot (h : CHdr) (d : Nat) {b : Nat} (hsys : s.sysWeave c = true) (hn : 64 ≤ (s.reg c t b).toNat) :
    exec (.qunmap h d b) s = .next (s.trap c t 20 (s.reg c t b)) := by
  simp only [exec_qunmap, execQunmap, asTask_next _ _ _ _ hs, hsys, Bool.not_true, Bool.false_eq_true, if_false, if_pos hn]

theorem exec_qstat_noSlot (h : CHdr) (d : Nat) {b : Nat} (hn : 64 ≤ (s.reg c t b).toNat) :
    exec (.qstat h d b) s = .next (s.trap c t 20 (s.reg c t b)) := by
  simp only [exec_qstat, execQstat, asTask_next _ _ _ _ hs, if_pos hn]

theorem exec_qmap_misaligned (h : CHdr) (d : Nat) {a b : Nat} (hsys : s.sysWeave c = true) (hn : (s.reg c t b).toNat < 64)
    (ha : (s.reg c t a).toNat % 64 ≠ 0) : exec (.qmap h d a b) s = .next (s.trap c t 20 (s.reg c t a)) := by
  simp only [exec_qmap, execQmap, asTask_next _ _ _ _ hs, hsys, Bool.not_true, Bool.false_eq_true, if_false, if_neg (Nat.not_le.2 hn), if_pos ha]

theorem exec_qmap_aligned (h : CHdr) (d : Nat) {a b : Nat} (hsys : s.sysWeave c = true) (hn : (s.reg c t b).toNat < 64)
    (ha : (s.reg c t a).toNat % 64 = 0) (hr : s.dispReadable c (s.reg c t a).toNat 64) :
    exec (.qmap h d a b) s = .next (s.park c t .answer (.qmap h d a b) (ctlLen h 1)) := by
  simp only [exec_qmap, execQmap, asTask_next _ _ _ _ hs, hsys, Bool.not_true, Bool.false_eq_true, if_false, if_neg (Nat.not_le.2 hn), ha, ne_eq,
    not_true_eq_false, dispBlock_readable t _ hr]

theorem exec_qunmap_slot (h : CHdr) (d : Nat) {b : Nat} (hsys : s.sysWeave c = true) (hn : (s.reg c t b).toNat < 64) :
    exec (.qunmap h d b) s = .next (s.park c t .answer (.qunmap h d b) (ctlLen h 1)) := by
  simp only [exec_qunmap, execQunmap, asTask_next _ _ _ _ hs, hsys, Bool.not_true, Bool.false_eq_true, if_false, if_neg (Nat.not_le.2 hn)]

theorem exec_qstat_slot (h : CHdr) (d : Nat) {b : Nat} (hn : (s.reg c t b).toNat < 64) :
    exec (.qstat h d b) s = .next (s.park c t .answer (.qstat h d b) (ctlLen h 1)) := by
  simp only [exec_qstat, execQstat, asTask_next _ _ _ _ hs, if_neg (Nat.not_le.2 hn)]

end

end Sys2Proof.Machine
end

section
/-! SUPPORT. What the dispatchers hold after a change of a slot, and what a write at the homes and an acquire leave of it (R152 to R157). -/

namespace Sys2Proof.Machine

open Sys2Proof

/-! Slots. -/

@[simp] theorem State.qslot_modSlot_same (s : State) (d n : Nat) (f : QSlot → QSlot) : (s.modSlot d n f).qslot d n = f (s.qslot d n) := by
  rw [State.modSlot, State.qslot, State.disp_modDisp_same]
  exact tget_tmod_same ..

@[simp] theorem State.modSlot_pkts (s : State) (d n : Nat) (f : QSlot → QSlot) : ((s.modSlot d n f).disp d).pkts = (s.disp d).pkts := by
  rw [State.modSlot, State.disp_modDisp_same]

/-- Of the dispatchers' slots only slot m of die n differs, and only the dispatcher of die n. -/
def onlySlot (s : State) (n m : Nat) (u : State) : Prop := (∀ k, k ≠ m → u.qslot n k = s.qslot n k) ∧ ∀ e, e ≠ n → u.disp e = s.disp e

theorem onlySlot_modSlot (s : State) (n m : Nat) (f : QSlot → QSlot) : onlySlot s n m (s.modSlot n m f) := by
  refine ⟨fun k hk => ?_, fun e he => State.disp_modDisp_other _ _ he⟩
  rw [State.modSlot, State.qslot, State.disp_modDisp_same]
  exact tget_tmod_other _ _ _ _ _ hk

theorem State.disp_congr {s u : State} (h : u.disps = s.disps) (d : Nat) : u.disp d = s.disp d := by rw [State.disp, h, State.disp]

theorem State.qslot_congr {s u : State} (h : u.disps = s.disps) (d n : Nat) : u.qslot d n = s.qslot d n := by
  rw [State.qslot, State.disp_congr h, State.qslot]

theorem State.pkt_congr {s u : State} (h : u.disps = s.disps) (d id : Nat) : u.pkt d id = s.pkt d id := by
  rw [State.pkt, State.disp_congr h, State.pkt]

theorem onlySlot_congr {s s' u u' : State} {n m : Nat} (hs : s'.disps = s.disps) (hu : u'.disps = u.disps) (h : onlySlot s n m u) :
    onlySlot s' n m u' := by
  obtain ⟨hslots, hdies⟩ := h
  exact ⟨fun k hk => by rw [State.qslot_congr hu, State.qslot_congr hs, hslots k hk],
    fun e he => by rw [State.disp_congr hu, State.disp_congr hs, hdies e he]⟩

theorem onlySlot_trans {s u v : State} {n m : Nat} (h : onlySlot s n m u) (g : onlySlot u n m v) : onlySlot s n m v :=
  ⟨fun k hk => (g.1 k hk).trans (h.1 k hk), fun e he => (g.2 e he).trans (h.2 e he)⟩

theorem QSlot.log2_eq (q : QSlot) : q.log2 = q.qcfg.toNat / 2 ^ 32 % 2 ^ 5 := rfl

/-! Packets that are added at a die, with a change of a slot. -/

/-- The state with packets ps added at die d and q in its slot n, and k numbers given out. -/
def State.pushPkts (s : State) (d n : Nat) (ps : List DPkt) (q : QSlot) (k : Nat) : State :=
  { (s.modDisp d fun x => { x with pkts := x.pkts ++ ps }).modSlot d n fun _ => q with nextId := s.nextId + k }

section
variable (s : State) (d n : Nat) (ps : List DPkt) (q : QSlot) (k : Nat)

theorem State.pushPkts_homeByte (a : Nat) : (s.pushPkts d n ps q k).homeByte a = s.homeByte a := State.homeByte_congr rfl rfl a

theorem State.pushPkts_bytes : bytesKept s (s.pushPkts d n ps q k) := bytesKept_of_parts _ _ rfl rfl rfl

theorem State.pushPkts_task (c t : Nat) : (s.pushPkts d n ps q k).task c t = s.task c t := rfl

theorem State.pushPkts_qslot : (s.pushPkts d n ps q k).qslot d n = q := State.qslot_modSlot_same ..

theorem State.pushPkts_pkts : ((s.pushPkts d n ps q k).disp d).pkts = (s.disp d).pkts ++ ps :=
  (State.modSlot_pkts ..).trans (by rw [State.disp_modDisp_same])

theorem State.pushPkts_onlySlot : onlySlot s d n (s.pushPkts d n ps q k) := by
  have hpkts : onlySlot s d n (s.modDisp d fun x => { x with pkts := x.pkts ++ ps }) :=
    ⟨fun k _ => by rw [State.qslot, State.disp_modDisp_same, State.qslot], fun e he => State.disp_modDisp_other _ _ he⟩
  exact onlySlot_congr rfl rfl (onlySlot_trans hpkts (onlySlot_modSlot _ _ _ fun _ => q))

end

/-- A packet that is taken, with the change of its slot. -/
theorem State.fresh_push_modSlot (s : State) (d n : Nat) (p : DPkt) (f : QSlot → QSlot) :
    (s.fresh.modDisp d fun x => { x with pkts := x.pkts ++ [p] }).modSlot d n f = s.pushPkts d n [p] (f (s.qslot d n)) 1 := by
  simp only [State.pushPkts, State.modSlot, State.modDisp, tmod, State.qslot, State.disp, tget_tput_same, tput_tput_same]
  rfl

/-! What a write at the homes and an acquire leave. -/

theorem writeKeeps_task {s u : State} (h : writeKeeps s u) (c t : Nat) : u.task c t = s.task c t :=
  (congrArg (fun k : Core => k.task t) (h.2.1 c) : (u.core c).sansL1.task t = (s.core c).sansL1.task t)

theorem writeKeeps_reg {s u : State} (h : writeKeeps s u) (c t r : Nat) : u.reg c t r = s.reg c t r := by
  rw [State.reg, writeKeeps_task h, State.reg]

theorem writeKeeps_ctxno {s u : State} (h : writeKeeps s u) (c : Nat) : (u.core c).ctxno = (s.core c).ctxno :=
  (congrArg Core.ctxno (h.2.1 c) : (u.core c).sansL1.ctxno = (s.core c).sansL1.ctxno)

theorem writeKeeps_seg {s u : State} (h : writeKeeps s u) (c : Nat) : (u.core c).seg = (s.core c).seg :=
  (congrArg Core.seg (h.2.1 c) : (u.core c).sansL1.seg = (s.core c).sansL1.seg)

theorem writeKeeps_blockPlace {s u : State} (h : writeKeeps s u) (c va n : Nat) (p : Perm) : u.blockPlace c va n p = s.blockPlace c va n p := by
  rw [State.blockPlace, writeKeeps_seg h, State.blockPlace]

theorem writeKeeps_runs {s u : State} (h : writeKeeps s u) : u.runs = s.runs := (congrArg State.runs h.1 : u.sansHomes.runs = s.sansHomes.runs)

theorem writeKeeps_errorLine {s u : State} (h : writeKeeps s u) (line : Nat) : u.errorLine line = s.errorLine line := by
  have hmem : u.memerr = s.memerr := (congrArg State.memerr h.1 : u.sansHomes.memerr = s.sansHomes.memerr)
  rw [State.errorLine, hmem, State.errorLine]

theorem State.homeWrite_disps (s : State) (writer : Option Nat) (cells : List Host.Cell) : (s.homeWrite writer cells).disps = s.disps :=
  writeKeeps_disps (writeKeeps_homeWrite ..)

theorem State.acquire_disps (s : State) (c scope : Nat) : (s.acquire c scope).disps = s.disps :=
  (congrArg State.disps (s.acquire_outer c scope) : (s.acquire c scope).outer.disps = s.outer.disps)

theorem State.acquire_homeByte (s : State) (c scope a : Nat) : (s.acquire c scope).homeByte a = s.homeByte a :=
  State.homeByte_congr (congrArg State.homes (s.acquire_outer c scope) : (s.acquire c scope).outer.homes = s.outer.homes)
    (congrArg State.banks (s.acquire_outer c scope) : (s.acquire c scope).outer.banks = s.outer.banks) a

/-- A number of the homes is about their bytes alone. -/
theorem State.homeNum_congr {s u : State} (h : ∀ a, u.homeByte a = s.homeByte a) (a n : Nat) : u.homeNum a n = s.homeNum a n := by
  rw [State.homeNum, State.homeBytes_congr h, State.homeNum]

/-- A number that has been written at the homes reads as it was written. -/
theorem State.homeNum_homeWrite {s : State} (hok : memoryOk s) (writer : Option Nat) (a n v : Nat) :
    (s.homeWrite writer (cellsFrom a (bytesOfNum n v))).homeNum a n = v % 256 ^ n :=
  State.homeNum_of_holdsAt (State.holdsAt_homeWrite hok.2 ..)

/-- A write at the homes leaves the numbers beside it. -/
theorem State.homeNum_homeWrite_apart {s : State} (hok : memoryOk s) (writer : Option Nat) {a b n : Nat} {bs : List Byte}
    (h : b + n ≤ a ∨ a + bs.length ≤ b) : (s.homeWrite writer (cellsFrom a bs)).homeNum b n = s.homeNum b n := by
  have hbytes : ∀ m x, b ≤ x → x + m ≤ b + n → (s.homeWrite writer (cellsFrom a bs)).homeBytes x m = s.homeBytes x m := by
    intro m
    induction m with
    | zero => exact fun _ _ _ => rfl
    | succ m ih =>
      intro x hlo hhi
      have hnone : tfind (cellsFrom a bs) x = none := (tfind_eq_none_iff ..).2 fun e he => by
        have := mem_cellsFrom he
        omega
      rw [State.homeBytes, State.homeBytes, ih (x + 1) (by omega) (by omega),
        State.homeByte_homeWrite hok.2 writer (keys_nodup (cellsFrom_pairwise a bs)), hnone, Option.getD_none]
  rw [State.homeNum, hbytes n b le_rfl le_rfl, State.homeNum]

end Sys2Proof.Machine
end

section
/-! PROOF. The dispatcher's answers to `launch`, `qmap`, `qunmap` and `qstat` (R155, R156, R175, R182 to R184). -/

namespace Sys2Proof.Machine

open Sys2Proof

/-- Task t of core c has its answer v in register d, and goes on len bytes further. -/
def toldValue (s : State) (c t d len v : Nat) (u : State) : Prop :=
  u.reg c t d = (if d = 0 then 0#64 else BitVec.ofNat 64 v) ∧ (∀ g, g ≠ d → u.reg c t g = s.reg c t g) ∧
    (u.task c t).st = .ready ∧ (u.task c t).pc = (s.task c t).pc + BitVec.ofNat 64 len

/-- The answer of a command that changes nothing at the dispatchers. -/
def toldAlone (s : State) (c t d len v : Nat) (u : State) : Prop := toldValue s c t d len v u ∧ u.disps = s.disps

theorem State.wakeWith_homeByte (s : State) (c t r : Nat) (v : Word) (a : Nat) : (s.wakeWith c t r v).homeByte a = s.homeByte a :=
  State.homeByte_congr rfl rfl a

theorem State.wakeWith_told {s u : State} {c t v : Nat} {w : Wait} (d : Nat) (hw : s.waitOf c t = some w) (ht : u.task c t = s.task c t) :
    toldValue s c t d w.len v (u.wakeWith c t d (word v)) := by
  have hwait : u.waitOf c t = some w := (State.waitOf_of_task (by rw [ht]) (by rw [ht])).trans hw
  obtain ⟨hreg, hother, hst, hpc, -⟩ := State.wakeWith_answered (d := d) (v := v) hwait rfl (bytesKept_refl u)
  exact ⟨hreg, fun g hg => (hother g hg).trans (by rw [State.reg, ht, State.reg]), hst, hpc.trans (by rw [ht])⟩

/-! The lane takes a packet (R182). -/

section
variable {s : State} {c slot : Nat} {p : List Byte}

theorem State.submit_unmapped (h : (s.qslot (dieOf c) slot).st ≠ .mapped) : s.submit c slot p = (2, s) := by
  rw [State.submit, if_pos h]

theorem State.submit_otherContext (h : (s.qslot (dieOf c) slot).st = .mapped) (hctx : (s.qslot (dieOf c) slot).ctx ≠ (s.core c).ctxno) :
    s.submit c slot p = (3, s) := by
  rw [State.submit, if_neg (not_not.2 h), if_pos hctx]

section
variable (h : (s.qslot (dieOf c) slot).st = .mapped) (hctx : (s.qslot (dieOf c) slot).ctx = (s.core c).ctxno)
include h hctx

theorem State.submit_refused (hp : packetRefused p) : s.submit c slot p = (4, s) := by
  rw [State.submit, if_neg (not_not.2 h), if_neg (not_not.2 hctx), if_pos ((packetBad_iff p).2 hp)]

theorem State.submit_laneFull (hp : ¬ packetRefused p) (hl : 16 ≤ (s.qslot (dieOf c) slot).lane.length) : s.submit c slot p = (1, s) := by
  rw [State.submit, if_neg (not_not.2 h), if_neg (not_not.2 hctx), if_neg (mt (packetBad_iff p).1 hp), if_pos hl]

theorem State.submit_appended (hp : ¬ packetRefused p) (hl : (s.qslot (dieOf c) slot).lane.length < 16) :
    s.submit c slot p = (0, s.modSlot (dieOf c) slot fun q => { q with lane := q.lane ++ [p] }) := by
  rw [State.submit, if_neg (not_not.2 h), if_neg (not_not.2 hctx), if_neg (mt (packetBad_iff p).1 hp), if_neg (Nat.not_le.2 hl)]

end

end

/-! A descriptor is mapped (R155, R183). -/

/-- The slot of a descriptor of 64 bytes, before a latched notify is applied. -/
def descSlot (bs : List Byte) (desc : Nat) (last : Option Nat) : QSlot :=
  { st := .mapped, desc, qcfg := word (recNum bs 0 8), qbase := recNum bs 8 8, tdaddr := recNum bs 32 8, rdidx := recNum bs 16 4,
    wridx := recNum bs 24 4, lastLane := last }

/-- A notify that the descriptor has latched runs too far ahead of its read index (R154). -/
def latchedFar (bs : List Byte) : Prop :=
  2 ^ 63 ≤ recNum bs 24 8 ∧ 2 ^ (recNum bs 0 8 / 2 ^ 32 % 2 ^ 5) < (recNum bs 24 4 + 2 ^ 32 - recNum bs 16 4) % 2 ^ 32

/-- Slot q has been loaded from the descriptor at desc. -/
def slotLoaded (bs : List Byte) (desc : Nat) (q : QSlot) : Prop :=
  q.desc = desc ∧ q.qcfg = BitVec.ofNat 64 (recNum bs 0 8) ∧ q.qbase = recNum bs 8 8 ∧ q.rdidx = recNum bs 16 4 ∧ q.wridx = recNum bs 24 4 ∧
    q.tdaddr = recNum bs 32 8 ∧ q.lane = [] ∧ (latchedFar bs → q.st = .overrun) ∧ (¬ latchedFar bs → q.st = .mapped)

theorem descSlot_loaded {bs : List Byte} (desc : Nat) (last : Option Nat) (h : ¬ 2 ^ 63 ≤ recNum bs 24 8) :
    slotLoaded bs desc (descSlot bs desc last) :=
  ⟨rfl, rfl, rfl, rfl, rfl, rfl, rfl, fun hfar => absurd hfar.1 h, fun _ => rfl⟩

theorem descSlot_log2 (bs : List Byte) (desc : Nat) (last : Option Nat) : (descSlot bs desc last).log2 = recNum bs 0 8 / 2 ^ 32 % 2 ^ 5 := by
  have hlt : recNum bs 0 8 < 2 ^ 64 := recNum_lt bs 0 8
  simp only [QSlot.log2_eq, descSlot, word, BitVec.toNat_ofNat, Nat.mod_eq_of_lt hlt]

theorem descSlot_notify_loaded {bs : List Byte} (desc : Nat) (last : Option Nat) (h : 2 ^ 63 ≤ recNum bs 24 8) :
    slotLoaded bs desc ((descSlot bs desc last).notify (recNum bs 24 4)) := by
  have hfar : latchedFar bs ↔ 2 ^ (descSlot bs desc last).log2 < (recNum bs 24 4 + 2 ^ 32 - (descSlot bs desc last).rdidx) % 2 ^ 32 := by
    rw [descSlot_log2]
    exact and_iff_right h
  unfold QSlot.notify
  split
  next hlt => exact ⟨rfl, rfl, rfl, rfl, rfl, rfl, rfl, fun _ => rfl, fun hn => absurd (hfar.2 hlt) hn⟩
  next hlt => exact ⟨rfl, rfl, rfl, rfl, rfl, rfl, rfl, fun hy => absurd (hfar.1 hy) hlt, fun _ => rfl⟩

section
variable {s : State} {d n desc : Nat}

theorem State.mapSlot_inUse (h : (s.qslot d n).st ≠ .free) : s.mapSlot d n desc = (1, s) := by
  simp only [State.mapSlot, if_pos h]

theorem State.mapSlot_refused (h : (s.qslot d n).st = .free) (hbad : descRefused (s.homeBytes desc 64)) : s.mapSlot d n desc = (2, s) := by
  simp only [State.mapSlot, if_neg (not_not.2 h), if_pos ((descBad_iff _).2 hbad)]

theorem State.mapSlot_taken (h : (s.qslot d n).st = .free) (hok : ¬ descRefused (s.homeBytes desc 64)) :
    s.mapSlot d n desc =
      if 2 ^ 63 ≤ recNum (s.homeBytes desc 64) 24 8 then
        (0, (s.modSlot d n fun _ => (descSlot (s.homeBytes desc 64) desc (s.qslot d n).lastLane).notify (recNum (s.homeBytes desc 64) 24 4)).homeWrite
          none (cellsFrom (desc + 0x18) (bytesOfNum 8 (recNum (s.homeBytes desc 64) 24 4))))
      else (0, s.modSlot d n fun _ => descSlot (s.homeBytes desc 64) desc (s.qslot d n).lastLane) := by
  simp only [State.mapSlot, if_neg (not_not.2 h), if_neg (mt (descBad_iff _).1 hok), fld_low_half, testBit_63 (recNum_lt _ 24 8)]
  rfl

/-- A descriptor is mapped onto a free slot: the slot is loaded, and a latched notify's PEND is cleared. -/
theorem State.mapSlot_loaded (hm : memoryOk s) (h : (s.qslot d n).st = .free) (hok : ¬ descRefused (s.homeBytes desc 64)) :
    ∃ u, s.mapSlot d n desc = (0, u) ∧ writeKeeps (s.modSlot d n fun _ => u.qslot d n) u ∧ slotLoaded (s.homeBytes desc 64) desc (u.qslot d n) ∧
      (2 ^ 63 ≤ recNum (s.homeBytes desc 64) 24 8 → u.homeNum (desc + 0x18) 8 = recNum (s.homeBytes desc 64) 24 4) := by
  rw [State.mapSlot_taken h hok]
  split
  next hpend =>
    refine ⟨_, rfl, ?_, ?_, fun _ => ?_⟩
    · rw [State.qslot_congr (State.homeWrite_disps ..), State.qslot_modSlot_same]
      exact writeKeeps_homeWrite ..
    · rw [State.qslot_congr (State.homeWrite_disps ..), State.qslot_modSlot_same]
      exact descSlot_notify_loaded _ _ hpend
    · rw [State.homeNum_homeWrite (memoryOk_modSlot hm)]
      exact Nat.mod_eq_of_lt ((recNum_lt _ 24 4).trans (by decide))
  next hpend =>
    refine ⟨_, rfl, ?_, ?_, fun hp => absurd hp hpend⟩
    · rw [State.qslot_modSlot_same]
      exact writeKeeps_refl _
    · rw [State.qslot_modSlot_same]
      exact descSlot_loaded _ _ hpend

/-! A slot is unmapped (R156, R183). -/

theorem State.unmapSlot_free (h : (s.qslot d n).st = .free) : s.unmapSlot d n = (1, s) := by
  simp only [State.unmapSlot, if_pos h]

theorem discardAll_raw (q : QSlot) (d slot id : Nat) (l : List (List Byte)) : (discardAll q d slot id l).map (fun p => p.raw) = l := by
  induction l generalizing id with
  | nil => rfl
  | cons b l ih => rw [discardAll, List.map_cons, ih]; rfl

theorem discardAll_completed (q : QSlot) (d slot id : Nat) (l : List (List Byte)) :
    ∀ p ∈ discardAll q d slot id l, p.st = .completed ∧ p.status = 14 := by
  induction l generalizing id with
  | nil => exact fun p hp => absurd hp List.not_mem_nil
  | cons b l ih => exact fun p hp => (List.mem_cons.1 hp).elim (fun h => h ▸ ⟨rfl, rfl⟩) (ih _ p)

/-- Slot q of die n of state s has been unmapped in u: it is free, the lane's packets are discarded, and RDIDX and SAVE stand in the descriptor. -/
def slotUnmapped (s : State) (d n : Nat) (u : State) : Prop :=
  onlySlot s d n u ∧ (u.qslot d n).st = .free ∧
  u.homeNum ((s.qslot d n).desc + 0x10) 8 = (s.qslot d n).rdidx % 2 ^ 64 ∧ u.homeNum ((s.qslot d n).desc + 0x18) 8 = (s.qslot d n).wridx % 2 ^ 64 ∧
  ∃ ps : List DPkt, (u.disp d).pkts = (s.disp d).pkts ++ ps ∧ ps.map (fun p => p.raw) = (s.qslot d n).lane ∧ ∀ p ∈ ps, p.st = .completed ∧ p.status = 14

theorem slotUnmapped_congr {u v : State} (h : slotUnmapped s d n u) (hd : v.disps = u.disps) (hh : ∀ a, v.homeByte a = u.homeByte a) :
    slotUnmapped s d n v := by
  obtain ⟨honly, hfree, hrd, hwr, hps⟩ := h
  rw [slotUnmapped, State.qslot_congr hd, State.homeNum_congr hh, State.homeNum_congr hh, State.disp_congr hd]
  exact ⟨onlySlot_congr rfl hd honly, hfree, hrd, hwr, hps⟩

/-- The state with RDIDX and SAVE of slot n of die d written back to its descriptor. -/
def State.savedSlot (s : State) (d n : Nat) : State :=
  s.homeWrite none (cellsFrom ((s.qslot d n).desc + 0x10) (bytesOfNum 8 (s.qslot d n).rdidx ++ bytesOfNum 8 (s.qslot d n).wridx))

theorem writeKeeps_savedSlot (s : State) (d n : Nat) : writeKeeps s (s.savedSlot d n) := writeKeeps_homeWrite ..

/-- The packets of the lane of slot n of die d, discarded. -/
def State.discards (s : State) (d n : Nat) : List DPkt := discardAll (s.qslot d n) d n (s.savedSlot d n).nextId (s.qslot d n).lane

/-- The slot that an unmapping leaves. -/
def State.freedSlot (s : State) (d n : Nat) : QSlot :=
  { unmapped := some ((s.savedSlot d n).time, (s.qslot d n).desc), lastLane := if (s.qslot d n).lane.isEmpty then (s.qslot d n).lastLane else none }

/-- The state that the unmapping of slot n of die d leaves. -/
def State.unmappedSlot (s : State) (d n : Nat) : State :=
  (s.savedSlot d n).pushPkts d n (s.discards d n) (s.freedSlot d n) (s.qslot d n).lane.length

/-- RDIDX and SAVE as `qunmap` writes them back. -/
theorem State.savedSlot_words (hm : memoryOk s) (d n : Nat) : (s.savedSlot d n).homeNum ((s.qslot d n).desc + 0x10) 8 = (s.qslot d n).rdidx % 2 ^ 64 ∧
    (s.savedSlot d n).homeNum ((s.qslot d n).desc + 0x18) 8 = (s.qslot d n).wridx % 2 ^ 64 := by
  obtain ⟨hx, hy⟩ := (State.holdsAt_append ..).1 (State.holdsAt_homeWrite hm.2 none ((s.qslot d n).desc + 0x10)
    (bytesOfNum 8 (s.qslot d n).rdidx ++ bytesOfNum 8 (s.qslot d n).wridx))
  rw [length_bytesOfNum, Nat.add_assoc] at hy
  exact ⟨State.homeNum_of_holdsAt hx, State.homeNum_of_holdsAt hy⟩

theorem State.unmapSlot_used (h : (s.qslot d n).st ≠ .free) : s.unmapSlot d n = (2 ^ 8 * (s.qslot d n).lane.length, s.unmappedSlot d n) := by
  have htime : (s.savedSlot d n).time = s.time := writeKeeps_time (writeKeeps_savedSlot ..)
  simp only [State.unmapSlot, if_neg h, State.unmappedSlot, State.freedSlot, htime]
  rfl

theorem State.unmappedSlot_unmapped (hm : memoryOk s) : slotUnmapped s d n (s.unmappedSlot d n) := by
  obtain ⟨hrd, hwr⟩ := State.savedSlot_words hm d n
  have hdisps : (s.savedSlot d n).disps = s.disps := writeKeeps_disps (writeKeeps_savedSlot ..)
  unfold State.unmappedSlot
  refine ⟨onlySlot_congr hdisps.symm rfl (State.pushPkts_onlySlot ..), ?_, ?_, ?_, s.discards d n, ?_, discardAll_raw .., discardAll_completed _ _ _ _ _⟩
  · rw [State.pushPkts_qslot]
    rfl
  · rw [State.homeNum_congr (State.pushPkts_homeByte _ _ _ _ _ _), hrd]
  · rw [State.homeNum_congr (State.pushPkts_homeByte _ _ _ _ _ _), hwr]
  · rw [State.pushPkts_pkts, State.disp_congr hdisps]

theorem State.unmappedSlot_task (s : State) (d n c t : Nat) : (s.unmappedSlot d n).task c t = s.task c t :=
  (State.pushPkts_task ..).trans (writeKeeps_task (writeKeeps_savedSlot ..) c t)

end

/-! The status word (R184). -/

section
variable {s : State} {c n : Nat}

/-- The status word of a slot that is not free. -/
def State.usedWord (s : State) (d n : Nat) : Nat :=
  2 ^ 62 * (if (s.qslot d n).st = .mapped then 1 else 2) + 2 ^ 60 * (s.qslot d n).prio + 2 ^ 52 * (s.qslot d n).weight +
    2 ^ 47 * (s.qslot d n).lane.length + 2 ^ 32 * min 255 (s.activeOf d n) + (s.qslot d n).rdidx

theorem State.slotWord_free {d : Nat} (h : (s.qslot d n).st = .free) : s.slotWord d n = word (2 ^ 32 * min 255 (s.activeOf d n)) := by
  simp only [State.slotWord, h]

theorem State.slotWord_used {d : Nat} (h : (s.qslot d n).st ≠ .free) : s.slotWord d n = word (s.usedWord d n) := by
  cases hst : (s.qslot d n).st with
  | free => exact absurd hst h
  | mapped => simp only [State.slotWord, State.usedWord, hst]
  | overrun => simp only [State.slotWord, State.usedWord, hst]

theorem State.qstatWord_free (h : (s.qslot (dieOf c) n).st = .free) : s.qstatWord c n = word (2 ^ 32 * min 255 (s.activeOf (dieOf c) n)) := by
  simp only [State.qstatWord, h, ne_eq, not_true_eq_false, false_and, if_false, State.slotWord_free h]

theorem State.qstatWord_own (h : (s.qslot (dieOf c) n).st ≠ .free) (hctx : (s.qslot (dieOf c) n).ctx = (s.core c).ctxno) :
    s.qstatWord c n = word (s.usedWord (dieOf c) n) := by
  simp only [State.qstatWord, hctx, ne_eq, not_true_eq_false, and_false, if_false, State.slotWord_used h]

/-- STATE of a slot that is not free stands above its other fields. -/
theorem State.usedWord_state {d : Nat} (hl : (s.qslot d n).lane.length ≤ 16) (hr : (s.qslot d n).rdidx < 2 ^ 32) :
    bits (word (s.usedWord d n)) 62 2 = if (s.qslot d n).st = .mapped then 1 else 2 := by
  have hprio : (s.qslot d n).prio < 2 ^ 2 := fld_lt ..
  have hweight : (s.qslot d n).weight < 2 ^ 8 := fld_lt ..
  have hactive : min 255 (s.activeOf d n) ≤ 255 := Nat.min_le_left ..
  rw [bits_top rfl, word, BitVec.toNat_ofNat, State.usedWord]
  split <;> omega

/-- Of another context's slot STATE alone is told. -/
theorem State.qstatWord_other (h : (s.qslot (dieOf c) n).st ≠ .free) (hctx : (s.qslot (dieOf c) n).ctx ≠ (s.core c).ctxno)
    (hl : (s.qslot (dieOf c) n).lane.length ≤ 16) (hr : (s.qslot (dieOf c) n).rdidx < 2 ^ 32) :
    s.qstatWord c n = word (2 ^ 62 * if (s.qslot (dieOf c) n).st = .mapped then 1 else 2) := by
  have hword : s.qstatWord c n = setBits 0#64 62 2 (bits (word (s.usedWord (dieOf c) n)) 62 2) := by
    rw [State.qstatWord, if_pos ⟨h, hctx⟩, State.slotWord_used h]
  rw [hword, State.usedWord_state hl hr]
  split <;> rfl

end

/-! The answers. -/

section
variable {s : State} {c t : Nat} {w : Wait} (hw : s.waitOf c t = some w) (hfrozen : s.isFrozen c = false) (hstop : s.stopped c = false)
  (hwhat : w.what = .answer)
include hw hfrozen hstop

theorem exec_dispatcherAnswer_notQuiet (hrel : releasing w.instr = true) (hq : (s.core c).quiet t = false) :
    exec (.dispatcherAnswer c t) s = .next s := by
  simp [execDispatcherAnswer, hw, hfrozen, hstop, hrel, hq]

include hwhat

theorem exec_dispatcherAnswer_answers (hq : releasing w.instr = true → (s.core c).quiet t = true) :
    exec (.dispatcherAnswer c t) s = .next (s.dispAnswer c t w.instr) := by
  have hgo : (!releasing w.instr || (s.core c).quiet t) = true := by
    cases hr : releasing w.instr with
    | false => rfl
    | true => simp [hq hr]
  simp [execDispatcherAnswer, hw, hfrozen, hstop, hwhat, hgo]

section
variable {h : CHdr} {d a slot : Nat} {ps : List (Nat × Nat)} (hi : w.instr = .launch h d a slot) (hq : (s.core c).quiet t = true)
  (hps : s.blockPlace c (s.reg c t a).toNat 128 .rd = .ok ps) (hlines : ∀ q ∈ ps, s.errorLine (q.1 / 128) = false)
include hi hq hps hlines

/-- `launch` releases, reads its packet and is told what the lane does with it. -/
theorem exec_launch_answered : exec (.dispatcherAnswer c t) s = .next
    (((s.release c 5).submit c slot (ps.flatMap fun q => (s.release c 5).homeBytes q.1 q.2)).2.wakeWith c t d
      (word ((s.release c 5).submit c slot (ps.flatMap fun q => (s.release c 5).homeBytes q.1 q.2)).1)) := by
  have hk := writeKeeps_release s c 5
  rw [exec_dispatcherAnswer_answers hw hfrozen hstop hwhat fun _ => hq, hi]
  simp only [State.dispAnswer, writeKeeps_reg hk]
  rw [dispPlaces_ok t _ ((writeKeeps_blockPlace hk ..).trans hps) fun p hp => (writeKeeps_errorLine hk _).trans (hlines p hp)]

theorem answers_launch_alone {n : Nat}
    (hn : (s.release c 5).submit c slot (ps.flatMap fun q => (s.release c 5).homeBytes q.1 q.2) = (n, s.release c 5)) :
    answers (.dispatcherAnswer c t) s (toldAlone s c t d w.len n) := by
  have hk := writeKeeps_release s c 5
  refine ⟨_, exec_launch_answered hw hfrozen hstop hwhat hi hq hps hlines, ?_⟩
  rw [hn]
  exact ⟨State.wakeWith_told d hw (writeKeeps_task hk c t), (State.wakeWith_disps ..).trans (writeKeeps_disps hk)⟩

theorem answers_launch_appended {p : List Byte} (hp : p = ps.flatMap fun q => (s.release c 5).homeBytes q.1 q.2)
    (hn : (s.release c 5).submit c slot p =
      (0, (s.release c 5).modSlot (dieOf c) slot fun q => { q with lane := q.lane ++ [p] })) :
    answers (.dispatcherAnswer c t) s fun u => toldValue s c t d w.len 0 u ∧
      u.qslot (dieOf c) slot = { s.qslot (dieOf c) slot with lane := (s.qslot (dieOf c) slot).lane ++ [p] } ∧ onlySlot s (dieOf c) slot u ∧
      (u.disp (dieOf c)).pkts = (s.disp (dieOf c)).pkts := by
  have hk := writeKeeps_release s c 5
  have hdisps := writeKeeps_disps hk
  refine ⟨_, exec_launch_answered hw hfrozen hstop hwhat hi hq hps hlines, ?_⟩
  rw [← hp, hn]
  refine ⟨State.wakeWith_told d hw (writeKeeps_task hk c t), ?_, onlySlot_congr hdisps.symm rfl (onlySlot_modSlot ..), ?_⟩
  · exact (State.qslot_modSlot_same ..).trans (by rw [State.qslot_congr hdisps])
  · exact (State.modSlot_pkts ..).trans (by rw [State.disp_congr hdisps])

end

section
variable {h : CHdr} {d a b pa m : Nat} {ps : List (Nat × Nat)} (hi : w.instr = .qmap h d a b) (hq : (s.core c).quiet t = true)
  (hps : s.blockPlace c (s.reg c t a).toNat 64 .rd = .ok ((pa, m) :: ps)) (hlines : ∀ q ∈ (pa, m) :: ps, s.errorLine (q.1 / 128) = false)
include hi hq hps hlines

/-- `qmap` releases, and is told what the mapping of its descriptor gives. -/
theorem exec_qmap_answered : exec (.dispatcherAnswer c t) s = .next
    (((s.release c 5).mapSlot (dieOf c) (s.reg c t b).toNat pa).2.wakeWith c t d
      (word ((s.release c 5).mapSlot (dieOf c) (s.reg c t b).toNat pa).1)) := by
  have hk := writeKeeps_release s c 5
  rw [exec_dispatcherAnswer_answers hw hfrozen hstop hwhat fun _ => hq, hi]
  simp only [State.dispAnswer, writeKeeps_reg hk]
  rw [dispPlaces_ok t _ ((writeKeeps_blockPlace hk ..).trans hps) fun p hp => (writeKeeps_errorLine hk _).trans (hlines p hp)]
  rfl

theorem answers_qmap_alone {n : Nat} (hn : (s.release c 5).mapSlot (dieOf c) (s.reg c t b).toNat pa = (n, s.release c 5)) :
    answers (.dispatcherAnswer c t) s (toldAlone s c t d w.len n) := by
  have hk := writeKeeps_release s c 5
  refine ⟨_, exec_qmap_answered hw hfrozen hstop hwhat hi hq hps hlines, ?_⟩
  rw [hn]
  exact ⟨State.wakeWith_told d hw (writeKeeps_task hk c t), (State.wakeWith_disps ..).trans (writeKeeps_disps hk)⟩

theorem answers_qmap_loaded (hm : memoryOk s) (hfree : (s.qslot (dieOf c) (s.reg c t b).toNat).st = .free)
    (hok : ¬ descRefused ((s.release c 5).homeBytes pa 64)) :
    answers (.dispatcherAnswer c t) s fun u => toldValue s c t d w.len 0 u ∧ onlySlot s (dieOf c) (s.reg c t b).toNat u ∧
      slotLoaded ((s.release c 5).homeBytes pa 64) pa (u.qslot (dieOf c) (s.reg c t b).toNat) ∧
      (2 ^ 63 ≤ recNum ((s.release c 5).homeBytes pa 64) 24 8 → u.homeNum (pa + 0x18) 8 = recNum ((s.release c 5).homeBytes pa 64) 24 4) := by
  have hk := writeKeeps_release s c 5
  have hdisps := writeKeeps_disps hk
  obtain ⟨v, hv, hkv, hload, hnum⟩ := State.mapSlot_loaded (n := (s.reg c t b).toNat) (memoryOk_release hm) ((State.qslot_congr hdisps ..).symm ▸ hfree) hok
  refine ⟨_, exec_qmap_answered hw hfrozen hstop hwhat hi hq hps hlines, ?_⟩
  rw [hv]
  have htask : v.task c t = s.task c t := (writeKeeps_task hkv c t).trans (writeKeeps_task hk c t)
  exact ⟨State.wakeWith_told d hw htask, onlySlot_congr hdisps.symm ((State.wakeWith_disps ..).trans (writeKeeps_disps hkv)) (onlySlot_modSlot ..), hload,
    fun hp => (State.homeNum_congr (State.wakeWith_homeByte v c t d (word 0)) ..).trans (hnum hp)⟩

end

section
variable {h : CHdr} {d b : Nat}

theorem exec_qunmap_answered (hi : w.instr = .qunmap h d b) : exec (.dispatcherAnswer c t) s = .next
    (((s.unmapSlot (dieOf c) (s.reg c t b).toNat).2.acquire c 5).wakeWith c t d (word (s.unmapSlot (dieOf c) (s.reg c t b).toNat).1)) := by
  rw [exec_dispatcherAnswer_answers hw hfrozen hstop hwhat fun hr => by simp [hi, releasing] at hr, hi]
  rfl

theorem answers_qunmap_free (hi : w.instr = .qunmap h d b) (hfree : (s.qslot (dieOf c) (s.reg c t b).toNat).st = .free) :
    answers (.dispatcherAnswer c t) s (toldAlone s c t d w.len 1) := by
  refine ⟨_, exec_qunmap_answered hw hfrozen hstop hwhat hi, ?_⟩
  rw [State.unmapSlot_free hfree]
  exact ⟨State.wakeWith_told d hw (State.acquire_task ..), State.acquire_disps ..⟩

theorem answers_qunmap_used (hm : memoryOk s) (hi : w.instr = .qunmap h d b) (hused : (s.qslot (dieOf c) (s.reg c t b).toNat).st ≠ .free) :
    answers (.dispatcherAnswer c t) s fun u => toldValue s c t d w.len (2 ^ 8 * (s.qslot (dieOf c) (s.reg c t b).toNat).lane.length) u ∧
      slotUnmapped s (dieOf c) (s.reg c t b).toNat u := by
  refine ⟨_, exec_qunmap_answered hw hfrozen hstop hwhat hi, ?_⟩
  rw [State.unmapSlot_used hused]
  refine ⟨State.wakeWith_told d hw ((State.acquire_task ..).trans (State.unmappedSlot_task ..)), ?_⟩
  exact slotUnmapped_congr (State.unmappedSlot_unmapped hm) ((State.wakeWith_disps ..).trans (State.acquire_disps ..)) fun a =>
    (State.wakeWith_homeByte ..).trans (State.acquire_homeByte ..)

theorem answers_qstat {v : Nat} (hi : w.instr = .qstat h d b) (hv : s.qstatWord c (s.reg c t b).toNat = word v) :
    answers (.dispatcherAnswer c t) s (toldAlone s c t d w.len v) := by
  refine ⟨_, exec_dispatcherAnswer_answers hw hfrozen hstop hwhat fun hr => by simp [hi, releasing] at hr, ?_⟩
  rw [hi, State.dispAnswer, hv]
  exact ⟨State.wakeWith_told d hw rfl, rfl⟩

end

end

end Sys2Proof.Machine
end

section
/-! PROOF. The commands of the dispatcher and their answers (O48). -/

namespace Sys2Proof.Machine

open Sys2Proof

/-- Settles O48: each command at its issue by its operands, and each answer by what the slot holds. -/
theorem dispatcherCommandsAreAnswered : Obligations.DispatcherCommandsAreAnswered := by
  unfold Obligations.DispatcherCommandsAreAnswered
  constructor
  · intro h d a b slot s c t hs pc v n sys readable waits bad
    have hsys : sys → s.sysWeave c = true := (s.sysWeave_iff c).2
    have huser : ¬ sys → s.sysWeave c = false := fun hn => Bool.eq_false_iff.2 (mt (s.sysWeave_iff c).1 hn)
    have parks {i : Instr} {len : Nat} (he : exec i s = .next (s.park c t .answer i len)) : waits i len := ⟨_, he, s.park_answer c t i len⟩
    have traps {i : Instr} {code : Nat} {tv : Word} (hc : code < 256) (he : exec i s = .next (s.trap c t code tv)) : bad i code tv :=
      fun hh => answers_trap he hc hh
    refine ⟨fun ha hr => parks (exec_launch_aligned hs h d slot ha hr), fun ha => traps (by decide) (exec_launch_misaligned hs h d slot ha),
      fun hu => ⟨?_, ?_⟩, fun hk hn => ⟨?_, ?_⟩, fun hn => ?_, fun hk hn ha => ?_, fun hk hn ha hr => ?_, fun hk hn => ?_, fun hn => ?_⟩
    · exact traps (by decide) (exec_qmap_user hs h d a b (huser hu))
    · exact traps (by decide) (exec_qunmap_user hs h d b (huser hu))
    · exact traps (by decide) (exec_qmap_noSlot hs h d a (hsys hk) hn)
    · exact traps (by decide) (exec_qunmap_noSlot hs h d (hsys hk) hn)
    · exact traps (by decide) (exec_qstat_noSlot hs h d hn)
    · exact traps (by decide) (exec_qmap_misaligned hs h d (hsys hk) hn ha)
    · exact parks (exec_qmap_aligned hs h d (hsys hk) hn ha hr)
    · exact parks (exec_qunmap_slot hs h d (hsys hk) hn)
    · exact parks (exec_qstat_slot hs h d hn)
  · intro h d a b slot s c t w hw hfrozen hstop hwhat hm n x y r cmd told same others
    have hk : writeKeeps s r := writeKeeps_release s c 5
    have hslot (k : Nat) : r.qslot n k = s.qslot n k := State.qslot_congr (writeKeeps_disps hk) n k
    refine ⟨fun hi => ⟨?_, ?_⟩, ?_, fun hi => ⟨?_, ?_⟩, fun hi => ⟨?_, ?_⟩⟩
    · exact exec_dispatcherAnswer_notQuiet hw hfrozen hstop (by rw [hi]; rfl)
    · intro ps hquiet hps hlines p f dep q refused
      have alone {v : Nat} (hv : r.submit c slot p = (v, r)) : same v := answers_launch_alone hw hfrozen hstop hwhat hi hquiet hps hlines hv
      have hst : (r.qslot n slot).st = q.st := congrArg QSlot.st (hslot slot)
      have hctx : (r.core c).ctxno = (s.core c).ctxno := writeKeeps_ctxno hk c
      refine ⟨fun hq => alone (State.submit_unmapped (hst.trans_ne hq)), fun hq hc => ?_, fun hq hc => ⟨fun hp => ?_, fun hp hl => ?_, fun hp hl => ?_⟩⟩
      · exact alone (State.submit_otherContext (hst.trans hq) (by rwa [hctx, hslot slot]))
      all_goals have hc' : (r.qslot n slot).ctx = (r.core c).ctxno := by rw [hctx, hslot slot]; exact hc
      · exact alone (State.submit_refused (hst.trans hq) hc' hp)
      · exact alone (State.submit_laneFull (hst.trans hq) hc' hp (by rwa [hslot slot]))
      · exact answers_launch_appended hw hfrozen hstop hwhat hi hquiet hps hlines rfl (State.submit_appended (hst.trans hq) hc' hp (by rwa [hslot slot]))
    · intro pa m ps hi hq hps hlines f lg bad
      refine ⟨fun hu => ?_, fun hu hb => ?_, fun hu hb => ?_⟩
      · exact answers_qmap_alone hw hfrozen hstop hwhat hi hq hps hlines (State.mapSlot_inUse (by rwa [hslot]))
      · exact answers_qmap_alone hw hfrozen hstop hwhat hi hq hps hlines (State.mapSlot_refused (by rwa [hslot]) hb)
      · exact answers_qmap_loaded hw hfrozen hstop hwhat hi hq hps hlines hm hu hb
    · exact answers_qunmap_free hw hfrozen hstop hwhat hi
    · exact answers_qunmap_used hw hfrozen hstop hwhat hm hi
    · exact fun hq => answers_qstat hw hfrozen hstop hwhat hi (State.qstatWord_free hq)
    · intro hq hl hr st
      refine answers_qstat hw hfrozen hstop hwhat hi ?_
      split
      next hc => exact State.qstatWord_own hq hc
      next hc => exact State.qstatWord_other hq hc hl hr

end Sys2Proof.Machine
end

section
/-! PROOF. Packets are taken from a slot's lane and queue (R153, R158, R159, R175). -/

namespace Sys2Proof.Machine

open Sys2Proof

/-! The packet before the next one (R159). -/

/-- The packets of every die: a queue may have been mapped on another one. -/
def State.allPkts (s : State) : List DPkt := s.disps.flatMap fun e => e.2.pkts

/-- Packet p stands before the next one of the lane or of the queue of slot q. -/
def precedes (q : QSlot) (lane : Bool) (p : DPkt) : Prop :=
  p.lane = lane ∧ (lane = true → q.lastLane = some p.id) ∧ (lane = false → p.desc = q.desc ∧ (p.idx + 1) % 2 ^ 32 = q.rdidx)

theorem precedes_iff (q : QSlot) (lane : Bool) (p : DPkt) :
    (p.lane == lane && (if lane then some p.id == q.lastLane else p.desc == q.desc && (p.idx + 1) % 2 ^ 32 == q.rdidx)) = true ↔ precedes q lane p := by
  cases lane with
  | true => simp [precedes, eq_comm (a := some p.id)]
  | false => simp [precedes]

theorem State.lastOf_eq_some {s : State} {q : QSlot} {lane : Bool} {p : DPkt} (h : s.lastOf q lane = some p) : p ∈ s.allPkts ∧ precedes q lane p := by
  rw [State.lastOf, firstWhere_eq_find?] at h
  exact ⟨List.mem_of_find?_eq_some h, (precedes_iff ..).1 (List.find?_some h :)⟩

theorem State.lastOf_eq_none {s : State} {q : QSlot} {lane : Bool} (h : s.lastOf q lane = none) : ∀ p ∈ s.allPkts, ¬ precedes q lane p := by
  intro p hp hb
  have hno := (firstWhere_eq_none ..).1 h p hp
  rw [(precedes_iff ..).2 hb] at hno
  cases hno

theorem State.lastStarted_of_settled {s : State} {d slot : Nat} {lane : Bool}
    (h : ∀ p ∈ s.allPkts, precedes (s.qslot d slot) lane p → p.st ≠ .waiting) : s.lastStarted d slot lane = true := by
  unfold State.lastStarted
  split
  next p hp =>
    obtain ⟨hmem, hb⟩ := State.lastOf_eq_some hp
    exact bne_iff_ne.2 (h p hmem hb)
  next => rfl

/-! The packet that is taken. -/

/-- The packet that the dispatcher takes next from the lane or the queue of a slot, with its 128 bytes; lost where their read faults. -/
def State.takenPkt (s : State) (d slot : Nat) (lane lost : Bool) (raw : List Byte) : DPkt :=
  { id := s.nextId, die := d, slot, lane, idx := if lane then 2 ^ 32 - 1 else (s.qslot d slot).rdidx, desc := (s.qslot d slot).desc,
    qcfg := (s.qslot d slot).qcfg, tdaddr := (s.qslot d slot).tdaddr, raw, met := (span 0 4).map fun i => decide (pktNdep raw ≤ i),
    prev := (s.lastOf (s.qslot d slot) lane).map fun p => p.id, readBy := s.time + 1000,
    st := if lost || packetBad raw then .completed else .waiting, status := if lost then 11 else if lost || packetBad raw then 15 else 0 }

/-- Packet p is the one taken next, and its bytes have been read and checked. -/
def tookPacket (s : State) (d slot : Nat) (lane : Bool) (raw : List Byte) (idx : Nat) (p : DPkt) : Prop :=
  p.id = s.nextId ∧ p.die = d ∧ p.slot = slot ∧ (∀ o, p.prev = some o → ∃ z ∈ s.allPkts, z.id = o ∧ precedes (s.qslot d slot) lane z) ∧
  ((∃ z ∈ s.allPkts, precedes (s.qslot d slot) lane z) → p.prev ≠ none) ∧ p.lane = lane ∧ p.idx = idx ∧ p.desc = (s.qslot d slot).desc ∧
  p.qcfg = (s.qslot d slot).qcfg ∧ p.tdaddr = (s.qslot d slot).tdaddr ∧ p.raw = raw ∧
  (∀ i, i < 4 → p.met[i]? = some (decide (recNum raw 2 1 ≤ i))) ∧ (packetRefused raw → p.st = .completed ∧ p.status = 15) ∧
  (¬ packetRefused raw → p.st = .waiting)

theorem State.takenPkt_took (s : State) (d slot : Nat) (lane : Bool) (raw : List Byte) :
    tookPacket s d slot lane raw (if lane then 2 ^ 32 - 1 else (s.qslot d slot).rdidx) (s.takenPkt d slot lane false raw) := by
  refine ⟨rfl, rfl, rfl, fun o ho => ?_, fun ⟨z, hz, hb⟩ hnone => ?_, rfl, rfl, rfl, rfl, rfl, rfl, fun i hi => ?_, fun hr => ?_, fun hr => ?_⟩
  · obtain ⟨z, hz, rfl⟩ := Option.map_eq_some_iff.1 ho
    obtain ⟨hmem, hb⟩ := State.lastOf_eq_some hz
    exact ⟨z, hmem, rfl, hb⟩
  · exact State.lastOf_eq_none (Option.map_eq_none_iff.1 hnone) z hz hb
  · simp [State.takenPkt, span_eq_range', hi, pktNdep]
  · simp [State.takenPkt, (packetBad_iff raw).2 hr]
  · simp [State.takenPkt, (packetBad_eq_false raw).2 hr]

/-! Taking. -/

section
variable {s : State} {d slot : Nat}

theorem State.laneReady_iff : s.laneReady d slot = true ↔
    (s.qslot d slot).st = .mapped ∧ (s.qslot d slot).lane ≠ [] ∧ s.lastStarted d slot true = true := by
  simp [State.laneReady, and_assoc]

theorem State.mayTake_queue_iff : s.mayTake d slot false = true ↔
    (s.qslot d slot).st = .mapped ∧ (s.qslot d slot).rdidx ≠ (s.qslot d slot).wridx ∧ s.lastStarted d slot false = true ∧
      s.laneReady d slot = false := by
  simp [State.mayTake, and_assoc]

theorem exec_packetTake_not {lane : Bool} (h : ¬ s.mayTake d slot lane = true) : exec (.packetTake d slot lane) s = .next s := by
  simp only [exec_packetTake, execPacketTake, State.takePacket, Bool.eq_false_iff.2 h, Bool.not_false, if_true]

theorem exec_packetTake_unmapped (h : (s.qslot d slot).st ≠ .mapped) (lane : Bool) : exec (.packetTake d slot lane) s = .next s := by
  refine exec_packetTake_not fun hm => ?_
  cases lane with
  | true => exact h (State.laneReady_iff.1 hm).1
  | false => exact h (State.mayTake_queue_iff.1 hm).1

theorem exec_packetTake_emptyLane (h : (s.qslot d slot).lane = []) : exec (.packetTake d slot true) s = .next s :=
  exec_packetTake_not fun hm => (State.laneReady_iff.1 hm).2.1 h

theorem exec_packetTake_emptyQueue (h : (s.qslot d slot).rdidx = (s.qslot d slot).wridx) : exec (.packetTake d slot false) s = .next s :=
  exec_packetTake_not fun hm => (State.mayTake_queue_iff.1 hm).2.1 h

theorem exec_packetTake_laneFirst (h : s.laneReady d slot = true) : exec (.packetTake d slot false) s = .next s :=
  exec_packetTake_not fun hm => Bool.false_ne_true ((State.mayTake_queue_iff.1 hm).2.2.2.symm.trans h)

theorem exec_packetTake_lane {raw : List Byte} {l : List (List Byte)} (h : s.laneReady d slot = true) (hl : (s.qslot d slot).lane = raw :: l) :
    exec (.packetTake d slot true) s =
      .next (s.pushPkts d slot [s.takenPkt d slot true false raw] { s.qslot d slot with lane := l, lastLane := some s.nextId } 1) := by
  have hmay : s.mayTake d slot true = true := h
  simp only [exec_packetTake, execPacketTake, State.takePacket, hmay, hl, Bool.not_true, Bool.false_and, Bool.false_eq_true, if_false, if_true,
    State.fresh_push_modSlot]
  rfl

/-- The bytes of the next packet of a slot's queue, as far as they can be read. -/
def State.nextRaw (s : State) (d slot : Nat) : List Byte :=
  if s.errorLine ((s.qslot d slot).next / 128) then List.replicate 128 0#8 else s.homeBytes (s.qslot d slot).next 128

theorem exec_packetTake_queue (h : s.mayTake d slot false = true) : exec (.packetTake d slot false) s =
    .next ((s.pushPkts d slot [s.takenPkt d slot false (s.errorLine ((s.qslot d slot).next / 128)) (s.nextRaw d slot)]
      { s.qslot d slot with rdidx := ((s.qslot d slot).rdidx + 1) % 2 ^ 32 } 1).homeWrite none
        (cellsFrom ((s.qslot d slot).desc + 0x10) (bytesOfNum 8 (((s.qslot d slot).rdidx + 1) % 2 ^ 32)))) := by
  simp only [exec_packetTake, execPacketTake, State.takePacket, h, Bool.not_true, Bool.not_false, Bool.true_and, Bool.false_eq_true, if_false,
    State.fresh_push_modSlot]
  rfl

theorem answers_packetTake_lane {raw : List Byte} {l : List (List Byte)} (hst : (s.qslot d slot).st = .mapped)
    (hl : (s.qslot d slot).lane = raw :: l) (hset : ∀ p ∈ s.allPkts, precedes (s.qslot d slot) true p → p.st ≠ .waiting) :
    answers (.packetTake d slot true) s fun u =>
      (∃ p : DPkt, (u.disp d).pkts = (s.disp d).pkts ++ [p] ∧ tookPacket s d slot true raw (2 ^ 32 - 1) p) ∧
      u.qslot d slot = { s.qslot d slot with lane := l, lastLane := some s.nextId } ∧ bytesKept s u := by
  have hready : s.laneReady d slot = true := State.laneReady_iff.2 ⟨hst, by simp [hl], State.lastStarted_of_settled hset⟩
  exact ⟨_, exec_packetTake_lane hready hl, ⟨_, State.pushPkts_pkts .., State.takenPkt_took ..⟩, State.pushPkts_qslot .., State.pushPkts_bytes ..⟩

theorem answers_packetTake_queue (hok : memoryOk s) (h : s.mayTake d slot false = true) :
    answers (.packetTake d slot false) s fun u =>
      (s.errorLine ((s.qslot d slot).next / 128) ≠ true → ∃ p : DPkt, (u.disp d).pkts = (s.disp d).pkts ++ [p] ∧
        tookPacket s d slot false (s.homeBytes (s.qslot d slot).next 128) (s.qslot d slot).rdidx p) ∧
      (s.errorLine ((s.qslot d slot).next / 128) = true → ∃ p : DPkt, (u.disp d).pkts = (s.disp d).pkts ++ [p] ∧ p.idx = (s.qslot d slot).rdidx ∧
        p.st = .completed ∧ p.status = 11) ∧
      u.qslot d slot = { s.qslot d slot with rdidx := ((s.qslot d slot).rdidx + 1) % 2 ^ 32 } ∧
      u.homeNum ((s.qslot d slot).desc + 0x10) 8 = ((s.qslot d slot).rdidx + 1) % 2 ^ 32 := by
  refine ⟨_, exec_packetTake_queue h, fun hread => ?_, fun hlost => ?_, ?_, ?_⟩
  · have hread' := Bool.eq_false_iff.2 hread
    refine ⟨_, (congrArg Disp.pkts (State.disp_congr (State.homeWrite_disps ..) d)).trans (State.pushPkts_pkts ..), ?_⟩
    rw [State.nextRaw, hread', if_neg Bool.false_ne_true]
    exact State.takenPkt_took ..
  · refine ⟨_, (congrArg Disp.pkts (State.disp_congr (State.homeWrite_disps ..) d)).trans (State.pushPkts_pkts ..), rfl, ?_, ?_⟩ <;>
      rw [hlost] <;> rfl
  · exact (State.qslot_congr (State.homeWrite_disps ..) ..).trans (State.pushPkts_qslot ..)
  · have hok' : memoryOk (s.pushPkts d slot [s.takenPkt d slot false (s.errorLine ((s.qslot d slot).next / 128)) (s.nextRaw d slot)]
        { s.qslot d slot with rdidx := ((s.qslot d slot).rdidx + 1) % 2 ^ 32 } 1) := memoryOk_same hok rfl rfl
    rw [State.homeNum_homeWrite hok']
    omega

end

end Sys2Proof.Machine
end

section
/-! PROOF. Packets whose dependences are met start, and packets that complete are recorded and gone (R158 to R160). -/

namespace Sys2Proof.Machine

open Sys2Proof

/-! A packet that changes. -/

theorem State.pkt_id {s : State} {d id : Nat} {p : DPkt} (h : s.pkt d id = some p) : p.id = id := by
  rw [State.pkt, firstWhere_eq_find?] at h
  exact beq_iff_eq.1 (List.find?_some h :)

theorem State.modPkt_pkt {s : State} {d id : Nat} {p : DPkt} {f : DPkt → DPkt} (h : s.pkt d id = some p) (hf : (f p).id = p.id) :
    (s.modPkt d id f).pkt d id = some (f p) := by
  simp only [State.modPkt, State.pkt, State.disp_modDisp_same]
  exact firstWhere_modFirst h (beq_iff_eq.2 (hf.trans (State.pkt_id h)))

theorem dropFirst_eq_eraseP {α : Type} (p : α → Bool) (l : List α) : dropFirst p l = l.eraseP p := by
  induction l with
  | nil => rfl
  | cons a l ih => cases h : p a <;> simp [dropFirst, h, ih]

/-! A read that meets an error (R136). -/

theorem State.dispError_clean {s : State} {a n : Nat} (h : ∀ k ∈ sectorsOf a n, s.cleanCopy k = true) :
    s.dispError a n = (true, ((sectorsOf a n).foldl State.homeDrop s).countError (a / 2 ^ 41) 1) := if_pos (List.all_eq_true.2 h)

theorem State.dispError_lost {s : State} {a n : Nat} (h : ∃ k ∈ sectorsOf a n, s.cleanCopy k = false) :
    s.dispError a n = (false, s.countError (a / 2 ^ 41) 3) := if_neg (by simpa [List.all_eq_true] using h)

/-! Dependences (R159). -/

/-- The word x that dependence i names meets it. -/
def depMeets (raw : List Byte) (i x : Nat) : Prop :=
  (recNum raw (16 + 16 * i) 8 / 2 ^ 60 = 1 ∧ recNum raw (24 + 16 * i) 8 ≤ x) ∨
  (recNum raw (16 + 16 * i) 8 / 2 ^ 60 = 2 ∧ x / 2 ^ 63 % 2 = recNum raw (24 + 16 * i) 8 % 2) ∨
  (recNum raw (16 + 16 * i) 8 / 2 ^ 60 = 3 ∧ recNum raw (24 + 16 * i) 8 % 2 ^ 16 ≤ x % 2 ^ 16)

/-- The word that dependence i names, as the dispatcher reads it. -/
def State.depRead (s : State) (raw : List Byte) (i : Nat) : Option Nat := s.dispRead (recNum raw (16 + 16 * i) 8 % 2 ^ 48)

/-- Whether dependence i is met now; none where its read faults. -/
def State.depNow (s : State) (raw : List Byte) (i : Nat) : Option Bool := s.depMet (pktDep raw i).1 (pktDep raw i).2.1 (pktDep raw i).2.2.1

theorem State.depNow_eq_none (s : State) (raw : List Byte) (i : Nat) : s.depNow raw i = none ↔ s.depRead raw i = none := by
  rw [State.depNow, State.depMet, Option.map_eq_none_iff, pktDep_addr, State.depRead]

/-- The dependence of a known kind is met where the word that is read meets it. -/
theorem State.depNow_eq_true (s : State) {raw : List Byte} {i : Nat} (h1 : 1 ≤ recNum raw (16 + 16 * i) 8 / 2 ^ 60)
    (h3 : recNum raw (16 + 16 * i) 8 / 2 ^ 60 ≤ 3) : s.depNow raw i = some true ↔ ∃ x, s.depRead raw i = some x ∧ depMeets raw i x := by
  rw [State.depNow, State.depMet, Option.map_eq_some_iff, pktDep_addr, pktDep_kind]
  refine exists_congr fun x => and_congr_right fun _ => ?_
  unfold depMeets
  generalize recNum raw (16 + 16 * i) 8 / 2 ^ 60 = k at h1 h3 ⊢
  obtain rfl | rfl | rfl : k = 1 ∨ k = 2 ∨ k = 3 := by omega
  all_goals simp [pktDep, fld]

section
variable {s : State} {raw : List Byte}

theorem State.recheck_eq_none {i : Nat} {l : List Bool} : s.recheck raw i l = none ↔ ∃ j, l[j]? = some false ∧ s.depNow raw (i + j) = none := by
  induction l generalizing i with
  | nil => simp [State.recheck]
  | cons b l ih =>
    have hsucc : (∃ j, l[j]? = some false ∧ s.depNow raw (i + 1 + j) = none) ↔
        ∃ j, (b :: l)[j + 1]? = some false ∧ s.depNow raw (i + (j + 1)) = none := by
      simp only [List.getElem?_cons_succ, Nat.add_assoc, Nat.add_comm 1]
    cases b with
    | true =>
      rw [State.recheck, Option.map_eq_none_iff, ih, hsucc]
      refine ⟨fun ⟨j, h⟩ => ⟨j + 1, h⟩, fun ⟨j, h⟩ => ?_⟩
      cases j with
      | zero => cases h.1
      | succ j => exact ⟨j, h⟩
    | false =>
      have hhead : s.recheck raw i (false :: l) = none ↔ s.depNow raw i = none ∨ s.recheck raw (i + 1) l = none := by
        rw [State.recheck]
        unfold State.depNow
        split
        next h => simp [h]
        next b h => simp [h]
      rw [hhead, ih, hsucc]
      constructor
      · rintro (h | ⟨j, h⟩)
        · exact ⟨0, rfl, h⟩
        · exact ⟨j + 1, h⟩
      · rintro ⟨j, h⟩
        cases j with
        | zero => exact Or.inl h.2
        | succ j => exact Or.inr ⟨j, h⟩

theorem State.recheck_eq_some {i : Nat} {l met : List Bool} (h : s.recheck raw i l = some met) :
    met.length = l.length ∧ ∀ j, (l[j]? = some true → met[j]? = some true) ∧ (l[j]? = some false → met[j]? = s.depNow raw (i + j)) := by
  induction l generalizing i met with
  | nil =>
    cases h
    exact ⟨rfl, fun j => ⟨fun h => by simp at h, fun h => by simp at h⟩⟩
  | cons b l ih =>
    have htail : ∃ b' t, met = b' :: t ∧ s.recheck raw (i + 1) l = some t ∧ (b = true → b' = true) ∧ (b = false → some b' = s.depNow raw i) := by
      cases b with
      | true =>
        obtain ⟨t, ht, rfl⟩ := Option.map_eq_some_iff.1 h
        exact ⟨true, t, rfl, ht, fun _ => rfl, nofun⟩
      | false =>
        rw [State.recheck] at h
        split at h
        next => cases h
        next b' hb =>
          obtain ⟨t, ht, rfl⟩ := Option.map_eq_some_iff.1 h
          exact ⟨b', t, rfl, ht, nofun, fun _ => hb.symm⟩
    obtain ⟨b', t, rfl, ht, htrue, hfalse⟩ := htail
    obtain ⟨hlen, hall⟩ := ih ht
    refine ⟨by simp [hlen], fun j => ?_⟩
    cases j with
    | zero =>
      simp only [List.getElem?_cons_zero, Option.some.injEq]
      exact ⟨htrue, hfalse⟩
    | succ j =>
      have hj := hall j
      rwa [Nat.add_assoc, Nat.add_comm 1 j] at hj

/-- The dependences of a packet that are not met are of the kinds that R158 names. -/
def depsKnown (p : DPkt) : Prop :=
  ∀ i, i < 4 → p.met[i]? = some false → 1 ≤ recNum p.raw (16 + 16 * i) 8 / 2 ^ 60 ∧ recNum p.raw (16 + 16 * i) 8 / 2 ^ 60 ≤ 3

/-- Every dependence of a packet that is not met yet is met now. -/
def State.depsMet (s : State) (p : DPkt) : Prop := ∀ i, i < 4 → p.met[i]? = some false → ∃ x, s.depRead p.raw i = some x ∧ depMeets p.raw i x

variable {p : DPkt} {met : List Bool}

theorem State.recheck_of_reads (hlen : p.met.length = 4) (h : ∀ i, i < 4 → p.met[i]? = some false → ∃ x, s.depRead p.raw i = some x) :
    ∃ met, s.recheck p.raw 0 p.met = some met := by
  refine Option.ne_none_iff_exists'.1 fun hnone => ?_
  obtain ⟨j, hj, hn⟩ := State.recheck_eq_none.1 hnone
  obtain ⟨hj4, -⟩ := List.getElem?_eq_some_iff.1 hj
  obtain ⟨x, hx⟩ := h j (hlen ▸ hj4) hj
  rw [Nat.zero_add, State.depNow_eq_none, hx] at hn
  cases hn

/-- What is met once the dependences have been read again. -/
theorem State.recheck_met (hlen : p.met.length = 4) (hk : depsKnown p) (h : s.recheck p.raw 0 p.met = some met) :
    met.length = 4 ∧ ∀ i, i < 4 → (met[i]? = some true ↔ p.met[i]? = some true ∨ ∃ x, s.depRead p.raw i = some x ∧ depMeets p.raw i x) := by
  obtain ⟨hl, hall⟩ := State.recheck_eq_some h
  refine ⟨hl.trans hlen, fun i hi => ?_⟩
  obtain ⟨htrue, hfalse⟩ := hall i
  obtain ⟨b, hb⟩ : ∃ b, p.met[i]? = some b := ⟨_, List.getElem?_eq_getElem (hlen.symm ▸ hi)⟩
  cases b with
  | true => exact iff_of_true (htrue hb) (Or.inl hb)
  | false =>
    obtain ⟨h1, h3⟩ := hk i hi hb
    rw [hfalse hb, Nat.zero_add, s.depNow_eq_true h1 h3, hb]
    simp

theorem State.recheck_all (hlen : p.met.length = 4) (hk : depsKnown p) (h : s.recheck p.raw 0 p.met = some met) :
    (met.all fun b => b) = true ↔ s.depsMet p := by
  obtain ⟨hl, hmet⟩ := State.recheck_met hlen hk h
  have hidx : (met.all fun b => b) = true ↔ ∀ i, i < 4 → met[i]? = some true := by
    rw [List.all_eq_true]
    constructor
    · intro hm i hi
      have hget := List.getElem?_eq_getElem (hl.symm ▸ hi : i < met.length)
      rw [hget, hm _ (List.getElem_mem _)]
    · intro hm b hb
      obtain ⟨i, hi, rfl⟩ := List.getElem_of_mem hb
      exact (List.getElem?_eq_some_iff.1 (hm i (hl ▸ hi))).2
  rw [hidx]
  refine forall₂_congr fun i hi => ?_
  rw [hmet i hi]
  obtain ⟨b, hb⟩ : ∃ b, p.met[i]? = some b := ⟨_, List.getElem?_eq_getElem (hlen.symm ▸ hi)⟩
  cases b <;> simp [hb]

/-! The order of an ORDERED packet (R159). -/

/-- The packet need not wait for the one before it. -/
def State.orderFree (s : State) (p : DPkt) : Prop :=
  recNum p.raw 1 1 % 2 = 0 ∨ p.prev = none ∨ ∃ o, p.prev = some o ∧ ∀ z ∈ s.allPkts, z.id ≠ o

theorem State.orderFree_iff (s : State) (p : DPkt) : (!pktOrdered p.raw || s.prevDone p) = true ↔ s.orderFree p := by
  have hprev : s.prevDone p = true ↔ p.prev = none ∨ ∃ o, p.prev = some o ∧ ∀ z ∈ s.allPkts, z.id ≠ o := by
    unfold State.prevDone
    cases p.prev with
    | none => simp
    | some o =>
      simp only [List.all_eq_true, bne_iff_ne, State.allPkts, List.mem_flatMap, reduceCtorEq, false_or, Option.some.injEq, exists_eq_left']
      exact ⟨fun h z ⟨e, he, hz⟩ => h e he z hz, fun h e he z hz => h z ⟨e, he, hz⟩⟩
  rw [Bool.or_eq_true, Bool.not_eq_true', pktOrdered_eq_false, hprev, State.orderFree]

end

/-! A waiting packet is looked at again (R159). -/

/-- The state with the dependences of a packet read again: met is what is met. -/
def State.rereadPkt (s : State) (d id : Nat) (met : List Bool) : State := s.modPkt d id fun p => { p with met, readBy := s.time + 1000 }

section
variable {s : State} {d id : Nat} {p : DPkt} {met : List Bool}

theorem State.rereadPkt_pkt (hp : s.pkt d id = some p) : (s.rereadPkt d id met).pkt d id = some { p with met, readBy := s.time + 1000 } :=
  State.modPkt_pkt hp rfl

theorem State.rereadPkt_bytes : bytesKept s (s.rereadPkt d id met) := bytesKept_of_parts _ _ rfl rfl rfl

theorem State.recheckPkt_lost (h : s.recheck p.raw 0 p.met = none) : s.recheckPkt d id p = s.finishPkt d id 11 0 := by
  simp only [State.recheckPkt, h]

theorem State.recheckPkt_starts (hlen : p.met.length = 4) (hk : depsKnown p) (h : s.recheck p.raw 0 p.met = some met) (hm : s.depsMet p)
    (ho : s.orderFree p) : s.recheckPkt d id p = (s.rereadPkt d id met).startOf { p with met } := by
  have hgo : (met.all (fun b => b) && (!pktOrdered p.raw || s.prevDone p)) = true := by
    rw [Bool.and_eq_true]
    exact ⟨(State.recheck_all hlen hk h).2 hm, (s.orderFree_iff p).2 ho⟩
  simp only [State.recheckPkt, h]
  rw [if_pos hgo]
  rfl

theorem State.recheckPkt_waits (hlen : p.met.length = 4) (hk : depsKnown p) (h : s.recheck p.raw 0 p.met = some met)
    (hn : ¬ s.depsMet p ∨ ¬ s.orderFree p) : s.recheckPkt d id p = s.rereadPkt d id met := by
  have hno : ¬ (met.all (fun b => b) && (!pktOrdered p.raw || s.prevDone p)) = true := by
    rw [Bool.and_eq_true, State.recheck_all hlen hk h, State.orderFree_iff]
    exact not_and_or.2 hn
  simp only [State.recheckPkt, h]
  rw [if_neg hno]
  rfl

/-! A packet that starts, by its type (R159). -/

theorem State.startOf_launch (h : recNum p.raw 0 1 = 1) : s.startOf p =
    { s.fresh with weaves := tput s.weaves s.nextId (newWeave p s.nextId (.packet p.id) (recNum p.raw 8 8)) } := by
  simp only [State.startOf, pktType, h]

/-- The run of a GRAPH packet as it starts. -/
def startedRun (p : DPkt) (n : Nat) : GRun :=
  { id := n, pkt := p.id, die := p.die, slot := p.slot, lane := p.lane, idx := p.idx, qcfg := p.qcfg, tdaddr := p.tdaddr, base := recNum p.raw 8 8,
    nnodes := recNum p.raw 6 2, insts := [{ id := 0, node := recNum p.raw 4 2 }], cnt := 1 }

theorem State.startOf_graph (h : recNum p.raw 0 1 = 2) : s.startOf p =
    ({ s.fresh with runs := tput s.runs s.nextId (startedRun p s.nextId) } : State).modPkt p.die p.id fun p => { p with st := .started } := by
  simp only [State.startOf, pktType, h]
  rfl

theorem State.startOf_marker (h : recNum p.raw 0 1 = 3) : s.startOf p = s.finishPkt p.die p.id 0 0 := by
  simp only [State.startOf, pktType, h]

section
variable (hp : s.pkt d id = some p) (hst : p.st = .waiting) (hw : ∀ w ∈ s.weaves, w.2.origin ≠ .packet id)
include hp hst hw

theorem exec_dependenceRecheck_waiting : exec (.dependenceRecheck d id false) s = .next (s.recheckPkt d id p) := by
  have hlaunched : s.launched id = false := by
    simpa [State.launched] using fun w x hx => hw (w, x) hx
  simp [execDependenceRecheck, hp, hst, hlaunched]

theorem exec_dependenceRecheck_error {a : Nat} (ha : p.unmet.head? = some a) (hk : ∃ k ∈ sectorsOf a 8, s.cleanCopy k = false) :
    exec (.dependenceRecheck d id true) s = .next ((s.countError (a / 2 ^ 41) 3).finishPkt d id 11 0) := by
  have hlaunched : s.launched id = false := by
    simpa [State.launched] using fun w x hx => hw (w, x) hx
  simp [execDependenceRecheck, hp, hst, hlaunched, ha, State.dispError_lost hk]

section
variable (hdie : p.die = d) (hlen : p.met.length = 4) (hk : depsKnown p) (hm : s.depsMet p) (ho : s.orderFree p)
include hlen hk hm ho

theorem exec_dependenceRecheck_starts : ∃ met, exec (.dependenceRecheck d id false) s = .next ((s.rereadPkt d id met).startOf { p with met }) := by
  obtain ⟨met, hmet⟩ := State.recheck_of_reads hlen fun i hi hf => (hm i hi hf).imp fun _ => And.left
  exact ⟨met, by rw [exec_dependenceRecheck_waiting hp hst hw, State.recheckPkt_starts hlen hk hmet hm ho]⟩

include hdie

theorem answers_recheck_launch (hty : recNum p.raw 0 1 = 1) : answers (.dependenceRecheck d id false) s fun u =>
    u.runs = s.runs ∧ ∃ w, u.weaves = tput s.weaves s.nextId w ∧ w.id = s.nextId ∧ w.st = .waiting ∧ w.origin = .packet id ∧
      w.recAddr = recNum p.raw 8 8 ∧ w.die = d ∧ w.slot = p.slot ∧ w.lane = p.lane ∧ w.ctx = p.qcfg.toNat / 2 ^ 48 ∧
      w.prio = p.qcfg.toNat / 2 ^ 38 % 4 ∧ (w.sys = true ↔ p.qcfg.toNat / 2 ^ 37 % 2 = 1) := by
  obtain ⟨met, he⟩ := exec_dependenceRecheck_starts hp hst hw hlen hk hm ho
  have hid := State.pkt_id hp
  refine ⟨_, he, ?_⟩
  rw [State.startOf_launch (p := { p with met }) hty]
  exact ⟨rfl, _, rfl, rfl, rfl, congrArg Origin.packet hid, rfl, hdie, rfl, rfl, bits_top rfl, rfl, beq_iff_eq⟩

theorem answers_recheck_graph (hty : recNum p.raw 0 1 = 2) : answers (.dependenceRecheck d id false) s fun u =>
    u.weaves = s.weaves ∧ (∃ p', u.pkt d id = some p' ∧ p'.st = .started) ∧
      ∃ r, u.runs = tput s.runs s.nextId r ∧ r.id = s.nextId ∧ r.pkt = id ∧ r.die = d ∧ r.base = recNum p.raw 8 8 ∧ r.nnodes = recNum p.raw 6 2 ∧
        r.joins = [] ∧ r.insts.map (fun i => (i.node, i.st)) = [(recNum p.raw 4 2, .ready)] := by
  obtain ⟨met, he⟩ := exec_dependenceRecheck_starts hp hst hw hlen hk hm ho
  have hid := State.pkt_id hp
  subst hdie hid
  refine ⟨_, he, ?_⟩
  rw [State.startOf_graph (p := { p with met }) hty]
  refine ⟨rfl, ⟨_, State.modPkt_pkt (s := { (s.rereadPkt p.die p.id met).fresh with runs := _ }) (State.rereadPkt_pkt hp) rfl, rfl⟩, ?_⟩
  exact ⟨startedRun { p with met } s.nextId, rfl, rfl, rfl, rfl, rfl, rfl, rfl, rfl⟩

theorem answers_recheck_marker (hty : recNum p.raw 0 1 = 3) : answers (.dependenceRecheck d id false) s fun u =>
    u.weaves = s.weaves ∧ u.runs = s.runs ∧ ∃ p', u.pkt d id = some p' ∧ p'.st = .completed ∧ p'.status = 0 ∧ p'.detail = 0 := by
  obtain ⟨met, he⟩ := exec_dependenceRecheck_starts hp hst hw hlen hk hm ho
  have hid := State.pkt_id hp
  subst hdie hid
  refine ⟨_, he, ?_⟩
  rw [State.startOf_marker (p := { p with met }) hty]
  exact ⟨rfl, rfl, _, State.finishPkt_pkt 0 0 (State.rereadPkt_pkt hp), rfl, rfl, rfl⟩

end

theorem answers_recheck_waits (hlen : p.met.length = 4) (hk : depsKnown p)
    (hr : ∀ i, i < 4 → p.met[i]? = some false → ∃ x, s.depRead p.raw i = some x) (hn : ¬ s.depsMet p ∨ ¬ s.orderFree p) :
    answers (.dependenceRecheck d id false) s fun u => u.weaves = s.weaves ∧ u.runs = s.runs ∧ bytesKept s u ∧
      ∃ p', u.pkt d id = some p' ∧ p' = { p with met := p'.met, readBy := s.time + 1000 } ∧ p'.met.length = 4 ∧
        ∀ i, i < 4 → (p'.met[i]? = some true ↔ p.met[i]? = some true ∨ ∃ x, s.depRead p.raw i = some x ∧ depMeets p.raw i x) := by
  obtain ⟨met, hmet⟩ := State.recheck_of_reads hlen hr
  obtain ⟨hl, hiff⟩ := State.recheck_met hlen hk hmet
  refine ⟨_, exec_dependenceRecheck_waiting hp hst hw, ?_⟩
  rw [State.recheckPkt_waits hlen hk hmet hn]
  exact ⟨rfl, rfl, State.rereadPkt_bytes, _, State.rereadPkt_pkt hp, rfl, hl, hiff⟩

/-- The packet ends with FAULT, and nothing is launched. -/
def packetFaults (s : State) (d id : Nat) (p : DPkt) (u : State) : Prop :=
  u.weaves = s.weaves ∧ u.runs = s.runs ∧ u.pkt d id = some { p with st := .completed, status := 11, detail := 0 }

theorem answers_recheck_lost (h : ∃ i, i < 4 ∧ p.met[i]? = some false ∧ s.depRead p.raw i = none) :
    answers (.dependenceRecheck d id false) s (packetFaults s d id p) := by
  obtain ⟨i, -, hf, hn⟩ := h
  have hlost : s.recheck p.raw 0 p.met = none := State.recheck_eq_none.2 ⟨i, hf, by rwa [Nat.zero_add, State.depNow_eq_none]⟩
  refine ⟨_, exec_dependenceRecheck_waiting hp hst hw, ?_⟩
  rw [State.recheckPkt_lost hlost]
  exact ⟨rfl, rfl, State.finishPkt_pkt 11 0 hp⟩

theorem answers_recheck_error {a : Nat} (ha : p.unmet.head? = some a) (hk : ∃ k ∈ sectorsOf a 8, s.cleanCopy k = false) :
    answers (.dependenceRecheck d id true) s (packetFaults s d id p) :=
  ⟨_, exec_dependenceRecheck_error hp hst hw ha hk, rfl, rfl, State.finishPkt_pkt (s := s.countError (a / 2 ^ 41) 3) 11 0 hp⟩

end

end

end Sys2Proof.Machine
end

section
/-! PROOF. Packets that have completed are recorded, signalled and gone (R158, R160). -/

namespace Sys2Proof.Machine

open Sys2Proof

theorem State.modDisp_homeByte (s : State) (d : Nat) (f : Disp → Disp) (a : Nat) : (s.modDisp d f).homeByte a = s.homeByte a :=
  State.homeByte_congr rfl rfl a

/-- The state with the event of a completed packet signalled, where its completion is recorded. -/
def State.signalled (s : State) (p : DPkt) : State :=
  if pktCpl p.raw ≠ 0 ∧ (pktEvt p.raw).testBit 63 = true then
    s.post (evTarget (pktEvt p.raw)).1 (evTarget (pktEvt p.raw)).2 none (bits p.qcfg 48 16) none
  else s

section
variable (s : State) (p : DPkt)

theorem State.signalled_disps : (s.signalled p).disps = s.disps := by unfold State.signalled; split <;> rfl

theorem State.signalled_bytes : bytesKept s (s.signalled p) := by
  unfold State.signalled
  split
  · exact bytesKept_of_parts _ _ rfl rfl rfl
  · exact bytesKept_refl s

theorem State.signalled_none (h : pktCpl p.raw = 0) : s.signalled p = s := if_neg fun hc => hc.1 h

/-- The signal of a completed packet is under way, for any weave of its context. -/
theorem State.signalled_signal (h : pktCpl p.raw ≠ 0) (hev : pktEvt p.raw / 2 ^ 63 = 1) : ∃ g ∈ (s.signalled p).signals,
    g.core = pktEvt p.raw / 2 ^ 5 % 2 ^ 13 ∧ g.slot = pktEvt p.raw % 2 ^ 5 ∧ g.weave = none ∧ g.ctx = p.qcfg.toNat / 2 ^ 48 ∧ g.acq = none := by
  have hlt : pktEvt p.raw < 2 ^ 64 := recNum_lt ..
  have hbit : (pktEvt p.raw).testBit 63 = true := (testBit_63 hlt).2 (by omega)
  rw [State.signalled, if_pos ⟨h, hbit⟩]
  exact ⟨_, List.mem_append_right _ (List.mem_singleton_self _), rfl, fld_zero .., rfl, bits_top rfl, rfl⟩

end

section
variable {s : State} {d id : Nat} {p : DPkt}

theorem State.writeCompletion_none (h : pktCpl p.raw = 0 ∨ pktCpl p.raw % 16 ≠ 0) : s.writeCompletion p = s := if_pos h

theorem State.writeCompletion_disps : (s.writeCompletion p).disps = s.disps := by
  unfold State.writeCompletion
  dsimp only
  split
  · rfl
  · exact (State.homeWrite_disps ..).trans (State.homeWrite_disps ..)

/-- The completion record: STATUS, and one more in DONE. -/
theorem State.writeCompletion_words (hok : memoryOk s) (h0 : pktCpl p.raw ≠ 0) (h16 : pktCpl p.raw % 16 = 0) :
    (s.writeCompletion p).homeNum (pktCpl p.raw) 8 = (2 ^ 16 * (p.detail % 2 ^ 32) + p.status) % 2 ^ 64 ∧
    (s.writeCompletion p).homeNum (pktCpl p.raw + 8) 8 = (s.homeNum (pktCpl p.raw + 8) 8 + 1) % 2 ^ 64 := by
  rw [State.writeCompletion, if_neg (by omega)]
  have hdone := State.homeNum_homeWrite_apart hok none (a := pktCpl p.raw) (b := pktCpl p.raw + 8) (n := 8)
    (bs := bytesOfNum 8 (2 ^ 16 * (p.detail % 2 ^ 32) + p.status)) (Or.inr (by rw [length_bytesOfNum]))
  constructor
  · rw [State.homeNum_homeWrite_apart (memoryOk_homeWrite hok) none (Or.inl le_rfl), State.homeNum_homeWrite hok]
    rfl
  · rw [State.homeNum_homeWrite (memoryOk_homeWrite hok), hdone]
    rfl

theorem exec_packetComplete_completed (hp : s.pkt d id = some p) (hst : p.st = .completed) : exec (.packetComplete d id) s =
    .next (((s.writeCompletion p).signalled p).modDisp d fun x => { x with pkts := x.pkts.eraseP fun p => p.id == id }) := by
  simp only [exec_packetComplete, execPacketComplete, hp, hst, dropFirst_eq_eraseP]
  rfl

theorem answers_packetComplete (hok : memoryOk s) (hp : s.pkt d id = some p) (hst : p.st = .completed) :
    answers (.packetComplete d id) s fun u =>
      (u.disp d).pkts = (s.disp d).pkts.eraseP (fun x => x.id == id) ∧
      (pktCpl p.raw ≠ 0 → pktCpl p.raw % 16 = 0 →
        u.homeNum (pktCpl p.raw) 8 = (2 ^ 16 * (p.detail % 2 ^ 32) + p.status) % 2 ^ 64 ∧
        u.homeNum (pktCpl p.raw + 8) 8 = (s.homeNum (pktCpl p.raw + 8) 8 + 1) % 2 ^ 64) ∧
      ((pktCpl p.raw = 0 ∨ pktCpl p.raw % 16 ≠ 0) → bytesKept s u) ∧
      (pktCpl p.raw = 0 → u.signals = s.signals) ∧
      (pktCpl p.raw ≠ 0 → pktEvt p.raw / 2 ^ 63 = 1 → ∃ g ∈ u.signals, g.core = pktEvt p.raw / 2 ^ 5 % 2 ^ 13 ∧ g.slot = pktEvt p.raw % 2 ^ 5 ∧
        g.weave = none ∧ g.ctx = p.qcfg.toNat / 2 ^ 48 ∧ g.acq = none) := by
  refine ⟨_, exec_packetComplete_completed hp hst, ?_, fun h0 h16 => ?_, fun h => ?_, fun h => ?_, fun h0 hev => ?_⟩
  · rw [State.disp_modDisp_same, State.disp_congr ((State.signalled_disps ..).trans State.writeCompletion_disps)]
  · obtain ⟨hstatus, hdone⟩ := State.writeCompletion_words (p := p) hok h0 h16
    obtain ⟨hbytes, -⟩ := (s.writeCompletion p).signalled_bytes p
    rw [State.homeNum_congr (State.modDisp_homeByte _ _ _), State.homeNum_congr (State.modDisp_homeByte _ _ _), State.homeNum_congr hbytes,
      State.homeNum_congr hbytes]
    exact ⟨hstatus, hdone⟩
  · rw [State.writeCompletion_none h]
    exact bytesKept_trans (State.signalled_bytes ..) (bytesKept_of_parts _ _ rfl rfl rfl)
  · rw [State.writeCompletion_none (Or.inl h), State.signalled_none _ _ h]
    rfl
  · exact State.signalled_signal _ p h0 hev

end

end Sys2Proof.Machine
end

section
/-! PROOF. The nodes of a task graph act by their kind (R136, R170 to R172). -/

namespace Sys2Proof.Machine

open Sys2Proof

/-! Node records (R170). -/

/-- The record of a node is refused. -/
def nodeRefused (r : GRun) (node : Nat) (bs : List Byte) : Prop :=
  r.nnodes ≤ node ∨ recNum bs 0 1 = 0 ∨ 5 < recNum bs 0 1 ∨ (recNum bs 0 1 = 5 ∧ recNum bs 1 1 = 0) ∨ (recNum bs 0 1 ≠ 5 ∧ recNum bs 1 1 ≠ 0) ∨
    recNum bs 2 6 ≠ 0 ∨ recNum bs 40 24 ≠ 0 ∨ recNum bs 24 8 % 8 ≠ 0 ∨ ((recNum bs 0 1 = 1 ∨ recNum bs 0 1 = 5) ∧ recNum bs 24 8 ≠ 0) ∨
    (recNum bs 0 1 ≠ 1 ∧ recNum bs 32 8 ≠ 0) ∨ ∃ j, j < 8 ∧ recNum bs (8 + 2 * j) 2 ≠ 0xFFFF ∧ r.nnodes ≤ recNum bs (8 + 2 * j) 2

theorem nodeBad_iff (r : GRun) (node : Nat) (bs : List Byte) : nodeBad r node bs = true ↔ nodeRefused r node bs := by
  have hnin : (recNum bs 0 1 == 5) != (recNum bs 1 1 != 0) ↔ (recNum bs 0 1 = 5 ∧ recNum bs 1 1 = 0) ∨ (recNum bs 0 1 ≠ 5 ∧ recNum bs 1 1 ≠ 0) := by
    rw [bne_iff_ne, ne_eq, Bool.eq_iff_iff, beq_iff_eq, bne_iff_ne]
    tauto
  simp only [nodeBad, Bool.or_eq_true, Bool.and_eq_true, hnin, List.any_eq_true, mem_span, Nat.zero_le, true_and, Nat.zero_add, bne_iff_ne, beq_iff_eq,
    decide_eq_true_eq, or_assoc]
  rfl

/-! The starts of a run's nodes (R171, R172). -/

theorem erase_eq_dropFirst {α : Type} [DecidableEq α] {q : α → Bool} {a : α} {l : List α} (ha : q a = true) (h : ∀ x ∈ l, q x = true → x = a) :
    dropFirst q l = l.erase a := by
  rw [dropFirst_eq_eraseP, List.erase_eq_eraseP]
  induction l with
  | nil => rfl
  | cons b l ih =>
    by_cases hb : a = b
    · simp [← hb, ha]
    · have hq : q b = false := Bool.eq_false_iff.2 fun hq => hb (h b List.mem_cons_self hq).symm
      rw [List.eraseP_cons_of_neg (by simp [hq]), List.eraseP_cons_of_neg (by simp [hb]), ih fun x hx => h x (List.mem_cons_of_mem _ hx)]

theorem mem_modFirst {α : Type} {q : α → Bool} (f : α → α) {a : α} {l : List α} (hm : a ∈ l) (ha : q a = true) (h : ∀ x ∈ l, q x = true → x = a) :
    f a ∈ modFirst q f l := by
  induction l with
  | nil => cases hm
  | cons b l ih =>
    by_cases hb : q b = true
    · rw [modFirst, if_pos hb, h b List.mem_cons_self hb]
      exact List.mem_cons_self
    · rw [modFirst, if_neg hb]
      refine List.mem_cons_of_mem _ (ih ?_ fun x hx => h x (List.mem_cons_of_mem _ hx))
      rcases List.mem_cons.1 hm with rfl | hm
      · exact absurd ha hb
      · exact hm

/-- The run without start i of a node, and with these counts of arrivals at its joins. -/
def GRun.without (r : GRun) (i : NodeInst) (joins : Tbl Nat) : GRun := { r with insts := r.insts.erase i, joins }

/-- The run with one more start, of node n. -/
def GRun.started (r : GRun) (n : Nat) : GRun := { r with insts := r.insts ++ [{ id := r.cnt, node := n }], cnt := r.cnt + 1 }

theorem GRun.ready_none (r : GRun) : r.ready [0xFFFF] = r := rfl

theorem GRun.ready_one (r : GRun) {n : Nat} (h : n ≠ 0xFFFF) : r.ready [n] = r.started n := by
  rw [GRun.ready, if_neg h]
  rfl

/-! What a visit to a node leaves (R136, R151, R186). -/

/-- Nothing that a run turns on differs between s and v. -/
def runsKept (s v : State) : Prop := v.runs = s.runs ∧ v.weaves = s.weaves ∧ (∀ d id, v.pkt d id = s.pkt d id) ∧ bytesKept s v

theorem State.nodeMiss_runsKept (s : State) (d : Nat) : runsKept s (s.nodeMiss d) := by
  refine ⟨rfl, rfl, fun e id => ?_, bytesKept_of_parts _ _ rfl rfl rfl⟩
  by_cases he : e = d
  · subst he
    simp only [State.nodeMiss, State.pkt, State.disp_modDisp_same]
    rfl
  · rw [State.pkt, State.nodeMiss, State.disp_modDisp_other _ _ he]
    rfl

theorem State.countError_runsKept (s : State) (d ecc : Nat) : runsKept s (s.countError d ecc) :=
  ⟨rfl, rfl, fun _ _ => rfl, bytesKept_of_parts _ _ rfl rfl rfl⟩

theorem runsKept_trans {s u v : State} (h : runsKept s u) (g : runsKept u v) : runsKept s v := by
  obtain ⟨hr, hw, hp, hb⟩ := h
  obtain ⟨gr, gw, gp, gb⟩ := g
  exact ⟨gr.trans hr, gw.trans hw, fun d id => (gp d id).trans (hp d id), bytesKept_trans hb gb⟩

/-! A run that ends, and one that goes on (R172). -/

/-- Run r has ended with a status: its packet p completes, and its weaves that wait are gone. -/
def runEnds (s : State) (run : Nat) (r : GRun) (p : DPkt) (status : Nat) (u : State) : Prop :=
  u.runs = tdel s.runs run ∧ u.pkt r.die r.pkt = some { p with st := .completed, status := status, detail := 0 } ∧ bytesKept s u ∧
    ∀ e ∈ u.weaves, e ∈ s.weaves ∧ ¬ (e.2.st = .waiting ∧ ∃ m, e.2.origin = .node run m)

theorem State.endRunWith_ends {s v : State} {run : Nat} {r r' : GRun} {p : DPkt} (status : Nat) (hv : runsKept s v) (hp : s.pkt r.die r.pkt = some p)
    (hid : r'.id = run) (hdie : r'.die = r.die) (hpkt : r'.pkt = r.pkt) : runEnds s run r p status (v.endRunWith r' status 0) := by
  obtain ⟨hruns, hweaves, hpkts, hbytes⟩ := hv
  have hpv : v.pkt r'.die r'.pkt = some p := by rw [hdie, hpkt, hpkts, hp]
  refine ⟨?_, ?_, bytesKept_trans hbytes (bytesKept_of_parts _ _ rfl rfl rfl), fun e he => ?_⟩
  · rw [← hid, ← hruns]
    rfl
  · rw [← hdie, ← hpkt]
    exact State.finishPkt_pkt (s := { v with runs := _, weaves := _ }) status 0 hpv
  · obtain ⟨hmem, hmine⟩ := List.mem_filter.1 he
    refine ⟨hweaves ▸ hmem, fun ⟨hst, m, ho⟩ => ?_⟩
    simp [ho, hst, hid] at hmine

/-- The run goes on without start i of a node and with the start of node n, where n names one; with none left it ends. -/
def runGoesTo (s : State) (run : Nat) (r : GRun) (p : DPkt) (i : NodeInst) (n : Nat) (joins : Tbl Nat) (u : State) : Prop :=
  (n = 0xFFFF → r.insts.erase i = [] → runEnds s run r p 0 u) ∧
  (n = 0xFFFF → r.insts.erase i ≠ [] → u.runs = tput s.runs run { r with insts := r.insts.erase i, joins := joins } ∧ u.weaves = s.weaves ∧ bytesKept s u) ∧
  (n ≠ 0xFFFF → u.runs = tput s.runs run { r with insts := r.insts.erase i ++ [{ id := r.cnt, node := n }], cnt := r.cnt + 1, joins := joins } ∧
    u.weaves = s.weaves ∧ bytesKept s u)

theorem State.setGraph_done {s : State} {r : GRun} (h : r.insts = []) : s.setGraph r = s.endRunWith r 0 0 := by
  rw [State.setGraph, h]
  rfl

theorem State.setGraph_goesOn {s : State} {r : GRun} (h : r.insts ≠ []) : s.setGraph r = { s with runs := tput s.runs r.id r } := by
  rw [State.setGraph, if_neg (by simpa using h)]

theorem State.setGraph_goesTo {s v : State} {run : Nat} {r : GRun} {p : DPkt} (i : NodeInst) (n : Nat) (joins : Tbl Nat) (hv : runsKept s v)
    (hp : s.pkt r.die r.pkt = some p) (hid : r.id = run) : runGoesTo s run r p i n joins (v.setGraph ((r.without i joins).ready [n])) := by
  obtain ⟨hruns, hweaves, hpkts, hbytes⟩ := hv
  have goes {r' : GRun} (hid' : r'.id = run) (hne : r'.insts ≠ []) :
      (v.setGraph r').runs = tput s.runs run r' ∧ (v.setGraph r').weaves = s.weaves ∧ bytesKept s (v.setGraph r') := by
    rw [State.setGraph_goesOn hne, hid', ← hruns]
    exact ⟨rfl, hweaves, bytesKept_trans hbytes (bytesKept_of_parts _ _ rfl rfl rfl)⟩
  refine ⟨?_, ?_, fun hn => ?_⟩
  · rintro rfl hleft
    rw [GRun.ready_none, State.setGraph_done hleft]
    exact State.endRunWith_ends 0 ⟨hruns, hweaves, hpkts, hbytes⟩ hp hid rfl rfl
  · rintro rfl hleft
    rw [GRun.ready_none]
    exact goes hid hleft
  · rw [GRun.ready_one _ hn]
    exact goes hid (by simp [GRun.started])

/-! A node that is ready (R171). -/

theorem chosen_switch {k : Nat} (h : k = 4) (v : Nat) (bs : List Byte) :
    chosen k v bs = if v < 7 ∧ nodeNext bs v ≠ 0xFFFF then nodeNext bs v else nodeNext bs 7 := if_pos h

theorem chosen_branch {k : Nat} (h : k ≠ 4) (v : Nat) (bs : List Byte) : chosen k v bs = if v ≠ 0 then nodeNext bs 0 else nodeNext bs 1 := by
  rw [chosen, if_neg h]
  split <;> rfl

section
variable {s : State} {run inst : Nat} {r : GRun} {i : NodeInst}

theorem ready_start (hi : r.insts.find? (fun x => x.id == inst && x.st == .ready) = some i) : i ∈ r.insts ∧ i.id = inst := by
  have hprop := List.find?_some hi
  exact ⟨List.mem_of_find?_eq_some hi, beq_iff_eq.1 (Bool.and_eq_true_iff.1 hprop).1⟩

theorem GRun.drop_eq (hone : ∀ x ∈ r.insts, x.id = i.id → x = i) (joins : Tbl Nat) : { r.drop i.id with joins } = r.without i joins := by
  rw [GRun.drop, erase_eq_dropFirst (a := i) (beq_self_eq_true i.id) fun x hx he => hone x hx (beq_iff_eq.1 he)]
  rfl

/-- The record of node n of a run. -/
def State.nodeBytes (s : State) (r : GRun) (n : Nat) : List Byte := s.homeBytes (r.base + 64 * n) 64

theorem exec_graphNodeReady_acts (hr : tfind s.runs run = some r) (hi : r.insts.find? (fun x => x.id == inst && x.st == .ready) = some i) :
    exec (.graphNodeReady run inst false) s = s.nodeActs r i := by
  simp only [exec_graphNodeReady, execGraphNodeReady, hr, firstWhere_eq_find?, hi]
  rfl

/-- The run with start i active on the record bs of its node. -/
def GRun.activated (r : GRun) (i : NodeInst) (bs : List Byte) : GRun :=
  { r with insts := modFirst (fun x => x.id == i.id) (fun x => { x with st := .active, next := (span 0 8).map (nodeNext bs) }) r.insts }

theorem GRun.activated_mem (hm : i ∈ r.insts) (hone : ∀ x ∈ r.insts, x.id = i.id → x = i) (bs : List Byte) :
    ({ i with st := .active, next := (List.range 8).map (nodeNext bs) } : NodeInst) ∈ (r.activated i bs).insts := by
  rw [List.range_eq_range', ← span_eq_range']
  exact mem_modFirst (fun x : NodeInst => { x with st := .active, next := (span 0 8).map (nodeNext bs) }) hm (beq_self_eq_true i.id)
    fun x hx he => hone x hx (beq_iff_eq.1 he)

theorem State.nodeActs_unread (h : s.errorLine ((r.base + 64 * i.node) / 128) = true) :
    s.nodeActs r i = .next ((s.nodeMiss r.die).endRunWith r 11 0) := by
  simp only [State.nodeActs, h, if_true]

section
variable (hread : s.errorLine ((r.base + 64 * i.node) / 128) = false)
include hread

theorem State.nodeActs_refused (hbad : nodeRefused r i.node (s.nodeBytes r i.node)) :
    s.nodeActs r i = .next ((s.nodeMiss r.die).endRunWith r 13 0) := by
  have hbad' : nodeBad r i.node (s.homeBytes (r.base + 64 * i.node) 64) = true := (nodeBad_iff ..).2 hbad
  simp only [State.nodeActs, hread, Bool.false_eq_true, if_false, hbad', if_true]

variable (hgood : ¬ nodeRefused r i.node (s.nodeBytes r i.node))
include hgood

theorem State.nodeActs_weave (hk : recNum (s.nodeBytes r i.node) 0 1 = 1) : s.nodeActs r i =
    .next { (s.nodeMiss r.die).fresh with
      weaves := tput s.weaves s.nextId (graphWeave r s.nextId i.id (recNum (s.nodeBytes r i.node) 32 8)),
      runs := tput s.runs r.id (r.activated i (s.nodeBytes r i.node)) } := by
  have hgood' : ¬ nodeBad r i.node (s.homeBytes (r.base + 64 * i.node) 64) = true := mt (nodeBad_iff ..).1 hgood
  have hk' : recNum (s.homeBytes (r.base + 64 * i.node) 64) 0 1 = 1 := hk
  simp only [State.nodeActs, hread, Bool.false_eq_true, if_false, if_neg hgood', hk']
  rfl

/-- A join that waits for further arrivals. -/
theorem State.nodeActs_join_waits (hone : ∀ x ∈ r.insts, x.id = i.id → x = i) (hk : recNum (s.nodeBytes r i.node) 0 1 = 5)
    (hn : tget 0 r.joins i.node + 1 < recNum (s.nodeBytes r i.node) 1 1) :
    s.nodeActs r i = .next ((s.nodeMiss r.die).setGraph ((r.without i (tput r.joins i.node (tget 0 r.joins i.node + 1))).ready [0xFFFF])) := by
  have hgood' : ¬ nodeBad r i.node (s.homeBytes (r.base + 64 * i.node) 64) = true := mt (nodeBad_iff ..).1 hgood
  unfold State.nodeBytes at hk hn
  simp only [State.nodeActs, hread, Bool.false_eq_true, if_false, if_neg hgood', hk, if_neg (Nat.not_le.2 hn), GRun.drop_eq hone]
  rfl

/-- A join that all arrivals have reached. -/
theorem State.nodeActs_join_starts (hone : ∀ x ∈ r.insts, x.id = i.id → x = i) (hk : recNum (s.nodeBytes r i.node) 0 1 = 5)
    (hn : recNum (s.nodeBytes r i.node) 1 1 ≤ tget 0 r.joins i.node + 1) :
    s.nodeActs r i = .next ((s.nodeMiss r.die).setGraph
      ((r.without i (tput r.joins i.node (tget 0 r.joins i.node + 1 - recNum (s.nodeBytes r i.node) 1 1))).ready
        [recNum (s.nodeBytes r i.node) 8 2])) := by
  have hgood' : ¬ nodeBad r i.node (s.homeBytes (r.base + 64 * i.node) 64) = true := mt (nodeBad_iff ..).1 hgood
  unfold State.nodeBytes at hk hn ⊢
  simp only [State.nodeActs, hread, Bool.false_eq_true, if_false, if_neg hgood', hk, if_pos hn, GRun.drop_eq hone]
  rfl

section
variable (h2 : 2 ≤ recNum (s.nodeBytes r i.node) 0 1) (h4 : recNum (s.nodeBytes r i.node) 0 1 ≤ 4)
include h2 h4

theorem State.nodeActs_conditionLost (hc : s.dispRead (recNum (s.nodeBytes r i.node) 24 8) = none) :
    s.nodeActs r i = .next ((s.nodeMiss r.die).endRunWith r 11 0) := by
  have hgood' : ¬ nodeBad r i.node (s.homeBytes (r.base + 64 * i.node) 64) = true := mt (nodeBad_iff ..).1 hgood
  unfold State.nodeBytes at h2 h4 hc
  obtain hk | hk | hk : recNum (s.homeBytes (r.base + 64 * i.node) 64) 0 1 = 2 ∨ recNum (s.homeBytes (r.base + 64 * i.node) 64) 0 1 = 3 ∨
      recNum (s.homeBytes (r.base + 64 * i.node) 64) 0 1 = 4 := by omega
  all_goals simp only [State.nodeActs, hread, Bool.false_eq_true, if_false, if_neg hgood', hk, hc]

/-- The condition word of an if, a while or a switch chooses its successor. -/
theorem State.nodeActs_condition (hone : ∀ x ∈ r.insts, x.id = i.id → x = i) {v : Nat}
    (hc : s.dispRead (recNum (s.nodeBytes r i.node) 24 8) = some v) : s.nodeActs r i = .next ((s.nodeMiss r.die).setGraph
      ((r.without i r.joins).ready [chosen (recNum (s.nodeBytes r i.node) 0 1) v (s.nodeBytes r i.node)])) := by
  have hgood' : ¬ nodeBad r i.node (s.homeBytes (r.base + 64 * i.node) 64) = true := mt (nodeBad_iff ..).1 hgood
  have hdrop : r.drop i.id = r.without i r.joins := GRun.drop_eq hone r.joins
  unfold State.nodeBytes at h2 h4 hc ⊢
  obtain hk | hk | hk : recNum (s.homeBytes (r.base + 64 * i.node) 64) 0 1 = 2 ∨ recNum (s.homeBytes (r.base + 64 * i.node) 64) 0 1 = 3 ∨
      recNum (s.homeBytes (r.base + 64 * i.node) 64) 0 1 = 4 := by omega
  all_goals simp only [State.nodeActs, hread, Bool.false_eq_true, if_false, if_neg hgood', hk, hc, hdrop]

end

end

/-! A read that meets an error anew (R136). -/

/-- Where the reads of a node meet an error: its address and its bytes. -/
def State.nodeErrs (s : State) (r : GRun) (n : Nat) : Nat × Nat :=
  if 2 ≤ recNum (s.nodeBytes r n) 0 1 ∧ recNum (s.nodeBytes r n) 0 1 ≤ 4 ∧ inHbm (recNum (s.nodeBytes r n) 24 8) = true then
    (recNum (s.nodeBytes r n) 24 8, 8)
  else (r.base + 64 * n, 64)

theorem State.errorPlace_eq (s : State) (r : GRun) (n : Nat) : errorPlace (r.base + 64 * n) (s.nodeBytes r n) = s.nodeErrs r n := by
  have hkind : recNum (s.nodeBytes r n) 0 1 ∈ [2, 3, 4] ↔ 2 ≤ recNum (s.nodeBytes r n) 0 1 ∧ recNum (s.nodeBytes r n) 0 1 ≤ 4 := by
    simp only [List.mem_cons, List.not_mem_nil, or_false]
    omega
  simp only [errorPlace, State.nodeErrs, hkind, and_assoc]

section
variable (hr : tfind s.runs run = some r) (hi : r.insts.find? (fun x => x.id == inst && x.st == .ready) = some i)
include hr hi

/-- A visit with an error is decided by the copies at the homes that it meets. -/
theorem exec_graphNodeReady_error : exec (.graphNodeReady run inst true) s =
    if (s.dispError (s.nodeErrs r i.node).1 (s.nodeErrs r i.node).2).1 then
      (s.dispError (s.nodeErrs r i.node).1 (s.nodeErrs r i.node).2).2.nodeActs r i
    else .next (((s.dispError (s.nodeErrs r i.node).1 (s.nodeErrs r i.node).2).2.nodeMiss r.die).endRunWith r 11 0) := by
  rw [← State.errorPlace_eq]
  simp only [exec_graphNodeReady, execGraphNodeReady, hr, firstWhere_eq_find?, hi]
  rfl

theorem exec_graphNodeReady_clean (hk : ∀ k ∈ sectorsOf (s.nodeErrs r i.node).1 (s.nodeErrs r i.node).2, s.cleanCopy k = true) :
    exec (.graphNodeReady run inst true) s = exec (.graphNodeReady run inst false)
      (((sectorsOf (s.nodeErrs r i.node).1 (s.nodeErrs r i.node).2).foldl State.homeDrop s).countError ((s.nodeErrs r i.node).1 / 2 ^ 41) 1) := by
  have hruns : ((sectorsOf (s.nodeErrs r i.node).1 (s.nodeErrs r i.node).2).foldl State.homeDrop s).runs = s.runs :=
    foldl_keeps State.runs State.homeDrop (fun _ _ => rfl) _ s
  rw [exec_graphNodeReady_error hr hi, State.dispError_clean hk, if_pos rfl]
  generalize (sectorsOf (s.nodeErrs r i.node).1 (s.nodeErrs r i.node).2).foldl State.homeDrop s = v at hruns ⊢
  exact (exec_graphNodeReady_acts (s := v.countError _ 1) (by rw [← hr, ← hruns]; rfl) hi).symm

variable {p : DPkt} (hid : r.id = run) (hp : s.pkt r.die r.pkt = some p)
include hid hp

theorem answers_graphNode_error (hk : ∃ k ∈ sectorsOf (s.nodeErrs r i.node).1 (s.nodeErrs r i.node).2, s.cleanCopy k = false) :
    answers (.graphNodeReady run inst true) s (runEnds s run r p 11) := by
  refine ⟨_, ?_, State.endRunWith_ends 11 (runsKept_trans (State.countError_runsKept s ((s.nodeErrs r i.node).1 / 2 ^ 41) 3)
    (State.nodeMiss_runsKept _ r.die)) hp hid rfl rfl⟩
  rw [exec_graphNodeReady_error hr hi, State.dispError_lost hk]
  rfl

/-! What a visit does (R170 to R172). -/

theorem answers_graphNode_unread (h : s.errorLine ((r.base + 64 * i.node) / 128) = true) :
    answers (.graphNodeReady run inst false) s (runEnds s run r p 11) :=
  ⟨_, (exec_graphNodeReady_acts hr hi).trans (State.nodeActs_unread h), State.endRunWith_ends 11 (s.nodeMiss_runsKept r.die) hp hid rfl rfl⟩

variable (hread : s.errorLine ((r.base + 64 * i.node) / 128) = false)
include hread

theorem answers_graphNode_refused (h : nodeRefused r i.node (s.nodeBytes r i.node)) :
    answers (.graphNodeReady run inst false) s (runEnds s run r p 13) :=
  ⟨_, (exec_graphNodeReady_acts hr hi).trans (State.nodeActs_refused hread h), State.endRunWith_ends 13 (s.nodeMiss_runsKept r.die) hp hid rfl rfl⟩

variable (hgood : ¬ nodeRefused r i.node (s.nodeBytes r i.node))
include hgood

theorem answers_graphNode_conditionLost (h2 : 2 ≤ recNum (s.nodeBytes r i.node) 0 1) (h4 : recNum (s.nodeBytes r i.node) 0 1 ≤ 4)
    (hc : s.dispRead (recNum (s.nodeBytes r i.node) 24 8) = none) : answers (.graphNodeReady run inst false) s (runEnds s run r p 11) :=
  ⟨_, (exec_graphNodeReady_acts hr hi).trans (State.nodeActs_conditionLost hread hgood h2 h4 hc),
    State.endRunWith_ends 11 (s.nodeMiss_runsKept r.die) hp hid rfl rfl⟩

variable (hone : ∀ x ∈ r.insts, x.id = inst → x = i)
include hone

omit hp in
theorem answers_graphNode_weave (hk : recNum (s.nodeBytes r i.node) 0 1 = 1) : answers (.graphNodeReady run inst false) s fun u =>
    bytesKept s u ∧
    (∃ w, u.weaves = tput s.weaves s.nextId w ∧ w.id = s.nextId ∧ w.st = .waiting ∧ w.origin = .node run inst ∧
      w.recAddr = recNum (s.nodeBytes r i.node) 32 8 ∧ w.die = r.die ∧ w.slot = r.slot ∧ w.lane = r.lane ∧ w.ctx = r.qcfg.toNat / 2 ^ 48 ∧
      w.prio = r.qcfg.toNat / 2 ^ 38 % 4) ∧
    ∃ r', u.runs = tput s.runs run r' ∧ r' = { r with insts := r'.insts } ∧
      ({ i with st := .active, next := (List.range 8).map (nodeNext (s.nodeBytes r i.node)) } : NodeInst) ∈ r'.insts := by
  obtain ⟨hm, rfl⟩ := ready_start hi
  subst hid
  exact ⟨_, (exec_graphNodeReady_acts hr hi).trans (State.nodeActs_weave hread hgood hk), bytesKept_of_parts _ _ rfl rfl rfl,
    ⟨_, rfl, rfl, rfl, rfl, rfl, rfl, rfl, rfl, bits_top rfl, rfl⟩, _, rfl, rfl, GRun.activated_mem hm hone _⟩

theorem answers_graphNode_join_waits (hk : recNum (s.nodeBytes r i.node) 0 1 = 5)
    (hn : tget 0 r.joins i.node + 1 < recNum (s.nodeBytes r i.node) 1 1) : answers (.graphNodeReady run inst false) s
      (runGoesTo s run r p i 0xFFFF (tput r.joins i.node (tget 0 r.joins i.node + 1))) := by
  obtain ⟨-, rfl⟩ := ready_start hi
  exact ⟨_, (exec_graphNodeReady_acts hr hi).trans (State.nodeActs_join_waits hread hgood hone hk hn),
    State.setGraph_goesTo i 0xFFFF _ (s.nodeMiss_runsKept r.die) hp hid⟩

theorem answers_graphNode_join_starts (hk : recNum (s.nodeBytes r i.node) 0 1 = 5)
    (hn : recNum (s.nodeBytes r i.node) 1 1 ≤ tget 0 r.joins i.node + 1) : answers (.graphNodeReady run inst false) s
      (runGoesTo s run r p i (recNum (s.nodeBytes r i.node) 8 2)
        (tput r.joins i.node (tget 0 r.joins i.node + 1 - recNum (s.nodeBytes r i.node) 1 1))) := by
  obtain ⟨-, rfl⟩ := ready_start hi
  exact ⟨_, (exec_graphNodeReady_acts hr hi).trans (State.nodeActs_join_starts hread hgood hone hk hn),
    State.setGraph_goesTo i _ _ (s.nodeMiss_runsKept r.die) hp hid⟩

theorem answers_graphNode_condition (h2 : 2 ≤ recNum (s.nodeBytes r i.node) 0 1) (h4 : recNum (s.nodeBytes r i.node) 0 1 ≤ 4) {v n : Nat}
    (hc : s.dispRead (recNum (s.nodeBytes r i.node) 24 8) = some v)
    (hn : chosen (recNum (s.nodeBytes r i.node) 0 1) v (s.nodeBytes r i.node) = n) :
    answers (.graphNodeReady run inst false) s (runGoesTo s run r p i n r.joins) := by
  obtain ⟨-, rfl⟩ := ready_start hi
  subst hn
  exact ⟨_, (exec_graphNodeReady_acts hr hi).trans (State.nodeActs_condition hread hgood h2 h4 hone hc),
    State.setGraph_goesTo i _ _ (s.nodeMiss_runsKept r.die) hp hid⟩

end

end

end Sys2Proof.Machine
end

section
/-! PROOF. Packets and graph nodes act (O49). -/

namespace Sys2Proof.Machine

open Sys2Proof

/-- Settles O49: a packet by its slot, its dependences and its type, its completion record, and a node by the kind of its record. -/
theorem packetsAndGraphNodesAct : Obligations.PacketsAndGraphNodesAct := by
  unfold Obligations.PacketsAndGraphNodesAct
  constructor
  · intro s d slot id hok q f dep refused before all settled unread taken
    refine ⟨exec_packetTake_unmapped, exec_packetTake_emptyLane, exec_packetTake_emptyQueue, ?_, ?_, ?_, ?_, ?_⟩
    · intro raw l hst hl hset
      exact answers_packetTake_lane hst hl hset
    · intro hst hl hset
      exact exec_packetTake_laneFirst (State.laneReady_iff.2 ⟨hst, hl, State.lastStarted_of_settled hset⟩)
    · intro hst hne hset hlane
      have hready : s.laneReady d slot = false := Bool.eq_false_iff.2 fun hr =>
        hlane.elim (State.laneReady_iff.1 hr).2.1 (Bool.eq_false_iff.1 · (State.laneReady_iff.1 hr).2.2)
      exact answers_packetTake_queue hok (State.mayTake_queue_iff.2 ⟨hst, hne, State.lastStarted_of_settled hset, hready⟩)
    · intro p hp hst hdie hid hlen hw reads value meets kinds met free go
      refine ⟨fun hk hm ho => ⟨?_, ?_, ?_⟩, ?_, ?_, ?_⟩
      · exact answers_recheck_launch hp hst hw hdie hlen hk hm ho
      · exact answers_recheck_graph hp hst hw hdie hlen hk hm ho
      · exact answers_recheck_marker hp hst hw hdie hlen hk hm ho
      · exact answers_recheck_waits hp hst hw hlen
      · exact answers_recheck_lost hp hst hw
      · exact fun a => answers_recheck_error hp hst hw
    · intro p hp hst
      exact answers_packetComplete hok hp hst
  · intro s run inst r i p hr hid hi hone hp go bs f kind next bad left ends goesTo unread errs ks
    refine ⟨answers_graphNode_error hr hi hid hp, exec_graphNodeReady_clean hr hi, answers_graphNode_unread hr hi hid hp, fun hn => ?_, fun hn hgood => ?_⟩
    all_goals have hread : s.errorLine ((r.base + 64 * i.node) / 128) = false := Bool.eq_false_iff.2 hn
    · exact answers_graphNode_refused hr hi hid hp hread
    · refine ⟨answers_graphNode_weave hr hi hid hread hgood hone, fun hk => ⟨?_, ?_⟩, fun h2 h4 => ⟨?_, fun v hv => ⟨fun hk => ?_, fun hk => ?_⟩⟩⟩
      · exact answers_graphNode_join_waits hr hi hid hp hread hgood hone hk
      · exact answers_graphNode_join_starts hr hi hid hp hread hgood hone hk
      · exact answers_graphNode_conditionLost hr hi hid hp hread hgood h2 h4
      · exact answers_graphNode_condition hr hi hid hp hread hgood hone h2 h4 hv (chosen_branch hk ..)
      · exact answers_graphNode_condition hr hi hid hp hread hgood hone h2 h4 hv (chosen_switch hk ..)

end Sys2Proof.Machine
end
